-- ==== Sys2Proof/Word.lean ====
section
/-!
DEFINITION. The words and the sparse maps that every layer shares: units' numbers, granules and
key-sorted lists in one canonical form. The operations over sparse maps stand in Machine/Maps.lean.
-/

namespace Sys2Proof

/-- 32 data bytes: the unit of storage and protection (Table 0.4). -/
abbrev Granule := BitVec 256
/-- The 36 symbols of a granule's code word, or an error pattern over them: data byte j is bits
[8j+7:8j], check byte k is bits [256+8k+7:256+8k] (R238, Table 9.1). -/
abbrev CodeWord := BitVec 288
/-- A sparse map: entries with strictly rising keys, and none equal to what an unlisted key reads as. -/
abbrev SMap (α : Type) := List (Nat × α)

/-- Channel number on the module (R10). -/
abbrev Chan := Fin 8
/-- Logical pump of a channel (R12); also its logical slice (R199). -/
abbrev PumpIx := Fin 128
/-- Job slot of a channel (R39, Table 17.2). -/
abbrev SlotIx := Fin 16
/-- Polder of a channel (R12). -/
abbrev PolderIx := Fin 16
/-- Fabric port of a channel (R289). -/
abbrev PortIx := Fin 12
/-- HBM3E stack of a channel (R12). -/
abbrev StackIx := Fin 4
/-- Arbitrated port: 32s + pc for HBM, 128 + port for egress (Table 10.1). -/
abbrev ArbPort := Fin 140
/-- Group slot of a thread engine (Table 6.1). -/
abbrev GSlot := Fin 16
/-- Thread register number (Table 6.1). -/
abbrev TReg := BitVec 6
/-- Channel address: module ID x 8 + channel (R313). -/
abbrev ChanAddr := BitVec 15

end Sys2Proof
end

