-- ==== Sys2Proof/Types.lean ====
section
/-!
DEFINITION. The operand types of the commands: what a flit, a marker, a host command descriptor, a job
image, a firmware image or a sensor sample carries. Where the spec gives no encoding (thread-engine
instructions, command payloads, the job image) the operand is the structure itself (log entry 6).
-/

namespace Sys2Proof

/-- The path of a register access: the BAR0 of a host function, 0 the PF's and n that of VF n, or the management interface (R353, R469). -/
inductive RegPath where
  | fn (n : Nat)
  | mgmt
deriving DecidableEq, Repr

/-- Execution units of a pump, in the order of Table 3.2. -/
inductive RowUnit where
  | multiply | accIn | accOut | broadcast | laneLoad | transfer | kernel
deriving DecidableEq, Repr

/-- Format codes 0x0-0x9 of Table 3.6. -/
inductive Fmt where
  | fp32 | bf16 | fp16 | e4m3 | e5m2 | int8 | b6 | b4 | q4 | int32
deriving DecidableEq, Repr

/-- Read-out targets (Table 8.3 RO_FMT, R119). -/
inductive RoFmt where
  | fp32 | bf16 | fp64
deriving DecidableEq, Repr

/-- Compare conditions of the thread engine's compares (R145; the set is log entry 6's). -/
inductive Cmp where
  | eq | ne | lt | le | gt | ge
deriving DecidableEq, Repr

/-- The two spaces of R156: the pump's own slice, or device virtual addresses. -/
inductive Space where
  | slice | global
deriving DecidableEq, Repr

/-- Request classes of Table 10.2, in order 0-6. -/
inductive ReqClass where
  | urgent | sched | ingress | thread | host | ckpt | scrub
deriving DecidableEq, Repr

/-- A fabric address (R313): channel address and 49-bit local offset (Table 11.9). -/
structure FabAddr where
  chan : ChanAddr
  off  : BitVec 49
deriving DecidableEq, Repr

/-- A frame-done report, own or combined (R34, Table 11.7 DONE; LATE in nanoseconds here). -/
structure Report where
  fault   : Bool
  checked : Bool
  tag     : BitVec 8
  cause   : Fin 7
  late    : Nat
  lateCh  : ChanAddr
deriving DecidableEq, Repr

/-- The flit header fields a receiver reads (Table 11.5). `fecGrans` are the granules of the body in which
the flit code corrected a byte at this hop (R302); `crcOk` is false for a flit that fails R301. -/
structure FlitHdr where
  rset     : BitVec 2
  dest     : ChanAddr
  target   : BitVec 44
  seq      : BitVec 12
  src      : ChanAddr
  fecGrans : List (Fin 16)
  crcOk    : Bool
deriving DecidableEq, Repr

/-- One granule of a global write: where it lies at the home, the bytes it covers, the data and the
23-bit writer key (R217). -/
structure WriteRec where
  off  : BitVec 49
  mask : BitVec 32
  data : Granule
  key  : BitVec 23
deriving DecidableEq, Repr

/-- Atomic operations (R163, R165), and the FP32 add of FATOM (R168). -/
inductive AtomOp where
  | add | min | max | and | or | xor | exch | cas | fadd
deriving DecidableEq, Repr

/-- One global atomic at its home (R165): word offset, 64-bit form or not, operation, operands, whether the old value
is returned. -/
structure AtomicRec where
  off  : BitVec 49
  w64  : Bool
  op   : AtomOp
  val  : BitVec 64
  cmp  : BitVec 64
  key  : BitVec 23
  ret  : Bool
deriving DecidableEq, Repr

/-- Error responses (Table 11.6, TYPE 0x7). -/
inductive RespErr where
  | targetReset | access | unreachable
deriving DecidableEq, Repr

/-- Buffer kinds of R305, and the combining windows of R327 by tree. -/
inductive CreditKind where
  | request | response | mcast | reduce | window (tree : BitVec 12)
deriving DecidableEq, Repr

/-- What a training step settles (Table 11.3): both ends' good lanes, the partner's identity and
compatibility set, and the measured hop latency. -/
structure TrainInfo where
  step        : Fin 8
  goodLanes   : BitVec 8
  partnerMax  : BitVec 2
  latQns      : BitVec 16
  partnerCh   : ChanAddr
  partnerPort : BitVec 4
  partnerSet  : BitVec 32
deriving DecidableEq, Repr

/-- A CTRL flit's content (R303). -/
structure CtrlInfo where
  goodLanes  : BitVec 8
  narrowing  : Bool
  mapVersion : Nat
  credits    : List (CreditKind × Nat)
deriving DecidableEq, Repr

/-- Module record of discovery (R315). -/
structure ModRecord where
  serial  : BitVec 64
  pinned  : Option (BitVec 12)
  cset    : BitVec 32
  adj     : List (ChanAddr × Nat × ChanAddr)
  present : BitVec 8
deriving DecidableEq, Repr

/-- One link of the fabric map: port, partner channel, partner port, width in lanes (Table 12.2). -/
structure MapLink where
  port        : Nat
  partner     : ChanAddr
  partnerPort : Nat
  lanes       : Nat
  owned       : Bool
  latQns      : Nat
deriving DecidableEq, Repr

/-- One channel of the fabric map (Table 12.2). Polder entries are free headrooms: none for a polder that is
held or DEGRADED. -/
structure MapChan where
  addr      : ChanAddr
  serial    : BitVec 64
  variant   : BitVec 4
  mode      : BitVec 2
  inService : Bool
  cset      : BitVec 32
  pin       : Nat
  held      : Nat
  pinMax    : Nat
  schedHbm  : Nat
  freeLines : Nat
  freeSlots : BitVec 16
  polders   : List (Option Nat)
  ckptFree  : Nat
  setsUsed  : BitVec 3
  treesFree : Nat
  storeFree : Nat
  links     : List MapLink
deriving DecidableEq, Repr

/-- A fabric-map change as flooded: its version and the changed channel (R335). -/
structure MapRec where
  version : Nat
  chan    : MapChan
deriving DecidableEq, Repr

/-- Identity of one placement attempt's claims (R346): the Gnover's module ID and its attempt number. -/
structure ClaimId where
  module  : BitVec 12
  attempt : Nat
deriving DecidableEq, Repr

/-- Resources that placement claims (R346). -/
inductive Resource where
  | polder (p : PolderIx) | slot (j : SlotIx) | port (p : PortIx) | tree (t : BitVec 12)
  | store (n : Nat) | route (set : BitVec 2) (dest : ChanAddr) | buddy (bytes : Nat)
deriving DecidableEq, Repr

/-- A submission ring: a function's admin ring (0 is the PF), or a context's well (R363). -/
inductive RingId where
  | admin (fn : Nat)
  | well (ctx loc : Nat)
deriving DecidableEq, Repr

/-- The header of the command descriptor that a command came from (Table 13.4), with its ring slot. -/
structure Hdr where
  ring  : RingId
  index : Nat
  tag   : BitVec 24
  order : Bool
  noirq : Bool
deriving DecidableEq, Repr

/-- WELL_CREATE's payload (R363, Table 13.6). -/
structure WellParams where
  channel   : Chan
  sqBase    : Nat
  sqLog2    : Nat
  cqBase    : Nat
  cqLog2    : Nat
  vector    : BitVec 11
  coalCount : BitVec 8
  coalUs    : BitVec 8
  urgent    : Bool
  job       : Nat
deriving DecidableEq, Repr

/-- Allocation kinds (R361). -/
inductive AllocKind where
  | hbm | pinned | distributed
deriving DecidableEq, Repr

/-- ALLOC's payload (Table 13.6). -/
structure AllocParams where
  kind    : AllocKind
  pinned  : Bool
  exported : Bool
  channel : Chan
  slices  : BitVec 128
  shards  : Nat
  size    : Nat
  dva     : Nat
deriving DecidableEq, Repr

/-- One side of a host COPY: a descriptor handle, or a host buffer with (as a source) its bytes (R368). -/
inductive CopySide where
  | desc (handle : Nat)
  | host (addr len : Nat) (bytes : List (BitVec 8))
deriving DecidableEq, Repr

/-- A window: start and count of each dimension (R186, R207). -/
abbrev Window := List (Int × Nat)

/-- COPY's payload (Table 13.6, R368, R369): the windows of the window block, and the bound input
(job, input number, frame). -/
structure CopyParams where
  sr     : Bool
  roFmt  : RoFmt
  src    : CopySide
  dst    : CopySide
  srcWin : Option Window
  dstWin : Option Window
  bound  : Option (Nat × Nat × Nat)
deriving DecidableEq, Repr

/-- Slot entry of a virtual link (Table 11.8). -/
structure SlotEntry where
  start : BitVec 21
  count : BitVec 16
  owner : BitVec 4
deriving DecidableEq, Repr

/-- What a job image gives one pump of a virtual channel: frame entry (none: no frame program), urgent entries with
their first instruction, program words, data-memory constants, kernel code (R29, R71, R138, R377). -/
structure PumpImage where
  index    : Nat
  entry    : Option Nat
  urgents  : List (BitVec 8 × Nat)
  program  : List (BitVec 64)
  consts   : List (BitVec 64)
  code     : List (BitVec 64)
deriving DecidableEq, Repr

/-- Declarations of one virtual channel (Table 12.1). -/
structure VChan where
  polders   : Nat
  pinned    : Nat
  heldUnits : Nat
  hbmLines  : Nat
  ckptBytes : Nat
  share     : Nat
  nominalNs : Nat
  pumps     : List PumpImage
deriving DecidableEq, Repr

/-- A frame-bound input (R56): number, frames f with f mod period = phase, and its home channels' bytes. -/
structure InputDecl where
  number : Nat
  period : Nat
  phase  : Nat
  homes  : List (ChanAddr × Nat)
deriving DecidableEq, Repr

/-- Collective kinds (Table 11.11). -/
inductive CollKind where
  | broadcast | allgather | reduce | reduceScatter | allreduce
deriving DecidableEq, Repr

/-- Collective entry (Table 11.10). -/
structure CollEntry where
  vch      : Nat
  index    : BitVec 8
  kind     : CollKind
  trees    : List Nat
  first    : Nat
  count    : Nat
  root     : Nat
  src      : Nat
  dst      : Nat
  kLog2    : Nat
  phase    : Nat
  startNs  : Nat
deriving DecidableEq, Repr

/-- One record of a key chain (Table 16.4); `resvZero`: its reserved bytes are zero. -/
structure KeyRecord where
  key   : BitVec 512
  perm  : BitVec 32
  scope : BitVec 64
  resvZero : Bool
  sig   : BitVec 512
deriving DecidableEq, Repr

/-- A key chain with the signature its last key makes. -/
structure KeyAuth where
  chain : List KeyRecord
  sig   : BitVec 512
deriving DecidableEq, Repr

/-- A job image: the declarations that the spec says one carries (R29, R45, R54, R56, R168, R171, R218, R225,
R325, R334 Table 12.1, R377, R461). The spec gives no byte layout (log entry 6). -/
structure JobImage where
  wellFormed : Bool
  digest     : BitVec 256
  bytes      : List (BitVec 8)
  auth       : KeyAuth
  cset       : BitVec 32
  strict     : Bool
  relaxedOps : Bool
  periodUs   : Nat
  wdogMs     : Nat
  ckptEvery  : Nat
  nominalNs  : Nat
  windowUs   : Nat
  windowLog2 : Nat
  lastFrame  : Option Nat
  vchans     : List VChan
  edges      : List (Nat × Nat × Nat)
  links      : List (Nat × Nat × List SlotEntry)
  trees      : List (List Nat)
  descs      : List (Nat × BitVec 512)
  dists      : List Nat
  homeHeld   : List (Nat × Nat)
  inputs     : List InputDecl
  colls      : List CollEntry
  urgents    : List (BitVec 8 × List Nat)
  thrashLimit : Nat
  trickle    : Nat
  polderCfg  : List (Bool × Nat)
deriving DecidableEq, Repr

/-- A tree-table entry as placement writes it (R321, R343): its number, port mask, local delivery, parent port, and the
inputs and the window of its combining node. -/
structure TreeRec where
  num     : BitVec 12
  mask    : BitVec 12
  deliver : Bool
  parent  : Option PortIx
  inputs  : Nat
  window  : Nat
  tick    : Bool
deriving DecidableEq, Repr

/-- What placement writes at one channel (R343, R347): the job's slot with its polders (member or home), its virtual
channels, route and tree entries, slot tables, the ports that the job uses, LNK_TICK, the first frame, and the image
(R451). -/
structure TableRec where
  who     : ClaimId
  ctx     : Nat
  job     : Nat
  slot    : Option SlotIx
  vchs    : List (Nat × BitVec 16)
  reserve : BitVec 16
  lead    : Bool
  tree    : BitVec 12
  parent  : Option PortIx
  children : List PortIx
  rset    : BitVec 2
  routes  : List (ChanAddr × BitVec 4)
  trees   : List TreeRec
  tables  : List (PortIx × List SlotEntry)
  users   : List PortIx
  dmax    : Nat
  depth   : Nat
  master  : ChanAddr
  failover : List ChanAddr
  buddy   : ChanAddr
  members : List ChanAddr
  nonMembers : List ChanAddr
  frame   : Nat
  restart : Bool
  image   : JobImage
deriving DecidableEq, Repr

/-- Management records of route set 0 (R315, R335, R346, R347, R399). `keep`: the buddies' space of the claims stays (R350, R396). -/
inductive MgmtRec where
  | module (m : ModRecord)
  | map (r : MapRec)
  | claim (who : ClaimId) (r : Resource)
  | claimReply (r : Resource) (granted : Bool)
  | release (who : ClaimId) (keep : Bool)
  | tables (t : TableRec)
  | written
  | inputComplete (j : SlotIx) (frame : Nat)
  | buddyLost (j : SlotIx)
  | fault (who : ClaimId) (cause : BitVec 8)
  | homeTick (j : SlotIx) (frame : Nat) (halt : Bool)
deriving DecidableEq, Repr

/-- Firmware image kinds (Table 16.3). -/
inductive FwKind where
  | gfw | csm | pbs
deriving DecidableEq, Repr

/-- A firmware image: the header of Table 16.3, its body and its key chain. -/
structure FwImage where
  magicOk    : Bool
  kind       : FwKind
  hdrVer     : BitVec 8
  svn        : Nat
  rev        : BitVec 32
  csets      : List (BitVec 32)
  bodyDigest : BitVec 256
  body       : List (BitVec 8)
  resvZero   : Bool
  auth       : KeyAuth
deriving DecidableEq, Repr

/-- What the start-up test finds in a channel (R452, R453, Table 16.7). Each list names units that failed; whether the
stacks trained, and at what rate, their own registers say. -/
structure TestFindings where
  embankmentOk : Bool
  cold         : Bool
  lanes        : List (Nat × Nat)
  pumps        : List Nat
  bonds        : List (Nat × Nat × Nat)
  slices       : List Nat
  rows         : List (Nat × Nat)
  columns      : List (Nat × Nat)
  banks        : List (Nat × Nat)
  layers       : List (Nat × Nat)
  hbmRows      : List (Nat × Nat)
  sensors      : List Nat
deriving DecidableEq, Repr

/-- A temperature sample (R431): the six sensors of a polder (four on the pump die, two on the cistern die),
in 0.25 degC units, or one stack's own report in degC; `stale` names sensors that did not update. -/
inductive TempSample where
  | polder (p : PolderIx) (pumpDie : List Int) (cisDie : List Int) (stale : List Nat)
  | stack (s : StackIx) (degC : Nat)
deriving DecidableEq, Repr

end Sys2Proof
end

