-- ==== Sys2Proof/Syntax.lean ====
section
/-!
DEFINITION. Instr: the commands of the block, one constructor per row of spec/opcode_table.json, in its order.
A controller or row instruction carries its pump and bits [57:0] of its word (Tables 3.3, 3.5); a thread-engine
instruction its pump, its group's slot and its register numbers; a host command the header of its descriptor.
-/

namespace Sys2Proof

/-- The commands (each docstring: the row's mnemonic, its rule, what it is). -/
inductive Instr where
  /-- MC_OP_MODE_WRITE (R21): A write of MC_OP_MODE.MODE requests a new module operating mode, replacing any target still pending. -/
  | mcOpModeWrite (v : BitVec 32)
  /-- MODE_CHANGE_RECEIPT (R21): A channel sequencer receives a new mode and starts its clock and VPUMP changes in the order of Table 1.7. -/
  | modeChangeReceipt (c : Chan)
  /-- RAIL_SETTLED (R21): After a move into Efficient mode, the VPUMP rail settles and the channel reports completion to Gnover. -/
  | railSettled (c : Chan)
  /-- VOLTAGE_CONFIRMED (R21): After a move out of Efficient mode, the droop-minimum reading confirms the new voltage; the clock switches
  to 2.0 GHz and the channel reports completion. -/
  | voltageConfirmed (c : Chan)
  /-- VOLTAGE_CONFIRM_TIMEOUT (R22): The voltage is not confirmed within 100 µs, so the channel keeps 1.5 GHz and sets MODE_ERR. -/
  | voltageConfirmTimeout (c : Chan)
  /-- MODE_RETRY (R22): Every 100 µs a channel stuck at 1.5 GHz retries leaving Efficient mode while MODE requests a 2.0 GHz mode. -/
  | modeRetry (c : Chan)
  /-- BUDGET_COMPUTATION (R19): Every 100 µs Gnover divides the module power budget into per-channel grants. -/
  | budgetComputation (inputW : Nat)
  /-- GNOVER_RESET (R26): Gnover is reset; jobs keep running, and work that needs the host path waits. -/
  | gnoverReset
  /-- PUMP_FRAME_DONE (R72): A pump stopped at DONE whose operations, slice writes and cache write-back have completed reports frame done
  to its channel sequencer. -/
  | pumpFrameDone (c : Chan) (p : PumpIx)
  /-- STREAM_DEADLOCK_CHECK (R72): Once the controller waits at DONE or FENCE and no operation can progress, an unbalanced broadcast
  stream faults the job with DESCRIPTOR. -/
  | streamDeadlockCheck (c : Chan) (p : PumpIx)
  /-- CHANNEL_FRAME_DONE (R30): Once all of its pumps are done and all of its frame writes, fills, drains and bound inputs are complete, a
  channel sends its frame-done report up the tree. -/
  | channelFrameDone (c : Chan) (j : SlotIx)
  /-- DONE_MARKER (R324): A tree node receives a DONE marker from a child and, once it holds all of its children's reports, forwards one
  combined report. -/
  | doneMarker (c : Chan) (port : PortIx) (tree : BitVec 12) (r : Report)
  /-- TICK_ISSUE (R31): When P has elapsed and every combined report has arrived, the tick master issues the next tick, carrying COMMIT if
  a qualifying commit is pending. -/
  | tickIssue (c : Chan) (j : SlotIx)
  /-- TICK_MARKER (R322): A node receives a TICK marker, adds its hop latency to ACC and forwards the marker on the tick tree. -/
  | tickMarker (c : Chan) (port : PortIx) (tree : BitVec 12) (commit : Bool) (copy : BitVec 2) (frame : BitVec 8) (acc : BitVec 20)
  /-- TICK_TAKES_EFFECT (R33): When the equalising delay expires, the tick takes effect on a member channel and the actions of Table 2.2 run. -/
  | tickTakesEffect (c : Chan) (j : SlotIx)
  /-- LOCAL_TICK (R30): A channel that hosts no job runs a local tick at its committed P to apply staged changes. -/
  | localTick (c : Chan)
  /-- HALT_TICK_ISSUE (R42): At a fence whose combined fault flag is set, the master issues a halt tick at once. -/
  | haltTickIssue (c : Chan) (j : SlotIx)
  /-- HALT_MARKER (R42): A member receives HALT: it stops at the frame boundary, keeps its state and discards the work of the frame. -/
  | haltMarker (c : Chan) (port : PortIx) (tree : BitVec 12) (copy : BitVec 2) (acc : BitVec 20)
  /-- WATCHDOG_EXPIRY (R40): A fence not met within WDOG_MS of its tick faults the job with WATCHDOG. -/
  | watchdogExpiry (c : Chan) (j : SlotIx)
  /-- TICK_LOST (R41): A member that has received no tick or halt within WDOG_MS + 100 µs raises TICK_LOST. -/
  | tickLost (c : Chan) (j : SlotIx)
  /-- FAILOVER_TAKEOVER (R43): The first live channel on the failover list becomes acting master, collects halted reports and issues the
  halt tick. -/
  | failoverTakeover (c : Chan) (j : SlotIx)
  /-- INPUT_COMPLETE_NOTICE (R56): A non-member home tells the tick master that its part of a bound input is held. -/
  | inputCompleteNotice (c : Chan) (j : SlotIx) (fromCh : BitVec 15) (frame : Nat)
  /-- ST_WRITE (R58): A write to an ST field lands in the staging bank, subject to the lock and slot rules. -/
  | stWrite (c : Chan) (off : BitVec 22) (size64 : Bool) (v : BitVec 64)
  /-- STG_CHECK (R59): STG_CTRL CMD CHECK starts validation of the slot's staged set. -/
  | stgCheck (c : Chan) (j : SlotIx) (tag : BitVec 8)
  /-- CHECK_COMPLETE (R59): Within 10 µs the check ends in CHECKED with TAG recorded, or in FAILED with STG_ERR filled. -/
  | checkComplete (c : Chan) (j : SlotIx)
  /-- STG_COMMIT (R62): STG_CTRL CMD COMMIT with a tag makes the slot COMMIT_PENDING at the tick master, or is ignored with a REASON. -/
  | stgCommit (c : Chan) (j : SlotIx) (tag : BitVec 8)
  /-- STG_UNLOCK (R60): STG_CTRL CMD UNLOCK returns a CHECKED or FAILED slot to DIRTY and keeps the staged values. -/
  | stgUnlock (c : Chan) (j : SlotIx)
  /-- STG_REVERT (R60): STG_CTRL CMD REVERT copies the committed values into the bank and sets CLEAN. -/
  | stgRevert (c : Chan) (j : SlotIx)
  /-- COMMIT_TIMEOUT (R62): A commit with no qualifying fence within 16 fences fails with REASON 0x02. -/
  | commitTimeout (c : Chan) (j : SlotIx)
  /-- WINDOW_CLOSE (R46): The priority window closes after W; an item still running completes and delays the scheduled program. -/
  | windowClose (c : Chan) (j : SlotIx)
  /-- URGENT_ITEM_START (R377): An eligible urgent item starts in the window when its declared length fits in the time left. -/
  | urgentItemStart (c : Chan) (j : SlotIx)
  /-- URGENT_ITEM_COMPLETE (R47): An urgent item completes with the frame number in which it ran, and the urgent hold ends if it was the
  last item. -/
  | urgentItemComplete (c : Chan) (j : SlotIx)
  /-- NOP (R73): Controller instruction that does nothing. -/
  | nop (c : Chan) (p : PumpIx) (f : BitVec 58)
  /-- ADD (R73): Controller x[RD] = x[RS1] + x[RS2]. -/
  | add (c : Chan) (p : PumpIx) (f : BitVec 58)
  /-- SUB (R73): Controller x[RD] = x[RS1] - x[RS2]. -/
  | sub (c : Chan) (p : PumpIx) (f : BitVec 58)
  /-- AND (R73): Controller bitwise AND. -/
  | and (c : Chan) (p : PumpIx) (f : BitVec 58)
  /-- OR (R73): Controller bitwise OR. -/
  | or (c : Chan) (p : PumpIx) (f : BitVec 58)
  /-- XOR (R73): Controller bitwise XOR. -/
  | xor (c : Chan) (p : PumpIx) (f : BitVec 58)
  /-- MUL (R73): Controller multiply, keeping the low 64 bits. -/
  | mul (c : Chan) (p : PumpIx) (f : BitVec 58)
  /-- ADDI (R73): Controller x[RD] = x[RS1] + IMM. -/
  | addi (c : Chan) (p : PumpIx) (f : BitVec 58)
  /-- SHLI (R73): Controller shift left by IMM[5:0]. -/
  | shli (c : Chan) (p : PumpIx) (f : BitVec 58)
  /-- SHRI (R73): Controller logical shift right by IMM[5:0]. -/
  | shri (c : Chan) (p : PumpIx) (f : BitVec 58)
  /-- LI (R73): Controller loads the sign-extended IMM. -/
  | li (c : Chan) (p : PumpIx) (f : BitVec 58)
  /-- BEQ (R73): Controller branch if equal; the target is range-checked at issue. -/
  | beq (c : Chan) (p : PumpIx) (f : BitVec 58)
  /-- BNE (R73): Controller branch if not equal. -/
  | bne (c : Chan) (p : PumpIx) (f : BitVec 58)
  /-- BLT (R73): Controller branch if less than, signed. -/
  | blt (c : Chan) (p : PumpIx) (f : BitVec 58)
  /-- JMP (R73): Controller unconditional branch. -/
  | jmp (c : Chan) (p : PumpIx) (f : BitVec 58)
  /-- LD (R73): Controller 64-bit load from data memory. -/
  | ld (c : Chan) (p : PumpIx) (f : BitVec 58)
  /-- ST (R73): Controller 64-bit store to data memory; a store to the constant region faults with ACCESS. -/
  | st (c : Chan) (p : PumpIx) (f : BitVec 58)
  /-- SETSR (R73): Sets the stochastic-rounding handle and element base. -/
  | setsr (c : Chan) (p : PumpIx) (f : BitVec 58)
  /-- FRN (R73): Reads the current frame number into x[RD]. -/
  | frn (c : Chan) (p : PumpIx) (f : BitVec 58)
  /-- PID (R73): Reads the pump's virtual index and virtual channel number. -/
  | pid (c : Chan) (p : PumpIx) (f : BitVec 58)
  /-- DOT (R86): Row dot product of broadcast A rows with lane-store B into accumulator entries. -/
  | dot (c : Chan) (p : PumpIx) (f : BitVec 58)
  /-- BQS (R81): Appends N0 × N1 slice granules to the broadcast queue. -/
  | bqs (c : Chan) (p : PumpIx) (f : BitVec 58)
  /-- ACL (R83): Loads accumulator entries from the slice. -/
  | acl (c : Chan) (p : PumpIx) (f : BitVec 58)
  /-- ACS (R84): Converts accumulator entries and stores them to the slice. -/
  | acs (c : Chan) (p : PumpIx) (f : BitVec 58)
  /-- ACR (R85): Adds accumulator entries into ledgers in the slice. -/
  | acr (c : Chan) (p : PumpIx) (f : BitVec 58)
  /-- LLD (R82): Loads lane-store rows, transposed or lane-major. -/
  | lld (c : Chan) (p : PumpIx) (f : BitVec 58)
  /-- ISSUE (R73): Issues x[RS1] as a row instruction. -/
  | issue (c : Chan) (p : PumpIx) (f : BitVec 58)
  /-- KRN (R139): Queues a thread-engine kernel launch from a kernel descriptor. -/
  | krn (c : Chan) (p : PumpIx) (f : BitVec 58)
  /-- FENCE (R72): Stops controller issue until every issued operation has completed. -/
  | fence (c : Chan) (p : PumpIx) (f : BitVec 58)
  /-- DONE (R72): Ends the frame program and stops issue. -/
  | done (c : Chan) (p : PumpIx) (f : BitVec 58)
  /-- EW_MOV (R494): Element-wise copy of all 32 bits. -/
  | ewMov (c : Chan) (p : PumpIx) (f : BitVec 58)
  /-- EW_ADD (R92): Element-wise FP32 add. -/
  | ewAdd (c : Chan) (p : PumpIx) (f : BitVec 58)
  /-- EW_SUB (R92): Element-wise FP32 subtract. -/
  | ewSub (c : Chan) (p : PumpIx) (f : BitVec 58)
  /-- EW_MUL (R92): Element-wise FP32 multiply. -/
  | ewMul (c : Chan) (p : PumpIx) (f : BitVec 58)
  /-- EW_MAX (R494): Element-wise FP32 maximum. -/
  | ewMax (c : Chan) (p : PumpIx) (f : BitVec 58)
  /-- EW_MIN (R494): Element-wise FP32 minimum. -/
  | ewMin (c : Chan) (p : PumpIx) (f : BitVec 58)
  /-- EW_FMA (R92): Element-wise fused multiply-add with one rounding. -/
  | ewFma (c : Chan) (p : PumpIx) (f : BitVec 58)
  /-- EW_ABS (R494): Clears bit 31. -/
  | ewAbs (c : Chan) (p : PumpIx) (f : BitVec 58)
  /-- EW_NEG (R494): Inverts bit 31. -/
  | ewNeg (c : Chan) (p : PumpIx) (f : BitVec 58)
  /-- EW_EXP2 (R94): Element-wise tabled 2^x. -/
  | ewExp2 (c : Chan) (p : PumpIx) (f : BitVec 58)
  /-- EW_LOG2 (R94): Element-wise tabled log2. -/
  | ewLog2 (c : Chan) (p : PumpIx) (f : BitVec 58)
  /-- EW_RCP (R94): Element-wise tabled reciprocal. -/
  | ewRcp (c : Chan) (p : PumpIx) (f : BitVec 58)
  /-- EW_RSQRT (R94): Element-wise tabled reciprocal square root. -/
  | ewRsqrt (c : Chan) (p : PumpIx) (f : BitVec 58)
  /-- EW_TANH (R94): Element-wise tabled tanh. -/
  | ewTanh (c : Chan) (p : PumpIx) (f : BitVec 58)
  /-- EW_IADD (R92): Element-wise INT32 add, wrapping. -/
  | ewIadd (c : Chan) (p : PumpIx) (f : BitVec 58)
  /-- EW_ISUB (R92): Element-wise INT32 subtract, wrapping. -/
  | ewIsub (c : Chan) (p : PumpIx) (f : BitVec 58)
  /-- EW_IMAX (R92): Element-wise INT32 maximum. -/
  | ewImax (c : Chan) (p : PumpIx) (f : BitVec 58)
  /-- EW_IMIN (R92): Element-wise INT32 minimum. -/
  | ewImin (c : Chan) (p : PumpIx) (f : BitVec 58)
  /-- EW_CVTIF (R92): Converts INT32 to FP32. -/
  | ewCvtif (c : Chan) (p : PumpIx) (f : BitVec 58)
  /-- EW_CVTFI (R92): Converts FP32 to INT32, saturating. -/
  | ewCvtfi (c : Chan) (p : PumpIx) (f : BitVec 58)
  /-- OPERATION_BEGIN (R67): A unit begins a queued operation after its issue pause and ordering waits, and the queue entry frees. -/
  | operationBegin (c : Chan) (p : PumpIx) (u : RowUnit)
  /-- OPERATION_COMPLETE (R68): A row or unit operation completes, releasing later operations that wait on its resources. -/
  | operationComplete (c : Chan) (p : PumpIx) (u : RowUnit)
  /-- BOND_READ_DELIVERY (R74): A granule read over the bond port is delivered and checked. -/
  | bondReadDelivery (c : Chan) (p : PumpIx) (gran : BitVec 19) (err : BitVec 288)
  /-- UE_REREAD (R249): The second copy of an uncorrectable granule arrives; it is used if clean, otherwise R250 or R251 applies. -/
  | ueReread (c : Chan) (p : PumpIx) (err : BitVec 288)
  /-- KERNEL_LAUNCH (R139): After the previous kernel completes, a kernel is checked and its first groups are placed in slots. -/
  | kernelLaunch (c : Chan) (p : PumpIx)
  /-- KERNEL_COMPLETE (R143): All groups have exited, stores, atomics and write-back are finished, and the kernel completes. -/
  | kernelComplete (c : Chan) (p : PumpIx)
  /-- LOAD_RESULT (R147): A thread-engine load or atomic result arrives, releasing a stalled engine. -/
  | loadResult (c : Chan) (p : PumpIx) (g : GSlot)
  /-- SLICE_ATOMIC_PERFORM (R163): The slice performs queued atomic operations in lane and turn order. -/
  | sliceAtomicPerform (c : Chan) (p : PumpIx)
  /-- BARRIER_DIVERGENCE (R155): A group blocked at mixed barriers or joins raises BARRIER_DIVERGENCE within 64 cycles. -/
  | barrierDivergence (c : Chan) (p : PumpIx) (g : GSlot)
  /-- TE_ADD (R145): Thread-engine integer add. -/
  | teAdd (c : Chan) (p : PumpIx) (g : GSlot) (rd ra rb : TReg)
  /-- TE_SUB (R145): Thread-engine integer subtract. -/
  | teSub (c : Chan) (p : PumpIx) (g : GSlot) (rd ra rb : TReg)
  /-- TE_MUL (R145): Thread-engine integer multiply, low 32 bits. -/
  | teMul (c : Chan) (p : PumpIx) (g : GSlot) (rd ra rb : TReg)
  /-- TE_AND (R145): Thread-engine bitwise AND. -/
  | teAnd (c : Chan) (p : PumpIx) (g : GSlot) (rd ra rb : TReg)
  /-- TE_OR (R145): Thread-engine bitwise OR. -/
  | teOr (c : Chan) (p : PumpIx) (g : GSlot) (rd ra rb : TReg)
  /-- TE_XOR (R145): Thread-engine bitwise XOR. -/
  | teXor (c : Chan) (p : PumpIx) (g : GSlot) (rd ra rb : TReg)
  /-- TE_SHL (R145): Thread-engine shift left. -/
  | teShl (c : Chan) (p : PumpIx) (g : GSlot) (rd ra rb : TReg)
  /-- TE_SHR (R145): Thread-engine logical shift right. -/
  | teShr (c : Chan) (p : PumpIx) (g : GSlot) (rd ra rb : TReg)
  /-- TE_SAR (R145): Thread-engine arithmetic shift right. -/
  | teSar (c : Chan) (p : PumpIx) (g : GSlot) (rd ra rb : TReg)
  /-- TE_MIN (R145): Thread-engine integer minimum. -/
  | teMin (c : Chan) (p : PumpIx) (g : GSlot) (rd ra rb : TReg)
  /-- TE_MAX (R145): Thread-engine integer maximum. -/
  | teMax (c : Chan) (p : PumpIx) (g : GSlot) (rd ra rb : TReg)
  /-- TE_SEL (R145): Thread-engine select. -/
  | teSel (c : Chan) (p : PumpIx) (g : GSlot) (rd rp ra rb : TReg)
  /-- TE_COMPARE (R145): Thread-engine integer compare. -/
  | teCompare (c : Chan) (p : PumpIx) (g : GSlot) (cmp : Cmp) (rd ra rb : TReg)
  /-- TE_FADD (R146): Thread-engine FP32 add. -/
  | teFadd (c : Chan) (p : PumpIx) (g : GSlot) (rd ra rb : TReg)
  /-- TE_FMUL (R146): Thread-engine FP32 multiply. -/
  | teFmul (c : Chan) (p : PumpIx) (g : GSlot) (rd ra rb : TReg)
  /-- TE_FFMA (R146): Thread-engine FP32 fused multiply-add. -/
  | teFfma (c : Chan) (p : PumpIx) (g : GSlot) (rd ra rb rc : TReg)
  /-- TE_FMIN (R494): Thread-engine FP32 minimum. -/
  | teFmin (c : Chan) (p : PumpIx) (g : GSlot) (rd ra rb : TReg)
  /-- TE_FMAX (R494): Thread-engine FP32 maximum. -/
  | teFmax (c : Chan) (p : PumpIx) (g : GSlot) (rd ra rb : TReg)
  /-- TE_FCOMPARE (R146): Thread-engine FP32 compare. -/
  | teFcompare (c : Chan) (p : PumpIx) (g : GSlot) (cmp : Cmp) (rd ra rb : TReg)
  /-- TE_EXP2 (R146): Thread-engine tabled 2^x. -/
  | teExp2 (c : Chan) (p : PumpIx) (g : GSlot) (rd ra : TReg)
  /-- TE_LOG2 (R146): Thread-engine tabled log2. -/
  | teLog2 (c : Chan) (p : PumpIx) (g : GSlot) (rd ra : TReg)
  /-- TE_RCP (R146): Thread-engine tabled reciprocal. -/
  | teRcp (c : Chan) (p : PumpIx) (g : GSlot) (rd ra : TReg)
  /-- TE_RSQRT (R146): Thread-engine tabled reciprocal square root. -/
  | teRsqrt (c : Chan) (p : PumpIx) (g : GSlot) (rd ra : TReg)
  /-- TE_TANH (R146): Thread-engine tabled tanh. -/
  | teTanh (c : Chan) (p : PumpIx) (g : GSlot) (rd ra : TReg)
  /-- TE_CVT (R146): Thread-engine format conversion, by RNE or SR. -/
  | teCvt (c : Chan) (p : PumpIx) (g : GSlot) (src dst : Fmt) (sr : Bool) (rd ra ri : TReg)
  /-- TE_TID (R145): Reads the thread index. -/
  | teTid (c : Chan) (p : PumpIx) (g : GSlot) (rd : TReg)
  /-- TE_GID (R145): Reads the group index. -/
  | teGid (c : Chan) (p : PumpIx) (g : GSlot) (rd : TReg)
  /-- TE_NGRP (R145): Reads the number of groups. -/
  | teNgrp (c : Chan) (p : PumpIx) (g : GSlot) (rd : TReg)
  /-- TE_PID (R145): Reads the pump's virtual identity. -/
  | tePid (c : Chan) (p : PumpIx) (g : GSlot) (rd : TReg)
  /-- TE_FRN (R145): Reads the frame number. -/
  | teFrn (c : Chan) (p : PumpIx) (g : GSlot) (rd : TReg)
  /-- TE_TIME (R169): Relaxed read of the nanoseconds elapsed since the latest tick. -/
  | teTime (c : Chan) (p : PumpIx) (g : GSlot) (rd : TReg)
  /-- TE_LD (R156): Thread-engine load from the slice or global memory. -/
  | teLd (c : Chan) (p : PumpIx) (g : GSlot) (sp : Space) (size : Nat) (rd addr : TReg)
  /-- FILL_OPEN (R212): A cache-line miss opens or joins a fill-table entry once the table has room. -/
  | fillOpen (c : Chan) (p : PumpIx) (addr : FabAddr)
  /-- FILL_DELIVERY (R212): Fill granules arrive and are multicast to the requesting slices; the entry closes after the last one. -/
  | fillDelivery (c : Chan) (addr : FabAddr)
  /-- TE_ST (R156): Thread-engine store to the slice or global memory. -/
  | teSt (c : Chan) (p : PumpIx) (g : GSlot) (sp : Space) (size : Nat) (addr rs : TReg)
  /-- TE_PF (R147): Prefetches lines into the pump cache. -/
  | tePf (c : Chan) (p : PumpIx) (g : GSlot) (sp : Space) (addr : TReg)
  /-- TE_ATOM_S_ADD (R163): Slice atomic add. -/
  | teAtomSAdd (c : Chan) (p : PumpIx) (g : GSlot) (w64 ret : Bool) (rd addr rs : TReg)
  /-- TE_ATOM_S_MIN (R163): Slice atomic signed minimum. -/
  | teAtomSMin (c : Chan) (p : PumpIx) (g : GSlot) (w64 ret : Bool) (rd addr rs : TReg)
  /-- TE_ATOM_S_MAX (R163): Slice atomic signed maximum. -/
  | teAtomSMax (c : Chan) (p : PumpIx) (g : GSlot) (w64 ret : Bool) (rd addr rs : TReg)
  /-- TE_ATOM_S_AND (R163): Slice atomic AND. -/
  | teAtomSAnd (c : Chan) (p : PumpIx) (g : GSlot) (w64 ret : Bool) (rd addr rs : TReg)
  /-- TE_ATOM_S_OR (R163): Slice atomic OR. -/
  | teAtomSOr (c : Chan) (p : PumpIx) (g : GSlot) (w64 ret : Bool) (rd addr rs : TReg)
  /-- TE_ATOM_S_XOR (R163): Slice atomic XOR. -/
  | teAtomSXor (c : Chan) (p : PumpIx) (g : GSlot) (w64 ret : Bool) (rd addr rs : TReg)
  /-- TE_ATOM_S_EXCH (R163): Slice atomic exchange. -/
  | teAtomSExch (c : Chan) (p : PumpIx) (g : GSlot) (w64 ret : Bool) (rd addr rs : TReg)
  /-- TE_ATOM_S_CAS (R163): Slice atomic compare-and-swap. -/
  | teAtomSCas (c : Chan) (p : PumpIx) (g : GSlot) (w64 ret : Bool) (rd addr rs rt : TReg)
  /-- TE_ATOM_G_ADD (R165): Global atomic add, sent to the home. -/
  | teAtomGAdd (c : Chan) (p : PumpIx) (g : GSlot) (w64 ret : Bool) (rd addr rs : TReg)
  /-- TE_ATOM_G_MIN (R165): Global atomic minimum. -/
  | teAtomGMin (c : Chan) (p : PumpIx) (g : GSlot) (w64 ret : Bool) (rd addr rs : TReg)
  /-- TE_ATOM_G_MAX (R165): Global atomic maximum. -/
  | teAtomGMax (c : Chan) (p : PumpIx) (g : GSlot) (w64 ret : Bool) (rd addr rs : TReg)
  /-- TE_ATOM_G_AND (R165): Global atomic AND. -/
  | teAtomGAnd (c : Chan) (p : PumpIx) (g : GSlot) (w64 ret : Bool) (rd addr rs : TReg)
  /-- TE_ATOM_G_OR (R165): Global atomic OR. -/
  | teAtomGOr (c : Chan) (p : PumpIx) (g : GSlot) (w64 ret : Bool) (rd addr rs : TReg)
  /-- TE_ATOM_G_XOR (R165): Global atomic XOR. -/
  | teAtomGXor (c : Chan) (p : PumpIx) (g : GSlot) (w64 ret : Bool) (rd addr rs : TReg)
  /-- TE_EXCH_G (R169): Relaxed global exchange. -/
  | teExchG (c : Chan) (p : PumpIx) (g : GSlot) (w64 : Bool) (rd addr rs : TReg)
  /-- TE_CAS_G (R169): Relaxed global compare-and-swap. -/
  | teCasG (c : Chan) (p : PumpIx) (g : GSlot) (w64 : Bool) (rd addr rs rt : TReg)
  /-- TE_FATOM_ADD (R168): Relaxed FP32 atomic add in arrival order. -/
  | teFatomAdd (c : Chan) (p : PumpIx) (g : GSlot) (sp : Space) (addr rs : TReg)
  /-- TE_LADD (R166): Adds an FP32 addend to a ledger. -/
  | teLadd (c : Chan) (p : PumpIx) (g : GSlot) (sp : Space) (lexp : BitVec 10) (addr rs : TReg)
  /-- TE_LRD (R166): Reads a ledger out with one rounding. -/
  | teLrd (c : Chan) (p : PumpIx) (g : GSlot) (fmt : RoFmt) (lexp : BitVec 10) (rd addr : TReg)
  /-- TE_BR (R150): Branch with a join address; the current path may split. -/
  | teBr (c : Chan) (p : PumpIx) (g : GSlot) (rp : TReg) (target join : BitVec 13)
  /-- TE_JMP (R151): Thread-engine jump; a backward jump rotates the group's path. -/
  | teJmp (c : Chan) (p : PumpIx) (g : GSlot) (target : BitVec 13)
  /-- TE_CALL (R145): Thread-engine call. -/
  | teCall (c : Chan) (p : PumpIx) (g : GSlot) (target : BitVec 13)
  /-- TE_RET (R151): Thread-engine return, a backward branch. -/
  | teRet (c : Chan) (p : PumpIx) (g : GSlot)
  /-- TE_JOIN (R150): A path parks at its join and the split paths merge when all have arrived. -/
  | teJoin (c : Chan) (p : PumpIx) (g : GSlot)
  /-- TE_EXIT (R139): Threads exit; an exited group frees its slot for the next group. -/
  | teExit (c : Chan) (p : PumpIx) (g : GSlot)
  /-- TE_BAR (R153): Group barrier BAR n. -/
  | teBar (c : Chan) (p : PumpIx) (g : GSlot) (n : Fin 4)
  /-- TE_BAR_K (R154): Kernel barrier. -/
  | teBarK (c : Chan) (p : PumpIx) (g : GSlot)
  /-- TE_FENCE (R161): Makes the group's stores visible to other groups and waits for its atomics. -/
  | teFence (c : Chan) (p : PumpIx) (g : GSlot)
  /-- XFR_COPY (R194): XFR OPC COPY between descriptors or raw ranges. -/
  | xfrCopy (c : Chan) (p : PumpIx) (f : BitVec 58)
  /-- XFR_TCOPY (R195): XFR OPC TCOPY transposes on a transpose engine. -/
  | xfrTcopy (c : Chan) (p : PumpIx) (f : BitVec 58)
  /-- XFR_COMBINE (R133): XFR OPC COMBINE adds ledger integers into a ledger-reduce target. -/
  | xfrCombine (c : Chan) (p : PumpIx) (f : BitVec 58)
  /-- XFR_READOUT (R137): XFR OPC READOUT rounds ledgers once into FP32, BF16 or FP64. -/
  | xfrReadout (c : Chan) (p : PumpIx) (f : BitVec 58)
  /-- XFR_DEAD (R226): XFR OPC DEAD declares 4 KiB blocks dead. -/
  | xfrDead (c : Chan) (p : PumpIx) (f : BitVec 58)
  /-- XFR_HALO (R208): XFR OPC HALO refreshes the halo positions of the issuing shard. -/
  | xfrHalo (c : Chan) (p : PumpIx) (f : BitVec 58)
  /-- XFR_WARM (R208): XFR OPC WARM fills lines into the issuing slice's cache. -/
  | xfrWarm (c : Chan) (p : PumpIx) (f : BitVec 58)
  /-- XFR_COMPLETE (R211): A transfer completes when its reads, private writes, held acknowledgements and echoes are all done. -/
  | xfrComplete (c : Chan) (p : PumpIx)
  /-- HELD_ENTRY_DRAIN (R223): After a tick, a background drain applies the previous frame's held entries at each home. -/
  | heldEntryDrain (c : Chan)
  /-- EPOCH_SWEEP (R216): A background sweep drops epoch lines whose tag is not current. -/
  | epochSweep (c : Chan)
  /-- MARK_PLANE_CLEAR (R219): Within 1 µs of each tick the other write-mark plane is cleared. -/
  | markPlaneClear (c : Chan)
  /-- CIS_MODE_WRITE (R202): A write of CIS_MODE.SECTOR changes the line mode if no job is admitted, otherwise sets MODE_ERR. -/
  | cisModeWrite (c : Chan) (v : BitVec 32)
  /-- CIS_CLEAR (R233): CIS_CLEAR GO clears a slice's valid bits unless the slice is owned, which sets REFUSED. -/
  | cisClear (c : Chan) (v : BitVec 32)
  /-- CLEAR_COMPLETE (R233): A valid-bit clear completes within 1 µs, and waiting accesses proceed. -/
  | clearComplete (c : Chan)
  /-- CE_CLEAR (R246): CIS_CE_CTRL.CLEAR clears every CIS_CE_COUNT counter. -/
  | ceClear (c : Chan)
  /-- LOG_CLEAR (R253): CIS_CE_CTRL.LOG_CLEAR invalidates both error logs. -/
  | logClear (c : Chan)
  /-- SCRUB_STEP (R254): At the walk rate, the scrubber reads, checks and corrects the next granule. -/
  | scrubStep (c : Chan) (hbm : Bool) (unit : Nat) (gran : Nat) (err : BitVec 288)
  /-- SCRUB_WINDOW (R255): At the end of each 1 s window, AUTO raises or lowers LEVEL. -/
  | scrubWindow (c : Chan)
  /-- SCRUB_RANGE_GO (R258): CIS_SCRUB_RANGE GO starts a ranged scrub pass, or sets BUSY_ERR if a pass is running. -/
  | scrubRangeGo (c : Chan) (v : BitVec 32)
  /-- SCRUB_PASS_COMPLETE (R258): A ranged pass ends and CIS_SCRUB_SUM holds its summary. -/
  | scrubPassComplete (c : Chan)
  /-- REFRESH (R266): Per-bank HBM refresh runs at the interval set by the stack temperature. -/
  | refresh (c : Chan) (st : StackIx)
  /-- HBM_READ_RECENTRE (R466): Every 100 ms each pseudo-channel recentres its read timing with training bursts. -/
  | hbmReadRecentre (c : Chan)
  /-- HBM_TRAINING_COMPLETE (R265): A stack's interface training completes at a rate, or fails and takes the channel out of service. -/
  | hbmTrainingComplete (c : Chan) (st : StackIx) (rate : BitVec 2) (pcUp : BitVec 32)
  /-- BURST_BOUNDARY (R277): At a burst boundary the port's arbiter decides the next grant. -/
  | burstBoundary (c : Chan) (port : ArbPort)
  /-- OVERDUE (R274): A request more than 2^30 ns past its deadline sets its overdue bit. -/
  | overdue (c : Chan) (port : ArbPort) (req : Nat)
  /-- MASTER_PORT_RELEASE (R283): A request held at a master port for lack of tokens is released when its bucket refills. -/
  | masterPortRelease (c : Chan) (cls : ReqClass) (j : SlotIx)
  /-- ARB_FREEZE_HBM (R280): A write of ARB_FREEZE_HBM.FREEZE freezes or unfreezes HBM ports. -/
  | arbFreezeHbm (c : Chan) (st : StackIx) (v : BitVec 32)
  /-- ARB_FREEZE_LNK (R280): A write of ARB_FREEZE_LNK.FREEZE freezes or unfreezes egress ports. -/
  | arbFreezeLnk (c : Chan) (v : BitVec 32)
  /-- PORT_ENABLE_WRITE (R483): A write of LNK_PORT_CTRL.ENABLE enables the port or takes it to DISABLED. -/
  | portEnableWrite (c : Chan) (port : PortIx) (v : BitVec 32)
  /-- RETRAIN (R297): LNK_PORT_CTRL.RETRAIN freezes and drains an unused port, or sets REFUSED. -/
  | retrain (c : Chan) (port : PortIx)
  /-- DRAIN_COMPLETE (R297): A draining port's buffers are empty and it enters TRAIN. -/
  | drainComplete (c : Chan) (port : PortIx)
  /-- SIGNAL_DETECT (R291): A DETECT port finds signal on two or more lanes and enters TRAIN. -/
  | signalDetect (c : Chan) (port : PortIx) (lanes : BitVec 8)
  /-- TRAIN_STEP_COMPLETE (R292): A training step of Table 11.3 completes, leading to the next step or to ACTIVE. -/
  | trainStepComplete (c : Chan) (port : PortIx) (info : TrainInfo)
  /-- TRAINING_TIMEOUT (R294): A missed training deadline restarts training, and after three restarts the port goes DOWN. -/
  | trainingTimeout (c : Chan) (port : PortIx)
  /-- DOWN_TIMER (R291): One second after DOWN, an enabled port returns to DETECT. -/
  | downTimer (c : Chan) (port : PortIx)
  /-- LOSS_OF_SIGNAL (R330): A port losing signal goes DOWN and faults every job that uses it with LINK. -/
  | lossOfSignal (c : Chan) (port : PortIx)
  /-- LANE_FAILURE (R299): A failing lane in use narrows the port within 2 µs, or takes it DOWN. -/
  | laneFailure (c : Chan) (port : PortIx) (lane : Fin 8)
  /-- REPLAY_TIMEOUT (R306): With no ACK within 1 µs, the sender replays from the unacknowledged flit. -/
  | replayTimeout (c : Chan) (port : PortIx)
  /-- SLOT_ENTRY_OPEN (R308): A slot entry opens at its START or at the close of the previous entry. -/
  | slotEntryOpen (c : Chan) (port : PortIx)
  /-- EQUALISATION (R310): An EQ entry or unowned-port interval runs equalisation and remeasures the hop latency. -/
  | equalisation (c : Chan) (port : PortIx) (latQns : BitVec 16)
  /-- WRITE_FLIT (R217): A WRITE flit arrives and its granules are recorded as held entries at the home. -/
  | writeFlit (c : Chan) (port : PortIx) (fh : FlitHdr) (recs : List WriteRec)
  /-- READ_FLIT (R212): A READ flit asks a home for lines, which it answers with RDATA. -/
  | readFlit (c : Chan) (port : PortIx) (fh : FlitHdr) (lines : List FabAddr)
  /-- RDATA_FLIT (R302): An RDATA flit delivers remote read data, re-encoded at the destination. -/
  | rdataFlit (c : Chan) (port : PortIx) (fh : FlitHdr) (data : List Granule)
  /-- COMBINE_FLIT (R133): A COMBINE flit adds ledgers into inbound granules tagged with the frame. -/
  | combineFlit (c : Chan) (port : PortIx) (fh : FlitHdr) (frame : Nat) (data : List Granule)
  /-- WACK_FLIT (R211): A WACK flit acknowledges writes, combines or atomics. -/
  | wackFlit (c : Chan) (port : PortIx) (fh : FlitHdr) (acks : List (PumpIx))
  /-- ATOMIC_FLIT (R165): An ATOMIC flit records global atomics at the home for application at the next tick. -/
  | atomicFlit (c : Chan) (port : PortIx) (fh : FlitHdr) (recs : List AtomicRec)
  /-- RESP_ERR_FLIT (R314): A RESP_ERR flit faults the requesting job or completes the host command with an error. -/
  | respErrFlit (c : Chan) (port : PortIx) (fh : FlitHdr) (j : Option SlotIx) (hcmd : Option Hdr) (code : RespErr)
  /-- MCAST_FLIT (R321): An MCAST flit is forwarded on the tree mask and delivered locally. -/
  | mcastFlit (c : Chan) (port : PortIx) (fh : FlitHdr) (frame : Nat) (recs : List (ChanAddr × WriteRec)) (sums : List Granule)
  /-- REDUCE_FLIT (R327): A REDUCE flit enters the combining store and the sum is forwarded once every input has arrived. -/
  | reduceFlit (c : Chan) (port : PortIx) (fh : FlitHdr) (ledgers : List Granule)
  /-- MGMT_FLIT (R315): An MGMT flit carries discovery, map or claim records over route set 0. -/
  | mgmtFlit (c : Chan) (port : PortIx) (fh : FlitHdr) (rec : MgmtRec)
  /-- CTRL_FLIT (R303): A CTRL flit carries port state, narrowing handshake, map version and credits. -/
  | ctrlFlit (c : Chan) (port : PortIx) (info : CtrlInfo)
  /-- UNKNOWN_FLIT (R300): A flit of unlisted TYPE is discarded without a fault. -/
  | unknownFlit (c : Chan) (port : PortIx) (ty : BitVec 4)
  /-- FAULT_MARKER (R387): A FAULT marker arrives and the member stops its pumps and reports frame done with FAULT set. -/
  | faultMarker (c : Chan) (port : PortIx) (tree : BitVec 12) (cause : BitVec 8) (reporter : BitVec 15)
  /-- NAK_MARKER (R306): A NAK makes the sender replay from the named flit. -/
  | nakMarker (c : Chan) (port : PortIx) (seq : BitVec 12)
  /-- ACK_MARKER (R306): A cumulative ACK frees the replay buffer. -/
  | ackMarker (c : Chan) (port : PortIx) (seq : BitVec 12)
  /-- CREDIT_MARKER (R305): A CREDIT marker returns buffer credits or advances a combining window. -/
  | creditMarker (c : Chan) (port : PortIx) (buf : CreditKind) (count : Nat)
  /-- ECHO_MARKER (R295): An ECHO marker is returned so the hop latency can be measured. -/
  | echoMarker (c : Chan) (port : PortIx) (stamp : BitVec 52)
  /-- DISCOVERY_SETTLE (R315): With no new record for 200 ms, discovery settles and module IDs are assigned. -/
  | discoverySettle
  /-- MODULE_JOIN (R317): A module joining an established fabric takes a module ID. -/
  | moduleJoin
  /-- COLLECTIVE_START (R325): At START_NS a collective entry reads its sources and sends its flits. -/
  | collectiveStart (c : Chan) (j : SlotIx) (vch : BitVec 15) (entry : BitVec 8)
  /-- MAP_CHANGE (R335): The map keeper versions a fabric-map change and floods it to every Gnover. -/
  | mapChange (rec : MapRec)
  /-- MAP_KEEPER_TAKEOVER (R335): When the map keeper is lost, the Gnover with the next-lowest module ID takes over. -/
  | mapKeeperTakeover (lost : BitVec 12)
  /-- CLAIM (R346): A channel grants or refuses a placement claim on a resource. -/
  | claim (c : Chan) (who : ClaimId) (r : Resource)
  /-- CLAIM_REPLY (R346): Claim replies arrive; placement writes its tables or releases its claims and re-runs. -/
  | claimReply (r : Resource) (at_ : BitVec 15) (granted : Bool)
  /-- CLAIM_LAPSE (R346): A claim neither confirmed nor released within 10 s lapses. -/
  | claimLapse (c : Chan) (who : ClaimId)
  /-- TABLE_WRITE_ACK (R347): Every placement write is acknowledged and the job is admitted. -/
  | tableWriteAck (fromCh : BitVec 15)
  /-- PLACEMENT_RETRY (R346): With RETRY set, a failed placement runs again at the next map version. -/
  | placementRetry
  /-- PLACE_DEADLINE (R346): When DEADLINE_S passes under RETRY, the placement fails. -/
  | placeDeadline
  /-- DOORBELL (R364): An 8-byte doorbell write updates a well's PROD and CQ_CONS counts. -/
  | doorbell (ctx : Nat) (local_ : Nat) (bytes : Nat) (v : BitVec 64)
  /-- ADMIN_DOORBELL (R364): A write of MC_ADM_DB updates the admin ring's counts. -/
  | adminDoorbell (fn : Nat) (v : BitVec 64)
  /-- MC_ADM_RING_WRITE (R483): A write of MC_ADM_SQ or MC_ADM_CQ enables, disables or configures the admin ring. -/
  | mcAdmRingWrite (fn : Nat) (cq : Bool) (v : BitVec 64)
  /-- DESCRIPTOR_FETCH (R365): A fetched command descriptor is started in ring order. -/
  | descriptorFetch (ring : RingId) (d : BitVec 512)
  /-- COMPLETION_WRITE (R366): Once the completion ring has room, a 16-byte completion record is written with its phase. -/
  | completionWrite (ring : RingId)
  /-- INTERRUPT_TIMER (R370): COAL_US after the first unsignalled record, the well sends its MSI-X vector. -/
  | interruptTimer (ring : RingId)
  /-- CTX_CREATE (R356): Creates a context on a home channel. -/
  | ctxCreate (h : Hdr) (home : Chan) (pasid : BitVec 20) (pasidEn : Bool)
  /-- CTX_DESTROY (R380): Destroys a context, optionally forcing its jobs to halt. -/
  | ctxDestroy (h : Hdr) (ctx : Nat) (force : Bool)
  /-- WELL_CREATE (R363): Creates a well with its rings. -/
  | wellCreate (h : Hdr) (ctx : Nat) (w : WellParams)
  /-- WELL_DESTROY (R367): Destroys a well. -/
  | wellDestroy (h : Hdr) (ctx w : Nat)
  /-- WELL_RESUME (R378): Resumes a stopped well from its counts. -/
  | wellResume (h : Hdr) (ctx w : Nat)
  /-- ALLOC (R361): Creates an HBM, pinned or distributed allocation. -/
  | alloc (h : Hdr) (a : AllocParams)
  /-- FREE (R362): Frees an allocation not in use by an admitted job. -/
  | free (h : Hdr) (handle : Nat)
  /-- MAP_HOST (R359): Maps host memory into a context. -/
  | mapHost (h : Hdr) (hva size dva : Nat) (rights : BitVec 2)
  /-- DESC_CREATE (R179): Creates and validates a tensor descriptor. -/
  | descCreate (h : Hdr) (d : BitVec 512)
  /-- DESC_DESTROY (R185): Destroys a tensor descriptor. -/
  | descDestroy (h : Hdr) (handle : Nat)
  /-- COPY (R368): Host COPY with SUBOP COPY. -/
  | copy (h : Hdr) (k : CopyParams)
  /-- COPY_TCOPY (R195): Host COPY with SUBOP TCOPY. -/
  | copyTcopy (h : Hdr) (k : CopyParams)
  /-- COPY_COMBINE (R369): Host COPY with SUBOP COMBINE into a job ledger. -/
  | copyCombine (h : Hdr) (k : CopyParams)
  /-- COPY_READOUT (R137): Host COPY with SUBOP READOUT of ledgers. -/
  | copyReadout (h : Hdr) (k : CopyParams)
  /-- COPY_DEAD (R226): Host COPY with SUBOP DEAD. -/
  | copyDead (h : Hdr) (k : CopyParams)
  /-- LOAD_IMAGE (R371): Verifies a job image and creates its descriptors. -/
  | loadImage (h : Hdr) (im : JobImage)
  /-- START (R372): Runs placement, binds memory and admits a job. -/
  | start (h : Hdr) (image : Nat) (pol : BitVec 256)
  /-- CHECKPOINT (R373): Requests a checkpoint at the job's next permitted tick. -/
  | checkpoint (h : Hdr) (job : Nat)
  /-- STOP (R373): Ends a job at its next fence, or after a checkpoint with CKPT set. -/
  | stop (h : Hdr) (job : Nat) (ckpt : Bool)
  /-- URGENT (R377): Submits an urgent item on an urgent well. -/
  | urgent (h : Hdr) (entry : BitVec 8) (len : Nat) (args : BitVec 320)
  /-- STAGE (R374): Stages one ST field of a member channel. -/
  | stage (h : Hdr) (job : Nat) (member : BitVec 15) (off : BitVec 22) (v mask : BitVec 64)
  /-- CHECK (R374): Writes CHECK with its tag to every member of the job. -/
  | check (h : Hdr) (job : Nat) (tag : BitVec 8)
  /-- COMMIT (R374): Performs a staged commit at the job's tick master. -/
  | commit (h : Hdr) (job : Nat) (tag : BitVec 8)
  /-- QUERY_IDENTITY (R382): Returns module identity and firmware revisions. -/
  | queryIdentity (h : Hdr) (buf len : Nat)
  /-- QUERY_JOB (R382): Returns a job's state and overrun summary. -/
  | queryJob (h : Hdr) (job buf len : Nat)
  /-- QUERY_COUNTERS (R382): Returns the job's counters. -/
  | queryCounters (h : Hdr) (job buf len : Nat)
  /-- QUERY_FABRIC_MAP (R382): Returns the module's copy of the fabric map. -/
  | queryFabricMap (h : Hdr) (buf len : Nat)
  /-- QUERY_SCRUB (R258): Starts a ranged scrub pass and returns its summary. -/
  | queryScrub (h : Hdr) (c : Chan) (range : BitVec 128) (buf len : Nat)
  /-- QUERY_ATTEST (R458): Returns a signed attestation report. -/
  | queryAttest (h : Hdr) (nonce : BitVec 256) (buf len : Nat)
  /-- QUERY_BLACK_BOX (R382): Returns a channel's live black box. -/
  | queryBlackBox (h : Hdr) (c : Chan) (buf len : Nat)
  /-- SELFTEST (R383): Runs, defers or forces the start-up test on a channel. -/
  | selftest (h : Hdr) (c : Chan) (force : Bool) (testSet : BitVec 8)
  /-- DEFERRED_SELFTEST (R462): A queued self-test starts when its channel next holds no job. -/
  | deferredSelftest (c : Chan)
  /-- SELFTEST_COMPLETE (R453): A channel's test ends with a result word and, on a pass, IN_SERVICE. -/
  | selftestComplete (c : Chan) (found : TestFindings)
  /-- HOST_LINK_RESET (R378): Link-down, hot or conventional reset of the endpoint stops every well and ring. -/
  | hostLinkReset
  /-- FLR_VF (R379): A function level reset of a VF destroys its contexts. -/
  | flrVf (vf : Nat)
  /-- FLR_PF (R379): A function level reset of the PF destroys every context and disables SR-IOV. -/
  | flrPf
  /-- ATS_INVALIDATION (R360): A host ATS invalidation completes after every access using the translation has finished. -/
  | atsInvalidation (ctx : Nat) (hva size : Nat)
  /-- APERTURE_READ (R355): A BAR4 read reaches fabric memory when unlocked, or completes with Unsupported Request. -/
  | apertureRead (off : Nat) (bytes : Nat)
  /-- APERTURE_WRITE (R355): A BAR4 write takes effect at once when unlocked, or is discarded. -/
  | apertureWrite (off : Nat) (data : List (BitVec 8))
  /-- FAULT_FLOW (R389): After a halt, Gnover captures state, releases, repairs and removes or re-places and restores the job. -/
  | faultFlow (ctx job : Nat)
  /-- BLACK_BOX_FLASH_COPY (R412): Within 50 ms of a fault, the black box is copied to flash and released. -/
  | blackBoxFlashCopy (c : Chan)
  /-- CAPTURE_COMPLETE (R392): Checkpoint capture into HBM ends, and transmission to the buddy and the frame program proceed. -/
  | captureComplete (c : Chan) (j : SlotIx)
  /-- CHECKPOINT_COMPLETE (R394): The checkpoint header is written at the buddy and LAST_FRAME advances. -/
  | checkpointComplete (c : Chan) (j : SlotIx)
  /-- BUDDY_SLOT_LOST (R399): The tick master learns that a buddy slot is lost and schedules a checkpoint. -/
  | buddySlotLost (c : Chan) (j : SlotIx)
  /-- RESTORE_COMPLETE (R396): Members have restored the checkpoint and the job's first tick follows. -/
  | restoreComplete (ctx job : Nat)
  /-- CH_RESET_PUMP_DIE (R402): CH_RESET SCOPE 1 requests a pump-die reset, or sets REFUSED. -/
  | chResetPumpDie (c : Chan)
  /-- CH_RESET_CHANNEL (R402): CH_RESET SCOPE 2 requests a channel reset, with or without RETAIN, or sets REFUSED. -/
  | chResetChannel (c : Chan) (retain : Bool)
  /-- PUMP_DIE_RESET_COMPLETE (R402): A pump-die reset is ready with its repairs applied. -/
  | pumpDieResetComplete (c : Chan) (spareFails : BitVec 16)
  /-- CHANNEL_RESET_COMPLETE (R402): A channel reset is ready. -/
  | channelResetComplete (c : Chan) (spareFails : BitVec 16)
  /-- EMB_RESET (R402): A management EMB_RESET starts an embankment reset once the ports are drained, or sets REFUSED. -/
  | embReset (c : Chan)
  /-- EMBANKMENT_RESET_COMPLETE (R402): An embankment reset is ready, with ports in DETECT. -/
  | embankmentResetComplete (c : Chan)
  /-- DEFERRED_RESET (R401): Gnover performs a pending reset once the channel holds no running job. -/
  | deferredReset (c : Chan)
  /-- BOND_CTL_LOSS (R408): The loss of a duplicated control bond copy is logged, or with both copies lost, faults with BOND. -/
  | bondCtlLoss (c : Chan) (p : PumpIx) (sig : Fin 4) (copy : Bool)
  /-- SEQUENCER_TIMEOUT (R385): A channel sequencer that has not answered Gnover for 10 ms causes a FIRMWARE fault. -/
  | sequencerTimeout (c : Chan)
  /-- BBX_RELEASE (R412): BBX_CTRL.RELEASE ends the black-box freeze. -/
  | bbxRelease (c : Chan)
  /-- BBX_FREEZE (R411): BBX_CTRL.FREEZE freezes the black box without a fault. -/
  | bbxFreeze (c : Chan)
  /-- DROOP_SAMPLE (R417): Every 0.5 µs the droop minimum is sent to the regulator and compared against the guard and emergency thresholds. -/
  | droopSample (c : Chan) (mv : Nat)
  /-- RAIL_FAULT (R418): A rail out of range for 10 µs, or a second lost phase, halts jobs and takes the channel out of service. -/
  | railFault (c : Chan) (rail : Fin 4) (phase : Option Nat)
  /-- PHASE_LOSS (R425): A regulator reports a lost phase, which changes the phase state and current cap. -/
  | phaseLoss (c : Chan) (phase : Fin 24)
  /-- BUDGET_CONTROLLER (R427): Every 10 µs the budget pause is raised or lowered against the power grant and current cap. -/
  | budgetController (c : Chan) (avgW avgA : Nat)
  /-- POLDER_SLEEP (R422): A SLOT polder whose pumps are done enters SLEEP. -/
  | polderSleep (c : Chan) (pd : PolderIx)
  /-- POWER_UP_SLOT (R422): UP_US after the tick, a SLOT polder's power-up slot arrives and its ramp is requested. -/
  | powerUpSlot (c : Chan) (pd : PolderIx)
  /-- RAMP_START (R423): A waiting ramp starts once no other polder of the channel is ramping. -/
  | rampStart (c : Chan)
  /-- RAMP_STEP (R421): Every 0.5 µs the next eighth of the switches closes if the guard passes, and the polder reaches ON after step 10. -/
  | rampStep (c : Chan)
  /-- TEMPERATURE_SAMPLE (R431): A polder's or stack's sensors are sampled and the effective readings evaluated. -/
  | temperatureSample (c : Chan) (t : TempSample)
  /-- CRITICAL_RECOVERY (R435): After 10 s at or below 85 °C, Gnover resets the channel back into service. -/
  | criticalRecovery (c : Chan)
  /-- COLD_RECOVERY (R433): After 10 s at or above 10 °C, a cold channel returns to service. -/
  | coldRecovery (c : Chan)
  /-- MAIN_INPUT_SAMPLE (R437): Every 10 µs Gnover measures the 54 V input and acts on an excursion. -/
  | mainInputSample (mv : Nat) (watts : Nat)
  /-- MAIN_INPUT_RESTORED (R437): After 1 s within 48-58 V, the channels leave reset or the start proceeds. -/
  | mainInputRestored
  /-- MAIN_OVERVOLTAGE (R488): Above 60 V, input protection disconnects the regulators as a power loss. -/
  | mainOvervoltage
  /-- AUX_INPUT_LOSS (R489): The auxiliary input below 3.0 V for 1 ms is a power loss. -/
  | auxInputLoss
  /-- OSCILLATOR_COMPENSATION (R438): Every 10 ms Gnover corrects the reference oscillator's trim. -/
  | oscillatorCompensation (wantPpb : Int)
  /-- BANDGAP_CORRECTION (R439): Every 100 ms each die's bandgap reference is corrected. -/
  | bandgapCorrection (c : Chan) (trim : Int)
  /-- SENSOR_CALIBRATION (R439): Every 1 s the voltage sensors are calibrated, and one that moves by more than 10 mV is marked failed. -/
  | sensorCalibration (c : Chan) (sensor : Fin 96) (movedMv : Nat)
  /-- PWR_CFG_WRITE (R417): A write of PWR_CFG.RAMP_GUARD_MV sets the guard, or is ignored and sets GUARD_ERR. -/
  | pwrCfgWrite (c : Chan) (v : BitVec 32)
  /-- POWER_ON (R449): Cold start: the boot ROM verifies GFW and banks are chosen, or the module enters recovery or safe mode. -/
  | powerOn (mainOk listOk : Bool)
  /-- CSM_DIGEST_REPORT (R450): A sequencer reports its CSM digest, and a mismatching channel is resent the image or disabled. -/
  | csmDigestReport (c : Chan) (digest : BitVec 256)
  /-- MOD_RESET_N (R487): A low pulse on MOD_RESET_N resets the module. -/
  | modResetN (level : Bool)
  /-- READ_SENSOR (R467): Management read of sensors. -/
  | readSensor (c : Chan)
  /-- FW_WRITE (R467): Writes a firmware image into an inactive bank or into RAM. -/
  | fwWrite (im : FwImage)
  /-- FW_ACTIVATE (R467): Marks a verified bank active from the next start. -/
  | fwActivate (kind : FwKind) (bankB : Bool)
  /-- SVN_COMMIT (R446): Raises the anti-rollback counters to the running SVNs. -/
  | svnCommit
  /-- ROOT_ADD (R467): Fuses root key slot 1. -/
  | rootAdd (hash : BitVec 256) (auth : KeyAuth)
  /-- ROOT_REVOKE (R467): Fuses a root revoke bit. -/
  | rootRevoke (slot : Bool) (auth : KeyAuth)
  /-- DEFECT_READ (R467): Returns the defect list. -/
  | defectRead
  /-- BBX_READ (R412): Returns a flash copy of a black box. -/
  | bbxRead (c : Chan) (copy : Fin 16)
  /-- DEBUG_CHALLENGE (R460): Returns a 32-byte debug challenge. -/
  | debugChallenge
  /-- DEBUG_RESPONSE (R460): A verified response sets MC_DBG.UNLOCKED and DEBUG_SEEN. -/
  | debugResponse (auth : KeyAuth)
  /-- DEBUG_LOCK (R460): Locks the debug aperture. -/
  | debugLock
  /-- DEBUG_CHALLENGE_EXPIRY (R460): A challenge expires after 60 s. -/
  | debugChallengeExpiry
  /-- JOB_POLICY_SET (R461): Installs or clears the job-signing root hash. -/
  | jobPolicySet (hash : Option (BitVec 256))
  /-- ATTEST (R458): Management attestation covering every context. -/
  | attest (nonce : BitVec 256)
  /-- MODULE_RESET (R402): Management command that resets the module. -/
  | moduleReset
  /-- BYPASS (R468): IEEE 1149.1 BYPASS instruction. -/
  | bypass
  /-- IDCODE (R468): IEEE 1149.1 IDCODE instruction. -/
  | idcode
  /-- SAMPLE_PRELOAD (R468): IEEE 1149.1 SAMPLE/PRELOAD instruction. -/
  | samplePreload
  /-- EXTEST (R468): IEEE 1149.1 EXTEST, accepted only while no channel is enabled. -/
  | extest
  /-- REGISTER_WRITE (R469): A write to a register that has no row of its own takes effect by its field types. -/
  | registerWrite (via : RegPath) (addr : BitVec 26) (size64 : Bool) (v : BitVec 64)
  /-- UNASSIGNED_OPCODE (R69): The controller meets a word with an unassigned opcode, such as the 0xF400_0000_0000_0000 that fills
  unloaded program memory, and faults the job with DESCRIPTOR. -/
  | unassignedOpcode (c : Chan) (p : PumpIx) (w : BitVec 64)
  /-- EW_UNASSIGNED_FN (R92): An EW instruction with an unassigned FN code faults the job with DESCRIPTOR. -/
  | ewUnassignedFn (c : Chan) (p : PumpIx) (f : BitVec 58)
  /-- XFR_RESERVED_OPC (R208): An XFR whose descriptor OPC is reserved (0x7-0xF) faults the job with DESCRIPTOR. -/
  | xfrReservedOpc (c : Chan) (p : PumpIx) (f : BitVec 58)
  /-- GNOVER_RESET_COMPLETE (R26): Gnover comes out of reset, and the host path, waiting descriptor fetches, completion writes, host
  transfers and waiting placements resume. -/
  | gnoverResetComplete
  /-- HOST_LINK_UP (R378): The PCI Express link returns and trains to a rate and width, which MC_HOST_LINK reports, using REFCLK or the
  derived reference. -/
  | hostLinkUp (gen : BitVec 3) (width : BitVec 4) (flit refclk : Bool)
  /-- HOST_DATA_RECEIPT (R242): Host transfer data arrives over the spoke at a home channel's embankment, is encoded and held with key
  0x7F_FFFF, possibly completing a bound input. -/
  | hostDataReceipt (c : Chan) (j : SlotIx) (input : Nat) (frame : Nat) (recs : List WriteRec)
  /-- ATS_TRANSLATION_COMPLETION (R360): An ATS translation reply arrives from the host, letting a host-memory access proceed or ending it
  with HOST_XLATE or an ACCESS fault. -/
  | atsTranslationCompletion (ok : Bool) (j : Option (Chan × SlotIx)) (hcmd : Option Hdr)
  /-- MSIX_VECTOR_UNMASK (R370): The host unmasks an MSI-X vector, and a pending interrupt is then sent. -/
  | msixVectorUnmask (fn vec : Nat)
  /-- VF_ENABLE (R351): The host enables or changes the number of SR-IOV virtual functions, which sets MC_HOST_LINK.NUM_VF and brings the
  VF BARs into being. -/
  | vfEnable (n : Nat)
  /-- REGISTER_READ (R470): A register read of the lowest word captures a wide register for later word reads and waits for earlier writes
  to the window. -/
  | registerRead (via : RegPath) (addr : BitVec 26) (size64 : Bool)
deriving DecidableEq, Repr

end Sys2Proof
end

