-- ==== Sys2Proof/WellFormed.lean ====
section
/-!
DEFINITION. Which operands a command can have. A command outside this is no command of the hardware: a row of
another function code, more records than a flit holds, a size the table does not give.
-/

namespace Sys2Proof

/-- FN codes of Table 3.9 that are assigned. -/
def ewAssigned (fn : Nat) : Bool := fn ≤ 0x0D || (0x10 ≤ fn && fn ≤ 0x15)

/-- Opcodes of Table 3.4 that are assigned (R73). -/
def opAssigned (op : Nat) : Bool :=
  op ≤ 0x0A || (0x10 ≤ op && op ≤ 0x13) || op == 0x18 || op == 0x19 || (0x1C ≤ op && op ≤ 0x1E) ||
    (0x20 ≤ op && op ≤ 0x26) || op == 0x28 || op == 0x30 || op == 0x31 || op == 0x3E || op == 0x3F

/-- FN of an element-wise word (Table 3.5). -/
def ewFn (f : BitVec 58) : Nat := (f.extractLsb' 47 6).toNat

/-- Sizes of a thread-engine access (Table 6.3). -/
def teSize (n : Nat) : Bool := n == 1 || n == 2 || n == 4 || n == 8 || n == 16

/-- Whether an access of `size` bytes has its registers within r0-r63 (R138, R156). -/
def teRegs (r : TReg) (size : Nat) : Bool := r.toNat + (size + 3) / 4 ≤ 64

/-- Formats that CVT converts between (Table 6.3). -/
def cvtFmt (f : Fmt) : Bool :=
  match f with
  | .b6 | .b4 | .q4 => false
  | _ => true

/-- Registers of a 32- or 64-bit atomic. -/
def atomRegs (w64 : Bool) (r : TReg) : Bool := teRegs r (if w64 then 8 else 4)

/-- The operands that a command can have. -/
def Instr.wf : Instr → Bool
  | .ewMov _ _ f => ewFn f == 0x00
  | .ewAdd _ _ f => ewFn f == 0x01
  | .ewSub _ _ f => ewFn f == 0x02
  | .ewMul _ _ f => ewFn f == 0x03
  | .ewMax _ _ f => ewFn f == 0x04
  | .ewMin _ _ f => ewFn f == 0x05
  | .ewFma _ _ f => ewFn f == 0x06
  | .ewAbs _ _ f => ewFn f == 0x07
  | .ewNeg _ _ f => ewFn f == 0x08
  | .ewExp2 _ _ f => ewFn f == 0x09
  | .ewLog2 _ _ f => ewFn f == 0x0A
  | .ewRcp _ _ f => ewFn f == 0x0B
  | .ewRsqrt _ _ f => ewFn f == 0x0C
  | .ewTanh _ _ f => ewFn f == 0x0D
  | .ewIadd _ _ f => ewFn f == 0x10
  | .ewIsub _ _ f => ewFn f == 0x11
  | .ewImax _ _ f => ewFn f == 0x12
  | .ewImin _ _ f => ewFn f == 0x13
  | .ewCvtif _ _ f => ewFn f == 0x14
  | .ewCvtfi _ _ f => ewFn f == 0x15
  | .ewUnassignedFn _ _ f => !ewAssigned (ewFn f)
  | .unassignedOpcode _ _ w => !opAssigned (w.extractLsb' 58 6).toNat
  | .tickMarker _ _ _ _ k _ _ => k.toNat < 3
  | .haltMarker _ _ _ k _ => k.toNat < 3
  | .teLd _ _ _ sp size rd addr => teSize size && teRegs rd size && teRegs addr (if sp = .global then 8 else 4)
  | .teSt _ _ _ sp size addr rs => teSize size && teRegs rs size && teRegs addr (if sp = .global then 8 else 4)
  | .tePf _ _ _ sp addr => teRegs addr (if sp = .global then 8 else 4)
  | .teCvt _ _ _ src dst sr _ _ ri => cvtFmt src && cvtFmt dst && (!sr || teRegs ri 8)
  | .teTime _ _ _ rd => teRegs rd 8
  | .teAtomSAdd _ _ _ w64 ret rd _ rs => atomRegs w64 rs && (!ret || atomRegs w64 rd)
  | .teAtomSMin _ _ _ w64 ret rd _ rs => atomRegs w64 rs && (!ret || atomRegs w64 rd)
  | .teAtomSMax _ _ _ w64 ret rd _ rs => atomRegs w64 rs && (!ret || atomRegs w64 rd)
  | .teAtomSAnd _ _ _ w64 ret rd _ rs => atomRegs w64 rs && (!ret || atomRegs w64 rd)
  | .teAtomSOr _ _ _ w64 ret rd _ rs => atomRegs w64 rs && (!ret || atomRegs w64 rd)
  | .teAtomSXor _ _ _ w64 ret rd _ rs => atomRegs w64 rs && (!ret || atomRegs w64 rd)
  | .teAtomSExch _ _ _ w64 ret rd _ rs => atomRegs w64 rs && (!ret || atomRegs w64 rd)
  | .teAtomSCas _ _ _ w64 ret rd _ rs rt => atomRegs w64 rs && atomRegs w64 rt && (!ret || atomRegs w64 rd)
  | .teAtomGAdd _ _ _ w64 ret rd addr rs => teRegs addr 8 && atomRegs w64 rs && (!ret || atomRegs w64 rd)
  | .teAtomGMin _ _ _ w64 ret rd addr rs => teRegs addr 8 && atomRegs w64 rs && (!ret || atomRegs w64 rd)
  | .teAtomGMax _ _ _ w64 ret rd addr rs => teRegs addr 8 && atomRegs w64 rs && (!ret || atomRegs w64 rd)
  | .teAtomGAnd _ _ _ w64 ret rd addr rs => teRegs addr 8 && atomRegs w64 rs && (!ret || atomRegs w64 rd)
  | .teAtomGOr _ _ _ w64 ret rd addr rs => teRegs addr 8 && atomRegs w64 rs && (!ret || atomRegs w64 rd)
  | .teAtomGXor _ _ _ w64 ret rd addr rs => teRegs addr 8 && atomRegs w64 rs && (!ret || atomRegs w64 rd)
  | .teExchG _ _ _ w64 rd addr rs => teRegs addr 8 && atomRegs w64 rs && atomRegs w64 rd
  | .teCasG _ _ _ w64 rd addr rs rt => teRegs addr 8 && atomRegs w64 rs && atomRegs w64 rt && atomRegs w64 rd
  | .teFatomAdd _ _ _ sp addr _ => teRegs addr (if sp = .global then 8 else 4)
  | .teLadd _ _ _ sp _ addr _ => teRegs addr (if sp = .global then 8 else 4)
  | .teLrd _ _ _ fmt _ rd _ => teRegs rd (if fmt = .fp64 then 8 else 4)
  | .scrubStep _ hbm unit gran _ => if hbm then unit < 4 && gran < 2 ^ 32 else unit < 144 && gran < 524288
  | .railFault _ _ phase => match phase with | some p => p < 24 | none => true
  | .writeFlit _ _ _ recs => recs.length ≤ 16
  | .readFlit _ _ _ lines => lines.length ≤ 16
  | .rdataFlit _ _ _ data => data.length ≤ 16
  | .combineFlit _ _ _ _ data => data.length ≤ 16
  | .wackFlit _ _ _ acks => acks.length ≤ 16
  | .atomicFlit _ _ _ recs => recs.length ≤ 16
  | .mcastFlit _ _ _ _ recs sums => recs.length ≤ 16 && sums.length ≤ 16
  | .reduceFlit _ _ _ ledgers => ledgers.length ≤ 16
  | .unknownFlit _ _ ty => 0xA < ty.toNat && ty.toNat < 0xF
  | .doorbell ctx loc bytes _ => ctx < 1024 && loc < 512 && 0 < bytes && bytes ≤ 8
  | .registerWrite via _ _ _ | .registerRead via _ _ => (match via with | .fn n => n < 64 | .mgmt => true)
  | .adminDoorbell fn _ => fn < 64
  | .mcAdmRingWrite fn _ _ => fn < 64
  | .hostLinkUp gen width _ _ =>
      gen != 0 && (width == 1 || width == 2 || width == 4 || width == 8)
  | .flrVf vf => 0 < vf && vf ≤ 63
  | .vfEnable n => n ≤ 63
  | .msixVectorUnmask fn vec => if fn = 0 then vec < 2048 else fn < 64 && vec < 32
  | .apertureRead off bytes => 0 < bytes && off + bytes ≤ 2 ^ 30
  | .apertureWrite off data => off + data.length ≤ 2 ^ 30
  | .temperatureSample _ t =>
      match t with
      | .polder _ pd cd stale => pd.length == 4 && cd.length == 2 && stale.all (· < 6)
      | .stack _ _ => true
  | _ => true

end Sys2Proof
end

