-- ==== Sys2Proof/Decode.lean ====
section
/-!
DEFINITION. The command a word spells by the bits of spec/opcode_table.json. The table gives no row any bits ("fixed"
and "fields" are absent from every row), so no word spells a command (log entry 10).
-/

namespace Sys2Proof

/-- The command that a word of the table's bits spells: none, for no row gives bits. -/
def decodeTableWord (_nbits _w : Nat) : Option Instr := none

end Sys2Proof
end

