-- ==== Sys2Proof/Config.lean ====
section
/-!
DEFINITION. Free values: functions the spec names but does not define, and values it leaves open. None has a body,
so nothing can be proved of a value (log entry 7).
-/

namespace Sys2Proof.Config

/-- SM3 of a byte string: a published standard, not defined in the spec (R443, R457). -/
opaque sm3 : List (BitVec 8) → BitVec 256

/-- Whether an SM2 signature by a public key over a message is valid; the signer identity enters its Z value (R443). -/
opaque sm2Verify : (signer : List (BitVec 8)) → (key : BitVec 512) → (message : List (BitVec 8)) → (sig : BitVec 512) → Bool

/-- The SM2 signature that the module's identity key, which never leaves the key unit, makes over a message (R443, R457). -/
opaque sm2Sign : (signer : List (BitVec 8)) → (message : List (BitVec 8)) → BitVec 512

/-- The 32 random bytes of the n-th debug challenge (R460). -/
opaque challenge : Nat → BitVec 256

/-- Shifts of the thread engine by 32 or more: the spec states no result (R145; log entry 12). -/
opaque shiftBeyond : (op : Nat) → (a b : BitVec 32) → BitVec 32

/-- Whether the taken path of a divergent BR runs before the fall-through path: the spec does not say (R150; log
entry 13). -/
opaque takenFirst : Bool

/-- The n-th byte that a load from host memory returns: it is the host's (R157; log entry 14). -/
opaque hostByte : Nat → BitVec 8

/-- The router's fixed forwarding time, in 0.25 ns units: no number is stated (R322; log entry 21). -/
opaque forwardQns : Nat

/-- The lowest-addressed member of another module that was not CHECKED with the tag: this module does not see it
(R62; log entry 22). -/
opaque uncheckedMember : (commitTag : BitVec 8) → (fence : Nat) → BitVec 15

/-- Spare rows of an HBM bank for soft post-package repair: no number is stated (R267; log entry 42). -/
opaque hbmSpareRows : Nat

/-- Redundant data pins of a stack: no number is stated (R263; log entry 42). -/
opaque hbmSparePins : Nat

/-- The n-th granule that a host copy reads from another module's memory: this module does not see it (R369; log entry
46). -/
opaque remoteGranule : Nat → BitVec 256

/-- The frame number that a stochastic host conversion into memory of no job takes: the spec gives none (R111; log entry
47). -/
opaque copyFrame : Nat → Nat

/-- Steppings of the pump die and the cistern die (CH_ID): fixed, no number is stated (log entry 48). -/
opaque pumpStep : BitVec 4
opaque cisStep : BitVec 4

/-- The module's identity certificate and its chain, as flash holds them (R457; log entry 49). -/
opaque identityCert : List (BitVec 8)

end Sys2Proof.Config
end

