-- ==== Sys2Proof/Machine/Bits.lean ====
section
/-!
DEFINITION. Bit and byte helpers: granules as bytes (little-endian, R5), byte masks, saturating counters, black-box
detail bytes, and the granule code BSC-36/32 (R238-R241).
-/

namespace Sys2Proof.Machine

/-- Byte i of a granule. -/
def gByte (g : Granule) (i : Nat) : BitVec 8 := g.extractLsb' (8 * i) 8

/-- The bits of the bytes that a mask names. -/
def maskBits (mask : BitVec 32) : Granule :=
  (List.range 32).foldl (fun acc i => if mask.getLsbD i then acc ||| (0xFF#256 <<< (8 * i)) else acc) 0

/-- `new` in the masked bytes, `old` in the others. -/
def gMerge (old new : Granule) (mask : BitVec 32) : Granule :=
  let m := maskBits mask
  (old &&& ~~~m) ||| (new &&& m)

/-- The mask of n bytes from byte i. -/
def byteMask (i n : Nat) : BitVec 32 := BitVec.ofNat 32 ((2 ^ n - 1) * 2 ^ i)

/-- A little-endian number from bytes. -/
def leNat : List (BitVec 8) → Nat
  | [] => 0
  | b :: bs => b.toNat + 256 * leNat bs

/-- The first n little-endian bytes of a number. -/
def leBytes : Nat → Nat → List (BitVec 8)
  | 0, _ => []
  | n + 1, v => BitVec.ofNat 8 v :: leBytes n (v / 256)

/-- Bytes of a granule, lowest address first. -/
def gBytes (g : Granule) : List (BitVec 8) := leBytes 32 g.toNat

/-- A granule from bytes (missing bytes are zero). -/
def gOfBytes (bs : List (BitVec 8)) : Granule := BitVec.ofNat 256 (leNat (bs.take 32))

/-- Cuts bytes into granules; the last is padded with zero bytes. -/
def granules : Nat → List (BitVec 8) → List Granule
  | 0, _ => []
  | n + 1, bs => if bs.isEmpty then [] else gOfBytes bs :: granules n (bs.drop 32)

/-- Field of `w` bits from bit `lo` of a word, as a number. -/
def field {n : Nat} (x : BitVec n) (lo w : Nat) : Nat := (x.extractLsb' lo w).toNat

/-- Signed field. -/
def sfield {n : Nat} (x : BitVec n) (lo w : Nat) : Int := (x.extractLsb' lo w).toInt

/-- Addition that saturates at 2^w − 1. -/
def satAdd (w a b : Nat) : Nat := min (a + b) (2 ^ w - 1)

/-- Detail bytes of a black-box event from (byte, width, value) entries. -/
def detail (es : List (Nat × Nat × Nat)) : BitVec 128 :=
  BitVec.ofNat 128 (es.foldl (fun acc e => acc + e.2.2 % 2 ^ (8 * e.2.1) * 2 ^ (8 * e.1)) 0)

/-- One element of a vector changed. -/
def upd {α : Type} {n : Nat} (v : Vector α n) (i : Fin n) (f : α → α) : Vector α n :=
  v.set i.val (f v[i.val]) i.isLt

/-- The bits set in a bit vector, ascending. -/
def bitsOf {n : Nat} (x : BitVec n) : List Nat := (List.range n).filter fun i => x.getLsbD i

/-- A bit vector from a list of bits. -/
def ofBits (n : Nat) (l : List Nat) : BitVec n := l.foldl (fun acc i => acc ||| (1#n <<< i)) 0

/-! ### The granule code -/

/-- Multiplication by α = 2 in GF(2^8) with 0x11D (R238). -/
def gfDouble (a : BitVec 8) : BitVec 8 := if a.msb then (a <<< 1) ^^^ 0x1D#8 else a <<< 1

/-- Multiplication in GF(2^8): `k` bits of b, lowest first. -/
def gfMulAux : Nat → BitVec 8 → BitVec 8 → BitVec 8
  | 0, _, _ => 0
  | k + 1, a, b => (if b.getLsbD 0 then a else 0) ^^^ gfMulAux k (gfDouble a) (b >>> 1)

def gfMul (a b : BitVec 8) : BitVec 8 := gfMulAux 8 a b

/-- α^i. -/
def gfAlpha : Nat → BitVec 8
  | 0 => 1
  | i + 1 => gfDouble (gfAlpha i)

/-- Symbol c_i of a code word: check byte i for i < 4, data byte i − 4 otherwise (Table 9.1). -/
def symbol (w : CodeWord) (i : Nat) : BitVec 8 :=
  if i < 4 then w.extractLsb' (256 + 8 * i) 8 else w.extractLsb' (8 * (i - 4)) 8

/-- A code word that is zero but for one symbol. -/
def oneSymbol (i : Nat) (v : BitVec 8) : CodeWord :=
  v.setWidth 288 <<< (if i < 4 then 256 + 8 * i else 8 * (i - 4))

/-- S_j = c(α^j) (R240). -/
def syndrome (w : CodeWord) (j : Nat) : BitVec 8 :=
  (List.range 36).foldl (fun acc i => acc ^^^ gfMul (symbol w i) (gfAlpha (i * j))) 0

/-- Outcome of decoding. -/
inductive Decoded where
  | clean
  | corrected (position : Nat) (value : BitVec 8)
  | uncorrectable
deriving DecidableEq, Repr

/-- The decoder of R240: some position i with S_1 = S_0 α^i, S_2 = S_1 α^i, S_3 = S_2 α^i, or none. -/
def bscDecode (w : CodeWord) : Decoded :=
  let s0 := syndrome w 0
  let s1 := syndrome w 1
  let s2 := syndrome w 2
  let s3 := syndrome w 3
  if s0 = 0 ∧ s1 = 0 ∧ s2 = 0 ∧ s3 = 0 then .clean
  else if s0 = 0 then .uncorrectable
  else
    match (List.range 36).find? fun i =>
        s1 == gfMul s0 (gfAlpha i) && s2 == gfMul s1 (gfAlpha i) && s3 == gfMul s2 (gfAlpha i) with
    | some i => .corrected i s0
    | none => .uncorrectable

/-- The check bytes of a granule: remainder of x^4 · d(x) by g(x) (R239), as bits [31:0], c_0 lowest. -/
def bscCheck (g : Granule) : BitVec 32 :=
  ((List.range 32).reverse).foldl (fun (r : BitVec 32) j =>
    let fb := gByte g j ^^^ r.extractLsb' 24 8
    (r <<< 8) ^^^ ((gfMul fb 0x0F#8).setWidth 32 <<< 24) ^^^ ((gfMul fb 0x36#8).setWidth 32 <<< 16)
      ^^^ ((gfMul fb 0x78#8).setWidth 32 <<< 8) ^^^ (gfMul fb 0x40#8).setWidth 32) 0

/-- The code word of a granule. -/
def bscEncode (g : Granule) : CodeWord := g.setWidth 288 ||| ((bscCheck g).setWidth 288 <<< 256)

end Sys2Proof.Machine
end

