-- ==== Sys2Proof/Machine/Flags.lean ====
section
/-!
DEFINITION. What a write does to a register field by the field's type (R7, Table 0.3), and what a read gives. Every
status, flag and mode bit of the block is written through these.
-/

namespace Sys2Proof.Machine

/-- Field types (Table 0.3). ST fields land in the staging bank and are handled by ST_WRITE. -/
inductive FieldType where
  | rw | ro | wo | w1c | w1s | st
deriving DecidableEq, Repr

/-- The stored value of a w-bit field after a write of `v`. -/
def fieldWrite {w : Nat} (t : FieldType) (old v : BitVec w) : BitVec w :=
  match t with
  | .rw => v
  | .ro => old
  | .wo => old
  | .w1c => old &&& ~~~v
  | .w1s => old ||| v
  | .st => old

/-- What a read gives. -/
def fieldRead {w : Nat} (t : FieldType) (cur : BitVec w) : BitVec w :=
  match t with
  | .wo => 0
  | _ => cur

/-- A W1C flag bit after a write whose bit is `v`. -/
def w1c (old v : Bool) : Bool := old && !v

/-- Saturating 8-, 16-, 32- and 64-bit status counters. -/
def sat8 (a b : Nat) : Nat := satAdd 8 a b
def sat16 (a b : Nat) : Nat := satAdd 16 a b
def sat32 (a b : Nat) : Nat := satAdd 32 a b
def sat64 (a b : Nat) : Nat := satAdd 64 a b

/-- A Bool as a one-bit number. -/
def bit (b : Bool) : Nat := if b then 1 else 0

/-- A register from (low bit, width, value) fields; every bit no field names reads as zero (R8). -/
def packReg (fs : List (Nat × Nat × Nat)) : Nat :=
  fs.foldl (fun acc f => acc + f.2.2 % 2 ^ f.2.1 * 2 ^ f.1) 0

end Sys2Proof.Machine
end

