-- ==== Sys2Proof/Machine/Maps.lean ====
section
/-!
DEFINITION. Operations over sparse maps. The canonical form: keys strictly rising and no entry equal to what an
unlisted key reads as, so that equal contents are equal lists. Laws/Maps.lean proves that each keeps it.
-/

namespace Sys2Proof.Machine

/-- Inserts a number into an ascending list without repeats. -/
def insUniq : List Nat → Nat → List Nat
  | [], k => [k]
  | x :: xs, k => if k = x then x :: xs else if k < x then k :: x :: xs else x :: insUniq xs k

/-- The distinct numbers of a list, ascending. -/
def sortUniq (l : List Nat) : List Nat := l.foldl insUniq []

end Sys2Proof.Machine

namespace List

/-- Puts an element before the first that it may precede. -/
def placeIn {α : Type} (le : α → α → Bool) (x : α) : List α → List α
  | [] => [x]
  | y :: ys => if le x y then x :: y :: ys else y :: placeIn le x ys

/-- The list in the order of `le`; elements that are equal in it keep their order. -/
def sortWith {α : Type} (l : List α) (le : α → α → Bool) : List α := l.foldr (placeIn le) []

end List

namespace Sys2Proof.SMap

/-- The entry listed at a key. -/
def look {α : Type} : SMap α → Nat → Option α
  | [], _ => none
  | (k', v) :: m, k => if k = k' then some v else if k < k' then none else look m k

/-- What a key reads as: its entry, or the value an unlisted key reads as. -/
def readD {α : Type} (m : SMap α) (dflt : α) (k : Nat) : α := (look m k).getD dflt

/-- The map without the entry at a key. -/
def drop1 {α : Type} : SMap α → Nat → SMap α
  | [], _ => []
  | (k', v) :: m, k => if k = k' then m else if k < k' then (k', v) :: m else (k', v) :: drop1 m k

/-- The map with an entry set at a key. -/
def set1 {α : Type} : SMap α → Nat → α → SMap α
  | [], k, v => [(k, v)]
  | (k', v') :: m, k, v =>
    if k = k' then (k, v) :: m else if k < k' then (k, v) :: (k', v') :: m else (k', v') :: set1 m k v

/-- Writes a value, keeping the canonical form: the value an unlisted key reads as removes the entry. -/
def write {α : Type} [DecidableEq α] (m : SMap α) (dflt : α) (k : Nat) (v : α) : SMap α :=
  if v = dflt then drop1 m k else set1 m k v

/-- Writes a list of pairs, first to last. -/
def writes {α : Type} [DecidableEq α] (m : SMap α) (dflt : α) : List (Nat × α) → SMap α
  | [] => m
  | (k, v) :: rest => writes (write m dflt k v) dflt rest

/-- Changes an entry that is listed. -/
def alter {α : Type} (m : SMap α) (k : Nat) (f : α → α) : SMap α :=
  match look m k with
  | some v => set1 m k (f v)
  | none => m

/-- The entries of an ascending range [lo, hi). -/
def below {α : Type} (m : SMap α) (lo hi : Nat) : SMap α := m.filter fun e => lo ≤ e.1 && e.1 < hi

/-- The map without the entries of [lo, hi). -/
def without {α : Type} (m : SMap α) (lo hi : Nat) : SMap α := m.filter fun e => e.1 < lo || hi ≤ e.1

/-- Replaces the range [lo, lo + vs.length) by the values of a list; `dflt` entries are not listed. -/
def setRange {α : Type} [DecidableEq α] (m : SMap α) (dflt : α) (lo : Nat) (vs : List α) : SMap α :=
  (m.filter fun e => e.1 < lo) ++
    ((vs.zipIdx lo).filterMap fun e => if e.1 = dflt then none else some (e.2, e.1)) ++
    (m.filter fun e => lo + vs.length ≤ e.1)

/-- The keys of the entries. -/
def keys {α : Type} (m : SMap α) : List Nat := m.map Prod.fst

/-- The lowest key from `k` upward that no entry holds (`fuel` tries). -/
def freeKey {α : Type} (m : SMap α) : Nat → Nat → Nat
  | 0, k => k
  | fuel + 1, k => if (look m k).isSome then freeKey m fuel (k + 1) else k

/-- The canonical form. -/
abbrev wf {α : Type} (m : SMap α) (dflt : α) : Prop :=
  (m.map Prod.fst).Pairwise (· < ·) ∧ ∀ e ∈ m, e.2 ≠ dflt

/-- The canonical form of a map that has no default (an absent key is absent). -/
abbrev sorted {α : Type} (m : SMap α) : Prop := (m.map Prod.fst).Pairwise (· < ·)

end Sys2Proof.SMap
end

