-- ==== Sys2Proof/Machine/State.lean ====
section
/-!
DEFINITION. The state of the module: Gnover, eight channels, and the queue of waiting commands. Plain data.
Register fields bear the spec's register names in their docstrings; INVENTORY.md lists every one with its
rule and its reset value. Values that the spec leaves to fuses, flash or the start-up test are log entries 2
and 3; state that the spec gives no reset value starts at zero or empty (log entry 4).
-/

namespace Sys2Proof.Machine

/-- How the model stops. A job fault of Table 14.1 is never one of these: it is an effect on the state. -/
inductive Fault where
  /-- Raised by a thread-engine instruction whose register pair or group of four registers passes r63
  (R138 gives r0-r63 only). Safe: the run stops where the spec has no register. -/
  | registerPastEnd
deriving DecidableEq, Repr

/-- What the model declines to run. -/
inductive Refusal where
  /-- A command with no meaning yet, by its mnemonic. Raised by Dispatch alone. Safe: the run stops. -/
  | notModelled (mnemonic : String)
deriving DecidableEq, Repr

/-! ### What leaves the block -/

/-- Markers as a port sends them (Table 11.7). -/
inductive Marker where
  | halt (tree : BitVec 12) (acc : Nat)
  | tick (tree : BitVec 12) (commit : Bool) (frame : BitVec 8) (acc : Nat)
  | fault (tree : BitVec 12) (cause : BitVec 8) (reporter : ChanAddr)
  | done (tree : BitVec 12) (r : Report)
  | nak (seq : BitVec 12)
  | ack (seq : BitVec 12)
  | credit (k : CreditKind) (count : Nat)
  | echo (stamp : BitVec 52)
deriving DecidableEq, Repr

/-- Flits as a port sends them (Table 11.6). `passed` is a flit of another channel
that the router forwards. -/
inductive OutFlit where
  | write (dest : ChanAddr) (recs : List WriteRec)
  | read (dest : ChanAddr) (lines : List FabAddr)
  | rdata (dest : ChanAddr) (line : FabAddr) (data : List Granule)
  | combine (dest : ChanAddr) (off : BitVec 49) (data : List Granule)
  | wack (dest : ChanAddr) (n : Nat)
  | atomic (dest : ChanAddr) (recs : List AtomicRec)
  | respErr (dest : ChanAddr) (code : RespErr)
  | mcast (tree : BitVec 12) (entry : BitVec 8) (recs : List (ChanAddr × WriteRec)) (elem : Nat) (sums : List Granule)
  | reduce (tree : BitVec 12) (entry : BitVec 8) (elem : Nat) (ledgers : List Granule)
  | mgmt (dest : ChanAddr) (r : MgmtRec)
  | passed (src : ChanAddr) (f : OutFlit)
deriving DecidableEq, Repr

/-- What the block puts out: markers and flits on ports, writes to host memory, interrupts, replies to reads,
pins. The model's own record of the block's boundary (log entry 5). -/
inductive Output where
  | marker (c : Chan) (port : PortIx) (m : Marker) (copies : Nat)
  | flit (c : Chan) (port : PortIx) (seq : BitVec 12) (f : OutFlit)
  | hostWrite (fn : Nat) (addr : Nat) (bytes : List (BitVec 8))
  | msix (fn vec : Nat)
  | readData (v : BitVec 64)
  | noResponse
  | unsupported
  | bytes (bs : List (BitVec 8))
  | mgmtReply (bs : List (BitVec 8))
  | refused
  | ats (ctx : Nat) (addr : Nat)
  | atsDone (ctx hva size : Nat)
  | hostAtomic (fn addr : Nat) (w64 : Bool) (op : AtomOp) (val cmp : BitVec 64)
  | dead (dest : ChanAddr) (off : BitVec 49) (fill : Granule)
  | pin (name : String) (level : Bool)
  | setpoint (c : Chan) (mv : Nat)
  | droop (c : Chan) (mv : Nat)
  | csm (c : Chan)
  | jtag (name : String)
deriving DecidableEq, Repr

/-! ### A pump -/

/-- A range of lane-store rows (0), accumulator entries (1) or slice granules (2), and whether it is written (R68). -/
structure Touch where
  kind  : Fin 3
  lo    : Int
  hi    : Int
  write : Bool
deriving DecidableEq, Repr

/-- Granules [lo, hi) of global memory at a channel, and whether they are written (R141). -/
structure Foot where
  ch    : ChanAddr
  lo    : Nat
  hi    : Nat
  write : Bool
deriving DecidableEq, Repr

/-- An issued operation: its unit, its whole word, and what R68 takes at issue (x[AREG], x[SRC2] or the
descriptor address; the SETSR handle and base; the descriptor and window blocks read from data memory, the blocks' bytes 48-63
apart). `slice`, `foot`: what a transfer or a kernel touches in the own slice and in global memory; `pos`,
`scales`: granules that a BQS has appended, or steps that a DOT has done and its row scale buffer. -/
structure RowOp where
  unit : RowUnit
  word : BitVec 64
  reg  : BitVec 64
  srHandle : BitVec 32
  srBase : BitVec 64
  desc : BitVec 512
  args : BitVec 512
  srcWin : Window
  dstWin : Window
  srcResv : Nat
  dstResv : Nat
  slice : List Touch
  foot : List Foot
  pos  : Nat
  scales : List Granule
deriving DecidableEq, Repr

/-- Where a pump's controller stands: no program, issuing, at FENCE, stopped at DONE, reported frame done, or
stopped by a fault or halt. -/
inductive PumpRun where
  | idle | running | fence | done | reported | stopped
deriving DecidableEq, Repr

/-- A transfer that has begun: acknowledgements outstanding (R211), its global footprint for the order of R141. Code 15 stands for
the thread engine's writes and atomics, with the group slot that they are of. -/
structure Xfer where
  opc  : BitVec 4
  acks : Nat
  grp  : Option GSlot
  foot : List Foot
deriving DecidableEq, Repr

/-- A declared range of a kernel (Table 6.2). -/
structure KRange where
  base  : BitVec 64
  len   : Nat
  space : BitVec 2
  acc   : BitVec 2
deriving DecidableEq, Repr

/-- The kernel that is running (Table 6.2). -/
structure Kernel where
  entry   : Nat
  groups  : Nat
  kbar    : Bool
  combine : Bool
  handle  : BitVec 32
  args    : BitVec 512
  ranges  : List KRange
deriving DecidableEq, Repr

/-- What a path waits for (R150, R153, R154). -/
inductive PathState where
  | live | parked (join : Nat) | bar (n : Fin 4) | barK
deriving DecidableEq, Repr

/-- A path of a group: its threads, its next instruction, its return addresses, and the splits it stands in
(lanes of the split, join address), innermost first (R150). -/
structure Path where
  mask  : BitVec 32
  pc    : Nat
  st    : PathState
  calls : List Nat
  splits : List (BitVec 32 × Nat)
deriving DecidableEq, Repr

/-- A load of one lane whose line is not at hand: its ticket, first register, lane, registers and bytes, where it lies, and the
bytes that the group's own stores gave it at issue (R160). -/
structure TeLoad where
  ticket : Nat
  reg    : TReg
  lane   : Fin 32
  words  : Nat
  size   : Nat
  chan   : ChanAddr
  off    : Nat
  own    : List (Option (BitVec 8))
deriving DecidableEq, Repr

/-- A group in a slot (R138-R161): its index, its paths (the current one first), exited threads, registers
keyed thread x 64 + register, register cache (most recent first), store-buffer lines and bytes (each with whether a global store
wrote it), registers of lanes that await a load or atomic result, with the ticket of the instruction that will deliver it, results
that have arrived, loads whose lines are not at hand, and the next ticket. -/
structure Group where
  gid    : Nat
  paths  : List Path
  exited : BitVec 32
  regs   : SMap (BitVec 32)
  rcache : List TReg
  bufLines : List Nat
  buf    : SMap (BitVec 8 × Bool)
  awaiting : List (TReg × Fin 32 × Nat)
  arrived : List (TReg × Fin 32 × BitVec 32 × Nat)
  loads  : List TeLoad
  tickets : Nat
deriving DecidableEq, Repr

/-- A slice atomic queued by one lane (R163): group slot, lane, byte offset, form and operands, result
register if it returns a value, and its ticket; `ops`: the slice operations that the lane adds (R164). Without an operation it is
an addend of LADD (R166): the FP32 value in `val`, the window exponent in `cmp`. -/
structure SliceAtom where
  g    : GSlot
  lane : Fin 32
  addr : Nat
  w64  : Bool
  op   : Option AtomOp
  val  : BitVec 64
  cmp  : BitVec 64
  ret  : Option TReg
  ticket : Nat
  ops  : Nat
deriving DecidableEq, Repr

/-- A pump's thread engine (Table 6.1). Cache keys: slice byte offset, or 2^64 + the byte's key in the fabric; the oldest line
first; `codeUp`: what stored rows of 4 instructions differ by (R66). `atoms`:
slice atomics queued; `gatoms`: returning global atomics sent to a home on another channel (`addr` holds the
fabric address). -/
structure Te where
  kernel  : Option Kernel
  next    : Nat
  slots   : Vector (Option Group) 16
  turn    : Nat
  lines   : List Nat
  dirty   : SMap (BitVec 8 × Bool)
  atoms   : List SliceAtom
  gatoms  : List SliceAtom
  code    : SMap (BitVec 64)
  codeUp  : SMap CodeWord
  stall   : Nat
  ops     : Nat
deriving DecidableEq, Repr

/-- An echo of a pump's own global write (R220); `up`: what the stored code word differs by, here and in the other granules of
the held share (R250, R254). -/
structure Echo where
  at_  : FabAddr
  mask : BitVec 32
  data : Granule
  up   : CodeWord
deriving DecidableEq, Repr

/-- A shadow of a granule that its owner has written in this frame (R219). -/
structure Shadow where
  data  : Granule
  owner : BitVec 32
  frame : Nat
  up    : CodeWord
deriving DecidableEq, Repr

/-- The combines of one frame in an inbound granule beside a ledger (R133). -/
structure Inbound where
  frame : Nat
  val   : Granule
  up    : CodeWord
deriving DecidableEq, Repr

/-- A dead range (R227): job slot, first 4 KiB block, blocks, fill pattern of a granule, and the granules in it
that read as a scale granule of the fill block (R178). -/
structure DeadRange where
  slot  : SlotIx
  first : Nat
  count : Nat
  fill  : Granule
  scales : List Nat
deriving DecidableEq, Repr

/-- A cache line (R201, R216): its home line, the epoch tag of a remote line, the sectors present (none: the whole line), the
granules of a line of another channel by their place, and what stored granules differ by. -/
structure CLine where
  at_   : FabAddr
  epoch : Option (BitVec 16)
  sects : Option (List Nat)
  data  : SMap Granule
  up    : SMap CodeWord
deriving DecidableEq, Repr

/-- A slice (R199, R219-R232). A listed granule has its valid bit set; `upset` is what the stored code word
differs by from the code word of its data. `lines`: the oldest first; `streamed`: what has come for a transfer that allocates no
line (R176). -/
structure Slice where
  mem     : SMap Granule
  upset   : SMap CodeWord
  marks   : Vector (List Nat) 2
  shadows : SMap Shadow
  inbound : SMap (List Inbound)
  reserved : List Nat
  echoes  : List Echo
  dead    : List DeadRange
  lines   : List CLine
  streamed : List CLine
  oldMarks : Bool
  clearing : Bool
deriving DecidableEq, Repr

/-- A re-read that R249 has asked for. -/
structure Reread where
  gran : Nat
  path : CodeWord
deriving DecidableEq, Repr

/-- A logical pump and its slice (Tables 3.1, 6.1, 8.1). `progUp`, `dmemUp`, `laneUp` and the second part of a queue entry: what the
stored code word differs by from that of its data, by row of 32 bytes; `accBad`: accumulator entries of wrong parity (R66). `waits`: this
frame's waits by cause; `bondHits`: bond wires, group x 32 + wire, on which a read has been corrected (R248); `issued`: when the queued
operations of each unit were issued; `freeNs`: when each unit became free; `doneNs`: when the pump reported (R38, R98). -/
structure Pump where
  x     : SMap (BitVec 64)
  pc    : Nat
  entry : Option Nat
  run   : PumpRun
  srHandle : BitVec 32
  srBase   : BitVec 64
  prog  : SMap (BitVec 64)
  dmem  : SMap (BitVec 64)
  todo  : List RowOp
  queued  : Vector Nat 7
  running : Vector Nat 7
  bq    : List (Granule × CodeWord)
  lane  : SMap Granule
  acc   : SMap (BitVec 32)
  progUp : SMap CodeWord
  dmemUp : SMap CodeWord
  laneUp : SMap CodeWord
  accBad : List Nat
  waits  : Vector Nat 7
  issued : Vector (List Nat) 7
  freeNs : Vector Nat 7
  doneNs : Nat
  xfers : List Xfer
  te    : Te
  slice : Slice
  vch   : Nat
  index : Nat
  bondHits : List Nat
  reread : Option Reread
deriving DecidableEq, Repr

/-! ### A polder -/

/-- State of a switched domain (PWR_DOMAIN): OFF, SLEEP or RETAIN, RAMP, ON. -/
inductive DomState where
  | off | sleep | ramp | on
deriving DecidableEq, Repr

/-- PLD_LANE_REPAIR and PLD_BOND of one physical pump, the copies lost of its duplicated control bonds (bit 2 x signal + copy, R408),
PLD_TE_STAT's snapshot. -/
structure PumpRepair where
  repaired     : BitVec 16
  lanePending  : BitVec 16
  unrepairable : Bool
  spareUsed    : BitVec 54
  bondPending  : BitVec 54
  mapoutPending : Bool
  ctlLost      : BitVec 8
  stallCyc     : Nat
  atomOps      : Nat
deriving DecidableEq, Repr

/-- A polder's registers (PLD_PUMP_MAP, PLD_PAUSE, PLD_PWR_CFG, PLD_PWR_STAT), its ramp, when its ramp was asked for,
its hottest readings of the last second (R436), the repairs of its logical pumps, and those of the pump held unused (R95). -/
structure Polder where
  good     : BitVec 9
  sparePos : Nat
  degraded : Bool
  thermal  : Nat
  forced   : Nat
  slotMode : Bool
  upUs     : Nat
  stSlotMode : Bool
  stUpUs   : Nat
  dom      : DomState
  headroom : Nat
  tooHot   : Bool
  deferUs  : Nat
  deferrals : Nat
  step     : Nat
  rampDefers : Nat
  reqNs    : Nat
  hot      : List (Nat × Int)
  reserve  : Option SlotIx
  repair   : Vector PumpRepair 8
  spare    : PumpRepair
deriving DecidableEq, Repr

/-! ### A job slot -/

/-- CH_SLOT.STATE. -/
inductive SlotState where
  | free | admitting | running | halted | restoring | stopping
deriving DecidableEq, Repr

/-- STG_STATUS.STATE (Table 2.7). -/
inductive StgState where
  | clean | dirty | checking | checked | commitPending | failed
deriving DecidableEq, Repr

/-- The slot-scoped ST fields (Table 17.5). -/
structure SlotSet where
  periodUs : Nat
  wdogMs   : Nat
  interval : Nat
  limit    : Nat
  trickle  : Nat
deriving DecidableEq, Repr

/-- FLT_REC. -/
structure FltRec where
  cause    : BitVec 8
  valid    : Bool
  remove   : Bool
  count    : Nat
  unitKind : BitVec 4
  detail   : BitVec 4
  frame    : BitVec 48
  unit     : Nat
deriving DecidableEq, Repr

/-- An urgent item in a channel (R377): its well, its ring slot, its tag, entry, declared length, argument block,
eligibility. -/
structure UrgentItem where
  well  : Nat
  hdr   : Hdr
  entry : BitVec 8
  lenUs : Nat
  args  : BitVec 320
  eligible : Bool
  running  : Bool
  ctxFault : Bool
deriving DecidableEq, Repr

/-- A tick in its equalising delay (R322): what it carries, its path, and when it was issued or came. -/
structure PendingTick where
  commit : Bool
  path   : Nat
  ns     : Nat
deriving DecidableEq, Repr

/-- A checkpoint under way at a member (R392): its frame, whether it ends the job (STOP with CKPT), whether capture has
ended, what was captured. Slices are keyed by virtual channel x 256 + pump index; HBM granules and dead ranges by (allocation
handle, virtual channel) and their place in the allocation. `pwr`: the committed power-up mode and slot of its polders, ascending
(R57). -/
structure Ckpt where
  chan     : ChanAddr
  frame    : Nat
  final    : Bool
  captured : Bool
  pinned   : List (Nat × SMap Granule × List DeadRange)
  hbm      : List (Nat × SMap Granule × List DeadRange)
  config   : SlotSet
  pwr      : List (Bool × Nat)
deriving DecidableEq, Repr

/-- A host input bound to a frame, as a home holds it (R56): bytes held of its part. -/
structure BoundInput where
  number : Nat
  frame  : Nat
  got    : Nat
  complete : Bool
deriving DecidableEq, Repr

/-- A job slot of a channel: CH_FRAME_*, CH_WINDOW_CFG, CH_OVR_*, CH_CKPT_*, CH_SLOT, CIS_THRASH, CIS_STATUS,
CIS_CNT, LNK_TICK, FLT_REC, STG_STATUS, STG_ERR of that slot. -/
structure SlotRegs where
  set      : SlotSet
  windowUs : Nat
  windowLog2 : Nat
  frame    : Nat
  ovrFrames : Nat
  ovrMaxNs : Nat
  ovrCause : Vector Nat 7
  ckptLast : Nat
  ckptValid : Bool
  ckptBusy : Bool
  ckptSkipped : Nat
  thrash   : Bool
  deadRead : Bool
  deadSpill : Bool
  oobDrop  : Bool
  thrashFrame : BitVec 16
  cnt      : Vector Nat 8
  dmax     : Nat
  path     : Nat
  skew     : Bool
  skewCount : Nat
  flt      : FltRec
deriving DecidableEq, Repr

/-- The staging bank and its registers for one slot. `late`: the COMMIT came once the fence was being evaluated, and is considered at
the next (R62). -/
structure Staging where
  set      : SlotSet
  state    : StgState
  locked   : Bool
  tag      : BitVec 8
  fences   : Nat
  reason   : Nat
  errOff   : BitVec 22
  errBit   : Nat
  errChan  : ChanAddr
  checkTag : BitVec 8
  commitTag : BitVec 8
  late     : Bool
deriving DecidableEq, Repr

/-- CH_SLOT, and the job's fabric structures at this channel (R318, R321, R330, R343). `nominalNs`: nominal end of
the channel's own frame program (R38); `budgetNs`: S of the job (R35); `digest`: its image's digest (R459). -/
structure SlotJob where
  state    : SlotState
  strict   : Bool
  lead     : Bool
  acting   : Bool
  ctx      : Nat
  job      : Nat
  vch      : Nat
  nvch     : Nat
  polders  : BitVec 16
  tree     : BitVec 12
  parent   : Option PortIx
  children : List PortIx
  rset     : BitVec 2
  master   : ChanAddr
  failover : List ChanAddr
  buddy    : ChanAddr
  nonMembers : List ChanAddr
  members  : List ChanAddr
  nominalNs : Nat
  budgetNs : Nat
  depth    : Nat
  digest   : BitVec 256
deriving DecidableEq, Repr

/-- The frame in progress at this channel. `collDone`: collective entries begun (virtual
channel, number); `collGot`: bytes that collectives have delivered here. `ownNs`, `combNs`, `inputNs`: when the channel's own report
was made, up to when the wait after the combined report is counted, and when the last part of a bound input came (R36, R56). -/
structure SlotFrame where
  tickNs   : Nat
  issueNs  : Nat
  own      : Option Report
  reports  : List (PortIx × Report)
  combined : Option Report
  pend     : Option PendingTick
  faultFlag : Bool
  faultSeen : List (ChanAddr × BitVec 8)
  waits    : Vector Nat 7
  lines    : Nat
  thrashed : Bool
  notices  : List (ChanAddr × Nat)
  windowOpen : Bool
  windowNs : Nat
  deadSeen : List Nat
  deadFault : Bool
  cutFault : Option Nat
  ueFault : Option (Nat × Nat × Nat)
  collDone : List (Nat × BitVec 8)
  collGot  : Nat
  ownNs    : Nat
  combNs   : Nat
  inputNs  : Nat
deriving DecidableEq, Repr

/-- A job slot. -/
structure Slot where
  regs  : SlotRegs
  stg   : Staging
  job   : SlotJob
  fr    : SlotFrame
  inputs : List BoundInput
  urgents : List UrgentItem
  ckpt  : Option Ckpt
  ckptAsked : Bool
  stopAsked : Option Bool
  buddySlots : List Nat
deriving DecidableEq, Repr

/-! ### The cistern and HBM of a channel -/

/-- A held entry at its home (R217). -/
structure Held where
  slot  : SlotIx
  frame : Nat
  off   : BitVec 49
  mask  : BitVec 32
  data  : Granule
  key   : BitVec 23
  up    : CodeWord
deriving DecidableEq, Repr

/-- A global atomic held at its home (R165). -/
structure HeldAtom where
  slot  : SlotIx
  frame : Nat
  atom  : AtomicRec
deriving DecidableEq, Repr

/-- A dead declaration that takes effect at the next tick (R226): local offset of its first block, blocks, fill. -/
structure DeadDecl where
  slot  : SlotIx
  frame : Nat
  off   : BitVec 49
  count : Nat
  fill  : Granule
  scales : List Nat
deriving DecidableEq, Repr

/-- A fill-table entry (R212): its line, the sector it fetches in sector mode, the slices that wait for it, those that stream it
without a line (R176), the granules that have come from another channel by their place in the line; `started` once one has
come. -/
structure FillEnt where
  at_     : FabAddr
  sect    : Option Nat
  mask    : List PumpIx
  stream  : List PumpIx
  started : Bool
  slot    : SlotIx
  got     : SMap Granule
deriving DecidableEq, Repr

/-- An error-log entry (CIS_CE_LOG, CIS_UE_LOG). -/
structure LogEnt where
  source  : Nat
  owned   : Bool
  symbol  : Nat
  unit    : Nat
  addr    : Nat
  repeats : Nat
  firstMs : Nat
  wroteBack : Bool
deriving DecidableEq, Repr

/-- CIS_MODE, CIS_CLEAR, CIS_CE_COUNT, the logs, CIS_SCRUB_*. `ueTotal`: uncorrectable errors entered since the log was last
empty, the oldest of the last 8 first in `ueLog`. `bankUe`: the uncorrectable errors of HBM that faulted a job, as unit, bank and
milliseconds (R268). -/
structure Cistern where
  sector   : Bool
  modeErr  : Bool
  clrBusy  : Bool
  clrRefused : Bool
  ceCount  : Vector Nat 8
  ceLog    : List LogEnt
  ueLog    : List LogEnt
  ueTotal  : Nat
  bankUe   : List (Nat × Nat × Nat)
  cisRate  : Nat
  hbmRate  : Nat
  raise    : Nat
  auto     : Bool
  level    : Nat
  quiet    : Nat
  windowCe : Nat
  writeback : Bool
  space    : Bool
  unit     : Nat
  start    : BitVec 32
  count    : BitVec 32
  sumRead  : Nat
  sumCorr  : Nat
  sumUnc   : Nat
  sumFirst : Option Nat
  busy     : Bool
  busyErr  : Bool
  passUnit : Nat
  passHbm  : Bool
  passPos  : Nat
  passEnd  : Nat
  passWb   : Bool
  passFor  : Option (Hdr × Nat × Nat)
deriving DecidableEq, Repr

/-- HBM_CAP and HBM_STATUS of a stack. -/
structure Stack where
  lines    : Nat
  banksOut : Nat
  layersOut : Nat
  belowMin : Bool
  fused    : Bool
  pcUp     : BitVec 32
  rate     : BitVec 2
  refresh  : BitVec 2
  retrain  : Bool
  failPc   : Nat
  failPin  : Nat
  tempC    : Nat
  lanesRep : Nat
  odecc    : Nat
  refreshes : Nat
  recentred : Nat
  throttle : Bool
  lost     : Bool
deriving DecidableEq, Repr

/-! ### Ports, router, arbiters -/

/-- A job that uses a port of a channel where it holds no slot (R330): its claims' identity, its master and its failover list. -/
structure Through where
  who    : ClaimId
  ctx    : Nat
  job    : Nat
  master : ChanAddr
  failover : List ChanAddr
deriving DecidableEq, Repr

/-- LNK_PORT_STATUS.STATE (Table 11.2). -/
inductive PortState where
  | disabled | detect | train | active | drain | down
deriving DecidableEq, Repr

/-- A fabric port: LNK_PORT_CTRL, LNK_PORT_STATUS, LNK_PORT_CNT, its training, replay and slot table (`cursor`: the next
entry to open; `left`: flits that the open entry may still send; `eqNs`: when the open
equalisation entry closes; `credSeen`: cumulative credit counts received; `rxKind`: flits of each
kind taken in; `users`, `through`: the jobs that use it, R343's list). -/
structure Port where
  enable   : Bool
  maxWidth : BitVec 2
  refused  : Bool
  state    : PortState
  width    : BitVec 2
  group    : BitVec 2
  good     : BitVec 8
  compatDiff : Bool
  partnerCh : ChanAddr
  partnerPort : BitVec 4
  latQns   : BitVec 16
  narrowed : Bool
  los      : Bool
  cnt      : Vector Nat 8
  step     : Nat
  restarts : Nat
  nextSeq  : BitVec 12
  rxSeq    : BitVec 12
  replay   : List (BitVec 12 × OutFlit)
  waiting  : List OutFlit
  credits  : Vector Nat 4
  credSeen : Vector Nat 4
  rxKind   : Vector Nat 4
  table    : List SlotEntry
  cursor   : Nat
  left     : Nat
  eqNs     : Nat
  owner    : Option SlotIx
  users    : List SlotIx
  through  : List Through
deriving DecidableEq, Repr

/-- A tree-table entry (R321): ports, local delivery, parent, job slot it serves, inputs and size of its combining window, reports of a
node without a slot; what it has forwarded already of the copies of Table 11.7, and how far its combining window has moved. -/
structure Tree where
  mask   : BitVec 12
  deliver : Bool
  parent : Option PortIx
  slot   : Option SlotIx
  inputs : Nat
  window : Nat
  reports : List (PortIx × Report)
  lastTick : Option (BitVec 8)
  halt   : Bool
  faults : List (BitVec 8 × ChanAddr)
  ahead  : Nat
deriving DecidableEq, Repr

/-- A combining-store entry (R327): tree, collective entry, element, inputs so far, sum. -/
structure Combining where
  tree  : BitVec 12
  entry : BitVec 8
  elem  : Nat
  got   : Nat
  sum   : Granule
deriving DecidableEq, Repr

/-- A request raised at an arbitrated port (R273). -/
structure Req where
  cls  : ReqClass
  deadline : BitVec 32
  requester : Nat
  slot : Option SlotIx
  overdue : Bool
deriving DecidableEq, Repr

/-- An arbiter (R277-R281). `hold`: the job slots whose windows hold the port (R278). -/
structure Arb where
  reqs   : List Req
  d      : Vector Nat 7
  hold   : List SlotIx
  owner  : Option Nat
  run    : Nat
  cut    : Option Nat
  burst  : Bool
  freeze : Bool
  drained : Bool
deriving DecidableEq, Repr

/-- The channel-scoped ST fields: CIS_REGION, RG_SHARE, RG_CLASS, ARB_CFG (Table 17.5). Class c of RG_CLASS
and RG_SHARE stands at index c (index 0 is not used). -/
structure ChanSet where
  pin     : Nat
  pinMax  : Nat
  held    : Nat
  share   : Vector (Vector Nat 7) 2
  target  : Vector Nat 7
  ceil    : Vector Nat 7
  holdMax : Nat
  cutFault : Bool
deriving DecidableEq, Repr

/-- ARB_STATUS, the bandwidth counters, the buckets, and requests held at the master ports (R283-R285). A bucket: its
tokens in thousandths of a byte, and the time at which it held them. -/
structure Regul where
  cutoff  : Bool
  cutClass : Nat
  cutPort : Nat
  cutSlot : Nat
  cutNojob : Bool
  cutCount : Nat
  bw      : Vector (Vector (Nat × Nat) 7) 17
  snap    : Vector (Vector (Nat × Nat) 7) 17
  bucket  : Vector (Nat × Nat) 7
  trickle : Vector (Nat × Nat) 16
  held    : List (ArbPort × Req)
deriving DecidableEq, Repr

/-! ### Power, thermal, faults of a channel -/

/-- A temperature sensor: THM_SENSOR and its history (R432). -/
structure Sensor where
  raw    : Int
  eff    : Int
  suspect : Bool
  failed : Bool
  off8   : Nat
  staleN : Nat
  goodNs : Nat
deriving DecidableEq, Repr

/-- PWR_PHASE.STATE (Table 15.5). -/
inductive PhaseState where
  | normal | oneLost | capped | efficientOnly | out
deriving DecidableEq, Repr

/-- Where a channel stands in a change of operating mode (Table 1.7, R22). -/
inductive MoveState where
  | settled | intoEff | outEff | unconfirmed
deriving DecidableEq, Repr

/-- PWR_*, THM_STATUS, the operating point, the ramp queue (Chapter 15). -/
structure Power where
  clk15    : Bool
  setMv    : Nat
  move     : MoveState
  ca       : DomState
  cl       : DomState
  lk       : DomState
  hq       : DomState
  good     : BitVec 24
  phState  : PhaseState
  droopMv  : Nat
  capA     : Nat
  avgW     : Nat
  guard    : Nat
  guardErr : Bool
  phaseLost : Bool
  droopEmerg : Bool
  railFault : Bool
  emergCount : Nat
  emergNs  : Nat
  budget   : Nat
  railLost : Vector Nat 4
  ramping  : Option PolderIx
  rampQ    : List PolderIx
  badVolt  : BitVec 96
  bandgap  : Int
deriving DecidableEq, Repr

/-- THM_STATUS and the sensors. -/
structure Thermal where
  sensors  : Vector Sensor 96
  crit     : Bool
  coldWarn : Bool
  cold     : Bool
  stackThermal : Nat
  critNow  : Bool
  coldNow  : Bool
  stackTrip : Option StackIx
deriving DecidableEq, Repr

/-- A black-box event (Table 14.8). -/
structure Event where
  time  : Nat
  typ   : BitVec 8
  slot  : BitVec 8
  unit  : BitVec 16
  frame : BitVec 32
  detail : BitVec 128
deriving DecidableEq, Repr

/-- The black box (R409-R412). -/
structure Bbx where
  events  : SMap Event
  head    : Nat
  wrapped : Bool
  frozen  : Bool
  freezeIdx : Nat
  post    : Nat
  lost    : Nat
  index   : Nat
deriving DecidableEq, Repr

/-! ### Wells -/

/-- CH_WELL_STAT.STATE. -/
inductive WellState where
  | active | stopped | error
deriving DecidableEq, Repr

/-- A record that waits to be written (Table 13.5). -/
structure Record where
  status : BitVec 16
  index  : Nat
  event  : Bool
  tag    : BitVec 24
  result : BitVec 64
  noirq  : Bool
deriving DecidableEq, Repr

/-- A fetched descriptor that has not started: its header, its OPC, the status that its checks gave, if they failed, and the place of its
doorbell in the order of arrival at the host port (R365). -/
structure Fetched where
  hdr    : Hdr
  opc    : Nat
  status : Option Nat
  bell   : Nat
deriving DecidableEq, Repr

/-- A ring pair with its counts: a well's or an admin ring's (R363-R366, R370). `waiting`: descriptors
fetched and not started; `running`: commands started and not completed; `bells`: the doorbells whose descriptors are not all fetched,
with their PROD and their place in the order of arrival at the host port (R365); `firstNs`: when the oldest record not yet signalled
was written. -/
structure Ring where
  sqBase : Nat
  sqLog2 : Nat
  cqBase : Nat
  cqLog2 : Nat
  state  : WellState
  prod   : BitVec 32
  cqCons : BitVec 32
  fetched : BitVec 32
  written : BitVec 32
  bells  : List (BitVec 32 × Nat)
  waiting : List Fetched
  running : List Hdr
  fifo   : List Record
  vector : Nat
  coalCount : Nat
  coalUs : Nat
  unsignalled : Nat
  firstNs : Nat
  errCode : Nat
deriving DecidableEq, Repr

/-- A well in a channel: its ring and CH_WELL_STAT; for an urgent well the handle of its job (R376). -/
structure Well where
  ring  : Ring
  fn    : Nat
  ctx   : Nat
  loc   : Nat
  urgent : Option Nat
  evtLost : Bool
  dropped : Nat
deriving DecidableEq, Repr

/-! ### A channel -/

/-- Start-up and reset status of a channel: CH_ID, CH_STATUS, CH_RESET. -/
structure ChStatus where
  addr     : ChanAddr
  addrValid : Bool
  coldWait : Bool
  wrDrop   : Bool
  oos      : BitVec 12
  busy     : Bool
  embBusy  : Bool
  refused  : Bool
  lastScope : BitVec 2
  resetWanted : Option (BitVec 2)
  csmBad   : Nat
  unlisted : Bool
deriving DecidableEq, Repr

/-- Routes, trees and combining store of the channel router (R318-R328). -/
structure Router where
  routes : Vector (SMap (BitVec 4)) 4
  trees  : SMap Tree
  store  : List Combining
  seenMods : List (BitVec 64)
deriving DecidableEq, Repr

/-- A channel. `badLanes`: lanes whose checks fail, as physical pump, physical lane, and whether it is the duplicate adder (R96);
`badAdders`: physical slices whose ledger adder fails its residue check (R244); `badStore`: the combining store's adder does (R327).
`stalled`: reads for other channels that wait for a frozen HBM port (R280). -/
structure Channel where
  st      : ChStatus
  slots   : Vector Slot 16
  polders : Vector Polder 16
  pumps   : Vector Pump 128
  wells   : SMap Well
  set     : ChanSet
  stSet   : ChanSet
  cis     : Cistern
  hbm     : SMap Granule
  hbmUpset : SMap CodeWord
  hbmDead : List DeadRange
  stack   : Vector Stack 4
  held    : List Held
  atoms   : List HeldAtom
  decls   : List DeadDecl
  fills   : List FillEnt
  ports   : Vector Port 12
  router  : Router
  arbs    : Vector Arb 140
  reg     : Regul
  pwr     : Power
  thm     : Thermal
  bbx     : Bbx
  peekOff : BitVec 22
  peekSlot : SlotIx
  badLanes : List (Nat × Nat × Bool)
  badAdders : List Nat
  badStore : Bool
  claims  : List (ClaimId × Resource × Bool)
  stalled : List (FlitHdr × FabAddr)
deriving DecidableEq, Repr

/-! ### Contexts and jobs -/

/-- An allocation (R361): its kind, attributes, place and size. HBM: `base` is its first byte in the channel's
line space. Pinned: `base` is its byte in every slice of `slices`. Distributed: `shards` virtual channels,
bound at admission as (virtual channel, channel address, base). -/
structure Alloc where
  kind    : AllocKind
  pinned  : Bool
  exported : Bool
  channel : ChanAddr
  slices  : BitVec 128
  base    : Nat
  size    : Nat
  shards  : Nat
  bound   : List (Nat × ChanAddr × Nat × List PumpIx)
  dva     : Nat
  job     : Nat
deriving DecidableEq, Repr

/-- A mapping of host memory (MAP_HOST, R359). -/
structure HostMap where
  hva    : Nat
  size   : Nat
  dva    : Nat
  rights : BitVec 2
deriving DecidableEq, Repr

/-- A context (R356, Table 13.3). `ending`: it is being destroyed, by a CTX_DESTROY or a function level reset. -/
structure Ctx where
  fn     : Nat
  home   : Chan
  pasid  : BitVec 20
  pasidEn : Bool
  allocs : SMap Alloc
  descs  : SMap (BitVec 512)
  images : SMap JobImage
  maps   : SMap HostMap
  wells  : SMap (Chan × Nat)
  vfPage : Nat
  ending : Option (Option Hdr)
deriving DecidableEq, Repr

/-- A COPY into a bound input (R369): its input and frame, and the granules (channel, local granule) that its homes do not
hold yet. -/
structure HostCopy where
  hdr   : Hdr
  input : Nat
  frame : Nat
  left  : List (ChanAddr × Nat)
  bytes : Nat
deriving DecidableEq, Repr

/-- A host command whose transfer crosses a port to another module (R333): the channel and port, the home, records not yet
acknowledged, its bytes. -/
structure HostXfer where
  hdr   : Hdr
  chan  : Chan
  port  : PortIx
  dest  : ChanAddr
  left  : Nat
  bytes : Nat
deriving DecidableEq, Repr

/-- A job as Gnover of its lead module knows it (R337-R350, R373, R389). `place`: virtual channel, channel
address, polders. `trees`, `widths`: the physical number of each virtual tree, and the narrowest width on it (R321, R328). `routes`: the
entries (router, destination, port) that its route set holds for it; `claim`, `oldClaim`: the
claims that placement confirmed, and those whose buddies still hold the last checkpoint (R346, R396); `ckptNext`: commands for the
checkpoint after the one under way; `flow`: the fault flow has released the job and waits for repairs. -/
structure Job where
  image   : JobImage
  start   : Hdr
  well    : Nat
  admitted : Bool
  place   : List (Nat × ChanAddr × BitVec 16)
  slots   : List (ChanAddr × SlotIx)
  lead    : ChanAddr
  policy  : BitVec 256
  ckptCmds : List Hdr
  stopCmd : Option (Hdr × Bool)
  commitCmd : Option (Hdr × BitVec 8)
  checkCmds : List Hdr
  copies  : List HostCopy
  forced  : Option (Hdr × Chan)
  halts   : Nat
  haltFrame : Nat
  haltCause : BitVec 8
  halted  : Bool
  ckpts   : List (Nat × List Ckpt)
  restore : Option Nat
  depth   : Nat
  trees   : List (BitVec 12)
  widths  : List Nat
  rset    : BitVec 2
  routes  : List (ChanAddr × ChanAddr × BitVec 4)
  claim   : ClaimId
  oldClaim : Option ClaimId
  ckptNext : List Hdr
  flow    : Bool
deriving DecidableEq, Repr

/-- A placement under way (R346, R347): claims not yet answered, claims granted, the writes of its plan, those not yet
acknowledged. `firstNs`: its first attempt. -/
structure Placing where
  ctx     : Nat
  job     : Nat
  id      : ClaimId
  claims  : List (ChanAddr × Resource)
  granted : List (ChanAddr × Resource)
  tables  : List (ChanAddr × TableRec)
  writes  : List ChanAddr
  place   : List (Nat × ChanAddr × BitVec 16)
  trees   : List (BitVec 12)
  widths  : List Nat
  rset    : BitVec 2
  routes  : List (ChanAddr × ChanAddr × BitVec 4)
  depth   : Nat
  reruns  : Nat
  version : Nat
  firstNs : Nat
  startNs : Nat
  waiting : Bool
  restart : Bool
deriving DecidableEq, Repr

/-! ### Gnover -/

/-- A defect-list entry (Table 16.8). -/
structure Defect where
  kind  : BitVec 8
  chan  : BitVec 8
  st    : BitVec 8
  src   : BitVec 8
  unit  : BitVec 32
  loc   : BitVec 32
  first : BitVec 32
deriving DecidableEq, Repr

/-- The fuses (Table 16.1); `factory`: the factory repair map, as entries of kinds 1-5 (log entry 2). -/
structure Fuses where
  serial  : BitVec 64
  variant : BitVec 4
  present : BitVec 8
  limit   : BitVec 32
  root0   : BitVec 256
  root1   : Option (BitVec 256)
  revoke  : BitVec 2
  svn     : Vector Nat 3
  factory : List Defect
deriving DecidableEq, Repr

/-- A firmware bank (Table 16.2). -/
structure Bank where
  image  : Option FwImage
  valid  : Bool
deriving DecidableEq, Repr

/-- Firmware, security and start-up state (Chapter 16; MC_FW_STATUS, MC_FW_REV, MC_DEFECT, MC_SELFTEST). `testQ`, `testing`: tests
that wait and tests that run, with their test sets and the commands that wait for them; `onS`: powered-on seconds of the module's
earlier starts. -/
structure Firm where
  banks   : Vector (Vector Bank 2) 3
  activeB : Vector Bool 3
  ram     : Option FwImage
  runB    : Vector Bool 3
  runSvn  : Vector Nat 3
  runRev  : Vector (BitVec 32) 3
  runDigest : Vector (BitVec 256) 3
  safe    : Bool
  reason  : Nat
  recovery : Bool
  noMain  : Bool
  debugSeen : Bool
  listLost : Bool
  cset    : BitVec 32
  defects : List Defect
  defFull : Bool
  flash   : Vector (List (List Event)) 8
  challenge : Option (BitVec 256 × Nat)
  jobRoot : Option (BitVec 256)
  selftest : Vector (BitVec 64) 8
  testQ   : List (Chan × BitVec 8 × Option Hdr)
  testing : List (Chan × BitVec 8 × Option Hdr)
  started : Bool
  onS     : Nat
deriving DecidableEq, Repr

/-- IEEE 1149.1 instruction in effect (R468). -/
inductive Jtag where
  | bypass | idcode | sample | extest
deriving DecidableEq, Repr

/-- Where the main input stands (R437, R488). -/
inductive MainState where
  | absent | good | excursion | lost
deriving DecidableEq, Repr

/-- Module power and references: MC_OP_MODE, MC_PWR, MC_GRANT, inputs, oscillator. -/
structure ModPower where
  mode    : BitVec 2
  curMode : BitVec 2
  pending : Bool
  modeErr : Bool
  inputMv : Nat
  inputW  : Nat
  scaled  : Bool
  grant   : Vector Nat 8
  atGrant : BitVec 8
  main    : MainState
  auxOk   : Bool
  resetLow : Bool
  pwrOk   : Bool
  oscTrim : Int
  overRun : Nat
deriving DecidableEq, Repr

/-- The host link and endpoint: MC_HOST_LINK, MC_DBG, MSI-X (the vectors that are not masked). -/
structure HostPort where
  gen    : BitVec 3
  width  : BitVec 4
  flit   : Bool
  numVf  : Nat
  refclk : Bool
  dbgOpen : Bool
  dbgBase : BitVec 34
  msixOpen : List (Nat × Nat)
  msixPend : List (Nat × Nat)
  captured : List (Nat × BitVec 256)
  embRefused : Bool
deriving DecidableEq, Repr

/-- An admin ring with its registers (MC_ADM_*): size and base as written, enables, the ring in use. -/
structure Admin where
  sqLog2 : Nat
  sqEn   : Bool
  sqBase : Nat
  cqLog2 : Nat
  cqEn   : Bool
  cqBase : Nat
  err    : Bool
  ring   : Option Ring
deriving DecidableEq, Repr

/-- The fabric as Gnover knows it: MC_MODULE_ID, MC_MAP_VERSION, MC_PLACE_STAT, the map, discovery. -/
structure Fabric where
  id      : BitVec 12
  pinId   : BitVec 12
  pinEn   : Bool
  pinConflict : Bool
  full    : Bool
  idValid : Bool
  version : Nat
  map     : List MapChan
  mods    : List ModRecord
  ids     : List (BitVec 64 × BitVec 12)
  keeper  : BitVec 12
  placeState : BitVec 3
  placeCode : BitVec 8
  reruns  : Nat
  lastMs  : Nat
  attempts : Nat
  placing : Option Placing
deriving DecidableEq, Repr

/-- The module controller. -/
structure Gnover where
  fuses  : Fuses
  inReset : Bool
  inService : BitVec 8
  pwr    : ModPower
  host   : HostPort
  admins : SMap Admin
  ctxs   : SMap Ctx
  jobs   : SMap Job
  fab    : Fabric
  firm   : Firm
  jtag   : Jtag
  remote : List HostXfer
deriving DecidableEq, Repr

/-- The module. `freeCtr` counts the free values taken (log entry 7). -/
structure State where
  pending : List Instr
  timeNs  : Nat
  freeCtr : Nat
  outputs : List Output
  mc      : Gnover
  ch      : Vector Channel 8
deriving DecidableEq, Repr

/-! ### Reset -/

def Te.reset : Te :=
  { kernel := none, next := 0, slots := Vector.replicate 16 none, turn := 0, lines := [], dirty := [],
    atoms := [], gatoms := [], code := [], codeUp := [], stall := 0, ops := 0 }

def Slice.reset : Slice :=
  { mem := [], upset := [], marks := Vector.replicate 2 [], shadows := [], inbound := [], reserved := [],
    echoes := [], dead := [], lines := [], streamed := [], oldMarks := false, clearing := false }

def Pump.reset : Pump :=
  { x := [], pc := 0, entry := none, run := .idle, srHandle := 0, srBase := 0, prog := [], dmem := [],
    todo := [], queued := Vector.replicate 7 0, running := Vector.replicate 7 0, bq := [], lane := [],
    acc := [], progUp := [], dmemUp := [], laneUp := [], accBad := [], waits := Vector.replicate 7 0,
    issued := Vector.replicate 7 [], freeNs := Vector.replicate 7 0, doneNs := 0, xfers := [], te := Te.reset, slice := Slice.reset, vch := 0, index := 0, bondHits := [],
    reread := none }

def PumpRepair.reset : PumpRepair :=
  { repaired := 0, lanePending := 0, unrepairable := false, spareUsed := 0, bondPending := 0,
    mapoutPending := false, ctlLost := 0, stallCyc := 0, atomOps := 0 }

/-- GOOD and SPARE_POS come from the start-up test: DESIGN CHOICE, log entry 3. -/
def Polder.reset : Polder :=
  { good := 0x1FF, sparePos := 8, degraded := false, thermal := 0, forced := 0, slotMode := false, upUs := 0,
    stSlotMode := false, stUpUs := 0, dom := .off, headroom := 0, tooHot := false, deferUs := 0,
    deferrals := 0, step := 0, rampDefers := 0, reqNs := 0, hot := [], reserve := none, repair := Vector.replicate 8 PumpRepair.reset,
    spare := PumpRepair.reset }

def SlotSet.reset : SlotSet := { periodUs := 200, wdogMs := 1000, interval := 0, limit := 0x10000, trickle := 16 }

def FltRec.reset : FltRec :=
  { cause := 0, valid := false, remove := false, count := 0, unitKind := 0, detail := 0, frame := 0, unit := 0 }

def SlotRegs.reset : SlotRegs :=
  { set := SlotSet.reset, windowUs := 0, windowLog2 := 0, frame := 0, ovrFrames := 0, ovrMaxNs := 0,
    ovrCause := Vector.replicate 7 0, ckptLast := 0, ckptValid := false, ckptBusy := false, ckptSkipped := 0,
    thrash := false, deadRead := false, deadSpill := false, oobDrop := false, thrashFrame := 0,
    cnt := Vector.replicate 8 0, dmax := 0, path := 0, skew := false, skewCount := 0, flt := FltRec.reset }

def Staging.reset : Staging :=
  { set := SlotSet.reset, state := .clean, locked := false, tag := 0, fences := 0, reason := 0, errOff := 0,
    errBit := 0, errChan := 0, checkTag := 0, commitTag := 0, late := false }

def SlotJob.reset : SlotJob :=
  { state := .free, strict := false, lead := false, acting := false, ctx := 0, job := 0, vch := 0, nvch := 0,
    polders := 0, tree := 0, parent := none, children := [], rset := 0, master := 0, failover := [],
    buddy := 0, nonMembers := [], members := [], nominalNs := 0, budgetNs := 0,
    depth := 0, digest := 0 }

def SlotFrame.reset : SlotFrame :=
  { tickNs := 0, issueNs := 0, own := none, reports := [], combined := none, pend := none,
    faultFlag := false, faultSeen := [], waits := Vector.replicate 7 0, lines := 0,
    thrashed := false, notices := [], windowOpen := false, windowNs := 0,
    deadSeen := [], deadFault := false, cutFault := none, ueFault := none, collDone := [], collGot := 0,
    ownNs := 0, combNs := 0, inputNs := 0 }

def Slot.reset : Slot :=
  { regs := SlotRegs.reset, stg := Staging.reset, job := SlotJob.reset, fr := SlotFrame.reset, inputs := [],
    urgents := [], ckpt := none, ckptAsked := false, stopAsked := none, buddySlots := [] }

def Cistern.reset : Cistern :=
  { sector := false, modeErr := false, clrBusy := false, clrRefused := false, ceCount := Vector.replicate 8 0,
    ceLog := [], ueLog := [], ueTotal := 0, bankUe := [], cisRate := 8, hbmRate := 16, raise := 64, auto := true, level := 0, quiet := 0,
    windowCe := 0, writeback := true, space := false, unit := 0, start := 0, count := 0, sumRead := 0,
    sumCorr := 0, sumUnc := 0, sumFirst := none, busy := false, busyErr := false, passUnit := 0,
    passHbm := false, passPos := 0, passEnd := 0, passWb := false, passFor := none }

/-- LINES comes from the defect list (none): Table 9.8, log entry 2. -/
def Stack.reset : Stack :=
  { lines := 33554432, banksOut := 0, layersOut := 0, belowMin := false, fused := false, pcUp := 0, rate := 0,
    refresh := 0, retrain := false, failPc := 0, failPin := 0, tempC := 0, lanesRep := 0, odecc := 0,
    refreshes := 0, recentred := 0, throttle := false, lost := false }

def Port.reset : Port :=
  { enable := true, maxWidth := 0, refused := false, state := .disabled, width := 3, group := 0, good := 0,
    compatDiff := false, partnerCh := 0, partnerPort := 0, latQns := 0, narrowed := false, los := false,
    cnt := Vector.replicate 8 0, step := 0, restarts := 0, nextSeq := 0, rxSeq := 0, replay := [],
    waiting := [], credits := Vector.replicate 4 32, credSeen := Vector.replicate 4 0,
    rxKind := Vector.replicate 4 0, table := [], cursor := 0, left := 0, eqNs := 0, owner := none, users := [], through := [] }

def Arb.reset : Arb :=
  { reqs := [], d := Vector.replicate 7 0, hold := [], owner := none, run := 0, cut := none, burst := false,
    freeze := false, drained := false }

/-- Reset values of Table 10.2 and of CIS_REGION and ARB_CFG. -/
def ChanSet.reset : ChanSet :=
  { pin := 48, pinMax := 48, held := 4,
    share := #v[#v[0, 160, 32, 24, 8, 16, 8], #v[0, 176, 32, 16, 0, 24, 0]],
    target := #v[0, 200, 400, 800, 2000, 4000, 20000], ceil := Vector.replicate 7 0, holdMax := 32,
    cutFault := false }

def Regul.reset : Regul :=
  { cutoff := false, cutClass := 0, cutPort := 0, cutSlot := 0, cutNojob := false, cutCount := 0,
    bw := Vector.replicate 17 (Vector.replicate 7 (0, 0)),
    snap := Vector.replicate 17 (Vector.replicate 7 (0, 0)),
    bucket := Vector.replicate 7 (8192000, 0), trickle := Vector.replicate 16 (8192000, 0), held := [] }

def Sensor.reset : Sensor :=
  { raw := 0, eff := 0, suspect := false, failed := false, off8 := 0, staleN := 0, goodNs := 0 }

/-- GOOD comes from the module start's phase test: DESIGN CHOICE, log entry 3. -/
def Power.reset : Power :=
  { clk15 := false, setMv := 0, move := .settled, ca := .off, cl := .off, lk := .off, hq := .off,
    good := 0xFFFFFF, phState := .normal, droopMv := 0, capA := 0, avgW := 0, guard := 12, guardErr := false,
    phaseLost := false, droopEmerg := false, railFault := false, emergCount := 0, emergNs := 0, budget := 0,
    railLost := Vector.replicate 4 0, ramping := none, rampQ := [], badVolt := 0,
    bandgap := 0 }

def Thermal.reset : Thermal :=
  { sensors := Vector.replicate 96 Sensor.reset, crit := false, coldWarn := false, cold := false,
    stackThermal := 0, critNow := false, coldNow := false, stackTrip := none }

def Bbx.reset : Bbx :=
  { events := [], head := 0, wrapped := false, frozen := false, freezeIdx := 0, post := 0, lost := 0, index := 0 }

/-- OOS holds reason 0x01, start-up in progress (CH_STATUS.OOS resets to 0x01). Bit r of `oos`: reason r. -/
def ChStatus.reset : ChStatus :=
  { addr := 0, addrValid := false, coldWait := false, wrDrop := false, oos := 2, busy := false, embBusy := false,
    refused := false, lastScope := 0, resetWanted := none, csmBad := 0, unlisted := false }

def Router.reset : Router := { routes := Vector.replicate 4 [], trees := [], store := [], seenMods := [] }

def Channel.reset : Channel :=
  { st := ChStatus.reset, slots := Vector.replicate 16 Slot.reset, polders := Vector.replicate 16 Polder.reset,
    pumps := Vector.replicate 128 Pump.reset, wells := [], set := ChanSet.reset, stSet := ChanSet.reset,
    cis := Cistern.reset, hbm := [], hbmUpset := [], hbmDead := [], stack := Vector.replicate 4 Stack.reset,
    held := [], atoms := [], decls := [], fills := [], ports := Vector.replicate 12 Port.reset,
    router := Router.reset, arbs := Vector.replicate 140 Arb.reset, reg := Regul.reset, pwr := Power.reset,
    thm := Thermal.reset, bbx := Bbx.reset, peekOff := 0, peekSlot := 0, badLanes := [], badAdders := [], badStore := false, claims := [],
    stalled := [] }

/-- Fuse values are the model's: a BX-D840 with serial 0 (DESIGN CHOICE, log entry 2). -/
def Fuses.reset : Fuses :=
  { serial := 0, variant := 0, present := 0xFF, limit := 0, root0 := 0, root1 := none, revoke := 0,
    svn := Vector.replicate 3 0, factory := [] }

def Bank.reset : Bank := { image := none, valid := false }

def Firm.reset : Firm :=
  { banks := Vector.replicate 3 (Vector.replicate 2 Bank.reset), activeB := Vector.replicate 3 false, ram := none,
    runB := Vector.replicate 3 false, runSvn := Vector.replicate 3 0, runRev := Vector.replicate 3 0,
    runDigest := Vector.replicate 3 0, safe := false, reason := 0, recovery := false, noMain := false, debugSeen := false,
    listLost := false, cset := 0, defects := [], defFull := false, flash := Vector.replicate 8 [],
    challenge := none, jobRoot := none, selftest := Vector.replicate 8 0, testQ := [], testing := [],
    started := false, onS := 0 }

def ModPower.reset : ModPower :=
  { mode := 0, curMode := 0, pending := false, modeErr := false, inputMv := 0, inputW := 0, scaled := false,
    grant := Vector.replicate 8 0, atGrant := 0, main := .absent, auxOk := true, resetLow := false,
    pwrOk := false, oscTrim := 0, overRun := 0 }

def HostPort.reset : HostPort :=
  { gen := 0, width := 0, flit := false, numVf := 0, refclk := true, dbgOpen := false, dbgBase := 0,
    msixOpen := [], msixPend := [], captured := [], embRefused := false }

def Fabric.reset : Fabric :=
  { id := 0, pinId := 0, pinEn := false, pinConflict := false, full := false, idValid := false, version := 0,
    map := [], mods := [], ids := [], keeper := 0, placeState := 0, placeCode := 0, reruns := 0, lastMs := 0,
    attempts := 0, placing := none }

def Gnover.reset : Gnover :=
  { fuses := Fuses.reset, inReset := false, inService := 0, pwr := ModPower.reset, host := HostPort.reset,
    admins := [], ctxs := [], jobs := [], fab := Fabric.reset, firm := Firm.reset, jtag := .bypass,
    remote := [] }

/-- The module right after a module reset, before its cold start has run (R449): no command waiting. -/
def State.reset : State :=
  { pending := [], timeNs := 0, freeCtr := 0, outputs := [], mc := Gnover.reset,
    ch := Vector.replicate 8 Channel.reset }

end Sys2Proof.Machine
end

