-- ==== Sys2Proof/Machine/Ops.lean ====
section
/-!
DEFINITION. The named operations over the state: access to channels, pumps, slots and ports; outputs, markers and
flits; the black box; taking a job fault (R385-R387, R331) and the frame-done report; completion records.
-/

namespace Sys2Proof.Machine

/-- What a meaning answers. -/
abbrev Res := Host.Outcome State Fault Refusal

/-- An event whose condition the spec states and which does not hold changes nothing (log entry 9). -/
def onlyIf (g : Bool) (s t : State) : Res := .next (if g then t else s)

/-! ### Access -/

def State.chan (s : State) (c : Chan) : Channel := s.ch[c.val]
def State.onChan (s : State) (c : Chan) (f : Channel → Channel) : State := { s with ch := upd s.ch c f }

def State.pump (s : State) (c : Chan) (p : PumpIx) : Pump := (s.chan c).pumps[p.val]
def State.onPump (s : State) (c : Chan) (p : PumpIx) (f : Pump → Pump) : State :=
  s.onChan c fun h => { h with pumps := upd h.pumps p f }

def State.slice (s : State) (c : Chan) (p : PumpIx) : Slice := (s.pump c p).slice
def State.onSlice (s : State) (c : Chan) (p : PumpIx) (f : Slice → Slice) : State :=
  s.onPump c p fun q => { q with slice := f q.slice }

def State.slot (s : State) (c : Chan) (j : SlotIx) : Slot := (s.chan c).slots[j.val]
def State.onSlot (s : State) (c : Chan) (j : SlotIx) (f : Slot → Slot) : State :=
  s.onChan c fun h => { h with slots := upd h.slots j f }
def State.onFr (s : State) (c : Chan) (j : SlotIx) (f : SlotFrame → SlotFrame) : State :=
  s.onSlot c j fun x => { x with fr := f x.fr }
def State.onRegs (s : State) (c : Chan) (j : SlotIx) (f : SlotRegs → SlotRegs) : State :=
  s.onSlot c j fun x => { x with regs := f x.regs }
def State.onStg (s : State) (c : Chan) (j : SlotIx) (f : Staging → Staging) : State :=
  s.onSlot c j fun x => { x with stg := f x.stg }

def State.port (s : State) (c : Chan) (p : PortIx) : Port := (s.chan c).ports[p.val]
def State.onPort (s : State) (c : Chan) (p : PortIx) (f : Port → Port) : State :=
  s.onChan c fun h => { h with ports := upd h.ports p f }

def State.polder (s : State) (c : Chan) (p : PolderIx) : Polder := (s.chan c).polders[p.val]
def State.onPolder (s : State) (c : Chan) (p : PolderIx) (f : Polder → Polder) : State :=
  s.onChan c fun h => { h with polders := upd h.polders p f }

def State.onCis (s : State) (c : Chan) (f : Cistern → Cistern) : State :=
  s.onChan c fun h => { h with cis := f h.cis }
def State.onPwr (s : State) (c : Chan) (f : Power → Power) : State :=
  s.onChan c fun h => { h with pwr := f h.pwr }
def State.onSt (s : State) (c : Chan) (f : ChStatus → ChStatus) : State :=
  s.onChan c fun h => { h with st := f h.st }
def State.onMc (s : State) (f : Gnover → Gnover) : State := { s with mc := f s.mc }
def State.onCtx (s : State) (n : Nat) (f : Ctx → Ctx) : State :=
  s.onMc fun m => { m with ctxs := m.ctxs.alter n f }

/-- Work folded over a list. -/
def State.each {α : Type} (s : State) (l : List α) (f : State → α → State) : State := l.foldl f s

/-! ### Numbers of units -/

/-- Polder of a logical pump (R12). -/
def polderOf (p : PumpIx) : PolderIx := ⟨p.val / 8, by omega⟩

/-- Logical pump k of a polder (R12). -/
def pumpOf (pd : PolderIx) (k : Fin 8) : PumpIx := ⟨8 * pd.val + k.val, by omega⟩

/-- Physical pump, and slice, of a logical pump (R12): the held-unused position is passed over; with none held unused, the
spare (position 8) has the number of the pump it replaces. -/
def physOf (h : Channel) (p : PumpIx) : Nat :=
  let q := h.polders[(polderOf p).val]
  let k := p.val % 8
  9 * (p.val / 8) +
    (if q.sparePos = 15 then (if q.good.getLsbD k then k else 8) else if k < q.sparePos then k else k + 1)

/-- Logical pump of a physical one, if it is in use (R12). -/
def logicalOf (h : Channel) (phys : Nat) : Option PumpIx := (List.finRange 128).find? fun p => physOf h p == phys

/-- Address of a channel of this module (R313). -/
def State.addrOf (s : State) (c : Chan) : ChanAddr := s.mc.fab.id.setWidth 15 <<< 3 ||| BitVec.ofNat 15 c.val

/-- The channel of this module that an address names. -/
def State.localChan (s : State) (a : ChanAddr) : Option Chan :=
  if a >>> 3 = s.mc.fab.id.setWidth 15 then some ⟨a.toNat % 8, Nat.mod_lt _ (by decide)⟩ else none

/-- A slot that holds a job. -/
def Slot.live (x : Slot) : Bool := x.job.state != .free

/-- The slots of a channel that hold a job. -/
def Channel.liveSlots (h : Channel) : List SlotIx := (List.finRange 16).filter fun j => h.slots[j.val].live

/-- The slot whose job holds a polder. -/
def Channel.slotOfPolder (h : Channel) (pd : PolderIx) : Option SlotIx :=
  h.liveSlots.find? fun j => h.slots[j.val].job.polders.getLsbD pd.val

/-- The slot whose job holds a pump. -/
def Channel.slotOf (h : Channel) (p : PumpIx) : Option SlotIx := h.slotOfPolder (polderOf p)

/-- The pumps of a job in a channel, ascending. -/
def Channel.pumpsOf (h : Channel) (j : SlotIx) : List PumpIx :=
  (List.finRange 128).filter fun p => h.slots[j.val].job.polders.getLsbD (p.val / 8)

/-- The slot of a job in a channel. -/
def Channel.slotOfJob (h : Channel) (ctx job : Nat) : Option SlotIx :=
  h.liveSlots.find? fun j => h.slots[j.val].job.ctx == ctx && h.slots[j.val].job.job == job

/-- Frame number of the job that holds a pump (0 without one). -/
def State.frameOf (s : State) (c : Chan) (p : PumpIx) : Nat :=
  match (s.chan c).slotOf p with
  | some j => (s.slot c j).regs.frame
  | none => 0

/-- Pinned size of every slice of a channel, in granules (R203). -/
def Channel.pinned (h : Channel) : Nat := h.set.pin * 8192

/-- Held share of a slice, in granules (R203). -/
def Channel.heldShare (h : Channel) : Nat := h.set.held * 8192

/-! ### Outputs -/

def State.emit (s : State) (o : Output) : State := { s with outputs := s.outputs ++ [o] }

/-- A port that sends flits, and with them markers: ACTIVE, or DRAIN with IDLE flits (Table 11.2, R304). -/
def Port.speaks (p : Port) : Bool := p.state == .active || p.state == .drain

/-- A marker sent on a port: TICK, HALT, FAULT and DONE in three copies (Table 11.7). -/
def State.marker (s : State) (c : Chan) (port : PortIx) (m : Marker) : State :=
  let n := match m with
    | .halt .. | .tick .. | .fault .. | .done .. => 3
    | _ => 1
  if (s.port c port).speaks then s.emit (.marker c port m n) else s

/-- Credit kind of a flit (R305): 0 REQUEST, 1 RESPONSE, 2 MCAST, 3 REDUCE. -/
def OutFlit.kind : OutFlit → Fin 4
  | .rdata .. | .wack .. | .respErr ..  => 1
  | .mcast .. => 2
  | .reduce .. => 3
  | .passed _ f => f.kind
  | _ => 0

/-- Whether a flit goes in the open slot entry: a LOCAL entry with flits left (Table 11.8, R308), or a
transit entry for a flit that passes through. -/
def Port.inEntry (p : Port) (f : OutFlit) : Bool :=
  p.left != 0 && p.cursor != 0 &&
    (match f, p.table[p.cursor - 1]? with
     | .passed .., some e => e.owner.toNat < 12
     | _, some e => e.owner == 0xC
     | _, none => false)

/-- Sends one flit on a port: it takes a credit and a place in the replay buffer (R305, R306), in the open slot entry or in
open time (R308, R309). -/
def State.sendNow (s : State) (c : Chan) (port : PortIx) (f : OutFlit) : State :=
  let p := s.port c port
  let cnt := upd p.cnt 0 (sat64 · 1)
  (s.onPort c port fun q => { q with
    nextSeq := p.nextSeq + 1, replay := p.replay ++ [(p.nextSeq, f)],
    credits := upd p.credits f.kind (· - 1), left := if p.inEntry f then p.left - 1 else p.left,
    cnt := if p.inEntry f then cnt else upd cnt 5 (sat64 · 1) }).emit
      (.flit c port p.nextSeq f)

/-- Whether a port can send a flit at once. -/
def Port.canSend (p : Port) (f : OutFlit) : Bool :=
  p.state == .active && 0 < p.credits[f.kind.val] && p.replay.length < 128

/-- Whether FREEZE is set for the egress of a fabric port (R280). -/
def Channel.portFrozen (h : Channel) (p : PortIx) : Bool := (h.arbs[128 + p.val]'(by omega)).freeze

/-- Whether a flit passes through this channel. -/
def OutFlit.passedOn : OutFlit → Bool
  | .passed .. => true
  | _ => false

/-- Whether a flit waits at a frozen egress: one that this channel originates (R280, Table 10.1). -/
def Channel.freezes (h : Channel) (p : PortIx) (f : OutFlit) : Bool := h.portFrozen p && !f.passedOn

/-- Sends a flit on a port, or leaves it waiting behind earlier ones of its kind: no kind waits for another (R305). -/
def State.sendFlit (s : State) (c : Chan) (port : PortIx) (f : OutFlit) : State :=
  if ((s.port c port).waiting.all fun w => w.kind != f.kind || (s.chan c).freezes port w) && (s.port c port).canSend f &&
      !(s.chan c).freezes port f then
    s.sendNow c port f
  else s.onPort c port fun q => { q with waiting := q.waiting ++ [f] }

/-- Sends waiting flits as the credits of their kinds and the replay buffer allow (at most `fuel`). -/
def State.flush (s : State) (c : Chan) (port : PortIx) : Nat → State
  | 0 => s
  | fuel + 1 =>
    match (s.port c port).waiting.find? fun f => !(s.chan c).freezes port f && (s.port c port).canSend f with
    | none => s
    | some f => ((s.onPort c port fun q => { q with waiting := q.waiting.erase f }).sendNow c port f).flush c port fuel

/-! ### The black box (R409-R412) -/

/-- Writes an event. Outside a freeze it goes to HEAD; inside, into the post-fault ring of 256 (R411). -/
def Bbx.write (b : Bbx) (e : Event) : Bbx :=
  if b.frozen then
    let at_ := (b.freezeIdx + 1 + b.post % 256) % 2048
    { b with
      events := b.events.set1 at_ e, post := b.post + 1,
      head := (b.freezeIdx + 1 + (b.post + 1) % 256) % 2048,
      wrapped := b.wrapped || at_ == 2047, lost := if 256 ≤ b.post then sat16 b.lost 1 else b.lost }
  else
    { b with
      events := b.events.set1 b.head e, head := (b.head + 1) % 2048, wrapped := b.wrapped || b.head == 2047 }

/-- Freezes the box around the event just written; a box already frozen stays as it is (R411). -/
def Bbx.freeze (b : Bbx) : Bbx :=
  if b.frozen then b
  else { b with frozen := true, freezeIdx := (b.head + 2047) % 2048, post := 0 }

/-- Ends a freeze: the ring goes on after the newest post-fault entry (R412). -/
def Bbx.release (b : Bbx) : Bbx :=
  if b.frozen then
    { b with frozen := false, post := 0,
             head := if b.post = 0 then (b.freezeIdx + 1) % 2048
                     else (b.freezeIdx + 2 + (b.post - 1) % 256) % 2048 }
  else b

/-- Writes an event of a type to a channel's black box (Table 14.8); FRAME is that of the slot's job. -/
def State.event (s : State) (c : Chan) (typ : Nat) (slot : Option SlotIx) (unit : Nat) (d : BitVec 128) : State :=
  let e : Event :=
    { time := s.timeNs, typ := BitVec.ofNat 8 typ,
      slot := match slot with | some j => BitVec.ofNat 8 j.val | none => 0xFF,
      unit := BitVec.ofNat 16 unit,
      frame := match slot with | some j => BitVec.ofNat 32 (s.slot c j).regs.frame | none => 0,
      detail := d }
  s.onChan c fun h => { h with bbx := h.bbx.write e }

/-! ### Frame-done reports (R30, R34, R324) -/

/-- Combines two reports: FAULT by OR, one "all checked with tag" bit, and the later of the two (R34). -/
def joinReport (a b : Report) : Report :=
  { fault := a.fault || b.fault, checked := a.checked && b.checked && a.tag == b.tag, tag := a.tag,
    cause := if a.late < b.late then b.cause else a.cause,
    late := max a.late b.late, lateCh := if a.late < b.late then b.lateCh else a.lateCh }

/-- Combines a report with those of the children. -/
def joinReports (a : Report) (l : List (PortIx × Report)) : Report := l.foldl (fun r x => joinReport r x.2) a

/-- Once a member holds its own report and every child's, it forwards one combined report to its parent; the
tick master keeps it (R31, R324). -/
def State.tryForward (s : State) (c : Chan) (j : SlotIx) : State :=
  let x := s.slot c j
  match x.fr.own, x.fr.combined with
  | some own, none =>
    if x.job.children.all fun p => x.fr.reports.any fun e => e.1 == p then
      let r := joinReports own x.fr.reports
      let t := s.onFr c j fun f => { f with combined := some r, combNs := s.timeNs }
      match x.job.parent with
      | some up => if x.job.acting then t else t.marker c up (.done x.job.tree r)
      | none => t
    else s
  | _, _ => s

/-- The staging half of a member's report: CHECKED, and its tag (R34). -/
def Slot.checked (x : Slot) : Bool := x.stg.state == .checked || x.stg.state == .commitPending

/-- Sends a member's own report, once per frame. -/
def State.report (s : State) (c : Chan) (j : SlotIx) (fault : Bool) (cause : Fin 7) (late : Nat) : State :=
  let x := s.slot c j
  if x.fr.own.isSome then s
  else
    let r : Report := { fault := fault || x.fr.faultFlag, checked := x.checked, tag := x.stg.checkTag,
                        cause := cause, late := late, lateCh := s.addrOf c }
    (s.onFr c j fun f => { f with own := some r, ownNs := s.timeNs }).tryForward c j

/-! ### Job faults (R385-R388) -/

/-- Cause codes of Table 14.1. -/
inductive Cause where
  | dataUe | bond | link | tickLost | barrierDivergence | descriptor | access | ledgerRange | deadRead
  | thermal | power | firmware | watchdog | arbCutoff | recovery
deriving DecidableEq, Repr

def Cause.code : Cause → Nat
  | .dataUe => 1 | .bond => 2 | .link => 3 | .tickLost => 4 | .barrierDivergence => 5 | .descriptor => 6
  | .access => 7 | .ledgerRange => 8 | .deadRead => 9 | .thermal => 10 | .power => 11 | .firmware => 12
  | .watchdog => 13 | .arbCutoff => 14 | .recovery => 15

/-- Whether Table 14.1 marks a code "Remove". -/
def removeCode (n : Nat) : Bool := 5 ≤ n && n ≤ 9

/-- UNIT_KIND of FLT_REC. -/
inductive UnitKind where
  | none | pump | slice | hbm | port | cl | hq | lk | embankment | remote | firmware
deriving DecidableEq, Repr

def UnitKind.code : UnitKind → Nat
  | .none => 0 | .pump => 1 | .slice => 2 | .hbm => 3 | .port => 4 | .cl => 5 | .hq => 6 | .lk => 7
  | .embankment => 8 | .remote => 9 | .firmware => 10

/-- FLT_REC takes the first fault of a slot; later ones only count (R386). -/
def FltRec.take (r : FltRec) (code kind unit frame : Nat) : FltRec :=
  if r.valid then { r with count := sat8 r.count 1 }
  else { r with cause := BitVec.ofNat 8 code, valid := true, remove := removeCode code,
                unitKind := BitVec.ofNat 4 kind, frame := BitVec.ofNat 48 frame, unit := unit }

/-- The FAULT event and the freeze (R386, R411). -/
def State.faultEvent (s : State) (c : Chan) (slot : Option SlotIx) (code kind unit addr : Nat) (reporter : ChanAddr) :
    State :=
  (s.event c 0x01 slot unit (detail [(0, 1, code), (1, 1, kind), (2, 2, reporter.toNat), (8, 8, addr)])).onChan c
    fun h => { h with bbx := h.bbx.freeze }

/-- Stops the pumps of a job at an instruction boundary (R331). -/
def State.stopPumps (s : State) (c : Chan) (j : SlotIx) : State :=
  s.each ((s.chan c).pumpsOf j) fun t p => t.onPump c p fun q => { q with run := .stopped }

/-- The fault flag of the combined report of a fence that its master has not ended with a tick (R42). -/
def SlotFrame.faulted (f : SlotFrame) : SlotFrame :=
  { f with faultFlag := true,
           combined := if f.pend.isNone then f.combined.map fun r => { r with fault := true } else f.combined }

/-- A member that knows of a fault stops its pumps and reports frame done with FAULT set (R331). -/
def State.stopMember (s : State) (c : Chan) (j : SlotIx) : State :=
  ((s.onFr c j SlotFrame.faulted).stopPumps c j).report c j true 0 0

/-- The ports of a job's tick tree at a member. -/
def SlotJob.treePorts (x : SlotJob) : List PortIx := (match x.parent with | some p => [p] | none => []) ++ x.children

/-- Raises a fault for the job of a slot: FLT_REC, the FAULT event and freeze, a FAULT marker on every port of the
tick tree, and R331 for the channel itself (R386, R387). -/
def State.fault (s : State) (c : Chan) (j : SlotIx) (cause : Cause) (kind : UnitKind) (unit addr : Nat) : State :=
  let x := s.slot c j
  if x.live then
    let s1 := s.onRegs c j fun r => { r with flt := r.flt.take cause.code kind.code unit x.regs.frame }
    let s2 := s1.faultEvent c (some j) cause.code kind.code unit addr (s.addrOf c)
    let s3 := s2.each x.job.treePorts fun t p =>
      t.marker c p (.fault x.job.tree (BitVec.ofNat 8 cause.code) (s.addrOf c))
    (s3.onFr c j fun f => { f with faultSeen := f.faultSeen ++ [(s.addrOf c, BitVec.ofNat 8 cause.code)] }).stopMember c j
  else s

/-- Raises a fault of a pump for the job that holds it, naming the physical pump (Table 14.2). -/
def State.pumpFault (s : State) (c : Chan) (p : PumpIx) (cause : Cause) (addr : Nat) : State :=
  match (s.chan c).slotOf p with
  | some j => s.fault c j cause .pump (physOf (s.chan c) p) addr
  | none => s

/-- Raises a fault for every job of a list of slots. -/
def State.faultAll (s : State) (c : Chan) (js : List SlotIx) (cause : Cause) (kind : UnitKind) (unit : Nat) : State :=
  s.each js fun t j => t.fault c j cause kind unit 0

/-- The jobs with a polder in the channel. -/
def Channel.polderJobs (h : Channel) : List SlotIx :=
  h.liveSlots.filter fun j => h.slots[j.val].job.polders != 0

/-! ### Routes (R318, R320) -/

/-- Route entry of a destination: an egress port, local delivery (0xC) or unreachable (0xF). -/
def Channel.route (h : Channel) (rset : BitVec 2) (dest : ChanAddr) : BitVec 4 :=
  h.router.routes[rset.toNat].readD 0xF dest.toNat

/-- The port a route entry names. -/
def routePort (e : BitVec 4) : Option PortIx := if h : e.toNat < 12 then some ⟨e.toNat, h⟩ else none

/-- Sends a flit of a job (or of none) toward a channel; an unreachable one faults the job with LINK (R320). -/
def State.sendTo (s : State) (c : Chan) (j : Option SlotIx) (rset : BitVec 2) (dest : ChanAddr) (f : OutFlit) : State :=
  match routePort ((s.chan c).route rset dest) with
  | some port => s.sendFlit c port f
  | none =>
    match j with
    | some k => s.fault c k .link .lk 0 0
    | none => s

/-! ### Completion records (R366, R375) -/

/-- The ring that an identifier names, and where it stands. -/
def State.ring (s : State) : RingId → Option Ring
  | .admin fn => (s.mc.admins.look fn).bind (·.ring)
  | .well ctx loc =>
    match (s.mc.ctxs.look ctx).bind (·.wells.look loc) with
    | some (c, w) => ((s.chan c).wells.look w).map (·.ring)
    | none => none

def State.onRing (s : State) (r : RingId) (f : Ring → Ring) : State :=
  match r with
  | .admin fn => s.onMc fun m => { m with admins := m.admins.alter fn fun a => { a with ring := a.ring.map f } }
  | .well ctx loc =>
    match (s.mc.ctxs.look ctx).bind (·.wells.look loc) with
    | some (c, w) => s.onChan c fun h => { h with wells := h.wells.alter w fun x => { x with ring := f x.ring } }
    | none => s

/-- The function that a ring belongs to. -/
def State.ringFn (s : State) : RingId → Nat
  | .admin fn => fn
  | .well ctx _ => match s.mc.ctxs.look ctx with | some x => x.fn | none => 0

/-- What a command writes to its reply buffer: the leading part that fits (R382). -/
def State.reply (s : State) (h : Hdr) (buf len : Nat) (bytes : List (BitVec 8)) : State :=
  if len = 0 then s else s.emit (.hostWrite (s.ringFn h.ring) buf (bytes.take len))

/-- Whether the next record has no room: 2^m records already lie between it and CQ_CONS (R366). -/
def Ring.full (r : Ring) : Bool := decide (2 ^ r.cqLog2 ≤ (r.written - r.cqCons).toNat)

/-- Whether a descriptor at the front may start now: after every earlier command of the ring where ORDER is set, and not while
a record waits for room (R365, R366), nor on a stopped ring (R378). -/
def Ring.mayStart (r : Ring) (h : Hdr) : Bool :=
  r.state != .stopped && (r.fifo.isEmpty || !r.full) && (!h.order || r.running.isEmpty)

/-- The record of a command (Table 13.5). -/
def cmdRecord (h : Hdr) (status result : Nat) : Record :=
  { status := BitVec.ofNat 16 status, index := h.index, event := false, tag := h.tag, result := BitVec.ofNat 64 result,
    noirq := h.noirq }

/-- Descriptors at the front whose checks failed complete when their turn comes (at most `n`). -/
def Ring.advance : Nat → Ring → Ring
  | 0, r => r
  | n + 1, r =>
    match r.waiting with
    | [] => r
    | w :: rest =>
      match w.status with
      | some st => if r.mayStart w.hdr then ({ r with waiting := rest, fifo := r.fifo ++ [cmdRecord w.hdr st 0] }).advance n else r
      | none => r

/-- A ring whose state has changed: whatever can complete of its front does. -/
def Ring.go (r : Ring) : Ring := r.advance r.waiting.length

/-- Completes a command: it runs no more, and its record waits to be written (R366). -/
def State.complete (s : State) (h : Hdr) (status : Nat) (result : Nat) : State :=
  s.onRing h.ring fun r => ({ r with running := r.running.erase h, fifo := r.fifo ++ [cmdRecord h status result] }).go

/-- Whether a host command has started and not completed. -/
def State.isRunning (s : State) (h : Hdr) : Bool := match s.ring h.ring with | some r => r.running.contains h | none => false

/-- Completes a command, as a meaning's answer. -/
def State.done (s : State) (h : Hdr) (status : Nat) (result : Nat) : Res := .next (s.complete h status result)

/-- Status codes (Table 13.7). -/
def stSuccess : Nat := 0x0000
def stDescInvalid : Nat := 0x0101
def stDescRange : Nat := 0x0102
def stDescAlias : Nat := 0x0103
def stTransposeOverlap : Nat := 0x0104
def stDescNoInbound : Nat := 0x0105
def stLedgerMismatch : Nat := 0x0106
def stDescInUse : Nat := 0x0107
def stCopyOverlap : Nat := 0x0108
def stContextFault : Nat := 0x0201
def stJobFaulted : Nat := 0x0202
def stTargetReset : Nat := 0x0203
def stCmdInvalid : Nat := 0x0204
def stNoResource : Nat := 0x0205
def stNotPermitted : Nat := 0x0206
def stJobState : Nat := 0x0207
def stAborted : Nat := 0x0208
def stHostXlate : Nat := 0x0209
def stStageCheckFailed : Nat := 0x0301
def stUrgentExceeds : Nat := 0x0302
def stRelaxedInStrict : Nat := 0x0303
def stSelftestDeferred : Nat := 0x0401
def stVersionMismatch : Nat := 0x0501
def stLinkLost : Nat := 0x0601

/-- The job of a context. -/
def jobKey (ctx job : Nat) : Nat := 64 * ctx + job
def State.job (s : State) (ctx job : Nat) : Option Job := s.mc.jobs.look (jobKey ctx job)
def State.onJob (s : State) (ctx job : Nat) (f : Job → Job) : State :=
  s.onMc fun m => { m with jobs := m.jobs.alter (jobKey ctx job) f }

/-- Queues a job event to the well that started the job, or loses it where 64 are queued (R375). -/
def State.jobEvent (s : State) (ctx job : Nat) (code status cause frame : Nat) : State :=
  match s.job ctx job with
  | none => s
  | some jb =>
    let ring := RingId.well ctx jb.well
    let wells := match s.mc.ctxs.look ctx with | some x => x.wells.keys | none => []
    let queued := wells.foldl (fun n w => n + match s.ring (.well ctx w) with
      | some r => (r.fifo.filter (·.event)).length
      | none => 0) 0
    if 64 ≤ queued then
      match (s.mc.ctxs.look ctx).bind (·.wells.look jb.well) with
      | some (c, w) => s.onChan c fun h => { h with wells := h.wells.alter w fun x => { x with evtLost := true } }
      | none => s
    else
      s.onRing ring fun r => { r with
        fifo := r.fifo ++ [{ status := BitVec.ofNat 16 status, index := 0, event := true, tag := jb.start.tag,
                             result := BitVec.ofNat 64 (packReg [(0, 8, code), (8, 8, cause), (16, 48, frame)]),
                             noirq := false }] }

/-! ### Host link, pauses -/

/-- Whether the host reaches the module: Gnover out of reset and the link up. -/
def State.hostUp (s : State) : Bool := !s.mc.inReset && s.mc.host.gen != 0

/-- The thermal pause that acts on a polder: its own, or the stacks' (R434). -/
def Channel.thermalPause (h : Channel) (pd : PolderIx) : Nat := max (h.polders[pd.val]).thermal h.thm.stackThermal

/-- UNITS and CAUSE of PLD_PAUSE: the larger of the budget and thermal pauses (R428), a forced budget pause included
(R423). -/
def Channel.pause (h : Channel) (pd : PolderIx) : Nat × Nat :=
  let b := max h.pwr.budget (h.polders[pd.val]).forced
  let t := h.thermalPause pd
  (max b t, if b = 0 then (if t = 0 then 0 else 1) else if t = 0 then 2 else 3)

/-! ### Time -/

/-- Moves the clock on to a time that a command states has come (log entry 1). -/
def State.until (s : State) (ns : Nat) : State := { s with timeNs := max s.timeNs ns }

end Sys2Proof.Machine
end

