-- ==== Sys2Proof/Machine/Hbm.lean ====
section
/-!
DEFINITION. HBM capacity after map-out and the striping of a channel's lines over its pseudo-channels (R267-R270); a channel's record in
the fabric map (R335).
-/

namespace Sys2Proof.Machine

/-- KIND of a defect-list entry (Table 16.8). -/
inductive DefectKind where
  | lane | bondWire | pump | cisRow | cisColumn | sliceOut | hbmRow | hbmBank | hbmLayer | hbmLane | sensor
deriving DecidableEq, Repr

def DefectKind.code : DefectKind → Nat
  | .lane => 1 | .bondWire => 2 | .pump => 3 | .cisRow => 4 | .cisColumn => 5 | .sliceOut => 6
  | .hbmRow => 7 | .hbmBank => 8 | .hbmLayer => 9 | .hbmLane => 10 | .sensor => 11

/-- Entries of the defect list for a channel, a kind and a state (0 pending, 1 applied). -/
def Firm.defectsOf (f : Firm) (c : Chan) (k : DefectKind) (st : Nat) : List Defect :=
  f.defects.filter fun d => d.chan.toNat == c.val && d.kind.toNat == k.code && d.st.toNat == st

/-- Entries of the factory repair map for a channel and a kind. -/
def Fuses.factoryOf (f : Fuses) (c : Chan) (k : DefectKind) : List Defect :=
  f.factory.filter fun d => d.chan.toNat == c.val && d.kind.toNat == k.code

/-- Whether the list holds a location (R454). -/
def Firm.listed (f : Firm) (c : Chan) (k : DefectKind) (unit loc : Nat) : Bool :=
  f.defects.any fun d => d.chan.toNat == c.val && d.kind.toNat == k.code && d.unit.toNat == unit && d.loc.toNat == loc

/-- Compaction (R456): superseded entries merge into the wider ones that cover them. -/
def Firm.compact (f : Firm) : Firm :=
  if f.defects.length + 256 ≤ 16384 then f else { f with defects := f.defects.filter fun d => d.st != 2 }

/-- Adds a location to the defect list as a pending repair, unless it is listed already or the list is full
(R454, R456). -/
def State.addDefect (s : State) (c : Chan) (k : DefectKind) (src unit loc : Nat) : State :=
  if s.mc.firm.listed c k unit loc then s
  else
    let f := s.mc.firm.compact
    if f.defects.length < 16384 then
      s.onMc fun m => { m with firm := { f with defects := f.defects ++
          [(⟨BitVec.ofNat 8 k.code, BitVec.ofNat 8 c.val, 0, BitVec.ofNat 8 src, BitVec.ofNat 32 unit,
            BitVec.ofNat 32 loc, BitVec.ofNat 32 (s.mc.firm.onS + s.timeNs / 1000000000)⟩ : Defect)] } }
    else (s.onMc fun m => { m with firm := { f with defFull := true } }).onSt c fun x => { x with unlisted := true }

/-- Surviving banks of a pseudo-channel of a stack: 48 less the mapped-out banks and layers, in order (R267, R269). Core die
(z, q) is LOCATION 4z + q of its layer entry (log entry 11). -/
def Firm.banksIn (f : Firm) (c : Chan) (st pc : Nat) : List Nat :=
  let dies := (f.defectsOf c .hbmLayer 1).filter fun d =>
    d.unit.toNat / 32 == st && d.loc.toNat % 4 == pc / 8
  let banks := (f.defectsOf c .hbmBank 1).filter fun d => d.unit.toNat == st * 32 + pc
  (List.range 48).filter fun b => !(dies.any fun l => l.loc.toNat / 4 == b / 16) && !(banks.any fun d => d.loc.toNat == b)

/-- Their number. -/
def Firm.banksUp (f : Firm) (c : Chan) (st pc : Nat) : Nat := (f.banksIn c st pc).length

/-- LOCATION of the row that holds a granule of a pseudo-channel (R262, R269): bank x 2^17 + row, a bank of HBM3E having
more than 512 rows (log entry 43). -/
def Firm.hbmRow (f : Firm) (c : Chan) (unit g : Nat) : Nat :=
  let up := f.banksIn c (unit / 32) (unit % 32)
  let r := 288 * (g / 8) + 36 * (g % 8)
  up.getD (r / 1024 % up.length) 0 * 2 ^ 17 + r / (1024 * up.length)

/-- Lines of a pseudo-channel with nb banks (R269). -/
def linesOf (nb : Nat) : Nat := nb * 100663296 / 4608

/-- The largest T with the sum of min(cap, T) at most `total` (R270), by bits from bit `k`. -/
def fuseCap (caps : List Nat) (total : Nat) : Nat → Nat → Nat
  | 0, t => t
  | k + 1, t =>
    let u := t + 2 ^ k
    fuseCap caps total k (if (caps.map (min u)).sum ≤ total then u else t)

/-- Grants one further line to units with lines to spare, in ascending order, until `more` are granted (R270). -/
def grantLines : List (Nat × Nat) → Nat → List Nat
  | [], _ => []
  | (full, cap) :: rest, more =>
    if more ≠ 0 ∧ cap < full then (cap + 1) :: grantLines rest (more - 1) else cap :: grantLines rest more

/-- Line capacities of a stack's 32 pseudo-channels (R269, R270). -/
def State.stackCaps (s : State) (c : Chan) (st : Nat) : List Nat :=
  let caps := (List.range 32).map fun pc => linesOf (s.mc.firm.banksUp c st pc)
  if s.mc.fuses.variant = 2 ∧ 16777216 < caps.sum then
    let t := fuseCap caps 16777216 26 0
    let cut := caps.map (min t)
    grantLines (caps.zip cut) (16777216 - cut.sum)
  else caps

/-- cap[u] of unit u = 4 × pseudo-channel + stack. -/
def State.unitCaps (s : State) (c : Chan) : List Nat :=
  let st := (List.range 4).map (s.stackCaps c)
  (List.range 128).map fun u => ((st.getD (u % 4) []).getD (u / 4) 0)

/-- Unit and line index of a channel HBM line (R269): `cs` are the distinct capacities, ascending. -/
def placeLine (caps : List Nat) : List Nat → Nat → Nat → Option (Nat × Nat)
  | [], _, _ => none
  | c :: cs, d0, n =>
    let us := (List.range 128).filter fun u => c ≤ caps.getD u 0
    let k := us.length
    if n < (c - d0) * k then some (us.getD (n % k) 0, d0 + n / k) else placeLine caps cs c (n - (c - d0) * k)

/-- The stack × 32 + pseudo-channel that holds a line, and the line's index there. -/
def State.hbmPlace (s : State) (c : Chan) (line : Nat) : Option (Nat × Nat) :=
  let caps := s.unitCaps c
  let cs := sortUniq (caps.filter (0 < ·))
  (placeLine caps cs 0 line).map fun ul => ((ul.1 % 4) * 32 + ul.1 / 4, ul.2)

/-- HBM lines of a channel. -/
def Channel.hbmLines (h : Channel) : Nat := (h.stack.toList.map (·.lines)).sum

/-! ### The fabric map (R335) -/

/-- Channel 0 of a module: where records for its Gnover go. -/
def moduleAddr (m : BitVec 12) : ChanAddr := m.setWidth 15 <<< 3

/-- Sends a management record over route set 0 from a channel. -/
def State.sendMgmt (s : State) (c : Chan) (dest : ChanAddr) (r : MgmtRec) : State := s.sendTo c none 0 dest (.mgmt dest r)

/-- The modules of the fabric but this one. -/
def State.otherModules (s : State) : List (BitVec 12) := (s.mc.fab.ids.map (·.2)).filter (· != s.mc.fab.id)

/-- Lanes of a width code (LNK_PORT_STATUS.WIDTH). -/
def widthLanes (w : BitVec 2) : Nat := if w = 0 then 8 else if w = 1 then 4 else if w = 2 then 2 else 0

/-- The links of a channel as the map holds them: its ACTIVE ports. -/
def Channel.mapLinks (h : Channel) : List MapLink :=
  (List.finRange 12).filterMap fun i =>
    let p := h.ports[i.val]
    if p.state = .active ∨ p.state = .drain then
      some ⟨i.val, p.partnerCh, p.partnerPort.toNat, widthLanes p.width, p.owner.isSome, p.latQns.toNat⟩
    else none

/-- HBM lines of a channel that no allocation and no checkpoint space takes. -/
def State.freeHbm (s : State) (c : Chan) : Nat :=
  let a := s.addrOf c
  let taken := (s.mc.ctxs.map fun x => (x.2.allocs.map fun e =>
    match e.2.kind with
    | .hbm => if e.2.channel = a then e.2.size / 4096 else 0
    | .distributed => if e.2.pinned then 0 else
        ((e.2.bound.filter fun b => b.2.1 == a).length) * ((e.2.size + 4095) / 4096)
    | .pinned => 0).sum).sum
  let saved := ((s.chan c).claims.map fun x => match x.2.1 with | .buddy n => (n + 4095) / 4096 | _ => 0).sum
  (s.chan c).hbmLines - taken - saved

/-- A polder's entry in the map: its recorded headroom, or none where it is held, DEGRADED or waits for a reset
(R401). -/
def Channel.mapPolder (h : Channel) (p : PolderIx) : Option Nat :=
  let q := h.polders[p.val]
  let wanted := h.st.resetWanted == some 2 || (h.st.resetWanted == some 1 && q.repair.any fun r =>
    r.lanePending != 0 || r.bondPending != 0 || r.mapoutPending)
  if q.degraded || wanted || (h.slotOfPolder p).isSome || q.reserve.isSome then none else some q.headroom

/-- Whether a self-test waits for a channel and no placement may take it before the test: with FORCE, or the channel holding no
job any more (R462). -/
def State.testHolds (s : State) (c : Chan) : Bool :=
  s.mc.firm.testQ.any fun e => e.1 == c && (e.2.2.isSome || (s.chan c).liveSlots.isEmpty)

/-- The record of a channel in the fabric map (Table 12.2). -/
def State.chanRecord (s : State) (c : Chan) : MapChan :=
  let h := s.chan c
  let free := s.freeHbm c
  { addr := s.addrOf c, serial := s.mc.fuses.serial, variant := s.mc.fuses.variant, mode := s.mc.pwr.curMode,
    inService := s.mc.inService.getLsbD c.val && !s.testHolds c, cset := s.mc.firm.cset, pin := h.set.pin, held := h.set.held,
    pinMax := h.set.pinMax, schedHbm := h.set.share[0][1],
    freeLines := if h.stack.any (·.retrain) then 0 else free,
    freeSlots := ofBits 16 (((List.finRange 16).filter fun j => !h.slots[j.val].live).map (·.val)),
    polders := (List.finRange 16).map h.mapPolder, ckptFree := 4096 * free,
    setsUsed := ofBits 3 (((List.finRange 3).filter fun k => !(h.router.routes[k.val + 1]).isEmpty).map (·.val)),
    treesFree := 4096 - h.router.trees.length, storeFree := 8192 - (h.router.trees.map fun t => t.2.window).sum,
    links := h.mapLinks }

/-- Replaces a channel's record in the local copy of the map. -/
def Fabric.setChan (f : Fabric) (m : MapChan) (version : Nat) : Fabric :=
  { f with version := version,
           map := if f.map.any fun e => e.addr == m.addr then f.map.map fun e => if e.addr = m.addr then m else e
                  else f.map ++ [m] }

/-- A changed record of a channel of this module: the keeper gives it the next version and floods it; another module
sends it to the keeper (R335). -/
def State.mapPut (s : State) (c : Chan) (new : MapChan) : State :=
  if s.mc.fab.keeper = s.mc.fab.id then
    let v := s.mc.fab.version + 1
    (s.onMc fun m => { m with fab := m.fab.setChan new v }).each s.otherModules fun t d =>
      t.sendMgmt c (moduleAddr d) (.map ⟨v, new⟩)
  else s.sendMgmt c (moduleAddr s.mc.fab.keeper) (.map ⟨0, new⟩)

/-- The record of a channel of this module in the map, changed and put even if it stays equal. -/
def State.mapBump (s : State) (c : Chan) (f : MapChan → MapChan) : State :=
  match s.mc.fab.map.find? fun e => e.addr == s.addrOf c with
  | none => s
  | some old => s.mapPut c (f old)

/-- The same where the record changes. -/
def State.mapUpdate (s : State) (c : Chan) (f : MapChan → MapChan) : State :=
  match s.mc.fab.map.find? fun e => e.addr == s.addrOf c with
  | none => s
  | some old => if f old = old then s else s.mapPut c (f old)

/-- Brings a channel's record in the map up to date; an equal record changes nothing. -/
def State.mapSync (s : State) (c : Chan) : State := s.mapUpdate c fun _ => s.chanRecord c

end Sys2Proof.Machine
end

