-- ==== Sys2Proof/Machine/Numbers.lean ====
section
/-!
DEFINITION. Number formats and their arithmetic (Chapter 4): exact values, rounding to nearest even and
stochastic rounding, conversions, FP32 arithmetic, block formats, ledgers.
-/

namespace Sys2Proof.Machine

/-- An exact value: not a number, an infinity by sign, or (−1)^neg × m × 2^e, where m = 0 is a signed zero. -/
inductive Num where
  | nan
  | inf (neg : Bool)
  | fin (neg : Bool) (m : Nat) (e : Int)
deriving DecidableEq, Repr

/-- What a target does with a finite value beyond its largest finite one, and with infinity (Table 4.3). -/
inductive Overflow where
  | toInf | saturate | saturateFinite
deriving DecidableEq, Repr

/-- A floating-point layout (Table 4.1): significand bits, bias, width, encoding of the largest finite
magnitude, of infinity and of the canonical NaN (R101). -/
structure Layout where
  mb    : Nat
  bias  : Nat
  width : Nat
  maxF  : Nat
  infE  : Nat
  nanE  : Nat
  ov    : Overflow
deriving DecidableEq, Repr

def Layout.fp64 : Layout := ⟨52, 1023, 64, 0x7FEFFFFFFFFFFFFF, 0x7FF0000000000000, 0x7FF8000000000000, .toInf⟩
def Layout.fp32 : Layout := ⟨23, 127, 32, 0x7F7FFFFF, 0x7F800000, 0x7FC00000, .toInf⟩
def Layout.bf16 : Layout := ⟨7, 127, 16, 0x7F7F, 0x7F80, 0x7FC0, .toInf⟩
def Layout.fp16 : Layout := ⟨10, 15, 16, 0x7BFF, 0x7C00, 0x7E00, .toInf⟩
def Layout.e4m3 : Layout := ⟨3, 7, 8, 0x7E, 0x7E, 0x7F, .saturate⟩
def Layout.e5m2 : Layout := ⟨2, 15, 8, 0x7B, 0x7C, 0x7E, .saturateFinite⟩
def Layout.fp6  : Layout := ⟨2, 3, 6, 0x1F, 0x1F, 0x1F, .saturate⟩
def Layout.fp4  : Layout := ⟨1, 1, 4, 0x7, 0x7, 0x7, .saturate⟩

/-- Weight of the last place of the smallest binade: 1 − bias − mb. -/
def Layout.qmin (l : Layout) : Int := 1 - l.bias - l.mb

/-- The exact value of an encoding (R100). -/
def Layout.decode (l : Layout) (bits : Nat) : Num :=
  let mag := bits % 2 ^ (l.width - 1)
  let neg := (bits / 2 ^ (l.width - 1)) % 2 == 1
  if mag ≤ l.maxF then
    let ex := mag / 2 ^ l.mb
    let f := mag % 2 ^ l.mb
    if ex = 0 then .fin neg f l.qmin else .fin neg (2 ^ l.mb + f) (l.qmin + (ex - 1 : Nat))
  else if mag = l.infE then .inf neg
  else .nan

/-- The number of bits of m. -/
def bitLen (m : Nat) : Nat := if m = 0 then 0 else Nat.log2 m + 1

/-- m × 2^e at weight 2^q: the integer part, and the part left over as (numerator, log2 of denominator). -/
def scaleTo (m : Nat) (e q : Int) : Nat × Nat × Nat :=
  if q ≤ e then (m * 2 ^ (e - q).toNat, 0, 0)
  else let k := (q - e).toNat; (m / 2 ^ k, m % 2 ^ k, k)

/-- Rounds (integer part, leftover, k) to nearest, ties to even; `sticky` adds something below the leftover. -/
def rne (t : Nat × Nat × Nat) (sticky : Bool) : Nat :=
  let (i, r, k) := t
  if k = 0 then i
  else
    let half := 2 ^ (k - 1)
    if half < r || (r == half && (sticky || i % 2 == 1)) then i + 1 else i

/-- The weight of the last place that a layout gives a magnitude. -/
def Layout.place (l : Layout) (m : Nat) (e : Int) : Int :=
  if m = 0 then l.qmin else max (e + (bitLen m : Int) - (l.mb + 1 : Nat)) l.qmin

/-- Magnitude encoding of m × 2^e rounded to nearest even, with unbounded exponent; `sticky` as for `rne`. -/
def Layout.roundMag (l : Layout) (m : Nat) (e : Int) (sticky : Bool) : Nat :=
  let q := l.place m e
  (q - l.qmin).toNat * 2 ^ l.mb + rne (scaleTo m e q) sticky

/-- The sign bit of a layout. -/
def Layout.signBit (l : Layout) (neg : Bool) : Nat := if neg then 2 ^ (l.width - 1) else 0

/-- A magnitude encoding clipped by the layout's overflow rule (Table 4.3). -/
def Layout.clip (l : Layout) (mag : Nat) : Nat :=
  if mag ≤ l.maxF then mag
  else match l.ov with
    | .toInf => l.infE
    | .saturate => l.maxF
    | .saturateFinite => l.maxF

/-- Conversion to a layout by round to nearest even (Table 4.3). A conversion keeps the sign of a zero (R102). -/
def Layout.encode (l : Layout) (x : Num) (sticky : Bool := false) : Nat :=
  match x with
  | .nan => l.nanE
  | .inf neg => l.signBit neg + (match l.ov with | .saturate => l.maxF | _ => l.infE)
  | .fin neg m e => l.signBit neg + l.clip (l.roundMag m e sticky)

/-- The rounding bits of one element (R111). -/
def srBits (h : BitVec 32) (f i : BitVec 64) : BitVec 64 :=
  let k := (f * 0x7D3B92E5C4610F8B#64) ^^^ h.setWidth 64
  let go := fun (zk : BitVec 64 × BitVec 64) =>
    let z := (zk.1 ^^^ zk.2) * 0xA5C31F276B49D8E1#64
    (z ^^^ (z >>> 29), zk.2 + 0x6C8E9CF570A32B17#64)
  (go (go (go (go (i, k))))).1

/-- Stochastic rounding (R112): `z` are the element's rounding bits. Beyond the finite range, as for RNE. -/
def Layout.encodeSr (l : Layout) (x : Num) (z : BitVec 64) : Nat :=
  match x with
  | .fin neg m e =>
    let q := l.place m e
    let (i, r, k) := scaleTo m e q
    let lo := (q - l.qmin).toNat * 2 ^ l.mb + i
    if lo < l.maxF || (lo == l.maxF && r == 0) then
      let t := r * 2 ^ 24 / 2 ^ k
      l.signBit neg + (if (z.extractLsb' 40 24).toNat < t then lo + 1 else lo)
    else l.encode x
  | _ => l.encode x

/-- Rounds to an integer, to nearest even (finite values). -/
def Num.toInt (x : Num) : Int :=
  match x with
  | .fin neg m e => let n : Int := rne (scaleTo m e 0) false; if neg then -n else n
  | _ => 0

/-- Conversion to a w-bit integer: RNE, saturating; NaN gives 0 (Table 4.3). -/
def Num.toSat (x : Num) (w : Nat) : Int :=
  let top : Int := 2 ^ (w - 1) - 1
  match x with
  | .nan => 0
  | .inf neg => if neg then -(2 ^ (w - 1)) else top
  | .fin .. => max (-(2 ^ (w - 1))) (min top x.toInt)

/-- The exact value of an integer. -/
def Num.ofInt (n : Int) : Num := .fin (n < 0) n.natAbs 0

/-! ### Exact arithmetic -/

/-- Sign and magnitude as an integer at weight 2^q (q no greater than e). -/
def alignInt (neg : Bool) (m : Nat) (e q : Int) : Int :=
  let n : Int := m * 2 ^ (e - q).toNat
  if neg then -n else n

/-- Exact sum. Infinities of opposite sign, or a NaN, give NaN; an exact zero is −0 only where both terms are
−0 (R88, R102). -/
def Num.add (x y : Num) : Num :=
  match x, y with
  | .nan, _ => .nan
  | _, .nan => .nan
  | .inf a, .inf b => if a = b then .inf a else .nan
  | .inf a, .fin .. => .inf a
  | .fin .., .inf b => .inf b
  | .fin a m e, .fin b n g =>
    if m = 0 ∧ n = 0 then .fin (a && b) 0 0
    else
      let q := min e g
      let t := alignInt a m e q + alignInt b n g q
      .fin (t < 0) t.natAbs q

/-- Exact product; infinity × 0 is NaN (R88). -/
def Num.mul (x y : Num) : Num :=
  match x, y with
  | .nan, _ => .nan
  | _, .nan => .nan
  | .inf a, .inf b => .inf (a != b)
  | .inf a, .fin b n _ => if n = 0 then .nan else .inf (a != b)
  | .fin a m _, .inf b => if m = 0 then .nan else .inf (a != b)
  | .fin a m e, .fin b n g => .fin (a != b) (m * n) (e + g)

/-- Inverts the sign. -/
def Num.neg (x : Num) : Num :=
  match x with
  | .nan => .nan
  | .inf a => .inf (!a)
  | .fin a m e => .fin (!a) m e

/-- Multiplies by a power of two. -/
def Num.scale (x : Num) (k : Int) : Num :=
  match x with
  | .fin a m e => .fin a m (e + k)
  | _ => x

/-- Whether x < y, where −0 and +0 are equal; false where either is NaN. -/
def Num.lt (x y : Num) : Bool :=
  match x, y with
  | .nan, _ => false
  | _, .nan => false
  | .inf a, .inf b => a && !b
  | .inf a, .fin .. => a
  | .fin .., .inf b => !b
  | .fin a m e, .fin b n g =>
    let q := min e g
    alignInt a m e q < alignInt b n g q

/-- Whether x = y, where −0 and +0 are equal; false where either is NaN. -/
def Num.eq (x y : Num) : Bool :=
  match x, y with
  | .nan, _ => false
  | _, .nan => false
  | _, _ => !x.lt y && !y.lt x

/-! ### FP32 -/

def fp32 (b : BitVec 32) : Num := Layout.fp32.decode b.toNat
def toFp32 (x : Num) : BitVec 32 := BitVec.ofNat 32 (Layout.fp32.encode x)

def fadd (a b : BitVec 32) : BitVec 32 := toFp32 ((fp32 a).add (fp32 b))
def fsub (a b : BitVec 32) : BitVec 32 := toFp32 ((fp32 a).add (fp32 b).neg)
def fmul (a b : BitVec 32) : BitVec 32 := toFp32 ((fp32 a).mul (fp32 b))
/-- d + a × b with one rounding (Table 3.9). -/
def ffma (d a b : BitVec 32) : BitVec 32 := toFp32 (((fp32 a).mul (fp32 b)).add (fp32 d))

/-- Whether a is the smaller operand, −0 taken as smaller than +0 (R494). -/
def fless (a b : BitVec 32) : Bool :=
  (fp32 a).lt (fp32 b) || ((fp32 a).eq (fp32 b) && a.msb && !b.msb)

/-- MAX and FMAX (R494). -/
def fmax (a b : BitVec 32) : BitVec 32 :=
  if fp32 a = .nan ∨ fp32 b = .nan then 0x7FC00000#32 else if fless a b then b else a

/-- MIN and FMIN (R494). -/
def fmin (a b : BitVec 32) : BitVec 32 :=
  if fp32 a = .nan ∨ fp32 b = .nan then 0x7FC00000#32 else if fless b a then b else a

/-- Signed maximum and minimum of 32-bit integers. -/
def imax (a b : BitVec 32) : BitVec 32 := if a.slt b then b else a
def imin (a b : BitVec 32) : BitVec 32 := if b.slt a then b else a

/-- CVTIF: INT32 to FP32, to nearest even. -/
def cvtIF (a : BitVec 32) : BitVec 32 := toFp32 (.ofInt a.toInt)
/-- CVTFI: FP32 to INT32, to nearest even, saturating; NaN gives 0. -/
def cvtFI (a : BitVec 32) : BitVec 32 := BitVec.ofInt 32 ((fp32 a).toSat 32)

/-! ### Formats -/

/-- The code of Table 3.6. -/
def fmtOfCode : Nat → Option Fmt
  | 0 => some .fp32 | 1 => some .bf16 | 2 => some .fp16 | 3 => some .e4m3 | 4 => some .e5m2
  | 5 => some .int8 | 6 => some .b6 | 7 => some .b4 | 8 => some .q4 | 9 => some .int32
  | _ => none

/-- The layout of a floating-point format that is no block format. -/
def fmtLayout : Fmt → Option Layout
  | .fp32 => some .fp32 | .bf16 => some .bf16 | .fp16 => some .fp16
  | .e4m3 => some .e4m3 | .e5m2 => some .e5m2
  | .int8 | .b6 | .b4 | .q4 | .int32 => none

/-- Bytes of one element (0 for a block format). -/
def fmtBytes : Fmt → Nat
  | .fp32 | .int32 => 4
  | .bf16 | .fp16 => 2
  | .e4m3 | .e5m2 | .int8 => 1
  | .b6 | .b4 | .q4 => 0

/-- Bytes of one 32-element block (Table 4.2). -/
def fmtBlockBytes : Fmt → Nat
  | .b4 | .q4 => 16
  | .b6 => 24
  | _ => 0

def fmtIsBlock (f : Fmt) : Bool := fmtBlockBytes f ≠ 0

/-- The exact value of an element of a scalar format. -/
def fmtValue (f : Fmt) (bits : Nat) : Num :=
  match f with
  | .int8 => .ofInt (BitVec.ofNat 8 bits).toInt
  | .int32 => .ofInt (BitVec.ofNat 32 bits).toInt
  | .fp32 => Layout.fp32.decode bits
  | .bf16 => Layout.bf16.decode bits
  | .fp16 => Layout.fp16.decode bits
  | .e4m3 => Layout.e4m3.decode bits
  | .e5m2 => Layout.e5m2.decode bits
  | .b6 | .b4 | .q4 => .nan

/-- Conversion into a scalar format (R109, R110), by SR where `sr` gives rounding bits and the format is a
float narrower than FP32 (R84). -/
def fmtConvert (f : Fmt) (x : Num) (sr : Option (BitVec 64)) : Nat :=
  match f with
  | .int8 => (BitVec.ofInt 8 (x.toSat 8)).toNat
  | .int32 => (BitVec.ofInt 32 (x.toSat 32)).toNat
  | .fp32 => Layout.fp32.encode x
  | .bf16 => (sr.map (Layout.bf16.encodeSr x)).getD (Layout.bf16.encode x)
  | .fp16 => (sr.map (Layout.fp16.encodeSr x)).getD (Layout.fp16.encode x)
  | .e4m3 => (sr.map (Layout.e4m3.encodeSr x)).getD (Layout.e4m3.encode x)
  | .e5m2 => (sr.map (Layout.e5m2.encodeSr x)).getD (Layout.e5m2.encode x)
  | .b6 | .b4 | .q4 => 0

/-! ### Block formats -/

/-- Element bits of element i in a block's bytes, read as one little-endian number (R105). -/
def fmtBlockElem (f : Fmt) (blk : Nat) (i : Nat) : Nat :=
  match f with
  | .b6 => blk / 2 ^ (6 * i) % 64
  | _ => blk / 2 ^ (4 * i) % 16

/-- The exact value of an element under a scale byte; the NaN scale makes it NaN (R104). -/
def fmtBlockValue (f : Fmt) (scaleB : Nat) (bits : Nat) : Num :=
  if scaleB = 0xFF then .nan
  else
    let v := match f with
      | .b6 => Layout.fp6.decode bits
      | .b4 => Layout.fp4.decode bits
      | _ => Num.ofInt (BitVec.ofNat 4 bits).toInt
    v.scale (scaleB - 127 : Int)

/-- m of R108 step 3. -/
def fmtBlockTop : Fmt → Int
  | .b6 => 4
  | _ => 2

/-- floor(log2 |x|) of a non-zero finite value. -/
def Num.floorLog2 : Num → Int
  | .fin _ m e => (bitLen m : Int) - 1 + e
  | _ => 0

/-- One block from its 32 inputs: the scale byte and the block as one little-endian number (R108). A source block may hold
magnitudes that no FP32 input reaches (R109): the scale is then 2^127, the largest there is, and elements saturate (log entry
139). -/
def fmtMakeBlock (f : Fmt) (xs : List Num) : Nat × Nat :=
  let bad := xs.any fun x => match x with | .fin .. => false | _ => true
  if bad then (0xFF, 0)
  else
    let nz := xs.filter fun x => match x with | .fin _ m _ => m ≠ 0 | _ => false
    let top := nz.foldl (fun t x => max t x.floorLog2) (-100000)
    let s : Int := if nz.isEmpty then 0 else min 127 (max (-127) (top - fmtBlockTop f))
    let enc := fun (x : Num) => match f with
      | .b6 => Layout.fp6.encode (x.scale (-s))
      | .b4 => Layout.fp4.encode (x.scale (-s))
      | _ => (BitVec.ofInt 4 ((x.scale (-s)).toSat 4)).toNat
    let w := if f = .b6 then 6 else 4
    ((s + 127).toNat, (xs.zipIdx.foldl (fun acc xi => acc + enc xi.1 * 2 ^ (w * xi.2)) 0))

/-! ### Ledgers -/

/-- The integer that an addend contributes at window exponent E, or none where it faults (R115, R116). -/
def ledgerAddend (x : Num) (E : Int) : Option Int :=
  match x with
  | .fin neg m e =>
    let n := rne (scaleTo m e E) false
    if n ≤ 2 ^ 223 then some (if neg then -(n : Int) else n) else none
  | _ => none

/-- Adds an integer to a ledger, modulo 2^256 (R117). -/
def ledgerAdd (v : Granule) (n : Int) : Granule := v + BitVec.ofInt 256 n

/-- The value of a ledger (R114). -/
def ledgerValue (v : Granule) (E : Int) : Num := .fin (v.toInt < 0) v.toInt.natAbs E

/-- Read-out of a ledger (R119). -/
def ledgerRead (v : Granule) (E : Int) (t : RoFmt) : Nat :=
  let x := if v = 0 then .fin false 0 0 else ledgerValue v E
  match t with
  | .fp32 => Layout.fp32.encode x
  | .bf16 => Layout.bf16.encode x
  | .fp64 => Layout.fp64.encode x

def roBytes : RoFmt → Nat
  | .fp32 => 4 | .bf16 => 2 | .fp64 => 8

end Sys2Proof.Machine
end

