-- ==== Sys2Proof/Machine/Requests.lean ====
section
/-!
DEFINITION. Requests to the arbitrated ports: who raises them, their class and deadline, and the tokens that a master port
takes first (R273, R274, R283, R284, Table 10.2).
-/

namespace Sys2Proof.Machine

/-- Index of a class (Table 10.2). -/
def ReqClass.ix : ReqClass → Fin 7
  | .urgent => 0 | .sched => 1 | .ingress => 2 | .thread => 3 | .host => 4 | .ckpt => 5 | .scrub => 6

/-- Numbers of the requesters beside the slice stations 0-143 (log entry 30). -/
def reqFill : Nat := 144
def reqDrain : Nat := 145
def reqCkpt : Nat := 146
def reqScrub : Nat := 147
def reqHost : Nat := 148
def reqRemote : Nat := 149

/-- A bucket filled at `kib` KiB per µs since its time, holding at most 8 KiB. -/
def refill (b : Nat × Nat) (now kib : Nat) : Nat := min 8192000 (b.1 + (now - b.2) * kib * 1024)

/-- What a burst takes from a bucket, in thousandths of a byte. -/
def burstCost : Nat := 512000

/-- Whether the thrash hold of R231 bears on a request: a THREAD fill of a slot that has passed its limit. -/
def State.trickled (s : State) (c : Chan) (q : Req) : Option SlotIx :=
  match q.slot with
  | some j => if q.cls = .thread ∧ q.requester = reqFill ∧ (s.slot c j).fr.thrashed then some j else none
  | none => none

/-- Takes a burst's tokens from the bucket of the class and the slot's thrash bucket, if both hold them (R283, R284). -/
def State.takeTokens (s : State) (c : Chan) (q : Req) : Option Regul :=
  let h := s.chan c
  let i := ReqClass.ix q.cls
  let ceil := h.set.ceil[i.val]
  let have1 := refill h.reg.bucket[i.val] s.timeNs ceil
  let free1 := q.cls == .urgent || ceil == 0
  let r1 : Regul := if free1 then h.reg
    else { h.reg with bucket := upd h.reg.bucket i fun _ => (have1 - burstCost, s.timeNs) }
  if !free1 && decide (have1 < burstCost) then none
  else match s.trickled c q with
  | none => some r1
  | some j =>
    let have2 := refill h.reg.trickle[j.val] s.timeNs (4 * (s.slot c j).regs.set.trickle)
    if have2 < burstCost then none
    else some { r1 with trickle := upd r1.trickle j fun _ => (have2 - burstCost, s.timeNs) }

/-- A request raised at a port, with the deadline of R274. -/
def State.raiseAt (s : State) (c : Chan) (port : ArbPort) (q : Req) : State :=
  let target := (s.chan c).set.target[(ReqClass.ix q.cls).val]
  s.onChan c fun h => { h with arbs := upd h.arbs port fun a => { a with
    reqs := a.reqs ++ [{ q with deadline := BitVec.ofNat 32 (s.timeNs + target) }] } }

/-- Whether a request waits behind one that its master port holds: they are issued in order within a class (R283), and the thrash hold
of a slot bears on that slot alone (R284). -/
def State.behind (s : State) (c : Chan) (q : Req) (e : ArbPort × Req) : Bool :=
  e.2.cls == q.cls && e.2.requester == q.requester && (e.2.slot == q.slot || (s.trickled c e.2).isNone)

/-- A master port raises one request, or holds it behind those of its own that wait for tokens (R273, R283). -/
def State.raiseOne (s : State) (c : Chan) (port : ArbPort) (q : Req) : State :=
  match (s.chan c).reg.held.any (s.behind c q), s.takeTokens c q with
  | false, some r => (s.onChan c fun h => { h with reg := r }).raiseAt c port q
  | _, _ => s.onChan c fun h => { h with reg := { h.reg with held := h.reg.held ++ [(port, q)] } }

/-- A transfer of n bursts raises one request for each (R272). -/
def State.raise (s : State) (c : Chan) (port : ArbPort) (cls : ReqClass) (who : Nat) (slot : Option SlotIx) (n : Nat) : State :=
  s.each (List.range n) fun t _ => t.raiseOne c port ⟨cls, 0, who, slot, false⟩

/-- Egress port of a fabric port (Table 10.1). -/
def egress (p : PortIx) : ArbPort := ⟨128 + p.val, by omega⟩

/-- HBM port of stack x 32 + pseudo-channel (Table 10.1). -/
def hbmPort (u : Nat) : ArbPort := ⟨u % 128, by omega⟩

/-- Class of a pump's work: URGENT while an urgent item of its job runs (Table 10.2). -/
def State.workClass (s : State) (c : Chan) (j : SlotIx) (cls : ReqClass) : ReqClass :=
  if (s.slot c j).urgents.any (·.running) then .urgent else cls

/-- Sends a flit of a job toward a channel and raises its burst at the egress port. -/
def State.sendFor (s : State) (c : Chan) (cls : ReqClass) (who : Nat) (j : SlotIx) (dest : ChanAddr) (f : OutFlit) : State :=
  let t := s.sendTo c (some j) (s.slot c j).job.rset dest f
  match routePort ((s.chan c).route (s.slot c j).job.rset dest) with
  | some port => t.raise c (egress port) cls who (some j) 1
  | none => t

end Sys2Proof.Machine
end

