-- ==== Sys2Proof/Machine/Memory.lean ====
section
/-!
DEFINITION. Memory of a channel: slices and HBM as local granules (Table 11.9), dead ranges, held entries and their
application at a tick, ledger inbound granules, echoes and shadows, and the checking of what is read
(R199-R234, R238-R257).
-/

namespace Sys2Proof.Machine

/-! ### Local granules -/

/-- Local granule number (local offset ÷ 32) of granule g of a slice (Table 11.9). -/
def sliceKey (p : PumpIx) (g : Nat) : Nat := 2 ^ 43 + p.val * 2 ^ 19 + g

/-- The slice and granule of a local granule number, for cistern offsets. -/
def keySlice (k : Nat) : Option (PumpIx × Nat) :=
  if k < 2 ^ 43 then none
  else if h : (k - 2 ^ 43) / 2 ^ 19 < 128 then some (⟨(k - 2 ^ 43) / 2 ^ 19, h⟩, (k - 2 ^ 43) % 2 ^ 19)
  else none

/-- Local granule number of a local offset. -/
def offKey (off : BitVec 49) : Nat := off.toNat / 32

/-- Local offset of a local granule number. -/
def keyOff (k : Nat) : BitVec 49 := BitVec.ofNat 49 (k * 32)

/-- Whether a local granule exists: below the channel's HBM capacity, or below the slice's pinned size. -/
def Channel.validKey (h : Channel) (k : Nat) : Bool :=
  match keySlice k with
  | some (_, g) => g < h.pinned
  | none => k < h.hbmLines * 128

/-! ### HBM ports (R272, R280) -/

/-- Whether the HBM port of a local granule is frozen (R280). -/
def State.hbmFrozen (s : State) (c : Chan) (k : Nat) : Bool :=
  match keySlice k, s.hbmPlace c (k / 128) with
  | none, some (u, _) => ((s.chan c).arbs[(hbmPort u).val]).freeze
  | _, _ => false

/-- Raises one request for every burst of 16 granules of the channel's own HBM that some granules lie in (R272, R273). -/
def State.raiseBursts (s : State) (c : Chan) (cls : ReqClass) (who : Nat) (slot : Option SlotIx) (ks : List Nat) : State :=
  let bursts := sortUniq ((ks.filter fun k => (keySlice k).isNone).map (· / 16))
  s.each bursts fun t b => match t.hbmPlace c (b / 8) with
    | some (u, _) => t.raise c (hbmPort u) cls who slot 1
    | none => t

/-! ### Dead ranges (R226-R229) -/

/-- The scale granule of a fill block: 32 scale bytes 0x7F (R178). -/
def fillScale : Granule := BitVec.ofNat 256 ((2 ^ 256 - 1) / 255 * 0x7F)

/-- The dead range that holds a 4 KiB block. -/
def deadAt (rs : List DeadRange) (blk : Nat) : Option DeadRange :=
  rs.find? fun r => r.first ≤ blk && blk < r.first + r.count

/-- What a granule of a dead range reads as. -/
def DeadRange.at_ (r : DeadRange) (g : Nat) : Granule := if r.scales.contains g then fillScale else r.fill

/-- Whether two ranges of one job stand side by side with equal patterns. -/
def DeadRange.joins (q r : DeadRange) : Bool :=
  q.slot == r.slot && q.fill == r.fill && (q.first + q.count == r.first || r.first + r.count == q.first)

/-- Two such ranges as one. -/
def DeadRange.join (q r : DeadRange) : DeadRange :=
  { q with first := min q.first r.first, count := q.count + r.count, scales := q.scales ++ r.scales }

/-- Enters a range: it merges with the ranges of equal pattern before and behind it, or takes a free entry; none where the
table is full (R227). -/
def deadAdd (limit : Nat) (rs : List DeadRange) (r : DeadRange) : Option (List DeadRange) :=
  let near := rs.filter fun q => q.joins r
  let rest := rs.filter fun q => !q.joins r
  if near.isEmpty ∧ limit ≤ rs.length then none else some (rest ++ [near.foldl DeadRange.join r])

/-- Takes a block out of its range. A split needs a second entry; without one the rest of the range is answered, to
be written with its pattern (R229). -/
def deadSplit (limit : Nat) (rs : List DeadRange) (r : DeadRange) (blk : Nat) : List DeadRange × Option DeadRange :=
  let lo : DeadRange := { r with count := blk - r.first }
  let hi : DeadRange := { r with first := blk + 1, count := r.first + r.count - (blk + 1) }
  let base := rs.erase r
  if lo.count = 0 ∧ hi.count = 0 then (base, none)
  else if lo.count = 0 then (base ++ [hi], none)
  else if hi.count = 0 then (base ++ [lo], none)
  else if base.length + 2 ≤ limit then (base ++ [lo, hi], none)
  else (base ++ [lo], some hi)

/-- The granules of `n` blocks from block `blk`, with the pattern of a range. -/
def DeadRange.pattern (r : DeadRange) (blk n : Nat) : List (Nat × Granule) :=
  (List.range (128 * n)).map fun i => (128 * blk + i, r.at_ (128 * blk + i))

/-! ### Memory as it stands -/

/-- A granule of a slice as it stands: an invalid one reads zero (R232). -/
def Slice.get (sl : Slice) (g : Nat) : Granule := (sl.mem.look g).getD 0

/-- Writes a granule of a slice: its valid bit is set and it is encoded afresh. -/
def Slice.put (sl : Slice) (g : Nat) (v : Granule) : Slice :=
  { sl with mem := sl.mem.set1 g v, upset := sl.upset.drop1 g }

/-- Clears the valid bits of granules [lo, hi) (R233). -/
def Slice.clear (sl : Slice) (lo hi : Nat) : Slice :=
  { sl with mem := sl.mem.without lo hi, upset := sl.upset.without lo hi }

/-- A slice as admission, removal and a lower-die reset leave it: nothing valid, nothing held. -/
def Slice.cleared (_sl : Slice) : Slice := Slice.reset

/-- Memory as it stands, without held entries: a dead block reads as its fill pattern (R228). -/
def Channel.raw (h : Channel) (k : Nat) : Granule :=
  match keySlice k with
  | some (p, g) =>
    let sl := h.pumps[p.val].slice
    match deadAt sl.dead (g / 128) with
    | some r => r.at_ g
    | none => sl.get g
  | none =>
    match deadAt h.hbmDead (k / 128) with
    | some r => r.at_ k
    | none => h.hbm.readD 0 k

/-- Drops the cache lines of a home line in every slice of the channel (R222). -/
def Channel.dropLine (h : Channel) (at_ : FabAddr) : Channel :=
  { h with pumps := h.pumps.map fun q => { q with slice := { q.slice with
      lines := q.slice.lines.filter fun l => l.at_.chan != at_.chan || l.at_.off.toNat / 4096 != at_.off.toNat / 4096 } } }

/-- Writes a granule at its home. A dead block is first filled and leaves its range (R229). -/
def Channel.store (h : Channel) (k : Nat) (v : Granule) : Channel :=
  match keySlice k with
  | some (p, g) =>
    { h with pumps := upd h.pumps p fun q =>
        let sl := q.slice
        match deadAt sl.dead (g / 128) with
        | some r =>
          let (rs, rest) := deadSplit 32 sl.dead r (g / 128)
          let ws := r.pattern (g / 128) 1 ++ (match rest with | some x => x.pattern x.first x.count | none => [])
          { q with slice := (ws.foldl (fun (t : Slice) (w : Nat × Granule) => t.put w.1 w.2) { sl with dead := rs }).put g v }
        | none => { q with slice := sl.put g v } }
  | none =>
    match deadAt h.hbmDead (k / 128) with
    | some r =>
      let (rs, rest) := deadSplit 256 h.hbmDead r (k / 128)
      let ws := r.pattern (k / 128) 1 ++ (match rest with | some x => x.pattern x.first x.count | none => [])
      { h with hbmDead := rs, hbm := (h.hbm.writes 0 ws).write 0 k v,
               hbmUpset := ws.foldl (fun (m : SMap CodeWord) (w : Nat × Granule) => m.drop1 w.1) (h.hbmUpset.drop1 k) }
    | none => { h with hbm := h.hbm.write 0 k v, hbmUpset := h.hbmUpset.drop1 k }

/-- Whether a split at this block finds its table full, which sets DEAD_SPILL (R229). -/
def Channel.splitSpills (h : Channel) (k : Nat) : Bool :=
  let go := fun (limit : Nat) (rs : List DeadRange) (blk : Nat) =>
    match deadAt rs blk with
    | some r => (deadSplit limit rs r blk).2.isSome
    | none => false
  match keySlice k with
  | some (p, g) => go 32 h.pumps[p.val].slice.dead (g / 128)
  | none => go 256 h.hbmDead (k / 128)

/-! ### Logs (R246, R247, R253) -/

/-- The DQ pin that carries symbol `sym` of granule g of a pseudo-channel (R243, R262): byte 36i + j of the block of
granule i = g mod 8 lies in burst byte (36i + j) mod 32. -/
def pinOf (g sym : Nat) : Nat := (36 * (g % 8) + (if sym < 4 then 32 + sym else sym - 4)) % 32

/-- The pin whose pattern an uncorrectable and a corrected error of a pseudo-channel match (R263). -/
def Cistern.pinNamed (x : Cistern) (unit : Nat) : Option Nat :=
  let ue := x.ueLog.filter fun (e : LogEnt) => e.source == 1 && e.unit == unit
  let ce := x.ceLog.filter fun (e : LogEnt) => e.source == 1 && e.unit == unit && decide (e.symbol < 36)
  (ce.map fun e => pinOf e.addr e.symbol).find? fun p => ue.any fun e => e.addr % 8 == p / 4

/-- A named pin waits for the lane repair of the next channel reset, and placement is told that the channel has no HBM
capacity until then (R263). -/
def State.pinCheck (s : State) (c : Chan) (source unit : Nat) : State :=
  let h := s.chan c
  match source, h.cis.pinNamed unit with
  | 1, some p =>
    (s.onChan c fun y => { y with stack := upd y.stack ⟨unit / 32 % 4, Nat.mod_lt _ (by decide)⟩ fun k =>
      { k with retrain := true, failPc := unit % 32, failPin := p } }).mapUpdate c fun m => { m with freeLines := 0 }
  | _, _ => s

/-- LOCATION of the row of a slice that holds a granule: bank × 512 + row, granule g lying in bank g mod 16, and a row holding
64 granules of its bank in order (R200, Table 16.8; log entry 43). -/
def cisRowOf (g : Nat) : Nat := g % 16 * 512 + g / 1024

/-- Counts and logs a corrected granule; a second correction after a write-back is a hard error (R245-R248). -/
def State.logCe (s : State) (c : Chan) (source unit addr sym : Nat) (wrote : Bool) : State :=
  let h := s.chan c
  let same := fun (e : LogEnt) => e.source == source && e.unit == unit && e.addr == addr && e.symbol == sym
  let fresh : LogEnt := { source := source, owned := false, symbol := sym, unit := unit, addr := addr, repeats := 0,
                          firstMs := s.timeNs / 1000000 % 2 ^ 32, wroteBack := wrote }
  let log := h.cis.ceLog
  let log' :=
    if log.any same then
      log.map fun e => if same e then { e with repeats := sat16 e.repeats 1, wroteBack := wrote } else e
    else if log.length < 32 then log ++ [fresh]
    else
      let oldest := (log.map (·.firstMs)).foldl min (2 ^ 32)
      match log.findIdx? fun e => e.firstMs == oldest with
      | some i => log.set i fresh
      | none => log ++ [fresh]
  let counts := fun (v : Vector Nat 8) => if hs : source < 8 then upd v ⟨source, hs⟩ (sat64 · 1) else v
  let t := s.onCis c fun x => { x with ceLog := log', ceCount := counts x.ceCount, windowCe := x.windowCe + 1 }
  let hard := log.any fun e => same e && 1 ≤ e.repeats && e.wroteBack
  let t := t.pinCheck c source unit
  if hard then
    match source with
    | 0 => t.addDefect c .cisRow 2 unit (cisRowOf addr)
    | 1 => t.addDefect c .hbmRow 2 unit (t.mc.firm.hbmRow c unit addr)
    | _ => t
  else t

/-- Enters an uncorrectable error; the oldest of eight entries is replaced, at its place in the registers (R253). -/
def State.logUe (s : State) (c : Chan) (source unit addr : Nat) (owned : Bool) : State :=
  let fresh : LogEnt := { source := source, owned := owned, symbol := 0x3F, unit := unit, addr := addr, repeats := 0,
                          firstMs := s.timeNs / 1000000 % 2 ^ 32, wroteBack := false }
  let bank := if source = 1 ∧ owned then [(unit, s.mc.firm.hbmRow c unit addr / 2 ^ 17, s.timeNs / 1000000)] else []
  (s.onCis c fun x => { x with
    ueTotal := x.ueTotal + 1, bankUe := x.bankUe ++ bank,
    ueLog := (if x.ueLog.length < 8 then x.ueLog else x.ueLog.drop 1) ++ [fresh] }).pinCheck c source unit

/-- The entry at CIS_UE_LOG[i]. -/
def Cistern.ueAt (x : Cistern) (i : Nat) : Option LogEnt :=
  x.ueLog[(i + 8 - (x.ueTotal - x.ueLog.length) % 8) % 8]?

/-- A log entry as a register (CIS_CE_LOG). -/
def LogEnt.pack (e : LogEnt) : Nat :=
  packReg [(0, 4, e.source), (4, 1, 1), (5, 1, bit e.owned), (8, 6, e.symbol), (16, 8, e.unit), (24, 40, e.addr),
           (64, 16, e.repeats), (96, 32, e.firstMs)]

/-! ### Who owns an address (R250, R400) -/

/-- First byte and size of the part of an allocation that a channel address holds, as local offsets. -/
def Alloc.parts (a : Alloc) : List (ChanAddr × Nat × Nat) :=
  let pinnedParts := fun (ch : ChanAddr) (slices : List Nat) (base size : Nat) =>
    slices.map fun p => (ch, 2 ^ 48 + p * 2 ^ 24 + base, size)
  match a.kind with
  | .hbm => [(a.channel, a.base, a.size)]
  | .pinned => pinnedParts a.channel (bitsOf a.slices) a.base a.size
  | .distributed =>
    a.bound.flatMap fun b =>
      if a.pinned then
        pinnedParts b.2.1 (b.2.2.2.map (·.val)) b.2.2.1 ((a.size / 32 + b.2.2.2.length - 1) / b.2.2.2.length * 32)
      else [(b.2.1, b.2.2.1, a.size)]

/-- The allocation that covers a local offset of a channel: its context's number and itself. -/
def State.allocAt (s : State) (ch : ChanAddr) (off : Nat) : Option (Nat × Alloc) :=
  s.mc.ctxs.findSome? fun x =>
    (x.2.allocs.find? fun e => e.2.parts.any fun q => q.1 == ch && q.2.1 ≤ off && off < q.2.1 + q.2.2).map
      fun e => (x.1, e.2)

/-- Whether any descriptor of a job's image names an allocation handle. -/
def imageNames (im : JobImage) (handle : Nat) : Bool :=
  im.descs.any fun d => (d.2.extractLsb' 40 24).toNat == handle

/-- The slot of the admitted job that owns a local granule. -/
def State.owner (s : State) (c : Chan) (k : Nat) : Option SlotIx :=
  match keySlice k with
  | some (p, _) => (s.chan c).slotOf p
  | none =>
    match s.mc.ctxs.findSome? fun x =>
        (x.2.allocs.find? fun e => e.2.parts.any fun q =>
          q.1 == s.addrOf c && q.2.1 ≤ k * 32 && k * 32 < q.2.1 + q.2.2).map fun e => (x.1, e.1) with
    | some (ctx, handle) =>
      (s.chan c).liveSlots.find? fun j =>
        let x := s.slot c j
        x.job.ctx == ctx &&
          (match s.job ctx x.job.job with | some jb => imageNames jb.image handle | none => false)
    | none => none

/-- UNIT of a local granule in the logs: physical slice, or stack × 32 + pseudo-channel; and the granule there. -/
def State.unitOf (s : State) (c : Chan) (k : Nat) : Nat × Nat :=
  match keySlice k with
  | some (p, g) => (physOf (s.chan c) p, g)
  | none =>
    match s.hbmPlace c (k / 128) with
    | some (u, line) => (u, line * 128 + k % 128)
    | none => (0, k)

/-- The black-box entry of an uncorrectable error: the log entry just made (R253). -/
def State.ueEvent (s : State) (c : Chan) (j : Option SlotIx) (unit : Nat) : State :=
  let ent := match (s.chan c).cis.ueLog.getLast? with | some e => e.pack | none => 0
  s.event c 0x09 j unit (BitVec.ofNat 128 ent)

/-- UNIT_KIND of a local granule. -/
def keyKind (k : Nat) : UnitKind := if (keySlice k).isSome then .slice else .hbm

/-- An uncorrectable granule that a consumer keeps after its re-read: the owning job faults with DATA_UE and zeros
are delivered; unowned, it is only logged (R250, R251). A pattern that the model holds stands in the stored word, so the second
copy of R249 shows it again. -/
def State.dataUe (s : State) (c : Chan) (source k : Nat) : State :=
  let (unit, addr) := s.unitOf c k
  match s.owner c k with
  | some j => ((s.logUe c source unit addr true).ueEvent c (some j) unit).fault c j .dataUe (keyKind k) unit addr
  | none => s.logUe c source unit addr false

/-- SOURCE of a local granule (Table 9.4). -/
def keySource (k : Nat) : Nat := if (keySlice k).isSome then 0 else 1

/-- A read–modify–write of an uncorrectable granule is refused: as `dataUe`, and written to the black box unowned too
(R234, R253). -/
def State.refuseWrite (s : State) (c : Chan) (k : Nat) : State :=
  let t := s.dataUe c (keySource k) k
  if (s.owner c k).isSome then t else t.ueEvent c none (s.unitOf c k).1

/-- The stored error pattern of a local granule. -/
def Channel.upsetAt (h : Channel) (k : Nat) : CodeWord :=
  match keySlice k with
  | some (p, g) => h.pumps[p.val].slice.upset.readD 0 g
  | none => h.hbmUpset.readD 0 k

/-- What a consumer receives of a granule whose stored code word differs from its data's by `e`: the granule, a
corrected one written back at its source (R245), in HBM by a corrective write of class SCRUB, or zeros. -/
def State.checked (s : State) (c : Chan) (k : Nat) (v : Granule) (e : CodeWord) : State × Granule :=
  match bscDecode e with
  | .clean => (s, v ^^^ e.setWidth 256)
  | .corrected i x =>
    let (unit, addr) := s.unitOf c k
    let fixed := v ^^^ (e ^^^ oneSymbol i x).setWidth 256
    let t := (s.logCe c (keySource k) unit addr i true).onChan c fun h => h.store k fixed
    (if (keySlice k).isSome then t else t.raise c (hbmPort unit) .scrub reqScrub none 1, fixed)
  | .uncorrectable => (s.dataUe c (keySource k) k, 0)

/-- What a read–modify–write finds at a granule: none where it stays uncorrectable and the write is not performed (R234,
R244). -/
def State.forWrite (s : State) (c : Chan) (k : Nat) : State × Option Granule :=
  let h := s.chan c
  let e := h.upsetAt k
  if e = 0 then (s, some (h.raw k))
  else match bscDecode e with
    | .uncorrectable => (s.refuseWrite c k, none)
    | _ => let r := s.checked c k (h.raw k) e; (r.1, some r.2)

/-- A granule's home writes it; a split of a dead range that finds no entry sets DEAD_SPILL for the job (R229). -/
def State.storeAt (s : State) (c : Chan) (j : Option SlotIx) (k : Nat) (v : Granule) : State :=
  let spill := (s.chan c).splitSpills k
  let t := s.onChan c fun h => h.store k v
  match spill, j with
  | true, some i => t.onRegs c i fun r => { r with deadSpill := true }
  | _, _ => t

/-- Counts a read–modify–write of R234 (Table 8.8). -/
def State.countNarrow (s : State) (c : Chan) (j : SlotIx) : State := s.onRegs c j fun r => { r with cnt := upd r.cnt 6 (sat64 · 1) }

/-! ### Held entries and their application (R217-R223) -/

/-- Frame number of the job of a slot. -/
def State.frameNo (s : State) (c : Chan) (j : SlotIx) : Nat := (s.slot c j).regs.frame

/-- The frame before frame f; what is bound to frame 0 carries the number before it. -/
def prevFrame (f : Nat) : Nat := (f + (2 ^ 64 - 1)) % 2 ^ 64

/-- Whether something recorded in a frame of a slot's job is due: its tick has taken effect. -/
def State.due (s : State) (c : Chan) (j : SlotIx) (frame : Nat) : Bool :=
  let st := (s.slot c j).job.state
  st != .admitting && st != .restoring && (decide (frame < s.frameNo c j) || frame == 2 ^ 64 - 1)

/-- The same for the job that holds a pump. -/
def State.past (s : State) (c : Chan) (p : PumpIx) (frame : Nat) : Bool :=
  match (s.chan c).slotOf p with
  | some j => s.due c j frame
  | none => false

/-- The owner's writer key of a slice: its virtual channel and writer index (R217). -/
def Pump.key (q : Pump) : BitVec 23 := BitVec.ofNat 23 (q.vch * 256 + q.index)

/-- Key and value that byte b of a granule takes among entries and the owner's own writes (R222 step 1). -/
def winner (es : List Held) (own : Option (BitVec 23 × BitVec 32 × Granule)) (b : Nat) :
    Option (BitVec 23 × BitVec 8) :=
  let cand := (es.filter fun e => e.mask.getLsbD b).map fun e => (e.key, gByte e.data b)
  let cand := match own with
    | some (k, m, v) => if m.getLsbD b then (k, gByte v b) :: cand else cand
    | none => cand
  cand.foldl (fun w x => match w with
    | some y => if x.1.toNat < y.1.toNat then some x else some y
    | none => some x) none

/-- Keys that cover byte b. -/
def coverers (es : List Held) (own : Option (BitVec 23 × BitVec 32 × Granule)) (b : Nat) : List (BitVec 23) :=
  ((match own with | some (k, m, _) => if m.getLsbD b then [k] else [] | none => []) ++
    ((es.filter fun e => e.mask.getLsbD b).map (·.key))).dedup

/-- Signed and bitwise integer atomic (R163, R165). -/
def atomFn {w : Nat} (op : AtomOp) (old v cmp : BitVec w) : BitVec w :=
  match op with
  | .add => old + v
  | .min => if v.slt old then v else old
  | .max => if old.slt v then v else old
  | .and => old &&& v
  | .or => old ||| v
  | .xor => old ^^^ v
  | .exch => v
  | .cas => if old = cmp then v else old
  | .fadd => (fadd (old.setWidth 32) (v.setWidth 32)).setWidth w

/-- One atomic on the 32- or 64-bit word at byte b of a granule: the new granule and the old word. -/
def atomGran (g : Granule) (b : Nat) (w64 : Bool) (op : AtomOp) (v cmp : BitVec 64) : Granule × BitVec 64 :=
  if w64 then
    let old := g.extractLsb' (8 * b) 64
    let new := atomFn op old v cmp
    (gMerge g (new.setWidth 256 <<< (8 * b)) (byteMask b 8), old)
  else
    let old := g.extractLsb' (8 * b) 32
    let new := atomFn op old (v.setWidth 32) (cmp.setWidth 32)
    (gMerge g (new.setWidth 256 <<< (8 * b)) (byteMask b 4), old.setWidth 64)

/-- The owner's key, mask and data of a granule that its owner wrote in the frame whose entries are applied. -/
def State.ownWrite (s : State) (c : Chan) (k frame : Nat) : Option (BitVec 23 × BitVec 32 × Granule) :=
  match keySlice k with
  | some (p, g) =>
    let q := s.pump c p
    match q.slice.shadows.look g with
    | some sh => if sh.frame = frame then some (q.key, sh.owner, q.slice.get g) else none
    | none => none
  | none => none

/-- A scrub finding of a granule that stays uncorrectable: logged, and an owning job faults with DATA_UE at its next fence
(R257, R262). -/
def State.ueFound (s : State) (c : Chan) (k : Nat) : State :=
  let (unit, addr) := s.unitOf c k
  let s1 := s.logUe c (if (keySlice k).isSome then 0 else 1) unit addr (s.owner c k).isSome
  match s.owner c k with
  | some j => s1.onFr c j fun f => { f with ueFault := some (f.ueFault.getD ((if (keySlice k).isSome then 2 else 3), unit, addr)) }
  | none => s1

/-- A write that covers part of an HBM block checks the block's other granules: a corrected one is written back clean, an
uncorrectable one stays as it is (R262). -/
def State.mergeBlock (s : State) (c : Chan) (k : Nat) : State :=
  if (keySlice k).isSome then s
  else
    s.each ((List.range 8).map fun i => k / 8 * 8 + i) fun t i =>
      let h := t.chan c
      if i = k ∨ h.upsetAt i = 0 ∨ h.held.any fun e => offKey e.off == i && t.due c e.slot e.frame then t
      else match bscDecode (h.upsetAt i) with
        | .clean => t
        | .corrected .. => (t.checked c i (h.raw i) (h.upsetAt i)).1
        | .uncorrectable => t.ueFound c i

/-- Applies the bytes of one frame's held entries to a granule: lowest key per byte; a conflict is logged (R50, R222). -/
def State.applyBytes (s : State) (c : Chan) (j : SlotIx) (k frame : Nat) (es : List Held) : State :=
  let own := s.ownWrite c k frame
  let ws := (List.range 32).filterMap fun b => (winner es own b).map fun w => (b, w.2)
  let clash := (List.range 32).findSome? fun b =>
    match (winner es own b), (coverers es own b) with
    | some w, l => (l.find? (· != w.1)).map fun o => (w.1, o)
    | none, _ => none
  let s1 := match clash with
    | some (w, o) => s.event c 0x04 (some j) 0 (detail [(0, 8, k * 32), (8, 3, w.toNat), (11, 3, o.toNat)])
    | none => s
  let narrow := ws.length < 32
  let (s2, old) := if narrow then s1.forWrite c k else (s1, some ((s1.chan c).raw k))
  match old with
  | none => s2
  | some g0 =>
    let new := ws.foldl (fun (g : Granule) (x : Nat × BitVec 8) => gMerge g (x.2.setWidth 256 <<< (8 * x.1)) (byteMask x.1 1)) g0
    let s3 := ((s2.storeAt c (some j) k new).onChan c fun h => h.dropLine ⟨s.addrOf c, keyOff k⟩).mergeBlock c k
    if narrow then s3.countNarrow c j else s3

/-- The words of a granule that global atomics name: 8 bytes where a 64-bit atomic lies there, else 4. -/
def atomUnits (as : List HeldAtom) : List (Nat × Nat) :=
  let at_ := fun (a : HeldAtom) => a.atom.off.toNat % 32
  let wide := sortUniq ((as.filter (·.atom.w64)).map fun a => at_ a / 8)
  let rest := sortUniq (((as.filter fun a => !a.atom.w64).map fun a => at_ a / 4).filter fun w => !wide.contains (w / 2))
  wide.map (fun u => (8 * u, 8)) ++ rest.map fun w => (4 * w, 4)

/-- Applies one frame's global atomics of a granule in the order they came, each word in one read–modify–write. More than one
operation of R165, or more than one width, on one word faults the job with DESCRIPTOR and leaves the word. -/
def State.applyAtoms (s : State) (c : Chan) (k : Nat) (as : List HeldAtom) : State :=
  s.each (atomUnits as) fun t u =>
    let here := as.filter fun a => decide (u.1 ≤ a.atom.off.toNat % 32) && decide (a.atom.off.toNat % 32 < u.1 + u.2)
    match here with
    | [] => t
    | a0 :: _ =>
      let plain := here.filter fun a => a.atom.op != .exch && a.atom.op != .cas && a.atom.op != .fadd
      let sameOp := plain.all fun a => plain.all fun b => a.atom.op == b.atom.op
      if sameOp && here.all fun a => a.atom.w64 == a0.atom.w64 then
        match t.forWrite c k with
        | (t1, none) => t1
        | (t1, some g0) =>
          let new := here.foldl (fun (g : Granule) (a : HeldAtom) =>
            (atomGran g (a.atom.off.toNat % 32) a.atom.w64 a.atom.op a.atom.val a.atom.cmp).1) g0
          (((t1.storeAt c (some a0.slot) k new).onChan c fun h => h.dropLine ⟨s.addrOf c, keyOff k⟩).mergeBlock c k).countNarrow
            c a0.slot
      else
        t.fault c a0.slot .descriptor (keyKind k) (t.unitOf c k).1 (k * 32)

/-- Declares blocks of a channel dead: what is held for them is discarded, cached copies are dropped, valid bits are
cleared, and it enters the dead table, or is filled where the table is full (R226, R227). -/
def State.killBlocks (s : State) (c : Chan) (j : SlotIx) (k0 count : Nat) (fill : Granule) (scales : List Nat)
    (frame : Nat) : State :=
  let inR := fun (k : Nat) => k0 ≤ k && k < k0 + 128 * count
  let s0 := s.onChan c fun h => { h with
    held := h.held.filter fun e => !(inR (offKey e.off) && e.frame ≤ frame && e.slot == j),
    atoms := h.atoms.filter fun a => !(inR (offKey a.atom.off) && a.frame ≤ frame && a.slot == j) }
  let s1 := s0.each (List.range count) fun t i =>
    t.onChan c fun h => h.dropLine ⟨s.addrOf c, keyOff (k0 + 128 * i)⟩
  match keySlice k0 with
  | some (p, g) =>
    let r : DeadRange := ⟨j, g / 128, count, fill, scales.map (· - (k0 - g))⟩
    match deadAdd 32 (s1.slice c p).dead r with
    | some rs => s1.onSlice c p fun sl => { sl.clear g (g + 128 * count) with dead := rs }
    | none =>
      (s1.onSlice c p fun sl => (r.pattern r.first r.count).foldl (fun (t : Slice) (w : Nat × Granule) => t.put w.1 w.2) sl).onRegs c j
        fun x => { x with deadSpill := true }
  | none =>
    let r : DeadRange := ⟨j, k0 / 128, count, fill, scales⟩
    match deadAdd 256 (s1.chan c).hbmDead r with
    | some rs => s1.onChan c fun h => { h with hbmDead := rs }
    | none =>
      (s1.onChan c fun h => { h with
          hbm := h.hbm.writes 0 (r.pattern r.first r.count), hbmUpset := h.hbmUpset.without k0 (k0 + 128 * count) }).onRegs c j
        fun x => { x with deadSpill := true }

/-- Applies the due dead declarations that cover a granule (R222 step 3). -/
def State.applyDecls (s : State) (c : Chan) (k : Nat) : State :=
  let ds := (s.chan c).decls.filter fun d =>
    s.due c d.slot d.frame && offKey d.off ≤ k && k < offKey d.off + 128 * d.count
  s.each ds fun t d =>
    (t.onChan c fun h => { h with decls := h.decls.erase d }).killBlocks c d.slot (offKey d.off) d.count d.fill
      d.scales d.frame

/-- Place of a frame in time: what is bound to frame 0 comes first. -/
def frameRank (f : Nat) : Nat := (f + 1) % 2 ^ 64

/-- The granule that a consumer receives of an entry of the held share, at `at_` of the slice: a corrected one is counted, an
uncorrectable one faults the job with DATA_UE and reads as zeros (R250). -/
def State.heldRead (s : State) (c : Chan) (j : Option SlotIx) (unit at_ : Nat) (v : Granule) (e : CodeWord) : State × Granule :=
  if e = 0 then (s, v)
  else match bscDecode e with
    | .clean => (s, v ^^^ e.setWidth 256)
    | .corrected i x => (s.logCe c 0 unit at_ i true, v ^^^ (e ^^^ oneSymbol i x).setWidth 256)
    | .uncorrectable =>
      let s1 := (s.logUe c 0 unit at_ j.isSome)
      (match j with
        | some i => (s1.ueEvent c (some i) unit).fault c i .dataUe .slice unit at_
        | none => s1, 0)

/-- Whether the ledger adder of the slice of a local granule fails its residue check: an uncorrectable error in the ledger
(R244). -/
def Channel.adderBad (h : Channel) (p : PumpIx) : Bool := h.badAdders.contains (physOf h p)

/-- Folds the inbound values of frames before `rank` into their ledger (R133, R136): a read–modify–write that checks the
ledger and the values. -/
def State.foldUpto (s : State) (c : Chan) (p : PumpIx) (g rank : Nat) : State :=
  match (s.slice c p).inbound.look g with
  | some l =>
    let old := l.filter fun ib => s.past c p ib.frame && decide (frameRank ib.frame < rank)
    let new := l.filter fun ib => !(s.past c p ib.frame && decide (frameRank ib.frame < rank))
    if old.isEmpty then s
    else
      let j := (s.chan c).slotOf p
      let s0 := s.onSlice c p fun sl => { sl with
        inbound := if new.isEmpty then sl.inbound.drop1 g else sl.inbound.set1 g new }
      match s0.forWrite c (sliceKey p g) with
      | (s1, none) => s1
      | (s1, some v) =>
        if (s1.chan c).adderBad p then s1.dataUe c 0 (sliceKey p g)
        else
          let (s2, sum) := old.foldl (fun (a : State × Granule) ib =>
            let r := a.1.heldRead c j (physOf (s.chan c) p) g ib.val ib.up
            (r.1, a.2 + r.2)) (s1, v)
          s2.storeAt c j (sliceKey p g) sum
  | none => s

/-- Folds the inbound values of every earlier frame. -/
def State.foldInbound (s : State) (c : Chan) (p : PumpIx) (g : Nat) : State := s.foldUpto c p g (2 ^ 64)

/-- Applies what one frame holds for a granule: first the combines of still earlier frames, then bytes, then atomics (R136,
R222). -/
def State.applyFrame (s : State) (c : Chan) (k frame : Nat) : State :=
  let mineE := fun (e : Held) => offKey e.off == k && s.due c e.slot e.frame && e.frame == frame
  let mineA := fun (a : HeldAtom) => offKey a.atom.off == k && s.due c a.slot a.frame && a.frame == frame
  let es := (s.chan c).held.filter mineE
  let as := (s.chan c).atoms.filter mineA
  let s0 := s.onChan c fun h => { h with held := h.held.filter (!mineE ·), atoms := h.atoms.filter (!mineA ·) }
  let s1 := match keySlice k with
    | some (p, g) => s0.foldUpto c p g (frameRank frame)
    | none => s0
  let (s2, vs) := es.foldl (fun (a : State × List Held) e =>
    let r := a.1.heldRead c (some e.slot) ((keySlice k).elim 0 fun x => physOf (s.chan c) x.1) (k % 2 ^ 19) e.data e.up
    (r.1, a.2 ++ [{ e with data := r.2, up := 0 }])) (s1, [])
  let s3 := match vs with
    | [] => s2
    | e :: _ => s2.applyBytes c e.slot k frame vs
  let s4 := if as.isEmpty then s3 else s3.applyAtoms c k as
  match keySlice k with
  | some (p, g) =>
    if es.isEmpty then s4
    else s4.onSlice c p fun sl => { sl with shadows := match sl.shadows.look g with
      | some sh => if sh.frame = frame then sl.shadows.drop1 g else sl.shadows
      | none => sl.shadows }
  | none => s4

/-- Applies whatever is due at a granule, frame by frame: an access does this first, and the drain for every granule (R223). -/
def State.applyDue (s : State) (c : Chan) (k : Nat) : State :=
  let s0 := s.applyDecls c k
  let h := s0.chan c
  let fs := ((h.held.filter fun e => offKey e.off == k && s0.due c e.slot e.frame).map (·.frame)) ++
    ((h.atoms.filter fun a => offKey a.atom.off == k && s0.due c a.slot a.frame).map (·.frame))
  s0.each (fs.dedup.sortWith fun a b => decide (frameRank a ≤ frameRank b)) fun t f => t.applyFrame c k f

/-- What every access to a granule does first: due entries are applied, then an earlier inbound value is folded. -/
def State.settle (s : State) (c : Chan) (k : Nat) : State :=
  let s1 := s.applyDue c k
  match keySlice k with
  | some (p, g) => s1.foldInbound c p g
  | none => s1

/-- A job's read of a dead block: logged once per block and frame in a Relaxed job; a Strict job faults at its next
fence (R228). -/
def State.deadRead (s : State) (c : Chan) (j : SlotIx) (k : Nat) : State :=
  let x := s.slot c j
  let s1 := s.onRegs c j fun r => { r with cnt := upd r.cnt 4 (sat64 · 1) }
  if x.job.strict then s1.onFr c j fun f => { f with deadFault := true }
  else
    let s2 := s1.onRegs c j fun r => { r with deadRead := true }
    if x.fr.deadSeen.contains (k / 128) then s2
    else
      (s2.event c 0x07 (some j) (s2.unitOf c k).1 (detail [(0, 8, k * 32), (8, 4, 1)])).onFr c j
        fun f => { f with deadSeen := f.deadSeen ++ [k / 128] }

/-- Whether a local granule is dead. -/
def Channel.isDead (h : Channel) (k : Nat) : Bool :=
  match keySlice k with
  | some (p, g) => (deadAt h.pumps[p.val].slice.dead (g / 128)).isSome
  | none => (deadAt h.hbmDead (k / 128)).isSome

/-- A job's read of a local granule as its base layer: settled, dead blocks as fill, checked at the consumer. -/
def State.readBase (s : State) (c : Chan) (j : Option SlotIx) (k : Nat) : State × Granule :=
  let s1 := s.settle c k
  let h := s1.chan c
  if h.isDead k then
    (match j with | some x => s1.deadRead c x k | none => s1, h.raw k)
  else
    let e := h.upsetAt k
    if e = 0 then (s1, h.raw k) else s1.checked c k (h.raw k) e

/-- The owning pump's read of a granule of its own slice. -/
def State.readOwn (s : State) (c : Chan) (p : PumpIx) (g : Nat) : State × Granule :=
  s.readBase c ((s.chan c).slotOf p) (sliceKey p g)

/-- A read of a pinned granule by anyone but its owner returns the shadow of this frame, if there is one (R219). -/
def State.readShared (s : State) (c : Chan) (j : Option SlotIx) (k : Nat) : State × Granule :=
  match keySlice k with
  | some (p, g) =>
    match (s.slice c p).shadows.look g with
    | some sh =>
      if sh.frame = s.frameOf c p then s.heldRead c ((s.chan c).slotOf p) (physOf (s.chan c) p) g sh.data sh.up
      else s.readBase c j k
    | none => s.readBase c j k
  | none => s.readBase c j k

/-! ### The held share (R217, R218, R225) -/

/-- The slice that keeps the held entries of a local granule for a job, if the channel holds slices of it. -/
def Channel.heldIn (h : Channel) (j : SlotIx) (k : Nat) : Option PumpIx :=
  match keySlice k with
  | some (p, _) => some p
  | none => let ps := h.pumpsOf j; if ps.isEmpty then none else ps[k % ps.length]?

/-- Granules of its held share that a slice has in use. -/
def State.heldUse (s : State) (c : Chan) (p : PumpIx) : Nat :=
  let h := s.chan c
  let sl := h.pumps[p.val].slice
  let f := s.frameOf c p
  (h.held.filter fun e => h.heldIn e.slot (offKey e.off) == some p).length + sl.echoes.length +
    (sl.shadows.filter fun x => x.2.frame == f).length + sl.reserved.dedup.length

/-- Granules in use of a job's home reserve, and its size (R218). -/
def State.reserveUse (s : State) (c : Chan) (j : SlotIx) : Nat × Nat :=
  let h := s.chan c
  ((h.held.filter fun e => e.slot == j && (keySlice (offKey e.off)).isNone).length,
    ((List.finRange 16).filter fun pd => h.polders[pd.val].reserve == some j).length * 8 * h.heldShare)

/-- Raises the fault of a full held share (R225): `kind` 0 held entry, 1 echo, 2 shadow. -/
def State.heldFull (s : State) (c : Chan) (j : SlotIx) (p : Option PumpIx) (kind used : Nat) : State :=
  let unit := match p with | some q => physOf (s.chan c) q | none => 0
  (s.event c 0x06 (some j) unit (detail [(0, 4, used), (4, 1, kind)])).fault c j .descriptor .slice unit 0

/-- Records a granule of a global write at its home (R217). Entries of one key to one granule of one frame merge. -/
def State.hold (s : State) (c : Chan) (j : SlotIx) (frame : Nat) (r : WriteRec) : State :=
  let k := offKey r.off
  let h := s.chan c
  let same := fun (e : Held) => e.slot == j && e.frame == frame && offKey e.off == k && e.key == r.key
  let merge := fun (e : Held) =>
    if same e then { e with mask := e.mask ||| r.mask, data := gMerge e.data r.data r.mask } else e
  let unit := (keySlice k).elim 0 fun x => physOf h x.1
  if h.held.any same then
    let t := match h.held.find? fun e => same e && e.up != 0 with
      | none => s
      | some e =>
        let x := s.heldRead c (some j) unit (k % 2 ^ 19) e.data e.up
        x.1.onChan c fun y => { y with held := y.held.map fun e => if same e then { e with data := x.2, up := 0 } else e }
    t.onChan c fun x => { x with held := x.held.map merge }
  else
    let (used, room) := match h.heldIn j k with
      | some p => (s.heldUse c p, h.heldShare)
      | none => s.reserveUse c j
    if room ≤ used then s.heldFull c j (h.heldIn j k) 0 used
    else
      s.onChan c fun x => { x with
        held := x.held ++ [⟨j, frame, keyOff k, r.mask, r.data, r.key, 0⟩] }

/-- Records an echo of a pump's own global write (R220). -/
def State.echo (s : State) (c : Chan) (p : PumpIx) (a : FabAddr) (mask : BitVec 32) (v : Granule) : State :=
  match (s.chan c).slotOf p with
  | none => s
  | some j =>
    if (s.chan c).heldShare ≤ s.heldUse c p then s.heldFull c j (some p) 1 (s.heldUse c p)
    else s.onSlice c p fun sl => { sl with echoes := sl.echoes ++ [⟨a, mask, v, 0⟩] }

/-- Whether an echo lies at a granule. -/
def Echo.on (e : Echo) (a : FabAddr) : Bool := e.at_.chan == a.chan && e.at_.off.toNat / 32 == a.off.toNat / 32

/-- A pump's own writes of this frame over a base granule (R215), each checked (R242). -/
def State.overlay (s : State) (c : Chan) (p : PumpIx) (a : FabAddr) (v : Granule) : State × Granule :=
  ((s.slice c p).echoes.filter (·.on a)).foldl (fun (r : State × Granule) e =>
    let x := r.1.heldRead c ((s.chan c).slotOf p) (physOf (s.chan c) p) (a.off.toNat / 32 % 2 ^ 19) e.data e.up
    (x.1, gMerge r.2 x.2 e.mask)) (s, v)

/-- Whether a granule of a slice belongs to an exported allocation (R219, R361). -/
def State.exported (s : State) (c : Chan) (p : PumpIx) (g : Nat) : Bool :=
  match s.allocAt (s.addrOf c) (sliceKey p g * 32) with
  | some (_, a) => a.exported || a.kind == .distributed
  | none => false

/-- The owner's first private write of a frame to an exported granule keeps the old granule as a shadow, and every
write records its bytes (R219). -/
def State.shadow (s : State) (c : Chan) (p : PumpIx) (g : Nat) (mask : BitVec 32) : State :=
  if s.exported c p g then
    let f := s.frameOf c p
    let sl := s.slice c p
    let plane := if f % 2 = 0 then sl.marks[0] else sl.marks[1]
    if plane.contains g then
      s.onSlice c p fun x => { x with shadows := x.shadows.alter g fun sh => { sh with owner := sh.owner ||| mask } }
    else if (s.chan c).heldShare ≤ s.heldUse c p then
      match (s.chan c).slotOf p with
      | some j => s.heldFull c j (some p) 2 (s.heldUse c p)
      | none => s
    else
      s.onSlice c p fun x => { x with
        shadows := x.shadows.set1 g ⟨(s.chan c).raw (sliceKey p g), mask, f, 0⟩,
        marks := if f % 2 = 0 then #v[x.marks[0] ++ [g], x.marks[1]] else #v[x.marks[0], x.marks[1] ++ [g]] }
  else s

/-- The urgent item that runs on a job's pumps in a channel. -/
def Slot.urgent (x : Slot) : Option UrgentItem := x.urgents.find? (·.running)

/-- Whether an urgent item runs and a granule lies in none of the allocations that its image marks as urgent outputs
(R47). -/
def State.barred (s : State) (c : Chan) (j : SlotIx) (ch : ChanAddr) (k : Nat) : Bool :=
  match (s.slot c j).urgent with
  | none => false
  | some u =>
    let x := (s.slot c j).job
    let outs : List Nat := match s.job x.ctx x.job with
      | some jb => ((jb.image.urgents.find? fun e => e.1 == u.entry).map fun e => e.2).getD []
      | none => []
    match s.mc.ctxs.look x.ctx with
    | none => true
    | some y => !(outs.any fun (h : Nat) => match y.allocs.look h with
      | some a => a.parts.any fun (q : ChanAddr × Nat × Nat) => q.1 == ch && q.2.1 ≤ k * 32 && k * 32 < q.2.1 + q.2.2
      | none => false)

/-- A write of an urgent item outside its outputs is dropped, and the item will complete with CONTEXT_FAULT (R47). -/
def State.bar (s : State) (c : Chan) (j : SlotIx) : State :=
  s.onSlot c j fun x => { x with urgents := x.urgents.map fun u => if u.running then { u with ctxFault := true } else u }

/-- The slot whose urgent item bars a pump's write. -/
def State.barredPump (s : State) (c : Chan) (p : PumpIx) (ch : ChanAddr) (k : Nat) : Option SlotIx :=
  ((s.chan c).slotOf p).filter fun j => s.barred c j ch k

/-- A private write to a granule of the pump's own slice, at once (R210, R219, R234, R136). -/
def State.writeOwn (s : State) (c : Chan) (p : PumpIx) (g : Nat) (mask : BitVec 32) (v : Granule) : State :=
  if mask = 0 then s
  else match s.barredPump c p (s.addrOf c) (sliceKey p g) with
  | some j => s.bar c j
  | none =>
    let k := sliceKey p g
    let s1 := (s.settle c k).shadow c p g mask
    let j := (s1.chan c).slotOf p
    if mask = 0xFFFFFFFF#32 then s1.storeAt c j k v
    else
      match s1.forWrite c k with
      | (s2, none) => s2
      | (s2, some old) =>
        let s3 := s2.storeAt c j k (gMerge old v mask)
        match j with
        | some i => s3.countNarrow c i
        | none => s3

/-- A combine's integer added to the inbound values of its frame; a damaged one has been replaced by what its adder was given. -/
def addInbound (l : List Inbound) (frame : Nat) (v : Granule) : List Inbound :=
  if l.any fun ib => ib.frame == frame then
    l.map fun ib => if ib.frame = frame then { ib with val := ib.val + v, up := 0 } else ib
  else l ++ [⟨frame, v, 0⟩]

/-- Checks the inbound value of a frame before it is added to (R244). -/
def State.checkInbound (s : State) (c : Chan) (p : PumpIx) (g frame : Nat) : State :=
  match (((s.slice c p).inbound.look g).getD []).find? fun ib => ib.frame == frame && ib.up != 0 with
  | none => s
  | some ib =>
    let r := s.heldRead c ((s.chan c).slotOf p) (physOf (s.chan c) p) g ib.val ib.up
    r.1.onSlice c p fun sl => { sl with inbound := sl.inbound.alter g fun l => l.map fun x =>
      if x.frame = frame then { x with val := r.2, up := 0 } else x }

/-- Adds a combine's integer into an inbound granule; an earlier frame's value is folded first (R133). A combine that the host binds
to a later frame is held beside those of this one (R369, log entry 52). -/
def State.combineAt (s : State) (c : Chan) (p : PumpIx) (g : Nat) (frame : Nat) (v : Granule) : State :=
  let l := ((s.slice c p).inbound.look g).getD []
  let s1 := if l.isEmpty || l.any (fun ib => ib.frame == frame) then s else (s.applyDue c (sliceKey p g)).foldInbound c p g
  let s2 := s1.checkInbound c p g frame
  if (s2.chan c).adderBad p then s2.dataUe c 0 (sliceKey p g)
  else s2.onSlice c p fun sl => { sl with inbound := sl.inbound.set1 g (addInbound ((sl.inbound.look g).getD []) frame v) }

/-! ### Grouping bytes into granules -/

/-- Bytes to be written, by granule: a mask and the data. -/
abbrev Bytes := SMap (BitVec 32 × Granule)

/-- One more byte at a byte address; a later byte replaces an earlier one. -/
def Bytes.put (m : Bytes) (a : Nat) (b : BitVec 8) : Bytes :=
  let old := (m.look (a / 32)).getD (0, 0)
  let i := a % 32
  m.set1 (a / 32) (old.1 ||| byteMask i 1, gMerge old.2 (b.setWidth 256 <<< (8 * i)) (byteMask i 1))

/-- Consecutive bytes from a byte address. -/
def Bytes.putAll (m : Bytes) (a : Nat) : List (BitVec 8) → Bytes
  | [] => m
  | b :: bs => (m.put a b).putAll (a + 1) bs

end Sys2Proof.Machine
end

