-- ==== Sys2Proof/Machine/Operands.lean ====
section
/-!
DEFINITION. Operand forms of controller and row words (Tables 3.3, 3.5): their fields, the registers they name, the
slice granules, lane-store rows and accumulator entries they touch, and the checks of R69.
-/

namespace Sys2Proof.Machine

/-- A controller word from its opcode and bits [57:0]. -/
def ctlWord (op : Nat) (f : BitVec 58) : BitVec 64 := BitVec.ofNat 6 op ++ f

/-! ### Scalar fields (Table 3.3) -/

def fRd (f : BitVec 58) : Nat := field f 53 5
def fRs1 (f : BitVec 58) : Nat := field f 48 5
def fRs2 (f : BitVec 58) : Nat := field f 43 5
def fImm (f : BitVec 58) : Int := sfield f 0 43
def fImm64 (f : BitVec 58) : BitVec 64 := (f.extractLsb' 0 43).signExtend 64

/-- Which fields of Table 3.3 an opcode uses (last column of Table 3.4). -/
structure Uses where
  rd  : Bool
  rs1 : Bool
  rs2 : Bool
  imm : Nat
deriving DecidableEq, Repr

/-- Whether every field that the opcode does not use is zero (R69). -/
def Uses.clean (u : Uses) (f : BitVec 58) : Bool :=
  (u.rd || fRd f == 0) && (u.rs1 || fRs1 f == 0) && (u.rs2 || fRs2 f == 0) && field f u.imm (43 - u.imm) == 0

/-- A controller register; x0 reads as zero (Table 3.1). -/
def Pump.reg (q : Pump) (r : Nat) : BitVec 64 := if r = 0 then 0 else q.x.readD 0 r

/-- Writes a controller register; x0 discards the write. -/
def Pump.setReg (q : Pump) (r : Nat) (v : BitVec 64) : Pump :=
  if r = 0 then q else { q with x := q.x.write 0 r v }

/-- The word of program memory at the program counter; an unloaded word holds 0xF400_0000_0000_0000 (R71). -/
def Pump.fetch (q : Pump) : BitVec 64 := q.prog.readD 0xF400000000000000 q.pc

/-- Whether a pump's controller is at a word. -/
def Pump.at_ (q : Pump) (w : BitVec 64) : Bool := q.run == .running && q.pc < 8192 && q.fetch == w

/-- Data address x[RS1] + IMM, computed exactly as a signed integer (R69). -/
def Pump.dataAddr (q : Pump) (f : BitVec 58) : Int := (q.reg (fRs1 f)).toInt + fImm f

/-! ### Checks of what a pump's memories hold (R66) -/

/-- The memories of a pump that hold 32-byte rows. -/
inductive PumpMem where
  | lane | program | data | code
deriving DecidableEq, Repr

/-- What the stored rows of a memory differ by. -/
def Pump.ups (q : Pump) : PumpMem → SMap CodeWord
  | .lane => q.laneUp | .program => q.progUp | .data => q.dmemUp | .code => q.te.codeUp

def Pump.setUps (q : Pump) (m : PumpMem) (u : SMap CodeWord) : Pump :=
  match m with
  | .lane => { q with laneUp := u } | .program => { q with progUp := u } | .data => { q with dmemUp := u }
  | .code => { q with te := { q.te with codeUp := u } }

/-- Four words of 64 bits as a row, changed. -/
def onWords (m : SMap (BitVec 64)) (dflt : BitVec 64) (row : Nat) (f : Granule → Granule) : SMap (BitVec 64) :=
  let old : Granule := (List.range 4).foldl (fun v i => v ||| ((m.readD dflt (4 * row + i)).setWidth 256 <<< (64 * i))) 0
  (List.range 4).foldl (fun t i => t.write dflt (4 * row + i) ((f old).extractLsb' (64 * i) 64)) m

/-- Changes the data of a row. -/
def Pump.onRow (q : Pump) (m : PumpMem) (row : Nat) (f : Granule → Granule) : Pump :=
  match m with
  | .lane => { q with lane := q.lane.write 0 row (f (q.lane.readD 0 row)) }
  | .program => { q with prog := onWords q.prog 0xF400000000000000 row f }
  | .data => { q with dmem := onWords q.dmem 0 row f }
  | .code => { q with te := { q.te with code := onWords q.te.code 0 row f } }

/-- A read of a row checks it: a corrected symbol is counted and written back, an uncorrectable row faults the job with DATA_UE and
reads as zeros (R66; log entry 140). -/
def State.checkRow (s : State) (c : Chan) (p : PumpIx) (m : PumpMem) (row : Nat) : State :=
  let e := ((s.pump c p).ups m).readD 0 row
  let clear := fun (q : Pump) => q.setUps m ((q.ups m).drop1 row)
  if e = 0 then s
  else match bscDecode e with
    | .clean => s.onPump c p fun q => clear (q.onRow m row (· ^^^ e.setWidth 256))
    | .corrected i x =>
      (s.logCe c 4 0 row i true).onPump c p fun q => clear (q.onRow m row (· ^^^ (e ^^^ oneSymbol i x).setWidth 256))
    | .uncorrectable => (s.onPump c p fun q => q.onRow m row fun _ => 0).pumpFault c p .dataUe 0

/-- A read of rows [lo, hi) checks those that are damaged. -/
def State.checkRows (s : State) (c : Chan) (p : PumpIx) (m : PumpMem) (lo hi : Nat) : State :=
  s.each (((s.pump c p).ups m).below lo hi).keys fun t row => t.checkRow c p m row

/-- Goes on where the check just made has not stopped the pump. -/
def State.unlessStopped (s : State) (c : Chan) (p : PumpIx) (f : State → State) : State :=
  if (s.pump c p).run = .stopped then s else f s

/-- What a word of the program does: the controller stands at it and its row is sound (R66). -/
def State.atWord (s : State) (c : Chan) (p : PumpIx) (w : BitVec 64) (act : State → State) : Host.Outcome State Fault Refusal :=
  if (s.pump c p).at_ w then
    .next (let t := s.checkRow c p .program ((s.pump c p).pc / 4)
           if (t.pump c p).at_ w then act t else t)
  else .next s

/-- A read of bytes [a, a + n) of data memory, and what is done with it. -/
def State.withData (s : State) (c : Chan) (p : PumpIx) (a n : Nat) (act : State → State) : State :=
  (s.checkRows c p .data (a / 32) ((a + n + 31) / 32)).unlessStopped c p act

/-- n bytes of data memory from a byte address that is a multiple of 8, as one little-endian number. -/
def Pump.dataBits (q : Pump) (a n : Nat) : BitVec n :=
  (List.range (n / 64)).foldl (fun acc i => acc ||| ((q.dmem.readD 0 (a / 8 + i)).setWidth n <<< (64 * i))) 0

/-- One 32-bit half of a window block. -/
def winWord (b : BitVec 512) (d k : Nat) : BitVec 32 := b.extractLsb' (64 * d + 32 * k) 32

/-- The window block at a data address (R207): start and count of dimensions 0 to 5. -/
def windowOf (b : BitVec 512) : Window :=
  (List.range 6).map fun d => ((winWord b d 0).toInt, (winWord b d 1).toNat)

/-- Bytes 48-63 of a window block, which R207 reserves. -/
def windowResv (b : BitVec 512) : Nat := field b 384 128

/-! ### Kernel descriptors (Table 6.2) -/

/-- RANGE i of a kernel descriptor. -/
def kernelRange (d : BitVec 512) (i : Nat) : KRange :=
  let r := 128 + 128 * i
  { base := d.extractLsb' r 64, len := field d (r + 64) 40, space := d.extractLsb' (r + 104) 2,
    acc := d.extractLsb' (r + 106) 2 }

/-- The used ranges of a kernel descriptor. -/
def kernelRanges (d : BitVec 512) : List KRange := ((List.range 3).map (kernelRange d)).filter fun r => r.len != 0

/-! ### Row fields (Table 3.5) -/

def wOp (w : BitVec 64) : Nat := field w 58 6
def wAreg (w : BitVec 64) : Nat := field w 53 5
def wAddr (w : BitVec 64) : Nat := field w 34 19

/-- Slice granule address ADDR + x[AREG], as an exact signed integer (R69, R79). `reg` is x[AREG] at issue. -/
def RowOp.gran (o : RowOp) : Int := (wAddr o.word : Int) + o.reg.toInt

def dotA (w : BitVec 64) : Nat := field w 49 4
def dotB (w : BitVec 64) : Nat := field w 45 4
def dotRow (w : BitVec 64) : Nat := field w 39 6
def dotE (w : BitVec 64) : Nat := field w 32 7
def dotAcc (w : BitVec 64) : Nat := field w 27 5
def dotM (w : BitVec 64) : Nat := field w 22 5 + 1
def dotInit (w : BitVec 64) : Bool := w.getLsbD 21
def bqsN0 (w : BitVec 64) : Nat := field w 28 6 + 1
def bqsN1 (w : BitVec 64) : Nat := field w 18 10 + 1
def bqsStride (w : BitVec 64) : Int := sfield w 0 18
def acAcc (w : BitVec 64) : Nat := field w 29 5
def acN (w : BitVec 64) : Nat := field w 24 5 + 1
def aclRepl (w : BitVec 64) : Bool := w.getLsbD 23
def acsFmt (w : BitVec 64) : Nat := field w 20 4
def acsSr (w : BitVec 64) : Bool := w.getLsbD 19
def acrMode (w : BitVec 64) : Bool := w.getLsbD 23
def acrLexp (w : BitVec 64) : Int := sfield w 13 10
def ewFnOf (w : BitVec 64) : Nat := field w 47 6
def ewDst (w : BitVec 64) : Nat := field w 42 5
def ewSrc1 (w : BitVec 64) : Nat := field w 37 5
def ewSrc2 (w : BitVec 64) : Nat := field w 32 5
def ewN (w : BitVec 64) : Nat := field w 27 5 + 1
def ewS (w : BitVec 64) : Bool := w.getLsbD 26
def lldRow (w : BitVec 64) : Nat := field w 28 6
def lldN (w : BitVec 64) : Nat := field w 21 7
def lldT (w : BitVec 64) : Bool := w.getLsbD 20
def lldEsize (w : BitVec 64) : Nat := field w 18 2
def lldStride (w : BitVec 64) : Nat := field w 0 18

/-- The unit of a row opcode (Table 3.2). -/
def rowUnit : Nat → Option RowUnit
  | 0x20 => some .multiply | 0x21 => some .broadcast | 0x22 => some .accIn | 0x23 => some .accOut
  | 0x24 => some .accOut | 0x25 => some .multiply | 0x26 => some .laneLoad
  | _ => none

/-- Place of a unit in the queue counts. -/
def unitIx : RowUnit → Fin 7
  | .multiply => 0 | .accIn => 1 | .accOut => 2 | .broadcast => 3 | .laneLoad => 4 | .transfer => 5 | .kernel => 6

/-- Queue entries of a unit (Table 3.2). -/
def unitDepth : RowUnit → Nat
  | .multiply => 8 | .accIn => 4 | .accOut => 8 | .broadcast => 4 | .laneLoad => 4 | .transfer => 8 | .kernel => 4

/-- Format pairs of DOT (Table 3.7). -/
inductive DotKind where
  | fp8 | int8 | half | b4 | q4 | b6
deriving DecidableEq, Repr

/-- The kind of a format pair; none where Table 3.7 does not permit it. -/
def dotKind (a b : Option Fmt) : Option DotKind :=
  match a, b with
  | some .e4m3, some .e4m3 => some .fp8 | some .e4m3, some .e5m2 => some .fp8
  | some .e5m2, some .e4m3 => some .fp8 | some .e5m2, some .e5m2 => some .fp8
  | some .int8, some .int8 => some .int8
  | some .bf16, some .bf16 => some .half | some .bf16, some .fp16 => some .half
  | some .fp16, some .bf16 => some .half | some .fp16, some .fp16 => some .half
  | some .b4, some .b4 => some .b4
  | some .q4, some .q4 => some .q4
  | some .b6, some .b6 => some .b6
  | _, _ => none

/-- Whether the data rows of a block-scaled row range come in whole chunks (R89). -/
def DotKind.rowsOk (k : DotKind) (e : Nat) : Bool :=
  match k with
  | .b6 => e % 25 == 0 || (e % 25 - 1) % 3 == 0
  | _ => true

/-- Number of entry operands that an element-wise function takes as a second operand (Table 3.9). -/
def ewTwo (fn : Nat) : Bool := (0x01 ≤ fn && fn ≤ 0x06) || (0x10 ≤ fn && fn ≤ 0x13)

/-- Whether ranges [a, a+n) and [b, b+n) overlap. -/
def rangesMeet (a b n : Nat) : Bool := a < b + n && b < a + n

/-- The source and destination entries of EW: overlap only as R92 permits. Where DST is one source, a partial overlap with the other is
permitted: R92's condition holds (log entry 76). -/
def ewOverlapOk (w : BitVec 64) : Bool :=
  let two := ewTwo (ewFnOf w) && !ewS w
  let meets := rangesMeet (ewDst w) (ewSrc1 w) (ewN w) || (two && rangesMeet (ewDst w) (ewSrc2 w) (ewN w))
  !meets || ewDst w == ewSrc1 w || (two && ewDst w == ewSrc2 w)

/-- Formats of ACS (R84). -/
def acsFmtOk (n : Nat) : Bool :=
  match fmtOfCode n with
  | some f => !fmtIsBlock f
  | none => false

/-- The DESCRIPTOR checks of R69 on a row word. -/
def rowFieldsOk (w : BitVec 64) : Bool :=
  match wOp w with
  | 0x20 =>
    wAreg w == 0 && field w 0 21 == 0 && dotE w ≤ 64 && dotRow w + dotE w ≤ 64 && dotAcc w + dotM w ≤ 32 &&
      (match dotKind (fmtOfCode (dotA w)) (fmtOfCode (dotB w)) with
       | some k => k.rowsOk (dotE w)
       | none => false)
  | 0x21 => true
  | 0x22 => field w 0 23 == 0 && acAcc w + acN w ≤ 32
  | 0x23 => field w 0 19 == 0 && acAcc w + acN w ≤ 32 && acsFmtOk (acsFmt w)
  | 0x24 => field w 0 13 == 0 && acAcc w + acN w ≤ 32
  | 0x25 =>
    wAreg w == 0 && field w 0 26 == 0 && (ewFnOf w ≤ 0x0D || (0x10 ≤ ewFnOf w && ewFnOf w ≤ 0x15)) &&
      ewDst w + ewN w ≤ 32 && ewSrc1 w + ewN w ≤ 32 &&
      (!ewTwo (ewFnOf w) || ewS w || ewSrc2 w + ewN w ≤ 32) && ewOverlapOk w
  | 0x26 =>
    1 ≤ lldN w && lldN w ≤ 64 && lldRow w + lldN w ≤ 64 && lldEsize w ≤ 1 &&
      (lldT w || (lldEsize w == 0 && lldStride w == 0))
  | _ => false

/-- Lowest granule and one past the highest that an operation touches in the slice. -/
def RowOp.span (o : RowOp) : Int × Int :=
  let w := o.word
  let a := o.gran
  match wOp w with
  | 0x21 =>
    let last := bqsStride w * (bqsN1 w - 1 : Nat)
    (a + min 0 last, a + max 0 last + bqsN0 w)
  | 0x22 => (a, a + (if aclRepl w then 64 else 64 * acN w : Nat))
  | 0x23 =>
    let size := match fmtOfCode (acsFmt w) with | some f => fmtBytes f | none => 0
    (a, a + (acN w * 16 * size : Nat))
  | 0x24 => (a, a + (if acrMode w then acN w else 512 * acN w : Nat))
  | 0x26 =>
    if lldT w then
      let b := lldEsize w + 1
      let k := lldN w * 32 / b
      (a, a + ((k - 1) * lldStride w + 16 * b : Nat))
    else (a, a + (512 * lldN w : Nat))
  | _ => (0, 0)

/-- Whether every granule of a span lies in the pinned region (R69). -/
def Channel.spanOk (h : Channel) (r : Int × Int) : Bool := r.1 == r.2 || (0 ≤ r.1 && r.2 ≤ (h.pinned : Int))

/-! ### What operations touch (R68) -/

def Touch.meets (a b : Touch) : Bool :=
  a.kind == b.kind && (a.write || b.write) && decide (a.lo < b.hi) && decide (b.lo < a.hi)

/-- What an operation reads and writes; a transfer and a kernel, what was found at issue. -/
def RowOp.touches (o : RowOp) : List Touch :=
  let w := o.word
  let sl := fun (wr : Bool) => (⟨2, o.span.1, o.span.2, wr⟩ : Touch)
  let ac := fun (lo n : Nat) (wr : Bool) => (⟨1, lo, lo + n, wr⟩ : Touch)
  match o.unit with
  | .transfer | .kernel => o.slice
  | _ =>
    match wOp w with
    | 0x20 => [⟨0, dotRow w, dotRow w + dotE w, false⟩, ac (dotAcc w) (dotM w) true]
    | 0x21 => [sl false]
    | 0x22 => [sl false, ac (acAcc w) (acN w) true]
    | 0x23 => [sl true, ac (acAcc w) (acN w) false]
    | 0x24 => [sl true, ac (acAcc w) (acN w) false]
    | 0x25 => [ac (ewDst w) (ewN w) true, ac (ewSrc1 w) (ewN w) false] ++
        (if ewTwo (ewFnOf w) && !ewS w then [ac (ewSrc2 w) (ewN w) false] else [])
    | 0x26 => [sl false, ⟨0, lldRow w, lldRow w + lldN w, true⟩]
    | _ => []

def Foot.meets (a b : Foot) : Bool :=
  a.ch == b.ch && (a.write || b.write) && decide (a.lo < b.hi) && decide (b.lo < a.hi)

/-- Whether two lists of global granules share one that either writes (R141). -/
def feetMeet (l m : List Foot) : Bool := l.any fun a => m.any fun b => a.meets b

/-- Whether an operation must wait for an earlier one: the same unit, or a shared place that one of them writes; a transfer and a
kernel by their global granules too (R68, R141). -/
def RowOp.after (o e : RowOp) : Bool :=
  o.unit == e.unit || (o.touches.any fun a => e.touches.any fun b => a.meets b) || feetMeet o.foot e.foot

end Sys2Proof.Machine
end

