-- ==== Sys2Proof/Machine/Descriptors.lean ====
section
/-!
DEFINITION. Tensor descriptors (Chapter 7): their fields, validation, windows, sharding, and where an index lies.
-/

namespace Sys2Proof.Machine

/-- A tensor descriptor's fields (Table 7.1). -/
structure TDesc where
  base   : Nat
  handle : Nat
  fill   : BitVec 32
  tid    : Nat
  fmt    : Nat
  kind   : Nat
  rank   : Nat
  res    : Nat
  use    : Nat
  dist   : Bool
  resv   : Nat
  ext    : List Nat
  str    : List (BitVec 40)
deriving DecidableEq, Repr

/-- The fields of 64 descriptor bytes. -/
def tdesc (d : BitVec 512) : TDesc :=
  { base := field d 0 40, handle := field d 40 24, fill := d.extractLsb' 64 32, tid := field d 96 16,
    fmt := field d 112 4, kind := field d 116 2, rank := field d 118 3, res := field d 121 2, use := field d 123 2,
    dist := d.getLsbD 125, resv := field d 126 2,
    ext := (List.range 6).map fun i => field d (128 + 24 * i) 24,
    str := (List.range 6).map fun i => d.extractLsb' (272 + 40 * i) 40 }

namespace TDesc

def format (d : TDesc) : Fmt := (fmtOfCode d.fmt).getD .fp32
def isBlock (d : TDesc) : Bool := d.kind == 0 && fmtIsBlock d.format
def isLedger (d : TDesc) : Bool := d.kind == 1 || d.kind == 2
def extent (d : TDesc) (i : Nat) : Nat := d.ext.getD i 0
def stride (d : TDesc) (i : Nat) : Int := (d.str.getD i 0).toInt
def canRead (d : TDesc) : Bool := d.use == 0 || d.use == 2
def canWrite (d : TDesc) : Bool := d.use == 1 || d.use == 2

/-- Window exponent E of a ledger descriptor (Table 7.1). -/
def lexp (d : TDesc) : Int := d.fill.toInt

/-- Element width w (Table 7.2); 0 for block formats. -/
def width (d : TDesc) : Nat := if d.isLedger then 32 else fmtBytes d.format

/-- Granules of a full run (Table 4.2). -/
def runGrans (f : Fmt) : Nat := if f = .b6 then 25 else 17

/-- Granules of the data part of a run of n blocks (R107). -/
def partGrans (f : Fmt) (n : Nat) : Nat := if f = .b6 then 3 * ((n + 3) / 4) else (n + 1) / 2

/-- R0: granules of a block-scaled row of x elements (R174). -/
def rowGrans (f : Fmt) (x : Nat) : Nat :=
  let n := (x % 1024 + 31) / 32
  runGrans f * (x / 1024) + (if n = 0 then 0 else 1 + partGrans f n)

/-! #### Sharding (R187-R193) -/

def mode (d : TDesc) (i : Nat) : Nat := field (d.str.getD i 0) 0 2
def shards (d : TDesc) (i : Nat) : Nat := field (d.str.getD i 0) 2 15 + 1
def divisor (d : TDesc) (i : Nat) : Nat := field (d.str.getD i 0) 17 15 + 1
def halo (d : TDesc) (i : Nat) : Nat := field (d.str.getD i 0) 32 8

/-- L of a split dimension. -/
def part (d : TDesc) (i : Nat) : Nat := (d.extent i + d.shards i - 1) / d.shards i

/-- Coordinate of virtual channel v along a split dimension (R188). -/
def coord (d : TDesc) (v i : Nat) : Nat := v / d.divisor i % d.shards i

/-- Local extent of a dimension of a shard (R188). -/
def localExt (d : TDesc) (i : Nat) : Nat :=
  match d.mode i with
  | 0 => d.extent i
  | 1 => d.part i
  | _ => d.part i + 2 * d.halo i

/-- Local strides of the dense shard: elements, or granules of the outer dimensions of a block format (R188). -/
def denseStrides (d : TDesc) : List Nat :=
  let first := if d.isBlock then rowGrans d.format (d.localExt 0) else d.localExt 0
  (List.range 6).map fun i =>
    if i = 0 then 1
    else first * ((List.range (i - 1)).map fun k => d.localExt (k + 1)).foldl (· * ·) 1

/-- The local index that virtual channel v's shard gives a global index along a dimension: in the interior where v owns it
(R190), else in the halo. -/
def localIn (d : TDesc) (v i : Nat) (g : Int) : Option Nat :=
  let c : Int := d.coord v i
  let l : Int := d.part i
  let h : Int := d.halo i
  let n : Int := d.extent i
  let j : Int := match d.mode i with
    | 0 => g
    | 1 => g - c * l
    | 2 => g - c * l + h
    | _ => if 0 ≤ g - c * l ∧ g - c * l < l then g - c * l + h else (g - c * l + h) % n
  if 0 ≤ j ∧ j < d.localExt i then some j.toNat else none

/-- Whether a global index is valid along a dimension (R186, R190), and its value there. -/
def validIx (d : TDesc) (i : Nat) (g : Int) : Option Int :=
  if d.dist ∧ d.mode i = 3 then (if d.extent i = 0 then none else some (g % d.extent i))
  else if 0 ≤ g ∧ g < d.extent i then some g else none

/-- The owner of a valid global index, seen from v (R190). -/
def ownerOf (d : TDesc) (v : Nat) (g : List Int) : Nat :=
  ((List.range d.rank).foldl (fun (acc : Int) i =>
    if d.mode i = 0 then acc
    else acc + (g.getD i 0 / d.part i - d.coord v i) * d.divisor i) (v : Int)).toNat

/-- Byte offset, within the allocation or the shard, of a local index: of the element, or for a block format of
the first granule of its row. -/
def byteAt (d : TDesc) (ix : List Int) : Int :=
  let strides : List Int := if d.dist then d.denseStrides.map (fun n => (n : Int)) else
    (List.range 6).map d.stride
  let term := fun (i : Nat) => ix.getD i 0 * strides.getD i 0
  if d.isBlock then d.base + 32 * ((List.range (d.rank - 1)).map fun i => term (i + 1)).sum
  else d.base + ((List.range d.rank).map term).sum * (d.width : Int)

/-- Where an index lies for a user in virtual channel v: the virtual channel whose shard holds it, and its local
index; none for an out-of-bounds or invalid index (R186, R191). -/
def spot (d : TDesc) (v : Nat) (write : Bool) (ix : List Int) : Option (Nat × List Int) :=
  let gs := (List.range d.rank).map fun i => d.validIx i (ix.getD i 0)
  if gs.any (·.isNone) then none
  else
    let g := gs.map (·.getD 0)
    if d.dist then
      let own := (List.range d.rank).map fun i => d.localIn v i (g.getD i 0)
      let v' := d.ownerOf v g
      let inOwn := own.all (·.isSome)
      let w := if write then v' else if inOwn then v else v'
      some (w, (List.range d.rank).map fun i => ((d.localIn w i (g.getD i 0)).getD 0 : Int))
    else some (v, g)

/-! #### Windows (R186, R207) -/

/-- The window over every index. -/
def whole (d : TDesc) : Window := (List.range d.rank).map fun i => (0, d.extent i)

/-- Whether a window block fits a descriptor: unused entries and reserved bytes zero, and for a block format start
and count of dimension 0 multiples of 32. -/
def windowOk (d : TDesc) (w : Window) (reserved : Nat) : Bool :=
  reserved == 0 && (w.drop d.rank).all (fun e => e.1 == 0 && e.2 == 0) &&
    (!d.isBlock || ((w.getD 0 (0, 0)).1 % 32 == 0 && (w.getD 0 (0, 0)).2 % 32 == 0))

/-! #### Validation (Table 7.4) -/

/-- Check 1: fields. -/
def fieldsOk (d : TDesc) : Bool :=
  d.resv == 0 && d.fmt ≤ 9 && d.kind != 3 && d.res != 3 && d.use != 3 && 1 ≤ d.rank && d.rank ≤ 6 &&
    (List.range 6).all fun i => i < d.rank || (d.extent i == 0 && d.str.getD i 0 == 0)

/-- Bytes of an allocation, or of one shard of a distributed one. -/
def allocBytes (a : Alloc) : Nat :=
  match a.kind with
  | .pinned => a.size * (bitsOf a.slices).length
  | _ => a.size

/-- Check 2: the allocation agrees with RES (Table 7.3) and DIST. -/
def allocOk (d : TDesc) (a : Alloc) : Bool :=
  let pinned := a.kind == .pinned || (a.kind == .distributed && a.pinned)
  (d.res == 1) == pinned && (!d.dist || a.kind == .distributed)

/-- Check 3: kind (R175, R177). -/
def kindOk (d : TDesc) : Bool :=
  (!d.isLedger || (d.fmt == 0 && d.res == 1 && !d.dist && -512 ≤ d.lexp && d.lexp ≤ 511)) &&
    (d.kind != 2 || d.canWrite)

/-- Check 4: format (R178, Table 7.2, R174). -/
def formatOk (d : TDesc) : Bool :=
  if d.isLedger then d.base % 32 == 0
  else if d.isBlock then
    d.fill == 0 && d.base % 32 == 0 && (d.dist || d.stride 0 == 1)
  else d.fill.toNat < 2 ^ (8 * d.width) && d.base % d.width == 0

/-- Check 5: sharding entries (R189). -/
def shardOk (d : TDesc) (v : Nat) : Bool :=
  let dims := List.range d.rank
  let split := dims.filter fun i => d.mode i != 0
  !d.dist ||
    (dims.all fun i => match d.mode i with
      | 0 => d.shards i == 1 && d.divisor i == 1 && d.halo i == 0
      | 1 => d.halo i == 0
      | 2 => d.halo i ≤ d.part i
      | _ => d.halo i ≤ d.part i && d.extent i % d.shards i == 0) &&
    (!d.isBlock || d.mode 0 == 0 || (d.part 0 % 32 == 0 && d.halo 0 % 32 == 0)) &&
    (split.all fun i => v % (d.divisor i * d.shards i) == 0) &&
    (split.all fun i => split.all fun k =>
      i == k || !(decide (d.divisor i ≤ d.divisor k) && decide (d.divisor k < d.divisor i * d.shards i)))

/-- Whether a descriptor reaches no element (R180). -/
def empty (d : TDesc) : Bool := (List.range d.rank).any fun i => d.extent i == 0

/-- The byte span [lo, hi) of a descriptor (R180, R193). -/
def span (d : TDesc) : Int × Int :=
  if d.empty then (d.base, d.base)
  else if d.dist then
    let rows := ((List.range (d.rank - 1)).map fun i => d.localExt (i + 1)).foldl (· * ·) 1
    let len := if d.isBlock then 32 * rowGrans d.format (d.localExt 0) * rows else d.localExt 0 * rows * d.width
    (d.base, (d.base + len : Nat))
  else
    let dims := (List.range d.rank).filter fun i => !d.isBlock || i != 0
    let u : Int := if d.isBlock then 32 else d.width
    let v : Nat := if d.isBlock then 32 * rowGrans d.format (d.extent 0) else d.width
    let reach := fun (i : Nat) => d.stride i * ((d.extent i : Int) - 1)
    (d.base + (dims.map fun i => min 0 (reach i)).sum * u,
      d.base + (dims.map fun i => max 0 (reach i)).sum * u + v)

/-- Check 7: injectivity (R181). -/
def injective (d : TDesc) : Bool :=
  let dims := (List.range d.rank).filter fun i => (!d.isBlock || i != 0) && 1 < d.extent i
  let abs := (dims.map fun i => ((d.stride i).natAbs, d.extent i)).sortWith fun a b => a.1 ≤ b.1
  let start := if d.isBlock then rowGrans d.format (d.extent 0) else 1
  (abs.foldl (fun (acc : Bool × Nat) e => (acc.1 && decide (acc.2 ≤ e.1), acc.2 + e.1 * (e.2 - 1))) (true, start)).1

/-- The checks of Table 7.4 in their order: the status code of the first that fails, or success. `room` says whether
the slices can provide the inbound granules of a ledger-reduce target. -/
def check (d : TDesc) (a : Option Alloc) (room : Bool) : Nat :=
  if !d.fieldsOk then stDescInvalid
  else
    match a with
    | none => stDescInvalid
    | some al =>
      if !(d.allocOk al && d.kindOk && d.formatOk && d.shardOk al.shards) then stDescInvalid
      else if !(d.empty || (decide (0 ≤ d.span.1) && decide (d.span.2 ≤ allocBytes al))) then stDescRange
      else if d.canWrite && d.kind != 2 && !d.dist && !d.injective then stDescAlias
      else if d.kind == 2 && !room then stDescNoInbound
      else stSuccess

end TDesc

/-! ### Where an allocation's bytes lie -/

/-- Channel address and local offset of byte o of an allocation, or of the shard of virtual channel v (R192, R361).
A pinned shard is laid over its virtual channel's slices in equal parts of whole granules (log entry 18). -/
def Alloc.place (a : Alloc) (v o : Nat) : Option (ChanAddr × Nat) :=
  match a.kind with
  | .hbm => some (a.channel, a.base + o)
  | .pinned =>
    match (bitsOf a.slices)[o / a.size]? with
    | some p => some (a.channel, 2 ^ 48 + p * 2 ^ 24 + a.base + o % a.size)
    | none => none
  | .distributed =>
    match a.bound.find? fun b => b.1 == v with
    | some (_, ch, base, ps) =>
      if a.pinned then
        let part := (a.size / 32 + ps.length - 1) / ps.length * 32
        match ps[o / part]? with
        | some p => some (ch, 2 ^ 48 + p.val * 2 ^ 24 + base + o % part)
        | none => none
      else some (ch, base + o)
    | none => none

/-- A descriptor as a user sees it: its fields, its allocation, the user's virtual channel; the host, which has no shard of its
own, reads every index at its owner. -/
structure View where
  d : TDesc
  a : Alloc
  v : Nat
  host : Bool
deriving DecidableEq, Repr

/-- Where byte `k` beyond a spot's start lies. -/
def View.where_ (w : View) (sp : Nat × List Int) (k : Nat) : Option (ChanAddr × Nat) :=
  w.a.place sp.1 ((w.d.byteAt sp.2).toNat + k)

/-- Byte offset of block b within its row, and of its scale byte (R106). -/
def blockOffs (f : Fmt) (b : Nat) : Nat × Nat :=
  let run := b / 32 * TDesc.runGrans f * 32
  (run + 32 + b % 32 * fmtBlockBytes f, run + b % 32)

/-- The indices of a window, dimension 0 fastest, as offsets t from its start. -/
def windowIxs : List Nat → List (List Nat)
  | [] => [[]]
  | n :: rest => (windowIxs rest).flatMap fun tl => (List.range n).map fun t => t :: tl

/-- The offsets of the outer dimensions of a window. -/
def outerIxs (w : Window) : List (List Nat) := windowIxs ((w.drop 1).map Prod.snd)

/-- The index at an offset of a window. -/
def ixAt (w : Window) (t : List Nat) : List Int := (w.zip t).map fun e => e.1.1 + (e.2 : Int)

/-- Counts of a window. -/
def counts (w : Window) : List Nat := w.map Prod.snd

/-- Linear element index with dimension 0 fastest in the descriptor's shape, the index along a dimension of MODE 3 taken
mod G first (R172, R190). -/
def TDesc.linear (d : TDesc) (ix : List Int) : Nat :=
  ((List.range d.rank).foldl (fun (acc : Int × Int) i =>
    (acc.1 + (d.validIx i (ix.getD i 0)).getD 0 * acc.2, acc.2 * d.extent i)) (0, 1)).1.toNat

end Sys2Proof.Machine
end

