-- ==== Sys2Proof/Machine/Transfers.lean ====
section
/-!
DEFINITION. Transfers between descriptors, raw ranges and host buffers (R186, R191, R194-R197, R207-R211, R226):
reading a window, writing a window, packing, and the pairing rules, with their completion codes.
-/

namespace Sys2Proof.Machine

/-- How a transfer reads one granule: the channel address and the local granule number. -/
abbrev Reader := State → ChanAddr → Nat → State × Granule

/-- A channel address and a local byte offset as one key for grouped bytes. -/
def fabByte (ch : ChanAddr) (off : Nat) : Nat := ch.toNat * 2 ^ 49 + off

/-- The channel address and local granule of a grouped key. -/
def fabKey (k : Nat) : ChanAddr × Nat := (BitVec.ofNat 15 (k / 2 ^ 44), k % 2 ^ 44)

/-! ### Reading -/

/-- Granule i of an allocation, or of a shard of it. -/
def View.readGran (rd : Reader) (s : State) (w : View) (v i : Nat) : State × Granule :=
  match w.a.place v (32 * i) with
  | some (ch, off) => rd s ch (off / 32)
  | none => (s, 0)

/-- n bytes (at most 32) from byte k beyond a spot, little-endian. -/
def View.readBits (rd : Reader) (s : State) (w : View) (sp : Nat × List Int) (k n : Nat) : State × Nat :=
  let o := (w.d.byteAt sp.2).toNat + k
  let (s1, g0) := w.readGran rd s sp.1 (o / 32)
  let lo := g0.toNat / 2 ^ (8 * (o % 32))
  if o % 32 + n ≤ 32 then (s1, lo % 2 ^ (8 * n))
  else
    let (s2, g1) := w.readGran rd s1 sp.1 (o / 32 + 1)
    (s2, (lo + g1.toNat * 2 ^ (8 * (32 - o % 32))) % 2 ^ (8 * n))

/-- An element, or a ledger; out of bounds it is FILL, or v = 0 (R186). -/
def View.readScalar (rd : Reader) (s : State) (w : View) (ix : List Int) : State × Nat :=
  match w.d.spot w.v w.host ix with
  | some sp => w.readBits rd s sp 0 w.d.width
  | none => (s, if w.d.isLedger then 0 else w.d.fill.toNat)

/-- Whether element i of the block that begins at an index lies within the extent of dimension 0. -/
def TDesc.elemIn (d : TDesc) (ix : List Int) (i : Nat) : Bool := (d.validIx 0 (ix.getD 0 0 + (i : Int))).isSome

/-- A block's elements with the padding beyond the extent as +0 (R107, R186). -/
def TDesc.keepIn (d : TDesc) (ix : List Int) (data : Nat) : Nat :=
  let w := if d.format = .b6 then 6 else 4
  ((List.range 32).map fun i => if d.elemIn ix i then fmtBlockElem d.format data i * 2 ^ (w * i) else 0).sum

/-- The block that begins at an index: scale byte and elements; out of bounds it is the fill block, and elements beyond
the extent are +0 (R178, R186). -/
def View.readBlock (rd : Reader) (s : State) (w : View) (ix : List Int) : State × (Nat × Nat) :=
  match w.d.spot w.v w.host ix with
  | some sp =>
    let offs := blockOffs w.d.format ((sp.2.getD 0 0).toNat / 32)
    let (s1, data) := w.readBits rd s sp offs.1 (fmtBlockBytes w.d.format)
    let (s2, scale) := w.readBits rd s1 sp offs.2 1
    (s2, (scale, w.d.keepIn ix data))
  | none => (s, (0x7F, 0))

/-- Folds a reading function over a list. -/
def readEach {α β : Type} (f : State → α → State × β) : State → List α → State × List β
  | s, [] => (s, [])
  | s, x :: xs =>
    let (s1, y) := f s x
    let (s2, ys) := readEach f s1 xs
    (s2, y :: ys)

/-- The elements of a window, dimension 0 fastest. -/
def View.readScalars (rd : Reader) (s : State) (w : View) (win : Window) : State × List Nat :=
  readEach (fun t o => w.readScalar rd t (ixAt win o)) s (windowIxs (counts win))

/-- Blocks that n elements take. -/
def blocksOf (n : Nat) : Nat := (n + 31) / 32

/-- The blocks of one row of a window. -/
def View.readRowBlocks (rd : Reader) (s : State) (w : View) (win : Window) (outer : List Nat) :
    State × List (Nat × Nat) :=
  readEach (fun t b => w.readBlock rd t (ixAt win ((32 * b) :: outer))) s
    (List.range (blocksOf ((counts win).getD 0 0)))

/-- The exact values of one row of a window. Positions of a block beyond the extent are +0, whatever its scale (R107). -/
def View.readRowNums (rd : Reader) (s : State) (w : View) (win : Window) (outer : List Nat) : State × List Num :=
  let n0 := (counts win).getD 0 0
  if w.d.isBlock then
    let (s1, bs) := w.readRowBlocks rd s win outer
    let nums := bs.zipIdx.flatMap fun e => (List.range 32).map fun i =>
      if w.d.elemIn (ixAt win ((32 * e.2) :: outer)) i then fmtBlockValue w.d.format e.1.1 (fmtBlockElem w.d.format e.1.2 i)
      else Num.fin false 0 0
    (s1, nums.take n0)
  else
    readEach (fun t i =>
      let (t1, v) := w.readScalar rd t (ixAt win (i :: outer))
      (t1, fmtValue w.d.format v)) s (List.range n0)

/-! ### Writing -/

/-- What a transfer writes: bytes by granule, and elements dropped out of bounds. -/
structure WriteSet where
  bytes   : Bytes
  dropped : Nat
deriving DecidableEq, Repr

/-- Bytes of an allocation from byte k beyond a spot, each where it lies. -/
def View.putBytes (w : View) (sp : Nat × List Int) (k : Nat) (bs : List (BitVec 8)) (out : WriteSet) : WriteSet :=
  { out with bytes := bs.zipIdx.foldl (fun (m : Bytes) e =>
      match w.where_ sp (k + e.2) with
      | some (ch, off) => m.put (fabByte ch off) e.1
      | none => m) out.bytes }

/-- Writes an element; an out-of-bounds write is dropped (R186). -/
def View.putScalar (w : View) (ix : List Int) (bits : Nat) (out : WriteSet) : WriteSet :=
  match w.d.spot w.v true ix with
  | some sp => w.putBytes sp 0 (leBytes w.d.width bits) out
  | none => { out with dropped := out.dropped + 1 }

/-- Local extent of dimension 0 of what a spot lies in. -/
def TDesc.rowExt (d : TDesc) : Nat := if d.dist then d.localExt 0 else d.extent 0

/-- Writes a block of which the window names n elements. Those beyond the extent are dropped and their places hold +0 (R107,
R186). A converting writer that writes the last block of a row writes the padding of a partial run: 0x7F to scale bytes, zero to
data bytes (R107). -/
def View.putBlock (w : View) (ix : List Int) (n scale bits : Nat) (converting : Bool) (out0 : WriteSet) : WriteSet :=
  let f := w.d.format
  let out := { out0 with dropped := out0.dropped + ((List.range n).filter fun i => !w.d.elemIn ix i).length }
  match w.d.spot w.v true ix with
  | some sp =>
    let b := (sp.2.getD 0 0).toNat / 32
    let offs := blockOffs f b
    let o1 := w.putBytes sp offs.1 (leBytes (fmtBlockBytes f) (w.d.keepIn ix bits)) out
    let o2 := w.putBytes sp offs.2 [BitVec.ofNat 8 scale] o1
    let nb := blocksOf w.d.rowExt
    if converting && b + 1 == nb && nb % 32 != 0 then
      let n := nb % 32
      let o3 := w.putBytes sp (offs.2 + 1) (List.replicate (32 - n) 0x7F) o2
      w.putBytes sp (offs.1 + fmtBlockBytes f)
        (List.replicate (TDesc.partGrans f n * 32 - n * fmtBlockBytes f) 0) o3
    else o2
  | none => { out0 with dropped := out0.dropped + n }

/-- Cuts a list into pieces of 32. -/
def pieces {α : Type} : Nat → List α → List (List α)
  | 0, _ => []
  | n + 1, l => if l.isEmpty then [] else l.take 32 :: pieces n (l.drop 32)

/-- Rounding bits of a destination element in a frame (R172). -/
def View.srOf (w : View) (sr : Option Nat) (ix : List Int) : Option (BitVec 64) :=
  sr.map fun f => srBits (BitVec.ofNat 32 w.d.tid) (BitVec.ofNat 64 f) (BitVec.ofNat 64 (w.d.linear ix))

/-- Writes one row of values, converting (R109, R110). `sr` is the frame number of a stochastic conversion. -/
def View.putRow (w : View) (win : Window) (outer : List Nat) (sr : Option Nat) (xs : List Num) (out : WriteSet) :
    WriteSet :=
  if w.d.isBlock then
    (pieces xs.length xs).zipIdx.foldl (fun (acc : WriteSet) e =>
      let ix := ixAt win ((32 * e.2) :: outer)
      let full := (List.range 32).map fun i => if w.d.elemIn ix i then e.1.getD i (Num.fin false 0 0) else Num.fin false 0 0
      let blk := fmtMakeBlock w.d.format full
      w.putBlock ix e.1.length blk.1 blk.2 true acc) out
  else
    xs.zipIdx.foldl (fun (acc : WriteSet) e =>
      let ix := ixAt win (e.2 :: outer)
      w.putScalar ix (fmtConvert w.d.format e.1 (w.srOf sr ix)) acc) out

/-! ### Whole operations -/

/-- COPY between two descriptors (R194). -/
def copyViews (rd : Reader) (s : State) (src : View) (sw : Window) (dst : View) (dw : Window) (sr : Option Nat) :
    State × WriteSet :=
  let none_ : WriteSet := ⟨[], 0⟩
  if src.d.isLedger || (src.d.fmt == dst.d.fmt && !src.d.isBlock) then
    let (s1, vs) := src.readScalars rd s sw
    (s1, ((windowIxs (counts dw)).zip vs).foldl (fun acc e => dst.putScalar (ixAt dw e.1) e.2 acc) none_)
  else if src.d.fmt == dst.d.fmt then
    (outerIxs sw).foldl (fun acc o =>
      let (s1, bs) := src.readRowBlocks rd acc.1 sw o
      (s1, bs.zipIdx.foldl (fun a e =>
        dst.putBlock (ixAt dw ((32 * e.2) :: o)) (min 32 ((counts dw).getD 0 0 - 32 * e.2)) e.1.1 e.1.2 false a) acc.2))
      (s, none_)
  else
    (outerIxs sw).foldl (fun acc o =>
      let (s1, xs) := src.readRowNums rd acc.1 sw o
      (s1, dst.putRow dw o sr xs acc.2)) (s, none_)

/-- The first two offsets exchanged (R195). -/
def swap01 : List Nat → List Nat
  | a :: b :: rest => b :: a :: rest
  | l => l

/-- TCOPY (R195): every element is read before any is written, as R197 has it in place. -/
def transposeViews (rd : Reader) (s : State) (src : View) (sw : Window) (dst : View) (dw : Window) (sr : Option Nat) :
    State × WriteSet :=
  let (s1, vs) := src.readScalars rd s sw
  (s1, ((windowIxs (counts sw)).zip vs).foldl (fun acc e =>
    let ix := ixAt dw (swap01 e.1)
    let bits := if src.d.fmt = dst.d.fmt then e.2
      else fmtConvert dst.d.format (fmtValue src.d.format e.2) (dst.srOf sr ix)
    dst.putScalar ix bits acc) ⟨[], 0⟩)

/-- READOUT into a descriptor (R137, R184). -/
def readoutViews (rd : Reader) (s : State) (src : View) (sw : Window) (dst : View) (dw : Window) (ro : RoFmt) :
    State × WriteSet :=
  let (s1, vs) := src.readScalars rd s sw
  (s1, ((windowIxs (counts dw)).zip vs).foldl (fun acc e =>
    dst.putScalar (ixAt dw e.1) (ledgerRead (BitVec.ofNat 256 e.2) src.d.lexp ro) acc) ⟨[], 0⟩)

/-! ### Dense packing (R209) -/

/-- A row of blocks as runs. Padding takes the encoding of R107 (log entry 19). -/
def packRuns (f : Fmt) : Nat → List (Nat × Nat) → List (BitVec 8)
  | 0, _ => []
  | k + 1, bs =>
    if bs.isEmpty then []
    else
      let run := bs.take 32
      let n := run.length
      let data := run.flatMap fun b => leBytes (fmtBlockBytes f) b.2
      (run.map fun b => BitVec.ofNat 8 b.1) ++ List.replicate (32 - n) 0x7F ++ data ++
        List.replicate (TDesc.partGrans f n * 32 - n * fmtBlockBytes f) 0 ++ packRuns f k (bs.drop 32)

/-- A window packed densely. -/
def View.pack (rd : Reader) (s : State) (w : View) (win : Window) : State × List (BitVec 8) :=
  if w.d.isBlock then
    (outerIxs win).foldl (fun acc o =>
      let (s1, bs) := w.readRowBlocks rd acc.1 win o
      (s1, acc.2 ++ packRuns w.d.format bs.length bs)) (s, [])
  else
    let (s1, vs) := w.readScalars rd s win
    (s1, vs.flatMap fun v => leBytes w.d.width v)

/-- Ledgers read out and packed densely (R184). -/
def View.packReadout (rd : Reader) (s : State) (w : View) (win : Window) (ro : RoFmt) : State × List (BitVec 8) :=
  let (s1, vs) := w.readScalars rd s win
  (s1, vs.flatMap fun v => leBytes (roBytes ro) (ledgerRead (BitVec.ofNat 256 v) w.d.lexp ro))

/-- Elements of a window. -/
def windowSize (win : Window) : Nat := (counts win).foldl (· * ·) 1

/-- Bytes of a window packed densely. -/
def TDesc.packedLen (d : TDesc) (win : Window) : Nat :=
  if d.isBlock then 32 * TDesc.rowGrans d.format ((counts win).getD 0 0) * (outerIxs win).length
  else windowSize win * d.width

/-- n bytes from byte k of a packing, little-endian. -/
def packedAt (bs : List (BitVec 8)) (k n : Nat) : Nat := leNat ((bs.drop k).take n)

/-- Writes a packing into a window, without conversion. -/
def View.unpack (w : View) (win : Window) (bs : List (BitVec 8)) : WriteSet :=
  if w.d.isBlock then
    let rowLen := 32 * TDesc.rowGrans w.d.format ((counts win).getD 0 0)
    (outerIxs win).zipIdx.foldl (fun (acc : WriteSet) o =>
      (List.range (blocksOf ((counts win).getD 0 0))).foldl (fun (a : WriteSet) b =>
        let offs := blockOffs w.d.format b
        w.putBlock (ixAt win ((32 * b) :: o.1)) (min 32 ((counts win).getD 0 0 - 32 * b)) (packedAt bs (o.2 * rowLen + offs.2) 1)
          (packedAt bs (o.2 * rowLen + offs.1) (fmtBlockBytes w.d.format)) false a) acc) ⟨[], 0⟩
  else
    (windowIxs (counts win)).zipIdx.foldl (fun (acc : WriteSet) o =>
      w.putScalar (ixAt win o.1) (packedAt bs (o.2 * w.d.width) w.d.width) acc) ⟨[], 0⟩

/-! ### Pairing (R183, R184, R194-R197) -/

/-- Whether two spans lie in one allocation and overlap. -/
def spansMeet (a b : TDesc) : Bool :=
  a.handle == b.handle && !a.empty && !b.empty && decide (a.span.1 < b.span.2) && decide (b.span.1 < a.span.2)

/-- COPY between two descriptors (R194). -/
def pairCopy (a : TDesc) (aw : Window) (b : TDesc) (bw : Window) : Nat :=
  if !(a.canRead && b.canWrite && a.rank == b.rank && counts aw == counts bw && a.isLedger == b.isLedger) then
    stDescInvalid
  else if a.isLedger && a.lexp != b.lexp then stLedgerMismatch
  else if spansMeet a b && !(a.base == b.base && a.kind == b.kind && a.res == b.res && a.dist == b.dist &&
      a.ext == b.ext && a.str == b.str && aw == bw &&
      (if a.isBlock || b.isBlock then a.fmt == b.fmt else a.width == b.width)) then stCopyOverlap
  else stSuccess

/-- The window of TCOPY's other side (R195). -/
def swapCounts (w : Window) : List Nat := swap01 (counts w)

/-- TCOPY (R195, R196). -/
def pairTranspose (a : TDesc) (aw : Option Window) (b : TDesc) (bw : Option Window) : Nat :=
  let aw' := aw.getD a.whole
  let bw' := bw.getD b.whole
  if !(a.canRead && b.canWrite && a.rank == b.rank && 2 ≤ a.rank && b.ext == swap01 a.ext &&
      counts bw' == swapCounts aw' && !a.isBlock && !b.isBlock && !a.isLedger && !b.isLedger && !a.dist && !b.dist) then
    stDescInvalid
  else if spansMeet a b && !(a.base == b.base && a.fmt == b.fmt && a.ext == b.ext && a.str == b.str &&
      a.extent 0 == a.extent 1 && aw == bw &&
      (match aw with
       | some w => (w.getD 0 (0, 0)) == (w.getD 1 (0, 0))
       | none => true)) then stTransposeOverlap
  else stSuccess

/-- COMBINE (R184). -/
def pairCombine (a : TDesc) (aw : Window) (b : TDesc) (bw : Window) : Nat :=
  if !(a.canRead && b.canWrite && a.isLedger && b.kind == 2 && a.rank == b.rank && counts aw == counts bw) then
    stDescInvalid
  else if a.lexp != b.lexp then stLedgerMismatch
  else stSuccess

/-- READOUT into a descriptor (R184, Table 8.4). -/
def pairReadout (a : TDesc) (aw : Window) (b : TDesc) (bw : Window) (ro : RoFmt) : Nat :=
  let match_ := match ro with
    | .fp32 => b.fmt == 0
    | .bf16 => b.fmt == 1
    | .fp64 => false
  if a.canRead && b.canWrite && a.isLedger && b.kind == 0 && match_ && a.rank == b.rank && counts aw == counts bw then
    stSuccess
  else stDescInvalid

/-! ### Dead blocks (R226, R227) -/

/-- Byte ranges (spot, first byte, length) that a visited row of a block format covers, with its scale granules:
a data granule or a scale granule counts when every block of it is visited. -/
def blockCover (f : Fmt) (nb : Nat) (vis : Nat → Bool) : List (Nat × Nat × Bool) :=
  let runs := (nb + 31) / 32
  (List.range runs).flatMap fun r =>
    let n := min 32 (nb - 32 * r)
    let start := r * TDesc.runGrans f * 32
    let all := (List.range n).all fun b => vis (32 * r + b)
    let grans := (List.range (TDesc.partGrans f n)).filter fun g =>
      (List.range n).all fun b =>
        let lo := b * fmtBlockBytes f
        !(decide (lo < 32 * g + 32) && decide (32 * g < lo + fmtBlockBytes f)) || vis (32 * r + b)
    (if all then [(start, 32, true)] else []) ++ grans.map fun g => (start + 32 + 32 * g, 32, false)

/-- The blocks of a row, as a block-scaled window visits them: the shard and the outer local indices of the row, and its
block number there. -/
def View.visited (w : View) (win : Window) : List ((Nat × List Int) × Nat) :=
  (outerIxs win).flatMap fun o =>
    (List.range (blocksOf ((counts win).getD 0 0))).filterMap fun b =>
      (w.d.spot w.v true (ixAt win ((32 * b) :: o))).map fun sp => ((sp.1, 0 :: sp.2.drop 1), (sp.2.getD 0 0).toNat / 32)

/-- Every byte range that a DEAD's window covers: channel address, local offset, length, scale granule or not. -/
def View.covered (w : View) (win : Window) : List (ChanAddr × Nat × Nat × Bool) :=
  let place := fun (sp : Nat × List Int) (k n : Nat) (sc : Bool) =>
    match w.where_ sp k with | some (ch, off) => [(ch, off, n, sc)] | none => []
  if w.d.isBlock then
    let vs := w.visited win
    (vs.map (·.1)).dedup.flatMap fun row =>
      let seen := (vs.filter fun e => e.1 == row).map (·.2)
      (blockCover w.d.format (blocksOf w.d.rowExt) fun b => seen.contains b).flatMap fun e => place row e.1 e.2.1 e.2.2
  else
    (windowIxs (counts win)).flatMap fun t =>
      match w.d.spot w.v true (ixAt win t) with
      | none => []
      | some sp => place sp 0 w.d.width false

/-- The fill pattern of a descriptor's dead blocks (R227). -/
def TDesc.fillGran (d : TDesc) : Granule :=
  if d.isLedger || d.isBlock then 0
  else (List.range (32 / max d.width 1)).foldl
    (fun acc i => acc ||| (d.fill.setWidth 256 <<< (8 * d.width * i))) 0

/-- The 4 KiB blocks that covered ranges fill: channel address, first local granule, scale granules in the block. -/
def deadBlocks (cov : List (ChanAddr × Nat × Nat × Bool)) : List (ChanAddr × Nat × List Nat) :=
  let key := fun (e : ChanAddr × Nat × Nat × Bool) => fabByte e.1 e.2.1 / 4096
  let masks : Bytes := cov.foldl (fun m e => m.putAll (fabByte e.1 e.2.1) (List.replicate e.2.2.1 0)) []
  ((sortUniq (cov.map key)).filter fun b =>
    (List.range 128).all fun i => ((masks.look (128 * b + i)).getD (0, 0)).1 == 0xFFFFFFFF#32).map fun b =>
      let (ch, k) := fabKey (128 * b)
      (ch, k, (cov.filter fun e => e.2.2.2 && key e == b).map fun e => e.2.1 / 32)

end Sys2Proof.Machine
end

