-- ==== Sys2Proof/Machine/Xfer.lean ====
section
/-!
DEFINITION. A pump's view of memory (R210, R215, R219), its global writes (R217, R220), and what an XFR does
(Tables 8.3, 8.4). The commands stand in Machine/Controller.lean.
-/

namespace Sys2Proof.Machine

/-! ### A pump's reads and writes of memory -/

/-- Granules of a cache line: 4 KiB in flow mode, 128 bytes in sector mode (R201). -/
def Channel.lineGrans (h : Channel) : Nat := if h.cis.sector then 4 else 128

/-- Fabric address of the line of n granules that holds a local granule. -/
def lineOf (n : Nat) (ch : ChanAddr) (k : Nat) : FabAddr := ⟨ch, keyOff (k / n * n)⟩

/-- The valid cached copy of a line in a slice: an own line, or an epoch line of this frame (R216). -/
def Slice.cached (sl : Slice) (frame : Nat) (l : FabAddr) : Option CLine :=
  sl.lines.find? fun e => e.at_ == l && (match e.epoch with
    | none => true
    | some t => t == BitVec.ofNat 16 frame)

/-- Whether a line holds its i-th granule: in sector mode its sectors come one by one (R201). -/
def CLine.holds (l : CLine) (i : Nat) : Bool := match l.sects with | none => true | some ss => ss.contains i

/-- Whether the stored copy of the i-th granule is uncorrectable: the line is then dropped and filled afresh (R251). -/
def CLine.broken (l : CLine) (i : Nat) : Bool := bscDecode (l.up.readD 0 i) == .uncorrectable

/-- The line of a slice that holds a granule of a channel, sound. -/
def State.lineAt (s : State) (c : Chan) (p : PumpIx) (ch : ChanAddr) (k : Nat) : Option CLine :=
  let n := (s.chan c).lineGrans
  ((s.slice c p).cached (s.frameOf c p) (lineOf n ch k)).filter fun l => l.holds (k % n) && !l.broken (k % n)

/-- The same among what has come for transfers without a line (R176). -/
def State.streamAt (s : State) (c : Chan) (p : PumpIx) (ch : ChanAddr) (k : Nat) : Option CLine :=
  let n := (s.chan c).lineGrans
  (s.slice c p).streamed.find? fun l => l.at_ == lineOf n ch k && l.holds (k % n)

/-- Counts a granule served from a cache line (Table 8.8). -/
def State.lineHit (s : State) (c : Chan) (p : PumpIx) : State :=
  match (s.chan c).slotOf p with
  | some j => s.onRegs c j fun r => { r with cnt := upd r.cnt 0 (sat64 · 1) }
  | none => s

/-- A read of a cache line's granule finds a corrected symbol: counted, and written back (R245). The address is the granule's
place in the slice, lines lying one after another above the pinned region (log entry 141). -/
def State.lineCheck (s : State) (c : Chan) (p : PumpIx) (l : CLine) (i : Nat) : State :=
  match bscDecode (l.up.readD 0 i) with
  | .corrected sym _ =>
    let n := ((s.slice c p).lines.findIdx? (·.at_ == l.at_)).getD 0
    (s.logCe c 0 (physOf (s.chan c) p) ((s.chan c).pinned + n * (s.chan c).lineGrans + i) sym true).onSlice c p fun sl => { sl with
      lines := sl.lines.map fun e => if e.at_ = l.at_ then { e with up := e.up.drop1 i } else e }
  | _ => s

/-- The base layer of R215 for pump p at a local granule of a channel. `lines`: through its cache lines (residency 2 and the thread
engine); else a remote granule comes by a stream (R176). -/
def State.pumpBase (s : State) (c : Chan) (p : PumpIx) (lines : Bool) : Reader := fun s0 ch k =>
  let i := k % (s.chan c).lineGrans
  let own := match keySlice k with | some (q, _) => ch == s.addrOf c && q == p | none => false
  let line := if lines && !own then s0.lineAt c p ch k else none
  let s1 := match line with
    | some l => (s0.lineHit c p).lineCheck c p l i
    | none => s0
  if own then s1.readOwn c p (k % 2 ^ 19)
  else if ch = s.addrOf c then s1.readShared c ((s0.chan c).slotOf p) k
  else
    match line, s1.streamAt c p ch k with
    | some l, _ => (s1, l.data.readD 0 i)
    | none, some l => (s1, l.data.readD 0 i)
    | none, none => (s1, 0)

/-- What pump p reads: the base under its own echoes (R215). -/
def State.pumpRead (s : State) (c : Chan) (p : PumpIx) (lines : Bool) : Reader := fun s0 ch k =>
  let r := s.pumpBase c p lines s0 ch k
  r.1.overlay c p ⟨ch, keyOff k⟩ r.2

/-- Whether a pump can read a granule now: its own slice always; through lines, what a line holds; without them, what this channel
holds, its HBM ports not being frozen, and what has come from another (R176, R212, R280). -/
def State.readable (s : State) (c : Chan) (p : PumpIx) (lines : Bool) (ch : ChanAddr) (k : Nat) : Bool :=
  let own := match keySlice k with | some (q, _) => ch == s.addrOf c && q == p | none => false
  own || (!lines && ch == s.addrOf c && !s.hbmFrozen c k) || (lines && (s.lineAt c p ch k).isSome) || (s.streamAt c p ch k).isSome

/-- Sends records to a home on another channel, up to 16 in a flit (Table 11.6). -/
def State.sendWrites (s : State) (c : Chan) (cls : ReqClass) (who : Nat) (j : SlotIx) (ch : ChanAddr) :
    Nat → List WriteRec → State
  | 0, _ => s
  | n + 1, rs =>
    if rs.isEmpty then s
    else (s.sendFor c cls who j ch (.write ch (rs.take 16))).sendWrites c cls who j ch n (rs.drop 16)

/-- Waits for `n` acknowledgements of an operation of a pump (R211). -/
def State.expect (s : State) (c : Chan) (p : PumpIx) (opc n : Nat) (grp : Option GSlot) (foot : List Foot) : State :=
  s.onPump c p fun q => { q with xfers := q.xfers ++ [⟨BitVec.ofNat 4 opc, n, grp, foot⟩] }

/-- What a pump has recorded in this frame for bytes of a granule of its own slice is dropped from them: a later private write
takes their place in program order (R215; log entry 142). -/
def State.stripOwn (s : State) (c : Chan) (p : PumpIx) (g : Nat) (mask : BitVec 32) : State :=
  let k := sliceKey p g
  let a : FabAddr := ⟨s.addrOf c, keyOff k⟩
  let key := (s.pump c p).key
  let frame := s.frameOf c p
  let mine := fun (e : Held) => offKey e.off == k && e.key == key && e.frame == frame
  if (s.chan c).held.any mine || (s.slice c p).echoes.any (·.on a) then
    (s.onChan c fun h => { h with
      held := (h.held.map fun e => if mine e then { e with mask := e.mask &&& ~~~mask } else e).filter fun e => e.mask != 0 }).onSlice
      c p fun sl => { sl with
        echoes := (sl.echoes.map fun e => if e.on a then { e with mask := e.mask &&& ~~~mask } else e).filter fun e => e.mask != 0 }
  else s

/-- A private write of a pump (R210). -/
def State.writePrivate (s : State) (c : Chan) (p : PumpIx) (g : Nat) (mask : BitVec 32) (v : Granule) : State :=
  (s.stripOwn c p g mask).writeOwn c p g mask v

/-- Private writes of grouped bytes of the own slice. -/
def State.writeOwnBytes (s : State) (c : Chan) (p : PumpIx) (m : Bytes) : State :=
  s.each m fun t e => t.writePrivate c p e.1 e.2.1 e.2.2

/-- One granule of a global write: recorded at its home where that is this channel (R217), with its echo unless NOECHO (R220). The
bytes it covers of a granule of the own slice no longer count as the owner's earlier private write (log entry 142). -/
def State.writeGlobal (s : State) (c : Chan) (p : PumpIx) (j : SlotIx) (ch : ChanAddr) (k : Nat) (mask : BitVec 32)
    (v : Granule) (noecho : Bool) : State :=
  let s1 := if noecho then s else s.echo c p ⟨ch, keyOff k⟩ mask v
  if ch = s.addrOf c then
    let s2 := s1.hold c j (s.frameNo c j) ⟨keyOff k, mask, v, (s.pump c p).key⟩
    match keySlice k with
    | some (q, g) =>
      let later := fun (sh : Shadow) =>
        if sh.frame = s.frameNo c j then { sh with owner := sh.owner &&& ~~~mask } else sh
      if q = p then s2.onSlice c p fun sl => { sl with shadows := sl.shadows.alter g later } else s2
    | none => s2
  else s1

/-- Writes a set of bytes as a pump: with `priv`, granules of its own slice at once; every other as held writes (R210). Answers
the records that other channels must acknowledge. -/
def State.pumpWrite (s0 : State) (c : Chan) (cls : ReqClass) (p : PumpIx) (j : SlotIx) (m0 : Bytes) (noecho priv : Bool) :
    State × Nat :=
  let m := m0.filter fun e => !s0.barred c j (fabKey e.1).1 (fabKey e.1).2
  let s := if m.length < m0.length then s0.bar c j else s0
  let own := s.addrOf c
  let s1 := s.each m fun t e =>
    let (ch, k) := fabKey e.1
    match keySlice k with
    | some (q, g) =>
      if priv ∧ ch = own ∧ q = p then t.writePrivate c p g e.2.1 e.2.2 else t.writeGlobal c p j ch k e.2.1 e.2.2 noecho
    | none => t.writeGlobal c p j ch k e.2.1 e.2.2 noecho
  let away := (m.map fun e => ((fabKey e.1).1, (fabKey e.1).2, e.2)).filter fun e => e.1 != own
  let dests := (away.map (·.1)).dedup
  let key := (s.pump c p).key
  (s1.each dests fun t d =>
    let rs := (away.filter fun e => e.1 == d).map fun e => (⟨keyOff e.2.1, e.2.2.1, e.2.2.2, key⟩ : WriteRec)
    t.sendWrites c (s.workClass c j cls) (physOf (s.chan c) p) j d rs.length rs, away.length)

/-- Counts dropped writes (R186). -/
def State.dropOob (s : State) (c : Chan) (j : SlotIx) (n : Nat) : State :=
  if n = 0 then s
  else s.onRegs c j fun r => { r with oobDrop := true, cnt := upd r.cnt 5 (sat64 · n) }

/-! ### The transfer descriptor (Table 8.3) -/

/-- Fields of a transfer descriptor. -/
structure XDesc where
  opc    : Nat
  srcRaw : Bool
  dstRaw : Bool
  sr     : Bool
  noecho : Bool
  ro     : Nat
  srcWin : Bool
  dstWin : Bool
  srcH   : Nat
  dstH   : Nat
  srcG   : Nat
  srcN   : Nat
  dstG   : Nat
  dstN   : Nat
  srcW   : Nat
  dstW   : Nat
  clean  : Bool
deriving DecidableEq, Repr

def xdesc (d : BitVec 512) : XDesc :=
  { opc := field d 0 4, srcRaw := d.getLsbD 4, dstRaw := d.getLsbD 5, sr := d.getLsbD 6, noecho := d.getLsbD 7,
    ro := field d 8 2, srcWin := d.getLsbD 10, dstWin := d.getLsbD 11, srcH := field d 16 24, dstH := field d 40 24,
    srcG := field d 64 19, srcN := field d 84 19 + 1, dstG := field d 128 19, dstN := field d 148 19 + 1,
    srcW := field d 192 15, dstW := field d 208 15,
    clean := field d 12 4 == 0 && !d.getLsbD 83 && field d 103 25 == 0 && !d.getLsbD 147 && field d 167 25 == 0 &&
      !d.getLsbD 207 && field d 223 33 == 0 && field d 256 256 == 0 }

/-- READOUT target of a field value. -/
def roOfCode : Nat → RoFmt
  | 0 => .fp32 | 1 => .bf16 | _ => .fp64

/-- One side of a planned transfer. -/
inductive Side where
  | none
  | raw (first n : Nat)
  | desc (w : View) (win : Window)
deriving DecidableEq, Repr

/-- A checked transfer. -/
structure Plan where
  opc : Nat
  sr  : Bool
  noecho : Bool
  ro  : RoFmt
  src : Side
  dst : Side
deriving DecidableEq, Repr

/-- The view that a job-image descriptor number gives a pump. -/
def State.jobView (s : State) (c : Chan) (p : PumpIx) (handle : Nat) : Option View :=
  match (s.chan c).slotOf p with
  | none => none
  | some j =>
    let x := (s.slot c j).job
    match s.job x.ctx x.job with
    | none => none
    | some jb =>
      match jb.image.descs.find? fun e => e.1 == handle with
      | none => none
      | some e =>
        let d := tdesc e.2
        match (s.mc.ctxs.look x.ctx).bind fun k => k.allocs.look d.handle with
        | some a => some ⟨d, a, (s.pump c p).vch, false⟩
        | none => none

/-- A descriptor side with its window; none where the handle or the window is wrong. -/
def State.descSide (s : State) (c : Chan) (p : PumpIx) (handle : Nat) (hasWin : Bool) (win : Window) (resv : Nat) :
    Option Side :=
  match s.jobView c p handle with
  | none => none
  | some w =>
    if hasWin then (if w.d.windowOk win resv then some (.desc w (win.take w.d.rank)) else none)
    else some (.desc w w.d.whole)

/-- The plan of an XFR, or the cause with which it faults: DESCRIPTOR before ACCESS (R69, R208). A window address is checked where the
side has its window bit set, as R69 states it. -/
def State.xferPlan (s : State) (c : Chan) (p : PumpIx) (o : RowOp) : Except Cause Plan :=
  let x := xdesc o.desc
  let mk := fun (a b : Side) => Plan.mk x.opc x.sr x.noecho (roOfCode x.ro) a b
  let rawOk := fun (g n : Nat) => decide (g + n ≤ (s.chan c).pinned)
  let srcD := s.descSide c p x.srcH x.srcWin o.srcWin o.srcResv
  let dstD := s.descSide c p x.dstH x.dstWin o.dstWin o.dstResv
  let bad : Except Cause Plan := .error .descriptor
  let ok := fun (rs : List (Nat × Nat)) (pl : Plan) =>
    if rs.all fun r => rawOk r.1 r.2 then Except.ok pl else .error .access
  let packed := fun (w : View) (win : Window) (n : Nat) => decide ((w.d.packedLen win + 31) / 32 = n)
  if !x.clean || x.ro == 3 || (x.srcRaw && x.srcWin && x.opc ≤ 3) || (x.dstRaw && x.dstWin && x.opc ≤ 4) ||
      (x.srcWin && x.srcW % 64 != 0) || (x.dstWin && x.dstW % 64 != 0) then bad
  else
    match x.opc with
    | 0 =>
      match x.srcRaw, x.dstRaw, srcD, dstD with
      | true, true, _, _ =>
        if x.srcN = x.dstN ∧ (x.srcG = x.dstG ∨ x.srcG + x.srcN ≤ x.dstG ∨ x.dstG + x.dstN ≤ x.srcG) then
          ok [(x.srcG, x.srcN), (x.dstG, x.dstN)] (mk (.raw x.srcG x.srcN) (.raw x.dstG x.dstN))
        else bad
      | true, false, _, some (.desc w win) =>
        if w.d.canWrite ∧ packed w win x.srcN then ok [(x.srcG, x.srcN)] (mk (.raw x.srcG x.srcN) (.desc w win)) else bad
      | false, true, some (.desc w win), _ =>
        if w.d.canRead ∧ packed w win x.dstN then ok [(x.dstG, x.dstN)] (mk (.desc w win) (.raw x.dstG x.dstN)) else bad
      | false, false, some (.desc w win), some (.desc v vin) =>
        if pairCopy w.d win v.d vin = stSuccess then ok [] (mk (.desc w win) (.desc v vin)) else bad
      | _, _, _, _ => bad
    | 1 =>
      match srcD, dstD with
      | some (.desc w win), some (.desc v vin) =>
        let aw := if x.srcWin then some win else none
        let bw := if x.dstWin then some vin else none
        if !x.srcRaw ∧ !x.dstRaw ∧ pairTranspose w.d aw v.d bw = stSuccess then ok [] (mk (.desc w win) (.desc v vin))
        else bad
      | _, _ => bad
    | 2 =>
      match srcD, dstD with
      | some (.desc w win), some (.desc v vin) =>
        if !x.srcRaw ∧ !x.dstRaw ∧ pairCombine w.d win v.d vin = stSuccess then ok [] (mk (.desc w win) (.desc v vin))
        else bad
      | _, _ => bad
    | 3 =>
      match x.srcRaw, x.dstRaw, srcD, dstD with
      | false, true, some (.desc w win), _ =>
        let n := windowSize win * roBytes (roOfCode x.ro)
        if w.d.canRead ∧ w.d.isLedger ∧ (n + 31) / 32 = x.dstN then
          ok [(x.dstG, x.dstN)] (mk (.desc w win) (.raw x.dstG x.dstN))
        else bad
      | false, false, some (.desc w win), some (.desc v vin) =>
        if pairReadout w.d win v.d vin (roOfCode x.ro) = stSuccess then ok [] (mk (.desc w win) (.desc v vin)) else bad
      | _, _, _, _ => bad
    | 4 =>
      match dstD with
      | some (.desc w win) => if !x.dstRaw ∧ w.d.canWrite then ok [] (mk .none (.desc w win)) else bad
      | _ => bad
    | 5 =>
      match srcD with
      | some (.desc w win) =>
        if !x.srcRaw ∧ !x.srcWin ∧ w.d.dist ∧ w.d.use = 2 then ok [] (mk (.desc w win) .none) else bad
      | _ => bad
    | 6 =>
      match srcD with
      | some (.desc w win) => if !x.srcRaw ∧ w.d.canRead ∧ w.d.res = 2 then ok [] (mk (.desc w win) .none) else bad
      | _ => bad
    | _ => bad

/-! ### Halo positions (R191, R208) -/

/-- Halo positions of virtual channel v's shard that hold a valid global index, with their global index: one for
each element, or each block of a block format. -/
def TDesc.haloSpots (d : TDesc) (v : Nat) : List (List Int × List Int) :=
  let step := if d.isBlock then 32 else 1
  let dims := (List.range d.rank).map fun i => if i = 0 then (d.localExt 0 + step - 1) / step else d.localExt i
  (windowIxs dims).filterMap fun t =>
    let j : List Int := t.zipIdx.map fun e => if e.2 = 0 then (e.1 * step : Nat) else (e.1 : Int)
    let g : List Int := (List.range d.rank).map fun i =>
      let raw := (d.coord v i * d.part i : Nat) - (d.halo i : Int) + j.getD i 0
      match d.mode i with
      | 0 => j.getD i 0
      | 1 => raw
      | 2 => raw
      | _ => raw % (max (d.extent i) 1 : Nat)
    let inHalo := (List.range d.rank).any fun i =>
      2 ≤ d.mode i && (decide (j.getD i 0 < d.halo i) || decide ((d.part i + d.halo i : Nat) ≤ j.getD i 0))
    let valid := (List.range d.rank).all fun i => decide (0 ≤ g.getD i 0) && decide (g.getD i 0 < d.extent i)
    if inHalo && valid then some (j, g) else none

/-- Refreshes the halo: every position takes the value in the owner's interior. -/
def haloViews (rd : Reader) (s : State) (w : View) : State × WriteSet :=
  (w.d.haloSpots w.v).foldl (fun acc e =>
    let v' := w.d.ownerOf w.v e.2
    let from_ : List Int := (List.range w.d.rank).map fun i => ((w.d.localIn v' i (e.2.getD i 0)).getD 0 : Int)
    if w.d.isBlock then
      let o := blockOffs w.d.format ((from_.getD 0 0).toNat / 32)
      let t := blockOffs w.d.format ((e.1.getD 0 0).toNat / 32)
      let (s1, data) := w.readBits rd acc.1 (v', from_) o.1 (fmtBlockBytes w.d.format)
      let (s2, scale) := w.readBits rd s1 (v', from_) o.2 1
      (s2, w.putBytes (w.v, e.1) t.2 [BitVec.ofNat 8 scale]
        (w.putBytes (w.v, e.1) t.1 (leBytes (fmtBlockBytes w.d.format) data) acc.2))
    else
      let (s1, v) := w.readBits rd acc.1 (v', from_) 0 w.d.width
      (s1, w.putBytes (w.v, e.1) 0 (leBytes w.d.width v) acc.2)) (s, ⟨[], 0⟩)

/-! ### Readiness, access and action -/

/-- Whether a side is read through cache lines (Table 7.3). -/
def Side.lines : Side → Bool
  | .desc w _ => w.d.res == 2
  | _ => false

/-- Every granule that reading a side touches: channel address and local granule. -/
def Side.reads (x : Side) (opc : Nat) : List (ChanAddr × Nat) :=
  match x with
  | .desc w win =>
    let gran : Nat × List Int → Nat → Nat → List (ChanAddr × Nat) := fun sp k n =>
      (List.range n).filterMap fun i =>
        if i % 32 = 0 ∨ i + 1 = n then (w.where_ sp (k + i)).map fun e => (e.1, e.2 / 32) else Option.none
    let spots := if opc = 5 then
        (w.d.haloSpots w.v).map fun e =>
          let v' := w.d.ownerOf w.v e.2
          some (v', (List.range w.d.rank).map fun i => ((w.d.localIn v' i (e.2.getD i 0)).getD 0 : Int))
      else (windowIxs (counts win)).map fun t => w.d.spot w.v w.host (ixAt win t)
    (spots.filterMap id).flatMap fun sp =>
      if w.d.isBlock then
        let o := blockOffs w.d.format ((sp.2.getD 0 0).toNat / 32)
        gran sp o.1 (fmtBlockBytes w.d.format) ++ gran sp o.2 1
      else gran sp 0 w.d.width
  | _ => []

/-- Whether a view reaches, for this pump, memory that only another pump owns (R219). -/
def State.foreign (s : State) (c : Chan) (p : PumpIx) (w : View) (ks : List (ChanAddr × Nat)) : Bool :=
  w.a.kind == .pinned && !w.a.exported && ks.any fun e =>
    match keySlice e.2 with
    | some (q, _) => !(e.1 == s.addrOf c && q == p)
    | none => false

/-- Whether everything that a planned transfer reads is at hand. -/
def State.planReady (s : State) (c : Chan) (p : PumpIx) (pl : Plan) : Bool :=
  (pl.src.reads pl.opc).all fun e => s.readable c p pl.src.lines e.1 e.2

/-- Whether an XFR can act now: a faulting one can at once. -/
def State.xferReady (s : State) (c : Chan) (p : PumpIx) (o : RowOp) : Bool :=
  match s.xferPlan c p o with
  | .ok pl => s.planReady c p pl
  | .error _ => true

/-- Bytes of a raw range of the own slice. -/
def State.rawBytes (s : State) (c : Chan) (p : PumpIx) (first n : Nat) : State × List (BitVec 8) :=
  let (s1, gs) := readEach (fun t g => t.readOwn c p g) s ((List.range n).map fun i => first + i)
  (s1, gs.flatMap gBytes)

/-- Writes a raw range: the packing, then zero bytes to the end of its last granule (R209). -/
def State.putRaw (s : State) (c : Chan) (p : PumpIx) (first n : Nat) (bs : List (BitVec 8)) : State :=
  s.each (List.range n) fun t i => t.writePrivate c p (first + i) 0xFFFFFFFF (gOfBytes (bs.drop (32 * i)))

/-- Adds a ledger's integer at its home as a combine of this frame (R133). Answers 1 where another channel must
acknowledge it. -/
def State.sendCombine (s : State) (c : Chan) (who : Nat) (j : SlotIx) (ch : ChanAddr) (k : Nat) (v : Granule) : State × Nat :=
  if s.barred c j ch k then (s.bar c j, 0)
  else if ch = s.addrOf c then
    match keySlice k with
    | some (q, g) => (s.combineAt c q g (s.frameNo c j) v, 0)
    | none => (s, 0)
  else (s.sendFor c (s.workClass c j .sched) who j ch (.combine ch (keyOff k) [v]), 1)

/-- COMBINE between two views (R133, R184): source ledgers in window order, each to its destination. -/
def State.combineViews (s : State) (c : Chan) (p : PumpIx) (j : SlotIx) (src : View) (sw : Window) (dst : View)
    (dw : Window) : State × Nat :=
  let (s1, vs) := src.readScalars (s.pumpRead c p (Side.desc src sw).lines) s sw
  ((windowIxs (counts dw)).zip vs).foldl (fun acc e =>
    match dst.d.spot dst.v true (ixAt dw e.1) with
    | none => (acc.1.dropOob c j 1, acc.2)
    | some sp =>
      match dst.where_ sp 0 with
      | none => acc
      | some (ch, off) =>
        let (t, n) := acc.1.sendCombine c (physOf (s.chan c) p) j ch (off / 32) (BitVec.ofNat 256 e.2)
        (t, acc.2 + n)) (s1, 0)

/-- Declares blocks dead: own pinned blocks at once, all others at the next tick, recorded at their home (R226).
The spec gives no flit for a declaration: a home on another channel of the module records it at once, one on another module leaves the
block as an output (log entry 20). -/
def State.declareDead (s : State) (c : Chan) (p : PumpIx) (j : SlotIx) (w : View) (win : Window) : State :=
  let x := (s.slot c j).job
  s.each (deadBlocks (w.covered win)) fun t b =>
    let (ch, k, scales) := b
    let own := match keySlice k with
      | some (q, _) => ch == s.addrOf c && q == p
      | none => false
    if t.barred c j ch k then t.bar c j
    else if own then t.killBlocks c j k 1 w.d.fillGran scales (t.frameNo c j)
    else
      match t.localChan ch with
      | none => t.emit (.dead ch (keyOff k) w.d.fillGran)
      | some c' =>
        match (t.chan c').slotOfJob x.ctx x.job with
        | none => t
        | some j' => t.onChan c' fun h => { h with
            decls := h.decls ++ [⟨j', t.frameNo c j, keyOff k, 1, w.d.fillGran, scales⟩] }

/-- What a planned transfer does, and how many acknowledgements it then waits for. A WARM acts once its lines are filled, and
does no more (R211). -/
def State.runPlan (s : State) (c : Chan) (p : PumpIx) (j : SlotIx) (pl : Plan) : State × Nat :=
  let rd := s.pumpRead c p pl.src.lines
  let frame := s.frameNo c j
  let sr := if pl.sr then some frame else none
  let put := fun (r : State × WriteSet) => (r.1.dropOob c j r.2.dropped).pumpWrite c .sched p j r.2.bytes pl.noecho true
  match pl.opc, pl.src, pl.dst with
  | 0, .raw a n, .raw b _ =>
    let (s1, bs) := s.rawBytes c p a n
    (s1.putRaw c p b n bs, 0)
  | 0, .raw a n, .desc w win =>
    let (s1, bs) := s.rawBytes c p a n
    put (s1, w.unpack win bs)
  | 0, .desc w win, .raw b n =>
    let (s1, bs) := w.pack rd s win
    (s1.putRaw c p b n bs, 0)
  | 0, .desc w win, .desc v vin => put (copyViews rd s w win v vin sr)
  | 1, .desc w win, .desc v vin => put (transposeViews rd s w win v vin sr)
  | 2, .desc w win, .desc v vin => s.combineViews c p j w win v vin
  | 3, .desc w win, .raw b n =>
    let (s1, bs) := w.packReadout rd s win pl.ro
    (s1.putRaw c p b n bs, 0)
  | 3, .desc w win, .desc v vin => put (readoutViews rd s w win v vin pl.ro)
  | 4, _, .desc w win => (s.declareDead c p j w win, 0)
  | 5, .desc w _, _ => put (haloViews rd s w)
  | _, _, _ => (s, 0)

/-- Granules that a plan writes: channel address and local granule. -/
def Side.writes (x : Side) : List (ChanAddr × Nat) :=
  match x with
  | .desc w win =>
    (windowIxs (counts win)).flatMap fun t =>
      match w.d.spot w.v true (ixAt win t) with
      | Option.none => []
      | some sp =>
        let ends := if w.d.isBlock then
            let o := blockOffs w.d.format ((sp.2.getD 0 0).toNat / 32)
            [o.1, o.1 + fmtBlockBytes w.d.format - 1, o.2]
          else [0, w.d.width - 1]
        ends.filterMap fun b => (w.where_ sp b).map fun e => (e.1, e.2 / 32)
  | _ => []

/-- Granules that a HALO writes: the halo positions of the pump's shard. -/
def View.haloWrites (w : View) : List (ChanAddr × Nat) :=
  (w.d.haloSpots w.v).filterMap fun e => (w.where_ (w.v, e.1) 0).map fun x => (x.1, x.2 / 32)

/-- All granules that a plan writes through a descriptor. -/
def Plan.writes (pl : Plan) : List (ChanAddr × Nat) :=
  match pl.opc, pl.src with
  | 5, .desc w _ => w.haloWrites
  | _, _ => pl.dst.writes

/-- Whether a plan touches private memory of another pump (R219). -/
def State.planForeign (s : State) (c : Chan) (p : PumpIx) (pl : Plan) : Bool :=
  (match pl.src with | .desc w _ => s.foreign c p w (pl.src.reads pl.opc) | _ => false) ||
    (match pl.dst with | .desc w _ => s.foreign c p w pl.dst.writes | _ => false)

/-- Whether a granule of a slice of this module lies at or beyond the pinned size (R206). -/
def State.unpinned (s : State) (ch : ChanAddr) (k : Nat) : Bool :=
  match s.localChan ch, keySlice k with
  | some c, some (_, g) => (s.chan c).pinned ≤ g
  | _, _ => false

/-! ### What a transfer touches (R68, R141) -/

/-- Granules as runs, in the order in which they come. -/
def feetOf (write : Bool) (l : List (ChanAddr × Nat)) : List Foot :=
  (l.foldl (fun (acc : List Foot) e =>
    match acc with
    | f :: rest =>
      if f.ch = e.1 ∧ f.lo ≤ e.2 ∧ e.2 ≤ f.hi then { f with hi := max f.hi (e.2 + 1) } :: rest
      else ⟨e.1, e.2, e.2 + 1, write⟩ :: f :: rest
    | [] => [⟨e.1, e.2, e.2 + 1, write⟩]) []).reverse

/-- The bounding range of the granules of the own slice among some. -/
def State.ownRange (s : State) (c : Chan) (p : PumpIx) (write : Bool) (l : List (ChanAddr × Nat)) : List Touch :=
  let gs := l.filterMap fun e => match keySlice e.2 with
    | some (q, g) => if e.1 = s.addrOf c ∧ q = p then some g else none
    | none => none
  match gs with
  | [] => []
  | g :: rest => [⟨2, (rest.foldl min g : Nat), (rest.foldl max g : Nat) + 1, write⟩]

/-- Granules of a raw side as global ones. -/
def Side.rawGrans (x : Side) (own : ChanAddr) (p : PumpIx) : List (ChanAddr × Nat) :=
  match x with
  | .raw a n => (List.range n).map fun i => (own, sliceKey p (a + i))
  | _ => []

/-- What a transfer touches in the own slice and in global memory; one that will fault touches nothing. -/
def State.xferTouches (s : State) (c : Chan) (p : PumpIx) (o : RowOp) : List Touch × List Foot :=
  match s.xferPlan c p o with
  | .error _ => ([], [])
  | .ok pl =>
    let own := s.addrOf c
    let rs := pl.src.reads pl.opc ++ pl.src.rawGrans own p
    let ws := pl.writes ++ pl.dst.rawGrans own p
    (s.ownRange c p false rs ++ s.ownRange c p true ws, feetOf false rs ++ feetOf true ws)

/-- Bytes [lo, hi) of an allocation that device virtual addresses [a, b) reach. -/
def Alloc.dvaPart (al : Alloc) (a b : Nat) : Nat × Nat := (max a al.dva - al.dva, min b (al.dva + TDesc.allocBytes al) - al.dva)

/-- What a kernel touches: the bounding range of its SPACE 0 ranges in the slice (R140), and the memory of its SPACE 1 ranges:
in an HBM allocation the granules themselves, in another every part of the allocation (log entry 143). -/
def State.kernelTouches (s : State) (c : Chan) (p : PumpIx) (d : BitVec 512) : List Touch × List Foot :=
  let rs := kernelRanges d
  let mine := rs.filter (·.space == 0)
  let slice : List Touch := match mine.map fun r => (r.base.toNat / 32, (r.base.toNat + r.len + 31) / 32) with
    | [] => []
    | x :: xs => [⟨2, ((xs.map Prod.fst).foldl min x.1 : Nat), ((xs.map Prod.snd).foldl max x.2 : Nat), mine.any (·.acc != 0)⟩]
  let allocs : SMap Alloc := match (s.chan c).slotOf p with
    | some j => (match s.mc.ctxs.look (s.slot c j).job.ctx with | some z => z.allocs | none => [])
    | none => []
  (slice, (rs.filter (·.space == 1)).flatMap fun r => allocs.flatMap fun e =>
    let (lo, hi) := e.2.dvaPart r.base.toNat (r.base.toNat + r.len)
    if hi ≤ lo then []
    else if e.2.kind = .hbm then [⟨e.2.channel, (e.2.base + lo) / 32, (e.2.base + hi + 31) / 32, r.acc != 0⟩]
    else e.2.parts.map fun q => ⟨q.1, q.2.1 / 32, (q.2.1 + q.2.2 + 31) / 32, r.acc != 0⟩)

/-- What has come for a slice's transfers without a line is dropped once no transfer waits. -/
def State.endStream (s : State) (c : Chan) (p : PumpIx) : State :=
  if (s.pump c p).todo.any fun o => o.unit == .transfer then s else s.onSlice c p fun sl => { sl with streamed := [] }

/-- Performs an XFR whose turn has come. A granule beyond the pinned size of its slice faults with ACCESS (R69, R206). -/
def State.doXfer (s : State) (c : Chan) (p : PumpIx) (o : RowOp) : State :=
  match (s.chan c).slotOf p, s.xferPlan c p o with
  | some j, .ok pl =>
    if s.planForeign c p pl || (pl.src.reads pl.opc ++ pl.writes).any fun e => s.unpinned e.1 e.2 then s.pumpFault c p .access 0
    else
      let own := s.addrOf c
      let here := if pl.src.lines then [] else ((pl.src.reads pl.opc).filter fun e => e.1 == own).map Prod.snd
      let (s1, n) := (s.raiseBursts c (s.workClass c j .sched) (physOf (s.chan c) p) (some j) here).runPlan c p j pl
      (s1.expect c p pl.opc n none o.foot).endStream c p
  | _, .error e => s.pumpFault c p e 0
  | none, _ => s

end Sys2Proof.Machine
end

