-- ==== Sys2Proof/Machine/Collectives.lean ====
section
/-!
DEFINITION. Collectives (R321, R325-R329, Tables 11.10 and 11.11): what an entry reads, what it sends, the combining store, and
delivery at the members.
-/

namespace Sys2Proof.Machine

/-! ### Entries, members, descriptors -/

/-- Writer index of a collective's global writes (R325). -/
def collIndex : Nat := 0x80

/-- A descriptor of a job's table as virtual channel v sees it. -/
def State.viewOf (s : State) (ctx : Nat) (jb : Job) (handle v : Nat) : Option View :=
  match jb.image.descs.find? fun e => e.1 == handle with
  | none => none
  | some e =>
    let d := tdesc e.2
    ((s.mc.ctxs.look ctx).bind fun k => k.allocs.look d.handle).map fun a => ⟨d, a, v, false⟩

/-- The copy of a collective entry that member m's table holds. -/
def memberEntry (jb : Job) (e : CollEntry) (m : Nat) : Option CollEntry :=
  jb.image.colls.find? fun x => x.vch == e.first + m && x.index == e.index

/-- Destination of member m. -/
def State.collDst (s : State) (ctx : Nat) (jb : Job) (e : CollEntry) (m : Nat) : Option View :=
  (memberEntry jb e m).bind fun x => s.viewOf ctx jb x.dst (e.first + m)

/-- Address of the channel that a virtual channel is bound to. -/
def Job.home (jb : Job) (v : Nat) : Option ChanAddr := (jb.place.find? fun b => b.1 == v).map (·.2.1)

/-- The index of element n of a shape, dimension 0 fastest. -/
def unlinear : List Nat → Nat → List Int
  | [], _ => []
  | x :: xs, n => (n % max x 1 : Nat) :: unlinear xs (n / max x 1)

/-- Elements of a descriptor. -/
def TDesc.elems (d : TDesc) : Nat := ((List.range d.rank).map d.extent).foldl (· * ·) 1

/-- Where element n of a member's ledger destination lies. -/
def View.ledgerAt (w : View) (n : Nat) : Option (ChanAddr × Nat) :=
  (w.d.spot w.v true (unlinear ((List.range w.d.rank).map w.d.extent) n)).bind fun sp => w.where_ sp 0

/-- Physical tree of a virtual one. -/
def Job.tree (jb : Job) (i : Nat) : Option (BitVec 12) := jb.trees[i]?

/-- The item of a list that position k of its weights falls on. -/
def atWeight {α : Type} : List (α × Nat) → Nat → Option α
  | [], _ => none
  | (x, w) :: rest, k => if k < w then some x else atWeight rest (k - w)

/-- The tree that carries element n: pieces of 16 ledgers go to the entry's trees in turn, to each as many in a round as its narrowest width
allows beside the narrowest of all (R328; log entry 35). -/
def Job.treeOf (jb : Job) (e : CollEntry) (n : Nat) : Option (BitVec 12) :=
  let ws := e.trees.map fun i => (i, max (jb.widths.getD i 8) 1)
  let low := (ws.map (·.2)).foldl min 8
  let round := ws.map fun x => (x.1, x.2 / low)
  (atWeight round (n / 16 % max (round.map (·.2)).sum 1)).bind jb.tree

/-- The job, of those that this Gnover knows, to which placement has bound a tree. -/
def State.treeJob (s : State) (tree : BitVec 12) : Option (Nat × Nat × Job) :=
  (s.mc.jobs.find? fun e => e.2.trees.contains tree).map fun e => ((e.1 - 1) / 64, (e.1 - 1) % 64 + 1, e.2)

/-! ### Delivery -/

/-- Bytes delivered into a channel by collectives (R329). -/
def State.collected (s : State) (c : Chan) (j : SlotIx) (n : Nat) : State :=
  s.onFr c j fun f => { f with collGot := f.collGot + n }

/-- Delivers the sum of element n into the destination of member m, where its home is this channel (R133, R325). -/
def State.collSum (s : State) (c : Chan) (j : SlotIx) (frame : Nat) (w : View) (n : Nat) (v : Granule) : State :=
  match w.ledgerAt n with
  | none => s
  | some (ch, off) =>
    match keySlice (off / 32) with
    | some (p, g) => if ch = s.addrOf c then (s.combineAt c p g frame v).collected c j 32 else s
    | none => s

/-- Sends a flit of a job's collectives on a port, with its burst at the egress (Table 10.2). -/
def State.sendTree (s : State) (c : Chan) (j : Option SlotIx) (port : PortIx) (f : OutFlit) : State :=
  (s.sendFlit c port f).raise c (egress port) .sched reqRemote j 1

/-- Local members of an entry: virtual channels bound to this channel. -/
def State.collHere (s : State) (c : Chan) (jb : Job) (e : CollEntry) : List Nat :=
  (List.range e.count).filter fun m => jb.home (e.first + m) == some (s.addrOf c)

/-- A finished sum at its combining root: to ROOT, to member n / block, or to every member by MCAST (R327). -/
def State.rootSum (s : State) (c : Chan) (tree : BitVec 12) (t : Tree) (ctx : Nat) (jb : Job) (e : CollEntry) (n : Nat)
    (v : Granule) (block : Nat) : State :=
  match t.slot with
  | none => s
  | some j =>
    let frame := s.frameNo c j
    let give := fun (u : State) (m k : Nat) => match u.collDst ctx jb e m with
      | some w => u.collSum c j frame w k v
      | none => u
    match e.kind with
    | .reduce => give s e.root n
    | .reduceScatter => give s (n / max block 1) (n % max block 1)
    | .allreduce =>
      let s1 := s.each (s.collHere c jb e) fun u m => give u m n
      s1.each ((List.finRange 12).filter fun p => t.mask.getLsbD p.val) fun u p =>
        u.sendTree c (some j) p (.mcast tree e.index [] n [v])
    | _ => s

/-- The entry of a collective that a router serves, and the elements of a block of REDUCE_SCATTER. -/
def State.collAt (s : State) (ctx : Nat) (jb : Job) (idx : BitVec 8) : Option (CollEntry × Nat) :=
  (jb.image.colls.find? fun x => x.index == idx).map fun e =>
    (e, match s.viewOf ctx jb e.src e.vch with | some w => w.d.elems / max e.count 1 | none => 0)

/-- Where a finished sum of a node goes on: the parent, or the port toward member j of REDUCE_SCATTER; none at the root. -/
def State.sumPort (s : State) (c : Chan) (t : Tree) (jb : Job) (rset : BitVec 2) (e : CollEntry) (n block : Nat) : Option PortIx :=
  match e.kind with
  | .reduceScatter =>
    match jb.home (e.first + n / max block 1) with
    | some a => if a = s.addrOf c then none else routePort ((s.chan c).route rset a)
    | none => none
  | _ => t.parent

/-- A mismatch of the combining store's adder faults the job of a tree with DATA_UE, at its slot or from a node without one (R244, R327). -/
def State.storeFault (s : State) (c : Chan) (tree : BitVec 12) (t : Tree) : State :=
  match t.slot with
  | some j => s.fault c j .dataUe .lk 0 0
  | none =>
    let s1 := s.faultEvent c none Cause.dataUe.code UnitKind.lk.code 0 0 (s.addrOf c)
    s1.each ((List.finRange 12).filter fun p => t.mask.getLsbD p.val) fun u p =>
      u.marker c p (.fault tree (BitVec.ofNat 8 Cause.dataUe.code) (s.addrOf c))

/-- One more input of a ledger enters the combining store; the sum goes on once every input has arrived, and the window of
the inputs advances (R327). -/
def State.reduceIn (s : State) (c : Chan) (tree : BitVec 12) (idx : BitVec 8) (n : Nat) (v : Granule) : State :=
  match (s.chan c).router.trees.look tree.toNat, s.treeJob tree with
  | some t, some (ctx, job, jb) =>
    let mine := fun (x : Combining) => x.tree == tree && x.entry == idx && x.elem == n
    let cur := ((s.chan c).router.store.find? mine).getD ⟨tree, idx, n, 0, 0⟩
    let sum := cur.sum + v
    let rest := (s.chan c).router.store.filter fun x => !mine x
    let s0 := if (s.chan c).badStore && cur.got != 0 then s.storeFault c tree t else s
    let store := fun (l : List Combining) => s0.onChan c fun h => { h with router := { h.router with store := l } }
    if cur.got + 1 < t.inputs then store (rest ++ [{ cur with got := cur.got + 1, sum := sum }])
    else
      match s.collAt ctx jb idx with
      | none => store rest
      | some (e, block) =>
        let rset := match s.localChan jb.lead with
          | some d => (match (s.chan d).slotOfJob ctx job with | some i => (s.slot d i).job.rset | none => 0)
          | none => 0
        let s1 := store rest
        let s2 := match s.sumPort c t jb rset e n block with
          | some p => s1.sendTree c t.slot p (.reduce tree idx n [sum])
          | none => s1.rootSum c tree t ctx jb e n sum block
        s2.each ((List.finRange 12).filter fun p => t.mask.getLsbD p.val && t.parent != some p) fun u p =>
          u.marker c p (.credit (.window tree) (n + 1))
  | _, _ => s

/-! ### COLLECTIVE_START -/

/-- A channel's reads for a collective: the base layer, shadows included, as of the tick (R325). Memory of another module is not seen
here (log entry 46). -/
def State.collRead (s : State) (c : Chan) (j : SlotIx) : Reader := fun t ch k =>
  match t.localChan ch with
  | some d => t.readShared d (if d = c then some j else (t.chan d).slotOfJob (s.slot c j).job.ctx (s.slot c j).job.job) k
  | none => ({ t with freeCtr := t.freeCtr + 1 }, Config.remoteGranule t.freeCtr)

/-- What BROADCAST and ALLGATHER write into member m's DST, by the copy rules of R194: the block of member `me` of an
ALLGATHER is the outermost index `me`. -/
def collCopy (rd : Reader) (s : State) (e : CollEntry) (me : Nat) (src dst : View) : State × WriteSet :=
  match e.kind with
  | .allgather =>
    let dw := dst.d.whole.take (dst.d.rank - 1) ++ [((me : Int), 1)]
    copyViews rd s src (src.d.whole ++ [(0, 1)]) dst dw none
  | _ => copyViews rd s src src.d.whole dst dst.d.whole none

/-- Records of a write set, with the collective's writer key. -/
def collRecs (vch : Nat) (b : Bytes) : List (ChanAddr × WriteRec) :=
  b.map fun x => ((fabKey x.1).1, ⟨keyOff (fabKey x.1).2, x.2.1, x.2.2, BitVec.ofNat 23 (vch * 256 + collIndex)⟩)

/-- Bits set in a byte mask. -/
def maskBytes (m : BitVec 32) : Nat := (bitsOf m).length

/-- Records a delivered collective write at its home. -/
def State.collHold (s : State) (c : Chan) (j : SlotIx) (frame : Nat) (r : WriteRec) : State :=
  (s.hold c j frame r).collected c j (maskBytes r.mask)

/-- Cuts records into flits. -/
def State.mcastOut (s : State) (c : Chan) (j : SlotIx) (tree : BitVec 12) (idx : BitVec 8) (ports : List PortIx) :
    Nat → List (ChanAddr × WriteRec) → State
  | 0, _ => s
  | n + 1, rs =>
    if rs.isEmpty then s
    else (s.each ports fun u p => u.sendTree c (some j) p (.mcast tree idx (rs.take 16) 0 [])).mcastOut c j tree idx ports n
      (rs.drop 16)

/-- BROADCAST by its root, ALLGATHER by every member: global writes keyed with index 0x80, at homes here and by MCAST. -/
def State.collWrite (s : State) (c : Chan) (j : SlotIx) (ctx : Nat) (jb : Job) (e : CollEntry) (src : View) : State :=
  let me := e.vch - e.first
  let (s1, recs) := (List.range e.count).foldl (fun (acc : State × List (ChanAddr × WriteRec)) m =>
    match acc.1.collDst ctx jb e m with
    | some dst =>
      let (t, ws) := collCopy (s.collRead c j) acc.1 e me src dst
      (t.dropOob c j ws.dropped, acc.2 ++ collRecs e.vch ws.bytes)
    | none => acc) (s, [])
  let own := s.addrOf c
  let here := recs.filter fun r => r.1 == own
  let away := recs.filter fun r => r.1 != own
  let s2 := s1.each here fun t r => t.collHold c j (t.frameNo c j) r.2
  match jb.treeOf e 0 with
  | some tree =>
    let mask := match (s.chan c).router.trees.look tree.toNat with | some t => t.mask | none => 0
    s2.mcastOut c j tree e.index ((List.finRange 12).filter fun p => mask.getLsbD p.val) away.length away
  | none => s2

/-- The integer that a member gives for an element: a ledger's own, or a float's addend on the grid of DST (R115, R326);
none where R116 faults. -/
def collAddend (src dst : TDesc) (v : Nat) : Option Granule :=
  if src.isLedger then some (BitVec.ofNat 256 v)
  else (ledgerAddend (fmtValue src.format v) dst.lexp).map fun n => ledgerAdd 0 n

/-- The addends of a member in order of their elements enter the combining store; at one that R116 turns away the job faults, the
earlier ones being added. -/
def State.collAdds (s : State) (c : Chan) (j : SlotIx) (jb : Job) (e : CollEntry) : Nat → List (Option Granule) → State
  | _, [] => s
  | _, none :: _ => s.fault c j .ledgerRange .none 0 0
  | n, some v :: rest =>
    (match jb.treeOf e n with
     | some tree => s.reduceIn c tree e.index n v
     | none => s).collAdds c j jb e (n + 1) rest

/-- REDUCE, REDUCE_SCATTER and ALLREDUCE by a member: every element enters the combining store here. -/
def State.collReduce (s : State) (c : Chan) (j : SlotIx) (jb : Job) (e : CollEntry) (src dst : View) : State :=
  let (s1, vs) := src.readScalars (s.collRead c j) s src.d.whole
  s1.collAdds c j jb e 0 (vs.map (collAddend src.d dst.d))

/-- Whether a member may read its source and write the destinations that it writes (R177); reductions write ledger-reduce targets,
which check 3 of Table 7.4 has seen to. -/
def State.collUse (s : State) (ctx : Nat) (jb : Job) (e : CollEntry) (src : View) : Bool :=
  let dsts := (List.range e.count).filterMap (s.collDst ctx jb e)
  match e.kind with
  | .broadcast => e.vch != e.first + e.root || (src.d.canRead && dsts.all fun w => w.d.canWrite)
  | .allgather => src.d.canRead && dsts.all fun w => w.d.canWrite
  | _ => src.d.canRead

/-- Whether an entry runs in a frame (Table 11.10). -/
def collRuns (e : CollEntry) (frame : Nat) : Bool := frame % 2 ^ e.kLog2 == e.phase

/-- A collective entry of a virtual channel that runs in this frame begins, no earlier than START_NS (R325). One that breaks R177
faults the job as an XFR does (DEDUCED, log entry 149). -/
def execCollectiveStart (c : Chan) (j : SlotIx) (vch : BitVec 15) (entry : BitVec 8) (s : State) : Res :=
  let x := s.slot c j
  match s.job x.job.ctx x.job.job with
  | none => .next s
  | some jb =>
    match jb.image.colls.find? fun e => e.vch == vch.toNat && e.index == entry with
    | none => .next s
    | some e =>
      let on := (x.job.state == .running || x.job.state == .stopping) && !x.fr.faultFlag
      if on ∧ collRuns e x.regs.frame ∧ jb.home e.vch = some (s.addrOf c) ∧ !x.fr.collDone.contains (e.vch, e.index) then
        let s1 := (s.until (x.fr.tickNs + e.startNs)).onFr c j fun f => { f with collDone := f.collDone ++ [(e.vch, e.index)] }
        match s.viewOf x.job.ctx jb e.src e.vch, s.viewOf x.job.ctx jb e.dst e.vch with
        | some src, some dst =>
          if !s1.collUse x.job.ctx jb e src then .next (s1.fault c j .descriptor .none 0 0)
          else match e.kind with
          | .broadcast => .next (if e.vch = e.first + e.root then s1.collWrite c j x.job.ctx jb e src else s1)
          | .allgather => .next (s1.collWrite c j x.job.ctx jb e src)
          | _ => .next (s1.collReduce c j jb e src dst)
        | _, _ => .next s1
      else .next s

/-! ### What a frame waits for (R329) -/

/-- Bytes that the collectives of a frame deliver into a channel: of BROADCAST and ALLGATHER from the write sets, whose masks
no data decides; of reductions 32 a ledger. -/
def State.collBytes (s : State) (c : Chan) (ctx : Nat) (jb : Job) (e : CollEntry) : Nat :=
  let own := s.addrOf c
  let blind : Reader := fun t _ _ => (t, 0)
  let writes := fun (me : Nat) => match memberEntry jb e me with
    | none => 0
    | some r => match s.viewOf ctx jb r.src r.vch with
      | none => 0
      | some src => ((List.range e.count).map fun m => match s.collDst ctx jb e m with
        | some dst => ((collRecs r.vch (collCopy blind s r me src dst).2.bytes).map fun q =>
            if q.1 = own then maskBytes q.2.mask else 0).sum
        | none => 0).sum
  let n := match s.viewOf ctx jb e.src e.vch with | some w => w.d.elems | none => 0
  let here := fun (m : Nat) => match (s.collDst ctx jb e m).bind fun w => w.ledgerAt 0 with
    | some (ch, _) => if ch = own then 1 else 0
    | none => 0
  match e.kind with
  | .broadcast => writes e.root
  | .allgather => ((List.range e.count).map writes).sum
  | .reduce => 32 * n * here e.root
  | .reduceScatter => 32 * (n / max e.count 1) * ((List.range e.count).map here).sum
  | .allreduce => 32 * n * ((List.range e.count).map here).sum

/-- Whether every collective of the frame has begun here, every flit sent for them is acknowledged, and every delivery is
recorded (R329). -/
def State.collsOver (s : State) (c : Chan) (j : SlotIx) : Bool :=
  let x := s.slot c j
  match s.job x.job.ctx x.job.job with
  | none => true
  | some jb =>
    let due := jb.image.colls.filter fun e => collRuns e x.regs.frame
    let begun := (due.filter fun e => jb.home e.vch == some (s.addrOf c)).all fun e => x.fr.collDone.contains (e.vch, e.index)
    let mine := fun (f : OutFlit) => match f with
      | .mcast t .. => jb.trees.contains t
      | .reduce t .. => jb.trees.contains t
      | _ => false
    let sent := (s.chan c).ports.toList.all fun p => p.waiting.all (fun f => !mine f) && p.replay.all fun e => !mine e.2
    let want := ((due.filter fun e => e.vch == e.first).map (s.collBytes c x.job.ctx jb)).sum
    begun && sent && decide (want ≤ x.fr.collGot)

end Sys2Proof.Machine
end

