-- ==== Sys2Proof/Machine/Staging.lean ====
section
/-!
DEFINITION. Staged changes: the ST fields of Table 17.5, the checks of Table 2.6, the states of Table 2.7, and what a
commit makes effective (R58-R64, R204, R206, R480, R481, R496).
-/

namespace Sys2Proof.Machine

/-! ### Where register writes land (R473) -/

/-- Whether Gnover can reach a channel's window: it is present, no embankment reset runs, and Gnover is out of
reset. -/
def State.windowOpen (s : State) (c : Chan) : Bool :=
  s.mc.fuses.present.getLsbD c.val && !(s.chan c).st.embBusy && !s.mc.inReset

/-- A write to a block that a channel reset closes: discarded with WR_DROP while the reset runs (R473). -/
def State.blockWrite (s : State) (c : Chan) (f : State → State) : State :=
  if s.windowOpen c then
    if (s.chan c).st.busy && (s.chan c).st.lastScope == 2 then s.onSt c fun x => { x with wrDrop := true } else f s
  else s

/-! ### The registers that hold ST fields (Table 17.5) -/

/-- A 32-bit word of a register with ST fields. -/
inductive StWord where
  | frameCfg (j : SlotIx) | ckptCfg (j : SlotIx) | thrash (j : SlotIx) | region
  | share (k : Fin 2) (hi : Bool) | cls (n : Fin 6) | arbCfg | polder (pd : PolderIx)
deriving DecidableEq, Repr

/-- The word at a channel-window offset. -/
def stWord (off : Nat) : Option StWord :=
  if h : 0x010000 ≤ off ∧ off < 0x011000 then
    let j : SlotIx := ⟨(off - 0x010000) / 0x100, by omega⟩
    if off % 0x100 = 0 then some (.frameCfg j) else if off % 0x100 = 0x10 then some (.ckptCfg j) else none
  else if off = 0x020000 then some .region
  else if h : 0x020100 ≤ off ∧ off < 0x020200 then
    if off % 0x10 = 0 then some (.thrash ⟨(off - 0x020100) / 0x10, by omega⟩) else none
  else if h : 0x050000 ≤ off ∧ off < 0x050010 then
    if off % 4 = 0 then some (.share ⟨(off - 0x050000) / 8, by omega⟩ (off % 8 == 4)) else none
  else if h : 0x050024 ≤ off ∧ off < 0x05003C then
    if off % 4 = 0 then some (.cls ⟨(off - 0x050024) / 4, by omega⟩) else none
  else if off = 0x050040 then some .arbCfg
  else if h : 0x100000 ≤ off ∧ off < 0x200000 then
    if off % 0x10000 = 0x20 then some (.polder ⟨(off - 0x100000) / 0x10000, by omega⟩) else none
  else none

/-- The slots that a channel-scoped field is staged for: every slot that holds a job, or slot 0 without one (R480;
log entry 24). -/
def Channel.chanSlots (h : Channel) : List SlotIx := if h.liveSlots.isEmpty then [0] else h.liveSlots

/-- The slots in whose bank a word stands; none where a write is dropped with WR_DROP (R481). -/
def Channel.banks (h : Channel) : StWord → List SlotIx
  | .frameCfg j | .ckptCfg j | .thrash j => if h.slots[j.val].live || j.val == 0 then [j] else []
  | .polder pd => (h.slotOfPolder pd).toList
  | _ => h.chanSlots

/-- CHECKING, CHECKED and COMMIT_PENDING lock a slot against ST writes (Table 2.7). -/
def StgState.locked : StgState → Bool
  | .checking | .checked | .commitPending => true
  | _ => false

/-- Shares of a register, from the bytes of one half. -/
def shareHalf (old : Vector Nat 7) (hi : Bool) (v : BitVec 32) : Vector Nat 7 :=
  if hi then #v[old[0], old[1], old[2], old[3], field v 0 8, field v 8 8, field v 16 8]
  else #v[old[0], field v 8 8, field v 16 8, field v 24 8, old[4], old[5], old[6]]

/-- Puts a word's ST fields into the channel-scoped copy. -/
def ChanSet.put (x : ChanSet) (w : StWord) (v : BitVec 32) : ChanSet :=
  match w with
  | .region => { x with pin := field v 0 8, pinMax := field v 8 8, held := field v 16 6 }
  | .share k hi => { x with share := upd x.share k fun o => shareHalf o hi v }
  | .cls n => { x with
      target := x.target.set (n.val + 1) (field v 0 16) (by omega), ceil := x.ceil.set (n.val + 1) (field v 16 16) (by omega) }
  | .arbCfg => { x with holdMax := field v 0 8, cutFault := v.getLsbD 8 }
  | _ => x

/-- Puts a word's ST fields into a slot's copy. -/
def SlotSet.put (x : SlotSet) (w : StWord) (v : BitVec 32) : SlotSet :=
  match w with
  | .frameCfg _ => { x with periodUs := field v 0 15, wdogMs := field v 16 16 }
  | .ckptCfg _ => { x with interval := field v 0 16 }
  | .thrash _ => { x with limit := field v 0 24, trickle := field v 24 8 }
  | _ => x

/-- Puts a word's ST fields into the staging bank. -/
def State.stagePut (s : State) (c : Chan) (w : StWord) (v : BitVec 32) : State :=
  match w with
  | .frameCfg j | .ckptCfg j | .thrash j => s.onStg c j fun g => { g with set := g.set.put w v }
  | .polder pd => s.onPolder c pd fun p => { p with stSlotMode := v.getLsbD 0, stUpUs := field v 1 15 }
  | _ => s.onChan c fun h => { h with stSet := h.stSet.put w v }

/-- A write of one word of ST fields: dropped, refused by a lock, or staged (R58, R60, R481, Table 2.7). -/
def State.stageWord (s : State) (c : Chan) (w : StWord) (v : BitVec 32) : State :=
  let js := (s.chan c).banks w
  if js.isEmpty then s.onSt c fun x => { x with wrDrop := true }
  else
    let shut := js.filter fun j => (s.slot c j).stg.state.locked
    if shut.isEmpty then
      (s.stagePut c w v).each js fun t j => t.onStg c j fun g => { g with state := .dirty }
    else s.each shut fun t j => t.onStg c j fun g => { g with locked := true }

/-- Writes the words of an access of 32 or 64 bits. -/
def State.stageAccess (s : State) (c : Chan) (off : Nat) (size64 : Bool) (v : BitVec 64) : State :=
  let one := fun (t : State) (o : Nat) (x : BitVec 32) => match stWord o with
    | some w => t.stageWord c w x
    | none => t
  let s1 := one s off (v.setWidth 32)
  if size64 then one s1 (off + 4) (v.extractLsb' 32 32) else s1

/-- An ST write (R58, R473): naturally aligned accesses only (R469). -/
def execStWrite (c : Chan) (off : BitVec 22) (size64 : Bool) (v : BitVec 64) (s : State) : Res :=
  if off.toNat % (if size64 then 8 else 4) = 0 then
    .next (s.blockWrite c fun t => t.stageAccess c off.toNat size64 v)
  else .next s

/-! ### The checks of Table 2.6 -/

/-- The first failure: REASON, register offset, lowest bit of the field (R496). -/
abbrev CheckFail := Nat × Nat × Nat

/-- Register offsets of the fields. -/
def offFrame (j : SlotIx) : Nat := 0x010000 + 0x100 * j.val
def offThrash (j : SlotIx) : Nat := 0x020100 + 0x10 * j.val
def offPolder (pd : PolderIx) : Nat := 0x100020 + 0x10000 * pd.val

/-- The polders of a slot's job, ascending. -/
def Slot.pds (x : Slot) : List PolderIx := (List.finRange 16).filter fun p => x.job.polders.getLsbD p.val

/-- Check 1: field ranges. -/
def Channel.check1 (h : Channel) (j : SlotIx) : List CheckFail :=
  let x := h.slots[j.val]
  let g := x.stg.set
  (if g.periodUs < 20 ∨ 20000 < g.periodUs then [(1, offFrame j, 0)] else []) ++
    (if 32 < h.stSet.held then [(1, 0x020000, 16)] else []) ++
    (if g.trickle = 0 then [(1, offThrash j, 24)] else []) ++
    (x.pds.filter fun p => decide (19996 < h.polders[p.val].stUpUs)).map fun p => (1, offPolder p, 1)

/-- F in nanoseconds (R32). -/
def fenceNs (depth : Nat) : Nat := 500 + 350 * depth

/-- Check 2: frame budget, for a slot with a job, and watchdog. -/
def Channel.check2 (h : Channel) (j : SlotIx) : List CheckFail :=
  let x := h.slots[j.val]
  let g := x.stg.set
  (if x.live ∧ g.periodUs * 1000 < x.job.budgetNs + fenceNs x.job.depth then [(1, offFrame j, 0)] else []) ++
    (if g.wdogMs * 1000 < 2 * g.periodUs then [(1, offFrame j, 16)] else [])

/-- Check 3: cistern regions (R204). -/
def regionFails (pin pinMax held : Nat) : List CheckFail :=
  (if pinMax < pin ∨ (64 - pin) * 32 < 128 then [(1, 0x020000, 0)] else []) ++
    (if 60 < pinMax then [(1, 0x020000, 8)] else []) ++
    (if 64 - pin < 2 * held then [(1, 0x020000, 16)] else [])

/-- Check 4: the share at which a running sum first exceeds 256. -/
def shareFails (k : Nat) (v : Vector Nat 7) : List CheckFail :=
  ((List.range 7).filter fun i => decide (1 ≤ i) && decide (256 < ((v.toList.take (i + 1)).drop 1).sum)).take 1 |>.map
    fun i => (1, 0x050000 + 8 * k, 8 * i)

/-- Check 5: power-up slots of the job's polders in SLOT mode. -/
def Channel.check5 (h : Channel) (j : SlotIx) : List CheckFail :=
  let x := h.slots[j.val]
  let pds := x.pds.filter fun p => h.polders[p.val].stSlotMode
  (pds.filter fun p =>
    let up := h.polders[p.val].stUpUs
    decide (x.stg.set.periodUs < up + 4) || pds.any fun q => decide (q.val < p.val) &&
      (let o := h.polders[q.val].stUpUs
       decide (up < o + 4) && decide (o < up + 4))).map fun p => (1, offPolder p, 1)

/-- The channel-scoped fields that differ, in ascending offset and bit. -/
def ChanSet.diff (a b : ChanSet) : List (Nat × Nat) :=
  (if a.pin ≠ b.pin then [(0x020000, 0)] else []) ++ (if a.pinMax ≠ b.pinMax then [(0x020000, 8)] else []) ++
    (if a.held ≠ b.held then [(0x020000, 16)] else []) ++
    ((List.finRange 2).flatMap fun k => ((List.finRange 7).filter fun i => i.val != 0 &&
      a.share[k.val][i.val] != b.share[k.val][i.val]).map fun i => (0x050000 + 8 * k.val, 8 * i.val)) ++
    ((List.finRange 7).flatMap fun i => if i.val = 0 then []
      else (if a.target[i.val] ≠ b.target[i.val] then [(0x050020 + 4 * i.val, 0)] else []) ++
        (if a.ceil[i.val] ≠ b.ceil[i.val] then [(0x050020 + 4 * i.val, 16)] else [])) ++
    (if a.holdMax ≠ b.holdMax then [(0x050040, 0)] else []) ++
    (if a.cutFault ≠ b.cutFault then [(0x050040, 8)] else [])

/-- Check 6: a channel-scoped change while more than one job is hosted. -/
def Channel.check6 (h : Channel) : List CheckFail :=
  if 1 < h.liveSlots.length then (h.stSet.diff h.set).map fun e => (4, e.1, e.2) else []

/-- The first failure of a slot's staged set, in the order of Table 2.6. -/
def Channel.checkSet (h : Channel) (j : SlotIx) : Option CheckFail :=
  (h.check1 j ++ h.check2 j ++ regionFails h.stSet.pin h.stSet.pinMax h.stSet.held ++
    shareFails 0 h.stSet.share[0] ++ shareFails 1 h.stSet.share[1] ++ h.check5 j ++ h.check6).head?

/-- STG_ERR of a slot (its FIELD_BIT keeps five bits; log entry 23). -/
def Staging.err (g : Staging) : Nat := packReg [(0, 22, g.errOff.toNat), (22, 5, g.errBit), (32, 15, g.errChan.toNat)]

/-! ### CHECK, UNLOCK, REVERT -/

/-- Completes a job's waiting CHECK commands once every member of this module has ended its check: SUCCESS, or
STAGE_CHECK_FAILED with STG_ERR of the lowest-addressed failing member (R374). -/
def State.settleChecks (s : State) (ctx job : Nat) : State :=
  match s.job ctx job with
  | none => s
  | some jb =>
    let gs := (List.finRange 8).filterMap fun c => ((s.chan c).slotOfJob ctx job).map fun j => (s.slot c j).stg
    if jb.checkCmds.isEmpty || gs.any fun g => g.state == .checking then s
    else
      let t := s.onJob ctx job fun x => { x with checkCmds := [] }
      match gs.find? fun g => !(g.state == .checked || g.state == .commitPending) with
      | some g => t.each jb.checkCmds fun u h => u.complete h stStageCheckFailed g.err
      | none => t.each jb.checkCmds fun u h => u.complete h stSuccess 0

/-- CHECK: CLEAN, DIRTY and FAILED go to CHECKING; other states ignore it (Table 2.7). -/
def State.startCheck (s : State) (c : Chan) (j : SlotIx) (tag : BitVec 8) : State :=
  s.onStg c j fun g =>
    match g.state with
    | .clean | .dirty | .failed => { g with state := .checking, checkTag := tag }
    | _ => g

/-- STG_CTRL CHECK (R59). -/
def execStgCheck (c : Chan) (j : SlotIx) (tag : BitVec 8) (s : State) : Res :=
  .next (s.blockWrite c fun t => t.startCheck c j tag)

/-- The check ends: CHECKED with TAG recorded, or FAILED with STG_ERR filled (R59, R60, R496). -/
def execCheckComplete (c : Chan) (j : SlotIx) (s : State) : Res :=
  let x := s.slot c j
  if x.stg.state = .checking then
    let t := match (s.chan c).checkSet j with
      | some f => s.onStg c j fun g => { g with
          state := .failed, reason := f.1, errOff := BitVec.ofNat 22 f.2.1, errBit := f.2.2, errChan := s.addrOf c }
      | none => s.onStg c j fun g => { g with state := .checked, tag := g.checkTag, reason := 0 }
    .next (t.settleChecks x.job.ctx x.job.job)
  else .next s

/-- The committed values of a slot's fields copied back into the bank; the channel-scoped copy with them (R60). -/
def State.revertBank (s : State) (c : Chan) (j : SlotIx) : State :=
  let h := s.chan c
  let pds := h.slots[j.val].pds
  (((s.onSlot c j fun x => { x with stg := { x.stg with set := x.regs.set, state := .clean } }).each pds fun t p =>
    t.onPolder c p fun q => { q with stSlotMode := q.slotMode, stUpUs := q.upUs })).onChan c fun y =>
      if h.chanSlots.contains j then { y with stSet := y.set } else y

/-- STG_CTRL UNLOCK (R60): CHECKED and FAILED return to DIRTY. -/
def execStgUnlock (c : Chan) (j : SlotIx) (s : State) : Res :=
  .next (s.blockWrite c fun t => t.onStg c j fun g =>
    match g.state with
    | .checked | .failed => { g with state := .dirty }
    | _ => g)

/-- STG_CTRL REVERT (R60): DIRTY, CHECKED and FAILED become CLEAN with the committed values. -/
def execStgRevert (c : Chan) (j : SlotIx) (s : State) : Res :=
  .next (s.blockWrite c fun t =>
    match (t.slot c j).stg.state with
    | .dirty | .checked | .failed => t.revertBank c j
    | _ => t)

/-! ### COMMIT -/

/-- Whether a slot's channel is the place where its COMMIT acts: the job's tick master, or slot 0 of a channel with no
job (R62). -/
def Channel.isMaster (h : Channel) (j : SlotIx) : Bool :=
  let x := h.slots[j.val]
  if x.live then x.job.lead || x.job.acting else h.liveSlots.isEmpty && j.val == 0

/-- Whether the master already evaluates the fence of this frame: P has elapsed since the last tick, and the combined report has
reached it (R62). -/
def State.fenceBegun (s : State) (c : Chan) (j : SlotIx) : Bool :=
  let x := s.slot c j
  x.live && x.fr.combined.isSome && (x.job.state == .admitting || x.job.state == .restoring ||
    decide (x.fr.issueNs + x.regs.set.periodUs * 1000 ≤ s.timeNs))

/-- COMMIT with a tag (R62, Table 2.7). -/
def State.startCommit (s : State) (c : Chan) (j : SlotIx) (tag : BitVec 8) : State :=
  let late := s.fenceBegun c j
  if (s.chan c).isMaster j then
    s.onStg c j fun g =>
      match g.state with
      | .commitPending => g
      | .checked =>
        if g.tag = tag then { g with state := .commitPending, commitTag := tag, fences := 0, reason := 0, late := late }
        else { g with reason := 2 }
      | _ => { g with reason := 2 }
  else s.onStg c j fun g => { g with reason := 3 }

/-- STG_CTRL COMMIT. -/
def execStgCommit (c : Chan) (j : SlotIx) (tag : BitVec 8) (s : State) : Res :=
  .next (s.blockWrite c fun t => t.startCommit c j tag)

/-- Completes the COMMIT command that waits for a slot's commit: with SUCCESS and the frame of the commit tick, or
STAGE_CHECK_FAILED and the REASON (R374). -/
def State.endCommit (s : State) (c : Chan) (j : SlotIx) (reason : Nat) : State :=
  let x := (s.slot c j).job
  match (s.job x.ctx x.job).bind (·.commitCmd) with
  | some (h, _) =>
    (s.onJob x.ctx x.job fun y => { y with commitCmd := none }).complete h
      (if reason = 0 then stSuccess else stStageCheckFailed) (if reason = 0 then (s.slot c j).regs.frame else reason)
  | none => s

/-- The lowest-addressed member that is not CHECKED with the commit's tag (R62). A member of another module that
could be it is not visible here: a free value (log entry 22). -/
def State.unchecked (s : State) (c : Chan) (j : SlotIx) : ChanAddr :=
  let x := s.slot c j
  let bad := x.job.members.filter fun a => match s.localChan a with
    | some d => match (s.chan d).slotOfJob x.job.ctx x.job.job with
      | some i => let g := (s.slot d i).stg; !((g.state == .checked || g.state == .commitPending) && g.tag == x.stg.commitTag)
      | none => true
    | none => true
  match sortUniq (bad.map (·.toNat)) with
  | [] => Config.uncheckedMember x.stg.commitTag x.stg.fences
  | a :: _ =>
    if (s.localChan (BitVec.ofNat 15 a)).isSome then BitVec.ofNat 15 a
    else Config.uncheckedMember x.stg.commitTag x.stg.fences

/-- A commit that has found no qualifying fence within 16 fails (R62). -/
def execCommitTimeout (c : Chan) (j : SlotIx) (s : State) : Res :=
  let g := (s.slot c j).stg
  let carried := match (s.slot c j).fr.pend with | some p => p.commit | none => false
  if g.state = .commitPending ∧ 16 ≤ g.fences ∧ !carried then
    .next ((s.onStg c j fun y => { y with state := .failed, reason := 2, errChan := s.unchecked c j }).endCommit c j 2)
  else .next s

/-- A pending commit is abandoned when its job halts or ends (R44). -/
def State.abandonCommit (s : State) (c : Chan) (j : SlotIx) : State :=
  if (s.slot c j).stg.state = .commitPending then
    (s.onStg c j fun g => { g with state := .checked, reason := 5 }).endCommit c j 5
  else s

/-! ### What a commit makes effective -/

/-- Applies whatever is due in a channel, as the background drain does (R223). -/
def State.drain (s : State) (c : Chan) : State :=
  let h := s.chan c
  let ks := sortUniq ((h.held.map fun e => offKey e.off) ++ (h.atoms.map fun a => offKey a.atom.off) ++
    (h.decls.map fun d => offKey d.off))
  s.each ks fun t k => t.applyDue c k

/-- Dead ranges without the blocks [lo, hi). -/
def cutDead (rs : List DeadRange) (lo hi : Nat) : List DeadRange :=
  rs.flatMap fun r =>
    let a : DeadRange := { r with count := min (r.first + r.count) lo - r.first }
    let b : DeadRange := { r with first := max r.first hi, count := (r.first + r.count) - max r.first hi }
    (if a.count = 0 then [] else [a]) ++ (if b.count = 0 then [] else [b])

/-- A committed region change (R206): the granules that leave or join the pinned region lose their contents, and the
units that join it lose their cache lines (all of a slice's: log entry 25). -/
def State.regionChange (s : State) (c : Chan) (old new : Nat) : State :=
  if old = new then s
  else
    let lo := min old new * 8192
    let hi := max old new * 8192
    s.onChan c fun h => { h with pumps := h.pumps.map fun q =>
      { q with slice := { q.slice.clear lo hi with
          lines := if old < new then [] else q.slice.lines,
          shadows := q.slice.shadows.without lo hi, inbound := q.slice.inbound.without lo hi,
          dead := cutDead q.slice.dead (lo / 128) (hi / 128) } } }

/-- Asks for a polder's ramp, behind those that wait (R423). -/
def State.wantRamp (s : State) (c : Chan) (pd : PolderIx) : State :=
  let d := (s.polder c pd).dom
  if (d = .off ∨ d = .sleep) ∧ !(s.chan c).pwr.rampQ.contains pd then
    (s.onPwr c fun p => { p with rampQ := p.rampQ ++ [pd] }).onPolder c pd fun p => { p with reqNs := s.timeNs }
  else s

/-- The checked staged set of a slot becomes the committed set, and the slot is CLEAN (R62, R63). A sleeping
polder whose new mode is ALWAYS_ON ramps (R424). -/
def State.applyCommit (s : State) (c : Chan) (j : SlotIx) : State :=
  let h := s.chan c
  let s1 := (s.onSlot c j fun x => { x with
      regs := { x.regs with set := x.stg.set }, stg := { x.stg with state := .clean } }).each h.slots[j.val].pds
    fun t p =>
      let u := t.onPolder c p fun q => { q with slotMode := q.stSlotMode, upUs := q.stUpUs }
      if (t.polder c p).dom = .sleep ∧ !(t.polder c p).stSlotMode then u.wantRamp c p else u
  if h.chanSlots.contains j then
    let s2 := if h.stSet.pin = h.set.pin then s1 else s1.drain c
    (s2.onChan c fun y => { y with set := h.stSet }).regionChange c h.set.pin h.stSet.pin
  else s1

end Sys2Proof.Machine
end

