-- ==== Sys2Proof/Machine/Contexts.lean ====
section
/-!
DEFINITION. The end of what a context holds: its allocations and the descriptors that name them, its wells, the context itself
(R185, R205, R361, R362, R379, R380); the inbound granules of ledger-reduce descriptors.
-/

namespace Sys2Proof.Machine

/-! ### Inbound granules (R134, R205) -/

/-- The ledger granules of a view: channel address and local granule. -/
def View.granules (w : View) : List (ChanAddr × Nat) :=
  ((windowIxs (counts w.d.whole)).filterMap fun t =>
    (w.d.spot w.v true (ixAt w.d.whole t)).bind fun sp => (w.where_ sp 0).map fun e => (e.1, e.2 / 32)).dedup

/-- Reserves, or gives back, the inbound granules of a ledger-reduce target in the slices of this module that it covers. -/
def State.reserveView (s : State) (w : View) (on : Bool) : State :=
  if w.d.kind = 2 then
    s.each w.granules fun t e => match t.localChan e.1, keySlice e.2 with
      | some c, some (p, g) => t.onSlice c p fun sl =>
          { sl with reserved := if on then sl.reserved ++ [g] else sl.reserved.erase g }
      | _, _ => t
  else s

/-- Whether the held shares of the slices can provide inbound granules (check 8 of Table 7.4). -/
def State.roomForAll (s : State) (gs : List (ChanAddr × Nat)) : Bool :=
  (List.finRange 8).all fun c => (List.finRange 128).all fun p =>
    let mine := gs.filterMap fun e => match keySlice e.2 with
      | some (q, g) => if e.1 = s.addrOf c ∧ q = p then some g else none
      | none => none
    mine.isEmpty || decide (((s.slice c p).reserved ++ mine).dedup.length ≤ (s.chan c).heldShare)

/-- The same for the granules of one view. -/
def State.roomFor (s : State) (w : View) : Bool := s.roomForAll w.granules

/-- The views of an image's ledger-reduce targets: one for each virtual channel that a distributed allocation is bound to, one for a
pinned allocation. -/
def State.reduceViews (s : State) (ctx : Nat) (im : JobImage) : List View :=
  match s.mc.ctxs.look ctx with
  | none => []
  | some x => im.descs.flatMap fun e =>
      let d := tdesc e.2
      match x.allocs.look d.handle with
      | some a =>
        if d.kind ≠ 2 then []
        else match a.kind with
        | .distributed => a.bound.map fun b => ⟨d, a, b.1, false⟩
        | .pinned => [⟨d, a, 0, false⟩]
        | .hbm => []
      | none => []

/-- The inbound granules of a job's ledger-reduce targets are free (R134). -/
def State.unreserve (s : State) (ctx : Nat) (im : JobImage) : State :=
  s.each (s.reduceViews ctx im) fun t w => t.reserveView w false

/-! ### Allocations -/

/-- A freed part of an allocation: HBM reads as zero, granules of a slice lose their valid bits (R362, R233). -/
def State.zeroPart (s : State) (q : ChanAddr × Nat × Nat) : State :=
  match s.localChan q.1 with
  | none => s
  | some c =>
    let k := q.2.1 / 32
    let n := (q.2.2 + 31) / 32
    match keySlice k with
    | some (p, g) => s.onSlice c p fun sl => { sl.clear g (g + n) with dead := cutDead sl.dead (g / 128) ((g + n) / 128) }
    | none => s.onChan c fun h => { h with
        hbm := h.hbm.without k (k + n), hbmUpset := h.hbmUpset.without k (k + n),
        hbmDead := cutDead h.hbmDead (k / 128) ((k + n + 127) / 128) }

/-- The distributed allocations that a job's admission bound reach nothing again (R361, R373). -/
def State.unbind (s : State) (ctx job : Nat) : State :=
  match s.mc.ctxs.look ctx with
  | none => s
  | some x =>
    let mine := x.allocs.filter fun e => e.2.kind == .distributed && e.2.job == job
    (s.each (mine.flatMap fun e => e.2.parts) State.zeroPart).onCtx ctx fun k => { k with
      allocs := k.allocs.map fun e => if e.2.kind = .distributed ∧ e.2.job = job then (e.1, { e.2 with bound := [], job := 0 }) else e }

/-- Ends a host descriptor: its inbound granules are free. -/
def State.endDesc (s : State) (ctx handle : Nat) : State :=
  match s.mc.ctxs.look ctx with
  | none => s
  | some x =>
    let s1 := match x.descs.look handle with
      | some d => match x.allocs.look (tdesc d).handle with
        | some a => s.reserveView ⟨tdesc d, a, 0, true⟩ false
        | none => s
      | none => s
    s1.onCtx ctx fun k => { k with descs := k.descs.drop1 handle }

/-- Ends an allocation: every descriptor that names it, host mappings, and what it holds (R362). -/
def State.endAlloc (s : State) (ctx handle : Nat) : State :=
  match s.mc.ctxs.look ctx with
  | none => s
  | some x =>
    let s1 := s.each (x.descs.filter fun e => (tdesc e.2).handle == handle) fun t e => t.endDesc ctx e.1
    let s2 := match x.allocs.look handle with
      | some a => s1.each a.parts State.zeroPart
      | none => s1
    s2.onCtx ctx fun k => { k with
      allocs := k.allocs.drop1 handle, maps := k.maps.drop1 handle,
      images := k.images.map fun e => (e.1, { e.2 with descs := e.2.descs.filter fun d => (tdesc d.2).handle != handle }) }

/-- Ends the pinned allocations that lie in slices of a job (R361). -/
def State.endPinned (s : State) (ctx job : Nat) : State :=
  match s.mc.ctxs.look ctx with
  | none => s
  | some x => s.each (x.allocs.filter fun e => e.2.kind == .pinned && e.2.job == job) fun t e => t.endAlloc ctx e.1

/-! ### Wells and contexts -/

/-- A well ends: its commands that have not completed are recorded as ABORTED (R380). -/
def State.endWell (s : State) (ctx loc : Nat) : State :=
  match (s.mc.ctxs.look ctx).bind (·.wells.look loc) with
  | none => s
  | some (c, w) =>
    let hs := match (s.chan c).wells.look w with | some x => x.ring.running ++ x.ring.waiting.map (·.hdr) | none => []
    ((s.each hs fun t h => t.event c 0x11 none 0xFFFF (detail [(0, 2, ctx), (2, 3, h.tag.toNat)])).onChan c fun y =>
      { y with wells := y.wells.drop1 w }).onCtx ctx fun k => { k with wells := k.wells.drop1 loc }

/-- Jobs of a context. -/
def State.jobsOf (s : State) (ctx : Nat) : List (Nat × Job) :=
  s.mc.jobs.filter fun e => (e.1 - 1) / 64 == ctx

/-- A context that is being destroyed ends once it has no job left: wells, allocations, descriptors; its number is free, and
the command that destroys it completes (R380). -/
def State.endCtx (s : State) (ctx : Nat) : State :=
  match s.mc.ctxs.look ctx with
  | none => s
  | some x =>
    match x.ending with
    | none => s
    | some h =>
      if !(s.jobsOf ctx).isEmpty then s
      else
        let s1 := s.each x.wells.keys fun t w => t.endWell ctx w
        let s2 := s1.each (x.allocs.keys ++ x.maps.keys) fun t a => t.endAlloc ctx a
        let s3 := (s2.onMc fun m => { m with ctxs := m.ctxs.drop1 ctx }).each (List.finRange 8) State.mapSync
        match h with
        | some k => s3.complete k stSuccess 0
        | none => s3

end Sys2Proof.Machine
end

