-- ==== Sys2Proof/Machine/Frames.lean ====
section
/-!
DEFINITION. Frames, ticks, halts, the priority window, and the end of a job (R27-R57, R206, R216-R224, R322-R324, R331,
R373-R377, R391, R398).
-/

namespace Sys2Proof.Machine

/-! ### A job's slots on this module -/

/-- The channels and slots of this module that hold a job. -/
def State.localSlots (s : State) (ctx job : Nat) : List (Chan × SlotIx) :=
  (List.finRange 8).filterMap fun c => ((s.chan c).slotOfJob ctx job).map fun j => (c, j)

/-- A job is to end at its next fence, without a checkpoint or with one; a halted job, or one not yet running, ends at once. -/
def State.stopJob (s : State) (ctx job : Nat) (ckpt : Bool) : State :=
  s.each (s.localSlots ctx job) fun t e => t.onSlot e.1 e.2 fun x => { x with
    stopAsked := some ckpt, job := { x.job with state := if x.job.state = .running then .stopping else x.job.state } }

/-- Whether a checkpoint of a slot's job from an earlier frame than f is under way at a member of this module (R391). -/
def State.ckptBusy (s : State) (c : Chan) (j : SlotIx) (f : Nat) : Bool :=
  let x := (s.slot c j).job
  (s.localSlots x.ctx x.job).any fun e => match (s.slot e.1 e.2).ckpt with
    | some k => k.frame != f
    | none => false

/-! ### Starting pumps (R29, R71, Table 2.2 step 6) -/

/-- What R71 clears at each tick; a polder in SLEEP loses the same (R420), so SETSR's values are part of it (log entry
26). The pump caches are invalidated (Table 2.2 step 3). -/
def Pump.tickClear (q : Pump) : Pump :=
  { q with x := [], pc := 0, srHandle := 0, srBase := 0, dmem := q.dmem.without 0xC00 0x1000,
           dmemUp := q.dmemUp.without 0x300 0x400, lane := [], laneUp := [], acc := [], accBad := [],
           bq := [], run := .idle, te := { q.te with lines := [] } }

/-- A pump at a tick: cleared, with the waits of the frame that is over counted no more (R38). -/
def Pump.tick (q : Pump) : Pump :=
  { q.tickClear with waits := Vector.replicate 7 0, doneNs := 0, te := { q.tickClear.te with stall := 0, ops := 0 } }

/-- PLD_TE_STAT of a pump: the counts of the frame that a tick ends, saturating. -/
def Polder.teStat (q : Polder) (p : PumpIx) (te : Te) : Polder :=
  { q with repair := upd q.repair ⟨p.val % 8, Nat.mod_lt _ (by decide)⟩ fun r => { r with stallCyc := min te.stall (2 ^ 40 - 1), atomOps := min te.ops (2 ^ 24 - 1) } }

/-- Starts a pump at an instruction; without one it reports at once (R29). -/
def Pump.start (q : Pump) (entry : Option Nat) : Pump :=
  match entry with
  | some e => { q with run := .running, pc := e }
  | none => { q with run := .reported }

/-- Whether the frame program of a slot's job may begin: no window is open, no urgent item runs, and no capture is
under way. -/
def Slot.canStart (x : Slot) : Bool :=
  (x.job.state == .running || x.job.state == .stopping) && !x.fr.windowOpen && x.urgent.isNone && !x.fr.faultFlag &&
    (match x.ckpt with
     | some k => k.captured && !k.final
     | none => true)

/-- Begins the frame program on every idle pump of the job whose polder is ON. -/
def State.startPumps (s : State) (c : Chan) (j : SlotIx) : State :=
  if (s.slot c j).canStart then
    s.each ((s.chan c).pumpsOf j) fun t p =>
      if (t.pump c p).run = .idle ∧ (t.polder c (polderOf p)).dom = .on then t.onPump c p fun q => q.start q.entry
      else t
  else s

/-! ### The end of a job (R373, R390, R420, R479) -/

/-- A pump of a polder that has gone OFF: its program and code memories are lost (R420); its slice is cleared (R233). -/
def Pump.off (_q : Pump) : Pump := Pump.reset

/-- The urgent holds of a job's window end (R278). -/
def State.endHold (s : State) (c : Chan) (j : SlotIx) : State :=
  s.onChan c fun h => { h with arbs := h.arbs.map fun a => { a with hold := a.hold.filter (· != j) } }

/-- Releases what a slot's job holds in a channel: polders, reserves, ports, trees, held entries, the slot's committed
values (R373, R479). A pump of its polders that waits for map-out has its reset now (R406). -/
def State.freeSlot (s : State) (c : Chan) (j : SlotIx) : State :=
  let h := s.chan c
  let x := h.slots[j.val]
  let s1 := s.each (h.pumpsOf j) fun t p => t.onPump c p Pump.off
  let s2 := s1.each (List.finRange 16) fun t p => t.onPolder c p fun q =>
    { q with dom := if x.job.polders.getLsbD p.val then .off else q.dom,
             reserve := if q.reserve = some j then none else q.reserve }
  let mapout := (List.finRange 16).any fun p => x.job.polders.getLsbD p.val && h.polders[p.val].repair.any (·.mapoutPending)
  let s3 := if mapout then s2.onSt c fun y => { y with resetWanted := if y.resetWanted = some 2 then some 2 else some 1 } else s2
  s3.onChan c fun y => { y with
    slots := upd y.slots j fun z => { z with
      regs := { z.regs with set := SlotSet.reset, ckptBusy := false },
      stg := { z.stg with set := SlotSet.reset, state := .clean }, job := SlotJob.reset, fr := SlotFrame.reset,
      inputs := [], urgents := [], ckpt := none, ckptAsked := false, stopAsked := none },
    ports := y.ports.map fun q => { q with
      owner := if q.owner = some j then none else q.owner,
      table := if q.owner = some j then [] else q.table,
      cursor := if q.owner = some j then 0 else q.cursor, users := q.users.filter (· != j) },
    router := { y.router with
      trees := y.router.trees.filter fun e => e.2.slot != some j,
      store := y.router.store.filter fun e => match y.router.trees.look e.tree.toNat with
        | some t => t.slot != some j
        | none => true },
    claims := y.claims.filter fun x => x.2.1 != .slot j || !x.2.2,
    held := y.held.filter (·.slot != j), atoms := y.atoms.filter (·.slot != j), decls := y.decls.filter (·.slot != j),
    fills := y.fills.filter (·.slot != j), arbs := y.arbs.map fun a => { a with reqs := a.reqs.filter (·.slot != some j), hold := a.hold.filter (· != j) },
    reg := { y.reg with held := y.reg.held.filter (·.2.slot != some j) } }

/-- Index of a route set. -/
def setIx (k : BitVec 2) : Fin 4 := ⟨k.toNat, by have := k.isLt; omega⟩

/-- The route entries of a job that no other admitted job uses return to unreachable (R319, R342). -/
def State.dropRoutes (s : State) (key : Nat) : State :=
  match s.mc.jobs.look key with
  | none => s
  | some jb =>
    let others := (s.mc.jobs.filter fun e => e.1 != key && e.2.rset == jb.rset).flatMap fun e => e.2.routes
    s.each (jb.routes.filter fun r => !others.any fun o => o.1 == r.1 && o.2.1 == r.2.1) fun t r =>
      match t.localChan r.1 with
      | some c =>
        let held := (t.chan c).claims.any fun x => x.1 != jb.claim && x.2.1 == .route jb.rset r.2.1
        if held then t else t.onChan c fun h => { h with router := { h.router with
          routes := upd h.router.routes (setIx jb.rset) fun m => m.drop1 r.2.1.toNat } }
      | none => t

/-- Whether a claim is one of buddy space. -/
def isBuddy : Resource → Bool
  | .buddy _ => true
  | _ => false

/-- The claims of an attempt end, those of buddy space unless it stays. -/
def Channel.endClaims (h : Channel) (who : ClaimId) (keep : Bool) : Channel :=
  { h with claims := h.claims.filter fun x => x.1 != who || (keep && isBuddy x.2.1) }

/-- Tells the other modules on which a job stands that its claims end. -/
def State.tellRelease (s : State) (jb : Job) (who : ClaimId) (keep : Bool) : State :=
  let as : List ChanAddr := jb.routes.map (fun (r : ChanAddr × ChanAddr × BitVec 4) => r.1) ++
    jb.place.map (fun (b : Nat × ChanAddr × BitVec 16) => b.2.1)
  match s.localChan jb.lead with
  | some c => s.each (as.dedup.filter fun a => (s.localChan a).isNone) fun t a => t.sendMgmt c a (.release who keep)
  | none => s

/-- Releases what a job holds on every channel but the checkpoint space: its slots, trees, routes and their claims (R350). -/
def State.release (s : State) (ctx job : Nat) : State :=
  let trees : List (BitVec 12) := ((s.localSlots ctx job).map fun e => (s.slot e.1 e.2).job.tree) ++
    (match s.job ctx job with | some jb => jb.trees | none => [])
  let s1 := (s.each (s.localSlots ctx job) fun t e => t.freeSlot e.1 e.2).dropRoutes (jobKey ctx job)
  let s2 : State := { s1 with ch := s1.ch.map fun h => { h with
    ports := h.ports.map fun p => { p with through := p.through.filter fun x => x.ctx != ctx || x.job != job },
    router := { h.router with trees := h.router.trees.filter fun e => !trees.any fun n => n.toNat == e.1 } } }
  let s3 := match s.job ctx job with
    | some jb => ({ s2 with ch := s2.ch.map fun h => Channel.endClaims h jb.claim true } : State).tellRelease jb jb.claim true
    | none => s2
  s3.each (List.finRange 8) State.mapSync

/-- Ends claims that placement confirmed for a job: buddy space here, and whatever other modules hold for them. -/
def State.releaseBuddies (s : State) (jb : Job) (who : ClaimId) : State :=
  ({ s with ch := s.ch.map fun h => h.endClaims who false } : State).tellRelease jb who false

/-- Completes every urgent item of a slot that has not completed. -/
def State.endUrgents (s : State) (c : Chan) (j : SlotIx) (status : Nat) : State :=
  let us := (s.slot c j).urgents
  ((s.onSlot c j fun x => { x with urgents := [] }).endHold c j).each us fun t u => t.complete u.hdr status 0

/-- A forced self-test completes once its test has ended and no job waits to be admitted again (R383). -/
def State.endForced (s : State) (h : Hdr) (c : Chan) : State :=
  let f := s.mc.firm
  if (s.mc.jobs.any fun e => e.2.forced == some (h, c)) || (f.testQ.any fun e => e.2.2 == some h) ||
      (f.testing.any fun e => e.2.2 == some h) then s
  else s.complete h stSuccess (f.selftest[c.val]).toNat

/-- Removes a job: its waiting commands complete with JOB_STATE, a pending commit is abandoned, its resources and
bound memory are free, its pinned allocations end (R373, R44, R361). A context that waits for its last job ends (R380). -/
def State.removeJob (s : State) (ctx job : Nat) : State :=
  match s.job ctx job with
  | none => s.release ctx job
  | some jb =>
    let s1 := s.each (s.localSlots ctx job) fun t e => (t.abandonCommit e.1 e.2).endUrgents e.1 e.2 stJobState
    let s2 := s1.each (jb.ckptCmds ++ jb.ckptNext ++ jb.checkCmds ++ jb.copies.map (·.hdr) ++ (jb.stopCmd.toList.map (·.1))) fun t h => t.complete h stJobState 0
    let s3 := ((((s2.unreserve ctx jb.image).release ctx job).releaseBuddies jb jb.claim).each jb.oldClaim.toList fun t k =>
      t.releaseBuddies jb k).onMc fun m => { m with jobs := m.jobs.drop1 (jobKey ctx job) }
    let s4 := ((s3.unbind ctx job).endPinned ctx job).endCtx ctx
    match jb.forced with
    | some (h, c) => s4.endForced h c
    | none => s4

/-! ### The tick (Table 2.2) -/

/-- Time by which a frame exceeded its period (R37). -/
def stretchNs (now tick periodUs : Nat) : Nat := (now - tick) - periodUs * 1000

/-- Counts a stretched frame (R39). -/
def SlotRegs.stretched (r : SlotRegs) (ns : Nat) : SlotRegs :=
  if ns = 0 then r else { r with ovrFrames := sat32 r.ovrFrames 1, ovrMaxNs := max r.ovrMaxNs (min ns (2 ^ 32 - 1)) }

/-- The live bandwidth counters of one set copied to the snapshot and cleared (R285). -/
def Regul.snapshot (r : Regul) (i : Fin 17) : Regul :=
  { r with snap := r.snap.set i.val r.bw[i.val], bw := r.bw.set i.val (Vector.replicate 7 (0, 0)) }

/-- Step 4 of Table 2.2 for a slot: set 16 goes with slot 0. -/
def Regul.tick (r : Regul) (j : SlotIx) : Regul :=
  let r1 := r.snapshot ⟨j.val, by omega⟩
  if j.val = 0 then r1.snapshot 16 else r1

/-- A slice at the tick that starts frame f: echoes and the shadows that no waiting entry needs are free, the plane of
frame f is clear, and the other plane is to be cleared (R219, R222). -/
def Slice.tick (sl : Slice) (f : Nat) (wanted : Nat → Bool) : Slice :=
  { sl with
    echoes := [], streamed := [], shadows := sl.shadows.filter fun e => wanted e.1,
    marks := if f % 2 = 0 then #v[[], sl.marks[1]] else #v[sl.marks[0], []], oldMarks := true }

/-- The frame that begins. Notices of later frames and a fault raised after the report stay. -/
def SlotFrame.next (fr : SlotFrame) (now f : Nat) : SlotFrame :=
  { SlotFrame.reset with
    tickNs := now, issueNs := fr.issueNs, notices := fr.notices.filter fun e => f < e.2,
    faultFlag := fr.faultFlag && (match fr.own with | some r => !r.fault | none => true),
    faultSeen := fr.faultSeen }

/-- Largest held share in use among a job's slices (HELD_PEAK). -/
def State.heldPeak (s : State) (c : Chan) (j : SlotIx) : Nat :=
  (((s.chan c).pumpsOf j).map (s.heldUse c)).foldl max 0

/-- The frames at whose tick a checkpoint is due (R391). -/
def Slot.ckptDue (x : Slot) (first : Bool) (f : Nat) : Bool :=
  first || (x.regs.set.interval != 0 && f != 0 && f % x.regs.set.interval == 0)

/-- Starts a checkpoint that is due or asked for, or skips a periodic one (R391). A tick that carries COMMIT is no stopping tick: a
STOP with CKPT that came after its issue acts at the next (R44). -/
def State.ckptStart (s : State) (c : Chan) (j : SlotIx) (first busy commit : Bool) (f : Nat) : State :=
  let x := s.slot c j
  let stops := x.stopAsked == some true && !commit
  let asked := x.ckptAsked || stops
  let due := x.ckptDue first f
  if busy then
    if due then
      (s.event c 0x10 (some j) 0 (detail [(0, 8, f), (8, 1, 1)])).onRegs c j fun r =>
        { r with ckptSkipped := sat8 r.ckptSkipped 1 }
    else s
  else if asked || due then
    s.onSlot c j fun y => { y with
      ckptAsked := false, regs := { y.regs with ckptBusy := true },
      ckpt := some { chan := s.addrOf c, frame := f, final := stops, captured := false, pinned := [],
                     hbm := [], config := y.regs.set,
                     pwr := x.pds.map fun p => ((s.polder c p).slotMode, (s.polder c p).upUs) } }
  else s

/-- Slots of a job on this module that hold no polder: its non-member homes. The spec has no tick reach them; they follow the
tick of the master (log entry 39). -/
def State.homeSlots (s : State) (c : Chan) (j : SlotIx) : List (Chan × SlotIx) :=
  let x := (s.slot c j).job
  if x.lead || x.acting then (s.localSlots x.ctx x.job).filter fun e => (s.slot e.1 e.2).job.polders == 0 else []

/-- A frame begins at a non-member home: what was held for the one before is due, and its checkpoint starts (R392). -/
def State.homeTick (s : State) (c : Chan) (j : SlotIx) (first busy commit : Bool) (f : Nat) : State :=
  let peak := (s.reserveUse c j).1
  (s.onSlot c j fun y => { y with
    regs := { y.regs with frame := f, cnt := upd y.regs.cnt 3 (max peak) }, job := { y.job with state := .running },
    fr := y.fr.next s.timeNs f, inputs := y.inputs.filter fun i => decide (f < i.frame) }).ckptStart c j first busy commit f

/-- What a halt does at a non-member home: the work of frame f is discarded. -/
def State.homeHalt (s : State) (c : Chan) (j : SlotIx) (f : Nat) : State :=
  (s.onChan c fun h => { h with
    held := h.held.filter fun q => !(q.slot == j && q.frame == f),
    atoms := h.atoms.filter fun q => !(q.slot == j && q.frame == f),
    decls := h.decls.filter fun q => !(q.slot == j && q.frame == f) }).onSlot c j fun y =>
      { y with job := { y.job with state := .halted }, ckpt := none, regs := { y.regs with ckptBusy := false } }

/-- The homes of other modules hear of a tick or a halt from the tick master, as a management record (log entry 39). -/
def State.tellHomes (s : State) (c : Chan) (j : SlotIx) (f : Nat) (halt : Bool) : State :=
  let x := (s.slot c j).job
  match s.job x.ctx x.job with
  | none => s
  | some jb =>
    if x.lead || x.acting then
      s.each (x.nonMembers.filter fun a => (s.localChan a).isNone) fun t a =>
        match jb.slots.find? fun e => e.1 == a with
        | some (_, i) => t.sendMgmt c a (.homeTick i f halt)
        | none => t
    else s

/-- A frame begins at the non-member homes of a master's job. -/
def State.homesTick (s : State) (c : Chan) (j : SlotIx) (first busy commit : Bool) (f : Nat) : State :=
  (s.each (s.homeSlots c j) fun t e => t.homeTick e.1 e.2 first busy commit f).tellHomes c j f false

/-- A tick or a halt of the master of another module reaches a home (log entry 39). -/
def State.homeHears (s : State) (c : Chan) (j : SlotIx) (f : Nat) (halt : Bool) : State :=
  let x := (s.slot c j).job
  if x.state = .free ∨ x.polders ≠ 0 then s
  else if halt then s.homeHalt c j f
  else
    let first := x.state == .admitting || x.state == .restoring
    s.homeTick c j first (s.ckptBusy c j f) false f

/-- The tick takes effect at a channel for a slot's job (Table 2.2). -/
def State.tickEffect (s : State) (c : Chan) (j : SlotIx) (commit : Bool) : State :=
  let x := s.slot c j
  let first := x.job.state == .admitting || x.job.state == .restoring
  let f := if first then x.regs.frame else (x.regs.frame + 1) % 2 ^ 64
  let now := s.timeNs
  let peak := s.heldPeak c j
  let busy := s.ckptBusy c j f
  let late := if first || x.job.lead then 0 else stretchNs now x.fr.tickNs x.regs.set.periodUs
  let opens := decide (x.regs.windowUs ≠ 0) && decide (f % 2 ^ x.regs.windowLog2 = 0)
  let s1 := s.onSlot c j fun y => { y with
    regs := { y.regs.stretched late with frame := f, cnt := upd y.regs.cnt 3 (max peak) },
    job := { y.job with state := if first then .running else y.job.state },
    fr := { y.fr.next now f with windowOpen := opens, windowNs := now },
    inputs := y.inputs.filter fun i => decide (f < i.frame),
    urgents := y.urgents.map fun u => if opens then { u with eligible := true } else u }
  let s2 := if commit then (let a := s1.applyCommit c j
    if x.job.lead then a.endCommit c j 0 else a) else s1
  let s3 := s2.each ((s2.chan c).pumpsOf j) fun t p =>
    let wanted := fun (g : Nat) => (t.chan c).held.any fun e => offKey e.off == sliceKey p g && e.slot == j
    (t.onPump c p fun q => { q.tick with slice := q.slice.tick f wanted }).onPolder c (polderOf p)
      fun q => q.teStat p (t.pump c p).te
  let s4 := s3.onChan c fun h => { h with
    reg := h.reg.tick j,
    ports := h.ports.map fun q => if q.owner = some j then { q with cursor := 0, left := 0, eqNs := 0 } else q }
  let s5 := (s4.ckptStart c j first busy commit f).homesTick c j first busy commit f
  if (s5.slot c j).fr.faultFlag then s5.stopMember c j else s5.startPumps c j

/-- Whether every frame-bound input of a frame is held at this home (R56). -/
def Slot.inputsHeld (x : Slot) (frame : Nat) : Bool := x.inputs.all fun i => i.frame != frame || i.complete

/-- The inputs that an image binds to a frame at a home (R56). -/
def boundAt (im : JobImage) (a : ChanAddr) (frame : Nat) : List Nat :=
  (im.inputs.filter fun d => d.period != 0 && frame % d.period == d.phase &&
    d.homes.any fun h => h.1 == a && h.2 != 0).map (·.number)

/-- Whether a home holds its part of every input bound to a frame. -/
def State.inputsReady (s : State) (c : Chan) (j : SlotIx) (frame : Nat) : Bool :=
  let x := s.slot c j
  (match s.job x.job.ctx x.job.job with
   | some jb => (boundAt jb.image (s.addrOf c) frame).all fun n =>
       x.inputs.any fun i => i.number == n && i.frame == frame && i.complete
   | none => true) && x.inputsHeld frame

/-- The frame whose beginning the next tick of a slot is. -/
def Slot.nextFrame (x : Slot) : Nat :=
  if x.job.state = .admitting ∨ x.job.state = .restoring then x.regs.frame else x.regs.frame + 1

/-- Whether the tick master holds a notice of every non-member home with a part of an input of the next frame
(R56). The checkpoint of a restart holds the inputs of its frame (R397). -/
def State.noticesIn (s : State) (c : Chan) (j : SlotIx) : Bool :=
  let x := s.slot c j
  match s.job x.job.ctx x.job.job with
  | some jb => x.job.nonMembers.all fun a =>
      x.job.state == .restoring || (boundAt jb.image a x.nextFrame).isEmpty || x.fr.notices.contains (a, x.nextFrame)
  | none => true

/-- Whether a job's placement is written and its restore, if any, is complete: its first tick may come (R347, R396). -/
def State.settled (s : State) (ctx job : Nat) : Bool :=
  (match s.mc.fab.placing with | some p => p.ctx != ctx || p.job != job | none => true) &&
    (match s.job ctx job with | some jb => jb.restore.isNone | none => true)

/-- Whether everything of a frame has ended at a member (R30, R214, R223, R329, R56). -/
def State.frameOver (s : State) (c : Chan) (j : SlotIx) : Bool :=
  let h := s.chan c
  let x := h.slots[j.val]
  let ps := h.pumpsOf j
  match x.job.state with
  | .running | .stopping =>
    (ps.all fun p => (h.pumps[p.val]).run == .reported && (h.pumps[p.val]).xfers.isEmpty) &&
      (h.fills.all fun e => e.slot != j && ps.all fun p => !e.mask.contains p && !e.stream.contains p) &&
      (h.held.all fun e => e.slot != j || !s.due c e.slot e.frame) &&
      (h.atoms.all fun e => e.slot != j || !s.due c e.slot e.frame) &&
      (h.decls.all fun e => e.slot != j || !s.due c e.slot e.frame) && s.collsOver c j && s.inputsReady c j x.nextFrame
  | .admitting | .restoring =>
    s.settled x.job.ctx x.job.job && (ps.all fun p => !(h.pumps[p.val]).slice.clearing && (h.polders[(polderOf p).val]).dom == .on) &&
      (x.job.state == .restoring || s.inputsReady c j x.nextFrame)
  | _ => false

/-! ### Late time (R38) -/

/-- The latest-finishing pump of a job in a channel. -/
def State.latePump (s : State) (c : Chan) (j : SlotIx) : Option PumpIx :=
  ((s.chan c).pumpsOf j).foldl (fun w p => match w with
    | some q => if (s.pump c q).doneNs < (s.pump c p).doneNs then some p else some q
    | none => some p) none

/-- What held back the latest-finishing pump, by cause: its own waits, the job's on ports and behind its window, and for HOST the
time from its end to the last part of a bound input of the next frame (R38, R56). -/
def State.heldBack (s : State) (c : Chan) (j : SlotIx) : Vector Nat 7 :=
  let x := s.slot c j
  let q := (s.latePump c j).map (s.pump c)
  let host := x.fr.inputNs - max x.fr.tickNs (q.elim 0 (·.doneNs))
  Vector.ofFn fun i : Fin 7 => x.fr.waits[i.val] + (q.elim 0 fun p => p.waits[i.val]) + (if i.val = 5 then host else 0)

/-- Shares of a late time: the measured waits of causes 1 to 6 in index order, what is left to WORK (log entry 27). -/
def lateShares (late : Nat) (waits : Vector Nat 7) : List Nat :=
  let r := (waits.toList.drop 1).foldl (fun (acc : Nat × List Nat) w => (acc.1 - min w acc.1, acc.2 ++ [min w acc.1])) (late, [])
  r.1 :: r.2

/-- The cause with the largest share; of equal ones the lowest index. -/
def dominant (shares : List Nat) : Fin 7 :=
  let m := shares.foldl max 0
  let i := (shares.findIdx? (· == m)).getD 0
  if h : i < 7 then ⟨i, h⟩ else 0

/-- A channel reports frame done (R30, R38). A Strict job that has read a dead block, or that owns a granule found
uncorrectable, or that CUTOFF_FAULT names, faults here (R228, R257, R282). -/
def execChannelFrameDone (c : Chan) (j : SlotIx) (s : State) : Res :=
  let x := s.slot c j
  if x.live ∧ x.job.polders ≠ 0 ∧ x.fr.own.isNone ∧ s.frameOver c j then
    if x.fr.deadFault then .next (s.fault c j .deadRead .none 0 0)
    else if h : x.fr.cutFault.isSome then
      let port := x.fr.cutFault.get h
      .next (s.fault c j .arbCutoff (if port < 128 then .hbm else .port) (if port < 128 then port else port - 128) 0)
    else if h : x.fr.ueFault.isSome then
      let u := x.fr.ueFault.get h
      .next (s.fault c j .dataUe (if u.1 = 2 then .slice else .hbm) u.2.1 u.2.2)
    else
      let started := x.job.state == .running || x.job.state == .stopping
      let late := if started then s.timeNs - x.fr.tickNs - x.job.nominalNs else 0
      let sh := lateShares late (s.heldBack c j)
      let s1 := s.onRegs c j fun r => { r with
        ovrCause := Vector.ofFn fun i : Fin 7 => sat64 r.ovrCause[i.val] (sh.getD i.val 0) }
      .next (s1.report c j false (dominant sh) late)
  else .next s

/-- A node that is no member combines its children's reports only (R324). -/
def joinOnly : List (PortIx × Report) → Option Report
  | [] => none
  | e :: es => some (joinReports e.2 es)

/-- The children of a tree node: the ports of its mask but the parent's. -/
def Tree.kids (t : Tree) : List PortIx :=
  (List.finRange 12).filter fun p => t.mask.getLsbD p.val && t.parent != some p

/-- What a node remembers of a tree once it has forwarded a halt. -/
def State.treeHalt (s : State) (c : Chan) (tree : BitVec 12) : State :=
  s.onChan c fun h => { h with router := { h.router with
    trees := h.router.trees.alter tree.toNat fun t => { t with halt := true, reports := [] } } }

/-- A node that has lost its parent port halts the fragment below it (R331). -/
def State.haltBelow (s : State) (c : Chan) (tree : BitVec 12) : State :=
  match (s.chan c).router.trees.look tree.toNat with
  | some t => s.each t.kids (fun u p => u.marker c p (.halt tree 0)) |>.treeHalt c tree
  | none => s

/-- A DONE marker (R31, R34, R324): a later copy is ignored until the node forwards a tick (Table 11.7). -/
def execDoneMarker (c : Chan) (port : PortIx) (tree : BitVec 12) (r : Report) (s : State) : Res :=
  match (s.chan c).router.trees.look tree.toNat with
  | none => .next s
  | some t =>
    match t.slot with
    | some j =>
      let x := s.slot c j
      if x.job.children.contains port && !x.fr.reports.any fun e => e.1 == port then
        let s1 := s.onFr c j fun f => { f with reports := f.reports ++ [(port, r)] }
        if x.job.polders = 0 ∧ !x.job.lead then
          let rs := x.fr.reports ++ [(port, r)]
          match (if x.job.children.all fun p => rs.any fun e => e.1 == p then joinOnly rs else none), x.job.parent with
          | some u, some up => .next ((s1.onFr c j fun f => { f with own := some u, combined := some u }).marker c up (.done tree u))
          | _, _ => .next s1
        else .next (s1.tryForward c j)
      else .next s
    | none =>
      if t.kids.contains port && !t.reports.any fun e => e.1 == port then
        let rs := t.reports ++ [(port, r)]
        let s1 := s.onChan c fun h => { h with router := { h.router with
          trees := h.router.trees.alter tree.toNat fun y => { y with reports := rs } } }
        match (if t.kids.all fun p => rs.any fun e => e.1 == p then joinOnly rs else none), t.parent with
        | some u, some up => .next (s1.marker c up (.done tree u))
        | some _, none => .next (s1.haltBelow c tree)
        | _, _ => .next s1
      else .next s

/-! ### Issuing ticks -/

/-- What a node remembers of a tree is fresh once it forwards a tick. -/
def State.treeTick (s : State) (c : Chan) (tree : BitVec 12) (frame : BitVec 8) : State :=
  s.onChan c fun h => { h with router := { h.router with
    trees := h.router.trees.alter tree.toNat fun t =>
      { t with lastTick := some frame, halt := false, faults := [], reports := [] } } }

/-- The last frame of a job, if its image declares one. -/
def State.lastFrame (s : State) (c : Chan) (j : SlotIx) : Option Nat :=
  let x := (s.slot c j).job
  (s.job x.ctx x.job).bind fun jb => jb.image.lastFrame

/-- STOP without CKPT, or the last declared frame, ends the job at this fence (R373, R375). -/
def State.endsHere (s : State) (c : Chan) (j : SlotIx) : Bool :=
  let x := s.slot c j
  let started := x.job.state == .running || x.job.state == .stopping
  started && (x.stopAsked == some false || s.lastFrame c j == some x.regs.frame)

/-- Ends a job at a fence: the ENDED event for the last declared frame, the waiting STOP's completion, removal. -/
def State.endJob (s : State) (c : Chan) (j : SlotIx) : State :=
  let x := s.slot c j
  let s1 := if s.lastFrame c j = some x.regs.frame then s.jobEvent x.job.ctx x.job.job 4 stSuccess 0 x.regs.frame else s
  let s2 := match (s.job x.job.ctx x.job.job).bind (·.stopCmd) with
    | some (h, _) => (s1.complete h stSuccess x.regs.frame).onJob x.job.ctx x.job.job fun y => { y with stopCmd := none }
    | none => s1
  s2.removeJob x.job.ctx x.job.job

/-- Whether the fence of a frame is met at the tick master (R31, R56). -/
def State.fenceMet (s : State) (c : Chan) (j : SlotIx) : Bool :=
  let x := s.slot c j
  x.live && (x.job.lead || x.job.acting) && x.job.state != .halted && x.fr.combined.isSome && s.noticesIn c j

/-- What a member does that hears of a fault of its job: the tick master records a reporter that is no member in FLT_REC
(R386), and the member stops (R331). -/
def State.heardFault (s : State) (c : Chan) (j : SlotIx) (cause : BitVec 8) (reporter : ChanAddr) : State :=
  let x := s.slot c j
  let s1 := s.onFr c j fun f => { f with faultSeen := f.faultSeen ++ [(reporter, cause)] }
  let s2 := if (x.job.lead || x.job.acting) && !x.job.members.contains reporter then
      s1.onRegs c j fun r => { r with flt := r.flt.take cause.toNat UnitKind.remote.code reporter.toNat x.regs.frame }
    else s1
  s2.stopMember c j

/-- A FAULT that reached the tick master over set 0: it floods the tree (R330). -/
def State.mgmtFault (s : State) (c : Chan) (j : SlotIx) (cause : BitVec 8) (src : ChanAddr) : State :=
  let x := s.slot c j
  if x.live ∧ x.job.state ≠ .halted then
    (s.each x.job.treePorts fun t p => t.marker c p (.fault x.job.tree cause src)).heardFault c j cause src
  else s

/-- The cause with which a home faults at its job's next fence: one that it has raised, a Strict job's read of a dead block, a granule
found uncorrectable (R228, R257). -/
def SlotFrame.homeCause (f : SlotFrame) : Option (BitVec 8) :=
  match f.faultSeen with
  | e :: _ => some e.2
  | [] => if f.deadFault then some (BitVec.ofNat 8 Cause.deadRead.code)
          else if f.ueFault.isSome then some (BitVec.ofNat 8 Cause.dataUe.code) else none

/-- A home takes the fault that waits for its fence. -/
def State.homeFault (s : State) (c : Chan) (j : SlotIx) : State :=
  let f := (s.slot c j).fr
  if !f.faultSeen.isEmpty then s
  else if f.deadFault then s.fault c j .deadRead .none 0 0
  else match f.ueFault with
  | some u => s.fault c j .dataUe (if u.1 = 2 then .slice else .hbm) u.2.1 u.2.2
  | none => s

/-- The first home of a master's job on this module that has a fault to tell. -/
def State.homeTrouble (s : State) (c : Chan) (j : SlotIx) : Option (Chan × SlotIx × BitVec 8) :=
  (s.homeSlots c j).findSome? fun e => (s.slot e.1 e.2).fr.homeCause.map fun k => (e.1, e.2, k)

/-- When a frame that a master ends may end at the earliest: P after its tick was issued, and F after the last report of this module
less the time that the tick takes to act (R31, R32, R36). -/
def State.frameEnd (s : State) (c : Chan) (j : SlotIx) : Nat :=
  let x := s.slot c j
  let last := ((s.localSlots x.job.ctx x.job.job).map fun e => (s.slot e.1 e.2).fr.ownNs).foldl max x.fr.ownNs
  max (x.fr.issueNs + x.regs.set.periodUs * 1000) (last + fenceNs x.job.depth - x.regs.dmax / 4)

/-- The tick master issues the next tick (R31, R36, R37, R39, R62). A home's fault halts the job at this fence instead. -/
def execTickIssue (c : Chan) (j : SlotIx) (s0 : State) : Res :=
  let x := s0.slot c j
  match x.fr.combined with
  | none => .next s0
  | some r =>
    if s0.fenceMet c j ∧ x.fr.pend.isNone ∧ !r.fault ∧ !x.job.acting then
      match s0.homeTrouble c j with
      | some (d, i, k) => .next ((s0.homeFault d i).mgmtFault c j k (s0.addrOf d))
      | none =>
      let first := x.job.state == .admitting || x.job.state == .restoring
      let s := if first then s0 else s0.until (s0.frameEnd c j)
      let st := if first then 0 else stretchNs s.timeNs x.fr.issueNs x.regs.set.periodUs
      let s1 := if st = 0 then s
        else (s.event c 0x03 (some j) 0 (detail [(0, 8, x.regs.frame), (8, 4, min st (2 ^ 32 - 1)), (12, 2, r.lateCh.toNat),
          (14, 1, r.cause.val)])).onRegs c j fun g => g.stretched st
      if s1.endsHere c j then .next (s1.endJob c j)
      else
        let pending := x.stg.state == .commitPending && !x.stg.late && decide (x.stg.fences < 16)
        let commit := pending && r.checked && r.tag == x.stg.commitTag && x.stopAsked.isNone
        let s2 := s1.onStg c j fun g => { g with late := false, fences := if pending then g.fences + 1 else g.fences }
        let frame := BitVec.ofNat 8 x.nextFrame
        let s3 := ((s2.treeTick c x.job.tree frame).onFr c j fun f => { f with issueNs := s.timeNs }).each x.job.children
          fun t p => t.marker c p (.tick x.job.tree commit frame 0)
        let s4 := s3.onFr c j fun f => { f with pend := some ⟨commit, 0, s.timeNs⟩ }
        .next (s4.onRegs c j fun g => { g with path := 0 })
    else .next s0

/-- The equalising delay DMAX - path expires and the tick takes effect (R33, R322; times in 0.25 ns). -/
def execTickTakesEffect (c : Chan) (j : SlotIx) (s : State) : Res :=
  let x := s.slot c j
  match x.fr.pend with
  | some p =>
    if x.live ∧ x.job.state ≠ .halted then .next ((s.until (p.ns + (x.regs.dmax - p.path) / 4)).tickEffect c j p.commit)
    else .next s
  | none => .next s

/-- A TICK marker at a node (R321-R323). The first copy acts (Table 11.7). -/
def execTickMarker (c : Chan) (port : PortIx) (tree : BitVec 12) (commit : Bool) (copy : BitVec 2) (frame : BitVec 8)
    (acc : BitVec 20) (s : State) : Res :=
  match (s.chan c).router.trees.look tree.toNat with
  | none => .next s
  | some t =>
    if t.lastTick = some frame ∨ 3 ≤ copy.toNat then .next s
    else
      let path := (acc.toNat + (s.port c port).latQns.toNat + Config.forwardQns) % 2 ^ 20
      let outs := (List.finRange 12).filter fun p => t.mask.getLsbD p.val && p != port
      let s1 := (s.treeTick c tree frame).each outs fun u p => u.marker c p (.tick tree commit frame path)
      match t.slot with
      | some j =>
        if t.deliver ∧ (s.slot c j).live then
          let dmax := (s.slot c j).regs.dmax
          let s2 := (s1.onRegs c j fun g => { g with path := path }).onFr c j fun f => { f with pend := some ⟨commit, path, s.timeNs⟩ }
          if dmax < path then
            .next (((s2.onRegs c j fun g => { g with skew := true, skewCount := sat16 g.skewCount 1 }).event c 0x0A (some j) 0
              (detail [(0, 4, path), (4, 4, dmax)])).tickEffect c j commit)
          else .next s2
        else .next s1
      | none => .next s1

/-- The local tick of a channel that hosts no job (R30, R62, R285). -/
def execLocalTick (c : Chan) (s0 : State) : Res :=
  if (s0.chan c).liveSlots.isEmpty then
    let x := s0.slot c 0
    let s := s0.until (x.fr.tickNs + x.regs.set.periodUs * 1000)
    let s1 := (s.onFr c 0 fun f => { f with tickNs := s.timeNs }).onChan c fun h => { h with reg := h.reg.snapshot 16 }
    .next (if x.stg.state = .commitPending then
        (s1.onStg c 0 fun g => { g with fences := sat8 g.fences 1 }).applyCommit c 0
      else s1)
  else .next s0

/-! ### Halts (R42-R44, R224, R331, R398) -/

/-- What a halt does at a member: it stops, the work of the frame is discarded, the staging bank is lost, urgent items
and bound inputs end with JOB_FAULTED. -/
def State.haltEffect (s : State) (c : Chan) (j : SlotIx) : State :=
  let x := s.slot c j
  let f := x.regs.frame
  let cause := match x.fr.faultSeen with | e :: _ => e.2 | [] => x.regs.flt.cause
  let s1 := (s.event c 0x02 (some j) 0 (detail [(0, 8, f), (8, 2, x.job.master.toNat)])).stopPumps c j
  let s2 := s1.each ((s1.chan c).pumpsOf j) fun t p => t.onSlice c p fun sl =>
    { sl with echoes := [], shadows := sl.shadows.filter fun e => e.2.frame != f }
  let s3 := s2.onChan c fun h => { h with
    held := h.held.filter fun e => !(e.slot == j && e.frame == f),
    atoms := h.atoms.filter fun e => !(e.slot == j && e.frame == f),
    decls := h.decls.filter fun e => !(e.slot == j && e.frame == f),
    fills := h.fills.filter fun e => e.slot != j }
  let s4 := ((s3.abandonCommit c j).revertBank c j).endUrgents c j stJobFaulted
  let s5 := s4.onSlot c j fun y => { y with
    job := { y.job with state := .halted }, ckpt := none, regs := { y.regs with ckptBusy := false },
    fr := { y.fr with pend := none, windowOpen := false, combined := none, own := none, reports := [],
                      faultFlag := false } }
  let s5 := (s5.each (s.homeSlots c j) fun t e => t.homeHalt e.1 e.2 f).tellHomes c j f true
  let s5 := s5.settleChecks x.job.ctx x.job.job
  match s5.job x.job.ctx x.job.job with
  | none => s5
  | some jb =>
    let s6 := (s5.onJob x.job.ctx x.job.job fun y => { y with copies := [] }).each jb.copies fun t k =>
      t.complete k.hdr stJobFaulted 0
    if jb.halted then s6
    else s6.onJob x.job.ctx x.job.job fun y => { y with
      halted := true, haltFrame := f, haltCause := cause, halts := y.halts + 1,
      ckptCmds := y.ckptCmds ++ y.ckptNext, ckptNext := [] }

/-- The master sends HALT on every port of the tree and halts itself (R42, R322). -/
def State.issueHalt (s : State) (c : Chan) (j : SlotIx) : State :=
  let x := s.slot c j
  ((s.treeHalt c x.job.tree).each x.job.treePorts fun t p => t.marker c p (.halt x.job.tree 0)).haltEffect c j

/-- At a fence whose combined fault flag is set, the master issues the halt tick at once (R42). -/
def execHaltTickIssue (c : Chan) (j : SlotIx) (s : State) : Res :=
  let x := s.slot c j
  match x.fr.combined with
  | some r => onlyIf (x.live && (x.job.lead || x.job.acting) && x.job.state != .halted && (r.fault || x.job.acting)) s
      (s.issueHalt c j)
  | none => .next s

/-- A HALT marker at a node (R42, R321). -/
def execHaltMarker (c : Chan) (port : PortIx) (tree : BitVec 12) (copy : BitVec 2) (acc : BitVec 20) (s : State) : Res :=
  match (s.chan c).router.trees.look tree.toNat with
  | none => .next s
  | some t =>
    if t.halt ∨ 3 ≤ copy.toNat then .next s
    else
      let path := (acc.toNat + (s.port c port).latQns.toNat + Config.forwardQns) % 2 ^ 20
      let outs := (List.finRange 12).filter fun p => t.mask.getLsbD p.val && p != port
      let s1 := (s.treeHalt c tree).each outs fun u p => u.marker c p (.halt tree path)
      match t.slot with
      | some j => onlyIf (t.deliver && (s.slot c j).live && (s.slot c j).job.state != .halted) s1 (s1.haltEffect c j)
      | none => .next s1

/-- The fence of a frame not met within WDOG_MS of its tick (R40). -/
def execWatchdogExpiry (c : Chan) (j : SlotIx) (s : State) : Res :=
  let x := s.slot c j
  let started := x.job.state == .running || x.job.state == .stopping
  onlyIf (x.live && x.job.lead && started && x.fr.pend.isNone && !s.fenceMet c j) s
    ((s.until (x.fr.tickNs + x.regs.set.wdogMs * 1000000)).fault c j .watchdog .none 0 0)

/-- No tick and no halt within WDOG_MS + 100 µs of the member's own last tick (R41). -/
def execTickLost (c : Chan) (j : SlotIx) (s : State) : Res :=
  let x := s.slot c j
  let started := x.job.state == .running || x.job.state == .stopping
  onlyIf (x.live && !x.job.lead && started && x.fr.pend.isNone && x.job.polders != 0) s
    ((s.until (x.fr.tickNs + x.regs.set.wdogMs * 1000000 + 100000)).fault c j .tickLost .none 0 0)

/-- Whether no channel of this module that stands earlier in the failover list still holds the job (R43). -/
def State.firstLive (s : State) (c : Chan) (j : SlotIx) : Bool :=
  let x := (s.slot c j).job
  let before := x.failover.takeWhile (· != s.addrOf c)
  x.failover.contains (s.addrOf c) && before.all fun a => match s.localChan a with
    | some d => ((s.chan d).slotOfJob x.ctx x.job).isNone
    | none => true

/-- Whether a member has learnt that its tick master may be lost: a LINK or TICK_LOST fault of its job (R43). -/
def SlotFrame.masterLost (f : SlotFrame) : Bool :=
  f.faultSeen.any fun e => e.2.toNat == Cause.link.code || e.2.toNat == Cause.tickLost.code

/-- The first live channel of the failover list becomes the acting master; it halts the job once it holds the reports
below it (R43). What lies beyond its parent port counts as the lost node, and the halt goes out there too (log entry 150). A job that
this module's Gnover knows has its lead here from then on. -/
def execFailoverTakeover (c : Chan) (j : SlotIx) (s : State) : Res :=
  let x := s.slot c j
  if x.live ∧ x.job.state ≠ .halted ∧ !x.job.lead ∧ x.fr.masterLost ∧ s.firstLive c j then
    let up := x.job.parent.toList
    let lost : Report := { fault := true, checked := false, tag := 0, cause := 1, late := 0, lateCh := x.job.master }
    let s1 := s.onSlot c j fun y => { y with
      job := { y.job with acting := true, master := s.addrOf c, parent := none, children := y.job.children ++ up },
      fr := { y.fr with reports := y.fr.reports ++ up.map fun p => (p, lost) } }
    let s2 := (s1.onJob x.job.ctx x.job.job fun y => { y with lead := s.addrOf c }).stopMember c j
    let s3 := s2.tryForward c j
    .next (if (s3.slot c j).fr.combined.isSome then s3.issueHalt c j else s3)
  else .next s

/-- A non-member home's notice reaches the tick master (R56): a wait after the combined report is the master's own
late time, attributed to HOST, and STRETCH then names the master. -/
def State.inputNotice (s : State) (c : Chan) (j : SlotIx) (fromCh : ChanAddr) (frame : Nat) : State :=
  let x := s.slot c j
  if x.live ∧ x.job.lead ∧ x.job.nonMembers.contains fromCh ∧ !x.fr.notices.contains (fromCh, frame) then
    let s1 := s.onFr c j fun f => { f with notices := f.notices ++ [(fromCh, frame)] }
    match x.fr.combined with
    | some r =>
      let wait := s.timeNs - x.fr.combNs
      if 0 < wait ∧ frame = x.nextFrame ∧ x.job.state ≠ .admitting ∧ x.job.state ≠ .restoring then
        (s1.onFr c j fun f => { f with
          combNs := s.timeNs,
          combined := some { r with late := max r.late (s.timeNs - x.fr.tickNs - x.job.nominalNs), cause := 5, lateCh := s.addrOf c } }).onRegs
            c j fun g => { g with ovrCause := upd g.ovrCause 5 (sat64 · wait) }
      else s1
    | none => s1
  else s

/-- INPUT_COMPLETE_NOTICE. -/
def execInputCompleteNotice (c : Chan) (j : SlotIx) (fromCh : BitVec 15) (frame : Nat) (s : State) : Res :=
  .next (s.inputNotice c j fromCh frame)

/-! ### The priority window (R45-R47, R377) -/

/-- The scheduled program begins once the window has closed; pump state is cleared again where an urgent item ran (R71;
log entry 26). -/
def State.afterWindow (s : State) (c : Chan) (j : SlotIx) : State :=
  let x := s.slot c j
  if x.canStart then
    (s.each ((s.chan c).pumpsOf j) fun t p => t.onPump c p Pump.tickClear).startPumps c j
  else s

/-- The window closes after W (R46). -/
def execWindowClose (c : Chan) (j : SlotIx) (s : State) : Res :=
  let x := s.slot c j
  if x.fr.windowOpen then
    .next (((s.until (x.fr.windowNs + x.regs.windowUs * 1000)).onFr c j fun f => { f with windowOpen := false }).afterWindow c j)
  else .next s

/-- The item that may start next: the first of the eligible ones in order whose length fits in what remains, none
behind a waiting item of its own well (R377). -/
def nextUrgent (room : Nat) : List UrgentItem → List Nat → Option UrgentItem
  | [], _ => none
  | u :: us, blocked =>
    if u.eligible ∧ !blocked.contains u.well ∧ u.lenUs * 1000 ≤ room then some u
    else nextUrgent room us (u.well :: blocked)

/-- First instruction of an urgent entry for a pump. -/
def State.urgentEntry (s : State) (c : Chan) (j : SlotIx) (p : PumpIx) (entry : BitVec 8) : Option Nat :=
  let x := (s.slot c j).job
  let q := s.pump c p
  (s.job x.ctx x.job).bind fun jb => (jb.image.vchans[q.vch]?).bind fun v =>
    (v.pumps.find? fun i => i.index == q.index).bind fun i => (i.urgents.find? fun e => e.1 == entry).map (·.2)

/-- An eligible urgent item starts in the window: one at a time (R377). -/
def execUrgentItemStart (c : Chan) (j : SlotIx) (s : State) : Res :=
  let x := s.slot c j
  let room := x.fr.windowNs + x.regs.windowUs * 1000 - s.timeNs
  let ready : Bool := match x.ckpt with | some k => k.captured | none => true
  if x.fr.windowOpen ∧ x.urgent.isNone ∧ !x.fr.faultFlag ∧ ready then
    match nextUrgent room x.urgents [] with
    | none => .next s
    | some u =>
      let s1 := s.onSlot c j fun y => { y with urgents := y.urgents.map fun z => if z = u then { z with running := true } else z }
      .next (s1.each ((s1.chan c).pumpsOf j) fun t p => t.onPump c p fun q => q.tickClear.start (s.urgentEntry c j p u.entry))
  else .next s

/-- A running urgent item completes once every pump has ended (R47): CONTEXT_FAULT where a write was dropped. The
urgent hold ends with the last item (R278). -/
def execUrgentItemComplete (c : Chan) (j : SlotIx) (s : State) : Res :=
  let x := s.slot c j
  match x.urgent with
  | none => .next s
  | some u =>
    if ((s.chan c).pumpsOf j).all fun p => (s.pump c p).run == .reported then
      let s1 := (s.onSlot c j fun y => { y with urgents := y.urgents.filter (· != u) }).complete u.hdr
        (if u.ctxFault then stContextFault else stSuccess) x.regs.frame
      let s2 := s1.each ((s1.chan c).pumpsOf j) fun t p => t.onPump c p Pump.tickClear
      let close := x.fr.windowNs + x.regs.windowUs * 1000
      let s3 := if x.fr.windowOpen then s2
        else s2.onFr c j fun f => { f with waits := upd f.waits 6 (· + (s.timeNs - close)) }
      .next ((s3.endHold c j).afterWindow c j)
    else .next s

end Sys2Proof.Machine
end

