-- ==== Sys2Proof/Machine/Service.lean ====
section
/-!
DEFINITION. A channel's service state and its record in the fabric map; power domains, set-points and ramps shared by the
commands of Chapters 14-16 (R335, R418-R423, R478).
-/

namespace Sys2Proof.Machine

/-! ### Service (R478, Table 17.4) -/

/-- Whether a channel is present (R2). -/
def State.present (s : State) (c : Chan) : Bool := s.mc.fuses.present.getLsbD c.val

/-- The channel of this module to which a port is wired (R14, Table 1.3): the same port of it. Ports 4-11 go to the connectors. -/
def wiredTo (c : Chan) (p : PortIx) : Option Chan :=
  if p.val < 3 then some ⟨(c.val ^^^ 2 ^ p.val) % 8, Nat.mod_lt _ (by decide)⟩
  else if p.val = 3 then some ⟨(c.val ^^^ 7) % 8, Nat.mod_lt _ (by decide)⟩
  else none

/-- Whether a port can have a link: neither it nor the port that it is wired to belongs to a fused channel (R2). -/
def State.linkable (s : State) (c : Chan) (p : PortIx) : Bool :=
  s.present c && (match wiredTo c p with | some d => s.present d | none => true)

/-- Whether a channel is in service. -/
def State.serving (s : State) (c : Chan) : Bool := s.mc.inService.getLsbD c.val

/-- Sets a reason for being out of service. -/
def ChStatus.reason (x : ChStatus) (r : Nat) (on : Bool) : ChStatus :=
  { x with oos := if on then x.oos ||| (1#12 <<< r) else x.oos &&& ~~~(1#12 <<< r) }

/-- Clears a slice array that has lost power. -/
def Channel.arraysOff (h : Channel) : Channel := { h with pumps := h.pumps.map fun q => { q with slice := Slice.reset } }

/-- Every polder OFF, and CA, CL and HQ OFF (Table 15.2): pumps and cistern arrays lose what they hold. -/
def State.domainsOff (s : State) (c : Chan) : State :=
  (s.onChan c fun h => { h with
    pumps := h.pumps.map Pump.off, polders := h.polders.map fun p => { p with dom := .off, step := 0 } }).onPwr c fun p =>
    { p with ca := .off, cl := .off, hq := .off, ramping := none, rampQ := [] }

/-- Takes a channel out of service for a reason; its domains go OFF. -/
def State.leave (s : State) (c : Chan) (r : Nat) : State :=
  ((((s.onSt c fun x => x.reason r true).onMc fun m => { m with inService := m.inService &&& ~~~(1#8 <<< c.val) }).domainsOff
    c)).mapUpdate c fun m => { m with inService := false }

/-- Clears a reason; a channel without one left is in service, its domains ON. -/
def State.enter (s : State) (c : Chan) (r : Nat) : State :=
  let s1 := s.onSt c fun x => x.reason r false
  if (s1.chan c).st.oos = 0 then
    ((s1.onMc fun m => { m with inService := m.inService ||| (1#8 <<< c.val) }).onPwr c fun p =>
      { p with ca := .on, cl := .on, hq := .on }).mapUpdate c fun m => { m with inService := true }
  else s1

/-! ### Module records (R315) -/

/-- This module's own record, with the links of its ACTIVE ports. -/
def State.ownRecord (s : State) : ModRecord :=
  { serial := s.mc.fuses.serial, pinned := if s.mc.fab.pinEn then some s.mc.fab.pinId else none, cset := s.mc.firm.cset,
    adj := (List.finRange 8).flatMap fun c => ((List.finRange 12).filter fun p => (s.port c p).state == .active).map fun p =>
      (s.addrOf c, p.val, (s.port c p).partnerCh),
    present := s.mc.fuses.present }

/-- A port that has become ACTIVE carries every module record known here, this module's own among them (R315). -/
def State.sendRecords (s : State) (c : Chan) (port : PortIx) : State :=
  s.each (s.ownRecord :: s.mc.fab.mods.filter fun m => m.serial != s.mc.fuses.serial) fun t m =>
    t.sendFlit c port (.mgmt (t.port c port).partnerCh (.module m))

/-! ### Events of power and heat (Table 15.7) -/

/-- A signed number as 16 bits. -/
def s16 (x : Int) : Nat := (BitVec.ofInt 16 x).toNat

/-- Good phases of VPUMP. -/
def Power.phases (p : Power) : Nat := (bitsOf p.good).length

/-- A POWER event: kind, byte 1, bytes 2-3, droop minimum. -/
def State.powerEvent (s : State) (c : Chan) (kind b1 n : Nat) : State :=
  s.event c 0x12 none 0xFFFF (detail [(0, 1, kind), (1, 1, b1), (2, 2, n), (4, 2, (s.chan c).pwr.droopMv)])

/-- A THERMAL event for a polder, or for the channel (unit 0xFFFF). -/
def State.thermalEvent (s : State) (c : Chan) (kind unit sensor : Nat) (eff raw : Int) : State :=
  s.event c 0x13 none unit (detail [(0, 1, kind), (1, 1, sensor), (2, 2, s16 eff), (4, 2, s16 raw)])

/-! ### Set-points and ramps (R415, R421-R423) -/

/-- A new VPUMP set-point goes out over AVSBus. -/
def State.setVpump (s : State) (c : Chan) (mv : Nat) : State := (s.onPwr c fun p => { p with setMv := mv }).emit (.setpoint c mv)

/-- Whether the droop minimum passes the guard test (R417). -/
def Power.guardOk (p : Power) : Bool := decide (p.setMv ≤ p.droopMv + p.guard)

/-- Adds to a frame's measured waits of a cause (R38). -/
def State.waited (s : State) (c : Chan) (j : SlotIx) (cause : Fin 7) (ns : Nat) : State :=
  s.onFr c j fun f => { f with waits := upd f.waits cause (· + ns) }

/-- The same for the job that holds a polder. -/
def State.polderWaited (s : State) (c : Chan) (pd : PolderIx) (cause : Fin 7) (ns : Nat) : State :=
  match (s.chan c).slotOfPolder pd with
  | some j => s.waited c j cause ns
  | none => s

end Sys2Proof.Machine
end

