-- ==== Sys2Proof/Machine/Ports.lean ====
section
/-!
DEFINITION. Fabric ports: states, training, narrowing, retraining, replay, slot entries, equalisation, and the loss of a port
(R289-R310, R330, R331, R483).
-/

namespace Sys2Proof.Machine

/-! ### State changes -/

def PortState.code : PortState → Nat
  | .disabled => 0 | .detect => 1 | .train => 2 | .active => 3 | .drain => 4 | .down => 5

/-- Every state change writes a PORT event and is reported to Gnover, which advances the map version (R294). -/
def State.portTo (s : State) (c : Chan) (port : PortIx) (st : PortState) (f : Port → Port) : State :=
  let old := s.port c port
  let s1 := s.onPort c port fun p => { f p with state := st }
  if old.state = st then s1
  else
    let s2 := s1.event c 0x0F none port.val (detail [(0, 1, port.val), (1, 1, old.state.code), (2, 1, st.code),
      (3, 1, (s1.port c port).width.toNat)])
    s2.mapBump c fun m => { m with links := (s2.chan c).mapLinks }

/-- Entry to TRAIN: step 1 begins with no lane in use. -/
def Port.beginTrain (p : Port) : Port :=
  { p with step := 1, restarts := 0, width := 3, good := 0, narrowed := p.narrowed }

/-! ### Loss of a port (R330, R331) -/

/-- The report that a lost child counts as. -/
def lostReport (ch : ChanAddr) : Report := { fault := true, checked := false, tag := 0, cause := 1, late := 0, lateCh := ch }

/-- What the loss of a port does for the job of a slot here, a node of its tick tree. -/
def State.slotLost (s : State) (c : Chan) (j : SlotIx) (port : PortIx) : State :=
  let x := s.slot c j
  let s1 := if x.job.children.contains port && !x.fr.reports.any fun e => e.1 == port then
      s.onFr c j fun f => { f with reports := f.reports ++ [(port, lostReport (s.addrOf c))] }
    else s
  let up := x.job.parent == some port
  let s2 := if up then s1.onSlot c j fun y => { y with job := { y.job with parent := none, acting := true, master := s.addrOf c } }
    else s1
  let s3 := (s2.fault c j .link .port port.val port.val).tryForward c j
  if up && (s3.slot c j).fr.combined.isSome && (s3.slot c j).job.state != .halted then s3.issueHalt c j else s3

/-- The same for a node whose channel is no member. -/
def State.nodeLost (s : State) (c : Chan) (tree : BitVec 12) (t : Tree) (port : PortIx) : State :=
  let s1 := s.faultEvent c none Cause.link.code UnitKind.port.code port.val port.val (s.addrOf c)
  let outs := (List.finRange 12).filter fun p => t.mask.getLsbD p.val && p != port
  let s2 := s1.each outs fun u p => u.marker c p (.fault tree (BitVec.ofNat 8 Cause.link.code) (s.addrOf c))
  let rs := if t.kids.contains port && !t.reports.any fun e => e.1 == port then t.reports ++ [(port, lostReport (s.addrOf c))]
    else t.reports
  let up := if t.parent = some port then none else t.parent
  let s3 := s2.onChan c fun h => { h with router := { h.router with
    trees := h.router.trees.alter tree.toNat fun y => { y with reports := rs, parent := up } } }
  if t.kids.all fun p => rs.any fun e => e.1 == p then
    match joinOnly rs, up with
    | some r, some q => s3.marker c q (.done tree r)
    | some _, none => s3.haltBelow c tree
    | none, _ => s3
  else s3

/-- Context and job of a job key. -/
def unKey (k : Nat) : Nat × Nat := ((k - 1) / 64, (k - 1) % 64 + 1)

/-- A FAULT over set 0 to the master, and the failover list, of a job that only passes through a channel (R330 case 2). -/
def State.tellMaster (s : State) (c : Chan) (e : Through) (cause : Cause) : State :=
  s.each (e.master :: e.failover).dedup fun t a => t.sendMgmt c a (.fault e.who (BitVec.ofNat 8 cause.code))

/-- The jobs that hold no slot in a channel and route through it, with their tick trees' nodes, fault with a cause (Table 14.2,
R386). -/
def State.throughFault (s : State) (c : Chan) (cause : Cause) (kind : UnitKind) : State :=
  let nodes := (s.chan c).router.trees.filter fun e => e.2.slot.isNone
  let transit := ((List.finRange 12).flatMap fun p => (s.port c p).through).dedup
  let s1 := if nodes.isEmpty && transit.isEmpty then s else s.faultEvent c none cause.code kind.code 0 0 (s.addrOf c)
  let s2 := s1.each nodes fun t e => t.each ((List.finRange 12).filter fun p => e.2.mask.getLsbD p.val) fun u p =>
    u.marker c p (.fault (BitVec.ofNat 12 e.1) (BitVec.ofNat 8 cause.code) (s.addrOf c))
  s2.each transit fun t e => t.tellMaster c e cause

/-- A host command's transfer ends in an error; a bound input no longer waits for it. -/
def State.endCmd (s : State) (h : Hdr) (status : Nat) : State :=
  let s1 := s.onMc fun m =>
    let js := m.jobs.map fun (e : Nat × Job) => (e.1, { e.2 with copies := e.2.copies.filter fun k => k.hdr != h })
    { m with jobs := js, remote := m.remote.filter fun x => x.hdr != h }
  if s.isRunning h then s1.complete h status 0 else s1

/-- Host commands whose transfer crosses a port that goes DOWN complete with LINK_LOST (R333). -/
def State.copiesLost (s : State) (c : Chan) (port : PortIx) : State :=
  s.each (((s.mc.remote.filter fun x => x.chan == c && x.port == port).map (·.hdr)).dedup) fun t h => t.endCmd h stLinkLost

/-- One end of a link is lost: its replay buffer is discarded, and every job that uses it faults with LINK (R330). -/
def State.portGone (s : State) (c : Chan) (port : PortIx) (st : PortState) (los : Bool) : State :=
  let p := s.port c port
  let users := ((s.chan c).liveSlots.filter fun j =>
    (s.slot c j).job.treePorts.contains port || p.users.contains j || p.owner == some j)
  let nodes := (s.chan c).router.trees.filter fun e => e.2.slot.isNone && e.2.mask.getLsbD port.val
  let transit := (s.port c port).through
  let s1 := s.portTo c port st fun q => { q with
    replay := [], waiting := [], width := 3, los := q.los || los, cnt := if los then upd q.cnt 6 (sat64 · 1) else q.cnt }
  let s2 := s1.each users fun t j => t.slotLost c j port
  let s3 := s2.each nodes fun t e => t.nodeLost c (BitVec.ofNat 12 e.1) e.2 port
  (s3.each transit fun t e =>
    (t.faultEvent c none Cause.link.code UnitKind.port.code port.val port.val (s.addrOf c)).tellMaster c e .link).copiesLost c port

/-- A port is lost; the port of this module that it is wired to sees loss of signal (R14, R330, Table 17.7). -/
def State.portLost (s : State) (c : Chan) (port : PortIx) (st : PortState) (los : Bool) : State :=
  let s1 := s.portGone c port st los
  match wiredTo c port with
  | some d => if (s1.port d port).speaks then s1.portGone d port .down true else s1
  | none => s1

/-- Loss of signal (R330): an ACTIVE or draining port enters DOWN. -/
def execLossOfSignal (c : Chan) (port : PortIx) (s : State) : Res :=
  onlyIf (s.port c port).speaks s (s.portLost c port .down true)

/-! ### Enable, retrain, drain -/

/-- Whether an admitted job has a route, slot table or tree on a port (R297). -/
def State.portInUse (s : State) (c : Chan) (port : PortIx) : Bool :=
  let p := s.port c port
  p.owner.isSome || !p.users.isEmpty || (s.chan c).router.trees.any (fun e => e.2.mask.getLsbD port.val) ||
    !p.through.isEmpty

/-- A retrain: egress freezes and the port drains, or REFUSED is set (R297). -/
def State.retrainPort (s : State) (c : Chan) (port : PortIx) : State :=
  if (s.port c port).state = .active ∧ !s.portInUse c port then
    (s.portTo c port .drain id).onChan c fun h => { h with arbs := upd h.arbs (egress port) fun a =>
      { a with freeze := true, drained := a.drained || !a.burst } }
  else s.onPort c port fun p => { p with refused := true }

/-- LNK_PORT_CTRL.RETRAIN. -/
def execRetrain (c : Chan) (port : PortIx) (s : State) : Res := onlyIf (s.windowOpen c) s (s.retrainPort c port)

/-- A write of LNK_PORT_CTRL: MAX_WIDTH acts at the next training; ENABLE at once (R483). -/
def execPortEnableWrite (c : Chan) (port : PortIx) (v : BitVec 32) (s : State) : Res :=
  if s.windowOpen c then
    let s1 := s.onPort c port fun p => { p with
      maxWidth := v.extractLsb' 1 2, refused := w1c p.refused (v.getLsbD 4), enable := v.getLsbD 0 }
    let s2 := match v.getLsbD 0, (s.port c port).state with
      | true, .disabled => if (s.chan c).pwr.lk = .on ∧ s.linkable c port then s1.portTo c port .detect id else s1
      | true, _ => s1
      | false, .disabled => s1
      | false, _ => if (s.port c port).speaks then s1.portLost c port .disabled false else s1.portTo c port .disabled id
    .next (if v.getLsbD 3 then s2.retrainPort c port else s2)
  else .next s

/-- A draining port's replay buffer and ingress are empty: it retrains from step 1 (R297). -/
def execDrainComplete (c : Chan) (port : PortIx) (s : State) : Res :=
  let p := s.port c port
  onlyIf (p.state == .drain && p.replay.isEmpty) s
    ((s.portTo c port .train Port.beginTrain).onChan c fun h => { h with arbs := upd h.arbs (egress port) fun a =>
      { a with freeze := false, drained := false } })

/-! ### Training (R291-R295) -/

/-- The width of R293 for good lanes and the widest width that both ends permit: width code, group or pair. -/
def chooseWidth (good : BitVec 8) (widest : BitVec 2) : Option (BitVec 2 × BitVec 2) :=
  if good = 0xFF ∧ widest = 0 then some (0, 0)
  else if widest.toNat ≤ 1 ∧ good &&& 0x0F = 0x0F then some (1, 0)
  else if widest.toNat ≤ 1 ∧ good &&& 0xF0 = 0xF0 then some (1, 1)
  else ((List.finRange 4).find? fun q => good.getLsbD (2 * q.val) && good.getLsbD (2 * q.val + 1)).map fun q =>
    (2, BitVec.ofNat 2 q.val)

/-- The narrower of two MAX_WIDTH limits; 3 is treated as 2. -/
def widest (a b : BitVec 2) : BitVec 2 := BitVec.ofNat 2 (min 2 (max a.toNat b.toNat))

/-- A training that fails or misses a deadline restarts from step 1; after the third restart the port is DOWN (R294). -/
def State.trainFails (s : State) (c : Chan) (port : PortIx) : State :=
  let n := (s.port c port).restarts
  if 3 ≤ n then s.portTo c port .down fun p => { p with width := 3 }
  else s.onPort c port fun p => { p with restarts := n + 1, step := 1, good := 0, width := 3 }

/-- A DETECT port finds signal on two or more lanes (R291). -/
def execSignalDetect (c : Chan) (port : PortIx) (lanes : BitVec 8) (s : State) : Res :=
  onlyIf ((s.port c port).state == .detect && decide (2 ≤ (bitsOf lanes).length) && s.linkable c port) s (s.portTo c port .train Port.beginTrain)

/-- What the far end of a port says of itself in a training: on the module the channel that R14 wires it to, elsewhere what the event
brings. -/
def State.farEnd (s : State) (c : Chan) (port : PortIx) (info : TrainInfo) : ChanAddr × BitVec 4 × BitVec 2 × BitVec 32 :=
  match wiredTo c port with
  | some d => (s.addrOf d, BitVec.ofNat 4 port.val, (s.port d port).maxWidth, s.mc.firm.cset)
  | none => (info.partnerCh, info.partnerPort, info.partnerMax, info.partnerSet)

/-- A training step of Table 11.3 completes. -/
def execTrainStepComplete (c : Chan) (port : PortIx) (info : TrainInfo) (s : State) : Res :=
  let p := s.port c port
  let far := s.farEnd c port info
  if p.state = .train ∧ info.step.val = p.step ∧ s.linkable c port then
    let go := fun (f : Port → Port) => s.onPort c port fun q => { f q with step := q.step + 1 }
    .next (match info.step.val with
      | 2 => go fun q => { q with good := info.goodLanes }
      | 3 => go fun q => { q with good := q.good &&& info.goodLanes }
      | 4 => match chooseWidth (p.good &&& info.goodLanes) (widest p.maxWidth far.2.2.1) with
        | some (w, g) => go fun q => { q with good := q.good &&& info.goodLanes, width := w, group := g }
        | none => s.trainFails c port
      | 5 => go fun q => { q with nextSeq := 0, rxSeq := 0, replay := [] }
      | 6 => go fun q => { q with
          partnerCh := far.1, partnerPort := far.2.1, latQns := info.latQns,
          compatDiff := far.2.2.2 != s.mc.firm.cset }
      | 7 => ((s.portTo c port .active fun q => { q with step := 0, restarts := 0 }).sendRecords c port).flush c port 128
      | _ => go id)
  else .next s

/-- A deadline of Table 11.3 is missed (R294). -/
def execTrainingTimeout (c : Chan) (port : PortIx) (s : State) : Res :=
  onlyIf ((s.port c port).state == .train) s (s.trainFails c port)

/-- One second after DOWN, an enabled port returns to DETECT (Table 11.2). -/
def execDownTimer (c : Chan) (port : PortIx) (s : State) : Res :=
  let p := s.port c port
  onlyIf (p.state == .down && p.enable && s.linkable c port) s (s.portTo c port .detect fun q => { q with step := 0, restarts := 0 })

/-! ### Service -/

/-- The lanes that a port uses (R290). -/
def Port.lanesUsed (p : Port) : BitVec 8 :=
  if p.width = 0 then 0xFF
  else if p.width = 1 then (if p.group = 0 then 0x0F else 0xF0)
  else if p.width = 2 then 3#8 <<< (2 * p.group.toNat)
  else 0

/-- Sends the flits of the replay buffer again, from a sequence number on (R306). -/
def State.replayFrom (s : State) (c : Chan) (port : PortIx) (seq : BitVec 12) : State :=
  let l := (s.port c port).replay.dropWhile fun e => e.1 != seq
  if l.isEmpty then s
  else (s.onPort c port fun p => { p with cnt := upd p.cnt 3 (sat64 · 1) }).each l fun t e => t.emit (.flit c port e.1 e.2)

/-- One end moves to the widest width of its good lanes, replays what is not acknowledged, and reports (R299). -/
def State.narrowEnd (s : State) (c : Chan) (port : PortIx) : State :=
  let p := s.port c port
  match chooseWidth p.good (widest p.maxWidth p.width) with
  | none => s.portLost c port .down false
  | some (w, g) =>
    let s1 := s.onPort c port fun q => { q with width := w, group := g, narrowed := true, cnt := upd q.cnt 7 (sat64 · 1) }
    let s2 := match p.replay with | e :: _ => s1.replayFrom c port e.1 | [] => s1
    s2.mapBump c fun m => { m with links := (s2.chan c).mapLinks }

/-- Both ends of a link on the module narrow together (R14, R299); the far end of a cable hears of it by CTRL flits (R303). -/
def State.narrow (s : State) (c : Chan) (port : PortIx) : State :=
  let s1 := s.narrowEnd c port
  match wiredTo c port with
  | some d =>
    if (s1.port c port).speaks && (s1.port d port).state == .active && (s1.port d port).width != (s1.port c port).width then
      (s1.onPort d port fun q => { q with good := q.good &&& (s1.port c port).good }).narrowEnd d port
    else s1
  | none => s1

/-- A lane of an ACTIVE port fails: one in use narrows the port, or takes it DOWN (R299). -/
def execLaneFailure (c : Chan) (port : PortIx) (lane : Fin 8) (s : State) : Res :=
  let p := s.port c port
  let s1 := s.onPort c port fun q => { q with good := q.good &&& ~~~(1#8 <<< lane.val) }
  .next (if p.state = .active then (if p.lanesUsed.getLsbD lane.val then s1.narrow c port else s1) else s)

/-- No acknowledgement within 1 µs: replay from the oldest flit (R306). The wait counts as LINK for the port's owner
(R308). -/
def execReplayTimeout (c : Chan) (port : PortIx) (s : State) : Res :=
  let p := s.port c port
  match p.replay with
  | [] => .next s
  | e :: _ =>
    let s1 := s.replayFrom c port e.1
    .next (match p.owner with | some j => s1.waited c j 1 1000 | none => s1)

/-- The next slot entry opens at its START or at the close of the one before (R308), that of an equalisation entry by its length
(Table 11.8); a late opening is spill. -/
def execSlotEntryOpen (c : Chan) (port : PortIx) (s : State) : Res :=
  let p := s.port c port
  match p.owner, p.table[p.cursor]? with
  | some j, some e =>
    if p.left = 0 then
      let at_ := (s.slot c j).fr.tickNs + e.start.toNat * 10
      let s1 := s.until (max at_ p.eqNs)
      let late := s1.timeNs - at_
      .next ((s1.onPort c port fun q => { q with
        cursor := q.cursor + 1, left := if e.owner = 0xD then 0 else e.count.toNat + 1,
        eqNs := if e.owner = 0xD then s1.timeNs + 10 * (e.count.toNat + 1) else q.eqNs,
        cnt := upd q.cnt 4 (sat64 · late) }).waited c j 1 late)
    else .next s
  | _, _ => .next s

/-- Equalisation of an ACTIVE port remeasures its hop latency (R295, R310). -/
def execEqualisation (c : Chan) (port : PortIx) (latQns : BitVec 16) (s : State) : Res :=
  onlyIf ((s.port c port).state == .active) s (s.onPort c port fun p => { p with latQns := latQns })

end Sys2Proof.Machine
end

