-- ==== Sys2Proof/Machine/HostMem.lean ====
section
/-!
DEFINITION. Memory that belongs to no job, written at once (R369), and host commands whose transfers cross ports to other modules (R333).
-/

namespace Sys2Proof.Machine

/-- Writes bytes of a granule at its home at once: part of an uncorrectable granule is not written, and an HBM block is merged
(R234, R262). -/
def State.putAt (s : State) (c : Chan) (k : Nat) (mask : BitVec 32) (v : Granule) : State :=
  let r := if mask = 0xFFFFFFFF#32 then (s, some v) else
    let w := s.forWrite c k
    (w.1, w.2.map fun old => gMerge old v mask)
  match r.2 with
  | none => r.1
  | some new => ((r.1.storeAt c none k new).onChan c fun h => h.dropLine ⟨s.addrOf c, keyOff k⟩).mergeBlock c k

/-- Writes memory that belongs to no job, at once (R369). -/
def State.putNow (s : State) (c : Chan) (k : Nat) (mask : BitVec 32) (v : Granule) : State := (s.settle c k).putAt c k mask v

/-- Whether a host command still waits: for records on other modules, or for host data at its homes. -/
def State.copyWaits (s : State) (h : Hdr) : Bool :=
  (s.mc.remote.any fun x => x.hdr == h) || s.mc.jobs.any fun e => e.2.copies.any fun k => k.hdr == h

/-- A host command that waits for nothing completes with the bytes it wrote. -/
def State.hostDone (s : State) (h : Hdr) (bytes : Nat) : State :=
  if s.copyWaits h || !s.isRunning h then s else s.complete h stSuccess bytes

/-- The channel of the well that a command came through. -/
def State.wellChan (s : State) (h : Hdr) : Chan :=
  match h.ring with
  | .well ctx loc => match (s.mc.ctxs.look ctx).bind (·.wells.look loc) with | some (c, _) => c | none => 0
  | .admin _ => 0

/-- Sends flits of a host command to a home on another module, in class HOST, and notes the port that the transfer crosses; without
a route the command ends (R273, R320, R333). -/
def State.hostSend (s : State) (h : Hdr) (rset : BitVec 2) (dest : ChanAddr) (fs : List OutFlit) (bytes : Nat) : State :=
  let c := s.wellChan h
  match routePort ((s.chan c).route rset dest) with
  | some port =>
    (s.each fs fun t f => (t.sendTo c none rset dest f).raise c (egress port) .host reqHost none 1).onMc fun m => { m with
      remote := m.remote ++ [⟨h, c, port, dest, fs.length, bytes⟩] }
  | none => s.endCmd h stLinkLost

/-- The bursts of this module's HBM that a host command reads or writes, in class HOST (R272, R273). -/
def State.hostBursts (s : State) (ks : List (ChanAddr × Nat)) : State :=
  s.each (List.finRange 8) fun t c => t.raiseBursts c .host reqHost none ((ks.filter fun e => e.1 == s.addrOf c).map Prod.snd)

/-- One acknowledgement less to wait for, in the oldest transfer toward a home that waits for any. -/
def takeAck (c : Chan) (dest : ChanAddr) : List HostXfer → List HostXfer × Option HostXfer
  | [] => ([], none)
  | x :: xs =>
    if x.chan = c ∧ x.dest = dest then
      (if x.left ≤ 1 then xs else { x with left := x.left - 1 } :: xs, some x)
    else (x :: (takeAck c dest xs).1, (takeAck c dest xs).2)

/-- A home has acknowledged a write of a host command; the command completes with the last one. -/
def State.hostAck (s : State) (c : Chan) (dest : ChanAddr) : State :=
  let (rest, hit) := takeAck c dest s.mc.remote
  let s1 := s.onMc fun m => { m with remote := rest }
  match hit with
  | some x => s1.hostDone x.hdr x.bytes
  | none => s1

end Sys2Proof.Machine
end

