-- ==== Sys2Proof/Machine/Cistern.lean ====
section
/-!
DEFINITION. The cistern's fills, its background work after a tick, its mode, its clears and its logs (R201, R202, R212,
R216, R219, R223, R231, R233, R246, R253).
-/

namespace Sys2Proof.Machine

/-! ### Fills (R212, R231) -/

/-- How a transfer that a pump holds wants the line of a granule, or in sector mode the granule: through cache lines or past them
(Table 7.3). -/
def State.xferWants (s : State) (c : Chan) (p : PumpIx) (a : FabAddr) (sect : Option Nat) (lines : Bool) : Bool :=
  let n := (s.chan c).lineGrans
  (s.pump c p).todo.any fun o => o.unit == .transfer && match s.xferPlan c p o with
    | .ok pl => pl.src.lines == lines && (pl.src.reads pl.opc).any fun e =>
        lineOf n e.1 e.2 == a && (match sect with | some i => e.2 % n == i | none => true)
    | .error _ => false

/-- Whether a pump waits for a line of another channel that its transfer streams past the cache region (R176). -/
def State.streamWants (s : State) (c : Chan) (p : PumpIx) (a : FabAddr) (sect : Option Nat) : Bool :=
  a.chan != s.addrOf c && s.xferWants c p a sect false && (s.streamAt c p a.chan (offKey a.off + sect.getD 0)).isNone

/-- Class of a fill that a pump's miss opens: SCHED for its transfers, THREAD for its kernel (Table 10.2). -/
def State.fillClass (s : State) (c : Chan) (p : PumpIx) (j : SlotIx) (a : FabAddr) (sect : Option Nat) : ReqClass :=
  s.workClass c j (if !(s.xferWants c p a sect true || s.xferWants c p a sect false) && (s.pump c p).te.kernel.isSome then .thread
    else .sched)

/-- Counts a line filled into a job's slices; past LIMIT the slot thrashes for the rest of the frame (R231). -/
def State.countFill (s : State) (c : Chan) (j : SlotIx) : State :=
  let x := s.slot c j
  let s1 := s.onRegs c j fun r => { r with cnt := upd r.cnt 1 (sat64 · 1) }
  if (s.chan c).cis.sector then s1
  else
    let n := x.fr.lines + 1
    let s2 := s1.onFr c j fun f => { f with lines := n }
    let lim := x.regs.set.limit
    if lim ≠ 0 ∧ lim < n ∧ !x.fr.thrashed then
      (((s2.onFr c j fun f => { f with thrashed := true }).onRegs c j fun r => { r with
        thrash := true, cnt := upd r.cnt 7 (sat64 · 1), thrashFrame := BitVec.ofNat 16 r.frame })).event
        c 0x08 (some j) 0 (detail [(0, 4, n), (4, 4, lim)])
    else s2

/-- Reads the line of an opened entry: bursts of the channel's own HBM, or a READ to the remote home (R212, R272). -/
def State.fetchLine (s : State) (c : Chan) (j : SlotIx) (cls : ReqClass) (a : FabAddr) : State :=
  if a.chan = s.addrOf c then
    match keySlice (offKey a.off), s.hbmPlace c (offKey a.off / 128) with
    | none, some (u, _) => s.raise c (hbmPort u) cls reqFill (some j) (if (s.chan c).cis.sector then 1 else 8)
    | _, _ => s
  else s.sendFor c cls reqFill j a.chan (.read a.chan [a])

/-- An access finds a granule of a cache line uncorrectable: the error is logged, the line dropped, and the access fills it afresh
(R251). -/
def State.dropBroken (s : State) (c : Chan) (p : PumpIx) (a : FabAddr) (i : Nat) : State :=
  match (s.slice c p).cached (s.frameOf c p) a with
  | some l =>
    if l.holds i ∧ l.broken i then
      let at_ := ((s.slice c p).lines.findIdx? (·.at_ == a)).getD 0
      (s.logUe c 0 (physOf (s.chan c) p) ((s.chan c).pinned + at_ * (s.chan c).lineGrans + i) false).onSlice c p fun sl => { sl with
        lines := sl.lines.filter (·.at_ != a) }
    else s
  | none => s

/-- A slice asks the fill table for a line: it opens an entry, joins one that has delivered nothing, or waits (R212). -/
def State.askFill (s : State) (c : Chan) (p : PumpIx) (j : SlotIx) (a : FabAddr) (sect : Option Nat) (stream : Bool) : State :=
  let h := s.chan c
  match h.fills.find? fun e => e.at_ == a && e.sect == sect with
  | some e =>
    if e.started ∨ (if stream then e.stream else e.mask).contains p then s
    else
      let join := fun (e : FillEnt) => if stream then { e with stream := e.stream ++ [p] } else { e with mask := e.mask ++ [p] }
      (s.onChan c fun y => { y with fills := y.fills.map fun e => if e.at_ = a ∧ e.sect = sect then join e else e }).onRegs c j
        fun r => { r with cnt := upd r.cnt 2 (sat64 · 1) }
  | none =>
    if 1024 ≤ h.fills.length then s
    else
      let e : FillEnt := ⟨a, sect, if stream then [] else [p], if stream then [p] else [], false, j, []⟩
      let s1 := s.onChan c fun y => { y with fills := y.fills ++ [e] }
      let newLine := !stream && ((s.slice c p).cached (s.frameOf c p) a).isNone
      let s2 := if newLine then s1.countFill c j else s1
      s2.fetchLine c j (s.fillClass c p j a sect) { a with off := a.off + keyOff (sect.getD 0) }

/-- A miss opens a fill of its line, in sector mode of its sector (R201). A line of another channel that a transfer streams takes
no place in the cache region (R176). -/
def execFillOpen (c : Chan) (p : PumpIx) (addr : FabAddr) (s : State) : Res :=
  match (s.chan c).slotOf p with
  | none => .next s
  | some j =>
    let n := (s.chan c).lineGrans
    let k := offKey addr.off
    let a := lineOf n addr.chan k
    let sect := if (s.chan c).cis.sector then some (k % n) else none
    if s.streamWants c p a sect then .next (s.askFill c p j a sect true)
    else
      let s1 := s.dropBroken c p a (k % n)
      .next (if (s1.lineAt c p addr.chan k).isSome then s1 else s1.askFill c p j a sect false)

/-- Whether every granule that an entry fetches is at hand. -/
def State.fillWhole (s : State) (c : Chan) (e : FillEnt) : Bool :=
  e.at_.chan == s.addrOf c || match e.sect with
    | some i => (e.got.look i).isSome
    | none => (List.range (s.chan c).lineGrans).all fun i => (e.got.look i).isSome

/-- The line that a closed entry leaves in a slice: an own line of the channel's HBM, or an epoch line of the frame
(R216, Table 8.6). -/
def State.filledLine (s : State) (c : Chan) (p : PumpIx) (e : FillEnt) : CLine :=
  let own := e.at_.chan == s.addrOf c && (keySlice (offKey e.at_.off)).isNone
  ⟨e.at_, if own then none else some (BitVec.ofNat 16 (s.frameOf c p)), e.sect.map fun i => [i], e.got, []⟩

/-- Cache lines that a slice holds: the granules between the pinned region and the held share (R203). -/
def Channel.lineRoom (h : Channel) : Nat := (2 ^ 19 - h.pinned - h.heldShare) / h.lineGrans

/-- A line enters a slice: a further sector of one that is there, or a line in a full cache region in place of the oldest, which a
waiting transfer may still read (log entry 154). -/
def Slice.addLine (sl : Slice) (room : Nat) (waits : Bool) (old : Option CLine) (l : CLine) : Slice :=
  let rest := sl.lines.filter (·.at_ != l.at_)
  let l1 : CLine := match old, l.sects with
    | some o, some ss =>
      { l with sects := o.sects.map (· ++ ss), data := l.data.foldl (fun m e => m.set1 e.1 e.2) o.data,
               up := ss.foldl (fun m i => m.drop1 i) o.up }
    | _, _ => l
  let all := rest ++ [l1]
  let out := all.take (all.length - room)
  { sl with lines := all.drop (all.length - room), streamed := sl.streamed ++ if waits then out else [] }

/-- An entry's granules reach the slices of its masks, and it closes: each keeps the line, or what it streams (R212, R176). -/
def State.deliverFill (s : State) (c : Chan) (e : FillEnt) : State :=
  let room := (s.chan c).lineRoom
  let s1 := s.each e.mask fun t p =>
    t.onSlice c p fun sl => sl.addLine room (room == 0 || (t.pump c p).todo.any fun o => o.unit == .transfer)
      (sl.cached (t.frameOf c p) e.at_) (t.filledLine c p e)
  let s2 := s1.each e.stream fun t p => t.onSlice c p fun sl => { sl with streamed := sl.streamed ++ [t.filledLine c p e] }
  s2.onChan c fun y => { y with fills := y.fills.erase e }

/-- The granules of a line are multicast to the slices of its mask, and the entry closes after the last one; one of a frozen HBM port
waits (R280). -/
def execFillDelivery (c : Chan) (addr : FabAddr) (s : State) : Res :=
  let h := s.chan c
  let k := offKey addr.off
  let a := lineOf h.lineGrans addr.chan k
  match h.fills.find? fun e => e.at_ == a && (match e.sect with | some i => k % h.lineGrans == i | none => true) with
  | none => .next s
  | some e => .next (if s.fillWhole c e ∧ !(e.at_.chan == s.addrOf c && s.hbmFrozen c (offKey e.at_.off)) then s.deliverFill c e else s)

/-! ### Lines that other channels ask for (R212, R215) -/

/-- Answers a flit with an error. -/
def State.answerErr (s : State) (c : Chan) (fh : FlitHdr) (e : RespErr) : State :=
  s.sendTo c none fh.rset fh.src (.respErr fh.src e)

/-- The slot of the job that sent a flit: the owner of the address where it lists the sender, else a slot of the same route set
that does. -/
def State.senderSlot (s : State) (c : Chan) (fh : FlitHdr) (k : Nat) : Option SlotIx :=
  let lists := fun (j : SlotIx) =>
    let x := (s.slot c j).job
    x.members.contains fh.src || x.nonMembers.contains fh.src
  match s.owner c k with
  | some j => if lists j then some j
    else (s.chan c).liveSlots.find? fun i => lists i && (s.slot c i).job.rset == fh.rset
  | none => (s.chan c).liveSlots.find? fun i => lists i && (s.slot c i).job.rset == fh.rset

/-- Sends an answer by the route set that a flit came on, with its burst at the egress. -/
def State.answer (s : State) (c : Chan) (j : Option SlotIx) (fh : FlitHdr) (f : OutFlit) : State :=
  let t := s.sendTo c j fh.rset fh.src f
  match routePort ((s.chan c).route fh.rset fh.src) with
  | some port => t.raise c (egress port) .ingress reqRemote j 1
  | none => t

/-- Serves the 4 KiB line that a READ names: its granules as of the tick, in flits of 16, read in bursts or sector by sector (log
entry 153). One behind a frozen HBM port waits for it (R280). -/
def State.serveLine (s : State) (c : Chan) (fh : FlitHdr) (a : FabAddr) : State :=
  let k := offKey a.off / 128 * 128
  if !(s.chan c).validKey k then s.answerErr c fh .access
  else
    let j := s.senderSlot c fh k
    let place := match keySlice k with | none => s.hbmPlace c (k / 128) | some _ => none
    if s.hbmFrozen c k then s.onChan c fun h => { h with stalled := h.stalled ++ [(fh, a)] }
    else
      let s1 := match place with
        | some (u, _) => s.raise c (hbmPort u) .ingress reqRemote j (if (s.chan c).cis.sector then 128 else 8)
        | none => s
      (List.range 8).foldl (fun (t : State) i =>
        let (t1, gs) := readEach (fun u g => u.readShared c j (k + 16 * i + g)) t (List.range 16)
        t1.answer c j fh (.rdata fh.src ⟨s.addrOf c, keyOff (k + 16 * i)⟩ gs)) s1

/-- Serves the reads that wait, for ports that are frozen no more. -/
def State.serveStalled (s : State) (c : Chan) : State :=
  (s.onChan c fun h => { h with stalled := [] }).each (s.chan c).stalled fun t e => t.serveLine c e.1 e.2

/-! ### Background work (R216, R219, R223) -/

/-- HBM granules that a drain writes. -/
def State.drainKeys (s : State) (c : Chan) : List Nat :=
  ((s.chan c).held.filter fun e => s.due c e.slot e.frame).map fun e => offKey e.off

/-- The drain of the frames that are over (R222, R223), in class SCHED. A checkpoint under way holds its own copy of what it
has not yet sent (R393). -/
def execHeldEntryDrain (c : Chan) (s : State) : Res :=
  .next ((s.raiseBursts c .sched reqDrain none (s.drainKeys c)).drain c)

/-- Drops every epoch line whose tag is not current (R216). -/
def execEpochSweep (c : Chan) (s : State) : Res :=
  .next (s.each (List.finRange 128) fun t p => t.onSlice c p fun sl => { sl with
    lines := sl.lines.filter fun l => match l.epoch with
      | none => true
      | some tag => tag == BitVec.ofNat 16 (s.frameOf c p) })

/-- Clears the other write-mark plane of every slice, within 1 µs of its tick (R219). -/
def execMarkPlaneClear (c : Chan) (s : State) : Res :=
  .next (s.each (List.finRange 128) fun t p => t.onSlice c p fun sl =>
    if sl.oldMarks then
      { sl with oldMarks := false, marks := if s.frameOf c p % 2 = 0 then #v[sl.marks[0], []] else #v[[], sl.marks[1]] }
    else sl)

/-! ### CIS_MODE and CIS_CLEAR -/

/-- A write of CIS_MODE: a change of SECTOR drops every cache line, and is refused while a job is admitted (R202). -/
def execCisModeWrite (c : Chan) (v : BitVec 32) (s : State) : Res :=
  .next (s.blockWrite c fun t =>
    let change := v.getLsbD 0 != (t.chan c).cis.sector
    let refused := change && !(t.chan c).liveSlots.isEmpty
    let t1 := t.onCis c fun x => { x with
      sector := if refused then x.sector else v.getLsbD 0, modeErr := w1c x.modeErr (v.getLsbD 1) || refused }
    if change && !refused then
      t1.onChan c fun h => { h with pumps := h.pumps.map fun q => { q with slice := { q.slice with lines := [], streamed := [] } } }
    else t1)

/-- A write of CIS_CLEAR: GO clears every valid bit of a slice, unless it belongs to an admitted job (R233). -/
def execCisClear (c : Chan) (v : BitVec 32) (s : State) : Res :=
  .next (s.blockWrite c fun t =>
    let t1 := t.onCis c fun x => { x with clrRefused := w1c x.clrRefused (v.getLsbD 18) }
    let n := field v 0 8
    if v.getLsbD 16 ∧ n < 144 then
      match logicalOf (t1.chan c) n with
      | none => t1.onCis c fun x => { x with clrBusy := true }
      | some p =>
        if ((t1.chan c).slotOf p).isSome then t1.onCis c fun x => { x with clrRefused := true }
        else (t1.onCis c fun x => { x with clrBusy := true }).onSlice c p fun sl => { sl with
          mem := [], upset := [], lines := [], streamed := [], clearing := true }
    else t1)

/-- The clears under way are complete, and waiting accesses proceed (R233). -/
def execClearComplete (c : Chan) (s : State) : Res :=
  .next ((s.onCis c fun x => { x with clrBusy := false }).onChan c fun h => { h with
    pumps := h.pumps.map fun q => { q with slice := { q.slice with clearing := false } } })

/-! ### Error logs -/

/-- CIS_CE_CTRL.CLEAR clears every counter of corrected granules (R246). -/
def execCeClear (c : Chan) (s : State) : Res :=
  .next (s.blockWrite c fun t => t.onCis c fun x => { x with ceCount := Vector.replicate 8 0 })

/-- CIS_CE_CTRL.LOG_CLEAR invalidates every entry of both logs (R253). -/
def execLogClear (c : Chan) (s : State) : Res :=
  .next (s.blockWrite c fun t => t.onCis c fun x => { x with ceLog := [], ueLog := [], ueTotal := 0 })

end Sys2Proof.Machine
end

