-- ==== Sys2Proof/Machine/Markers.lean ====
section
/-!
DEFINITION. Markers that are not ticks, halts or reports: FAULT, NAK, ACK, CREDIT, ECHO (Table 11.7, R295, R305, R306, R331,
R386, R387).
-/

namespace Sys2Proof.Machine

/-- A FAULT marker: forwarded on the tree, and taken where it is delivered; later copies do nothing (R321, R387). -/
def execFaultMarker (c : Chan) (port : PortIx) (tree : BitVec 12) (cause : BitVec 8) (reporter : BitVec 15) (s : State) : Res :=
  match (s.chan c).router.trees.look tree.toNat with
  | none => .next s
  | some t =>
    if t.faults.contains (cause, reporter) then .next s
    else
      let s1 := s.onChan c fun h => { h with router := { h.router with
        trees := h.router.trees.alter tree.toNat fun y => { y with faults := y.faults ++ [(cause, reporter)] } } }
      let outs := (List.finRange 12).filter fun p => t.mask.getLsbD p.val && p != port
      let s2 := s1.each outs fun u p => u.marker c p (.fault tree cause reporter)
      match t.slot with
      | some j => onlyIf (t.deliver && (s.slot c j).live && (s.slot c j).job.state != .halted) s2 (s2.heardFault c j cause reporter)
      | none => .next s2

/-- A NAK: the sender replays from the named flit (R306). -/
def execNakMarker (c : Chan) (port : PortIx) (seq : BitVec 12) (s : State) : Res := .next (s.replayFrom c port seq)

/-- A cumulative ACK frees the replay buffer up to the named flit, and waiting flits go (R306). -/
def execAckMarker (c : Chan) (port : PortIx) (seq : BitVec 12) (s : State) : Res :=
  let l := (s.port c port).replay
  if l.any fun e => e.1 == seq then
    .next ((s.onPort c port fun p => { p with replay := (l.dropWhile fun e => e.1 != seq).drop 1 }).flush c port 128)
  else .next s

/-- Takes a cumulative credit count of a buffer kind. -/
def Port.credit (p : Port) (k : Fin 4) (count : Nat) : Port :=
  { p with credits := upd p.credits k (· + (count - p.credSeen[k.val])), credSeen := upd p.credSeen k (max count) }

/-- Number of a buffer kind. -/
def kindIx : CreditKind → Option (Fin 4)
  | .request => some 0 | .response => some 1 | .mcast => some 2 | .reduce => some 3 | .window _ => none

/-- Takes a credit: of a buffer kind, or the advance of a combining window (R305, R327). -/
def State.credit (s : State) (c : Chan) (port : PortIx) (k : CreditKind) (count : Nat) : State :=
  match k, kindIx k with
  | _, some i => (s.onPort c port fun p => p.credit i count).flush c port 128
  | .window tree, none => s.onChan c fun h => { h with router := { h.router with
      trees := h.router.trees.alter tree.toNat fun t => { t with ahead := max t.ahead count } } }
  | _, none => s

/-- A CREDIT marker. -/
def execCreditMarker (c : Chan) (port : PortIx) (buf : CreditKind) (count : Nat) (s : State) : Res :=
  .next (s.credit c port buf count)

/-- An ECHO marker is returned (R295). -/
def execEchoMarker (c : Chan) (port : PortIx) (stamp : BitVec 52) (s : State) : Res :=
  .next (s.marker c port (.echo stamp))

end Sys2Proof.Machine
end

