-- ==== Sys2Proof/Machine/Topology.lean ====
section
/-!
DEFINITION. The computation of a placement (R334-R345, Tables 12.1-12.6): candidates, binding, routes, the tick tree and the
collective trees, slot tables, failover and buddies, from the image, the map and the policy record alone.
-/

namespace Sys2Proof.Machine

/-! ### Inputs -/

/-- The placement policy record (Table 12.3). -/
structure Policy where
  lo      : Nat
  hi      : Nat
  share   : Bool
  retry   : Bool
  headMin : Nat
  maxStretch : Nat
  deadlineS : Nat
  clean   : Bool
deriving DecidableEq, Repr

def policy (b : BitVec 256) : Policy :=
  { lo := field b 0 12, hi := field b 12 12, share := b.getLsbD 24, retry := b.getLsbD 25, headMin := field b 32 8,
    maxStretch := field b 40 8, deadlineS := field b 48 16,
    clean := field b 26 6 == 0 && field b 64 192 == 0 && decide (field b 0 12 ≤ field b 12 12) }

/-- Failures of Table 12.6. -/
def stNoFit : Nat := 0x0701
def stTopology : Nat := 0x0702
def stNoRoute : Nat := 0x0703
def stContended : Nat := 0x0704
def stFrame : Nat := 0x0705
def stStretch : Nat := 0x0706
def stDeadline : Nat := 0x0707

/-- A snapshot of the map. -/
abbrev FMap := List MapChan

def mapAt (m : FMap) (a : ChanAddr) : Option MapChan := m.find? fun x => x.addr == a

/-- The limits of Table 12.1. -/
def topologyOk (im : JobImage) : Bool :=
  decide (1 ≤ im.vchans.length) && decide (im.vchans.length ≤ 32768) &&
    (im.vchans.all fun v => decide (1 ≤ v.polders) && decide (v.polders ≤ 16) && decide (v.pinned ≤ 60) &&
      decide (v.ckptBytes ≤ 2 ^ 37) && decide (v.share ≤ 256)) &&
    decide (im.trees.length ≤ 256) &&
    ((List.range im.vchans.length).all fun v =>
      decide ((im.edges.filter fun e => e.1 == v).length ≤ 16) && decide ((im.links.filter fun e => e.1 == v).length ≤ 12))

/-! ### Paths (R340, R342) -/

/-- Distances to one channel. -/
abbrev Dist := SMap Nat

/-- Cost of a hop: 8 ÷ its trained width. -/
def hopCost (l : MapLink) : Nat := 8 / max l.lanes 1

/-- The least-cost hop of a channel, ties lower port. `ok` says which ports may be used. -/
def bestHop (cost : MapLink → Nat) (ok : Nat → Bool) (d : Dist) (x : MapChan) : Option (Nat × MapLink) :=
  (x.links.sortWith fun a b => a.port ≤ b.port).foldl (fun best l =>
    match ok l.port, d.look l.partner.toNat with
    | true, some n =>
      let c := n + cost l
      match best with
      | some (b, _) => if c < b then some (c, l) else best
      | none => some (c, l)
    | _, _ => best) none

/-- One round of relaxation. -/
def relaxAll (m : FMap) (cost : MapLink → Nat) (ok : ChanAddr → Nat → Bool) (dest : ChanAddr) (d : Dist) : Dist :=
  m.foldl (fun (acc : Dist) x =>
    if x.addr = dest then acc
    else match bestHop cost (ok x.addr) acc x with
      | some (c, _) => acc.set1 x.addr.toNat c
      | none => acc) d

/-- Repeats a step. -/
def iter {α : Type} (f : α → α) : Nat → α → α
  | 0, x => x
  | n + 1, x => iter f n (f x)

/-- Distances of every channel to a destination over the permitted hops. -/
def distTo (m : FMap) (cost : MapLink → Nat) (ok : ChanAddr → Nat → Bool) (dest : ChanAddr) : Dist :=
  iter (relaxAll m cost ok dest) m.length [(dest.toNat, 0)]

def anyPort : ChanAddr → Nat → Bool := fun _ _ => true

/-- The entries of the route from a channel to a destination: each router with its egress port; none where there is no
path. Following the best hop with the lowest port gives the tie rule of R342. -/
def walk (m : FMap) (ok : ChanAddr → Nat → Bool) (d : Dist) (dest : ChanAddr) : Nat → ChanAddr → Option (List (ChanAddr × MapLink))
  | 0, a => if a = dest then some [] else none
  | n + 1, a =>
    if a = dest then some []
    else match (mapAt m a).bind (bestHop hopCost (ok a) d) with
      | some (_, l) => (walk m ok d dest n l.partner).map fun r => (a, l) :: r
      | none => none

/-! ### Candidates and binding (R339-R341) -/

/-- What placement knows of the jobs on a channel: their declared shares with the shares of their windows (R339 point 6). -/
abbrev Loads := ChanAddr → List (Nat × Nat)

/-- Free polders that a job may take, most headroom first, ties lower number. -/
def freePolders (pol : Policy) (x : MapChan) : List (Nat × Nat) :=
  (x.polders.zipIdx.filterMap fun e => match e.1 with
    | some h => if pol.headMin ≤ h then some (e.2, h) else none
    | none => none).sortWith fun a b => b.2 < a.2 || (a.2 == b.2 && a.1 ≤ b.1)

/-- Share that virtual channels declare of a channel's HBM, with every job's window counted for each other job. -/
def shareSum (old : List (Nat × Nat)) (new : Nat × Nat) : Nat :=
  let all := new :: old
  (all.map (·.1)).sum + (all.zipIdx.map fun e =>
    ((all.zipIdx.filter fun o => o.2 != e.2).map fun o => o.1.2).sum).sum

/-- The part of a job's share that its priority window counts: share × W ÷ I. -/
def windowShare (im : JobImage) (share : Nat) : Nat :=
  share * im.windowUs / max (im.periodUs * 2 ^ im.windowLog2) 1

/-- Largest pinned size and held share of virtual channels. -/
def regionOf (vs : List VChan) : Nat × Nat := ((vs.map (·.pinned)).foldl max 0, (vs.map (·.heldUnits)).foldl max 0)

/-- Whether a channel can hold a set of virtual channels of the job (R339). -/
def fits (im : JobImage) (pol : Policy) (loads : Loads) (x : MapChan) (vs : List VChan) : Bool :=
  let md := x.addr.toNat / 8
  let idle := x.freeSlots == 0xFFFF
  let (pin, held) := regionOf vs
  let share := (vs.map (·.share)).sum
  x.inService && decide (pol.lo ≤ md) && decide (md ≤ pol.hi) && x.cset == im.cset && x.freeSlots != 0 && (pol.share || idle) &&
    decide ((vs.map (·.polders)).sum ≤ (freePolders pol x).length) &&
    (if idle then (regionFails pin (max x.pinMax pin) held).isEmpty else decide (pin ≤ x.pin) && decide (held ≤ x.held)) &&
    decide ((vs.map (·.hbmLines)).sum ≤ x.freeLines) &&
    decide (shareSum (loads x.addr) (share, windowShare im share) ≤ x.schedHbm)

/-- A binding under way: virtual channel and channel. -/
abbrev Binding := List (Nat × ChanAddr)

/-- Weight of the edges between two virtual channels, either way. -/
def weight (im : JobImage) (u v : Nat) : Nat :=
  ((im.edges.filter fun e => (e.1 == u && e.2.1 == v) || (e.1 == v && e.2.1 == u)).map fun e => e.2.2).sum

/-- Everything that the binding procedure reads. -/
structure Problem where
  im    : JobImage
  pol   : Policy
  loads : Loads
  map   : FMap
  lead  : Nat
  dists : List (ChanAddr × Dist)

/-- d(a, b). -/
def Problem.d (q : Problem) (a b : ChanAddr) : Nat :=
  if a = b then 0
  else match q.dists.find? fun e => e.1 == b with
    | some e => (e.2.look a.toNat).getD (2 ^ 64)
    | none => 2 ^ 64

def Problem.vch (q : Problem) (v : Nat) : List VChan := (q.im.vchans[v]?).toList

/-- The virtual channels bound to a channel. -/
def Problem.on (q : Problem) (b : Binding) (a : ChanAddr) : List VChan :=
  (b.filter fun e => e.2 == a).flatMap fun e => q.vch e.1

/-- Whether a channel takes one more virtual channel. -/
def Problem.takes (q : Problem) (b : Binding) (x : MapChan) (v : Nat) : Bool :=
  fits q.im q.pol q.loads x (q.on b x.addr ++ q.vch v)

/-- Headroom that a virtual channel would find: the lowest of the polders it would take (log entry 36). -/
def Problem.head (q : Problem) (b : Binding) (x : MapChan) (v : Nat) : Nat :=
  let used := ((q.on b x.addr).map (·.polders)).sum
  let n := ((q.vch v).map (·.polders)).sum
  ((((freePolders q.pol x).drop used).take n).map (·.2)).foldl min 255

/-- Cost of a virtual channel at a channel, to what is placed. -/
def Problem.costAt (q : Problem) (b : Binding) (v : Nat) (a : ChanAddr) : Nat :=
  (b.map fun e => weight q.im e.1 v * q.d a e.2).sum

/-- Cost of a whole binding. -/
def Problem.cost (q : Problem) (b : Binding) : Nat :=
  let at_ := fun (v : Nat) => ((b.find? fun e => e.1 == v).map (·.2)).getD 0
  (q.im.edges.map fun e => e.2.2 * q.d (at_ e.1) (at_ e.2.1)).sum

/-- The best of candidates: least cost, then more headroom, then lower address. -/
def bestOf (l : List (Nat × Nat × ChanAddr)) : Option ChanAddr :=
  (l.foldl (fun (best : Option (Nat × Nat × ChanAddr)) x => match best with
    | none => some x
    | some y =>
      if x.1 < y.1 || (x.1 == y.1 && (decide (y.2.1 < x.2.1) || (x.2.1 == y.2.1 && decide (x.2.2.toNat < y.2.2.toNat)))) then some x
      else best) none).map fun x => x.2.2

/-- Places one virtual channel. -/
def Problem.place1 (q : Problem) (acc : Option Binding) (v : Nat) : Option Binding :=
  match acc with
  | none => none
  | some b =>
    let cands := q.map.filter fun x => q.takes b x v && (v != 0 || x.addr.toNat / 8 == q.lead)
    (bestOf (cands.map fun x => (q.costAt b v x.addr, q.head b x v, x.addr))).map fun a => b ++ [(v, a)]

/-- v0 first, then descending total edge weight, ties lower v. -/
def Problem.order (q : Problem) : List Nat :=
  let total := fun (v : Nat) => ((q.im.edges.filter fun e => e.1 == v || e.2.1 == v).map fun e => e.2.2).sum
  let rest := ((List.range q.im.vchans.length).drop 1).map fun v => (v, total v)
  0 :: (rest.sortWith fun a b => b.2 < a.2 || (a.2 == b.2 && a.1 ≤ b.1)).map (·.1)

/-- A pair exchanged, where both stay candidates and the cost falls. -/
def Problem.trySwap (q : Problem) (b : Binding) (u v : Nat) : Binding :=
  match b.find? fun e => e.1 == u, b.find? fun e => e.1 == v with
  | some (_, cu), some (_, cv) =>
    let b' := b.map fun e => if e.1 = u then (u, cv) else if e.1 = v then (v, cu) else e
    let ok := fun (a : ChanAddr) => match mapAt q.map a with
      | some x => fits q.im q.pol q.loads x (q.on b' a)
      | none => false
    if ok cu && ok cv && decide (q.cost b' < q.cost b) then b' else b
  | _, _ => b

/-- One pass over all pairs. -/
def Problem.pass (q : Problem) (b : Binding) : Binding :=
  let n := q.im.vchans.length
  ((List.range n).drop 1).foldl (fun b u => ((List.range n).drop (u + 1)).foldl (fun b v => q.trySwap b u v) b) b

/-- The procedure of R341. -/
def Problem.bind (q : Problem) : Option Binding := (q.order.foldl q.place1 (some [])).map (iter q.pass 4)

/-- The polders of every virtual channel: those of a channel in ascending v, most headroom first. -/
def Problem.polders (q : Problem) (b : Binding) : List (Nat × ChanAddr × BitVec 16) :=
  ((List.range q.im.vchans.length).foldl (fun (acc : List (Nat × ChanAddr × BitVec 16)) v =>
    match b.find? fun e => e.1 == v with
    | none => acc
    | some (_, a) =>
      let used := (acc.filter fun e => e.2.1 == a).foldl (fun (m : BitVec 16) e => m ||| e.2.2) 0
      let free : List (Nat × Nat) := match mapAt q.map a with
        | some x => (freePolders q.pol x).filter fun (e : Nat × Nat) => !used.getLsbD e.1
        | none => []
      let n := ((q.vch v).map fun (x : VChan) => x.polders).sum
      acc ++ [(v, a, ofBits 16 ((free.take n).map fun (e : Nat × Nat) => e.1))]) [])

/-! ### Routes (R319, R342) -/

/-- An entry of a route set in use: router, destination, port. -/
abbrev RouteEnt := ChanAddr × ChanAddr × BitVec 4

/-- Whether the entries of a set that are in use permit a port toward a destination. -/
def agrees (used : List RouteEnt) (dest : ChanAddr) : ChanAddr → Nat → Bool := fun r p =>
  match used.find? fun e => e.1 == r && e.2.1 == dest with
  | some e => e.2.2.toNat == p
  | none => true

/-- The routes between every two channels of a job under a rule, or none where a path is missing. -/
def routesFor (m : FMap) (as : List ChanAddr) (ok : ChanAddr → ChanAddr → Nat → Bool) :
    Option (List (ChanAddr × ChanAddr × List (ChanAddr × MapLink))) :=
  as.foldl (fun acc b =>
    let d := distTo m hopCost (ok b) b
    as.foldl (fun acc a =>
      match acc with
      | none => none
      | some l => if a = b then acc else (walk m (ok b) d b m.length a).map fun p => l ++ [(a, b, p)]) acc) (some [])

/-- The entries of paths. -/
def entriesOf (ps : List (ChanAddr × ChanAddr × List (ChanAddr × MapLink))) : List RouteEnt :=
  (ps.flatMap fun p => p.2.2.map fun h => (h.1, p.2.1, BitVec.ofNat 4 h.2.port)).dedup

/-- Dependencies of a path: consecutive links, each a router and a port. -/
def depsOf : List (ChanAddr × MapLink) → List ((ChanAddr × Nat) × (ChanAddr × Nat))
  | a :: b :: rest => ((a.1, a.2.port), (b.1, b.2.port)) :: depsOf (b :: rest)
  | _ => []

/-- Drops dependencies on links that depend on nothing. -/
def pruneDeps (l : List ((ChanAddr × Nat) × (ChanAddr × Nat))) : List ((ChanAddr × Nat) × (ChanAddr × Nat)) :=
  l.filter fun e => l.any fun f => f.1 == e.2

/-- Whether dependencies have no cycle (R319). -/
def acyclic (l : List ((ChanAddr × Nat) × (ChanAddr × Nat))) : Bool := (iter pruneDeps l.length l).isEmpty

/-! ### Set 0 (R318) -/

/-- Level of every channel in a breadth-first tree: hops from the lowest channel of module 0. -/
def levels (m : FMap) (root : ChanAddr) : Dist := distTo m (fun _ => 1) anyPort root

/-- Whether a hop goes up: to a lower level, ties to the lower address. -/
def goesUp (lv : Dist) (a b : ChanAddr) : Bool :=
  let la := (lv.look a.toNat).getD (2 ^ 32)
  let lb := (lv.look b.toNat).getD (2 ^ 32)
  decide (lb < la) || (la == lb && decide (b.toNat < a.toNat))

/-- Distances to a destination over down hops alone, and over up hops followed by down hops. -/
def upDown (m : FMap) (lv : Dist) (dest : ChanAddr) : Dist × Dist :=
  let only := fun (up : Bool) => m.map fun x => { x with links := x.links.filter fun l => goesUp lv x.addr l.partner == up }
  let down := distTo (only false) (fun _ => 1) anyPort dest
  (down, iter (fun d => (only true).foldl (fun (acc : Dist) x => match bestHop (fun _ => 1) (fun _ => true) acc x with
    | some (c, _) => match acc.look x.addr.toNat with
      | some o => if c < o then acc.set1 x.addr.toNat c else acc
      | none => acc.set1 x.addr.toNat c
    | none => acc) d) m.length down)

/-- Set 0's entry at a channel for a destination: a down path where there is one, else the best way up. -/
def route0 (m : FMap) (lv : Dist) (a dest : ChanAddr) : BitVec 4 :=
  if a = dest then 0xC
  else
    let (down, all) := upDown m lv dest
    match mapAt m a with
    | none => 0xF
    | some x =>
      let side := fun (up : Bool) => { x with links := x.links.filter fun l => goesUp lv a l.partner == up }
      match bestHop (fun _ => 1) (fun _ => true) down (side false) with
      | some (_, l) => BitVec.ofNat 4 l.port
      | none => match bestHop (fun _ => 1) (fun _ => true) all (side true) with
        | some (_, l) => BitVec.ofNat 4 l.port
        | none => 0xF

/-! ### Trees (R343) -/

/-- The parents of the tick tree: for each node but the master its parent. -/
def tickParents (m : FMap) (hops : Dist) (members : List ChanAddr) : List (ChanAddr × ChanAddr) :=
  let depth := fun (a : ChanAddr) => (hops.look a.toNat).getD (2 ^ 32)
  let top := (members.map depth).foldl max 0
  ((List.range top).reverse.foldl (fun (acc : List ChanAddr × List (ChanAddr × ChanAddr)) i =>
    let here := (acc.1.filter fun a => depth a == i + 1).sortWith fun a b => a.toNat ≤ b.toNat
    here.foldl (fun acc n =>
      let nbs : List ChanAddr := match mapAt m n with | some x => x.links.map (fun l => l.partner) | none => []
      let near := nbs.filter fun b => depth b == i
      let low := fun (l : List ChanAddr) => (l.sortWith fun a b => a.toNat ≤ b.toNat).head?
      match low (near.filter members.contains), low (near.filter acc.1.contains), low near with
      | some p, _, _ => (acc.1, acc.2 ++ [(n, p)])
      | none, some p, _ => (acc.1, acc.2 ++ [(n, p)])
      | none, none, some p => (acc.1 ++ [p], acc.2 ++ [(n, p)])
      | none, none, none => acc) acc) (members, [])).2

/-- The link from a channel to a neighbour, the lowest port. -/
def linkTo (m : FMap) (a b : ChanAddr) : Option MapLink :=
  (mapAt m a).bind fun x => ((x.links.filter fun l => l.partner == b).sortWith fun p q => p.port ≤ q.port).head?

def portIx (n : Nat) : Option PortIx := if h : n < 12 then some ⟨n, h⟩ else none

/-- The parent port of a node in a tree. -/
def parentPort (m : FMap) (ps : List (ChanAddr × ChanAddr)) (a : ChanAddr) : Option PortIx :=
  (ps.find? fun e => e.1 == a).bind fun e => (linkTo m a e.2).bind fun l => portIx l.port

/-- The child ports of a node. -/
def childPorts (m : FMap) (ps : List (ChanAddr × ChanAddr)) (a : ChanAddr) : List PortIx :=
  (ps.filter fun e => e.2 == a).filterMap fun e => (linkTo m e.1 a).bind fun l => portIx l.partnerPort

/-- The nodes of a tree. -/
def treeNodes (root : ChanAddr) (ps : List (ChanAddr × ChanAddr)) : List ChanAddr := (root :: ps.flatMap fun e => [e.1, e.2]).dedup

/-- Longest path delay of a tick tree, in 0.25 ns units: the hop latencies and the forwarding times (R322). -/
def tickPath (m : FMap) (ps : List (ChanAddr × ChanAddr)) : Nat → ChanAddr → Nat
  | 0, _ => 0
  | n + 1, a => match ps.find? fun e => e.1 == a with
    | none => 0
    | some e => tickPath m ps n e.2 + (match linkTo m a e.2 with | some l => l.latQns | none => 0) + Config.forwardQns

/-- A collective tree: its number, its virtual channels, its root, and each node's parent. -/
abbrev CollTree := BitVec 12 × List Nat × ChanAddr × List (ChanAddr × ChanAddr)

/-- The links of a tree, each from both of its ends. -/
def treeLinks (m : FMap) (ps : List (ChanAddr × ChanAddr)) : List (ChanAddr × Nat) :=
  ps.flatMap fun e => match linkTo m e.1 e.2 with
    | some l => [(e.1, l.port), (e.2, l.partnerPort)]
    | none => []

/-- The narrowest width on a tree, in lanes. -/
def treeWidth (m : FMap) (ps : List (ChanAddr × ChanAddr)) : Nat :=
  (ps.map fun e => match linkTo m e.1 e.2 with | some l => l.lanes | none => 8).foldl min 8

/-- A collective tree follows the job's routes toward its root (log entry 37). One beside other trees of its entry avoids their links, by
least-cost paths, where every member has such a path (R343). -/
def collParents (m : FMap) (ps : List (ChanAddr × ChanAddr × List (ChanAddr × MapLink))) (avoid : List (ChanAddr × Nat)) (root : ChanAddr)
    (members : List ChanAddr) : List (ChanAddr × ChanAddr) :=
  let plain := ((ps.filter fun p => p.2.1 == root && members.contains p.1).flatMap fun p => p.2.2.map fun h => (h.1, h.2.partner)).dedup
  if avoid.isEmpty then plain
  else
    let ok : ChanAddr → Nat → Bool := fun a p => !avoid.contains (a, p)
    let d := distTo m hopCost ok root
    match members.foldl (fun (acc : Option (List (ChanAddr × ChanAddr))) a =>
        acc.bind fun l => (walk m ok d root m.length a).map fun p => l ++ p.map fun h => (h.1, h.2.partner)) (some []) with
    | some l => l.dedup
    | none => plain

/-- Largest L for a job that spans a number of modules (Table 2.1). -/
def maxDepth (mods variant : Nat) : Nat :=
  if mods ≤ 1 then (if variant = 1 then 3 else 2)
  else if mods ≤ 8 then 4 else if mods ≤ 64 then 6 else if mods ≤ 512 then 10 else 14

/-! ### Slot tables (R307, R343, R344) -/

/-- The slot entries that a virtual link puts on the ports of its route: LOCAL at the source, transit entries behind it, each
later by the bound of a hop, 150 ns (R296; log entry 38). -/
def linkSlots (path : List (ChanAddr × MapLink)) (es : List SlotEntry) : List (ChanAddr × Nat × SlotEntry) :=
  (path.zip (none :: path.map some)).zipIdx.flatMap fun x =>
    let (router, l) := x.1.1
    let owner := match x.1.2 with | some (_, up) => BitVec.ofNat 4 up.partnerPort | none => 0xC
    es.map fun e => (router, l.port, { e with
      owner := if e.owner = 0xD then 0xD else owner, start := e.start + BitVec.ofNat 21 (15 * x.2) })

/-- The entries of one port, ascending START. -/
def portTable (all : List (ChanAddr × Nat × SlotEntry)) (a : ChanAddr) (p : Nat) : List SlotEntry :=
  ((all.filter fun e => e.1 == a && e.2.1 == p).map fun e => e.2.2).sortWith fun x y => x.start.toNat ≤ y.start.toNat

/-- When the last entry of a table closes, in picoseconds, at a flit time. -/
def tableClose (flit : Nat) (es : List SlotEntry) : Nat :=
  es.foldl (fun t e => max t (e.start.toNat * 10000) +
    (if e.owner = 0xD then (e.count.toNat + 1) * 10000 else (e.count.toNat + 1) * flit)) 0

/-- Predicted stretch in picoseconds (R344): S is lengthened by the latest closing of any port's table. -/
def predicted (im : JobImage) (m : FMap) (all : List (ChanAddr × Nat × SlotEntry)) (fNs : Nat) : Nat :=
  let ports := (all.map fun e => (e.1, e.2.1)).dedup
  let delay := (ports.map fun e =>
    let lanes := match (mapAt m e.1).bind fun x => x.links.find? fun l => l.port == e.2 with | some l => l.lanes | none => 8
    let es := portTable all e.1 e.2
    tableClose (34000 / max lanes 1) es - tableClose 4250 es).foldl max 0
  im.nominalNs * 1000 + delay + fNs * 1000 - im.periodUs * 1000000

end Sys2Proof.Machine
end

