-- ==== Sys2Proof/Machine/Placement.lean ====
section
/-!
DEFINITION. Placement at work (R318, R346-R350, R372, R481): the plan of a job, its claims, the writes of its tables, admission,
and the fabric map's keeper (R335), discovery and joining (R315-R317).
-/

namespace Sys2Proof.Machine

/-! ### The plan -/

/-- What placement computes for a job. -/
structure PlanOut where
  place  : List (Nat × ChanAddr × BitVec 16)
  tables : List (ChanAddr × TableRec)
  trees  : List (BitVec 12)
  widths : List Nat
  rset   : BitVec 2
  routes : List RouteEnt
  depth  : Nat
deriving DecidableEq, Repr

/-- Shares of the jobs on channels, other than one (R339). -/
def State.loads (s : State) (key : Nat) : Loads := fun a =>
  (s.mc.jobs.filter fun e => e.1 != key && e.2.admitted).filterMap fun e =>
    let vs := (e.2.place.filter fun b => b.2.1 == a).flatMap fun b => (e.2.image.vchans[b.1]?).toList
    let share := (vs.map (·.share)).sum
    if vs.isEmpty then none else some (share, windowShare e.2.image share)

/-- Homes that hold no virtual channel, with the held share they need (R218). -/
def State.homeNeeds (s : State) (ctx : Nat) (im : JobImage) (members : List ChanAddr) : List (ChanAddr × Nat) :=
  let allocs := match s.mc.ctxs.look ctx with | some x => x.allocs | none => []
  let written := im.homeHeld.filterMap fun e => (allocs.look e.1).bind fun a =>
    if a.kind = .hbm then some (a.channel, e.2) else none
  let fed := im.inputs.flatMap fun d => d.homes.map fun h => (h.1, 0)
  let all := (written ++ fed).filter fun e => !members.contains e.1
  ((all.map (·.1)).dedup).map fun a => (a, ((all.filter fun e => e.1 == a).map (·.2)).sum)

/-- The polders of a home reserve: whole free polders, ascending, until their held share covers the need; none where there
are too few (R218). -/
def reserveFor (x : MapChan) (units : Nat) : Option (BitVec 16) :=
  let n := (units + 8 * x.held - 1) / max (8 * x.held) 1
  let free := (x.polders.zipIdx.filter fun e => e.1.isSome).map (·.2)
  if units = 0 then some 0
  else if x.held = 0 ∨ free.length < n then none else some (ofBits 16 (free.take n))

/-- The route set of R342, by the routes of the jobs led here and by what the routers of this module hold: the lowest of 1-3 whose entries
agree, or the first with an agreeing path for every pair. -/
def State.jobRoutes (s : State) (key : Nat) (m : FMap) (as : List ChanAddr) :
    Option (BitVec 2 × List (ChanAddr × ChanAddr × List (ChanAddr × MapLink))) :=
  let own := (List.finRange 8).flatMap fun c => (s.chan c).router.routes.toList.zipIdx.flatMap fun e =>
    e.1.map fun r => (e.2, ((s.addrOf c, BitVec.ofNat 15 r.1, r.2) : RouteEnt))
  let used := fun (k : BitVec 2) => ((s.mc.jobs.filter fun e => e.1 != key && e.2.rset == k).flatMap fun e => e.2.routes) ++
    (own.filter fun e => e.1 == k.toNat).map (·.2)
  let sets : List (BitVec 2) := [1, 2, 3]
  match routesFor m as fun _ => anyPort with
  | none => none
  | some ps =>
    let es := entriesOf ps
    match sets.find? fun k => es.all fun e => agrees (used k) e.2.1 e.1 e.2.2.toNat with
    | some k => some (k, ps)
    | none => sets.findSome? fun k => (routesFor m as fun b => agrees (used k) b).map fun r => (k, r)

/-- Dependencies of the routes in force: set 0's, and those of the admitted jobs (R319). -/
def State.routeDeps (s : State) (m : FMap) : List ((ChanAddr × Nat) × (ChanAddr × Nat)) :=
  let lv := match m.head? with | some x => levels m x.addr | none => []
  let next := fun (a d : ChanAddr) (e : BitVec 4) => ((mapAt m a).bind fun x => x.links.find? fun l => l.port == e.toNat).map
    fun l => (a, d, l)
  let zero := m.flatMap fun x => m.filterMap fun y => if x.addr = y.addr then none else next x.addr y.addr (route0 m lv x.addr y.addr)
  let jobs := (s.mc.jobs.filter fun e => e.2.admitted).flatMap fun e => e.2.routes.filterMap fun r => next r.1 r.2.1 r.2.2
  let pairs := fun (l : List (ChanAddr × ChanAddr × MapLink)) => l.flatMap fun x => l.filterMap fun y =>
    if y.1 = x.2.2.partner ∧ y.2.1 = x.2.1 then some ((x.1, x.2.2.port), (y.1, y.2.2.port)) else none
  (pairs zero ++ pairs jobs).dedup

/-- The lowest tree numbers that no router of this module uses. -/
def State.freeTrees (s : State) (n : Nat) : List (BitVec 12) :=
  (((List.range 4096).filter fun t => !(s.ch.any fun h => (h.router.trees.look t).isSome)).take n).map (BitVec.ofNat 12 ·)

/-- A credit loop's window at a node with two or more inputs: 36 ledgers per 10 ns at the hop's width (R343). -/
def creditWindow (m : FMap) (a : ChanAddr) (ports : List PortIx) : Nat :=
  let links : List MapLink := match mapAt m a with | some x => x.links.filter fun (l : MapLink) => ports.any fun p => p.val == l.port | none => []
  (links.map fun l => 36 * ((l.latQns / 2 + 9) / 10) * l.lanes / 8).foldl max 0

/-- A collective tree's entry at a node. -/
def treeAt (m : FMap) (num : BitVec 12) (ps : List (ChanAddr × ChanAddr)) (place : Binding) (vs : List Nat) (a : ChanAddr) :
    TreeRec :=
  let up := parentPort m ps a
  let kids := childPorts m ps a
  let here := (place.filter fun b => b.2 == a && vs.contains b.1).length
  let ports := up.toList ++ kids
  { num := num, mask := ofBits 12 (ports.map (·.val)), deliver := here != 0, parent := up, inputs := kids.length + here,
    window := if 2 ≤ kids.length + here then creditWindow m a ports else 0, tick := false }

/-- Nearest channel of another module with room for a checkpoint, ties lower address (R343). -/
def buddyFor (q : Problem) (a : ChanAddr) (bytes : Nat) : ChanAddr :=
  let cs := q.map.filter fun x => x.addr.toNat / 8 != a.toNat / 8 && decide (bytes ≤ x.ckptFree) && x.ckptFree != 0
  (bestOf (cs.map fun x => (q.d a x.addr, 0, x.addr))).getD 0

/-- Computes a placement on the present map (R334-R345), or the code of Table 12.6. -/
def State.plan (s : State) (ctx job : Nat) (jb : Job) (who : ClaimId) : Except Nat PlanOut :=
  let im := jb.image
  let pol := policy jb.policy
  let m := s.mc.fab.map
  let lead := jb.lead.toNat / 8
  let q : Problem := { im := im, pol := pol, loads := s.loads (jobKey ctx job), map := m, lead := lead,
                       dists := m.map fun x => (x.addr, distTo m hopCost anyPort x.addr) }
  if !topologyOk im then .error stTopology
  else match q.bind with
  | none => .error stNoFit
  | some b =>
    let place := q.polders b
    let members := (b.map (·.2)).dedup
    let master := match b with | e :: _ => e.2 | [] => 0
    let needs := s.homeNeeds ctx im members
    let homes := needs.map (·.1)
    let reserves := needs.map fun e => (e.1, (mapAt m e.1).bind fun x => if x.freeSlots = 0 then none else reserveFor x e.2)
    if reserves.any fun e => e.2.isNone then .error stNoFit
    else match s.jobRoutes (jobKey ctx job) m (members ++ homes) with
    | none => .error stNoRoute
    | some (rset, paths) =>
      let routes := entriesOf paths
      if !acyclic (s.routeDeps m ++ paths.flatMap fun p => depsOf p.2.2) then .error stNoRoute
      else
        let hops := distTo m (fun _ => 1) anyPort master
        let ps := tickParents m hops members
        let depth := (members.map fun a => (hops.look a.toNat).getD (2 ^ 32)).foldl max 0
        let mods := (members.map fun a => a.toNat / 8).dedup.length
        if maxDepth mods s.mc.fuses.variant.toNat < depth ∨ im.periodUs * 1000 < im.nominalNs + fenceNs depth then .error stFrame
        else
          let slots := im.links.flatMap fun e =>
            match b.find? fun x => x.1 == e.1, b.find? fun x => x.1 == e.2.1 with
            | some (_, u), some (_, v) => (match paths.find? fun p => p.1 == u && p.2.1 == v with
              | some p => linkSlots p.2.2 e.2.2
              | none => [])
            | _, _ => []
          let owned := slots.any fun e => match mapAt m e.1 with
            | some x => x.links.any fun l => l.port == e.2.1 && l.owned
            | none => true
          let nums := s.freeTrees (im.trees.length + 1)
          if owned then .error stNoRoute
          else if nums.length < im.trees.length + 1 then .error stNoFit
          else if pol.maxStretch * im.periodUs * 10000 < predicted im m slots (fenceNs depth) then .error stStretch
          else
            let tick := nums.headD 0
            let at_ := fun (v : Nat) => ((b.find? fun x => x.1 == v).map (·.2)).getD 0
            let beside := fun (i k : Nat) => im.colls.any fun e => e.trees.contains i && e.trees.contains k
            let colls : List CollTree := (im.trees.zip (nums.drop 1)).foldl (fun (acc : List CollTree) e =>
              let avoid := (acc.zipIdx.filter fun x => beside x.2 acc.length).flatMap fun x => treeLinks m x.1.2.2.2
              let root := at_ (e.1.headD 0)
              acc ++ [(e.2, e.1, root, collParents m paths avoid root (e.1.map at_).dedup)]) []
            let dmax := (members.map fun a => tickPath m ps m.length a).foldl max 0 + 80
            let fail := ((members.filter fun a => a.toNat / 8 != master.toNat / 8).sortWith fun a c =>
              let da := (hops.look a.toNat).getD 0
              let dc := (hops.look c.toNat).getD 0
              da < dc || (da == dc && a.toNat ≤ c.toNat)).take 4
            let touched := (members ++ homes ++ routes.map (·.1) ++ treeNodes master ps ++
              colls.flatMap fun e => treeNodes e.2.2.1 e.2.2.2).dedup
            let tables := touched.map fun a =>
              let mine := place.filter fun e => e.2.1 == a
              let isHome := homes.contains a
              let free := match mapAt m a with | some x => (bitsOf x.freeSlots).head? | none => none
              let slot : Option SlotIx := if mine.isEmpty && !isHome then none
                else free.bind fun n => if h : n < 16 then some ⟨n, h⟩ else none
              let bytes := (mine.flatMap fun e => (q.vch e.1).map (·.ckptBytes)).sum
              let up := parentPort m ps a
              let kids := childPorts m ps a
              let trees := ((if (treeNodes master ps).contains a then
                  [({ num := tick, mask := ofBits 12 ((up.toList ++ kids).map (·.val)), deliver := !mine.isEmpty, parent := up,
                      inputs := 0, window := 0, tick := true } : TreeRec)] else []) ++
                (colls.filter fun e => (treeNodes e.2.2.1 e.2.2.2).contains a).map fun e => treeAt m e.1 e.2.2.2 b e.2.1 a)
              let ports := ((slots.filter fun e => e.1 == a).map fun e => e.2.1).dedup
              let hopsOut := (routes.filter fun r => r.1 == a).filterMap fun r => portIx r.2.2.toNat
              let t : TableRec :=
                { who := who, ctx := ctx, job := job, slot := slot, vchs := mine.map fun e => (e.1, e.2.2),
                  reserve := ((reserves.find? fun e => e.1 == a).bind (·.2)).getD 0, lead := a == master, tree := tick,
                  parent := up, children := kids, rset := rset,
                  routes := (a, 0xC) :: ((routes.filter fun r => r.1 == a).map fun r => r.2),
                  trees := trees, tables := ports.filterMap fun p => (portIx p).map fun i => (i, portTable slots a p),
                  users := (hopsOut ++ up.toList ++ kids).dedup, dmax := dmax, depth := depth, master := master,
                  failover := fail, buddy := if slot.isSome then buddyFor q a bytes else 0, members := members,
                  nonMembers := homes, frame := jb.restore.getD 0, restart := jb.restore.isSome, image := im }
              (a, t)
            .ok { place := place, tables := tables, trees := nums.drop 1, rset := rset, routes := routes, depth := depth,
                  widths := colls.map fun e => treeWidth m e.2.2.2 }

/-! ### Claims (R346) -/

/-- The resources that a channel's writes take. -/
def tableClaims (t : TableRec) : List Resource :=
  let pds := (t.vchs.map (·.2)).foldl (· ||| ·) t.reserve
  ((List.finRange 16).filter fun p => pds.getLsbD p.val).map Resource.polder ++
    (t.slot.toList.map Resource.slot) ++ t.tables.map (fun e => Resource.port e.1) ++
    t.trees.map (fun e => Resource.tree e.num) ++
    (let n := (t.trees.map (·.window)).sum; if n = 0 then [] else [Resource.store n])

/-- Space claimed at buddies: the checkpoint bytes of each channel that has one. -/
def buddyClaims (tables : List (ChanAddr × TableRec)) : List (ChanAddr × Resource) :=
  tables.filterMap fun e =>
    let bytes := (e.2.vchs.map fun v => match e.2.image.vchans[v.1]? with | some x => x.ckptBytes | none => 0).sum
    if e.2.buddy = 0 ∨ bytes = 0 then none else some (e.2.buddy, .buddy bytes)

/-- Whether a channel can still grant a resource: neither claimed nor held (R346). -/
def State.grantable (s : State) (c : Chan) (r : Resource) : Bool :=
  let h := s.chan c
  let claimed := h.claims.any fun x => x.2.1 == r
  if h.st.oos.getLsbD 10 || s.testHolds c then false
  else match r with
  | .polder p => !claimed && (h.mapPolder p).isSome
  | .slot j => !claimed && !h.slots[j.val].live
  | .port p => !claimed && h.ports[p.val].owner.isNone
  | .tree t => !claimed && (h.router.trees.look t.toNat).isNone
  | .store n =>
    let held := (h.router.trees.map fun t => t.2.window).sum
    let want := (h.claims.map fun x => match x.2.1 with | .store k => if x.2.2 then 0 else k | _ => 0).sum
    decide (held + want + n ≤ 8192)
  | .route k d => !claimed && (h.router.routes[(setIx k).val].look d.toNat).isNone
  | .buddy n => decide (n ≤ 4096 * s.freeHbm c)

/-- A claim at a channel: the first one is granted, any on a resource already claimed or held refused. -/
def State.claimAt (s : State) (c : Chan) (who : ClaimId) (r : Resource) : State :=
  let ok := s.grantable c r
  let s1 := if ok then s.onChan c fun h => { h with claims := h.claims ++ [(who, r, false)] } else s
  if who.module = s.mc.fab.id then s1 else s1.sendMgmt c (moduleAddr who.module) (.claimReply r ok)

/-- CLAIM: a claim reaches a channel. -/
def execClaim (c : Chan) (who : ClaimId) (r : Resource) (s : State) : Res := .next (s.claimAt c who r)

/-- Drops the claims of an attempt that nothing has confirmed, or all of them. -/
def State.dropClaims (s : State) (c : Chan) (who : ClaimId) (all : Bool) : State :=
  s.onChan c fun h => { h with claims := h.claims.filter fun x => x.1 != who || (x.2.2 && !all) }

/-- A claim neither confirmed nor released within 10 s lapses. -/
def execClaimLapse (c : Chan) (who : ClaimId) (s : State) : Res := .next (s.dropClaims c who false)

/-- Releases every claim of an attempt. -/
def State.releaseClaims (s : State) (p : Placing) : State :=
  let as := ((p.claims ++ p.granted).map (·.1)).dedup
  s.each as fun t a => match t.localChan a with
    | some c => t.dropClaims c p.id true
    | none => match t.localChan (((p.place.head?).map (·.2.1)).getD 0) with
      | some c => t.sendMgmt c a (.release p.id false)
      | none => t

def State.onFab (s : State) (f : Fabric → Fabric) : State := s.onMc fun m => { m with fab := f m.fab }

/-- Milliseconds of an attempt (MC_PLACE_STAT.LAST_MS). -/
def Placing.ms (p : Placing) (now : Nat) : Nat := min ((now - p.startNs) / 1000000) (2 ^ 32 - 1)

/-- A placement that has failed (R349): START completes with the code, or the restart has failed and the job stays halted. -/
def State.placeFails (s : State) (p : Placing) (code : Nat) : State :=
  let s1 := s.onFab fun f => { f with placing := none, placeState := 5, placeCode := BitVec.ofNat 8 code, lastMs := p.ms s.timeNs }
  match s.job p.ctx p.job with
  | none => s1
  | some jb =>
    if p.restart then s1.jobEvent p.ctx p.job 3 code 0 (jb.restore.getD 0)
    else (s1.onMc fun m => { m with jobs := m.jobs.drop1 (jobKey p.ctx p.job) }).complete jb.start code 0

/-- One computation: on success the claims go out; on failure a RETRY waits for the next map version, for the codes of
R346. -/
def State.attempt (s : State) (p0 : Placing) : State :=
  match s.job p0.ctx p0.job with
  | none => s.onFab fun f => { f with placing := none, placeState := 0 }
  | some jb =>
    let id : ClaimId := ⟨s.mc.fab.id, s.mc.fab.attempts⟩
    let p := { p0 with id := id, startNs := s.timeNs, version := s.mc.fab.version, waiting := false }
    let s1 := s.onFab fun f => { f with attempts := f.attempts + 1, reruns := p.reruns }
    match s.plan p.ctx p.job jb id with
    | .error code =>
      if (policy jb.policy).retry && (code == stNoFit || code == stStretch) then
        s1.onFab fun f => { f with placing := some { p with waiting := true, claims := [], granted := [] }, placeState := 6,
                                   placeCode := BitVec.ofNat 8 code, lastMs := 0 }
      else s1.placeFails p code
    | .ok o =>
      let claims := (o.tables.flatMap fun e => (tableClaims e.2).map fun r => (e.1, r)) ++ buddyClaims o.tables ++
        (o.routes.filter fun r => match s.localChan r.1 with
          | some c => ((s.chan c).router.routes[(setIx o.rset).val].look r.2.1.toNat).isNone
          | none => true).map fun r => (r.1, Resource.route o.rset r.2.1)
      let p1 := { p with claims := claims, granted := [], tables := o.tables, writes := [], place := o.place, trees := o.trees,
                         widths := o.widths, rset := o.rset, routes := o.routes, depth := o.depth }
      let s2 := s1.onFab fun f => { f with placing := some p1, placeState := 2 }
      match s.localChan jb.lead with
      | none => s2
      | some c => s2.each (claims.filter fun e => (s.localChan e.1).isNone) fun t e => t.sendMgmt c e.1 (.claim id e.2)

/-- Releases the claims, takes a new snapshot and runs again; after three re-runs the placement fails, or waits (R346). -/
def State.rerun (s : State) (p : Placing) : State :=
  let s1 := s.releaseClaims p
  if 3 ≤ p.reruns then
    match s.job p.ctx p.job with
    | some jb =>
      if (policy jb.policy).retry then
        s1.onFab fun f => { f with placing := some { p with waiting := true, claims := [], granted := [], reruns := 0 },
                                   placeState := 6, placeCode := BitVec.ofNat 8 stContended }
      else s1.placeFails p stContended
    | none => s1.placeFails p stContended
  else s1.attempt { p with reruns := p.reruns + 1 }

/-- Starts a placement of a job (R337). -/
def State.startPlacing (s : State) (ctx job : Nat) (restart : Bool) : State :=
  (s.onFab fun f => { f with placeState := 1, reruns := 0 }).attempt
    { ctx := ctx, job := job, id := ⟨s.mc.fab.id, 0⟩, claims := [], granted := [], tables := [], writes := [], place := [],
      trees := [], widths := [], rset := 0, routes := [], depth := 0, reruns := 0, version := 0, firstNs := s.timeNs, startNs := s.timeNs,
      waiting := false, restart := restart }

/-! ### The writes (R347, R372, R481) -/

/-- A pump as admission loads it: entry, program, constants, kernel code; every slice of the job is cleared (R233). -/
def Pump.load (v : Nat) (index : Nat) (pi : Option PumpImage) : Pump :=
  let q := { Pump.reset with vch := v, index := index, slice := { Slice.reset with clearing := true } }
  let fill := fun (l : List (BitVec 64)) => (l.zipIdx.foldl (fun (m : SMap (BitVec 64)) e => m.set1 e.2 e.1) [])
  match pi with
  | none => q
  | some i => { q with entry := i.entry, prog := fill i.program, dmem := (fill i.consts).filter fun e => e.2 != 0,
                       te := { q.te with code := fill i.code } }

/-- Loads the pumps of one virtual channel: pump 8i + k on logical pump k of its i-th polder. -/
def State.loadVch (s : State) (c : Chan) (im : JobImage) (v : Nat) (pds : BitVec 16) : State :=
  match im.vchans[v]? with
  | none => s
  | some vc =>
    let l := ((List.finRange 16).filter fun p => pds.getLsbD p.val).zipIdx
    s.each l fun t e => t.each (List.finRange 8) fun u k =>
      let i := 8 * e.2 + k.val
      u.onPump c (pumpOf e.1 k) fun _ => Pump.load v i (vc.pumps.find? fun x => x.index == i)

/-- The slot-scoped ST values of an image. -/
def imageSet (im : JobImage) : SlotSet :=
  { periodUs := im.periodUs, wdogMs := im.wdogMs, interval := im.ckptEvery, limit := im.thrashLimit, trickle := im.trickle }

/-- The slot of a job as admission writes it (R479, R481). -/
def admitSlot (t : TableRec) (set : SlotSet) : Slot :=
  let nominal := (t.vchs.map fun e => match t.image.vchans[e.1]? with | some v => v.nominalNs | none => 0).foldl max 0
  { Slot.reset with
    regs := { SlotRegs.reset with set := set, windowUs := t.image.windowUs, windowLog2 := t.image.windowLog2, frame := t.frame,
                                  dmax := t.dmax },
    stg := { Staging.reset with set := set },
    job := { state := if t.restart then .restoring else .admitting, strict := t.image.strict, lead := t.lead, acting := false,
             ctx := t.ctx, job := t.job, vch := ((t.vchs.head?).map (·.1)).getD 0, nvch := t.vchs.length,
             polders := (t.vchs.map (·.2)).foldl (· ||| ·) 0, tree := t.tree, parent := t.parent, children := t.children,
             rset := t.rset, master := t.master, failover := t.failover, buddy := t.buddy, nonMembers := t.nonMembers,
             members := t.members, nominalNs := nominal, budgetNs := t.image.nominalNs, depth := t.depth,
             digest := t.image.digest } }

/-- Polders of an admitted job: their power configuration, their home reserve, and their ramps (R423, R481). -/
def State.admitPolders (s : State) (c : Chan) (t : TableRec) (j : SlotIx) (pwr : List (Bool × Nat)) : State :=
  let mine := (t.vchs.map (·.2)).foldl (· ||| ·) 0
  let cfg := fun (i : Nat) => (pwr[i]?).getD (false, 0)
  let s1 := s.each (((List.finRange 16).filter fun p => mine.getLsbD p.val).zipIdx) fun u e =>
    (u.onPolder c e.1 fun q => { q with slotMode := (cfg e.2).1, upUs := (cfg e.2).2, stSlotMode := (cfg e.2).1,
                                        stUpUs := (cfg e.2).2, deferrals := 0, rampDefers := 0, step := 0 }).wantRamp c e.1
  s1.each ((List.finRange 16).filter fun p => t.reserve.getLsbD p.val) fun u p => u.onPolder c p fun q => { q with reserve := some j }

/-- The region that admission commits on a channel that held no job (R481). -/
def State.admitRegion (s : State) (c : Chan) (t : TableRec) : State :=
  let (pin, held) := regionOf (t.vchs.flatMap fun e => (t.image.vchans[e.1]?).toList)
  let h := s.chan c
  (s.onChan c fun y => { y with
    set := { y.set with pin := pin, held := held, pinMax := max y.set.pinMax pin },
    stSet := { y.stSet with pin := pin, held := held, pinMax := max y.set.pinMax pin } }).regionChange c h.set.pin pin

/-- Applies placement's writes at a channel of this module, and confirms its claims. -/
def State.applyTables (s : State) (c : Chan) (t : TableRec) (set : SlotSet) (pwr : List (Bool × Nat)) : State :=
  let first := (s.chan c).liveSlots.isEmpty
  let s1 := match t.slot with
    | none => s
    | some j =>
      let a := if first && !t.vchs.isEmpty then s.admitRegion c t else s
      let b := a.onSlot c j fun _ => admitSlot t set
      (b.each t.vchs fun u e => u.loadVch c t.image e.1 e.2).admitPolders c t j pwr
  (s1.onChan c fun h => { h with
    claims := (h.claims.map fun x => if x.1 = t.who then (x.1, x.2.1, true) else x).filter fun x =>
      x.1 != t.who || (match x.2.1 with | .buddy _ | .slot _ | .tree _ | .route _ _ => true | _ => false),
    ports := h.ports.mapFinIdx fun i p _ =>
      let p1 := match t.tables.find? fun e => e.1.val == i with
        | some e => { p with owner := t.slot, table := e.2, cursor := 0, left := 0, eqNs := 0 }
        | none => p
      match t.slot with
      | some j => if t.users.any fun u => u.val == i then { p1 with users := p1.users ++ [j] } else p1
      | none => if t.users.any fun u => u.val == i then
          { p1 with through := p1.through ++ [⟨t.who, t.ctx, t.job, t.master, t.failover⟩] } else p1,
    router := { h.router with
      routes := upd h.router.routes (setIx t.rset) fun m => t.routes.foldl (fun m e => m.set1 e.1.toNat e.2) m,
      trees := t.trees.foldl (fun m e => m.set1 e.num.toNat
        { mask := e.mask, deliver := e.deliver, parent := e.parent, slot := if e.deliver then t.slot else none,
          inputs := e.inputs, window := e.window, reports := [], lastTick := none, halt := false, faults := [], ahead := 0 })
        h.router.trees } }).mapSync c

/-- The configuration that the checkpoint of a restart holds for a member: that of the same virtual channels where they stood, by their
first one; a member without one takes the first saved, and a channel without a checkpoint the image's (R57, R64, log entry 151). -/
def Job.savedConfig (jb : Job) (t : TableRec) : SlotSet × List (Bool × Nat) :=
  let ks := match jb.ckpts.find? fun e => some e.1 == jb.restore with | some e => e.2 | none => []
  let old := (t.vchs.head?).bind fun v => ((jb.place.find? fun b => b.1 == v.1).map (·.2.1)).bind fun a => ks.find? fun k => k.chan == a
  match old, ks with
  | some k, _ => (k.config, k.pwr)
  | none, k :: _ => (k.config, jb.image.polderCfg)
  | none, [] => (imageSet jb.image, jb.image.polderCfg)

/-- Every claim is granted: tables are written at every channel concerned, and the claims are confirmed. -/
def State.writeTables (s : State) (p : Placing) : State :=
  match s.job p.ctx p.job with
  | none => s
  | some jb =>
    let s1 := s.each p.tables fun t e =>
      let cfg := if p.restart then jb.savedConfig e.2 else (imageSet jb.image, jb.image.polderCfg)
      match t.localChan e.1 with
      | some c => t.applyTables c e.2 cfg.1 cfg.2
      | none => match t.localChan jb.lead with
        | some c => t.sendMgmt c e.1 (.tables e.2)
        | none => t
    (s1.onJob p.ctx p.job fun x => { x with
      place := p.place, trees := p.trees, widths := p.widths, rset := p.rset, routes := p.routes, depth := p.depth, claim := p.id,
      lead := ((p.place.head?).map (·.2.1)).getD x.lead,
      slots := p.tables.filterMap fun e => e.2.slot.map fun j => (e.1, j) }).onFab fun f =>
        { f with placing := some { p with writes := p.tables.map (·.1) }, placeState := 3 }

/-- A claim's reply (R346). A channel of this module answers as its own record stands. -/
def State.claimAnswer (s : State) (r : Resource) (at_ : ChanAddr) (granted : Bool) : State :=
  match s.mc.fab.placing with
  | none => s
  | some p =>
    let there : Bool := match s.localChan at_ with
      | some c => (s.chan c).claims.any fun x => x.1 == p.id && x.2.1 == r
      | none => granted
    if s.mc.inReset ∨ !p.claims.contains (at_, r) ∨ there ≠ granted then s
    else if granted then
      let p1 := { p with claims := p.claims.erase (at_, r), granted := p.granted ++ [(at_, r)] }
      if p1.claims.isEmpty then s.writeTables p1 else s.onFab fun f => { f with placing := some p1 }
    else s.rerun { p with claims := p.claims.erase (at_, r) }

/-- CLAIM_REPLY. -/
def execClaimReply (r : Resource) (at_ : BitVec 15) (granted : Bool) (s : State) : Res := .next (s.claimAnswer r at_ granted)

/-- Number under which the contexts of another module's Gnover stand here. -/
def awayCtx (m : BitVec 12) (ctx : Nat) : Nat := 2 ^ 20 * (m.toNat + 1) + ctx

/-- Placement writes of a job that another module leads. -/
def State.applyAway (s : State) (c : Chan) (t : TableRec) : State :=
  s.applyTables c { t with ctx := awayCtx t.who.module t.ctx } (imageSet t.image) t.image.polderCfg

/-- A release from the Gnover that claimed: the slot, trees and routes that its claims confirmed are free, and the port lists name its
job no more. -/
def State.releaseAway (s : State) (c : Chan) (who : ClaimId) (keep : Bool) : State :=
  let mine := ((s.chan c).claims.filter fun x => x.1 == who && x.2.2).map (·.2.1)
  let js := mine.filterMap fun r => match r with | .slot j => some j | _ => none
  let used := s.mc.jobs.flatMap fun e => e.2.routes.map fun r => (e.2.rset, r)
  let s1 := (s.each js fun t j => t.freeSlot c j).onChan c fun h =>
    let drop := fun (k : Fin 4) (m : SMap (BitVec 4)) => mine.foldl (fun m r => match r with
      | .route q d => if setIx q = k ∧ !used.any (fun u => u.1 == q && u.2.1 == s.addrOf c && u.2.2.1 == d) then m.drop1 d.toNat else m
      | _ => m) m
    Channel.endClaims { h with
      ports := h.ports.map fun p => { p with through := p.through.filter fun x => x.who != who },
      router := { h.router with
        routes := Vector.ofFn fun k : Fin 4 => drop k h.router.routes[k.val],
        trees := h.router.trees.filter fun e => !mine.any fun r => r == .tree (BitVec.ofNat 12 e.1) } } who keep
  s1.mapSync c

/-! ### Admission (R372, R373) -/

/-- First run of `n` free lines among taken ranges (base and count), ascending. -/
def fitLines (total n : Nat) (taken : List (Nat × Nat)) : Option Nat :=
  let sorted := taken.sortWith fun a b => a.1 ≤ b.1
  let (found, at_) := sorted.foldl (fun (acc : Option Nat × Nat) e =>
    match acc.1 with
    | some x => (some x, acc.2)
    | none => if acc.2 + n ≤ e.1 then (some acc.2, acc.2) else (none, max acc.2 (e.1 + e.2))) (none, 0)
  match found with
  | some x => some x
  | none => if at_ + n ≤ total then some at_ else none

/-- Byte ranges of a channel's HBM that allocations take. -/
def State.hbmTaken (s : State) (a : ChanAddr) : List (Nat × Nat) :=
  s.mc.ctxs.flatMap fun x => x.2.allocs.flatMap fun e =>
    match e.2.kind with
    | .hbm => if e.2.channel = a then [(e.2.base, e.2.size)] else []
    | .distributed => if e.2.pinned then [] else (e.2.bound.filter fun b => b.2.1 == a).map fun b => (b.2.2.1, e.2.size)
    | .pinned => []

/-- Byte ranges of the slices of a job's polders that pinned allocations take at a channel. -/
def State.pinTaken (s : State) (a : ChanAddr) (ps : List Nat) : List (Nat × Nat) :=
  s.mc.ctxs.flatMap fun x => x.2.allocs.flatMap fun e =>
    match e.2.kind with
    | .hbm => []
    | .pinned => if e.2.channel = a ∧ ps.any fun p => e.2.slices.getLsbD p then [(e.2.base, e.2.size)] else []
    | .distributed => if e.2.pinned then
        (e.2.bound.filter fun b => b.2.1 == a && b.2.2.2.any fun p => ps.contains p.val).map fun b =>
          (b.2.2.1, (e.2.size / 32 + b.2.2.2.length - 1) / max b.2.2.2.length 1 * 32)
      else []

/-- Binds one distributed allocation's shard for a virtual channel; none where memory is lacking (R361, R372). -/
def State.bindShard (s : State) (ctx job handle : Nat) (a : Alloc) (v : Nat) (ch : ChanAddr) (pds : BitVec 16) : Option State :=
  let put := fun (base : Nat) (ps : List PumpIx) => s.onCtx ctx fun x => { x with allocs := x.allocs.alter handle fun y =>
    { y with bound := y.bound ++ [(v, ch, base, ps)], job := job } }
  if a.pinned then
    let ps := (List.finRange 128).filter fun p => pds.getLsbD (p.val / 8)
    let part := (a.size / 32 + ps.length - 1) / max ps.length 1 * 32
    let room := match mapAt s.mc.fab.map ch with | some x => x.pin * 262144 | none => 0
    (fitLines room part (s.pinTaken ch (ps.map (·.val)))).map fun b => put b ps
  else
    let room := match s.localChan ch with
      | some c => (s.chan c).hbmLines * 4096
      | none => match mapAt s.mc.fab.map ch with | some x => x.freeLines * 4096 | none => 0
    (fitLines room ((a.size + 4095) / 4096 * 4096) (s.hbmTaken ch)).map fun b => put b []

/-- Binds the distributed allocations that an image names. -/
def State.bindAll (s : State) (ctx job : Nat) (jb : Job) : Option State :=
  let hs : List (Nat × Alloc) := match s.mc.ctxs.look ctx with
    | some x => x.allocs.filter fun (e : Nat × Alloc) => e.2.kind == .distributed && e.2.bound.isEmpty && imageNames jb.image e.1
    | none => []
  hs.foldl (fun (acc : Option State) e => jb.place.foldl (fun (acc : Option State) b => acc.bind fun t =>
    if b.1 < e.2.shards then t.bindShard ctx job e.1 e.2 b.1 b.2.1 b.2.2 else some t) acc) (some s)

/-- START ends (R372): memory is bound and it completes with SUCCESS, or NO_RESOURCE and nothing is left. A restart goes on
to its restore. -/
def State.admitJob (s : State) (p : Placing) : State :=
  match s.job p.ctx p.job with
  | none => s
  | some jb =>
    let s0 := s.onFab fun f => { f with placing := none, placeState := 4, lastMs := p.ms s.timeNs }
    match s0.bindAll p.ctx p.job jb with
    | none => (((s0.release p.ctx p.job).releaseClaims p).onMc fun m => { m with jobs := m.jobs.drop1 (jobKey p.ctx p.job) }).complete jb.start
        stNoResource 0
    | some t =>
      let t0 := t.each (t.reduceViews p.ctx jb.image) fun u w => u.reserveView w true
      let t1 := t0.onJob p.ctx p.job fun x => { x with admitted := true, halted := false }
      let t2 := t1.each (List.finRange 8) State.mapSync
      if p.restart then t2 else t2.complete jb.start stSuccess (p.job + jb.lead.toNat * 65536)

/-- A channel acknowledges its writes; after the last one the job is admitted (R347). -/
def State.tableAck (s : State) (fromCh : ChanAddr) : State :=
  match s.mc.fab.placing with
  | some p =>
    if !s.mc.inReset ∧ p.writes.contains fromCh then
      let p1 := { p with writes := p.writes.erase fromCh }
      if p1.writes.isEmpty then s.admitJob p1 else s.onFab fun f => { f with placing := some p1 }
    else s
  | none => s

/-- TABLE_WRITE_ACK. -/
def execTableWriteAck (fromCh : BitVec 15) (s : State) : Res := .next (s.tableAck fromCh)

/-- With RETRY, a failed placement runs again at a later map version (R346). -/
def execPlacementRetry (s : State) : Res :=
  match s.mc.fab.placing with
  | some p => .next (if !s.mc.inReset ∧ p.waiting ∧ p.version < s.mc.fab.version then s.attempt p else s)
  | none => .next s

/-- DEADLINE_S has passed since the first attempt (R346, Table 12.6). -/
def execPlaceDeadline (s : State) : Res :=
  match s.mc.fab.placing with
  | none => .next s
  | some p =>
    match s.job p.ctx p.job with
    | none => .next s
    | some jb =>
      let d := (policy jb.policy).deadlineS
      if !s.mc.inReset ∧ p.waiting ∧ d ≠ 0 then .next ((s.until (p.firstNs + d * 1000000000)).placeFails p stDeadline)
      else .next s

/-! ### The fabric map (R335) -/

/-- Recomputes set 0 at the channels of this module (R318). -/
def State.recompute (s : State) : State :=
  let m := s.mc.fab.map
  let root := match m.sortWith fun a b => a.addr.toNat ≤ b.addr.toNat with | x :: _ => x.addr | [] => 0
  let lv := levels m root
  s.each (List.finRange 8) fun t c => t.onChan c fun h => { h with router := { h.router with
    routes := upd h.router.routes 0 fun _ => m.foldl (fun (acc : SMap (BitVec 4)) x =>
      acc.set1 x.addr.toNat (route0 m lv (s.addrOf c) x.addr)) [] } }

/-- A record reaches this Gnover: a later version replaces the channel's record. While a placement claims, a change of a
claimed channel makes it run again (R346). -/
def State.takeMap (s : State) (r : MapRec) : State :=
  let changed := match mapAt s.mc.fab.map r.chan.addr with | some x => x != r.chan | none => true
  let s1 := (s.onFab fun f => f.setChan r.chan (max f.version r.version)).recompute
  match s1.mc.fab.placing with
  | some p => if changed && !p.waiting && p.writes.isEmpty && (p.claims ++ p.granted).any fun e => e.1 == r.chan.addr then s1.rerun p
    else s1
  | none => s1

/-- A change of the map at this Gnover: the keeper gives a change of version 0 the next version and floods it; any other
takes a flooded record of a higher version (R335). -/
def State.mapIn (s : State) (c : Chan) (r : MapRec) : State :=
  if s.mc.inReset then s
  else if s.mc.fab.keeper = s.mc.fab.id ∧ r.version = 0 then
    let v := s.mc.fab.version + 1
    (s.takeMap ⟨v, r.chan⟩).each s.otherModules fun t d => t.sendMgmt c (moduleAddr d) (.map ⟨v, r.chan⟩)
  else if s.mc.fab.version < r.version then s.takeMap r
  else s

/-- The first present channel, through which Gnover's own records go out. -/
def State.spoke (s : State) : Chan := ((List.finRange 8).find? fun c => s.present c).getD 0

/-- MAP_CHANGE (R335). -/
def execMapChange (rec_ : MapRec) (s : State) : Res := .next (s.mapIn s.spoke rec_)

/-- The keeper is lost: the next-lowest module takes over and numbers from the highest version it has seen (R335). -/
def execMapKeeperTakeover (lost : BitVec 12) (s : State) : Res :=
  if s.mc.fab.keeper = lost ∧ !s.mc.inReset then
    let rest := s.mc.fab.ids.filter fun e => e.2 != lost
    match (rest.map fun e => e.2.toNat).sortWith (fun a b => decide (a ≤ b)) with
    | k :: _ =>
      let kept := s.mc.fab.map.filter fun (x : MapChan) => x.addr.toNat / 8 != lost.toNat
      .next (s.onFab fun f => { f with keeper := BitVec.ofNat 12 k, ids := rest, map := kept })
    | [] => .next s
  else .next s

/-! ### Discovery (R315-R317) -/

/-- The lowest module ID that a list does not hold. -/
def freeId (taken : List Nat) : Option Nat := (List.range 4096).find? fun n => !taken.contains n

/-- Assignment of module IDs (R315, R316): pins first, the lower serial before the higher; the others in ascending serial
order take the lowest free IDs. -/
def assignIds (ms : List ModRecord) : List (BitVec 64 × BitVec 12) :=
  let sorted := ms.sortWith fun a b => a.serial.toNat ≤ b.serial.toNat
  let pins := sorted.foldl (fun (acc : List (BitVec 64 × BitVec 12)) m => match m.pinned with
    | some id => if acc.any fun e => e.2 == id then acc else acc ++ [(m.serial, id)]
    | none => acc) []
  sorted.foldl (fun (acc : List (BitVec 64 × BitVec 12)) m =>
    if acc.any fun e => e.1 == m.serial then acc
    else match freeId (acc.map fun e => e.2.toNat) with
      | some n => acc ++ [(m.serial, BitVec.ofNat 12 n)]
      | none => acc) pins

/-- This module takes an ID, or finds none: VALID, PIN_CONFLICT, FABRIC_FULL. -/
def Fabric.takeId (f : Fabric) (serial : BitVec 64) (ids : List (BitVec 64 × BitVec 12)) : Fabric :=
  match ids.find? fun e => e.1 == serial with
  | some (_, id) => { f with id := id, idValid := true, ids := ids, pinConflict := (f.pinConflict || (f.pinEn && id != f.pinId)) }
  | none => { f with idValid := false, full := true, ids := ids }

/-- With a new ID, the channels of this module have their addresses, and their records stand in the map. -/
def State.addressed (s : State) : State :=
  let s1 := s.each (List.finRange 8) fun t c => t.onSt c fun x => { x with addr := s.addrOf c, addrValid := s.mc.fab.idValid }
  if s.mc.fab.idValid then
    (s1.each ((List.finRange 8).filter fun c => s.present c) fun t c =>
      (t.onFab fun f => { f with map := if (mapAt f.map (t.addrOf c)).isSome then f.map else f.map ++ [t.chanRecord c] }).mapPut c
        (t.chanRecord c)).recompute
  else s1

/-- Discovery settles: every Gnover computes the same assignment, and the keeper is the lowest ID (R315, R335). -/
def execDiscoverySettle (s : State) : Res :=
  if s.mc.inReset then .next s
  else
    let ms := if s.mc.fab.mods.any fun m => m.serial == s.mc.fuses.serial then s.mc.fab.mods else s.mc.fab.mods ++ [s.ownRecord]
    let ids := assignIds ms
    let low := (ids.map fun e => e.2.toNat).foldl min 4095
    .next ((s.onFab fun f => { f.takeId s.mc.fuses.serial ids with mods := ms, keeper := BitVec.ofNat 12 low }).addressed)

/-- A module that joins an established fabric takes the ID recorded for its serial, else its pin, else the lowest that no
module holds or pins (R317). -/
def execModuleJoin (s : State) : Res :=
  if s.mc.inReset ∨ s.mc.fab.idValid then .next s
  else
    let f := s.mc.fab
    let mine := s.mc.fuses.serial
    let others := f.ids.filter fun e => e.1 != mine
    let held := fun (id : BitVec 12) => others.any fun e => e.2 == id
    let recorded := (f.map.find? fun x => x.serial == mine).map fun x => BitVec.ofNat 12 (x.addr.toNat / 8)
    let pins := f.mods.filterMap fun m => if m.serial = mine then none else m.pinned.map (·.toNat)
    let choice : Option (BitVec 12) := match recorded.filter (fun id => !held id), f.pinEn && !held f.pinId with
      | some id, _ => some id
      | none, true => some f.pinId
      | none, false => (freeId (others.map (fun e => e.2.toNat) ++ pins)).map (BitVec.ofNat 12 ·)
    .next ((s.onFab fun g => g.takeId mine (match choice with | some id => others ++ [(mine, id)] | none => others)).addressed)

end Sys2Proof.Machine
end

