-- ==== Sys2Proof/Machine/Repairs.lean ====
section
/-!
DEFINITION. Repairs from the defect list: lanes, bond spares and spare pumps; cistern rows, columns and slices; HBM rows, banks,
layers and pins, with the stacks that are rebuilt for them (R12, R95, R97, R259-R270, R401-R408, R454-R456).
-/

namespace Sys2Proof.Machine

/-! ### Entries -/

/-- Moves the pending entries that a test picks to a state: 1 applied, 2 superseded (R454). -/
def State.moveEntries (s : State) (pick : Defect → Bool) (st : BitVec 8) : State :=
  s.onMc fun m =>
    let ds := m.firm.defects.map fun (d : Defect) => if d.st == 0 && pick d then { d with st := st } else d
    { m with firm := { m.firm with defects := ds } }

/-- The same for one entry. -/
def State.settleOne (s : State) (d : Defect) (st : BitVec 8) : State := s.moveEntries (· == d) st

/-- A wider entry, pending, in place of one that it covers. -/
def State.widen (s : State) (c : Chan) (d : Defect) (k : DefectKind) (unit loc : Nat) : State :=
  (s.settleOne d 2).addDefect c k d.src.toNat unit loc

/-- Pending entries of a kind. -/
def State.todo (s : State) (c : Chan) (k : DefectKind) : List Defect := s.mc.firm.defectsOf c k 0

/-! ### Pumps (R12, R95-R97, R405, R406) -/

/-- The polder of a physical pump. -/
def polderOfPhys (phys : Nat) : PolderIx := ⟨phys / 9 % 16, Nat.mod_lt _ (by decide)⟩

/-- A pump and its slice go out of use: the polder's spare takes over its number with the spare's own repairs, or the polder is
DEGRADED (R97, R260). -/
def State.losePump (s : State) (c : Chan) (phys : Nat) : State :=
  if phys < 144 then
    let s1 := match logicalOf (s.chan c) phys with
      | some p => (s.onPump c p fun _ => Pump.reset).onPolder c (polderOf p) fun q => { q with
          repair := upd q.repair ⟨p.val % 8, Nat.mod_lt _ (by decide)⟩ fun _ => q.spare }
      | none => s
    s1.onPolder c (polderOfPhys phys) fun q =>
      let good := q.good &&& ~~~(1#9 <<< (phys % 9))
      { q with good := good, sparePos := 15, spare := PumpRepair.reset,
               degraded := q.degraded || decide ((bitsOf good).length < 8) }
  else s

/-- Changes the repair record of a physical pump, in use or held unused (R95). -/
def State.onRepair (s : State) (c : Chan) (phys : Nat) (f : PumpRepair → PumpRepair) : State :=
  match logicalOf (s.chan c) phys with
  | some p => s.onPolder c (polderOf p) fun q => { q with repair := upd q.repair ⟨p.val % 8, Nat.mod_lt _ (by decide)⟩ f }
  | none => s.onPolder c (polderOfPhys phys) fun q =>
      if phys < 144 ∧ q.good.getLsbD (phys % 9) then { q with spare := f q.spare } else q

/-- The repair record of a physical pump. -/
def State.repairOf (s : State) (c : Chan) (phys : Nat) : PumpRepair :=
  match logicalOf (s.chan c) phys with
  | some p => (s.polder c (polderOf p)).repair[p.val % 8]
  | none => (s.polder c (polderOfPhys phys)).spare

/-- A pending lane entry: the segment's spare lane, or where that is in use the spare pump (R95, R97). -/
def State.applyLane (s : State) (c : Chan) (d : Defect) : State :=
  let seg := d.loc.toNat / 33
  let r := s.repairOf c d.unit.toNat
  if r.repaired.getLsbD seg then s.widen c d .pump d.unit.toNat 0
  else (s.settleOne d 1).onRepair c d.unit.toNat fun x => { x with repaired := x.repaired ||| (1#16 <<< seg) }

/-- A pending bond entry: the group's spare wire, or where that is in use the spare pump (R405, R406). -/
def State.applyBond (s : State) (c : Chan) (d : Defect) : State :=
  let g := d.loc.toNat / 32
  let r := s.repairOf c d.unit.toNat
  if r.spareUsed.getLsbD g then s.widen c d .pump d.unit.toNat 0
  else (s.settleOne d 1).onRepair c d.unit.toNat fun x => { x with spareUsed := x.spareUsed ||| (1#54 <<< g) }

/-- Repairs marked in a pump's record that the full list does not hold are applied for the current run (R456). -/
def PumpRepair.finish (r : PumpRepair) : PumpRepair :=
  { r with repaired := r.repaired ||| r.lanePending, lanePending := 0, unrepairable := false,
           spareUsed := r.spareUsed ||| r.bondPending, bondPending := 0, mapoutPending := false, ctlLost := 0 }

/-- What a pump-die reset applies (Table 14.3); no repair stays marked pending. -/
def State.applyPumps (s : State) (c : Chan) : State :=
  let s1 := s.each (s.todo c .lane) fun t d => t.applyLane c d
  let s2 := s1.each (s1.todo c .bondWire) fun t d => t.applyBond c d
  let s3 := s2.each (s2.todo c .pump) fun t d => (t.settleOne d 1).losePump c d.unit.toNat
  let s4 := s3.each ((List.range 144).filter fun n => (s3.repairOf c n).mapoutPending || (s3.repairOf c n).unrepairable) fun t n =>
    t.losePump c n
  s4.onChan c fun h => { h with polders := h.polders.map fun q => { q with
    repair := q.repair.map PumpRepair.finish, spare := q.spare.finish } }

/-! ### Cistern (R259, R260) -/

/-- Granule rows of a bank, and its spare rows and bit columns. -/
def rowBank (loc : Nat) : Nat := loc / 512
/-- Bank of a bit column: a row of 64 granules has 18,432 of them (log entry 43). -/
def columnBank (loc : Nat) : Nat := loc / 18432

/-- A pending row or column entry: a spare of its bank, or where none is left the map-out of the slice (R259, R260). -/
def State.applySpare (s : State) (c : Chan) (k : DefectKind) (bank : Nat → Nat) (spares : Nat) (d : Defect) : State :=
  let maps := s.mc.firm.defectsOf c k 1 ++ s.mc.fuses.factoryOf c k
  let used := maps.filter fun e => e.unit == d.unit && bank e.loc.toNat == bank d.loc.toNat
  if used.length < spares then s.settleOne d 1 else s.widen c d .sliceOut d.unit.toNat 0

/-- What a channel reset applies to the slices. -/
def State.applyCistern (s : State) (c : Chan) : State :=
  let s1 := s.each (s.todo c .cisRow) fun t d => t.applySpare c .cisRow rowBank 8 d
  let s2 := s1.each (s1.todo c .cisColumn) fun t d => t.applySpare c .cisColumn columnBank 4 d
  s2.each (s2.todo c .sliceOut) fun t d => (t.settleOne d 1).losePump c d.unit.toNat

/-! ### HBM (R263, R267-R270) -/

/-- Lines of a stack's surviving banks, before the limit of R270. -/
def State.rawLines (s : State) (c : Chan) (st : Nat) : Nat :=
  ((List.range 32).map fun pc => linesOf (s.mc.firm.banksUp c st pc)).sum

/-- Core die of a bank entry: stack, and LOCATION 4z + q. -/
def Defect.die (d : Defect) : Nat × Nat := (d.unit.toNat / 32, 4 * (d.loc.toNat / 16) + d.unit.toNat % 32 / 8)

/-- Banks of a stack that are mapped out, outside mapped-out layers. -/
def State.banksOut (s : State) (c : Chan) (st : Nat) : List Defect :=
  let dies := (s.mc.firm.defectsOf c .hbmLayer 1).filter fun d => d.unit.toNat / 32 == st
  (s.mc.firm.defectsOf c .hbmBank 1).filter fun d => d.die.1 == st && !dies.any fun l => l.loc.toNat == d.die.2

/-- Whether a further bank may be mapped out (R268): its stack keeps 120 GiB, layers not counted (log entry 44), or on a
BX-D820 64 GiB of physical capacity. -/
def State.bankFits (s : State) (c : Chan) (d : Defect) : Bool :=
  let st := d.unit.toNat / 32
  if s.mc.fuses.variant = 2 then
    let pc := d.unit.toNat % 32
    let nb := s.mc.firm.banksUp c st pc
    decide (16777216 + linesOf nb ≤ s.rawLines c st + linesOf (nb - 1))
  else
    let out := d :: s.banksOut c st
    decide (31457280 ≤ ((List.range 32).map fun pc =>
      linesOf (48 - (out.filter fun e => e.unit.toNat % 32 == pc).length)).sum)

/-- Whether a further layer may be mapped out (R268). -/
def State.layerFits (s : State) (c : Chan) (d : Defect) : Bool :=
  let st := d.unit.toNat / 32
  if s.mc.fuses.variant = 2 then
    let q := d.loc.toNat % 4
    let lost := ((List.range 8).map fun i =>
      let up := s.mc.firm.banksIn c st (8 * q + i)
      linesOf up.length - linesOf (up.filter fun b => b / 16 != d.loc.toNat / 4).length).sum
    decide (16777216 + lost ≤ s.rawLines c st)
  else ((s.mc.firm.defectsOf c .hbmLayer 1).filter fun e => e.unit.toNat / 32 == st).isEmpty

/-- Rows: a spare row, or where none is left the bank. -/
def State.applyHbmRow (s : State) (c : Chan) (d : Defect) : State :=
  let bank := d.loc.toNat / 2 ^ 17
  let used := (s.mc.firm.defectsOf c .hbmRow 1).filter fun e => e.unit == d.unit && e.loc.toNat / 2 ^ 17 == bank
  if used.length < Config.hbmSpareRows then s.settleOne d 1 else s.widen c d .hbmBank d.unit.toNat bank

/-- A bank: with more than 8 of its die for map-out it becomes its layer; else it is mapped out within the limit, or stays in
use. -/
def State.applyBank (s : State) (c : Chan) (d : Defect) : State :=
  let f := s.mc.firm
  let same := (f.defectsOf c .hbmBank 0 ++ f.defectsOf c .hbmBank 1).filter fun e => e.die == d.die
  if 8 < same.length then
    (s.onMc fun m =>
      let ds := m.firm.defects.map fun (e : Defect) => if same.contains e then { e with st := 2 } else e
      { m with firm := { m.firm with defects := ds } }).addDefect c .hbmLayer d.src.toNat (d.die.1 * 32) d.die.2
  else if ((f.defectsOf c .hbmLayer 1).any fun l => l.unit.toNat / 32 == d.die.1 && l.loc.toNat == d.die.2) then s.settleOne d 2
  else if s.bankFits c d then s.settleOne d 1 else s

/-- A layer: mapped out within the limit; beyond it, the channel leaves service. -/
def State.applyLayer (s : State) (c : Chan) (d : Defect) : State :=
  if s.layerFits c d then s.settleOne d 1 else s.leave c 8

/-- A stack whose redundant pins are used up loses the dies that the named pseudo-channel spans (R263). -/
def State.applyPin (s : State) (c : Chan) (st : StackIx) : State :=
  let k := (s.chan c).stack[st.val]
  if k.retrain ∧ ¬ k.lanesRep < Config.hbmSparePins then
    (s.onChan c fun h => { h with stack := upd h.stack st fun x => { x with retrain := false } }).each [0, 1, 2] fun t z =>
      t.addDefect c .hbmLayer 2 (st.val * 32) (4 * z + k.failPc / 8)
  else s

/-- HBM_CAP of every stack, from the list (Table 9.8). -/
def State.setCaps (s : State) (c : Chan) : State :=
  s.onChan c fun h => { h with stack := Vector.ofFn fun (i : Fin 4) =>
    let x := h.stack[i.val]
    let n := (s.stackCaps c i.val).sum
    { x with lines := n, banksOut := (s.banksOut c i.val).length,
             layersOut := ((s.mc.firm.defectsOf c .hbmLayer 1).filter fun d => d.unit.toNat / 32 == i.val).length,
             belowMin := decide (n < if s.mc.fuses.variant = 2 then 16777216 else 31457280),
             fused := s.mc.fuses.variant == 2 && decide (16777216 < s.rawLines c i.val) } }

/-- The line that a unit's line index holds: `hbmPlace` read backwards. -/
def lineOfUnit (caps : List Nat) : List Nat → Nat → Nat → Nat → Nat → Option Nat
  | [], _, _, _, _ => none
  | c :: cs, d0, base, u, i =>
    let us := (List.range 128).filter fun v => c ≤ caps.getD v 0
    if i < c then (us.findIdx? (· == u)).map fun k => base + (i - d0) * us.length + k
    else lineOfUnit caps cs c (base + (c - d0) * us.length) u i

/-- What the channel's lines hold after some stacks were rebuilt and the striping changed: a rebuilt stack reads zero, the
lines of the others keep what they hold (R264, R269). -/
def State.restripe {α : Type} (old new : State) (c : Chan) (gone : Nat → Bool) (m : SMap α) : SMap α :=
  let caps := new.unitCaps c
  let cs := sortUniq (caps.filter (0 < ·))
  let moved := m.filterMap fun e =>
    match old.hbmPlace c (e.1 / 128) with
    | some (u, i) =>
      if gone (u / 32) then none
      else (lineOfUnit caps cs 0 0 (u % 32 * 4 + u / 32) i).map fun n => (n * 128 + e.1 % 128, e.2)
    | none => none
  moved.foldl (fun acc e => SMap.set1 acc e.1 e.2) []

/-- What a channel reset or a start applies to the stacks. A stack whose map-out or pin repair is applied, or that was lost
to heat, is rebuilt and zeroed (R264, R435). Answers whether any was. -/
def State.applyHbm (s : State) (c : Chan) : State × Bool :=
  let pins := fun (st : Fin 4) => (s.chan c).stack[st.val].retrain
  let s1 := s.each (List.finRange 4) fun t st => t.applyPin c st
  let s2 := s1.each (s1.todo c .hbmRow) fun t d => t.applyHbmRow c d
  let s3 := s2.each (s2.todo c .hbmBank) fun t d => if (t.todo c .hbmBank).contains d then t.applyBank c d else t
  let s4 := (s3.each (s3.todo c .hbmLayer) fun t d => t.applyLayer c d).setCaps c
  let outs := fun (t : State) (st : Nat) => ((t.mc.firm.defectsOf c .hbmBank 1 ++ t.mc.firm.defectsOf c .hbmLayer 1).filter fun d =>
    d.unit.toNat / 32 == st)
  let gone := fun (st : Nat) => if h : st < 4 then
      pins ⟨st, h⟩ || (s.chan c).stack[st].lost || s.stackCaps c st != s4.stackCaps c st || outs s st != outs s4 st
    else false
  if (List.range 4).any gone then
    (s4.onChan c fun h => { h with
      hbm := State.restripe s s4 c gone h.hbm, hbmUpset := State.restripe s s4 c gone h.hbmUpset,
      stack := h.stack.map fun x => { x with lost := false } }, true)
  else (s4, false)

/-! ### Which reset (R401) -/

/-- Whether an entry waits for a channel reset that can apply it. -/
def State.lowPending (s : State) (c : Chan) : Bool :=
  [DefectKind.cisRow, .cisColumn, .sliceOut, .hbmRow, .hbmLayer].any (fun k => !(s.todo c k).isEmpty) ||
    (s.todo c .hbmBank).any (fun d => s.bankFits c d) || (s.chan c).stack.any (·.retrain)

/-- Whether a repair waits for a pump-die reset. -/
def State.highPending (s : State) (c : Chan) : Bool :=
  [DefectKind.lane, .bondWire, .pump].any (fun k => !(s.todo c k).isEmpty) ||
    (s.chan c).polders.any fun p => p.repair.any fun r =>
      r.lanePending != 0 || r.bondPending != 0 || r.mapoutPending || r.ctlLost != 0

/-- The narrowest reset that a channel's pending repairs call for: 1 pump-die, 2 channel. -/
def State.repairScope (s : State) (c : Chan) : Option (BitVec 2) :=
  if s.lowPending c then some 2 else if s.highPending c then some 1 else none

/-- A bank beyond the limit that has caused two uncorrectable-error faults within 24 hours takes the channel out of service at its next
channel reset (R268). -/
def State.bankFails (s : State) (c : Chan) : Bool :=
  (s.todo c .hbmBank).any fun d =>
    let seen := ((s.chan c).cis.bankUe.filter fun e => e.1 == d.unit.toNat && e.2.1 == d.loc.toNat).map (·.2.2)
    !s.bankFits c d && (seen.zip (seen.drop 1)).any fun e => decide (e.2 ≤ e.1 + 86400000)

end Sys2Proof.Machine
end

