-- ==== Sys2Proof/Machine/Jobs.lean ====
section
/-!
DEFINITION. Checkpoints, the fault flow and restarts (R252, R373, R388-R399, R401, R410, R412).
-/

namespace Sys2Proof.Machine

/-! ### What a checkpoint holds (R392) -/

/-- The parts of a job's HBM allocations at a channel: key (handle, virtual channel; 65535 for a plain allocation), base and
size in bytes. -/
def State.hbmParts (s : State) (ctx : Nat) (jb : Job) (c : Chan) : List (Nat × Nat × Nat) :=
  let a := s.addrOf c
  let allocs := match s.mc.ctxs.look ctx with | some x => x.allocs | none => []
  (allocs.filter fun e => imageNames jb.image e.1).flatMap fun e =>
    match e.2.kind with
    | .hbm => if e.2.channel = a then [(e.1 * 65536 + 65535, e.2.base, e.2.size)] else []
    | .distributed => if e.2.pinned then [] else (e.2.bound.filter fun b => b.2.1 == a).map fun b =>
        (e.1 * 65536 + b.1, b.2.2.1, e.2.size)
    | .pinned => []

/-- The blocks of a dead range that lie in [lo, hi), relative to lo. -/
def DeadRange.within (r : DeadRange) (lo hi : Nat) : Option DeadRange :=
  let a := max r.first lo
  let b := min (r.first + r.count) hi
  if a < b then some { r with first := a - lo, count := b - a, scales := (r.scales.filter (128 * lo ≤ ·)).map (· - 128 * lo) } else none

/-- What a granule gives to a checkpoint once it has been checked: a granule that stays uncorrectable gives zeros (R24, R250). -/
def Channel.given (h : Channel) (k : Nat) (v : Granule) : Granule :=
  let e := h.upsetAt k
  if e = 0 then v else match bscDecode e with
    | .uncorrectable => 0
    | _ => v ^^^ e.setWidth 256

/-- Granules and dead ranges of a byte range of a channel's HBM, relative to its start: dead blocks are skipped (R230). -/
def Channel.hbmCopy (h : Channel) (base size : Nat) : SMap Granule × List DeadRange :=
  let g := base / 32
  let n := (size + 31) / 32
  ((h.hbm.filter fun e => decide (g ≤ e.1) && decide (e.1 < g + n) && !h.isDead e.1).map fun e => (e.1 - g, h.given e.1 e.2),
    h.hbmDead.filterMap fun r => r.within (g / 128) ((g + n + 127) / 128))

/-- Writes such a copy back over a range: what it does not list is zero, and its dead blocks take the place of those now there
(R57, R230). -/
def Channel.hbmPaste (h : Channel) (j : SlotIx) (base size : Nat) (x : SMap Granule × List DeadRange) : Channel :=
  let g := base / 32
  let n := (size + 31) / 32
  { h with hbm := (h.hbm.without g (g + n)).writes 0 (x.1.map fun e => (e.1 + g, e.2)),
           hbmUpset := h.hbmUpset.without g (g + n),
           hbmDead := cutDead h.hbmDead (g / 128) ((g + n + 127) / 128) ++ x.2.map fun r =>
             { r with slot := j, first := r.first + g / 128, scales := r.scales.map (· + g) } }

/-- Folds every inbound granule of earlier frames in a slice (R392). -/
def State.foldAll (s : State) (c : Chan) (p : PumpIx) : State :=
  s.each (s.slice c p).inbound.keys fun t g => t.foldInbound c p g

/-- The checks of what a checkpoint sends: each granule whose stored word differs from its code word (R24, R250). -/
def State.checkGrans (s : State) (c : Chan) (ks : List Nat) : State :=
  s.each (ks.filter fun k => !(s.chan c).isDead k) fun t k => (t.checked c k ((t.chan c).raw k) ((t.chan c).upsetAt k)).1

/-- Capture at a slot: held entries of earlier frames applied, ledgers folded, pinned contents copied; the HBM as it stands at
this tick, which is what R393 has sent. -/
def State.capture (s : State) (c : Chan) (j : SlotIx) : State :=
  let s0 := s.drain c
  let s1 := s0.each ((s0.chan c).pumpsOf j) fun t p => t.foldAll c p
  let x := s.slot c j
  let parts := match s.job x.job.ctx x.job.job with
    | some jb => s1.hbmParts x.job.ctx jb c
    | none => []
  let pin := (s1.chan c).pinned
  let upPinned := ((s1.chan c).pumpsOf j).flatMap fun p => ((s1.slice c p).upset.keys.filter (· < pin)).map (sliceKey p)
  let upHbm := (s1.chan c).hbmUpset.keys.filter fun k => parts.any fun e =>
    decide (e.2.1 / 32 ≤ k) && decide (k < e.2.1 / 32 + (e.2.2 + 31) / 32)
  let s2 := s1.checkGrans c (upPinned ++ upHbm)
  let h := s2.chan c
  let pinned := (h.pumpsOf j).map fun p =>
    let q := h.pumps[p.val]
    let mem := (q.slice.mem.filter fun e => decide (e.1 < pin) && (deadAt q.slice.dead (e.1 / 128)).isNone).map fun e =>
      (e.1, h.given (sliceKey p e.1) e.2)
    (q.vch * 256 + q.index, mem, q.slice.dead)
  let hbm := parts.map fun e => (e.1, h.hbmCopy e.2.1 e.2.2)
  s2.onSlot c j fun y => { y with ckpt := y.ckpt.map fun k => { k with captured := true, pinned := pinned, hbm := hbm } }

/-- Granules of a job's HBM at a channel. -/
def partGrans (parts : List (Nat × Nat × Nat)) : List Nat :=
  parts.flatMap fun e => (List.range ((e.2.2 + 31) / 32)).map (e.2.1 / 32 + ·)

/-- Bursts in which a captured checkpoint leaves for its buddy. -/
def Ckpt.bursts (k : Ckpt) (parts : List (Nat × Nat × Nat)) : Nat :=
  ((k.pinned.map fun e => e.2.1.length).sum + (partGrans parts).length + 15) / 16

/-- Capture ends, and the frame program begins (R392). The reading of HBM and the sending raise a request of class CKPT for each burst
(R272, R273). -/
def execCaptureComplete (c : Chan) (j : SlotIx) (s : State) : Res :=
  match (s.slot c j).ckpt with
  | some k =>
    if k.captured then .next s
    else
      let s1 := s.capture c j
      let x := (s1.slot c j).job
      let parts := match s1.job x.ctx x.job with | some jb => s1.hbmParts x.ctx jb c | none => []
      let n := match (s1.slot c j).ckpt with | some z => z.bursts parts | none => 0
      let s2 := s1.raiseBursts c .ckpt reqCkpt (some j) (partGrans parts)
      let s3 := match routePort ((s1.chan c).route x.rset x.buddy) with
        | some p => s2.raise c (egress p) .ckpt reqCkpt (some j) n
        | none => s2
      .next (s3.startPumps c j)
  | none => .next s

/-- Slots of a job on this module that have not completed the checkpoint under way. -/
def State.ckptOpen (s : State) (ctx job : Nat) : Bool :=
  (s.localSlots ctx job).any fun e => (s.slot e.1 e.2).regs.ckptBusy

/-- Every member here has completed: the commands that waited for it complete, halts count anew, old buddies are released,
and a STOP with CKPT ends the job, while a forced self-test takes it off its channels (R373, R383, R390, R396). -/
def State.ckptDone (s : State) (ctx job frame : Nat) (final : Bool) : State :=
  match s.job ctx job with
  | none => s
  | some jb =>
    let s1 := s.each jb.ckptCmds fun t h => t.complete h stSuccess frame
    let s2 := s1.each jb.oldClaim.toList fun t k => t.releaseBuddies jb k
    let s3 := s2.onJob ctx job fun x => { x with ckptCmds := x.ckptNext, ckptNext := [], halts := 0, oldClaim := none }
    if !final then s3
    else match jb.stopCmd, jb.forced with
    | some (h, _), _ => ((s3.complete h stSuccess (frame - 1)).onJob ctx job fun x => { x with stopCmd := none }).removeJob ctx job
    | none, some _ => ((s3.unreserve ctx jb.image).release ctx job).unbind ctx job
    | none, none => s3.removeJob ctx job

/-- The header of a member's checkpoint is written at its buddy (R394): LAST_FRAME advances. A buddy keeps two. -/
def execCheckpointComplete (c : Chan) (j : SlotIx) (s : State) : Res :=
  let x := s.slot c j
  match x.ckpt with
  | some k =>
    if k.captured then
      let s1 := (s.event c 0x10 (some j) 0 (detail [(0, 8, k.frame)])).onSlot c j fun y => { y with
        ckpt := none, buddySlots := (y.buddySlots ++ [k.frame]).drop ((y.buddySlots.length + 1) - 2),
        regs := { y.regs with ckptLast := k.frame % 2 ^ 48, ckptValid := true, ckptBusy := false } }
      let s2 := s1.onJob x.job.ctx x.job.job fun jb => { jb with
        ckpts := if jb.ckpts.any fun e => e.1 == k.frame then
            jb.ckpts.map fun e => if e.1 = k.frame then (e.1, e.2 ++ [k]) else e
          else (jb.ckpts.drop (jb.ckpts.length - 1)) ++ [(k.frame, [k])] }
      .next (if s2.ckptOpen x.job.ctx x.job.job then s2 else s2.ckptDone x.job.ctx x.job.job k.frame k.final)
    else .next s
  | none => .next s

/-- Asks every slot of a job on this module for a checkpoint at the next tick that permits one. -/
def State.askCkpt (s : State) (ctx job : Nat) : State :=
  s.each (s.localSlots ctx job) fun t e => t.onSlot e.1 e.2 fun x => { x with ckptAsked := true }

/-- The tick master learns that a buddy has lost a checkpoint slot: a checkpoint at the next tick, as commanded (R399). What
the buddies hold counts no more (log entry 40). -/
def State.buddyLost (s : State) (c : Chan) (j : SlotIx) : State :=
  let x := s.slot c j
  if x.live ∧ (x.job.lead ∨ x.job.acting) then
    let s1 := s.event c 0x10 (some j) 0 (detail [(0, 8, x.regs.ckptLast), (8, 1, 2)])
    ((s1.onSlot c j fun y => { y with buddySlots := [] }).onJob x.job.ctx x.job.job fun jb => { jb with ckpts := [] }).askCkpt
      x.job.ctx x.job.job
  else s

/-- BUDDY_SLOT_LOST. -/
def execBuddySlotLost (c : Chan) (j : SlotIx) (s : State) : Res := .next (s.buddyLost c j)

/-! ### Restarts (R395-R397) -/

/-- The newest frame whose checkpoint is complete at every slot that the job held (R395). Those of other modules are not seen
here (log entry 41). -/
def Job.newest (jb : Job) (here : List ChanAddr) : Option Nat :=
  ((jb.ckpts.filter fun e => here.all fun a => e.2.any fun k => k.chan == a).map (·.1)).foldl
    (fun m f => match m with | some x => some (max x f) | none => some f) none

/-- Restores a slot of the new placement: slices of the same virtual pumps, HBM under the new binding, dead tables (R396). -/
def State.restoreSlot (s : State) (jb : Job) (ks : List Ckpt) (c : Chan) (j : SlotIx) : State :=
  let x := s.slot c j
  let s1 := s.each ((s.chan c).pumpsOf j) fun t p =>
    let q := t.pump c p
    match (ks.flatMap fun k => k.pinned).find? fun e => e.1 == q.vch * 256 + q.index with
    | some (_, mem, dead) => t.onSlice c p fun sl => { sl with
        mem := mem, upset := [], dead := dead.map fun r => { r with slot := j } }
    | none => t
  s1.each (s1.hbmParts x.job.ctx jb c) fun t e =>
    match (ks.flatMap fun k => k.hbm).find? fun q => q.1 == e.1 with
    | some (_, d) => (t.raiseBursts c .ckpt reqCkpt (some j) (partGrans [e])).onChan c fun h => h.hbmPaste j e.2.1 e.2.2 d
    | none => t

/-! ### The fault flow (R389, R390) -/

/-- A PUMP_STATE event (Table 14.9). -/
def State.pumpState (s : State) (c : Chan) (j : SlotIx) (p : PumpIx) : State :=
  let q := s.pump c p
  let occ := (q.queued.toList.zipIdx.map fun e => (5 + e.2, 1, e.1))
  let opc := ((q.prog.look q.pc).getD 0xF400000000000000).toNat / 2 ^ 58
  s.event c 0x0D (some j) (physOf (s.chan c) p)
    (detail ([(0, 2, p.val), (2, 2, q.pc), (4, 1, opc)] ++ occ ++ [(12, 1, q.bq.length)]))

/-- PUMP_STATE events for the polder whose unit raised a slot's fault (R410). -/
def State.captureFault (s : State) (c : Chan) (j : SlotIx) : State :=
  let r := (s.slot c j).regs.flt
  if r.unitKind = 1 ∨ r.unitKind = 2 then
    s.each ((List.finRange 128).filter fun p => p.val / 8 == r.unit / 9) fun t p => t.pumpState c j p
  else s

/-- The sequencer reads the failing granule again over the network: clean there, the cause becomes BOND (R252). -/
def State.rereadNet (s : State) (c : Chan) (j : SlotIx) : State :=
  let r := (s.slot c j).regs.flt
  if r.cause = 1 ∧ r.unitKind = 2 then
    match ((s.chan c).cis.ueLog.filter fun e => e.source == 0 && e.unit == r.unit).getLast?, logicalOf (s.chan c) r.unit with
    | some e, some p =>
      if bscDecode ((s.chan c).upsetAt (sliceKey p e.addr)) = .uncorrectable then s
      else s.onRegs c j fun x => { x with flt := { x.flt with cause := BitVec.ofNat 8 Cause.bond.code, remove := false } }
    | _, _ => s
  else s

/-- Whether every job of a channel is halted or holds no polder there (R401). -/
def Channel.idle (h : Channel) : Bool :=
  h.liveSlots.all fun j => h.slots[j.val].job.state == .halted || h.slots[j.val].job.polders == 0

/-- A job that cannot be restarted: a second FAULTED event with RECOVERY, its reason in FLT_REC.DETAIL, and removal (R390). -/
def State.recoveryFault (s : State) (ctx job reason : Nat) (jb : Job) : State :=
  let s1 := match s.localChan jb.lead, (jb.slots.find? fun e => e.1 == jb.lead) with
    | some c, some (_, j) => s.onRegs c j fun r => { r with flt := { r.flt with detail := BitVec.ofNat 4 reason } }
    | _, _ => s
  (s1.jobEvent ctx job 1 stJobFaulted Cause.recovery.code jb.haltFrame).removeJob ctx job

/-- Whether a plain HBM allocation of the job lies on a channel of this module that is out of service (R390 reason 3). -/
def State.homeGone (s : State) (ctx : Nat) (jb : Job) : Bool :=
  match s.mc.ctxs.look ctx with
  | none => false
  | some x => x.allocs.any fun e => e.2.kind == .hbm && imageNames jb.image e.1 &&
      (match s.localChan e.2.channel with | some c => !s.serving c | none => false)

/-- The rest of the flow, once no reset of a channel of the job runs: the checkpoint to restart from, and placement. -/
def State.flowOn (s : State) (ctx job : Nat) : State :=
  match s.job ctx job with
  | none => s
  | some jb =>
    let here := (jb.slots.map (·.1)).filter fun a => (s.localChan a).isSome
    if !jb.flow ∨ s.mc.inReset ∨ s.mc.fab.placing.isSome ∨ here.any fun a => match s.localChan a with
        | some c => (s.chan c).st.busy || (s.chan c).st.embBusy
        | none => false then s
    else match jb.newest here with
    | none => s.recoveryFault ctx job 1 jb
    | some f =>
      if 4 ≤ jb.halts then s.recoveryFault ctx job 2 jb
      else if s.homeGone ctx jb then s.recoveryFault ctx job 3 jb
      else (s.onJob ctx job fun x => { x with restore := some f, flow := false, oldClaim := some jb.claim }).startPlacing ctx job true

/-- Whether a first cause marked "Remove" is all that each member of another module has told the tick master of: its FAULT markers
carry it (R388). -/
def State.awayRemoves (s : State) (ctx job : Nat) : Bool :=
  (s.localSlots ctx job).all fun e =>
    let x := s.slot e.1 e.2
    let away := x.fr.faultSeen.filter fun k => (s.localChan k.1).isNone && x.job.members.contains k.1
    !(x.job.lead || x.job.acting) || (away.map (·.1)).dedup.all fun a =>
      match away.find? fun k => k.1 == a with | some k => removeCode k.2.toNat | none => true

/-- Whether any member of another module has told the tick master of a fault. -/
def State.awayFaults (s : State) (ctx job : Nat) : Bool :=
  (s.localSlots ctx job).any fun e =>
    let x := s.slot e.1 e.2
    (x.job.lead || x.job.acting) && x.fr.faultSeen.any fun k => (s.localChan k.1).isNone && x.job.members.contains k.1

/-- The fault flow of one halted job (R389): the event, the state of the faulting pumps, the re-read of R252, release, then
removal where every reported cause is marked "Remove", repairs, and the restart. -/
def State.faultFlow (s : State) (ctx job : Nat) (reset : State → Chan → BitVec 2 → State) : State :=
  match s.job ctx job with
  | none => s
  | some jb =>
    if !jb.halted ∨ s.mc.inReset ∨ jb.flow ∨ jb.restore.isSome then s.flowOn ctx job
    else
      let s1 := s.jobEvent ctx job 1 stJobFaulted jb.haltCause.toNat jb.haltFrame
      let bad := (s1.localSlots ctx job).filter fun e => (s1.slot e.1 e.2).regs.flt.valid
      let s2 := s1.each bad fun t e => (t.captureFault e.1 e.2).rereadNet e.1 e.2
      let recs := (s2.localSlots ctx job).filterMap fun e => let r := (s2.slot e.1 e.2).regs.flt; if r.valid then some r else none
      let chans := (s2.localSlots ctx job).map (·.1)
      if (!recs.isEmpty || s2.awayFaults ctx job) && recs.all (·.remove) && s2.awayRemoves ctx job then s2.removeJob ctx job
      else
        let s3 := ((s2.unreserve ctx jb.image).release ctx job).unbind ctx job
        let hard := (bad.filter fun e => (s2.slot e.1 e.2).regs.flt.unitKind == 5 || (s2.slot e.1 e.2).regs.flt.unitKind == 6).map (·.1)
        let s4 := s3.each chans fun t c => match if hard.contains c then some 2 else t.repairScope c with
          | some k => if (t.chan c).idle then reset t c k
              else t.onSt c fun x => { x with resetWanted := if x.resetWanted = some 2 then some 2 else some k }
          | none => t
        (s4.onJob ctx job fun x => { x with flow := true }).flowOn ctx job

/-! ### A restart ends -/

/-- Every fault flow that waits goes on (R389). -/
def State.flowsOn (s : State) : State := s.each (s.mc.jobs.keys) fun t k => t.flowOn (unKey k).1 (unKey k).2

/-- Members have restored the checkpoint: RESTARTED is written, and the first tick follows (R389, R396). A STOP that waited for the
job to run again acts (R373); a forced self-test that waited for it completes (R383). -/
def execRestoreComplete (ctx job : Nat) (s : State) : Res :=
  match s.job ctx job with
  | none => .next s
  | some jb =>
    match jb.restore, s.mc.fab.placing with
    | some f, none =>
      if jb.halted ∨ s.mc.inReset then .next s
      else
        let ks := match jb.ckpts.find? fun e => e.1 == f with | some e => e.2 | none => []
        let s1 := s.each (s.localSlots ctx job) fun t e => t.restoreSlot jb ks e.1 e.2
        let s2 := (s1.onJob ctx job fun x => { x with restore := none, forced := none, flow := false }).jobEvent ctx job 2 stSuccess 0 f
        let s3 := match jb.stopCmd with | some (_, k) => s2.stopJob ctx job k | none => s2
        .next ((match jb.forced with | some (h, c) => s3.endForced h c | none => s3).flowsOn)
    | _, _ => .next s

/-! ### The black box in flash (R412) -/

/-- The entries of a black box, oldest first as the ring stands. -/
def Bbx.list (b : Bbx) : List Event :=
  (List.range 2048).filterMap fun i => b.events.look (if b.wrapped then (b.head + i) % 2048 else i)

/-- Gnover copies the box to flash and releases it; the 16 newest copies are kept. -/
def State.flashCopy (s : State) (c : Chan) : State :=
  let copy := (s.chan c).bbx.list
  s.onMc fun m => { m with firm := { m.firm with flash := upd m.firm.flash c fun l => (copy :: l).take 16 } }

/-- BLACK_BOX_FLASH_COPY: within 50 ms of a fault. -/
def execBlackBoxFlashCopy (c : Chan) (s : State) : Res :=
  if (s.chan c).bbx.frozen ∧ !s.mc.inReset then .next ((s.flashCopy c).onChan c fun h => { h with bbx := h.bbx.release })
  else .next s

end Sys2Proof.Machine
end

