-- ==== Sys2Proof/Machine/Resets.lean ====
section
/-!
DEFINITION. Resets of a channel, the fault flow's command, bond controls, the sequencer's loss, the black box's controls, and a
channel's return after heat or cold (R401-R404, R408, R411-R413, R433, R435, R456, R465, R474; Tables 14.3-14.7).
-/

namespace Sys2Proof.Machine

/-! ### What a reset loses -/

/-- A pump-die reset loses a pump's registers and memories; its slice is kept (Table 14.3). -/
def Pump.dieReset (q : Pump) : Pump := { Pump.reset with slice := q.slice, vch := q.vch, index := q.index }

/-- A channel reset clears valid bits, or under RETAIN keeps contents and valid bits; the held share and the dead table go in
either case (Table 14.4, R404). -/
def Slice.chanReset (sl : Slice) (retain : Bool) : Slice :=
  if retain then { Slice.reset with mem := sl.mem, upset := sl.upset } else Slice.reset

/-- RW fields of the cistern block return to their reset values, counters of corrected granules clear, the pass and its summary
are lost; both logs are kept (R246, R253, R258, R474). -/
def Cistern.chanReset (x : Cistern) : Cistern := { Cistern.reset with ceLog := x.ceLog, ueLog := x.ueLog, ueTotal := x.ueTotal, bankUe := x.bankUe }

/-- A slot's committed ST fields return to their reset values, its staging bank is lost, a checkpoint under way too. -/
def Slot.chanReset (x : Slot) : Slot :=
  { x with regs := { x.regs with set := SlotSet.reset, ckptBusy := false }, stg := Staging.reset, ckpt := none }

/-- ST fields of a polder return to their reset values. -/
def Polder.chanReset (q : Polder) : Polder := { q with slotMode := false, upUs := 0, stSlotMode := false, stUpUs := 0, dom := .off, step := 0 }

/-- An arbiter after a channel reset: thawed; a port of HBM holds no request of the channel any more. -/
def Arb.chanReset (a : Arb) (hbm : Bool) : Arb :=
  { a with freeze := false, drained := false, reqs := if hbm then [] else a.reqs, owner := if hbm then none else a.owner,
           burst := a.burst && !hbm }

/-- A channel reset of the pump die and the cistern die but the embankment (Table 14.4, R474). HBM contents are kept. -/
def Channel.chanReset (h : Channel) (retain : Bool) : Channel :=
  { h with
    pumps := h.pumps.map fun q => { q.dieReset with slice := q.slice.chanReset retain },
    polders := h.polders.map Polder.chanReset, slots := h.slots.map Slot.chanReset,
    set := ChanSet.reset, stSet := ChanSet.reset, cis := h.cis.chanReset, hbmDead := [],
    stack := h.stack.map fun k => { k with odecc := 0 },
    held := [], atoms := [], decls := [], fills := [],
    arbs := Vector.ofFn fun (i : Fin 140) => (h.arbs[i.val]).chanReset (decide (i.val < 128)),
    reg := { h.reg with cutCount := 0, held := [] } }

/-- The domains during a channel reset (Table 15.2): CA retained under RETAIN. -/
def Power.chanReset (p : Power) (retain : Bool) : Power :=
  { p with ca := if retain then .sleep else .off, cl := .off, hq := .off, ramping := none, rampQ := [] }

/-- An embankment reset keeps what fuses, tests and sensors say; all else is lost (Table 14.5, R474). -/
def Channel.embReset (h : Channel) : Channel :=
  { Channel.reset with
    st := { h.st with oos := (h.st.oos ||| 2), coldWait := false, wrDrop := false, busy := false, embBusy := true,
                      refused := false, lastScope := 3 },
    polders := h.polders.map Polder.chanReset, stack := h.stack.map fun k => { k with pcUp := 0, rate := 3 },
    ports := h.ports.map fun p => { Port.reset with state := p.state },
    pwr := { h.pwr with ca := .off, cl := .off, lk := .off, hq := .off, guard := 12, guardErr := false, ramping := none,
                        rampQ := [] },
    thm := h.thm, badLanes := h.badLanes, badAdders := h.badAdders, badStore := h.badStore }

/-! ### Beginning a reset (R402, R403) -/

/-- The RESET event. Requester: 0 fault flow, 1 Gnover, 2 CH_RESET, 3 management, 4 power-on (Table 14.9). -/
def State.resetEvent (s : State) (c : Chan) (scope retain requester : Nat) : State :=
  s.event c 0x0E none 0xFFFF (detail [(0, 1, scope), (1, 1, retain), (2, 1, requester)])

/-- The jobs that step 4 of Table 14.7 faults. -/
def Channel.unhalted (h : Channel) : List SlotIx := h.polderJobs.filter fun j => h.slots[j.val].job.state != .halted

/-- Steps 3 and 4 of a lower-die reset: PUMP_STATE events, and the fault of every job not halted. -/
def State.assertReset (s : State) (c : Chan) (cause : Cause) (kind : UnitKind) : State :=
  let js := (s.chan c).unhalted
  let s1 := s.each js fun t j => t.each ((t.chan c).pumpsOf j) fun u p => u.pumpState c j p
  s1.faultAll c js cause kind 0

/-- A channel leaves service for a reset; its domains are the reset's own matter (log entry 45). -/
def State.holdReset (s : State) (c : Chan) : State :=
  ((s.onSt c fun x => x.reason 11 true).onMc fun m => { m with inService := m.inService &&& ~~~(1#8 <<< c.val) }).mapUpdate c
    fun m => { m with inService := false }

/-- A reset aborts a ranged pass; the command that started it ends with TARGET_RESET (R258). -/
def State.abortPass (s : State) (c : Chan) : State :=
  match (s.chan c).cis.passFor with
  | some (h, _, _) => (s.onCis c fun x => { x with passFor := none }).complete h stTargetReset 0
  | none => s

/-- Begins a pump-die reset (1) or a channel reset (2). -/
def State.beginReset (s : State) (c : Chan) (scope : BitVec 2) (retain : Bool) (requester : Nat) : State :=
  let s1 := s.resetEvent c scope.toNat (bit (retain && scope == 2)) requester
  let s2 := s1.onSt c fun x => { x with busy := true, lastScope := scope, resetWanted := none }
  if scope = 2 then
    let s3 := ((s2.abortPass c).assertReset c .firmware .firmware).onChan c fun h => h.chanReset retain
    (s3.onPwr c fun p => p.chanReset retain).holdReset c
  else (s2.onChan c fun h => { h with pumps := h.pumps.map Pump.dieReset }).holdReset c

/-- The reset that the fault flow begins. -/
def State.flowReset (s : State) (c : Chan) (scope : BitVec 2) : State := s.beginReset c scope false 0

/-- FAULT_FLOW. -/
def execFaultFlow (ctx job : Nat) (s : State) : Res := .next (s.faultFlow ctx job State.flowReset)

/-- Whether CH_RESET is accepted: every job of the channel is halted, or it holds none (R402). -/
def Channel.resettable (h : Channel) : Bool :=
  !h.st.busy && h.liveSlots.all fun j => h.slots[j.val].job.state == .halted

/-- A write of CH_RESET with a scope. -/
def State.chReset (s : State) (c : Chan) (scope : BitVec 2) (retain : Bool) : State :=
  if (s.chan c).resettable then s.beginReset c scope retain 2 else s.onSt c fun x => { x with refused := true }

/-- CH_RESET, SCOPE 1. -/
def execChResetPumpDie (c : Chan) (s : State) : Res := onlyIf (s.windowOpen c) s (s.chReset c 1 false)

/-- CH_RESET, SCOPE 2. -/
def execChResetChannel (c : Chan) (retain : Bool) (s : State) : Res := onlyIf (s.windowOpen c) s (s.chReset c 2 retain)

/-- Gnover performs a reset that waited for the channel to hold no running job (R401). -/
def execDeferredReset (c : Chan) (s : State) : Res :=
  match (s.chan c).st.resetWanted with
  | some k => onlyIf ((s.chan c).idle && !(s.chan c).st.busy && !s.mc.inReset) s (s.beginReset c k false 1)
  | none => .next s

/-! ### Completion -/

/-- Spares just switched in that fail their test leave their polders DEGRADED (R465). -/
def State.spareTest (s old : State) (c : Chan) (fails : BitVec 16) : State :=
  s.each ((List.finRange 16).filter fun p => fails.getLsbD p.val && (old.polder c p).sparePos != 15 &&
    (s.polder c p).sparePos == 15) fun t p => t.onPolder c p fun q =>
      { q with good := q.good &&& ~~~(1#9 <<< 8), degraded := true }

/-- Tells the tick masters of jobs whose buddy space lay in a rebuilt stack (R399). Their slots are known here for jobs that
this Gnover leads. -/
def State.buddiesLost (s : State) (c : Chan) : State :=
  let whos := ((s.chan c).claims.filter fun x => match x.2.1 with | .buddy _ => x.2.2 | _ => false).map (·.1)
  s.each (s.mc.jobs.filter fun e => whos.contains e.2.claim || (match e.2.oldClaim with | some k => whos.contains k | none => false))
    fun t e =>
      match t.localChan e.2.lead with
      | some d => match (t.chan d).slotOfJob (unKey e.1).1 (unKey e.1).2 with
        | some j => t.buddyLost d j
        | none => t
      | none => t

/-- The channel is ready: it returns to service unless another reason holds it, and the map records what changed. -/
def State.ready (s : State) (c : Chan) : State :=
  (((s.onSt c fun x => { x with busy := false, embBusy := false, coldWait := false }).enter c 11).mapSync c).flowsOn

/-- PUMP_DIE_RESET_COMPLETE. -/
def execPumpDieResetComplete (c : Chan) (spareFails : BitVec 16) (s : State) : Res :=
  onlyIf ((s.chan c).st.busy && (s.chan c).st.lastScope == 1) s (((s.applyPumps c).spareTest s c spareFails).ready c)

/-- What a lower-die reset applies: every pending repair, a full defect list, a bank beyond its limit; stacks rebuilt. -/
def State.applyRepairs (s : State) (c : Chan) (fails : BitVec 16) : State :=
  let fail := s.bankFails c
  let (s1, rebuilt) := ((s.applyPumps c).applyCistern c).applyHbm c
  let s2 := s1.spareTest s c fails
  let s3 := if (s.chan c).st.unlisted then s2.leave c 9 else s2
  let s4 := if fail then s3.leave c 8 else s3
  if rebuilt then s4.buddiesLost c else s4

/-- Whether a reading below 0 degC keeps the channel in reset (R433). -/
def Channel.frozenCold (h : Channel) : Bool := h.thm.sensors.any fun x => decide (x.eff < 0)

/-- CHANNEL_RESET_COMPLETE. -/
def execChannelResetComplete (c : Chan) (spareFails : BitVec 16) (s : State) : Res :=
  if (s.chan c).st.busy ∧ (s.chan c).st.lastScope = 2 then
    if (s.chan c).frozenCold ∨ s.mc.pwr.main = .excursion then .next (s.onSt c fun x => { x with coldWait := (s.chan c).frozenCold })
    else .next ((s.applyRepairs c spareFails).ready c)
  else .next s

/-! ### The embankment -/

/-- Every port lost: the jobs that use it fault with LINK, partners see loss of signal (R298, R330). -/
def State.portsLost (s : State) (c : Chan) : State :=
  s.each (List.finRange 12) fun t p => match (t.port c p).state with
    | .disabled => if (t.port c p).enable ∧ t.linkable c p then t.portTo c p .detect id else t
    | _ => t.portLost c p .detect false

/-- The whole channel is lost: every job of it and through it faulted and halted here, its ports, its buddy space and its wells
gone, and what it holds as a function says. -/
def State.loseChan (s : State) (c : Chan) (cause : Cause) (kind : UnitKind) (f : Channel → Channel) : State :=
  let s1 := (s.abortPass c).assertReset c cause kind
  let homes := (s1.chan c).liveSlots.filter fun j => (s1.slot c j).job.state != .halted && !(s1.slot c j).fr.faultFlag
  let s2 := (s1.faultAll c homes cause kind 0).portsLost c
  let s3 := s2.each ((s2.chan c).liveSlots.filter fun j => (s2.slot c j).job.state != .halted) fun t j => t.haltEffect c j
  let s4 := (s3.buddiesLost c).onMc fun m => { m with
    inService := m.inService &&& ~~~(1#8 <<< c.val),
    ctxs := m.ctxs.map fun e => (e.1, { e.2 with wells := e.2.wells.filter fun w => w.2.1 != c }) }
  (s4.onChan c f).mapSync c

/-- Begins an embankment reset: the box goes to flash first (R402). -/
def State.beginEmb (s : State) (c : Chan) : State := (s.flashCopy c).loseChan c .firmware .embankment Channel.embReset

/-- MC_EMB_RESET with GO: only once every egress port is frozen and DRAINED (R402). -/
def execEmbReset (c : Chan) (s : State) : Res :=
  let ok := (List.finRange 12).all fun p => (s.chan c).arbs[(egress p).val].freeze && (s.chan c).arbs[(egress p).val].drained
  .next (if s.mc.inReset ∨ !s.present c then s
    else if s.mc.firm.recovery then s.emit .refused
    else if ok then s.beginEmb c
    else s.onMc fun m => { m with host := { m.host with embRefused := true } })

/-- EMBANKMENT_RESET_COMPLETE: HBM is zeroed, the repairs stand, the ports are in DETECT (Table 14.5). -/
def execEmbankmentResetComplete (c : Chan) (s : State) : Res :=
  if (s.chan c).st.embBusy then
    if (s.chan c).frozenCold then .next (s.onSt c fun x => { x with coldWait := true })
    else
      let s1 := ((s.applyRepairs c 0).onChan c fun h => { h with hbm := [], hbmUpset := [] }).onPwr c fun p => { p with lk := .on }
      .next ((s1.enter c 1).ready c)
  else .next s

/-! ### Bond controls, the sequencer (R385, R400, R408) -/

/-- A copy of a duplicated control bond is lost; with both lost, the job whose pump uses it faults with BOND (R408). -/
def execBondCtlLoss (c : Chan) (p : PumpIx) (sig : Fin 4) (copy : Bool) (s : State) : Res :=
  let k : Fin 8 := ⟨p.val % 8, Nat.mod_lt _ (by decide)⟩
  let phys := physOf (s.chan c) p
  let lost := ((s.polder c (polderOf p)).repair[k.val]).ctlLost ||| (1#8 <<< (2 * sig.val + bit copy))
  let s1 := (s.event c 0x0C ((s.chan c).slotOf p) phys (detail [(0, 1, sig.val), (1, 1, bit copy)])).onPolder c (polderOf p)
    fun q => { q with repair := upd q.repair k fun r => { r with ctlLost := lost } }
  .next (if lost.getLsbD (2 * sig.val) && lost.getLsbD (2 * sig.val + 1) then s1.pumpFault c p .bond 0 else s1)

/-- The sequencer has not answered Gnover for 10 ms: FIRMWARE for every job of the channel and through it. -/
def execSequencerTimeout (c : Chan) (s : State) : Res :=
  .next ((s.faultAll c (s.chan c).liveSlots .firmware .firmware 0).throughFault c .firmware .firmware)

/-! ### The black box's controls (R411, R412) -/

/-- BBX_CTRL.RELEASE. -/
def execBbxRelease (c : Chan) (s : State) : Res :=
  onlyIf (s.windowOpen c) s (s.onChan c fun h => { h with bbx := h.bbx.release })

/-- BBX_CTRL.FREEZE. -/
def execBbxFreeze (c : Chan) (s : State) : Res :=
  onlyIf (s.windowOpen c) s (s.onChan c fun h => { h with bbx := h.bbx.freeze })

/-! ### Return after heat or cold (R433, R435) -/

/-- Ten seconds at or below 85 degC after a critical shutdown: Gnover resets the channel (R435). -/
def execCriticalRecovery (c : Chan) (s : State) : Res :=
  let h := s.chan c
  let cool := h.thm.sensors.all (fun x => decide (x.eff ≤ 340)) && h.stack.all fun k => decide (k.tempC ≤ 85)
  let s1 := ((s.until (s.timeNs + 10000000000)).onSt c fun x => x.reason 4 false).onChan c fun y => { y with
    thm := { y.thm with critNow := false, stackTrip := none } }
  let s2 := if s1.ch.any fun y => y.thm.critNow then s1 else s1.emit (.pin "THERMTRIP_N" true)
  onlyIf (h.thm.critNow && cool && !s.mc.inReset) s (s2.beginReset c 2 false 1)

/-- Ten seconds at or above 10 degC: a cold channel returns to service (R433). -/
def execColdRecovery (c : Chan) (s : State) : Res :=
  let h := s.chan c
  onlyIf (h.thm.coldNow && h.thm.sensors.all fun x => decide (40 ≤ x.eff)) s
    (((s.until (s.timeNs + 10000000000)).onChan c fun y => { y with thm := { y.thm with coldNow := false } }).enter c 5)

end Sys2Proof.Machine
end

