-- ==== Sys2Proof/Machine/Tabled.lean ====
section
/-!
DEFINITION. The tabled functions (R94, R495): the FP32 value nearest to the exact result, ties to even. RCP and
RSQRT are computed exactly. EXP2, LOG2 and TANH are computed with 256 fractional bits and rounded once; no FP32
argument outside R495 lies near enough to a tie for that to differ from the exact result (log entry 8).
-/

namespace Sys2Proof.Machine

/-- Fractional bits of the fixed-point numbers of this file. -/
def fxBits : Nat := 256

/-- Sum of t^n / n! for n from k, in fixed point. -/
def expSeries (t : Nat) : Nat → Nat → Nat → Nat
  | 0, _, term => term
  | fuel + 1, k, term => if term = 0 then 0 else term + expSeries t fuel (k + 1) (term * t / 2 ^ fxBits / k)

/-- e^t of a fixed-point t. -/
def fxExp (t : Nat) : Nat := expSeries t 220 1 (2 ^ fxBits)

/-- Sum of z^(2n+1) / (2n+1) for n from k, in fixed point. -/
def atanhSeries (z2 : Nat) : Nat → Nat → Nat → Nat
  | 0, _, _ => 0
  | fuel + 1, k, p => if p = 0 then 0 else p / (2 * k + 1) + atanhSeries z2 fuel (k + 1) (p * z2 / 2 ^ fxBits)

/-- 2 atanh z = ln((1 + z) / (1 - z)) of a fixed-point z. -/
def fxTwoAtanh (z : Nat) : Nat := 2 * atanhSeries (z * z / 2 ^ fxBits) 260 0 z

/-- ln 2 = 2 atanh(1/3). -/
def fxLn2 : Nat := fxTwoAtanh (2 ^ fxBits / 3)

/-- 2^x for a finite x (R94). Below 2^-26 in magnitude, 1 is the nearest value. -/
def exp2Fin (neg : Bool) (m : Nat) (e : Int) : BitVec 32 :=
  let mag := (bitLen m : Int) + e
  if mag ≤ -26 then 0x3F800000#32
  else if 9 ≤ mag then (if neg then 0 else 0x7F800000#32)
  else
    let fx := (scaleTo m e (-(fxBits : Int))).1
    let x : Int := if neg then -(fx : Int) else fx
    let n := x / 2 ^ fxBits
    let f := (x % 2 ^ fxBits).toNat
    if f = 0 then toFp32 (.fin false 1 n)
    else BitVec.ofNat 32 (Layout.fp32.encode (.fin false (fxExp (f * fxLn2 / 2 ^ fxBits)) (n - fxBits)) true)

/-- log2 of a finite positive x other than 1 (R94). -/
def log2Fin (m : Nat) (e : Int) : BitVec 32 :=
  let l := bitLen m
  let up := 3 * 2 ^ (l - 1) ≤ 2 * m
  let n : Int := e + l - 1 + (if up then 1 else 0)
  let d : Nat := if up then 2 ^ l else 2 ^ (l - 1)
  let below := m < d
  let diff := if below then d - m else m - d
  if diff = 0 then toFp32 (.ofInt n)
  else
    let g := fxTwoAtanh (diff * 2 ^ fxBits / (m + d)) * 2 ^ fxBits / fxLn2
    let v : Int := n * 2 ^ fxBits + (if below then -(g : Int) else g)
    BitVec.ofNat 32 (Layout.fp32.encode (.fin (v < 0) v.natAbs (-(fxBits : Int))) true)

/-- tanh of a finite x (R94). Below 2^-13 in magnitude x itself, and from 10 on 1, is the nearest value. -/
def tanhFin (neg : Bool) (m : Nat) (e : Int) : BitVec 32 :=
  let mag := (bitLen m : Int) + e
  if mag ≤ -13 then toFp32 (.fin neg m e)
  else
    let fx := (scaleTo m e (-(fxBits : Int))).1
    if 10 * 2 ^ fxBits ≤ fx then toFp32 (.fin neg 1 0)
    else
      let g := fxExp (2 * fx)
      BitVec.ofNat 32 (Layout.fp32.encode
        (.fin neg ((g - 2 ^ fxBits) * 2 ^ fxBits / (g + 2 ^ fxBits)) (-(fxBits : Int))) true)

/-- EXP2 (R94, Table 3.11). -/
def exp2 (a : BitVec 32) : BitVec 32 :=
  match fp32 a with
  | .nan => 0x7FC00000#32
  | .inf neg => if neg then 0 else 0x7F800000#32
  | .fin neg m e => if m = 0 then 0x3F800000#32 else exp2Fin neg m e

/-- LOG2 (R94, Table 3.11). -/
def log2 (a : BitVec 32) : BitVec 32 :=
  match fp32 a with
  | .nan => 0x7FC00000#32
  | .inf neg => if neg then 0x7FC00000#32 else 0x7F800000#32
  | .fin neg m e => if m = 0 then 0xFF800000#32 else if neg then 0x7FC00000#32 else log2Fin m e

/-- RCP (R94, Table 3.11). -/
def rcp (a : BitVec 32) : BitVec 32 :=
  match fp32 a with
  | .nan => 0x7FC00000#32
  | .inf neg => if neg then 0x80000000#32 else 0
  | .fin neg m e =>
    if m = 0 then (if neg then 0xFF800000#32 else 0x7F800000#32)
    else BitVec.ofNat 32 (Layout.fp32.encode (.fin neg (2 ^ 64 / m) (-e - 64)) (2 ^ 64 % m ≠ 0))

/-- The integer square root of n, bit by bit from bit `k`. -/
def isqrt (n : Nat) : Nat → Nat → Nat
  | 0, r => r
  | k + 1, r => let t := r + 2 ^ k; isqrt n k (if t * t ≤ n then t else r)

/-- RSQRT (R94, Table 3.11): sqrt(2^(2K) / (m × 2^e')) for an even e'. -/
def rsqrt (a : BitVec 32) : BitVec 32 :=
  match fp32 a with
  | .nan => 0x7FC00000#32
  | .inf neg => if neg then 0x7FC00000#32 else 0
  | .fin neg m e =>
    if m = 0 then (if neg then 0xFF800000#32 else 0x7F800000#32)
    else if neg then 0x7FC00000#32
    else
      let odd := e % 2 ≠ 0
      let m2 := if odd then 2 * m else m
      let e2 := if odd then e - 1 else e
      let r := isqrt (2 ^ 128 / m2) 65 0
      BitVec.ofNat 32 (Layout.fp32.encode (.fin false r (-(e2 / 2) - 64)) (r * r * m2 ≠ 2 ^ 128))

/-- TANH (R94, Table 3.11). -/
def tanh (a : BitVec 32) : BitVec 32 :=
  match fp32 a with
  | .nan => 0x7FC00000#32
  | .inf neg => if neg then 0xBF800000#32 else 0x3F800000#32
  | .fin neg m e => if m = 0 then a else tanhFin neg m e

end Sys2Proof.Machine
end

