-- ==== Sys2Proof/Machine/Row.lean ====
section
/-!
DEFINITION. What row operations do (R81-R94), their issue (R67-R69), and the order in which operations act (R68).
-/

namespace Sys2Proof.Machine

/-- A lane-store row of a lane. -/
def Pump.laneRow (q : Pump) (row lane : Nat) : Granule := q.lane.readD 0 (row * 512 + lane)

/-- An accumulator entry of a lane. -/
def Pump.entry_ (q : Pump) (e lane : Nat) : BitVec 32 := q.acc.readD 0 (e * 512 + lane)

def Pump.setEntry (q : Pump) (e lane : Nat) (v : BitVec 32) : Pump :=
  { q with acc := q.acc.write 0 (e * 512 + lane) v }

/-- Every lane of an entry, with fresh parity. -/
def Pump.setLanes (q : Pump) (e : Nat) (f : Nat → BitVec 32) : Pump :=
  { (List.range 512).foldl (fun t l => t.setEntry e l (f l)) q with accBad := q.accBad.filter fun k => k / 512 != e }

/-- Writes lane-store rows, encoded afresh: row × 512 + lane and the granule. -/
def Pump.putRows (q : Pump) (ws : List (Nat × Granule)) : Pump :=
  { q with lane := q.lane.writes 0 ws, laneUp := ws.foldl (fun (m : SMap CodeWord) w => m.drop1 w.1) q.laneUp }

/-- A read of accumulator entries [lo, lo + n): one of wrong parity faults the job with DATA_UE (R66). -/
def State.checkAcc (s : State) (c : Chan) (p : PumpIx) (lo n : Nat) : State :=
  if (s.pump c p).accBad.any fun k => decide (lo ≤ k / 512) && decide (k / 512 < lo + n) then s.pumpFault c p .dataUe 0 else s

/-! ### Lanes (R95, R96) -/

/-- Physical lanes of a pump that are repaired: those of the factory map, and applied repairs of the defect list. -/
def State.lanesOut (s : State) (c : Chan) (phys : Nat) : List Nat :=
  ((s.mc.fuses.factoryOf c .lane ++ s.mc.firm.defectsOf c .lane 1).filter fun d => d.unit.toNat == phys).map fun d => d.loc.toNat

/-- Physical lane of a logical one (R95): within a segment of 33, lanes from a repaired position upward shift by one. -/
def physLane (out : List Nat) (l : Nat) : Nat :=
  33 * (l / 32) + (match out.find? fun x => x / 33 == l / 32 with
    | some x => if x % 33 ≤ l % 32 then l % 32 + 1 else l % 32
    | none => l % 32)

/-- A lane whose check fails in a dot step: an event, a pending repair, the flag of PLD_LANE_REPAIR, and DATA_UE (R96, R97). -/
def State.laneFails (s : State) (c : Chan) (p : PumpIx) (lane : Nat) (dup : Bool) : State :=
  let phys := physOf (s.chan c) p
  let seg := lane / 33
  let used := (s.lanesOut c phys).any fun x => x / 33 == seg
  let k : Fin 8 := ⟨p.val % 8, Nat.mod_lt _ (by decide)⟩
  let mark : PumpRepair → PumpRepair := fun r =>
    if used then { r with unrepairable := true } else { r with lanePending := r.lanePending ||| (1#16 <<< seg) }
  (((s.event c 0x05 ((s.chan c).slotOf p) phys (detail [(0, 2, lane), (2, 1, bit dup)])).addDefect c .lane 3 phys lane).onPolder c
    (polderOf p) fun q => { q with repair := upd q.repair k mark }).pumpFault c p .dataUe 0

/-- Every lane checks a dot step; those in use that fail are listed (R96). -/
def State.checkLanes (s : State) (c : Chan) (p : PumpIx) : State :=
  let h := s.chan c
  if h.badLanes.isEmpty then s
  else
    let out := s.lanesOut c (physOf h p)
    let used := (List.range 512).map (physLane out)
    s.each (h.badLanes.filter fun b => b.1 == physOf h p && used.contains b.2.1) fun t b =>
      if t.mc.firm.listed c .lane b.1 b.2.1 then t.pumpFault c p .dataUe 0 else t.laneFails c p b.2.1 b.2.2

/-! ### BQS, LLD, ACL (R81-R83) -/

/-- Granules that a BQS appends in all. -/
def bqsTotal (w : BitVec 64) : Nat := bqsN1 w * bqsN0 w

/-- Granule address of the n-th granule of a BQS (R81). -/
def RowOp.bqsAt (o : RowOp) (n : Nat) : Nat :=
  (o.gran + (n / bqsN0 o.word : Nat) * bqsStride o.word + (n % bqsN0 o.word : Nat)).toNat

/-- Granules of the broadcast queue (Table 3.1). -/
def bqSize : Nat := 64

/-- Appends granules of a BQS to the broadcast queue while it has room (R76, R81). -/
def State.doBqs (s : State) (c : Chan) (p : PumpIx) (o : RowOp) : State × RowOp :=
  let n := min (bqsTotal o.word - o.pos) (bqSize - (s.pump c p).bq.length)
  let (s1, gs) := readEach (fun t g => t.readOwn c p g) s ((List.range n).map fun i => o.bqsAt (o.pos + i))
  (s1.onPump c p fun q => { q with bq := q.bq ++ gs.map fun g => (g, 0) }, { o with pos := o.pos + n })

/-- One lane-store row of LLD with T = 1: lane l takes byte or half-word l of each source row k. -/
def transposeRow (rows : List (List Granule)) (b lane : Nat) : Granule :=
  gOfBytes (rows.flatMap fun r =>
    (List.range b).map fun i =>
      let at_ := lane * b + i
      gByte (r.getD (at_ / 32) 0) (at_ % 32))

/-- Loads lane-store rows (R82). -/
def State.doLld (s : State) (c : Chan) (p : PumpIx) (o : RowOp) : State :=
  let w := o.word
  let a := o.gran.toNat
  (List.range (lldN w)).foldl (fun t r =>
    if lldT w then
      let b := lldEsize w + 1
      let k0 := r * 32 / b
      let (t1, rows) := readEach (fun u k =>
        readEach (fun v i => v.readOwn c p (a + (k0 + k) * lldStride w + i)) u (List.range (16 * b)))
        t (List.range (32 / b))
      let ws := (List.range 512).map fun l => ((lldRow w + r) * 512 + l, transposeRow rows b l)
      t1.onPump c p fun q => q.putRows ws
    else
      let (t1, gs) := readEach (fun u l => u.readOwn c p (a + r * 512 + l)) t (List.range 512)
      let ws := gs.zipIdx.map fun e => ((lldRow w + r) * 512 + e.2, e.1)
      t1.onPump c p fun q => q.putRows ws) s

/-- Loads accumulator entries (R83). -/
def State.doAcl (s : State) (c : Chan) (p : PumpIx) (o : RowOp) : State :=
  let w := o.word
  (List.range (acN w)).foldl (fun t i =>
    let base := o.gran.toNat + (if aclRepl w then 0 else 64 * i)
    let (t1, gs) := readEach (fun u g => u.readOwn c p (base + g)) t (List.range 64)
    t1.onPump c p fun q => q.setLanes (acAcc w + i) fun l => (gs.getD (l / 8) 0).extractLsb' (32 * (l % 8)) 32) s

/-! ### ACS, ACR (R84, R85) -/

/-- What ACS writes for one entry: float outputs read FP32, integer outputs INT32. -/
def acsBits (f : Fmt) (sr : Option (BitVec 64)) (v : BitVec 32) : Nat :=
  match f with
  | .int8 | .int32 => fmtConvert f (.ofInt v.toInt) none
  | _ => fmtConvert f (fp32 v) sr

/-- Converts entries and stores them (R84, R113). -/
def State.doAcs (s : State) (c : Chan) (p : PumpIx) (o : RowOp) : State :=
  let w := o.word
  let f := (fmtOfCode (acsFmt w)).getD .fp32
  let size := fmtBytes f
  let per := 32 / size
  let frame := s.frameOf c p
  (List.range (acN w)).foldl (fun t0 i =>
    let t := t0.checkAcc c p (acAcc w + i) 1
    let q := t.pump c p
    (List.range (16 * size)).foldl (fun u g =>
      let bytes := (List.range per).flatMap fun e =>
        let l := g * per + e
        let ix := o.srBase + BitVec.ofNat 64 (i * 512 + l)
        let sr := if acsSr w then some (srBits o.srHandle (BitVec.ofNat 64 frame) ix) else none
        leBytes size (acsBits f sr (q.entry_ (acAcc w + i) l))
      u.writePrivate c p (o.gran.toNat + i * 16 * size + g) 0xFFFFFFFF (gOfBytes bytes)) t) s

/-- Adds one addend to a ledger of the own slice, or faults with LEDGER_RANGE (R115, R116). The flag says whether
an earlier addend has faulted. An adder whose residue check fails is an uncorrectable error of the ledger (R244). -/
def State.addLedger (s : State) (c : Chan) (p : PumpIx) (g : Nat) (x : Num) (e : Int) : State × Bool :=
  match ledgerAddend x e with
  | none => (s.pumpFault c p .ledgerRange (32 * g), true)
  | some n =>
    let (s1, v) := s.readOwn c p g

    if (s1.chan c).adderBad p then (s1.dataUe c 0 (sliceKey p g), false)
    else (s1.writePrivate c p g 0xFFFFFFFF (ledgerAdd v n), false)

/-- Adds entries into ledgers (R85): entry by entry, lane by lane. -/
def State.doAcr (s : State) (c : Chan) (p : PumpIx) (o : RowOp) : State :=
  let w := o.word
  ((List.range (acN w)).foldl (fun (acc0 : State × Bool) i =>
    let acc := (acc0.1.checkAcc c p (acAcc w + i) 1, acc0.2)
    (List.range 512).foldl (fun (r : State × Bool) l =>
      if r.2 then r
      else
        let g := o.gran.toNat + (if acrMode w then i else 512 * i + l)
        r.1.addLedger c p g (fp32 ((r.1.pump c p).entry_ (acAcc w + i) l)) (acrLexp w)) acc) (s, false)).1

/-! ### DOT (R86-R91) -/

/-- One step's products of exact values, added exactly, scaled, and added to the entry with one rounding (R88). -/
def dotStep (acc : BitVec 32) (as bs : List Num) : BitVec 32 :=
  let ps := (as.zip bs).map fun e => e.1.mul e.2
  let sum := ps.foldl Num.add (.fin true 0 0)
  match sum with
  | .nan => 0x7FC00000
  | _ => toFp32 (sum.add (fp32 acc))

/-- One INT8 step (R88): the exact sum, added with saturation. -/
def dotStepInt (acc : BitVec 32) (as bs : List Int) : BitVec 32 :=
  let sum := ((as.zip bs).map fun e => e.1 * e.2).sum
  BitVec.ofInt 32 (max (-(2 ^ 31)) (min (2 ^ 31 - 1) (acc.toInt + sum)))

/-- Elements of `n` bits from a granule's start or, for B6, a chunk's. -/
def elemsAt (x : Nat) (bits from_ n : Nat) : List Nat := (List.range n).map fun i => x / 2 ^ (bits * (from_ + i)) % 2 ^ bits

/-- A chunk as one little-endian number. -/
def chunkNat (gs : List Granule) : Nat := leNat (gs.flatMap gBytes)

/-- Elements per step, steps per chunk, bits per element, elements per block (0 without blocks) (Table 3.7). -/
def DotKind.shape : DotKind → Nat × Nat × Nat × Nat
  | .fp8 => (16, 2, 8, 0) | .int8 => (16, 2, 8, 0) | .half => (8, 2, 16, 0)
  | .b4 => (32, 2, 4, 32) | .q4 => (16, 4, 4, 32) | .b6 => (16, 8, 6, 32)

/-- Runs one chunk into an entry: `sa`, `sb` are the scale granules of the run, `blk` the run's first block of the
chunk. -/
def dotChunk (k : DotKind) (fa fb : Fmt) (a b : List Granule) (sa sb : Granule) (blk : Nat) (acc : BitVec 32) :
    BitVec 32 :=
  let (per, steps, bits, blkE) := k.shape
  let na := chunkNat a
  let nb := chunkNat b
  (List.range steps).foldl (fun v i =>
    let ea := elemsAt na bits (i * per) per
    let eb := elemsAt nb bits (i * per) per
    match k with
    | .int8 => dotStepInt v (ea.map fun x => (BitVec.ofNat 8 x).toInt) (eb.map fun x => (BitVec.ofNat 8 x).toInt)
    | .fp8 | .half => dotStep v (ea.map (fmtValue fa)) (eb.map (fmtValue fb))
    | .b4 | .q4 | .b6 =>
      let j := blk + i * per / blkE
      dotStep v (ea.map (fmtBlockValue fa (gByte sa j).toNat)) (eb.map (fmtBlockValue fb (gByte sb j).toNat))) acc

/-- The chunks of E lane-store rows: the row of the run's scale (none without blocks), whether the chunk opens the
run, its first data row, its rows, its first block (R87, R89). -/
def dotChunks (k : DotKind) (e : Nat) : List (Nat × Bool × Nat × Nat × Nat) :=
  match k with
  | .fp8 | .int8 | .half => (List.range e).map fun r => (0, false, r, 1, 0)
  | .b4 | .q4 =>
    (List.range e).filterMap fun r =>
      if r % 17 = 0 then none else some (r / 17 * 17, r % 17 = 1, r, 1, 2 * (r % 17 - 1))
  | .b6 =>
    (List.range e).filterMap fun r =>
      if r % 25 = 0 ∨ (r % 25 - 1) % 3 ≠ 0 then none
      else some (r / 25 * 25, r % 25 = 1, r, 3, 4 * ((r % 25 - 1) / 3))

/-- Steps of a DOT: each chunk, and in it each broadcast row (R86, R87). -/
def dotSteps (w : BitVec 64) : List ((Nat × Bool × Nat × Nat × Nat) × Nat) :=
  match dotKind (fmtOfCode (dotA w)) (fmtOfCode (dotB w)) with
  | none => []
  | some k => (dotChunks k (dotE w)).flatMap fun ch => (List.range (dotM w)).map fun i => (ch, i)

/-- Queue entries that a step takes: its data rows, and the row's scale granule where the chunk opens a run (R89). A scale row with no
data row after it takes none (log entry 144). -/
def stepNeeds (x : (Nat × Bool × Nat × Nat × Nat) × Nat) : Nat := x.1.2.2.2.1 + bit x.1.2.1

/-- Entries that a DOT takes from the head of the queue, each checked when it is read (R66): a corrected one is counted, an
uncorrectable one faults the job with DATA_UE and reads as zeros. -/
def State.takeEntries (s : State) (c : Chan) (p : PumpIx) (n : Nat) : State × List Granule :=
  let es := (s.pump c p).bq.take n
  let s1 := s.onPump c p fun q => { q with bq := q.bq.drop n }
  readEach (fun t (e : Granule × CodeWord) =>
    if e.2 = 0 then (t, e.1)
    else match bscDecode e.2 with
      | .clean => (t, e.1 ^^^ e.2.setWidth 256)
      | .corrected i x => (t.logCe c 4 0 0 i true, e.1 ^^^ (e.2 ^^^ oneSymbol i x).setWidth 256)
      | .uncorrectable => (t.pumpFault c p .dataUe 0, 0)) s1 es

/-- INIT clears the entries of a DOT that begins (R86). -/
def Pump.dotStart (q : Pump) (w : BitVec 64) : Pump :=
  if dotInit w then (List.range (dotM w)).foldl (fun t i => t.setLanes (dotAcc w + i) fun _ => 0) q else q

/-- One step on the granules it takes: the operation's row scale buffer and the entry (R86, R87). -/
def Pump.dotStepOn (q : Pump) (o : RowOp) (x : (Nat × Bool × Nat × Nat × Nat) × Nat) (gs : List Granule) : Pump × RowOp :=
  let w := o.word
  let fa := (fmtOfCode (dotA w)).getD .fp32
  let fb := (fmtOfCode (dotB w)).getD .fp32
  match dotKind (fmtOfCode (dotA w)) (fmtOfCode (dotB w)) with
  | none => (q, o)
  | some k =>
    let ((sRow, opens, row, n, blk), i) := x
    let sc := if opens then gs.headD 0 else o.scales.getD i 0
    let ea := if opens then gs.drop 1 else gs
    (q.setLanes (dotAcc w + i) fun l =>
      let eb := (List.range n).map fun r => q.laneRow (dotRow w + row + r) l
      dotChunk k fa fb ea eb sc (q.laneRow (dotRow w + sRow) l) blk (q.entry_ (dotAcc w + i) l),
     { o with pos := o.pos + 1, scales := (if o.scales.isEmpty then List.replicate (dotM w) 0 else o.scales).set i sc })

/-- Runs the next step of a DOT: its lane rows, entry and lanes are checked as it reads them (R66, R96). -/
def State.doDotStep (s : State) (c : Chan) (p : PumpIx) (o : RowOp) : State × RowOp :=
  match (dotSteps o.word)[o.pos]? with
  | none => (s, o)
  | some x =>
    let s0 := if o.pos = 0 then s.onPump c p fun q => q.dotStart o.word else s
    let w := o.word
    let s1 := (((s0.checkRows c p .lane ((dotRow w + x.1.2.2.1) * 512) ((dotRow w + x.1.2.2.1 + x.1.2.2.2.1) * 512)).checkRows c p
      .lane ((dotRow w + x.1.1) * 512) ((dotRow w + x.1.1 + 1) * 512)).checkAcc c p (dotAcc w + x.2) 1).checkLanes c p
    let (s2, gs) := s1.takeEntries c p (stepNeeds x)
    let r := (s2.pump c p).dotStepOn o x gs
    (s2.onPump c p fun _ => r.1, r.2)

/-! ### EW (R92-R95) -/

/-- FN codes of Table 3.9. -/
def ewFun (fn : Nat) (d a b : BitVec 32) : BitVec 32 :=
  match fn with
  | 0x00 => a
  | 0x01 => fadd a b
  | 0x02 => fsub a b
  | 0x03 => fmul a b
  | 0x04 => fmax a b
  | 0x05 => fmin a b
  | 0x06 => ffma d a b
  | 0x07 => a &&& 0x7FFFFFFF
  | 0x08 => a ^^^ 0x80000000
  | 0x09 => exp2 a
  | 0x0A => log2 a
  | 0x0B => rcp a
  | 0x0C => rsqrt a
  | 0x0D => tanh a
  | 0x10 => a + b
  | 0x11 => a - b
  | 0x12 => imax a b
  | 0x13 => imin a b
  | 0x14 => cvtIF a
  | 0x15 => cvtFI a
  | _ => a

/-- Applies FN entry by entry in ascending i (R92). `reg` is x[SRC2] at issue. -/
def Pump.ew (q : Pump) (w reg : BitVec 64) : Pump :=
  (List.range (ewN w)).foldl (fun t i =>
    t.setLanes (ewDst w + i) fun l =>
      let b := if ewS w then reg.setWidth 32 else t.entry_ (ewSrc2 w + i) l
      ewFun (ewFnOf w) (t.entry_ (ewDst w + i) l) (t.entry_ (ewSrc1 w + i) l) b) q

/-! ### Order and issue -/

/-- Entries that an EW reads: both sources, and DST for FMA. -/
def ewReads (w : BitVec 64) : List Nat :=
  [ewSrc1 w] ++ (if ewTwo (ewFnOf w) && !ewS w then [ewSrc2 w] else []) ++ (if ewFnOf w == 0x06 then [ewDst w] else [])

/-- Whether an operation can go on: a DOT with the entries of its next step in the queue, a BQS with room there (R76, R81), an XFR with
its reads at hand. A kernel ends by KERNEL_COMPLETE. -/
def State.opReady (s : State) (c : Chan) (p : PumpIx) (o : RowOp) : Bool :=
  match o.unit with
  | .kernel => false
  | .transfer => s.xferReady c p o
  | .multiply =>
    wOp o.word != 0x20 ||
      (match (dotSteps o.word)[o.pos]? with
       | some x => decide (stepNeeds x ≤ (s.pump c p).bq.length)
       | none => true)
  | .broadcast => decide ((s.pump c p).bq.length < bqSize)
  | _ => true

/-- Performs an operation that acts at once. -/
def State.perform (s : State) (c : Chan) (p : PumpIx) (o : RowOp) : State :=
  match o.unit with
  | .transfer => s.doXfer c p o
  | .kernel => s
  | _ =>
    match wOp o.word with
    | 0x20 => s.onPump c p fun q => q.dotStart o.word
    | 0x22 => s.doAcl c p o
    | 0x23 => s.doAcs c p o
    | 0x24 => s.doAcr c p o
    | 0x25 => (s.each (ewReads o.word) fun t e => t.checkAcc c p e (ewN o.word)).onPump c p fun q => q.ew o.word o.reg
    | 0x26 => s.doLld c p o
    | _ => s

/-- Whether an operation goes step by step: a BQS, a DOT that has steps. -/
def RowOp.steps (o : RowOp) : Nat :=
  match o.unit with
  | .broadcast => bqsTotal o.word
  | .multiply => if wOp o.word = 0x20 then (dotSteps o.word).length else 0
  | _ => 0

/-- The i-th waiting operation acts: whole, or one step of it, after the last of which it waits no more. -/
def State.act (s : State) (c : Chan) (p : PumpIx) (i : Nat) (o : RowOp) : State :=
  if o.steps = 0 then (s.onPump c p fun q => { q with todo := q.todo.eraseIdx i }).perform c p o
  else
    let (t, o') := if o.unit = .broadcast then s.doBqs c p o else s.doDotStep c p o
    t.onPump c p fun q => { q with todo := if o'.pos < o.steps then q.todo.set i o' else q.todo.eraseIdx i }

/-- The first waiting operation that may act: ready, and after no earlier waiting one (R68). -/
def State.nextOp (s : State) (c : Chan) (p : PumpIx) (l : List RowOp) : Option Nat :=
  (List.range l.length).find? fun i =>
    match l[i]? with
    | some o => s.opReady c p o && (l.take i).all fun e => !o.after e
    | none => false

/-- Waiting operations act while one may. -/
def State.advanceN (s : State) (c : Chan) (p : PumpIx) : Nat → State
  | 0 => s
  | n + 1 =>
    let l := (s.pump c p).todo
    match s.nextOp c p l with
    | none => s
    | some i =>
      match l[i]? with
      | none => s
      | some o => (s.act c p i o).advanceN c p n

/-- Whether every issued operation of a pump has completed (R72). -/
def Pump.quiet (q : Pump) : Bool :=
  q.todo.isEmpty && q.queued.toList.all (· == 0) && q.running.toList.all (· == 0) && q.xfers.isEmpty &&
    q.te.kernel.isNone

/-- A controller at FENCE goes on once every operation has completed (R72). -/
def Pump.wake (q : Pump) : Pump := if q.run == .fence && q.quiet then { q with run := .running } else q

/-- Performs what can act, and lets FENCE end. -/
def State.advance (s : State) (c : Chan) (p : PumpIx) : State :=
  (s.advanceN c p (((s.pump c p).todo.map fun o => 1 + o.steps).sum + 1)).onPump c p Pump.wake

/-- The pc moves on; running past the last word faults the job with DESCRIPTOR (R69). -/
def State.pcNext (s : State) (c : Chan) (p : PumpIx) : State :=
  let s1 := s.onPump c p fun q => { q with pc := q.pc + 1 }
  if (s.pump c p).pc + 1 < 8192 then s1 else s1.pumpFault c p .descriptor 0

/-- Queues an operation (R67) and lets it act in its turn. -/
def State.enqueue (s : State) (c : Chan) (p : PumpIx) (o : RowOp) : State :=
  let add := fun (q : Pump) => { q with
    todo := q.todo ++ [o], queued := upd q.queued (unitIx o.unit) (· + 1), issued := upd q.issued (unitIx o.unit) (· ++ [s.timeNs]) }
  ((s.onPump c p add).pcNext c p).advance c p

/-- Whether a unit's queue is full: the controller stalls (R67). -/
def Pump.full (q : Pump) (u : RowUnit) : Bool := unitDepth u ≤ q.queued[(unitIx u).val]

/-- A row operation with the registers it takes at issue (R68). -/
def Pump.rowOp (q : Pump) (u : RowUnit) (w : BitVec 64) : RowOp :=
  { unit := u, word := w, reg := if wOp w = 0x25 then q.reg (ewSrc2 w) else q.reg (wAreg w),
    srHandle := q.srHandle, srBase := q.srBase, desc := 0, args := 0, srcWin := [], dstWin := [], srcResv := 0, dstResv := 0,
    slice := [], foot := [], pos := 0, scales := [] }

/-- Issues a row word: a full queue stalls, a bad field faults with DESCRIPTOR, a granule outside the pinned region
with ACCESS (R67, R69). -/
def State.issueRow (s : State) (c : Chan) (p : PumpIx) (w : BitVec 64) : State :=
  let q := s.pump c p
  match rowUnit (wOp w) with
  | none => s.pumpFault c p .descriptor 0
  | some u =>
    if q.full u then s
    else if !rowFieldsOk w then s.pumpFault c p .descriptor 0
    else if !(s.chan c).spanOk (q.rowOp u w).span then s.pumpFault c p .access 0
    else s.enqueue c p (q.rowOp u w)

/-- The operation that an XFR or a KRN issues: its descriptor, and the argument and window blocks that it names (Tables 6.2, 8.3). -/
def Pump.descOp (q : Pump) (u : RowUnit) (a : Int) : RowOp :=
  let d := q.dataBits a.toNat 512
  let x := xdesc d
  { unit := u, word := 0, reg := BitVec.ofInt 64 a, srHandle := q.srHandle, srBase := q.srBase, desc := d,
    args := q.dataBits (field d 32 15) 512,
    srcWin := windowOf (q.dataBits x.srcW 512), dstWin := windowOf (q.dataBits x.dstW 512),
    srcResv := windowResv (q.dataBits x.srcW 512), dstResv := windowResv (q.dataBits x.dstW 512),
    slice := [], foot := [], pos := 0, scales := [] }

/-- The blocks of data memory that a descriptor makes an operation read beside itself. -/
def descBlocks (u : RowUnit) (d : BitVec 512) : List Nat :=
  let x := xdesc d
  if u = .kernel then [field d 32 15] else (if x.srcWin then [x.srcW] else []) ++ (if x.dstWin then [x.dstW] else [])

/-- The operation with what it touches (R68, R141). -/
def State.withTouches (s : State) (c : Chan) (p : PumpIx) (o : RowOp) : RowOp :=
  let t := if o.unit = .kernel then s.kernelTouches c p o.desc else s.xferTouches c p o
  { o with slice := t.1, foot := t.2 }

/-- Issues an XFR or a KRN: its descriptor must lie on a multiple of 8 within data memory (R69). -/
def State.issueDesc (s : State) (c : Chan) (p : PumpIx) (u : RowUnit) (f : BitVec 58) : State :=
  let q := s.pump c p
  let a := q.dataAddr f
  if q.full u then s
  else if a % 8 ≠ 0 then s.pumpFault c p .descriptor 0
  else if a < 0 ∨ 0x8000 < a + 64 then s.pumpFault c p .access 0
  else
    s.withData c p a.toNat 64 fun s1 =>
      (s1.each (descBlocks u ((s1.pump c p).dataBits a.toNat 512)) fun t b => t.checkRows c p .data (b / 32) (b / 32 + 2)).unlessStopped
        c p fun t => t.enqueue c p (t.withTouches c p ((t.pump c p).descOp u a))

end Sys2Proof.Machine
end

