-- ==== Sys2Proof/Machine/Controller.lean ====
section
/-!
DEFINITION. The pump controller's instructions, its row and transfer words, and the events of its units
(R65-R94, R194-R211, R243-R249). A word acts only where the program counter of a running controller stands at it.
-/

namespace Sys2Proof.Machine

/-! ### Scalar instructions (Table 3.4) -/

/-- A scalar instruction: an unused field that is not zero faults with DESCRIPTOR; otherwise it acts and the pc moves
on (R69). -/
def scalar (op : Nat) (u : Uses) (c : Chan) (p : PumpIx) (f : BitVec 58) (s : State) (g : State → State) : Res :=
  s.atWord c p (ctlWord op f) fun t => if u.clean f then (g t).pcNext c p else t.pumpFault c p .descriptor 0

/-- x[RD] = x[RS1] op x[RS2]. -/
def alu (op : Nat) (g : BitVec 64 → BitVec 64 → BitVec 64) (c : Chan) (p : PumpIx) (f : BitVec 58) (s : State) : Res :=
  scalar op ⟨true, true, true, 0⟩ c p f s fun t =>
    t.onPump c p fun q => q.setReg (fRd f) (g (q.reg (fRs1 f)) (q.reg (fRs2 f)))

/-- x[RD] from x[RS1] and IMM. -/
def aluImm (op bits : Nat) (g : BitVec 64 → BitVec 64) (c : Chan) (p : PumpIx) (f : BitVec 58) (s : State) : Res :=
  scalar op ⟨true, true, false, bits⟩ c p f s fun t =>
    t.onPump c p fun q => q.setReg (fRd f) (g (q.reg (fRs1 f)))

/-- A branch: a target outside program memory faults with DESCRIPTOR, taken or not (R69). -/
def branch (op : Nat) (u : Uses) (c : Chan) (p : PumpIx) (f : BitVec 58) (s : State) (taken : Pump → Bool) : Res :=
  s.atWord c p (ctlWord op f) fun t =>
    let q := t.pump c p
    let target : Int := q.pc + fImm f
    if !u.clean f || decide (target < 0) || decide (8192 ≤ target) then t.pumpFault c p .descriptor 0
    else if taken q then t.onPump c p fun x => { x with pc := target.toNat }
    else t.pcNext c p

/-- NOP (R73). -/
def execNop (c : Chan) (p : PumpIx) (f : BitVec 58) (s : State) : Res :=
  scalar 0x00 ⟨false, false, false, 0⟩ c p f s id
/-- ADD (R73). -/
def execAdd (c : Chan) (p : PumpIx) (f : BitVec 58) (s : State) : Res := alu 0x01 (· + ·) c p f s
/-- SUB (R73). -/
def execSub (c : Chan) (p : PumpIx) (f : BitVec 58) (s : State) : Res := alu 0x02 (· - ·) c p f s
/-- AND (R73). -/
def execAnd (c : Chan) (p : PumpIx) (f : BitVec 58) (s : State) : Res := alu 0x03 (· &&& ·) c p f s
/-- OR (R73). -/
def execOr (c : Chan) (p : PumpIx) (f : BitVec 58) (s : State) : Res := alu 0x04 (· ||| ·) c p f s
/-- XOR (R73). -/
def execXor (c : Chan) (p : PumpIx) (f : BitVec 58) (s : State) : Res := alu 0x05 (· ^^^ ·) c p f s
/-- MUL keeps the low 64 bits (R73). -/
def execMul (c : Chan) (p : PumpIx) (f : BitVec 58) (s : State) : Res := alu 0x06 (· * ·) c p f s
/-- ADDI (R73). -/
def execAddi (c : Chan) (p : PumpIx) (f : BitVec 58) (s : State) : Res := aluImm 0x07 43 (· + fImm64 f) c p f s
/-- SHLI by IMM[5:0] (R73). -/
def execShli (c : Chan) (p : PumpIx) (f : BitVec 58) (s : State) : Res := aluImm 0x08 6 (· <<< field f 0 6) c p f s
/-- SHRI by IMM[5:0] (R73). -/
def execShri (c : Chan) (p : PumpIx) (f : BitVec 58) (s : State) : Res := aluImm 0x09 6 (· >>> field f 0 6) c p f s

/-- LI (R73). -/
def execLi (c : Chan) (p : PumpIx) (f : BitVec 58) (s : State) : Res :=
  scalar 0x0A ⟨true, false, false, 43⟩ c p f s fun t => t.onPump c p fun q => q.setReg (fRd f) (fImm64 f)

/-- BEQ (R73). -/
def execBeq (c : Chan) (p : PumpIx) (f : BitVec 58) (s : State) : Res :=
  branch 0x10 ⟨false, true, true, 43⟩ c p f s fun q => q.reg (fRs1 f) == q.reg (fRs2 f)
/-- BNE (R73). -/
def execBne (c : Chan) (p : PumpIx) (f : BitVec 58) (s : State) : Res :=
  branch 0x11 ⟨false, true, true, 43⟩ c p f s fun q => q.reg (fRs1 f) != q.reg (fRs2 f)
/-- BLT, signed (R73). -/
def execBlt (c : Chan) (p : PumpIx) (f : BitVec 58) (s : State) : Res :=
  branch 0x12 ⟨false, true, true, 43⟩ c p f s fun q => (q.reg (fRs1 f)).slt (q.reg (fRs2 f))
/-- JMP (R73). -/
def execJmp (c : Chan) (p : PumpIx) (f : BitVec 58) (s : State) : Res :=
  branch 0x13 ⟨false, false, false, 43⟩ c p f s fun _ => true

/-- A data address that is no multiple of 8 (DESCRIPTOR) or outside the data memory (ACCESS) (R69). -/
def dataFault (a : Int) : Option Cause :=
  if a % 8 ≠ 0 then some .descriptor else if a < 0 ∨ 0x8000 ≤ a then some .access else none

/-- LD (R73). -/
def execLd (c : Chan) (p : PumpIx) (f : BitVec 58) (s : State) : Res :=
  s.atWord c p (ctlWord 0x18 f) fun t =>
    let a := (t.pump c p).dataAddr f
    if !(Uses.clean ⟨true, true, false, 43⟩ f) then t.pumpFault c p .descriptor 0
    else match dataFault a with
      | some e => t.pumpFault c p e 0
      | none => t.withData c p a.toNat 8 fun u =>
          (u.onPump c p fun x => x.setReg (fRd f) (x.dmem.readD 0 (a.toNat / 8))).pcNext c p

/-- ST: a store to the constant region faults with ACCESS (R71, R73). It writes a part of a row, which is checked first (R66). -/
def execSt (c : Chan) (p : PumpIx) (f : BitVec 58) (s : State) : Res :=
  s.atWord c p (ctlWord 0x19 f) fun t =>
    let a := (t.pump c p).dataAddr f
    if !(Uses.clean ⟨false, true, true, 43⟩ f) then t.pumpFault c p .descriptor 0
    else match dataFault a with
      | some e => t.pumpFault c p e 0
      | none =>
        if a < 0x6000 then t.pumpFault c p .access 0
        else t.withData c p a.toNat 8 fun u =>
          (u.onPump c p fun x => { x with dmem := x.dmem.write 0 (a.toNat / 8) (x.reg (fRs2 f)) }).pcNext c p

/-- SETSR (R73). -/
def execSetsr (c : Chan) (p : PumpIx) (f : BitVec 58) (s : State) : Res :=
  scalar 0x1C ⟨false, true, true, 0⟩ c p f s fun t =>
    t.onPump c p fun q => { q with srHandle := (q.reg (fRs1 f)).setWidth 32, srBase := q.reg (fRs2 f) }

/-- FRN reads the current frame number (R73). -/
def execFrn (c : Chan) (p : PumpIx) (f : BitVec 58) (s : State) : Res :=
  scalar 0x1D ⟨true, false, false, 0⟩ c p f s fun t =>
    t.onPump c p fun q => q.setReg (fRd f) (BitVec.ofNat 64 (t.frameOf c p))

/-- A pump's virtual identity: index in [6:0], virtual channel in [30:16] (Table 3.4). -/
def Pump.ident (q : Pump) : Nat := packReg [(0, 7, q.index), (16, 15, q.vch)]

/-- PID (R73). -/
def execPid (c : Chan) (p : PumpIx) (f : BitVec 58) (s : State) : Res :=
  scalar 0x1E ⟨true, false, false, 0⟩ c p f s fun t =>
    t.onPump c p fun q => q.setReg (fRd f) (BitVec.ofNat 64 q.ident)

/-- ISSUE issues x[RS1] as a row word; another opcode faults with DESCRIPTOR (R69, R73). -/
def execIssue (c : Chan) (p : PumpIx) (f : BitVec 58) (s : State) : Res :=
  s.atWord c p (ctlWord 0x28 f) fun t =>
    if Uses.clean ⟨false, true, false, 0⟩ f then t.issueRow c p ((t.pump c p).reg (fRs1 f)) else t.pumpFault c p .descriptor 0

/-- KRN queues a kernel launch (R139). -/
def execKrn (c : Chan) (p : PumpIx) (f : BitVec 58) (s : State) : Res :=
  s.atWord c p (ctlWord 0x31 f) fun t =>
    if Uses.clean ⟨false, true, false, 43⟩ f then t.issueDesc c p .kernel f else t.pumpFault c p .descriptor 0

/-- FENCE stops issue until every issued operation has completed (R72). -/
def execFence (c : Chan) (p : PumpIx) (f : BitVec 58) (s : State) : Res :=
  s.atWord c p (ctlWord 0x3E f) fun t =>
    if Uses.clean ⟨false, false, false, 0⟩ f then
      ((t.onPump c p fun q => { q with run := .fence }).pcNext c p).onPump c p Pump.wake
    else t.pumpFault c p .descriptor 0

/-- DONE ends the frame program (R72). -/
def execDone (c : Chan) (p : PumpIx) (f : BitVec 58) (s : State) : Res :=
  s.atWord c p (ctlWord 0x3F f) fun t =>
    if Uses.clean ⟨false, false, false, 0⟩ f then t.onPump c p fun q => { q with run := .done }
    else t.pumpFault c p .descriptor 0

/-- A word with an unassigned opcode faults the job with DESCRIPTOR (R69). -/
def execUnassignedOpcode (c : Chan) (p : PumpIx) (w : BitVec 64) (s : State) : Res :=
  if opAssigned (wOp w) then .next s else s.atWord c p w fun t => t.pumpFault c p .descriptor 0

/-! ### Row words -/

/-- A row word that stands in the program. -/
def rowWord (op : Nat) (c : Chan) (p : PumpIx) (f : BitVec 58) (s : State) : Res :=
  s.atWord c p (ctlWord op f) fun t => t.issueRow c p (ctlWord op f)

/-- An EW word of a function. -/
def ewWord (fn : Nat) (c : Chan) (p : PumpIx) (f : BitVec 58) (s : State) : Res :=
  if ewFn f = fn then rowWord 0x25 c p f s else .next s

/-- An EW word with an unassigned FN faults the job with DESCRIPTOR (R92). -/
def execEwUnassignedFn (c : Chan) (p : PumpIx) (f : BitVec 58) (s : State) : Res :=
  if ewAssigned (ewFn f) then .next s else s.atWord c p (ctlWord 0x25 f) fun t => t.pumpFault c p .descriptor 0

/-- An XFR word whose descriptor holds an operation code that `want` accepts; a bad field or address faults first
(R69, R208). -/
def xferWord (want : Nat → Bool) (c : Chan) (p : PumpIx) (f : BitVec 58) (s : State) : Res :=
  s.atWord c p (ctlWord 0x30 f) fun t =>
    let q := t.pump c p
    let a := q.dataAddr f
    if !(Uses.clean ⟨false, true, false, 43⟩ f) then t.pumpFault c p .descriptor 0
    else if a % 8 ≠ 0 ∨ a < 0 ∨ 0x8000 < a + 64 then t.issueDesc c p .transfer f
    else if want (xdesc (q.dataBits a.toNat 512)).opc then t.issueDesc c p .transfer f
    else t

/-- An XFR with a reserved operation code faults the job with DESCRIPTOR (R208). -/
def execXfrReservedOpc (c : Chan) (p : PumpIx) (f : BitVec 58) (s : State) : Res := xferWord (fun n => 7 ≤ n) c p f s

/-- DOT (R86). -/
def execDot (c : Chan) (p : PumpIx) (f : BitVec 58) (s : State) : Res := rowWord 0x20 c p f s

/-- BQS (R81). -/
def execBqs (c : Chan) (p : PumpIx) (f : BitVec 58) (s : State) : Res := rowWord 0x21 c p f s

/-- ACL (R83). -/
def execAcl (c : Chan) (p : PumpIx) (f : BitVec 58) (s : State) : Res := rowWord 0x22 c p f s

/-- ACS (R84). -/
def execAcs (c : Chan) (p : PumpIx) (f : BitVec 58) (s : State) : Res := rowWord 0x23 c p f s

/-- ACR (R85). -/
def execAcr (c : Chan) (p : PumpIx) (f : BitVec 58) (s : State) : Res := rowWord 0x24 c p f s

/-- LLD (R82). -/
def execLld (c : Chan) (p : PumpIx) (f : BitVec 58) (s : State) : Res := rowWord 0x26 c p f s

/-- EW MOV. -/
def execEwMov (c : Chan) (p : PumpIx) (f : BitVec 58) (s : State) : Res := ewWord 0x00 c p f s

/-- EW ADD. -/
def execEwAdd (c : Chan) (p : PumpIx) (f : BitVec 58) (s : State) : Res := ewWord 0x01 c p f s

/-- EW SUB. -/
def execEwSub (c : Chan) (p : PumpIx) (f : BitVec 58) (s : State) : Res := ewWord 0x02 c p f s

/-- EW MUL. -/
def execEwMul (c : Chan) (p : PumpIx) (f : BitVec 58) (s : State) : Res := ewWord 0x03 c p f s

/-- EW MAX (R494). -/
def execEwMax (c : Chan) (p : PumpIx) (f : BitVec 58) (s : State) : Res := ewWord 0x04 c p f s

/-- EW MIN (R494). -/
def execEwMin (c : Chan) (p : PumpIx) (f : BitVec 58) (s : State) : Res := ewWord 0x05 c p f s

/-- EW FMA. -/
def execEwFma (c : Chan) (p : PumpIx) (f : BitVec 58) (s : State) : Res := ewWord 0x06 c p f s

/-- EW ABS. -/
def execEwAbs (c : Chan) (p : PumpIx) (f : BitVec 58) (s : State) : Res := ewWord 0x07 c p f s

/-- EW NEG. -/
def execEwNeg (c : Chan) (p : PumpIx) (f : BitVec 58) (s : State) : Res := ewWord 0x08 c p f s

/-- EW EXP2 (R94). -/
def execEwExp2 (c : Chan) (p : PumpIx) (f : BitVec 58) (s : State) : Res := ewWord 0x09 c p f s

/-- EW LOG2 (R94). -/
def execEwLog2 (c : Chan) (p : PumpIx) (f : BitVec 58) (s : State) : Res := ewWord 0x0A c p f s

/-- EW RCP (R94). -/
def execEwRcp (c : Chan) (p : PumpIx) (f : BitVec 58) (s : State) : Res := ewWord 0x0B c p f s

/-- EW RSQRT (R94). -/
def execEwRsqrt (c : Chan) (p : PumpIx) (f : BitVec 58) (s : State) : Res := ewWord 0x0C c p f s

/-- EW TANH (R94). -/
def execEwTanh (c : Chan) (p : PumpIx) (f : BitVec 58) (s : State) : Res := ewWord 0x0D c p f s

/-- EW IADD. -/
def execEwIadd (c : Chan) (p : PumpIx) (f : BitVec 58) (s : State) : Res := ewWord 0x10 c p f s

/-- EW ISUB. -/
def execEwIsub (c : Chan) (p : PumpIx) (f : BitVec 58) (s : State) : Res := ewWord 0x11 c p f s

/-- EW IMAX. -/
def execEwImax (c : Chan) (p : PumpIx) (f : BitVec 58) (s : State) : Res := ewWord 0x12 c p f s

/-- EW IMIN. -/
def execEwImin (c : Chan) (p : PumpIx) (f : BitVec 58) (s : State) : Res := ewWord 0x13 c p f s

/-- EW CVTIF. -/
def execEwCvtif (c : Chan) (p : PumpIx) (f : BitVec 58) (s : State) : Res := ewWord 0x14 c p f s

/-- EW CVTFI. -/
def execEwCvtfi (c : Chan) (p : PumpIx) (f : BitVec 58) (s : State) : Res := ewWord 0x15 c p f s

/-- XFR COPY (R194). -/
def execXfrCopy (c : Chan) (p : PumpIx) (f : BitVec 58) (s : State) : Res := xferWord (fun n => n == 0) c p f s

/-- XFR TCOPY (R195). -/
def execXfrTcopy (c : Chan) (p : PumpIx) (f : BitVec 58) (s : State) : Res := xferWord (fun n => n == 1) c p f s

/-- XFR COMBINE (R133). -/
def execXfrCombine (c : Chan) (p : PumpIx) (f : BitVec 58) (s : State) : Res := xferWord (fun n => n == 2) c p f s

/-- XFR READOUT (R137). -/
def execXfrReadout (c : Chan) (p : PumpIx) (f : BitVec 58) (s : State) : Res := xferWord (fun n => n == 3) c p f s

/-- XFR DEAD (R226). -/
def execXfrDead (c : Chan) (p : PumpIx) (f : BitVec 58) (s : State) : Res := xferWord (fun n => n == 4) c p f s

/-- XFR HALO (R208). -/
def execXfrHalo (c : Chan) (p : PumpIx) (f : BitVec 58) (s : State) : Res := xferWord (fun n => n == 5) c p f s

/-- XFR WARM (R208). -/
def execXfrWarm (c : Chan) (p : PumpIx) (f : BitVec 58) (s : State) : Res := xferWord (fun n => n == 6) c p f s

/-! ### Reads over the bond port (R243-R249) -/

/-- The bond group of a symbol position (R243). -/
def bondGroup (sym : Nat) : Nat := if sym < 4 then 8 else (sym - 4) / 4

/-- Byte of the 36 of a granule slot that a symbol position is (Table 9.1). -/
def bondByte (sym : Nat) : Nat := if sym < 4 then 32 + sym else sym - 4

/-- The lowest bit of a symbol's error: its wire in the byte. -/
def lowBit (e : BitVec 8) : Nat := ((List.range 8).find? fun i => e.getLsbD i).getD 0

/-- A failing wire is handed to the bond-failure flow: marked PENDING, or its pump for map-out where the group's spare is in
use, and listed (R405, R406). The read slot is taken as 0 (log entry 33). -/
def State.bondMark (s : State) (c : Chan) (p : PumpIx) (sym : Nat) (e : BitVec 8) : State :=
  let group := bondByte sym / 4
  let wire := 8 * (bondByte sym % 4) + lowBit e
  let phys := physOf (s.chan c) p
  let k : Fin 8 := ⟨p.val % 8, Nat.mod_lt _ (by decide)⟩
  let r := (s.polder c (polderOf p)).repair[k.val]
  if s.mc.firm.listed c .bondWire phys (group * 32 + wire) then s
  else
    let s1 := (s.event c 0x0B ((s.chan c).slotOf p) phys (detail [(0, 1, group), (1, 1, wire)])).addDefect c .bondWire 4 phys
      (group * 32 + wire)
    let mark : PumpRepair → PumpRepair := fun x =>
      if r.spareUsed.getLsbD group then { x with mapoutPending := true }
      else { x with bondPending := x.bondPending ||| (1#54 <<< group) }
    s1.onPolder c (polderOf p) fun q => { q with repair := upd q.repair k mark }

/-- Whether a correction repeats one on a bond wire of a pump: wires of its own bus in the same group and position (R248). The log
names no pump, so the wires of each are kept (log entry 33). -/
def State.bondRepeats (s : State) (c : Chan) (p : PumpIx) (sym : Nat) (e : BitVec 8) : Bool :=
  (s.pump c p).bondHits.contains (bondByte sym / 4 * 32 + 8 * (bondByte sym % 4) + lowBit e)

/-- Remembers the wire of a corrected bond read. -/
def State.bondHit (s : State) (c : Chan) (p : PumpIx) (sym : Nat) (e : BitVec 8) : State :=
  s.onPump c p fun q => { q with
    bondHits := insUniq q.bondHits (bondByte sym / 4 * 32 + 8 * (bondByte sym % 4) + lowBit e) }

/-- A granule is delivered over the bond port with an error pattern of the path: a corrected one is counted at its
source, an uncorrectable one is read again (R245, R249). -/
def execBondReadDelivery (c : Chan) (p : PumpIx) (gran : BitVec 19) (err : BitVec 288) (s : State) : Res :=
  let stored := (s.slice c p).upset.readD 0 gran.toNat
  if decide (gran.toNat < (s.chan c).pinned) then
    .next (match bscDecode (stored ^^^ err) with
      | .clean => s
      | .corrected i v =>
        if bscDecode stored = .clean then
          let t := (s.logCe c 2 (bondGroup i) gran.toNat i false).bondHit c p i v
          if s.bondRepeats c p i v then t.bondMark c p i v else t
        else (s.checked c (sliceKey p gran.toNat) ((s.slice c p).get gran.toNat) stored).1
      | .uncorrectable => s.onPump c p fun q => { q with reread := some ⟨gran.toNat, err⟩ })
  else .next s

/-- The second copy arrives with its own path error: used and counted under SOURCE 7, or handled by R250 or R251. Damage of the stored
word that it shows corrected is written back (R245). -/
def execUeReread (c : Chan) (p : PumpIx) (err : BitVec 288) (s : State) : Res :=
  match (s.pump c p).reread with
  | none => .next s
  | some r =>
    let s1 := s.onPump c p fun q => { q with reread := none }
    let stored := (s.slice c p).upset.readD 0 r.gran
    match bscDecode (stored ^^^ err) with
    | .uncorrectable =>
      -- wires in different bytes of one slot (R407)
      let bad := if bscDecode stored = .uncorrectable then []
        else (List.range 36).filter fun i => symbol err i != 0
      .next ((s1.each bad fun t i => t.bondMark c p i (symbol err i)).dataUe c 0 (sliceKey p r.gran))
    | .clean => .next (s1.logCe c 7 0 r.gran 0x3F false)
    | .corrected i _ =>
      let s2 := s1.logCe c 7 0 r.gran i false
      let stays := match bscDecode stored with | .corrected .. => true | _ => false
      .next (if stays then (s2.checked c (sliceKey p r.gran) ((s2.slice c p).get r.gran) stored).1 else s2)

end Sys2Proof.Machine
end

