-- ==== Sys2Proof/Machine/Engine.lean ====
section
/-!
DEFINITION. The thread engine's shared operations (Chapter 6): kernels and groups, registers of lanes, paths,
barriers, the layers of memory that a group sees. The instructions stand in Machine/ThreadEngine.lean.
-/

namespace Sys2Proof.Machine

/-! ### Kernel descriptors (Table 6.2) -/

/-- The DESCRIPTOR conditions of R140. -/
def kernelFieldsOk (d : BitVec 512) : Bool :=
  field d 13 3 == 0 && field d 28 4 == 0 && field d 47 17 == 0 && field d 96 32 == 0 && field d 32 15 % 64 == 0 &&
    !(d.getLsbD 26 && 15 < field d 16 10) &&
    (List.range 3).all fun i =>
      (kernelRange d i).len == 0 || ((kernelRange d i).space != 3 && field d (128 + 128 * i + 108) 20 == 0)

/-- The ACCESS conditions of R140. -/
def kernelAccessOk (d : BitVec 512) (pinned : Nat) (strict : Bool) : Bool :=
  (kernelRanges d).all fun r =>
    (r.space != 0 || decide (r.base.toNat + r.len ≤ 32 * pinned)) && !(r.space == 2 && strict)

/-- A group at launch: every thread at ENTRY, r48-r63 from the argument block (R142). -/
def Group.start (k : Kernel) (gid : Nat) : Group :=
  let args := (List.range 16).map fun i => (48 + i, k.args.extractLsb' (32 * i) 32)
  let regs : SMap (BitVec 32) := (List.range 32).flatMap fun l =>
    (args.filter fun a => a.2 != 0).map fun a => (64 * l + a.1, a.2)
  { gid := gid, paths := [⟨BitVec.allOnes 32, k.entry, .live, [], []⟩], exited := 0, regs := regs, rcache := [],
    bufLines := [], buf := [], awaiting := [], arrived := [], loads := [], tickets := 0 }

/-- Groups not yet started enter free slots, lowest first (R139). -/
def Te.fill (t : Te) (k : Kernel) : Te :=
  (List.finRange 16).foldl (fun u i =>
    if u.slots[i.val].isNone && decide (u.next < k.groups) then
      { u with slots := upd u.slots i (fun _ => some (Group.start k u.next)), next := u.next + 1 }
    else u) t

/-- Launches the kernel of a descriptor and its argument block. -/
def Te.launch (t : Te) (d args : BitVec 512) : Te :=
  let k : Kernel := { entry := field d 0 13, groups := field d 16 10 + 1, kbar := d.getLsbD 26,
                      combine := d.getLsbD 27, handle := d.extractLsb' 64 32, args := args,
                      ranges := kernelRanges d }
  Te.fill { t with kernel := some k, next := 0, slots := Vector.replicate 16 none, turn := 0, lines := [],
                   dirty := [], atoms := [], gatoms := [] } k

/-! ### Lanes and registers -/

/-- A register of a lane; r0 reads as zero. -/
def Group.get (g : Group) (lane : Nat) (r : Nat) : BitVec 32 := if r = 0 then 0 else g.regs.readD 0 (64 * lane + r)

/-- Writes a register of a lane; r0 discards the write. -/
def Group.set (g : Group) (lane : Nat) (r : Nat) (v : BitVec 32) : Group :=
  if r = 0 then g else { g with regs := g.regs.write 0 (64 * lane + r) v }

/-- A register pair as 64 bits: the low word in the lower register (log entry 145). -/
def Group.get64 (g : Group) (lane : Nat) (r : Nat) : BitVec 64 := g.get lane (r + 1) ++ g.get lane r

def Group.set64 (g : Group) (lane : Nat) (r : Nat) (v : BitVec 64) : Group :=
  (g.set lane r (v.setWidth 32)).set lane (r + 1) (v.extractLsb' 32 32)

/-- Whether a register of some lane of a mask awaits a result (R144). -/
def Group.awaits (g : Group) (m : BitVec 32) (rs : List TReg) : Bool :=
  g.awaiting.any fun e => rs.contains e.1 && m.getLsbD e.2.1.val

/-- Results that a later write of their registers overtakes are not delivered (R160). -/
def Group.cancel (g : Group) (m : BitVec 32) (rs : List TReg) : Group :=
  { g with awaiting := g.awaiting.filter fun e => !(rs.contains e.1 && m.getLsbD e.2.1.val) }

/-- Lanes of a mask, ascending. -/
def lanesOf (m : BitVec 32) : List (Fin 32) := (List.finRange 32).filter fun l => m.getLsbD l.val

/-- The register cache after an instruction's sources and result (R148). -/
def Group.cacheUse (g : Group) (rs : List TReg) : Group :=
  { g with rcache := (rs.foldl (fun l r => r :: l.erase r) g.rcache).take 8 }

/-! ### Paths (R150-R152) -/

/-- Lowest lane of a path. -/
def Path.low (x : Path) : Nat := (bitsOf x.mask).headD 32

/-- Puts the next live path after lane `from_` at the head, in ascending order of lowest lane, wrapping. -/
def pickPath (from_ : Nat) (ps : List Path) : List Path :=
  let live := ps.filter fun x => x.st == .live
  let up := live.filter fun x => from_ < x.low
  let pool := if up.isEmpty then live else up
  let low := (pool.map Path.low).foldl min 32
  match ps.find? fun x => x.st == .live && x.low == low with
  | some x => x :: ps.erase x
  | none => ps

/-- The current path gives way where it is no longer live (R151). -/
def Group.settlePaths (g : Group) (from_ : Nat) : Group :=
  match g.paths with
  | [] => g
  | x :: _ => if x.st = .live then g else { g with paths := pickPath from_ g.paths }

/-- Merges at a JOIN once every thread of a split has parked there or exited (R150). The merged path keeps the return addresses of the
first that parked (log entry 145). It parks at once where the split around it has the same join address. -/
def Group.merge (g : Group) (m : BitVec 32) (join : Nat) : Group :=
  let parked := g.paths.filter fun x => x.st == .parked join && x.splits.head? == some (m, join)
  let here := parked.foldl (fun (acc : BitVec 32) x => acc ||| x.mask) 0
  if here ≠ 0 ∧ here ||| (g.exited &&& m) = m then
    let outer := ((parked.head?.map (·.splits)).getD []).drop 1
    let again := (outer.head?.map (·.2)) == some join
    let one : Path := { mask := here, pc := if again then join else join + 1, st := if again then .parked join else .live,
                        calls := (parked.head?.map (·.calls)).getD [], splits := outer }
    { g with paths := (g.paths.filter fun x => !parked.contains x) ++ [one] }
  else g

/-- The splits that parked paths wait for. -/
def Group.waitSplits (g : Group) : List (BitVec 32 × Nat) :=
  (g.paths.filterMap fun x => match x.st with | .parked _ => x.splits.head? | _ => none).dedup

/-- Tries every merge, and those that the merged paths then wait for (at most `n` rounds). -/
def Group.mergeN (g : Group) : Nat → Group
  | 0 => g
  | n + 1 => ((g.waitSplits.foldl (fun u e => u.merge e.1 e.2) g)).mergeN n

/-- Tries every merge that parked paths wait for: each joins at least two paths, of which a group has at most 32. -/
def Group.mergeAll (g : Group) : Group := g.mergeN 32

/-- Releases a group barrier once every live thread has arrived (R153). The path of the lowest lane is then the current one (log
entry 145). -/
def Group.releaseBar (g : Group) : Group :=
  match g.paths with
  | [] => g
  | x :: _ =>
    match x.st with
    | .bar n =>
      if g.paths.all fun y => y.st == .bar n then
        { g with paths := pickPath 32 (g.paths.map fun y => { y with st := .live }) }
      else g
    | _ => g

/-- Releases the kernel barrier once every live thread of every group waits at it (R154). -/
def Te.releaseBarK (t : Te) : Te :=
  let gs := t.slots.toList.filterMap id
  let started := match t.kernel with | some k => decide (k.groups ≤ t.next) | none => false
  if started && !gs.isEmpty && gs.all fun g => g.paths.all fun y => y.st == .barK then
    { t with slots := t.slots.map fun o => o.map fun g =>
        { g with paths := pickPath 32 (g.paths.map fun y => { y with st := .live }) } }
  else t

/-- Instructions of the code store (R152). -/
def codeWords : Nat := 8192

/-- Whether a group issues in its turn (R144). A path that has run past the code store issues nothing (log entry 145). -/
def Group.issues (g : Group) : Bool :=
  match g.paths with
  | x :: _ => x.st == .live && decide (x.pc < codeWords)
  | [] => false

/-- Whether slot g is the next to issue: every occupied slot between the turn's place and it is passed over. -/
def Te.atTurn (t : Te) (g : GSlot) : Bool :=
  let able := (List.finRange 16).filter fun i => match t.slots[i.val] with | some x => x.issues | none => false
  let later := able.filter fun i => t.turn ≤ i.val
  (if later.isEmpty then able.head? else later.head?) == some g

/-- The turn moves past slot g; at the end of a turn waiting groups enter free slots (R139, R144). -/
def Te.turned (t : Te) (g : GSlot) : Te :=
  let more := (List.finRange 16).any fun i =>
    g.val < i.val && (match t.slots[i.val] with | some x => x.issues | none => false)
  if more then { t with turn := g.val + 1 }
  else
    match t.kernel with
    | some k => { Te.fill t k with turn := 0 }
    | none => { t with turn := 0 }

/-! ### Memory as a group sees it (R156-R162) -/

/-- First byte of a pump's slice as a local offset. -/
def sliceByte (p : PumpIx) : Nat := 2 ^ 48 + p.val * 2 ^ 24

/-- Cache key of a byte: its offset in the pump's own slice, in whichever space it is named (R160), else 2^64 + its place in the
fabric. -/
def State.teKey (s : State) (c : Chan) (p : PumpIx) (ch : ChanAddr) (off : Nat) : Nat :=
  if ch = s.addrOf c ∧ sliceByte p ≤ off ∧ off < sliceByte p + 2 ^ 24 then off - sliceByte p else 2 ^ 64 + fabByte ch off

/-- Where a device virtual address leads (R358, R359). -/
inductive DvaTo where
  | bad
  | host (hva : Nat) (write : Bool)
  | mem (ch : ChanAddr) (off : Nat) (shared : Bool)
deriving DecidableEq, Repr

/-- Translates an address for a user in virtual channel v of a context. -/
def State.dvaOf (s : State) (ctx v : Nat) (a : Nat) : DvaTo :=
  match s.mc.ctxs.look ctx with
  | none => .bad
  | some x =>
    match x.allocs.find? fun e => e.2.dva ≤ a && a < e.2.dva + TDesc.allocBytes e.2 with
    | some (_, al) =>
      match al.place v (a - al.dva) with
      | some (ch, off) => .mem ch off (al.kind != .pinned || al.exported)
      | none => .bad
    | none =>
      match x.maps.find? fun e => e.2.dva ≤ a && a < e.2.dva + e.2.size with
      | some (_, m) => .host (m.hva + (a - m.dva)) (m.rights.getLsbD 1)
      | none => .bad

/-- A pump's translation of a device virtual address. -/
def State.dva (s : State) (c : Chan) (p : PumpIx) (a : BitVec 64) : DvaTo :=
  match (s.chan c).slotOf p with
  | some j => if 2 ^ 48 ≤ a.toNat then .bad else s.dvaOf (s.slot c j).job.ctx (s.pump c p).vch a.toNat
  | none => .bad

/-- Rights of an access: read, write, or atomic (Table 6.2 ACC). -/
inductive Right where
  | read | write | atomic
deriving DecidableEq, Repr

def accGives (acc : BitVec 2) (r : Right) : Bool :=
  match r with
  | .read => acc != 1
  | .write => acc != 0
  | .atomic => acc == 3

/-- Whether an access lies within a declared range that gives the right. -/
def Kernel.allows (k : Kernel) (space : BitVec 2) (a n : Nat) (r : Right) : Bool :=
  k.ranges.any fun x =>
    x.space == space && decide (x.base.toNat ≤ a) && decide (a + n ≤ x.base.toNat + x.len) && accGives x.acc r

/-- What one lane's access meets: a fault, a byte of memory by its cache key and place, or one of the host's. -/
inductive LaneAt where
  | fault (e : Cause)
  | mem (key : Nat) (ch : ChanAddr) (off : Nat)
  | host (hva : Nat)
deriving DecidableEq, Repr

/-- Whether the job that holds a pump is Strict. -/
def State.strictAt (s : State) (c : Chan) (p : PumpIx) : Bool :=
  match (s.chan c).slotOf p with
  | some j => (s.slot c j).job.strict
  | none => false

/-- Checks one lane's access: alignment, range and rights, translation, the pinned size (R69, R156, R157, R206, R219). -/
def State.laneAt (s : State) (c : Chan) (p : PumpIx) (k : Kernel) (sp : Space) (a : BitVec 64) (n align : Nat)
    (r : Right) : LaneAt :=
  let x := a.toNat
  if x % align ≠ 0 then .fault .descriptor
  else
    match sp with
    | .slice => if k.allows 0 x n r then .mem x (s.addrOf c) (sliceByte p + x) else .fault .access
    | .global =>
      match s.dva c p a with
      | .bad => .fault .access
      | .host hva wr =>
        if s.strictAt c p || !k.allows 2 x n r || (r != .read && !wr) then .fault .access else .host hva
      | .mem ch off shared =>
        let mine := match keySlice (off / 32) with
          | some (q, _) => ch == s.addrOf c && q == p
          | none => true
        if !k.allows 1 x n r || (!shared && !mine) || s.unpinned ch (off / 32) then .fault .access
        else .mem (s.teKey c p ch off) ch off

/-- Whether a lane needs the host while it cannot be reached: the access waits (R26; log entry 146). -/
def State.hostWaits (s : State) (ls : List (Fin 32 × LaneAt)) : Bool :=
  !s.hostUp && ls.any fun e => match e.2 with | .host _ => true | _ => false

/-- The first fault of an instruction's lanes: DESCRIPTOR before ACCESS (R69). -/
def firstFault (l : List LaneAt) : Option Cause :=
  if l.any (· == .fault .descriptor) then some .descriptor
  else if l.any (· == .fault .access) then some .access
  else none

/-- Byte of its own stores that a group sees at a key: its store buffer, then the pump cache (R158, R161). -/
def storedByte (g : Group) (t : Te) (key : Nat) : Option (BitVec 8) :=
  match g.buf.look key with
  | some b => some b.1
  | none => (t.dirty.look key).map (·.1)

/-- Bytes over a base. -/
def bytesOver (own : List (Option (BitVec 8))) (base : Nat) : Nat :=
  leNat (own.zipIdx.map fun e => e.1.getD (BitVec.ofNat 8 (base / 2 ^ (8 * e.2))))

/-- The pump's own bytes at a place: what the group sees of its stores, else its echoes of this frame (R160, R215). -/
def State.ownBytes (s : State) (c : Chan) (p : PumpIx) (g : Group) (key : Nat) (ch : ChanAddr) (off n : Nat) :
    List (Option (BitVec 8)) :=
  let es := (s.slice c p).echoes.filter (·.on ⟨ch, BitVec.ofNat 49 off⟩)
  (List.range n).map fun i =>
    match storedByte g (s.pump c p).te (key + i) with
    | some b => some b
    | none => (es.reverse.find? fun e => e.mask.getLsbD ((off + i) % 32)).map fun e => gByte e.data ((off + i) % 32)

/-- n bytes (within one granule) of the base that a pump reads. -/
def State.memBits (s : State) (c : Chan) (p : PumpIx) (ch : ChanAddr) (off n : Nat) : State × Nat :=
  let (s1, g) := s.pumpBase c p true s ch (off / 32)
  (s1, g.toNat / 2 ^ (8 * (off % 32)) % 2 ^ (8 * n))

/-- What a lane loads: a value, or its own bytes where the line is not at hand. Host memory answers free bytes (log entry 14). -/
def State.laneLoad (s : State) (c : Chan) (p : PumpIx) (g : Group) (l : LaneAt) (n : Nat) :
    State × (Nat ⊕ List (Option (BitVec 8))) :=
  match l with
  | .mem key ch off =>
    let own := s.ownBytes c p g key ch off n
    if s.readable c p true ch (off / 32) then
      let (s1, v) := s.memBits c p ch off n
      (s1, .inl (bytesOver own v))
    else (s, .inr own)
  | .host _ =>
    ({ s with freeCtr := s.freeCtr + n }, .inl (leNat ((List.range n).map fun i => Config.hostByte (s.freeCtr + i))))
  | .fault _ => (s, .inl 0)

/-- The cache key of an access that is no host access. -/
def LaneAt.key : LaneAt → Option Nat
  | .mem key _ _ => some key
  | _ => none

/-- The cache lines of an access. -/
def keyLines (ls : List (Fin 32 × LaneAt)) : List Nat := (ls.filterMap fun e => e.2.key.map (· / 128)).dedup

def State.onTe (s : State) (c : Chan) (p : PumpIx) (f : Te → Te) : State := s.onPump c p fun q => { q with te := f q.te }

/-- Dirty bytes of the cache by where they lie: private bytes of the own slice, by granule, and bytes to be held at their homes:
those elsewhere, and those of the own slice that a global store wrote (R220). -/
def State.dirtyWrites (s : State) (c : Chan) (p : PumpIx) (d : SMap (BitVec 8 × Bool)) : Bytes × Bytes :=
  (d.foldl (fun m e => if e.1 < 2 ^ 64 ∧ !e.2.2 then m.put e.1 e.2.1 else m) [],
   d.foldl (fun m e =>
     if e.1 < 2 ^ 64 then (if e.2.2 then m.put (fabByte (s.addrOf c) (sliceByte p + e.1)) e.2.1 else m)
     else m.put (e.1 - 2 ^ 64) e.2.1) [])

/-- Writes dirty bytes to the slice and, as held writes, to their homes; `out` says which leave the cache. -/
def State.writeBack (s : State) (c : Chan) (p : PumpIx) (out : Nat → Bool) : State :=
  match (s.chan c).slotOf p with
  | none => s
  | some j =>
    let d := (s.pump c p).te.dirty
    let go := d.filter fun e => out e.1
    if go.isEmpty then s
    else
      let (mine, away) := s.dirtyWrites c p go
      let s1 := (s.onTe c p fun t => { t with dirty := d.filter fun e => !out e.1 }).writeOwnBytes c p mine
      let (s2, n) := s1.pumpWrite c .thread p j away false false
      if n = 0 then s2 else s2.expect c p 15 n none []

/-- Lines of the pump cache (Table 6.1). -/
def teLines : Nat := 2048

/-- Lines enter the pump cache; past its size the oldest are written back and leave (log entry 147). -/
def State.allocLines (s : State) (c : Chan) (p : PumpIx) (ls : List Nat) : State :=
  let all := (s.pump c p).te.lines.filter (fun l => !ls.contains l) ++ ls
  let gone := all.take (all.length - teLines)
  (if gone.isEmpty then s else s.writeBack c p fun k => gone.contains (k / 128)).onTe c p fun t =>
    { t with lines := all.drop (all.length - teLines) }

/-- Makes a slot's stores visible to the kernel: its lines are allocated (R158, R161). -/
def State.publish (s : State) (c : Chan) (p : PumpIx) (i : GSlot) : State :=
  match (s.pump c p).te.slots[i.val] with
  | some g =>
    (s.allocLines c p g.bufLines).onTe c p fun t => { t with
      dirty := g.buf.foldl (fun d e => d.set1 e.1 e.2) t.dirty,
      slots := upd t.slots i (·.map fun u => { u with buf := [], bufLines := [] }) }
  | none => s

/-- Whether a slot's store buffer of 32 lines has room for some lines (R161). -/
def Group.fits (g : Group) (lines : List Nat) : Bool := decide ((g.bufLines ++ lines).dedup.length ≤ 32)

/-- Puts bytes into a slot's store buffer, publishing first where its 32 lines do not suffice (R161). -/
def State.store (s : State) (c : Chan) (p : PumpIx) (i : GSlot) (ws : List (Nat × BitVec 8 × Bool)) : State :=
  let lines := (ws.map fun e => e.1 / 128).dedup
  let s1 := match (s.pump c p).te.slots[i.val] with
    | some g => if g.fits lines then s else s.publish c p i
    | none => s
  let put := fun (g : Group) => { g with
    bufLines := (g.bufLines ++ lines).dedup, buf := ws.foldl (fun (b : SMap (BitVec 8 × Bool)) e => b.set1 e.1 e.2) g.buf }
  s1.onTe c p fun t => { t with slots := upd t.slots i (·.map put) }

/-! ### Issue -/

/-- The group in a slot. -/
def State.group (s : State) (c : Chan) (p : PumpIx) (g : GSlot) : Option Group := (s.pump c p).te.slots[g.val]

def State.onGroup (s : State) (c : Chan) (p : PumpIx) (g : GSlot) (f : Group → Group) : State :=
  s.onTe c p fun t => { t with slots := upd t.slots g (·.map f) }

/-- The current path moves to the next instruction. -/
def Group.step (g : Group) : Group :=
  match g.paths with
  | x :: rest => { g with paths := { x with pc := x.pc + 1 } :: rest }
  | [] => g

/-- Whether a thread-engine instruction of a slot can issue: the kernel runs, it is the slot's turn, and its current
path is live, within the code store. -/
def State.teReady (s : State) (c : Chan) (p : PumpIx) (g : GSlot) : Option (Kernel × Group × Path) :=
  let q := s.pump c p
  match q.te.kernel, q.te.slots[g.val] with
  | some k, some x =>
    match x.paths with
    | y :: _ => if y.st = .live ∧ y.pc < codeWords ∧ q.te.atTurn g ∧ q.run ≠ .stopped then some (k, x, y) else none
    | [] => none
  | _, _ => none

/-- An instruction with its sources and results: where it cannot issue, nothing happens; its code row is checked (R66, R138); where a
source awaits a result, or it must wait itself, the engine stalls (R144); otherwise it acts and the turn moves on. -/
def State.teIssueIf (s : State) (c : Chan) (p : PumpIx) (g : GSlot) (srcs dsts : List TReg)
    (waits : State → Kernel → Group → Path → Bool) (act : State → Kernel → Group → Path → State) : State :=
  match s.teReady c p g with
  | none => s
  | some (k, x, y) =>
    (s.checkRow c p .code (y.pc / 4)).unlessStopped c p fun t =>
      if x.awaits y.mask srcs || waits t k x y then t.onTe c p fun z => { z with stall := z.stall + 1 }
      else
        ((act (t.onGroup c p g fun u => u.cancel y.mask dsts) k x y).onGroup c p g fun u => u.cacheUse (srcs ++ dsts)).onTe c p
          fun z => z.turned g

/-- An instruction that waits for its registers only. -/
def State.teIssue (s : State) (c : Chan) (p : PumpIx) (g : GSlot) (srcs dsts : List TReg)
    (act : State → Kernel → Group → Path → State) : State :=
  s.teIssueIf c p g srcs dsts (fun _ _ _ _ => false) act

/-- An instruction that computes each active lane's result from the lane's registers. -/
def teLane (c : Chan) (p : PumpIx) (g : GSlot) (rd : TReg) (srcs : List TReg) (s : State)
    (f : Kernel → Group → Nat → BitVec 32) : Res :=
  .next (s.teIssue c p g srcs [rd] fun t k x y =>
    t.onGroup c p g fun u =>
      ((lanesOf y.mask).foldl (fun v l => v.set l.val rd.toNat (f k x l.val)) u).step)

/-- The registers of an operand of n 32-bit words. -/
def regsFrom (r : TReg) (n : Nat) : List TReg := (List.range n).map fun i => r + BitVec.ofNat 6 i

/-- Registers of an address: one for the slice, a pair for a device virtual address. -/
def addrRegs (sp : Space) (r : TReg) : List TReg := regsFrom r (if sp = .global then 2 else 1)

/-- A lane's address. -/
def Group.addr (x : Group) (sp : Space) (lane : Nat) (r : TReg) : BitVec 64 :=
  if sp = .global then x.get64 lane r.toNat else (x.get lane r.toNat).setWidth 64

end Sys2Proof.Machine
end

