-- ==== Sys2Proof/Machine/ThreadEngine.lean ====
section
/-!
DEFINITION. Thread-engine instructions (Table 6.3), kernel launch and completion, and the commands of its results.
-/

namespace Sys2Proof.Machine

/-! ### Arithmetic (R145, R146) -/

/-- rd = f ra rb in every active lane. -/
def teAlu (c : Chan) (p : PumpIx) (g : GSlot) (rd ra rb : TReg) (s : State)
    (f : BitVec 32 → BitVec 32 → BitVec 32) : Res :=
  teLane c p g rd [ra, rb] s fun _ x l => f (x.get l ra.toNat) (x.get l rb.toNat)

/-- rd = f ra in every active lane. -/
def teUn (c : Chan) (p : PumpIx) (g : GSlot) (rd ra : TReg) (s : State) (f : BitVec 32 → BitVec 32) : Res :=
  teLane c p g rd [ra] s fun _ x l => f (x.get l ra.toNat)

/-- A shift: by 32 or more its result is a free value (log entry 12). -/
def teShift (op : Nat) (f : BitVec 32 → Nat → BitVec 32) (a b : BitVec 32) : BitVec 32 :=
  if b.toNat < 32 then f a b.toNat else Config.shiftBeyond op a b

/-- The 1 or 0 that a compare writes (log entry 6). -/
def flag32 (b : Bool) : BitVec 32 := if b then 1 else 0

/-- Integer compare, signed: the spec names no conditions (log entry 6). -/
def Cmp.ints (k : Cmp) (a b : BitVec 32) : Bool :=
  match k with
  | .eq => a == b
  | .ne => a != b
  | .lt => a.slt b
  | .le => a.sle b
  | .gt => b.slt a
  | .ge => b.sle a

/-- FP32 compare: with a NaN only `ne` holds; −0 equals +0. -/
def Cmp.floats (k : Cmp) (a b : BitVec 32) : Bool :=
  let x := fp32 a
  let y := fp32 b
  match k with
  | .eq => x.eq y
  | .ne => !x.eq y
  | .lt => x.lt y
  | .le => x.lt y || x.eq y
  | .gt => y.lt x
  | .ge => y.lt x || x.eq y

/-- TE ADD wraps. -/
def execTeAdd (c : Chan) (p : PumpIx) (g : GSlot) (rd ra rb : TReg) (s : State) : Res :=
  teAlu c p g rd ra rb s (· + ·)

/-- TE SUB wraps. -/
def execTeSub (c : Chan) (p : PumpIx) (g : GSlot) (rd ra rb : TReg) (s : State) : Res :=
  teAlu c p g rd ra rb s (· - ·)

/-- TE MUL: low 32 bits. -/
def execTeMul (c : Chan) (p : PumpIx) (g : GSlot) (rd ra rb : TReg) (s : State) : Res :=
  teAlu c p g rd ra rb s (· * ·)

/-- TE AND. -/
def execTeAnd (c : Chan) (p : PumpIx) (g : GSlot) (rd ra rb : TReg) (s : State) : Res :=
  teAlu c p g rd ra rb s (· &&& ·)

/-- TE OR. -/
def execTeOr (c : Chan) (p : PumpIx) (g : GSlot) (rd ra rb : TReg) (s : State) : Res :=
  teAlu c p g rd ra rb s (· ||| ·)

/-- TE XOR. -/
def execTeXor (c : Chan) (p : PumpIx) (g : GSlot) (rd ra rb : TReg) (s : State) : Res :=
  teAlu c p g rd ra rb s (· ^^^ ·)

/-- TE SHL. -/
def execTeShl (c : Chan) (p : PumpIx) (g : GSlot) (rd ra rb : TReg) (s : State) : Res :=
  teAlu c p g rd ra rb s (teShift 0 fun a n => a <<< n)

/-- TE SHR. -/
def execTeShr (c : Chan) (p : PumpIx) (g : GSlot) (rd ra rb : TReg) (s : State) : Res :=
  teAlu c p g rd ra rb s (teShift 1 fun a n => a >>> n)

/-- TE SAR. -/
def execTeSar (c : Chan) (p : PumpIx) (g : GSlot) (rd ra rb : TReg) (s : State) : Res :=
  teAlu c p g rd ra rb s (teShift 2 fun a n => a.sshiftRight n)

/-- TE MIN, signed. -/
def execTeMin (c : Chan) (p : PumpIx) (g : GSlot) (rd ra rb : TReg) (s : State) : Res :=
  teAlu c p g rd ra rb s imin

/-- TE MAX, signed. -/
def execTeMax (c : Chan) (p : PumpIx) (g : GSlot) (rd ra rb : TReg) (s : State) : Res :=
  teAlu c p g rd ra rb s imax

/-- TE FADD (R146). -/
def execTeFadd (c : Chan) (p : PumpIx) (g : GSlot) (rd ra rb : TReg) (s : State) : Res :=
  teAlu c p g rd ra rb s fadd

/-- TE FMUL (R146). -/
def execTeFmul (c : Chan) (p : PumpIx) (g : GSlot) (rd ra rb : TReg) (s : State) : Res :=
  teAlu c p g rd ra rb s fmul

/-- TE FMIN (R494). -/
def execTeFmin (c : Chan) (p : PumpIx) (g : GSlot) (rd ra rb : TReg) (s : State) : Res :=
  teAlu c p g rd ra rb s fmin

/-- TE FMAX (R494). -/
def execTeFmax (c : Chan) (p : PumpIx) (g : GSlot) (rd ra rb : TReg) (s : State) : Res :=
  teAlu c p g rd ra rb s fmax

/-- TE SEL: ra where rp is not zero, else rb. -/
def execTeSel (c : Chan) (p : PumpIx) (g : GSlot) (rd rp ra rb : TReg) (s : State) : Res :=
  teLane c p g rd [rp, ra, rb] s fun _ x l =>
    if x.get l rp.toNat ≠ 0 then x.get l ra.toNat else x.get l rb.toNat

/-- TE integer compare. -/
def execTeCompare (c : Chan) (p : PumpIx) (g : GSlot) (cmp : Cmp) (rd ra rb : TReg) (s : State) : Res :=
  teAlu c p g rd ra rb s fun a b => flag32 (Cmp.ints cmp a b)

/-- TE FP32 compare. -/
def execTeFcompare (c : Chan) (p : PumpIx) (g : GSlot) (cmp : Cmp) (rd ra rb : TReg) (s : State) : Res :=
  teAlu c p g rd ra rb s fun a b => flag32 (Cmp.floats cmp a b)

/-- TE FFMA: rc + ra × rb with one rounding (R146). -/
def execTeFfma (c : Chan) (p : PumpIx) (g : GSlot) (rd ra rb rc : TReg) (s : State) : Res :=
  teLane c p g rd [ra, rb, rc] s fun _ x l => ffma (x.get l rc.toNat) (x.get l ra.toNat) (x.get l rb.toNat)

/-- TE EXP2 (R146). -/
def execTeExp2 (c : Chan) (p : PumpIx) (g : GSlot) (rd ra : TReg) (s : State) : Res := teUn c p g rd ra s exp2

/-- TE LOG2 (R146). -/
def execTeLog2 (c : Chan) (p : PumpIx) (g : GSlot) (rd ra : TReg) (s : State) : Res := teUn c p g rd ra s log2

/-- TE RCP (R146). -/
def execTeRcp (c : Chan) (p : PumpIx) (g : GSlot) (rd ra : TReg) (s : State) : Res := teUn c p g rd ra s rcp

/-- TE RSQRT (R146). -/
def execTeRsqrt (c : Chan) (p : PumpIx) (g : GSlot) (rd ra : TReg) (s : State) : Res := teUn c p g rd ra s rsqrt

/-- TE TANH (R146). -/
def execTeTanh (c : Chan) (p : PumpIx) (g : GSlot) (rd ra : TReg) (s : State) : Res := teUn c p g rd ra s tanh

/-- TE CVT by R109 and R110; with SR by R112 under HANDLE, the frame number and the index pair ri. -/
def execTeCvt (c : Chan) (p : PumpIx) (g : GSlot) (src dst : Fmt) (sr : Bool) (rd ra ri : TReg) (s : State) : Res :=
  if sr ∧ !teRegs ri 8 then .fault .registerPastEnd
  else
    teLane c p g rd (ra :: (if sr then regsFrom ri 2 else [])) s fun k x l =>
      let v := (x.get l ra.toNat).toNat % 2 ^ (8 * fmtBytes src)
      let z := if sr then
          some (srBits k.handle (BitVec.ofNat 64 (s.frameOf c p)) (x.get64 l ri.toNat))
        else none
      BitVec.ofNat 32 (fmtConvert dst (fmtValue src v) z)

/-! ### Identity and time -/

/-- TE TID: 0 to 31. -/
def execTeTid (c : Chan) (p : PumpIx) (g : GSlot) (rd : TReg) (s : State) : Res :=
  teLane c p g rd [] s fun _ _ l => BitVec.ofNat 32 l
/-- TE GID. -/
def execTeGid (c : Chan) (p : PumpIx) (g : GSlot) (rd : TReg) (s : State) : Res :=
  teLane c p g rd [] s fun _ x _ => BitVec.ofNat 32 x.gid
/-- TE NGRP: the number of groups, one more than the descriptor's field (log entry 145). -/
def execTeNgrp (c : Chan) (p : PumpIx) (g : GSlot) (rd : TReg) (s : State) : Res :=
  teLane c p g rd [] s fun k _ _ => BitVec.ofNat 32 k.groups
/-- TE PID, as R73. -/
def execTePid (c : Chan) (p : PumpIx) (g : GSlot) (rd : TReg) (s : State) : Res :=
  teLane c p g rd [] s fun _ _ _ => BitVec.ofNat 32 (s.pump c p).ident
/-- TE FRN: the low 32 bits of the frame number (log entry 15). -/
def execTeFrn (c : Chan) (p : PumpIx) (g : GSlot) (rd : TReg) (s : State) : Res :=
  teLane c p g rd [] s fun _ _ _ => BitVec.ofNat 32 (s.frameOf c p)

/-- TE TIME: nanoseconds since the job's latest tick, in a register pair; relaxed (R168, R169). -/
def execTeTime (c : Chan) (p : PumpIx) (g : GSlot) (rd : TReg) (s : State) : Res :=
  if !teRegs rd 8 then .fault .registerPastEnd
  else if s.strictAt c p then .next s
  else
    let t0 := match (s.chan c).slotOf p with | some j => (s.slot c j).fr.tickNs | none => 0
    .next (s.teIssue c p g [] (regsFrom rd 2) fun s _ _ y =>
      s.onGroup c p g fun u =>
        ((lanesOf y.mask).foldl (fun v l => v.set64 l.val rd.toNat (BitVec.ofNat 64 (s.timeNs - t0))) u).step)

/-! ### Loads and stores (R156-R161) -/

/-- What every active lane of an access meets. -/
def State.lanesAt (s : State) (c : Chan) (p : PumpIx) (k : Kernel) (x : Group) (y : Path) (sp : Space) (n align : Nat)
    (addr : TReg) (r : Right) : List (Fin 32 × LaneAt) :=
  (lanesOf y.mask).map fun l => (l, s.laneAt c p k sp (x.addr sp l.val addr) n align r)

/-- What an instruction does with the places its lanes meet, or its fault (R69). -/
def State.withLanes (s : State) (c : Chan) (p : PumpIx) (ls : List (Fin 32 × LaneAt)) (act : State → State) : State :=
  match firstFault (ls.map (·.2)) with
  | some e => s.pumpFault c p e 0
  | none => act s

/-- The result words of an instruction for a lane. -/
def resultWords (rd : TReg) (lane : Fin 32) (words : Nat) (v ticket : Nat) : List (TReg × Fin 32 × BitVec 32 × Nat) :=
  (List.range words).map fun i => (rd + BitVec.ofNat 6 i, lane, BitVec.ofNat 32 (v / 2 ^ (32 * i)), ticket)

/-- Registers of a path's lanes that await the instruction's results: none of r0. -/
def Group.awaitFor (u : Group) (m : BitVec 32) (rs : List TReg) : Group :=
  { u with
    awaiting := u.awaiting ++ ((rs.filter (· != 0)).flatMap fun r => (lanesOf m).map fun l => (r, l, u.tickets)),
    tickets := u.tickets + 1 }

/-! ### Slice atomics as the slice performs them (R163, R166) -/

/-- One queued slice atomic or ledger addend; the flag says that an addend has faulted, after which none is added. -/
def State.doSliceAtom (s : State) (c : Chan) (p : PumpIx) (a : SliceAtom) : State × Bool :=
  match a.op with
  | none => s.addLedger c p (a.addr / 32) (fp32 (a.val.setWidth 32)) a.cmp.toInt
  | some op =>
    let g := a.addr / 32
    let (s1, old) := s.readOwn c p g
    let (new, prev) := atomGran old (a.addr % 32) a.w64 op a.val a.cmp
    let s2 := s1.writePrivate c p g (byteMask (a.addr % 32) (if a.w64 then 8 else 4)) new
    (match a.ret with
      | some rd => s2.onGroup c p a.g fun u => { u with
          arrived := u.arrived ++ resultWords rd a.lane (if a.w64 then 2 else 1) prev.toNat a.ticket }
      | none => s2, false)

/-- The slice performs the queued atomics in lane and turn order (R163). -/
def State.performAtoms (s : State) (c : Chan) (p : PumpIx) : State :=
  let q := (s.pump c p).te.atoms
  (q.foldl (fun (r : State × Bool) a => if r.2 then r else r.1.doSliceAtom c p a)
    (s.onTe c p fun t => { t with atoms := [] }, false)).1

/-- An access to lines on which atomics are queued comes after them. -/
def State.settleAtoms (s : State) (c : Chan) (p : PumpIx) (lines : List Nat) : State :=
  if (s.pump c p).te.atoms.any fun a => lines.contains (a.addr / 128) then s.performAtoms c p else s

/-- Before an atomic: any copy of the line in a store buffer or the cache is written back, after the atomics queued on it before
(R163). -/
def State.flushLine (s : State) (c : Chan) (p : PumpIx) (line : Nat) : State :=
  let inLine := fun (k : Nat) => k / 128 == line
  let t := (s.pump c p).te
  let held := t.dirty.any (fun e => inLine e.1) || t.slots.toList.any fun o => match o with | some g => g.bufLines.contains line | none => false
  if !held then s.onTe c p fun z => { z with lines := z.lines.filter (· != line) }
  else
    let take := fun (t : Te) => (List.finRange 16).foldl (fun (u : Te) i =>
      match u.slots[i.val] with
      | some g =>
        { u with dirty := (g.buf.filter fun e => inLine e.1).foldl (fun d e => d.set1 e.1 e.2) u.dirty,
                 slots := upd u.slots i fun _ => some { g with
                   buf := g.buf.filter fun e => !inLine e.1, bufLines := g.bufLines.filter (· != line) } }
      | none => u) t
    (((s.settleAtoms c p [line]).onTe c p take).writeBack c p inLine).onTe c p fun z => { z with lines := z.lines.filter (· != line) }

/-- TE LD of 1, 2, 4, 8 or 16 bytes: the values are taken at issue where the lines are at hand, and the registers await LOAD_RESULT
(R144, R147). -/
def execTeLd (c : Chan) (p : PumpIx) (g : GSlot) (sp : Space) (size : Nat) (rd addr : TReg) (s : State) : Res :=
  if !(teRegs rd size && teRegs addr (if sp = .global then 8 else 4)) then .fault .registerPastEnd
  else
    let words := (size + 3) / 4
    .next (s.teIssueIf c p g (addrRegs sp addr) (regsFrom rd words)
      (fun t k x y => t.hostWaits (t.lanesAt c p k x y sp size size addr .read))
      fun t k x y =>
        let ls := t.lanesAt c p k x y sp size size addr .read
        t.withLanes c p ls fun t0 =>
          let (s1, vs) := readEach (fun u e =>
            let (u1, v) := u.laneLoad c p x e.2 size
            (u1, (e, v))) (t0.settleAtoms c p (keyLines ls)) ls
          let got := fun (n : Nat) => vs.flatMap fun e => match e.2 with
            | .inl v => resultWords rd e.1.1 words v n
            | .inr _ => []
          let later := fun (n : Nat) => vs.filterMap fun e => match e.1.2, e.2 with
            | .mem _ ch off, .inr own => some (⟨n, rd, e.1.1, words, size, ch, off, own⟩ : TeLoad)
            | _, _ => none
          (s1.allocLines c p (keyLines ls)).onGroup c p g fun u => { (u.step.awaitFor y.mask (regsFrom rd words)) with
            arrived := u.arrived ++ got u.tickets, loads := u.loads ++ later u.tickets })

/-- The bytes that a lane stores from its registers. -/
def storeBytes (x : Group) (lane : Nat) (rs : TReg) (size : Nat) : List (BitVec 8) :=
  leBytes size (((List.range ((size + 3) / 4)).map fun i => (x.get lane (rs.toNat + i)).toNat * 2 ^ (32 * i)).sum)

/-- The function whose host memory a job's kernels reach. -/
def State.jobFn (s : State) (c : Chan) (p : PumpIx) : Nat :=
  match (s.chan c).slotOf p with
  | some j => (match s.mc.ctxs.look (s.slot c j).job.ctx with | some z => z.fn | none => 0)
  | none => 0

/-- What reaches the host from a kernel: nothing of an urgent item, whose outputs are allocations (R47). -/
def State.toHost (s : State) (c : Chan) (p : PumpIx) (o : Output) : State :=
  match (s.chan c).slotOf p with
  | some j => if (s.slot c j).urgent.isSome then s.bar c j else s.emit o
  | none => s

/-- Whether a group's atomics are outstanding: queued in the slice, without their result, or not yet accepted by their home. -/
def Pump.atomsOut (q : Pump) (g : GSlot) : Bool :=
  q.te.atoms.any (·.g == g) || q.te.gatoms.any (·.g == g) || q.xfers.any fun x => x.opc == 15 && x.grp == some g && x.acks != 0

/-- TE ST: into the slot's store buffer, lane by lane so that the highest lane wins a byte (R160, R161); to host
memory at once (R157). A full buffer is a FENCE first, which waits for the group's atomics. -/
def execTeSt (c : Chan) (p : PumpIx) (g : GSlot) (sp : Space) (size : Nat) (addr rs : TReg) (s : State) : Res :=
  if !(teRegs rs size && teRegs addr (if sp = .global then 8 else 4)) then .fault .registerPastEnd
  else
    let words := (size + 3) / 4
    .next (s.teIssueIf c p g (addrRegs sp addr ++ regsFrom rs words) []
      (fun t k x y =>
        let ls := t.lanesAt c p k x y sp size size addr .write
        t.hostWaits ls || (!x.fits (keyLines ls) && (t.pump c p).atomsOut g))
      fun t k x y =>
        let ls := t.lanesAt c p k x y sp size size addr .write
        t.withLanes c p ls fun t0 =>
          let ws := ls.flatMap fun e =>
            match e.2.key with
            | some a => (storeBytes x e.1.val rs size).zipIdx.map fun b => (a + b.2, b.1, sp == .global)
            | none => []
          let s1 := t0.each ls fun u e =>
            match e.2 with
            | .host hva => u.toHost c p (.hostWrite (u.jobFn c p) hva (storeBytes x e.1.val rs size))
            | _ => u
          (s1.store c p g ws).onGroup c p g Group.step)

/-- TE PF: lines into the pump cache; no value changes (R147). -/
def execTePf (c : Chan) (p : PumpIx) (g : GSlot) (sp : Space) (addr : TReg) (s : State) : Res :=
  if !teRegs addr (if sp = .global then 8 else 4) then .fault .registerPastEnd
  else
    .next (s.teIssue c p g (addrRegs sp addr) [] fun t k x y =>
      let ls := t.lanesAt c p k x y sp 1 1 addr .read
      t.withLanes c p ls fun t0 => (t0.allocLines c p (keyLines ls)).onGroup c p g Group.step)

/-! ### Slice atomics (R163, R164, R167) -/

/-- Slice operations that each lane on these word addresses adds: one for the distinct words of a granule, and one more
for each further lane on a word, unless combined (R164, R167). -/
def laneOps (combine : Bool) (addrs : List Nat) : List Nat :=
  (List.range addrs.length).map fun i =>
    let before := addrs.take i
    let a := addrs.getD i 0
    if !(before.any fun b => b / 32 == a / 32) then 1 else bit (before.contains a && !combine)

/-- Slice operations outstanding (R164). -/
def Te.opsOut (t : Te) : Nat := (t.atoms.map (·.ops)).sum

/-- Word or ledger addresses in the slice that lanes meet. -/
def keysOf (ls : List (Fin 32 × LaneAt)) : List Nat := ls.filterMap fun e => e.2.key

/-- Queues slice operations after cached copies of their lines have been written back. -/
def State.queueAtoms (s : State) (c : Chan) (p : PumpIx) (atoms : List SliceAtom) : State :=
  (s.each (atoms.map fun a => a.addr / 128).dedup fun t l => t.flushLine c p l).onTe c p fun t =>
    { t with atoms := t.atoms ++ atoms, ops := t.ops + (atoms.map (·.ops)).sum }

/-- ATOM.S: cached copies are written back, and the slice's operations are queued in lane order (R163). At most 64
may be outstanding; COMBINE acts on no FATOM (R167). -/
def teAtomS (op : AtomOp) (c : Chan) (p : PumpIx) (g : GSlot) (w64 ret : Bool) (rd addr rs : TReg) (rt : Option TReg)
    (s : State) : Res :=
  let n := if w64 then 8 else 4
  if !(atomRegs w64 rs && (!ret || atomRegs w64 rd) && (match rt with | some r => atomRegs w64 r | none => true)) then
    .fault .registerPastEnd
  else
    let w := if w64 then 2 else 1
    let dsts := if ret then regsFrom rd w else []
    let srcs := addr :: regsFrom rs w ++ (match rt with | some r => regsFrom r w | none => [])
    let val := fun (x : Group) (l : Nat) (r : TReg) => if w64 then x.get64 l r.toNat else (x.get l r.toNat).setWidth 64
    let ops := fun (k : Kernel) (ls : List (Fin 32 × LaneAt)) => laneOps (k.combine && op != .fadd) (keysOf ls)
    .next (s.teIssueIf c p g srcs dsts
      (fun t k x y => decide (64 < (t.pump c p).te.opsOut + (ops k (t.lanesAt c p k x y .slice n n addr .atomic)).sum))
      fun t k x y =>
        let ls := t.lanesAt c p k x y .slice n n addr .atomic
        t.withLanes c p ls fun t0 =>
          -- CAS: rs is compared, rt is written (R163)
          let atoms := ((ls.filterMap fun e => e.2.key.map fun o => (e.1, o)).zip (ops k ls)).map fun e =>
            (⟨g, e.1.1, e.1.2, w64, some op, match rt with | some r => val x e.1.1.val r | none => val x e.1.1.val rs,
              val x e.1.1.val rs, if ret then some rd else none, x.tickets, e.2⟩ : SliceAtom)
          (t0.queueAtoms c p atoms).onGroup c p g fun u => if ret then u.step.awaitFor y.mask dsts else u.step)

/-- ATOM.S ADD (R163). -/
def execTeAtomSAdd (c : Chan) (p : PumpIx) (g : GSlot) (w64 ret : Bool) (rd addr rs : TReg) (s : State) : Res :=
  teAtomS .add c p g w64 ret rd addr rs none s

/-- ATOM.S MIN (R163). -/
def execTeAtomSMin (c : Chan) (p : PumpIx) (g : GSlot) (w64 ret : Bool) (rd addr rs : TReg) (s : State) : Res :=
  teAtomS .min c p g w64 ret rd addr rs none s

/-- ATOM.S MAX (R163). -/
def execTeAtomSMax (c : Chan) (p : PumpIx) (g : GSlot) (w64 ret : Bool) (rd addr rs : TReg) (s : State) : Res :=
  teAtomS .max c p g w64 ret rd addr rs none s

/-- ATOM.S AND (R163). -/
def execTeAtomSAnd (c : Chan) (p : PumpIx) (g : GSlot) (w64 ret : Bool) (rd addr rs : TReg) (s : State) : Res :=
  teAtomS .and c p g w64 ret rd addr rs none s

/-- ATOM.S OR (R163). -/
def execTeAtomSOr (c : Chan) (p : PumpIx) (g : GSlot) (w64 ret : Bool) (rd addr rs : TReg) (s : State) : Res :=
  teAtomS .or c p g w64 ret rd addr rs none s

/-- ATOM.S XOR (R163). -/
def execTeAtomSXor (c : Chan) (p : PumpIx) (g : GSlot) (w64 ret : Bool) (rd addr rs : TReg) (s : State) : Res :=
  teAtomS .xor c p g w64 ret rd addr rs none s

/-- ATOM.S EXCH (R163). -/
def execTeAtomSExch (c : Chan) (p : PumpIx) (g : GSlot) (w64 ret : Bool) (rd addr rs : TReg) (s : State) : Res :=
  teAtomS .exch c p g w64 ret rd addr rs none s

/-- ATOM.S CAS (R163). -/
def execTeAtomSCas (c : Chan) (p : PumpIx) (g : GSlot) (w64 ret : Bool) (rd addr rs rt : TReg) (s : State) : Res :=
  teAtomS .cas c p g w64 ret rd addr rs (some rt) s

/-- The slice performs the queued atomics (R163). -/
def execSliceAtomicPerform (c : Chan) (p : PumpIx) (s : State) : Res := .next (s.performAtoms c p)

/-- Loads of a slot whose lines are at hand now give their values; those that are not stay. -/
def State.fetchLoads (s : State) (c : Chan) (p : PumpIx) (g : GSlot) : State :=
  match s.group c p g with
  | none => s
  | some u =>
    let (s1, rs) := readEach (fun t (l : TeLoad) =>
      if t.readable c p true l.chan (l.off / 32) then
        let (t1, v) := t.memBits c p l.chan l.off l.size
        (t1, (l, some (bytesOver l.own v)))
      else (t, (l, none))) s u.loads
    s1.onGroup c p g fun x => { x with
      loads := rs.filterMap fun e => if e.2.isNone then some e.1 else none,
      arrived := x.arrived ++ rs.flatMap fun e => match e.2 with
        | some v => resultWords e.1.reg e.1.lane e.1.words v e.1.ticket
        | none => [] }

/-- Results that have arrived are written and release the registers that wait for them (R144, R147). -/
def Group.deliver (u : Group) : Group :=
  let here := u.arrived.filter fun e => u.awaiting.contains (e.1, e.2.1, e.2.2.2)
  let v := here.foldl (fun (x : Group) e => x.set e.2.1.val e.1.toNat e.2.2.1) u
  { v with arrived := [], awaiting := u.awaiting.filter fun a => !here.any fun e => (e.1, e.2.1, e.2.2.2) == a }

/-- Results arrive (R147). -/
def execLoadResult (c : Chan) (p : PumpIx) (g : GSlot) (s : State) : Res :=
  .next ((s.fetchLoads c p g).onGroup c p g Group.deliver)

/-! ### Global atomics (R165, R168, R169) -/

/-- The old value that a returning global atomic sees at its home: the word with the frame's atomics that came
before it (R169). -/
def State.atomSeen (s : State) (c : Chan) (j : SlotIx) (off : Nat) (w64 : Bool) : State × BitVec 64 :=
  let k := off / 32
  let (s1, base) := s.readShared c (some j) k
  let now := ((s1.chan c).atoms.filter fun a => a.slot == j && a.frame == s1.frameNo c j && offKey a.atom.off == k).foldl
    (fun (g : Granule) (a : HeldAtom) =>
      (atomGran g (a.atom.off.toNat % 32) a.atom.w64 a.atom.op a.atom.val a.atom.cmp).1) base
  (s1, (atomGran now (off % 32) w64 .or 0 0).2)

/-- Records a global atomic at its home on this channel, or sends it there (R165). -/
def State.sendAtom (s : State) (c : Chan) (p : PumpIx) (j : SlotIx) (g : GSlot) (ch : ChanAddr) (off : Nat) (a : AtomicRec) : State :=
  if s.barred c j ch (off / 32) then s.bar c j
  else if ch = s.addrOf c then
    s.onChan c fun h => { h with atoms := h.atoms ++ [⟨j, s.frameNo c j, a⟩] }
  else (s.sendFor c (s.workClass c j .thread) (physOf (s.chan c) p) j ch (.atomic ch [a])).expect c p 15 1 (some g) []

/-- One lane of ATOM.G, EXCH.G, CAS.G or FATOM.G at its place. A host word is the host's: the operation goes out, and a returned value
is free (R157; log entry 146). -/
def State.laneAtom (s : State) (c : Chan) (p : PumpIx) (j : SlotIx) (g : GSlot) (lane : Fin 32) (to_ : LaneAt) (w64 : Bool)
    (op : AtomOp) (val cmp : BitVec 64) (ret : Option TReg) (ticket : Nat) : State :=
  let words := if w64 then 2 else 1
  let arrive := fun (t : State) (rd : TReg) (v : Nat) => t.onGroup c p g fun u => { u with
    arrived := u.arrived ++ resultWords rd lane words v ticket }
  match to_ with
  | .fault _ => s
  | .host hva =>
    let t := s.toHost c p (.hostAtomic (s.jobFn c p) hva w64 op val cmp)
    match ret with
    | none => t
    | some rd => arrive { t with freeCtr := t.freeCtr + 4 * words } rd
        (leNat ((List.range (4 * words)).map fun i => Config.hostByte (t.freeCtr + i)))
  | .mem _ ch off =>
    let a : AtomicRec := ⟨BitVec.ofNat 49 off, w64, op, val, cmp, (s.pump c p).key, ret.isSome⟩
    match ret with
    | none => s.sendAtom c p j g ch off a
    | some rd =>
      if ch = s.addrOf c then
        let (t, old) := s.atomSeen c j off w64
        arrive (t.sendAtom c p j g ch off a) rd old.toNat
      else
        (s.sendAtom c p j g ch off a).onTe c p fun z => { z with
          gatoms := z.gatoms ++ [(⟨g, lane, ch.toNat * 2 ^ 49 + off, w64, some op, val, cmp, some rd, ticket, 0⟩ : SliceAtom)] }

/-- ATOM.G, EXCH.G, CAS.G and FATOM.G. `ret` is the result register of a returning form. -/
def teAtomG (op : AtomOp) (relaxed : Bool) (c : Chan) (p : PumpIx) (g : GSlot) (w64 : Bool) (ret : Option TReg)
    (addr rs : TReg) (rt : Option TReg) (s : State) : Res :=
  let n := if w64 then 8 else 4
  if !(teRegs addr 8 && atomRegs w64 rs && (match ret with | some r => atomRegs w64 r | none => true) &&
      (match rt with | some r => atomRegs w64 r | none => true)) then .fault .registerPastEnd
  else if relaxed && s.strictAt c p then .next s
  else
    let w := if w64 then 2 else 1
    let of := fun (o : Option TReg) => match o with | some r => regsFrom r w | none => []
    let val := fun (x : Group) (l : Nat) (r : TReg) => if w64 then x.get64 l r.toNat else (x.get l r.toNat).setWidth 64
    .next (s.teIssueIf c p g (regsFrom addr 2 ++ regsFrom rs w ++ of rt) (of ret)
      (fun t k x y => t.hostWaits (t.lanesAt c p k x y .global n n addr .atomic))
      fun t k x y =>
        let ls := t.lanesAt c p k x y .global n n addr .atomic
        t.withLanes c p ls fun t0 =>
          match (t0.chan c).slotOf p with
          | none => t0
          | some j =>
            (t0.each ls fun u e =>
              let v := val x e.1.val rs
              u.laneAtom c p j g e.1 e.2 w64 op (match rt with | some r => val x e.1.val r | none => v) v ret x.tickets).onGroup c p g
                fun u => if ret.isSome then u.step.awaitFor y.mask (of ret) else u.step)

/-- ATOM.G ADD (R165); with return it is relaxed (R169). -/
def execTeAtomGAdd (c : Chan) (p : PumpIx) (g : GSlot) (w64 ret : Bool) (rd addr rs : TReg) (s : State) : Res :=
  teAtomG .add ret c p g w64 (if ret then some rd else none) addr rs none s

/-- ATOM.G MIN (R165); with return it is relaxed (R169). -/
def execTeAtomGMin (c : Chan) (p : PumpIx) (g : GSlot) (w64 ret : Bool) (rd addr rs : TReg) (s : State) : Res :=
  teAtomG .min ret c p g w64 (if ret then some rd else none) addr rs none s

/-- ATOM.G MAX (R165); with return it is relaxed (R169). -/
def execTeAtomGMax (c : Chan) (p : PumpIx) (g : GSlot) (w64 ret : Bool) (rd addr rs : TReg) (s : State) : Res :=
  teAtomG .max ret c p g w64 (if ret then some rd else none) addr rs none s

/-- ATOM.G AND (R165); with return it is relaxed (R169). -/
def execTeAtomGAnd (c : Chan) (p : PumpIx) (g : GSlot) (w64 ret : Bool) (rd addr rs : TReg) (s : State) : Res :=
  teAtomG .and ret c p g w64 (if ret then some rd else none) addr rs none s

/-- ATOM.G OR (R165); with return it is relaxed (R169). -/
def execTeAtomGOr (c : Chan) (p : PumpIx) (g : GSlot) (w64 ret : Bool) (rd addr rs : TReg) (s : State) : Res :=
  teAtomG .or ret c p g w64 (if ret then some rd else none) addr rs none s

/-- ATOM.G XOR (R165); with return it is relaxed (R169). -/
def execTeAtomGXor (c : Chan) (p : PumpIx) (g : GSlot) (w64 ret : Bool) (rd addr rs : TReg) (s : State) : Res :=
  teAtomG .xor ret c p g w64 (if ret then some rd else none) addr rs none s

/-- EXCH.G (R169). -/
def execTeExchG (c : Chan) (p : PumpIx) (g : GSlot) (w64 : Bool) (rd addr rs : TReg) (s : State) : Res :=
  teAtomG .exch true c p g w64 (some rd) addr rs none s

/-- CAS.G (R169). -/
def execTeCasG (c : Chan) (p : PumpIx) (g : GSlot) (w64 : Bool) (rd addr rs rt : TReg) (s : State) : Res :=
  teAtomG .cas true c p g w64 (some rd) addr rs (some rt) s

/-- FATOM ADD: .S in the slice, .G at the home, in arrival order (R168). -/
def execTeFatomAdd (c : Chan) (p : PumpIx) (g : GSlot) (sp : Space) (addr rs : TReg) (s : State) : Res :=
  match sp with
  | .global => teAtomG .fadd true c p g false none addr rs none s
  | .slice => if s.strictAt c p then .next s else teAtomS .fadd c p g false false 0 addr rs none s

/-! ### Ledgers (R166) -/

/-- Where the ledgers of a descriptor lie: first byte of each. -/
def View.ledgerPlaces (w : View) : List (ChanAddr × Nat) :=
  (windowIxs (counts w.d.whole)).filterMap fun t => (w.d.spot w.v true (ixAt w.d.whole t)).bind fun sp => w.where_ sp 0

/-- Whether a place is a ledger of one of the job's ledger-reduce targets (R134, R166). -/
def State.reduceTarget (s : State) (c : Chan) (p : PumpIx) (ch : ChanAddr) (off : Nat) : Bool :=
  match (s.chan c).slotOf p with
  | none => false
  | some j =>
    match s.job (s.slot c j).job.ctx (s.slot c j).job.job with
    | some jb => jb.image.descs.any fun e => (tdesc e.2).kind == 2 &&
        (match s.jobView c p e.1 with
         | some w => w.ledgerPlaces.contains (ch, off)
         | none => false)
    | none => false

/-- LADD: each lane's FP32 addend into the ledger at its address, in lane order (R115, R116, R166). In the slice each distinct ledger
is one operation of R164; at a home it is a combine. A place that is no ledger-reduce target, host memory among them, faults. -/
def execTeLadd (c : Chan) (p : PumpIx) (g : GSlot) (sp : Space) (lexp : BitVec 10) (addr rs : TReg) (s : State) : Res :=
  if !teRegs addr (if sp = .global then 8 else 4) then .fault .registerPastEnd
  else
    .next (s.teIssueIf c p g (rs :: addrRegs sp addr) []
      (fun t k x y => sp == .slice &&
        decide (64 < (t.pump c p).te.opsOut + (laneOps true (keysOf (t.lanesAt c p k x y sp 32 32 addr .atomic))).sum))
      fun t k x y =>
        let ls := t.lanesAt c p k x y sp 32 32 addr .atomic
        t.withLanes c p ls fun t0 =>
          match sp, (t0.chan c).slotOf p with
          | .slice, _ =>
            let keys := ls.filterMap fun e => e.2.key.map fun o => (e.1, o)
            let atoms := (keys.zip (laneOps true (keys.map (·.2)))).map fun e =>
              (⟨g, e.1.1, e.1.2, false, none, (x.get e.1.1.val rs.toNat).setWidth 64, lexp.signExtend 64, none, 0, e.2⟩ : SliceAtom)
            (t0.queueAtoms c p atoms).onGroup c p g Group.step
          | .global, none => t0
          | .global, some j =>
            if ls.any fun e => match e.2 with | .mem _ ch off => !t0.reduceTarget c p ch off | _ => true then
              t0.pumpFault c p .descriptor 0
            else
              let r := ls.foldl (fun (acc : State × Bool) e =>
                match acc.2, e.2 with
                | false, .mem _ ch off =>
                  match ledgerAddend (fp32 (x.get e.1.val rs.toNat)) lexp.toInt with
                  | none => (acc.1.pumpFault c p .ledgerRange off, true)
                  | some n =>
                    let (u, m) := acc.1.sendCombine c (physOf (s.chan c) p) j ch (off / 32) (BitVec.ofInt 256 n)
                    (if m = 0 then u else u.expect c p 15 m (some g) [], false)
                | _, _ => acc) (t0, false)
              r.1.onGroup c p g Group.step)

/-- LRD: reads a ledger of the slice, folding first, and rounds it once (R119, R166). -/
def execTeLrd (c : Chan) (p : PumpIx) (g : GSlot) (fmt : RoFmt) (lexp : BitVec 10) (rd addr : TReg) (s : State) : Res :=
  let n := if fmt = .fp64 then 2 else 1
  if !teRegs rd (4 * n) then .fault .registerPastEnd
  else
    .next (s.teIssue c p g [addr] (regsFrom rd n) fun t k x y =>
      let ls := t.lanesAt c p k x y .slice 32 32 addr .read
      t.withLanes c p ls fun t0 =>
        let (s1, vs) := readEach (fun u e =>
          let (u1, v) := u.laneLoad c p x e.2 32
          (u1, (e.1, ledgerRead (BitVec.ofNat 256 (match v with | .inl m => m | .inr _ => 0)) lexp.toInt fmt)))
            (t0.settleAtoms c p (keyLines ls)) ls
        s1.onGroup c p g fun u => { (u.step.awaitFor y.mask (regsFrom rd n)) with
          arrived := u.arrived ++ vs.flatMap fun e => resultWords rd e.1 n e.2 u.tickets })

/-! ### Control (R150-R155) -/

/-- Changes the group in a slot, and frees the slot once no path is left (R139). -/
def Te.putGroup (t : Te) (g : GSlot) (u : Group) : Te :=
  { t with slots := upd t.slots g fun _ => if u.paths.isEmpty then none else some u }

/-- The current path goes to a target; a backward transfer rotates the group (R151). -/
def Group.jump (u : Group) (target : Nat) : Group :=
  match u.paths with
  | [] => u
  | y :: rest =>
    let ps := { y with pc := target } :: rest
    { u with paths := if target ≤ y.pc then pickPath y.low ps else ps }

/-- BR: a uniform condition goes one way; a divergent one splits the path, each new path with the join address
(R150). After a divergent backward one the rotation counts from the lowest lane of the path that split (log entry 145). -/
def Group.branch (u : Group) (taken : BitVec 32) (target join : Nat) : Group :=
  match u.paths with
  | [] => u
  | y :: rest =>
    let t := y.mask &&& taken
    let f := y.mask &&& ~~~taken
    if f = 0 then u.jump target
    else if t = 0 then u.step
    else
      let sp := (y.mask, join) :: y.splits
      let a : Path := { y with mask := t, pc := target, splits := sp }
      let b : Path := { y with mask := f, pc := y.pc + 1, splits := sp }
      let ps := if Config.takenFirst then a :: b :: rest else b :: a :: rest
      { u with paths := if target ≤ y.pc then pickPath y.low ps else ps }

/-- TE BR: taken by the lanes whose register is not zero (log entry 145). -/
def execTeBr (c : Chan) (p : PumpIx) (g : GSlot) (rp : TReg) (target join : BitVec 13) (s : State) : Res :=
  .next (s.teIssue c p g [rp] [] fun s _ x y =>
    let taken := ofBits 32 (((lanesOf y.mask).filter fun l => x.get l.val rp.toNat != 0).map (·.val))
    s.onGroup c p g fun u => u.branch taken target.toNat join.toNat)

/-- TE JMP (R151). -/
def execTeJmp (c : Chan) (p : PumpIx) (g : GSlot) (target : BitVec 13) (s : State) : Res :=
  .next (s.teIssue c p g [] [] fun s _ _ _ => s.onGroup c p g fun u => u.jump target.toNat)

/-- TE CALL keeps the address after it. -/
def execTeCall (c : Chan) (p : PumpIx) (g : GSlot) (target : BitVec 13) (s : State) : Res :=
  .next (s.teIssue c p g [] [] fun s _ _ y => s.onGroup c p g fun u =>
    { u with paths := { y with calls := (y.pc + 1) :: y.calls } :: u.paths.drop 1 }.jump target.toNat)

/-- TE RET: a backward branch to the latest kept address (R151); with none kept the path stays where it is (log
entry 16). -/
def execTeRet (c : Chan) (p : PumpIx) (g : GSlot) (s : State) : Res :=
  .next (s.teIssue c p g [] [] fun s _ _ y => s.onGroup c p g fun u =>
    match y.calls with
    | [] => u
    | r :: rest => { u with paths := pickPath y.low ({ y with pc := r, calls := rest } :: u.paths.drop 1) })

/-- TE JOIN: a path of a split parks at its join address, and the split merges once all its paths have (R150). -/
def execTeJoin (c : Chan) (p : PumpIx) (g : GSlot) (s : State) : Res :=
  .next (s.teIssue c p g [] [] fun s _ _ y => s.onGroup c p g fun u =>
    match y.splits with
    | (_, join) :: _ =>
      if join = y.pc then
        let v := Group.mergeAll { u with paths := { y with st := .parked join } :: u.paths.drop 1 }
        { v with paths := pickPath y.low v.paths }
      else u.step
    | [] => u.step)

/-- TE EXIT: the path's threads exit; an exited group frees its slot (R139, R143). -/
def execTeExit (c : Chan) (p : PumpIx) (g : GSlot) (s : State) : Res :=
  .next (s.teIssue c p g [] [] fun s _ x y =>
    let rest := x.paths.drop 1
    let gone := fun (a : SliceAtom) => if rest.isEmpty ∧ a.g = g then { a with ret := none } else a
    (if rest.isEmpty then s.publish c p g else s).onTe c p fun t =>
      match t.slots[g.val] with
      | none => t
      | some u0 =>
        let u := Group.mergeAll { u0 with exited := u0.exited ||| y.mask, paths := rest }
        Te.releaseBarK ((Te.putGroup { t with atoms := t.atoms.map gone, gatoms := t.gatoms.map gone }) g
          (Group.releaseBar { u with paths := pickPath y.low u.paths })))

/-- TE BAR n (R153). -/
def execTeBar (c : Chan) (p : PumpIx) (g : GSlot) (n : Fin 4) (s : State) : Res :=
  .next (s.teIssue c p g [] [] fun s _ _ y => s.onGroup c p g fun u =>
    (Group.settlePaths { u with paths := { y with st := .bar n, pc := y.pc + 1 } :: u.paths.drop 1 } y.low).releaseBar)

/-- TE BAR.K: with KBAR clear it faults the job with DESCRIPTOR (R154). -/
def execTeBarK (c : Chan) (p : PumpIx) (g : GSlot) (s : State) : Res :=
  .next (s.teIssue c p g [] [] fun s k _ y =>
    if k.kbar then
      (s.onGroup c p g fun u =>
        Group.settlePaths { u with paths := { y with st := .barK, pc := y.pc + 1 } :: u.paths.drop 1 } y.low).onTe c p
          Te.releaseBarK
    else s.pumpFault c p .descriptor 0)

/-- TE FENCE: the group's stores become visible, once its atomics have been performed (R161). -/
def execTeFence (c : Chan) (p : PumpIx) (g : GSlot) (s : State) : Res :=
  .next (s.teIssueIf c p g [] [] (fun t _ _ _ => (t.pump c p).atomsOut g)
    fun t _ _ _ => (t.publish c p g).onGroup c p g Group.step)

/-- A blocked group whose threads do not all wait at one barrier raises BARRIER_DIVERGENCE (R155). -/
def execBarrierDivergence (c : Chan) (p : PumpIx) (g : GSlot) (s : State) : Res :=
  match s.group c p g with
  | none => .next s
  | some u =>
    let blocked := !u.paths.isEmpty && u.paths.all fun x => x.st != .live
    let same := match u.paths with
      | x :: _ => (match x.st with | .parked _ => false | _ => true) && u.paths.all fun y => y.st == x.st
      | [] => true
    onlyIf (blocked && !same) s (s.pumpFault c p .barrierDivergence 0)

/-! ### Kernels -/

/-- The oldest waiting kernel, if it waits on no earlier operation, and no transfer that has acted and shares memory with it still
waits for acknowledgements (R68, R139, R141). -/
def Pump.nextKernel (q : Pump) : Option RowOp :=
  match q.todo.find? fun o => o.unit == .kernel with
  | some o =>
    if ((q.todo.takeWhile (· != o)).all fun e => !o.after e) && q.xfers.all fun x => x.acks == 0 || !feetMeet o.foot x.foot then some o
    else none
  | none => none

/-- Time of n units of a pause: 16 cycles each, at 2.0 or 1.5 GHz (R98). -/
def Power.pauseNs (w : Power) (n : Nat) : Nat := if w.clk15 then (32 * n + 2) / 3 else 8 * n

/-- A unit begins its oldest queued operation, and the queue entry frees (R67). It has waited the polder's pause since it was free and the
operation was issued; the wait counts as THROTTLE, or as BUDGET where CAUSE says so (R98, R428). -/
def State.beginOp (s : State) (c : Chan) (p : PumpIx) (u : RowUnit) : State :=
  let q := s.pump c p
  let i := unitIx u
  let (n, cause) := (s.chan c).pause (polderOf p)
  let ns := (s.chan c).pwr.pauseNs n
  let from_ := max (q.issued[i.val].headD 0) q.freeNs[i.val]
  (s.until (from_ + ns)).onPump c p fun x => { x with
    queued := upd x.queued i (· - 1), running := upd x.running i (· + 1), issued := upd x.issued i (·.drop 1),
    waits := if ns = 0 then x.waits else upd x.waits (if cause = 2 then 4 else 2) (· + ns) }

/-- An operation of a unit ends: the unit is free. -/
def State.endOp (s : State) (c : Chan) (p : PumpIx) (u : RowUnit) : State :=
  s.onPump c p fun x => { x with running := upd x.running (unitIx u) (· - 1), freeNs := upd x.freeNs (unitIx u) fun _ => s.timeNs }

/-- Launches the oldest waiting kernel: its descriptor is checked, DESCRIPTOR before ACCESS (R140). -/
def State.launch (s : State) (c : Chan) (p : PumpIx) : State :=
  let q := s.pump c p
  match q.te.kernel, q.nextKernel with
  | none, some o =>
    if q.run = .stopped ∨ q.queued[6] = 0 then s
    else if !kernelFieldsOk o.desc then s.pumpFault c p .descriptor 0
    else if !kernelAccessOk o.desc (s.chan c).pinned (s.strictAt c p) then s.pumpFault c p .access 0
    else (s.beginOp c p .kernel).onTe c p fun t => t.launch o.desc o.args
  | _, _ => s

/-- A kernel begins (R139). -/
def execKernelLaunch (c : Chan) (p : PumpIx) (s : State) : Res := .next (s.launch c p)

/-- Whether a kernel has nothing left to run (R143): groups exited, atomics performed or accepted by their homes. -/
def Pump.kernelOver (q : Pump) : Bool :=
  match q.te.kernel with
  | some k => decide (k.groups ≤ q.te.next) && q.te.slots.toList.all (·.isNone) && q.te.atoms.isEmpty &&
      q.te.gatoms.isEmpty && q.xfers.all fun x => x.opc != 15 || x.acks == 0
  | none => false

/-- Ends a kernel: its stores are visible, its dirty bytes written back, its lines invalidated (R143). -/
def State.endKernel (s : State) (c : Chan) (p : PumpIx) : State :=
  if (s.pump c p).kernelOver then
    let s1 := s.writeBack c p fun _ => true
    if (s1.pump c p).xfers.any fun x => x.opc == 15 && x.acks != 0 then s1
    else
      let drop1 := fun (l : List RowOp) => match l.find? fun o => o.unit == .kernel with | some o => l.erase o | none => l
      (((s1.endOp c p .kernel).onTe c p fun t => { t with kernel := none, lines := [] }).onPump c p fun q => { q with
        todo := drop1 q.todo, xfers := q.xfers.filter fun x => x.opc != 15 }).advance c p
  else s

/-- A kernel completes (R143). -/
def execKernelComplete (c : Chan) (p : PumpIx) (s : State) : Res := .next (s.endKernel c p)

/-! ### Operations -/

/-- Waiting operations of a unit. -/
def Pump.waiting (q : Pump) (u : RowUnit) : List RowOp := q.todo.filter fun o => o.unit == u

/-- Whether the oldest queued operation of a unit may begin: the unit runs none (log entry 148), and it has acted, or waits on no earlier
operation (R67, R68). -/
def Pump.canBegin (q : Pump) (u : RowUnit) : Bool :=
  let n := q.queued[(unitIx u).val]
  let w := q.waiting u
  decide (0 < n) && q.running[(unitIx u).val] == 0 &&
    (decide (w.length < n) ||
      match w[w.length - n]? with
      | some o => (q.todo.takeWhile (· != o)).all fun e => !o.after e
      | none => true)

/-- A unit begins a queued operation, and its queue entry frees (R67). -/
def execOperationBegin (c : Chan) (p : PumpIx) (u : RowUnit) (s : State) : Res :=
  if u = .kernel then .next (s.launch c p) else onlyIf ((s.pump c p).canBegin u) s (s.beginOp c p u)

/-- A transfer of a pump whose acknowledgements are all in, and the list without it. -/
def takeXfer : List Xfer → Option (List Xfer)
  | [] => none
  | x :: xs => if x.acks = 0 ∧ x.opc ≠ 15 then some xs else (takeXfer xs).map (x :: ·)

/-- Ends the oldest transfer that has everything R211 asks. -/
def State.endXfer (s : State) (c : Chan) (p : PumpIx) : State :=
  let q := s.pump c p
  match takeXfer q.xfers with
  | some xs =>
    if 0 < q.running[5] then ((s.endOp c p .transfer).onPump c p fun x => { x with xfers := xs }).advance c p else s
  | none => s

/-- An operation completes, releasing what waits on it (R68). -/
def execOperationComplete (c : Chan) (p : PumpIx) (u : RowUnit) (s : State) : Res :=
  let q := s.pump c p
  match u with
  | .transfer => .next (s.endXfer c p)
  | .kernel => .next (s.endKernel c p)
  | _ =>
    onlyIf (decide (0 < q.running[(unitIx u).val]) &&
        decide ((q.waiting u).length < q.running[(unitIx u).val] + q.queued[(unitIx u).val])) s
      ((s.endOp c p u).advance c p)

/-- A transfer completes (R211). -/
def execXfrComplete (c : Chan) (p : PumpIx) (s : State) : Res := .next (s.endXfer c p)

/-- A pump stopped at DONE reports frame done once everything R72 names has ended. -/
def execPumpFrameDone (c : Chan) (p : PumpIx) (s : State) : Res :=
  let q := s.pump c p
  onlyIf (q.run == .done && q.quiet && q.bq.isEmpty && q.te.dirty.isEmpty) s
    (s.onPump c p fun x => { x with run := .reported, doneNs := s.timeNs })

/-- A waiting transfer or kernel that waits on no earlier operation: it can still make progress. -/
def Pump.canProgress (q : Pump) : Bool :=
  (List.range q.todo.length).any fun i =>
    match q.todo[i]? with
    | some o => (o.unit == .transfer || o.unit == .kernel) && (q.todo.take i).all fun e => !o.after e
    | none => false

/-- The tests for an unbalanced broadcast stream (R72). -/
def execStreamDeadlockCheck (c : Chan) (p : PumpIx) (s : State) : Res :=
  let q := s.pump c p
  let stuck := (s.nextOp c p q.todo).isNone && !q.canProgress
  let bqs := !(q.waiting .broadcast).isEmpty
  let dotWaits := q.todo.any fun o => o.unit == .multiply && wOp o.word == 0x20
  let bad := match q.run with
    | .done => !q.bq.isEmpty || bqs || dotWaits
    | .fence => dotWaits && !bqs
    | _ => false
  onlyIf (stuck && bad) s (s.pumpFault c p .descriptor 0)

end Sys2Proof.Machine
end

