-- ==== Sys2Proof/Machine/Flits.lean ====
section
/-!
DEFINITION. Flits that a port receives: acceptance and acknowledgement, forwarding, and what each type does at its
destination (R165, R211, R212, R217, R300-R306, R314, R315, R320, R321, R325, R327, R332).
-/

namespace Sys2Proof.Machine

/-! ### Reception (R301, R302, R305, R306) -/

/-- Granules whose bytes the flit code corrected on the final hop are counted under SOURCE 6 with the sender's address (R302). -/
def State.fecLog (s : State) (c : Chan) (fh : FlitHdr) : State :=
  s.each fh.fecGrans fun t _ => t.logCe c 6 0 fh.src.toNat 0x3F false

/-- A flit of a credit kind arrives: rejected with a NAK, repeated and acknowledged again, or accepted in SEQ order, acknowledged,
and its buffer's credit returned. Answers whether it is accepted. -/
def State.arrive (s : State) (c : Chan) (port : PortIx) (fh : FlitHdr) (kind : Fin 4) : State × Bool :=
  let p := s.port c port
  if !p.speaks then (s, false)
  else if !fh.crcOk then (s.marker c port (.nak fh.seq), false)
  else if fh.seq ≠ p.rxSeq then (s.marker c port (.ack (p.rxSeq - 1)), false)
  else
    let n := p.rxKind[kind.val] + 1
    let credit : CreditKind := match kind with | 0 => .request | 1 => .response | 2 => .mcast | 3 => .reduce
    let s1 := s.onPort c port fun q =>
      let cnt := upd q.cnt 1 (sat64 · 1)
      { q with rxSeq := q.rxSeq + 1, rxKind := upd q.rxKind kind fun _ => n,
               cnt := if fh.fecGrans.isEmpty then cnt else upd cnt 2 (sat64 · 1) }
    ((s1.marker c port (.ack fh.seq)).marker c port (.credit credit n), true)

/-- Whether this module has found every ID held: its ports carry MGMT flits only (R317). -/
def State.noId (s : State) : Bool := !s.mc.fab.idValid && !s.mc.fab.ids.isEmpty

/-- Whether a flit is one of management. -/
def OutFlit.isMgmt : OutFlit → Bool
  | .mgmt .. => true
  | _ => false

/-- Passes a flit on by its route set; one without a route is answered UNREACHABLE (R318, R320). A RESP_ERR is not answered. -/
def State.passOn (s : State) (c : Chan) (fh : FlitHdr) (f : OutFlit) : State :=
  if s.noId && !f.isMgmt then s
  else match routePort ((s.chan c).route fh.rset fh.dest), f with
  | some port, _ => s.sendFlit c port (.passed fh.src f)
  | none, .respErr .. => s
  | none, _ => s.answerErr c fh .unreachable

/-- Whether a channel is in channel reset (R332). -/
def Channel.inReset (h : Channel) : Bool := h.st.busy && h.st.lastScope == 2

/-- A flit with a destination: passed on, answered TARGET_RESET, or taken. -/
def State.flitIn (s : State) (c : Chan) (port : PortIx) (fh : FlitHdr) (kind : Fin 4) (f : OutFlit) (here : State → State) : Res :=
  match s.arrive c port fh kind with
  | (t, false) => .next t
  | (t, true) =>
    if fh.dest ≠ t.addrOf c then .next (t.passOn c fh f)
    else
      let t1 := match f with
        | .write .. | .rdata .. | .combine .. => t.fecLog c fh
        | _ => t
      match (t1.chan c).inReset, f with
      | true, .respErr .. => .next (here t1)
      | true, _ => .next (t1.answerErr c fh .targetReset)
      | false, _ => .next (here t1)

/-! ### Requests -/

/-- One record of a WRITE: a held entry of the job, or at once for traffic of no job (R217). Answers how many were taken. -/
def State.takeWrite (s : State) (c : Chan) (fh : FlitHdr) (r : WriteRec) : State × Nat :=
  let k := offKey r.off
  if !(s.chan c).validKey k then (s.answerErr c fh .access, 0)
  else match s.senderSlot c fh k with
    | some j => (s.hold c j (s.frameNo c j) r, 1)
    | none => if fh.rset = 0 then (s.putNow c k r.mask r.data, 1) else (s.answerErr c fh .access, 0)

/-- WRITE: its granules are recorded, and acknowledged. -/
def execWriteFlit (c : Chan) (port : PortIx) (fh : FlitHdr) (recs : List WriteRec) (s : State) : Res :=
  s.flitIn c port fh 0 (.write fh.dest recs) fun t =>
    let (t1, n) := recs.foldl (fun (a : State × Nat) r => let (u, k) := a.1.takeWrite c fh r; (u, a.2 + k)) (t, 0)
    if n = 0 then t1 else t1.answer c (recs.head?.bind fun r => t1.senderSlot c fh (offKey r.off)) fh (.wack fh.src n)

/-- READ: each line is answered with RDATA. -/
def execReadFlit (c : Chan) (port : PortIx) (fh : FlitHdr) (lines : List FabAddr) (s : State) : Res :=
  s.flitIn c port fh 0 (.read fh.dest lines) fun t => t.each lines fun u a => u.serveLine c fh a

/-- COMBINE: ledgers added into inbound granules at TARGET, tagged with the frame (R133). -/
def execCombineFlit (c : Chan) (port : PortIx) (fh : FlitHdr) (frame : Nat) (data : List Granule) (s : State) : Res :=
  s.flitIn c port fh 0 (.combine fh.dest (fh.target.setWidth 49 <<< 5) data) fun t =>
    let (t1, n) := data.zipIdx.foldl (fun (a : State × Nat) e =>
      let k := fh.target.toNat + e.2
      match (a.1.chan c).validKey k, keySlice k with
      | true, some (p, g) => (a.1.combineAt c p g frame e.1, a.2 + 1)
      | _, _ => (a.1.answerErr c fh .access, a.2)) (t, 0)
    if n = 0 then t1 else t1.answer c (t1.senderSlot c fh fh.target.toNat) fh (.wack fh.src n)

/-- One record of an ATOMIC: held for the next tick (R165); a returning form is answered with the old word (R169). -/
def State.takeAtom (s : State) (c : Chan) (fh : FlitHdr) (a : AtomicRec) : State × Nat :=
  let k := offKey a.off
  match (s.chan c).validKey k, s.senderSlot c fh k with
  | true, some j =>
    let (s1, old) := s.atomSeen c j a.off.toNat a.w64
    let s2 := (if a.ret then s1 else s).onChan c fun h => { h with atoms := h.atoms ++ [⟨j, s.frameNo c j, a⟩] }
    (if a.ret then s2.answer c (some j) fh
        (.rdata fh.src ⟨s.addrOf c, a.off⟩ [old.setWidth 256 <<< (8 * (a.off.toNat % 32))]) else s2, 1)
  | _, _ => (s.answerErr c fh .access, 0)

/-- ATOMIC: its records are held and acknowledged. -/
def execAtomicFlit (c : Chan) (port : PortIx) (fh : FlitHdr) (recs : List AtomicRec) (s : State) : Res :=
  s.flitIn c port fh 0 (.atomic fh.dest recs) fun t =>
    let (t1, n) := recs.foldl (fun (a : State × Nat) r => let (u, k) := a.1.takeAtom c fh r; (u, a.2 + k)) (t, 0)
    if n = 0 then t1 else t1.answer c (recs.head?.bind fun r => t1.senderSlot c fh (offKey r.off)) fh (.wack fh.src n)

/-! ### Responses -/

/-- Granules of a fill that waits for them, by their place in the line of n granules: in sector mode its one sector (R201, R212). -/
def FillEnt.take (n : Nat) (home : ChanAddr) (k : Nat) (data : List Granule) (e : FillEnt) : FillEnt :=
  let base := offKey e.at_.off
  let wanted := fun (i : Nat) => decide (i < n) && (match e.sect with | some j => i == j | none => true) && (e.got.look i).isNone
  let new := data.zipIdx.filter fun d => decide (base ≤ k + d.2) && wanted (k + d.2 - base)
  if e.at_.chan = home ∧ !new.isEmpty then
    { e with started := true, got := new.foldl (fun (m : SMap Granule) d => m.set1 (k + d.2 - base) d.1) e.got }
  else e

/-- The word of a returning atomic that RDATA brings: its lane's result arrives (R169). -/
def State.atomBack (s : State) (c : Chan) (home : ChanAddr) (k : Nat) (v : Granule) : State :=
  let mine := fun (a : SliceAtom) => a.addr / 2 ^ 49 == home.toNat && a.addr % 2 ^ 49 / 32 == k
  match (List.finRange 128).findSome? fun p => ((s.pump c p).te.gatoms.find? mine).map fun a => (p, a) with
  | none => s
  | some (p, a) =>
    let old : BitVec 64 := (v >>> (8 * (a.addr % 32))).setWidth 64
    let s1 := s.onTe c p fun t => { t with gatoms := t.gatoms.erase a }
    match a.ret with
    | some rd => s1.onGroup c p a.g fun u => { u with arrived := u.arrived ++ resultWords rd a.lane (if a.w64 then 2 else 1) old.toNat a.ticket }
    | none => s1

/-- RDATA: granules of open fills, or the word of a returning atomic (R212, R302). -/
def execRdataFlit (c : Chan) (port : PortIx) (fh : FlitHdr) (data : List Granule) (s : State) : Res :=
  let k := fh.target.toNat
  s.flitIn c port fh 1 (.rdata fh.dest ⟨fh.src, keyOff k⟩ data) fun t =>
    let n := (t.chan c).lineGrans
    let fills := (t.chan c).fills.map (FillEnt.take n fh.src k data)
    if fills ≠ (t.chan c).fills then t.onChan c fun h => { h with fills := fills }
    else match data with
      | [v] => t.atomBack c fh.src k v
      | _ => t

/-- One acknowledgement for a pump: its oldest transfer with one outstanding (R211). -/
def ackOne : List Xfer → List Xfer
  | [] => []
  | x :: xs => if 0 < x.acks then { x with acks := x.acks - 1 } :: xs else x :: ackOne xs

/-- WACK: one record for each write, combine or atomic acknowledged; one that names no pump acknowledges a write of a host command
(log entry 155). -/
def execWackFlit (c : Chan) (port : PortIx) (fh : FlitHdr) (acks : List (PumpIx)) (s : State) : Res :=
  s.flitIn c port fh 1 (.wack fh.dest acks.length) fun t =>
    if acks.isEmpty then t.hostAck c fh.src
    else t.each acks fun u p => u.onPump c p fun q => { q with xfers := ackOne q.xfers }

/-- RESP_ERR: the job that asked faults, or the host command ends (R314, R320, R332). FLT_REC names the remote channel; the
FAULT event's address holds 0x0203 for TARGET_RESET (log entry 34). -/
def execRespErrFlit (c : Chan) (port : PortIx) (fh : FlitHdr) (j : Option SlotIx) (hcmd : Option Hdr) (code : RespErr) (s : State) :
    Res :=
  s.flitIn c port fh 1 (.respErr fh.dest code) fun t =>
    let t1 := match j with
      | some k => match code with
        | .access => t.fault c k .access .remote fh.src.toNat 0
        | .targetReset => t.fault c k .link .remote fh.src.toNat stTargetReset
        | .unreachable => t.fault c k .link .remote fh.src.toNat 0
      | none => t
    match hcmd with
    | some h => t1.endCmd h (match code with | .access => stContextFault | .targetReset => stTargetReset | .unreachable => stLinkLost)
    | none => t1

/-! ### Collectives (R321, R325, R327) -/

/-- Tree, collective entry and first element of a flit on a tree (Table 11.5). -/
def flitTree (fh : FlitHdr) : BitVec 12 := fh.target.extractLsb' 0 12
def flitEntry (fh : FlitHdr) : BitVec 8 := fh.target.extractLsb' 12 8
def flitElem (fh : FlitHdr) : Nat := (fh.target.extractLsb' 20 24).toNat * 16

/-- Local delivery of an MCAST at a slot: writes whose home is this channel, sums for every member here. -/
def State.mcastHere (s : State) (c : Chan) (j : SlotIx) (fh : FlitHdr) (frame : Nat) (recs : List (ChanAddr × WriteRec))
    (sums : List Granule) : State :=
  let s1 := s.each (recs.filter fun r => r.1 == s.addrOf c) fun t r => t.collHold c j frame r.2
  match s1.treeJob (flitTree fh) with
  | none => s1
  | some (ctx, _, jb) =>
    match jb.image.colls.find? fun e => e.index == (flitEntry fh) with
    | none => s1
    | some e => s1.each sums.zipIdx fun t v => t.each (t.collHere c jb e) fun u m =>
        match u.collDst ctx jb e m with
        | some w => u.collSum c j frame w ((flitElem fh) + v.2) v.1
        | none => u

/-- MCAST: forwarded on every port of the mask but its own, delivered where the mask says so. -/
def execMcastFlit (c : Chan) (port : PortIx) (fh : FlitHdr) (frame : Nat) (recs : List (ChanAddr × WriteRec)) (sums : List Granule)
    (s : State) : Res :=
  match s.arrive c port fh 2 with
  | (t, false) => .next t
  | (t, true) =>
    match (t.chan c).router.trees.look (flitTree fh).toNat with
    | none => .next t
    | some tr =>
      let outs := (List.finRange 12).filter fun p => tr.mask.getLsbD p.val && p != port
      let t1 := t.each outs fun u p => u.sendFlit c p (.passed fh.src (.mcast (flitTree fh) (flitEntry fh) recs (flitElem fh) sums))
      match tr.slot with
      | some j => .next (if tr.deliver then (t1.fecLog c fh).mcastHere c j fh frame recs sums else t1)
      | none => .next t1

/-- REDUCE: each ledger enters the combining store of this node. -/
def execReduceFlit (c : Chan) (port : PortIx) (fh : FlitHdr) (ledgers : List Granule) (s : State) : Res :=
  match s.arrive c port fh 3 with
  | (t, false) => .next t
  | (t, true) => .next ((t.fecLog c fh).each ledgers.zipIdx fun u v => u.reduceIn c (flitTree fh) (flitEntry fh) ((flitElem fh) + v.2) v.1)

/-! ### Management and control -/

/-- A module record not seen before is kept and flooded over the other ACTIVE ports (R315). -/
def State.moduleSeen (s : State) (c : Chan) (port : PortIx) (m : ModRecord) : State :=
  if (s.chan c).router.seenMods.contains m.serial then s
  else
    let s1 := s.onChan c fun h => { h with router := { h.router with seenMods := h.router.seenMods ++ [m.serial] } }
    let s2 := if s.mc.fab.mods.any fun x => x.serial == m.serial then s1 else s1.onFab fun f => { f with mods := f.mods ++ [m] }
    s2.each ((List.finRange 12).filter fun p => p != port && (s.port c p).state == .active) fun t p =>
      t.sendFlit c p (.mgmt (t.port c p).partnerCh (.module m))

/-- The slot that a placement's confirmed claims hold in a channel. -/
def Channel.claimedSlot (h : Channel) (who : ClaimId) : Option SlotIx :=
  h.claims.findSome? fun x => match x.2.1 with
    | .slot j => if x.1 = who ∧ x.2.2 then some j else none
    | _ => none

/-- What a management record does at its destination. -/
def State.mgmtHere (s : State) (c : Chan) (fh : FlitHdr) : MgmtRec → State
  | .module _ => s
  | .map r => s.mapIn c r
  | .claim who r => s.claimAt c who r
  | .claimReply r granted => s.claimAnswer r fh.src granted
  | .release who keep => s.releaseAway c who keep
  | .tables t => (s.applyAway c t).sendMgmt c fh.src .written
  | .written => s.tableAck fh.src
  | .inputComplete j frame => s.inputNotice c j fh.src frame
  | .buddyLost j => s.buddyLost c j
  | .fault who cause => match (s.chan c).claimedSlot who with
    | some j => s.mgmtFault c j cause fh.src
    | none => s
  | .homeTick j f halt => s.homeHears c j f halt

/-- MGMT: module records flood hop by hop, every other record goes to its destination over set 0. -/
def execMgmtFlit (c : Chan) (port : PortIx) (fh : FlitHdr) (rec : MgmtRec) (s : State) : Res :=
  match s.arrive c port fh 0 with
  | (t, false) => .next t
  | (t, true) =>
    match rec with
    | .module m => .next (t.moduleSeen c port m)
    | r => .next (if fh.dest ≠ t.addrOf c then t.passOn c { fh with rset := 0 } (.mgmt fh.dest r) else t.mgmtHere c fh r)

/-- CTRL: the partner's good lanes, a narrowing, its credit counts (R299, R303, R305). -/
def execCtrlFlit (c : Chan) (port : PortIx) (info : CtrlInfo) (s : State) : Res :=
  if (s.port c port).speaks then
    let s1 := s.onPort c port fun p => { p with good := p.good &&& info.goodLanes }
    let s2 := if info.narrowing ∧ (s.port c port).state = .active then s1.narrow c port else s1
    .next (s2.each info.credits fun t e => t.credit c port e.1 e.2)
  else .next s

/-- A flit of a TYPE that Table 11.6 does not list: accepted at its hop and discarded, and nothing faults (R300). -/
def execUnknownFlit (c : Chan) (port : PortIx) (_ty : BitVec 4) (s : State) : Res :=
  let p := s.port c port
  onlyIf p.speaks s ((s.onPort c port fun q => { q with rxSeq := q.rxSeq + 1, cnt := upd q.cnt 1 (sat64 · 1) }).marker c port
    (.ack p.rxSeq))

end Sys2Proof.Machine
end

