-- ==== Sys2Proof/Machine/Wells.lean ====
section
/-!
DEFINITION. Rings, doorbells and interrupts, contexts and wells, and the resets of the host path (R286, R351-R354, R356, R363-R367,
R370, R376, R378-R381).
-/

namespace Sys2Proof.Machine

/-! ### The host port -/

/-- Sends an MSI-X vector; a masked one sets its pending bit (R370). -/
def State.msix (s : State) (fn vec : Nat) : State :=
  if s.mc.host.msixOpen.contains (fn, vec) then s.emit (.msix fn vec)
  else s.onMc fun m => { m with host := { m.host with
    msixPend := if m.host.msixPend.contains (fn, vec) then m.host.msixPend else m.host.msixPend ++ [(fn, vec)] } }

/-- The host unmasks a vector: a pending interrupt is sent. -/
def execMsixVectorUnmask (fn vec : Nat) (s : State) : Res :=
  let t := s.onMc fun m => { m with host := { m.host with
    msixOpen := if m.host.msixOpen.contains (fn, vec) then m.host.msixOpen else m.host.msixOpen ++ [(fn, vec)],
    msixPend := m.host.msixPend.filter (· != (fn, vec)) } }
  onlyIf (!s.mc.inReset) s (if s.mc.host.msixPend.contains (fn, vec) then t.emit (.msix fn vec) else t)

/-! ### Doorbells (R364, R365) -/

/-- Every ring of the module, with its name. -/
def State.rings (s : State) : List (RingId × Ring) :=
  (s.mc.admins.filterMap fun e => e.2.ring.map fun r => (RingId.admin e.1, r)) ++
    s.ch.toList.flatMap fun h => h.wells.map fun e => (RingId.well e.2.ctx e.2.loc, e.2.ring)

/-- The place of the next doorbell in the order of arrival at the host port: after every doorbell that still counts. -/
def State.nextBell (s : State) : Nat :=
  1 + ((s.rings.flatMap fun e => e.2.bells.map (·.2) ++ e.2.waiting.map (·.bell)).foldl max 0)

/-- A doorbell in place n that moved PROD: the descriptors up to its PROD that no earlier doorbell told of are its own (R365). -/
def Ring.told (r : Ring) (n : Nat) : Ring :=
  let kept := r.bells.filter fun e => (e.1 - r.fetched).toNat ≤ (r.prod - r.fetched).toNat
  { r with bells := if r.prod = r.fetched ∨ kept.any (·.1 == r.prod) then kept else kept ++ [(r.prod, n)] }

/-- A doorbell's counts at a ring: PROD too far ahead of the descriptors fetched, or behind them, puts it in ERROR; the counts
are free-running, so the difference is read as a signed number. n is its place in the order of arrival. -/
def Ring.doorbell (r : Ring) (v : BitVec 64) (n : Nat) : Ring :=
  let ahead : BitVec 32 := v.setWidth 32 - r.fetched
  let r1 := { r with cqCons := v.extractLsb' 32 32 }
  (if r.state = .error then r1
   else if ahead.toInt < 0 then { r1 with state := .error, errCode := 2 }
   else if 2 ^ r.sqLog2 < ahead.toNat then { r1 with state := .error, errCode := 1 }
   else { r1 with prod := v.setWidth 32 }.told n).go

/-- DOORBELL: a write narrower than 8 bytes is ignored and counted; so is one to a well that the context does not hold, which no
counter belongs to. -/
def execDoorbell (ctx loc bytes : Nat) (v : BitVec 64) (s : State) : Res :=
  match (s.mc.ctxs.look ctx).bind (·.wells.look loc) with
  | some (c, w) =>
    onlyIf s.hostUp s (s.onChan c fun h => { h with wells := h.wells.alter w fun x =>
      if bytes < 8 then { x with dropped := sat16 x.dropped 1 } else { x with ring := x.ring.doorbell v s.nextBell } })
  | none => .next s

/-- MC_ADM_DB. -/
def State.admDoorbell (s : State) (fn : Nat) (v : BitVec 64) : State :=
  s.onMc fun m => { m with admins := m.admins.alter fn fun a =>
    let r := a.ring.map fun x => x.doorbell v s.nextBell
    { a with ring := r, err := a.err || (match r with | some x => x.state == .error | none => false) } }

/-- A function's write of MC_ADM_DB. -/
def execAdminDoorbell (fn : Nat) (v : BitVec 64) (s : State) : Res := onlyIf s.hostUp s (s.admDoorbell fn v)

/-! ### Admin rings -/

/-- A ring as it is created: its counts are zero. -/
def Ring.fresh (sqBase sqLog2 cqBase cqLog2 vector coalCount coalUs : Nat) : Ring :=
  { sqBase := sqBase, sqLog2 := sqLog2, cqBase := cqBase, cqLog2 := cqLog2, state := .active, prod := 0, cqCons := 0,
    fetched := 0, written := 0, bells := [], waiting := [], running := [], fifo := [], vector := vector, coalCount := coalCount,
    coalUs := coalUs, unsignalled := 0, firstNs := 0, errCode := 0 }

/-- Whether a ring has anything left of its commands. -/
def Ring.busy (r : Ring) : Bool := !(r.waiting.isEmpty && r.running.isEmpty && r.fifo.isEmpty)

/-- Ring sizes of R363. -/
def sizeOk (n : Nat) : Bool := 6 ≤ n && n ≤ 16

/-- Both rings enabled, with sizes that exist. -/
def Admin.on (a : Admin) : Bool := a.sqEn && a.cqEn && sizeOk a.sqLog2 && sizeOk a.cqLog2

def Admin.reset : Admin :=
  { sqLog2 := 0, sqEn := false, sqBase := 0, cqLog2 := 0, cqEn := false, cqBase := 0, err := false, ring := none }

/-- The ring after a write of its registers (Table 17.7): values written while it is enabled are held for the next enable; enabled anew it
starts, or resumes from its counts where a reset of the host path had stopped it or commands of it still run; disabled, it lasts until
those have completed. -/
def Admin.settle (a : Admin) (was : Bool) : Admin :=
  let fresh := Ring.fresh a.sqBase a.sqLog2 a.cqBase a.cqLog2 0 0 0
  let keep : Bool := match a.ring with | some r => r.state == .stopped || r.busy | none => false
  if a.on then
    { a with ring := match a.ring with
        | some r =>
          if was then some r
          else if keep then some { r with
            sqBase := a.sqBase, sqLog2 := a.sqLog2, cqBase := a.cqBase, cqLog2 := a.cqLog2,
            state := if r.state = .stopped then .active else r.state }
          else some fresh
        | none => some fresh }
  else { a with ring := if keep then a.ring else none }

/-- A write of MC_ADM_SQ or MC_ADM_CQ: enabling a size outside 6-16 leaves the ring disabled and sets ERR. -/
def State.admWrite (s : State) (fn : Nat) (cq : Bool) (v : BitVec 64) : State :=
  let a := (s.mc.admins.look fn).getD Admin.reset
  let size := (v.extractLsb' 0 5).toNat
  let en := v.getLsbD 5
  let base := (v.extractLsb' 12 52).toNat * 4096
  let b := if cq then { a with cqLog2 := size, cqEn := en, cqBase := base } else { a with sqLog2 := size, sqEn := en, sqBase := base }
  let d := { b with err := b.err || (en && !sizeOk size) }
  s.onMc fun m => { m with admins := m.admins.set1 fn (d.settle a.on) }

/-- A function's write of MC_ADM_SQ or MC_ADM_CQ. -/
def execMcAdmRingWrite (fn : Nat) (cq : Bool) (v : BitVec 64) (s : State) : Res :=
  onlyIf (s.hostUp && decide (fn ≤ s.mc.host.numVf)) s (s.admWrite fn cq v)

/-! ### Fetching and starting (R365-R367, R376, R381) -/

/-- The command codes that a ring accepts (Table 13.6, R376). -/
def State.accepts (s : State) (r : RingId) (opc : Nat) : Bool :=
  match r with
  | .admin _ => 1 ≤ opc && opc ≤ 5
  | .well ctx loc =>
    let urgent := match (s.mc.ctxs.look ctx).bind (·.wells.look loc) with
      | some (c, w) => match (s.chan c).wells.look w with | some x => x.urgent.isSome | none => false
      | none => false
    if urgent then opc == 0x28
    else [0x10, 0x11, 0x12, 0x13, 0x14, 0x20, 0x21, 0x22, 0x23, 0x24, 0x30, 0x31, 0x32, 0x38, 0x39].contains opc

/-- The status with which a descriptor completes without having effect, if its header shows that. -/
def State.fetchStatus (s : State) (r : RingId) (d : BitVec 512) : Option Nat :=
  let opc := field d 0 8
  if field d 10 6 ≠ 0 ∨ field d 40 24 ≠ 0 ∨ !s.accepts r opc then some stCmdInvalid
  else if s.mc.firm.safe ∧ opc ≠ 0x01 ∧ opc ≠ 0x03 ∧ opc ≠ 0x38 then some stVersionMismatch
  else if opc = 0x39 ∧ s.ringFn r ≠ 0 then some stNotPermitted
  else none

/-- Whether a ring may fetch: its admin registers enabled, its context not being destroyed. -/
def State.ringOn (s : State) : RingId → Bool
  | .admin fn => match s.mc.admins.look fn with | some a => a.on | none => false
  | .well ctx _ => match s.mc.ctxs.look ctx with | some x => x.ending.isNone | none => false

/-- Whether a ring has a descriptor to fetch (R364, R365). -/
def State.fetchDue (s : State) (ring : RingId) (r : Ring) : Bool := s.ringOn ring && r.state == .active && r.fetched != r.prod

/-- Whether a ring has a completion record to write (R366). -/
def Ring.writeDue (r : Ring) : Bool := !r.fifo.isEmpty && r.state != .stopped && !r.full

/-- Whether a ring is an urgent well's. -/
def State.urgentRing (s : State) : RingId → Bool
  | .admin _ => false
  | .well ctx loc => match (s.mc.ctxs.look ctx).bind (·.wells.look loc) with
    | some (c, w) => (match (s.chan c).wells.look w with | some x => x.urgent.isSome | none => false)
    | none => false

/-- Whether an urgent well has a descriptor to fetch or a record to write: it goes ahead of every other host traffic (R286). -/
def State.urgentFirst (s : State) : Bool :=
  s.ch.toList.any fun h => h.wells.any fun e => e.2.urgent.isSome &&
    (s.fetchDue (.well e.2.ctx e.2.loc) e.2.ring || e.2.ring.writeDue)

/-- Whether it is a ring's turn at the host port (R286). -/
def State.hostTurn (s : State) (ring : RingId) : Bool := s.urgentRing ring || !s.urgentFirst

/-- DESCRIPTOR_FETCH: the next descriptor of a ring. -/
def execDescriptorFetch (ring : RingId) (d : BitVec 512) (s : State) : Res :=
  match s.ring ring with
  | none => .next s
  | some r =>
    let h : Hdr := ⟨ring, r.fetched.toNat % 2 ^ r.sqLog2, d.extractLsb' 16 24, d.getLsbD 8, d.getLsbD 9⟩
    onlyIf (s.hostUp && s.fetchDue ring r && s.hostTurn ring) s
      (s.onRing ring fun (x : Ring) => ({ x with
        fetched := x.fetched + 1, bells := x.bells.filter fun e => e.1 != x.fetched + 1,
        waiting := x.waiting ++ [(⟨h, field d 0 8, s.fetchStatus ring d, (x.bells.headD (0, 0)).2⟩ : Fetched)] } : Ring).go)

/-- Commands that change a context's tables: they execute one at a time (R365). -/
def tableOpc (opc : Nat) : Bool := opc ≤ 0x14 || opc == 0x21 || opc == 0x22

/-- Whether one of them still executes: a START until its job is admitted, a CTX_DESTROY until its jobs have ended. -/
def State.tableBusy (s : State) : Bool :=
  (s.mc.jobs.any fun e => !e.2.admitted) || s.mc.ctxs.any fun e => match e.2.ending with | some (some _) => true | _ => false

/-- Whether a table command whose doorbell has place n is the first that reached Gnover: no other ring that runs holds one of an earlier
doorbell, or still has descriptors of an earlier doorbell to fetch (R365). Urgent wells hold none. -/
def State.tableTurn (s : State) (ring : RingId) (n : Nat) : Bool :=
  s.rings.all fun e => e.1 == ring || !s.ringOn e.1 || e.2.state == .stopped ||
    ((e.2.waiting.all fun w => w.status.isSome || !tableOpc w.opc || decide (n ≤ w.bell)) &&
      (e.2.state != .active || s.urgentRing e.1 || e.2.bells.all fun b => decide (n ≤ b.2)))

/-- Starts a fetched command whose turn it is. -/
def State.begin (s : State) (h : Hdr) (opc : Nat) : Option State :=
  match s.ring h.ring with
  | none => none
  | some r =>
    match r.waiting with
    | [] => none
    | w :: rest =>
      if w.hdr = h ∧ w.opc = opc ∧ w.status.isNone ∧ r.mayStart h ∧ !s.mc.inReset ∧ s.ringOn h.ring ∧
          (!tableOpc opc || !s.tableBusy && s.tableTurn h.ring w.bell) then
        some (s.onRing h.ring fun (x : Ring) => ({ x with waiting := rest, running := x.running ++ [h] } : Ring).go)
      else none

/-- The meaning of a host command: nothing, unless it may start. -/
def State.cmd (s : State) (h : Hdr) (opc : Nat) (f : State → State) : Res :=
  match s.begin h opc with
  | some t => .next (f t)
  | none => .next s

/-- The context of a well's command. -/
def hdrCtx (h : Hdr) : Nat := match h.ring with | .well ctx _ => ctx | .admin _ => 0

/-! ### Completion records and interrupts (R366, R370) -/

/-- A record's 16 bytes (Table 13.5). -/
def Record.bytes (x : Record) (phase : Nat) : List (BitVec 8) :=
  leBytes 16 (packReg [(0, 16, x.status.toNat), (16, 16, x.index), (32, 1, phase), (33, 1, bit x.event), (40, 24, x.tag.toNat),
    (64, 64, x.result.toNat)])

/-- PHASE of completion count n in a ring of 2^m records. -/
def phaseOf (n m : Nat) : Nat := 1 - n / 2 ^ m % 2

/-- COMPLETION_WRITE: the oldest record is written to its slot, and counts toward interrupts unless NOIRQ is set. -/
def execCompletionWrite (ring : RingId) (s : State) : Res :=
  match s.ring ring with
  | none => .next s
  | some r =>
    match r.fifo with
    | [] => .next s
    | x :: rest =>
      let n := r.written.toNat
      let count := if x.noirq then r.unsignalled else r.unsignalled + 1
      let signal := !x.noirq && (r.coalUs == 0 || decide (max r.coalCount 1 ≤ count))
      let first := if r.unsignalled = 0 then s.timeNs else r.firstNs
      let s1 := (s.emit (.hostWrite (s.ringFn ring) (r.cqBase + 16 * (n % 2 ^ r.cqLog2)) (x.bytes (phaseOf n r.cqLog2)))).onRing ring
        fun (y : Ring) => ({ y with
          fifo := rest, written := y.written + 1, unsignalled := if signal then 0 else count,
          firstNs := if x.noirq then y.firstNs else first } : Ring).go
      onlyIf (s.hostUp && r.writeDue && s.hostTurn ring) s (if signal then s1.msix (s.ringFn ring) r.vector else s1)

/-- INTERRUPT_TIMER: COAL_US after the first record not yet signalled. -/
def execInterruptTimer (ring : RingId) (s : State) : Res :=
  match s.ring ring with
  | none => .next s
  | some r =>
    onlyIf (s.hostUp && r.unsignalled != 0 && r.coalUs != 0) s
      (((s.until (r.firstNs + 1000 * r.coalUs)).onRing ring fun x => { x with unsignalled := 0 }).msix (s.ringFn ring) r.vector)

/-! ### Contexts (R356, R379, R380) -/

/-- Whether a function may name a context: its own, or any for the PF. -/
def State.mayName (s : State) (h : Hdr) (ctx : Nat) : Bool :=
  match s.mc.ctxs.look ctx with
  | some x => x.ending.isNone && (s.ringFn h.ring == 0 || x.fn == s.ringFn h.ring)
  | none => false

/-- The lowest number below `n` that a list does not hold. -/
def lowestFree (n : Nat) (taken : List Nat) : Option Nat := (List.range n).find? fun k => !taken.contains k

/-- CTX_CREATE. -/
def execCtxCreate (h : Hdr) (home : Chan) (pasid : BitVec 20) (pasidEn : Bool) (s : State) : Res :=
  s.cmd h 0x01 fun t =>
    let fn := t.ringFn h.ring
    let mine := t.mc.ctxs.filter fun e => e.2.fn == fn
    let page := if fn = 0 then some 0 else lowestFree 16 (mine.map (·.2.vfPage))
    if !t.present home then t.complete h stCmdInvalid 0
    else if 128 ≤ (t.mc.ctxs.filter fun e => e.2.home == home).length then t.complete h stNoResource 0
    else match lowestFree 1024 t.mc.ctxs.keys, page with
      | some n, some p =>
        let x : Ctx := { fn := fn, home := home, pasid := pasid, pasidEn := pasidEn, allocs := [], descs := [], images := [],
                         maps := [], wells := [], vfPage := p, ending := none }
        (t.onMc fun m => { m with ctxs := m.ctxs.set1 n x }).complete h stSuccess (n + 1024 * p)
      | _, _ => t.complete h stNoResource 0

/-- Gives up the placement of a job that is under way. -/
def State.cancelPlacing (s : State) (ctx job : Nat) : State :=
  match s.mc.fab.placing with
  | some p => if p.ctx = ctx ∧ p.job = job then (s.releaseClaims p).onFab fun f => { f with placing := none, placeState := 0 } else s
  | none => s

/-- Destroys a context: its jobs end at their fences, and it ends after the last (R380). -/
def State.destroyCtx (s : State) (ctx : Nat) (h : Option Hdr) : State :=
  let s1 := (s.jobsOf ctx).foldl (fun (t : State) e =>
    let job := (unKey e.1).2
    if e.2.halted ∨ !e.2.admitted ∨ (t.localSlots ctx job).isEmpty then (t.cancelPlacing ctx job).removeJob ctx job
    else t.stopJob ctx job false) (s.onCtx ctx fun x => { x with ending := some h })
  s1.endCtx ctx

/-- CTX_DESTROY. -/
def execCtxDestroy (h : Hdr) (ctx : Nat) (force : Bool) (s : State) : Res :=
  s.cmd h 0x02 fun t =>
    if !t.mayName h ctx then t.complete h stNotPermitted 0
    else if !force ∧ !(t.jobsOf ctx).isEmpty then t.complete h stJobState 0
    else t.destroyCtx ctx (some h)

/-- A function is reset: its contexts are destroyed without completion records, its admin ring and vectors are as after reset. -/
def State.resetFn (s : State) (fn : Nat) : State :=
  let s1 := (s.mc.ctxs.filter fun e => e.2.fn == fn).foldl (fun (t : State) e => t.destroyCtx e.1 none) s
  s1.onMc fun m => { m with
    admins := m.admins.drop1 fn,
    host := { m.host with msixOpen := m.host.msixOpen.filter fun e => e.1 != fn,
                          msixPend := m.host.msixPend.filter fun e => e.1 != fn } }

/-- FLR_VF. -/
def execFlrVf (vf : Nat) (s : State) : Res := onlyIf (!s.mc.inReset && decide (vf ≤ s.mc.host.numVf)) s (s.resetFn vf)

/-- FLR_PF: every function's contexts, and SR-IOV is disabled. -/
def execFlrPf (s : State) : Res :=
  onlyIf (!s.mc.inReset) s (((List.range 64).foldl State.resetFn s).onMc fun m => { m with host := { m.host with numVf := 0 } })

/-- VF_ENABLE: the number of VFs; a VF that no longer exists holds nothing. -/
def execVfEnable (n : Nat) (s : State) : Res :=
  onlyIf s.hostUp s ((((List.range 64).filter fun f => decide (n < f)).foldl State.resetFn s).onMc fun m =>
    { m with host := { m.host with numVf := n } })

/-! ### Wells (R363, R376, R378) -/

/-- Whether WELL_CREATE's parameters are those of R363. -/
def State.wellOk (s : State) (fn : Nat) (w : WellParams) : Bool :=
  s.present w.channel && sizeOk w.sqLog2 && sizeOk w.cqLog2 && w.sqBase % 4096 == 0 && w.cqBase % 4096 == 0 &&
    decide (w.vector.toNat < (if fn = 0 then 2048 else 32))

/-- WELL_CREATE. -/
def execWellCreate (h : Hdr) (ctx : Nat) (w : WellParams) (s : State) : Res :=
  s.cmd h 0x03 fun t =>
    match t.mc.ctxs.look ctx with
    | none => t.complete h stNotPermitted 0
    | some x =>
      if !t.mayName h ctx then t.complete h stNotPermitted 0
      else if !t.wellOk x.fn w then t.complete h stCmdInvalid 0
      else
        let held := ((t.chan w.channel).slotOfJob ctx w.job).isSome
        let window := match t.job ctx w.job with | some jb => jb.image.windowUs != 0 | none => false
        if w.urgent ∧ !(held && window) then t.complete h stJobState 0
        else match lowestFree 512 x.wells.keys, lowestFree 2048 (t.chan w.channel).wells.keys with
          | some l, some n =>
            let ring := Ring.fresh w.sqBase w.sqLog2 w.cqBase w.cqLog2 w.vector.toNat w.coalCount.toNat w.coalUs.toNat
            let y : Well := { ring := ring, fn := x.fn, ctx := ctx, loc := l, urgent := if w.urgent then some w.job else none,
                              evtLost := false, dropped := 0 }
            ((t.onChan w.channel fun k => { k with wells := k.wells.set1 n y }).onCtx ctx fun k =>
              { k with wells := k.wells.set1 l (w.channel, n) }).complete h stSuccess (l + 512 * n)
          | _, _ => t.complete h stNoResource 0

/-- A well of a context that a command names. -/
def State.wellNamed (s : State) (h : Hdr) (ctx w : Nat) : Option Ring := if s.mayName h ctx then s.ring (.well ctx w) else none

/-- WELL_DESTROY. -/
def execWellDestroy (h : Hdr) (ctx w : Nat) (s : State) : Res :=
  s.cmd h 0x04 fun t => match t.wellNamed h ctx w with
    | some _ => (t.endWell ctx w).complete h stSuccess 0
    | none => t.complete h stNotPermitted 0

/-- WELL_RESUME: a stopped well goes on from its counts. -/
def execWellResume (h : Hdr) (ctx w : Nat) (s : State) : Res :=
  s.cmd h 0x05 fun t => match t.wellNamed h ctx w with
    | some r => (t.onRing (.well ctx w) fun (x : Ring) => ({ x with state := if x.state = .stopped then .active else x.state } : Ring).go).complete h
        stSuccess r.fetched.toNat
    | none => t.complete h stNotPermitted 0

/-! ### Resets of the host path (R378, R352) -/

/-- A ring that a reset of the host path stops, with its counts kept. -/
def Ring.stop (r : Ring) : Ring := { r with state := .stopped }

/-- HOST_LINK_RESET: link-down, hot or conventional reset of the endpoint. -/
def execHostLinkReset (s : State) : Res :=
  let s1 := s.each (List.finRange 8) fun t c => t.onChan c fun h => { h with
    wells := h.wells.map fun e => (e.1, { e.2 with ring := e.2.ring.stop }) }
  onlyIf (!s.mc.inReset) s (s1.onMc fun m => { m with
    admins := m.admins.map fun e => (e.1, { Admin.reset with ring := e.2.ring.map Ring.stop }),
    host := { m.host with gen := 0, width := 0, flit := false, numVf := 0, msixOpen := [], msixPend := [] } })

/-- HOST_LINK_UP: the link trains to a rate and a width. In recovery the endpoint stays disabled (R445). -/
def execHostLinkUp (gen : BitVec 3) (width : BitVec 4) (flit refclk : Bool) (s : State) : Res :=
  onlyIf (!s.mc.inReset && s.mc.firm.started && !s.mc.firm.recovery) s (s.onMc fun m =>
    { m with host := { m.host with gen := gen, width := width, flit := flit, refclk := refclk } })

end Sys2Proof.Machine
end

