-- ==== Sys2Proof/Machine/Allocs.lean ====
section
/-!
DEFINITION. Allocations, host mappings, host descriptors, address translation and the debug aperture (R179, R185, R205, R355,
R358-R362).
-/

namespace Sys2Proof.Machine

/-- The lowest handle 1..n that a list does not hold. -/
def lowestHandle (n : Nat) (taken : List Nat) : Option Nat := ((List.range n).map (· + 1)).find? fun k => !taken.contains k

/-! ### Device virtual addresses (R358, R361) -/

def mib2 : Nat := 2097152
def gib1 : Nat := 1073741824

/-- Address ranges [first, end) that a context's allocations and mappings take, in whole 2 MiB pages. -/
def Ctx.spans (x : Ctx) : List (Nat × Nat) :=
  let page := fun (a n : Nat) => (a, (a + n + mib2 - 1) / mib2 * mib2)
  (x.allocs.map fun e => page e.2.dva (TDesc.allocBytes e.2)) ++ x.maps.map fun e => page e.2.dva e.2.size

/-- Whether a range is free. -/
def spanFree (spans : List (Nat × Nat)) (a n : Nat) : Bool :=
  decide (a + n ≤ 2 ^ 48) && spans.all fun e => decide (e.2 ≤ a) || decide ((a + n + mib2 - 1) / mib2 * mib2 ≤ e.1)

/-- The address of a new range: the one named, or for 0 the lowest free one, aligned to 1 GiB from that size up and to 2 MiB
below. -/
def Ctx.dvaFor (x : Ctx) (n want : Nat) : Option Nat :=
  let spans := x.spans
  if want ≠ 0 then (if spanFree spans want n then some want else none)
  else
    let al := if gib1 ≤ n then gib1 else mib2
    let at_ := sortUniq (0 :: spans.map fun e => (e.2 + al - 1) / al * al)
    at_.find? fun a => spanFree spans a n

/-- A device virtual address that a command may name. -/
def dvaOk (dva : Nat) : Bool := dva % mib2 == 0 && decide (dva < 2 ^ 48)

/-! ### ALLOC, MAP_HOST, FREE -/

/-- The job of a context that holds every slice of a mask at a channel. -/
def State.slicesJob (s : State) (ctx : Nat) (c : Chan) (slices : BitVec 128) : Option Nat :=
  let js := ((bitsOf slices).map fun p => if h : p < 128 then (s.chan c).slotOf ⟨p, h⟩ else none).dedup
  match js with
  | [some j] => let x := (s.slot c j).job; if x.ctx = ctx then some x.job else none
  | _ => none

/-- Whether ALLOC's operands are of the forms of R361. -/
def State.allocOk (s : State) (ctx : Nat) (a : AllocParams) : Bool :=
  decide (0 < a.size) && dvaOk a.dva &&
    (match a.kind with
     | .hbm => s.present a.channel && a.size % mib2 == 0
     | .pinned => s.present a.channel && a.size % 32 == 0 && (s.slicesJob ctx a.channel a.slices).isSome
     | .distributed => decide (0 < a.shards) && decide (a.shards ≤ 32768))

/-- An allocation with its place. -/
def allocAtBase (ch : ChanAddr) (a : AllocParams) (base job : Nat) (exported : Bool) : Alloc :=
  { kind := a.kind, pinned := (a.kind == .pinned || a.pinned), exported := exported, channel := ch, slices := a.slices,
    base := base, size := a.size, shards := a.shards, bound := [], dva := 0, job := job }

/-- The allocation that ALLOC makes, without its address; none where memory is lacking. -/
def State.allocFor (s : State) (ctx : Nat) (a : AllocParams) : Option Alloc :=
  let ch := s.addrOf a.channel
  let h := s.chan a.channel
  match a.kind with
  | .hbm =>
    if s.freeHbm a.channel * 4096 < a.size then none
    else (fitLines (h.hbmLines * 4096) a.size (s.hbmTaken ch)).map fun b => allocAtBase ch a b 0 true
  | .pinned => (fitLines (h.pinned * 32) a.size (s.pinTaken ch (bitsOf a.slices))).map fun b =>
      allocAtBase ch a b ((s.slicesJob ctx a.channel a.slices).getD 0) a.exported
  | .distributed => some (allocAtBase ch a 0 0 true)

/-- RESULT of ALLOC and MAP_HOST. -/
def allocResult (handle dva : Nat) : Nat := handle + dva / 65536 * 65536

/-- ALLOC. -/
def execAlloc (h : Hdr) (a : AllocParams) (s : State) : Res :=
  s.cmd h 0x10 fun t =>
    let ctx := hdrCtx h
    match t.mc.ctxs.look ctx with
    | none => t.complete h stCmdInvalid 0
    | some x =>
      if !t.allocOk ctx a then t.complete h stCmdInvalid 0
      else match lowestHandle 4096 (x.allocs.keys ++ x.maps.keys), t.allocFor ctx a with
        | some n, some y =>
          match x.dvaFor (TDesc.allocBytes y) a.dva with
          | some d => ((t.onCtx ctx fun k => { k with allocs := k.allocs.set1 n { y with dva := d } }).each (List.finRange 8)
              State.mapSync).complete h stSuccess (allocResult n d)
          | none => t.complete h stNoResource 0
        | _, _ => t.complete h stNoResource 0

/-- MAP_HOST. -/
def execMapHost (h : Hdr) (hva size dva : Nat) (rights : BitVec 2) (s : State) : Res :=
  s.cmd h 0x12 fun t =>
    let ctx := hdrCtx h
    match t.mc.ctxs.look ctx with
    | none => t.complete h stCmdInvalid 0
    | some x =>
      if !(decide (0 < size) && size % mib2 == 0 && dvaOk dva) then t.complete h stCmdInvalid 0
      else match lowestHandle 4096 (x.allocs.keys ++ x.maps.keys), x.dvaFor size dva with
        | some n, some d => (t.onCtx ctx fun k => { k with maps := k.maps.set1 n ⟨hva, size, d, rights⟩ }).complete h stSuccess
            (allocResult n d)
        | _, _ => t.complete h stNoResource 0

/-- Whether a job of a context names an allocation through a descriptor of its image. -/
def State.inUse (s : State) (ctx handle : Nat) : Bool := (s.jobsOf ctx).any fun e => imageNames e.2.image handle

/-- FREE. -/
def execFree (h : Hdr) (handle : Nat) (s : State) : Res :=
  s.cmd h 0x11 fun t =>
    let ctx := hdrCtx h
    match t.mc.ctxs.look ctx with
    | none => t.complete h stDescInvalid 0
    | some x =>
      if (x.allocs.look handle).isNone ∧ (x.maps.look handle).isNone then t.complete h stDescInvalid 0
      else if t.inUse ctx handle then t.complete h stDescInUse 0
      else ((t.endAlloc ctx handle).each (List.finRange 8) State.mapSync).complete h stSuccess 0

/-! ### Host descriptors (R179, R185) -/

/-- DESC_CREATE. -/
def execDescCreate (h : Hdr) (d : BitVec 512) (s : State) : Res :=
  s.cmd h 0x13 fun t =>
    let ctx := hdrCtx h
    match t.mc.ctxs.look ctx with
    | none => t.complete h stDescInvalid 0
    | some x =>
      let a := x.allocs.look (tdesc d).handle
      let room := match a with | some y => t.roomFor ⟨tdesc d, y, 0, true⟩ | none => true
      let st := (tdesc d).check a room
      if st ≠ stSuccess then t.complete h st 0
      else match lowestHandle 16384 x.descs.keys, a with
        | some n, some y => ((t.reserveView ⟨tdesc d, y, 0, true⟩ true).onCtx ctx fun k =>
            { k with descs := k.descs.set1 n d }).complete h stSuccess n
        | _, _ => t.complete h stNoResource 0

/-- DESC_DESTROY. -/
def execDescDestroy (h : Hdr) (handle : Nat) (s : State) : Res :=
  s.cmd h 0x14 fun t =>
    match (t.mc.ctxs.look (hdrCtx h)).bind (·.descs.look handle) with
    | some _ => (t.endDesc (hdrCtx h) handle).complete h stSuccess 0
    | none => t.complete h stDescInvalid 0

/-! ### Address translation (R360) -/

/-- ATS_INVALIDATION: no access of the model is still under way, so it completes. -/
def execAtsInvalidation (ctx hva size : Nat) (s : State) : Res := onlyIf s.hostUp s (s.emit (.atsDone ctx hva size))

/-- ATS_TRANSLATION_COMPLETION: a translation that fails ends a host command with HOST_XLATE, or faults the job. -/
def execAtsTranslationCompletion (ok : Bool) (j : Option (Chan × SlotIx)) (hcmd : Option Hdr) (s : State) : Res :=
  if ok then .next s
  else
    let s1 := match j with | some (c, k) => s.fault c k .access .none 0 0 | none => s
    .next (match hcmd with | some h => s1.endCmd h stHostXlate | none => s1)

/-! ### The debug aperture (R353, R355) -/

/-- The channel of this module and the local byte offset that an aperture offset reaches. -/
def State.apertureAt (s : State) (off : Nat) : Option (Chan × Nat) :=
  let a := s.mc.host.dbgBase.toNat * 2 ^ 30 + off
  match s.localChan (BitVec.ofNat 15 (a / 2 ^ 49)) with
  | some c => if s.present c && (s.chan c).validKey (a % 2 ^ 49 / 32) then some (c, a % 2 ^ 49) else none
  | none => none

/-- A byte as the aperture reads it: memory as stored; all ones where nothing is assigned. -/
def State.apertureByte (s : State) (off : Nat) : BitVec 8 :=
  match s.apertureAt off with
  | some (c, o) => gByte ((s.chan c).raw (o / 32) ^^^ ((s.chan c).upsetAt (o / 32)).setWidth 256) (o % 32)
  | none => 0xFF

/-- APERTURE_READ. -/
def execApertureRead (off bytes : Nat) (s : State) : Res :=
  onlyIf s.hostUp s (if s.mc.host.dbgOpen then s.emit (.bytes ((List.range bytes).map fun i => s.apertureByte (off + i)))
    else s.emit .unsupported)

/-- The part of an aperture write that falls into the granule at an aperture offset: mask and bytes in place. -/
def aperturePart (off : Nat) (data : List (BitVec 8)) (at_ : Nat) : BitVec 32 × Granule :=
  (List.range 32).foldl (fun (a : BitVec 32 × Granule) i =>
    match (if off ≤ at_ + i then data[at_ + i - off]? else none) with
    | some b => (a.1 ||| byteMask i 1, a.2 ||| ((b.setWidth 256 : Granule) <<< (8 * i)))
    | none => a) (0, 0)

/-- APERTURE_WRITE: at once, past the held entries of R217, granule by granule with the checks of every other write (R234, R262). -/
def execApertureWrite (off : Nat) (data : List (BitVec 8)) (s : State) : Res :=
  let grans := sortUniq ((List.range data.length).map fun i => (off + i) / 32 * 32)
  onlyIf (s.hostUp && s.mc.host.dbgOpen) s (s.each grans fun t o =>
    match t.apertureAt o with
    | some (c, a) => let x := aperturePart off data o; t.putAt c (a / 32) x.1 x.2
    | none => t)

end Sys2Proof.Machine
end

