-- ==== Sys2Proof/Machine/Arbitration.lean ====
section
/-!
DEFINITION. The port arbiters: the decision at a burst boundary, urgent hold, cut-off, freeze, overdue requests, and the
release of requests held at a master port (R271-R285).
-/

namespace Sys2Proof.Machine

/-- Port kind: 0 HBM, 1 fabric egress (Table 10.1). -/
def portKind (p : ArbPort) : Fin 2 := if p.val < 128 then 0 else 1

/-- Whether a deadline is earlier than another, by their signed difference (R274). -/
def earlier (a b : BitVec 32) : Bool := (a - b).slt 0

/-- Whether request a wins over b: overdue before the others, then the earlier deadline; ties by class, then by requester
(R274, R277). -/
def Req.beats (a b : Req) : Bool :=
  let tie := decide ((ReqClass.ix a.cls).val < (ReqClass.ix b.cls).val) ||
    (a.cls == b.cls && decide (a.requester < b.requester))
  if a.overdue != b.overdue then a.overdue
  else if a.overdue then tie
  else if a.deadline = b.deadline then tie
  else earlier a.deadline b.deadline

/-- The winner of a list of requests. -/
def bestReq : List Req → Option Req
  | [] => none
  | q :: qs => some (qs.foldl (fun w x => if x.beats w then x else w) q)

/-- Requests that can be granted at a boundary: a cut-off requester's are left out, an urgent hold or an urgent request
leaves URGENT ones only (R277, R278, R281). -/
def Arb.candidates (a : Arb) : List Req :=
  let l := a.reqs.filter fun q => !(a.cut == some q.requester && q.cls != .urgent)
  let urg := l.filter (·.cls == .urgent)
  if !a.hold.isEmpty ∨ !urg.isEmpty then urg else l

/-- Deficits after a boundary's accrual. -/
def Arb.accrue (a : Arb) (share : Vector Nat 7) (cand : List Req) : Vector Nat 7 :=
  Vector.ofFn fun i : Fin 7 =>
    if i.val ≠ 0 ∧ cand.any (fun q => ReqClass.ix q.cls == i) then min (a.d[i.val] + share[i.val]) 512 else 0

/-- The decision of R277: the request granted, if any, and the deficits after it. -/
def Arb.decision (a : Arb) (share : Vector Nat 7) : Option Req × Vector Nat 7 :=
  let cand := a.candidates
  let d := a.accrue share cand
  let owed := cand.filter fun q => q.cls != .urgent && decide (256 ≤ d[(ReqClass.ix q.cls).val])
  match bestReq (if owed.isEmpty then cand else owed) with
  | none => (none, d)
  | some g =>
    let i := ReqClass.ix g.cls
    (some g, if g.cls ≠ .urgent ∧ 256 ≤ d[i.val] then upd d i (· - 256) else d)

/-- Counts a grant in the set of its job slot, or in set 16 (R285). -/
def Regul.grant (r : Regul) (kind : Fin 2) (q : Req) : Regul :=
  let set : Fin 17 := match q.slot with | some j => ⟨j.val, by omega⟩ | none => 16
  { r with bw := upd r.bw set fun v => upd v (ReqClass.ix q.cls) fun n =>
      if kind = 0 then (sat32 n.1 1, n.2) else (n.1, sat32 n.2 1) }

/-- A cut-off (R281, R282): recorded, and with CUTOFF_FAULT the request's job faults at its next fence. -/
def State.cutOff (s : State) (c : Chan) (port : ArbPort) (q : Req) : State :=
  let s1 := s.onChan c fun h => { h with reg := { h.reg with
    cutoff := true, cutClass := (ReqClass.ix q.cls).val, cutPort := port.val,
    cutSlot := match q.slot with | some j => j.val | none => 0, cutNojob := q.slot.isNone, cutCount := sat32 h.reg.cutCount 1 } }
  match q.slot with
  | some j =>
    if (s.chan c).set.cutFault ∧ (s.slot c j).live then
      s1.onFr c j fun f => { f with cutFault := some (f.cutFault.getD port.val) }
    else s1
  | none => s1

/-- A burst boundary of a port (R277-R282): the burst in flight has ended, and the next grant is decided. -/
def execBurstBoundary (c : Chan) (port : ArbPort) (s : State) : Res :=
  let h := s.chan c
  let a := h.arbs[port.val]
  if a.freeze then
    .next (s.onChan c fun y => { y with arbs := upd y.arbs port fun x => { x with
      burst := false, drained := true, owner := none, run := 0, cut := none } })
  else
    let cutReq := a.reqs.find? fun q => a.cut == some q.requester && q.cls != .urgent
    let s1 := match cutReq with | some q => s.cutOff c port q | none => s
    let (g, d) := a.decision h.set.share[(portKind port).val]
    match g with
    | none =>
      .next (s1.onChan c fun y => { y with arbs := upd y.arbs port fun x => { x with
        d := d, burst := false, owner := none, run := 0, cut := none } })
    | some q =>
      let run := if a.owner = some q.requester then a.run + 1 else 1
      let cut := if h.set.holdMax ≠ 0 ∧ h.set.holdMax ≤ run ∧ q.cls ≠ .urgent then some q.requester else none
      .next (s1.onChan c fun y => { y with
        arbs := upd y.arbs port fun x => { x with
          reqs := x.reqs.erase q, d := d, owner := some q.requester, run := run, cut := cut, burst := true,
          hold := match q.slot with
            | some j => if q.cls = .urgent ∧ y.slots[j.val].urgent.isSome ∧ j ∉ x.hold then x.hold ++ [j] else x.hold
            | none => x.hold },
        reg := y.reg.grant (portKind port) q })

/-- The time at which a request becomes overdue: more than 2^30 ns after its deadline (R274). -/
def State.overdueNs (s : State) (q : Req) : Nat :=
  ((s.timeNs : Int) + (q.deadline - BitVec.ofNat 32 s.timeNs).toInt + 2 ^ 30 + 1).toNat

/-- A request that is still raised then has its overdue bit set. -/
def execOverdue (c : Chan) (port : ArbPort) (req : Nat) (s : State) : Res :=
  match ((s.chan c).arbs[port.val]).reqs[req]? with
  | none => .next s
  | some q => .next ((s.until (s.overdueNs q)).onChan c fun y => { y with arbs := upd y.arbs port fun x => { x with
      reqs := x.reqs.modify req fun r => { r with overdue := true } } })

/-- Nanoseconds until a bucket filled at `kib` KiB per µs holds a burst's tokens. -/
def fillTime (have_ kib : Nat) : Nat :=
  if burstCost ≤ have_ ∨ kib = 0 then 0 else (burstCost - have_ + kib * 1024 - 1) / (kib * 1024)

/-- Nanoseconds until a held request finds its tokens. -/
def State.tokenTime (s : State) (c : Chan) (q : Req) : Nat :=
  let h := s.chan c
  let i := ReqClass.ix q.cls
  let t1 := fillTime (refill h.reg.bucket[i.val] s.timeNs h.set.ceil[i.val]) h.set.ceil[i.val]
  let t2 := match s.trickled c q with
    | some j =>
      let kib := 4 * (s.slot c j).regs.set.trickle
      fillTime (refill h.reg.trickle[j.val] s.timeNs kib) kib
    | none => 0
  max t1 t2

/-- The first request of a class and job that a master port holds is released when its bucket has refilled (R283,
R284). -/
def execMasterPortRelease (c : Chan) (cls : ReqClass) (j : SlotIx) (s : State) : Res :=
  match (s.chan c).reg.held.find? fun (e : ArbPort × Req) => e.2.cls == cls && (e.2.slot == some j || e.2.slot.isNone) with
  | none => .next s
  | some e =>
    let s1 := s.until (s.timeNs + s.tokenTime c e.2)
    match ((s.chan c).reg.held.takeWhile (· != e)).any (s.behind c e.2), s1.takeTokens c e.2 with
    | true, _ => .next s
    | false, none => .next s1
    | false, some r => .next ((s1.onChan c fun h => { h with reg := { r with held := r.held.erase e } }).raiseAt c e.1 e.2)

/-! ### Freeze (R280) -/

/-- FREEZE of one port: an idle port is drained at once, a thawed one is not. -/
def Arb.setFreeze (a : Arb) (on : Bool) : Arb := { a with freeze := on, drained := on && (a.drained || !a.burst) }

/-- A write of the low word of ARB_FREEZE_HBM[s]. What waited for a port that is frozen no more goes on. -/
def execArbFreezeHbm (c : Chan) (st : StackIx) (v : BitVec 32) (s : State) : Res :=
  .next (s.blockWrite c fun t => (t.each (List.finRange 32) fun u i => u.onChan c fun h => { h with
    arbs := upd h.arbs ⟨32 * st.val + i.val, by omega⟩ fun a => a.setFreeze (v.getLsbD i.val) }).serveStalled c)

/-- A write of ARB_FREEZE_LNK. -/
def execArbFreezeLnk (c : Chan) (v : BitVec 32) (s : State) : Res :=
  .next (s.blockWrite c fun t => (t.each (List.finRange 12) fun u p => u.onChan c fun h => { h with
    arbs := upd h.arbs (egress p) fun a => a.setFreeze (v.getLsbD p.val) }).each (List.finRange 12) fun u p =>
      u.flush c p (u.port c p).waiting.length)

end Sys2Proof.Machine
end

