-- ==== Sys2Proof/Machine/Copies.lean ====
section
/-!
DEFINITION. The host's COPY commands (R137, R184-R186, R194-R197, R209, R226, R332, R368, R369), and the arrival of host data at a
home (R24, R56, R217, R242).
-/

namespace Sys2Proof.Machine

/-! ### Sides and checks (R177, R183-R186, R192, R368) -/

/-- A side of a host copy as its operands name it: a view with its window, or a host buffer. -/
inductive HostSide where
  | view (w : View) (win : Window)
  | buf (addr len : Nat) (bytes : List (BitVec 8))
deriving DecidableEq, Repr

/-- Resolves a side; none where the handle names nothing, or the window breaks R186 or R207. A shard-local view of a distributed
allocation has no shard when the host uses it (R192). -/
def State.hostSide (s : State) (ctx : Nat) (x : CopySide) (win : Option Window) : Option HostSide :=
  match x with
  | .host a n bs => some (.buf a n bs)
  | .desc hd =>
    match s.mc.ctxs.look ctx with
    | none => none
    | some k =>
      match k.descs.look hd with
      | none => none
      | some d =>
        match k.allocs.look (tdesc d).handle with
        | none => none
        | some a =>
          let t := tdesc d
          if a.kind = .distributed ∧ !t.dist then none
          else match win with
            | some w => if t.windowOk w 0 then some (.view ⟨t, a, 0, true⟩ (w.take t.rank)) else none
            | none => some (.view ⟨t, a, 0, true⟩ t.whole)

/-- Whether a host buffer's length lies between the packed byte count and that count in whole granules. -/
def lenOk (packed n : Nat) : Bool := decide (packed ≤ n) && decide (n ≤ (packed + 31) / 32 * 32)

/-- SUBOPs of COPY. -/
inductive CopyOp where
  | copy | tcopy | combine | readout | dead
deriving DecidableEq, Repr

/-- The pairing's status. -/
def pairStatus (op : CopyOp) (k : CopyParams) : Option HostSide → HostSide → Nat
  | some (.view w win), .view v vin =>
    match op with
    | .copy => pairCopy w.d win v.d vin
    | .tcopy => pairTranspose w.d k.srcWin v.d k.dstWin
    | .combine => pairCombine w.d win v.d vin
    | .readout => pairReadout w.d win v.d vin k.roFmt
    | .dead => stDescInvalid
  | some (.buf _ n _), .view v vin => if op = .copy ∧ v.d.canWrite ∧ lenOk (v.d.packedLen vin) n then stSuccess else stDescInvalid
  | some (.view w win), .buf _ n _ =>
    match op with
    | .copy => if w.d.canRead ∧ lenOk (w.d.packedLen win) n then stSuccess else stDescInvalid
    | .readout => if w.d.canRead ∧ w.d.isLedger ∧ lenOk (windowSize win * roBytes k.roFmt) n then stSuccess else stDescInvalid
    | _ => stDescInvalid
  | none, .view v _ => if op = .dead ∧ v.d.canWrite then stSuccess else stDescInvalid
  | _, .buf .. => stDescInvalid

/-- The admitted job of a context whose descriptors name an allocation. -/
def State.jobNaming (s : State) (ctx : Nat) (a : Alloc) : Option (Nat × Job) :=
  match s.mc.ctxs.look ctx with
  | none => none
  | some x =>
    match x.allocs.find? fun e => e.2 == a with
    | none => none
    | some (hd, _) => ((s.jobsOf ctx).find? fun e => e.2.admitted && imageNames e.2.image hd).map fun e => ((unKey e.1).2, e.2)

/-- Whether the tick of a frame has taken effect for a job, so far as this module's members show; a restart's frame has (R397). -/
def State.tickTaken (s : State) (ctx job frame : Nat) : Bool :=
  (s.localSlots ctx job).any fun e =>
    let x := s.slot e.1 e.2
    if x.job.state = .admitting then decide (frame < x.regs.frame) else decide (frame ≤ x.regs.frame)

/-- What a bound input needs (R56, R369): the status, and the job and frame where it holds. -/
def State.boundStatus (s : State) (ctx : Nat) (owner : Option (Nat × Job)) (b : Option (Nat × Nat × Nat)) : Nat :=
  match owner, b with
  | none, none => stSuccess
  | none, some _ => stDescInvalid
  | some _, none => stDescInvalid
  | some (job, jb), some (named, n, f) =>
    if (s.job ctx named).isNone then stJobState
    else if named ≠ job then stDescInvalid
    else if !(jb.image.inputs.any fun d => d.number == n && d.period != 0 && f % d.period == d.phase) then stDescInvalid
    else if s.tickTaken ctx job f then stJobState
    else stSuccess

/-- Channels of this module that a view's allocation lies on. -/
def State.viewChans (s : State) (x : HostSide) : List Chan :=
  match x with
  | .view w _ => (w.a.parts.filterMap fun q => s.localChan q.1).dedup
  | .buf .. => []

/-- Every check of a copy, in order: handles and windows, pairing, the bound input, whether its memory reaches anything, the
channels' resets. -/
def State.copyStatus (s : State) (ctx : Nat) (op : CopyOp) (k : CopyParams) (src : Option HostSide) (dst : HostSide) : Nat :=
  let p := pairStatus op k src dst
  let owner := match dst with | .view w _ => s.jobNaming ctx w.a | .buf .. => none
  let b := s.boundStatus ctx owner k.bound
  let sides := src.toList ++ [dst]
  let nowhere := sides.any fun x => match x with | .view w _ => w.a.parts.isEmpty | .buf .. => false
  let homeless := match owner with
    | some (job, _) => (s.viewChans dst).any fun c => ((s.chan c).slotOfJob ctx job).isNone
    | none => false
  if p ≠ stSuccess then p
  else if b ≠ stSuccess then b
  else if op = .combine ∧ owner.isNone then stDescInvalid
  else if nowhere then stContextFault
  else if homeless then stDescInvalid
  else if sides.any fun x => (s.viewChans x).any fun c => (s.chan c).inReset then stTargetReset
  else stSuccess

/-! ### Reading and writing for the host -/

/-- What the host reads of a granule: its value as of the latest tick (R215, R369). Memory of another module is not seen here. -/
def hostRead : Reader := fun s ch k =>
  match s.localChan ch with
  | some c => s.readShared c none k
  | none => ({ s with freeCtr := s.freeCtr + 1 }, Config.remoteGranule s.freeCtr)

/-- Host writer key (R217). -/
def hostKey : BitVec 23 := 0x7FFFFF

/-- A home holds bytes of an input's part: complete once the declared bytes are there (R56). A home that is no member then sends its
notice to the tick master. -/
def State.inputGot (s : State) (c : Chan) (j : SlotIx) (input frame bytes : Nat) : State :=
  let x := s.slot c j
  match s.job x.job.ctx x.job.job with
  | none => s
  | some jb =>
    let want := ((jb.image.inputs.filter fun d => d.number == input).flatMap fun d =>
      (d.homes.filter fun e => e.1 == s.addrOf c).map (·.2)).sum
    let old := x.inputs.find? fun i => i.number == input && i.frame == frame
    let got := (match old with | some i => i.got | none => 0) + bytes
    let new : BoundInput := ⟨input, frame, got, decide (want ≤ got)⟩
    let s1 := s.onSlot c j fun y => { y with
      inputs := (y.inputs.filter fun i => !(i.number == input && i.frame == frame)) ++ [new] }
    let here := boundAt jb.image (s.addrOf c) frame
    let done := here.all fun n => (s1.slot c j).inputs.any fun i => i.number == n && i.frame == frame && i.complete
    let s1 := if done ∧ frame = x.nextFrame then s1.onFr c j fun f => { f with inputNs := s.timeNs } else s1
    if x.job.polders = 0 ∧ done then
      match s.localChan x.job.master, jb.slots.find? fun e => e.1 == x.job.master with
      | some d, some (_, i) => s1.inputNotice d i (s.addrOf c) frame
      | _, some (_, i) => s1.sendMgmt c x.job.master (.inputComplete i frame)
      | _, none => s1
    else s1

/-- Records of the written bytes, by home. -/
def writeRecs (m : Bytes) : List (ChanAddr × Nat × WriteRec) :=
  m.map fun e => let (ch, k) := fabKey e.1; (ch, k, ⟨keyOff k, e.2.1, e.2.2, hostKey⟩)

/-- Sends what goes to homes on other modules, from the channel of the command's well over a route set (R318). -/
def State.sendAway (s : State) (h : Hdr) (rset : BitVec 2) (bytes : Nat) (rs : List (ChanAddr × Nat × WriteRec)) : State :=
  let away := rs.filter fun e => (s.localChan e.1).isNone
  s.each (away.map (·.1)).dedup fun t d =>
    t.hostSend h rset d ((away.filter fun e => e.1 == d).map fun e => .write d [e.2.2]) bytes

/-- Host data of no job: at once. -/
def State.writeFree (s : State) (h : Hdr) (bytes : Nat) (m : Bytes) : State :=
  let rs := writeRecs m
  ((s.hostBursts (rs.map fun e => (e.1, e.2.1))).each rs fun t e => match t.localChan e.1 with
    | some c => t.putNow c e.2.1 e.2.2.mask e.2.2.data
    | none => t).sendAway h 0 bytes rs

/-- Data of a bound input that the module itself holds: held at its homes with the key of R217. -/
def State.writeBound (s : State) (h : Hdr) (ctx job input frame : Nat) (rset : BitVec 2) (bytes : Nat) (m : Bytes) : State :=
  let rs := writeRecs m
  (s.each rs fun t e => match t.localChan e.1 with
    | none => t
    | some c => match (t.chan c).slotOfJob ctx job with
      | some j => (t.hold c j (prevFrame frame) e.2.2).inputGot c j input frame (maskBytes e.2.2.mask)
      | none => t).sendAway h rset bytes rs

/-- Counts elements dropped out of bounds, for the job that they were meant for. -/
def State.hostDropped (s : State) (ctx : Nat) (job : Option Nat) (n : Nat) : State :=
  match job.bind fun j => (s.localSlots ctx j).head? with
  | some (c, j) => s.dropOob c j n
  | none => s

/-- Writes a set of bytes for the host and completes the command, or leaves it until its host data are held at every home. -/
def State.copyWrite (s : State) (h : Hdr) (ctx : Nat) (owner : Option (Nat × Job)) (b : Option (Nat × Nat × Nat)) (fromHost : Bool)
    (ws : WriteSet) : State :=
  let n := (ws.bytes.map fun e => maskBytes e.2.1).sum
  match owner, b with
  | some (job, jb), some (_, input, frame) =>
    let s1 := s.hostDropped ctx (some job) ws.dropped
    if fromHost then
      let rs := writeRecs ws.bytes
      let left := (rs.filter fun e => (s.localChan e.1).isSome).map fun e => (e.1, e.2.1)
      let s2 := s1.sendAway h jb.rset n rs
      if left.isEmpty then s2.hostDone h n
      else s2.onJob ctx job fun y => { y with copies := y.copies ++ [⟨h, input, frame, left, n⟩] }
    else (s1.writeBound h ctx job input frame jb.rset n ws.bytes).hostDone h n
  | _, _ => (s.writeFree h n ws.bytes).hostDone h n

/-- Bytes for a host buffer: the packed bytes, then zeros to its length. -/
def State.giveHost (s : State) (h : Hdr) (addr len : Nat) (bs : List (BitVec 8)) : State :=
  (s.emit (.hostWrite (s.ringFn h.ring) addr ((bs ++ List.replicate (len - bs.length) 0).take len))).complete h stSuccess len

/-! ### Combines and dead declarations -/

/-- Ledgers of a host COMBINE enter their inbound granules as a combine of frame f - 1 (R369). -/
def State.hostCombine (s : State) (h : Hdr) (ctx job input frame : Nat) (rset : BitVec 2) (src : View) (sw : Window) (dst : View) (dw : Window) : State × Nat :=
  let (s1, vs) := src.readScalars hostRead s sw
  ((windowIxs (counts dw)).zip vs).foldl (fun (acc : State × Nat) e =>
    match (dst.d.spot dst.v true (ixAt dw e.1)).bind fun sp => dst.where_ sp 0 with
    | none => (acc.1.hostDropped ctx (some job) 1, acc.2)
    | some (ch, off) =>
      match acc.1.localChan ch, keySlice (off / 32) with
      | some c, some (p, g) =>
        match (acc.1.chan c).slotOfJob ctx job with
        | some j => ((acc.1.combineAt c p g (prevFrame frame) (BitVec.ofNat 256 e.2)).inputGot c j input frame 32, acc.2 + 32)
        | none => acc
      | some _, none => acc
      | none, _ => (acc.1.hostSend h rset ch [.combine ch (keyOff (off / 32)) [BitVec.ofNat 256 e.2]] (32 * vs.length), acc.2 + 32)) (s1, 0)

/-- Blocks that a host DEAD covers: at the tick of its bound input, or filled at once where they belong to no job (R226). -/
def State.hostDead (s : State) (ctx : Nat) (owner : Option (Nat × Job)) (b : Option (Nat × Nat × Nat)) (w : View) (win : Window) :
    State × Nat :=
  (deadBlocks (w.covered win)).foldl (fun (acc : State × Nat) e =>
    match acc.1.localChan e.1, owner, b with
    | some c, some (job, _), some (_, input, frame) =>
      match (acc.1.chan c).slotOfJob ctx job with
      | some j => ((acc.1.onChan c fun h => { h with
          decls := h.decls ++ [⟨j, prevFrame frame, keyOff e.2.1, 1, w.d.fillGran, e.2.2⟩] }).inputGot c j input frame 4096, acc.2 + 4096)
      | none => acc
    | some c, _, _ =>
      let fill : DeadRange := ⟨0, e.2.1 / 128, 1, w.d.fillGran, e.2.2⟩
      ((List.range 128).foldl (fun (t : State) i => t.putNow c (e.2.1 + i) 0xFFFFFFFF (fill.at_ (e.2.1 + i))) acc.1, acc.2 + 4096)
    | none, _, _ => (acc.1.emit (.dead e.1 (keyOff e.2.1) w.d.fillGran), acc.2 + 4096)) (s, 0)

/-! ### The commands -/

/-- What a checked copy does. -/
def State.runCopy (s : State) (h : Hdr) (ctx : Nat) (op : CopyOp) (k : CopyParams) (src : Option HostSide) (dst : HostSide) : State :=
  let owner := match dst with | .view w _ => s.jobNaming ctx w.a | .buf .. => none
  let sr : Option Nat := if k.sr then some (match k.bound with | some (_, _, f) => f | none => Config.copyFrame s.freeCtr) else none
  let s0 : State := if k.sr && k.bound.isNone then { s with freeCtr := s.freeCtr + 1 } else s
  let s0 := match src with
    | some (.view w win) => s0.hostBursts ((Side.desc w win).reads 0)
    | _ => s0
  let put := fun (fromHost : Bool) (r : State × WriteSet) => r.1.copyWrite h ctx owner k.bound fromHost r.2
  match op, src, dst with
  | .copy, some (.buf _ _ bs), .view v vin => put true (s0, v.unpack vin bs)
  | .copy, some (.view w win), .view v vin => put false (copyViews hostRead s0 w win v vin sr)
  | .copy, some (.view w win), .buf a n _ => let (s1, bs) := w.pack hostRead s0 win; s1.giveHost h a n bs
  | .tcopy, some (.view w win), .view v vin => put false (transposeViews hostRead s0 w win v vin sr)
  | .combine, some (.view w win), .view v vin =>
    match owner, k.bound with
    | some (job, jb), some (_, input, frame) =>
      let (s1, n) := s0.hostCombine h ctx job input frame jb.rset w win v vin
      s1.hostDone h n
    | _, _ => s0.complete h stDescInvalid 0
  | .readout, some (.view w win), .view v vin => put false (readoutViews hostRead s0 w win v vin k.roFmt)
  | .readout, some (.view w win), .buf a n _ => let (s1, bs) := w.packReadout hostRead s0 win k.roFmt; s1.giveHost h a n bs
  | .dead, _, .view v vin => let (s1, n) := s0.hostDead ctx owner k.bound v vin; s1.hostDone h n
  | _, _, _ => s0.complete h stDescInvalid 0

/-- COPY with a SUBOP. -/
def State.hostCopy (s : State) (h : Hdr) (op : CopyOp) (k : CopyParams) : Res :=
  s.cmd h 0x20 fun t =>
    let ctx := hdrCtx h
    let src := if op = .dead then some none else (t.hostSide ctx k.src k.srcWin).map some
    match src, t.hostSide ctx k.dst k.dstWin with
    | some a, some b =>
      let st := t.copyStatus ctx op k a b
      if st = stSuccess then t.runCopy h ctx op k a b else t.complete h st 0
    | _, _ => t.complete h stDescInvalid 0

/-- COPY. -/
def execCopy (h : Hdr) (k : CopyParams) (s : State) : Res := s.hostCopy h .copy k

/-- COPY_TCOPY. -/
def execCopyTcopy (h : Hdr) (k : CopyParams) (s : State) : Res := s.hostCopy h .tcopy k

/-- COPY_COMBINE. -/
def execCopyCombine (h : Hdr) (k : CopyParams) (s : State) : Res := s.hostCopy h .combine k

/-- COPY_READOUT. -/
def execCopyReadout (h : Hdr) (k : CopyParams) (s : State) : Res := s.hostCopy h .readout k

/-- COPY_DEAD. -/
def execCopyDead (h : Hdr) (k : CopyParams) (s : State) : Res := s.hostCopy h .dead k

/-! ### Host data at a home -/

/-- Granules that have come at a channel leave the oldest copies that wait for them. -/
def takeLeft (a : ChanAddr) : List Nat → List HostCopy → List HostCopy
  | _, [] => []
  | ks, x :: xs =>
    let mine := ks.filter fun k => x.left.contains (a, k)
    { x with left := x.left.filter fun e => !(e.1 == a && mine.contains e.2) } :: takeLeft a (ks.filter fun k => !mine.contains k) xs

/-- HOST_DATA_RECEIPT: records of a bound input arrive at a home, are encoded, and held for its tick; copies whose data are all
held complete. An urgent well's traffic goes first (R286). -/
def execHostDataReceipt (c : Chan) (j : SlotIx) (input : Nat) (frame : Nat) (recs : List WriteRec) (s : State) : Res :=
  let x := s.slot c j
  match s.job x.job.ctx x.job.job with
  | none => .next s
  | some jb =>
    if !x.live ∨ s.mc.inReset ∨ s.urgentFirst ∨ s.tickTaken x.job.ctx x.job.job frame then .next s
    else
      let s1 := s.each recs fun t r => (t.hold c j (prevFrame frame) { r with key := hostKey }).inputGot c j input frame (maskBytes r.mask)
      let mine := jb.copies.filter fun k => k.input == input && k.frame == frame
      let rest := jb.copies.filter fun k => !(k.input == input && k.frame == frame)
      let now := takeLeft (s.addrOf c) (recs.map fun r => offKey r.off) mine
      let s2 := s1.onJob x.job.ctx x.job.job fun y => { y with copies := rest ++ now.filter fun k => !k.left.isEmpty }
      .next ((now.filter fun k => k.left.isEmpty).foldl (fun (t : State) k => t.hostDone k.hdr k.bytes) s2)

end Sys2Proof.Machine
end

