-- ==== Sys2Proof/Machine/Keys.lean ====
section
/-!
DEFINITION. Root keys and key chains (R442-R444, R461, Table 16.4).
-/

namespace Sys2Proof.Machine

/-- n bytes, the most significant first, as digests and keys are written (R442). -/
def bigBytes (n v : Nat) : List (BitVec 8) := (leBytes n v).reverse

/-- Bytes 0x00-0x5F of a key record. -/
def keyBytes (k : KeyRecord) : List (BitVec 8) :=
  bigBytes 64 k.key.toNat ++ leBytes 4 k.perm.toNat ++ leBytes 4 0 ++ leBytes 8 k.scope.toNat ++ leBytes 16 0

/-- SM3 of a record's key, which a root key hash names. -/
def keyHash (k : KeyRecord) : BitVec 256 := Config.sm3 (bigBytes 64 k.key.toNat)

/-- The signer identity of every signature but the identity key's: ASCII "BRIXFEL-LEMXIS01" (R443). -/
def signerId : List (BitVec 8) :=
  [0x42, 0x52, 0x49, 0x58, 0x46, 0x45, 0x4C, 0x2D, 0x4C, 0x45, 0x4D, 0x58, 0x49, 0x53, 0x30, 0x31]

/-- The identity key's signer identity: the module serial as 16 upper-case hexadecimal digits (R443). -/
def moduleSigner (serial : BitVec 64) : List (BitVec 8) :=
  (List.range 16).map fun i =>
    let d := serial.toNat / 16 ^ (15 - i) % 16
    BitVec.ofNat 8 (if d < 10 then 0x30 + d else 0x37 + d)

/-- Whether each record is signed by the one before it. -/
def chainSigned : KeyRecord → List KeyRecord → Bool
  | _, [] => true
  | k, r :: rest => Config.sm2Verify signerId k.key (keyBytes r) r.sig && chainSigned r rest

/-- Whether a chain of 1 to 3 records leads from one of some root hashes to a key with a PERM bit (or any key), on this module, and that key
has signed a message (R444). -/
def State.keysOk (s : State) (roots : List (BitVec 256)) (perm : Option Nat) (a : KeyAuth) (message : List (BitVec 8)) : Bool :=
  match a.chain with
  | [] => false
  | r :: rest =>
    decide (rest.length ≤ 2) && roots.contains (keyHash r) && chainSigned r rest &&
      (a.chain.all fun k => (match perm with | some n => k.perm.getLsbD n | none => true) && k.resvZero && (k.scope == 0 || k.scope == s.mc.fuses.serial)) &&
      Config.sm2Verify signerId ((rest.getLast?.getD r).key) message a.sig

/-- The root key hashes whose revoke bit is clear (Table 16.1). -/
def Fuses.roots (f : Fuses) : List (BitVec 256) :=
  (if f.revoke.getLsbD 0 then [] else [f.root0]) ++ (if f.revoke.getLsbD 1 then [] else f.root1.toList)

end Sys2Proof.Machine
end

