-- ==== Sys2Proof/Machine/Loading.lean ====
section
/-!
DEFINITION. LOAD_IMAGE and START (R54, R55, R168, R171, R179, R326, R371, R372, R461).
-/

namespace Sys2Proof.Machine

/-! ### Checks of a job image (R371) -/

/-- Check 1: the format, the digest, and with a policy installed the signature over the digest (R461). -/
def State.imageSigned (s : State) (im : JobImage) : Bool :=
  im.wellFormed && im.digest == Config.sm3 im.bytes &&
    (match s.mc.firm.jobRoot with
     | none => true
     | some r => s.keysOk [r] (some 3) im.auth (bigBytes 32 im.digest.toNat))

/-- The granules of a ledger-reduce target in one virtual channel's slices, for an allocation that nothing binds yet: its shard
stands alone in the slices that the virtual channel will hold. -/
def unboundGranules (d : TDesc) (a : Alloc) (v polders : Nat) : List (Nat × Nat) :=
  let ps := (List.finRange 128).take (8 * polders)
  (View.granules ⟨d, { a with bound := [(v, 0, 0, ps)] }, v, false⟩).map fun e => (d.handle, e.2)

/-- Check 8 of Table 7.4 for a descriptor of an image, the earlier ones given: against the held share of the slices it covers, or
against the one that the image declares (R205, R225). -/
def State.imageRoom (s : State) (x : Ctx) (im : JobImage) (earlier : List TDesc) (d : TDesc) : Bool :=
  match x.allocs.look d.handle with
  | none => true
  | some a =>
    if a.kind ≠ .distributed then
      s.roomForAll ((d :: earlier).flatMap fun k => match x.allocs.look k.handle with
        | some b => if b.kind = .pinned then View.granules ⟨k, b, 0, false⟩ else []
        | none => []).dedup
    else im.vchans.zipIdx.all fun e =>
      let gs := ((d :: earlier).flatMap fun k => match x.allocs.look k.handle with
        | some b => if b.kind = .distributed ∧ e.2 < b.shards then unboundGranules k b e.2 e.1.polders else []
        | none => []).dedup
      (List.finRange 128).all fun p => decide ((gs.filter fun g => match keySlice g.2 with
        | some (q, _) => q == p
        | none => false).length ≤ 8192 * e.1.heldUnits)

/-- Check 4: the image's descriptors in ascending handle order, with the codes of Table 7.4. -/
def State.imageDescs (s : State) (x : Ctx) (im : JobImage) : Nat :=
  let ds := im.descs.sortWith fun a b => a.1 ≤ b.1
  (ds.foldl (fun (acc : Nat × List TDesc) e =>
    if acc.1 ≠ stSuccess then acc
    else
      let d := tdesc e.2
      if e.1 = 0 ∨ 65536 < e.1 then (stDescInvalid, acc.2)
      else match d.check (x.allocs.look d.handle) (s.imageRoom x im acc.2 d) with
        | 0 => (stSuccess, if d.kind = 2 then acc.2 ++ [d] else acc.2)
        | c => (c, acc.2)) (stSuccess, [])).1

/-- Whether the source and the destination of a reduction pair (R184, R326): a ledger with the same E, or FP32, BF16 or FP16,
into a ledger-reduce target of the same shape, for REDUCE_SCATTER the block of one member. -/
def pairsUp (kind : CollKind) (count : Nat) (src dst : TDesc) : Bool :=
  let fmtOk := if src.isLedger then src.lexp == dst.lexp
    else src.kind == 0 && (match src.format with | .fp32 | .bf16 | .fp16 => true | _ => false)
  let outer := src.rank - 1
  dst.kind == 2 && fmtOk && src.rank == dst.rank &&
    (List.range src.rank).all fun i =>
      src.extent i == (if kind = .reduceScatter ∧ i = outer then count * dst.extent i else dst.extent i)

/-- Check 5: the pairings of the image's reductions: the source of every member with every destination (R184, R326). -/
def imagePairs (im : JobImage) : Bool :=
  im.colls.all fun e =>
    let reduces : Bool := match e.kind with | .reduce | .reduceScatter | .allreduce => true | _ => false
    let side := fun (h : Nat) => (im.descs.find? fun d => d.1 == h).map fun d => tdesc d.2
    let into := fun (x : CollEntry) => x.index == e.index && decide (e.first ≤ x.vch) && decide (x.vch < e.first + e.count) &&
      (decide (e.kind ≠ .reduce) || x.vch == e.first + e.root)
    !reduces || (im.colls.any into && (im.colls.filter into).all fun x =>
      (match side e.src, side x.dst with
       | some a, some b => pairsUp e.kind e.count a b
       | _, _ => false))

/-- The first failing code of R371. -/
def State.imageStatus (s : State) (x : Ctx) (im : JobImage) : Nat :=
  if !s.imageSigned im then stDescInvalid
  else if im.cset ≠ s.mc.firm.cset then stVersionMismatch
  else if im.strict ∧ im.relaxedOps then stRelaxedInStrict
  else if s.imageDescs x im ≠ stSuccess then s.imageDescs x im
  else if !imagePairs im then stLedgerMismatch
  else stSuccess

/-- LOAD_IMAGE. A failed load creates nothing. -/
def execLoadImage (h : Hdr) (im : JobImage) (s : State) : Res :=
  s.cmd h 0x21 fun t =>
    match t.mc.ctxs.look (hdrCtx h) with
    | none => t.complete h stCmdInvalid 0
    | some x =>
      let st := t.imageStatus x im
      if st ≠ stSuccess then t.complete h st 0
      else match lowestHandle 64 x.images.keys with
        | some n => (t.onCtx (hdrCtx h) fun k => { k with images := k.images.set1 n im }).complete h stSuccess n
        | none => t.complete h stNoResource 0

/-! ### START (R372) -/

/-- A job as START makes it, before its placement. -/
def Job.fresh (im : JobImage) (h : Hdr) (well : Nat) (lead : ChanAddr) (pol : BitVec 256) : Job :=
  { image := im, start := h, well := well, admitted := false, place := [], slots := [],
    lead := lead, policy := pol, ckptCmds := [], stopCmd := none, commitCmd := none, checkCmds := [], copies := [],
    forced := none, halts := 0, haltFrame := 0, haltCause := 0, halted := false, ckpts := [], restore := none, depth := 0,
    trees := [], widths := [], rset := 0, routes := [], claim := ⟨0, 0⟩, oldClaim := none, ckptNext := [], flow := false }

/-- START: placement begins; the command completes when the job is admitted or placement fails. Gnover places one job at a
time. -/
def execStart (h : Hdr) (image : Nat) (pol : BitVec 256) (s : State) : Res :=
  if s.mc.fab.placing.isSome then .next s
  else s.cmd h 0x22 fun t =>
    let ctx := hdrCtx h
    match t.mc.ctxs.look ctx, h.ring with
    | some x, .well _ loc =>
      match x.images.look image, x.wells.look loc with
      | some im, some _ =>
        if !(policy pol).clean then t.complete h stDescInvalid 0
        else match lowestHandle 64 ((t.jobsOf ctx).map fun e => (unKey e.1).2) with
          | some n =>
            (t.onMc fun m => { m with jobs := m.jobs.set1 (jobKey ctx n) (Job.fresh im h loc (t.addrOf t.spoke) pol) }).startPlacing
              ctx n false
          | none => t.complete h stNoResource 0
      | _, _ => t.complete h stDescInvalid 0
    | _, _ => t.complete h stCmdInvalid 0

end Sys2Proof.Machine
end

