-- ==== Sys2Proof/Machine/Modes.lean ====
section
/-!
DEFINITION. Operating modes, the power budget, and the reset of Gnover (R18-R26).
-/

namespace Sys2Proof.Machine

/-- Whether a mode is Efficient. -/
def isEff (mode : BitVec 2) : Bool := mode == 2

/-- Whether a channel has completed the move to a mode. -/
def Power.atMode (p : Power) (mode : BitVec 2) : Bool := p.move == .settled && p.clk15 == isEff mode

/-- Whether any present channel is still moving. -/
def State.moving (s : State) : Bool := (List.finRange 8).any fun c => s.present c && !(s.chan c).pwr.atMode s.mc.pwr.mode

/-- PENDING and CUR_MODE follow the channels (R20, R22). Between Peak and Sustained CUR_MODE changes at the next budget
computation (R21). -/
def State.modeNote (s : State) : State :=
  let m := s.mc.pwr
  let busy := s.moving
  s.onMc fun g => { g with pwr := { m with
    pending := busy, curMode := if !busy && (isEff m.mode || isEff m.curMode) then m.mode else m.curMode } }

/-- A write of MC_OP_MODE (R20-R22): MODE_ERR is cleared by a one, and set again by 0b11. -/
def execMcOpModeWrite (v : BitVec 32) (s : State) : Res :=
  if s.mc.inReset then .next s
  else
    let bad := v.extractLsb' 0 2 == 3
    .next (s.onMc fun m => { m with pwr := { m.pwr with
      modeErr := w1c m.pwr.modeErr (v.getLsbD 7) || bad, mode := if bad then m.pwr.mode else v.extractLsb' 0 2 } }).modeNote

/-- Sets MODE_ERR. -/
def State.modeErr (s : State) : State := s.onMc fun m => { m with pwr := { m.pwr with modeErr := true } }

/-- Into Efficient mode: the clock first, then the set-point (Table 1.7). -/
def State.intoEff (s : State) (c : Chan) : State :=
  (s.onPwr c fun p => { p with clk15 := true, move := .intoEff }).setVpump c 620

/-- Out of Efficient mode: the set-point first. A channel with fewer than 18 phases treats the attempt as unconfirmed
(R426). -/
def State.outOfEff (s : State) (c : Chan) : State :=
  if (s.chan c).pwr.phases < 18 then (s.onPwr c fun p => { p with move := .unconfirmed }).modeErr
  else (s.onPwr c fun p => { p with move := .outEff }).setVpump c 720

/-- A channel sequencer receives the mode (R21, R22): it moves from wherever it stands. -/
def execModeChangeReceipt (c : Chan) (s : State) : Res :=
  let p := (s.chan c).pwr
  let eff := isEff s.mc.pwr.mode
  let t :=
    if !s.present c then s
    else if eff then (if p.clk15 ∧ (p.move = .settled ∨ p.move = .intoEff) then s else s.intoEff c)
    else if p.clk15 then s.outOfEff c
    else s
  .next t.modeNote

/-- The rail has settled after a move into Efficient mode. -/
def execRailSettled (c : Chan) (s : State) : Res :=
  if (s.chan c).pwr.move = .intoEff then .next (s.onPwr c fun p => { p with move := .settled }).modeNote else .next s

/-- The droop minimum confirms the new voltage with guard: the clock switches to 2.0 GHz. -/
def execVoltageConfirmed (c : Chan) (s : State) : Res :=
  let p := (s.chan c).pwr
  if p.move = .outEff ∧ p.guardOk then
    .next (s.onPwr c fun p => { p with clk15 := false, move := .settled }).modeNote
  else .next s

/-- The voltage is not confirmed within 100 µs: 1.5 GHz stays and MODE_ERR is set (R22). -/
def execVoltageConfirmTimeout (c : Chan) (s : State) : Res :=
  if (s.chan c).pwr.move = .outEff then .next (s.onPwr c fun p => { p with move := .unconfirmed }).modeErr.modeNote
  else .next s

/-- A stuck channel tries again while MODE requests a 2.0 GHz mode (R22). -/
def execModeRetry (c : Chan) (s : State) : Res :=
  if (s.chan c).pwr.move = .unconfirmed ∧ !isEff s.mc.pwr.mode then .next (s.outOfEff c).modeNote else .next s

/-! ### The budget (R19) -/

/-- Input limit of a mode in W (Table 1.6). -/
def modeLimit (mode : BitVec 2) : Nat := if mode = 1 then 6000 else 5400

/-- The module budget: limit x 0.92 - 40 W. -/
def moduleBudget (mode : BitVec 2) : Nat := modeLimit mode * 92 / 100 - 40

/-- Whether a channel was held at its grant: its budget pause was up, or it drew its grant (log entry 28). -/
def State.heldAtGrant (s : State) (c : Chan) : Bool :=
  let p := (s.chan c).pwr
  let g := s.mc.pwr.grant[c.val]
  decide (0 < p.budget) || (decide (g ≠ 0) && decide (g ≤ p.avgW))

/-- The budget computation of a 100 µs window (R19). While the measured input exceeds the limit, each grant is the base grant × limit /
measured input, in whole watts rounded down, computed afresh at each window: how far grants are reduced is the model's choice (log entry
28). -/
def execBudgetComputation (inputW : Nat) (s : State) : Res :=
  let act := (List.finRange 8).filter s.serving
  let mode := s.mc.pwr.mode
  let floor_ := min 700 (moduleBudget mode / max act.length 1)
  let at_ := act.filter s.heldAtGrant
  let spare := ((act.filter fun c => !s.heldAtGrant c).map fun c => s.mc.pwr.grant[c.val] - (s.chan c).pwr.avgW).sum
  let extra := if at_.isEmpty then 0 else spare / at_.length
  let base := fun (c : Chan) => if act.contains c then (if at_.contains c then min 700 (floor_ + extra) else floor_) else 0
  let above := decide (modeLimit mode < inputW)
  let grant := fun (c : Chan) => if above then base c * modeLimit mode / inputW else base c
  .next (if s.mc.inReset then s else s.onMc fun m => { m with pwr := { m.pwr with
    inputW := inputW, scaled := above, grant := Vector.ofFn grant, atGrant := ofBits 8 (at_.map (·.val)),
    curMode := if !isEff mode && !isEff m.pwr.curMode && !m.pwr.pending then mode else m.pwr.curMode } })

/-! ### Gnover's reset (R26, R346) -/

/-- Gnover is reset: jobs go on; a placement under way is lost with its start command, and its claims lapse (R346). -/
def execGnoverReset (s : State) : Res :=
  .next (s.onMc fun m => { m with
    inReset := true, jobs := m.jobs.filter fun e => e.2.admitted,
    host := { m.host with captured := [] },
    fab := { m.fab with placing := none, placeState := if m.fab.placing.isSome then 0 else m.fab.placeState } })

/-- Gnover is out of reset: what needs the host path goes on (R26). -/
def execGnoverResetComplete (s : State) : Res := .next (s.onMc fun m => { m with inReset := false })

end Sys2Proof.Machine
end

