-- ==== Sys2Proof/Machine/Power.lean ====
section
/-!
DEFINITION. Power and heat of a channel: droop, rails, phases, pauses, polder sleep and ramps, temperature sensors
(R415-R439). The recoveries that need a channel reset stand in Machine/Resets.lean.
-/

namespace Sys2Proof.Machine

/-! ### Droop (R417) -/

/-- A droop sample: sent to the regulator, compared with the thresholds. -/
def execDroopSample (c : Chan) (mv : Nat) (s : State) : Res :=
  let s1 := (s.onPwr c fun p => { p with droopMv := mv }).emit (.droop c mv)
  let set := (s.chan c).pwr.setMv
  let s2 := if mv + 40 < set then
      (s1.onPwr c fun p => { p with budget := 255, droopEmerg := true, emergCount := sat16 p.emergCount 1, emergNs := s.timeNs }).powerEvent
        c 3 0 (s1.chan c).pwr.phases
    else s1
  .next (if mv + 80 < set then
      (s2.powerEvent c 4 0 (s2.chan c).pwr.phases).faultAll c (s2.chan c).polderJobs .power .none 0
    else s2)

/-! ### Rails (R418) -/

/-- The jobs that a rail's domains halt (R418, Table 14.2), and the domain. -/
def State.railJobs (s : State) (c : Chan) (rail : Fin 4) : List SlotIx × UnitKind :=
  let h := s.chan c
  match rail with
  | 0 => (h.polderJobs, .cl)
  | 1 => (h.polderJobs, .cl)
  | 2 => (h.liveSlots, .lk)
  | 3 => (h.liveSlots, .hq)

/-- The rail faults: its jobs halt with POWER and the channel leaves service. -/
def State.railDown (s : State) (c : Chan) (rail : Fin 4) (n : Nat) : State :=
  let (js, kind) := s.railJobs c rail
  let s1 := (s.onPwr c fun p => { p with railFault := true }).powerEvent c 5 (rail.val + 1) n
  let s2 := (s1.faultAll c js .power kind 0).leave c 6
  if rail = 2 then (s2.throughFault c .power kind).onPwr c fun p => { p with lk := .off } else s2

/-- A rail out of range, or a phase lost on it: the second one is a rail fault (R418). -/
def execRailFault (c : Chan) (rail : Fin 4) (phase : Option Nat) (s : State) : Res :=
  match phase with
  | none => .next (s.railDown c rail 0)
  | some n =>
    let s1 := s.onPwr c fun p => { p with phaseLost := true, railLost := upd p.railLost rail (· + 1) }
    .next (if (s.chan c).pwr.railLost[rail.val] = 0 then s1.powerEvent c 5 (rail.val + 1) n else s1.railDown c rail n)

/-! ### Phases (R425, R426) -/

/-- State of Table 15.5 for n good phases. -/
def phaseStateOf (n : Nat) : PhaseState :=
  if 24 ≤ n then .normal else if n = 23 then .oneLost else if 18 ≤ n then .capped
  else if 14 ≤ n then .efficientOnly else .out

def PhaseState.code : PhaseState → Nat
  | .normal => 0 | .oneLost => 1 | .capped => 2 | .efficientOnly => 3 | .out => 4

/-- Average current cap in A; 0 for none. -/
def phaseCap (n : Nat) : Nat := if 14 ≤ n ∧ n ≤ 22 then 24 * n else 0

/-- A phase is lost: state, cap, and what Table 15.5 says of the new state. -/
def execPhaseLoss (c : Chan) (phase : Fin 24) (s : State) : Res :=
  let p := (s.chan c).pwr
  if p.good.getLsbD phase.val then
    let good := p.good &&& ~~~(1#24 <<< phase.val)
    let n := (bitsOf good).length
    let st := phaseStateOf n
    let s1 := s.onPwr c fun q => { q with good := good, phaseLost := true, phState := st, capA := phaseCap n }
    let s2 := if st = p.phState then s1 else s1.powerEvent c 1 st.code n
    let s3 := if n < 18 ∧ (!p.clk15 ∨ p.move = .outEff) then ((s2.intoEff c).modeErr).modeNote else s2
    .next (if st = .out ∧ p.phState ≠ .out then
        (s3.faultAll c (s3.chan c).polderJobs .power .none 0).leave c 7
      else s3)
  else .next s

/-! ### Pauses (R427, R428) -/

/-- LIMIT_W of a channel: min(grant, 700 W). -/
def State.limitW (s : State) (c : Chan) : Nat := min s.mc.pwr.grant[c.val] 700

/-- The budget controller (R427). After a droop emergency the pause stays for 10 µs (R417). -/
def execBudgetController (c : Chan) (avgW avgA : Nat) (s : State) : Res :=
  let p := (s.chan c).pwr
  let lim := s.limitW c
  let above := decide (lim < avgW) || (decide (p.capA ≠ 0) && decide (p.capA < avgA))
  let under := decide (avgW * 100 < lim * 98) && (decide (p.capA = 0) || decide (avgA * 100 < p.capA * 98))
  let held := decide (0 < p.emergCount) && decide (s.timeNs < p.emergNs + 10000)
  .next (s.onPwr c fun q => { q with
    avgW := avgW, budget := if above then min 255 (q.budget + 4) else if under && !held then q.budget - 1 else q.budget })

/-! ### Sleep and ramps (R421-R423) -/

/-- Whether frame f + 1 of a slot's job opens a priority window. -/
def Slot.windowNext (x : Slot) : Bool :=
  decide (x.regs.windowUs ≠ 0) && decide ((x.regs.frame + 1) % 2 ^ x.regs.windowLog2 = 0)

/-- A SLOT polder whose pumps have all reported sleeps, unless the next frame opens a window (R422). -/
def execPolderSleep (c : Chan) (pd : PolderIx) (s : State) : Res :=
  let q := s.polder c pd
  match (s.chan c).slotOfPolder pd with
  | none => .next s
  | some j =>
    let idle := (List.finRange 8).all fun k => (s.pump c (pumpOf pd k)).run == .reported
    onlyIf (q.slotMode && q.dom == .on && idle && !(s.slot c j).windowNext) s (s.onPolder c pd fun x => { x with dom := .sleep })

/-- The power-up slot of a sleeping polder: UP_US after the tick its ramp is asked for (R422). -/
def execPowerUpSlot (c : Chan) (pd : PolderIx) (s : State) : Res :=
  match (s.chan c).slotOfPolder pd with
  | none => .next s
  | some j =>
    let q := s.polder c pd
    if q.slotMode ∧ q.dom = .sleep then
      .next ((s.until ((s.slot c j).fr.tickNs + q.upUs * 1000)).wantRamp c pd)
    else .next s

/-- A waiting ramp begins once no other polder of the channel ramps below step 9 (R423). A wait behind another counts as
POWERUP. -/
def execRampStart (c : Chan) (s : State) : Res :=
  let p := (s.chan c).pwr
  match p.ramping, p.rampQ with
  | none, pd :: rest =>
    let s1 := s.onPwr c fun x => { x with ramping := some pd, rampQ := rest }
    let s2 := s1.onPolder c pd fun q => { q with dom := .ramp, step := 0, rampDefers := 0, deferUs := 0 }
    .next (s2.polderWaited c pd 3 (s.timeNs - (s.polder c pd).reqNs))
  | _, _ => .next s

/-- A polder reaches ON: its pumps begin the frame program (Table 15.3 step 10). -/
def State.rampOn (s : State) (c : Chan) (pd : PolderIx) : State :=
  let s1 := s.onPolder c pd fun q => { q with dom := .on, step := 10 }
  match (s1.chan c).slotOfPolder pd with
  | some j => s1.startPumps c j
  | none => s1

/-- The next step of the ramps of a channel (Table 15.3, R423): a step that fails the guard is deferred by 1 µs; after
eight deferrals the other polders pause until step 9. -/
def execRampStep (c : Chan) (s : State) : Res :=
  let late := (List.finRange 16).filter fun p => (s.polder c p).dom == .ramp && (s.polder c p).step == 9
  let s1 := s.each late fun t p => t.rampOn c p
  match (s1.chan c).pwr.ramping with
  | none => .next s1
  | some pd =>
    let q := s1.polder c pd
    if q.step < 8 then
      if (s1.chan c).pwr.guardOk then .next (s1.onPolder c pd fun x => { x with step := x.step + 1 })
      else
        let s2 := s1.onPolder c pd fun x => { x with
          rampDefers := x.rampDefers + 1, deferUs := sat16 x.deferUs 1, deferrals := sat32 x.deferrals 1 }
        let s3 := s2.polderWaited c pd 3 1000
        .next (if 8 ≤ q.rampDefers + 1 then
            s3.each ((List.finRange 16).filter (· != pd)) fun t p => t.onPolder c p fun x => { x with forced := max x.forced 16 }
          else s3)
    else
      let s2 := s1.onPolder c pd fun x => { x with step := 9 }
      let s3 := s2.onPwr c fun p => { p with ramping := none }
      .next (s3.each (List.finRange 16) fun t p => t.onPolder c p fun x => { x with forced := 0 })

/-! ### Temperature sensors (R430-R436) -/

/-- Polders that share an edge with one in the 4 x 4 grid, and itself (R430). -/
def nearPolders (pd : Nat) : List Nat :=
  (List.range 16).filter fun q => q == pd ||
    (q / 4 == pd / 4 && (q % 4 + 1 == pd % 4 || pd % 4 + 1 == q % 4)) ||
    (q % 4 == pd % 4 && (q / 4 + 1 == pd / 4 || pd / 4 + 1 == q / 4))

/-- The neighbours of a sensor: the other sensors of its die in its own polder and the adjacent ones (R432). -/
def sensorNear (i : Nat) : List Nat :=
  (if i < 64 then (nearPolders (i / 4)).flatMap fun p => (List.range 4).map fun k => 4 * p + k
   else (nearPolders ((i - 64) / 2)).flatMap fun p => [64 + 2 * p, 65 + 2 * p]).filter (· != i)

/-- The sensors of a polder: four on the pump die, two on the cistern die. -/
def polderSensors (pd : PolderIx) : List Nat := (List.range 4).map (4 * pd.val + ·) ++ [64 + 2 * pd.val, 65 + 2 * pd.val]

/-- Ascending insertion sort of readings. -/
def insInt : List Int → Int → List Int
  | [], x => [x]
  | y :: ys, x => if x ≤ y then x :: y :: ys else y :: insInt ys x

/-- Twice the median of a list: of an even number of readings the mean of the two in the middle (log entry 29). -/
def median2 (l : List Int) : Option Int :=
  let v := l.foldl insInt []
  match v[(v.length - 1) / 2]?, v[v.length / 2]? with
  | some a, some b => some (a + b)
  | _, _ => none

/-- Readings of the healthy neighbours of a sensor. -/
def Thermal.near (t : Thermal) (i : Nat) : List Int :=
  (sensorNear i).filterMap fun k => (t.sensors[k]?).bind fun x => if x.suspect || x.failed then none else some x.raw

/-- Takes a new reading, or counts a missing one. -/
def Sensor.sample (x : Sensor) (raw : Int) (stale : Bool) : Sensor :=
  if stale then { x with staleN := x.staleN + 1 } else { x with raw := raw, staleN := 0 }

/-- Judges a sensor against the healthy neighbours (R432): failed (or on the defect list, R452), suspect after three samples, healthy
after 1 s. -/
def Sensor.judge (x : Sensor) (near : List Int) (now : Nat) (listed : Bool) : Sensor :=
  let failed := listed || decide (x.raw < -160) || decide (600 < x.raw) || decide (3 ≤ x.staleN)
  let off := match median2 near with
    | some m => decide (64 < 2 * x.raw - m) || decide (64 < m - 2 * x.raw)
    | none => false
  let n := if off then x.off8 + 1 else 0
  let good := if off then now else x.goodNs
  let suspect := if x.suspect then off || decide (now < x.goodNs + 1000000000) else decide (3 ≤ n)
  let eff := if failed || suspect then (match near with | [] => x.raw | y :: ys => ys.foldl max y) else x.raw
  { x with failed := failed, off8 := n, goodNs := if x.suspect || off then good else now, suspect := suspect, eff := eff }

/-- Changes the sensors of a list. -/
def Thermal.onSensors (t : Thermal) (is : List Nat) (f : Nat → Sensor → Sensor) : Thermal :=
  { t with sensors := Vector.ofFn fun i : Fin 96 => if is.contains i.val then f i.val t.sensors[i.val] else t.sensors[i.val] }

/-- Headroom in whole degrees: 95 degC minus the mean of the hottest readings of the last second, 0 to 63 (R436). -/
def headroomOf (hot : List (Nat × Int)) : Nat :=
  let n := hot.length
  if n = 0 then 0 else min 63 (((hot.map fun e => (380 : Int) - e.2).sum : Int) / ((4 * n : Nat) : Int)).toNat

/-- Raises or lowers a thermal pause at a sample (R434), readings in 0.25 degC units. -/
def pauseStep (pause : Nat) (hottest : Int) : Nat :=
  if 380 ≤ hottest then min 255 (pause + 8) else if hottest < 372 then pause - 1 else pause

/-- The critical shutdown of a channel (R435). -/
def State.criticalShutdown (s : State) (c : Chan) (unit sensor : Nat) (eff raw : Int) (st : Option StackIx) : State :=
  let s1 := s.faultAll c (s.chan c).polderJobs .thermal .none 0
  let s2 := ((s1.thermalEvent c 5 unit sensor eff raw).leave c 4).emit (.pin "THERMTRIP_N" false)
  s2.onChan c fun h => { h with
    thm := { h.thm with crit := true, critNow := true, stackTrip := match h.thm.stackTrip with | some x => some x | none => st },
    stack := match st with
      | some k => upd h.stack k fun x => { x with lost := true }
      | none => h.stack }

/-- A sample of the sensors of a polder. -/
def State.samplePolder (s : State) (c : Chan) (pd : PolderIx) (pumpDie cisDie : List Int) (stale : List Nat) : State :=
  let ids := polderSensors pd
  let readings := pumpDie ++ cisDie
  let at_ := fun (i : Nat) => (ids.findIdx? (· == i)).getD 0
  let t0 := (s.chan c).thm
  let t1 := t0.onSensors ids fun i x => x.sample (readings.getD (at_ i) x.raw) (stale.contains (at_ i))
  let t2 := t1.onSensors ids fun i x => x.judge (t1.near i) s.timeNs (s.mc.firm.listed c .sensor i 0)
  let s1 := s.onChan c fun h => { h with thm := t2 }
  -- changes of status
  let flips := ids.filter fun i => match t0.sensors[i]?, t2.sensors[i]? with
    | some a, some b => a.suspect != b.suspect || a.failed != b.failed
    | _, _ => false
  let show_ := fun (i : Nat) => match t2.sensors[i]? with | some b => (b.eff, b.raw) | none => (0, 0)
  let s2 := s1.each flips fun u i => u.thermalEvent c 3 pd.val i (show_ i).1 (show_ i).2
  -- too hot, throttle
  let old := s.polder c pd
  let tooHot := ids.any fun i => decide ((t2.near i).length < 2)
  let effs := ids.map fun i => (i, (show_ i).1)
  let hot := effs.foldl (fun (m : Nat × Int) e => if m.2 < e.2 then e else m) (effs.headD (0, 0))
  let cold := effs.foldl (fun (m : Nat × Int) e => if e.2 < m.2 then e else m) (effs.headD (0, 0))
  let pause := if tooHot then 255 else pauseStep old.thermal hot.2
  let kept := (old.hot.filter fun e => decide (s.timeNs ≤ e.1 + 1000000000)) ++ [(s.timeNs, hot.2)]
  let s3 := s2.onPolder c pd fun p => { p with
    tooHot := tooHot, thermal := pause, hot := kept, headroom := if tooHot then 0 else headroomOf kept }
  let raw := fun (i : Nat) => (show_ i).2
  let s4 := if tooHot ∧ !old.tooHot then s3.thermalEvent c 4 pd.val hot.1 hot.2 (raw hot.1) else s3
  let s5 := if old.thermal = 0 ∧ 380 ≤ hot.2 then s4.thermalEvent c 1 pd.val hot.1 hot.2 (raw hot.1)
    else if old.thermal ≠ 0 ∧ pause = 0 then s4.thermalEvent c 2 pd.val hot.1 hot.2 (raw hot.1) else s4
  -- limits
  let s6 := if 420 ≤ hot.2 ∧ !t0.critNow then s5.criticalShutdown c pd.val hot.1 hot.2 (raw hot.1) none else s5
  let s7 := if cold.2 < 40 ∧ !t0.coldWarn then
      (s6.thermalEvent c 6 pd.val cold.1 cold.2 (raw cold.1)).onChan c fun h => { h with thm := { h.thm with coldWarn := true } }
    else s6
  let s8 := if cold.2 < 0 ∧ s.serving c then
      ((s7.faultAll c (s7.chan c).polderJobs .thermal .none 0).thermalEvent c 7 pd.val cold.1 cold.2 (raw cold.1)).onChan c
        (fun h => { h with thm := { h.thm with cold := true, coldNow := true } }) |>.leave c 5
    else s7
  -- the fabric map takes headroom when it differs by 2 or more (R336)
  let room := (s8.polder c pd).headroom
  s8.mapUpdate c fun m => { m with polders := m.polders.zipIdx.map fun e => match e with
    | (some v, i) => if i = pd.val ∧ (v + 2 ≤ room ∨ room + 2 ≤ v) then (some room, i).1 else some v
    | (none, _) => none }

/-- Refresh band of a stack (R266, Table 9.7): 0 x1, 1 x2, 2 x4; a band is left 2 degC below its lower bound. -/
def refreshBand (old : BitVec 2) (degC : Nat) : BitVec 2 :=
  if 95 ≤ degC then 2
  else if old = 2 ∧ 93 < degC then 2
  else if 85 ≤ degC then 1
  else if old ≠ 0 ∧ 83 < degC then 1
  else 0

/-- A sample of a stack (R431, R434, R435). -/
def State.sampleStack (s : State) (c : Chan) (st : StackIx) (degC : Nat) : State :=
  let t0 := (s.chan c).thm
  let s1 := s.onChan c fun h => { h with stack := upd h.stack st fun x => { x with
    tempC := degC, refresh := refreshBand x.refresh degC, throttle := decide (95 ≤ degC) || (x.throttle && decide (93 ≤ degC)) } }
  let top := (((s1.chan c).stack.toList.map (·.tempC)).foldl max 0 : Nat)
  let reading : Int := if 95 ≤ degC then 380 else if top < 93 then 371 else 376
  let pause := pauseStep t0.stackThermal reading
  let s2 := s1.onChan c fun h => { h with thm := { h.thm with stackThermal := pause } }
  let q : Int := degC * 4
  let s3 := if t0.stackThermal = 0 ∧ 95 ≤ degC then s2.thermalEvent c 8 0xFFFF (96 + st.val) q q
    else if t0.stackThermal ≠ 0 ∧ pause = 0 then s2.thermalEvent c 2 0xFFFF (96 + st.val) q q else s2
  if 105 ≤ degC ∧ !t0.critNow then s3.criticalShutdown c 0xFFFF (96 + st.val) q q (some st) else s3

/-- A temperature sample (R431). -/
def execTemperatureSample (c : Chan) (t : TempSample) (s : State) : Res :=
  match t with
  | .polder pd pumpDie cisDie stale => .next (s.samplePolder c pd pumpDie cisDie stale)
  | .stack st degC => .next (s.sampleStack c st degC)

/-- Every effective junction reading of a channel. -/
def Thermal.effs (t : Thermal) : List Int := t.sensors.toList.map (·.eff)

/-! ### References (R438, R439) -/

/-- Every 10 ms the oscillator's trim moves toward what the table asks, by at most 0.05 ppm (R438). -/
def execOscillatorCompensation (wantPpb : Int) (s : State) : Res :=
  let t := s.mc.pwr.oscTrim
  let d := max (-50) (min 50 (wantPpb - t))
  .next (s.onMc fun m => { m with pwr := { m.pwr with oscTrim := t + d } })

/-- Every 100 ms a die's bandgap reference is corrected (R439). -/
def execBandgapCorrection (c : Chan) (trim : Int) (s : State) : Res := .next (s.onPwr c fun p => { p with bandgap := trim })

/-- A calibration that moves a voltage sensor by more than 10 mV marks it failed (R439). -/
def execSensorCalibration (c : Chan) (sensor : Fin 96) (movedMv : Nat) (s : State) : Res :=
  .next (if 10 < movedMv then s.onPwr c fun p => { p with badVolt := p.badVolt ||| (1#96 <<< sensor.val) } else s)

/-- A write of PWR_CFG: the guard where it lies in 4-40, GUARD_ERR otherwise; a one clears a flag (R417). -/
def execPwrCfgWrite (c : Chan) (v : BitVec 32) (s : State) : Res :=
  let g := field v 0 6
  let bad := decide (g < 4) || decide (40 < g)
  .next (if s.windowOpen c then s.onPwr c fun p => { p with
      guard := if bad then p.guard else g,
      guardErr := w1c p.guardErr (v.getLsbD 6) || bad, phaseLost := w1c p.phaseLost (v.getLsbD 7),
      droopEmerg := w1c p.droopEmerg (v.getLsbD 8), railFault := w1c p.railFault (v.getLsbD 9) }
    else s)

end Sys2Proof.Machine
end

