-- ==== Sys2Proof/Machine/Protection.lean ====
section
/-!
DEFINITION. Scrubbing, refresh, read recentring and training of the HBM stacks (R254-R266, R466).
-/

namespace Sys2Proof.Machine

/-! ### Granule addresses within a unit -/

/-- Channel line of the m-th line of a stack: its lines are those of the channel that lie in it, ascending (R269; log
entry 31). -/
def stackLine (caps : List Nat) (st : Nat) : List Nat → Nat → Nat → Nat → Option Nat
  | [], _, _, _ => none
  | c :: cs, d0, base, m =>
    let us := (List.range 128).filter fun u => c ≤ caps.getD u 0
    let mine := us.filter fun u => u % 4 == st
    let k := mine.length
    if m < (c - d0) * k then
      let u := mine.getD (m % k) 0
      some (base + m / k * us.length + (us.findIdx? (· == u)).getD 0)
    else stackLine caps st cs c (base + (c - d0) * us.length) (m - (c - d0) * k)

/-- Local granule of granule g of a stack. -/
def State.stackKey (s : State) (c : Chan) (st g : Nat) : Option Nat :=
  let caps := s.unitCaps c
  (stackLine caps st (sortUniq (caps.filter (0 < ·))) 0 0 (g / 128)).map fun n => n * 128 + g % 128

/-- Granules of a unit: a slice's 524,288, or a stack's capacity. -/
def State.unitGrans (s : State) (c : Chan) (hbm : Bool) (unit : Nat) : Nat :=
  if hbm then (match (s.chan c).stack.toList[unit]? with | some k => k.lines * 128 | none => 0)
  else if unit < 144 then 524288 else 0

/-! ### The scrubber (R254-R258) -/

/-- What the scrubber finds at a granule. -/
inductive Finding where
  | skipped | clean | corrected | uncorrectable
deriving DecidableEq, Repr

/-- Checks one granule in memory as it stands, corrects it and writes it back if asked to (R254-R257). -/
def State.scrubKey (s : State) (c : Chan) (k : Nat) (wb : Bool) : State × Finding :=
  let h := s.chan c
  let invalid : Bool := match keySlice k with
    | some (p, g) => (h.pumps[p.val].slice.mem.look g).isNone
    | none => false
  if h.isDead k ∨ invalid then (s, .skipped)
  else
    match bscDecode (h.upsetAt k) with
    | .clean => (s, .clean)
    | .corrected i _ =>
      if wb then ((s.checked c k (h.raw k) (h.upsetAt k)).1, .corrected)
      else
        let (unit, addr) := s.unitOf c k
        (s.logCe c (if (keySlice k).isSome then 0 else 1) unit addr i false, .corrected)
    | .uncorrectable => (s.ueFound c k, .uncorrectable)

/-- What the slice checker makes of a stored pattern: what it finds, and the pattern that it leaves, a written-back correction taken
out of it. -/
def scrubWord (e : CodeWord) (wb : Bool) : Finding × CodeWord :=
  match bscDecode e with
  | .clean => (.clean, e)
  | .corrected i x => (.corrected, if wb then e ^^^ oneSymbol i x else e)
  | .uncorrectable => (.uncorrectable, e)

/-- Checks a granule of a cache line that is valid; one that is uncorrectable drops its line (R251, R254; log entry 141). -/
def State.scrubLine (s : State) (c : Chan) (p : PumpIx) (g : Nat) (err : CodeWord) (wb : Bool) : State × Finding :=
  let n := (s.chan c).lineGrans
  let at_ := g - (s.chan c).pinned
  let i := at_ % n
  let unit := physOf (s.chan c) p
  match (s.slice c p).lines[at_ / n]? with
  | none => (s, .skipped)
  | some l =>
    if !l.holds i || ((s.slice c p).cached (s.frameOf c p) l.at_ != some l) then (s, .skipped)
    else
      let e := l.up.readD 0 i ^^^ err
      let (f, left) := scrubWord e wb
      let keep := fun (t : State) => t.onSlice c p fun sl => { sl with
        lines := sl.lines.map fun x => if x = l then { x with up := x.up.write 0 i left } else x }
      match bscDecode e, f with
      | .corrected sym _, _ => (keep (s.logCe c 0 unit g sym wb), f)
      | .uncorrectable, _ => ((s.logUe c 0 unit g false).onSlice c p fun sl => { sl with lines := sl.lines.erase l }, f)
      | .clean, _ => (keep s, f)

/-! ### The held share (R254, R257) -/

/-- What a granule of a slice's held share holds. -/
inductive HeldPlace where
  | entry (i : Nat) | echo (i : Nat) | shadow (g : Nat) | inbound (g i : Nat)
deriving DecidableEq, Repr

/-- Place of a pump's slice among those of a job's reserved polders. -/
def Channel.reserveIx (h : Channel) (j : SlotIx) (p : PumpIx) : Option Nat :=
  (((List.finRange 128).filter fun q => h.polders[(polderOf q).val].reserve == some j).findIdx? (· == p))

/-- What the held share of a slice holds, in the order of its granules: held entries, echoes, the frame's shadows, inbound granules
(log entry 141). A home reserve's entries fill its slices one after another. -/
def State.heldPlaces (s : State) (c : Chan) (p : PumpIx) : List HeldPlace :=
  let h := s.chan c
  let sl := s.slice c p
  let mine := fun (e : Held) => h.heldIn e.slot (offKey e.off) == some p
  let saved := fun (j : SlotIx) (r : Nat) =>
    ((h.held.zipIdx.filter fun e => e.1.slot == j && (h.heldIn j (offKey e.1.off)).isNone).drop (r * h.heldShare)).take h.heldShare
  let reserve := match h.polders[(polderOf p).val].reserve with
    | some j => (match h.reserveIx j p with | some r => saved j r | none => [])
    | none => []
  (h.held.zipIdx.filter fun e => mine e.1).map (fun e => .entry e.2) ++ reserve.map (fun e => .entry e.2) ++
    (List.range sl.echoes.length).map .echo ++ (sl.shadows.filter fun x => x.2.frame == s.frameOf c p).map (fun x => .shadow x.1) ++
    sl.inbound.flatMap fun x => (List.range x.2.length).map fun i => .inbound x.1 i

/-- The stored pattern of a place. -/
def State.heldUp (s : State) (c : Chan) (p : PumpIx) : HeldPlace → CodeWord
  | .entry i => ((s.chan c).held[i]?.map (·.up)).getD 0
  | .echo i => ((s.slice c p).echoes[i]?.map (·.up)).getD 0
  | .shadow g => (((s.slice c p).shadows.look g).map (·.up)).getD 0
  | .inbound g i => ((((s.slice c p).inbound.look g).bind fun l => l[i]?).map (·.up)).getD 0

/-- Sets it. -/
def State.setHeldUp (s : State) (c : Chan) (p : PumpIx) (w : CodeWord) : HeldPlace → State
  | .entry i => s.onChan c fun h => { h with held := h.held.modify i fun e => { e with up := w } }
  | .echo i => s.onSlice c p fun sl => { sl with echoes := sl.echoes.modify i fun e => { e with up := w } }
  | .shadow g => s.onSlice c p fun sl => { sl with shadows := sl.shadows.alter g fun e => { e with up := w } }
  | .inbound g i => s.onSlice c p fun sl => { sl with
      inbound := sl.inbound.alter g fun l => l.modify i fun e => { e with up := w } }

/-- The job whose place it is. -/
def State.heldOwner (s : State) (c : Chan) (p : PumpIx) : HeldPlace → Option SlotIx
  | .entry i => (s.chan c).held[i]?.map (·.slot)
  | _ => (s.chan c).slotOf p

/-- Checks a granule of the held share that is in use; one that is uncorrectable faults its job at its next fence (R250, R257). -/
def State.scrubHeld (s : State) (c : Chan) (p : PumpIx) (g : Nat) (err : CodeWord) (wb : Bool) : State × Finding :=
  let unit := physOf (s.chan c) p
  match (s.heldPlaces c p)[g + (s.chan c).heldShare - 2 ^ 19]? with
  | none => (s, .skipped)
  | some x =>
    let e := s.heldUp c p x ^^^ err
    let (f, left) := scrubWord e wb
    let t := s.setHeldUp c p left x
    match bscDecode e with
    | .corrected sym _ => (t.logCe c 0 unit g sym wb, f)
    | .uncorrectable =>
      let t1 := t.logUe c 0 unit g (s.heldOwner c p x).isSome
      (match s.heldOwner c p x with
        | some j => t1.onFr c j fun y => { y with ueFault := some (y.ueFault.getD (2, unit, g)) }
        | none => t1, f)
    | .clean => (t, f)

/-- The stored word of a granule differs from its code word by a further pattern: what an upset has done since it was last
read (log entry 32). -/
def State.upset (s : State) (c : Chan) (k : Nat) (err : CodeWord) : State :=
  if err = 0 then s
  else match keySlice k with
  | some (p, g) => s.onSlice c p fun sl => { sl with upset := sl.upset.write 0 g (sl.upset.readD 0 g ^^^ err) }
  | none => s.onChan c fun h => { h with hbmUpset := h.hbmUpset.write 0 k (h.hbmUpset.readD 0 k ^^^ err) }

/-- Scrubs a granule of a unit. -/
def State.scrubAt (s : State) (c : Chan) (hbm : Bool) (unit g : Nat) (err : CodeWord) (wb : Bool) : State × Finding :=
  if hbm then
    match s.stackKey c unit g with
    | some k =>
      if k < (s.chan c).hbmLines * 128 then
        let t := match s.hbmPlace c (k / 128) with
          | some (u, _) => s.raise c (hbmPort u) .scrub reqScrub none 1
          | none => s
        (t.upset c k err).scrubKey c k wb
      else (s, .skipped)
    | none => (s, .skipped)
  else match logicalOf (s.chan c) unit with
    | some p =>
      if 2 ^ 19 - (s.chan c).heldShare ≤ g then s.scrubHeld c p g err wb
      else if (s.chan c).pinned ≤ g then s.scrubLine c p g err wb
      else
        let valid := ((s.slice c p).mem.look g).isSome
        (if valid then s.upset c (sliceKey p g) err else s).scrubKey c (sliceKey p g) wb
    | none => (s, .skipped)

/-- Enters a finding in the summary of the ranged pass (R258). -/
def Cistern.sum (x : Cistern) (g : Nat) (f : Finding) : Cistern :=
  let y : Cistern := { x with passPos := x.passPos + 1 }
  let first := match y.sumFirst with | some a => some a | none => some g
  match f with
  | .skipped => y
  | .clean => { y with sumRead := y.sumRead + 1 }
  | .corrected => { y with sumRead := y.sumRead + 1, sumCorr := y.sumCorr + 1, sumFirst := first }
  | .uncorrectable => { y with sumRead := y.sumRead + 1, sumUnc := y.sumUnc + 1, sumFirst := first }

/-- A step of the background walk, or of the ranged pass where the granule is the pass's next one. -/
def execScrubStep (c : Chan) (hbm : Bool) (unit : Nat) (gran : Nat) (err : BitVec 288) (s : State) : Res :=
  let x := (s.chan c).cis
  let pass := x.busy && x.passHbm == hbm && x.passUnit == unit && x.passPos == gran && decide (x.passPos < x.passEnd)
  if pass then
    let (s1, f) := s.scrubAt c hbm unit gran err x.passWb
    .next (s1.onCis c fun y => y.sum gran f)
  else if (if hbm then x.hbmRate else x.cisRate) = 0 ∨ s.unitGrans c hbm unit ≤ gran then .next s
  else .next (s.scrubAt c hbm unit gran err true).1

/-- The end of a 1 s window: AUTO raises LEVEL, or lowers it after 60 quiet windows (R255). -/
def execScrubWindow (c : Chan) (s : State) : Res :=
  .next (s.onCis c fun x =>
    let y : Cistern := { x with windowCe := 0 }
    if !x.auto then y
    else if x.raise < x.windowCe then { y with level := min 2 (x.level + 1), quiet := 0 }
    else if 60 ≤ x.quiet + 1 then { y with level := x.level - 1, quiet := 0 }
    else { y with quiet := x.quiet + 1 })

/-- Starts a ranged pass over a unit (R258). -/
def State.startPass (s : State) (c : Chan) (hbm : Bool) (unit start count : Nat) (wb : Bool)
    (cmd : Option (Hdr × Nat × Nat)) : State :=
  s.onCis c fun x => { x with
    busy := true, sumRead := 0, sumCorr := 0, sumUnc := 0, sumFirst := none, passUnit := unit, passHbm := hbm,
    passPos := start, passEnd := min (start + count) (s.unitGrans c hbm unit), passWb := wb, passFor := cmd }

/-- A write of the lowest word of CIS_SCRUB_RANGE: GO starts a pass with the other words as they stand (R258, R470). -/
def execScrubRangeGo (c : Chan) (v : BitVec 32) (s : State) : Res :=
  .next (s.blockWrite c fun t =>
    let t1 := t.onCis c fun x => { x with writeback := v.getLsbD 1, space := v.getLsbD 2, unit := field v 4 8 }
    let x := (t1.chan c).cis
    if v.getLsbD 0 then
      if x.busy then t1.onCis c fun y => { y with busyErr := true }
      else t1.startPass c x.space x.unit x.start.toNat (x.count.toNat + 1) x.writeback none
    else t1)

/-- CIS_SCRUB_SUM. -/
def Cistern.sumPack (x : Cistern) : Nat :=
  packReg [(0, 40, x.sumRead), (40, 40, x.sumCorr), (80, 40, x.sumUnc), (120, 40, x.sumFirst.getD 0),
    (160, 1, bit x.sumFirst.isSome), (161, 1, bit x.busy), (163, 1, bit x.busyErr)]

/-- A pass has read its last granule (R258). A command that started it completes with its summary (R382). -/
def execScrubPassComplete (c : Chan) (s : State) : Res :=
  let x := (s.chan c).cis
  if x.busy ∧ x.passEnd ≤ x.passPos then
    let s1 := s.onCis c fun y => { y with busy := false, passFor := none }
    match x.passFor with
    | some (h, buf, len) => (s1.reply h buf len (leBytes 32 ((s1.chan c).cis.sumPack))).done h stSuccess 32
    | none => .next s1
  else .next s

/-! ### HBM service -/

/-- A per-bank refresh of a stack: its rate follows the temperature (R266), and it changes only time. -/
def execRefresh (c : Chan) (st : StackIx) (s : State) : Res :=
  .next (s.onChan c fun h => { h with stack := upd h.stack st fun k => { k with refreshes := k.refreshes + 1 } })

/-- Every pseudo-channel recentres its read timing with 8 training bursts of class SCRUB (R466). -/
def execHbmReadRecentre (c : Chan) (s : State) : Res :=
  let ports := (List.finRange 128).filter fun u => ((s.chan c).stack[u.val / 32]).pcUp.getLsbD (u.val % 32)
  .next ((s.each ports fun t u => t.raise c (hbmPort u.val) .scrub reqScrub none 8).onChan c fun h => { h with
    stack := h.stack.map fun k => { k with recentred := k.recentred + 1 } })

/-- Training of a stack ends: at a rate, with a pending lane repair applied while a redundant pin is left, or not at all, which takes the
channel out of service (R263, R265). -/
def execHbmTrainingComplete (c : Chan) (st : StackIx) (rate : BitVec 2) (pcUp : BitVec 32) (s : State) : Res :=
  let s1 := s.onChan c fun h => { h with stack := upd h.stack st fun k => { k with
    rate := rate, pcUp := if rate = 3 then 0 else pcUp,
    retrain := k.retrain && !decide (k.lanesRep < Config.hbmSparePins),
    lanesRep := if k.retrain ∧ k.lanesRep < Config.hbmSparePins then sat8 k.lanesRep 1 else k.lanesRep } }
  .next (if rate = 3 then s1.leave c 8 else s1)

end Sys2Proof.Machine
end

