-- ==== Sys2Proof/Machine/RegFile.lean ====
section
/-!
DEFINITION. The registers of both windows as a read finds them: offsets, widths and fields (Tables 17.1 and 17.2, R7, R8, R469,
R482).
-/

namespace Sys2Proof.Machine

/-- Registers at one offset: their distance, their number, 32-bit words of each, and their values. -/
structure RegRow where
  base   : Nat
  stride : Nat
  count  : Nat
  words  : Nat
  val    : Nat → Nat

/-- A register found: its offset, its words, its value. -/
structure RegAt where
  base  : Nat
  words : Nat
  val   : Nat
deriving DecidableEq, Repr

/-- The register of a row that holds a byte offset. -/
def RegRow.hit (r : RegRow) (off : Nat) : Option RegAt :=
  let i := (off - r.base) / r.stride
  if r.base ≤ off ∧ i < r.count ∧ (off - r.base) % r.stride < 4 * r.words then some ⟨r.base + i * r.stride, r.words, r.val i⟩ else none

/-- A single register. -/
def reg1 (base words v : Nat) : RegRow := ⟨base, 4 * words, 1, words, fun _ => v⟩

/-- A register given by its fields. -/
def regF (base words : Nat) (fs : List (Nat × Nat × Nat)) : RegRow := reg1 base words (packReg fs)

/-- A signed number as 12 bits. -/
def s12 (x : Int) : Nat := (BitVec.ofInt 12 x).toNat

/-! ### Staged fields -/

/-- A word of ST fields from a slot's and the channel's copies. -/
def stPack (w : StWord) (g : SlotSet) (x : ChanSet) (slotMode : Bool) (upUs : Nat) : Nat :=
  match w with
  | .frameCfg _ => packReg [(0, 15, g.periodUs), (16, 16, g.wdogMs)]
  | .ckptCfg _ => packReg [(0, 16, g.interval)]
  | .thrash _ => packReg [(0, 24, g.limit), (24, 8, g.trickle)]
  | .region => packReg [(0, 8, x.pin), (8, 8, x.pinMax), (16, 6, x.held)]
  | .share k hi => if hi then packReg [(0, 8, (x.share[k.val])[4]), (8, 8, (x.share[k.val])[5]), (16, 8, (x.share[k.val])[6])]
      else packReg [(8, 8, (x.share[k.val])[1]), (16, 8, (x.share[k.val])[2]), (24, 8, (x.share[k.val])[3])]
  | .cls n => packReg [(0, 16, x.target[n.val + 1]), (16, 16, x.ceil[n.val + 1])]
  | .arbCfg => packReg [(0, 8, x.holdMax), (8, 1, bit x.cutFault)]
  | .polder _ => packReg [(0, 1, bit slotMode), (1, 15, upUs)]

/-- A word's committed value (R58). -/
def Channel.stCommitted (h : Channel) (w : StWord) : Nat :=
  match w with
  | .frameCfg j | .ckptCfg j | .thrash j => stPack w (h.slots[j.val]).regs.set h.set false 0
  | .polder pd => stPack w SlotSet.reset h.set (h.polders[pd.val]).slotMode (h.polders[pd.val]).upUs
  | _ => stPack w SlotSet.reset h.set false 0

/-- A word's staged value. -/
def Channel.stStaged (h : Channel) (w : StWord) : Nat :=
  match w with
  | .frameCfg j | .ckptCfg j | .thrash j => stPack w (h.slots[j.val]).stg.set h.stSet false 0
  | .polder pd => stPack w SlotSet.reset h.stSet (h.polders[pd.val]).stSlotMode (h.polders[pd.val]).stUpUs
  | _ => stPack w SlotSet.reset h.stSet false 0

/-! ### A channel's registers -/

/-- Rows of a job slot, relative to its base 0x01_0000 + j x 0x100. -/
def Slot.rows (x : Slot) (h : Channel) (j : SlotIx) : List RegRow :=
  let r := x.regs
  let b := x.job
  let state : Nat := match b.state with
    | .free => 0 | .admitting => 1 | .running => 2 | .halted => 3 | .restoring => 4 | .stopping => 5
  [ reg1 0x00 1 (h.stCommitted (.frameCfg j)),
    regF 0x04 1 [(0, 15, r.windowUs), (16, 3, r.windowLog2)],
    reg1 0x08 2 r.frame,
    reg1 0x10 1 (h.stCommitted (.ckptCfg j)),
    regF 0x20 2 [(0, 32, r.ovrFrames), (32, 32, r.ovrMaxNs)],
    ⟨0x30, 8, 7, 2, fun c => r.ovrCause.toList.getD c 0⟩,
    regF 0x70 2 [(0, 48, r.ckptLast), (48, 1, bit r.ckptValid), (49, 1, bit r.ckptBusy), (56, 8, r.ckptSkipped)],
    regF 0x78 2 [(0, 3, state), (3, 1, bit b.strict), (4, 1, bit b.lead), (5, 1, bit b.acting), (6, 10, b.ctx), (16, 7, b.job),
      (23, 15, b.vch), (38, 5, b.nvch), (48, 16, b.polders.toNat)] ]

/-- OOS: the lowest reason that holds (R478). -/
def ChStatus.shown (x : ChStatus) : Nat := ((bitsOf x.oos).filter (0 < ·)).headD 0

/-- STATE of a domain (PWR_DOMAIN). -/
def DomState.code : DomState → Nat
  | .off => 0 | .sleep => 1 | .ramp => 2 | .on => 3

/-- STATE of a staging slot. -/
def StgState.code : StgState → Nat
  | .clean => 0 | .dirty => 1 | .checking => 2 | .checked => 3 | .commitPending => 4 | .failed => 5

def WellState.code : WellState → Nat
  | .active => 1 | .stopped => 2 | .error => 3

/-- A black-box event (Table 14.8). -/
def Event.pack (e : Event) : Nat :=
  packReg [(0, 64, e.time), (64, 8, e.typ.toNat), (72, 8, e.slot.toNat), (80, 16, e.unit.toNat), (96, 32, e.frame.toNat),
    (128, 128, e.detail.toNat)]

/-- CH_WELL_STAT. -/
def Well.pack (w : Well) : Nat :=
  packReg [(0, 2, w.ring.state.code), (2, 1, bit w.urgent.isSome), (3, 1, bit w.evtLost), (4, 2, w.ring.errCode), (6, 10, w.ctx),
    (16, 9, w.loc), (32, 32, w.ring.fetched.toNat), (64, 32, w.ring.written.toNat), (96, 16, w.dropped)]

/-- Whether sensors or a stack are sampled at the short interval: within 6 degC of a limit of Table 15.6 (R431). -/
def Channel.fast (h : Channel) : Bool :=
  let near := fun (x l : Int) => decide (l - 24 ≤ x) && decide (x ≤ l + 24)
  (h.thm.effs.any fun x => near x 0 || near x 40 || near x 380 || near x 420) ||
    h.stack.any fun k => near (4 * (k.tempC : Int)) 380 || near (4 * (k.tempC : Int)) 420

/-- Rows of a polder, relative to its base. -/
def Polder.rows (q : Polder) (h : Channel) (pd : PolderIx) : List RegRow :=
  let rep := fun (k : Nat) => q.repair.toList.getD k PumpRepair.reset
  [ regF 0x000 1 [(0, 9, q.good.toNat), (9, 4, q.sparePos), (16, 1, bit q.degraded)],
    regF 0x010 1 [(0, 8, (h.pause pd).1), (8, 2, (h.pause pd).2)],
    reg1 0x020 1 (h.stCommitted (.polder pd)),
    regF 0x028 2 [(0, 2, q.dom.code), (2, 6, q.headroom), (8, 1, bit q.tooHot), (16, 16, q.deferUs), (32, 32, q.deferrals)],
    ⟨0x100, 8, 8, 2, fun k => packReg [(0, 16, (rep k).repaired.toNat), (16, 16, (rep k).lanePending.toNat),
      (32, 1, bit (rep k).unrepairable)]⟩,
    ⟨0x200, 8, 8, 2, fun k => packReg [(0, 40, (rep k).stallCyc), (40, 24, (rep k).atomOps)]⟩,
    ⟨0x300, 16, 8, 4, fun k => packReg [(0, 54, (rep k).spareUsed.toNat), (64, 54, (rep k).bondPending.toNat),
      (118, 1, bit (rep k).mapoutPending)]⟩ ]

/-- What STG_PEEK_SEL selects: the words of the register, if it has ST fields in that slot's bank (R480, R482). -/
def Channel.peeked (h : Channel) : List StWord :=
  let off := h.peekOff.toNat
  match stWord off with
  | some w => if (h.banks w).contains h.peekSlot then
      w :: (match w, stWord (off + 4) with | .share _ false, some u => [u] | _, _ => []) else []
  | none => []

/-- Rows of the cistern, HBM and port blocks. -/
def Channel.rowsA (h : Channel) : List RegRow :=
  let x := h.cis
  let slot := fun (j : Nat) => h.slots.toList.getD j Slot.reset
  let k := fun (i : Nat) => h.stack.toList.getD i Stack.reset
  let p := fun (i : Nat) => h.ports.toList.getD i Port.reset
  [ reg1 0x020000 1 (h.stCommitted .region),
    regF 0x020008 1 [(0, 1, bit x.sector), (1, 1, bit x.modeErr)],
    regF 0x020010 1 [(17, 1, bit x.clrBusy), (18, 1, bit x.clrRefused)],
    ⟨0x020100, 16, 16, 1, fun j => packReg [(0, 24, (slot j).regs.set.limit), (24, 8, (slot j).regs.set.trickle)]⟩,
    ⟨0x020108, 16, 16, 1, fun j => let r := (slot j).regs
      packReg [(0, 1, bit r.thrash), (1, 1, bit r.deadRead), (2, 1, bit r.deadSpill), (3, 1, bit r.oobDrop),
        (16, 16, r.thrashFrame.toNat)]⟩,
    ⟨0x020400, 8, 128, 2, fun i => (slot (i / 8)).regs.cnt.toList.getD (i % 8) 0⟩,
    reg1 0x020800 1 0,
    ⟨0x020808, 8, 8, 2, fun i => x.ceCount.toList.getD i 0⟩,
    ⟨0x020900, 16, 32, 4, fun i => ((x.ceLog[i]?).map LogEnt.pack).getD 0⟩,
    ⟨0x020B00, 16, 8, 4, fun i => ((x.ueAt i).map LogEnt.pack).getD 0⟩,
    regF 0x020C00 1 [(0, 8, x.cisRate), (8, 8, x.hbmRate), (16, 8, x.raise), (24, 1, bit x.auto), (25, 2, x.level)],
    regF 0x020C10 4 [(1, 1, bit x.writeback), (2, 1, bit x.space), (4, 8, x.unit), (32, 32, x.start.toNat), (64, 32, x.count.toNat)],
    reg1 0x020C20 8 x.sumPack,
    ⟨0x030000, 8, 4, 2, fun i => packReg [(0, 26, (k i).lines), (32, 11, (k i).banksOut), (43, 4, (k i).layersOut),
      (47, 1, bit (k i).belowMin), (48, 1, bit (k i).fused)]⟩,
    ⟨0x030040, 16, 4, 4, fun i => packReg [(0, 32, (k i).pcUp.toNat), (32, 2, (k i).rate.toNat), (34, 2, (k i).refresh.toNat),
      (36, 1, bit (k i).retrain), (38, 5, (k i).failPc), (43, 5, (k i).failPin), (48, 8, (k i).tempC), (56, 8, (k i).lanesRep),
      (64, 64, (k i).odecc)]⟩,
    ⟨0x040000, 0x40, 12, 1, fun i => packReg [(0, 1, bit (p i).enable), (1, 2, (p i).maxWidth.toNat), (4, 1, bit (p i).refused)]⟩,
    ⟨0x040008, 0x40, 12, 2, fun i => packReg [(0, 3, (p i).state.code), (3, 2, (p i).width.toNat), (5, 2, (p i).group.toNat),
      (7, 8, (p i).good.toNat), (15, 1, bit (p i).compatDiff), (16, 15, (p i).partnerCh.toNat), (31, 4, (p i).partnerPort.toNat),
      (35, 16, (p i).latQns.toNat), (51, 1, bit (p i).narrowed), (52, 1, bit (p i).los)]⟩,
    ⟨0x040400, 8, 96, 2, fun i => (p (i / 8)).cnt.toList.getD (i % 8) 0⟩,
    ⟨0x040800, 16, 16, 2, fun j => let r := (slot j).regs
      packReg [(0, 20, r.dmax), (20, 20, r.path), (40, 1, bit r.skew), (48, 16, r.skewCount)]⟩ ]

/-- Bursts counted for a set and a class. -/
def burstPair (v : Vector (Vector (Nat × Nat) 7) 17) (j c : Nat) : Nat :=
  let e := ((v.toList.getD j (Vector.replicate 7 (0, 0))).toList).getD c (0, 0)
  packReg [(0, 32, e.1), (32, 32, e.2)]

/-- Rows of the regulation, power, fault and staging blocks. -/
def State.rowsB (s : State) (c : Chan) : List RegRow :=
  let h := s.chan c
  let slot := fun (j : Nat) => h.slots.toList.getD j Slot.reset
  let arb := fun (i : Nat) => h.arbs.toList.getD i Arb.reset
  let q := h.pwr
  let t := h.thm
  let lo := t.effs.foldl min (t.effs.headD 0)
  let hi := t.effs.foldl max (t.effs.headD 0)
  let bits := fun (n : Nat) (f : Nat → Bool) => ((List.range n).map fun i => bit (f i) * 2 ^ i).sum
  let doms := (h.polders.toList.map fun p => p.dom) ++ [q.ca, q.cl, q.lk, q.hq]
  [ ⟨0x050000, 8, 2, 2, fun k => if k = 0 then h.stCommitted (.share 0 false) + 2 ^ 32 * h.stCommitted (.share 0 true)
      else h.stCommitted (.share 1 false) + 2 ^ 32 * h.stCommitted (.share 1 true)⟩,
    ⟨0x050024, 4, 6, 1, fun n => packReg [(0, 16, h.set.target.toList.getD (n + 1) 0), (16, 16, h.set.ceil.toList.getD (n + 1) 0)]⟩,
    reg1 0x050040 1 (h.stCommitted .arbCfg),
    ⟨0x050100, 8, 4, 2, fun k => bits 32 (fun i => (arb (32 * k + i)).freeze) + 2 ^ 32 * bits 32 fun i => (arb (32 * k + i)).drained⟩,
    reg1 0x050120 1 (bits 12 (fun i => (arb (128 + i)).freeze) + 2 ^ 16 * bits 12 fun i => (arb (128 + i)).drained),
    regF 0x050140 2 [(0, 1, bit h.reg.cutoff), (1, 3, h.reg.cutClass), (4, 8, h.reg.cutPort), (12, 4, h.reg.cutSlot),
      (16, 1, bit h.reg.cutNojob), (32, 32, h.reg.cutCount)],
    regF 0x060000 2 (doms.zipIdx.map fun e => (2 * e.2, 2, e.1.code)),
    regF 0x060008 1 [(0, 24, q.good.toNat), (24, 5, q.phases), (29, 3, q.phState.code)],
    regF 0x060010 2 [(0, 12, q.droopMv), (12, 12, q.setMv), (24, 12, q.capA), (36, 12, q.avgW), (48, 12, s.limitW c)],
    regF 0x060018 1 [(0, 6, q.guard), (6, 1, bit q.guardErr), (7, 1, bit q.phaseLost), (8, 1, bit q.droopEmerg),
      (9, 1, bit q.railFault), (16, 16, q.emergCount)],
    regF 0x060100 2 [(0, 12, s12 hi), (12, 12, s12 lo), (24, 1, bit ((List.finRange 16).any fun p => h.thermalPause p != 0)),
      (25, 1, bit t.crit), (26, 1, bit t.coldWarn), (27, 1, bit t.cold), (28, 1, bit (h.stack.any fun k => decide (95 ≤ k.tempC))),
      (29, 1, bit h.fast), (30, 7, (t.sensors.toList.filter fun x => x.suspect || x.failed).length),
      (37, 1, bit (h.polders.any fun p => p.tooHot))],
    ⟨0x060200, 8, 96, 1, fun i => let x := t.sensors.toList.getD i Sensor.reset
      packReg [(0, 12, s12 x.raw), (12, 12, s12 x.eff), (24, 1, bit x.suspect), (25, 1, bit x.failed)]⟩,
    ⟨0x070000, 0x20, 16, 4, fun j => let r := (slot j).regs.flt
      packReg [(0, 8, r.cause.toNat), (8, 1, bit r.valid), (9, 1, bit r.remove), (16, 8, r.count), (24, 4, r.unitKind.toNat),
        (28, 4, r.detail.toNat), (32, 48, r.frame.toNat), (80, 16, r.unit)]⟩,
    regF 0x071000 1 [(16, 11, h.bbx.index)],
    regF 0x071008 2 [(0, 1, bit h.bbx.frozen), (1, 11, h.bbx.head), (12, 1, bit h.bbx.wrapped), (16, 11, h.bbx.freezeIdx),
      (32, 16, h.bbx.lost)],
    reg1 0x071020 8 (((h.bbx.events.look h.bbx.index).map Event.pack).getD 0),
    reg1 0x080000 1 0,
    regF 0x080010 1 [(0, 22, h.peekOff.toNat), (22, 4, h.peekSlot.val), (26, 1, bit h.peeked.isEmpty),
      (27, 1, bit (h.peeked.any fun w => h.stStaged w != h.stCommitted w))],
    reg1 0x080018 2 ((h.peeked.zipIdx.map fun e => h.stStaged e.1 * 2 ^ (32 * e.2)).sum),
    ⟨0x080100, 16, 16, 1, fun j => let g := (slot j).stg
      packReg [(0, 3, g.state.code), (3, 1, bit g.locked), (8, 8, g.tag.toNat), (16, 8, g.fences), (24, 8, g.reason)]⟩,
    ⟨0x080108, 16, 16, 2, fun j => (slot j).stg.err⟩ ]

/-- Rows of the identity block. -/
def State.rowsC (s : State) (c : Chan) : List RegRow :=
  let h := s.chan c
  let x := h.st
  [ regF 0x000000 2 [(0, 15, x.addr.toNat), (15, 1, bit x.addrValid), (16, 3, c.val), (20, 4, s.mc.fuses.variant.toNat),
      (24, 4, Config.pumpStep.toNat), (28, 4, Config.cisStep.toNat)],
    regF 0x000008 1 [(0, 1, bit (s.serving c)), (1, 1, bit (x.busy || x.embBusy)), (2, 1, bit x.coldWait), (3, 1, bit x.wrDrop),
      (4, 5, h.liveSlots.length), (16, 8, x.shown)],
    regF 0x000040 1 [(3, 1, bit (x.busy || x.embBusy)), (4, 1, bit x.refused), (5, 2, x.lastScope.toNat)],
    ⟨0x008000, 16, 2048, 4, fun w => ((h.wells.look w).map Well.pack).getD 0⟩ ]

/-- Moves a register found in a group to the group's place. -/
def RegAt.shift (r : RegAt) (by_ : Nat) : RegAt := { r with base := r.base + by_ }

/-- The register at a channel-window offset (Table 17.2). -/
def State.chReg (s : State) (c : Chan) (off : Nat) : Option RegAt :=
  let h := s.chan c
  if w : 0x010000 ≤ off ∧ off < 0x011000 then
    let j : SlotIx := ⟨(off - 0x010000) / 0x100, by omega⟩
    (((h.slots[j.val]).rows h j).findSome? fun r => r.hit (off % 0x100)).map fun r => r.shift (0x010000 + 0x100 * j.val)
  else if 0x051000 ≤ off ∧ off < 0x051880 then
    if off % 0x80 < 56 then some ⟨off / 8 * 8, 2, burstPair h.reg.bw ((off - 0x051000) / 0x80) (off % 0x80 / 8)⟩ else none
  else if 0x052000 ≤ off ∧ off < 0x052880 then
    if off % 0x80 < 56 then some ⟨off / 8 * 8, 2, burstPair h.reg.snap ((off - 0x052000) / 0x80) (off % 0x80 / 8)⟩ else none
  else if w : 0x100000 ≤ off ∧ off < 0x200000 then
    let pd : PolderIx := ⟨(off - 0x100000) / 0x10000, by omega⟩
    (((h.polders[pd.val]).rows h pd).findSome? fun r => r.hit (off % 0x10000)).map fun r => r.shift (0x100000 + 0x10000 * pd.val)
  else (s.rowsC c ++ h.rowsA ++ s.rowsB c).findSome? fun r => r.hit off

/-! ### Gnover's registers (Table 17.1) -/

/-- REASON 0 none; what a firmware start recorded. -/
def Firm.status (f : Firm) : Nat :=
  packReg [(0, 1, bit f.safe), (1, 3, f.reason), (4, 1, bit f.runB[0]), (5, 1, bit f.runB[1]), (6, 1, bit f.runB[2]),
    (7, 1, bit f.noMain), (8, 1, bit f.debugSeen), (9, 1, bit f.listLost), (10, 1, bit f.jobRoot.isSome), (32, 32, f.cset.toNat)]

/-- MC_CHAN_PRESENT. -/
def Gnover.chanPresent (m : Gnover) : Nat :=
  packReg [(0, 8, m.fuses.present.toNat), (8, 8, m.inService.toNat), (16, 4, m.fuses.variant.toNat)]

/-- MC_FW_REV of an image. -/
def Firm.rev (f : Firm) (k : Nat) : Nat :=
  packReg [(0, 32, (f.runRev.toList.getD k 0).toNat), (32, 6, f.runSvn.toList.getD k 0), (38, 1, bit (f.runB.toList.getD k false))]

/-- MC_ADM_STAT.STATE: an error shows where the ring has one. -/
def Admin.state (a : Admin) : Nat :=
  match a.ring with
  | some r => if r.state = .active ∧ !a.on then 0 else r.state.code
  | none => 0

/-- Admin ring registers of a function, at the offsets of its BAR0 (R469). -/
def Gnover.adminRows (m : Gnover) (fn base : Nat) : List RegRow :=
  let a := (m.admins.look fn).getD Admin.reset
  [ regF base 2 [(0, 5, a.sqLog2), (5, 1, bit a.sqEn), (12, 52, a.sqBase / 4096)],
    regF (base + 8) 2 [(0, 5, a.cqLog2), (5, 1, bit a.cqEn), (12, 52, a.cqBase / 4096)],
    reg1 (base + 0x10) 2 0,
    regF (base + 0x18) 1 [(0, 2, a.state), (2, 1, bit a.err)] ]

/-- Rows of the Gnover window. -/
def Gnover.rows (m : Gnover) : List RegRow :=
  let p := m.pwr
  let f := m.fab
  [ reg1 0x0000 2 m.fuses.serial.toNat,
    reg1 0x0010 1 m.chanPresent,
    regF 0x0100 1 [(0, 2, p.mode.toNat), (4, 2, p.curMode.toNat), (6, 1, bit p.pending), (7, 1, bit p.modeErr)],
    regF 0x0108 1 [(0, 16, p.inputMv), (16, 13, p.inputW), (29, 1, bit p.scaled)],
    ⟨0x0110, 4, 8, 1, fun n => packReg [(0, 10, if m.inService.getLsbD n then p.grant.toList.getD n 0 else 0),
      (10, 1, bit (p.atGrant.getLsbD n))]⟩,
    regF 0x0200 1 [(0, 12, f.id.toNat), (12, 12, f.pinId.toNat), (24, 1, bit f.pinEn), (25, 1, bit f.pinConflict),
      (26, 1, bit f.full), (27, 1, bit f.idValid)],
    reg1 0x0300 2 f.version,
    regF 0x0308 2 [(0, 3, f.placeState.toNat), (8, 8, f.placeCode.toNat), (16, 8, f.reruns), (32, 32, f.lastMs)],
    regF 0x0400 1 [(0, 3, m.host.gen.toNat), (3, 4, m.host.width.toNat), (7, 1, bit m.host.flit), (8, 6, m.host.numVf)],
    regF 0x0410 2 [(0, 1, bit m.host.dbgOpen), (30, 34, m.host.dbgBase.toNat)],
    regF 0x0500 1 [(4, 1, bit m.host.embRefused)],
    reg1 0x0600 2 m.firm.status,
    ⟨0x0610, 8, 3, 2, m.firm.rev⟩,
    regF 0x0640 1 [(0, 6, m.fuses.svn[0]), (8, 6, m.fuses.svn[1]), (16, 6, m.fuses.svn[2])],
    ⟨0x0700, 8, 8, 2, fun n => (m.firm.selftest.toList.getD n 0).toNat⟩,
    regF 0x0780 2 [(0, 16, m.firm.defects.length), (16, 16, (m.firm.defects.filter fun d => d.st == 0).length), (32, 1, bit m.firm.defFull)] ] ++
    m.adminRows 0 0x1000

/-- The size of the PF's BAR0. The BAR0 of VF n is numbered from n times this size on, so that one number names any register. -/
def barSize : Nat := 0x4000000

/-- The number of an address on its path. -/
def regNum (via : RegPath) (addr : Nat) : Nat := match via with | .fn n => barSize * n + addr | .mgmt => addr

/-- Where the admin ring registers of a function stand. -/
def admBase (fn : Nat) : Nat := if fn = 0 then 0x1000 else barSize * fn

/-- The function whose admin ring registers an address is among, and the offset there. -/
def admOf (addr : Nat) : Option (Nat × Nat) :=
  let fn := addr / barSize
  let lo := admBase fn
  if lo ≤ addr ∧ addr < lo + 0x20 then some (fn, addr - lo) else none

/-- The register at an address: of Gnover's window or of a channel's in the PF's BAR0 (Table 13.2), or of a VF's BAR0 (R353). A channel
that is absent, or in an embankment reset, has none here: its window reads all ones (Table 17.3). -/
def State.regAt (s : State) (addr : Nat) : Option RegAt :=
  if barSize ≤ addr then (s.mc.adminRows (addr / barSize) (admBase (addr / barSize))).findSome? fun r => r.hit addr
  else if addr < 0x100000 then s.mc.rows.findSome? fun r => r.hit addr
  else if h : 0x2000000 ≤ addr ∧ addr < 0x4000000 then
    let c : Chan := ⟨(addr - 0x2000000) / 0x400000, by omega⟩
    if s.windowOpen c then (s.chReg c (addr % 0x400000)).map fun r => r.shift (0x2000000 + 0x400000 * c.val) else none
  else none

end Sys2Proof.Machine
end

