-- ==== Sys2Proof/Machine/JobCmds.lean ====
section
/-!
DEFINITION. CHECKPOINT, STOP, URGENT, STAGE, CHECK and COMMIT (R46, R60-R62, R373, R374, R376, R377).
-/

namespace Sys2Proof.Machine

/-- A command that names a job: JOB_STATE where the context has no such job admitted. -/
def State.jobCmd (s : State) (h : Hdr) (opc job : Nat) (f : State → Nat → Job → State) : Res :=
  s.cmd h opc fun t => match t.job (hdrCtx h) job with
    | some jb => if jb.admitted then f t (hdrCtx h) jb else t.complete h stJobState 0
    | none => t.complete h stJobState 0

/-- CHECKPOINT: it completes with the checkpoint that the next permitted tick takes. -/
def execCheckpoint (h : Hdr) (job : Nat) (s : State) : Res :=
  s.jobCmd h 0x23 job fun t ctx _ =>
    let busy := t.ckptOpen ctx job
    (t.onJob ctx job fun x => if busy then { x with ckptNext := x.ckptNext ++ [h] } else { x with ckptCmds := x.ckptCmds ++ [h] }).askCkpt
      ctx job

/-- STOP: a second one while one waits completes with JOB_STATE; a halted or restarting job runs again first. -/
def execStop (h : Hdr) (job : Nat) (ckpt : Bool) (s : State) : Res :=
  s.jobCmd h 0x24 job fun t ctx jb =>
    if jb.stopCmd.isSome then t.complete h stJobState 0
    else
      let t1 := t.onJob ctx job fun x => { x with stopCmd := some (h, ckpt) }
      if jb.halted ∨ jb.restore.isSome then t1 else t1.stopJob ctx job ckpt

/-- A new item in its channel's order: eligible items first as they became so, then by channel well index and arrival (R377). -/
def queueUrgent (l : List UrgentItem) (u : UrgentItem) : List UrgentItem :=
  let late := l.filter fun x => !x.eligible
  l.filter (·.eligible) ++ late.filter (fun x => decide (x.well ≤ u.well)) ++ [u] ++ late.filter fun x => !decide (x.well ≤ u.well)

/-- URGENT, on an urgent well (R46, R376, R377). -/
def execUrgent (h : Hdr) (entry : BitVec 8) (len : Nat) (args : BitVec 320) (s : State) : Res :=
  s.cmd h 0x28 fun t =>
    let ctx := hdrCtx h
    let at_ := match h.ring with
      | .well _ loc => (t.mc.ctxs.look ctx).bind (·.wells.look loc)
      | .admin _ => none
    match at_ with
    | none => t.complete h stCmdInvalid 0
    | some (c, w) =>
      match ((t.chan c).wells.look w).bind (·.urgent) with
      | none => t.complete h stCmdInvalid 0
      | some job =>
        match t.job ctx job, (t.chan c).slotOfJob ctx job with
        | some jb, some j =>
          if jb.halted ∨ jb.restore.isSome then t.complete h stJobState 0
          else if (t.slot c j).regs.windowUs < len then t.complete h stUrgentExceeds 0
          else if !(jb.image.urgents.any fun e => e.1 == entry) then t.complete h stCmdInvalid 0
          else
            let u : UrgentItem := { well := w, hdr := h, entry := entry, lenUs := len, args := args, eligible := false, running := false,
                                    ctxFault := false }
            t.onSlot c j fun x => { x with urgents := queueUrgent x.urgents u }
        | _, _ => t.complete h stJobState 0

/-! ### Staged changes (R374) -/

/-- Whether a word is one that a job's STAGE may name at its slot. -/
def Slot.mayStage (x : Slot) (j : SlotIx) : StWord → Bool
  | .frameCfg i | .ckptCfg i | .thrash i => i == j
  | .polder pd => x.job.polders.getLsbD pd.val
  | _ => true

/-- Whether a word is channel-scoped (R480). -/
def StWord.chanScoped : StWord → Bool
  | .region | .share .. | .cls _ | .arbCfg => true
  | _ => false

/-- STAGE's words: each 32-bit half whose mask is not zero. -/
def stageParts (off : Nat) (v mask : BitVec 64) : List (Option StWord × BitVec 32 × BitVec 32) :=
  ([(off, v.setWidth 32, mask.setWidth 32), (off + 4, v.extractLsb' 32 32, mask.extractLsb' 32 32)].filter fun e => e.2.2 != 0).map
    fun e => (stWord e.1, e.2)

/-- STAGE. -/
def execStage (h : Hdr) (job : Nat) (member : BitVec 15) (off : BitVec 22) (v mask : BitVec 64) (s : State) : Res :=
  s.jobCmd h 0x30 job fun t ctx _ =>
    match t.localChan member with
    | none => t.complete h stCmdInvalid 0
    | some c =>
      match (t.chan c).slotOfJob ctx job with
      | none => t.complete h stCmdInvalid 0
      | some j =>
        let ps := stageParts off.toNat v mask
        if off.toNat % 4 ≠ 0 ∨ ps.isEmpty ∨ ps.any fun e => match e.1 with
            | some w => !(t.slot c j).mayStage j w
            | none => true then t.complete h stCmdInvalid 0
        else if t.ringFn h.ring ≠ 0 ∧ ps.any fun e => match e.1 with | some w => w.chanScoped | none => false then
          t.complete h stNotPermitted 0
        else (t.blockWrite c fun u => u.each ps fun x e => match e.1 with
          | some w => x.stageWord c w ((BitVec.ofNat 32 ((x.chan c).stStaged w) &&& ~~~e.2.2) ||| (e.2.1 &&& e.2.2))
          | none => x).complete h stSuccess 0

/-- CHECK: every member begins its check, and the command completes when they have ended. -/
def execCheck (h : Hdr) (job : Nat) (tag : BitVec 8) (s : State) : Res :=
  s.jobCmd h 0x31 job fun t ctx _ =>
    ((t.each (t.localSlots ctx job) fun u e => u.blockWrite e.1 fun x => x.startCheck e.1 e.2 tag).onJob ctx job fun x =>
      { x with checkCmds := x.checkCmds ++ [h] }).settleChecks ctx job

/-- COMMIT at the job's tick master: it completes at the commit tick, or at once where it is ignored. -/
def execCommit (h : Hdr) (job : Nat) (tag : BitVec 8) (s : State) : Res :=
  s.jobCmd h 0x32 job fun t ctx jb =>
    match (t.localSlots ctx job).find? fun e => (t.slot e.1 e.2).job.lead || (t.slot e.1 e.2).job.acting with
    | none => t.complete h stJobState 0
    | some (c, j) =>
      if jb.commitCmd.isSome ∨ (t.slot c j).stg.state = .commitPending then t.complete h stJobState 0
      else
        let t1 := t.blockWrite c fun u => u.startCommit c j tag
        if (t1.slot c j).stg.state = .commitPending then t1.onJob ctx job fun x => { x with commitCmd := some (h, tag) }
        else t1.complete h stStageCheckFailed (t1.slot c j).stg.reason

end Sys2Proof.Machine
end

