-- ==== Sys2Proof/Machine/Queries.lean ====
section
/-!
DEFINITION. QUERY and the attestation report (R382, R457-R459, Tables 13.9 and 16.9). Where the spec gives a reply no byte layout,
its items stand in the order of Table 13.9, little-endian, without padding (log entry 50).
-/

namespace Sys2Proof.Machine

/-- Completes a query: the leading part of the reply goes to the buffer, and RESULT gives the full length (R382). -/
def State.respond (s : State) (h : Hdr) (buf len : Nat) (bytes : List (BitVec 8)) : State :=
  (s.reply h buf len bytes).complete h stSuccess bytes.length

/-! ### IDENTITY, JOB, COUNTERS, FABRIC_MAP, BLACK_BOX -/

/-- QUERY IDENTITY, with the result words of the start-up test (R453). -/
def execQueryIdentity (h : Hdr) (buf len : Nat) (s : State) : Res :=
  s.cmd h 0x38 fun t =>
    let m := t.mc
    t.respond h buf len (leBytes 8 m.fuses.serial.toNat ++ leBytes 1 m.fuses.variant.toNat ++ leBytes 4 m.chanPresent ++
      ((List.range 3).flatMap fun k => leBytes 4 (m.firm.runRev.toList.getD k 0).toNat) ++
      m.firm.selftest.toList.flatMap fun w => leBytes 8 w.toNat)

/-- State of a job as its lead shows it: STATE of CH_SLOT, or restoring without a slot. -/
def State.jobState (s : State) (ctx job : Nat) : Nat × Nat × Nat :=
  match (s.localSlots ctx job).find? fun e => (s.slot e.1 e.2).job.lead with
  | some (c, j) =>
    let x := s.slot c j
    let row := fun (o : Nat) => (((x.rows (s.chan c) j).findSome? fun r => r.hit o).map (·.val)).getD 0
    (row 0x78 % 8, x.regs.frame, row 0x20)
  | none => (4, 0, 0)

/-- QUERY JOB. -/
def execQueryJob (h : Hdr) (job buf len : Nat) (s : State) : Res :=
  s.jobCmd h 0x38 job fun t ctx jb =>
    let (st, frame, ovr) := t.jobState ctx job
    t.respond h buf len (leBytes 1 st ++ leBytes 8 frame ++ leBytes 2 jb.lead.toNat ++ leBytes 4 jb.image.vchans.length ++ leBytes 8 ovr)

/-- QUERY COUNTERS: the member channels of this module, ascending. -/
def execQueryCounters (h : Hdr) (job buf len : Nat) (s : State) : Res :=
  s.jobCmd h 0x38 job fun t ctx _ =>
    t.respond h buf len ((t.localSlots ctx job).flatMap fun e =>
      let r := (t.slot e.1 e.2).regs
      (r.ovrCause.toList.flatMap (leBytes 8)) ++ (r.cnt.toList.flatMap (leBytes 8)) ++
        (List.range 7).flatMap fun k => leBytes 8 (burstPair (t.chan e.1).reg.snap e.2.val k))

/-- A channel of the fabric map as bytes. -/
def mapBytes (x : MapChan) : List (BitVec 8) :=
  leBytes 2 x.addr.toNat ++ leBytes 8 x.serial.toNat ++ leBytes 1 x.variant.toNat ++ leBytes 1 x.mode.toNat ++ leBytes 1 (bit x.inService) ++
    leBytes 4 x.cset.toNat ++ leBytes 1 x.pin ++ leBytes 1 x.held ++ leBytes 1 x.pinMax ++ leBytes 2 x.schedHbm ++ leBytes 4 x.freeLines ++
    leBytes 2 x.freeSlots.toNat ++ (x.polders.flatMap fun p => leBytes 1 (p.getD 0xFF)) ++ leBytes 8 x.ckptFree ++
    leBytes 1 x.setsUsed.toNat ++ leBytes 2 x.treesFree ++ leBytes 2 x.storeFree ++ leBytes 1 x.links.length ++
    x.links.flatMap fun l => leBytes 1 l.port ++ leBytes 2 l.partner.toNat ++ leBytes 1 l.partnerPort ++ leBytes 1 l.lanes ++
      leBytes 1 (bit l.owned) ++ leBytes 2 l.latQns

/-- QUERY FABRIC_MAP: the version and the channels of this module's copy. -/
def execQueryFabricMap (h : Hdr) (buf len : Nat) (s : State) : Res :=
  s.cmd h 0x38 fun t =>
    t.respond h buf len (leBytes 8 t.mc.fab.version ++ leBytes 2 t.mc.fab.map.length ++ t.mc.fab.map.flatMap mapBytes)

/-- QUERY BLACK_BOX: the live box, oldest event first. -/
def execQueryBlackBox (h : Hdr) (c : Chan) (buf len : Nat) (s : State) : Res :=
  s.cmd h 0x38 fun t =>
    if t.present c then t.respond h buf len ((t.chan c).bbx.list.flatMap fun e => leBytes 32 e.pack)
    else t.complete h stCmdInvalid 0

/-! ### SCRUB (R258) -/

/-- QUERY SCRUB: starts a ranged pass, and completes with its summary when the pass ends. It waits while a pass runs. -/
def execQueryScrub (h : Hdr) (c : Chan) (range : BitVec 128) (buf len : Nat) (s : State) : Res :=
  if (s.chan c).cis.busy then .next s
  else s.cmd h 0x38 fun t =>
    if !t.present c then t.complete h stCmdInvalid 0
    else if (t.chan c).st.busy ∨ (t.chan c).st.embBusy then t.complete h stTargetReset 0
    else t.startPass c (range.getLsbD 2) (field range 4 8) (field range 32 32) (field range 64 32 + 1) (range.getLsbD 1)
      (some (h, buf, len))

/-! ### ATTEST (R457-R459) -/

/-- The committed ST values of a slot, in ascending register offset and bit: offset and value (R459). -/
def Channel.config (h : Channel) (j : SlotIx) : List (Nat × Nat) :=
  let g := (h.slots[j.val]).regs.set
  [(offFrame j, g.periodUs), (offFrame j, g.wdogMs), (offFrame j + 0x10, g.interval), (offThrash j, g.limit), (offThrash j, g.trickle)] ++
    (h.slots[j.val]).pds.flatMap fun p => [(offPolder p, bit (h.polders[p.val]).slotMode), (offPolder p, (h.polders[p.val]).upUs)]

/-- The jobs with members on this module: context and handle, ascending, with those members. -/
def State.attested (s : State) (ctx : Option Nat) : List ((Nat × Nat) × List (Chan × SlotIx)) :=
  let slots := (List.finRange 8).flatMap fun c => ((s.chan c).liveSlots.filter fun j => (s.slot c j).job.polders != 0).map fun j => (c, j)
  let key := fun (e : Chan × SlotIx) => let x := (s.slot e.1 e.2).job; jobKey x.ctx x.job
  let keys := sortUniq ((slots.filter fun e => match ctx with | some n => (s.slot e.1 e.2).job.ctx == n | none => true).map key)
  keys.map fun k => (((k - 1) / 64, (k - 1) % 64 + 1), slots.filter fun e => key e == k)

/-- A job record of Table 16.9. -/
def State.jobRecord (s : State) (e : (Nat × Nat) × List (Chan × SlotIx)) : List (BitVec 8) :=
  let first := e.2.head?.map fun k => s.slot k.1 k.2
  let config := e.2.flatMap fun k => ((s.chan k.1).config k.2).flatMap fun v =>
    leBytes 2 (s.addrOf k.1).toNat ++ leBytes 4 v.1 ++ leBytes 8 v.2
  leBytes 1 e.1.2 ++ leBytes 1 ((e.2.map fun k => 2 ^ k.1.val).sum) ++ leBytes 2 e.1.1 ++ leBytes 4 0 ++
    leBytes 8 ((first.map fun x => x.regs.frame).getD 0) ++ bigBytes 32 ((first.map fun x => x.job.digest.toNat).getD 0) ++
    bigBytes 32 (Config.sm3 config).toNat

/-- Entries of the defect list (Table 16.8). -/
def defectBytes (d : Defect) : List (BitVec 8) :=
  [d.kind, d.chan, d.st, d.src] ++ leBytes 4 d.unit.toNat ++ leBytes 4 d.loc.toNat ++ leBytes 4 d.first.toNat

/-- Table 16.9 up to the signature. -/
def State.attestBody (s : State) (ctx : Option Nat) (nonce : BitVec 256) : List (BitVec 8) :=
  let m := s.mc
  let f := m.firm
  let jobs := (s.attested ctx).take 128
  let meas := (List.finRange 3).flatMap fun k =>
    leBytes 4 (f.runRev[k.val]).toNat ++ leBytes 1 f.runSvn[k.val] ++ leBytes 1 (bit f.runB[k.val]) ++ leBytes 2 0 ++
      bigBytes 32 (f.runDigest[k.val]).toNat
  [0x42, 0x58, 0x41, 0x54] ++ leBytes 2 1 ++ leBytes 2 (0xE0 + 80 * jobs.length + 64) ++ leBytes 8 m.fuses.serial.toNat ++
    leBytes 1 m.fuses.variant.toNat ++ [m.fuses.present, m.inService] ++
    leBytes 1 (bit f.debugSeen + 2 * bit f.safe + 4 * bit f.listLost + 8 * bit f.jobRoot.isSome) ++ leBytes 4 0 ++
    leBytes 4 f.cset.toNat ++ (m.fuses.svn.toList.flatMap (leBytes 1)) ++ leBytes 1 0 ++ meas ++
    bigBytes 32 (Config.sm3 (f.defects.flatMap defectBytes)).toNat ++ leBytes 1 m.pwr.curMode.toNat ++ leBytes 1 jobs.length ++
    leBytes 6 0 ++ leBytes 32 nonce.toNat ++ jobs.flatMap s.jobRecord

/-- The report with its signature, and the identity certificate with its chain. -/
def State.attestation (s : State) (ctx : Option Nat) (nonce : BitVec 256) : List (BitVec 8) :=
  let body := s.attestBody ctx nonce
  body ++ bigBytes 64 (Config.sm2Sign (moduleSigner s.mc.fuses.serial) body).toNat ++ Config.identityCert

/-- QUERY ATTEST. -/
def execQueryAttest (h : Hdr) (nonce : BitVec 256) (buf len : Nat) (s : State) : Res :=
  s.cmd h 0x38 fun t => t.respond h buf len (t.attestation (some (hdrCtx h)) nonce)

end Sys2Proof.Machine
end

