-- ==== Sys2Proof/Machine/Startup.lean ====
section
/-!
DEFINITION. Start-up, the module's reset and its supplies, the management commands, and IEEE 1149.1 (R402, R437, R440-R450,
R460, R461, R467, R468, R487-R489; Tables 14.6, 16.3, 16.5 and 16.11).
-/

namespace Sys2Proof.Machine

/-! ### Firmware images (R442, R444, R447) -/

/-- The bank index of a kind of image: GFW, CSM, PBS. -/
def fwIx : FwKind → Fin 3
  | .gfw => 0 | .csm => 1 | .pbs => 2

/-- Bytes 0x00-0x7F of an image's header (Table 16.3), which its signature covers. -/
def imageHeader (im : FwImage) : List (BitVec 8) :=
  [0x42, 0x58, 0x46, 0x57] ++ leBytes 1 ((fwIx im.kind).val + 1) ++ [im.hdrVer] ++ leBytes 1 im.svn ++ [0] ++
    leBytes 4 im.rev.toNat ++ leBytes 4 im.body.length ++ ((List.range 8).flatMap fun i => leBytes 4 (im.csets.getD i 0).toNat) ++
    bigBytes 32 im.bodyDigest.toNat ++ leBytes 4 im.auth.chain.length ++ leBytes 44 0

/-- Whether an image verifies as one of a kind (R444). -/
def State.fwVerifies (s : State) (k : Fin 3) (im : FwImage) : Bool :=
  im.magicOk && fwIx im.kind == k && im.hdrVer == 1 && im.resvZero && decide (im.csets.length ≤ 8) && decide (im.svn < 64) &&
    s.keysOk s.mc.fuses.roots (some k.val) im.auth (imageHeader im) && im.bodyDigest == Config.sm3 im.body &&
    decide (s.mc.fuses.svn[k.val] ≤ im.svn)

/-- The image of a bank: false is bank A. -/
def Firm.bankImage (f : Firm) (k : Fin 3) (b : Bool) : Option FwImage :=
  if b then (f.banks[k.val])[1].image else (f.banks[k.val])[0].image

/-- The image of a bank, if it verifies. -/
def State.bootImage (s : State) (k : Fin 3) (b : Bool) : Option FwImage := (s.mc.firm.bankImage k b).filter (s.fwVerifies k)

/-- The identifiers that two images both list; 0 is no set (R447). -/
def sharedSets (a b : List (BitVec 32)) : List (BitVec 32) := a.filter fun x => x != 0 && b.contains x

/-- The first check of R447 that a combination of a CSM and a PBS bank fails, as MC_FW_STATUS.REASON names it; 0 for none. -/
def State.comboReason (s : State) (g : FwImage) (b p : Bool) : Nat :=
  match s.bootImage 1 b, s.bootImage 2 p with
  | none, _ => 1
  | _, none => 2
  | some x, some y =>
    if (sharedSets g.csets x.csets).isEmpty then 3
    else if (sharedSets g.csets y.csets).isEmpty then 4
    else if (sharedSets (sharedSets g.csets x.csets) y.csets).isEmpty then 5
    else 0

/-- Records an image as running from a bank. -/
def Firm.run (f : Firm) (k : Fin 3) (b : Bool) (im : FwImage) : Firm :=
  { f with runB := upd f.runB k fun _ => b, runSvn := upd f.runSvn k fun _ => im.svn, runRev := upd f.runRev k fun _ => im.rev,
           runDigest := upd f.runDigest k fun _ => im.bodyDigest }

/-- The CSM and PBS banks: the first combination accepted, or safe mode (R447, R448). -/
def State.chooseFw (s : State) (g : FwImage) : State :=
  let a := s.mc.firm.activeB[1]
  let d := s.mc.firm.activeB[2]
  match [(a, d), (a, !d), (!a, d), (!a, !d)].find? fun e => s.comboReason g e.1 e.2 == 0 with
  | some (b, p) =>
    match s.bootImage 1 b, s.bootImage 2 p with
    | some x, some y =>
      let common := sharedSets (sharedSets g.csets x.csets) y.csets
      s.onMc fun m => { m with firm := { (m.firm.run 1 b x).run 2 p y with
        safe := false, reason := 0, cset := BitVec.ofNat 32 ((common.map (·.toNat)).foldl max 0) } }
    | _, _ => s
  | none => s.onMc fun m => { m with firm := { m.firm with safe := true, reason := s.comboReason g (!a) (!d) } }

/-! ### Power to the channels (Table 16.5, step 4) -/

/-- Step 4 and the broadcast of CSM, once the main input serves: every present channel is powered. -/
def State.powerUp (s : State) : State :=
  let s1 := (s.onMc fun m => { m with pwr := { m.pwr with main := .good, pwrOk := true, overRun := 0 },
                                      firm := { m.firm with noMain := false } }).emit (.pin "PWR_OK" true)
  (s1.each ((List.finRange 8).filter s.present) fun t c =>
    (if (t.chan c).pwr.phases < 18 then t.intoEff c else t.setVpump c 720).emit (.csm c)).modeNote

/-- GFW runs: CSM and PBS are chosen, and channels are powered if they may be (R447-R449). -/
def State.runGfw (s : State) (b : Bool) (im : FwImage) : State :=
  let s1 := (s.onMc fun m => { m with firm := { m.firm.run 0 b im with recovery := false } }).chooseFw im
  if s1.mc.pwr.main = .good then (if s1.mc.firm.safe then s1 else s1.powerUp)
  else s1.onMc fun m => { m with firm := { m.firm with noMain := true } }

/-- The boot ROM: the active GFW bank, then the other, or recovery (R445). -/
def State.boot (s : State) : State :=
  let a := s.mc.firm.activeB[0]
  match s.bootImage 0 a, s.bootImage 0 (!a) with
  | some im, _ => s.runGfw a im
  | none, some im => s.runGfw (!a) im
  | none, none => s.onMc fun m => { m with firm := { m.firm with recovery := true } }

/-- HBM_CAP of every channel, from the fuses and the defect list (R3, R270). -/
def State.allCaps (s : State) : State := s.each (List.finRange 8) fun t c => t.setCaps c

/-- POWER_ON: cold start, once the inputs serve and MOD_RESET_N is high. `mainOk`: the main input is within limits; `listOk`: a copy
of the defect list checks (R455). -/
def execPowerOn (mainOk listOk : Bool) (s : State) : Res :=
  let m := s.mc
  onlyIf (!m.pwr.resetLow && !m.firm.started) s
    (s.onMc fun g => { g with
      pwr := { g.pwr with auxOk := true, main := if mainOk then .good else .absent },
      firm := { g.firm with started := true, listLost := !listOk, defects := if listOk then g.firm.defects else [] } }).allCaps.boot

/-- A channel's sequencer has started: its domains go ON, its ports enter DETECT, its polders ramp, and its test runs (Table 16.5,
steps 5 and 6). -/
def State.channelStarts (s : State) (c : Chan) : State :=
  let s1 := (s.onSt c fun x => { x with csmBad := 0, coldWait := false }).onPwr c fun p => { p with ca := .on, cl := .on, lk := .on, hq := .on }
  let s2 := s1.each (List.finRange 12) fun t p =>
    if (t.port c p).enable ∧ (t.port c p).state = .disabled ∧ t.linkable c p then t.portTo c p .detect id else t
  (s2.each (List.finRange 16) fun t p => t.wantRamp c p).onMc fun m => { m with firm := { m.firm with testing := m.firm.testing ++ [(c, 0, none)] } }

/-- CSM_DIGEST_REPORT: a channel whose digest differs receives the image once more; the second time it is not enabled (R450).
No channel leaves reset in the cold (R433). -/
def execCsmDigestReport (c : Chan) (digest : BitVec 256) (s : State) : Res :=
  let x := (s.chan c).st
  if s.present c ∧ s.mc.pwr.pwrOk ∧ (s.chan c).pwr.lk = .off ∧ x.csmBad < 2 ∧ !x.embBusy then
    if digest = s.mc.firm.runDigest[1] then
      .next (if (s.chan c).frozenCold then s.onSt c fun y => { y with coldWait := true } else s.channelStarts c)
    else if x.csmBad = 0 then .next ((s.onSt c fun y => { y with csmBad := 1 }).emit (.csm c))
    else .next ((s.onSt c fun y => ({ y with csmBad := 2 }.reason 1 false).reason 2 true).onMc fun m => { m with
      firm := { m.firm with selftest := upd m.firm.selftest c fun _ => 0x100 } })
  else .next s

/-! ### Module reset (Table 14.6) -/

/-- A module reset: what is kept is fuses, firmware banks, the defect list and the flash copies. The events' time starts anew. -/
def State.moduleReset (s : State) (auxOk resetLow : Bool) : State :=
  let f := s.mc.firm
  let firm := { Firm.reset with
    banks := f.banks, activeB := f.activeB, defects := f.defects, flash := f.flash, onS := f.onS + s.timeNs / 1000000000 }
  let pins := (if s.mc.pwr.pwrOk then [.pin "PWR_OK" false] else []) ++
    (if s.ch.any fun h => h.thm.critNow then [.pin "THERMTRIP_N" true] else [])
  ({ State.reset with
    pending := s.pending, freeCtr := s.freeCtr, outputs := s.outputs ++ pins,
    ch := s.ch.map fun h => { Channel.reset with badLanes := h.badLanes, badAdders := h.badAdders, badStore := h.badStore },
    mc := { Gnover.reset with
      fuses := s.mc.fuses, firm := firm, pwr := { ModPower.reset with auxOk := auxOk, resetLow := resetLow } } } : State).allCaps

/-- MOD_RESET_N: low resets the module and holds it in reset (R402, R487). -/
def execModResetN (level : Bool) (s : State) : Res :=
  .next (if level then s.onMc fun m => { m with pwr := { m.pwr with resetLow := false } }
    else s.moduleReset s.mc.pwr.auxOk true)

/-- AUX_INPUT_LOSS: a power loss of the whole module (R489). -/
def execAuxInputLoss (s : State) : Res := .next (s.moduleReset false s.mc.pwr.resetLow)

/-! ### The main input (R437, R488) -/

/-- What a channel without power keeps: which phases are lost (R425). -/
def Channel.unpowered (h : Channel) : Channel :=
  { Channel.reset with
    badLanes := h.badLanes, badAdders := h.badAdders, badStore := h.badStore,
    pwr := { Power.reset with good := h.pwr.good, phState := h.pwr.phState, capA := h.pwr.capA },
    st := { ChStatus.reset with oos := 2 ||| (h.st.oos &&& (1#12 <<< 7)) } }

/-- PWR_OK goes low. -/
def State.pwrOkLow (s : State) : State :=
  if s.mc.pwr.pwrOk then (s.onMc fun m => { m with pwr := { m.pwr with pwrOk := false } }).emit (.pin "PWR_OK" false) else s

/-- The regulators shut down: a power loss of every channel. -/
def State.mainLost (s : State) (st : MainState) : State :=
  let held := fun (h : Channel) => h.pwr.lk == .on || !h.liveSlots.isEmpty || !h.wells.isEmpty
  let s1 := s.each ((List.finRange 8).filter fun c => s.present c && held (s.chan c)) fun t c =>
    t.loseChan c .power .none Channel.unpowered
  (s1.each (List.finRange 8) fun t c => t.onChan c Channel.unpowered).allCaps.pwrOkLow.onMc fun m => { m with
    pwr := { m.pwr with main := st, overRun := 0 },
    firm := { m.firm with noMain := m.firm.started, testing := [], testQ := [] } }

/-- An excursion of 100 µs: every job of the module faults, and every channel is held in channel reset. -/
def State.excursion (s : State) : State :=
  let cs := (List.finRange 8).filter fun c => s.present c && (s.chan c).pwr.lk == .on && !(s.chan c).st.embBusy
  let s1 := s.each cs fun t c => t.faultAll c (t.chan c).liveSlots .power .none 0
  (s1.each cs fun t c => (t.onSt c fun x => x.reason 3 true).beginReset c 2 false 1).pwrOkLow.onMc fun m => { m with
    pwr := { m.pwr with main := .excursion } }

/-- MAIN_OVERVOLTAGE: the regulators are disconnected until a module reset. -/
def execMainOvervoltage (s : State) : Res := onlyIf (s.mc.pwr.main != .lost) s (s.mainLost .lost)

/-- MAIN_INPUT_SAMPLE, every 10 µs, in mV and W. -/
def execMainInputSample (mv watts : Nat) (s : State) : Res :=
  let p := s.mc.pwr
  let s1 := s.onMc fun m => { m with pwr := { m.pwr with inputMv := mv, inputW := watts } }
  let live := decide (p.main = .good ∨ p.main = .excursion)
  .next (if s.mc.inReset ∨ !live then s1
    else if mv < 46000 then s1.mainLost .absent
    else if 60000 < mv then s1.mainLost .lost
    else if 48000 ≤ mv ∧ mv ≤ 58000 then s1.onMc fun m => { m with pwr := { m.pwr with overRun := 0 } }
    else
      let s2 := s1.onMc fun m => { m with pwr := { m.pwr with overRun := p.overRun + 1 } }
      if 10 ≤ p.overRun + 1 ∧ p.main = .good then s2.excursion else s2)

/-- MAIN_INPUT_RESTORED: 1 s within 48-58 V. Channels held by an excursion may leave reset; a start that waited goes on at step 4. -/
def execMainInputRestored (s : State) : Res :=
  let m := s.mc
  let t := s.until (s.timeNs + 1000000000)
  .next (match m.pwr.main with
    | .excursion =>
      let t1 := t.each ((List.finRange 8).filter s.present) fun u c => u.onSt c fun x => x.reason 3 false
      (t1.onMc fun g => { g with pwr := { g.pwr with main := .good, overRun := 0, pwrOk := true } }).emit (.pin "PWR_OK" true)
    | .absent =>
      if m.firm.started ∧ !m.firm.recovery ∧ !m.firm.safe then t.powerUp
      else t.onMc fun g => { g with pwr := { g.pwr with main := .good }, firm := { g.firm with noMain := false } }
    | _ => s)

/-! ### Management commands (R467, Table 16.11) -/

/-- A management command: unanswered while Gnover does not run, refused in recovery (R445). -/
def State.mgmt (s : State) (f : State → State) : Res :=
  .next (if s.mc.inReset ∨ !s.mc.firm.started then s.emit .noResponse
    else if s.mc.firm.recovery then s.emit .refused
    else f s)

/-- A command without a reply of its own, accepted or refused. -/
def State.accepted (s : State) (ok : Bool) (f : State → State) : State := if ok then (f s).emit (.mgmtReply []) else s.emit .refused

/-- READ_SENSOR: temperatures, voltages, phase state and input power (layout: log entry 50). -/
def execReadSensor (c : Chan) (s : State) : Res :=
  s.mgmt fun t =>
    let h := t.chan c
    let p := h.pwr
    if t.present c then t.emit (.mgmtReply ((h.thm.sensors.toList.flatMap fun x => leBytes 2 (s16 x.raw) ++ leBytes 2 (s16 x.eff)) ++
      (h.stack.toList.flatMap fun k => leBytes 1 k.tempC) ++ leBytes 2 p.droopMv ++ leBytes 2 p.setMv ++ leBytes 12 p.badVolt.toNat ++
      leBytes 1 p.phState.code ++ leBytes 1 p.phases ++ leBytes 2 t.mc.pwr.inputMv ++ leBytes 2 t.mc.pwr.inputW))
    else t.emit .refused

/-- FW_WRITE: into the inactive bank of its kind; in recovery into RAM, where an image of GFW that verifies runs (R445). -/
def execFwWrite (im : FwImage) (s : State) : Res :=
  if s.mc.firm.recovery ∧ !s.mc.inReset ∧ s.mc.firm.started then
    .next (if s.fwVerifies 0 im then
        ((s.onMc fun m => { m with firm := { m.firm with ram := some im } }).emit (.mgmtReply [])).runGfw false im
      else s.emit .refused)
  else s.mgmt fun t =>
    let k := fwIx im.kind
    let bank : Bank := { image := some im, valid := t.fwVerifies k im }
    (t.onMc fun m => { m with firm := { m.firm with
      banks := upd m.firm.banks k fun v => if m.firm.activeB[k.val] then v.set 0 bank else v.set 1 bank } }).emit (.mgmtReply [])

/-- FW_ACTIVATE: only a verified bank. -/
def execFwActivate (kind : FwKind) (bankB : Bool) (s : State) : Res :=
  s.mgmt fun t =>
    let v := t.mc.firm.banks[(fwIx kind).val]
    t.accepted (if bankB then v[1].valid else v[0].valid) fun u => u.onMc fun m => { m with
      firm := { m.firm with activeB := upd m.firm.activeB (fwIx kind) fun _ => bankB } }

/-- SVN_COMMIT: each counter to the SVN of the image now running (R446). -/
def execSvnCommit (s : State) : Res :=
  s.mgmt fun t => t.accepted true fun u => u.onMc fun m => { m with
    fuses := { m.fuses with svn := Vector.ofFn fun (k : Fin 3) => max m.fuses.svn[k.val] m.firm.runSvn[k.val] } }

/-- ROOT_ADD: fuses slot 1, once, signed by a key chained to a live root (log entry 51). -/
def execRootAdd (hash : BitVec 256) (auth : KeyAuth) (s : State) : Res :=
  s.mgmt fun t => t.accepted (t.mc.fuses.root1.isNone && t.keysOk t.mc.fuses.roots none auth (bigBytes 32 hash.toNat)) fun u =>
    u.onMc fun m => { m with fuses := { m.fuses with root1 := some hash } }

/-- ROOT_REVOKE: fuses a revoke bit; the last live root cannot be revoked. -/
def execRootRevoke (slot : Bool) (auth : KeyAuth) (s : State) : Res :=
  s.mgmt fun t =>
    let f := { t.mc.fuses with revoke := t.mc.fuses.revoke ||| (1#2 <<< bit slot) }
    t.accepted (!f.roots.isEmpty && t.keysOk t.mc.fuses.roots none auth [BitVec.ofNat 8 (bit slot)]) fun u =>
      u.onMc fun m => { m with fuses := f }

/-- DEFECT_READ. -/
def execDefectRead (s : State) : Res := s.mgmt fun t => t.emit (.mgmtReply (t.mc.firm.defects.flatMap defectBytes))

/-- BBX_READ: copy 0 is the newest. -/
def execBbxRead (c : Chan) (copy : Fin 16) (s : State) : Res :=
  s.mgmt fun t => match (t.mc.firm.flash[c.val])[copy.val]? with
    | some l => t.emit (.mgmtReply (l.flatMap fun e => leBytes 32 e.pack))
    | none => t.emit .refused

/-- DEBUG_CHALLENGE: 32 random bytes (R460). -/
def execDebugChallenge (s : State) : Res :=
  s.mgmt fun t =>
    let v := Config.challenge t.freeCtr
    ({ t with freeCtr := t.freeCtr + 1 }.onMc fun m => { m with firm := { m.firm with challenge := some (v, t.timeNs) } }).emit
      (.mgmtReply (bigBytes 32 v.toNat))

/-- DEBUG_RESPONSE: one response to a challenge of the last 60 s, signed by a key with PERM bit 4 (R460). -/
def execDebugResponse (auth : KeyAuth) (s : State) : Res :=
  s.mgmt fun t =>
    let ok := match t.mc.firm.challenge with
      | some (v, at_) => decide (t.timeNs ≤ at_ + 60000000000) &&
          t.keysOk t.mc.fuses.roots (some 4) auth (bigBytes 32 v.toNat ++ leBytes 8 t.mc.fuses.serial.toNat)
      | none => false
    (t.onMc fun m => { m with firm := { m.firm with challenge := none } }).accepted ok fun u => u.onMc fun m => { m with
      host := { m.host with dbgOpen := true }, firm := { m.firm with debugSeen := true } }

/-- DEBUG_LOCK. -/
def execDebugLock (s : State) : Res :=
  s.mgmt fun t => t.accepted true fun u => u.onMc fun m => { m with host := { m.host with dbgOpen := false } }

/-- A challenge expires after 60 s. -/
def execDebugChallengeExpiry (s : State) : Res :=
  match s.mc.firm.challenge with
  | some (_, at_) => .next ((s.until (at_ + 60000000000)).onMc fun m => { m with firm := { m.firm with challenge := none } })
  | none => .next s

/-- JOB_POLICY_SET: installs or clears the job-signing root hash (R461). -/
def execJobPolicySet (hash : Option (BitVec 256)) (s : State) : Res :=
  s.mgmt fun t => t.accepted true fun u => u.onMc fun m => { m with firm := { m.firm with jobRoot := hash } }

/-- ATTEST: the jobs of every context (R458). -/
def execAttest (nonce : BitVec 256) (s : State) : Res := s.mgmt fun t => t.emit (.mgmtReply (t.attestation none nonce))

/-- MODULE_RESET: accepted in recovery too. -/
def execModuleReset (s : State) : Res :=
  .next (if s.mc.inReset ∨ !s.mc.firm.started then s.emit .noResponse
    else (s.emit (.mgmtReply [])).moduleReset s.mc.pwr.auxOk s.mc.pwr.resetLow)

/-! ### IEEE 1149.1 (R468) -/

/-- An instruction of the test port takes effect. -/
def State.jtagTo (s : State) (k : Jtag) (name : String) : State := (s.onMc fun m => { m with jtag := k }).emit (.jtag name)

/-- BYPASS. -/
def execBypass (s : State) : Res := .next (s.jtagTo .bypass "BYPASS")

/-- IDCODE. -/
def execIdcode (s : State) : Res := .next (s.jtagTo .idcode "IDCODE")

/-- SAMPLE/PRELOAD. -/
def execSamplePreload (s : State) : Res := .next (s.jtagTo .sample "SAMPLE/PRELOAD")

/-- EXTEST: only while no channel is enabled; else it acts as BYPASS. -/
def execExtest (s : State) : Res :=
  .next (if (List.finRange 8).any fun c => (s.chan c).pwr.lk == .on || (s.chan c).st.embBusy then s.jtagTo .bypass "BYPASS"
    else s.jtagTo .extest "EXTEST")

end Sys2Proof.Machine
end

