-- ==== Sys2Proof/Machine/Registers.lean ====
section
/-!
DEFINITION. REGISTER_WRITE and REGISTER_READ: accesses to the registers of both windows by their field types (R353, R469-R474, R483;
Tables 17.1-17.3). A register whose write has a row of its own takes it here by the same operation.
-/

namespace Sys2Proof.Machine

/-- The state that a meaning goes on to. -/
def State.after (s : State) (r : Res) : State := match r with | .next t => t | _ => s

/-- An element of a register array: `n` of them from `base` on, `stride` bytes apart, at this offset. -/
def arrayIx (off base stride n : Nat) : Option (Fin n) :=
  if h : base ≤ off ∧ (off - base) / stride < n ∧ (off - base) % stride = 0 then some ⟨(off - base) / stride, h.2.1⟩ else none

/-! ### Writes of one 32-bit word of a channel window (Table 17.2) -/

/-- CH_RESET: the bits written as one clear, then the request acts (R402, R472). -/
def State.writeReset (s : State) (c : Chan) (v : BitVec 32) : State :=
  let s1 := s.onSt c fun x => { x with refused := w1c x.refused (v.getLsbD 4) }
  match field v 0 2 with
  | 1 => s1.chReset c 1 false
  | 2 => s1.chReset c 2 (v.getLsbD 2)
  | _ => s1

/-- CIS_STATUS of a slot. -/
def SlotRegs.clearCis (r : SlotRegs) (v : BitVec 32) : SlotRegs :=
  { r with thrash := w1c r.thrash (v.getLsbD 0), deadRead := w1c r.deadRead (v.getLsbD 1), deadSpill := w1c r.deadSpill (v.getLsbD 2),
           oobDrop := w1c r.oobDrop (v.getLsbD 3) }

/-- CIS_SCRUB_CFG: clearing AUTO sets LEVEL to 0 at once (R483). -/
def Cistern.scrubCfg (x : Cistern) (v : BitVec 32) : Cistern :=
  let auto := v.getLsbD 24
  { x with cisRate := field v 0 8, hbmRate := field v 8 8, raise := field v 16 8, auto := auto,
           level := if auto then x.level else 0, quiet := if auto && x.auto then x.quiet else 0 }

/-- BBX_CTRL: RELEASE, then FREEZE, act on arrival; INDEX names the entry that BBX_DATA shows. -/
def Bbx.ctrl (b : Bbx) (v : BitVec 32) : Bbx :=
  let b1 := if v.getLsbD 0 then b.release else b
  let b2 := if v.getLsbD 1 then b1.freeze else b1
  { b2 with index := field v 16 11 }

/-- STG_CTRL's command for its slot. -/
def State.stgCtrl (s : State) (c : Chan) (v : BitVec 32) : State :=
  let j : SlotIx := ⟨field v 4 4 % 16, Nat.mod_lt _ (by decide)⟩
  let tag : BitVec 8 := v.extractLsb' 16 8
  match field v 0 3 with
  | 1 => s.after (execStgCheck c j tag s)
  | 2 => s.after (execStgCommit c j tag s)
  | 3 => s.after (execStgUnlock c j s)
  | 4 => s.after (execStgRevert c j s)
  | _ => s

/-- Registers in arrays: slots, wells and ports. -/
def State.writeArray (s : State) (c : Chan) (off : Nat) (v : BitVec 32) : State :=
  match arrayIx off 0x008000 16 2048, arrayIx off 0x020108 16 16, arrayIx off 0x040000 0x40 12, arrayIx off 0x04000C 0x40 12 with
  | some w, _, _, _ => s.onChan c fun h => { h with wells := h.wells.alter w.val fun x => { x with evtLost := w1c x.evtLost (v.getLsbD 3) } }
  | _, some j, _, _ => s.blockWrite c fun t => t.onRegs c j fun r => r.clearCis v
  | _, _, some p, _ => s.after (execPortEnableWrite c p v s)
  | _, _, _, some p => s.onPort c p fun q => { q with narrowed := w1c q.narrowed (v.getLsbD 19), los := w1c q.los (v.getLsbD 20) }
  | none, none, none, none =>
    match arrayIx off 0x040804 16 16, arrayIx off 0x050100 8 4, arrayIx off 0x080100 16 16 with
    | some j, _, _ => s.onRegs c j fun r => { r with skew := w1c r.skew (v.getLsbD 8) }
    | _, some st, _ => s.after (execArbFreezeHbm c st v s)
    | _, _, some j => s.blockWrite c fun t => t.onStg c j fun g => { g with locked := w1c g.locked (v.getLsbD 3) }
    | none, none, none => s

/-- One word of a channel window that takes writes. -/
def State.writeOpenWord (s : State) (c : Chan) (off : Nat) (v : BitVec 32) : State :=
  match stWord off with
  | some w => s.blockWrite c fun t => t.stageWord c w v
  | none =>
    match off with
    | 0x000008 => s.onSt c fun x => { x with wrDrop := w1c x.wrDrop (v.getLsbD 3) }
    | 0x000040 => s.writeReset c v
    | 0x020008 => s.after (execCisModeWrite c v s)
    | 0x020010 => s.after (execCisClear c v s)
    | 0x020800 =>
      let s1 := if v.getLsbD 0 then s.after (execCeClear c s) else s
      if v.getLsbD 1 then s1.after (execLogClear c s1) else s1
    | 0x020C00 => s.blockWrite c fun t => t.onCis c fun x => x.scrubCfg v
    | 0x020C10 => s.after (execScrubRangeGo c v s)
    | 0x020C14 => s.blockWrite c fun t => t.onCis c fun x => { x with start := v }
    | 0x020C18 => s.blockWrite c fun t => t.onCis c fun x => { x with count := v }
    | 0x020C34 => s.blockWrite c fun t => t.onCis c fun x => { x with busyErr := w1c x.busyErr (v.getLsbD 3) }
    | 0x050120 => s.after (execArbFreezeLnk c v s)
    | 0x050140 => s.blockWrite c fun t => t.onChan c fun h => { h with reg := { h.reg with cutoff := w1c h.reg.cutoff (v.getLsbD 0) } }
    | 0x060018 => s.after (execPwrCfgWrite c v s)
    | 0x060100 => s.onChan c fun h => { h with thm := { h.thm with
        crit := w1c h.thm.crit (v.getLsbD 25), coldWarn := w1c h.thm.coldWarn (v.getLsbD 26), cold := w1c h.thm.cold (v.getLsbD 27) } }
    | 0x071000 => s.onChan c fun h => { h with bbx := h.bbx.ctrl v }
    | 0x080000 => s.stgCtrl c v
    | 0x080010 => s.blockWrite c fun t => t.onChan c fun h => { h with
        peekOff := v.extractLsb' 0 22, peekSlot := ⟨field v 22 4 % 16, Nat.mod_lt _ (by decide)⟩ }
    | _ => s.writeArray c off v

/-- The blocks that a channel reset closes: cistern, HBM, regulation, staging and polders (Table 17.3). -/
def closedBlock (off : Nat) : Bool :=
  (0x020000 ≤ off && off < 0x040000) || (0x050000 ≤ off && off < 0x060000) || (0x080000 ≤ off && off < 0x090000) ||
    (0x100000 ≤ off && off < 0x200000)

/-- One word of a channel window that is open. A write to a register of a closed block, whatever its fields' types, is discarded with
WR_DROP during a channel reset (R473). -/
def State.writeChWord (s : State) (c : Chan) (off : Nat) (v : BitVec 32) : State :=
  if closedBlock off && (s.chReg c off).isSome then s.blockWrite c fun t => t.writeOpenWord c off v else s.writeOpenWord c off v

/-! ### Writes of the Gnover window (Table 17.1) -/

/-- MC_EMB_RESET, over the management path alone (R402). -/
def State.embWrite (s : State) (v : BitVec 32) : State :=
  let s1 := s.onMc fun m => { m with host := { m.host with embRefused := w1c m.host.embRefused (v.getLsbD 4) } }
  if v.getLsbD 3 then s1.after (execEmbReset ⟨field v 0 3 % 8, Nat.mod_lt _ (by decide)⟩ s1) else s1

/-- Half of a 64-bit register takes a word, the other half keeps its value. -/
def halfOf (old : Nat) (hi : Bool) (v : BitVec 32) : BitVec 64 :=
  if hi then BitVec.ofNat 64 (old % 2 ^ 32) ||| (v.setWidth 64 <<< 32)
  else BitVec.ofNat 64 (old / 2 ^ 32 * 2 ^ 32) ||| v.setWidth 64

/-- The value of a register now. -/
def State.valueAt (s : State) (addr : Nat) : Nat := match s.regAt addr with | some r => r.val | none => 0

/-- One word of the Gnover window. MC_DBG.BASE straddles two words (R470). -/
def State.writeMcWord (s : State) (mgmt : Bool) (off : Nat) (v : BitVec 32) : State :=
  match off with
  | 0x0100 => s.after (execMcOpModeWrite v s)
  | 0x0200 => s.onMc fun m => { m with fab := { m.fab with
      pinId := v.extractLsb' 12 12, pinEn := v.getLsbD 24, pinConflict := w1c m.fab.pinConflict (v.getLsbD 25),
      full := w1c m.fab.full (v.getLsbD 26) } }
  | 0x0410 => s.onMc fun m => { m with host := { m.host with
      dbgBase := (m.host.dbgBase >>> 2 <<< 2) ||| (v.extractLsb' 30 2).setWidth 34 } }
  | 0x0414 => s.onMc fun m => { m with host := { m.host with
      dbgBase := (v.setWidth 34 <<< 2) ||| (m.host.dbgBase &&& 3) } }
  | 0x0500 => if mgmt then s.embWrite v else s
  | _ => s

/-- One word of a function's admin ring registers (Table 17.7). -/
def State.writeAdmWord (s : State) (fn off : Nat) (v : BitVec 32) : State :=
  let half := fun (hi : Bool) => halfOf (s.valueAt (admBase fn + off / 8 * 8)) hi v
  match off with
  | 0x00 => s.admWrite fn false (half false)
  | 0x04 => s.admWrite fn false (half true)
  | 0x08 => s.admWrite fn true (half false)
  | 0x0C => s.admWrite fn true (half true)
  | 0x18 => s.onMc fun m => { m with admins := m.admins.alter fn fun a => { a with err := w1c a.err (v.getLsbD 2) } }
  | _ => s

/-! ### Accesses -/

/-- Whether an access reaches the windows: over the host's link for a function that is there, or over the management bus once Gnover
runs firmware (R26, R378, R445). -/
def State.reached (s : State) (via : RegPath) : Bool :=
  match via with
  | .mgmt => !s.mc.inReset && s.mc.firm.started && !s.mc.firm.recovery
  | .fn n => s.hostUp && decide (n ≤ s.mc.host.numVf)

/-- One word at an address. -/
def State.writeWord (s : State) (mgmt : Bool) (addr : Nat) (v : BitVec 32) : State :=
  match admOf addr with
  | some (fn, off) => s.writeAdmWord fn off v
  | none =>
    if addr < 0x100000 then s.writeMcWord mgmt addr v
    else if h : 0x2000000 ≤ addr ∧ addr < 0x4000000 then
      let c : Chan := ⟨(addr - 0x2000000) / 0x400000, by omega⟩
      if s.windowOpen c then s.writeChWord c (addr % 0x400000) v else s
    else s

/-- Whether an address is aligned for an access. -/
def alignedTo (addr : Nat) (size64 : Bool) : Bool := addr % (if size64 then 8 else 4) == 0

/-- REGISTER_WRITE. Of a 64-bit access the low word acts last, so that its commands use the high word (R470). A doorbell and an
admin ring register take such an access whole. -/
def execRegisterWrite (via : RegPath) (addr : BitVec 26) (size64 : Bool) (v : BitVec 64) (s : State) : Res :=
  let a := regNum via addr.toNat
  let mgmt := via == .mgmt
  .next (if !s.reached via ∨ !alignedTo addr.toNat size64 then s
    else if size64 then
      match admOf a with
      | some (fn, 0x00) => s.admWrite fn false v
      | some (fn, 0x08) => s.admWrite fn true v
      | some (fn, 0x10) => s.admDoorbell fn v
      | _ => (s.writeWord mgmt (a + 4) (v.extractLsb' 32 32)).writeWord mgmt a (v.setWidth 32)
    else s.writeWord mgmt a (v.setWidth 32))

/-- A word of a register: the lowest one captures a register wider than a word, the others show what was captured (R470). -/
def State.readWord (s : State) (addr : Nat) : State × BitVec 32 :=
  match s.regAt addr with
  | none => (s, 0xFFFFFFFF)
  | some r =>
    let i := (addr - r.base) / 4
    if i = 0 then
      let keep := s.mc.host.captured.filter fun e => e.1 != r.base
      (if r.words = 1 then s else s.onMc fun m => { m with host := { m.host with captured := keep ++ [(r.base, BitVec.ofNat 256 r.val)] } },
        BitVec.ofNat 32 r.val)
    else
      let held := match s.mc.host.captured.find? fun e => e.1 == r.base with
        | some e => e.2
        | none => BitVec.ofNat 256 r.val
      (s, held.extractLsb' (32 * i) 32)

/-- REGISTER_READ. -/
def execRegisterRead (via : RegPath) (addr : BitVec 26) (size64 : Bool) (s : State) : Res :=
  let a := regNum via addr.toNat
  .next (if !s.reached via then s.emit (if via == .mgmt && s.mc.firm.recovery && !s.mc.inReset then .refused else .noResponse)
    else if !alignedTo addr.toNat size64 then s.emit (.readData (if size64 then 0xFFFFFFFFFFFFFFFF else 0xFFFFFFFF))
    else
      let (s1, lo) := s.readWord a
      if size64 then
        let (s2, hi) := s1.readWord (a + 4)
        s2.emit (.readData ((hi.setWidth 64 <<< 32) ||| lo.setWidth 64))
      else s1.emit (.readData (lo.setWidth 64)))

end Sys2Proof.Machine
end

