-- ==== Sys2Proof/Machine/Testing.lean ====
section
/-!
DEFINITION. The start-up test and SELFTEST (R383, R433, R452-R456, R462-R464; Tables 16.6 and 16.7). What a test finds is the
command's operand.
-/

namespace Sys2Proof.Machine

/-! ### Starting a test (R383, R462) -/

/-- Whether a channel is idle for SELFTEST: no job, no granted placement claim that waits to be confirmed, no other test, no
reset. -/
def State.testIdle (s : State) (c : Chan) : Bool :=
  let h := s.chan c
  h.liveSlots.isEmpty && h.claims.all (·.2.2) && !(s.mc.firm.testing.any fun e => e.1 == c) && !h.st.busy && !h.st.embBusy

/-- A self-test runs: the channel is out of service while it does. -/
def State.startTest (s : State) (c : Chan) (set : BitVec 8) (h : Option Hdr) : State :=
  (((s.onSt c fun x => x.reason 10 true).onMc fun m => { m with
    inService := m.inService &&& ~~~(1#8 <<< c.val), firm := { m.firm with testing := m.firm.testing ++ [(c, set, h)] } })).mapUpdate c
      fun m => { m with inService := false }

/-- A test waits for its channel. -/
def State.queueTest (s : State) (c : Chan) (set : BitVec 8) (h : Option Hdr) : State :=
  (s.onMc fun m => { m with firm := { m.firm with testQ := m.firm.testQ ++ [(c, set, h)] } }).mapSync c

/-- FORCE: every job of the channel takes a checkpoint at its next tick and stops; it is admitted again after the test. -/
def State.forceJobs (s : State) (c : Chan) (h : Hdr) : State :=
  s.each (s.chan c).liveSlots fun t j =>
    let x := (t.slot c j).job
    (t.onJob x.ctx x.job fun jb => { jb with forced := some (h, c) }).stopJob x.ctx x.job true

/-- SELFTEST. -/
def execSelftest (h : Hdr) (c : Chan) (force : Bool) (testSet : BitVec 8) (s : State) : Res :=
  s.cmd h 0x39 fun t =>
    if !t.present c ∨ (t.chan c).pwr.lk ≠ .on then t.complete h stCmdInvalid 0
    else if t.testIdle c then t.startTest c testSet (some h)
    else if force then (t.forceJobs c h).queueTest c testSet (some h)
    else if (t.chan c).liveSlots.isEmpty then t.queueTest c testSet (some h)
    else (t.queueTest c testSet none).complete h stSelftestDeferred 0

/-- DEFERRED_SELFTEST: the oldest waiting test of a channel that holds no job any more. -/
def execDeferredSelftest (c : Chan) (s : State) : Res :=
  match s.mc.firm.testQ.find? fun e => e.1 == c with
  | some e =>
    onlyIf (s.testIdle c && !s.mc.inReset) s
      ((s.onMc fun m => { m with firm := { m.firm with testQ := m.firm.testQ.erase e } }).startTest c e.2.1 e.2.2)
  | none => .next s

/-! ### What a test finds (R452) -/

/-- Whether a test set selects a part; a set of 0 selects every part (R464). -/
def partOf (set : BitVec 8) (b : Nat) : Bool := set == 0 || set.getLsbD b

/-- The locations that a test names, part by part in the order of Table 16.6. -/
def findings (f : TestFindings) (set : BitVec 8) : List (DefectKind × Nat × Nat) :=
  let sel := fun (b : Nat) (l : List (DefectKind × Nat × Nat)) => if partOf set b then l else []
  sel 1 (f.bonds.map fun e => (.bondWire, e.1, 32 * e.2.1 + e.2.2)) ++
    sel 2 (f.lanes.map (fun e => (.lane, e.1, e.2)) ++ f.pumps.map fun p => (.pump, p, 0)) ++
    sel 3 (f.rows.map (fun e => (.cisRow, e.1, e.2)) ++ f.columns.map (fun e => (.cisColumn, e.1, e.2)) ++
      f.slices.map fun n => (.sliceOut, n, 0)) ++
    sel 5 (f.sensors.map fun i => (.sensor, i, 0)) ++
    sel 4 (f.hbmRows.map (fun e => (.hbmRow, e.1, e.2)) ++ f.banks.map (fun e => (.hbmBank, e.1, e.2)) ++
      f.layers.map fun e => (.hbmLayer, e.1, e.2))

/-- Lists what a test found; answers how many entries were added. -/
def State.listFindings (s : State) (c : Chan) (src : Nat) (l : List (DefectKind × Nat × Nat)) : State × Nat :=
  l.foldl (fun (acc : State × Nat) e =>
    let t := acc.1.addDefect c e.1 src e.2.1 e.2.2
    (t, if !(acc.1.mc.firm.listed c e.1 e.2.1 e.2.2) && t.mc.firm.listed c e.1 e.2.1 e.2.2 then acc.2 + 1 else acc.2)) (s, 0)

/-- Sensors of the list are failed: 0-95 of temperature, then those of voltage. -/
def State.applySensors (s : State) (c : Chan) : State :=
  let failed := fun (i : Nat) => s.mc.firm.listed c .sensor i 0
  (s.onChan c fun h => { h with
    thm := { h.thm with sensors := Vector.ofFn fun i : Fin 96 => { h.thm.sensors[i.val] with
      failed := h.thm.sensors[i.val].failed || failed i.val } },
    pwr := { h.pwr with badVolt := h.pwr.badVolt ||| ofBits 96 ((List.range 96).filter fun i => failed (96 + i)) } }).moveEntries
      (fun d => d.chan.toNat == c.val && d.kind.toNat == DefectKind.sensor.code) 1

/-! ### Repairs (R454, R464) -/

/-- The factory repair map, applied before the defect list (Table 16.1). -/
def State.applyFactory (s : State) (c : Chan) : State :=
  let f := s.mc.fuses
  let s1 := s.each (f.factoryOf c .lane) fun t d => t.onRepair c d.unit.toNat fun r => { r with
    repaired := r.repaired ||| (1#16 <<< (d.loc.toNat / 33)) }
  let s2 := s1.each (f.factoryOf c .bondWire) fun t d => t.onRepair c d.unit.toNat fun r => { r with
    spareUsed := r.spareUsed ||| (1#54 <<< (d.loc.toNat / 32)) }
  s2.each (f.factoryOf c .pump) fun t d => t.losePump c d.unit.toNat

/-- At a start every entry of a channel is applied anew, found again or not; none moves back (R454). -/
def State.applyAll (s : State) (c : Chan) : State :=
  let was := s.mc.firm.defects.filter fun d => d.chan.toNat == c.val && d.st == 1
  let again := fun (d : Defect) => if was.contains d then { d with st := 0 } else d
  let s1 := s.onMc fun m => { m with firm := { m.firm with defects := m.firm.defects.map again } }
  let s2 := ((s1.applyFactory c).applyRepairs c 0).applySensors c
  (s2.moveEntries (fun d => was.contains { d with st := 1 }) 1).onChan c fun h => { h with hbm := [], hbmUpset := [], hbmDead := [] }

/-- Byte ranges of a channel's HBM that allocations cover. -/
def State.hbmRanges (s : State) (c : Chan) : List (Nat × Nat) :=
  let a := s.addrOf c
  s.mc.ctxs.flatMap fun x => x.2.allocs.flatMap fun e =>
    match e.2.kind with
    | .hbm => if e.2.channel = a then [(e.2.base, e.2.size)] else []
    | .distributed => if e.2.pinned then [] else (e.2.bound.filter fun b => b.2.1 == a).map fun b => (b.2.2.1, e.2.size)
    | .pinned => []

/-- Place of a local HBM granule among those of a stack: lines of the stack in the order of the channel's (log entry 31). -/
def State.stackIx (s : State) (c : Chan) (st k : Nat) : Nat :=
  ((List.range (k / 128)).filter fun n => match s.hbmPlace c n with | some (u, _) => u / 32 == st | none => false).length * 128 + k % 128

/-- The ranged pass that a self-test makes over the lines of a stack that allocations cover: it checks without write-back and leaves its
summary (R258, R464). -/
def State.testStack (s : State) (c : Chan) (taken : List (Nat × Nat)) (st : Nat) : State :=
  let inStack := fun (t : State) (n : Nat) => match t.hbmPlace c n with | some (u, _) => u / 32 == st | none => false
  let lines := (taken.flatMap fun r => (List.range ((r.1 + r.2 + 4095) / 4096 - r.1 / 4096)).map (r.1 / 4096 + ·)).dedup.filter fun n =>
    inStack s n && !(s.chan c).isDead (128 * n)
  let ups := (s.chan c).hbmUpset.keys.filter fun k => lines.contains (k / 128)
  let s1 := (s.startPass c true st 0 0 false none).onCis c fun x => { x with busy := false }
  (s1.each ups fun t k =>
    let r := t.scrubKey c k false
    r.1.onCis c fun x => x.sum (s.stackIx c st k) r.2).onCis c fun x => { x with sumRead := 128 * lines.length }

/-- HBM in service: lines that an allocation covers are read without write-back, stack by stack; the others are tested destructively
(R464). -/
def State.testHbm (s : State) (c : Chan) : State :=
  let taken := s.hbmRanges c
  let covered := fun (k : Nat) => taken.any fun r => decide (r.1 / 4096 ≤ k / 128) && decide (k / 128 < (r.1 + r.2 + 4095) / 4096)
  let s1 := s.each (List.range 4) fun t st => t.testStack c taken st
  let s2 := s1.onChan c fun h => { h with hbm := h.hbm.filter fun e => covered e.1, hbmUpset := h.hbmUpset.filter fun e => covered e.1 }
  s2.each (s2.todo c .hbmRow) fun t d => t.applyHbmRow c d

/-- What a SELFTEST in service does to the units it tests, and the repairs it applies; those that rebuild a stack wait for a reset
(R401, R464). -/
def State.testParts (s : State) (c : Chan) (set : BitVec 8) : State :=
  let s1 := if partOf set 1 || partOf set 2 then s.applyPumps c else s
  let s2 := if partOf set 2 then s1.onChan c fun h => { h with pumps := h.pumps.map Pump.dieReset } else s1
  let s3 := if partOf set 3 then
      (s2.applyCistern c).onChan c fun h => { h with
        pumps := h.pumps.map (fun q => { q with slice := Slice.reset }), held := [], atoms := [], decls := [], fills := [] }
    else s2
  let s4 := if partOf set 5 then s3.applySensors c else s3
  if partOf set 4 then s4.testHbm c else s4

/-! ### The result (R453, Table 16.7) -/

/-- FAIL of the result word: the first condition of R453 that does not hold. -/
def State.testFail (s : State) (c : Chan) (f : TestFindings) (set : BitVec 8) : Nat :=
  let h := s.chan c
  let layers := fun (st : Nat) => ((s.mc.firm.defectsOf c .hbmLayer 0 ++ s.mc.firm.defectsOf c .hbmLayer 1).filter fun d =>
    d.unit.toNat / 32 == st).length
  if partOf set 0 ∧ !f.embankmentOk then 1
  else if !(h.polders.any fun p => !p.degraded) then 2
  else if h.stack.any fun k => k.pcUp == 0 || k.rate == 3 then 3
  else if (List.range 4).any fun st => decide (1 < layers st) then 4
  else if f.cold then 5
  else 0

/-- The result word. -/
def State.testWord (s : State) (c : Chan) (fail added : Nat) (set : BitVec 8) : Nat :=
  let h := s.chan c
  let flags := fun (n : Nat) (p : Nat → Bool) => ((List.range n).map fun i => bit (p i) * 2 ^ i).sum
  let k := fun (i : Nat) => h.stack.toList.getD i Stack.reset
  let bad := (h.thm.sensors.toList.filter (·.failed)).length + (bitsOf h.pwr.badVolt).length
  packReg [(0, 1, bit (fail == 0)), (1, 1, bit (added != 0)), (2, 1, bit (set != 0)), (8, 4, fail),
    (16, 16, flags 16 fun p => (h.polders.toList.getD p Polder.reset).degraded), (32, 4, flags 4 fun i => (k i).belowMin),
    (36, 4, flags 4 fun i => (k i).pcUp != 0 && ((k i).rate == 1 || (k i).rate == 2)), (40, 8, min 255 added), (48, 8, min 255 bad)]

/-- A channel that fails its test stays present and out of service; with its embankment at fault it is not enabled. -/
def State.testFailed (s : State) (c : Chan) (fail : Nat) : State :=
  let s1 := (s.leave c 2).onSt c fun x => (x.reason 1 false).reason 10 false
  if fail = 1 then (s1.each (List.finRange 12) fun t p => t.portTo c p .disabled id).onPwr c fun p => { p with lk := .off } else s1

/-- The jobs that a forced test took off its channels are admitted again, and the command completes (R383). -/
def State.afterForced (s : State) (c : Chan) (h : Hdr) : State :=
  let mine := s.mc.jobs.filter fun e => e.2.forced == some (h, c)
  ((s.each mine fun t e => t.onJob (unKey e.1).1 (unKey e.1).2 fun jb => { jb with flow := true }).flowsOn).endForced h c

/-- SELFTEST_COMPLETE: the test that runs on a channel ends. No test ends in the cold (R433). -/
def execSelftestComplete (c : Chan) (found : TestFindings) (s : State) : Res :=
  match s.mc.firm.testing.find? fun e => e.1 == c with
  | none => .next s
  | some e =>
    if (s.chan c).frozenCold then .next (s.onSt c fun x => { x with coldWait := true })
    else
      let set := e.2.1
      let first := (s.chan c).st.oos.getLsbD 1
      let s0 := (s.onMc fun m => { m with firm := { m.firm with testing := m.firm.testing.erase e } }).onSt c fun x => { x with coldWait := false }
      let (s1, added) := s0.listFindings c (if first then 1 else 5) (findings found set)
      let s2 := if first then s1.applyAll c else s1.testParts c set
      let fail := s2.testFail c found set
      let word := s2.testWord c fail added set
      let s3 := s2.onMc fun m => { m with firm := { m.firm with selftest := upd m.firm.selftest c fun _ => BitVec.ofNat 64 word } }
      let s4 := if fail = 0 then (s3.onSt c fun x => (x.reason 1 false).reason 2 false).enter c 10 else s3.testFailed c fail
      .next (match e.2.2 with
        | some h => (s4.mapSync c).afterForced c h
        | none => s4.mapSync c)

end Sys2Proof.Machine
end

