-- ==== Sys2Proof/Machine/Dispatch.lean ====
section
/-!
DEFINITION. The dispatch of a command to its meaning: one arm per constructor of Instr.
-/

namespace Sys2Proof.Machine

/-- The command's effect on everything but the queue. -/
def exec (i : Instr) (s : State) : Host.Outcome State Fault Refusal :=
  match i with
  | .mcOpModeWrite v => Sys2Proof.Machine.execMcOpModeWrite v s
  | .modeChangeReceipt c => Sys2Proof.Machine.execModeChangeReceipt c s
  | .railSettled c => Sys2Proof.Machine.execRailSettled c s
  | .voltageConfirmed c => Sys2Proof.Machine.execVoltageConfirmed c s
  | .voltageConfirmTimeout c => Sys2Proof.Machine.execVoltageConfirmTimeout c s
  | .modeRetry c => Sys2Proof.Machine.execModeRetry c s
  | .budgetComputation inputW => Sys2Proof.Machine.execBudgetComputation inputW s
  | .gnoverReset => Sys2Proof.Machine.execGnoverReset s
  | .pumpFrameDone c p => Sys2Proof.Machine.execPumpFrameDone c p s
  | .streamDeadlockCheck c p => Sys2Proof.Machine.execStreamDeadlockCheck c p s
  | .channelFrameDone c j => Sys2Proof.Machine.execChannelFrameDone c j s
  | .doneMarker c port tree r => Sys2Proof.Machine.execDoneMarker c port tree r s
  | .tickIssue c j => Sys2Proof.Machine.execTickIssue c j s
  | .tickMarker c port tree commit copy frame acc => Sys2Proof.Machine.execTickMarker c port tree commit copy frame acc s
  | .tickTakesEffect c j => Sys2Proof.Machine.execTickTakesEffect c j s
  | .localTick c => Sys2Proof.Machine.execLocalTick c s
  | .haltTickIssue c j => Sys2Proof.Machine.execHaltTickIssue c j s
  | .haltMarker c port tree copy acc => Sys2Proof.Machine.execHaltMarker c port tree copy acc s
  | .watchdogExpiry c j => Sys2Proof.Machine.execWatchdogExpiry c j s
  | .tickLost c j => Sys2Proof.Machine.execTickLost c j s
  | .failoverTakeover c j => Sys2Proof.Machine.execFailoverTakeover c j s
  | .inputCompleteNotice c j fromCh frame => Sys2Proof.Machine.execInputCompleteNotice c j fromCh frame s
  | .stWrite c off size64 v => Sys2Proof.Machine.execStWrite c off size64 v s
  | .stgCheck c j tag => Sys2Proof.Machine.execStgCheck c j tag s
  | .checkComplete c j => Sys2Proof.Machine.execCheckComplete c j s
  | .stgCommit c j tag => Sys2Proof.Machine.execStgCommit c j tag s
  | .stgUnlock c j => Sys2Proof.Machine.execStgUnlock c j s
  | .stgRevert c j => Sys2Proof.Machine.execStgRevert c j s
  | .commitTimeout c j => Sys2Proof.Machine.execCommitTimeout c j s
  | .windowClose c j => Sys2Proof.Machine.execWindowClose c j s
  | .urgentItemStart c j => Sys2Proof.Machine.execUrgentItemStart c j s
  | .urgentItemComplete c j => Sys2Proof.Machine.execUrgentItemComplete c j s
  | .nop c p f => Sys2Proof.Machine.execNop c p f s
  | .add c p f => Sys2Proof.Machine.execAdd c p f s
  | .sub c p f => Sys2Proof.Machine.execSub c p f s
  | .and c p f => Sys2Proof.Machine.execAnd c p f s
  | .or c p f => Sys2Proof.Machine.execOr c p f s
  | .xor c p f => Sys2Proof.Machine.execXor c p f s
  | .mul c p f => Sys2Proof.Machine.execMul c p f s
  | .addi c p f => Sys2Proof.Machine.execAddi c p f s
  | .shli c p f => Sys2Proof.Machine.execShli c p f s
  | .shri c p f => Sys2Proof.Machine.execShri c p f s
  | .li c p f => Sys2Proof.Machine.execLi c p f s
  | .beq c p f => Sys2Proof.Machine.execBeq c p f s
  | .bne c p f => Sys2Proof.Machine.execBne c p f s
  | .blt c p f => Sys2Proof.Machine.execBlt c p f s
  | .jmp c p f => Sys2Proof.Machine.execJmp c p f s
  | .ld c p f => Sys2Proof.Machine.execLd c p f s
  | .st c p f => Sys2Proof.Machine.execSt c p f s
  | .setsr c p f => Sys2Proof.Machine.execSetsr c p f s
  | .frn c p f => Sys2Proof.Machine.execFrn c p f s
  | .pid c p f => Sys2Proof.Machine.execPid c p f s
  | .dot c p f => Sys2Proof.Machine.execDot c p f s
  | .bqs c p f => Sys2Proof.Machine.execBqs c p f s
  | .acl c p f => Sys2Proof.Machine.execAcl c p f s
  | .acs c p f => Sys2Proof.Machine.execAcs c p f s
  | .acr c p f => Sys2Proof.Machine.execAcr c p f s
  | .lld c p f => Sys2Proof.Machine.execLld c p f s
  | .issue c p f => Sys2Proof.Machine.execIssue c p f s
  | .krn c p f => Sys2Proof.Machine.execKrn c p f s
  | .fence c p f => Sys2Proof.Machine.execFence c p f s
  | .done c p f => Sys2Proof.Machine.execDone c p f s
  | .ewMov c p f => Sys2Proof.Machine.execEwMov c p f s
  | .ewAdd c p f => Sys2Proof.Machine.execEwAdd c p f s
  | .ewSub c p f => Sys2Proof.Machine.execEwSub c p f s
  | .ewMul c p f => Sys2Proof.Machine.execEwMul c p f s
  | .ewMax c p f => Sys2Proof.Machine.execEwMax c p f s
  | .ewMin c p f => Sys2Proof.Machine.execEwMin c p f s
  | .ewFma c p f => Sys2Proof.Machine.execEwFma c p f s
  | .ewAbs c p f => Sys2Proof.Machine.execEwAbs c p f s
  | .ewNeg c p f => Sys2Proof.Machine.execEwNeg c p f s
  | .ewExp2 c p f => Sys2Proof.Machine.execEwExp2 c p f s
  | .ewLog2 c p f => Sys2Proof.Machine.execEwLog2 c p f s
  | .ewRcp c p f => Sys2Proof.Machine.execEwRcp c p f s
  | .ewRsqrt c p f => Sys2Proof.Machine.execEwRsqrt c p f s
  | .ewTanh c p f => Sys2Proof.Machine.execEwTanh c p f s
  | .ewIadd c p f => Sys2Proof.Machine.execEwIadd c p f s
  | .ewIsub c p f => Sys2Proof.Machine.execEwIsub c p f s
  | .ewImax c p f => Sys2Proof.Machine.execEwImax c p f s
  | .ewImin c p f => Sys2Proof.Machine.execEwImin c p f s
  | .ewCvtif c p f => Sys2Proof.Machine.execEwCvtif c p f s
  | .ewCvtfi c p f => Sys2Proof.Machine.execEwCvtfi c p f s
  | .operationBegin c p u => Sys2Proof.Machine.execOperationBegin c p u s
  | .operationComplete c p u => Sys2Proof.Machine.execOperationComplete c p u s
  | .bondReadDelivery c p gran err => Sys2Proof.Machine.execBondReadDelivery c p gran err s
  | .ueReread c p err => Sys2Proof.Machine.execUeReread c p err s
  | .kernelLaunch c p => Sys2Proof.Machine.execKernelLaunch c p s
  | .kernelComplete c p => Sys2Proof.Machine.execKernelComplete c p s
  | .loadResult c p g => Sys2Proof.Machine.execLoadResult c p g s
  | .sliceAtomicPerform c p => Sys2Proof.Machine.execSliceAtomicPerform c p s
  | .barrierDivergence c p g => Sys2Proof.Machine.execBarrierDivergence c p g s
  | .teAdd c p g rd ra rb => Sys2Proof.Machine.execTeAdd c p g rd ra rb s
  | .teSub c p g rd ra rb => Sys2Proof.Machine.execTeSub c p g rd ra rb s
  | .teMul c p g rd ra rb => Sys2Proof.Machine.execTeMul c p g rd ra rb s
  | .teAnd c p g rd ra rb => Sys2Proof.Machine.execTeAnd c p g rd ra rb s
  | .teOr c p g rd ra rb => Sys2Proof.Machine.execTeOr c p g rd ra rb s
  | .teXor c p g rd ra rb => Sys2Proof.Machine.execTeXor c p g rd ra rb s
  | .teShl c p g rd ra rb => Sys2Proof.Machine.execTeShl c p g rd ra rb s
  | .teShr c p g rd ra rb => Sys2Proof.Machine.execTeShr c p g rd ra rb s
  | .teSar c p g rd ra rb => Sys2Proof.Machine.execTeSar c p g rd ra rb s
  | .teMin c p g rd ra rb => Sys2Proof.Machine.execTeMin c p g rd ra rb s
  | .teMax c p g rd ra rb => Sys2Proof.Machine.execTeMax c p g rd ra rb s
  | .teSel c p g rd rp ra rb => Sys2Proof.Machine.execTeSel c p g rd rp ra rb s
  | .teCompare c p g cmp rd ra rb => Sys2Proof.Machine.execTeCompare c p g cmp rd ra rb s
  | .teFadd c p g rd ra rb => Sys2Proof.Machine.execTeFadd c p g rd ra rb s
  | .teFmul c p g rd ra rb => Sys2Proof.Machine.execTeFmul c p g rd ra rb s
  | .teFfma c p g rd ra rb rc => Sys2Proof.Machine.execTeFfma c p g rd ra rb rc s
  | .teFmin c p g rd ra rb => Sys2Proof.Machine.execTeFmin c p g rd ra rb s
  | .teFmax c p g rd ra rb => Sys2Proof.Machine.execTeFmax c p g rd ra rb s
  | .teFcompare c p g cmp rd ra rb => Sys2Proof.Machine.execTeFcompare c p g cmp rd ra rb s
  | .teExp2 c p g rd ra => Sys2Proof.Machine.execTeExp2 c p g rd ra s
  | .teLog2 c p g rd ra => Sys2Proof.Machine.execTeLog2 c p g rd ra s
  | .teRcp c p g rd ra => Sys2Proof.Machine.execTeRcp c p g rd ra s
  | .teRsqrt c p g rd ra => Sys2Proof.Machine.execTeRsqrt c p g rd ra s
  | .teTanh c p g rd ra => Sys2Proof.Machine.execTeTanh c p g rd ra s
  | .teCvt c p g src dst sr rd ra ri => Sys2Proof.Machine.execTeCvt c p g src dst sr rd ra ri s
  | .teTid c p g rd => Sys2Proof.Machine.execTeTid c p g rd s
  | .teGid c p g rd => Sys2Proof.Machine.execTeGid c p g rd s
  | .teNgrp c p g rd => Sys2Proof.Machine.execTeNgrp c p g rd s
  | .tePid c p g rd => Sys2Proof.Machine.execTePid c p g rd s
  | .teFrn c p g rd => Sys2Proof.Machine.execTeFrn c p g rd s
  | .teTime c p g rd => Sys2Proof.Machine.execTeTime c p g rd s
  | .teLd c p g sp size rd addr => Sys2Proof.Machine.execTeLd c p g sp size rd addr s
  | .fillOpen c p addr => Sys2Proof.Machine.execFillOpen c p addr s
  | .fillDelivery c addr => Sys2Proof.Machine.execFillDelivery c addr s
  | .teSt c p g sp size addr rs => Sys2Proof.Machine.execTeSt c p g sp size addr rs s
  | .tePf c p g sp addr => Sys2Proof.Machine.execTePf c p g sp addr s
  | .teAtomSAdd c p g w64 ret rd addr rs => Sys2Proof.Machine.execTeAtomSAdd c p g w64 ret rd addr rs s
  | .teAtomSMin c p g w64 ret rd addr rs => Sys2Proof.Machine.execTeAtomSMin c p g w64 ret rd addr rs s
  | .teAtomSMax c p g w64 ret rd addr rs => Sys2Proof.Machine.execTeAtomSMax c p g w64 ret rd addr rs s
  | .teAtomSAnd c p g w64 ret rd addr rs => Sys2Proof.Machine.execTeAtomSAnd c p g w64 ret rd addr rs s
  | .teAtomSOr c p g w64 ret rd addr rs => Sys2Proof.Machine.execTeAtomSOr c p g w64 ret rd addr rs s
  | .teAtomSXor c p g w64 ret rd addr rs => Sys2Proof.Machine.execTeAtomSXor c p g w64 ret rd addr rs s
  | .teAtomSExch c p g w64 ret rd addr rs => Sys2Proof.Machine.execTeAtomSExch c p g w64 ret rd addr rs s
  | .teAtomSCas c p g w64 ret rd addr rs rt => Sys2Proof.Machine.execTeAtomSCas c p g w64 ret rd addr rs rt s
  | .teAtomGAdd c p g w64 ret rd addr rs => Sys2Proof.Machine.execTeAtomGAdd c p g w64 ret rd addr rs s
  | .teAtomGMin c p g w64 ret rd addr rs => Sys2Proof.Machine.execTeAtomGMin c p g w64 ret rd addr rs s
  | .teAtomGMax c p g w64 ret rd addr rs => Sys2Proof.Machine.execTeAtomGMax c p g w64 ret rd addr rs s
  | .teAtomGAnd c p g w64 ret rd addr rs => Sys2Proof.Machine.execTeAtomGAnd c p g w64 ret rd addr rs s
  | .teAtomGOr c p g w64 ret rd addr rs => Sys2Proof.Machine.execTeAtomGOr c p g w64 ret rd addr rs s
  | .teAtomGXor c p g w64 ret rd addr rs => Sys2Proof.Machine.execTeAtomGXor c p g w64 ret rd addr rs s
  | .teExchG c p g w64 rd addr rs => Sys2Proof.Machine.execTeExchG c p g w64 rd addr rs s
  | .teCasG c p g w64 rd addr rs rt => Sys2Proof.Machine.execTeCasG c p g w64 rd addr rs rt s
  | .teFatomAdd c p g sp addr rs => Sys2Proof.Machine.execTeFatomAdd c p g sp addr rs s
  | .teLadd c p g sp lexp addr rs => Sys2Proof.Machine.execTeLadd c p g sp lexp addr rs s
  | .teLrd c p g fmt lexp rd addr => Sys2Proof.Machine.execTeLrd c p g fmt lexp rd addr s
  | .teBr c p g rp target join => Sys2Proof.Machine.execTeBr c p g rp target join s
  | .teJmp c p g target => Sys2Proof.Machine.execTeJmp c p g target s
  | .teCall c p g target => Sys2Proof.Machine.execTeCall c p g target s
  | .teRet c p g => Sys2Proof.Machine.execTeRet c p g s
  | .teJoin c p g => Sys2Proof.Machine.execTeJoin c p g s
  | .teExit c p g => Sys2Proof.Machine.execTeExit c p g s
  | .teBar c p g n => Sys2Proof.Machine.execTeBar c p g n s
  | .teBarK c p g => Sys2Proof.Machine.execTeBarK c p g s
  | .teFence c p g => Sys2Proof.Machine.execTeFence c p g s
  | .xfrCopy c p f => Sys2Proof.Machine.execXfrCopy c p f s
  | .xfrTcopy c p f => Sys2Proof.Machine.execXfrTcopy c p f s
  | .xfrCombine c p f => Sys2Proof.Machine.execXfrCombine c p f s
  | .xfrReadout c p f => Sys2Proof.Machine.execXfrReadout c p f s
  | .xfrDead c p f => Sys2Proof.Machine.execXfrDead c p f s
  | .xfrHalo c p f => Sys2Proof.Machine.execXfrHalo c p f s
  | .xfrWarm c p f => Sys2Proof.Machine.execXfrWarm c p f s
  | .xfrComplete c p => Sys2Proof.Machine.execXfrComplete c p s
  | .heldEntryDrain c => Sys2Proof.Machine.execHeldEntryDrain c s
  | .epochSweep c => Sys2Proof.Machine.execEpochSweep c s
  | .markPlaneClear c => Sys2Proof.Machine.execMarkPlaneClear c s
  | .cisModeWrite c v => Sys2Proof.Machine.execCisModeWrite c v s
  | .cisClear c v => Sys2Proof.Machine.execCisClear c v s
  | .clearComplete c => Sys2Proof.Machine.execClearComplete c s
  | .ceClear c => Sys2Proof.Machine.execCeClear c s
  | .logClear c => Sys2Proof.Machine.execLogClear c s
  | .scrubStep c hbm unit gran err => Sys2Proof.Machine.execScrubStep c hbm unit gran err s
  | .scrubWindow c => Sys2Proof.Machine.execScrubWindow c s
  | .scrubRangeGo c v => Sys2Proof.Machine.execScrubRangeGo c v s
  | .scrubPassComplete c => Sys2Proof.Machine.execScrubPassComplete c s
  | .refresh c st => Sys2Proof.Machine.execRefresh c st s
  | .hbmReadRecentre c => Sys2Proof.Machine.execHbmReadRecentre c s
  | .hbmTrainingComplete c st rate pcUp => Sys2Proof.Machine.execHbmTrainingComplete c st rate pcUp s
  | .burstBoundary c port => Sys2Proof.Machine.execBurstBoundary c port s
  | .overdue c port req => Sys2Proof.Machine.execOverdue c port req s
  | .masterPortRelease c cls j => Sys2Proof.Machine.execMasterPortRelease c cls j s
  | .arbFreezeHbm c st v => Sys2Proof.Machine.execArbFreezeHbm c st v s
  | .arbFreezeLnk c v => Sys2Proof.Machine.execArbFreezeLnk c v s
  | .portEnableWrite c port v => Sys2Proof.Machine.execPortEnableWrite c port v s
  | .retrain c port => Sys2Proof.Machine.execRetrain c port s
  | .drainComplete c port => Sys2Proof.Machine.execDrainComplete c port s
  | .signalDetect c port lanes => Sys2Proof.Machine.execSignalDetect c port lanes s
  | .trainStepComplete c port info => Sys2Proof.Machine.execTrainStepComplete c port info s
  | .trainingTimeout c port => Sys2Proof.Machine.execTrainingTimeout c port s
  | .downTimer c port => Sys2Proof.Machine.execDownTimer c port s
  | .lossOfSignal c port => Sys2Proof.Machine.execLossOfSignal c port s
  | .laneFailure c port lane => Sys2Proof.Machine.execLaneFailure c port lane s
  | .replayTimeout c port => Sys2Proof.Machine.execReplayTimeout c port s
  | .slotEntryOpen c port => Sys2Proof.Machine.execSlotEntryOpen c port s
  | .equalisation c port latQns => Sys2Proof.Machine.execEqualisation c port latQns s
  | .writeFlit c port fh recs => Sys2Proof.Machine.execWriteFlit c port fh recs s
  | .readFlit c port fh lines => Sys2Proof.Machine.execReadFlit c port fh lines s
  | .rdataFlit c port fh data => Sys2Proof.Machine.execRdataFlit c port fh data s
  | .combineFlit c port fh frame data => Sys2Proof.Machine.execCombineFlit c port fh frame data s
  | .wackFlit c port fh acks => Sys2Proof.Machine.execWackFlit c port fh acks s
  | .atomicFlit c port fh recs => Sys2Proof.Machine.execAtomicFlit c port fh recs s
  | .respErrFlit c port fh j hcmd code => Sys2Proof.Machine.execRespErrFlit c port fh j hcmd code s
  | .mcastFlit c port fh frame recs sums => Sys2Proof.Machine.execMcastFlit c port fh frame recs sums s
  | .reduceFlit c port fh ledgers => Sys2Proof.Machine.execReduceFlit c port fh ledgers s
  | .mgmtFlit c port fh rec => Sys2Proof.Machine.execMgmtFlit c port fh rec s
  | .ctrlFlit c port info => Sys2Proof.Machine.execCtrlFlit c port info s
  | .unknownFlit c port ty => Sys2Proof.Machine.execUnknownFlit c port ty s
  | .faultMarker c port tree cause reporter => Sys2Proof.Machine.execFaultMarker c port tree cause reporter s
  | .nakMarker c port seq => Sys2Proof.Machine.execNakMarker c port seq s
  | .ackMarker c port seq => Sys2Proof.Machine.execAckMarker c port seq s
  | .creditMarker c port buf count => Sys2Proof.Machine.execCreditMarker c port buf count s
  | .echoMarker c port stamp => Sys2Proof.Machine.execEchoMarker c port stamp s
  | .discoverySettle => Sys2Proof.Machine.execDiscoverySettle s
  | .moduleJoin => Sys2Proof.Machine.execModuleJoin s
  | .collectiveStart c j vch entry => Sys2Proof.Machine.execCollectiveStart c j vch entry s
  | .mapChange rec => Sys2Proof.Machine.execMapChange rec s
  | .mapKeeperTakeover lost => Sys2Proof.Machine.execMapKeeperTakeover lost s
  | .claim c who r => Sys2Proof.Machine.execClaim c who r s
  | .claimReply r at_ granted => Sys2Proof.Machine.execClaimReply r at_ granted s
  | .claimLapse c who => Sys2Proof.Machine.execClaimLapse c who s
  | .tableWriteAck fromCh => Sys2Proof.Machine.execTableWriteAck fromCh s
  | .placementRetry => Sys2Proof.Machine.execPlacementRetry s
  | .placeDeadline => Sys2Proof.Machine.execPlaceDeadline s
  | .doorbell ctx local_ bytes v => Sys2Proof.Machine.execDoorbell ctx local_ bytes v s
  | .adminDoorbell fn v => Sys2Proof.Machine.execAdminDoorbell fn v s
  | .mcAdmRingWrite fn cq v => Sys2Proof.Machine.execMcAdmRingWrite fn cq v s
  | .descriptorFetch ring d => Sys2Proof.Machine.execDescriptorFetch ring d s
  | .completionWrite ring => Sys2Proof.Machine.execCompletionWrite ring s
  | .interruptTimer ring => Sys2Proof.Machine.execInterruptTimer ring s
  | .ctxCreate h home pasid pasidEn => Sys2Proof.Machine.execCtxCreate h home pasid pasidEn s
  | .ctxDestroy h ctx force => Sys2Proof.Machine.execCtxDestroy h ctx force s
  | .wellCreate h ctx w => Sys2Proof.Machine.execWellCreate h ctx w s
  | .wellDestroy h ctx w => Sys2Proof.Machine.execWellDestroy h ctx w s
  | .wellResume h ctx w => Sys2Proof.Machine.execWellResume h ctx w s
  | .alloc h a => Sys2Proof.Machine.execAlloc h a s
  | .free h handle => Sys2Proof.Machine.execFree h handle s
  | .mapHost h hva size dva rights => Sys2Proof.Machine.execMapHost h hva size dva rights s
  | .descCreate h d => Sys2Proof.Machine.execDescCreate h d s
  | .descDestroy h handle => Sys2Proof.Machine.execDescDestroy h handle s
  | .copy h k => Sys2Proof.Machine.execCopy h k s
  | .copyTcopy h k => Sys2Proof.Machine.execCopyTcopy h k s
  | .copyCombine h k => Sys2Proof.Machine.execCopyCombine h k s
  | .copyReadout h k => Sys2Proof.Machine.execCopyReadout h k s
  | .copyDead h k => Sys2Proof.Machine.execCopyDead h k s
  | .loadImage h im => Sys2Proof.Machine.execLoadImage h im s
  | .start h image pol => Sys2Proof.Machine.execStart h image pol s
  | .checkpoint h job => Sys2Proof.Machine.execCheckpoint h job s
  | .stop h job ckpt => Sys2Proof.Machine.execStop h job ckpt s
  | .urgent h entry len args => Sys2Proof.Machine.execUrgent h entry len args s
  | .stage h job member off v mask => Sys2Proof.Machine.execStage h job member off v mask s
  | .check h job tag => Sys2Proof.Machine.execCheck h job tag s
  | .commit h job tag => Sys2Proof.Machine.execCommit h job tag s
  | .queryIdentity h buf len => Sys2Proof.Machine.execQueryIdentity h buf len s
  | .queryJob h job buf len => Sys2Proof.Machine.execQueryJob h job buf len s
  | .queryCounters h job buf len => Sys2Proof.Machine.execQueryCounters h job buf len s
  | .queryFabricMap h buf len => Sys2Proof.Machine.execQueryFabricMap h buf len s
  | .queryScrub h c range buf len => Sys2Proof.Machine.execQueryScrub h c range buf len s
  | .queryAttest h nonce buf len => Sys2Proof.Machine.execQueryAttest h nonce buf len s
  | .queryBlackBox h c buf len => Sys2Proof.Machine.execQueryBlackBox h c buf len s
  | .selftest h c force testSet => Sys2Proof.Machine.execSelftest h c force testSet s
  | .deferredSelftest c => Sys2Proof.Machine.execDeferredSelftest c s
  | .selftestComplete c found => Sys2Proof.Machine.execSelftestComplete c found s
  | .hostLinkReset => Sys2Proof.Machine.execHostLinkReset s
  | .flrVf vf => Sys2Proof.Machine.execFlrVf vf s
  | .flrPf => Sys2Proof.Machine.execFlrPf s
  | .atsInvalidation ctx hva size => Sys2Proof.Machine.execAtsInvalidation ctx hva size s
  | .apertureRead off bytes => Sys2Proof.Machine.execApertureRead off bytes s
  | .apertureWrite off data => Sys2Proof.Machine.execApertureWrite off data s
  | .faultFlow ctx job => Sys2Proof.Machine.execFaultFlow ctx job s
  | .blackBoxFlashCopy c => Sys2Proof.Machine.execBlackBoxFlashCopy c s
  | .captureComplete c j => Sys2Proof.Machine.execCaptureComplete c j s
  | .checkpointComplete c j => Sys2Proof.Machine.execCheckpointComplete c j s
  | .buddySlotLost c j => Sys2Proof.Machine.execBuddySlotLost c j s
  | .restoreComplete ctx job => Sys2Proof.Machine.execRestoreComplete ctx job s
  | .chResetPumpDie c => Sys2Proof.Machine.execChResetPumpDie c s
  | .chResetChannel c retain => Sys2Proof.Machine.execChResetChannel c retain s
  | .pumpDieResetComplete c spareFails => Sys2Proof.Machine.execPumpDieResetComplete c spareFails s
  | .channelResetComplete c spareFails => Sys2Proof.Machine.execChannelResetComplete c spareFails s
  | .embReset c => Sys2Proof.Machine.execEmbReset c s
  | .embankmentResetComplete c => Sys2Proof.Machine.execEmbankmentResetComplete c s
  | .deferredReset c => Sys2Proof.Machine.execDeferredReset c s
  | .bondCtlLoss c p sig copy => Sys2Proof.Machine.execBondCtlLoss c p sig copy s
  | .sequencerTimeout c => Sys2Proof.Machine.execSequencerTimeout c s
  | .bbxRelease c => Sys2Proof.Machine.execBbxRelease c s
  | .bbxFreeze c => Sys2Proof.Machine.execBbxFreeze c s
  | .droopSample c mv => Sys2Proof.Machine.execDroopSample c mv s
  | .railFault c rail phase => Sys2Proof.Machine.execRailFault c rail phase s
  | .phaseLoss c phase => Sys2Proof.Machine.execPhaseLoss c phase s
  | .budgetController c avgW avgA => Sys2Proof.Machine.execBudgetController c avgW avgA s
  | .polderSleep c pd => Sys2Proof.Machine.execPolderSleep c pd s
  | .powerUpSlot c pd => Sys2Proof.Machine.execPowerUpSlot c pd s
  | .rampStart c => Sys2Proof.Machine.execRampStart c s
  | .rampStep c => Sys2Proof.Machine.execRampStep c s
  | .temperatureSample c t => Sys2Proof.Machine.execTemperatureSample c t s
  | .criticalRecovery c => Sys2Proof.Machine.execCriticalRecovery c s
  | .coldRecovery c => Sys2Proof.Machine.execColdRecovery c s
  | .mainInputSample mv watts => Sys2Proof.Machine.execMainInputSample mv watts s
  | .mainInputRestored => Sys2Proof.Machine.execMainInputRestored s
  | .mainOvervoltage => Sys2Proof.Machine.execMainOvervoltage s
  | .auxInputLoss => Sys2Proof.Machine.execAuxInputLoss s
  | .oscillatorCompensation wantPpb => Sys2Proof.Machine.execOscillatorCompensation wantPpb s
  | .bandgapCorrection c trim => Sys2Proof.Machine.execBandgapCorrection c trim s
  | .sensorCalibration c sensor movedMv => Sys2Proof.Machine.execSensorCalibration c sensor movedMv s
  | .pwrCfgWrite c v => Sys2Proof.Machine.execPwrCfgWrite c v s
  | .powerOn mainOk listOk => Sys2Proof.Machine.execPowerOn mainOk listOk s
  | .csmDigestReport c digest => Sys2Proof.Machine.execCsmDigestReport c digest s
  | .modResetN level => Sys2Proof.Machine.execModResetN level s
  | .readSensor c => Sys2Proof.Machine.execReadSensor c s
  | .fwWrite im => Sys2Proof.Machine.execFwWrite im s
  | .fwActivate kind bankB => Sys2Proof.Machine.execFwActivate kind bankB s
  | .svnCommit => Sys2Proof.Machine.execSvnCommit s
  | .rootAdd hash auth => Sys2Proof.Machine.execRootAdd hash auth s
  | .rootRevoke slot auth => Sys2Proof.Machine.execRootRevoke slot auth s
  | .defectRead => Sys2Proof.Machine.execDefectRead s
  | .bbxRead c copy => Sys2Proof.Machine.execBbxRead c copy s
  | .debugChallenge => Sys2Proof.Machine.execDebugChallenge s
  | .debugResponse auth => Sys2Proof.Machine.execDebugResponse auth s
  | .debugLock => Sys2Proof.Machine.execDebugLock s
  | .debugChallengeExpiry => Sys2Proof.Machine.execDebugChallengeExpiry s
  | .jobPolicySet hash => Sys2Proof.Machine.execJobPolicySet hash s
  | .attest nonce => Sys2Proof.Machine.execAttest nonce s
  | .moduleReset => Sys2Proof.Machine.execModuleReset s
  | .bypass => Sys2Proof.Machine.execBypass s
  | .idcode => Sys2Proof.Machine.execIdcode s
  | .samplePreload => Sys2Proof.Machine.execSamplePreload s
  | .extest => Sys2Proof.Machine.execExtest s
  | .registerWrite via addr size64 v => Sys2Proof.Machine.execRegisterWrite via addr size64 v s
  | .unassignedOpcode c p w => Sys2Proof.Machine.execUnassignedOpcode c p w s
  | .ewUnassignedFn c p f => Sys2Proof.Machine.execEwUnassignedFn c p f s
  | .xfrReservedOpc c p f => Sys2Proof.Machine.execXfrReservedOpc c p f s
  | .gnoverResetComplete => Sys2Proof.Machine.execGnoverResetComplete s
  | .hostLinkUp gen width flit refclk => Sys2Proof.Machine.execHostLinkUp gen width flit refclk s
  | .hostDataReceipt c j input frame recs => Sys2Proof.Machine.execHostDataReceipt c j input frame recs s
  | .atsTranslationCompletion ok j hcmd => Sys2Proof.Machine.execAtsTranslationCompletion ok j hcmd s
  | .msixVectorUnmask fn vec => Sys2Proof.Machine.execMsixVectorUnmask fn vec s
  | .vfEnable n => Sys2Proof.Machine.execVfEnable n s
  | .registerRead via addr size64 => Sys2Proof.Machine.execRegisterRead via addr size64 s

end Sys2Proof.Machine
end

