-- ==== Sys2Proof/Safety.lean ====
section
/-!
DEFINITION. The terms in which the statements are made: what a safe step is, what a command answers, what differs
between two states, and the conditions under which the units of a pump act.
-/

namespace Sys2Proof.Machine

/-- A step that answers a next state. -/
def goesOn (r : Host.Outcome State Fault Refusal) : Prop := ∃ t, r = .next t

/-- Every waiting command has operands that a command can have. -/
def queueWf (s : State) : Prop := ∀ i ∈ s.pending, i.wf = true

/-- A command answers a next state of which something holds. -/
def Answers (r : Res) (P : State → Prop) : Prop := ∃ t, r = .next t ∧ P t

/-! ### Frames: what a command changes at most -/

/-- Nothing changes but a pump of a channel. -/
def OnlyPump (c : Chan) (p : PumpIx) (s t : State) : Prop := t = s.onPump c p fun _ => t.pump c p

/-- Nothing changes but a channel. -/
def OnlyChan (c : Chan) (s t : State) : Prop := t = s.onChan c fun _ => t.chan c

/-- Nothing changes but a slot of a channel. -/
def OnlySlot (c : Chan) (j : SlotIx) (s t : State) : Prop := t = s.onSlot c j fun _ => t.slot c j

/-- Nothing changes but Gnover. -/
def OnlyMc (s t : State) : Prop := t = s.onMc fun _ => t.mc

/-- A channel as a module reset leaves it: every field as after reset, its failed lanes and adders as they are, HBM_CAP as the fuses and
the defect list give it (R3, R270, R489). -/
def FreshChan (s t : State) (d : Chan) : Prop :=
  t.chan d = { Channel.reset with
    badLanes := (s.chan d).badLanes, badAdders := (s.chan d).badAdders, stack := (t.chan d).stack } ∧
  ∀ i : Fin 4, ((t.chan d).stack[i.val]).lines = (t.stackCaps d i.val).sum

/-! ### Memory -/

/-- The canonical form of a channel's memory: addresses strictly rising; no listed HBM granule is zero (log entry 4). A slice lists
the granules whose valid bit is set, a zero among them. -/
abbrev Memory.wf (h : Channel) : Prop :=
  SMap.wf h.hbm 0 ∧ ∀ p : PumpIx, SMap.sorted h.pumps[p.val].slice.mem

/-- Nothing at a granule of a pump's own slice needs attention before it is read: no held entry, atomic, declaration or
inbound value is due there, it lies in no dead range and no error is stored in it. -/
def PlainGranule (s : State) (c : Chan) (p : PumpIx) (g : Nat) : Prop :=
  (∀ e ∈ (s.chan c).held, offKey e.off ≠ sliceKey p g) ∧ (∀ a ∈ (s.chan c).atoms, offKey a.atom.off ≠ sliceKey p g) ∧
  (∀ d ∈ (s.chan c).decls, ¬(offKey d.off ≤ sliceKey p g ∧ sliceKey p g < offKey d.off + 128 * d.count)) ∧
  (s.slice c p).inbound.look g = none ∧ deadAt (s.slice c p).dead (g / 128) = none ∧ (s.slice c p).upset.readD 0 g = 0

/-! ### The controller of a pump -/

/-- A running controller stands at a word whose row of program memory is sound (R66). -/
def AtWord (s : State) (c : Chan) (p : PumpIx) (w : BitVec 64) : Prop :=
  (s.pump c p).at_ w = true ∧ (s.pump c p).progUp.readD 0 ((s.pump c p).pc / 4) = 0

/-- A running controller stands at a word of an opcode. -/
def AtOp (s : State) (c : Chan) (p : PumpIx) (op : Nat) (f : BitVec 58) : Prop := AtWord s c p (ctlWord op f)

/-- A running controller stands at a scalar word whose unused fields are zero (R69). -/
def AtScalar (s : State) (c : Chan) (p : PumpIx) (op : Nat) (u : Uses) (f : BitVec 58) : Prop :=
  AtOp s c p op f ∧ u.clean f = true

/-- The controller wrote x[RD] and went on to the next word. -/
def Pump.wrote (q : Pump) (rd : Nat) (v : BitVec 64) : Pump := { q.setReg rd v with pc := q.pc + 1 }

/-- The row of data memory that holds a byte address is sound (R66). -/
def DataSound (s : State) (c : Chan) (p : PumpIx) (a : Int) : Prop := (s.pump c p).dmemUp.readD 0 (a.toNat / 32) = 0

/-- An operation was placed in the queue of a unit and the controller went on. -/
def Pump.queuedIn (q : Pump) (u : RowUnit) (now : Nat) : Pump :=
  { q with queued := upd q.queued (unitIx u) (· + 1), issued := upd q.issued (unitIx u) (· ++ [now]), pc := q.pc + 1 }

/-- A row word that can issue and that nothing holds up: nothing waits before it, its unit has room, its fields are permitted and its
granules pinned (R67-R69). -/
def RowReady (s : State) (c : Chan) (p : PumpIx) (u : RowUnit) (w : BitVec 64) : Prop :=
  rowUnit (wOp w) = some u ∧ (s.pump c p).todo = [] ∧ (s.pump c p).full u = false ∧ rowFieldsOk w = true ∧
  (s.chan c).spanOk ((s.pump c p).rowOp u w).span = true ∧ (s.pump c p).pc + 1 < 8192

/-- No queue entry, lane-store row or accumulator entry of a pump is damaged, and no lane of the channel fails (R66, R96). -/
def RowSound (s : State) (c : Chan) (p : PumpIx) : Prop :=
  (∀ e ∈ (s.pump c p).bq, e.2 = 0) ∧ (s.pump c p).laneUp = [] ∧ (s.pump c p).accBad = [] ∧ (s.chan c).badLanes = []

/-- The next n steps of a DOT, each with the queue entries that it takes (R86, R87, R89). -/
def Pump.dotRun (q : Pump) (o : RowOp) : Nat → Pump
  | 0 => q
  | n + 1 =>
    match (dotSteps o.word)[o.pos]? with
    | none => q
    | some x =>
      let r := ({ q with bq := q.bq.drop (stepNeeds x) } : Pump).dotStepOn o x ((q.bq.take (stepNeeds x)).map (·.1))
      r.1.dotRun r.2 n

/-- Queue entries that a DOT takes in all. -/
def dotTakes (w : BitVec 64) : Nat := ((dotSteps w).map stepNeeds).sum

/-- A DOT word that issued and ran to its end. -/
def Pump.dotDone (q : Pump) (w : BitVec 64) (now : Nat) : Pump :=
  ((q.queuedIn .multiply now).dotStart w).dotRun (q.rowOp .multiply w) (dotSteps w).length

/-- A running controller stands at a word that names a descriptor in sound data memory, of a unit that nothing holds up (R66-R69). -/
def DescReady (s : State) (c : Chan) (p : PumpIx) (u : RowUnit) (op : Nat) (f : BitVec 58) : Prop :=
  AtScalar s c p op ⟨false, true, false, 43⟩ f ∧ (s.pump c p).todo = [] ∧ (s.pump c p).full u = false ∧
  (s.pump c p).dataAddr f % 8 = 0 ∧ 0 ≤ (s.pump c p).dataAddr f ∧ (s.pump c p).dataAddr f + 64 ≤ 0x8000 ∧
  (s.pump c p).dmemUp = [] ∧ (s.pump c p).pc + 1 < 8192

/-- What an XFR or a KRN word issues, with what it touches (R68, R141). -/
def State.descWord (s : State) (c : Chan) (p : PumpIx) (u : RowUnit) (f : BitVec 58) : RowOp :=
  s.withTouches c p ((s.pump c p).descOp u ((s.pump c p).dataAddr f))

/-- When a unit can begin its oldest queued operation: the polder's pause after the operation was issued and the unit was free
(R98). -/
def State.beginNs (s : State) (c : Chan) (p : PumpIx) (u : RowUnit) : Nat :=
  max ((s.pump c p).issued[(unitIx u).val].headD 0) (s.pump c p).freeNs[(unitIx u).val] +
    (s.chan c).pwr.pauseNs ((s.chan c).pause (polderOf p)).1

/-- A pump whose unit began its oldest queued operation after a pause of `ns` of a cause (R67, R98). -/
def Pump.begun (q : Pump) (u : RowUnit) (ns cause : Nat) : Pump :=
  { q with queued := upd q.queued (unitIx u) (· - 1), running := upd q.running (unitIx u) (· + 1),
           issued := upd q.issued (unitIx u) (·.drop 1),
           waits := if ns = 0 then q.waits else upd q.waits (if cause = 2 then 4 else 2) (· + ns) }

/-- A unit began its oldest queued operation, once the pause was over. -/
def State.begun (s : State) (c : Chan) (p : PumpIx) (u : RowUnit) : State :=
  (s.until (s.beginNs c p u)).onPump c p fun x =>
    x.begun u ((s.chan c).pwr.pauseNs ((s.chan c).pause (polderOf p)).1) ((s.chan c).pause (polderOf p)).2

/-- An operation of a unit ended. -/
def Pump.ended (q : Pump) (u : RowUnit) (now : Nat) : Pump :=
  { q with running := upd q.running (unitIx u) (· - 1), freeNs := upd q.freeNs (unitIx u) fun _ => now }

/-! ### The thread engine -/

/-- An instruction of a slot can issue: the kernel runs, it is the slot's turn, its current path is live, the row of its code is sound,
and no source awaits a result in a lane of the path (R66, R144). -/
def TeReady (s : State) (c : Chan) (p : PumpIx) (g : GSlot) (k : Kernel) (x : Group) (y : Path) (srcs : List TReg) : Prop :=
  s.teReady c p g = some (k, x, y) ∧ (s.pump c p).te.codeUp.readD 0 (y.pc / 4) = 0 ∧ x.awaits y.mask srcs = false

/-- What an instruction does first: results under way to the registers that it writes are not delivered (R160). -/
def State.teStart (s : State) (c : Chan) (p : PumpIx) (g : GSlot) (y : Path) (dsts : List TReg) : State :=
  s.onGroup c p g fun u => u.cancel y.mask dsts

/-- What every instruction does last: its registers enter the register cache, and the turn moves on. -/
def State.teAfter (s : State) (c : Chan) (p : PumpIx) (g : GSlot) (rs : List TReg) : State :=
  (s.onGroup c p g fun u => u.cacheUse rs).onTe c p fun t => t.turned g

/-- A value written into a register of every lane of a mask. -/
def Group.lanes (x : Group) (m : BitVec 32) (rd : TReg) (f : Nat → BitVec 32) : Group :=
  (lanesOf m).foldl (fun v l => v.set l.val rd.toNat (f l.val)) x

/-- An instruction changed only its group, which no longer waits for the registers that it wrote. -/
def State.groupStep (s : State) (c : Chan) (p : PumpIx) (g : GSlot) (y : Path) (srcs dsts : List TReg) (f : Group → Group) : State :=
  ((s.teStart c p g y dsts).onGroup c p g f).teAfter c p g (srcs ++ dsts)

/-- An instruction wrote rd in every lane of the current path, which moved to the next instruction. -/
def State.laneStep (s : State) (c : Chan) (p : PumpIx) (g : GSlot) (y : Path) (rd : TReg) (srcs : List TReg)
    (f : Nat → BitVec 32) : State :=
  s.groupStep c p g y srcs [rd] fun u => (u.lanes y.mask rd f).step

/-- What each lane of an access meets, and that none of it faults. -/
def LanesOk (ls : List (Fin 32 × LaneAt)) : Prop := firstFault (ls.map (·.2)) = none

/-- Every lane of an access lies in a plain granule of the pump's own slice (R156). -/
def PlainLanes (s : State) (c : Chan) (p : PumpIx) (size : Nat) (ls : List (Fin 32 × LaneAt)) : Prop :=
  ∀ e ∈ ls, ∃ a, e.2 = .mem a (s.addrOf c) (sliceByte p + a) ∧ a + size ≤ 2 ^ 24 ∧ PlainGranule s c p (a / 32)

/-- Nothing of a pump's own lies over memory: no byte in a store buffer or the cache, no echo, no atomic queued. -/
def NothingOver (s : State) (c : Chan) (p : PumpIx) (x : Group) : Prop :=
  x.buf = [] ∧ (s.pump c p).te.dirty = [] ∧ (s.pump c p).te.atoms = [] ∧ (s.slice c p).echoes = []

/-- Lines can enter the pump cache without pushing any out (Table 6.1). -/
def CacheRoom (s : State) (c : Chan) (p : PumpIx) (ls : List Nat) : Prop :=
  ((s.pump c p).te.lines.filter (fun l => !ls.contains l) ++ ls).length ≤ teLines

/-- n bytes of a slice at a byte offset within one granule. -/
def Slice.bytesAt (sl : Slice) (a n : Nat) : Nat := (sl.get (a / 32)).toNat / 2 ^ (8 * (a % 32)) % 2 ^ (8 * n)

/-- An operand of a 32- or 64-bit atomic in a lane. -/
def Group.operand (x : Group) (w64 : Bool) (lane : Nat) (r : TReg) : BitVec 64 :=
  if w64 then x.get64 lane r.toNat else (x.get lane r.toNat).setWidth 64

/-- The registers of a 32- or 64-bit operand. -/
def operandRegs (w64 : Bool) (r : TReg) : List TReg := regsFrom r (if w64 then 2 else 1)

/-- The slice atomics that the lanes of an instruction queue, in ascending lane order, each with the slice operations that it adds
(R163, R164). -/
def queuedAtoms (g : GSlot) (op : AtomOp) (combine w64 : Bool) (x : Group) (ls : List (Fin 32 × LaneAt)) (val cmp : TReg)
    (ret : Option TReg) : List SliceAtom :=
  ((ls.filterMap fun e => e.2.key.map fun o => (e.1, o)).zip (laneOps (combine && op != .fadd) (keysOf ls))).map fun e =>
    ⟨g, e.1.1, e.1.2, w64, some op, x.operand w64 e.1.1.val val, x.operand w64 e.1.1.val cmp, ret, x.tickets, e.2⟩

/-- The addends that the lanes of an LADD.S queue (R166). -/
def queuedAddends (g : GSlot) (x : Group) (ls : List (Fin 32 × LaneAt)) (rs : TReg) (lexp : BitVec 10) : List SliceAtom :=
  ((ls.filterMap fun e => e.2.key.map fun o => (e.1, o)).zip (laneOps true (keysOf ls))).map fun e =>
    ⟨g, e.1.1, e.1.2, false, none, (x.get e.1.1.val rs.toNat).setWidth 64, lexp.signExtend 64, none, 0, e.2⟩

/-- Slice operations have room among the 64 that may be outstanding (R164). -/
def AtomRoom (s : State) (c : Chan) (p : PumpIx) (ops : List Nat) : Prop := (s.pump c p).te.opsOut + ops.sum ≤ 64

/-- No store buffer and no cached dirty byte of a pump holds a copy of memory. -/
def NoCopies (s : State) (c : Chan) (p : PumpIx) : Prop :=
  (s.pump c p).te.dirty = [] ∧ ∀ (i : GSlot) (u : Group), (s.pump c p).te.slots[i.val] = some u → u.bufLines = []

/-- What waits in a group: the results that an instruction of a path asked for, under its ticket, beside those that it does not
overtake (R144, R160). -/
def WaitsFor (u x : Group) (y : Path) (rs : List TReg) : Prop :=
  ∀ e : TReg × Fin 32 × Nat, e ∈ u.awaiting ↔
    (e ∈ x.awaiting ∧ ¬(e.1 ∈ rs ∧ y.mask.getLsbD e.2.1.val = true)) ∨
    (e.1 ∈ rs ∧ e.1 ≠ 0 ∧ y.mask.getLsbD e.2.1.val = true ∧ e.2.2 = x.tickets)

/-- A channel whose registers can be written: present, no reset of it under way, and Gnover out of reset (R473). -/
def Reachable (s : State) (c : Chan) : Prop := s.windowOpen c = true ∧ (s.chan c).st.busy = false

/-! ### Fabric and homes -/

/-- A port takes a flit: it is in service, the flit passed the check and is the next in order, and the code corrected none of its
granules (R301, R302, R306). -/
def Accepts (s : State) (c : Chan) (port : PortIx) (fh : FlitHdr) : Prop :=
  (s.port c port).speaks = true ∧ fh.crcOk = true ∧ fh.seq = (s.port c port).rxSeq ∧ fh.fecGrans = []

/-- A port takes a flit whose destination is its own channel, which is not in channel reset (R332). -/
def TakenHere (s : State) (c : Chan) (port : PortIx) (fh : FlitHdr) : Prop :=
  Accepts s c port fh ∧ fh.dest = s.addrOf c ∧ (s.chan c).inReset = false

/-- A home has room for one more held entry of a job at a granule (R217, R218, R225). -/
def HoldRoom (s : State) (c : Chan) (j : SlotIx) (k : Nat) : Prop :=
  match (s.chan c).heldIn j k with
  | some p => s.heldUse c p < (s.chan c).heldShare
  | none => (s.reserveUse c j).1 < (s.reserveUse c j).2

/-- No held entry of a job's frame and of a writer key at a granule of a write (R217). -/
def NoEntry (s : State) (c : Chan) (j : SlotIx) (r : WriteRec) : Prop :=
  ∀ e ∈ (s.chan c).held, ¬(e.slot = j ∧ e.frame = s.frameNo c j ∧ offKey e.off = offKey r.off ∧ e.key = r.key)

/-- The held entry that a write becomes (R217). -/
def heldOf (s : State) (c : Chan) (j : SlotIx) (r : WriteRec) : Held :=
  ⟨j, s.frameNo c j, keyOff (offKey r.off), r.mask, r.data, r.key, 0⟩

/-- A port sends a flit at once: nothing waits before it, it has credit and room, and FREEZE does not hold it (R280, R305, R306). -/
def SendsNow (s : State) (c : Chan) (port : PortIx) (f : OutFlit) : Prop :=
  (s.port c port).waiting = [] ∧ (s.port c port).canSend f = true ∧ (s.chan c).freezes port f = false

/-- A flit left a port. -/
def Sent (t : State) (c : Chan) (port : PortIx) (f : OutFlit) : Prop := ∃ seq, Output.flit c port seq f ∈ t.outputs

/-! ### Host commands -/

/-- The completion record of a command waits in its ring (R366). -/
def Recorded (t : State) (h : Hdr) (status result : Nat) : Prop :=
  ∃ r, t.ring h.ring = some r ∧ cmdRecord h status result ∈ r.fifo

/-- A well's or an admin ring that no command waits in stands on its counts after a doorbell, whose place among the doorbells is n (R364,
R365). -/
def Ring.rung (r : Ring) (v : BitVec 64) (n : Nat) : Ring :=
  { r with cqCons := v.extractLsb' 32 32, prod := v.setWidth 32 }.told n

/-- A doorbell that a ring can take: PROD no more than its size ahead of the descriptors fetched (R364). -/
def RingTakes (r : Ring) (v : BitVec 64) : Prop :=
  r.state ≠ .error ∧ 0 ≤ (v.setWidth 32 - r.fetched : BitVec 32).toInt ∧ (v.setWidth 32 - r.fetched : BitVec 32).toNat ≤ 2 ^ r.sqLog2 ∧
  r.waiting = []

/-- A channel holds a job in a slot, and is the only one of the module that does. -/
def OnlyMember (s : State) (ctx job : Nat) (c : Chan) (j : SlotIx) : Prop := s.localSlots ctx job = [(c, j)]

/-! ### Fuses -/

/-- What fuses f can have become: a fuse written at manufacture stays, a programmed one stays programmed, and some root stays live
(R440, R446, Table 16.1). -/
def Fuses.Programs (f g : Fuses) : Prop :=
  g.serial = f.serial ∧ g.variant = f.variant ∧ g.present = f.present ∧ g.limit = f.limit ∧ g.root0 = f.root0 ∧ g.factory = f.factory ∧
  (f.root1 ≠ none → g.root1 = f.root1) ∧ (∀ i : Fin 2, f.revoke.getLsbD i.val = true → g.revoke.getLsbD i.val = true) ∧
  (∀ k : Fin 3, f.svn[k.val] ≤ g.svn[k.val]) ∧ (f.roots ≠ [] → g.roots ≠ [])

end Sys2Proof.Machine
end

