-- ==== Sys2Proof/Certificates/Slice0/Obligations.lean ====
section
/-!
DEFINITION. The statements for the provers, in the order of OBLIGATIONS.json: the block as a whole, then the
families of commands in the order of the table, then properties of the machine. Each docstring says which rules a
statement formalises; where it rests on a choice of the model, it names the log entry.
-/

open Sys2Proof Sys2Proof.Machine

/-! ### The block -/

/-- A step with a command at the front of the queue is that command's effect on the state with the queue's rest. -/
def Obligations.StepRunsFrontCommand : Prop :=
  ∀ (i : Instr) (q : List Instr) (s : State), step { s with pending := i :: q } = exec i { s with pending := q }

/-- With no command waiting the block idles and its clock advances by one nanosecond: the model's choice (log entry 1). -/
def Obligations.IdleStepAdvancesClock : Prop :=
  ∀ s : State, s.pending = [] → step s = .next { s with timeNs := s.timeNs + 1 }

/-! ### The pump controller (Chapter 3) -/

/-- R71, R73, Tables 3.1 and 3.4: the arithmetic instructions write x[RD] and the controller goes on; x0 discards the write. LD and ST
access a 64-bit word of data memory at a multiple of 8, a store only in the scratch region 0x6000-0x7FFF; SETSR sets the
stochastic-rounding handle and base; FRN and PID read the frame number and the pump's virtual identity. Nothing else changes. The rows
of memory that an instruction reads are sound (R66). -/
def Obligations.ControllerScalars : Prop :=
  ∀ (c : Chan) (p : PumpIx) (f : BitVec 58) (s : State), (s.pump c p).pc + 1 < 8192 →
    let a := (s.pump c p).reg (fRs1 f)
    let b := (s.pump c p).reg (fRs2 f)
    let addr := a.toInt + sfield f 0 43
    let gives := fun (v : BitVec 64) => (Host.Outcome.next (s.onPump c p fun q => q.wrote (fRd f) v) : Res)
    (AtScalar s c p 0x00 ⟨false, false, false, 0⟩ f →
      exec (.nop c p f) s = .next (s.onPump c p fun q => { q with pc := q.pc + 1 })) ∧
    (AtScalar s c p 0x01 ⟨true, true, true, 0⟩ f → exec (.add c p f) s = gives (a + b)) ∧
    (AtScalar s c p 0x02 ⟨true, true, true, 0⟩ f → exec (.sub c p f) s = gives (a - b)) ∧
    (AtScalar s c p 0x03 ⟨true, true, true, 0⟩ f → exec (.and c p f) s = gives (a &&& b)) ∧
    (AtScalar s c p 0x04 ⟨true, true, true, 0⟩ f → exec (.or c p f) s = gives (a ||| b)) ∧
    (AtScalar s c p 0x05 ⟨true, true, true, 0⟩ f → exec (.xor c p f) s = gives (a ^^^ b)) ∧
    (AtScalar s c p 0x06 ⟨true, true, true, 0⟩ f → exec (.mul c p f) s = gives (a * b)) ∧
    (AtScalar s c p 0x07 ⟨true, true, false, 43⟩ f → exec (.addi c p f) s = gives (a + fImm64 f)) ∧
    (AtScalar s c p 0x08 ⟨true, true, false, 6⟩ f → exec (.shli c p f) s = gives (a <<< field f 0 6)) ∧
    (AtScalar s c p 0x09 ⟨true, true, false, 6⟩ f → exec (.shri c p f) s = gives (a >>> field f 0 6)) ∧
    (AtScalar s c p 0x0A ⟨true, false, false, 43⟩ f → exec (.li c p f) s = gives (fImm64 f)) ∧
    (AtScalar s c p 0x18 ⟨true, true, false, 43⟩ f → 0 ≤ addr → addr < 0x8000 → addr % 8 = 0 → DataSound s c p addr →
      exec (.ld c p f) s = gives ((s.pump c p).dmem.readD 0 (addr.toNat / 8))) ∧
    (AtScalar s c p 0x19 ⟨false, true, true, 43⟩ f → 0x6000 ≤ addr → addr < 0x8000 → addr % 8 = 0 → DataSound s c p addr →
      exec (.st c p f) s = .next (s.onPump c p fun q =>
        { q with dmem := q.dmem.write 0 (addr.toNat / 8) b, pc := q.pc + 1 })) ∧
    (AtScalar s c p 0x1C ⟨false, true, true, 0⟩ f →
      exec (.setsr c p f) s = .next (s.onPump c p fun q =>
        { q with srHandle := a.setWidth 32, srBase := b, pc := q.pc + 1 })) ∧
    (AtScalar s c p 0x1D ⟨true, false, false, 0⟩ f →
      exec (.frn c p f) s = gives (match (s.chan c).slotOf p with
        | some j => BitVec.ofNat 64 (s.slot c j).regs.frame
        | none => 0)) ∧
    (AtScalar s c p 0x1E ⟨true, false, false, 0⟩ f →
      exec (.pid c p f) s = gives (BitVec.ofNat 64 ((s.pump c p).index % 128 + (s.pump c p).vch % 2 ^ 15 * 2 ^ 16)))

/-- R73: a branch within program memory goes to pc + IMM when its condition holds, and otherwise to the next word. -/
def Obligations.ControllerBranches : Prop :=
  ∀ (c : Chan) (p : PumpIx) (f : BitVec 58) (s : State),
    let q := s.pump c p
    let target : Int := q.pc + sfield f 0 43
    q.pc + 1 < 8192 → 0 ≤ target → target < 8192 →
    let gives := fun (taken : Bool) => (Host.Outcome.next (s.onPump c p fun x =>
      { x with pc := if taken then target.toNat else x.pc + 1 }) : Res)
    (AtScalar s c p 0x10 ⟨false, true, true, 43⟩ f → exec (.beq c p f) s = gives (q.reg (fRs1 f) == q.reg (fRs2 f))) ∧
    (AtScalar s c p 0x11 ⟨false, true, true, 43⟩ f → exec (.bne c p f) s = gives (q.reg (fRs1 f) != q.reg (fRs2 f))) ∧
    (AtScalar s c p 0x12 ⟨false, true, true, 43⟩ f →
      exec (.blt c p f) s = gives ((q.reg (fRs1 f)).slt (q.reg (fRs2 f)))) ∧
    (AtScalar s c p 0x13 ⟨false, false, false, 43⟩ f → exec (.jmp c p f) s = gives true)

/-- R69, R92: words that fault the pump's job with DESCRIPTOR or ACCESS: an unassigned opcode or function, an unused field that is not
zero, a branch out of program memory whether taken or not, a data address that is no multiple of 8 or lies outside data memory, and a
store to the constant region. The pc stays. R66: a word whose row of program memory is uncorrectable faults the job with DATA_UE. -/
def Obligations.ControllerFaults : Prop :=
  ∀ (c : Chan) (p : PumpIx) (f : BitVec 58) (w : BitVec 64) (j : SlotIx) (s : State),
    let q := s.pump c p
    let target : Int := q.pc + sfield f 0 43
    let addr := (q.reg (fRs1 f)).toInt + sfield f 0 43
    let desc := (Host.Outcome.next (s.pumpFault c p .descriptor 0) : Res)
    let access := (Host.Outcome.next (s.pumpFault c p .access 0) : Res)
    (AtWord s c p w → opAssigned (wOp w) = false → exec (.unassignedOpcode c p w) s = desc) ∧
    (AtOp s c p 0x25 f → ewAssigned (ewFn f) = false → exec (.ewUnassignedFn c p f) s = desc) ∧
    (AtOp s c p 0x00 f → Uses.clean ⟨false, false, false, 0⟩ f = false → exec (.nop c p f) s = desc) ∧
    (AtOp s c p 0x01 f → Uses.clean ⟨true, true, true, 0⟩ f = false → exec (.add c p f) s = desc) ∧
    (AtOp s c p 0x13 f → target < 0 ∨ 8192 ≤ target → exec (.jmp c p f) s = desc) ∧
    (AtOp s c p 0x10 f → target < 0 ∨ 8192 ≤ target → exec (.beq c p f) s = desc) ∧
    (AtScalar s c p 0x18 ⟨true, true, false, 43⟩ f → addr % 8 ≠ 0 → exec (.ld c p f) s = desc) ∧
    (AtScalar s c p 0x18 ⟨true, true, false, 43⟩ f → addr % 8 = 0 → addr < 0 ∨ 0x8000 ≤ addr →
      exec (.ld c p f) s = access) ∧
    (AtScalar s c p 0x19 ⟨false, true, true, 43⟩ f → addr % 8 = 0 → addr < 0x6000 ∨ 0x8000 ≤ addr →
      exec (.st c p f) s = access) ∧
    (q.at_ (ctlWord 0x01 f) = true → bscDecode (q.progUp.readD 0 (q.pc / 4)) = .uncorrectable → (s.chan c).slotOf p = some j →
      (s.slot c j).live = true → (s.slot c j).regs.flt.valid = false → Answers (exec (.add c p f) s) fun t =>
        (t.slot c j).regs.flt.valid = true ∧ (t.slot c j).regs.flt.cause = BitVec.ofNat 8 Cause.dataUe.code ∧
        (t.pump c p).pc = q.pc ∧ (t.pump c p).x = q.x ∧ (t.pump c p).run = .stopped)

/-- R72: FENCE waits until every issued operation has completed, and ends at once where every one has; DONE ends the frame program. -/
def Obligations.ControllerWaits : Prop :=
  ∀ (c : Chan) (p : PumpIx) (f : BitVec 58) (s : State),
    (AtScalar s c p 0x3E ⟨false, false, false, 0⟩ f → (s.pump c p).pc + 1 < 8192 →
      exec (.fence c p f) s = .next (s.onPump c p fun q =>
        { q with pc := q.pc + 1, run := if q.quiet then .running else .fence })) ∧
    (AtScalar s c p 0x3F ⟨false, false, false, 0⟩ f →
      exec (.done c p f) s = .next (s.onPump c p fun q => { q with run := .done }))

/-! ### Row operations (Chapter 3) -/

/-- R67, R68, R72, R73, R76, R81-R89: a row word whose operation nothing earlier holds up enters the queue of its unit and acts, with the
registers taken at issue. A DOT runs to its end where the broadcast queue holds what it takes, and waits where its next step's entries
are not there; a BQS appends while the queue has room for 64 granules, and waits with the rest. ISSUE issues x[RS1] as a row word, as if
it stood in the program; here a DOT or an EW, which act on the pump alone; a value that is no row word faults with DESCRIPTOR. -/
def Obligations.RowWordsAct : Prop :=
  ∀ (c : Chan) (p : PumpIx) (f : BitVec 58) (s : State),
    let q := s.pump c p
    let ready := fun (u : RowUnit) (n : Nat) => AtOp s c p n f ∧ RowReady s c p u (ctlWord n f)
    let after := fun (u : RowUnit) => s.onPump c p fun x => x.queuedIn u s.timeNs
    let op := fun (u : RowUnit) (n : Nat) => q.rowOp u (ctlWord n f)
    let waits := fun (u : RowUnit) (o : RowOp) => s.onPump c p fun x => { x.queuedIn u s.timeNs with todo := [o] }
    let w := q.reg (fRs1 f)
    (ready .multiply 0x20 →
      (RowSound s c p → dotTakes (ctlWord 0x20 f) ≤ q.bq.length →
        exec (.dot c p f) s = .next (s.onPump c p fun x => x.dotDone (ctlWord 0x20 f) s.timeNs)) ∧
      (∀ x rest, dotSteps (ctlWord 0x20 f) = x :: rest → q.bq.length < stepNeeds x →
        exec (.dot c p f) s = .next (waits .multiply (op .multiply 0x20)))) ∧
    (ready .broadcast 0x21 →
      (q.bq.length < bqSize → exec (.bqs c p f) s =
        let r := (waits .broadcast (op .broadcast 0x21)).doBqs c p (op .broadcast 0x21)
        .next (r.1.onPump c p fun x => { x with todo := if r.2.pos < bqsTotal (ctlWord 0x21 f) then [r.2] else [] })) ∧
      (bqSize ≤ q.bq.length → exec (.bqs c p f) s = .next (waits .broadcast (op .broadcast 0x21)))) ∧
    (ready .accIn 0x22 → exec (.acl c p f) s = .next ((after .accIn).doAcl c p (op .accIn 0x22))) ∧
    (ready .accOut 0x23 → exec (.acs c p f) s = .next ((after .accOut).doAcs c p (op .accOut 0x23))) ∧
    (ready .accOut 0x24 → exec (.acr c p f) s = .next ((after .accOut).doAcr c p (op .accOut 0x24))) ∧
    (ready .laneLoad 0x26 → exec (.lld c p f) s = .next ((after .laneLoad).doLld c p (op .laneLoad 0x26))) ∧
    (AtScalar s c p 0x28 ⟨false, true, false, 0⟩ f →
      ((wOp w < 0x20 ∨ 0x26 < wOp w) → exec (.issue c p f) s = .next (s.pumpFault c p .descriptor 0)) ∧
      (RowReady s c p .multiply w → RowSound s c p →
        (wOp w = 0x25 → exec (.issue c p f) s = .next (s.onPump c p fun x =>
          (x.queuedIn .multiply s.timeNs).ew w (q.reg (ewSrc2 w)))) ∧
        (wOp w = 0x20 → dotTakes w ≤ q.bq.length → exec (.issue c p f) s = .next (s.onPump c p fun x => x.dotDone w s.timeNs))))

/-- R92, R494, R495, Table 3.9: an element-wise word writes, in every lane of N entries and in ascending order, the function of its FN; here
each command with its FN code, acting at once. -/
def Obligations.ElementWiseWordsAct : Prop :=
  ∀ (c : Chan) (p : PumpIx) (f : BitVec 58) (s : State),
    let w := ctlWord 0x25 f
    let gives := (Host.Outcome.next (s.onPump c p fun x =>
      (x.queuedIn .multiply s.timeNs).ew w ((s.pump c p).reg (ewSrc2 w))) : Res)
    AtWord s c p w → RowReady s c p .multiply w → (s.pump c p).accBad = [] →
    (ewFn f = 0x00 → exec (.ewMov c p f) s = gives) ∧ (ewFn f = 0x01 → exec (.ewAdd c p f) s = gives) ∧
    (ewFn f = 0x02 → exec (.ewSub c p f) s = gives) ∧ (ewFn f = 0x03 → exec (.ewMul c p f) s = gives) ∧
    (ewFn f = 0x04 → exec (.ewMax c p f) s = gives) ∧ (ewFn f = 0x05 → exec (.ewMin c p f) s = gives) ∧
    (ewFn f = 0x06 → exec (.ewFma c p f) s = gives) ∧ (ewFn f = 0x07 → exec (.ewAbs c p f) s = gives) ∧
    (ewFn f = 0x08 → exec (.ewNeg c p f) s = gives) ∧ (ewFn f = 0x09 → exec (.ewExp2 c p f) s = gives) ∧
    (ewFn f = 0x0A → exec (.ewLog2 c p f) s = gives) ∧ (ewFn f = 0x0B → exec (.ewRcp c p f) s = gives) ∧
    (ewFn f = 0x0C → exec (.ewRsqrt c p f) s = gives) ∧ (ewFn f = 0x0D → exec (.ewTanh c p f) s = gives) ∧
    (ewFn f = 0x10 → exec (.ewIadd c p f) s = gives) ∧ (ewFn f = 0x11 → exec (.ewIsub c p f) s = gives) ∧
    (ewFn f = 0x12 → exec (.ewImax c p f) s = gives) ∧ (ewFn f = 0x13 → exec (.ewImin c p f) s = gives) ∧
    (ewFn f = 0x14 → exec (.ewCvtif c p f) s = gives) ∧ (ewFn f = 0x15 → exec (.ewCvtfi c p f) s = gives)

/-- R92: where the destination entries meet no source, or are a source, every lane of every destination entry holds the function of the
entries as they stood, and no other entry changes. With S = 1 the second operand is x[SRC2] in every lane. -/
def Obligations.ElementWiseLanes : Prop :=
  ∀ (q : Pump) (w reg : BitVec 64), SMap.sorted q.acc →
    (ewDst w = ewSrc1 w ∨ rangesMeet (ewDst w) (ewSrc1 w) (ewN w) = false) →
    (ewS w = true ∨ ewDst w = ewSrc2 w ∨ rangesMeet (ewDst w) (ewSrc2 w) (ewN w) = false) →
    ∀ (e lane : Nat), lane < 512 →
      (q.ew w reg).entry_ e lane =
        if ewDst w ≤ e ∧ e < ewDst w + ewN w then
          ewFun (ewFnOf w) (q.entry_ e lane) (q.entry_ (ewSrc1 w + (e - ewDst w)) lane)
            (if ewS w then reg.setWidth 32 else q.entry_ (ewSrc2 w + (e - ewDst w)) lane)
        else q.entry_ e lane

/-- R76, R81-R83: BQS appends what the queue of 64 has room for, LLD loads a lane-store row of every lane in both its forms, and ACL loads
accumulator entries, from the granules that stand in the slice, in the order of the rules, where nothing is due at those granules, they
are not dead and hold no error. -/
def Obligations.LoadsTakeSliceGranules : Prop :=
  ∀ (c : Chan) (p : PumpIx) (o : RowOp) (s : State), SMap.sorted (s.pump c p).lane → SMap.sorted (s.pump c p).acc →
    (∀ g : Nat, o.span.1 ≤ (g : Int) → (g : Int) < o.span.2 → PlainGranule s c p g) → 0 ≤ o.span.1 → o.span.2 ≤ 2 ^ 19 →
    let len := (s.pump c p).bq.length
    (wOp o.word = 0x21 → o.pos ≤ bqsN1 o.word * bqsN0 o.word → len ≤ 64 →
      let n := min (bqsN1 o.word * bqsN0 o.word - o.pos) (64 - len)
      ((s.doBqs c p o).1.pump c p).bq.length = len + n ∧ (s.doBqs c p o).2.pos = o.pos + n ∧
      ∀ i j m, m < n → o.pos + m = j * bqsN0 o.word + i → i < bqsN0 o.word → ((s.doBqs c p o).1.pump c p).bq[len + m]? =
        some ((s.slice c p).get (o.gran + j * bqsStride o.word + i).toNat, 0)) ∧
    (wOp o.word = 0x26 → lldT o.word = false → ∀ r l, r < lldN o.word → l < 512 →
      ((s.doLld c p o).pump c p).laneRow (lldRow o.word + r) l = (s.slice c p).get (o.gran.toNat + r * 512 + l)) ∧
    (wOp o.word = 0x26 → lldT o.word = true → lldEsize o.word ≤ 1 →
      let b := lldEsize o.word + 1
      ∀ r l t i, r < lldN o.word → l < 512 → t < 32 / b → i < b →
        gByte (((s.doLld c p o).pump c p).laneRow (lldRow o.word + r) l) (t * b + i) =
          gByte ((s.slice c p).get (o.gran.toNat + (r * 32 / b + t) * lldStride o.word + (l * b + i) / 32)) ((l * b + i) % 32)) ∧
    (wOp o.word = 0x22 → ∀ i l, i < acN o.word → l < 512 →
      ((s.doAcl c p o).pump c p).entry_ (acAcc o.word + i) l =
        ((s.slice c p).get (o.gran.toNat + (if aclRepl o.word then 0 else 64 * i) + l / 8)).extractLsb' (32 * (l % 8)) 32)

/-! ### Transfers and the events of the units (Chapters 3, 8) -/

/-- R194-R208, R211, Table 8.3: an XFR whose descriptor names the operation of the command enters the transfer queue; it acts at once where
what it reads is at hand, and otherwise waits; a reserved operation code faults the job with DESCRIPTOR. -/
def Obligations.TransferWordsAct : Prop :=
  ∀ (c : Chan) (p : PumpIx) (f : BitVec 58) (s : State),
    let o := s.descWord c p .transfer f
    let t := s.onPump c p fun x => x.queuedIn .transfer s.timeNs
    let queued := s.onPump c p fun x => { x.queuedIn .transfer s.timeNs with todo := [o] }
    let gives := (Host.Outcome.next (if queued.xferReady c p o then t.doXfer c p o else queued) : Res)
    DescReady s c p .transfer 0x30 f → (s.chan c).slotOf p ≠ none →
    ((xdesc o.desc).opc = 0 → exec (.xfrCopy c p f) s = gives) ∧ ((xdesc o.desc).opc = 1 → exec (.xfrTcopy c p f) s = gives) ∧
    ((xdesc o.desc).opc = 2 → exec (.xfrCombine c p f) s = gives) ∧ ((xdesc o.desc).opc = 3 → exec (.xfrReadout c p f) s = gives) ∧
    ((xdesc o.desc).opc = 4 → exec (.xfrDead c p f) s = gives) ∧ ((xdesc o.desc).opc = 5 → exec (.xfrHalo c p f) s = gives) ∧
    ((xdesc o.desc).opc = 6 → exec (.xfrWarm c p f) s = gives) ∧
    (7 ≤ (xdesc o.desc).opc → exec (.xfrReservedOpc c p f) s = .next (t.pumpFault c p .descriptor 0))

/-! ### The thread engine (Chapter 6) -/

/-- R145: the integer instructions write rd in every lane of the current path; the shifts by 32 or more give a free value (log entry 12), a
compare 1 or 0 (log entry 6). Nothing changes but the group, the register cache and the turn. -/
def Obligations.ThreadIntegerOps : Prop :=
  ∀ (c : Chan) (p : PumpIx) (g : GSlot) (rd ra rb : TReg) (k : Kernel) (x : Group) (y : Path) (s : State),
    let gives := fun (f : BitVec 32 → BitVec 32 → BitVec 32) =>
      (Host.Outcome.next (s.laneStep c p g y rd [ra, rb] fun l => f (x.get l ra.toNat) (x.get l rb.toNat)) : Res)
    TeReady s c p g k x y [ra, rb] →
    exec (.teAdd c p g rd ra rb) s = gives (· + ·) ∧ exec (.teSub c p g rd ra rb) s = gives (· - ·) ∧
    exec (.teMul c p g rd ra rb) s = gives (· * ·) ∧ exec (.teAnd c p g rd ra rb) s = gives (· &&& ·) ∧
    exec (.teOr c p g rd ra rb) s = gives (· ||| ·) ∧ exec (.teXor c p g rd ra rb) s = gives (· ^^^ ·) ∧
    exec (.teShl c p g rd ra rb) s = gives (fun a b => if b.toNat < 32 then a <<< b.toNat else Config.shiftBeyond 0 a b) ∧
    exec (.teShr c p g rd ra rb) s = gives (fun a b => if b.toNat < 32 then a >>> b.toNat else Config.shiftBeyond 1 a b) ∧
    exec (.teSar c p g rd ra rb) s =
      gives (fun a b => if b.toNat < 32 then a.sshiftRight b.toNat else Config.shiftBeyond 2 a b) ∧
    exec (.teMin c p g rd ra rb) s = gives (fun a b => if a.slt b then a else b) ∧
    exec (.teMax c p g rd ra rb) s = gives (fun a b => if a.slt b then b else a) ∧
    (∀ cmp, exec (.teCompare c p g cmp rd ra rb) s = gives (fun a b => if Machine.Cmp.ints cmp a b then 1 else 0)) ∧
    (∀ rp, TeReady s c p g k x y [rp, ra, rb] → exec (.teSel c p g rd rp ra rb) s =
      .next (s.laneStep c p g y rd [rp, ra, rb] fun l =>
        if x.get l rp.toNat = 0 then x.get l rb.toNat else x.get l ra.toNat))

/-- R146, R494: the FP32 instructions, the tabled functions and CVT write rd in every lane of the current path. -/
def Obligations.ThreadFloatOps : Prop :=
  ∀ (c : Chan) (p : PumpIx) (g : GSlot) (rd ra rb rc : TReg) (k : Kernel) (x : Group) (y : Path) (s : State),
    let gives := fun (f : BitVec 32 → BitVec 32 → BitVec 32) =>
      (Host.Outcome.next (s.laneStep c p g y rd [ra, rb] fun l => f (x.get l ra.toNat) (x.get l rb.toNat)) : Res)
    let gives1 := fun (f : BitVec 32 → BitVec 32) =>
      (Host.Outcome.next (s.laneStep c p g y rd [ra] fun l => f (x.get l ra.toNat)) : Res)
    (TeReady s c p g k x y [ra, rb] →
      exec (.teFadd c p g rd ra rb) s = gives fadd ∧ exec (.teFmul c p g rd ra rb) s = gives fmul ∧
      exec (.teFmin c p g rd ra rb) s = gives fmin ∧ exec (.teFmax c p g rd ra rb) s = gives fmax ∧
      ∀ cmp, exec (.teFcompare c p g cmp rd ra rb) s = gives (fun a b => if Machine.Cmp.floats cmp a b then 1 else 0)) ∧
    (TeReady s c p g k x y [ra, rb, rc] → exec (.teFfma c p g rd ra rb rc) s =
      .next (s.laneStep c p g y rd [ra, rb, rc] fun l =>
        ffma (x.get l rc.toNat) (x.get l ra.toNat) (x.get l rb.toNat))) ∧
    (TeReady s c p g k x y [ra] →
      exec (.teExp2 c p g rd ra) s = gives1 exp2 ∧ exec (.teLog2 c p g rd ra) s = gives1 log2 ∧
      exec (.teRcp c p g rd ra) s = gives1 rcp ∧ exec (.teRsqrt c p g rd ra) s = gives1 rsqrt ∧
      exec (.teTanh c p g rd ra) s = gives1 tanh ∧
      ∀ src dst ri, exec (.teCvt c p g src dst false rd ra ri) s = gives1 fun a =>
        BitVec.ofNat 32 (fmtConvert dst (fmtValue src (a.toNat % 2 ^ (8 * fmtBytes src))) none)) ∧
    (∀ src dst ri, teRegs ri 8 = true → TeReady s c p g k x y (ra :: regsFrom ri 2) →
      exec (.teCvt c p g src dst true rd ra ri) s = .next (s.laneStep c p g y rd (ra :: regsFrom ri 2) fun l =>
        BitVec.ofNat 32 (fmtConvert dst (fmtValue src ((x.get l ra.toNat).toNat % 2 ^ (8 * fmtBytes src)))
          (some (srBits k.handle (BitVec.ofNat 64 (s.frameOf c p)) (x.get64 l ri.toNat))))))

/-- R145, R169, R138: TID, GID, NGRP, PID and FRN (its low 32 bits, log entry 15) read the identity of a thread, and in a Relaxed job TIME
reads the nanoseconds since the job's latest tick into a register pair; a pair past r63 stops the run. -/
def Obligations.ThreadIdentity : Prop :=
  ∀ (c : Chan) (p : PumpIx) (g : GSlot) (rd : TReg) (k : Kernel) (x : Group) (y : Path) (s : State),
    let q := s.pump c p
    let gives := fun (f : Nat → Nat) => (Host.Outcome.next (s.laneStep c p g y rd [] fun l => BitVec.ofNat 32 (f l)) : Res)
    (TeReady s c p g k x y [] →
      exec (.teTid c p g rd) s = gives (fun l => l) ∧ exec (.teGid c p g rd) s = gives (fun _ => x.gid) ∧
      exec (.teNgrp c p g rd) s = gives (fun _ => k.groups) ∧
      exec (.tePid c p g rd) s = gives (fun _ => q.index % 128 + q.vch % 2 ^ 15 * 2 ^ 16) ∧
      exec (.teFrn c p g rd) s = gives (fun _ => s.frameOf c p)) ∧
    (∀ j, (s.chan c).slotOf p = some j → (s.slot c j).job.strict = false → teRegs rd 8 = true →
      TeReady s c p g k x y [] →
      exec (.teTime c p g rd) s = .next (s.groupStep c p g y [] (regsFrom rd 2) fun u =>
        ((lanesOf y.mask).foldl (fun v l =>
          v.set64 l.val rd.toNat (BitVec.ofNat 64 (s.timeNs - (s.slot c j).fr.tickNs))) u).step)) ∧
    (teRegs rd 8 = false → exec (.teTime c p g rd) s = .fault .registerPastEnd)

/-- R144, R147, R156-R161: LD takes its values at issue where its lines are at hand, and its registers await LOAD_RESULT; a load from plain
granules of the pump's own slice takes the bytes that stand there. ST puts the lanes' bytes into the slot's store buffer, the highest
lane's last, of the 32 lines that it holds; PF brings lines into the pump cache; a result that arrives is written to its registers, which
then wait no more. An instruction whose source awaits a result does not issue, and the engine stalls. -/
def Obligations.ThreadMemoryOps : Prop :=
  ∀ (c : Chan) (p : PumpIx) (g : GSlot) (sp : Space) (size : Nat) (rd addr : TReg) (k : Kernel) (x : Group) (y : Path)
    (s : State),
    let words := (size + 3) / 4
    let inRange := teRegs rd size = true ∧ teRegs addr (if sp = .global then 8 else 4) = true
    let next := { y with pc := y.pc + 1 } :: x.paths.drop 1
    let rds := s.lanesAt c p k x y sp size size addr .read
    let wrs := s.lanesAt c p k x y sp size size addr .write
    let pfs := s.lanesAt c p k x y sp 1 1 addr .read
    (inRange → TeReady s c p g k x y (addrRegs sp addr) → LanesOk rds → s.hostWaits rds = false →
      Answers (exec (.teLd c p g sp size rd addr) s) (fun t => ∃ u, t.group c p g = some u ∧ u.paths = next ∧ u.regs = x.regs ∧
        WaitsFor u x y (regsFrom rd words)) ∧
      (PlainLanes s c p size rds → NothingOver s c p x → CacheRoom s c p (keyLines rds) →
        Answers (exec (.teLd c p g sp size rd addr) s) fun t => ∃ u, t.group c p g = some u ∧
          u.arrived = x.arrived ++ rds.flatMap (fun e => resultWords rd e.1 words ((s.slice c p).bytesAt (e.2.key.getD 0) size) x.tickets) ∧
          t.slice c p = s.slice c p)) ∧
    (inRange → TeReady s c p g k x y (addrRegs sp addr ++ regsFrom rd words) → LanesOk wrs → (∀ e ∈ wrs, e.2.key ≠ none) →
      x.fits (wrs.flatMap fun e => (List.range size).map fun i => (e.2.key.getD 0 + i) / 128).dedup = true → SMap.sorted x.buf →
      0 < size →
      Answers (exec (.teSt c p g sp size addr rd) s) fun t => (∀ i, t.slice c i = s.slice c i) ∧ ∃ u, t.group c p g = some u ∧
        u.paths = next ∧ u.regs = x.regs ∧ ∀ b, u.buf.look b =
          match wrs.reverse.find? (fun e => decide (e.2.key.getD 0 ≤ b ∧ b < e.2.key.getD 0 + size)) with
          | some e => some ((storeBytes x e.1.val rd size).getD (b - e.2.key.getD 0) 0, sp == .global)
          | none => x.buf.look b) ∧
    (teRegs addr (if sp = .global then 8 else 4) = true → TeReady s c p g k x y (addrRegs sp addr) → LanesOk pfs →
      CacheRoom s c p (keyLines pfs) → exec (.tePf c p g sp addr) s =
        .next ((((s.teStart c p g y []).onTe c p fun t => { t with
          lines := t.lines.filter (fun l => !(keyLines pfs).contains l) ++ keyLines pfs }).onGroup c p g Group.step).teAfter c p g
            (addrRegs sp addr))) ∧
    (s.group c p g = some x → x.loads = [] → Answers (exec (.loadResult c p g) s) fun t => ∃ u, t.group c p g = some u ∧
      u.arrived = [] ∧ u.paths = x.paths ∧
      (∀ a, a ∈ u.awaiting ↔ a ∈ x.awaiting ∧ ∀ e ∈ x.arrived, (e.1, e.2.1, e.2.2.2) ≠ a) ∧
      u.regs = (x.arrived.foldl (fun (v : Group) e => if (e.1, e.2.1, e.2.2.2) ∈ x.awaiting then v.set e.2.1.val e.1.toNat e.2.2.1
        else v) x).regs) ∧
    (inRange → s.teReady c p g = some (k, x, y) → (s.pump c p).te.codeUp.readD 0 (y.pc / 4) = 0 →
      x.awaits y.mask (addrRegs sp addr) = true →
      exec (.teLd c p g sp size rd addr) s = .next (s.onTe c p fun t => { t with stall := t.stall + 1 }))

/-- R163, R164, R167, R168: an ATOM.S writes back the cached copies of its lines and queues one operation of the slice for each lane, in
lane order, where the 64 that may be outstanding have room; a form with return makes its result registers wait. CAS compares with rs and
writes rt; EXCH writes rs; FATOM adds FP32 in a Relaxed job, and COMBINE does not combine it. The slice performs the queued atomics in
order; on a plain granule the word takes the value of the operation, and a form with return delivers the word's previous value. -/
def Obligations.SliceAtomics : Prop :=
  ∀ (c : Chan) (p : PumpIx) (g : GSlot) (w64 ret : Bool) (rd addr rs rt : TReg) (k : Kernel) (x : Group) (y : Path) (s : State),
    (exec (.sliceAtomicPerform c p) s = .next ((s.pump c p).te.atoms.foldl
      (fun (r : State × Bool) a => if r.2 then r else r.1.doSliceAtom c p a) (s.onTe c p fun t => { t with atoms := [] }, false)).1) ∧
    (∀ (a : SliceAtom) (op : AtomOp) (u : Group),
      let gr := a.addr / 32
      let res := atomGran ((s.slice c p).get gr) (a.addr % 32) a.w64 op a.val a.cmp
      (s.pump c p).te.atoms = [a] → a.op = some op → s.group c p a.g = some u → gr < 2 ^ 19 → PlainGranule s c p gr →
      (∀ e ∈ (s.slice c p).echoes, e.on ⟨s.addrOf c, keyOff (sliceKey p gr)⟩ = false) →
      s.barredPump c p (s.addrOf c) (sliceKey p gr) = none →
      Answers (exec (.sliceAtomicPerform c p) s) fun t => (t.slice c p).get gr = res.1 ∧ (t.pump c p).te.atoms = [] ∧
        ∃ v, t.group c p a.g = some v ∧ v.arrived = u.arrived ++
          (match a.ret with
           | some r => resultWords r a.lane (if a.w64 then 2 else 1) res.2.toNat a.ticket
           | none => [])) ∧
    let n := if w64 then 8 else 4
    let ls := s.lanesAt c p k x y .slice n n addr .atomic
    let rets := if ret then operandRegs w64 rd else []
    let room := fun (op : AtomOp) => AtomRoom s c p (laneOps (k.combine && op != .fadd) (keysOf ls))
    let queues := fun (r : Res) (op : AtomOp) (val : TReg) (srcs : List TReg) =>
      let new := queuedAtoms g op k.combine w64 x ls val rs (if ret then some rd else none)
      (r = .next ((((s.teStart c p g y rets).queueAtoms c p new).onGroup c p g fun u =>
        if ret then u.step.awaitFor y.mask rets else u.step).teAfter c p g (srcs ++ rets))) ∧
      (NoCopies s c p → Answers r fun t => (t.pump c p).te.atoms = (s.pump c p).te.atoms ++ new ∧
        (t.pump c p).te.ops = (s.pump c p).te.ops + (new.map (·.ops)).sum ∧ t.slice c p = s.slice c p)
    let srcs := addr :: operandRegs w64 rs
    atomRegs w64 rs = true → (ret = true → atomRegs w64 rd = true) → LanesOk ls →
    (TeReady s c p g k x y srcs →
      (room .add → queues (exec (.teAtomSAdd c p g w64 ret rd addr rs) s) .add rs srcs ∧
        queues (exec (.teAtomSMin c p g w64 ret rd addr rs) s) .min rs srcs ∧
        queues (exec (.teAtomSMax c p g w64 ret rd addr rs) s) .max rs srcs ∧
        queues (exec (.teAtomSAnd c p g w64 ret rd addr rs) s) .and rs srcs ∧
        queues (exec (.teAtomSOr c p g w64 ret rd addr rs) s) .or rs srcs ∧
        queues (exec (.teAtomSXor c p g w64 ret rd addr rs) s) .xor rs srcs ∧
        queues (exec (.teAtomSExch c p g w64 ret rd addr rs) s) .exch rs srcs) ∧
      (room .fadd → s.strictAt c p = false → w64 = false → ret = false →
        queues (exec (.teFatomAdd c p g .slice addr rs) s) .fadd rs srcs)) ∧
    (room .cas → atomRegs w64 rt = true → TeReady s c p g k x y (srcs ++ operandRegs w64 rt) →
      queues (exec (.teAtomSCas c p g w64 ret rd addr rs rt) s) .cas rt (srcs ++ operandRegs w64 rt))

/-- R165, R168, R169: a global atomic is recorded at its home, here this channel, with the frame number, for application at the next tick;
EXCH.G, CAS.G, the forms with return and FATOM.G run in a Relaxed job only. Here one lane, whose word's home is this channel. -/
def Obligations.GlobalAtomicsAreHeld : Prop :=
  ∀ (c : Chan) (p : PumpIx) (g : GSlot) (w64 : Bool) (rd addr rs rt : TReg) (k : Kernel) (x : Group) (y : Path) (j : SlotIx)
    (l : Fin 32) (key off : Nat) (s : State),
    let n := if w64 then 8 else 4
    let ls := s.lanesAt c p k x y .global n n addr .atomic
    let regs := regsFrom addr 2 ++ operandRegs w64 rs
    let v := x.operand w64 l.val rs
    let holds := fun (r : Res) (a : AtomicRec) => Answers r fun t =>
      (t.chan c).atoms = (s.chan c).atoms ++ [⟨j, (s.slot c j).regs.frame, a⟩]
    let rec_ := fun (op : AtomOp) (val : BitVec 64) (ret : Bool) =>
      (⟨BitVec.ofNat 49 off, w64, op, val, v, (s.pump c p).key, ret⟩ : AtomicRec)
    (s.chan c).slotOf p = some j → teRegs addr 8 = true → atomRegs w64 rs = true → ls = [(l, .mem key (s.addrOf c) off)] →
    s.barred c j (s.addrOf c) (off / 32) = false →
    (TeReady s c p g k x y regs →
      holds (exec (.teAtomGAdd c p g w64 false rd addr rs) s) (rec_ .add v false) ∧
      holds (exec (.teAtomGMin c p g w64 false rd addr rs) s) (rec_ .min v false) ∧
      holds (exec (.teAtomGMax c p g w64 false rd addr rs) s) (rec_ .max v false) ∧
      holds (exec (.teAtomGAnd c p g w64 false rd addr rs) s) (rec_ .and v false) ∧
      holds (exec (.teAtomGOr c p g w64 false rd addr rs) s) (rec_ .or v false) ∧
      holds (exec (.teAtomGXor c p g w64 false rd addr rs) s) (rec_ .xor v false) ∧
      (s.strictAt c p = false → w64 = false →
        holds (exec (.teFatomAdd c p g .global addr rs) s) (rec_ .fadd v false))) ∧
    (s.strictAt c p = false → atomRegs w64 rd = true → atomRegs w64 rt = true →
      (s.chan c).held = [] → (s.chan c).decls = [] → (s.chan c).atoms = [] → keySlice (off / 32) = none →
      (s.chan c).upsetAt (off / 32) = 0 → (s.chan c).isDead (off / 32) = false →
      (TeReady s c p g k x y regs →
        holds (exec (.teExchG c p g w64 rd addr rs) s) (rec_ .exch v true)) ∧
      (TeReady s c p g k x y (regs ++ operandRegs w64 rt) →
        holds (exec (.teCasG c p g w64 rd addr rs rt) s) (rec_ .cas (x.operand w64 l.val rt) true)))

/-- R115, R116, R119, R132, R133, R166: LADD.S queues each lane's addend for the ledger of its own slice, in lane order, each distinct ledger
one operation; the slice adds it, or faults with LEDGER_RANGE. LADD.G adds it to the inbound granule of a ledger-reduce target, here on
this channel for one lane, and faults with DESCRIPTOR where the place is none. LRD reads a ledger, here one in a plain granule, and
rounds it once; its registers await the result. -/
def Obligations.ThreadLedgerOps : Prop :=
  ∀ (c : Chan) (p : PumpIx) (g : GSlot) (lexp : BitVec 10) (rd addr rs : TReg) (k : Kernel) (x : Group) (y : Path) (j : SlotIx)
    (fmt : RoFmt) (s : State),
    let ls := s.lanesAt c p k x y .slice 32 32 addr .atomic
    let gls := s.lanesAt c p k x y .global 32 32 addr .atomic
    let rls := s.lanesAt c p k x y .slice 32 32 addr .read
    let n := if fmt = .fp64 then 2 else 1
    (s.chan c).slotOf p = some j →
    (TeReady s c p g k x y (rs :: addrRegs .slice addr) → LanesOk ls → AtomRoom s c p (laneOps true (keysOf ls)) →
      exec (.teLadd c p g .slice lexp addr rs) s =
        .next ((((s.teStart c p g y []).queueAtoms c p (queuedAddends g x ls rs lexp)).onGroup c p g Group.step).teAfter c p g
          (rs :: addrRegs .slice addr))) ∧
    (∀ a : SliceAtom,
      let gr := a.addr / 32
      (s.pump c p).te.atoms = [a] → a.op = none → gr < 2 ^ 19 → PlainGranule s c p gr →
      (∀ e ∈ (s.slice c p).echoes, e.on ⟨s.addrOf c, keyOff (sliceKey p gr)⟩ = false) →
      s.barredPump c p (s.addrOf c) (sliceKey p gr) = none → (s.chan c).adderBad p = false →
      (∀ v, ledgerAddend (fp32 (a.val.setWidth 32)) a.cmp.toInt = some v → Answers (exec (.sliceAtomicPerform c p) s) fun t =>
        (t.slice c p).get gr = ledgerAdd ((s.slice c p).get gr) v ∧ (t.pump c p).te.atoms = []) ∧
      (ledgerAddend (fp32 (a.val.setWidth 32)) a.cmp.toInt = none → (s.slot c j).live = true → (s.slot c j).regs.flt.valid = false →
        Answers (exec (.sliceAtomicPerform c p) s) fun t => (t.slice c p).get gr = (s.slice c p).get gr ∧
          (t.slot c j).regs.flt.valid = true ∧ (t.slot c j).regs.flt.cause = BitVec.ofNat 8 Cause.ledgerRange.code)) ∧
    (∀ l key off, teRegs addr 8 = true → TeReady s c p g k x y (rs :: addrRegs .global addr) →
      gls = [(l, .mem key (s.addrOf c) off)] →
      (∀ q gr v, keySlice (off / 32) = some (q, gr) → s.reduceTarget c p (s.addrOf c) off = true →
        s.barred c j (s.addrOf c) (off / 32) = false → ledgerAddend (fp32 (x.get l.val rs.toNat)) lexp.toInt = some v →
        exec (.teLadd c p g .global lexp addr rs) s = .next ((((s.teStart c p g y []).combineAt c q gr (s.slot c j).regs.frame
          (BitVec.ofInt 256 v)).onGroup c p g Group.step).teAfter c p g (rs :: addrRegs .global addr))) ∧
      (s.reduceTarget c p (s.addrOf c) off = false → exec (.teLadd c p g .global lexp addr rs) s =
        .next (((s.teStart c p g y []).pumpFault c p .descriptor 0).teAfter c p g (rs :: addrRegs .global addr)))) ∧
    (teRegs rd (4 * n) = true → TeReady s c p g k x y [addr] → LanesOk rls →
      Answers (exec (.teLrd c p g fmt lexp rd addr) s) fun t => ∃ u, t.group c p g = some u ∧ WaitsFor u x y (regsFrom rd n) ∧
        u.paths = { y with pc := y.pc + 1 } :: x.paths.drop 1 ∧
        (PlainLanes s c p 32 rls → NothingOver s c p x → t.slice c p = s.slice c p ∧
          u.arrived = x.arrived ++ rls.flatMap fun e =>
            resultWords rd e.1 n (ledgerRead (BitVec.ofNat 256 ((s.slice c p).bytesAt (e.2.key.getD 0) 32)) lexp.toInt fmt) x.tickets))

/-- R139, R145, R150-R154, R161: the control and synchronisation instructions of the thread engine. With no kept address RET leaves the path
where it is (log entry 16); the last thread of a group leaves through EXIT, which makes its stores visible (log entry 17) and frees its
slot. A path parks at the join address of its split; FENCE publishes the stores of a group none of whose atomics are outstanding. -/
def Obligations.ThreadControl : Prop :=
  ∀ (c : Chan) (p : PumpIx) (g : GSlot) (rp : TReg) (target join : BitVec 13) (n : Fin 4) (k : Kernel) (x : Group) (y : Path)
    (s : State),
    let gives := fun (f : Group → Group) => (Host.Outcome.next (s.groupStep c p g y [] [] f) : Res)
    let putPath := fun (z : Path) (u : Group) => ({ u with paths := z :: u.paths.drop 1 } : Group)
    let started := s.teStart c p g y []
    (TeReady s c p g k x y [rp] → exec (.teBr c p g rp target join) s = .next (s.groupStep c p g y [rp] [] fun u =>
      u.branch (ofBits 32 (((lanesOf y.mask).filter fun l => x.get l.val rp.toNat != 0).map (·.val))) target.toNat join.toNat)) ∧
    (TeReady s c p g k x y [] →
      exec (.teJmp c p g target) s = gives (fun u => u.jump target.toNat) ∧
      exec (.teCall c p g target) s = gives (fun u => (putPath { y with calls := (y.pc + 1) :: y.calls } u).jump target.toNat) ∧
      (∀ a rest, y.calls = a :: rest → exec (.teRet c p g) s = gives (fun u =>
        { u with paths := pickPath y.low ({ y with pc := a, calls := rest } :: u.paths.drop 1) })) ∧
      (y.calls = [] → exec (.teRet c p g) s = gives id) ∧
      (∀ m rest, y.splits = (m, y.pc) :: rest → exec (.teJoin c p g) s = gives (fun u =>
        let v := (putPath { y with st := .parked y.pc } u).mergeAll
        { v with paths := pickPath y.low v.paths })) ∧
      ((∀ m rest, y.splits ≠ (m, y.pc) :: rest) → exec (.teJoin c p g) s = gives Group.step) ∧
      (x.paths = [y] → k.groups ≤ (s.pump c p).te.next → CacheRoom s c p x.bufLines → Answers (exec (.teExit c p g) s) fun t =>
        t.group c p g = none ∧
        (t.pump c p).te.dirty = x.buf.foldl (fun d e => d.set1 e.1 e.2) (s.pump c p).te.dirty) ∧
      (x.paths ≠ [y] → Answers (exec (.teExit c p g) s) fun t => ∃ u, t.group c p g = some u ∧
        u.exited = x.exited ||| y.mask ∧ u.regs = x.regs) ∧
      exec (.teBar c p g n) s = gives (fun u =>
        ((putPath { y with st := .bar n, pc := y.pc + 1 } u).settlePaths y.low).releaseBar) ∧
      (k.kbar = true → exec (.teBarK c p g) s = .next (((started.onGroup c p g fun u =>
        (putPath { y with st := .barK, pc := y.pc + 1 } u).settlePaths y.low).onTe c p Te.releaseBarK).teAfter c p g [])) ∧
      (k.kbar = false → exec (.teBarK c p g) s = .next ((started.pumpFault c p .descriptor 0).teAfter c p g [])) ∧
      ((s.pump c p).atomsOut g = false →
        exec (.teFence c p g) s = .next (((started.publish c p g).onGroup c p g Group.step).teAfter c p g [])) ∧
      ((s.pump c p).atomsOut g = true →
        exec (.teFence c p g) s = .next (s.onTe c p fun t => { t with stall := t.stall + 1 })))

/-- R150: a branch on which the lanes of the current path disagree splits it into a taken path and a fall-through path, each with the join
address; every other path stays. -/
def Obligations.DivergentBranchSplitsPath : Prop :=
  ∀ (u : Group) (y : Path) (rest : List Path) (taken : BitVec 32) (target join : Nat), u.paths = y :: rest →
    y.mask &&& taken ≠ 0 → y.mask &&& ~~~taken ≠ 0 →
    let a : Path := { y with mask := y.mask &&& taken, pc := target, splits := (y.mask, join) :: y.splits }
    let b : Path := { y with mask := y.mask &&& ~~~taken, pc := y.pc + 1, splits := (y.mask, join) :: y.splits }
    ∀ z, z ∈ (u.branch taken target join).paths ↔ z = a ∨ z = b ∨ z ∈ rest

/-- R139-R141, R143, R155: a waiting kernel launches when the previous one has completed and no transfer before it that shares memory with it
is under way; a kernel whose groups have all exited completes, here with nothing left to write back; a blocked group whose threads do not
wait at one barrier faults with BARRIER_DIVERGENCE. -/
def Obligations.KernelsLaunchAndComplete : Prop :=
  ∀ (c : Chan) (p : PumpIx) (f : BitVec 58) (g : GSlot) (o : RowOp) (j : SlotIx) (u : Group) (s : State),
    let q := s.pump c p
    (DescReady s c p .kernel 0x31 f → exec (.krn c p f) s = .next (s.onPump c p fun x =>
      { x.queuedIn .kernel s.timeNs with todo := [s.descWord c p .kernel f] })) ∧
    (q.te.kernel = none → q.todo = [o] → o.unit = .kernel → (∀ x ∈ q.xfers, x.acks = 0 ∨ feetMeet o.foot x.foot = false) →
      q.run ≠ .stopped → q.queued[6] ≠ 0 → kernelFieldsOk o.desc = true →
      kernelAccessOk o.desc (s.chan c).pinned (s.strictAt c p) = true →
      exec (.kernelLaunch c p) s = .next ((s.begun c p .kernel).onTe c p fun t => t.launch o.desc o.args)) ∧
    ((s.chan c).slotOf p = some j → q.kernelOver = true → q.te.dirty = [] → q.todo = [o] → o.unit = .kernel → q.xfers = [] →
      exec (.kernelComplete c p) s = .next (s.onPump c p fun x => Pump.wake { x.ended .kernel s.timeNs with
        te := { x.te with kernel := none, lines := [] }, todo := [], xfers := [] })) ∧
    (s.group c p g = some u → u.paths ≠ [] → (∀ z ∈ u.paths, z.st ≠ .live) →
      ((∃ z ∈ u.paths, ∃ n, z.st = .parked n) ∨ ∃ z ∈ u.paths, ∃ w ∈ u.paths, z.st ≠ w.st) →
      exec (.barrierDivergence c p g) s = .next (s.pumpFault c p .barrierDivergence 0))

/-- R67, R68, R72, R98, R211: a unit begins its oldest queued operation, once the polder's pause is over, which frees its queue entry; a
completed operation or transfer releases what waits on it and leaves its unit free; a pump stopped at DONE with nothing outstanding
reports frame done, and one whose broadcast queue is not empty, or at FENCE one whose DOT waits for entries that no BQS brings, faults
with DESCRIPTOR. A unit runs one operation at a time: the model's choice (log entry 148). -/
def Obligations.UnitEvents : Prop :=
  ∀ (c : Chan) (p : PumpIx) (u : RowUnit) (xs : List Xfer) (o : RowOp) (s : State),
    let q := s.pump c p
    (u ≠ .kernel → q.canBegin u = true → exec (.operationBegin c p u) s = .next (s.begun c p u)) ∧
    (u ≠ .kernel → u ≠ .transfer → q.todo = [] → 0 < q.running[(unitIx u).val] →
      exec (.operationComplete c p u) s = .next (s.onPump c p fun x => Pump.wake (x.ended u s.timeNs))) ∧
    (takeXfer q.xfers = some xs → q.todo = [] → 0 < q.running[5] →
      exec (.xfrComplete c p) s = .next (s.onPump c p fun x => Pump.wake { x.ended .transfer s.timeNs with xfers := xs })) ∧
    (q.run = .done → q.quiet = true → q.bq = [] → q.te.dirty = [] →
      exec (.pumpFrameDone c p) s = .next (s.onPump c p fun x => { x with run := .reported, doneNs := s.timeNs })) ∧
    (q.run = .done → q.todo = [] → exec (.streamDeadlockCheck c p) s =
      .next (if q.bq = [] then s else s.pumpFault c p .descriptor 0)) ∧
    (q.run = .fence → q.todo = [o] → o.unit = .multiply → wOp o.word = 0x20 → s.opReady c p o = false →
      exec (.streamDeadlockCheck c p) s = .next (s.pumpFault c p .descriptor 0))

/-- R245, R249-R251: a granule read over the bond port with a correctable error of the path is counted at the path, and one with an
uncorrectable error is read again; the second copy, where it is clean or corrected, is used and counted under SOURCE 7. -/
def Obligations.BondReadsAndRereads : Prop :=
  ∀ (c : Chan) (p : PumpIx) (gran : BitVec 19) (err : BitVec 288) (r : Reread) (s : State),
    (gran.toNat < (s.chan c).pinned → (s.slice c p).upset.readD 0 gran.toNat = 0 →
      (bscDecode err = .clean → exec (.bondReadDelivery c p gran err) s = .next s) ∧
      (∀ i v, bscDecode err = .corrected i v → s.bondRepeats c p i v = false →
        exec (.bondReadDelivery c p gran err) s = .next ((s.logCe c 2 (bondGroup i) gran.toNat i false).bondHit c p i v)) ∧
      (bscDecode err = .uncorrectable → exec (.bondReadDelivery c p gran err) s =
        .next (s.onPump c p fun q => { q with reread := some ⟨gran.toNat, err⟩ }))) ∧
    ((s.pump c p).reread = some r → (s.slice c p).upset.readD 0 r.gran = 0 →
      let s1 := s.onPump c p fun q => { q with reread := none }
      (bscDecode err = .clean → exec (.ueReread c p err) s = .next (s1.logCe c 7 0 r.gran 0x3F false)) ∧
      (∀ i v, bscDecode err = .corrected i v → exec (.ueReread c p err) s = .next (s1.logCe c 7 0 r.gran i false)))

/-! ### Modes, budget and Gnover (Chapter 1) -/

/-- R20-R22, Table 1.7: a write of MODE takes the requested mode and a one clears MODE_ERR; 0b11 leaves MODE and sets MODE_ERR. Into
Efficient mode the clock goes first, out of it the set-point; the clock is 2.0 GHz again only once the voltage is confirmed, and a
channel that is not confirmed keeps 1.5 GHz, sets MODE_ERR and tries again. -/
def Obligations.OperatingModeChanges : Prop :=
  ∀ (c : Chan) (v : BitVec 32) (s : State),
    let p := (s.chan c).pwr
    (s.mc.inReset = false → Answers (exec (.mcOpModeWrite v) s) fun t => OnlyMc s t ∧
      t.mc.pwr.mode = (if v.extractLsb' 0 2 = 3 then s.mc.pwr.mode else v.extractLsb' 0 2) ∧
      t.mc.pwr.modeErr = ((s.mc.pwr.modeErr && !v.getLsbD 7) || v.extractLsb' 0 2 == 3)) ∧
    (s.present c = true → s.mc.pwr.mode = 2 → p.clk15 = false → Answers (exec (.modeChangeReceipt c) s) fun t =>
      (t.chan c).pwr = { p with clk15 := true, move := .intoEff, setMv := 620 } ∧ t.outputs = s.outputs ++ [.setpoint c 620]) ∧
    (s.present c = true → s.mc.pwr.mode ≠ 2 → p.clk15 = true → 18 ≤ p.phases → Answers (exec (.modeChangeReceipt c) s) fun t =>
      (t.chan c).pwr = { p with move := .outEff, setMv := 720 } ∧ t.outputs = s.outputs ++ [.setpoint c 720]) ∧
    (p.move = .intoEff → Answers (exec (.railSettled c) s) fun t => (t.chan c).pwr = { p with move := .settled }) ∧
    (p.move = .outEff → p.setMv ≤ p.droopMv + p.guard → Answers (exec (.voltageConfirmed c) s) fun t =>
      (t.chan c).pwr = { p with clk15 := false, move := .settled }) ∧
    (p.move = .outEff → Answers (exec (.voltageConfirmTimeout c) s) fun t =>
      (t.chan c).pwr = { p with move := .unconfirmed } ∧ t.mc.pwr.modeErr = true) ∧
    (p.move = .unconfirmed → s.mc.pwr.mode ≠ 2 → 18 ≤ p.phases → Answers (exec (.modeRetry c) s) fun t =>
      (t.chan c).pwr = { p with move := .outEff, setMv := 720 })

/-- R19, R26: a budget computation grants a channel out of service nothing, no channel more than 700 W, and, with the input within the
limit, every active channel that was not held at its grant the equal floor of (limit x 0.92 - 40 W); above the limit every grant is
reduced in proportion. Gnover's reset stops no job, and its end changes nothing else. -/
def Obligations.BudgetAndGnoverReset : Prop :=
  ∀ (inputW : Nat) (c : Chan) (s : State),
    let limit := if s.mc.pwr.mode = 1 then 6000 else 5400
    let active := ((List.finRange 8).filter s.serving).length
    (s.mc.inReset = false → Answers (exec (.budgetComputation inputW) s) fun t => OnlyMc s t ∧
      t.mc.pwr.inputW = inputW ∧ t.mc.pwr.scaled = decide (limit < inputW) ∧ t.mc.pwr.grant[c.val] ≤ 700 ∧
      (s.serving c = false → t.mc.pwr.grant[c.val] = 0) ∧
      (s.serving c = true → s.heldAtGrant c = false → t.mc.pwr.grant[c.val] =
        if limit < inputW then min 700 ((limit * 92 / 100 - 40) / active) * limit / inputW
        else min 700 ((limit * 92 / 100 - 40) / active))) ∧
    (Answers (exec .gnoverReset s) fun t => OnlyMc s t ∧ t.mc.inReset = true ∧
      ∀ e, e ∈ t.mc.jobs ↔ e ∈ s.mc.jobs ∧ e.2.admitted = true) ∧
    exec .gnoverResetComplete s = .next { s with mc := { s.mc with inReset := false } }

/-! ### Frames, ticks and halts (Chapter 2) -/

/-- R30, R34, R38, R228: a channel whose frame is over reports frame done once, with its fault flag, its staging state and tag, and its late
time; a Strict job that has read a dead block faults here with DEAD_READ instead. -/
def Obligations.ChannelReportsFrameDone : Prop :=
  ∀ (c : Chan) (j : SlotIx) (s : State),
    let x := s.slot c j
    x.live = true → x.job.polders ≠ 0 → x.fr.own = none → s.frameOver c j = true →
    (x.fr.deadFault = true → exec (.channelFrameDone c j) s = .next (s.fault c j .deadRead .none 0 0)) ∧
    (x.fr.deadFault = false → x.fr.cutFault = none → x.fr.ueFault = none →
      Answers (exec (.channelFrameDone c j) s) fun t => ∃ r, (t.slot c j).fr.own = some r ∧
        r.fault = x.fr.faultFlag ∧ r.checked = (x.stg.state == .checked || x.stg.state == .commitPending) ∧ r.tag = x.stg.checkTag ∧
        r.lateCh = s.addrOf c ∧
        r.late = if x.job.state = .running ∨ x.job.state = .stopping then s.timeNs - x.fr.tickNs - x.job.nominalNs else 0)

/-- R31, R34, R324, Table 11.7: a node keeps the first report of each child and ignores a later copy; once it holds its own report and every
child's, it forwards one combined report to its parent, or keeps it as the master: FAULT by OR, one bit that all are checked with one
tag, and the late time and cause of the latest. A node that is no member combines its children's only. -/
def Obligations.NodesCombineReports : Prop :=
  ∀ (c : Chan) (port : PortIx) (tree : BitVec 12) (r own : Report) (t0 : Tree) (j : SlotIx) (up : PortIx) (s : State),
    let x := s.slot c j
    let rs := x.fr.reports ++ [(port, r)]
    let ks := t0.reports ++ [(port, r)]
    let later := fun (l : List (PortIx × Report)) (u : Report) => (∀ e ∈ l, e.2.late ≤ u.late)
    (s.chan c).router.trees.look tree.toNat = some t0 →
    (t0.slot = some j →
      ((∃ e ∈ x.fr.reports, e.1 = port) → exec (.doneMarker c port tree r) s = .next s) ∧
      (port ∈ x.job.children → (∀ e ∈ x.fr.reports, e.1 ≠ port) → x.job.polders ≠ 0 → x.fr.own = some own → x.fr.combined = none →
        ((∀ p ∈ x.job.children, ∃ e ∈ rs, e.1 = p) → Answers (exec (.doneMarker c port tree r) s) fun t => ∃ u,
          (t.slot c j).fr.reports = rs ∧ (t.slot c j).fr.combined = some u ∧
          u.fault = (own.fault || rs.any fun e => e.2.fault) ∧ own.late ≤ u.late ∧ later rs u ∧
          ((u.late = own.late ∧ u.cause = own.cause ∧ u.lateCh = own.lateCh) ∨
            ∃ e ∈ rs, u.late = e.2.late ∧ u.cause = e.2.cause ∧ u.lateCh = e.2.lateCh) ∧
          (u.checked = true ↔ own.checked = true ∧ ∀ e ∈ rs, e.2.checked = true ∧ e.2.tag = own.tag) ∧
          (x.job.parent = some up → x.job.acting = false → (s.port c up).speaks = true →
            t.outputs = s.outputs ++ [.marker c up (.done x.job.tree u) 3])) ∧
        ((∃ p ∈ x.job.children, ∀ e ∈ rs, e.1 ≠ p) → Answers (exec (.doneMarker c port tree r) s) fun t =>
          (t.slot c j).fr.reports = rs ∧ (t.slot c j).fr.combined = none ∧ t.outputs = s.outputs))) ∧
    (t0.slot = none → port ∈ t0.kids → (∀ e ∈ t0.reports, e.1 ≠ port) → (∀ p ∈ t0.kids, ∃ e ∈ ks, e.1 = p) → t0.parent = some up →
      (s.port c up).speaks = true → Answers (exec (.doneMarker c port tree r) s) fun t => ∃ u,
        t.outputs = s.outputs ++ [.marker c up (.done tree u) 3] ∧ u.fault = ks.any (fun e => e.2.fault) ∧ later ks u)

/-- R31, R32, R36, R37, R39, R62: with the fence met the master issues the next tick no earlier than P after the last, and so that F passes
from the last frame done of this module to its effect; the tick carries COMMIT just when a commit with the report's tag is pending, asked
for before this fence and within its 16, and every member is checked. A frame longer than P is counted as stretched. -/
def Obligations.TickIssuesAfterPeriod : Prop :=
  ∀ (c : Chan) (j : SlotIx) (r : Report) (s : State),
    let x := s.slot c j
    let last := ((s.localSlots x.job.ctx x.job.job).map fun e => (s.slot e.1 e.2).fr.ownNs).foldl max x.fr.ownNs
    let period := x.fr.issueNs + x.regs.set.periodUs * 1000
    let due := max period (last + (500 + 350 * x.job.depth) - x.regs.dmax / 4)
    let asked := x.stg.state == .commitPending && !x.stg.late && decide (x.stg.fences < 16)
    x.fr.combined = some r → s.fenceMet c j = true → x.fr.pend = none → r.fault = false → x.job.acting = false →
    s.homeTrouble c j = none → s.endsHere c j = false → x.job.state = .running →
    Answers (exec (.tickIssue c j) s) fun t =>
      t.timeNs = max s.timeNs due ∧ (t.slot c j).fr.issueNs = t.timeNs ∧ (t.slot c j).regs.frame = x.regs.frame ∧
      (t.slot c j).fr.pend = some ⟨asked && r.checked && r.tag == x.stg.commitTag && x.stopAsked.isNone, 0, t.timeNs⟩ ∧
      (t.slot c j).stg = { x.stg with late := false, fences := x.stg.fences + bit asked } ∧
      (t.slot c j).regs.ovrFrames = (if t.timeNs ≤ period then x.regs.ovrFrames else sat32 x.regs.ovrFrames 1)

/-- R33, R63, R71, Table 2.2: a tick takes effect after the equalising delay of DMAX less the channel's path; the frame number then rises by one
(the first tick of a job keeps it), a tick with COMMIT makes the staged set the committed one, the scalar registers, lane-store rows,
accumulator entries and broadcast queue of the job's pumps are clear, and so is the scratch region of data memory. -/
def Obligations.TickTakesEffect : Prop :=
  ∀ (c : Chan) (j : SlotIx) (pt : PendingTick) (p : PumpIx) (s : State),
    let x := s.slot c j
    let first := x.job.state = .admitting ∨ x.job.state = .restoring
    x.fr.pend = some pt → x.live = true → x.job.state ≠ .halted → x.job.polders.getLsbD (p.val / 8) = true →
    Answers (exec (.tickTakesEffect c j) s) fun t =>
      t.timeNs = max s.timeNs (pt.ns + (x.regs.dmax - pt.path) / 4) ∧
      (t.slot c j).regs.frame = (if first then x.regs.frame else (x.regs.frame + 1) % 2 ^ 64) ∧
      (t.slot c j).fr.tickNs = t.timeNs ∧ (t.slot c j).fr.pend = none ∧
      (pt.commit = true → (t.slot c j).regs.set = x.stg.set ∧ (t.slot c j).stg.state = .clean) ∧
      (pt.commit = false → (t.slot c j).regs.set = x.regs.set ∧ (t.slot c j).stg = x.stg) ∧
      (t.pump c p).x = [] ∧ (t.pump c p).lane = [] ∧ (t.pump c p).acc = [] ∧ (t.pump c p).bq = [] ∧
      (∀ e ∈ (t.pump c p).dmem, e.1 < 0xC00 ∨ 0x1000 ≤ e.1) ∧ (t.pump c p).slice.echoes = []

/-- R321-R323: the first copy of a TICK marker at a member leaves its path latency and waits for its equalising delay; a later copy
changes nothing, and one whose path is longer than DMAX takes effect at once with SKEW. R30: a channel with no job runs a local tick at
its committed period. -/
def Obligations.TickMarkersAndLocalTicks : Prop :=
  ∀ (c : Chan) (port : PortIx) (tree : BitVec 12) (commit : Bool) (copy : BitVec 2) (frame : BitVec 8) (acc : BitVec 20) (t0 : Tree)
    (j : SlotIx) (s : State),
    let path := (acc.toNat + (s.port c port).latQns.toNat + Config.forwardQns) % 2 ^ 20
    ((s.chan c).router.trees.look tree.toNat = some t0 →
      (t0.lastTick = some frame → exec (.tickMarker c port tree commit copy frame acc) s = .next s) ∧
      (t0.lastTick ≠ some frame → copy.toNat < 3 → t0.slot = some j → t0.deliver = true → (s.slot c j).live = true →
        path ≤ (s.slot c j).regs.dmax → Answers (exec (.tickMarker c port tree commit copy frame acc) s) fun t =>
          (t.slot c j).regs.path = path ∧ (t.slot c j).fr.pend = some ⟨commit, path, s.timeNs⟩ ∧
          (t.slot c j).regs.frame = (s.slot c j).regs.frame) ∧
      (t0.lastTick ≠ some frame → copy.toNat < 3 → t0.slot = some j → t0.deliver = true → (s.slot c j).live = true →
        (s.slot c j).regs.dmax < path → Answers (exec (.tickMarker c port tree commit copy frame acc) s) fun t =>
          (t.slot c j).regs.skew = true ∧ (t.slot c j).regs.skewCount = sat16 (s.slot c j).regs.skewCount 1 ∧
          (t.slot c j).fr.tickNs = s.timeNs ∧ (t.slot c j).fr.pend = none)) ∧
    ((∀ i : SlotIx, (s.slot c i).live = false) → Answers (exec (.localTick c) s) fun t =>
      t.timeNs = max s.timeNs ((s.slot c 0).fr.tickNs + (s.slot c 0).regs.set.periodUs * 1000) ∧
      (t.slot c 0).fr.tickNs = t.timeNs ∧
      ((s.slot c 0).stg.state = .commitPending → (t.slot c 0).regs.set = (s.slot c 0).stg.set ∧ (t.slot c 0).stg.state = .clean) ∧
      ((s.slot c 0).stg.state ≠ .commitPending → (t.slot c 0).regs.set = (s.slot c 0).regs.set))

/-- R42, R224: a halt tick does not increment the frame number; the member is halted, its pumps are stopped, and what was held in the halted
frame is discarded. The master issues it at a fence whose combined fault flag is set; a member takes it from the first HALT marker of
its tree. -/
def Obligations.HaltStopsJob : Prop :=
  ∀ (c : Chan) (j : SlotIx) (r : Report) (port : PortIx) (tree : BitVec 12) (copy : BitVec 2) (acc : BitVec 20) (t0 : Tree) (p : PumpIx)
    (s : State),
    let x := s.slot c j
    let halts := fun (res : Res) => Answers res fun t =>
      (t.slot c j).job.state = .halted ∧ (t.slot c j).regs.frame = x.regs.frame ∧
      (x.job.polders.getLsbD (p.val / 8) = true → (t.pump c p).run = .stopped) ∧
      ∀ e ∈ (t.chan c).held, e.slot = j → e.frame ≠ x.regs.frame
    x.live = true → x.job.state ≠ .halted →
    (x.fr.combined = some r → r.fault = true → x.job.lead = true → halts (exec (.haltTickIssue c j) s)) ∧
    ((s.chan c).router.trees.look tree.toNat = some t0 → t0.halt = false → copy.toNat < 3 → t0.slot = some j → t0.deliver = true →
      halts (exec (.haltMarker c port tree copy acc) s))

/-- R40, R41, R43, R56: the watchdog of a fence faults with WATCHDOG at the master, a member without a tick raises TICK_LOST, the first
live channel of the failover list that has learnt that the master may be lost becomes the acting master (log entry 150), and the notice of
a non-member home is kept by the master. -/
def Obligations.LostTicksAndFailover : Prop :=
  ∀ (c : Chan) (j : SlotIx) (fromCh : ChanAddr) (frame : Nat) (s : State),
    let x := s.slot c j
    x.live = true →
    (x.job.lead = true → x.job.state = .running → x.fr.pend = none → s.fenceMet c j = false → exec (.watchdogExpiry c j) s =
      .next ((s.until (x.fr.tickNs + x.regs.set.wdogMs * 1000000)).fault c j .watchdog .none 0 0)) ∧
    (x.job.lead = false → x.job.state = .running → x.fr.pend = none → x.job.polders ≠ 0 → exec (.tickLost c j) s =
      .next ((s.until (x.fr.tickNs + x.regs.set.wdogMs * 1000000 + 100000)).fault c j .tickLost .none 0 0)) ∧
    (x.job.lead = false → x.job.state = .running → x.fr.pend = none → x.job.polders ≠ 0 →
      x.regs.flt.valid = false → Answers (exec (.tickLost c j) s) fun t =>
      t.timeNs = max s.timeNs (x.fr.tickNs + x.regs.set.wdogMs * 1000000 + 100000) ∧ (t.slot c j).regs.flt.valid = true ∧
      (t.slot c j).regs.flt.cause = 4) ∧
    (x.job.state ≠ .halted → x.job.lead = false → x.fr.masterLost = true → s.firstLive c j = true → Answers (exec (.failoverTakeover c j) s) fun t =>
      (t.slot c j).job.acting = true ∧ (t.slot c j).job.master = s.addrOf c ∧ (t.slot c j).job.parent = none) ∧
    (x.job.lead = true → fromCh ∈ x.job.nonMembers → (fromCh, frame) ∉ x.fr.notices →
      Answers (exec (.inputCompleteNotice c j fromCh frame) s) fun t => (t.slot c j).fr.notices = x.fr.notices ++ [(fromCh, frame)])

/-- R46, R47, R377: the window closes after W; an eligible item that fits in what remains starts, one at a time, with the pumps' state
cleared; it is over once every pump of the job has reported, and with it the window's hold of the ports (R278). -/
def Obligations.PriorityWindow : Prop :=
  ∀ (c : Chan) (j : SlotIx) (u : UrgentItem) (p : PumpIx) (s : State),
    let x := s.slot c j
    (x.fr.windowOpen = true → Answers (exec (.windowClose c j) s) fun t =>
      (t.slot c j).fr.windowOpen = false ∧ t.timeNs = max s.timeNs (x.fr.windowNs + x.regs.windowUs * 1000)) ∧
    (x.fr.windowOpen = true → x.urgent = none → x.fr.faultFlag = false → x.ckpt = none →
      nextUrgent (x.fr.windowNs + x.regs.windowUs * 1000 - s.timeNs) x.urgents [] = some u →
      Answers (exec (.urgentItemStart c j) s) fun t =>
        (t.slot c j).urgents = x.urgents.map (fun z => if z = u then { z with running := true } else z) ∧
        (x.job.polders.getLsbD (p.val / 8) = true → (t.pump c p).x = [] ∧ (t.pump c p).acc = [])) ∧
    (x.urgent = some u → (∀ p ∈ (s.chan c).pumpsOf j, (s.pump c p).run = .reported) →
      Answers (exec (.urgentItemComplete c j) s) fun t => (t.slot c j).urgents = x.urgents.filter (· != u) ∧
        ∀ q : ArbPort, j ∉ (t.chan c).arbs[q.val].hold)

/-- R385-R387, R331: a job fault is recorded once in FLT_REC, with "Remove" as Table 14.1 marks its code, freezes the black box, and stops
the job's pumps in the channel; a later fault of the slot only counts. -/
def Obligations.JobFaultIsRecorded : Prop :=
  ∀ (c : Chan) (j : SlotIx) (cause : Cause) (kind : UnitKind) (unit addr : Nat) (p : PumpIx) (s : State),
    let x := s.slot c j
    let t := s.fault c j cause kind unit addr
    x.live = true →
    (x.regs.flt.valid = false → (t.slot c j).regs.flt.valid = true ∧ (t.slot c j).regs.flt.cause = BitVec.ofNat 8 cause.code ∧
      (t.slot c j).regs.flt.remove = decide (5 ≤ cause.code ∧ cause.code ≤ 9) ∧ (t.slot c j).regs.flt.unit = unit ∧
      (t.slot c j).regs.flt.frame = BitVec.ofNat 48 x.regs.frame) ∧
    (x.regs.flt.valid = true → (t.slot c j).regs.flt = { x.regs.flt with count := sat8 x.regs.flt.count 1 }) ∧
    (t.chan c).bbx.frozen = true ∧ (t.slot c j).fr.faultFlag = true ∧ (t.slot c j).regs.frame = x.regs.frame ∧
    (x.job.polders.getLsbD (p.val / 8) = true → (t.pump c p).run = .stopped)

/-! ### Staged changes (Chapter 2, Table 2.7) -/

/-- R60, with R58, R59, R62 and Tables 2.6, 2.7: an ST write lands in the staging bank of an unlocked slot and makes it DIRTY, leaving the
committed value; a locked slot ignores it and sets WRITE_LOCKED. CHECK, UNLOCK, REVERT and COMMIT move the slot between its states, and
neither UNLOCK nor REVERT acts in COMMIT_PENDING; a COMMIT that comes once the fence is met is noted as late for it. A check ends in
CHECKED with its tag, or in FAILED with the first failure; a commit without a qualifying fence among 16 fails with REASON 0x02. -/
def Obligations.StagingBank : Prop :=
  ∀ (c : Chan) (j : SlotIx) (tag : BitVec 8) (v : BitVec 64) (off : BitVec 22) (w : StWord) (e : Nat × Nat × Nat) (s : State),
    let g := (s.slot c j).stg
    let answers := fun (r : Res) (P : Staging → Prop) => Answers r fun t =>
      P (t.slot c j).stg ∧ (t.slot c j).regs.set = (s.slot c j).regs.set
    (Reachable s c →
      ((s.slot c j).live = true → answers (exec (.stWrite c (BitVec.ofNat 22 (0x010000 + 0x100 * j.val)) false v) s) fun h =>
        if g.state.locked then h = { g with locked := true }
        else h = { g with set := { g.set with periodUs := field v 0 15, wdogMs := field v 16 16 }, state := .dirty }) ∧
      (stWord off.toNat = some w → off.toNat % 4 = 0 → j ∈ (s.chan c).banks w → g.state.locked = true →
        Answers (exec (.stWrite c off false v) s) fun t => (t.slot c j).stg = { g with locked := true } ∧
          (t.chan c).stSet = (s.chan c).stSet ∧ ∀ pd, (t.polder c pd) = s.polder c pd) ∧
      answers (exec (.stgCheck c j tag) s) (fun h => if g.state = .clean ∨ g.state = .dirty ∨ g.state = .failed
        then h = { g with state := .checking, checkTag := tag } else h = g) ∧
      answers (exec (.stgUnlock c j) s) (fun h => if g.state = .checked ∨ g.state = .failed then h = { g with state := .dirty } else h = g) ∧
      answers (exec (.stgRevert c j) s) (fun h => if g.state = .dirty ∨ g.state = .checked ∨ g.state = .failed
        then h = { g with set := (s.slot c j).regs.set, state := .clean } else h = g) ∧
      (g.state = .dirty ∨ g.state = .checked ∨ g.state = .failed → Answers (exec (.stgRevert c j) s) fun t => (t.chan c).set = (s.chan c).set ∧
        (j ∈ (s.chan c).chanSlots → (t.chan c).stSet = (s.chan c).set) ∧ ∀ pd : PolderIx, (s.slot c j).job.polders.getLsbD pd.val = true →
          (t.polder c pd).stSlotMode = (s.polder c pd).slotMode ∧ (t.polder c pd).stUpUs = (s.polder c pd).upUs) ∧
      answers (exec (.stgCommit c j tag) s) (fun h => if (s.chan c).isMaster j = false then h = { g with reason := 3 }
        else if g.state = .commitPending then h = g
        else if g.state = .checked ∧ g.tag = tag then h = { g with state := .commitPending, commitTag := tag, fences := 0, reason := 0, late := s.fenceBegun c j }
        else h = { g with reason := 2 })) ∧
    (g.state = .checking → (s.chan c).checkSet j = none → Answers (exec (.checkComplete c j) s) fun t =>
      (t.slot c j).stg = { g with state := .checked, tag := g.checkTag, reason := 0 }) ∧
    (g.state = .checking → (s.chan c).checkSet j = some e → Answers (exec (.checkComplete c j) s) fun t =>
      (t.slot c j).stg = { g with state := .failed, reason := e.1, errOff := BitVec.ofNat 22 e.2.1, errBit := e.2.2, errChan := s.addrOf c }) ∧
    (g.state = .commitPending → 16 ≤ g.fences → (∀ p, (s.slot c j).fr.pend = some p → p.commit = false) → Answers (exec (.commitTimeout c j) s) fun t =>
      (t.slot c j).stg = { g with state := .failed, reason := 2, errChan := s.unchecked c j })

/-! ### The cistern and HBM (Chapters 8, 9) -/

/-- R176, R201, R212, R216, R217, R219, R222: a miss opens a fill of its line (in sector mode of its sector) in the table of 1,024, joins an
open one that has delivered nothing, or waits; a whole line enters the slices that asked for it, or streams past them, and its entry
closes; the drain applies a held entry that is due, here one of a whole granule in a slice; the sweep drops the epoch lines of other
frames; the write-mark plane of the other parity is cleared. A change of SECTOR drops every cache line and is refused while a job is
admitted; CIS_CLEAR clears a slice that belongs to no job; the counters and the logs are cleared (R202, R233, R246, R253). -/
def Obligations.CisternCommands : Prop :=
  ∀ (c : Chan) (p : PumpIx) (addr : FabAddr) (j : SlotIx) (e : FillEnt) (x : Held) (g : Nat) (v : BitVec 32) (s : State),
    let h := s.chan c
    let k := h.cis
    let n := if k.sector then 4 else 128
    let a := lineOf n addr.chan (offKey addr.off)
    let sect := if k.sector then some (offKey addr.off % n) else none
    let mine := fun (y : FillEnt) => y.at_ == a && (match y.sect with | some i => offKey addr.off % n == i | none => true)
    (h.slotOf p = some j → (s.slice c p).cached (s.frameOf c p) a = none →
      ((∀ y ∈ h.fills, ¬(y.at_ = a ∧ y.sect = sect)) → h.fills.length < 1024 → Answers (exec (.fillOpen c p addr) s) fun t =>
        (t.chan c).fills = h.fills ++
          [if s.streamWants c p a sect then ⟨a, sect, [], [p], false, j, []⟩ else ⟨a, sect, [p], [], false, j, []⟩]) ∧
      ((∀ y ∈ h.fills, ¬(y.at_ = a ∧ y.sect = sect)) → 1024 ≤ h.fills.length → exec (.fillOpen c p addr) s = .next s) ∧
      (h.fills = [e] → e.at_ = a → e.sect = sect → e.started = false → s.streamWants c p a sect = false → p ∉ e.mask →
        Answers (exec (.fillOpen c p addr) s) fun t => (t.chan c).fills = [{ e with mask := e.mask ++ [p] }])) ∧
    (h.fills.find? mine = some e → s.fillWhole c e = true → (e.at_.chan = s.addrOf c → s.hbmFrozen c (offKey e.at_.off) = false) →
      0 < h.lineRoom → Answers (exec (.fillDelivery c addr) s) fun t =>
        (t.chan c).fills = h.fills.erase e ∧ (e.sect = none → ∀ q ∈ e.mask, s.filledLine c q e ∈ (t.slice c q).lines) ∧
        (∀ q ∈ e.stream, s.filledLine c q e ∈ (t.slice c q).streamed) ∧
        ∀ q, q ∉ e.mask → q ∉ e.stream → t.pump c q = s.pump c q) ∧
    (h.fills.find? mine = none → exec (.fillDelivery c addr) s = .next s) ∧
    (h.held = [x] → h.atoms = [] → h.decls = [] → s.due c x.slot x.frame = true → x.mask = 0xFFFFFFFF#32 → x.up = 0 →
      keySlice (offKey x.off) = some (p, g) → deadAt (s.slice c p).dead (g / 128) = none → (s.slice c p).shadows.look g = none →
      (s.slice c p).inbound.look g = none →
      Answers (exec (.heldEntryDrain c) s) fun t => (t.slice c p).get g = x.data ∧ (t.chan c).held = []) ∧
    Answers (exec (.epochSweep c) s) (fun t => ∀ q l, l ∈ (t.slice c q).lines ↔ l ∈ (s.slice c q).lines ∧
      (l.epoch = none ∨ l.epoch = some (BitVec.ofNat 16 (s.frameOf c q)))) ∧
    Answers (exec (.markPlaneClear c) s) (fun t => ∀ q, (s.slice c q).oldMarks = true → (t.slice c q).oldMarks = false ∧
      (t.slice c q).marks = if s.frameOf c q % 2 = 0 then #v[(s.slice c q).marks[0], []] else #v[[], (s.slice c q).marks[1]]) ∧
    (Reachable s c →
      (v.getLsbD 0 ≠ k.sector → h.liveSlots = [] → Answers (exec (.cisModeWrite c v) s) fun t =>
        (t.chan c).cis = { k with sector := v.getLsbD 0, modeErr := k.modeErr && !v.getLsbD 1 } ∧
        ∀ q, (t.slice c q).lines = [] ∧ (t.slice c q).streamed = []) ∧
      (v.getLsbD 0 ≠ k.sector → h.liveSlots ≠ [] → exec (.cisModeWrite c v) s =
        .next (s.onCis c fun y => { y with modeErr := true })) ∧
      (v.getLsbD 16 = true → logicalOf h (field v 0 8) = some p → field v 0 8 < 144 →
        (h.slotOf p = none → Answers (exec (.cisClear c v) s) fun t =>
          (t.chan c).cis.clrBusy = true ∧ (t.slice c p).mem = [] ∧ (t.slice c p).clearing = true ∧ ∀ q, q ≠ p → t.pump c q = s.pump c q) ∧
        (h.slotOf p ≠ none → Answers (exec (.cisClear c v) s) fun t =>
          (t.chan c).cis.clrRefused = true ∧ (t.chan c).pumps = h.pumps)) ∧
      exec (.ceClear c) s = .next (s.onCis c fun y => { y with ceCount := Vector.replicate 8 0 }) ∧
      exec (.logClear c) s = .next (s.onCis c fun y => { y with ceLog := [], ueLog := [], ueTotal := 0 })) ∧
    Answers (exec (.clearComplete c) s) (fun t => (t.chan c).cis = { k with clrBusy := false } ∧
      ∀ q, (t.pump c q) = { s.pump c q with slice := { s.slice c q with clearing := false } })

/-- R254-R258, R265, R266, R466: the scrubber leaves a clean granule and writes a corrected one back, counted under SOURCE 0, here in the
pinned region of a slice; AUTO moves LEVEL with the corrections of a window; GO starts a ranged pass, which counts what it reads and
ends; refresh, read recentring, and training, which applies a pending lane repair while a redundant pin is left, or takes the channel out of
service where no rate trains (R263). A step whose operand brings an error pattern is the model's (log entry 32). -/
def Obligations.ScrubAndHbmService : Prop :=
  ∀ (c : Chan) (p : PumpIx) (unit gran : Nat) (v : BitVec 32) (val : Granule) (err : CodeWord) (st : StackIx) (rate : BitVec 2)
    (pcUp : BitVec 32) (s : State),
    let x := (s.chan c).cis
    let k := (s.chan c).stack[st.val]
    (unit < 144 → gran + (s.chan c).heldShare < 524288 → gran < (s.chan c).pinned → logicalOf (s.chan c) unit = some p → (s.slice c p).mem.look gran = some val →
      deadAt (s.slice c p).dead (gran / 128) = none → (s.slice c p).upset.readD 0 gran = 0 → SMap.sorted (s.slice c p).upset →
      (x.busy = false → x.cisRate ≠ 0 → exec (.scrubStep c false unit gran 0) s = .next s ∧
        (∀ i y, bscDecode err = .corrected i y → Answers (exec (.scrubStep c false unit gran err) s) fun t =>
          (t.slice c p).get gran = val ^^^ (err ^^^ oneSymbol i y).setWidth 256 ∧ (t.slice c p).upset.readD 0 gran = 0 ∧
          (t.chan c).cis.ceCount[0] = sat64 x.ceCount[0] 1)) ∧
      (x.busy = true → x.passHbm = false → x.passUnit = unit → x.passPos = gran → gran < x.passEnd →
        exec (.scrubStep c false unit gran 0) s =
          .next (s.onCis c fun y => { y with passPos := y.passPos + 1, sumRead := y.sumRead + 1 }))) ∧
    Answers (exec (.scrubWindow c) s) (fun t => (t.chan c).cis.windowCe = 0 ∧
      (x.auto = false → (t.chan c).cis.level = x.level) ∧
      (x.auto = true → x.raise < x.windowCe → (t.chan c).cis.level = min 2 (x.level + 1) ∧ (t.chan c).cis.quiet = 0) ∧
      (x.auto = true → x.windowCe ≤ x.raise → 60 ≤ x.quiet + 1 → (t.chan c).cis.level = x.level - 1 ∧ (t.chan c).cis.quiet = 0) ∧
      (x.auto = true → x.windowCe ≤ x.raise → x.quiet + 1 < 60 → (t.chan c).cis.level = x.level ∧ (t.chan c).cis.quiet = x.quiet + 1)) ∧
    (Reachable s c → v.getLsbD 0 = true → Answers (exec (.scrubRangeGo c v) s) fun t =>
      if x.busy then (t.chan c).cis.busyErr = true ∧ (t.chan c).cis.passPos = x.passPos
      else (t.chan c).cis.busy = true ∧ (t.chan c).cis.passPos = x.start.toNat ∧ (t.chan c).cis.sumRead = 0 ∧ (t.chan c).cis.sumFirst = none ∧
        (t.chan c).cis.passEnd = min (x.start.toNat + (x.count.toNat + 1)) (s.unitGrans c (v.getLsbD 2) (field v 4 8))) ∧
    (x.busy = true → x.passEnd ≤ x.passPos → x.passFor = none → exec (.scrubPassComplete c) s =
      .next (s.onCis c fun y => { y with busy := false })) ∧
    Answers (exec (.refresh c st) s) (fun t => OnlyChan c s t ∧ (t.chan c).hbm = (s.chan c).hbm ∧
      (t.chan c).stack[st.val] = { k with refreshes := k.refreshes + 1 }) ∧
    Answers (exec (.hbmReadRecentre c) s) (fun t => OnlyChan c s t ∧ (t.chan c).hbm = (s.chan c).hbm ∧
      ∀ i : StackIx, (t.chan c).stack[i.val].recentred = (s.chan c).stack[i.val].recentred + 1) ∧
    (rate ≠ 3 → Answers (exec (.hbmTrainingComplete c st rate pcUp) s) fun t => OnlyChan c s t ∧ (t.chan c).stack[st.val] = { k with
      rate := rate, pcUp := pcUp, retrain := k.retrain && !decide (k.lanesRep < Config.hbmSparePins),
      lanesRep := if k.retrain ∧ k.lanesRep < Config.hbmSparePins then sat8 k.lanesRep 1 else k.lanesRep }) ∧
    Answers (exec (.hbmTrainingComplete c st 3 pcUp) s) (fun t => (t.chan c).stack[st.val].pcUp = 0 ∧
      (t.chan c).st.oos.getLsbD 8 = true ∧ t.serving c = false)

/-! ### Arbitration (Chapter 10) -/

/-- R274, R277, R280, R283: at a boundary a port grants, among urgent requests if there are any, else among those of a class that is owed
if there are any, else among all, the request that wins over every other, and an owed class pays 256; a frozen port drains; a request that
is still raised more than 2^30 ns after its deadline becomes overdue; a master port raises the request it holds once its bucket has
refilled. -/
def Obligations.ArbitrationGrants : Prop :=
  ∀ (c : Chan) (port : ArbPort) (w : Req) (n : Nat) (st : StackIx) (v : BitVec 32) (e : ArbPort × Req) (j : SlotIx) (s : State),
    let h := s.chan c
    let a := h.arbs[port.val]
    let urg := ∃ x ∈ a.reqs, x.cls = .urgent
    let cand := fun x : Req => x ∈ a.reqs ∧ (x.cls = .urgent ∨ ¬urg)
    let d := a.accrue h.set.share[(portKind port).val] a.candidates
    let owed := fun x : Req => cand x ∧ x.cls ≠ .urgent ∧ 256 ≤ d[(ReqClass.ix x.cls).val]
    let pool := fun x : Req => owed x ∨ (cand x ∧ ∀ y, ¬owed y)
    (a.freeze = false → a.hold = [] → a.cut = none → pool w → (∀ x, pool x → x ≠ w → w.beats x = true ∧ x.beats w = false) →
      Answers (exec (.burstBoundary c port) s) fun t => OnlyChan c s t ∧ (t.chan c).arbs[port.val].reqs = a.reqs.erase w ∧
        (t.chan c).arbs[port.val].owner = some w.requester ∧ (t.chan c).arbs[port.val].burst = true ∧
        (owed w → (t.chan c).arbs[port.val].d = upd d (ReqClass.ix w.cls) (· - 256)) ∧
        ((∀ y, ¬owed y) → (t.chan c).arbs[port.val].d = d)) ∧
    (a.freeze = false → a.reqs = [] → Answers (exec (.burstBoundary c port) s) fun t =>
      (t.chan c).arbs[port.val].burst = false ∧ (t.chan c).arbs[port.val].owner = none) ∧
    (a.freeze = true → Answers (exec (.burstBoundary c port) s) fun t =>
      (t.chan c).arbs[port.val] = { a with burst := false, drained := true, owner := none, run := 0 }) ∧
    (a.reqs[n]? = some w → Answers (exec (.overdue c port n) s) fun t => t.mc = s.mc ∧ (∀ d, d ≠ c → t.chan d = s.chan d) ∧
      s.timeNs ≤ t.timeNs ∧ (w.deadline - BitVec.ofNat 32 t.timeNs : BitVec 32).toInt < -(2 ^ 30) ∧
      ∀ i, (t.chan c).arbs[port.val].reqs[i]? = a.reqs[i]?.map fun q => if i = n then { q with overdue := true } else q) ∧
    (a.reqs[n]? = none → exec (.overdue c port n) s = .next s) ∧
    (h.reg.held = [e] → e.2.slot = some j → s.trickled c e.2 = none → h.reg.bucket[(ReqClass.ix e.2.cls).val].2 ≤ s.timeNs →
      Answers (exec (.masterPortRelease c e.2.cls j) s) fun t => t.timeNs = s.timeNs + s.tokenTime c e.2 ∧
        (t.chan c).reg.held = [] ∧ (t.chan c).arbs[e.1.val].reqs = h.arbs[e.1.val].reqs ++
          [{ e.2 with deadline := BitVec.ofNat 32 (t.timeNs + h.set.target[(ReqClass.ix e.2.cls).val]) }]) ∧
    (Reachable s c →
      Answers (exec (.arbFreezeHbm c st v) s) (fun t => (h.stalled = [] → OnlyChan c s t) ∧ ∀ i : Fin 32,
        ((t.chan c).arbs[32 * st.val + i.val]'(by omega)).freeze = v.getLsbD i.val) ∧
      Answers (exec (.arbFreezeLnk c v) s) (fun t => ((∀ q : PortIx, (s.port c q).waiting = []) → OnlyChan c s t) ∧ ∀ q : PortIx,
        ((t.chan c).arbs[(egress q).val]).freeze = v.getLsbD q.val))

/-! ### Fabric ports, flits and markers (Chapter 11) -/

/-- R290-R299, R306, R308, R310, R330, R483, Table 11.2: the states of a port. Signal starts training; a step that ends in time leads to the
next, the fourth to a width and the last to ACTIVE; a missed deadline starts over, and the fourth leads to DOWN; an enabled port tries
again a second later. A retrain drains the port first and is refused while a job uses it. A failed lane narrows the port; the replay
buffer is sent again. R2, R14: a port that is wired to another channel of the module trains only while that one is present, and loses its
signal with it. -/
def Obligations.PortStates : Prop :=
  ∀ (c : Chan) (port : PortIx) (lanes : BitVec 8) (info : TrainInfo) (v : BitVec 32) (lane : Fin 8) (lat : BitVec 16) (j : SlotIx)
    (e : SlotEntry) (w g : BitVec 2) (s : State),
    let p := s.port c port
    let after := fun (r : Res) (P : Port → Prop) => Answers r fun t => P (t.port c port)
    (p.state = .detect → 2 ≤ (bitsOf lanes).length → s.linkable c port = true → after (exec (.signalDetect c port lanes) s) fun q =>
      q.state = .train ∧ q.step = 1 ∧ q.width = 3) ∧
    (p.state = .train → info.step.val = p.step → s.linkable c port = true →
      (p.step = 4 → chooseWidth (p.good &&& info.goodLanes) (widest p.maxWidth (s.farEnd c port info).2.2.1) = some (w, g) →
        after (exec (.trainStepComplete c port info) s) fun q => q.state = .train ∧ q.step = 5 ∧ q.width = w ∧ q.group = g) ∧
      (p.step = 6 → after (exec (.trainStepComplete c port info) s) fun q => q.state = .train ∧ q.step = 7 ∧
        q.latQns = info.latQns ∧ (∀ d, wiredTo c port = some d → q.partnerCh = s.addrOf d ∧ q.compatDiff = false) ∧
        (wiredTo c port = none → q.partnerCh = info.partnerCh ∧ q.compatDiff = (info.partnerSet != s.mc.firm.cset))) ∧
      (p.step = 7 → after (exec (.trainStepComplete c port info) s) fun q => q.state = .active)) ∧
    (p.state = .train → p.restarts < 3 → after (exec (.trainingTimeout c port) s) fun q =>
      q.state = .train ∧ q.step = 1 ∧ q.restarts = p.restarts + 1) ∧
    (p.state = .train → 3 ≤ p.restarts → after (exec (.trainingTimeout c port) s) fun q => q.state = .down) ∧
    (p.state = .down → p.enable = true → s.linkable c port = true → after (exec (.downTimer c port) s) fun q => q.state = .detect) ∧
    (s.windowOpen c = true →
      (p.state = .active → s.portInUse c port = false → Answers (exec (.retrain c port) s) fun t =>
        (t.port c port).state = .drain ∧ (t.chan c).arbs[(egress port).val].freeze = true) ∧
      (p.state ≠ .active ∨ s.portInUse c port = true → exec (.retrain c port) s =
        .next (s.onPort c port fun q => { q with refused := true })) ∧
      (v.getLsbD 0 = true → v.getLsbD 3 = false → p.state = .disabled → (s.chan c).pwr.lk = .on → s.linkable c port = true →
        after (exec (.portEnableWrite c port v) s) fun q => q.state = .detect ∧ q.enable = true ∧ q.maxWidth = v.extractLsb' 1 2) ∧
      (v.getLsbD 0 = false → v.getLsbD 3 = false → p.state ≠ .disabled →
        after (exec (.portEnableWrite c port v) s) fun q => q.state = .disabled ∧ q.enable = false)) ∧
    (p.state = .drain → p.replay = [] → Answers (exec (.drainComplete c port) s) fun t =>
      (t.port c port).state = .train ∧ (t.port c port).step = 1 ∧ (t.chan c).arbs[(egress port).val].freeze = false) ∧
    (p.speaks = true → after (exec (.lossOfSignal c port) s) fun q => q.state = .down ∧ q.los = true ∧ q.width = 3) ∧
    (p.speaks = true → ∀ d, wiredTo c port = some d → (s.port d port).speaks = true →
      Answers (exec (.lossOfSignal c port) s) fun t => (t.port d port).state = .down ∧ (t.port d port).los = true) ∧
    (s.linkable c port = false → exec (.signalDetect c port lanes) s = .next s ∧ exec (.downTimer c port) s = .next s) ∧
    (p.state = .active →
      let good := p.good &&& ~~~(1#8 <<< lane.val)
      (p.lanesUsed.getLsbD lane.val = false → exec (.laneFailure c port lane) s = .next (s.onPort c port fun q => { q with good := good })) ∧
      (p.lanesUsed.getLsbD lane.val = true → chooseWidth good (widest p.maxWidth p.width) = some (w, g) →
        after (exec (.laneFailure c port lane) s) fun q => q.state = .active ∧ q.width = w ∧ q.group = g ∧ q.narrowed = true) ∧
      (p.lanesUsed.getLsbD lane.val = true → chooseWidth good (widest p.maxWidth p.width) = none →
        after (exec (.laneFailure c port lane) s) fun q => q.state = .down) ∧
      exec (.equalisation c port lat) s = .next (s.onPort c port fun q => { q with latQns := lat })) ∧
    (p.replay ≠ [] → Answers (exec (.replayTimeout c port) s) fun t =>
      t.outputs = s.outputs ++ p.replay.map fun f => .flit c port f.1 f.2) ∧
    (p.owner = some j → p.table[p.cursor]? = some e → p.left = 0 → Answers (exec (.slotEntryOpen c port) s) fun t =>
      t.timeNs = max s.timeNs (max ((s.slot c j).fr.tickNs + e.start.toNat * 10) p.eqNs) ∧ (t.port c port).cursor = p.cursor + 1 ∧
      (t.port c port).left = if e.owner = 0xD then 0 else e.count.toNat + 1)

/-- R165, R212, R217, R300-R302, R306, R314, R320, R332: a flit that fails the check is answered NAK; one accepted in order does its work
at its destination: a WRITE and an ATOMIC are recorded at their home with the frame, a READ is answered with the granules of the 4 KiB
line that it names, in eight flits (log entry 153), RDATA fills the open line or sector, a COMBINE enters the inbound granule, a WACK ends
a transfer's wait, an error faults the job that asked. A WRITE for another channel goes on; an unknown type is acknowledged and changes
nothing else. -/
def Obligations.FlitsAreTaken : Prop :=
  ∀ (c : Chan) (port out : PortIx) (fh : FlitHdr) (r : WriteRec) (rs : List WriteRec) (a : AtomicRec) (line : FabAddr) (data : List Granule)
    (v : Granule) (frame g : Nat) (p : PumpIx) (j : SlotIx) (x : Xfer) (xs : List Xfer) (e : FillEnt) (code : RespErr) (info : CtrlInfo)
    (ty : BitVec 4) (s : State),
    let h := s.chan c
    let k := offKey line.off / 128 * 128
    let at_ := fh.target.toNat
    let base := offKey e.at_.off
    let takes := fun (res : Res) (P : State → Prop) => Answers res fun t => (t.port c port).rxSeq = fh.seq + 1 ∧ P t
    ((s.port c port).speaks = true → fh.crcOk = false → exec (.writeFlit c port fh rs) s = .next (s.marker c port (.nak fh.seq))) ∧
    (Accepts s c port fh → fh.dest ≠ s.addrOf c → routePort (h.route fh.rset fh.dest) = some out → out ≠ port →
      SendsNow s c out (.passed fh.src (.write fh.dest rs)) →
      takes (exec (.writeFlit c port fh rs) s) fun t => Sent t c out (.passed fh.src (.write fh.dest rs))) ∧
    (TakenHere s c port fh →
      (h.validKey (offKey r.off) = true → s.senderSlot c fh (offKey r.off) = some j → NoEntry s c j r → HoldRoom s c j (offKey r.off) →
        takes (exec (.writeFlit c port fh [r]) s) fun t => (t.chan c).held = h.held ++ [heldOf s c j r]) ∧
      (h.validKey (offKey a.off) = true → s.senderSlot c fh (offKey a.off) = some j → a.ret = false →
        takes (exec (.atomicFlit c port fh [a]) s) fun t => (t.chan c).atoms = h.atoms ++ [⟨j, s.frameNo c j, a⟩]) ∧
      (h.validKey k = true → keySlice k = some (p, g) → s.hbmFrozen c k = false →
        (∀ i < 128, PlainGranule s c p (g + i) ∧ (s.slice c p).shadows.look (g + i) = none) →
        routePort (h.route fh.rset fh.src) = some out → h.portFrozen out = false → (s.port c out).state = .active →
        (s.port c out).waiting = [] → 8 ≤ (s.port c out).credits[1] → (s.port c out).replay.length + 8 ≤ 128 →
        takes (exec (.readFlit c port fh [line]) s) fun t => ∀ i < 8, Sent t c out (.rdata fh.src ⟨s.addrOf c, keyOff (k + 16 * i)⟩
          ((List.range 16).map fun n => (s.slice c p).get (g + 16 * i + n)))) ∧
      (h.fills = [e] → e.at_.chan = fh.src → base ≤ at_ → SMap.sorted e.got →
        (e.sect = none → data ≠ [] → at_ + data.length ≤ base + h.lineGrans → (∀ i < data.length, e.got.look (at_ + i - base) = none) →
          takes (exec (.rdataFlit c port fh data) s) fun t => ∃ y, (t.chan c).fills = [y] ∧ y.at_ = e.at_ ∧ y.started = true ∧
            ∀ i < data.length, y.got.look (at_ + i - base) = data[i]?) ∧
        (∀ i, e.sect = some i → i < h.lineGrans → at_ ≤ base + i → base + i < at_ + data.length → e.got.look i = none →
          takes (exec (.rdataFlit c port fh data) s) fun t => ∃ y, (t.chan c).fills = [y] ∧ y.at_ = e.at_ ∧ y.sect = e.sect ∧
            y.started = true ∧ y.got.look i = data[base + i - at_]?)) ∧
      (h.validKey at_ = true → keySlice at_ = some (p, g) → (s.slice c p).inbound.look g = none → h.adderBad p = false →
        takes (exec (.combineFlit c port fh frame [v]) s) fun t => (t.slice c p).inbound.look g = some [⟨frame, v, 0⟩]) ∧
      ((s.pump c p).xfers = x :: xs → 0 < x.acks → takes (exec (.wackFlit c port fh [p]) s) fun t =>
        (t.pump c p).xfers = { x with acks := x.acks - 1 } :: xs) ∧
      ((s.slot c j).live = true → (s.slot c j).regs.flt.valid = false →
        takes (exec (.respErrFlit c port fh (some j) none code) s) fun t => (t.slot c j).regs.flt.valid = true ∧
          (t.slot c j).regs.flt.cause = (if code = .access then 0x07 else 0x03) ∧ (t.slot c j).regs.flt.unit = fh.src.toNat)) ∧
    ((s.port c port).speaks = true →
      (info.narrowing = false → Answers (exec (.ctrlFlit c port info) s) fun t =>
        (t.port c port).good = (s.port c port).good &&& info.goodLanes) ∧
      Answers (exec (.unknownFlit c port ty) s) fun t => (t.port c port).rxSeq = (s.port c port).rxSeq + 1 ∧
        (t.chan c).slots = h.slots ∧ (t.chan c).pumps = h.pumps ∧ t.mc = s.mc)

/-- R295, R305, R306, R315, R321, R325, R327, R331, R387: FAULT stops the member and goes on over its tree; a NAK brings a replay, an ACK
frees what it names, a CREDIT adds the advance of its count, an ECHO is returned; MCAST delivers at the homes here, a REDUCE waits in
the combining store for its other inputs, a module record is kept and flooded; a collective entry of the frame begins once, and one
that may not read its source or write a destination faults its job with DESCRIPTOR (log entry 149). -/
def Obligations.MarkersAndCollectives : Prop :=
  ∀ (c : Chan) (port : PortIx) (tree : BitVec 12) (cause : BitVec 8) (who : ChanAddr) (seq : BitVec 12) (f : OutFlit)
    (l1 l2 : List (BitVec 12 × OutFlit)) (k : CreditKind) (i : Fin 4) (n frame : Nat) (stamp : BitVec 52) (fh : FlitHdr) (tr : Tree) (j : SlotIx)
    (p : PumpIx) (r : WriteRec) (v : Granule) (m : ModRecord) (ctx job : Nat) (jb : Job) (e : CollEntry) (src dst : View) (s : State),
    let q := s.port c port
    let look := (s.chan c).router.trees.look
    let x := s.slot c j
    (look tree.toNat = some tr → (cause, who) ∈ tr.faults → exec (.faultMarker c port tree cause who) s = .next s) ∧
    (look tree.toNat = some tr → (cause, who) ∉ tr.faults → tr.slot = some j → tr.deliver = true → x.live = true → x.job.state ≠ .halted →
      Answers (exec (.faultMarker c port tree cause who) s) fun t => (t.slot c j).fr.faultFlag = true ∧
        (x.job.polders.getLsbD (p.val / 8) = true → (t.pump c p).run = .stopped) ∧
        ∀ o : PortIx, tr.mask.getLsbD o.val = true → o ≠ port → (s.port c o).speaks = true →
          Output.marker c o (.fault tree cause who) 3 ∈ t.outputs) ∧
    (q.replay = l1 ++ (seq, f) :: l2 → (∀ y ∈ l1, y.1 ≠ seq) →
      Answers (exec (.nakMarker c port seq) s) (fun t => t.outputs = s.outputs ++ ((seq, f) :: l2).map fun y => .flit c port y.1 y.2) ∧
      (q.waiting = [] → exec (.ackMarker c port seq) s = .next (s.onPort c port fun y => { y with replay := l2 }))) ∧
    (kindIx k = some i → q.waiting = [] → exec (.creditMarker c port k n) s = .next (s.onPort c port fun y => { y with
      credits := upd y.credits i (· + (n - y.credSeen[i.val])), credSeen := upd y.credSeen i (max n) })) ∧
    (q.speaks = true → exec (.echoMarker c port stamp) s = .next { s with outputs := s.outputs ++ [.marker c port (.echo stamp) 1] }) ∧
    (Accepts s c port fh →
      (look (flitTree fh).toNat = some tr → tr.slot = some j → tr.deliver = true → x.regs.frame = frame → NoEntry s c j r →
        HoldRoom s c j (offKey r.off) → Answers (exec (.mcastFlit c port fh frame [(s.addrOf c, r)] []) s) fun t =>
          (t.chan c).held = (s.chan c).held ++ [heldOf s c j r] ∧ (t.slot c j).fr.collGot = x.fr.collGot + maskBytes r.mask) ∧
      (look (flitTree fh).toNat = some tr → s.treeJob (flitTree fh) = some (ctx, job, jb) → 1 < tr.inputs →
        (∀ y ∈ (s.chan c).router.store, ¬(y.tree = flitTree fh ∧ y.entry = flitEntry fh ∧ y.elem = flitElem fh)) →
        Answers (exec (.reduceFlit c port fh [v]) s) fun t =>
          (t.chan c).router.store = (s.chan c).router.store ++ [⟨flitTree fh, flitEntry fh, flitElem fh, 1, v⟩]) ∧
      (m.serial ∉ (s.chan c).router.seenMods → Answers (exec (.mgmtFlit c port fh (.module m)) s) fun t =>
        (t.chan c).router.seenMods = (s.chan c).router.seenMods ++ [m.serial] ∧ ∃ y ∈ t.mc.fab.mods, y.serial = m.serial)) ∧
    (s.job x.job.ctx x.job.job = some jb → jb.image.colls.find? (fun y => y.vch == e.vch && y.index == e.index) = some e → e.vch < 2 ^ 15 →
      x.job.state = .running → x.fr.faultFlag = false → collRuns e x.regs.frame = true → jb.home e.vch = some (s.addrOf c) →
      (e.vch, e.index) ∉ x.fr.collDone → s.viewOf x.job.ctx jb e.src e.vch = some src → s.viewOf x.job.ctx jb e.dst e.vch = some dst →
      Answers (exec (.collectiveStart c j (BitVec.ofNat 15 e.vch) e.index) s) (fun t =>
        t.timeNs = max s.timeNs (x.fr.tickNs + e.startNs) ∧ (t.slot c j).fr.collDone = x.fr.collDone ++ [(e.vch, e.index)]) ∧
      (s.collUse x.job.ctx jb e src = false → exec (.collectiveStart c j (BitVec.ofNat 15 e.vch) e.index) s =
        .next (((s.until (x.fr.tickNs + e.startNs)).onFr c j fun y => { y with collDone := y.collDone ++ [(e.vch, e.index)] }).fault c j
          .descriptor .none 0 0)) ∧
      (e.kind = .broadcast → e.vch ≠ e.first + e.root → exec (.collectiveStart c j (BitVec.ofNat 15 e.vch) e.index) s =
        .next ((s.until (x.fr.tickNs + e.startNs)).onFr c j fun y => { y with collDone := y.collDone ++ [(e.vch, e.index)] })))

/-! ### Placement (Chapter 12) -/

/-- R315-R317, R335, R346, R347, R349: discovery gives the IDs in ascending serial order, a joining module its recorded ID or its pin; a
newer record of a channel replaces the old one and the keeper numbers a change; the lowest module left takes the map over; the first
claim on a resource is granted and confirmed claims do not lapse; with the last claim the writes go out, with the last acknowledgement
the job is admitted; a placement that waits runs again at a later map, or ends at its deadline. -/
def Obligations.PlacementCommands : Prop :=
  ∀ (c : Chan) (m : ModRecord) (r : MapRec) (lost : BitVec 12) (who : ClaimId) (res : Resource) (a : ChanAddr) (p : Placing) (jb : Job)
    (x : MapChan) (s : State),
    let f := s.mc.fab
    let serial := s.mc.fuses.serial
    s.mc.inReset = false →
    (f.mods = [m] → f.pinEn = false → m.pinned = none → m.serial ≠ serial → Answers (exec .discoverySettle s) fun t =>
      t.mc.fab.id = (if serial.toNat < m.serial.toNat then 0 else 1) ∧ t.mc.fab.idValid = true ∧ t.mc.fab.keeper = 0 ∧
      ∀ d, (t.chan d).st.addr = t.addrOf d ∧ (t.chan d).st.addrValid = true) ∧
    (f.idValid = false → f.ids = [] →
      (f.map.find? (fun y => y.serial == serial) = some x → Answers (exec .moduleJoin s) fun t =>
        t.mc.fab.id = BitVec.ofNat 12 (x.addr.toNat / 8) ∧ t.mc.fab.idValid = true) ∧
      (f.map.find? (fun y => y.serial == serial) = none → f.pinEn = true → Answers (exec .moduleJoin s) fun t =>
        t.mc.fab.id = f.pinId ∧ t.mc.fab.idValid = true)) ∧
    (f.placing = none →
      (f.version < r.version → r.version ≠ 0 → Answers (exec (.mapChange r) s) fun t =>
        t.mc.fab.version = r.version ∧ mapAt t.mc.fab.map r.chan.addr = some r.chan) ∧
      (f.keeper = f.id → r.version = 0 → Answers (exec (.mapChange r) s) fun t =>
        t.mc.fab.version = f.version + 1 ∧ mapAt t.mc.fab.map r.chan.addr = some r.chan)) ∧
    (f.keeper = lost → f.ids.filter (fun e => e.2 != lost) ≠ [] → Answers (exec (.mapKeeperTakeover lost) s) fun t => OnlyMc s t ∧
      t.mc.fab.version = f.version ∧ (∃ e ∈ f.ids, e.2 ≠ lost ∧ t.mc.fab.keeper = e.2) ∧
      ∀ e ∈ f.ids, e.2 ≠ lost → t.mc.fab.keeper.toNat ≤ e.2.toNat) ∧
    (s.grantable c res = true → Answers (exec (.claim c who res) s) fun t =>
      (t.chan c).claims = (s.chan c).claims ++ [(who, res, false)]) ∧
    (s.grantable c res = false → Answers (exec (.claim c who res) s) fun t => (t.chan c).claims = (s.chan c).claims) ∧
    (Answers (exec (.claimLapse c who) s) fun t => OnlyChan c s t ∧
      ∀ y, y ∈ (t.chan c).claims ↔ y ∈ (s.chan c).claims ∧ (y.1 ≠ who ∨ y.2.2 = true)) ∧
    (f.placing = some p →
      ((a, res) ∈ p.claims → s.localChan a = none → p.claims.erase (a, res) ≠ [] → exec (.claimReply res a true) s =
        .next (s.onFab fun g => { g with placing := some { p with
          claims := p.claims.erase (a, res), granted := p.granted ++ [(a, res)] } })) ∧
      (p.claims = [(a, res)] → s.localChan a = none → s.job p.ctx p.job = some jb → Answers (exec (.claimReply res a true) s) fun t =>
        t.mc.fab.placeState = 3 ∧ t.mc.fab.placing =
          some { p with claims := [], granted := p.granted ++ [(a, res)], writes := p.tables.map (·.1) }) ∧
      (a ∈ p.writes → p.writes.erase a ≠ [] → exec (.tableWriteAck a) s =
        .next (s.onFab fun g => { g with placing := some { p with writes := p.writes.erase a } })) ∧
      (p.writes = [a] → s.job p.ctx p.job = some jb → s.mc.ctxs.look p.ctx = none → Answers (exec (.tableWriteAck a) s) fun t =>
        t.mc.fab.placing = none ∧ t.mc.fab.placeState = 4 ∧ (t.job p.ctx p.job).map (·.admitted) = some true) ∧
      (p.waiting = true → s.job p.ctx p.job = some jb →
        (p.version < f.version → Answers (exec .placementRetry s) fun t => t.mc.fab.attempts = f.attempts + 1) ∧
        ((policy jb.policy).deadlineS ≠ 0 → p.restart = false → SMap.sorted s.mc.jobs → Answers (exec .placeDeadline s) fun t =>
          t.timeNs = max s.timeNs (p.firstNs + (policy jb.policy).deadlineS * 1000000000) ∧ t.mc.fab.placing = none ∧
          t.mc.fab.placeState = 5 ∧ t.mc.fab.placeCode = 0x07 ∧ t.job p.ctx p.job = none)))

/-! ### The host interface (Chapter 13) -/

/-- R363-R366, R370, Table 17.7: a doorbell moves PROD, or puts a ring whose PROD runs too far ahead in ERROR, and a narrow one is only
counted; enabling both admin rings starts one, a size outside 6-16 sets ERR; a fetched descriptor waits in its ring; the oldest completion
record goes to its slot with its PHASE; both wait while an urgent well has one of its own (R286); vectors are sent, or pend while masked.
-/
def Obligations.RingsAndInterrupts : Prop :=
  ∀ (c : Chan) (ctx loc bytes fn w vec : Nat) (v : BitVec 64) (d : BitVec 512) (x : Well) (a : Admin) (r : Ring) (id : RingId) (e : Record)
    (rest : List Record) (s : State),
    s.hostUp = true →
    ((s.mc.ctxs.look ctx).bind (·.wells.look loc) = some (c, w) → (s.chan c).wells.look w = some x →
      (bytes < 8 → Answers (exec (.doorbell ctx loc bytes v) s) fun t => OnlyChan c s t ∧
        (t.chan c).wells.look w = some { x with dropped := sat16 x.dropped 1 }) ∧
      (8 ≤ bytes → RingTakes x.ring v → Answers (exec (.doorbell ctx loc bytes v) s) fun t => OnlyChan c s t ∧
        (t.chan c).wells.look w = some { x with ring := x.ring.rung v s.nextBell }) ∧
      (8 ≤ bytes → x.ring.state ≠ .error → x.ring.waiting = [] → 0 ≤ (v.setWidth 32 - x.ring.fetched : BitVec 32).toInt →
        2 ^ x.ring.sqLog2 < (v.setWidth 32 - x.ring.fetched : BitVec 32).toNat → Answers (exec (.doorbell ctx loc bytes v) s) fun t =>
          ∃ y, (t.chan c).wells.look w = some y ∧ y.ring.state = .error ∧ y.ring.errCode = 1 ∧ y.ring.prod = x.ring.prod)) ∧
    (s.mc.admins.look fn = some a → a.ring = some r → RingTakes r v → Answers (exec (.adminDoorbell fn v) s) fun t => OnlyMc s t ∧
      t.ring (.admin fn) = some (r.rung v s.nextBell)) ∧
    (fn ≤ s.mc.host.numVf → s.mc.admins.look fn = some a → a.ring = none → v.getLsbD 5 = true →
      (sizeOk (v.extractLsb' 0 5).toNat = true → a.cqEn = true → sizeOk a.cqLog2 = true →
        Answers (exec (.mcAdmRingWrite fn false v) s) fun t => OnlyMc s t ∧ t.ring (.admin fn) =
          some (Ring.fresh ((v.extractLsb' 12 52).toNat * 4096) (v.extractLsb' 0 5).toNat a.cqBase a.cqLog2 0 0 0)) ∧
      (sizeOk (v.extractLsb' 0 5).toNat = false → Answers (exec (.mcAdmRingWrite fn false v) s) fun t => OnlyMc s t ∧
        t.ring (.admin fn) = none ∧ (t.mc.admins.look fn).map (·.err) = some true)) ∧
    (s.ring id = some r → r.waiting = [] →
      (s.ringOn id = true → r.state = .active → r.fetched ≠ r.prod → s.hostTurn id = true → s.fetchStatus id d = none →
        Answers (exec (.descriptorFetch id d) s) fun t => t.ring id = some { r with
          fetched := r.fetched + 1, bells := r.bells.filter (fun b => b.1 != r.fetched + 1), waiting := [⟨⟨id, r.fetched.toNat % 2 ^ r.sqLog2, d.extractLsb' 16 24, d.getLsbD 8, d.getLsbD 9⟩,
            field d 0 8, none, (r.bells.headD (0, 0)).2⟩] }) ∧
      (r.fifo = e :: rest → r.state ≠ .stopped → r.full = false → s.hostTurn id = true →
        Answers (exec (.completionWrite id) s) fun t =>
          Output.hostWrite (s.ringFn id) (r.cqBase + 16 * (r.written.toNat % 2 ^ r.cqLog2)) (e.bytes (phaseOf r.written.toNat r.cqLog2)) ∈
            t.outputs ∧ ∃ y, t.ring id = some y ∧ y.fifo = rest ∧ y.written = r.written + 1) ∧
      (s.hostTurn id = false → exec (.descriptorFetch id d) s = .next s ∧ exec (.completionWrite id) s = .next s) ∧
      (r.unsignalled ≠ 0 → r.coalUs ≠ 0 → (s.ringFn id, r.vector) ∈ s.mc.host.msixOpen → Answers (exec (.interruptTimer id) s) fun t =>
        t.timeNs = max s.timeNs (r.firstNs + 1000 * r.coalUs) ∧ t.outputs = s.outputs ++ [.msix (s.ringFn id) r.vector] ∧
        t.ring id = some { r with unsignalled := 0 })) ∧
    ((fn, vec) ∈ s.mc.host.msixPend → Answers (exec (.msixVectorUnmask fn vec) s) fun t =>
      t.outputs = s.outputs ++ [.msix fn vec] ∧ (fn, vec) ∈ t.mc.host.msixOpen ∧ (fn, vec) ∉ t.mc.host.msixPend)

/-- R286, R351-R356, R360, R378: the link, the resets of the host path, SR-IOV, and address translation. A link reset stops every ring with
its counts; a function reset takes its admin ring and its vectors; a translation that fails faults the job or ends the command with
HOST_XLATE. -/
def Obligations.HostPathResets : Prop :=
  ∀ (gen : BitVec 3) (width : BitVec 4) (flit refclk : Bool) (vf n ctx hva size : Nat) (c d : Chan) (j : SlotIx) (w : Nat) (x : Well) (h : Hdr)
    (s : State),
    s.mc.inReset = false →
    (s.mc.firm.started = true → s.mc.firm.recovery = false → exec (.hostLinkUp gen width flit refclk) s =
      .next (s.onMc fun m => { m with host := { m.host with gen := gen, width := width, flit := flit, refclk := refclk } })) ∧
    (Answers (exec .hostLinkReset s) fun t => t.mc.host.gen = 0 ∧ t.mc.host.numVf = 0 ∧ t.mc.ctxs = s.mc.ctxs ∧ t.mc.jobs = s.mc.jobs ∧
      ((s.chan d).wells.look w = some x → (t.chan d).wells.look w = some { x with ring := { x.ring with state := .stopped } })) ∧
    (vf ≤ s.mc.host.numVf → (∀ e ∈ s.mc.ctxs, e.2.fn ≠ vf) → exec (.flrVf vf) s = .next (s.onMc fun m => { m with
      admins := m.admins.drop1 vf, host := { m.host with
        msixOpen := m.host.msixOpen.filter fun e => e.1 != vf, msixPend := m.host.msixPend.filter fun e => e.1 != vf } })) ∧
    (Answers (exec .flrPf s) fun t => t.mc.host.numVf = 0) ∧
    (s.hostUp = true → Answers (exec (.vfEnable n) s) (fun t => t.mc.host.numVf = n) ∧
      exec (.atsInvalidation ctx hva size) s = .next { s with outputs := s.outputs ++ [.atsDone ctx hva size] }) ∧
    exec (.atsTranslationCompletion true (some (c, j)) (some h) ) s = .next s ∧
    ((s.slot c j).live = true → (s.slot c j).regs.flt.valid = false →
      Answers (exec (.atsTranslationCompletion false (some (c, j)) none) s) fun t => (t.slot c j).regs.flt.cause = 0x07) ∧
    (s.isRunning h = true → Answers (exec (.atsTranslationCompletion false none (some h)) s) fun t => Recorded t h 0x0209 0)

/-- R356, R358-R363, R376, R378-R380: what a command creates stands in its context under the lowest free handle and the command completes
with it, what it destroys is gone; a command that may not have its effect completes with its status. Here for commands that may start.
-/
def Obligations.ContextsAndAllocations : Prop :=
  ∀ (h : Hdr) (fn ctx w n l g : Nat) (home : Chan) (pasid : BitVec 20) (pe force : Bool) (wp : WellParams) (x : Ctx) (r : Ring) (a : AllocParams)
    (y : Alloc) (d : BitVec 512) (dva hva size hd : Nat) (rights : BitVec 2) (s t : State),
    let has := fun (u : State) (P : Ctx → Prop) => ∃ k, u.mc.ctxs.look ctx = some k ∧ P k
    (s.begin h 0x01 = some t →
      (t.present home = false → exec (.ctxCreate h home pasid pe) s = .next (t.complete h 0x0204 0)) ∧
      (t.present home = true → 128 ≤ (t.mc.ctxs.filter fun e => e.2.home == home).length →
        exec (.ctxCreate h home pasid pe) s = .next (t.complete h 0x0205 0)) ∧
      (t.present home = true → (t.mc.ctxs.filter fun e => e.2.home == home).length < 128 → t.ringFn h.ring = 0 →
        lowestFree 1024 t.mc.ctxs.keys = some n → exec (.ctxCreate h home pasid pe) s =
          .next ((t.onMc fun m => { m with ctxs := m.ctxs.set1 n ⟨0, home, pasid, pe, [], [], [], [], [], 0, none⟩ }).complete h 0 n))) ∧
    (s.begin h 0x02 = some t → t.mayName h ctx = true →
      (t.jobsOf ctx ≠ [] → exec (.ctxDestroy h ctx false) s = .next (t.complete h 0x0207 0)) ∧
      (t.jobsOf ctx = [] → SMap.sorted t.mc.ctxs → Answers (exec (.ctxDestroy h ctx force) s) fun u => u.mc.ctxs.look ctx = none)) ∧
    (s.begin h 0x03 = some t → t.mc.ctxs.look ctx = some x → t.mayName h ctx = true →
      (t.wellOk x.fn wp = false → exec (.wellCreate h ctx wp) s = .next (t.complete h 0x0204 0)) ∧
      (t.wellOk x.fn wp = true → wp.urgent = false → lowestFree 512 x.wells.keys = some l →
        lowestFree 2048 (t.chan wp.channel).wells.keys = some n → exec (.wellCreate h ctx wp) s =
          let ring := Ring.fresh wp.sqBase wp.sqLog2 wp.cqBase wp.cqLog2 wp.vector.toNat wp.coalCount.toNat wp.coalUs.toNat
          .next (((t.onChan wp.channel fun k => { k with wells := k.wells.set1 n ⟨ring, x.fn, ctx, l, none, false, 0⟩ }).onCtx ctx fun k => { k with wells := k.wells.set1 l (wp.channel, n) }).complete h 0 (l + 512 * n)))) ∧
    (h.ring = .admin fn → t.mayName h ctx = true → t.ring (.well ctx w) = some r →
      (s.begin h 0x04 = some t → t.mc.ctxs.look ctx = some x → SMap.sorted x.wells → Answers (exec (.wellDestroy h ctx w) s) fun u =>
        u.ring (.well ctx w) = none) ∧
      (s.begin h 0x05 = some t → r.state = .stopped → r.waiting = [] → Answers (exec (.wellResume h ctx w) s) fun u =>
        u.ring (.well ctx w) = some { r with state := .active })) ∧
    (h.ring = .well ctx g → t.mc.ctxs.look ctx = some x →
      (s.begin h 0x10 = some t →
        (t.allocOk ctx a = false → exec (.alloc h a) s = .next (t.complete h 0x0204 0)) ∧
        (t.allocOk ctx a = true → lowestHandle 4096 (x.allocs.keys ++ x.maps.keys) = some n →
          (t.allocFor ctx a = none → exec (.alloc h a) s = .next (t.complete h 0x0205 0)) ∧
          (t.allocFor ctx a = some y → x.dvaFor (TDesc.allocBytes y) a.dva = some dva → Answers (exec (.alloc h a) s) fun u =>
            has u fun k => k.allocs.look n = some { y with dva := dva }))) ∧
      (s.begin h 0x11 = some t → x.allocs.look hd = some y →
        (t.inUse ctx hd = true → exec (.free h hd) s = .next (t.complete h 0x0107 0)) ∧
        (t.inUse ctx hd = false → SMap.sorted x.allocs → Answers (exec (.free h hd) s) fun u => has u fun k => k.allocs.look hd = none)) ∧
      (s.begin h 0x12 = some t → 0 < size → size % mib2 = 0 → dvaOk dva = true → lowestHandle 4096 (x.allocs.keys ++ x.maps.keys) = some n →
        x.dvaFor size dva = some l → Answers (exec (.mapHost h hva size dva rights) s) fun u => has u fun k =>
          k.maps.look n = some ⟨hva, size, l, rights⟩) ∧
      (s.begin h 0x13 = some t → x.allocs.look (tdesc d).handle = some y →
        let st := (tdesc d).check (some y) (t.roomFor ⟨tdesc d, y, 0, true⟩)
        (st ≠ 0 → exec (.descCreate h d) s = .next (t.complete h st 0)) ∧
        (st = 0 → lowestHandle 16384 x.descs.keys = some n → Answers (exec (.descCreate h d) s) fun u => has u fun k =>
          k.descs.look n = some d)) ∧
      (s.begin h 0x14 = some t → x.descs.look hd = some d → SMap.sorted x.descs → Answers (exec (.descDestroy h hd) s) fun u => has u fun k =>
        k.descs.look hd = none))

/-- R56, R194-R197, R217, R286, R355, R368, R369: a copy whose checks fail completes with their first status and moves nothing; one whose
checks hold does what its SUBOP says, a copy to a host buffer writing exactly its length; data of a bound input are held at their home for
its tick under the host's key, after what urgent wells have waiting; the aperture reads memory as stored, writes it at once, and is closed
unless debug opened it. -/
def Obligations.HostCopies : Prop :=
  ∀ (h : Hdr) (k : CopyParams) (op : CopyOp) (b : HostSide) (win : Window) (vw : View) (at_ len : Nat) (data : List (BitVec 8)) (c : Chan) (j : SlotIx)
    (input frame off o g : Nat) (r : WriteRec) (jb : Job) (p : PumpIx) (v : BitVec 8) (s t : State),
    let cmd := match op with | .copy => Instr.copy h k | .tcopy => .copyTcopy h k | .combine => .copyCombine h k | .readout => .copyReadout h k
                             | .dead => .copyDead h k
    let src := if op = .dead then some none else (t.hostSide (hdrCtx h) k.src k.srcWin).map some
    (s.begin h 0x20 = some t →
      (t.hostSide (hdrCtx h) k.dst k.dstWin = none → exec cmd s = .next (t.complete h 0x0101 0)) ∧
      (t.hostSide (hdrCtx h) k.dst k.dstWin = some b → ∀ z, src = some z →
        (t.copyStatus (hdrCtx h) op k z b ≠ 0 → exec cmd s = .next (t.complete h (t.copyStatus (hdrCtx h) op k z b) 0)) ∧
        (t.copyStatus (hdrCtx h) op k z b = 0 → exec cmd s = .next (t.runCopy h (hdrCtx h) op k z b) ∧
          (op = .copy → z = some (.view vw win) → b = .buf at_ len data → Answers (exec cmd s) fun u =>
            ∃ bs, bs.length = len ∧ Output.hostWrite (t.ringFn h.ring) at_ bs ∈ u.outputs)))) ∧
    (s.urgentFirst = true → exec (.hostDataReceipt c j input frame [r]) s = .next s) ∧
    (s.mc.inReset = false → s.urgentFirst = false → s.job (s.slot c j).job.ctx (s.slot c j).job.job = some jb → (s.slot c j).live = true →
      s.tickTaken (s.slot c j).job.ctx (s.slot c j).job.job frame = false → HoldRoom s c j (offKey r.off) →
      (∀ e ∈ (s.chan c).held, ¬(e.slot = j ∧ e.frame = prevFrame frame ∧ offKey e.off = offKey r.off ∧ e.key = hostKey)) →
      Answers (exec (.hostDataReceipt c j input frame [r]) s) fun u => (u.chan c).held = (s.chan c).held ++
        [⟨j, prevFrame frame, keyOff (offKey r.off), r.mask, r.data, hostKey, 0⟩]) ∧
    (s.hostUp = true →
      (s.mc.host.dbgOpen = true → exec (.apertureRead off len) s = .next { s with outputs := s.outputs ++
        [.bytes ((List.range len).map fun i => s.apertureByte (off + i))] }) ∧
      (s.mc.host.dbgOpen = false → exec (.apertureRead off len) s = .next { s with outputs := s.outputs ++ [.unsupported] } ∧
        exec (.apertureWrite off data) s = .next s) ∧
      (s.mc.host.dbgOpen = true → s.apertureAt off = some (c, o) → keySlice (o / 32) = some (p, g) → deadAt (s.slice c p).dead (g / 128) = none →
        (s.slice c p).upset.readD 0 g = 0 → Answers (exec (.apertureWrite off [v]) s) fun u => OnlyChan c s u ∧
          ∀ q x, (u.slice c q).get x = if q = p ∧ x = g then
            gMerge ((s.slice c p).get g) ((v.setWidth 256 : Granule) <<< (8 * (o % 32))) (byteMask (o % 32) 1) else (s.slice c q).get x))

/-- R46, R60-R62, R371-R374, R376, R377, R390: an image whose checks hold stands in its context, one that fails creates nothing; START
begins a placement attempt; the commands of a job complete with JOB_STATE where it is not admitted, and otherwise ask its members for a
checkpoint, for the end at their fence, for an urgent item, for a staged value, a check or a commit. -/
def Obligations.JobCommands : Prop :=
  ∀ (h : Hdr) (im : JobImage) (pol : BitVec 256) (image job ctx g n len w : Nat) (ckpt : Bool) (entry tag : BitVec 8) (args : BitVec 320) (v : BitVec 64)
    (x : Ctx) (c : Chan) (j : SlotIx) (jb : Job) (s t : State),
    h.ring = .well ctx g →
    (t.mc.ctxs.look ctx = some x →
      (s.begin h 0x21 = some t →
        (t.imageStatus x im ≠ 0 → exec (.loadImage h im) s = .next (t.complete h (t.imageStatus x im) 0)) ∧
        (t.imageStatus x im = 0 → lowestHandle 64 x.images.keys = some n → Answers (exec (.loadImage h im) s) fun u =>
          ∃ k, u.mc.ctxs.look ctx = some k ∧ k.images.look n = some im)) ∧
      (s.begin h 0x22 = some t → s.mc.fab.placing = none → x.images.look image = some im → x.wells.look g = some (c, w) →
        ((policy pol).clean = false → exec (.start h image pol) s = .next (t.complete h 0x0101 0)) ∧
        ((policy pol).clean = true → lowestHandle 64 ((t.jobsOf ctx).map fun e => (unKey e.1).2) = some n →
          Answers (exec (.start h image pol) s) fun u => u.mc.fab.attempts = t.mc.fab.attempts + 1 ∧
            (u.mc.fab.placeState = 2 ∨ u.mc.fab.placeState = 5 ∨ u.mc.fab.placeState = 6)))) ∧
    (t.job ctx job = none →
      (s.begin h 0x23 = some t → exec (.checkpoint h job) s = .next (t.complete h 0x0207 0)) ∧
      (s.begin h 0x24 = some t → exec (.stop h job ckpt) s = .next (t.complete h 0x0207 0)) ∧
      (s.begin h 0x31 = some t → exec (.check h job tag) s = .next (t.complete h 0x0207 0)) ∧
      (s.begin h 0x32 = some t → exec (.commit h job tag) s = .next (t.complete h 0x0207 0))) ∧
    (t.job ctx job = some jb → jb.admitted = true → OnlyMember t ctx job c j →
      let y := t.slot c j
      (s.begin h 0x23 = some t → y.regs.ckptBusy = false → Answers (exec (.checkpoint h job) s) fun u =>
        (u.slot c j).ckptAsked = true ∧ u.job ctx job = some { jb with ckptCmds := jb.ckptCmds ++ [h] }) ∧
      (s.begin h 0x24 = some t → jb.stopCmd = none → jb.halted = false → jb.restore = none → Answers (exec (.stop h job ckpt) s) fun u =>
        (u.slot c j).stopAsked = some ckpt ∧ u.job ctx job = some { jb with stopCmd := some (h, ckpt) } ∧
        (y.job.state = .running → (u.slot c j).job.state = .stopping)) ∧
      (Reachable t c →
        (s.begin h 0x30 = some t → y.live = true → y.stg.state.locked = false →
          Answers (exec (.stage h job (t.addrOf c) (BitVec.ofNat 22 (0x010000 + 0x100 * j.val)) v 0xFFFFFFFF) s) fun u =>
            (u.slot c j).regs.set = y.regs.set ∧
            (u.slot c j).stg = { y.stg with set := { y.stg.set with periodUs := field v 0 15, wdogMs := field v 16 16 }, state := .dirty }) ∧
        (s.begin h 0x31 = some t → y.stg.state = .dirty → Answers (exec (.check h job tag) s) fun u =>
          (u.slot c j).stg.state = .checking ∧ u.job ctx job = some { jb with checkCmds := jb.checkCmds ++ [h] }) ∧
        (s.begin h 0x32 = some t → y.job.lead = true → (t.chan c).isMaster j = true → y.stg.state = .checked → jb.commitCmd = none →
          (y.stg.tag = tag → Answers (exec (.commit h job tag) s) fun u => (u.slot c j).stg.state = .commitPending ∧
            u.job ctx job = some { jb with commitCmd := some (h, tag) }) ∧
          (y.stg.tag ≠ tag → Answers (exec (.commit h job tag) s) fun u => (u.slot c j).stg.state = .checked ∧
            Recorded u h 0x0301 2))) ∧
      (s.begin h 0x28 = some t → t.mc.ctxs.look ctx = some x → x.wells.look g = some (c, w) → ((t.chan c).wells.look w).bind (·.urgent) = some job →
        jb.halted = false → jb.restore = none →
        (y.regs.windowUs < len → exec (.urgent h entry len args) s = .next (t.complete h 0x0302 0)) ∧
        (len ≤ y.regs.windowUs → (∃ e ∈ jb.image.urgents, e.1 = entry) → Answers (exec (.urgent h entry len args) s) fun u =>
          (u.slot c j).urgents = queueUrgent y.urgents ⟨w, h, entry, len, args, false, false, false⟩)))

/-- R258, R382, R383, R452, R453, R457, R462: a query writes the leading part of its reply and completes with the reply's full length, a
ranged pass when it ends; SELFTEST on an idle channel takes it out of service, on a busy one it waits or is deferred; a test that ends
leaves its result word, and a channel that fails it stays out of service. The byte layouts are the model's (log entry 50). -/
def Obligations.QueriesAndSelfTests : Prop :=
  ∀ (h : Hdr) (force : Bool) (ctx g job buf len : Nat) (c : Chan) (range : BitVec 128) (nonce : BitVec 256) (jb : Job) (set : BitVec 8) (e : Chan × BitVec 8 × Option Hdr)
    (found : TestFindings) (s t : State),
    let replies := fun (res : Res) (P : List (BitVec 8) → Prop) => ∃ bs, P bs ∧ res = .next (t.respond h buf len bs)
    (s.begin h 0x38 = some t → h.ring = .well ctx g →
      replies (exec (.queryIdentity h buf len) s) (fun bs => bs.length = 89 ∧ bs.take 8 = leBytes 8 t.mc.fuses.serial.toNat) ∧
      (t.job ctx job = some jb → jb.admitted = true →
        replies (exec (.queryJob h job buf len) s) (fun bs => bs.length = 23) ∧
        replies (exec (.queryCounters h job buf len) s) (fun bs => bs.length = 176 * (t.localSlots ctx job).length)) ∧
      replies (exec (.queryFabricMap h buf len) s) (fun bs => bs.take 8 = leBytes 8 t.mc.fab.version) ∧
      replies (exec (.queryAttest h nonce buf len) s) (fun bs => bs = t.attestation (some ctx) nonce) ∧
      (t.present c = true → replies (exec (.queryBlackBox h c buf len) s) fun bs => bs.length = 32 * (t.chan c).bbx.list.length) ∧
      (t.present c = false → exec (.queryBlackBox h c buf len) s = .next (t.complete h 0x0204 0)) ∧
      ((s.chan c).cis.busy = false → t.present c = true → (t.chan c).st.busy = false → (t.chan c).st.embBusy = false →
        Answers (exec (.queryScrub h c range buf len) s) fun u => (u.chan c).cis.busy = true ∧ (u.chan c).cis.passFor = some (h, buf, len) ∧
          (u.chan c).cis.passPos = field range 32 32)) ∧
    (s.begin h 0x39 = some t → t.present c = true → (t.chan c).pwr.lk = .on →
      (t.testIdle c = true → Answers (exec (.selftest h c force set) s) fun u => u.mc.firm.testing = t.mc.firm.testing ++ [(c, set, some h)] ∧
        u.serving c = false ∧ (u.chan c).st.oos.getLsbD 10 = true) ∧
      (t.testIdle c = false → (t.chan c).liveSlots ≠ [] → Answers (exec (.selftest h c false set) s) fun u =>
        u.mc.firm.testQ = t.mc.firm.testQ ++ [(c, set, none)] ∧ Recorded u h 0x0401 0)) ∧
    (s.mc.firm.testQ.find? (fun x => x.1 == c) = some e → s.testIdle c = true → s.mc.inReset = false →
      Answers (exec (.deferredSelftest c) s) fun u => u.mc.firm.testQ = s.mc.firm.testQ.erase e ∧
        u.mc.firm.testing = s.mc.firm.testing ++ [(c, e.2.1, e.2.2)] ∧ u.serving c = false) ∧
    (s.mc.firm.testing.find? (fun x => x.1 == c) = some e →
      ((s.chan c).frozenCold = true → exec (.selftestComplete c found) s = .next (s.onSt c fun x => { x with coldWait := true })) ∧
      ((s.chan c).frozenCold = false → e.2.2 = none → Answers (exec (.selftestComplete c found) s) fun u =>
        u.mc.firm.testing = s.mc.firm.testing.erase e ∧ ((u.mc.firm.selftest[c.val]).getLsbD 0 = false → u.serving c = false)))

/-! ### Checkpoints, faults and restarts (Chapter 14) -/

/-- R252, R389, R390, R392-R396, R399, R412: a capture ends with the pinned contents of every pump of the job, dead blocks
apart; a completed checkpoint
advances LAST_FRAME; a buddy that lost its space makes the master ask for another; a faulted job whose cause is marked "Remove", or that
has no checkpoint, is removed; a restored job runs again; a frozen box goes to flash and is released. -/
def Obligations.CheckpointsAndRecovery : Prop :=
  ∀ (c : Chan) (j : SlotIx) (k : Ckpt) (p : PumpIx) (ctx job f : Nat) (jb : Job) (s : State),
    let x := s.slot c j
    let q := s.pump c p
    (x.ckpt = some k → k.captured = false → (s.chan c).held = [] → (s.chan c).atoms = [] → (s.chan c).decls = [] →
      (s.chan c).hbmUpset = [] → (∀ i, (s.slice c i).inbound = [] ∧ (s.slice c i).upset = []) → Answers (exec (.captureComplete c j) s) fun t => t.slice c p = s.slice c p ∧ ∃ u,
        (t.slot c j).ckpt = some u ∧ u.captured = true ∧ u.frame = k.frame ∧ (x.job.polders.getLsbD (p.val / 8) = true →
          (q.vch * 256 + q.index, q.slice.mem.filter (fun e => decide (e.1 < (s.chan c).pinned) && (deadAt q.slice.dead (e.1 / 128)).isNone),
            q.slice.dead) ∈ u.pinned)) ∧
    (x.ckpt = some k → k.captured = true → k.final = false → Answers (exec (.checkpointComplete c j) s) fun t =>
      (t.slot c j).ckpt = none ∧ (t.slot c j).regs.ckptLast = k.frame % 2 ^ 48 ∧ (t.slot c j).regs.ckptValid = true ∧
      (t.slot c j).regs.ckptBusy = false) ∧
    (x.live = true → x.job.lead = true → OnlyMember s x.job.ctx x.job.job c j → Answers (exec (.buddySlotLost c j) s) fun t =>
      (t.slot c j).ckptAsked = true ∧ (t.slot c j).buddySlots = []) ∧
    (s.job ctx job = some jb → s.mc.inReset = false →
      (jb.halted = false → jb.flow = false → exec (.faultFlow ctx job) s = .next s) ∧
      (jb.halted = true → SMap.sorted s.mc.jobs →
        (jb.flow = false → jb.restore = none → OnlyMember s ctx job c j → x.regs.flt.valid = true → x.regs.flt.remove = true →
          x.regs.flt.cause ≠ 1 → Answers (exec (.faultFlow ctx job) s) fun t => t.job ctx job = none ∧ (t.slot c j).live = false) ∧
        (jb.flow = true → s.mc.fab.placing = none → jb.ckpts = [] → (∀ d, (s.chan d).st.busy = false ∧ (s.chan d).st.embBusy = false) →
          Answers (exec (.faultFlow ctx job) s) fun t => t.job ctx job = none)) ∧
      (jb.restore = some f → s.mc.fab.placing = none → jb.halted = false → jb.stopCmd = none → jb.forced = none →
        (∀ n e, s.mc.jobs.look n = some e → n ≠ jobKey ctx job → e.flow = false) →
        Answers (exec (.restoreComplete ctx job) s) fun t => ∃ u, t.job ctx job = some u ∧ u.restore = none ∧ u.flow = false)) ∧
    ((s.chan c).bbx.frozen = true → s.mc.inReset = false → Answers (exec (.blackBoxFlashCopy c) s) fun t =>
      t.mc.firm.flash = upd s.mc.firm.flash c (fun l => ((s.chan c).bbx.list :: l).take 16) ∧ (t.chan c).bbx = (s.chan c).bbx.release ∧
      t.mc.jobs = s.mc.jobs ∧ ∀ d, d ≠ c → t.chan d = s.chan d)

/-- R385, R400-R404, R408, R411-R413, R433, R474, Tables 14.3-14.7: a pump-die reset keeps slices and HBM, a channel reset keeps HBM and,
with RETAIN, the slices; both need every job of the channel halted. A reset ends out of the cold, and the channel returns to service
when no other reason holds it. An embankment reset needs every egress port drained and loses everything. A lost copy of a control bond
is noted, and with both lost the pump's job faults. The box is frozen and released by BBX_CTRL. -/
def Obligations.ChannelResets : Prop :=
  ∀ (c : Chan) (p : PumpIx) (j : SlotIx) (retain copy : Bool) (fails : BitVec 16) (k : BitVec 2) (sig : Fin 4) (s : State),
    let h := s.chan c
    let x := h.st
    let begun := fun (t : State) (scope : BitVec 2) => (t.chan c).st.busy = true ∧ (t.chan c).st.lastScope = scope ∧ t.serving c = false ∧
      (t.chan c).hbm = h.hbm ∧ (t.pump c p).x = [] ∧ (t.pump c p).prog = [] ∧ (t.pump c p).run = .idle
    let idleFlows := ∀ n e, s.mc.jobs.look n = some e → e.flow = false
    let ready := fun (t : State) => (t.chan c).st.busy = false ∧ (t.chan c).st.embBusy = false ∧ (t.chan c).st.oos.getLsbD 11 = false ∧
      ((t.chan c).st.oos = 0 → t.serving c = true)
    let drained := ∀ e : PortIx, (h.arbs[(egress e).val]).freeze = true ∧ (h.arbs[(egress e).val]).drained = true
    let both := ((s.polder c (polderOf p)).repair[p.val % 8]).ctlLost ||| (1#8 <<< (2 * sig.val + bit copy))
    (s.windowOpen c = true → h.resettable = true →
      Answers (exec (.chResetPumpDie c) s) (fun t => begun t 1 ∧ t.slice c p = s.slice c p) ∧
      Answers (exec (.chResetChannel c retain) s) (fun t => begun t 2 ∧ (t.slice c p).mem = (if retain then (s.slice c p).mem else []) ∧
        (t.slice c p).dead = [] ∧ (t.chan c).set = ChanSet.reset ∧ (t.chan c).held = [] ∧ (t.chan c).cis.ceLog = h.cis.ceLog)) ∧
    (s.windowOpen c = true → h.resettable = false →
      exec (.chResetPumpDie c) s = .next (s.onSt c fun y => { y with refused := true }) ∧
      exec (.chResetChannel c retain) s = .next (s.onSt c fun y => { y with refused := true })) ∧
    (x.resetWanted = some k → h.idle = true → x.busy = false → s.mc.inReset = false → Answers (exec (.deferredReset c) s) fun t =>
      begun t k ∧ (t.chan c).st.resetWanted = none) ∧
    (x.busy = true → x.lastScope = 1 → idleFlows → Answers (exec (.pumpDieResetComplete c fails) s) fun t =>
      ready t ∧ (t.chan c).st.oos = x.oos &&& ~~~(1#12 <<< 11) ∧ ∀ (pd : PolderIx) (i : Fin 8), ((t.polder c pd).repair[i.val]).lanePending = 0 ∧
        ((t.polder c pd).repair[i.val]).bondPending = 0 ∧ ((t.polder c pd).repair[i.val]).mapoutPending = false) ∧
    (x.busy = true → x.lastScope = 2 →
      (h.frozenCold = true → exec (.channelResetComplete c fails) s = .next (s.onSt c fun y => { y with coldWait := true })) ∧
      (h.frozenCold = false → s.mc.pwr.main ≠ .excursion → idleFlows → Answers (exec (.channelResetComplete c fails) s) ready)) ∧
    (s.mc.inReset = false → s.present c = true →
      (s.mc.firm.recovery = false → drained → Answers (exec (.embReset c) s) fun t => (t.chan c).st.embBusy = true ∧
        (t.chan c).st.lastScope = 3 ∧ t.serving c = false ∧ (t.chan c).hbm = [] ∧ (t.slice c p).mem = [] ∧ (t.slot c j).live = false) ∧
      (s.mc.firm.recovery = false → ¬drained → exec (.embReset c) s =
        .next (s.onMc fun m => { m with host := { m.host with embRefused := true } })) ∧
      (s.mc.firm.recovery = true → exec (.embReset c) s = .next (s.emit .refused))) ∧
    (x.embBusy = true →
      (h.frozenCold = true → exec (.embankmentResetComplete c) s = .next (s.onSt c fun y => { y with coldWait := true })) ∧
      (h.frozenCold = false → idleFlows → Answers (exec (.embankmentResetComplete c) s) fun t => (t.chan c).st.embBusy = false ∧
        (t.chan c).hbm = [] ∧ (t.chan c).pwr.lk = .on)) ∧
    Answers (exec (.bondCtlLoss c p sig copy) s) (fun t => ((t.polder c (polderOf p)).repair[p.val % 8]).ctlLost = both ∧
      (both.getLsbD (2 * sig.val) = true → both.getLsbD (2 * sig.val + 1) = true → h.slotOf p = some j → (s.slot c j).regs.flt.valid = false →
        (t.slot c j).regs.flt.valid = true ∧ (t.slot c j).regs.flt.cause = 2)) ∧
    Answers (exec (.sequencerTimeout c) s) (fun t => (s.slot c j).live = true → (s.slot c j).regs.flt.valid = false →
      (t.slot c j).regs.flt.valid = true ∧ (t.slot c j).regs.flt.cause = 0x0C) ∧
    (s.windowOpen c = true →
      exec (.bbxRelease c) s = .next (s.onChan c fun y => { y with bbx := y.bbx.release }) ∧
      exec (.bbxFreeze c) s = .next (s.onChan c fun y => { y with bbx := y.bbx.freeze }))

/-! ### Power and heat (Chapter 15) -/

/-- R417-R419, R421-R423, R425-R428, Tables 15.3, 15.5: the thresholds of droop, the loss of a rail and of a phase with its cap, the budget
pause, sleep and its ramp, one ramp at a time with its guard, and the guard's register. -/
def Obligations.PowerCommands : Prop :=
  ∀ (c : Chan) (mv n avgW avgA : Nat) (rail : Fin 4) (phase : Fin 24) (pd other : PolderIx) (rest : List PolderIx) (j : SlotIx) (v : BitVec 32)
    (s : State),
    let h := s.chan c
    let p := h.pwr
    let q := s.polder c pd
    let hit := fun (t : State) => (t.slot c j).regs.flt.valid = true ∧ (t.slot c j).regs.flt.cause = 0x0B
    let railOut := fun (t : State) => (t.chan c).pwr.railFault = true ∧ t.serving c = false ∧ (t.chan c).st.oos.getLsbD 6 = true ∧
      ((s.slot c j).live = true → (s.slot c j).regs.flt.valid = false → (2 ≤ rail.val ∨ (s.slot c j).job.polders ≠ 0) → hit t)
    let left := (bitsOf (p.good &&& ~~~(1#24 <<< phase.val))).length
    let lim := min s.mc.pwr.grant[c.val] 700
    (p.setMv ≤ mv + 40 → exec (.droopSample c mv) s = .next ((s.onPwr c fun y => { y with droopMv := mv }).emit (.droop c mv))) ∧
    (mv + 40 < p.setMv → Answers (exec (.droopSample c mv) s) fun t => (t.chan c).pwr = { p with
        droopMv := mv, budget := 255, droopEmerg := true, emergCount := sat16 p.emergCount 1, emergNs := s.timeNs } ∧
      (mv + 80 < p.setMv → (s.slot c j).live = true → (s.slot c j).job.polders ≠ 0 → (s.slot c j).regs.flt.valid = false → hit t)) ∧
    Answers (exec (.railFault c rail none) s) railOut ∧
    (p.railLost[rail.val] = 0 → Answers (exec (.railFault c rail (some n)) s) fun t => OnlyChan c s t ∧ (t.chan c).pwr = { p with
      phaseLost := true, railLost := upd p.railLost rail (· + 1) }) ∧
    (p.railLost[rail.val] ≠ 0 → Answers (exec (.railFault c rail (some n)) s) railOut) ∧
    (p.good.getLsbD phase.val = false → exec (.phaseLoss c phase) s = .next s) ∧
    (p.good.getLsbD phase.val = true → Answers (exec (.phaseLoss c phase) s) fun t =>
      (t.chan c).pwr.good = p.good &&& ~~~(1#24 <<< phase.val) ∧ (t.chan c).pwr.phaseLost = true ∧
      (t.chan c).pwr.phState = (if left = 24 then .normal else if left = 23 then .oneLost else if 18 ≤ left then .capped
        else if 14 ≤ left then .efficientOnly else .out) ∧
      (t.chan c).pwr.capA = (if 14 ≤ left ∧ left ≤ 22 then 24 * left else 0) ∧
      (left < 14 → p.phState ≠ .out → t.serving c = false ∧ (t.chan c).st.oos.getLsbD 7 = true)) ∧
    (p.capA = 0 → p.emergCount = 0 → exec (.budgetController c avgW avgA) s = .next (s.onPwr c fun y => { y with
      avgW := avgW, budget := if lim < avgW then min 255 (y.budget + 4) else if avgW * 100 < lim * 98 then y.budget - 1 else y.budget })) ∧
    (p.capA ≠ 0 → p.capA < avgA → exec (.budgetController c avgW avgA) s = .next (s.onPwr c fun y => { y with
      avgW := avgW, budget := min 255 (y.budget + 4) })) ∧
    (h.slotOfPolder pd = some j →
      (q.slotMode = true → q.dom = .on → (∀ i, (s.pump c (pumpOf pd i)).run = .reported) → (s.slot c j).windowNext = false →
        exec (.polderSleep c pd) s = .next (s.onPolder c pd fun y => { y with dom := .sleep })) ∧
      (q.slotMode = true → q.dom = .sleep → pd ∉ p.rampQ → Answers (exec (.powerUpSlot c pd) s) fun t =>
        t.timeNs = max s.timeNs ((s.slot c j).fr.tickNs + q.upUs * 1000) ∧ (t.chan c).pwr.rampQ = p.rampQ ++ [pd])) ∧
    (p.ramping = none → p.rampQ = pd :: rest → Answers (exec (.rampStart c) s) fun t =>
      (t.chan c).pwr = { p with ramping := some pd, rampQ := rest } ∧ (t.polder c pd).dom = .ramp ∧ (t.polder c pd).step = 0) ∧
    (p.ramping = some pd → (∀ i, ¬((s.polder c i).dom = .ramp ∧ (s.polder c i).step = 9)) →
      (q.step < 8 → p.setMv ≤ p.droopMv + p.guard → exec (.rampStep c) s = .next (s.onPolder c pd fun y => { y with step := y.step + 1 })) ∧
      (q.step < 8 → p.droopMv + p.guard < p.setMv → Answers (exec (.rampStep c) s) fun t => (t.polder c pd).step = q.step ∧
        (t.polder c pd).deferrals = sat32 q.deferrals 1 ∧ (7 ≤ q.rampDefers → other ≠ pd → 16 ≤ (t.polder c other).forced)) ∧
      (q.step = 8 → Answers (exec (.rampStep c) s) fun t => (t.chan c).pwr = { p with ramping := none } ∧ (t.polder c pd).step = 9 ∧
        (t.polder c other).forced = 0)) ∧
    (p.ramping = none → q.dom = .ramp → q.step = 9 → Answers (exec (.rampStep c) s) fun t =>
      (t.polder c pd).dom = .on ∧ (t.polder c pd).step = 10) ∧
    (s.windowOpen c = true → Answers (exec (.pwrCfgWrite c v) s) fun t => OnlyChan c s t ∧
      (4 ≤ (v.extractLsb' 0 6).toNat → (v.extractLsb' 0 6).toNat ≤ 40 → (t.chan c).pwr.guard = (v.extractLsb' 0 6).toNat ∧
        (t.chan c).pwr.guardErr = (p.guardErr && !v.getLsbD 6)) ∧
      ((v.extractLsb' 0 6).toNat < 4 ∨ 40 < (v.extractLsb' 0 6).toNat → (t.chan c).pwr.guard = p.guard ∧ (t.chan c).pwr.guardErr = true) ∧
      (t.chan c).pwr.railFault = (p.railFault && !v.getLsbD 9))

/-- R266, R430-R435, Table 15.6: a sample takes the readings of its polder's six sensors and raises or lowers its pause by what they read;
at 105 degC effective the channel shuts down with THERMTRIP_N low, below 0 degC it leaves service, and each is left only after ten
seconds on the other side of its limit. -/
def Obligations.TemperatureLimits : Prop :=
  ∀ (c : Chan) (pd : PolderIx) (pump cis : List Int) (stale : List Nat) (st : StackIx) (degC : Nat) (s : State),
    let h := s.chan c
    let m := h.thm
    let tripped := fun (t : State) => (t.chan c).thm.crit = true ∧ (t.chan c).thm.critNow = true ∧ t.serving c = false ∧
      (t.chan c).st.oos.getLsbD 4 = true ∧ Output.pin "THERMTRIP_N" false ∈ t.outputs
    Answers (exec (.temperatureSample c (.polder pd pump cis stale)) s) (fun t =>
      (∀ i : Fin 96, i.val ∉ polderSensors pd → (t.chan c).thm.sensors[i.val] = m.sensors[i.val]) ∧
      (pump.length = 4 → cis.length = 2 → stale = [] → (polderSensors pd).map (fun i => ((t.chan c).thm.sensors[i]?).map (·.raw)) =
        (pump ++ cis).map some) ∧
      ((t.polder c pd).tooHot = true → (t.polder c pd).thermal = 255 ∧ (t.polder c pd).headroom = 0) ∧
      ((t.polder c pd).tooHot = false →
        ((∃ i : Fin 96, i.val ∈ polderSensors pd ∧ 380 ≤ ((t.chan c).thm.sensors[i.val]).eff) →
          (t.polder c pd).thermal = min 255 ((s.polder c pd).thermal + 8)) ∧
        ((∀ i : Fin 96, i.val ∈ polderSensors pd → ((t.chan c).thm.sensors[i.val]).eff < 372) →
          (t.polder c pd).thermal = (s.polder c pd).thermal - 1)) ∧
      (m.critNow = false → (∃ i : Fin 96, i.val ∈ polderSensors pd ∧ 420 ≤ ((t.chan c).thm.sensors[i.val]).eff) → tripped t) ∧
      ((∃ i : Fin 96, i.val ∈ polderSensors pd ∧ ((t.chan c).thm.sensors[i.val]).eff < 0) → t.serving c = false)) ∧
    Answers (exec (.temperatureSample c (.stack st degC)) s) (fun t => (t.chan c).stack[st.val].tempC = degC ∧
      (95 ≤ degC → (t.chan c).stack[st.val].refresh = 2 ∧ (t.chan c).stack[st.val].throttle = true) ∧
      (degC ≤ 83 → (t.chan c).stack[st.val].refresh = 0 ∧ (t.chan c).stack[st.val].throttle = false) ∧
      (degC = 93 → (t.chan c).stack[st.val].refresh = 1) ∧
      (105 ≤ degC → m.critNow = false → tripped t ∧ (t.chan c).stack[st.val].lost = true)) ∧
    (m.critNow = true → (∀ i : Fin 96, (m.sensors[i.val]).eff ≤ 340) → (∀ i : StackIx, (h.stack[i.val]).tempC ≤ 85) → s.mc.inReset = false →
      Answers (exec (.criticalRecovery c) s) fun t => t.timeNs = s.timeNs + 10000000000 ∧ (t.chan c).thm.critNow = false ∧
        (t.chan c).st.busy = true ∧ (t.chan c).st.lastScope = 2) ∧
    (m.critNow = true → (∃ i : Fin 96, 340 < (m.sensors[i.val]).eff) → exec (.criticalRecovery c) s = .next s) ∧
    (m.coldNow = true → (∀ i : Fin 96, 40 ≤ (m.sensors[i.val]).eff) → Answers (exec (.coldRecovery c) s) fun t =>
      t.timeNs = s.timeNs + 10000000000 ∧ (t.chan c).thm.coldNow = false ∧ (t.chan c).st.oos = h.st.oos &&& ~~~(1#12 <<< 5) ∧
      (h.st.oos &&& ~~~(1#12 <<< 5) = 0 → t.serving c = true)) ∧
    (m.coldNow = true → (∃ i : Fin 96, (m.sensors[i.val]).eff < 40) → exec (.coldRecovery c) s = .next s)

/-- R437-R439, R488, R489: the main input within its limits changes nothing but what is measured; outside them for ten samples it is an
excursion that holds every powered channel in reset, and beyond them it is lost, which takes the power of every channel; the references
move by their limits. -/
def Obligations.InputsAndReferences : Prop :=
  ∀ (c : Chan) (mv watts moved : Nat) (ppb trim : Int) (sensor : Fin 96) (s : State),
    let m := s.mc
    let noted := s.onMc fun g => { g with pwr := { g.pwr with inputMv := mv, inputW := watts } }
    let unpowered := fun (t : State) (st : MainState) => t.mc.pwr.main = st ∧ t.mc.pwr.pwrOk = false ∧
      (t.chan c).pwr.lk = .off ∧ (t.chan c).slots = Channel.reset.slots ∧ (t.chan c).hbm = []
    (m.inReset = false → m.pwr.main = .good →
      (48000 ≤ mv → mv ≤ 58000 → exec (.mainInputSample mv watts) s =
        .next (noted.onMc fun g => { g with pwr := { g.pwr with overRun := 0 } })) ∧
      (46000 ≤ mv → mv ≤ 60000 → (mv < 48000 ∨ 58000 < mv) → m.pwr.overRun + 1 < 10 → exec (.mainInputSample mv watts) s =
        .next (noted.onMc fun g => { g with pwr := { g.pwr with overRun := m.pwr.overRun + 1 } })) ∧
      (46000 ≤ mv → mv ≤ 60000 → (mv < 48000 ∨ 58000 < mv) → 10 ≤ m.pwr.overRun + 1 → Answers (exec (.mainInputSample mv watts) s) fun t =>
        t.mc.pwr.main = .excursion ∧ t.mc.pwr.pwrOk = false ∧ (s.present c = true → (s.chan c).pwr.lk = .on → (s.chan c).st.embBusy = false →
          (t.chan c).st.busy = true ∧ (t.chan c).st.lastScope = 2 ∧ t.serving c = false)) ∧
      (mv < 46000 → Answers (exec (.mainInputSample mv watts) s) fun t => unpowered t .absent) ∧
      (60000 < mv → Answers (exec (.mainInputSample mv watts) s) fun t => unpowered t .lost)) ∧
    (m.pwr.main ≠ .lost → Answers (exec .mainOvervoltage s) fun t => unpowered t .lost) ∧
    (m.pwr.main = .lost → exec .mainOvervoltage s = .next s) ∧
    (m.pwr.main = .excursion → Answers (exec .mainInputRestored s) fun t => t.timeNs = s.timeNs + 1000000000 ∧ t.mc.pwr.main = .good ∧
      t.mc.pwr.pwrOk = true ∧ (s.present c = true → (t.chan c).st.oos = (s.chan c).st.oos &&& ~~~(1#12 <<< 3))) ∧
    (m.pwr.main = .absent → m.firm.started = true → m.firm.recovery = false → m.firm.safe = false → Answers (exec .mainInputRestored s) fun t =>
      t.mc.pwr.main = .good ∧ t.mc.pwr.pwrOk = true ∧ (s.present c = true → Output.csm c ∈ t.outputs)) ∧
    (Answers (exec .auxInputLoss s) fun t => t.mc.fuses = m.fuses ∧ t.mc.firm.banks = m.firm.banks ∧ t.mc.firm.flash = m.firm.flash ∧
      t.mc.firm.started = false ∧ t.mc.pwr.auxOk = false ∧ ∀ d, FreshChan s t d) ∧
    (Answers (exec (.oscillatorCompensation ppb) s) fun t => OnlyMc s t ∧
      t.mc.pwr.oscTrim = (if m.pwr.oscTrim + 50 < ppb then m.pwr.oscTrim + 50 else if ppb < m.pwr.oscTrim - 50 then m.pwr.oscTrim - 50 else ppb)) ∧
    exec (.bandgapCorrection c trim) s = .next (s.onPwr c fun p => { p with bandgap := trim }) ∧
    (moved ≤ 10 → exec (.sensorCalibration c sensor moved) s = .next s) ∧
    (10 < moved → Answers (exec (.sensorCalibration c sensor moved) s) fun t => OnlyChan c s t ∧
      ∀ i : Fin 96, (t.chan c).pwr.badVolt.getLsbD i.val = (decide (i = sensor) || (s.chan c).pwr.badVolt.getLsbD i.val))

/-! ### Start-up, firmware and security (Chapter 16) -/

/-- R3, R270, R402, R444, R445, R449, R450, R467, R487: a cold start runs the active GFW bank, the other one, or recovery; a channel whose
sequencer runs the right image starts, one that twice reports another is not enabled; a module reset keeps the fuses, the banks, and the
flash, and every channel is as after reset. HBM_CAP is what the fuses and the defect list leave from the start on (R3, R270). -/
def Obligations.StartUpCommands : Prop :=
  ∀ (c : Chan) (mainOk listOk : Bool) (im : FwImage) (digest : BitVec 256) (s : State),
    let f := s.mc.firm
    let x := (s.chan c).st
    let kept := fun (t : State) => t.mc.fuses = s.mc.fuses ∧ t.mc.firm.banks = f.banks ∧ t.mc.firm.activeB = f.activeB ∧
      t.mc.firm.flash = f.flash ∧ t.mc.firm.started = false ∧ t.mc.jobs = [] ∧ t.mc.ctxs = [] ∧ ∀ d, FreshChan s t d
    (s.mc.pwr.resetLow = false → f.started = false →
      (s.bootImage 0 f.activeB[0] = some im → Answers (exec (.powerOn mainOk listOk) s) fun t => t.mc.firm.started = true ∧
        t.mc.firm.recovery = false ∧ t.mc.firm.runRev[0] = im.rev ∧ t.mc.firm.runB[0] = f.activeB[0] ∧ (mainOk = false → t.mc.firm.noMain = true)) ∧
      (s.bootImage 0 f.activeB[0] = none → s.bootImage 0 (!f.activeB[0]) = some im → Answers (exec (.powerOn mainOk listOk) s) fun t =>
        t.mc.firm.started = true ∧ t.mc.firm.runRev[0] = im.rev ∧ t.mc.firm.runB[0] = !f.activeB[0]) ∧
      (s.bootImage 0 f.activeB[0] = none → s.bootImage 0 (!f.activeB[0]) = none → Answers (exec (.powerOn mainOk listOk) s) fun t =>
        t.mc.firm.started = true ∧ t.mc.firm.recovery = true ∧ ∀ d, t.chan d = { s.chan d with stack := (t.chan d).stack }) ∧
      (∀ d (i : Fin 4), Answers (exec (.powerOn mainOk listOk) s) fun t => ((t.chan d).stack[i.val]).lines = (t.stackCaps d i.val).sum)) ∧
    (s.mc.pwr.resetLow = true ∨ f.started = true → exec (.powerOn mainOk listOk) s = .next s) ∧
    (s.present c = true → s.mc.pwr.pwrOk = true → (s.chan c).pwr.lk = .off → x.embBusy = false →
      (digest = f.runDigest[1] → x.csmBad < 2 → (s.chan c).frozenCold = false → Answers (exec (.csmDigestReport c digest) s) fun t =>
        (t.chan c).pwr.lk = .on ∧ t.mc.firm.testing = f.testing ++ [(c, 0, none)]) ∧
      (digest ≠ f.runDigest[1] → x.csmBad = 0 → exec (.csmDigestReport c digest) s =
        .next ((s.onSt c fun y => { y with csmBad := 1 }).emit (.csm c))) ∧
      (digest ≠ f.runDigest[1] → x.csmBad = 1 → Answers (exec (.csmDigestReport c digest) s) fun t =>
        (t.chan c).pwr.lk = .off ∧ (t.chan c).st.oos.getLsbD 2 = true ∧ t.mc.firm.selftest[c.val] = 0x100)) ∧
    (Answers (exec (.modResetN false) s) fun t => kept t ∧ t.mc.pwr.resetLow = true) ∧
    (Answers (exec (.modResetN true) s) fun t => OnlyMc s t ∧ t.mc = { s.mc with pwr := { s.mc.pwr with resetLow := false } }) ∧
    (s.mc.inReset = false → f.started = true →
      (Answers (exec .moduleReset s) fun t => kept t ∧ Output.mgmtReply [] ∈ t.outputs) ∧
      (f.recovery = false → s.present c = true → ∃ bs, bs.length = 410 ∧ exec (.readSensor c) s = .next (s.emit (.mgmtReply bs))) ∧
      (f.recovery = false → s.present c = false → exec (.readSensor c) s = .next (s.emit .refused)) ∧
      (f.recovery = true → exec (.readSensor c) s = .next (s.emit .refused)))

/-- R440-R446, R458, R460, R461, R467: firmware goes to the inactive bank, only a verified bank is activated, SVN counters only rise, a root
is added once and the last live one is not revoked, debug opens by one answer in 60 s to a challenge. While Gnover does not run nothing
is answered; in recovery what is not needed for it is refused. -/
def Obligations.FirmwareAndSecurity : Prop :=
  ∀ (c : Chan) (copy : Fin 16) (im : FwImage) (kind : FwKind) (b slot : Bool) (hash v : BitVec 256) (policy : Option (BitVec 256)) (nonce : BitVec 256)
    (auth : KeyAuth) (at_ : Nat) (l : List Event) (s : State),
    let f := s.mc.firm
    let u := s.mc.fuses
    let refused := (Host.Outcome.next (s.emit .refused) : Res)
    let revoked := { u with revoke := u.revoke ||| (1#2 <<< bit slot) }
    (f.started = false ∨ s.mc.inReset = true → exec .svnCommit s = .next (s.emit .noResponse) ∧ exec (.fwWrite im) s = .next (s.emit .noResponse)) ∧
    (s.mc.inReset = false → f.started = true → f.recovery = true →
      exec .svnCommit s = refused ∧ exec (.rootAdd hash auth) s = refused ∧ exec .debugChallenge s = refused ∧ exec .debugLock s = refused ∧
      (s.fwVerifies 0 im = false → exec (.fwWrite im) s = refused) ∧
      (s.fwVerifies 0 im = true → Answers (exec (.fwWrite im) s) fun t => t.mc.firm.ram = some im ∧ t.mc.firm.recovery = false ∧
        t.mc.firm.runRev[0] = im.rev)) ∧
    (s.mc.inReset = false → f.started = true → f.recovery = false →
      (Answers (exec (.fwWrite im) s) fun t => OnlyMc s { t with outputs := s.outputs } ∧ t.mc.firm.activeB = f.activeB ∧
        t.mc.firm.bankImage (fwIx im.kind) (!f.activeB[(fwIx im.kind).val]) = some im ∧
        t.mc.firm.bankImage (fwIx im.kind) f.activeB[(fwIx im.kind).val] = f.bankImage (fwIx im.kind) f.activeB[(fwIx im.kind).val]) ∧
      ((if b then (f.banks[(fwIx kind).val])[1].valid else (f.banks[(fwIx kind).val])[0].valid) = false → exec (.fwActivate kind b) s = refused) ∧
      ((if b then (f.banks[(fwIx kind).val])[1].valid else (f.banks[(fwIx kind).val])[0].valid) = true →
        Answers (exec (.fwActivate kind b) s) fun t => t.mc.firm.activeB = upd f.activeB (fwIx kind) fun _ => b) ∧
      (Answers (exec .svnCommit s) fun t => ∀ k : Fin 3, t.mc.fuses.svn[k.val] = max u.svn[k.val] f.runSvn[k.val]) ∧
      (u.root1 ≠ none → exec (.rootAdd hash auth) s = refused) ∧
      (u.root1 = none → s.keysOk u.roots none auth (bigBytes 32 hash.toNat) = true → Answers (exec (.rootAdd hash auth) s) fun t =>
        t.mc.fuses = { u with root1 := some hash }) ∧
      (revoked.roots = [] → exec (.rootRevoke slot auth) s = refused) ∧
      (revoked.roots ≠ [] → s.keysOk u.roots none auth [BitVec.ofNat 8 (bit slot)] = true → Answers (exec (.rootRevoke slot auth) s) fun t =>
        t.mc.fuses = revoked) ∧
      exec .defectRead s = .next (s.emit (.mgmtReply (f.defects.flatMap defectBytes))) ∧
      ((f.flash[c.val])[copy.val]? = some l → exec (.bbxRead c copy) s = .next (s.emit (.mgmtReply (l.flatMap fun e => leBytes 32 e.pack)))) ∧
      ((f.flash[c.val])[copy.val]? = none → exec (.bbxRead c copy) s = refused) ∧
      (Answers (exec .debugChallenge s) fun t => ∃ w, t.mc.firm.challenge = some (w, s.timeNs) ∧
        t.outputs = s.outputs ++ [.mgmtReply (bigBytes 32 w.toNat)]) ∧
      (f.challenge = some (v, at_) → s.timeNs ≤ at_ + 60000000000 →
        s.keysOk u.roots (some 4) auth (bigBytes 32 v.toNat ++ leBytes 8 u.serial.toNat) = true → Answers (exec (.debugResponse auth) s) fun t =>
          t.mc.host.dbgOpen = true ∧ t.mc.firm.debugSeen = true ∧ t.mc.firm.challenge = none) ∧
      (f.challenge = none ∨ (f.challenge = some (v, at_) ∧ at_ + 60000000000 < s.timeNs) → Answers (exec (.debugResponse auth) s) fun t =>
        t.mc.host = s.mc.host ∧ t.mc.firm.challenge = none ∧ t.outputs = s.outputs ++ [.refused]) ∧
      (Answers (exec .debugLock s) fun t => t.mc.host.dbgOpen = false) ∧
      (Answers (exec (.jobPolicySet policy) s) fun t => t.mc.firm.jobRoot = policy) ∧
      exec (.attest nonce) s = .next (s.emit (.mgmtReply (s.attestation none nonce)))) ∧
    (f.challenge = some (v, at_) → Answers (exec .debugChallengeExpiry s) fun t =>
      t.timeNs = max s.timeNs (at_ + 60000000000) ∧ t.mc.firm.challenge = none) ∧
    (f.challenge = none → exec .debugChallengeExpiry s = .next s)

/-! ### Registers and the test port (Chapters 16, 17) -/

/-- R353, R468-R472, Tables 17.1-17.3: an unaligned write changes nothing and an unaligned or unassigned read gives all ones; a one clears
an RW1C bit and a zero keeps it; a write of an RO register changes nothing; a VF's MC_ADM_STAT
stands in its BAR0 and reads and clears by the same rules; a register wider than a word is captured at its lowest one.
EXTEST acts as BYPASS while a channel is enabled. -/
def Obligations.RegistersAndTestPort : Prop :=
  ∀ (c : Chan) (mgmt size64 : Bool) (fn : Nat) (addr : BitVec 26) (v : BitVec 64) (s : State),
    let via := if mgmt then RegPath.mgmt else RegPath.fn 0
    let at_ := fun (off : Nat) => BitVec.ofNat 26 (0x2000000 + 0x400000 * c.val + off)
    let test := fun (t : State) (k : Jtag) => t.mc.jtag = k ∧ t.ch = s.ch ∧ t.mc.fuses = s.mc.fuses
    (s.reached via = false → exec (.registerWrite via addr size64 v) s = .next s) ∧
    (s.reached via = true →
      (alignedTo addr.toNat size64 = false → exec (.registerWrite via addr size64 v) s = .next s ∧
        exec (.registerRead via addr size64) s = .next (s.emit (.readData (if size64 then 0xFFFFFFFFFFFFFFFF else 0xFFFFFFFF)))) ∧
      (alignedTo addr.toNat false = true → s.regAt addr.toNat = none →
        exec (.registerRead via addr false) s = .next (s.emit (.readData 0xFFFFFFFF))) ∧
      exec (.registerWrite via 0 false v) s = .next s ∧
      (Answers (exec (.registerRead via 0 true) s) fun t => t.outputs = s.outputs ++ [.readData s.mc.fuses.serial] ∧ t.ch = s.ch) ∧
      exec (.registerRead via 0x10 false) s = .next (s.emit (.readData (BitVec.ofNat 64
        (s.mc.fuses.present.toNat + 256 * s.mc.inService.toNat + 65536 * s.mc.fuses.variant.toNat)))) ∧
      (Answers (exec (.registerWrite via 0x200 false v) s) fun t => OnlyMc s t ∧ t.mc = { s.mc with fab := { s.mc.fab with
        pinId := v.extractLsb' 12 12, pinEn := v.getLsbD 24, pinConflict := s.mc.fab.pinConflict && !v.getLsbD 25,
        full := s.mc.fab.full && !v.getLsbD 26 } }) ∧
      (s.windowOpen c = true → (s.chan c).st.busy = false →
        exec (.registerWrite via (at_ 0x020C14) false v) s = .next (s.onCis c fun x => { x with start := v.setWidth 32 }) ∧
        exec (.registerWrite via (at_ 0x000008) false v) s = .next (s.onSt c fun x => { x with wrDrop := x.wrDrop && !v.getLsbD 3 }) ∧
        exec (.registerRead via (at_ 0x060018) false) s = .next (s.emit (.readData (BitVec.ofNat 64 (
          let p := (s.chan c).pwr
          p.guard % 64 + 64 * bit p.guardErr + 128 * bit p.phaseLost + 256 * bit p.droopEmerg + 512 * bit p.railFault +
            65536 * (p.emergCount % 65536))))))) ∧
    (1 ≤ fn → s.reached (.fn fn) = true →
      (Answers (exec (.registerWrite (.fn fn) 0x18 false v) s) fun t => OnlyMc s t ∧ t.mc = { s.mc with
        admins := s.mc.admins.alter fn fun a => { a with err := a.err && !v.getLsbD 2 } }) ∧
      exec (.registerRead (.fn fn) 0x18 false) s = .next (s.emit (.readData (BitVec.ofNat 64
        (let a := (s.mc.admins.look fn).getD Admin.reset
        a.state % 4 + 4 * bit a.err))))) ∧
    Answers (exec .bypass s) (fun t => test t .bypass) ∧ Answers (exec .idcode s) (fun t => test t .idcode) ∧
    Answers (exec .samplePreload s) (fun t => test t .sample) ∧
    ((∀ d, (s.chan d).pwr.lk ≠ .on ∧ (s.chan d).st.embBusy = false) → Answers (exec .extest s) fun t => test t .extest) ∧
    ((∃ d, (s.chan d).pwr.lk = .on) → Answers (exec .extest s) fun t => test t .bypass)

/-! ### The machine -/

/-- R474, Table 17.2: after a module reset the registers hold the values of their Reset columns, and nothing waits in the queue. Only fields
to which the spec gives a value stand here. -/
def Obligations.ResetState : Prop :=
  let s := State.reset
  s.pending = [] ∧ s.mc.pwr.mode = 0 ∧ s.mc.host.dbgOpen = false ∧ s.mc.firm.safe = false ∧ s.mc.jobs = [] ∧ s.mc.ctxs = [] ∧
  ∀ c : Chan, let h := s.chan c
    h.st.shown = 1 ∧ s.serving c = false ∧ h.hbm = [] ∧ h.set.pin = 48 ∧ h.set.pinMax = 48 ∧ h.set.held = 4 ∧ h.set.holdMax = 32 ∧
    h.cis.cisRate = 8 ∧ h.cis.hbmRate = 16 ∧ h.cis.raise = 64 ∧ h.cis.auto = true ∧ h.cis.level = 0 ∧ h.cis.ceLog = [] ∧ h.pwr.guard = 12 ∧
    h.bbx.frozen = false ∧
    (∀ j : SlotIx, (s.slot c j).live = false ∧ (s.slot c j).regs.set.periodUs = 200 ∧ (s.slot c j).regs.set.wdogMs = 1000 ∧
      (s.slot c j).regs.set.interval = 0 ∧ (s.slot c j).regs.flt.valid = false ∧ (s.slot c j).stg.state = .clean) ∧
    (∀ p : PumpIx, (s.slice c p).mem = [] ∧ (s.pump c p).run = .idle) ∧
    (∀ pd : PolderIx, (s.polder c pd).dom = .off ∧ (s.polder c pd).slotMode = false) ∧
    ∀ e : PortIx, (s.port c e).enable = true ∧ (s.port c e).state = .disabled

/-- Every command with operands that a command can have answers a next state and leaves the queue as it found it: none faults, none is
refused. Outside those operands the only stop is that of a thread-engine instruction whose registers pass r63. -/
def Obligations.EveryCommandAnswers : Prop :=
  ∀ (i : Instr) (s : State),
    (i.wf = true → Answers (exec i s) fun t => t.pending = s.pending) ∧
    (exec i s = .fault .registerPastEnd ∨ Answers (exec i s) fun t => t.pending = s.pending)

/-- R446: only SVN_COMMIT moves an anti-rollback counter, never the machine by itself, and it raises each to the SVN of the image of its
kind that runs, where that is higher; an image whose SVN is below its counter does not verify. -/
def Obligations.AntiRollbackCounters : Prop :=
  ∀ (i : Instr) (k : Fin 3) (im : FwImage) (s t : State),
    (exec i s = .next t → i ≠ .svnCommit → t.mc.fuses.svn = s.mc.fuses.svn) ∧
    (s.pending = [] → step s = .next t → t.mc.fuses.svn = s.mc.fuses.svn) ∧
    (s.mc.inReset = false → s.mc.firm.started = true → s.mc.firm.recovery = false → Answers (exec .svnCommit s) fun t =>
      t.mc.fuses.svn[k.val] = max s.mc.fuses.svn[k.val] s.mc.firm.runSvn[k.val]) ∧
    (im.svn < s.mc.fuses.svn[k.val] → s.fwVerifies k im = false)

/-- R440, R446, Tables 16.1 and 16.11: whatever command a step runs, the fuses only ever gain bits. What is written at manufacture never
changes, a root that was added stays, a revoke bit stays set, no counter falls, and while some root was live, some root is. -/
def Obligations.FusesOnlyProgram : Prop :=
  ∀ (f : Fuses) (s t : State), Fuses.Programs f s.mc.fuses → step s = .next t → Fuses.Programs f t.mc.fuses
end

