-- ==== Sys2Proof/Laws/Maps.lean ====
section
/-!
SUPPORT. Sparse maps: a read after a write, and that every operation of Machine/Maps.lean keeps the canonical form.
-/

namespace Sys2Proof.SMap

variable {α : Type}

/-- A map is in order when its tail is and its first key lies below the others. -/
theorem sorted_cons (k : Nat) (v : α) (m : SMap α) :
    sorted ((k, v) :: m) ↔ (∀ e ∈ m, k < e.1) ∧ sorted m := by
  simp [sorted, List.pairwise_cons]

theorem sorted_nil : sorted ([] : SMap α) := List.Pairwise.nil

/-- A key below every listed key is not listed. -/
theorem look_below (m : SMap α) (k : Nat) (h : ∀ e ∈ m, k < e.1) : look m k = none := by
  cases m with
  | nil => rfl
  | cons e m =>
    have := h e (by simp)
    simp [look, Nat.ne_of_lt this, this]

@[simp] theorem look_set1_self (m : SMap α) (k : Nat) (v : α) : look (set1 m k v) k = some v := by
  induction m with
  | nil => simp [set1, look]
  | cons e m ih =>
    obtain ⟨k', v'⟩ := e
    unfold set1
    split
    · simp [look]
    · split
      · simp [look]
      · rename_i h1 h2
        simp [look, h1, h2, ih]

theorem look_set1_ne (m : SMap α) (k j : Nat) (v : α) (h : j ≠ k) (hs : sorted m) : look (set1 m k v) j = look m j := by
  induction m with
  | nil => simp [set1, look, h]
  | cons e m ih =>
    obtain ⟨k', v'⟩ := e
    have hm := (sorted_cons k' v' m).1 hs
    unfold set1
    split
    · rename_i h1
      subst h1
      simp only [look, h, if_false]
    · split
      · rename_i h1 h2
        by_cases hjk : j < k
        · have h3 : j < k' := Nat.lt_trans hjk h2
          simp [look, h, hjk, h3, Nat.ne_of_lt h3]
        · simp [look, h, hjk]
      · by_cases h1 : j = k'
        · simp [look, h1]
        · simp only [look, h1, if_false, ih hm.2]

theorem mem_set1 (m : SMap α) (k : Nat) (v : α) (e : Nat × α) (h : e ∈ set1 m k v) : e = (k, v) ∨ e ∈ m := by
  induction m with
  | nil => simp [set1] at h; exact .inl h
  | cons x m ih =>
    obtain ⟨k', v'⟩ := x
    unfold set1 at h
    split at h
    · simp at h
      rcases h with h | h
      · exact .inl h
      · exact .inr (by simp [h])
    · split at h
      · simpa using h
      · simp at h
        rcases h with h | h
        · exact .inr (by simp [h])
        · rcases ih h with h | h
          · exact .inl h
          · exact .inr (by simp [h])

theorem sorted_set1 (m : SMap α) (k : Nat) (v : α) (hs : sorted m) : sorted (set1 m k v) := by
  induction m with
  | nil => simp [set1, sorted]
  | cons x m ih =>
    obtain ⟨k', v'⟩ := x
    have hm := (sorted_cons k' v' m).1 hs
    unfold set1
    split
    · rename_i h; subst h
      exact (sorted_cons _ _ _).2 hm
    · split
      · rename_i h1 h2
        refine (sorted_cons _ _ _).2 ⟨?_, hs⟩
        intro e he
        rcases List.mem_cons.1 he with he | he
        · subst he; exact h2
        · exact Nat.lt_trans h2 (hm.1 e he)
      · rename_i h1 h2
        refine (sorted_cons _ _ _).2 ⟨?_, ih hm.2⟩
        intro e he
        rcases mem_set1 m k v e he with he | he
        · subst he; exact Nat.lt_of_le_of_ne (Nat.le_of_not_lt h2) (fun h => h1 h.symm)
        · exact hm.1 e he

theorem mem_drop1 (m : SMap α) (k : Nat) (e : Nat × α) (h : e ∈ drop1 m k) : e ∈ m := by
  induction m with
  | nil => simp [drop1] at h
  | cons x m ih =>
    obtain ⟨k', v'⟩ := x
    unfold drop1 at h
    split at h
    · exact List.mem_cons_of_mem _ h
    · split at h
      · exact h
      · rcases List.mem_cons.1 h with h | h
        · simp [h]
        · exact List.mem_cons_of_mem _ (ih h)

theorem sorted_drop1 (m : SMap α) (k : Nat) (hs : sorted m) : sorted (drop1 m k) := by
  induction m with
  | nil => exact sorted_nil
  | cons x m ih =>
    obtain ⟨k', v'⟩ := x
    have hm := (sorted_cons k' v' m).1 hs
    unfold drop1
    split
    · exact hm.2
    · split
      · exact hs
      · exact (sorted_cons _ _ _).2 ⟨fun e he => hm.1 e (mem_drop1 m k e he), ih hm.2⟩

theorem look_drop1_self (m : SMap α) (k : Nat) (hs : sorted m) : look (drop1 m k) k = none := by
  induction m with
  | nil => rfl
  | cons x m ih =>
    obtain ⟨k', v'⟩ := x
    have hm := (sorted_cons k' v' m).1 hs
    unfold drop1
    split
    · rename_i h; subst h
      exact look_below m _ hm.1
    · split
      · rename_i h1 h2; simp [look, h1, h2]
      · rename_i h1 h2; simp [look, h1, h2, ih hm.2]

theorem look_drop1_ne (m : SMap α) (k j : Nat) (h : j ≠ k) (hs : sorted m) : look (drop1 m k) j = look m j := by
  induction m with
  | nil => rfl
  | cons x m ih =>
    obtain ⟨k', v'⟩ := x
    have hm := (sorted_cons k' v' m).1 hs
    unfold drop1
    split
    · rename_i h1; subst h1
      by_cases hj : j < k
      · simp only [look, h, hj, if_false, if_true]
        exact look_below m j fun e he => Nat.lt_trans hj (hm.1 e he)
      · simp [look, h, hj]
    · split
      · rfl
      · simp only [look]
        split
        · rfl
        · split
          · rfl
          · exact ih hm.2

/-- A read of a key after a write to it gives the value written. -/
@[simp] theorem readD_write_self [DecidableEq α] (m : SMap α) (d : α) (k : Nat) (v : α) (hs : sorted m) :
    readD (write m d k v) d k = v := by
  unfold readD write
  split
  · rename_i h; subst h; simp [look_drop1_self m k hs]
  · simp

/-- A write leaves every other key alone. -/
theorem readD_write_ne [DecidableEq α] (m : SMap α) (d : α) (k j : Nat) (v : α) (h : j ≠ k) (hs : sorted m) :
    readD (write m d k v) d j = readD m d j := by
  unfold readD write
  split
  · rw [look_drop1_ne m k j h hs]
  · rw [look_set1_ne m k j v h hs]

theorem sorted_write [DecidableEq α] (m : SMap α) (d : α) (k : Nat) (v : α) (hs : sorted m) : sorted (write m d k v) := by
  unfold write
  split
  · exact sorted_drop1 m k hs
  · exact sorted_set1 m k v hs

/-- A write keeps the canonical form. -/
theorem wf_write [DecidableEq α] (m : SMap α) (d : α) (k : Nat) (v : α) (h : wf m d) : wf (write m d k v) d := by
  refine ⟨sorted_write m d k v h.1, ?_⟩
  intro e he
  unfold write at he
  split at he
  · exact h.2 e (mem_drop1 m k e he)
  · rename_i hv
    rcases mem_set1 m k v e he with he | he
    · subst he; exact hv
    · exact h.2 e he

theorem wf_writes [DecidableEq α] (m : SMap α) (d : α) (l : List (Nat × α)) (h : wf m d) : wf (writes m d l) d := by
  induction l generalizing m with
  | nil => exact h
  | cons e l ih => exact ih _ (wf_write m d e.1 e.2 h)

theorem sorted_writes [DecidableEq α] (m : SMap α) (d : α) (l : List (Nat × α)) (h : sorted m) : sorted (writes m d l) := by
  induction l generalizing m with
  | nil => exact h
  | cons e l ih => exact ih _ (sorted_write m d e.1 e.2 h)

theorem sorted_alter (m : SMap α) (k : Nat) (f : α → α) (hs : sorted m) : sorted (alter m k f) := by
  unfold alter
  split
  · exact sorted_set1 m k _ hs
  · exact hs

theorem sorted_filter (m : SMap α) (p : Nat × α → Bool) (hs : sorted m) : sorted (m.filter p) := by
  unfold sorted at *
  rw [List.pairwise_map] at *
  exact hs.filter p

theorem wf_filter (m : SMap α) (d : α) (p : Nat × α → Bool) (h : wf m d) : wf (m.filter p) d :=
  ⟨sorted_filter m p h.1, fun e he => h.2 e (List.mem_filter.1 he).1⟩

theorem sorted_below (m : SMap α) (lo hi : Nat) (hs : sorted m) : sorted (below m lo hi) := sorted_filter m _ hs
theorem sorted_without (m : SMap α) (lo hi : Nat) (hs : sorted m) : sorted (without m lo hi) := sorted_filter m _ hs
theorem wf_below (m : SMap α) (d : α) (lo hi : Nat) (h : wf m d) : wf (below m lo hi) d := wf_filter m d _ h
theorem wf_without (m : SMap α) (d : α) (lo hi : Nat) (h : wf m d) : wf (without m lo hi) d := wf_filter m d _ h

theorem wf_nil (d : α) : wf ([] : SMap α) d := ⟨sorted_nil, fun _ h => absurd h (by simp)⟩

/-- Replacing a range keeps the canonical form. -/
theorem wf_setRange [DecidableEq α] (m : SMap α) (d : α) (lo : Nat) (vs : List α) (h : wf m d) : wf (setRange m d lo vs) d := by
  have hmid : ∀ e ∈ (vs.zipIdx lo).filterMap (fun e => if e.1 = d then none else some (e.2, e.1)),
      lo ≤ e.1 ∧ e.1 < lo + vs.length ∧ e.2 ≠ d := by
    intro e he
    obtain ⟨a, ha, hb⟩ := List.mem_filterMap.1 he
    split at hb
    · cases hb
    · rename_i hne
      cases hb
      have := List.mem_zipIdx (x := a.1) (i := a.2) ha
      exact ⟨this.1, by omega, hne⟩
  have hpw : ∀ (l : List α) (n : Nat), (((l.zipIdx n).filterMap
      (fun e => if e.1 = d then none else some (e.2, e.1))).map Prod.fst).Pairwise (· < ·) := by
    intro l
    induction l with
    | nil => intro n; simp
    | cons x l ih =>
      intro n
      rw [List.zipIdx_cons, List.filterMap_cons]
      dsimp only
      split
      · exact ih (n + 1)
      · rename_i b hb
        split at hb
        · cases hb
        · cases hb
          rw [List.map_cons, List.pairwise_cons]
          refine ⟨?_, ih (n + 1)⟩
          intro k hk
          obtain ⟨e, he, rfl⟩ := List.mem_map.1 hk
          obtain ⟨a, ha, hb⟩ := List.mem_filterMap.1 he
          split at hb
          · cases hb
          · cases hb
            have := List.mem_zipIdx (x := a.1) (i := a.2) ha
            exact Nat.lt_of_lt_of_le (Nat.lt_succ_self n) this.1
  refine ⟨?_, ?_⟩
  · unfold setRange
    rw [List.map_append, List.map_append, List.pairwise_append, List.pairwise_append]
    refine ⟨⟨sorted_filter m _ h.1, hpw vs lo, ?_⟩, sorted_filter m _ h.1, ?_⟩
    · intro a ha b hb
      obtain ⟨e, he, rfl⟩ := List.mem_map.1 ha
      obtain ⟨e', he', rfl⟩ := List.mem_map.1 hb
      have h1 : e.1 < lo := by simpa using (List.mem_filter.1 he).2
      exact Nat.lt_of_lt_of_le h1 (hmid e' he').1
    · intro a ha b hb
      obtain ⟨e', he', rfl⟩ := List.mem_map.1 hb
      have h2 : lo + vs.length ≤ e'.1 := by simpa using (List.mem_filter.1 he').2
      rcases List.mem_append.1 ha with ha | ha
      · obtain ⟨e, he, rfl⟩ := List.mem_map.1 ha
        have h1 : e.1 < lo := by simpa using (List.mem_filter.1 he).2
        omega
      · obtain ⟨e, he, rfl⟩ := List.mem_map.1 ha
        exact Nat.lt_of_lt_of_le (hmid e he).2.1 h2
  · intro e he
    unfold setRange at he
    rcases List.mem_append.1 he with he | he
    · rcases List.mem_append.1 he with he | he
      · exact h.2 e (List.mem_filter.1 he).1
      · exact (hmid e he).2.2
    · exact h.2 e (List.mem_filter.1 he).1

end Sys2Proof.SMap

namespace Sys2Proof.Machine

/-- The module's memory is in canonical form after reset. -/
theorem reset_hbm_wf (c : Chan) : SMap.wf (State.reset.ch[c.val]).hbm 0 := by
  simp [State.reset, Channel.reset, SMap.wf]

theorem reset_slice_sorted (c : Chan) (p : PumpIx) :
    SMap.sorted ((State.reset.ch[c.val]).pumps[p.val]).slice.mem := by
  simp [State.reset, Channel.reset, Pump.reset, Slice.reset, SMap.sorted]

end Sys2Proof.Machine
end

