-- ==== Sys2Proof/Laws/Memory.lean ====
section
/-!
SUPPORT. Every operation on the memories of a channel keeps their canonical form, a granule reads what was written to it,
and a write leaves every other granule alone.
-/

namespace Sys2Proof.Machine

/-! ### A slice -/

theorem Slice.put_sorted (sl : Slice) (g : Nat) (v : Granule) (h : SMap.sorted sl.mem) : SMap.sorted (sl.put g v).mem :=
  SMap.sorted_set1 _ _ _ h

theorem Slice.clear_sorted (sl : Slice) (lo hi : Nat) (h : SMap.sorted sl.mem) : SMap.sorted (sl.clear lo hi).mem :=
  SMap.sorted_without _ _ _ h

theorem Slice.puts_sorted (ws : List (Nat × Granule)) (sl : Slice) (h : SMap.sorted sl.mem) :
    SMap.sorted (ws.foldl (fun (t : Slice) (w : Nat × Granule) => t.put w.1 w.2) sl).mem := by
  induction ws generalizing sl with
  | nil => exact h
  | cons w ws ih => exact ih _ (sl.put_sorted w.1 w.2 h)

theorem Slice.reset_sorted : SMap.sorted Slice.reset.mem := by decide

theorem Slice.chanReset_sorted (sl : Slice) (retain : Bool) (h : SMap.sorted sl.mem) : SMap.sorted (sl.chanReset retain).mem := by
  cases retain
  · exact Slice.reset_sorted
  · exact h

@[simp] theorem Slice.get_put_self (sl : Slice) (g : Nat) (v : Granule) : (sl.put g v).get g = v := by
  simp [Slice.get, Slice.put]

theorem Slice.get_put_ne (sl : Slice) (g i : Nat) (v : Granule) (hi : i ≠ g) (h : SMap.sorted sl.mem) :
    (sl.put g v).get i = sl.get i := by
  simp [Slice.get, Slice.put, SMap.look_set1_ne _ _ _ _ hi h]

/-! ### A channel -/

theorem upd_get_self {α : Type} {n : Nat} (v : Vector α n) (i : Fin n) (f : α → α) : (upd v i f)[i.val] = f v[i.val] := by
  simp [upd]

theorem upd_get_ne {α : Type} {n : Nat} (v : Vector α n) (i j : Fin n) (f : α → α) (h : j ≠ i) : (upd v i f)[j.val] = v[j.val] := by
  have : i.val ≠ j.val := fun e => h (Fin.ext e.symm)
  simp [upd, this]

/-- Only the slice of one pump changes, to one in order. -/
theorem Memory.wf_pump (h : Channel) (p : PumpIx) (f : Pump → Pump) (hw : Memory.wf h)
    (hf : ∀ q : Pump, SMap.sorted q.slice.mem → SMap.sorted (f q).slice.mem) : Memory.wf { h with pumps := upd h.pumps p f } := by
  refine ⟨hw.1, fun i => ?_⟩
  by_cases hi : i = p
  · subst hi
    simp only [upd_get_self]
    exact hf _ (hw.2 i)
  · simp only [upd_get_ne _ _ _ _ hi]
    exact hw.2 i

/-- A write of a granule at its home keeps the canonical form, dead block or not. -/
theorem Channel.store_wf (h : Channel) (k : Nat) (v : Granule) (hw : Memory.wf h) : Memory.wf (h.store k v) := by
  unfold Channel.store
  split
  · refine Memory.wf_pump h _ _ hw fun q hq => ?_
    dsimp only
    split
    · exact Slice.put_sorted _ _ _ (Slice.puts_sorted _ _ hq)
    · exact Slice.put_sorted _ _ _ hq
  · split
    · exact ⟨SMap.wf_write _ _ _ _ (SMap.wf_writes _ _ _ hw.1), hw.2⟩
    · exact ⟨SMap.wf_write _ _ _ _ hw.1, hw.2⟩

theorem Channel.dropLine_wf (h : Channel) (a : FabAddr) (hw : Memory.wf h) : Memory.wf (h.dropLine a) :=
  ⟨hw.1, fun p => by simpa [Channel.dropLine] using hw.2 p⟩

theorem Channel.hbmPaste_wf (h : Channel) (j : SlotIx) (base size : Nat) (x : SMap Granule × List DeadRange) (hw : Memory.wf h) :
    Memory.wf (h.hbmPaste j base size x) := ⟨SMap.wf_writes _ _ _ (SMap.wf_without _ _ _ _ hw.1), hw.2⟩

/-- Dropping granules of the HBM, as a freed allocation, a rebuilt stack or a test does, keeps the canonical form. -/
theorem Channel.hbmKeep_wf (h : Channel) (keep : Nat × Granule → Bool) (hw : Memory.wf h) :
    Memory.wf { h with hbm := h.hbm.filter keep } := ⟨SMap.wf_filter _ _ _ hw.1, hw.2⟩

theorem Channel.hbmFill_wf (h : Channel) (ws : List (Nat × Granule)) (hw : Memory.wf h) :
    Memory.wf { h with hbm := h.hbm.writes 0 ws } := ⟨SMap.wf_writes _ _ _ hw.1, hw.2⟩

/-- The lines that stay in place when the stacks are striped anew keep the canonical form. -/
theorem State.restripe_wf (old new : State) (c : Chan) (gone : Nat → Bool) (m : SMap Granule) (hm : SMap.wf m 0) :
    SMap.wf (State.restripe old new c gone m) 0 := by
  have key : ∀ (l : List (Nat × Granule)) (acc : SMap Granule), (∀ e ∈ l, e.2 ≠ 0) → SMap.wf acc 0 →
      SMap.wf (l.foldl (fun a e => SMap.set1 a e.1 e.2) acc) 0 := by
    intro l
    induction l with
    | nil => intro acc _ ha; exact ha
    | cons e l ih =>
      intro acc hl ha
      refine ih _ (fun x hx => hl x (List.mem_cons_of_mem _ hx)) ⟨SMap.sorted_set1 _ _ _ ha.1, fun x hx => ?_⟩
      rcases SMap.mem_set1 _ _ _ _ hx with hx | hx
      · subst hx; exact hl e (List.mem_cons_self ..)
      · exact ha.2 x hx
  refine key _ _ ?_ (SMap.wf_nil 0)
  intro e he
  obtain ⟨x, hx, hxe⟩ := List.mem_filterMap.1 he
  split at hxe
  · split at hxe
    · cases hxe
    · obtain ⟨n, _, rfl⟩ := Option.map_eq_some_iff.1 hxe
      exact hm.2 x hx
  · cases hxe

/-! ### Reads and writes of a granule -/

/-- A granule outside the dead blocks reads what was written to it. -/
theorem Channel.raw_store_self (h : Channel) (k : Nat) (v : Granule) (hw : Memory.wf h)
    (hs : ∀ p g, keySlice k = some (p, g) → deadAt (h.pumps[p.val]).slice.dead (g / 128) = none)
    (hh : keySlice k = none → deadAt h.hbmDead (k / 128) = none) : (h.store k v).raw k = v := by
  cases hk : keySlice k with
  | none =>
    simp [Channel.store, Channel.raw, hk, hh hk, SMap.readD_write_self _ _ _ _ hw.1.1]
  | some e =>
    obtain ⟨p, g⟩ := e
    have hd := hs p g hk
    simp [Channel.store, Channel.raw, hk, upd_get_self, hd, Slice.put, Slice.get]

/-- Outside the dead blocks, a write leaves every other granule of the HBM alone. -/
theorem Channel.hbm_store_ne (h : Channel) (k i : Nat) (v : Granule) (hw : Memory.wf h) (hi : i ≠ k) (hk : keySlice k = none)
    (hd : deadAt h.hbmDead (k / 128) = none) : (h.store k v).hbm.readD 0 i = h.hbm.readD 0 i := by
  simp [Channel.store, hk, hd, SMap.readD_write_ne _ _ _ _ _ hi hw.1.1]

/-- The module's memory is in canonical form after reset. -/
theorem reset_memory_wf (c : Chan) : Memory.wf (State.reset.ch[c.val]) := ⟨reset_hbm_wf c, fun p => reset_slice_sorted c p⟩

end Sys2Proof.Machine
end

