-- ==== Sys2Proof/Laws/State.lean ====
section
/-!
SUPPORT. What each access of Machine/Ops.lean changes and what it leaves: one lemma per update and field, so that no
proof unfolds a record update.
-/

namespace Sys2Proof.Machine

/-! ### One element of a vector -/

@[simp] theorem upd_self {α : Type} {n : Nat} (v : Vector α n) (i : Fin n) (f : α → α) :
    (upd v i f)[i.val] = f v[i.val] := by simp [upd]

theorem upd_of_ne {α : Type} {n : Nat} (v : Vector α n) (i j : Fin n) (f : α → α) (h : j ≠ i) :
    (upd v i f)[j.val] = v[j.val] := by
  have : i.val ≠ j.val := fun e => h (Fin.ext e.symm)
  simp [upd, this]

@[simp] theorem upd_upd {α : Type} {n : Nat} (v : Vector α n) (i : Fin n) (f g : α → α) :
    upd (upd v i f) i g = upd v i fun x => g (f x) := by
  simp [upd]

theorem upd_id {α : Type} {n : Nat} (v : Vector α n) (i : Fin n) : upd v i (fun x => x) = v := by
  simp [upd]

/-! ### A channel -/

@[simp] theorem State.onChan_chan (s : State) (c : Chan) (f : Channel → Channel) : (s.onChan c f).chan c = f (s.chan c) := by
  simp [State.onChan, State.chan]

theorem State.onChan_chan_ne (s : State) (c d : Chan) (f : Channel → Channel) (h : d ≠ c) :
    (s.onChan c f).chan d = s.chan d := by
  simp [State.onChan, State.chan, upd_of_ne _ _ _ _ h]

@[simp] theorem State.onChan_onChan (s : State) (c : Chan) (f g : Channel → Channel) :
    (s.onChan c f).onChan c g = s.onChan c fun h => g (f h) := by
  simp [State.onChan]
@[simp] theorem State.onChan_pending (s : State) (c : Chan) (f : Channel → Channel) : (s.onChan c f).pending = s.pending := rfl
@[simp] theorem State.onChan_timeNs (s : State) (c : Chan) (f : Channel → Channel) : (s.onChan c f).timeNs = s.timeNs := rfl
@[simp] theorem State.onChan_freeCtr (s : State) (c : Chan) (f : Channel → Channel) : (s.onChan c f).freeCtr = s.freeCtr := rfl
@[simp] theorem State.onChan_outputs (s : State) (c : Chan) (f : Channel → Channel) : (s.onChan c f).outputs = s.outputs := rfl
@[simp] theorem State.onChan_mc (s : State) (c : Chan) (f : Channel → Channel) : (s.onChan c f).mc = s.mc := rfl

/-! ### onPump -/

@[simp] theorem State.onPump_pump (s : State) (c : Chan) (i : PumpIx) (f : Pump → Pump) :
    (s.onPump c i f).pump c i = f (s.pump c i) := by
  simp [State.onPump, State.pump]

theorem State.onPump_pump_ne (s : State) (c : Chan) (i j : PumpIx) (f : Pump → Pump) (h : j ≠ i) :
    (s.onPump c i f).pump c j = s.pump c j := by
  simp [State.onPump, State.pump, upd_of_ne _ _ _ _ h]

theorem State.onPump_chan_ne (s : State) (c d : Chan) (i : PumpIx) (f : Pump → Pump) (h : d ≠ c) :
    (s.onPump c i f).chan d = s.chan d := s.onChan_chan_ne c d _ h

@[simp] theorem State.onPump_onPump (s : State) (c : Chan) (i : PumpIx) (f g : Pump → Pump) :
    (s.onPump c i f).onPump c i g = s.onPump c i fun x => g (f x) := by
  simp [State.onPump]
@[simp] theorem State.onPump_pending (s : State) (c : Chan) (i : PumpIx) (f : Pump → Pump) : (s.onPump c i f).pending = s.pending := rfl
@[simp] theorem State.onPump_timeNs (s : State) (c : Chan) (i : PumpIx) (f : Pump → Pump) : (s.onPump c i f).timeNs = s.timeNs := rfl
@[simp] theorem State.onPump_freeCtr (s : State) (c : Chan) (i : PumpIx) (f : Pump → Pump) : (s.onPump c i f).freeCtr = s.freeCtr := rfl
@[simp] theorem State.onPump_outputs (s : State) (c : Chan) (i : PumpIx) (f : Pump → Pump) : (s.onPump c i f).outputs = s.outputs := rfl
@[simp] theorem State.onPump_mc (s : State) (c : Chan) (i : PumpIx) (f : Pump → Pump) : (s.onPump c i f).mc = s.mc := rfl
@[simp] theorem State.onPump_chan_st (s : State) (c : Chan) (i : PumpIx) (f : Pump → Pump) :
    ((s.onPump c i f).chan c).st = (s.chan c).st := by simp [State.onPump]
@[simp] theorem State.onPump_chan_slots (s : State) (c : Chan) (i : PumpIx) (f : Pump → Pump) :
    ((s.onPump c i f).chan c).slots = (s.chan c).slots := by simp [State.onPump]
@[simp] theorem State.onPump_chan_polders (s : State) (c : Chan) (i : PumpIx) (f : Pump → Pump) :
    ((s.onPump c i f).chan c).polders = (s.chan c).polders := by simp [State.onPump]
@[simp] theorem State.onPump_chan_wells (s : State) (c : Chan) (i : PumpIx) (f : Pump → Pump) :
    ((s.onPump c i f).chan c).wells = (s.chan c).wells := by simp [State.onPump]
@[simp] theorem State.onPump_chan_set (s : State) (c : Chan) (i : PumpIx) (f : Pump → Pump) :
    ((s.onPump c i f).chan c).set = (s.chan c).set := by simp [State.onPump]
@[simp] theorem State.onPump_chan_stSet (s : State) (c : Chan) (i : PumpIx) (f : Pump → Pump) :
    ((s.onPump c i f).chan c).stSet = (s.chan c).stSet := by simp [State.onPump]
@[simp] theorem State.onPump_chan_cis (s : State) (c : Chan) (i : PumpIx) (f : Pump → Pump) :
    ((s.onPump c i f).chan c).cis = (s.chan c).cis := by simp [State.onPump]
@[simp] theorem State.onPump_chan_hbm (s : State) (c : Chan) (i : PumpIx) (f : Pump → Pump) :
    ((s.onPump c i f).chan c).hbm = (s.chan c).hbm := by simp [State.onPump]
@[simp] theorem State.onPump_chan_hbmUpset (s : State) (c : Chan) (i : PumpIx) (f : Pump → Pump) :
    ((s.onPump c i f).chan c).hbmUpset = (s.chan c).hbmUpset := by simp [State.onPump]
@[simp] theorem State.onPump_chan_hbmDead (s : State) (c : Chan) (i : PumpIx) (f : Pump → Pump) :
    ((s.onPump c i f).chan c).hbmDead = (s.chan c).hbmDead := by simp [State.onPump]
@[simp] theorem State.onPump_chan_stack (s : State) (c : Chan) (i : PumpIx) (f : Pump → Pump) :
    ((s.onPump c i f).chan c).stack = (s.chan c).stack := by simp [State.onPump]
@[simp] theorem State.onPump_chan_held (s : State) (c : Chan) (i : PumpIx) (f : Pump → Pump) :
    ((s.onPump c i f).chan c).held = (s.chan c).held := by simp [State.onPump]
@[simp] theorem State.onPump_chan_atoms (s : State) (c : Chan) (i : PumpIx) (f : Pump → Pump) :
    ((s.onPump c i f).chan c).atoms = (s.chan c).atoms := by simp [State.onPump]
@[simp] theorem State.onPump_chan_decls (s : State) (c : Chan) (i : PumpIx) (f : Pump → Pump) :
    ((s.onPump c i f).chan c).decls = (s.chan c).decls := by simp [State.onPump]
@[simp] theorem State.onPump_chan_fills (s : State) (c : Chan) (i : PumpIx) (f : Pump → Pump) :
    ((s.onPump c i f).chan c).fills = (s.chan c).fills := by simp [State.onPump]
@[simp] theorem State.onPump_chan_ports (s : State) (c : Chan) (i : PumpIx) (f : Pump → Pump) :
    ((s.onPump c i f).chan c).ports = (s.chan c).ports := by simp [State.onPump]
@[simp] theorem State.onPump_chan_router (s : State) (c : Chan) (i : PumpIx) (f : Pump → Pump) :
    ((s.onPump c i f).chan c).router = (s.chan c).router := by simp [State.onPump]
@[simp] theorem State.onPump_chan_arbs (s : State) (c : Chan) (i : PumpIx) (f : Pump → Pump) :
    ((s.onPump c i f).chan c).arbs = (s.chan c).arbs := by simp [State.onPump]
@[simp] theorem State.onPump_chan_reg (s : State) (c : Chan) (i : PumpIx) (f : Pump → Pump) :
    ((s.onPump c i f).chan c).reg = (s.chan c).reg := by simp [State.onPump]
@[simp] theorem State.onPump_chan_pwr (s : State) (c : Chan) (i : PumpIx) (f : Pump → Pump) :
    ((s.onPump c i f).chan c).pwr = (s.chan c).pwr := by simp [State.onPump]
@[simp] theorem State.onPump_chan_thm (s : State) (c : Chan) (i : PumpIx) (f : Pump → Pump) :
    ((s.onPump c i f).chan c).thm = (s.chan c).thm := by simp [State.onPump]
@[simp] theorem State.onPump_chan_bbx (s : State) (c : Chan) (i : PumpIx) (f : Pump → Pump) :
    ((s.onPump c i f).chan c).bbx = (s.chan c).bbx := by simp [State.onPump]
@[simp] theorem State.onPump_chan_peekOff (s : State) (c : Chan) (i : PumpIx) (f : Pump → Pump) :
    ((s.onPump c i f).chan c).peekOff = (s.chan c).peekOff := by simp [State.onPump]
@[simp] theorem State.onPump_chan_peekSlot (s : State) (c : Chan) (i : PumpIx) (f : Pump → Pump) :
    ((s.onPump c i f).chan c).peekSlot = (s.chan c).peekSlot := by simp [State.onPump]
@[simp] theorem State.onPump_chan_claims (s : State) (c : Chan) (i : PumpIx) (f : Pump → Pump) :
    ((s.onPump c i f).chan c).claims = (s.chan c).claims := by simp [State.onPump]
@[simp] theorem State.onPump_chan_badLanes (s : State) (c : Chan) (i : PumpIx) (f : Pump → Pump) :
    ((s.onPump c i f).chan c).badLanes = (s.chan c).badLanes := by simp [State.onPump]
@[simp] theorem State.onPump_chan_badAdders (s : State) (c : Chan) (i : PumpIx) (f : Pump → Pump) :
    ((s.onPump c i f).chan c).badAdders = (s.chan c).badAdders := by simp [State.onPump]
@[simp] theorem State.onPump_chan_badStore (s : State) (c : Chan) (i : PumpIx) (f : Pump → Pump) :
    ((s.onPump c i f).chan c).badStore = (s.chan c).badStore := by simp [State.onPump]
@[simp] theorem State.onPump_chan_stalled (s : State) (c : Chan) (i : PumpIx) (f : Pump → Pump) :
    ((s.onPump c i f).chan c).stalled = (s.chan c).stalled := by simp [State.onPump]
@[simp] theorem State.onPump_slot (s : State) (c : Chan) (i : PumpIx) (f : Pump → Pump) (j : SlotIx) :
    (s.onPump c i f).slot c j = s.slot c j := by simp [State.slot]
@[simp] theorem State.onPump_port (s : State) (c : Chan) (i : PumpIx) (f : Pump → Pump) (j : PortIx) :
    (s.onPump c i f).port c j = s.port c j := by simp [State.port]
@[simp] theorem State.onPump_polder (s : State) (c : Chan) (i : PumpIx) (f : Pump → Pump) (j : PolderIx) :
    (s.onPump c i f).polder c j = s.polder c j := by simp [State.polder]

/-! ### onSlot -/

@[simp] theorem State.onSlot_slot (s : State) (c : Chan) (i : SlotIx) (f : Slot → Slot) :
    (s.onSlot c i f).slot c i = f (s.slot c i) := by
  simp [State.onSlot, State.slot]

theorem State.onSlot_slot_ne (s : State) (c : Chan) (i j : SlotIx) (f : Slot → Slot) (h : j ≠ i) :
    (s.onSlot c i f).slot c j = s.slot c j := by
  simp [State.onSlot, State.slot, upd_of_ne _ _ _ _ h]

theorem State.onSlot_chan_ne (s : State) (c d : Chan) (i : SlotIx) (f : Slot → Slot) (h : d ≠ c) :
    (s.onSlot c i f).chan d = s.chan d := s.onChan_chan_ne c d _ h

@[simp] theorem State.onSlot_onSlot (s : State) (c : Chan) (i : SlotIx) (f g : Slot → Slot) :
    (s.onSlot c i f).onSlot c i g = s.onSlot c i fun x => g (f x) := by
  simp [State.onSlot]
@[simp] theorem State.onSlot_pending (s : State) (c : Chan) (i : SlotIx) (f : Slot → Slot) : (s.onSlot c i f).pending = s.pending := rfl
@[simp] theorem State.onSlot_timeNs (s : State) (c : Chan) (i : SlotIx) (f : Slot → Slot) : (s.onSlot c i f).timeNs = s.timeNs := rfl
@[simp] theorem State.onSlot_freeCtr (s : State) (c : Chan) (i : SlotIx) (f : Slot → Slot) : (s.onSlot c i f).freeCtr = s.freeCtr := rfl
@[simp] theorem State.onSlot_outputs (s : State) (c : Chan) (i : SlotIx) (f : Slot → Slot) : (s.onSlot c i f).outputs = s.outputs := rfl
@[simp] theorem State.onSlot_mc (s : State) (c : Chan) (i : SlotIx) (f : Slot → Slot) : (s.onSlot c i f).mc = s.mc := rfl
@[simp] theorem State.onSlot_chan_st (s : State) (c : Chan) (i : SlotIx) (f : Slot → Slot) :
    ((s.onSlot c i f).chan c).st = (s.chan c).st := by simp [State.onSlot]
@[simp] theorem State.onSlot_chan_polders (s : State) (c : Chan) (i : SlotIx) (f : Slot → Slot) :
    ((s.onSlot c i f).chan c).polders = (s.chan c).polders := by simp [State.onSlot]
@[simp] theorem State.onSlot_chan_pumps (s : State) (c : Chan) (i : SlotIx) (f : Slot → Slot) :
    ((s.onSlot c i f).chan c).pumps = (s.chan c).pumps := by simp [State.onSlot]
@[simp] theorem State.onSlot_chan_wells (s : State) (c : Chan) (i : SlotIx) (f : Slot → Slot) :
    ((s.onSlot c i f).chan c).wells = (s.chan c).wells := by simp [State.onSlot]
@[simp] theorem State.onSlot_chan_set (s : State) (c : Chan) (i : SlotIx) (f : Slot → Slot) :
    ((s.onSlot c i f).chan c).set = (s.chan c).set := by simp [State.onSlot]
@[simp] theorem State.onSlot_chan_stSet (s : State) (c : Chan) (i : SlotIx) (f : Slot → Slot) :
    ((s.onSlot c i f).chan c).stSet = (s.chan c).stSet := by simp [State.onSlot]
@[simp] theorem State.onSlot_chan_cis (s : State) (c : Chan) (i : SlotIx) (f : Slot → Slot) :
    ((s.onSlot c i f).chan c).cis = (s.chan c).cis := by simp [State.onSlot]
@[simp] theorem State.onSlot_chan_hbm (s : State) (c : Chan) (i : SlotIx) (f : Slot → Slot) :
    ((s.onSlot c i f).chan c).hbm = (s.chan c).hbm := by simp [State.onSlot]
@[simp] theorem State.onSlot_chan_hbmUpset (s : State) (c : Chan) (i : SlotIx) (f : Slot → Slot) :
    ((s.onSlot c i f).chan c).hbmUpset = (s.chan c).hbmUpset := by simp [State.onSlot]
@[simp] theorem State.onSlot_chan_hbmDead (s : State) (c : Chan) (i : SlotIx) (f : Slot → Slot) :
    ((s.onSlot c i f).chan c).hbmDead = (s.chan c).hbmDead := by simp [State.onSlot]
@[simp] theorem State.onSlot_chan_stack (s : State) (c : Chan) (i : SlotIx) (f : Slot → Slot) :
    ((s.onSlot c i f).chan c).stack = (s.chan c).stack := by simp [State.onSlot]
@[simp] theorem State.onSlot_chan_held (s : State) (c : Chan) (i : SlotIx) (f : Slot → Slot) :
    ((s.onSlot c i f).chan c).held = (s.chan c).held := by simp [State.onSlot]
@[simp] theorem State.onSlot_chan_atoms (s : State) (c : Chan) (i : SlotIx) (f : Slot → Slot) :
    ((s.onSlot c i f).chan c).atoms = (s.chan c).atoms := by simp [State.onSlot]
@[simp] theorem State.onSlot_chan_decls (s : State) (c : Chan) (i : SlotIx) (f : Slot → Slot) :
    ((s.onSlot c i f).chan c).decls = (s.chan c).decls := by simp [State.onSlot]
@[simp] theorem State.onSlot_chan_fills (s : State) (c : Chan) (i : SlotIx) (f : Slot → Slot) :
    ((s.onSlot c i f).chan c).fills = (s.chan c).fills := by simp [State.onSlot]
@[simp] theorem State.onSlot_chan_ports (s : State) (c : Chan) (i : SlotIx) (f : Slot → Slot) :
    ((s.onSlot c i f).chan c).ports = (s.chan c).ports := by simp [State.onSlot]
@[simp] theorem State.onSlot_chan_router (s : State) (c : Chan) (i : SlotIx) (f : Slot → Slot) :
    ((s.onSlot c i f).chan c).router = (s.chan c).router := by simp [State.onSlot]
@[simp] theorem State.onSlot_chan_arbs (s : State) (c : Chan) (i : SlotIx) (f : Slot → Slot) :
    ((s.onSlot c i f).chan c).arbs = (s.chan c).arbs := by simp [State.onSlot]
@[simp] theorem State.onSlot_chan_reg (s : State) (c : Chan) (i : SlotIx) (f : Slot → Slot) :
    ((s.onSlot c i f).chan c).reg = (s.chan c).reg := by simp [State.onSlot]
@[simp] theorem State.onSlot_chan_pwr (s : State) (c : Chan) (i : SlotIx) (f : Slot → Slot) :
    ((s.onSlot c i f).chan c).pwr = (s.chan c).pwr := by simp [State.onSlot]
@[simp] theorem State.onSlot_chan_thm (s : State) (c : Chan) (i : SlotIx) (f : Slot → Slot) :
    ((s.onSlot c i f).chan c).thm = (s.chan c).thm := by simp [State.onSlot]
@[simp] theorem State.onSlot_chan_bbx (s : State) (c : Chan) (i : SlotIx) (f : Slot → Slot) :
    ((s.onSlot c i f).chan c).bbx = (s.chan c).bbx := by simp [State.onSlot]
@[simp] theorem State.onSlot_chan_peekOff (s : State) (c : Chan) (i : SlotIx) (f : Slot → Slot) :
    ((s.onSlot c i f).chan c).peekOff = (s.chan c).peekOff := by simp [State.onSlot]
@[simp] theorem State.onSlot_chan_peekSlot (s : State) (c : Chan) (i : SlotIx) (f : Slot → Slot) :
    ((s.onSlot c i f).chan c).peekSlot = (s.chan c).peekSlot := by simp [State.onSlot]
@[simp] theorem State.onSlot_chan_claims (s : State) (c : Chan) (i : SlotIx) (f : Slot → Slot) :
    ((s.onSlot c i f).chan c).claims = (s.chan c).claims := by simp [State.onSlot]
@[simp] theorem State.onSlot_chan_badLanes (s : State) (c : Chan) (i : SlotIx) (f : Slot → Slot) :
    ((s.onSlot c i f).chan c).badLanes = (s.chan c).badLanes := by simp [State.onSlot]
@[simp] theorem State.onSlot_chan_badAdders (s : State) (c : Chan) (i : SlotIx) (f : Slot → Slot) :
    ((s.onSlot c i f).chan c).badAdders = (s.chan c).badAdders := by simp [State.onSlot]
@[simp] theorem State.onSlot_chan_badStore (s : State) (c : Chan) (i : SlotIx) (f : Slot → Slot) :
    ((s.onSlot c i f).chan c).badStore = (s.chan c).badStore := by simp [State.onSlot]
@[simp] theorem State.onSlot_chan_stalled (s : State) (c : Chan) (i : SlotIx) (f : Slot → Slot) :
    ((s.onSlot c i f).chan c).stalled = (s.chan c).stalled := by simp [State.onSlot]
@[simp] theorem State.onSlot_pump (s : State) (c : Chan) (i : SlotIx) (f : Slot → Slot) (j : PumpIx) :
    (s.onSlot c i f).pump c j = s.pump c j := by simp [State.pump]
@[simp] theorem State.onSlot_port (s : State) (c : Chan) (i : SlotIx) (f : Slot → Slot) (j : PortIx) :
    (s.onSlot c i f).port c j = s.port c j := by simp [State.port]
@[simp] theorem State.onSlot_polder (s : State) (c : Chan) (i : SlotIx) (f : Slot → Slot) (j : PolderIx) :
    (s.onSlot c i f).polder c j = s.polder c j := by simp [State.polder]

/-! ### onPort -/

@[simp] theorem State.onPort_port (s : State) (c : Chan) (i : PortIx) (f : Port → Port) :
    (s.onPort c i f).port c i = f (s.port c i) := by
  simp [State.onPort, State.port]

theorem State.onPort_port_ne (s : State) (c : Chan) (i j : PortIx) (f : Port → Port) (h : j ≠ i) :
    (s.onPort c i f).port c j = s.port c j := by
  simp [State.onPort, State.port, upd_of_ne _ _ _ _ h]

theorem State.onPort_chan_ne (s : State) (c d : Chan) (i : PortIx) (f : Port → Port) (h : d ≠ c) :
    (s.onPort c i f).chan d = s.chan d := s.onChan_chan_ne c d _ h

@[simp] theorem State.onPort_onPort (s : State) (c : Chan) (i : PortIx) (f g : Port → Port) :
    (s.onPort c i f).onPort c i g = s.onPort c i fun x => g (f x) := by
  simp [State.onPort]
@[simp] theorem State.onPort_pending (s : State) (c : Chan) (i : PortIx) (f : Port → Port) : (s.onPort c i f).pending = s.pending := rfl
@[simp] theorem State.onPort_timeNs (s : State) (c : Chan) (i : PortIx) (f : Port → Port) : (s.onPort c i f).timeNs = s.timeNs := rfl
@[simp] theorem State.onPort_freeCtr (s : State) (c : Chan) (i : PortIx) (f : Port → Port) : (s.onPort c i f).freeCtr = s.freeCtr := rfl
@[simp] theorem State.onPort_outputs (s : State) (c : Chan) (i : PortIx) (f : Port → Port) : (s.onPort c i f).outputs = s.outputs := rfl
@[simp] theorem State.onPort_mc (s : State) (c : Chan) (i : PortIx) (f : Port → Port) : (s.onPort c i f).mc = s.mc := rfl
@[simp] theorem State.onPort_chan_st (s : State) (c : Chan) (i : PortIx) (f : Port → Port) :
    ((s.onPort c i f).chan c).st = (s.chan c).st := by simp [State.onPort]
@[simp] theorem State.onPort_chan_slots (s : State) (c : Chan) (i : PortIx) (f : Port → Port) :
    ((s.onPort c i f).chan c).slots = (s.chan c).slots := by simp [State.onPort]
@[simp] theorem State.onPort_chan_polders (s : State) (c : Chan) (i : PortIx) (f : Port → Port) :
    ((s.onPort c i f).chan c).polders = (s.chan c).polders := by simp [State.onPort]
@[simp] theorem State.onPort_chan_pumps (s : State) (c : Chan) (i : PortIx) (f : Port → Port) :
    ((s.onPort c i f).chan c).pumps = (s.chan c).pumps := by simp [State.onPort]
@[simp] theorem State.onPort_chan_wells (s : State) (c : Chan) (i : PortIx) (f : Port → Port) :
    ((s.onPort c i f).chan c).wells = (s.chan c).wells := by simp [State.onPort]
@[simp] theorem State.onPort_chan_set (s : State) (c : Chan) (i : PortIx) (f : Port → Port) :
    ((s.onPort c i f).chan c).set = (s.chan c).set := by simp [State.onPort]
@[simp] theorem State.onPort_chan_stSet (s : State) (c : Chan) (i : PortIx) (f : Port → Port) :
    ((s.onPort c i f).chan c).stSet = (s.chan c).stSet := by simp [State.onPort]
@[simp] theorem State.onPort_chan_cis (s : State) (c : Chan) (i : PortIx) (f : Port → Port) :
    ((s.onPort c i f).chan c).cis = (s.chan c).cis := by simp [State.onPort]
@[simp] theorem State.onPort_chan_hbm (s : State) (c : Chan) (i : PortIx) (f : Port → Port) :
    ((s.onPort c i f).chan c).hbm = (s.chan c).hbm := by simp [State.onPort]
@[simp] theorem State.onPort_chan_hbmUpset (s : State) (c : Chan) (i : PortIx) (f : Port → Port) :
    ((s.onPort c i f).chan c).hbmUpset = (s.chan c).hbmUpset := by simp [State.onPort]
@[simp] theorem State.onPort_chan_hbmDead (s : State) (c : Chan) (i : PortIx) (f : Port → Port) :
    ((s.onPort c i f).chan c).hbmDead = (s.chan c).hbmDead := by simp [State.onPort]
@[simp] theorem State.onPort_chan_stack (s : State) (c : Chan) (i : PortIx) (f : Port → Port) :
    ((s.onPort c i f).chan c).stack = (s.chan c).stack := by simp [State.onPort]
@[simp] theorem State.onPort_chan_held (s : State) (c : Chan) (i : PortIx) (f : Port → Port) :
    ((s.onPort c i f).chan c).held = (s.chan c).held := by simp [State.onPort]
@[simp] theorem State.onPort_chan_atoms (s : State) (c : Chan) (i : PortIx) (f : Port → Port) :
    ((s.onPort c i f).chan c).atoms = (s.chan c).atoms := by simp [State.onPort]
@[simp] theorem State.onPort_chan_decls (s : State) (c : Chan) (i : PortIx) (f : Port → Port) :
    ((s.onPort c i f).chan c).decls = (s.chan c).decls := by simp [State.onPort]
@[simp] theorem State.onPort_chan_fills (s : State) (c : Chan) (i : PortIx) (f : Port → Port) :
    ((s.onPort c i f).chan c).fills = (s.chan c).fills := by simp [State.onPort]
@[simp] theorem State.onPort_chan_router (s : State) (c : Chan) (i : PortIx) (f : Port → Port) :
    ((s.onPort c i f).chan c).router = (s.chan c).router := by simp [State.onPort]
@[simp] theorem State.onPort_chan_arbs (s : State) (c : Chan) (i : PortIx) (f : Port → Port) :
    ((s.onPort c i f).chan c).arbs = (s.chan c).arbs := by simp [State.onPort]
@[simp] theorem State.onPort_chan_reg (s : State) (c : Chan) (i : PortIx) (f : Port → Port) :
    ((s.onPort c i f).chan c).reg = (s.chan c).reg := by simp [State.onPort]
@[simp] theorem State.onPort_chan_pwr (s : State) (c : Chan) (i : PortIx) (f : Port → Port) :
    ((s.onPort c i f).chan c).pwr = (s.chan c).pwr := by simp [State.onPort]
@[simp] theorem State.onPort_chan_thm (s : State) (c : Chan) (i : PortIx) (f : Port → Port) :
    ((s.onPort c i f).chan c).thm = (s.chan c).thm := by simp [State.onPort]
@[simp] theorem State.onPort_chan_bbx (s : State) (c : Chan) (i : PortIx) (f : Port → Port) :
    ((s.onPort c i f).chan c).bbx = (s.chan c).bbx := by simp [State.onPort]
@[simp] theorem State.onPort_chan_peekOff (s : State) (c : Chan) (i : PortIx) (f : Port → Port) :
    ((s.onPort c i f).chan c).peekOff = (s.chan c).peekOff := by simp [State.onPort]
@[simp] theorem State.onPort_chan_peekSlot (s : State) (c : Chan) (i : PortIx) (f : Port → Port) :
    ((s.onPort c i f).chan c).peekSlot = (s.chan c).peekSlot := by simp [State.onPort]
@[simp] theorem State.onPort_chan_claims (s : State) (c : Chan) (i : PortIx) (f : Port → Port) :
    ((s.onPort c i f).chan c).claims = (s.chan c).claims := by simp [State.onPort]
@[simp] theorem State.onPort_chan_badLanes (s : State) (c : Chan) (i : PortIx) (f : Port → Port) :
    ((s.onPort c i f).chan c).badLanes = (s.chan c).badLanes := by simp [State.onPort]
@[simp] theorem State.onPort_chan_badAdders (s : State) (c : Chan) (i : PortIx) (f : Port → Port) :
    ((s.onPort c i f).chan c).badAdders = (s.chan c).badAdders := by simp [State.onPort]
@[simp] theorem State.onPort_chan_badStore (s : State) (c : Chan) (i : PortIx) (f : Port → Port) :
    ((s.onPort c i f).chan c).badStore = (s.chan c).badStore := by simp [State.onPort]
@[simp] theorem State.onPort_chan_stalled (s : State) (c : Chan) (i : PortIx) (f : Port → Port) :
    ((s.onPort c i f).chan c).stalled = (s.chan c).stalled := by simp [State.onPort]
@[simp] theorem State.onPort_pump (s : State) (c : Chan) (i : PortIx) (f : Port → Port) (j : PumpIx) :
    (s.onPort c i f).pump c j = s.pump c j := by simp [State.pump]
@[simp] theorem State.onPort_slot (s : State) (c : Chan) (i : PortIx) (f : Port → Port) (j : SlotIx) :
    (s.onPort c i f).slot c j = s.slot c j := by simp [State.slot]
@[simp] theorem State.onPort_polder (s : State) (c : Chan) (i : PortIx) (f : Port → Port) (j : PolderIx) :
    (s.onPort c i f).polder c j = s.polder c j := by simp [State.polder]

/-! ### onPolder -/

@[simp] theorem State.onPolder_polder (s : State) (c : Chan) (i : PolderIx) (f : Polder → Polder) :
    (s.onPolder c i f).polder c i = f (s.polder c i) := by
  simp [State.onPolder, State.polder]

theorem State.onPolder_polder_ne (s : State) (c : Chan) (i j : PolderIx) (f : Polder → Polder) (h : j ≠ i) :
    (s.onPolder c i f).polder c j = s.polder c j := by
  simp [State.onPolder, State.polder, upd_of_ne _ _ _ _ h]

theorem State.onPolder_chan_ne (s : State) (c d : Chan) (i : PolderIx) (f : Polder → Polder) (h : d ≠ c) :
    (s.onPolder c i f).chan d = s.chan d := s.onChan_chan_ne c d _ h

@[simp] theorem State.onPolder_onPolder (s : State) (c : Chan) (i : PolderIx) (f g : Polder → Polder) :
    (s.onPolder c i f).onPolder c i g = s.onPolder c i fun x => g (f x) := by
  simp [State.onPolder]
@[simp] theorem State.onPolder_pending (s : State) (c : Chan) (i : PolderIx) (f : Polder → Polder) : (s.onPolder c i f).pending = s.pending := rfl
@[simp] theorem State.onPolder_timeNs (s : State) (c : Chan) (i : PolderIx) (f : Polder → Polder) : (s.onPolder c i f).timeNs = s.timeNs := rfl
@[simp] theorem State.onPolder_freeCtr (s : State) (c : Chan) (i : PolderIx) (f : Polder → Polder) : (s.onPolder c i f).freeCtr = s.freeCtr := rfl
@[simp] theorem State.onPolder_outputs (s : State) (c : Chan) (i : PolderIx) (f : Polder → Polder) : (s.onPolder c i f).outputs = s.outputs := rfl
@[simp] theorem State.onPolder_mc (s : State) (c : Chan) (i : PolderIx) (f : Polder → Polder) : (s.onPolder c i f).mc = s.mc := rfl
@[simp] theorem State.onPolder_chan_st (s : State) (c : Chan) (i : PolderIx) (f : Polder → Polder) :
    ((s.onPolder c i f).chan c).st = (s.chan c).st := by simp [State.onPolder]
@[simp] theorem State.onPolder_chan_slots (s : State) (c : Chan) (i : PolderIx) (f : Polder → Polder) :
    ((s.onPolder c i f).chan c).slots = (s.chan c).slots := by simp [State.onPolder]
@[simp] theorem State.onPolder_chan_pumps (s : State) (c : Chan) (i : PolderIx) (f : Polder → Polder) :
    ((s.onPolder c i f).chan c).pumps = (s.chan c).pumps := by simp [State.onPolder]
@[simp] theorem State.onPolder_chan_wells (s : State) (c : Chan) (i : PolderIx) (f : Polder → Polder) :
    ((s.onPolder c i f).chan c).wells = (s.chan c).wells := by simp [State.onPolder]
@[simp] theorem State.onPolder_chan_set (s : State) (c : Chan) (i : PolderIx) (f : Polder → Polder) :
    ((s.onPolder c i f).chan c).set = (s.chan c).set := by simp [State.onPolder]
@[simp] theorem State.onPolder_chan_stSet (s : State) (c : Chan) (i : PolderIx) (f : Polder → Polder) :
    ((s.onPolder c i f).chan c).stSet = (s.chan c).stSet := by simp [State.onPolder]
@[simp] theorem State.onPolder_chan_cis (s : State) (c : Chan) (i : PolderIx) (f : Polder → Polder) :
    ((s.onPolder c i f).chan c).cis = (s.chan c).cis := by simp [State.onPolder]
@[simp] theorem State.onPolder_chan_hbm (s : State) (c : Chan) (i : PolderIx) (f : Polder → Polder) :
    ((s.onPolder c i f).chan c).hbm = (s.chan c).hbm := by simp [State.onPolder]
@[simp] theorem State.onPolder_chan_hbmUpset (s : State) (c : Chan) (i : PolderIx) (f : Polder → Polder) :
    ((s.onPolder c i f).chan c).hbmUpset = (s.chan c).hbmUpset := by simp [State.onPolder]
@[simp] theorem State.onPolder_chan_hbmDead (s : State) (c : Chan) (i : PolderIx) (f : Polder → Polder) :
    ((s.onPolder c i f).chan c).hbmDead = (s.chan c).hbmDead := by simp [State.onPolder]
@[simp] theorem State.onPolder_chan_stack (s : State) (c : Chan) (i : PolderIx) (f : Polder → Polder) :
    ((s.onPolder c i f).chan c).stack = (s.chan c).stack := by simp [State.onPolder]
@[simp] theorem State.onPolder_chan_held (s : State) (c : Chan) (i : PolderIx) (f : Polder → Polder) :
    ((s.onPolder c i f).chan c).held = (s.chan c).held := by simp [State.onPolder]
@[simp] theorem State.onPolder_chan_atoms (s : State) (c : Chan) (i : PolderIx) (f : Polder → Polder) :
    ((s.onPolder c i f).chan c).atoms = (s.chan c).atoms := by simp [State.onPolder]
@[simp] theorem State.onPolder_chan_decls (s : State) (c : Chan) (i : PolderIx) (f : Polder → Polder) :
    ((s.onPolder c i f).chan c).decls = (s.chan c).decls := by simp [State.onPolder]
@[simp] theorem State.onPolder_chan_fills (s : State) (c : Chan) (i : PolderIx) (f : Polder → Polder) :
    ((s.onPolder c i f).chan c).fills = (s.chan c).fills := by simp [State.onPolder]
@[simp] theorem State.onPolder_chan_ports (s : State) (c : Chan) (i : PolderIx) (f : Polder → Polder) :
    ((s.onPolder c i f).chan c).ports = (s.chan c).ports := by simp [State.onPolder]
@[simp] theorem State.onPolder_chan_router (s : State) (c : Chan) (i : PolderIx) (f : Polder → Polder) :
    ((s.onPolder c i f).chan c).router = (s.chan c).router := by simp [State.onPolder]
@[simp] theorem State.onPolder_chan_arbs (s : State) (c : Chan) (i : PolderIx) (f : Polder → Polder) :
    ((s.onPolder c i f).chan c).arbs = (s.chan c).arbs := by simp [State.onPolder]
@[simp] theorem State.onPolder_chan_reg (s : State) (c : Chan) (i : PolderIx) (f : Polder → Polder) :
    ((s.onPolder c i f).chan c).reg = (s.chan c).reg := by simp [State.onPolder]
@[simp] theorem State.onPolder_chan_pwr (s : State) (c : Chan) (i : PolderIx) (f : Polder → Polder) :
    ((s.onPolder c i f).chan c).pwr = (s.chan c).pwr := by simp [State.onPolder]
@[simp] theorem State.onPolder_chan_thm (s : State) (c : Chan) (i : PolderIx) (f : Polder → Polder) :
    ((s.onPolder c i f).chan c).thm = (s.chan c).thm := by simp [State.onPolder]
@[simp] theorem State.onPolder_chan_bbx (s : State) (c : Chan) (i : PolderIx) (f : Polder → Polder) :
    ((s.onPolder c i f).chan c).bbx = (s.chan c).bbx := by simp [State.onPolder]
@[simp] theorem State.onPolder_chan_peekOff (s : State) (c : Chan) (i : PolderIx) (f : Polder → Polder) :
    ((s.onPolder c i f).chan c).peekOff = (s.chan c).peekOff := by simp [State.onPolder]
@[simp] theorem State.onPolder_chan_peekSlot (s : State) (c : Chan) (i : PolderIx) (f : Polder → Polder) :
    ((s.onPolder c i f).chan c).peekSlot = (s.chan c).peekSlot := by simp [State.onPolder]
@[simp] theorem State.onPolder_chan_claims (s : State) (c : Chan) (i : PolderIx) (f : Polder → Polder) :
    ((s.onPolder c i f).chan c).claims = (s.chan c).claims := by simp [State.onPolder]
@[simp] theorem State.onPolder_chan_badLanes (s : State) (c : Chan) (i : PolderIx) (f : Polder → Polder) :
    ((s.onPolder c i f).chan c).badLanes = (s.chan c).badLanes := by simp [State.onPolder]
@[simp] theorem State.onPolder_chan_badAdders (s : State) (c : Chan) (i : PolderIx) (f : Polder → Polder) :
    ((s.onPolder c i f).chan c).badAdders = (s.chan c).badAdders := by simp [State.onPolder]
@[simp] theorem State.onPolder_chan_badStore (s : State) (c : Chan) (i : PolderIx) (f : Polder → Polder) :
    ((s.onPolder c i f).chan c).badStore = (s.chan c).badStore := by simp [State.onPolder]
@[simp] theorem State.onPolder_chan_stalled (s : State) (c : Chan) (i : PolderIx) (f : Polder → Polder) :
    ((s.onPolder c i f).chan c).stalled = (s.chan c).stalled := by simp [State.onPolder]
@[simp] theorem State.onPolder_pump (s : State) (c : Chan) (i : PolderIx) (f : Polder → Polder) (j : PumpIx) :
    (s.onPolder c i f).pump c j = s.pump c j := by simp [State.pump]
@[simp] theorem State.onPolder_slot (s : State) (c : Chan) (i : PolderIx) (f : Polder → Polder) (j : SlotIx) :
    (s.onPolder c i f).slot c j = s.slot c j := by simp [State.slot]
@[simp] theorem State.onPolder_port (s : State) (c : Chan) (i : PolderIx) (f : Polder → Polder) (j : PortIx) :
    (s.onPolder c i f).port c j = s.port c j := by simp [State.port]

/-! ### onFr -/

@[simp] theorem State.onFr_slot_fr (s : State) (c : Chan) (j : SlotIx) (f : SlotFrame → SlotFrame) :
    ((s.onFr c j f).slot c j).fr = f (s.slot c j).fr := by
  simp [State.onFr]
@[simp] theorem State.onFr_onFr (s : State) (c : Chan) (j : SlotIx) (f g : SlotFrame → SlotFrame) :
    (s.onFr c j f).onFr c j g = s.onFr c j fun x => g (f x) := by
  simp [State.onFr]
@[simp] theorem State.onFr_slot_regs (s : State) (c : Chan) (j : SlotIx) (f : SlotFrame → SlotFrame) :
    ((s.onFr c j f).slot c j).regs = (s.slot c j).regs := by simp [State.onFr]
@[simp] theorem State.onFr_slot_stg (s : State) (c : Chan) (j : SlotIx) (f : SlotFrame → SlotFrame) :
    ((s.onFr c j f).slot c j).stg = (s.slot c j).stg := by simp [State.onFr]
@[simp] theorem State.onFr_slot_job (s : State) (c : Chan) (j : SlotIx) (f : SlotFrame → SlotFrame) :
    ((s.onFr c j f).slot c j).job = (s.slot c j).job := by simp [State.onFr]
@[simp] theorem State.onFr_slot_inputs (s : State) (c : Chan) (j : SlotIx) (f : SlotFrame → SlotFrame) :
    ((s.onFr c j f).slot c j).inputs = (s.slot c j).inputs := by simp [State.onFr]
@[simp] theorem State.onFr_slot_urgents (s : State) (c : Chan) (j : SlotIx) (f : SlotFrame → SlotFrame) :
    ((s.onFr c j f).slot c j).urgents = (s.slot c j).urgents := by simp [State.onFr]
@[simp] theorem State.onFr_slot_ckpt (s : State) (c : Chan) (j : SlotIx) (f : SlotFrame → SlotFrame) :
    ((s.onFr c j f).slot c j).ckpt = (s.slot c j).ckpt := by simp [State.onFr]
@[simp] theorem State.onFr_slot_ckptAsked (s : State) (c : Chan) (j : SlotIx) (f : SlotFrame → SlotFrame) :
    ((s.onFr c j f).slot c j).ckptAsked = (s.slot c j).ckptAsked := by simp [State.onFr]
@[simp] theorem State.onFr_slot_stopAsked (s : State) (c : Chan) (j : SlotIx) (f : SlotFrame → SlotFrame) :
    ((s.onFr c j f).slot c j).stopAsked = (s.slot c j).stopAsked := by simp [State.onFr]
@[simp] theorem State.onFr_slot_buddySlots (s : State) (c : Chan) (j : SlotIx) (f : SlotFrame → SlotFrame) :
    ((s.onFr c j f).slot c j).buddySlots = (s.slot c j).buddySlots := by simp [State.onFr]
@[simp] theorem State.onFr_pending (s : State) (c : Chan) (j : SlotIx) (f : SlotFrame → SlotFrame) : (s.onFr c j f).pending = s.pending := rfl
@[simp] theorem State.onFr_timeNs (s : State) (c : Chan) (j : SlotIx) (f : SlotFrame → SlotFrame) : (s.onFr c j f).timeNs = s.timeNs := rfl
@[simp] theorem State.onFr_freeCtr (s : State) (c : Chan) (j : SlotIx) (f : SlotFrame → SlotFrame) : (s.onFr c j f).freeCtr = s.freeCtr := rfl
@[simp] theorem State.onFr_outputs (s : State) (c : Chan) (j : SlotIx) (f : SlotFrame → SlotFrame) : (s.onFr c j f).outputs = s.outputs := rfl
@[simp] theorem State.onFr_mc (s : State) (c : Chan) (j : SlotIx) (f : SlotFrame → SlotFrame) : (s.onFr c j f).mc = s.mc := rfl
@[simp] theorem State.onFr_chan_st (s : State) (c : Chan) (j : SlotIx) (f : SlotFrame → SlotFrame) :
    ((s.onFr c j f).chan c).st = (s.chan c).st := by simp [State.onFr]
@[simp] theorem State.onFr_chan_polders (s : State) (c : Chan) (j : SlotIx) (f : SlotFrame → SlotFrame) :
    ((s.onFr c j f).chan c).polders = (s.chan c).polders := by simp [State.onFr]
@[simp] theorem State.onFr_chan_pumps (s : State) (c : Chan) (j : SlotIx) (f : SlotFrame → SlotFrame) :
    ((s.onFr c j f).chan c).pumps = (s.chan c).pumps := by simp [State.onFr]
@[simp] theorem State.onFr_chan_wells (s : State) (c : Chan) (j : SlotIx) (f : SlotFrame → SlotFrame) :
    ((s.onFr c j f).chan c).wells = (s.chan c).wells := by simp [State.onFr]
@[simp] theorem State.onFr_chan_set (s : State) (c : Chan) (j : SlotIx) (f : SlotFrame → SlotFrame) :
    ((s.onFr c j f).chan c).set = (s.chan c).set := by simp [State.onFr]
@[simp] theorem State.onFr_chan_stSet (s : State) (c : Chan) (j : SlotIx) (f : SlotFrame → SlotFrame) :
    ((s.onFr c j f).chan c).stSet = (s.chan c).stSet := by simp [State.onFr]
@[simp] theorem State.onFr_chan_cis (s : State) (c : Chan) (j : SlotIx) (f : SlotFrame → SlotFrame) :
    ((s.onFr c j f).chan c).cis = (s.chan c).cis := by simp [State.onFr]
@[simp] theorem State.onFr_chan_hbm (s : State) (c : Chan) (j : SlotIx) (f : SlotFrame → SlotFrame) :
    ((s.onFr c j f).chan c).hbm = (s.chan c).hbm := by simp [State.onFr]
@[simp] theorem State.onFr_chan_hbmUpset (s : State) (c : Chan) (j : SlotIx) (f : SlotFrame → SlotFrame) :
    ((s.onFr c j f).chan c).hbmUpset = (s.chan c).hbmUpset := by simp [State.onFr]
@[simp] theorem State.onFr_chan_hbmDead (s : State) (c : Chan) (j : SlotIx) (f : SlotFrame → SlotFrame) :
    ((s.onFr c j f).chan c).hbmDead = (s.chan c).hbmDead := by simp [State.onFr]
@[simp] theorem State.onFr_chan_stack (s : State) (c : Chan) (j : SlotIx) (f : SlotFrame → SlotFrame) :
    ((s.onFr c j f).chan c).stack = (s.chan c).stack := by simp [State.onFr]
@[simp] theorem State.onFr_chan_held (s : State) (c : Chan) (j : SlotIx) (f : SlotFrame → SlotFrame) :
    ((s.onFr c j f).chan c).held = (s.chan c).held := by simp [State.onFr]
@[simp] theorem State.onFr_chan_atoms (s : State) (c : Chan) (j : SlotIx) (f : SlotFrame → SlotFrame) :
    ((s.onFr c j f).chan c).atoms = (s.chan c).atoms := by simp [State.onFr]
@[simp] theorem State.onFr_chan_decls (s : State) (c : Chan) (j : SlotIx) (f : SlotFrame → SlotFrame) :
    ((s.onFr c j f).chan c).decls = (s.chan c).decls := by simp [State.onFr]
@[simp] theorem State.onFr_chan_fills (s : State) (c : Chan) (j : SlotIx) (f : SlotFrame → SlotFrame) :
    ((s.onFr c j f).chan c).fills = (s.chan c).fills := by simp [State.onFr]
@[simp] theorem State.onFr_chan_ports (s : State) (c : Chan) (j : SlotIx) (f : SlotFrame → SlotFrame) :
    ((s.onFr c j f).chan c).ports = (s.chan c).ports := by simp [State.onFr]
@[simp] theorem State.onFr_chan_router (s : State) (c : Chan) (j : SlotIx) (f : SlotFrame → SlotFrame) :
    ((s.onFr c j f).chan c).router = (s.chan c).router := by simp [State.onFr]
@[simp] theorem State.onFr_chan_arbs (s : State) (c : Chan) (j : SlotIx) (f : SlotFrame → SlotFrame) :
    ((s.onFr c j f).chan c).arbs = (s.chan c).arbs := by simp [State.onFr]
@[simp] theorem State.onFr_chan_reg (s : State) (c : Chan) (j : SlotIx) (f : SlotFrame → SlotFrame) :
    ((s.onFr c j f).chan c).reg = (s.chan c).reg := by simp [State.onFr]
@[simp] theorem State.onFr_chan_pwr (s : State) (c : Chan) (j : SlotIx) (f : SlotFrame → SlotFrame) :
    ((s.onFr c j f).chan c).pwr = (s.chan c).pwr := by simp [State.onFr]
@[simp] theorem State.onFr_chan_thm (s : State) (c : Chan) (j : SlotIx) (f : SlotFrame → SlotFrame) :
    ((s.onFr c j f).chan c).thm = (s.chan c).thm := by simp [State.onFr]
@[simp] theorem State.onFr_chan_bbx (s : State) (c : Chan) (j : SlotIx) (f : SlotFrame → SlotFrame) :
    ((s.onFr c j f).chan c).bbx = (s.chan c).bbx := by simp [State.onFr]
@[simp] theorem State.onFr_chan_peekOff (s : State) (c : Chan) (j : SlotIx) (f : SlotFrame → SlotFrame) :
    ((s.onFr c j f).chan c).peekOff = (s.chan c).peekOff := by simp [State.onFr]
@[simp] theorem State.onFr_chan_peekSlot (s : State) (c : Chan) (j : SlotIx) (f : SlotFrame → SlotFrame) :
    ((s.onFr c j f).chan c).peekSlot = (s.chan c).peekSlot := by simp [State.onFr]
@[simp] theorem State.onFr_chan_claims (s : State) (c : Chan) (j : SlotIx) (f : SlotFrame → SlotFrame) :
    ((s.onFr c j f).chan c).claims = (s.chan c).claims := by simp [State.onFr]
@[simp] theorem State.onFr_chan_badLanes (s : State) (c : Chan) (j : SlotIx) (f : SlotFrame → SlotFrame) :
    ((s.onFr c j f).chan c).badLanes = (s.chan c).badLanes := by simp [State.onFr]
@[simp] theorem State.onFr_chan_badAdders (s : State) (c : Chan) (j : SlotIx) (f : SlotFrame → SlotFrame) :
    ((s.onFr c j f).chan c).badAdders = (s.chan c).badAdders := by simp [State.onFr]
@[simp] theorem State.onFr_chan_badStore (s : State) (c : Chan) (j : SlotIx) (f : SlotFrame → SlotFrame) :
    ((s.onFr c j f).chan c).badStore = (s.chan c).badStore := by simp [State.onFr]
@[simp] theorem State.onFr_chan_stalled (s : State) (c : Chan) (j : SlotIx) (f : SlotFrame → SlotFrame) :
    ((s.onFr c j f).chan c).stalled = (s.chan c).stalled := by simp [State.onFr]
@[simp] theorem State.onFr_pump (s : State) (c : Chan) (i : SlotIx) (f : SlotFrame → SlotFrame) (j : PumpIx) :
    (s.onFr c i f).pump c j = s.pump c j := by simp [State.onFr]
@[simp] theorem State.onFr_port (s : State) (c : Chan) (i : SlotIx) (f : SlotFrame → SlotFrame) (j : PortIx) :
    (s.onFr c i f).port c j = s.port c j := by simp [State.onFr]
@[simp] theorem State.onFr_polder (s : State) (c : Chan) (i : SlotIx) (f : SlotFrame → SlotFrame) (j : PolderIx) :
    (s.onFr c i f).polder c j = s.polder c j := by simp [State.onFr]

/-! ### onRegs -/

@[simp] theorem State.onRegs_slot_regs (s : State) (c : Chan) (j : SlotIx) (f : SlotRegs → SlotRegs) :
    ((s.onRegs c j f).slot c j).regs = f (s.slot c j).regs := by
  simp [State.onRegs]
@[simp] theorem State.onRegs_onRegs (s : State) (c : Chan) (j : SlotIx) (f g : SlotRegs → SlotRegs) :
    (s.onRegs c j f).onRegs c j g = s.onRegs c j fun x => g (f x) := by
  simp [State.onRegs]
@[simp] theorem State.onRegs_slot_stg (s : State) (c : Chan) (j : SlotIx) (f : SlotRegs → SlotRegs) :
    ((s.onRegs c j f).slot c j).stg = (s.slot c j).stg := by simp [State.onRegs]
@[simp] theorem State.onRegs_slot_job (s : State) (c : Chan) (j : SlotIx) (f : SlotRegs → SlotRegs) :
    ((s.onRegs c j f).slot c j).job = (s.slot c j).job := by simp [State.onRegs]
@[simp] theorem State.onRegs_slot_fr (s : State) (c : Chan) (j : SlotIx) (f : SlotRegs → SlotRegs) :
    ((s.onRegs c j f).slot c j).fr = (s.slot c j).fr := by simp [State.onRegs]
@[simp] theorem State.onRegs_slot_inputs (s : State) (c : Chan) (j : SlotIx) (f : SlotRegs → SlotRegs) :
    ((s.onRegs c j f).slot c j).inputs = (s.slot c j).inputs := by simp [State.onRegs]
@[simp] theorem State.onRegs_slot_urgents (s : State) (c : Chan) (j : SlotIx) (f : SlotRegs → SlotRegs) :
    ((s.onRegs c j f).slot c j).urgents = (s.slot c j).urgents := by simp [State.onRegs]
@[simp] theorem State.onRegs_slot_ckpt (s : State) (c : Chan) (j : SlotIx) (f : SlotRegs → SlotRegs) :
    ((s.onRegs c j f).slot c j).ckpt = (s.slot c j).ckpt := by simp [State.onRegs]
@[simp] theorem State.onRegs_slot_ckptAsked (s : State) (c : Chan) (j : SlotIx) (f : SlotRegs → SlotRegs) :
    ((s.onRegs c j f).slot c j).ckptAsked = (s.slot c j).ckptAsked := by simp [State.onRegs]
@[simp] theorem State.onRegs_slot_stopAsked (s : State) (c : Chan) (j : SlotIx) (f : SlotRegs → SlotRegs) :
    ((s.onRegs c j f).slot c j).stopAsked = (s.slot c j).stopAsked := by simp [State.onRegs]
@[simp] theorem State.onRegs_slot_buddySlots (s : State) (c : Chan) (j : SlotIx) (f : SlotRegs → SlotRegs) :
    ((s.onRegs c j f).slot c j).buddySlots = (s.slot c j).buddySlots := by simp [State.onRegs]
@[simp] theorem State.onRegs_pending (s : State) (c : Chan) (j : SlotIx) (f : SlotRegs → SlotRegs) : (s.onRegs c j f).pending = s.pending := rfl
@[simp] theorem State.onRegs_timeNs (s : State) (c : Chan) (j : SlotIx) (f : SlotRegs → SlotRegs) : (s.onRegs c j f).timeNs = s.timeNs := rfl
@[simp] theorem State.onRegs_freeCtr (s : State) (c : Chan) (j : SlotIx) (f : SlotRegs → SlotRegs) : (s.onRegs c j f).freeCtr = s.freeCtr := rfl
@[simp] theorem State.onRegs_outputs (s : State) (c : Chan) (j : SlotIx) (f : SlotRegs → SlotRegs) : (s.onRegs c j f).outputs = s.outputs := rfl
@[simp] theorem State.onRegs_mc (s : State) (c : Chan) (j : SlotIx) (f : SlotRegs → SlotRegs) : (s.onRegs c j f).mc = s.mc := rfl
@[simp] theorem State.onRegs_chan_st (s : State) (c : Chan) (j : SlotIx) (f : SlotRegs → SlotRegs) :
    ((s.onRegs c j f).chan c).st = (s.chan c).st := by simp [State.onRegs]
@[simp] theorem State.onRegs_chan_polders (s : State) (c : Chan) (j : SlotIx) (f : SlotRegs → SlotRegs) :
    ((s.onRegs c j f).chan c).polders = (s.chan c).polders := by simp [State.onRegs]
@[simp] theorem State.onRegs_chan_pumps (s : State) (c : Chan) (j : SlotIx) (f : SlotRegs → SlotRegs) :
    ((s.onRegs c j f).chan c).pumps = (s.chan c).pumps := by simp [State.onRegs]
@[simp] theorem State.onRegs_chan_wells (s : State) (c : Chan) (j : SlotIx) (f : SlotRegs → SlotRegs) :
    ((s.onRegs c j f).chan c).wells = (s.chan c).wells := by simp [State.onRegs]
@[simp] theorem State.onRegs_chan_set (s : State) (c : Chan) (j : SlotIx) (f : SlotRegs → SlotRegs) :
    ((s.onRegs c j f).chan c).set = (s.chan c).set := by simp [State.onRegs]
@[simp] theorem State.onRegs_chan_stSet (s : State) (c : Chan) (j : SlotIx) (f : SlotRegs → SlotRegs) :
    ((s.onRegs c j f).chan c).stSet = (s.chan c).stSet := by simp [State.onRegs]
@[simp] theorem State.onRegs_chan_cis (s : State) (c : Chan) (j : SlotIx) (f : SlotRegs → SlotRegs) :
    ((s.onRegs c j f).chan c).cis = (s.chan c).cis := by simp [State.onRegs]
@[simp] theorem State.onRegs_chan_hbm (s : State) (c : Chan) (j : SlotIx) (f : SlotRegs → SlotRegs) :
    ((s.onRegs c j f).chan c).hbm = (s.chan c).hbm := by simp [State.onRegs]
@[simp] theorem State.onRegs_chan_hbmUpset (s : State) (c : Chan) (j : SlotIx) (f : SlotRegs → SlotRegs) :
    ((s.onRegs c j f).chan c).hbmUpset = (s.chan c).hbmUpset := by simp [State.onRegs]
@[simp] theorem State.onRegs_chan_hbmDead (s : State) (c : Chan) (j : SlotIx) (f : SlotRegs → SlotRegs) :
    ((s.onRegs c j f).chan c).hbmDead = (s.chan c).hbmDead := by simp [State.onRegs]
@[simp] theorem State.onRegs_chan_stack (s : State) (c : Chan) (j : SlotIx) (f : SlotRegs → SlotRegs) :
    ((s.onRegs c j f).chan c).stack = (s.chan c).stack := by simp [State.onRegs]
@[simp] theorem State.onRegs_chan_held (s : State) (c : Chan) (j : SlotIx) (f : SlotRegs → SlotRegs) :
    ((s.onRegs c j f).chan c).held = (s.chan c).held := by simp [State.onRegs]
@[simp] theorem State.onRegs_chan_atoms (s : State) (c : Chan) (j : SlotIx) (f : SlotRegs → SlotRegs) :
    ((s.onRegs c j f).chan c).atoms = (s.chan c).atoms := by simp [State.onRegs]
@[simp] theorem State.onRegs_chan_decls (s : State) (c : Chan) (j : SlotIx) (f : SlotRegs → SlotRegs) :
    ((s.onRegs c j f).chan c).decls = (s.chan c).decls := by simp [State.onRegs]
@[simp] theorem State.onRegs_chan_fills (s : State) (c : Chan) (j : SlotIx) (f : SlotRegs → SlotRegs) :
    ((s.onRegs c j f).chan c).fills = (s.chan c).fills := by simp [State.onRegs]
@[simp] theorem State.onRegs_chan_ports (s : State) (c : Chan) (j : SlotIx) (f : SlotRegs → SlotRegs) :
    ((s.onRegs c j f).chan c).ports = (s.chan c).ports := by simp [State.onRegs]
@[simp] theorem State.onRegs_chan_router (s : State) (c : Chan) (j : SlotIx) (f : SlotRegs → SlotRegs) :
    ((s.onRegs c j f).chan c).router = (s.chan c).router := by simp [State.onRegs]
@[simp] theorem State.onRegs_chan_arbs (s : State) (c : Chan) (j : SlotIx) (f : SlotRegs → SlotRegs) :
    ((s.onRegs c j f).chan c).arbs = (s.chan c).arbs := by simp [State.onRegs]
@[simp] theorem State.onRegs_chan_reg (s : State) (c : Chan) (j : SlotIx) (f : SlotRegs → SlotRegs) :
    ((s.onRegs c j f).chan c).reg = (s.chan c).reg := by simp [State.onRegs]
@[simp] theorem State.onRegs_chan_pwr (s : State) (c : Chan) (j : SlotIx) (f : SlotRegs → SlotRegs) :
    ((s.onRegs c j f).chan c).pwr = (s.chan c).pwr := by simp [State.onRegs]
@[simp] theorem State.onRegs_chan_thm (s : State) (c : Chan) (j : SlotIx) (f : SlotRegs → SlotRegs) :
    ((s.onRegs c j f).chan c).thm = (s.chan c).thm := by simp [State.onRegs]
@[simp] theorem State.onRegs_chan_bbx (s : State) (c : Chan) (j : SlotIx) (f : SlotRegs → SlotRegs) :
    ((s.onRegs c j f).chan c).bbx = (s.chan c).bbx := by simp [State.onRegs]
@[simp] theorem State.onRegs_chan_peekOff (s : State) (c : Chan) (j : SlotIx) (f : SlotRegs → SlotRegs) :
    ((s.onRegs c j f).chan c).peekOff = (s.chan c).peekOff := by simp [State.onRegs]
@[simp] theorem State.onRegs_chan_peekSlot (s : State) (c : Chan) (j : SlotIx) (f : SlotRegs → SlotRegs) :
    ((s.onRegs c j f).chan c).peekSlot = (s.chan c).peekSlot := by simp [State.onRegs]
@[simp] theorem State.onRegs_chan_claims (s : State) (c : Chan) (j : SlotIx) (f : SlotRegs → SlotRegs) :
    ((s.onRegs c j f).chan c).claims = (s.chan c).claims := by simp [State.onRegs]
@[simp] theorem State.onRegs_chan_badLanes (s : State) (c : Chan) (j : SlotIx) (f : SlotRegs → SlotRegs) :
    ((s.onRegs c j f).chan c).badLanes = (s.chan c).badLanes := by simp [State.onRegs]
@[simp] theorem State.onRegs_chan_badAdders (s : State) (c : Chan) (j : SlotIx) (f : SlotRegs → SlotRegs) :
    ((s.onRegs c j f).chan c).badAdders = (s.chan c).badAdders := by simp [State.onRegs]
@[simp] theorem State.onRegs_chan_badStore (s : State) (c : Chan) (j : SlotIx) (f : SlotRegs → SlotRegs) :
    ((s.onRegs c j f).chan c).badStore = (s.chan c).badStore := by simp [State.onRegs]
@[simp] theorem State.onRegs_chan_stalled (s : State) (c : Chan) (j : SlotIx) (f : SlotRegs → SlotRegs) :
    ((s.onRegs c j f).chan c).stalled = (s.chan c).stalled := by simp [State.onRegs]
@[simp] theorem State.onRegs_pump (s : State) (c : Chan) (i : SlotIx) (f : SlotRegs → SlotRegs) (j : PumpIx) :
    (s.onRegs c i f).pump c j = s.pump c j := by simp [State.onRegs]
@[simp] theorem State.onRegs_port (s : State) (c : Chan) (i : SlotIx) (f : SlotRegs → SlotRegs) (j : PortIx) :
    (s.onRegs c i f).port c j = s.port c j := by simp [State.onRegs]
@[simp] theorem State.onRegs_polder (s : State) (c : Chan) (i : SlotIx) (f : SlotRegs → SlotRegs) (j : PolderIx) :
    (s.onRegs c i f).polder c j = s.polder c j := by simp [State.onRegs]

/-! ### onStg -/

@[simp] theorem State.onStg_slot_stg (s : State) (c : Chan) (j : SlotIx) (f : Staging → Staging) :
    ((s.onStg c j f).slot c j).stg = f (s.slot c j).stg := by
  simp [State.onStg]
@[simp] theorem State.onStg_onStg (s : State) (c : Chan) (j : SlotIx) (f g : Staging → Staging) :
    (s.onStg c j f).onStg c j g = s.onStg c j fun x => g (f x) := by
  simp [State.onStg]
@[simp] theorem State.onStg_slot_regs (s : State) (c : Chan) (j : SlotIx) (f : Staging → Staging) :
    ((s.onStg c j f).slot c j).regs = (s.slot c j).regs := by simp [State.onStg]
@[simp] theorem State.onStg_slot_job (s : State) (c : Chan) (j : SlotIx) (f : Staging → Staging) :
    ((s.onStg c j f).slot c j).job = (s.slot c j).job := by simp [State.onStg]
@[simp] theorem State.onStg_slot_fr (s : State) (c : Chan) (j : SlotIx) (f : Staging → Staging) :
    ((s.onStg c j f).slot c j).fr = (s.slot c j).fr := by simp [State.onStg]
@[simp] theorem State.onStg_slot_inputs (s : State) (c : Chan) (j : SlotIx) (f : Staging → Staging) :
    ((s.onStg c j f).slot c j).inputs = (s.slot c j).inputs := by simp [State.onStg]
@[simp] theorem State.onStg_slot_urgents (s : State) (c : Chan) (j : SlotIx) (f : Staging → Staging) :
    ((s.onStg c j f).slot c j).urgents = (s.slot c j).urgents := by simp [State.onStg]
@[simp] theorem State.onStg_slot_ckpt (s : State) (c : Chan) (j : SlotIx) (f : Staging → Staging) :
    ((s.onStg c j f).slot c j).ckpt = (s.slot c j).ckpt := by simp [State.onStg]
@[simp] theorem State.onStg_slot_ckptAsked (s : State) (c : Chan) (j : SlotIx) (f : Staging → Staging) :
    ((s.onStg c j f).slot c j).ckptAsked = (s.slot c j).ckptAsked := by simp [State.onStg]
@[simp] theorem State.onStg_slot_stopAsked (s : State) (c : Chan) (j : SlotIx) (f : Staging → Staging) :
    ((s.onStg c j f).slot c j).stopAsked = (s.slot c j).stopAsked := by simp [State.onStg]
@[simp] theorem State.onStg_slot_buddySlots (s : State) (c : Chan) (j : SlotIx) (f : Staging → Staging) :
    ((s.onStg c j f).slot c j).buddySlots = (s.slot c j).buddySlots := by simp [State.onStg]
@[simp] theorem State.onStg_pending (s : State) (c : Chan) (j : SlotIx) (f : Staging → Staging) : (s.onStg c j f).pending = s.pending := rfl
@[simp] theorem State.onStg_timeNs (s : State) (c : Chan) (j : SlotIx) (f : Staging → Staging) : (s.onStg c j f).timeNs = s.timeNs := rfl
@[simp] theorem State.onStg_freeCtr (s : State) (c : Chan) (j : SlotIx) (f : Staging → Staging) : (s.onStg c j f).freeCtr = s.freeCtr := rfl
@[simp] theorem State.onStg_outputs (s : State) (c : Chan) (j : SlotIx) (f : Staging → Staging) : (s.onStg c j f).outputs = s.outputs := rfl
@[simp] theorem State.onStg_mc (s : State) (c : Chan) (j : SlotIx) (f : Staging → Staging) : (s.onStg c j f).mc = s.mc := rfl
@[simp] theorem State.onStg_chan_st (s : State) (c : Chan) (j : SlotIx) (f : Staging → Staging) :
    ((s.onStg c j f).chan c).st = (s.chan c).st := by simp [State.onStg]
@[simp] theorem State.onStg_chan_polders (s : State) (c : Chan) (j : SlotIx) (f : Staging → Staging) :
    ((s.onStg c j f).chan c).polders = (s.chan c).polders := by simp [State.onStg]
@[simp] theorem State.onStg_chan_pumps (s : State) (c : Chan) (j : SlotIx) (f : Staging → Staging) :
    ((s.onStg c j f).chan c).pumps = (s.chan c).pumps := by simp [State.onStg]
@[simp] theorem State.onStg_chan_wells (s : State) (c : Chan) (j : SlotIx) (f : Staging → Staging) :
    ((s.onStg c j f).chan c).wells = (s.chan c).wells := by simp [State.onStg]
@[simp] theorem State.onStg_chan_set (s : State) (c : Chan) (j : SlotIx) (f : Staging → Staging) :
    ((s.onStg c j f).chan c).set = (s.chan c).set := by simp [State.onStg]
@[simp] theorem State.onStg_chan_stSet (s : State) (c : Chan) (j : SlotIx) (f : Staging → Staging) :
    ((s.onStg c j f).chan c).stSet = (s.chan c).stSet := by simp [State.onStg]
@[simp] theorem State.onStg_chan_cis (s : State) (c : Chan) (j : SlotIx) (f : Staging → Staging) :
    ((s.onStg c j f).chan c).cis = (s.chan c).cis := by simp [State.onStg]
@[simp] theorem State.onStg_chan_hbm (s : State) (c : Chan) (j : SlotIx) (f : Staging → Staging) :
    ((s.onStg c j f).chan c).hbm = (s.chan c).hbm := by simp [State.onStg]
@[simp] theorem State.onStg_chan_hbmUpset (s : State) (c : Chan) (j : SlotIx) (f : Staging → Staging) :
    ((s.onStg c j f).chan c).hbmUpset = (s.chan c).hbmUpset := by simp [State.onStg]
@[simp] theorem State.onStg_chan_hbmDead (s : State) (c : Chan) (j : SlotIx) (f : Staging → Staging) :
    ((s.onStg c j f).chan c).hbmDead = (s.chan c).hbmDead := by simp [State.onStg]
@[simp] theorem State.onStg_chan_stack (s : State) (c : Chan) (j : SlotIx) (f : Staging → Staging) :
    ((s.onStg c j f).chan c).stack = (s.chan c).stack := by simp [State.onStg]
@[simp] theorem State.onStg_chan_held (s : State) (c : Chan) (j : SlotIx) (f : Staging → Staging) :
    ((s.onStg c j f).chan c).held = (s.chan c).held := by simp [State.onStg]
@[simp] theorem State.onStg_chan_atoms (s : State) (c : Chan) (j : SlotIx) (f : Staging → Staging) :
    ((s.onStg c j f).chan c).atoms = (s.chan c).atoms := by simp [State.onStg]
@[simp] theorem State.onStg_chan_decls (s : State) (c : Chan) (j : SlotIx) (f : Staging → Staging) :
    ((s.onStg c j f).chan c).decls = (s.chan c).decls := by simp [State.onStg]
@[simp] theorem State.onStg_chan_fills (s : State) (c : Chan) (j : SlotIx) (f : Staging → Staging) :
    ((s.onStg c j f).chan c).fills = (s.chan c).fills := by simp [State.onStg]
@[simp] theorem State.onStg_chan_ports (s : State) (c : Chan) (j : SlotIx) (f : Staging → Staging) :
    ((s.onStg c j f).chan c).ports = (s.chan c).ports := by simp [State.onStg]
@[simp] theorem State.onStg_chan_router (s : State) (c : Chan) (j : SlotIx) (f : Staging → Staging) :
    ((s.onStg c j f).chan c).router = (s.chan c).router := by simp [State.onStg]
@[simp] theorem State.onStg_chan_arbs (s : State) (c : Chan) (j : SlotIx) (f : Staging → Staging) :
    ((s.onStg c j f).chan c).arbs = (s.chan c).arbs := by simp [State.onStg]
@[simp] theorem State.onStg_chan_reg (s : State) (c : Chan) (j : SlotIx) (f : Staging → Staging) :
    ((s.onStg c j f).chan c).reg = (s.chan c).reg := by simp [State.onStg]
@[simp] theorem State.onStg_chan_pwr (s : State) (c : Chan) (j : SlotIx) (f : Staging → Staging) :
    ((s.onStg c j f).chan c).pwr = (s.chan c).pwr := by simp [State.onStg]
@[simp] theorem State.onStg_chan_thm (s : State) (c : Chan) (j : SlotIx) (f : Staging → Staging) :
    ((s.onStg c j f).chan c).thm = (s.chan c).thm := by simp [State.onStg]
@[simp] theorem State.onStg_chan_bbx (s : State) (c : Chan) (j : SlotIx) (f : Staging → Staging) :
    ((s.onStg c j f).chan c).bbx = (s.chan c).bbx := by simp [State.onStg]
@[simp] theorem State.onStg_chan_peekOff (s : State) (c : Chan) (j : SlotIx) (f : Staging → Staging) :
    ((s.onStg c j f).chan c).peekOff = (s.chan c).peekOff := by simp [State.onStg]
@[simp] theorem State.onStg_chan_peekSlot (s : State) (c : Chan) (j : SlotIx) (f : Staging → Staging) :
    ((s.onStg c j f).chan c).peekSlot = (s.chan c).peekSlot := by simp [State.onStg]
@[simp] theorem State.onStg_chan_claims (s : State) (c : Chan) (j : SlotIx) (f : Staging → Staging) :
    ((s.onStg c j f).chan c).claims = (s.chan c).claims := by simp [State.onStg]
@[simp] theorem State.onStg_chan_badLanes (s : State) (c : Chan) (j : SlotIx) (f : Staging → Staging) :
    ((s.onStg c j f).chan c).badLanes = (s.chan c).badLanes := by simp [State.onStg]
@[simp] theorem State.onStg_chan_badAdders (s : State) (c : Chan) (j : SlotIx) (f : Staging → Staging) :
    ((s.onStg c j f).chan c).badAdders = (s.chan c).badAdders := by simp [State.onStg]
@[simp] theorem State.onStg_chan_badStore (s : State) (c : Chan) (j : SlotIx) (f : Staging → Staging) :
    ((s.onStg c j f).chan c).badStore = (s.chan c).badStore := by simp [State.onStg]
@[simp] theorem State.onStg_chan_stalled (s : State) (c : Chan) (j : SlotIx) (f : Staging → Staging) :
    ((s.onStg c j f).chan c).stalled = (s.chan c).stalled := by simp [State.onStg]
@[simp] theorem State.onStg_pump (s : State) (c : Chan) (i : SlotIx) (f : Staging → Staging) (j : PumpIx) :
    (s.onStg c i f).pump c j = s.pump c j := by simp [State.onStg]
@[simp] theorem State.onStg_port (s : State) (c : Chan) (i : SlotIx) (f : Staging → Staging) (j : PortIx) :
    (s.onStg c i f).port c j = s.port c j := by simp [State.onStg]
@[simp] theorem State.onStg_polder (s : State) (c : Chan) (i : SlotIx) (f : Staging → Staging) (j : PolderIx) :
    (s.onStg c i f).polder c j = s.polder c j := by simp [State.onStg]

/-! ### onSlice -/

@[simp] theorem State.onSlice_slice (s : State) (c : Chan) (p : PumpIx) (f : Slice → Slice) :
    (s.onSlice c p f).slice c p = f (s.slice c p) := by
  simp [State.onSlice, State.slice]
@[simp] theorem State.onSlice_onSlice (s : State) (c : Chan) (p : PumpIx) (f g : Slice → Slice) :
    (s.onSlice c p f).onSlice c p g = s.onSlice c p fun x => g (f x) := by
  simp [State.onSlice]
@[simp] theorem State.onSlice_pending (s : State) (c : Chan) (p : PumpIx) (f : Slice → Slice) : (s.onSlice c p f).pending = s.pending := rfl
@[simp] theorem State.onSlice_timeNs (s : State) (c : Chan) (p : PumpIx) (f : Slice → Slice) : (s.onSlice c p f).timeNs = s.timeNs := rfl
@[simp] theorem State.onSlice_freeCtr (s : State) (c : Chan) (p : PumpIx) (f : Slice → Slice) : (s.onSlice c p f).freeCtr = s.freeCtr := rfl
@[simp] theorem State.onSlice_outputs (s : State) (c : Chan) (p : PumpIx) (f : Slice → Slice) : (s.onSlice c p f).outputs = s.outputs := rfl
@[simp] theorem State.onSlice_mc (s : State) (c : Chan) (p : PumpIx) (f : Slice → Slice) : (s.onSlice c p f).mc = s.mc := rfl
@[simp] theorem State.onSlice_chan_st (s : State) (c : Chan) (p : PumpIx) (f : Slice → Slice) :
    ((s.onSlice c p f).chan c).st = (s.chan c).st := by simp [State.onSlice]
@[simp] theorem State.onSlice_chan_slots (s : State) (c : Chan) (p : PumpIx) (f : Slice → Slice) :
    ((s.onSlice c p f).chan c).slots = (s.chan c).slots := by simp [State.onSlice]
@[simp] theorem State.onSlice_chan_polders (s : State) (c : Chan) (p : PumpIx) (f : Slice → Slice) :
    ((s.onSlice c p f).chan c).polders = (s.chan c).polders := by simp [State.onSlice]
@[simp] theorem State.onSlice_chan_wells (s : State) (c : Chan) (p : PumpIx) (f : Slice → Slice) :
    ((s.onSlice c p f).chan c).wells = (s.chan c).wells := by simp [State.onSlice]
@[simp] theorem State.onSlice_chan_set (s : State) (c : Chan) (p : PumpIx) (f : Slice → Slice) :
    ((s.onSlice c p f).chan c).set = (s.chan c).set := by simp [State.onSlice]
@[simp] theorem State.onSlice_chan_stSet (s : State) (c : Chan) (p : PumpIx) (f : Slice → Slice) :
    ((s.onSlice c p f).chan c).stSet = (s.chan c).stSet := by simp [State.onSlice]
@[simp] theorem State.onSlice_chan_cis (s : State) (c : Chan) (p : PumpIx) (f : Slice → Slice) :
    ((s.onSlice c p f).chan c).cis = (s.chan c).cis := by simp [State.onSlice]
@[simp] theorem State.onSlice_chan_hbm (s : State) (c : Chan) (p : PumpIx) (f : Slice → Slice) :
    ((s.onSlice c p f).chan c).hbm = (s.chan c).hbm := by simp [State.onSlice]
@[simp] theorem State.onSlice_chan_hbmUpset (s : State) (c : Chan) (p : PumpIx) (f : Slice → Slice) :
    ((s.onSlice c p f).chan c).hbmUpset = (s.chan c).hbmUpset := by simp [State.onSlice]
@[simp] theorem State.onSlice_chan_hbmDead (s : State) (c : Chan) (p : PumpIx) (f : Slice → Slice) :
    ((s.onSlice c p f).chan c).hbmDead = (s.chan c).hbmDead := by simp [State.onSlice]
@[simp] theorem State.onSlice_chan_stack (s : State) (c : Chan) (p : PumpIx) (f : Slice → Slice) :
    ((s.onSlice c p f).chan c).stack = (s.chan c).stack := by simp [State.onSlice]
@[simp] theorem State.onSlice_chan_held (s : State) (c : Chan) (p : PumpIx) (f : Slice → Slice) :
    ((s.onSlice c p f).chan c).held = (s.chan c).held := by simp [State.onSlice]
@[simp] theorem State.onSlice_chan_atoms (s : State) (c : Chan) (p : PumpIx) (f : Slice → Slice) :
    ((s.onSlice c p f).chan c).atoms = (s.chan c).atoms := by simp [State.onSlice]
@[simp] theorem State.onSlice_chan_decls (s : State) (c : Chan) (p : PumpIx) (f : Slice → Slice) :
    ((s.onSlice c p f).chan c).decls = (s.chan c).decls := by simp [State.onSlice]
@[simp] theorem State.onSlice_chan_fills (s : State) (c : Chan) (p : PumpIx) (f : Slice → Slice) :
    ((s.onSlice c p f).chan c).fills = (s.chan c).fills := by simp [State.onSlice]
@[simp] theorem State.onSlice_chan_ports (s : State) (c : Chan) (p : PumpIx) (f : Slice → Slice) :
    ((s.onSlice c p f).chan c).ports = (s.chan c).ports := by simp [State.onSlice]
@[simp] theorem State.onSlice_chan_router (s : State) (c : Chan) (p : PumpIx) (f : Slice → Slice) :
    ((s.onSlice c p f).chan c).router = (s.chan c).router := by simp [State.onSlice]
@[simp] theorem State.onSlice_chan_arbs (s : State) (c : Chan) (p : PumpIx) (f : Slice → Slice) :
    ((s.onSlice c p f).chan c).arbs = (s.chan c).arbs := by simp [State.onSlice]
@[simp] theorem State.onSlice_chan_reg (s : State) (c : Chan) (p : PumpIx) (f : Slice → Slice) :
    ((s.onSlice c p f).chan c).reg = (s.chan c).reg := by simp [State.onSlice]
@[simp] theorem State.onSlice_chan_pwr (s : State) (c : Chan) (p : PumpIx) (f : Slice → Slice) :
    ((s.onSlice c p f).chan c).pwr = (s.chan c).pwr := by simp [State.onSlice]
@[simp] theorem State.onSlice_chan_thm (s : State) (c : Chan) (p : PumpIx) (f : Slice → Slice) :
    ((s.onSlice c p f).chan c).thm = (s.chan c).thm := by simp [State.onSlice]
@[simp] theorem State.onSlice_chan_bbx (s : State) (c : Chan) (p : PumpIx) (f : Slice → Slice) :
    ((s.onSlice c p f).chan c).bbx = (s.chan c).bbx := by simp [State.onSlice]
@[simp] theorem State.onSlice_chan_peekOff (s : State) (c : Chan) (p : PumpIx) (f : Slice → Slice) :
    ((s.onSlice c p f).chan c).peekOff = (s.chan c).peekOff := by simp [State.onSlice]
@[simp] theorem State.onSlice_chan_peekSlot (s : State) (c : Chan) (p : PumpIx) (f : Slice → Slice) :
    ((s.onSlice c p f).chan c).peekSlot = (s.chan c).peekSlot := by simp [State.onSlice]
@[simp] theorem State.onSlice_chan_claims (s : State) (c : Chan) (p : PumpIx) (f : Slice → Slice) :
    ((s.onSlice c p f).chan c).claims = (s.chan c).claims := by simp [State.onSlice]
@[simp] theorem State.onSlice_chan_badLanes (s : State) (c : Chan) (p : PumpIx) (f : Slice → Slice) :
    ((s.onSlice c p f).chan c).badLanes = (s.chan c).badLanes := by simp [State.onSlice]
@[simp] theorem State.onSlice_chan_badAdders (s : State) (c : Chan) (p : PumpIx) (f : Slice → Slice) :
    ((s.onSlice c p f).chan c).badAdders = (s.chan c).badAdders := by simp [State.onSlice]
@[simp] theorem State.onSlice_chan_badStore (s : State) (c : Chan) (p : PumpIx) (f : Slice → Slice) :
    ((s.onSlice c p f).chan c).badStore = (s.chan c).badStore := by simp [State.onSlice]
@[simp] theorem State.onSlice_chan_stalled (s : State) (c : Chan) (p : PumpIx) (f : Slice → Slice) :
    ((s.onSlice c p f).chan c).stalled = (s.chan c).stalled := by simp [State.onSlice]
@[simp] theorem State.onSlice_pump_x (s : State) (c : Chan) (p : PumpIx) (f : Slice → Slice) :
    ((s.onSlice c p f).pump c p).x = (s.pump c p).x := by simp [State.onSlice]
@[simp] theorem State.onSlice_pump_pc (s : State) (c : Chan) (p : PumpIx) (f : Slice → Slice) :
    ((s.onSlice c p f).pump c p).pc = (s.pump c p).pc := by simp [State.onSlice]
@[simp] theorem State.onSlice_pump_entry (s : State) (c : Chan) (p : PumpIx) (f : Slice → Slice) :
    ((s.onSlice c p f).pump c p).entry = (s.pump c p).entry := by simp [State.onSlice]
@[simp] theorem State.onSlice_pump_run (s : State) (c : Chan) (p : PumpIx) (f : Slice → Slice) :
    ((s.onSlice c p f).pump c p).run = (s.pump c p).run := by simp [State.onSlice]
@[simp] theorem State.onSlice_pump_srHandle (s : State) (c : Chan) (p : PumpIx) (f : Slice → Slice) :
    ((s.onSlice c p f).pump c p).srHandle = (s.pump c p).srHandle := by simp [State.onSlice]
@[simp] theorem State.onSlice_pump_srBase (s : State) (c : Chan) (p : PumpIx) (f : Slice → Slice) :
    ((s.onSlice c p f).pump c p).srBase = (s.pump c p).srBase := by simp [State.onSlice]
@[simp] theorem State.onSlice_pump_prog (s : State) (c : Chan) (p : PumpIx) (f : Slice → Slice) :
    ((s.onSlice c p f).pump c p).prog = (s.pump c p).prog := by simp [State.onSlice]
@[simp] theorem State.onSlice_pump_dmem (s : State) (c : Chan) (p : PumpIx) (f : Slice → Slice) :
    ((s.onSlice c p f).pump c p).dmem = (s.pump c p).dmem := by simp [State.onSlice]
@[simp] theorem State.onSlice_pump_todo (s : State) (c : Chan) (p : PumpIx) (f : Slice → Slice) :
    ((s.onSlice c p f).pump c p).todo = (s.pump c p).todo := by simp [State.onSlice]
@[simp] theorem State.onSlice_pump_queued (s : State) (c : Chan) (p : PumpIx) (f : Slice → Slice) :
    ((s.onSlice c p f).pump c p).queued = (s.pump c p).queued := by simp [State.onSlice]
@[simp] theorem State.onSlice_pump_running (s : State) (c : Chan) (p : PumpIx) (f : Slice → Slice) :
    ((s.onSlice c p f).pump c p).running = (s.pump c p).running := by simp [State.onSlice]
@[simp] theorem State.onSlice_pump_bq (s : State) (c : Chan) (p : PumpIx) (f : Slice → Slice) :
    ((s.onSlice c p f).pump c p).bq = (s.pump c p).bq := by simp [State.onSlice]
@[simp] theorem State.onSlice_pump_lane (s : State) (c : Chan) (p : PumpIx) (f : Slice → Slice) :
    ((s.onSlice c p f).pump c p).lane = (s.pump c p).lane := by simp [State.onSlice]
@[simp] theorem State.onSlice_pump_acc (s : State) (c : Chan) (p : PumpIx) (f : Slice → Slice) :
    ((s.onSlice c p f).pump c p).acc = (s.pump c p).acc := by simp [State.onSlice]
@[simp] theorem State.onSlice_pump_xfers (s : State) (c : Chan) (p : PumpIx) (f : Slice → Slice) :
    ((s.onSlice c p f).pump c p).xfers = (s.pump c p).xfers := by simp [State.onSlice]
@[simp] theorem State.onSlice_pump_te (s : State) (c : Chan) (p : PumpIx) (f : Slice → Slice) :
    ((s.onSlice c p f).pump c p).te = (s.pump c p).te := by simp [State.onSlice]
@[simp] theorem State.onSlice_pump_vch (s : State) (c : Chan) (p : PumpIx) (f : Slice → Slice) :
    ((s.onSlice c p f).pump c p).vch = (s.pump c p).vch := by simp [State.onSlice]
@[simp] theorem State.onSlice_pump_index (s : State) (c : Chan) (p : PumpIx) (f : Slice → Slice) :
    ((s.onSlice c p f).pump c p).index = (s.pump c p).index := by simp [State.onSlice]
@[simp] theorem State.onSlice_pump_reread (s : State) (c : Chan) (p : PumpIx) (f : Slice → Slice) :
    ((s.onSlice c p f).pump c p).reread = (s.pump c p).reread := by simp [State.onSlice]

/-! ### onCis -/

@[simp] theorem State.onCis_chan_cis (s : State) (c : Chan) (f : Cistern → Cistern) :
    ((s.onCis c f).chan c).cis = f (s.chan c).cis := by
  simp [State.onCis]
@[simp] theorem State.onCis_onCis (s : State) (c : Chan) (f g : Cistern → Cistern) :
    (s.onCis c f).onCis c g = s.onCis c fun x => g (f x) := by
  simp [State.onCis]
@[simp] theorem State.onCis_pending (s : State) (c : Chan) (f : Cistern → Cistern) : (s.onCis c f).pending = s.pending := rfl
@[simp] theorem State.onCis_timeNs (s : State) (c : Chan) (f : Cistern → Cistern) : (s.onCis c f).timeNs = s.timeNs := rfl
@[simp] theorem State.onCis_freeCtr (s : State) (c : Chan) (f : Cistern → Cistern) : (s.onCis c f).freeCtr = s.freeCtr := rfl
@[simp] theorem State.onCis_outputs (s : State) (c : Chan) (f : Cistern → Cistern) : (s.onCis c f).outputs = s.outputs := rfl
@[simp] theorem State.onCis_mc (s : State) (c : Chan) (f : Cistern → Cistern) : (s.onCis c f).mc = s.mc := rfl
@[simp] theorem State.onCis_chan_st (s : State) (c : Chan) (f : Cistern → Cistern) :
    ((s.onCis c f).chan c).st = (s.chan c).st := by simp [State.onCis]
@[simp] theorem State.onCis_chan_slots (s : State) (c : Chan) (f : Cistern → Cistern) :
    ((s.onCis c f).chan c).slots = (s.chan c).slots := by simp [State.onCis]
@[simp] theorem State.onCis_chan_polders (s : State) (c : Chan) (f : Cistern → Cistern) :
    ((s.onCis c f).chan c).polders = (s.chan c).polders := by simp [State.onCis]
@[simp] theorem State.onCis_chan_pumps (s : State) (c : Chan) (f : Cistern → Cistern) :
    ((s.onCis c f).chan c).pumps = (s.chan c).pumps := by simp [State.onCis]
@[simp] theorem State.onCis_chan_wells (s : State) (c : Chan) (f : Cistern → Cistern) :
    ((s.onCis c f).chan c).wells = (s.chan c).wells := by simp [State.onCis]
@[simp] theorem State.onCis_chan_set (s : State) (c : Chan) (f : Cistern → Cistern) :
    ((s.onCis c f).chan c).set = (s.chan c).set := by simp [State.onCis]
@[simp] theorem State.onCis_chan_stSet (s : State) (c : Chan) (f : Cistern → Cistern) :
    ((s.onCis c f).chan c).stSet = (s.chan c).stSet := by simp [State.onCis]
@[simp] theorem State.onCis_chan_hbm (s : State) (c : Chan) (f : Cistern → Cistern) :
    ((s.onCis c f).chan c).hbm = (s.chan c).hbm := by simp [State.onCis]
@[simp] theorem State.onCis_chan_hbmUpset (s : State) (c : Chan) (f : Cistern → Cistern) :
    ((s.onCis c f).chan c).hbmUpset = (s.chan c).hbmUpset := by simp [State.onCis]
@[simp] theorem State.onCis_chan_hbmDead (s : State) (c : Chan) (f : Cistern → Cistern) :
    ((s.onCis c f).chan c).hbmDead = (s.chan c).hbmDead := by simp [State.onCis]
@[simp] theorem State.onCis_chan_stack (s : State) (c : Chan) (f : Cistern → Cistern) :
    ((s.onCis c f).chan c).stack = (s.chan c).stack := by simp [State.onCis]
@[simp] theorem State.onCis_chan_held (s : State) (c : Chan) (f : Cistern → Cistern) :
    ((s.onCis c f).chan c).held = (s.chan c).held := by simp [State.onCis]
@[simp] theorem State.onCis_chan_atoms (s : State) (c : Chan) (f : Cistern → Cistern) :
    ((s.onCis c f).chan c).atoms = (s.chan c).atoms := by simp [State.onCis]
@[simp] theorem State.onCis_chan_decls (s : State) (c : Chan) (f : Cistern → Cistern) :
    ((s.onCis c f).chan c).decls = (s.chan c).decls := by simp [State.onCis]
@[simp] theorem State.onCis_chan_fills (s : State) (c : Chan) (f : Cistern → Cistern) :
    ((s.onCis c f).chan c).fills = (s.chan c).fills := by simp [State.onCis]
@[simp] theorem State.onCis_chan_ports (s : State) (c : Chan) (f : Cistern → Cistern) :
    ((s.onCis c f).chan c).ports = (s.chan c).ports := by simp [State.onCis]
@[simp] theorem State.onCis_chan_router (s : State) (c : Chan) (f : Cistern → Cistern) :
    ((s.onCis c f).chan c).router = (s.chan c).router := by simp [State.onCis]
@[simp] theorem State.onCis_chan_arbs (s : State) (c : Chan) (f : Cistern → Cistern) :
    ((s.onCis c f).chan c).arbs = (s.chan c).arbs := by simp [State.onCis]
@[simp] theorem State.onCis_chan_reg (s : State) (c : Chan) (f : Cistern → Cistern) :
    ((s.onCis c f).chan c).reg = (s.chan c).reg := by simp [State.onCis]
@[simp] theorem State.onCis_chan_pwr (s : State) (c : Chan) (f : Cistern → Cistern) :
    ((s.onCis c f).chan c).pwr = (s.chan c).pwr := by simp [State.onCis]
@[simp] theorem State.onCis_chan_thm (s : State) (c : Chan) (f : Cistern → Cistern) :
    ((s.onCis c f).chan c).thm = (s.chan c).thm := by simp [State.onCis]
@[simp] theorem State.onCis_chan_bbx (s : State) (c : Chan) (f : Cistern → Cistern) :
    ((s.onCis c f).chan c).bbx = (s.chan c).bbx := by simp [State.onCis]
@[simp] theorem State.onCis_chan_peekOff (s : State) (c : Chan) (f : Cistern → Cistern) :
    ((s.onCis c f).chan c).peekOff = (s.chan c).peekOff := by simp [State.onCis]
@[simp] theorem State.onCis_chan_peekSlot (s : State) (c : Chan) (f : Cistern → Cistern) :
    ((s.onCis c f).chan c).peekSlot = (s.chan c).peekSlot := by simp [State.onCis]
@[simp] theorem State.onCis_chan_claims (s : State) (c : Chan) (f : Cistern → Cistern) :
    ((s.onCis c f).chan c).claims = (s.chan c).claims := by simp [State.onCis]
@[simp] theorem State.onCis_chan_badLanes (s : State) (c : Chan) (f : Cistern → Cistern) :
    ((s.onCis c f).chan c).badLanes = (s.chan c).badLanes := by simp [State.onCis]
@[simp] theorem State.onCis_chan_badAdders (s : State) (c : Chan) (f : Cistern → Cistern) :
    ((s.onCis c f).chan c).badAdders = (s.chan c).badAdders := by simp [State.onCis]
@[simp] theorem State.onCis_chan_badStore (s : State) (c : Chan) (f : Cistern → Cistern) :
    ((s.onCis c f).chan c).badStore = (s.chan c).badStore := by simp [State.onCis]
@[simp] theorem State.onCis_chan_stalled (s : State) (c : Chan) (f : Cistern → Cistern) :
    ((s.onCis c f).chan c).stalled = (s.chan c).stalled := by simp [State.onCis]
@[simp] theorem State.onCis_pump (s : State) (c : Chan) (f : Cistern → Cistern) (j : PumpIx) :
    (s.onCis c f).pump c j = s.pump c j := by simp [State.pump]
@[simp] theorem State.onCis_slot (s : State) (c : Chan) (f : Cistern → Cistern) (j : SlotIx) :
    (s.onCis c f).slot c j = s.slot c j := by simp [State.slot]
@[simp] theorem State.onCis_port (s : State) (c : Chan) (f : Cistern → Cistern) (j : PortIx) :
    (s.onCis c f).port c j = s.port c j := by simp [State.port]
@[simp] theorem State.onCis_polder (s : State) (c : Chan) (f : Cistern → Cistern) (j : PolderIx) :
    (s.onCis c f).polder c j = s.polder c j := by simp [State.polder]

/-! ### onPwr -/

@[simp] theorem State.onPwr_chan_pwr (s : State) (c : Chan) (f : Power → Power) :
    ((s.onPwr c f).chan c).pwr = f (s.chan c).pwr := by
  simp [State.onPwr]
@[simp] theorem State.onPwr_onPwr (s : State) (c : Chan) (f g : Power → Power) :
    (s.onPwr c f).onPwr c g = s.onPwr c fun x => g (f x) := by
  simp [State.onPwr]
@[simp] theorem State.onPwr_pending (s : State) (c : Chan) (f : Power → Power) : (s.onPwr c f).pending = s.pending := rfl
@[simp] theorem State.onPwr_timeNs (s : State) (c : Chan) (f : Power → Power) : (s.onPwr c f).timeNs = s.timeNs := rfl
@[simp] theorem State.onPwr_freeCtr (s : State) (c : Chan) (f : Power → Power) : (s.onPwr c f).freeCtr = s.freeCtr := rfl
@[simp] theorem State.onPwr_outputs (s : State) (c : Chan) (f : Power → Power) : (s.onPwr c f).outputs = s.outputs := rfl
@[simp] theorem State.onPwr_mc (s : State) (c : Chan) (f : Power → Power) : (s.onPwr c f).mc = s.mc := rfl
@[simp] theorem State.onPwr_chan_st (s : State) (c : Chan) (f : Power → Power) :
    ((s.onPwr c f).chan c).st = (s.chan c).st := by simp [State.onPwr]
@[simp] theorem State.onPwr_chan_slots (s : State) (c : Chan) (f : Power → Power) :
    ((s.onPwr c f).chan c).slots = (s.chan c).slots := by simp [State.onPwr]
@[simp] theorem State.onPwr_chan_polders (s : State) (c : Chan) (f : Power → Power) :
    ((s.onPwr c f).chan c).polders = (s.chan c).polders := by simp [State.onPwr]
@[simp] theorem State.onPwr_chan_pumps (s : State) (c : Chan) (f : Power → Power) :
    ((s.onPwr c f).chan c).pumps = (s.chan c).pumps := by simp [State.onPwr]
@[simp] theorem State.onPwr_chan_wells (s : State) (c : Chan) (f : Power → Power) :
    ((s.onPwr c f).chan c).wells = (s.chan c).wells := by simp [State.onPwr]
@[simp] theorem State.onPwr_chan_set (s : State) (c : Chan) (f : Power → Power) :
    ((s.onPwr c f).chan c).set = (s.chan c).set := by simp [State.onPwr]
@[simp] theorem State.onPwr_chan_stSet (s : State) (c : Chan) (f : Power → Power) :
    ((s.onPwr c f).chan c).stSet = (s.chan c).stSet := by simp [State.onPwr]
@[simp] theorem State.onPwr_chan_cis (s : State) (c : Chan) (f : Power → Power) :
    ((s.onPwr c f).chan c).cis = (s.chan c).cis := by simp [State.onPwr]
@[simp] theorem State.onPwr_chan_hbm (s : State) (c : Chan) (f : Power → Power) :
    ((s.onPwr c f).chan c).hbm = (s.chan c).hbm := by simp [State.onPwr]
@[simp] theorem State.onPwr_chan_hbmUpset (s : State) (c : Chan) (f : Power → Power) :
    ((s.onPwr c f).chan c).hbmUpset = (s.chan c).hbmUpset := by simp [State.onPwr]
@[simp] theorem State.onPwr_chan_hbmDead (s : State) (c : Chan) (f : Power → Power) :
    ((s.onPwr c f).chan c).hbmDead = (s.chan c).hbmDead := by simp [State.onPwr]
@[simp] theorem State.onPwr_chan_stack (s : State) (c : Chan) (f : Power → Power) :
    ((s.onPwr c f).chan c).stack = (s.chan c).stack := by simp [State.onPwr]
@[simp] theorem State.onPwr_chan_held (s : State) (c : Chan) (f : Power → Power) :
    ((s.onPwr c f).chan c).held = (s.chan c).held := by simp [State.onPwr]
@[simp] theorem State.onPwr_chan_atoms (s : State) (c : Chan) (f : Power → Power) :
    ((s.onPwr c f).chan c).atoms = (s.chan c).atoms := by simp [State.onPwr]
@[simp] theorem State.onPwr_chan_decls (s : State) (c : Chan) (f : Power → Power) :
    ((s.onPwr c f).chan c).decls = (s.chan c).decls := by simp [State.onPwr]
@[simp] theorem State.onPwr_chan_fills (s : State) (c : Chan) (f : Power → Power) :
    ((s.onPwr c f).chan c).fills = (s.chan c).fills := by simp [State.onPwr]
@[simp] theorem State.onPwr_chan_ports (s : State) (c : Chan) (f : Power → Power) :
    ((s.onPwr c f).chan c).ports = (s.chan c).ports := by simp [State.onPwr]
@[simp] theorem State.onPwr_chan_router (s : State) (c : Chan) (f : Power → Power) :
    ((s.onPwr c f).chan c).router = (s.chan c).router := by simp [State.onPwr]
@[simp] theorem State.onPwr_chan_arbs (s : State) (c : Chan) (f : Power → Power) :
    ((s.onPwr c f).chan c).arbs = (s.chan c).arbs := by simp [State.onPwr]
@[simp] theorem State.onPwr_chan_reg (s : State) (c : Chan) (f : Power → Power) :
    ((s.onPwr c f).chan c).reg = (s.chan c).reg := by simp [State.onPwr]
@[simp] theorem State.onPwr_chan_thm (s : State) (c : Chan) (f : Power → Power) :
    ((s.onPwr c f).chan c).thm = (s.chan c).thm := by simp [State.onPwr]
@[simp] theorem State.onPwr_chan_bbx (s : State) (c : Chan) (f : Power → Power) :
    ((s.onPwr c f).chan c).bbx = (s.chan c).bbx := by simp [State.onPwr]
@[simp] theorem State.onPwr_chan_peekOff (s : State) (c : Chan) (f : Power → Power) :
    ((s.onPwr c f).chan c).peekOff = (s.chan c).peekOff := by simp [State.onPwr]
@[simp] theorem State.onPwr_chan_peekSlot (s : State) (c : Chan) (f : Power → Power) :
    ((s.onPwr c f).chan c).peekSlot = (s.chan c).peekSlot := by simp [State.onPwr]
@[simp] theorem State.onPwr_chan_claims (s : State) (c : Chan) (f : Power → Power) :
    ((s.onPwr c f).chan c).claims = (s.chan c).claims := by simp [State.onPwr]
@[simp] theorem State.onPwr_chan_badLanes (s : State) (c : Chan) (f : Power → Power) :
    ((s.onPwr c f).chan c).badLanes = (s.chan c).badLanes := by simp [State.onPwr]
@[simp] theorem State.onPwr_chan_badAdders (s : State) (c : Chan) (f : Power → Power) :
    ((s.onPwr c f).chan c).badAdders = (s.chan c).badAdders := by simp [State.onPwr]
@[simp] theorem State.onPwr_chan_badStore (s : State) (c : Chan) (f : Power → Power) :
    ((s.onPwr c f).chan c).badStore = (s.chan c).badStore := by simp [State.onPwr]
@[simp] theorem State.onPwr_chan_stalled (s : State) (c : Chan) (f : Power → Power) :
    ((s.onPwr c f).chan c).stalled = (s.chan c).stalled := by simp [State.onPwr]
@[simp] theorem State.onPwr_pump (s : State) (c : Chan) (f : Power → Power) (j : PumpIx) :
    (s.onPwr c f).pump c j = s.pump c j := by simp [State.pump]
@[simp] theorem State.onPwr_slot (s : State) (c : Chan) (f : Power → Power) (j : SlotIx) :
    (s.onPwr c f).slot c j = s.slot c j := by simp [State.slot]
@[simp] theorem State.onPwr_port (s : State) (c : Chan) (f : Power → Power) (j : PortIx) :
    (s.onPwr c f).port c j = s.port c j := by simp [State.port]
@[simp] theorem State.onPwr_polder (s : State) (c : Chan) (f : Power → Power) (j : PolderIx) :
    (s.onPwr c f).polder c j = s.polder c j := by simp [State.polder]

/-! ### onSt -/

@[simp] theorem State.onSt_chan_st (s : State) (c : Chan) (f : ChStatus → ChStatus) :
    ((s.onSt c f).chan c).st = f (s.chan c).st := by
  simp [State.onSt]
@[simp] theorem State.onSt_onSt (s : State) (c : Chan) (f g : ChStatus → ChStatus) :
    (s.onSt c f).onSt c g = s.onSt c fun x => g (f x) := by
  simp [State.onSt]
@[simp] theorem State.onSt_pending (s : State) (c : Chan) (f : ChStatus → ChStatus) : (s.onSt c f).pending = s.pending := rfl
@[simp] theorem State.onSt_timeNs (s : State) (c : Chan) (f : ChStatus → ChStatus) : (s.onSt c f).timeNs = s.timeNs := rfl
@[simp] theorem State.onSt_freeCtr (s : State) (c : Chan) (f : ChStatus → ChStatus) : (s.onSt c f).freeCtr = s.freeCtr := rfl
@[simp] theorem State.onSt_outputs (s : State) (c : Chan) (f : ChStatus → ChStatus) : (s.onSt c f).outputs = s.outputs := rfl
@[simp] theorem State.onSt_mc (s : State) (c : Chan) (f : ChStatus → ChStatus) : (s.onSt c f).mc = s.mc := rfl
@[simp] theorem State.onSt_chan_slots (s : State) (c : Chan) (f : ChStatus → ChStatus) :
    ((s.onSt c f).chan c).slots = (s.chan c).slots := by simp [State.onSt]
@[simp] theorem State.onSt_chan_polders (s : State) (c : Chan) (f : ChStatus → ChStatus) :
    ((s.onSt c f).chan c).polders = (s.chan c).polders := by simp [State.onSt]
@[simp] theorem State.onSt_chan_pumps (s : State) (c : Chan) (f : ChStatus → ChStatus) :
    ((s.onSt c f).chan c).pumps = (s.chan c).pumps := by simp [State.onSt]
@[simp] theorem State.onSt_chan_wells (s : State) (c : Chan) (f : ChStatus → ChStatus) :
    ((s.onSt c f).chan c).wells = (s.chan c).wells := by simp [State.onSt]
@[simp] theorem State.onSt_chan_set (s : State) (c : Chan) (f : ChStatus → ChStatus) :
    ((s.onSt c f).chan c).set = (s.chan c).set := by simp [State.onSt]
@[simp] theorem State.onSt_chan_stSet (s : State) (c : Chan) (f : ChStatus → ChStatus) :
    ((s.onSt c f).chan c).stSet = (s.chan c).stSet := by simp [State.onSt]
@[simp] theorem State.onSt_chan_cis (s : State) (c : Chan) (f : ChStatus → ChStatus) :
    ((s.onSt c f).chan c).cis = (s.chan c).cis := by simp [State.onSt]
@[simp] theorem State.onSt_chan_hbm (s : State) (c : Chan) (f : ChStatus → ChStatus) :
    ((s.onSt c f).chan c).hbm = (s.chan c).hbm := by simp [State.onSt]
@[simp] theorem State.onSt_chan_hbmUpset (s : State) (c : Chan) (f : ChStatus → ChStatus) :
    ((s.onSt c f).chan c).hbmUpset = (s.chan c).hbmUpset := by simp [State.onSt]
@[simp] theorem State.onSt_chan_hbmDead (s : State) (c : Chan) (f : ChStatus → ChStatus) :
    ((s.onSt c f).chan c).hbmDead = (s.chan c).hbmDead := by simp [State.onSt]
@[simp] theorem State.onSt_chan_stack (s : State) (c : Chan) (f : ChStatus → ChStatus) :
    ((s.onSt c f).chan c).stack = (s.chan c).stack := by simp [State.onSt]
@[simp] theorem State.onSt_chan_held (s : State) (c : Chan) (f : ChStatus → ChStatus) :
    ((s.onSt c f).chan c).held = (s.chan c).held := by simp [State.onSt]
@[simp] theorem State.onSt_chan_atoms (s : State) (c : Chan) (f : ChStatus → ChStatus) :
    ((s.onSt c f).chan c).atoms = (s.chan c).atoms := by simp [State.onSt]
@[simp] theorem State.onSt_chan_decls (s : State) (c : Chan) (f : ChStatus → ChStatus) :
    ((s.onSt c f).chan c).decls = (s.chan c).decls := by simp [State.onSt]
@[simp] theorem State.onSt_chan_fills (s : State) (c : Chan) (f : ChStatus → ChStatus) :
    ((s.onSt c f).chan c).fills = (s.chan c).fills := by simp [State.onSt]
@[simp] theorem State.onSt_chan_ports (s : State) (c : Chan) (f : ChStatus → ChStatus) :
    ((s.onSt c f).chan c).ports = (s.chan c).ports := by simp [State.onSt]
@[simp] theorem State.onSt_chan_router (s : State) (c : Chan) (f : ChStatus → ChStatus) :
    ((s.onSt c f).chan c).router = (s.chan c).router := by simp [State.onSt]
@[simp] theorem State.onSt_chan_arbs (s : State) (c : Chan) (f : ChStatus → ChStatus) :
    ((s.onSt c f).chan c).arbs = (s.chan c).arbs := by simp [State.onSt]
@[simp] theorem State.onSt_chan_reg (s : State) (c : Chan) (f : ChStatus → ChStatus) :
    ((s.onSt c f).chan c).reg = (s.chan c).reg := by simp [State.onSt]
@[simp] theorem State.onSt_chan_pwr (s : State) (c : Chan) (f : ChStatus → ChStatus) :
    ((s.onSt c f).chan c).pwr = (s.chan c).pwr := by simp [State.onSt]
@[simp] theorem State.onSt_chan_thm (s : State) (c : Chan) (f : ChStatus → ChStatus) :
    ((s.onSt c f).chan c).thm = (s.chan c).thm := by simp [State.onSt]
@[simp] theorem State.onSt_chan_bbx (s : State) (c : Chan) (f : ChStatus → ChStatus) :
    ((s.onSt c f).chan c).bbx = (s.chan c).bbx := by simp [State.onSt]
@[simp] theorem State.onSt_chan_peekOff (s : State) (c : Chan) (f : ChStatus → ChStatus) :
    ((s.onSt c f).chan c).peekOff = (s.chan c).peekOff := by simp [State.onSt]
@[simp] theorem State.onSt_chan_peekSlot (s : State) (c : Chan) (f : ChStatus → ChStatus) :
    ((s.onSt c f).chan c).peekSlot = (s.chan c).peekSlot := by simp [State.onSt]
@[simp] theorem State.onSt_chan_claims (s : State) (c : Chan) (f : ChStatus → ChStatus) :
    ((s.onSt c f).chan c).claims = (s.chan c).claims := by simp [State.onSt]
@[simp] theorem State.onSt_chan_badLanes (s : State) (c : Chan) (f : ChStatus → ChStatus) :
    ((s.onSt c f).chan c).badLanes = (s.chan c).badLanes := by simp [State.onSt]
@[simp] theorem State.onSt_chan_badAdders (s : State) (c : Chan) (f : ChStatus → ChStatus) :
    ((s.onSt c f).chan c).badAdders = (s.chan c).badAdders := by simp [State.onSt]
@[simp] theorem State.onSt_chan_badStore (s : State) (c : Chan) (f : ChStatus → ChStatus) :
    ((s.onSt c f).chan c).badStore = (s.chan c).badStore := by simp [State.onSt]
@[simp] theorem State.onSt_chan_stalled (s : State) (c : Chan) (f : ChStatus → ChStatus) :
    ((s.onSt c f).chan c).stalled = (s.chan c).stalled := by simp [State.onSt]
@[simp] theorem State.onSt_pump (s : State) (c : Chan) (f : ChStatus → ChStatus) (j : PumpIx) :
    (s.onSt c f).pump c j = s.pump c j := by simp [State.pump]
@[simp] theorem State.onSt_slot (s : State) (c : Chan) (f : ChStatus → ChStatus) (j : SlotIx) :
    (s.onSt c f).slot c j = s.slot c j := by simp [State.slot]
@[simp] theorem State.onSt_port (s : State) (c : Chan) (f : ChStatus → ChStatus) (j : PortIx) :
    (s.onSt c f).port c j = s.port c j := by simp [State.port]
@[simp] theorem State.onSt_polder (s : State) (c : Chan) (f : ChStatus → ChStatus) (j : PolderIx) :
    (s.onSt c f).polder c j = s.polder c j := by simp [State.polder]

/-! ### Gnover, outputs, time -/

@[simp] theorem State.onMc_pending (s : State) (f : Gnover → Gnover) : (s.onMc f).pending = s.pending := rfl
@[simp] theorem State.onMc_timeNs (s : State) (f : Gnover → Gnover) : (s.onMc f).timeNs = s.timeNs := rfl
@[simp] theorem State.onMc_freeCtr (s : State) (f : Gnover → Gnover) : (s.onMc f).freeCtr = s.freeCtr := rfl
@[simp] theorem State.onMc_outputs (s : State) (f : Gnover → Gnover) : (s.onMc f).outputs = s.outputs := rfl
@[simp] theorem State.onMc_ch (s : State) (f : Gnover → Gnover) : (s.onMc f).ch = s.ch := rfl
@[simp] theorem State.onMc_chan (s : State) (f : Gnover → Gnover) (c : Chan) : (s.onMc f).chan c = s.chan c := rfl
@[simp] theorem State.onMc_pump (s : State) (f : Gnover → Gnover) (c : Chan) (i : PumpIx) : (s.onMc f).pump c i = s.pump c i := rfl
@[simp] theorem State.onMc_slot (s : State) (f : Gnover → Gnover) (c : Chan) (i : SlotIx) : (s.onMc f).slot c i = s.slot c i := rfl
@[simp] theorem State.onMc_port (s : State) (f : Gnover → Gnover) (c : Chan) (i : PortIx) : (s.onMc f).port c i = s.port c i := rfl
@[simp] theorem State.onMc_polder (s : State) (f : Gnover → Gnover) (c : Chan) (i : PolderIx) : (s.onMc f).polder c i = s.polder c i := rfl
@[simp] theorem State.onMc_slice (s : State) (f : Gnover → Gnover) (c : Chan) (i : PumpIx) : (s.onMc f).slice c i = s.slice c i := rfl
@[simp] theorem State.emit_pending (s : State) (o : Output) : (s.emit o).pending = s.pending := rfl
@[simp] theorem State.emit_timeNs (s : State) (o : Output) : (s.emit o).timeNs = s.timeNs := rfl
@[simp] theorem State.emit_freeCtr (s : State) (o : Output) : (s.emit o).freeCtr = s.freeCtr := rfl
@[simp] theorem State.emit_mc (s : State) (o : Output) : (s.emit o).mc = s.mc := rfl
@[simp] theorem State.emit_ch (s : State) (o : Output) : (s.emit o).ch = s.ch := rfl
@[simp] theorem State.emit_chan (s : State) (o : Output) (c : Chan) : (s.emit o).chan c = s.chan c := rfl
@[simp] theorem State.emit_pump (s : State) (o : Output) (c : Chan) (i : PumpIx) : (s.emit o).pump c i = s.pump c i := rfl
@[simp] theorem State.emit_slot (s : State) (o : Output) (c : Chan) (i : SlotIx) : (s.emit o).slot c i = s.slot c i := rfl
@[simp] theorem State.emit_port (s : State) (o : Output) (c : Chan) (i : PortIx) : (s.emit o).port c i = s.port c i := rfl
@[simp] theorem State.emit_polder (s : State) (o : Output) (c : Chan) (i : PolderIx) : (s.emit o).polder c i = s.polder c i := rfl
@[simp] theorem State.emit_slice (s : State) (o : Output) (c : Chan) (i : PumpIx) : (s.emit o).slice c i = s.slice c i := rfl
@[simp] theorem State.until_pending (s : State) (ns : Nat) : (s.until ns).pending = s.pending := rfl
@[simp] theorem State.until_freeCtr (s : State) (ns : Nat) : (s.until ns).freeCtr = s.freeCtr := rfl
@[simp] theorem State.until_outputs (s : State) (ns : Nat) : (s.until ns).outputs = s.outputs := rfl
@[simp] theorem State.until_mc (s : State) (ns : Nat) : (s.until ns).mc = s.mc := rfl
@[simp] theorem State.until_ch (s : State) (ns : Nat) : (s.until ns).ch = s.ch := rfl
@[simp] theorem State.until_chan (s : State) (ns : Nat) (c : Chan) : (s.until ns).chan c = s.chan c := rfl
@[simp] theorem State.until_pump (s : State) (ns : Nat) (c : Chan) (i : PumpIx) : (s.until ns).pump c i = s.pump c i := rfl
@[simp] theorem State.until_slot (s : State) (ns : Nat) (c : Chan) (i : SlotIx) : (s.until ns).slot c i = s.slot c i := rfl
@[simp] theorem State.until_port (s : State) (ns : Nat) (c : Chan) (i : PortIx) : (s.until ns).port c i = s.port c i := rfl
@[simp] theorem State.until_polder (s : State) (ns : Nat) (c : Chan) (i : PolderIx) : (s.until ns).polder c i = s.polder c i := rfl
@[simp] theorem State.until_slice (s : State) (ns : Nat) (c : Chan) (i : PumpIx) : (s.until ns).slice c i = s.slice c i := rfl
@[simp] theorem State.onMc_mc (s : State) (f : Gnover → Gnover) : (s.onMc f).mc = f s.mc := rfl
@[simp] theorem State.onMc_onMc (s : State) (f g : Gnover → Gnover) : (s.onMc f).onMc g = s.onMc fun m => g (f m) := rfl
@[simp] theorem State.emit_outputs (s : State) (o : Output) : (s.emit o).outputs = s.outputs ++ [o] := rfl
@[simp] theorem State.until_timeNs (s : State) (ns : Nat) : (s.until ns).timeNs = max s.timeNs ns := rfl

end Sys2Proof.Machine
end

