-- ==== Sys2Proof/Laws/Pumps.lean ====
section
/-!
SUPPORT. What the shared operations of a pump do where nothing is damaged (R66): the checks change nothing, a word of the program acts,
a thread-engine instruction issues; and what each update of the thread engine leaves.
-/

namespace Sys2Proof.Machine

/-! ### The thread engine's updates -/

@[simp] theorem State.onTe_te (s : State) (c : Chan) (p : PumpIx) (f : Te → Te) : ((s.onTe c p f).pump c p).te = f (s.pump c p).te := by
  simp [State.onTe]

@[simp] theorem State.onTe_onTe (s : State) (c : Chan) (p : PumpIx) (f g : Te → Te) :
    (s.onTe c p f).onTe c p g = s.onTe c p fun t => g (f t) := by
  simp [State.onTe]

@[simp] theorem State.onTe_slice (s : State) (c : Chan) (p : PumpIx) (f : Te → Te) : ((s.onTe c p f).slice c p) = s.slice c p := by
  simp [State.onTe, State.slice]

@[simp] theorem State.onGroup_group (s : State) (c : Chan) (p : PumpIx) (g : GSlot) (f : Group → Group) :
    (s.onGroup c p g f).group c p g = (s.group c p g).map f := by
  simp [State.onGroup, State.group]

@[simp] theorem State.onGroup_onGroup (s : State) (c : Chan) (p : PumpIx) (g : GSlot) (f h : Group → Group) :
    (s.onGroup c p g f).onGroup c p g h = s.onGroup c p g fun u => h (f u) := by
  simp only [State.onGroup, State.onTe_onTe, upd_upd, Option.map_map]
  rfl

@[simp] theorem State.onGroup_slice (s : State) (c : Chan) (p : PumpIx) (g : GSlot) (f : Group → Group) :
    (s.onGroup c p g f).slice c p = s.slice c p := by
  simp [State.onGroup]

/-! ### Checks of sound memories (R66) -/

/-- A sound row is read as it stands. -/
theorem State.checkRow_sound (s : State) (c : Chan) (p : PumpIx) (m : PumpMem) (row : Nat)
    (h : ((s.pump c p).ups m).readD 0 row = 0) : s.checkRow c p m row = s := by
  unfold State.checkRow
  exact if_pos h

/-- A memory without damage is read as it stands. -/
theorem State.checkRows_sound (s : State) (c : Chan) (p : PumpIx) (m : PumpMem) (lo hi : Nat)
    (h : (s.pump c p).ups m = []) : s.checkRows c p m lo hi = s := by
  simp [State.checkRows, h, SMap.below, SMap.keys, State.each]

/-- A word of the program acts where the controller stands at it and its row is sound. -/
theorem State.atWord_acts (s : State) (c : Chan) (p : PumpIx) (w : BitVec 64) (act : State → State) (h : AtWord s c p w) :
    s.atWord c p w act = .next (act s) := by
  have hs : s.checkRow c p .program ((s.pump c p).pc / 4) = s := s.checkRow_sound c p .program _ h.2
  simp [State.atWord, hs, h.1]

/-- A word where the controller does not stand changes nothing. -/
theorem State.atWord_elsewhere (s : State) (c : Chan) (p : PumpIx) (w : BitVec 64) (act : State → State)
    (h : (s.pump c p).at_ w = false) : s.atWord c p w act = .next s := by
  simp [State.atWord, h]

/-- A running controller is not stopped. -/
theorem Pump.at_running (q : Pump) (w : BitVec 64) (h : q.at_ w = true) : q.run = .running := by
  simp only [Pump.at_, Bool.and_eq_true, beq_iff_eq] at h
  exact h.1.1

theorem State.unlessStopped_running (s : State) (c : Chan) (p : PumpIx) (f : State → State) (h : (s.pump c p).run ≠ .stopped) :
    s.unlessStopped c p f = f s := by
  simp [State.unlessStopped, h]

/-- Sound data memory is read as it stands. -/
theorem State.withData_sound (s : State) (c : Chan) (p : PumpIx) (a n : Nat) (act : State → State)
    (h : s.checkRows c p .data (a / 32) ((a + n + 31) / 32) = s) (hr : (s.pump c p).run ≠ .stopped) : s.withData c p a n act = act s := by
  simp [State.withData, h, State.unlessStopped, hr]

/-! ### Issue -/

/-- A thread-engine instruction that can issue and waits for nothing acts, and the turn moves on. -/
theorem State.teIssueIf_acts (s : State) (c : Chan) (p : PumpIx) (g : GSlot) (srcs dsts : List TReg)
    (waits : State → Kernel → Group → Path → Bool) (act : State → Kernel → Group → Path → State) (k : Kernel) (x : Group) (y : Path)
    (h : TeReady s c p g k x y srcs) (hw : waits s k x y = false) :
    s.teIssueIf c p g srcs dsts waits act = (act (s.teStart c p g y dsts) k x y).teAfter c p g (srcs ++ dsts) := by
  obtain ⟨hk, hu, ha⟩ := h
  have hs : s.checkRow c p .code (y.pc / 4) = s := s.checkRow_sound c p .code _ hu
  have hr : (s.pump c p).run ≠ .stopped := by
    unfold State.teReady at hk
    dsimp only at hk
    split at hk
    · split at hk
      · split at hk
        · next hc => exact hc.2.2.2
        · cases hk
      · cases hk
    · cases hk
  simp [State.teIssueIf, hk, hs, State.unlessStopped, hr, ha, hw, State.teStart, State.teAfter]

/-- An instruction that only computes registers. -/
theorem teLane_acts (c : Chan) (p : PumpIx) (g : GSlot) (rd : TReg) (srcs : List TReg) (s : State) (f : Kernel → Group → Nat → BitVec 32)
    (k : Kernel) (x : Group) (y : Path) (h : TeReady s c p g k x y srcs) :
    teLane c p g rd srcs s f = .next (s.laneStep c p g y rd srcs fun l => f k x l) := by
  rw [teLane, State.teIssue, State.teIssueIf_acts s c p g srcs [rd] _ _ k x y h rfl]
  rfl

end Sys2Proof.Machine
end

