-- ==== Sys2Proof/Tests/Slice0.lean ====
section
/-!
SUPPORT. The model's own tests: an ill-formed operand for each check of WellFormed.lean, one step of commands on small states with
results worked out from the rules, and for each statement a state and operands that meet its hypotheses.
-/

namespace Sys2Proof.Tests
open Sys2Proof Sys2Proof.Machine

set_option Elab.async false

/-! ### Helpers -/

/-- The state a command answers. -/
def after (r : Res) : State := match r with | .next t => t | _ => State.reset

/-- The bits of an element-wise word (Table 3.5): FN, DST, SRC1, SRC2, N - 1, S. -/
def ewBits (fn dst src1 src2 n : Nat) (s : Bool) : BitVec 58 :=
  BitVec.ofNat 58 (fn * 2 ^ 47 + dst * 2 ^ 42 + src1 * 2 ^ 37 + src2 * 2 ^ 32 + n * 2 ^ 27 + s.toNat * 2 ^ 26)

/-- A flit header of channel address `src`, for channel 0 of module 0, at a sequence number. -/
def flit (src : ChanAddr) (seq : BitVec 12) : FlitHdr := ⟨0, 0, 0, seq, src, [], true⟩

/-! ### WellFormed: each check refuses an ill-formed operand -/

theorem test_wf_ew : (Instr.ewMov 0 0 (ewBits 1 0 0 0 0 false)).wf = false ∧ (Instr.ewAdd 0 0 (ewBits 0 0 0 0 0 false)).wf = false ∧
    (Instr.ewSub 0 0 (ewBits 3 0 0 0 0 false)).wf = false ∧ (Instr.ewMul 0 0 (ewBits 2 0 0 0 0 false)).wf = false ∧
    (Instr.ewMax 0 0 (ewBits 5 0 0 0 0 false)).wf = false ∧ (Instr.ewMin 0 0 (ewBits 4 0 0 0 0 false)).wf = false ∧
    (Instr.ewFma 0 0 (ewBits 7 0 0 0 0 false)).wf = false ∧ (Instr.ewAbs 0 0 (ewBits 6 0 0 0 0 false)).wf = false ∧
    (Instr.ewNeg 0 0 (ewBits 9 0 0 0 0 false)).wf = false ∧ (Instr.ewExp2 0 0 (ewBits 8 0 0 0 0 false)).wf = false := by decide
theorem test_wf_ew_more : (Instr.ewLog2 0 0 (ewBits 11 0 0 0 0 false)).wf = false ∧ (Instr.ewRcp 0 0 (ewBits 10 0 0 0 0 false)).wf = false ∧
    (Instr.ewRsqrt 0 0 (ewBits 13 0 0 0 0 false)).wf = false ∧ (Instr.ewTanh 0 0 (ewBits 12 0 0 0 0 false)).wf = false ∧
    (Instr.ewIadd 0 0 (ewBits 17 0 0 0 0 false)).wf = false ∧ (Instr.ewIsub 0 0 (ewBits 16 0 0 0 0 false)).wf = false ∧
    (Instr.ewImax 0 0 (ewBits 19 0 0 0 0 false)).wf = false ∧ (Instr.ewImin 0 0 (ewBits 18 0 0 0 0 false)).wf = false ∧
    (Instr.ewCvtif 0 0 (ewBits 21 0 0 0 0 false)).wf = false ∧ (Instr.ewCvtfi 0 0 (ewBits 20 0 0 0 0 false)).wf = false ∧
    (Instr.ewUnassignedFn 0 0 (ewBits 0x15 0 0 0 0 false)).wf = false ∧ (Instr.ewUnassignedFn 0 0 (ewBits 0x0E 0 0 0 0 false)).wf = true ∧
    (Instr.unassignedOpcode 0 0 0).wf = false ∧ (Instr.unassignedOpcode 0 0 0xF400000000000000).wf = true := by decide
theorem test_wf_markers : (Instr.tickMarker 0 0 0 false 3 0 0).wf = false ∧ (Instr.haltMarker 0 0 0 3 0).wf = false := by decide
theorem test_wf_te_accesses : (Instr.teLd 0 0 0 .slice 3 0 0).wf = false ∧ (Instr.teLd 0 0 0 .slice 16 61 0).wf = false ∧
    (Instr.teLd 0 0 0 .slice 16 60 0).wf = true ∧ (Instr.teLd 0 0 0 .global 4 0 63).wf = false ∧
    (Instr.teSt 0 0 0 .slice 8 0 63).wf = false ∧ (Instr.tePf 0 0 0 .global 63).wf = false ∧
    (Instr.teCvt 0 0 0 .b4 .fp32 false 0 0 0).wf = false ∧ (Instr.teCvt 0 0 0 .fp32 .b6 false 0 0 0).wf = false ∧
    (Instr.teCvt 0 0 0 .fp32 .fp16 true 0 0 63).wf = false ∧ (Instr.teTime 0 0 0 63).wf = false := by decide
theorem test_wf_slice_atomics : (Instr.teAtomSAdd 0 0 0 true false 0 0 63).wf = false ∧ (Instr.teAtomSMin 0 0 0 true true 63 0 0).wf = false ∧
    (Instr.teAtomSMax 0 0 0 true false 0 0 63).wf = false ∧ (Instr.teAtomSAnd 0 0 0 true true 63 0 0).wf = false ∧
    (Instr.teAtomSOr 0 0 0 true false 0 0 63).wf = false ∧ (Instr.teAtomSXor 0 0 0 true true 63 0 0).wf = false ∧
    (Instr.teAtomSExch 0 0 0 true false 0 0 63).wf = false ∧ (Instr.teAtomSCas 0 0 0 true false 0 0 0 63).wf = false := by decide
theorem test_wf_global_atomics : (Instr.teAtomGAdd 0 0 0 false false 0 63 0).wf = false ∧ (Instr.teAtomGMin 0 0 0 true false 0 0 63).wf = false ∧
    (Instr.teAtomGMax 0 0 0 true true 63 0 0).wf = false ∧ (Instr.teAtomGAnd 0 0 0 false false 0 63 0).wf = false ∧
    (Instr.teAtomGOr 0 0 0 false false 0 63 0).wf = false ∧ (Instr.teAtomGXor 0 0 0 false false 0 63 0).wf = false ∧
    (Instr.teExchG 0 0 0 true 63 0 0).wf = false ∧ (Instr.teCasG 0 0 0 true 0 0 0 63).wf = false ∧
    (Instr.teFatomAdd 0 0 0 .global 63 0).wf = false ∧ (Instr.teLadd 0 0 0 .global 0 63 0).wf = false ∧
    (Instr.teLrd 0 0 0 .fp64 0 63 0).wf = false := by decide
theorem test_wf_service : (Instr.scrubStep 0 true 4 0 0).wf = false ∧ (Instr.scrubStep 0 false 144 0 0).wf = false ∧
    (Instr.scrubStep 0 false 0 524288 0).wf = false ∧ (Instr.railFault 0 0 (some 24)).wf = false ∧
    (Instr.unknownFlit 0 0 0xA).wf = false ∧ (Instr.unknownFlit 0 0 0xF).wf = false ∧
    (Instr.temperatureSample 0 (.polder 0 [1] [1, 2] [])).wf = false ∧ (Instr.temperatureSample 0 (.polder 0 [1, 2, 3, 4] [1, 2] [6])).wf = false := by
  decide
theorem test_wf_flits : (Instr.writeFlit 0 0 (flit 1 0) (List.replicate 17 ⟨0, 0, 0, 0⟩)).wf = false ∧
    (Instr.readFlit 0 0 (flit 1 0) (List.replicate 17 ⟨0, 0⟩)).wf = false ∧ (Instr.rdataFlit 0 0 (flit 1 0) (List.replicate 17 0)).wf = false ∧
    (Instr.combineFlit 0 0 (flit 1 0) 0 (List.replicate 17 0)).wf = false ∧ (Instr.wackFlit 0 0 (flit 1 0) (List.replicate 17 0)).wf = false ∧
    (Instr.atomicFlit 0 0 (flit 1 0) (List.replicate 17 ⟨0, false, .add, 0, 0, 0, false⟩)).wf = false ∧
    (Instr.mcastFlit 0 0 (flit 1 0) 0 [] (List.replicate 17 0)).wf = false ∧ (Instr.reduceFlit 0 0 (flit 1 0) (List.replicate 17 0)).wf = false := by
  decide
theorem test_wf_host : (Instr.doorbell 1024 0 8 0).wf = false ∧ (Instr.doorbell 0 512 8 0).wf = false ∧ (Instr.doorbell 0 0 0 0).wf = false ∧
    (Instr.doorbell 0 0 9 0).wf = false ∧ (Instr.adminDoorbell 64 0).wf = false ∧ (Instr.registerWrite (.fn 64) 0 false 0).wf = false ∧
    (Instr.registerRead (.fn 64) 0 false).wf = false ∧ (Instr.mcAdmRingWrite 64 0 0).wf = false ∧
    (Instr.hostLinkUp 0 8 false true).wf = false ∧ (Instr.hostLinkUp 6 3 false true).wf = false ∧ (Instr.flrVf 0).wf = false ∧
    (Instr.flrVf 64).wf = false ∧ (Instr.vfEnable 64).wf = false ∧ (Instr.msixVectorUnmask 1 32).wf = false ∧
    (Instr.msixVectorUnmask 0 2048).wf = false ∧ (Instr.apertureRead 0 0).wf = false ∧ (Instr.apertureWrite (2 ^ 30) [0]).wf = false := by decide

/-! ### The block -/

theorem test_idle_tick : (after (step State.reset)).timeNs = 1 := by decide
theorem test_step_takes_front : (after (step { State.reset with pending := [.bypass, .idcode] })).pending = [.idcode] := by decide
theorem test_no_word_spells_a_command : decodeTableWord 64 0 = none := by decide

/-! ### The pump controller -/

/-- Bits [57:0] of a scalar word (Table 3.3): RD, RS1, RS2, IMM. -/
def bits (rd rs1 rs2 : Nat) (imm : BitVec 43) : BitVec 58 :=
  BitVec.ofNat 58 (rd * 2 ^ 53 + rs1 * 2 ^ 48 + rs2 * 2 ^ 43 + imm.toNat)

/-- Pump 0 of channel 0 running one word at pc 0, with x1 = 5, x2 = 7, in slot 0. -/
def ctl (w : BitVec 64) : State :=
  (State.reset.onPump 0 0 fun q => { q with run := .running, prog := [(0, w)], x := [(1, 5), (2, 7)] }).onSlot 0 0 fun x =>
    { x with job := { x.job with state := .running, polders := 1 }, regs := { x.regs with frame := 9 } }

/-- x[r] of pump 0 after a command. -/
def xreg (r : Nat) (res : Res) : BitVec 64 := ((after res).pump 0 0).reg r

/-- A word of an opcode and operands, run. -/
def reg3 (i : Chan → PumpIx → BitVec 58 → Instr) (op : Nat) (f : BitVec 58) : BitVec 64 := xreg 3 (exec (i 0 0 f) (ctl (ctlWord op f)))

theorem test_scalar_words_ready : ∀ e ∈ [(0x00, (⟨false, false, false, 0⟩ : Uses), bits 0 0 0 0), (0x01, ⟨true, true, true, 0⟩, bits 3 1 2 0),
    (0x02, ⟨true, true, true, 0⟩, bits 0 1 2 0), (0x03, ⟨true, true, true, 0⟩, bits 31 1 2 0), (0x04, ⟨true, true, true, 0⟩, bits 3 1 2 0),
    (0x05, ⟨true, true, true, 0⟩, bits 3 1 2 0), (0x06, ⟨true, true, true, 0⟩, bits 3 1 2 0), (0x07, ⟨true, true, false, 43⟩, bits 3 1 0 (-1)),
    (0x08, ⟨true, true, false, 6⟩, bits 3 1 0 63), (0x09, ⟨true, true, false, 6⟩, bits 3 1 0 0), (0x0A, ⟨true, false, false, 43⟩, bits 3 0 0 (-1)),
    (0x10, ⟨false, true, true, 43⟩, bits 0 1 2 8191), (0x11, ⟨false, true, true, 43⟩, bits 0 1 2 0), (0x12, ⟨false, true, true, 43⟩, bits 0 1 2 1),
    (0x13, ⟨false, false, false, 43⟩, bits 0 0 0 8191), (0x18, ⟨true, true, false, 43⟩, bits 3 0 0 0x7FF8),
    (0x19, ⟨false, true, true, 43⟩, bits 0 0 2 0x6000), (0x1C, ⟨false, true, true, 0⟩, bits 0 1 2 0), (0x1D, ⟨true, false, false, 0⟩, bits 3 0 0 0),
    (0x1E, ⟨true, false, false, 0⟩, bits 3 0 0 0), (0x3E, ⟨false, false, false, 0⟩, bits 0 0 0 0), (0x3F, ⟨false, false, false, 0⟩, bits 0 0 0 0)],
    AtScalar (ctl (ctlWord e.1 e.2.2)) 0 0 e.1 e.2.1 e.2.2 := by unfold AtScalar AtOp AtWord; decide +kernel

theorem test_add_word : ctlWord 0x01 (bits 3 1 2 0) = 0b0000010001100001000100000000000000000000000000000000000000000000#64 := by decide +kernel
theorem test_add : reg3 .add 0x01 (bits 3 1 2 0) = 12 := by decide +kernel
theorem test_add_discards_x0 : ((after (exec (.add 0 0 (bits 0 1 2 0)) (ctl (ctlWord 0x01 (bits 0 1 2 0))))).pump 0 0).x = [(1, 5), (2, 7)] := by decide +kernel
theorem test_sub_wraps : reg3 .sub 0x02 (bits 3 1 2 0) = 0xFFFFFFFFFFFFFFFE := by decide +kernel
theorem test_and : reg3 .and 0x03 (bits 3 1 2 0) = 5 := by decide +kernel
theorem test_or : reg3 .or 0x04 (bits 3 1 2 0) = 7 := by decide +kernel
theorem test_xor : reg3 .xor 0x05 (bits 3 1 2 0) = 2 := by decide +kernel
theorem test_mul : reg3 .mul 0x06 (bits 3 1 2 0) = 35 := by decide +kernel
theorem test_addi_negative : reg3 .addi 0x07 (bits 3 1 0 (-6)) = 0xFFFFFFFFFFFFFFFF := by decide +kernel
theorem test_shli_top : reg3 .shli 0x08 (bits 3 1 0 63) = 0x8000000000000000 := by decide +kernel
theorem test_shri : reg3 .shri 0x09 (bits 3 1 0 2) = 1 := by decide +kernel
theorem test_li_negative : reg3 .li 0x0A (bits 3 0 0 (-2)) = 0xFFFFFFFFFFFFFFFE := by decide +kernel
theorem test_frn : reg3 .frn 0x1D (bits 3 0 0 0) = 9 := by decide +kernel
theorem test_pid : reg3 .pid 0x1E (bits 3 0 0 0) = 0 := by decide +kernel
theorem test_ld_top_reads_zero : reg3 .ld 0x18 (bits 3 0 0 0x7FF8) = 0 := by decide +kernel
theorem test_st_scratch : ((after (exec (.st 0 0 (bits 0 0 2 0x6000)) (ctl (ctlWord 0x19 (bits 0 0 2 0x6000))))).pump 0 0).dmem = [(0xC00, 7)] := by decide +kernel
theorem test_setsr : ((after (exec (.setsr 0 0 (bits 0 1 2 0)) (ctl (ctlWord 0x1C (bits 0 1 2 0))))).pump 0 0).srBase = 7 := by decide +kernel
theorem test_branches : ∀ e ∈ [(Instr.beq 0 0 (bits 0 1 2 8191), 0x10, bits 0 1 2 8191, 1), (.bne 0 0 (bits 0 1 2 8191), 0x11, bits 0 1 2 8191, 8191),
    (.blt 0 0 (bits 0 1 2 2), 0x12, bits 0 1 2 2, 2), (.jmp 0 0 (bits 0 0 0 8191), 0x13, bits 0 0 0 8191, 8191)],
    ((after (exec e.1 (ctl (ctlWord e.2.1 e.2.2.1)))).pump 0 0).pc = e.2.2.2 := by decide +kernel

/-- FLT_REC.CAUSE of slot 0 after a command. -/
def cause (res : Res) : BitVec 8 := ((after res).slot 0 0).regs.flt.cause

theorem test_controller_faults : ∀ e ∈ [(Instr.unassignedOpcode 0 0 0xF400000000000000, 0x3D, (bits 0 0 0 0), (6 : BitVec 8)),
    (.ewUnassignedFn 0 0 (ewBits 0x0E 0 0 0 0 false), 0x25, ewBits 0x0E 0 0 0 0 false, 6), (.nop 0 0 (bits 1 0 0 0), 0x00, bits 1 0 0 0, 6),
    (.add 0 0 (bits 3 1 2 1), 0x01, bits 3 1 2 1, 6), (.jmp 0 0 (bits 0 0 0 (-1)), 0x13, bits 0 0 0 (-1), 6),
    (.jmp 0 0 (bits 0 0 0 8192), 0x13, bits 0 0 0 8192, 6), (.beq 0 0 (bits 0 1 2 8192), 0x10, bits 0 1 2 8192, 6),
    (.beq 0 0 (bits 0 1 2 (-1)), 0x10, bits 0 1 2 (-1), 6), (.ld 0 0 (bits 3 0 0 0x7FF9), 0x18, bits 3 0 0 0x7FF9, 6),
    (.ld 0 0 (bits 3 0 0 0x8000), 0x18, bits 3 0 0 0x8000, 7), (.ld 0 0 (bits 3 0 0 (-8)), 0x18, bits 3 0 0 (-8), 7),
    (.st 0 0 (bits 0 0 2 0x5FF8), 0x19, bits 0 0 2 0x5FF8, 7), (.st 0 0 (bits 0 0 2 0x8000), 0x19, bits 0 0 2 0x8000, 7)],
    ((ctl (ctlWord e.2.1 e.2.2.1)).pump 0 0).at_ (ctlWord e.2.1 e.2.2.1) = true ∧ cause (exec e.1 (ctl (ctlWord e.2.1 e.2.2.1))) = e.2.2.2 := by
  decide +kernel

/-- LD and ST find sound rows of data memory; a word whose program row is uncorrectable faults the job with DATA_UE (R66). -/
theorem test_data_rows_sound : DataSound (ctl (ctlWord 0x18 (bits 3 0 0 0x7FF8))) 0 0 0x7FF8 ∧ DataSound (ctl (ctlWord 0x19 (bits 0 0 2 0x6000))) 0 0 0x6000 := by
  unfold DataSound; decide +kernel
theorem test_program_row_ue : let s := (ctl (ctlWord 0x01 (bits 3 1 2 0))).onPump 0 0 fun q => { q with progUp := [(0, 0x0101)] }
    (s.pump 0 0).at_ (ctlWord 0x01 (bits 3 1 2 0)) = true ∧ bscDecode ((s.pump 0 0).progUp.readD 0 0) = .uncorrectable ∧ (s.chan 0).slotOf 0 = some 0 ∧
    (s.slot 0 0).live = true ∧ (s.slot 0 0).regs.flt.valid = false ∧ cause (exec (.add 0 0 (bits 3 1 2 0)) s) = 1 := by decide +kernel
/-- One damaged bit of a program row is corrected and the word runs (R66). -/
theorem test_program_row_ce : let s := (ctl (ctlWord 0x01 (bits 3 1 2 0))).onPump 0 0 fun q => { q with progUp := [(0, 1)] }
    ((after (exec (.add 0 0 (bits 3 1 2 0)) s)).pump 0 0).progUp = [] ∧ xreg 3 (exec (.add 0 0 (bits 3 1 2 0)) s) = 12 := by decide +kernel

/-! ### Row words and transfers -/

theorem test_row_words_ready : ∀ e ∈ [(0x20, RowUnit.multiply, BitVec.ofNat 58 (5 * 2 ^ 49 + 5 * 2 ^ 45)), (0x21, .broadcast, BitVec.ofNat 58 (3 * 2 ^ 34)),
    (0x22, .accIn, 31 * 2 ^ 29), (0x23, .accOut, 0), (0x24, .accOut, 0), (0x26, .laneLoad, BitVec.ofNat 58 (2 ^ 21)),
    (0x25, .multiply, ewBits 0 31 0 0 0 false), (0x25, .multiply, ewBits 0x15 0 0 0 31 true)],
    RowReady (ctl (ctlWord e.1 e.2.2)) 0 0 e.2.1 (ctlWord e.1 e.2.2) := by unfold RowReady; decide +kernel

/-- ISSUE of x1: 5 is no row word; EW MOV and DOT are. -/
theorem test_issue_ready : AtScalar (ctl (ctlWord 0x28 (bits 0 1 0 0))) 0 0 0x28 ⟨false, true, false, 0⟩ (bits 0 1 0 0) ∧
    wOp (5 : BitVec 64) < 0x20 ∧ rowFieldsOk (ctlWord 0x25 (ewBits 0 1 0 0 0 false)) = true ∧
    rowFieldsOk (ctlWord 0x20 (BitVec.ofNat 58 (5 * 2 ^ 49 + 5 * 2 ^ 45))) = true := by unfold AtScalar AtOp AtWord; decide +kernel

theorem test_every_ew_function_ready : ∀ fn ∈ List.range 6 ++ [6, 7, 8, 9, 0x0A, 0x0B, 0x0C, 0x0D, 0x10, 0x11, 0x12, 0x13, 0x14, 0x15],
    RowReady (ctl (ctlWord 0x25 (ewBits fn 1 0 0 0 false))) 0 0 .multiply (ctlWord 0x25 (ewBits fn 1 0 0 0 false)) ∧
      ewFn (ewBits fn 1 0 0 0 false) = fn := by unfold RowReady; decide +kernel

theorem test_ew_lanes_witness : let w := ctlWord 0x25 (ewBits 1 0 1 2 0 false)
    SMap.sorted Pump.reset.acc ∧ rangesMeet (ewDst w) (ewSrc1 w) (ewN w) = false ∧ rangesMeet (ewDst w) (ewSrc2 w) (ewN w) = false := by decide +kernel

theorem test_ew_in_place_witness : let w := ctlWord 0x25 (ewBits 1 3 3 0 0 true)
    ewDst w = ewSrc1 w ∧ ewS w = true ∧ lldT (ctlWord 0x26 (BitVec.ofNat 58 (2 ^ 20))) = true ∧ lldEsize (ctlWord 0x26 (BitVec.ofNat 58 (2 ^ 20))) ≤ 1 := by
  decide +kernel

theorem test_plain_granule (g : Nat) : PlainGranule State.reset 0 0 g :=
  ⟨fun _ h => (List.not_mem_nil h).elim, fun _ h => (List.not_mem_nil h).elim, fun _ h => (List.not_mem_nil h).elim, rfl, rfl, rfl⟩

theorem test_loads_witness : ∀ e ∈ [(0x21, BitVec.ofNat 58 0), (0x22, 0), (0x26, BitVec.ofNat 58 (2 ^ 21)), (0x26, BitVec.ofNat 58 (2 ^ 21 + 2 ^ 20))],
    let o := (State.reset.pump 0 0).rowOp .broadcast (ctlWord e.1 e.2)
    0 ≤ o.span.1 ∧ o.span.2 ≤ 2 ^ 19 ∧ wOp o.word = e.1 := by decide +kernel

/-- BQS takes the granule that stands in the slice. -/
theorem test_bqs : (((State.reset.onSlice 0 0 fun sl => sl.put 3 0xAB).doBqs 0 0
    ((State.reset.pump 0 0).rowOp .broadcast (ctlWord 0x21 (BitVec.ofNat 58 (3 * 2 ^ 34))))).1.pump 0 0).bq = [(0xAB, 0)] := by decide +kernel

/-- INT8: 16 products of 2 and 3 in each of the two steps of a chunk add to 192 (R88). -/
theorem test_dot_int8 : dotChunk .int8 .int8 .int8 [BitVec.ofNat 256 ((2 ^ 256 - 1) / 255 * 2)] [BitVec.ofNat 256 ((2 ^ 256 - 1) / 255 * 3)] 0 0 0 0 = 192 := by
  decide +kernel

/-- MAX of -1 and 0 as integers, ABS and NEG as FP32 bits, FADD of 1.0 and 2.0 (Table 3.9). -/
theorem test_ew_functions : ewFun 0x12 0 0xFFFFFFFF 0 = 0 ∧ ewFun 0x07 0 0xBF800000 0 = 0x3F800000 ∧ ewFun 0x08 0 0x3F800000 0 = 0xBF800000 ∧
    ewFun 0x01 0 0x3F800000 0x40000000 = 0x40400000 ∧ ewFun 0x14 0 0xFFFFFFFF 0 = 0xBF800000 := by decide +kernel

/-- The descriptor at data address 0 of pump 0. -/
def withDesc (w : BitVec 64) (d : SMap (BitVec 64)) : State := (ctl w).onPump 0 0 fun q => { q with dmem := d }

/-- An XFR of each operation code, ready; a transfer whose plan faults needs nothing. -/
theorem test_transfers_ready : ∀ opc ∈ List.range 8, let f := bits 0 0 0 0
    let s := withDesc (ctlWord 0x30 f) [(0, BitVec.ofNat 64 opc)]
    let o := s.descWord 0 0 .transfer f
    DescReady s 0 0 .transfer 0x30 f ∧ (s.onPump 0 0 fun q => q.queuedIn .transfer 0).xferReady 0 0 o = true ∧ (s.chan 0).slotOf 0 ≠ none ∧
      (xdesc o.desc).opc = opc := by unfold DescReady AtScalar AtOp AtWord; decide +kernel

/-- A raw COPY of one granule from granule 0 to granule 5 of the slice (Table 8.3). -/
theorem test_xfr_copy_raw : ((after (exec (.xfrCopy 0 0 (bits 0 0 0 0)) ((withDesc (ctlWord 0x30 (bits 0 0 0 0)) [(0, 0x30), (2, 5)]).onSlice 0 0
    fun sl => sl.put 0 0xCD))).slice 0 0).get 5 = 0xCD := by decide +kernel

/-- A descriptor past the end of data memory is an access fault (R69). -/
theorem test_xfr_address : cause (exec (.xfrCopy 0 0 (bits 0 0 0 0x7FC8)) (withDesc (ctlWord 0x30 (bits 0 0 0 0x7FC8)) [])) = 7 := by decide +kernel

/-- An INT8 DOT of one row into entry 0, cleared first; a broadcast queue with one granule of 2s, a lane row of 3s. -/
def dotW : BitVec 64 := ctlWord 0x20 (BitVec.ofNat 58 (5 * 2 ^ 49 + 5 * 2 ^ 45 + 2 ^ 32 + 2 ^ 21))
def dots (bq : List (Granule × CodeWord)) (w : BitVec 64) : State := (ctl w).onPump 0 0 fun q => { q with
  bq := bq, lane := [(0, BitVec.ofNat 256 ((2 ^ 256 - 1) / 255 * 3))] }
def twos : Granule := BitVec.ofNat 256 ((2 ^ 256 - 1) / 255 * 2)

theorem test_dot_witness : RowReady (dots [(twos, 0)] dotW) 0 0 .multiply dotW ∧ dotTakes dotW = 1 ∧
    (dotSteps dotW).map stepNeeds = [1] ∧ AtOp (dots [] dotW) 0 0 0x20 (dotW.setWidth 58) := by
  unfold RowReady AtOp AtWord; decide +kernel
theorem test_dot_sound : RowSound (dots [(twos, 0)] dotW) 0 0 :=
  ⟨fun e h => by
    rw [show ((dots [(twos, 0)] dotW).pump 0 0).bq = [(twos, 0)] from by decide +kernel] at h
    rw [List.mem_singleton.1 h], by decide +kernel, by decide +kernel, by decide +kernel⟩
theorem test_dot_takes_entry : ((after (exec (.dot 0 0 (dotW.setWidth 58)) (dots [(twos, 0)] dotW))).pump 0 0).bq.length = 0 := by decide +kernel
/-- The steps of a DOT by one entry after INIT, with M = 2 and E = 2: the rows of both entries in turn (R87). -/
theorem test_dot_order : (dotSteps (ctlWord 0x20 (BitVec.ofNat 58 (5 * 2 ^ 49 + 5 * 2 ^ 45 + 2 * 2 ^ 32 + 2 ^ 22)))).map (·.2) = [0, 1, 0, 1] := by decide +kernel
/-- ISSUE of a DOT that stands in x1. -/
theorem test_issue_dot_witness : let s := (dots [(twos, 0)] (ctlWord 0x28 (bits 0 1 0 0))).onPump 0 0 fun q => { q with x := [(1, dotW)] }
    RowReady s 0 0 .multiply dotW ∧ wOp dotW = 0x20 ∧ (s.pump 0 0).reg (fRs1 (bits 0 1 0 0)) = dotW := by unfold RowReady; decide +kernel
/-- BQS of two granules finds room for one; with 64 entries it waits. -/
theorem test_bqs_bound : let w := ctlWord 0x21 (BitVec.ofNat 58 (2 ^ 28))
    let s := ctl w |>.onPump 0 0 fun q => { q with bq := List.replicate 63 (0, 0) }
    let t := after (exec (.bqs 0 0 (w.setWidth 58)) s)
    (t.pump 0 0).bq.length = 64 ∧ (t.pump 0 0).todo.map (·.pos) = [1] := by decide +kernel
/-- An uncorrectable entry of the broadcast queue faults the job with DATA_UE (R66). -/
theorem test_bq_entry_ue : cause (exec (.dot 0 0 (dotW.setWidth 58)) (dots [(twos, 0x0101)] dotW)) = 1 := by decide +kernel

/-! ### A job for the tests: job 1 of context 0, in slot 0 of channel 0, on polder 0 -/

def im : JobImage :=
  { wellFormed := true, digest := 0, bytes := [], auth := ⟨[], 0⟩, cset := 0, strict := true, relaxedOps := false, periodUs := 200,
    wdogMs := 1000, ckptEvery := 0, nominalNs := 100000, windowUs := 0, windowLog2 := 0, lastFrame := none, vchans := [], edges := [],
    links := [], trees := [], descs := [(1, BitVec.ofNat 512 (2 ^ 40 + 2 ^ 117 + 2 ^ 118 + 2 ^ 124 + 2 ^ 128))], dists := [], homeHeld := [], inputs := [], colls := [],
    urgents := [(3, [])], thrashLimit := 0, trickle := 0, polderCfg := [] }

/-- A command descriptor's header in well 0 of context 0. -/
def hd : Hdr := ⟨.well 0 0, 0, 5, false, false⟩

def jb : Job :=
  { image := im, start := hd, well := 0, admitted := true, place := [(0, 0, 1)], slots := [(0, 0)], lead := 0,
    policy := 0, ckptCmds := [], stopCmd := none, commitCmd := none, checkCmds := [], copies := [], forced := none, halts := 0,
    haltFrame := 0, haltCause := 0, halted := false, ckpts := [], restore := none, depth := 0, trees := [], widths := [], rset := 1, routes := [],
    claim := ⟨0, 0⟩, oldClaim := none, ckptNext := [], flow := false }

/-- The context: allocation 1 is the first 4 KiB of slice 1 of channel 0, exported, at device virtual address 2 MiB. -/
def cx : Ctx :=
  { fn := 0, home := 0, pasid := 0, pasidEn := false,
    allocs := [(1, ⟨.pinned, true, true, 0, 2, 0, 4096, 0, [], 0x200000, 0⟩)], descs := [], images := [], maps := [], wells := [(0, (0, 0))],
    vfPage := 0, ending := none }

def ring : Ring := Ring.fresh 0 4 0 4 0 0 0

/-- The module with that job. -/
def base : State :=
  let s1 := State.reset.onMc fun m =>
    { m with ctxs := [(0, cx)], jobs := [(1, jb)], host := { m.host with gen := 5, width := 4 }, firm := { m.firm with started := true } }
  let s2 := s1.onSlot 0 0 fun x =>
    { x with
      job := { x.job with state := .running, polders := 1, lead := true, strict := true, ctx := 0, job := 1, master := 0, members := [0], nominalNs := 100000 }
      regs := { x.regs with frame := 9 } }
  s2.onChan 0 fun h => { h with wells := [(0, ⟨ring, 0, 0, 0, none, false, 0⟩)] }

/-! ### The thread engine -/

/-- A kernel with one group: its own slice's first 4 KiB, and 4 KiB from device virtual address 2 MiB. -/
def krn : Kernel := ⟨0, 1, true, false, 0, 0, [⟨0, 4096, 0, 3⟩, ⟨0x200000, 4096, 1, 3⟩]⟩

/-- A path of two lanes at instruction 10. -/
def path : Path := ⟨0b11, 10, .live, [], []⟩

/-- A group whose lanes 0 and 1 hold 5 and 0xFFFFFFFE in r1 and 3 in r2. -/
def grp : Group := (((({ Group.start krn 0 with paths := [path] }).set 0 1 5).set 0 2 3).set 1 1 0xFFFFFFFE).set 1 2 3

/-- Pump 0 running that group in slot 0. -/
def teOf (s : State) (u : Group) : State :=
  (s.onTe 0 0 fun t => { t with kernel := some krn, next := 1, slots := upd t.slots 0 fun _ => some u }).onPump 0 0 fun q => { q with run := .running }

def te : State := teOf base grp

/-- A register of lane l of the group after a command. -/
def lane (l r : Nat) (res : Res) : BitVec 32 := (((after res).group 0 0 0).map (·.get l r)).getD 0

theorem test_te_ready : TeReady te 0 0 0 krn grp path [1, 2, 63] := by unfold TeReady; decide +kernel
theorem test_te_integer_ops : ∀ e ∈ [(Instr.teAdd 0 0 0 3 1 2, (8 : BitVec 32), (1 : BitVec 32)), (.teSub 0 0 0 3 1 2, 2, 0xFFFFFFFB),
    (.teMul 0 0 0 3 1 2, 15, 0xFFFFFFFA), (.teAnd 0 0 0 3 1 2, 1, 2), (.teOr 0 0 0 3 1 2, 7, 0xFFFFFFFF), (.teXor 0 0 0 3 1 2, 6, 0xFFFFFFFD),
    (.teShl 0 0 0 3 1 2, 40, 0xFFFFFFF0), (.teShr 0 0 0 3 1 2, 0, 0x1FFFFFFF), (.teSar 0 0 0 3 1 2, 0, 0xFFFFFFFF), (.teMin 0 0 0 3 1 2, 3, 0xFFFFFFFE),
    (.teMax 0 0 0 3 1 2, 5, 3), (.teCompare 0 0 0 .lt 3 1 2, 0, 1), (.teSel 0 0 0 3 0 1 2, 3, 3), (.teTid 0 0 0 3, 0, 1), (.teGid 0 0 0 3, 0, 0),
    (.teNgrp 0 0 0 3, 1, 1), (.teFrn 0 0 0 3, 9, 9)], lane 0 3 (exec e.1 te) = e.2.1 ∧ lane 1 3 (exec e.1 te) = e.2.2 := by decide +kernel
theorem test_te_writes_no_r0 : lane 0 0 (exec (.teAdd 0 0 0 0 1 2) te) = 0 := by decide +kernel
theorem test_te_idle_lane_keeps : lane 2 3 (exec (.teTid 0 0 0 3) te) = 0 := by decide +kernel
theorem test_te_float_ops : fadd 0x3F800000 0x3F800000 = 0x40000000 ∧ fmul 0x40000000 0x40400000 = 0x40C00000 ∧
    ffma 0x3F800000 0x40000000 0x40400000 = 0x40E00000 ∧ fmin 0x3F800000 0xBF800000 = 0xBF800000 ∧ Machine.Cmp.floats .lt 0xBF800000 0 = true ∧
    fmtConvert .fp16 (fmtValue .fp32 0x3F800000) none = 0x3C00 := by decide +kernel
theorem test_te_time_witness : (te.chan 0).slotOf 0 = some 0 ∧ teRegs 62 8 = true ∧ teRegs 63 8 = false := by decide +kernel
theorem test_te_time_relaxed : lane 0 3 (exec (.teTime 0 0 0 3) (({ te with timeNs := 77 }).onSlot 0 0 fun x => { x with
    job := { x.job with strict := false } })) = 77 := by decide +kernel

/-- The group with r4 = slice offset 64, (r6, r7) = the exported allocation. -/
def adr : Group := ((grp.set 0 4 64).set 1 4 68).set 0 6 0x200000
def mem : State := (teOf base adr).onSlice 0 0 fun sl => sl.put 2 0x0000000B0000000A

theorem test_te_memory_witness : TeReady mem 0 0 0 krn adr path (addrRegs .slice 4 ++ regsFrom 8 1) ∧
    LanesOk (mem.lanesAt 0 0 krn adr path .slice 4 4 4 .read) ∧ mem.hostWaits (mem.lanesAt 0 0 krn adr path .slice 4 4 4 .read) = false ∧
    LanesOk (mem.lanesAt 0 0 krn adr path .slice 4 4 4 .write) ∧
    (∀ e ∈ mem.lanesAt 0 0 krn adr path .slice 4 4 4 .write, e.2.key ≠ none) ∧
    LanesOk (mem.lanesAt 0 0 krn adr path .slice 1 1 4 .read) := by unfold TeReady LanesOk; decide +kernel
theorem test_te_ld : lane 1 8 (exec (.loadResult 0 0 0) (after (exec (.teLd 0 0 0 .slice 4 8 4) mem))) = 0xB ∧
    lane 1 8 (exec (.teLd 0 0 0 .slice 4 8 4) mem) = 0 := by decide +kernel
theorem test_te_st : ((after (exec (.teSt 0 0 0 .slice 4 4 2) mem)).group 0 0 0).map (·.buf.look 68) = some (some (3, false)) := by decide +kernel
/-- A misaligned address is DESCRIPTOR, one outside the ranges is ACCESS, DESCRIPTOR first (R69). -/
theorem test_te_faults : cause (exec (.teLd 0 0 0 .slice 4 8 1) te) = 6 ∧ cause (exec (.teLd 0 0 0 .slice 1 8 1) te) = 7 := by decide +kernel

theorem test_slice_atomic_witness : TeReady mem 0 0 0 krn adr path (4 :: operandRegs false 2 ++ operandRegs false 8 ++ operandRegs false 1) ∧
    LanesOk (mem.lanesAt 0 0 krn adr path .slice 4 4 4 .atomic) ∧ AtomRoom mem 0 0 (laneOps false (keysOf (mem.lanesAt 0 0 krn adr path .slice 4 4 4 .atomic))) ∧
    atomRegs false 63 = true ∧ atomRegs true 62 = true := by unfold TeReady LanesOk AtomRoom; decide +kernel
theorem test_slice_atomic_perform_witness : let a : SliceAtom := ⟨0, 0, 64, false, some .add, 3, 3, some 8, 0, 1⟩
    let s := mem.onTe 0 0 fun t => { t with atoms := [a] }
    (s.pump 0 0).te.atoms = [a] ∧ a.ret = some 8 ∧ s.group 0 0 a.g = some adr ∧ a.addr / 32 < 2 ^ 19 := by decide +kernel
/-- ATOM.S ADD with return: the word 0xA becomes 0xD and the lane gets 0xA (R163). -/
theorem test_atom_s_add : let s := after (exec (.sliceAtomicPerform 0 0) (after (exec (.teAtomSAdd 0 0 0 false true 8 4 2) mem)))
    ((s.slice 0 0).get 2).toNat % 2 ^ 32 = 0xD ∧ lane 0 8 (exec (.loadResult 0 0 0) s) = 0xA := by decide +kernel
theorem test_atom_s_cas : atomGran 0xA 0 false .cas 7 0xA = (7, 0xA) ∧ atomGran 0xA 0 false .cas 7 0xB = (0xA, 0xA) := by decide +kernel

/-- One lane, in a Relaxed job for the relaxed forms. -/
def one : Path := { path with mask := 1 }
def solo : Group := { adr with paths := [one] }
def glob (strict : Bool) : State := (teOf base solo).onSlot 0 0 fun x => { x with job := { x.job with strict := strict } }

theorem test_global_atomic_witness : ∀ b ∈ [false, true], let s := glob b
    let off := 2 ^ 48 + 2 ^ 24
    TeReady s 0 0 0 krn solo one (regsFrom 6 2 ++ operandRegs false 2 ++ operandRegs false 8 ++ operandRegs false 1) ∧
    s.lanesAt 0 0 krn solo one .global 4 4 6 .atomic = [(0, .mem (2 ^ 64 + off) (s.addrOf 0) off)] ∧
    s.barred 0 0 (s.addrOf 0) (off / 32) = false ∧ s.strictAt 0 0 = b := by unfold TeReady; decide +kernel
/-- The home of the relaxed forms: an HBM word. -/
theorem test_exchange_witness : let s := (glob false).onMc fun m => { m with ctxs := m.ctxs.alter 0 fun k => { k with
      allocs := [(1, ⟨.hbm, false, false, 0, 0, 4096, 4096, 0, [], 0x200000, 0⟩)] } }
    s.lanesAt 0 0 krn solo one .global 4 4 6 .atomic = [(0, .mem (2 ^ 64 + 4096) (s.addrOf 0) 4096)] ∧ keySlice (4096 / 32) = none ∧
    (s.chan 0).held = [] ∧ (s.chan 0).upsetAt (4096 / 32) = 0 ∧ (s.chan 0).isDead (4096 / 32) = false := by decide +kernel
theorem test_atom_g_is_held : ((after (exec (.teAtomGAdd 0 0 0 false false 0 6 2) (glob true))).chan 0).atoms.map (fun a => (a.frame, a.atom.val)) =
    [(9, 3)] := by decide +kernel

theorem test_ledger_witness : TeReady mem 0 0 0 krn adr path [2, 4] ∧
    LanesOk ((teOf base (adr.set 1 4 96)).lanesAt 0 0 krn (adr.set 1 4 96) path .slice 32 32 4 .atomic) := by
  unfold TeReady LanesOk; decide +kernel
theorem test_ledger_global_witness : let s := glob true
    let off := 2 ^ 48 + 2 ^ 24
    TeReady s 0 0 0 krn solo one [2, 6, 7] ∧ s.lanesAt 0 0 krn solo one .global 32 32 6 .atomic = [(0, .mem (2 ^ 64 + off) (s.addrOf 0) off)] ∧
    keySlice (off / 32) = some (1, 0) ∧ s.reduceTarget 0 0 (s.addrOf 0) off = true ∧ s.barred 0 0 (s.addrOf 0) (off / 32) = false ∧
    ledgerAddend (fp32 (solo.get 0 2)) 0 ≠ none := by unfold TeReady; decide +kernel
theorem test_lrd_witness : teRegs 63 4 = true ∧ teRegs 62 8 = true ∧ LanesOk ((teOf base (adr.set 1 4 96)).lanesAt 0 0 krn (adr.set 1 4 96) path
    .slice 32 32 4 .read) := by unfold LanesOk; decide +kernel

theorem test_control_witness : path ∈ grp.paths ∧ grp.paths = [path] ∧ krn.groups ≤ (te.pump 0 0).te.next ∧ krn.kbar = true ∧
    (∀ a ∈ (te.pump 0 0).te.atoms, a.g ≠ 0) := by decide +kernel
/-- A path with a kept address, a split at its own pc; and a group of two paths. -/
theorem test_control_paths_witness : let y : Path := { path with calls := [3], splits := [(0xFFFFFFFF, 10)] }
    let u : Group := { grp with paths := [y, { path with mask := 4 }] }
    TeReady (teOf base u) 0 0 0 krn u y [] ∧ u.paths ≠ [y] := by unfold TeReady; decide +kernel
theorem test_ret : ((after (exec (.teRet 0 0 0) (teOf base { grp with paths := [{ path with calls := [3] }] }))).group 0 0 0).map
    (·.paths.map (·.pc)) = some [3] := by decide +kernel
theorem test_exit_frees_slot : (after (exec (.teExit 0 0 0) te)).group 0 0 0 = none := by decide +kernel
theorem test_bar_releases : ((after (exec (.teBar 0 0 0 2) te)).group 0 0 0).map (·.paths.map (·.st)) = some [.live] := by decide +kernel
theorem test_divergent_branch_witness : path.mask &&& 1 ≠ 0 ∧ path.mask &&& ~~~(1 : BitVec 32) ≠ 0 := by decide +kernel

theorem test_kernel_witness : let o : RowOp := { (State.reset.pump 0 0).rowOp .kernel 0 with unit := .kernel }
    let s := base.onPump 0 0 fun q => { q with todo := [o], queued := upd q.queued 6 fun _ => 1 }
    (s.pump 0 0).te.kernel = none ∧ (s.pump 0 0).todo = [o] ∧ (s.pump 0 0).run ≠ .stopped ∧ (s.pump 0 0).queued[6] ≠ 0 ∧ kernelFieldsOk o.desc = true ∧
    kernelAccessOk o.desc (s.chan 0).pinned (s.strictAt 0 0) = true := by decide +kernel
theorem test_krn_witness : DescReady (ctl (ctlWord 0x31 (bits 0 0 0 0x7FC0))) 0 0 .kernel 0x31 (bits 0 0 0 0x7FC0) := by
  unfold DescReady AtScalar AtOp AtWord; decide +kernel
theorem test_kernel_over_witness : let o : RowOp := { (State.reset.pump 0 0).rowOp .kernel 0 with unit := .kernel }
    let s := (base.onPump 0 0 fun q => { q with todo := [o] }).onTe 0 0 fun t => { t with kernel := some krn, next := 1 }
    (s.pump 0 0).kernelOver = true ∧ (s.pump 0 0).te.dirty = [] ∧ (s.pump 0 0).xfers = [] ∧ (s.chan 0).slotOf 0 = some 0 := by decide +kernel
theorem test_barrier_divergence : cause (exec (.barrierDivergence 0 0 0) (teOf base { grp with
    paths := [{ path with st := .bar 0 }, { path with mask := 4, st := .barK }] })) = 5 := by decide +kernel

def xf : Xfer := ⟨0, 0, none, []⟩
theorem test_unit_events_witness : (let s := base.onPump 0 0 fun q => { q with queued := upd q.queued 0 fun _ => 1 };
      (s.pump 0 0).canBegin .multiply = true) ∧
    (let s := base.onPump 0 0 fun q => { q with running := upd (upd q.running 0 fun _ => 1) 5 fun _ => 1, xfers := [xf] };
      0 < (s.pump 0 0).running[0] ∧ takeXfer (s.pump 0 0).xfers = some [] ∧ (s.pump 0 0).todo = [] ∧ 0 < (s.pump 0 0).running[5]) ∧
    (let s := base.onPump 0 0 fun q => { q with run := .done };
      (s.pump 0 0).quiet = true ∧ (s.pump 0 0).bq = [] ∧ (s.pump 0 0).te.dirty = [] ∧ (s.chan 0).slotOf 0 = some 0) := by decide +kernel
theorem test_frame_done_reported : ((after (exec (.pumpFrameDone 0 0) (base.onPump 0 0 fun q => { q with run := .done }))).pump 0 0).run = .reported := by
  decide +kernel

/-- One symbol of an error is corrected, two symbols of one byte position pair are not (R239, R240). -/
theorem test_bond_witness : bscDecode 0 = .clean ∧ bscDecode 1 = .corrected 4 1 ∧ bscDecode 0x0101 = .uncorrectable ∧ (0 : BitVec 19).toNat < (base.chan 0).pinned ∧
    base.bondRepeats 0 0 4 1 = false := by decide +kernel

/-! Witnesses of the plain cases of the memory operations: nothing held, due, dead or damaged at the channel. -/

theorem test_plain_of {s : State} {c : Chan} {p : PumpIx} {g : Nat}
    (h : (s.chan c).held = [] ∧ (s.chan c).atoms = [] ∧ (s.chan c).decls = [] ∧ (s.slice c p).inbound = [] ∧
      (s.slice c p).dead = [] ∧ (s.slice c p).upset = []) : PlainGranule s c p g := by
  obtain ⟨h1, h2, h3, h4, h5, h6⟩ := h
  refine ⟨fun e he => ?_, fun e he => ?_, fun e he => ?_, ?_, ?_, ?_⟩
  · rw [h1] at he; exact (List.not_mem_nil he).elim
  · rw [h2] at he; exact (List.not_mem_nil he).elim
  · rw [h3] at he; exact (List.not_mem_nil he).elim
  · rw [h4]; rfl
  · rw [h5]; rfl
  · rw [h6]; rfl

/-- The lanes of an access are these of the pump's own slice, and nothing is due there. -/
theorem test_plain_lanes_of {s : State} {c : Chan} {p : PumpIx} {n a b : Nat} {ls : List (Fin 32 × LaneAt)}
    (hl : ls = [(0, .mem a (s.addrOf c) (sliceByte p + a)), (1, .mem b (s.addrOf c) (sliceByte p + b))])
    (ha : a + n ≤ 2 ^ 24) (hb : b + n ≤ 2 ^ 24)
    (h : (s.chan c).held = [] ∧ (s.chan c).atoms = [] ∧ (s.chan c).decls = [] ∧ (s.slice c p).inbound = [] ∧
      (s.slice c p).dead = [] ∧ (s.slice c p).upset = []) : PlainLanes s c p n ls := by
  intro e he
  rw [hl] at he
  rcases List.mem_cons.1 he with h0 | he
  · exact ⟨a, by rw [h0], ha, test_plain_of h⟩
  · rw [List.mem_singleton.1 he]; exact ⟨b, rfl, hb, test_plain_of h⟩

theorem test_ld_plain_witness : PlainLanes mem 0 0 4 (mem.lanesAt 0 0 krn adr path .slice 4 4 4 .read) ∧ NothingOver mem 0 0 adr ∧
    CacheRoom mem 0 0 (keyLines (mem.lanesAt 0 0 krn adr path .slice 4 4 4 .read)) :=
  ⟨test_plain_lanes_of (a := 64) (b := 68) (by decide +kernel) (by decide) (by decide) (by decide +kernel),
    by unfold NothingOver; decide +kernel, by unfold CacheRoom; decide +kernel⟩
theorem test_st_witness : TeReady mem 0 0 0 krn adr path (addrRegs .slice 4 ++ regsFrom 2 1) ∧
    LanesOk (mem.lanesAt 0 0 krn adr path .slice 4 4 4 .write) ∧
    adr.fits ((mem.lanesAt 0 0 krn adr path .slice 4 4 4 .write).flatMap fun e => (List.range 4).map fun i =>
      (e.2.key.getD 0 + i) / 128).dedup = true ∧ SMap.sorted adr.buf := by unfold TeReady LanesOk; decide +kernel
/-- r4 awaits a result: an LD by r4 does not issue. -/
theorem test_load_stall_witness : let u : Group := { adr with awaiting := [(4, 0, 0)] }
    (teOf base u).teReady 0 0 0 = some (krn, u, path) ∧ u.awaits path.mask (addrRegs .slice 4) = true ∧ u.loads = [] := by decide +kernel
theorem test_slice_atomic_plain_witness : let a : SliceAtom := ⟨0, 0, 64, false, some .add, 3, 3, some 8, 0, 1⟩
    let s := mem.onTe 0 0 fun t => { t with atoms := [a] }
    PlainGranule s 0 0 2 ∧ (s.slice 0 0).echoes = [] ∧ s.barredPump 0 0 (s.addrOf 0) (sliceKey 0 2) = none ∧
      (s.chan 0).adderBad 0 = false :=
  ⟨test_plain_of (by decide +kernel), by decide +kernel⟩
theorem test_no_copies_witness : NoCopies mem 0 0 := by
  refine ⟨by decide +kernel, fun i u h => ?_⟩
  have hs : (mem.pump 0 0).te.slots.toList = some adr :: List.replicate 15 none := by decide +kernel
  have hm : some u ∈ (mem.pump 0 0).te.slots.toList := by rw [← h]; exact Array.getElem_mem_toList ..
  rw [hs, List.mem_cons] at hm
  rcases hm with hm | hm
  · rw [Option.some.inj hm]; decide +kernel
  · exact absurd (List.eq_of_mem_replicate hm) (by simp)
/-- A queued addend of 3 × 2^0 at the window exponent 0, and one that is no FP32 number. -/
theorem test_ledger_atom_witness : ledgerAddend (fp32 0x40400000) 0 ≠ none ∧ ledgerAddend (fp32 0x7F800000) 0 = none ∧
    (mem.slot 0 0).live = true ∧ (mem.slot 0 0).regs.flt.valid = false := by decide +kernel
theorem test_ledger_room_witness : AtomRoom (teOf base (adr.set 1 4 96)) 0 0
    (laneOps true (keysOf ((teOf base (adr.set 1 4 96)).lanesAt 0 0 krn (adr.set 1 4 96) path .slice 32 32 4 .atomic))) := by
  unfold AtomRoom; decide +kernel
/-- Allocation 1 without a ledger-reduce descriptor: LADD.G faults. -/
theorem test_no_reduce_target_witness : let s := (glob true).onMc fun m => { m with jobs := [(1, { jb with image := { im with descs := [] } })] }
    TeReady s 0 0 0 krn solo one [2, 6, 7] ∧ s.reduceTarget 0 0 (s.addrOf 0) (2 ^ 48 + 2 ^ 24) = false ∧
    s.lanesAt 0 0 krn solo one .global 32 32 6 .atomic = [(0, .mem (2 ^ 64 + 2 ^ 48 + 2 ^ 24) (s.addrOf 0) (2 ^ 48 + 2 ^ 24))] := by
  unfold TeReady; decide +kernel
theorem test_lrd_plain_witness : let u := adr.set 1 4 96
    PlainLanes (teOf base u) 0 0 32 ((teOf base u).lanesAt 0 0 krn u path .slice 32 32 4 .read) ∧ NothingOver (teOf base u) 0 0 u :=
  ⟨test_plain_lanes_of (a := 64) (b := 96) (by decide +kernel) (by decide) (by decide) (by decide +kernel),
    by unfold NothingOver; decide +kernel⟩
theorem test_exchange_rest_witness : ((glob false).chan 0).decls = [] ∧ ((glob false).chan 0).atoms = [] := by decide +kernel
/-- A kernel without BAR.K, a group whose atomics are outstanding, and one without. -/
theorem test_control_rest_witness : let s := (te.onTe 0 0 fun t => { t with kernel := some { krn with kbar := false } })
    TeReady s 0 0 0 { krn with kbar := false } grp path [] ∧ (s.pump 0 0).atomsOut 0 = false ∧
    ((s.onTe 0 0 fun t => { t with atoms := [⟨0, 0, 64, false, some .add, 3, 3, none, 0, 1⟩] }).pump 0 0).atomsOut 0 = true ∧
    CacheRoom te 0 0 grp.bufLines := by unfold TeReady CacheRoom; decide +kernel
/-- A path at the join address of its split. -/
theorem test_te_join_witness : let y : Path := { path with splits := [(0xFFFFFFFF, 10)] }
    TeReady (teOf base { grp with paths := [y] }) 0 0 0 krn { grp with paths := [y] } y [] ∧ y.splits = [(0xFFFFFFFF, y.pc)] := by
  unfold TeReady; decide +kernel
/-- A kernel may launch beside a transfer under way that shares no memory with it. -/
theorem test_launch_beside_transfer_witness : feetMeet [⟨0, 0, 4096, false⟩] [⟨0, 4096, 8192, true⟩] = false ∧
    (xf.acks = 0 ∨ feetMeet [] xf.foot = false) := by decide +kernel
theorem test_fence_dot_witness : let o := (State.reset.pump 0 0).rowOp .multiply dotW
    let s := base.onPump 0 0 fun q => { q with run := .fence, todo := [o] }
    (s.pump 0 0).run = .fence ∧ o.unit = .multiply ∧ wOp o.word = 0x20 ∧ s.opReady 0 0 o = false ∧
    cause (exec (.streamDeadlockCheck 0 0) s) = 6 := by decide +kernel
theorem test_reread_witness : let s := base.onPump 0 0 fun q => { q with reread := some ⟨7, 0x0101⟩ }
    (s.pump 0 0).reread = some ⟨7, 0x0101⟩ ∧ (s.slice 0 0).upset.readD 0 7 = 0 := by decide +kernel
/-- A correctable error of the path is counted under the bond's source, and the re-read under SOURCE 7 (R249). -/
theorem test_reread_counts : let s := base.onPump 0 0 fun q => { q with reread := some ⟨7, 0x0101⟩ }
    ((after (exec (.ueReread 0 0 0) s)).chan 0).cis.ceCount[7] = 1 ∧ ((after (exec (.bondReadDelivery 0 0 3 1) base)).chan 0).cis.ceCount[2] = 1 := by
  decide +kernel
/-- An instruction that writes a register on which a load is under way issues, and the load no longer reaches it. -/
theorem test_awaiting_dest_issues : ((after (exec (.teAdd 0 0 0 3 1 2) (teOf base { grp with awaiting := [(3, 0, 0)] }))).group 0 0 0).map
    (·.awaiting) = some [] := by decide +kernel

/-! ### Modes, budget, frames, halts -/

def slot0 (f : Slot → Slot) : State := base.onSlot 0 0 f
def fr (f : SlotFrame → SlotFrame) : State := base.onFr 0 0 f
def pwr (f : Power → Power) : State := base.onPwr 0 f
def rep (fault : Bool) : Report := ⟨fault, false, 0, 0, 0, 0⟩
def s0 (r : Res) : Slot := (after r).slot 0 0

theorem test_mode_witness : base.mc.inReset = false ∧ base.present 0 = true ∧
    (let s := (pwr fun p => { p with clk15 := true });
      (s.chan 0).pwr.clk15 = true ∧ s.mc.pwr.mode ≠ 2 ∧ 18 ≤ (s.chan 0).pwr.phases) ∧
    (let s := base.onMc fun m => { m with pwr := { m.pwr with mode := 2 } };
      s.mc.pwr.mode = 2 ∧ (s.chan 0).pwr.clk15 = false) ∧
    (let s := pwr fun p => { p with move := .outEff, setMv := 720, droopMv := 708 };
      (s.chan 0).pwr.setMv ≤ (s.chan 0).pwr.droopMv + (s.chan 0).pwr.guard) := by decide +kernel
theorem test_mode_write : ((after (exec (.mcOpModeWrite 2) base)).mc.pwr.mode = 2) ∧ ((after (exec (.mcOpModeWrite 3) base)).mc.pwr.modeErr = true) ∧
    ((after (exec (.mcOpModeWrite 3) base)).mc.pwr.mode = 0) := by decide +kernel
theorem test_mode_into_efficient : (after (exec (.modeChangeReceipt 0) (base.onMc fun m => { m with pwr := { m.pwr with mode := 2 } }))).outputs =
    [.setpoint 0 620] := by decide +kernel

/-- Two channels in service: 5,400 W x 0.92 - 40 W, no more than 700 W each; above the limit in proportion (R19). -/
def served : State := base.onMc fun m => { m with inService := 3 }
theorem test_budget_witness : served.serving 0 = true ∧ served.heldAtGrant 0 = false ∧ served.serving 7 = false := by decide +kernel
theorem test_budget : (after (exec (.budgetComputation 5000) served)).mc.pwr.grant = #v[700, 700, 0, 0, 0, 0, 0, 0] ∧
    (after (exec (.budgetComputation 5400) served)).mc.pwr.scaled = false ∧ ((after (exec (.budgetComputation 6000) served)).mc.pwr.grant)[0] = 630 := by
  decide +kernel
theorem test_gnover_reset_keeps_jobs : (after (exec .gnoverReset base)).mc.jobs.keys = [1] := by decide +kernel

/-- Every pump of the job has reported. -/
def frameEnd : State := (State.each base (List.finRange 8) fun t i => t.onPump 0 (pumpOf 0 i) fun q => { q with run := .reported })
theorem test_frame_over_witness : (frameEnd.slot 0 0).live = true ∧ (frameEnd.slot 0 0).job.polders ≠ 0 ∧ (frameEnd.slot 0 0).fr.own = none ∧ frameEnd.frameOver 0 0 = true ∧
    (frameEnd.slot 0 0).fr.deadFault = false ∧ (frameEnd.slot 0 0).fr.cutFault = none ∧ (frameEnd.slot 0 0).fr.ueFault = none := by decide +kernel
theorem test_frame_done_late : (s0 (exec (.channelFrameDone 0 0) { frameEnd with timeNs := 130000 })).fr.own.map (·.late) = some 30000 := by decide +kernel
theorem test_dead_read_at_frame_end : cause (exec (.channelFrameDone 0 0) (frameEnd.onFr 0 0 fun f => { f with deadFault := true })) = 9 := by decide +kernel

def tree0 : Tree := ⟨0b10, true, none, some 0, 0, 0, [], none, false, [], 0⟩
def withTree (s : State) (t : Tree) : State := s.onChan 0 fun h => { h with router := { h.router with trees := [(4, t)] } }
/-- A node with one child on port 1, or two. -/
def node (kids : List PortIx) : State :=
  withTree ((slot0 fun x => { x with job := { x.job with children := kids } }).onFr 0 0 fun f => { f with own := some (rep false) }) tree0
theorem test_reports_witness : ((node [1]).chan 0).router.trees.look 4 = some tree0 ∧ (1 : PortIx) ∈ ((node [1]).slot 0 0).job.children ∧
    ((node [1]).slot 0 0).fr.combined = none ∧ (∀ p ∈ [(1 : PortIx)], ∃ e ∈ [((1 : PortIx), rep true)], e.1 = p) ∧
    (∃ p ∈ [(1 : PortIx), 2], ∀ e ∈ [((1 : PortIx), rep true)], e.1 ≠ p) := by decide +kernel
theorem test_reports_combine : ((s0 (exec (.doneMarker 0 1 4 (rep true)) (node [1]))).fr.combined.map (·.fault)) = some true ∧
    (s0 (exec (.doneMarker 0 1 4 (rep true)) (node [1, 2]))).fr.combined = none := by decide +kernel

def fenced : State := fr fun f => { f with own := some (rep false), combined := some (rep false), issueNs := 100 }
theorem test_tick_issue_witness : (fenced.slot 0 0).fr.combined = some (rep false) ∧ fenced.fenceMet 0 0 = true ∧ (fenced.slot 0 0).fr.pend = none ∧
    (fenced.slot 0 0).job.acting = false ∧ fenced.endsHere 0 0 = false ∧ fenced.homeTrouble 0 0 = none ∧ (rep false).fault = false ∧ (fenced.slot 0 0).job.state = .running := by decide +kernel
/-- P of 200 us after the last tick, or late, which counts an overrun (R31, R39). -/
theorem test_tick_issue : (after (exec (.tickIssue 0 0) fenced)).timeNs = 200100 ∧
    (s0 (exec (.tickIssue 0 0) { fenced with timeNs := 200101 })).regs.ovrFrames = 1 := by decide +kernel
theorem test_tick_takes_effect_witness : let s := fr fun f => { f with pend := some ⟨false, 0, 0⟩ }
    (s.slot 0 0).fr.pend = some ⟨false, 0, 0⟩ ∧ (s.slot 0 0).live = true ∧ (s.slot 0 0).job.state ≠ .halted ∧
    (s.slot 0 0).job.polders.getLsbD ((7 : PumpIx).val / 8) = true := by decide +kernel
theorem test_tick_takes_effect : let t := after (exec (.tickTakesEffect 0 0) ((fr fun f => { f with pend := some ⟨false, 0, 0⟩ }).onPump 0 0 fun q => { q with
      x := [(1, 5)], dmem := [(0, 3), (0xC00, 4)] }))
    (t.slot 0 0).regs.frame = 10 ∧ (t.pump 0 0).x = [] ∧ (t.pump 0 0).dmem = [(0, 3)] := by decide +kernel

theorem test_tick_marker_path (acc lat : Nat) : (acc + lat + Config.forwardQns) % 2 ^ 20 ≤ 2 ^ 20 := Nat.le_of_lt (Nat.mod_lt _ (by decide))
/-- A member whose equalising delay is the longest of 20 bits takes a first copy whatever the router's time. -/
theorem test_tick_marker_witness : let s := withTree (slot0 fun x => { x with regs := { x.regs with dmax := 2 ^ 20 } }) tree0
    (s.chan 0).router.trees.look 4 = some tree0 ∧ tree0.lastTick ≠ some 0 ∧ tree0.slot = some 0 ∧ tree0.deliver = true ∧ (s.slot 0 0).live = true ∧
    (s.slot 0 0).regs.dmax = 2 ^ 20 := by decide +kernel
theorem test_tick_marker_repeats : let s := withTree base { tree0 with lastTick := some 7 }
    (s.chan 0).router.trees.look 4 = some { tree0 with lastTick := some 7 } ∧ (s0 (exec (.tickMarker 0 1 4 false 2 7 0) s)).fr.pend = none := by
  decide +kernel
theorem test_local_tick_witness : ∀ i : SlotIx, (State.reset.slot 0 i).live = false := by decide +kernel
theorem test_local_tick_commits : let t := after (exec (.localTick 0) (State.reset.onStg 0 0 fun g => { g with
      state := .commitPending, set := { g.set with periodUs := 100 } }))
    t.timeNs = 200000 ∧ (t.slot 0 0).regs.set.periodUs = 100 := by decide +kernel

theorem test_halt_witness : let s := withTree (fr fun f => { f with combined := some (rep true) }) tree0
    (s.slot 0 0).live = true ∧ (s.slot 0 0).job.state ≠ .halted ∧ (s.slot 0 0).fr.combined = some (rep true) ∧ (s.slot 0 0).job.lead = true ∧
    (s.chan 0).router.trees.look 4 = some tree0 ∧ tree0.halt = false := by decide +kernel
theorem test_halt : (s0 (exec (.haltMarker 0 1 4 0 0) (withTree base tree0))).job.state = .halted ∧
    (s0 (exec (.haltMarker 0 1 4 0 0) (withTree base tree0))).regs.frame = 9 := by decide +kernel

theorem test_lost_ticks_witness : base.fenceMet 0 0 = false ∧ (let s := slot0 fun x => { x with job := { x.job with lead := false, failover := [0] } };
    (s.slot 0 0).job.lead = false ∧ s.firstLive 0 0 = true) ∧ (let s := slot0 fun x => { x with job := { x.job with nonMembers := [9] } };
    (9 : ChanAddr) ∈ (s.slot 0 0).job.nonMembers ∧ (9, 4) ∉ (s.slot 0 0).fr.notices) := by decide +kernel
theorem test_watchdog : cause (exec (.watchdogExpiry 0 0) base) = 13 ∧ (after (exec (.watchdogExpiry 0 0) base)).timeNs = 1000000000 := by decide +kernel
theorem test_tick_lost : (let r := exec (.tickLost 0 0) (slot0 fun x => { x with job := { x.job with lead := false } });
    cause r = 4 ∧ (after r).timeNs = 1000100000 ∧ ((slot0 id).slot 0 0).regs.flt.valid = false ∧ ((slot0 id).slot 0 0).fr.pend = none) := by decide +kernel

def item : UrgentItem := ⟨0, hd, 3, 10, 0, true, false, false⟩
def window : State := (slot0 fun x => { x with regs := { x.regs with windowUs := 10 }, urgents := [item] }).onFr 0 0 fun f => { f with windowOpen := true }
theorem test_window_witness : (window.slot 0 0).fr.windowOpen = true ∧ (window.slot 0 0).urgent = none ∧ (window.slot 0 0).fr.faultFlag = false ∧
    (window.slot 0 0).ckpt = none ∧ nextUrgent ((window.slot 0 0).fr.windowNs + (window.slot 0 0).regs.windowUs * 1000 - window.timeNs)
      (window.slot 0 0).urgents [] = some item := by decide +kernel
theorem test_urgent_complete_witness : let s := frameEnd.onSlot 0 0 fun x => { x with urgents := [{ item with running := true }] }
    (s.slot 0 0).urgent = some { item with running := true } ∧ ∀ p ∈ (s.chan 0).pumpsOf 0, (s.pump 0 p).run = .reported := by decide +kernel
theorem test_window_too_short : nextUrgent 9999 [item] [] = none := by decide +kernel

theorem test_fault_witness : (base.slot 0 0).live = true ∧ (base.slot 0 0).regs.flt.valid = false ∧
    ((base.fault 0 0 .access .none 0 0).slot 0 0).regs.flt.valid = true := by decide +kernel
theorem test_second_fault_counts : (((base.fault 0 0 .access .none 0 0).fault 0 0 .bond .none 1 0).slot 0 0).regs.flt.cause = 7 ∧
    (((base.fault 0 0 .access .none 0 0).fault 0 0 .bond .none 1 0).slot 0 0).regs.flt.remove = true := by decide +kernel

/-! ### Staged changes -/

def stg (f : Staging → Staging) : State := base.onStg 0 0 f
theorem test_staging_witness : base.windowOpen 0 = true ∧ (base.chan 0).st.busy = false ∧ stWord 0x010000 = some (.frameCfg 0) ∧
    (0 : SlotIx) ∈ (base.chan 0).banks (.frameCfg 0) ∧ stWord 0x100020 = some (.polder 0) ∧ (0 : SlotIx) ∈ (base.chan 0).banks (.polder 0) ∧
    ((stg fun g => { g with state := .checking }).chan 0).checkSet 0 = none ∧
    ((stg fun g => { g with state := .checking, set := { g.set with periodUs := 19 } }).chan 0).checkSet 0 = some (1, 0x010000, 0) ∧
    ((stg fun g => { g with state := .checking, set := { g.set with periodUs := 20 } }).chan 0).checkSet 0 = none ∧
    (base.chan 0).isMaster 0 = true ∧ (base.chan 0).isMaster 1 = false := by decide +kernel
theorem test_staging_states : (s0 (exec (.stWrite 0 0x010000 false 0x03E80064) base)).stg.set.periodUs = 100 ∧
    (s0 (exec (.stWrite 0 0x010000 false 0x03E80064) base)).regs.set.periodUs = 200 ∧
    (s0 (exec (.stWrite 0 0x010000 false 0x03E80064) (stg fun g => { g with state := .checked }))).stg.locked = true ∧
    (s0 (exec (.stgUnlock 0 0) (stg fun g => { g with state := .commitPending }))).stg.state = .commitPending ∧
    (s0 (exec (.stgRevert 0 0) (stg fun g => { g with state := .checked }))).stg.state = .clean ∧
    (s0 (exec (.stgCommit 0 0 5) (stg fun g => { g with state := .checked, tag := 5 }))).stg.state = .commitPending ∧
    (s0 (exec (.stgCommit 0 0 6) (stg fun g => { g with state := .checked, tag := 5 }))).stg.reason = 2 := by decide +kernel
theorem test_commit_timeout : (s0 (exec (.commitTimeout 0 0) (stg fun g => { g with state := .commitPending, fences := 16 }))).stg.state = .failed ∧
    (s0 (exec (.commitTimeout 0 0) (stg fun g => { g with state := .commitPending, fences := 15 }))).stg.state = .commitPending := by decide +kernel

theorem test_mode_rest_witness : (let s := pwr fun p => { p with move := .intoEff }; (s.chan 0).pwr.move = .intoEff) ∧
    (let s := pwr fun p => { p with move := .unconfirmed }; (s.chan 0).pwr.move = .unconfirmed ∧ s.mc.pwr.mode ≠ 2 ∧ 18 ≤ (s.chan 0).pwr.phases) := by
  decide +kernel

/-- A node with a parent on port 2, which speaks, and a router without a member of the job. -/
def spoken (s : State) : State := s.onPort 0 2 fun p => { p with state := .active }
def tree1 : Tree := { tree0 with mask := 0b110, deliver := false, parent := some 2, slot := none }
theorem test_reports_up_witness : let s := spoken ((node [1]).onSlot 0 0 fun x => { x with job := { x.job with parent := some 2 } })
    (s.slot 0 0).job.parent = some 2 ∧ (s.slot 0 0).job.acting = false ∧ (s.port 0 2).speaks = true ∧ (s.slot 0 0).job.polders ≠ 0 ∧
    (s.slot 0 0).fr.own = some (rep false) := by decide +kernel
theorem test_router_node_witness : let s := spoken (withTree base tree1)
    (s.chan 0).router.trees.look 4 = some tree1 ∧ tree1.slot = none ∧ tree1.kids = [1] ∧ tree1.reports = [] ∧ tree1.parent = some 2 ∧
    (s.port 0 2).speaks = true ∧ (after (exec (.doneMarker 0 1 4 (rep true)) s)).outputs.length = 1 := by decide +kernel

/-- A pending commit rides the fence, but not one that came once the fence was met (R62). -/
theorem test_tick_carries_commit : let pend := fun (late : Bool) =>
    (s0 (exec (.tickIssue 0 0) ((fr fun f => { f with own := some ⟨false, true, 5, 0, 0, 0⟩, combined := some ⟨false, true, 5, 0, 0, 0⟩ }).onStg 0 0
      fun g => { g with state := .commitPending, commitTag := 5, late := late }))).fr.pend.map (·.commit)
    pend false = some true ∧ pend true = some false := by decide +kernel
/-- The equalising delay: DMAX less the path, in quarter nanoseconds (R33). -/
theorem test_tick_waits_for_dmax : (after (exec (.tickTakesEffect 0 0) ((fr fun f => { f with pend := some ⟨false, 100, 50⟩ }).onSlot 0 0 fun x =>
    { x with regs := { x.regs with dmax := 500 } }))).timeNs = 150 := by decide +kernel
theorem test_tick_commit_witness : let s := (fr fun f => { f with pend := some ⟨true, 0, 0⟩ })
    (s.slot 0 0).fr.pend = some ⟨true, 0, 0⟩ ∧ (s.slot 0 0).live = true := by decide +kernel
/-- Whatever a port's latency and the router's time, some accumulated latency gives a path of 1 quarter nanosecond, past a DMAX of 0. -/
theorem test_tick_path_witness (lat fwd : Nat) : ∃ acc : BitVec 20, (acc.toNat + lat + fwd) % 2 ^ 20 = 1 :=
  ⟨BitVec.ofNat 20 (2 ^ 20 + 1 - (lat + fwd) % 2 ^ 20), by rw [BitVec.toNat_ofNat]; omega⟩
theorem test_tick_skew_witness : let s := withTree base tree0
    (s.slot 0 0).regs.dmax < 1 ∧ (s.chan 0).router.trees.look 4 = some tree0 ∧ tree0.lastTick ≠ some 0 ∧ tree0.deliver = true := by decide +kernel
theorem test_local_tick_other_witness : (State.reset.slot 0 0).stg.state ≠ .commitPending ∧
    ((State.reset.onStg 0 0 fun g => { g with state := .commitPending }).slot 0 0).stg.state = .commitPending := by decide +kernel
theorem test_lost_ticks_rest_witness : let s := (slot0 fun x => { x with job := { x.job with lead := false, failover := [0] } }).onFr 0 0 fun f =>
      { f with faultSeen := [(3, 4)] }
    (s.slot 0 0).job.state = .running ∧ (s.slot 0 0).fr.pend = none ∧ (s.slot 0 0).job.polders ≠ 0 ∧ (s.slot 0 0).fr.masterLost = true ∧
    s.firstLive 0 0 = true ∧ (s.slot 0 0).regs.flt.valid = false := by decide +kernel
theorem test_window_close_frees_ports : let s := (frameEnd.onSlot 0 0 fun x => { x with urgents := [{ item with running := true }] }).onChan 0 fun h =>
      { h with arbs := upd h.arbs 3 fun a => { a with hold := [0] } }
    ((after (exec (.urgentItemComplete 0 0) s)).chan 0).arbs[3].hold = [] := by decide +kernel
theorem test_commit_late : (s0 (exec (.stgCommit 0 0 5) ({ fenced with timeNs := 200100 }.onStg 0 0 fun g => { g with state := .checked, tag := 5 }))).stg.late = true ∧
    (s0 (exec (.stgCommit 0 0 5) (stg fun g => { g with state := .checked, tag := 5 }))).stg.late = false := by decide +kernel
theorem test_commit_timeout_witness : let s := stg fun g => { g with state := .commitPending, fences := 16 }
    (s.slot 0 0).stg.state = .commitPending ∧ 16 ≤ (s.slot 0 0).stg.fences ∧ (s.slot 0 0).fr.pend = none := by decide +kernel

/-! ### The cistern, HBM and arbitration -/

def far : FabAddr := ⟨9, 0⟩
def fill (n : Nat) (e : FillEnt) : State := base.onChan 0 fun h => { h with fills := List.replicate n e }
def farFill (mask : List PumpIx) : FillEnt := ⟨far, none, mask, [], false, 0, []⟩
def fills (n : Nat) : State := fill n ⟨⟨9, keyOff 128⟩, none, [], [], false, 0, []⟩
/-- A table without the line, one that is full, and an entry of the line that waits; in sector mode, an entry of a sector. -/
theorem test_fill_witness : (base.chan 0).slotOf 0 = some 0 ∧ (base.slice 0 0).cached (base.frameOf 0 0) (lineOf 128 9 0) = none ∧
    lineOf 128 9 0 = far ∧ (base.chan 0).fills = [] ∧ base.streamWants 0 0 far none = false ∧
    ((fill 1 (farFill [1])).chan 0).fills = [farFill [1]] ∧ (0 : PumpIx) ∉ (farFill [1]).mask ∧
    1024 ≤ ((fills 1024).chan 0).fills.length ∧ ((fills 1024).chan 0).fills.all (fun y => y.at_ != far) = true ∧
    (let s := base.onCis 0 fun x => { x with sector := true }; (s.chan 0).cis.sector = true ∧ lineOf 4 9 5 = ⟨9, keyOff 4⟩) := by decide +kernel
theorem test_fill_delivery_witness : let e : FillEnt := ⟨⟨0, 0⟩, none, [0], [], false, 0, []⟩
    ((fill 1 e).chan 0).fills.find? (fun y => y.at_ == lineOf 128 0 0) = some e ∧ (fill 1 e).fillWhole 0 e = true ∧ (fill 1 e).hbmFrozen 0 0 = false ∧
    0 < ((fill 1 e).chan 0).lineRoom := by decide +kernel
theorem test_fill_delivers : let t := after (exec (.fillDelivery 0 ⟨0, 0⟩) (fill 1 ⟨⟨0, 0⟩, none, [0], [], false, 0, []⟩))
    (t.chan 0).fills = [] ∧ ((t.slice 0 0).lines.map (·.epoch)) = [none] := by decide +kernel
/-- A sector of 32 bytes: the line in the slice holds sector 1 of 4. -/
theorem test_sector_delivers : let s := (fill 1 ⟨⟨0, 0⟩, some 1, [0], [], false, 0, []⟩).onCis 0 fun x => { x with sector := true }
    ((after (exec (.fillDelivery 0 ⟨0, keyOff 1⟩) s)).slice 0 0).lines.map (·.sects) = [some [1]] := by decide +kernel

/-- A whole granule of the last frame for granule 3 of slice 0. -/
def entry : Held := ⟨0, 8, keyOff (sliceKey 0 3), 0xFFFFFFFF, 0xEE, 0, 0⟩
def heldOne : State := base.onChan 0 fun h => { h with held := [entry] }
theorem test_drain_witness : (heldOne.chan 0).held = [entry] ∧ heldOne.due 0 0 8 = true ∧ heldOne.due 0 0 9 = false ∧
    keySlice (offKey entry.off) = some (0, 3) ∧ deadAt (heldOne.slice 0 0).dead 0 = none ∧ (heldOne.slice 0 0).shadows.look 3 = none ∧
    (heldOne.slice 0 0).inbound.look 3 = none ∧ (heldOne.chan 0).atoms = [] ∧ (heldOne.chan 0).decls = [] := by decide +kernel
theorem test_drain : ((after (exec (.heldEntryDrain 0) heldOne)).slice 0 0).get 3 = 0xEE := by decide +kernel

theorem test_cis_witness : (State.reset.chan 0).liveSlots = [] ∧ (base.chan 0).liveSlots ≠ [] ∧ (1 : BitVec 32).getLsbD 0 ≠ (base.chan 0).cis.sector ∧
    logicalOf (base.chan 0) 0 = some 0 ∧ logicalOf (base.chan 0) 142 = some 127 ∧ logicalOf (base.chan 0) 143 = none ∧
    (base.chan 0).slotOf 0 ≠ none ∧ (State.reset.chan 0).slotOf 0 = none ∧ (0x10000 : BitVec 32).getLsbD 16 = true := by decide +kernel
theorem test_cis_mode_refused : ((after (exec (.cisModeWrite 0 1) base)).chan 0).cis.modeErr = true ∧
    ((after (exec (.cisModeWrite 0 1) State.reset)).chan 0).cis.sector = true := by decide +kernel

/-- Granule 3 of physical slice 0, at rest and in a ranged pass. -/
def scrub (f : Cistern → Cistern) : State := (base.onSlice 0 0 fun sl => sl.put 3 0xA5).onCis 0 f
theorem test_scrub_witness : ((scrub id).slice 0 0).mem.look 3 = some 0xA5 ∧ ((scrub id).chan 0).cis.busy = false ∧ ((scrub id).chan 0).cis.cisRate ≠ 0 ∧
    SMap.sorted ((scrub id).slice 0 0).upset ∧ 3 + ((scrub id).chan 0).heldShare < 524288 ∧ 3 < ((scrub id).chan 0).pinned ∧ bscDecode 1 = .corrected 4 1 ∧
    (let s := scrub fun x => { x with busy := true, passUnit := 0, passPos := 3, passEnd := 4 };
      (s.chan 0).cis.passPos = 3 ∧ 3 < (s.chan 0).cis.passEnd) ∧
    (let s := scrub fun x => { x with busy := true, passPos := 4, passEnd := 4 }; (s.chan 0).cis.passEnd ≤ (s.chan 0).cis.passPos) := by decide +kernel
theorem test_scrub_corrects : let t := after (exec (.scrubStep 0 false 0 3 1) (scrub id))
    (t.slice 0 0).get 3 = 0xA5 ∧ ((t.chan 0).cis.ceCount)[0] = 1 := by decide +kernel
/-- AUTO: above RAISE the level rises; after 60 quiet windows it falls (R255). -/
theorem test_scrub_window : ((after (exec (.scrubWindow 0) (scrub fun x => { x with windowCe := 65 }))).chan 0).cis.level = 1 ∧
    ((after (exec (.scrubWindow 0) (scrub fun x => { x with windowCe := 64, level := 2, quiet := 59 }))).chan 0).cis.level = 1 ∧
    ((after (exec (.scrubWindow 0) (scrub fun x => { x with level := 2, quiet := 58 }))).chan 0).cis.level = 2 := by decide +kernel
theorem test_training_rate_three : ((after (exec (.hbmTrainingComplete 0 1 3 0xFF) base)).chan 0).st.oos.getLsbD 8 = true := by decide +kernel

def req (cls : ReqClass) (deadline : BitVec 32) : Req := ⟨cls, deadline, 3, none, false⟩
def arb (f : Arb → Arb) : State := base.onChan 0 fun h => { h with arbs := upd h.arbs 0 f }
/-- Two requests of which the earlier wins; of which one is of an owed class; an urgent one with a later deadline. -/
theorem test_arbitration_witness : (req .sched 5).beats (req .ckpt 9) = true ∧ (req .ckpt 9).beats (req .sched 5) = false ∧
    (let a := ((arb fun a => { a with reqs := [req .sched 5, req .ckpt 9] }).chan 0).arbs[0];
      a.freeze = false ∧ a.hold = [] ∧ a.cut = none ∧
      ∀ x ∈ a.reqs, (a.accrue (base.chan 0).set.share[0] a.candidates)[(ReqClass.ix x.cls).val] < 256) ∧
    (let a := ((arb fun a => { a with reqs := [req .sched 5, req .ckpt 4], d := upd a.d 1 fun _ => 96 }).chan 0).arbs[0];
      256 ≤ (a.accrue (base.chan 0).set.share[0] a.candidates)[1] ∧ (a.accrue (base.chan 0).set.share[0] a.candidates)[5] < 256) := by decide +kernel
theorem test_arbitration : ∀ e ∈ [([req .sched 5, req .ckpt 9], 0, [req .ckpt 9]), ([req .sched 5, req .ckpt 4], 96, [req .ckpt 4]),
    ([req .sched 5, req .ckpt 4], 95, [req .sched 5]), ([req .sched 5, req .urgent 9], 0, [req .sched 5])],
    (((after (exec (.burstBoundary 0 0) (arb fun a => { a with reqs := e.1, d := upd a.d 1 fun _ => e.2.1 }))).chan 0).arbs[0]).reqs = e.2.2 := by
  decide +kernel
theorem test_master_port_witness : let q : Req := ⟨.sched, 0, 3, some 0, false⟩
    let s := base.onChan 0 fun h => { h with reg := { h.reg with held := [(0, q)] } }
    (s.chan 0).reg.held = [(0, q)] ∧ q.slot = some 0 ∧ s.trickled 0 q = none ∧ ((s.chan 0).reg.bucket[(ReqClass.ix q.cls).val]).2 ≤ s.timeNs := by
  decide +kernel

/-- OVERDUE comes more than 2^30 ns after the deadline, and the clock with it (R274). -/
theorem test_overdue : let t := after (exec (.overdue 0 0 0) (arb fun a => { a with reqs := [req .sched 5] }))
    (t.chan 0).arbs[0].reqs.map (·.overdue) = [true] ∧ t.timeNs = 2 ^ 30 + 6 := by decide +kernel
theorem test_freeze_witness : base.windowOpen 0 = true ∧ (base.chan 0).stalled = [] ∧ (base.port 0 1).waiting = [] ∧
    (let a := ((arb fun a => { a with freeze := true }).chan 0).arbs[0]; a.freeze = true ∧ a.reqs = []) := by decide +kernel
/-- A frozen egress port keeps its flits until FREEZE is cleared (R280). -/
theorem test_freeze_holds_flits : let s := (base.onPort 0 1 fun p => { p with state := .active }).onChan 0 fun h =>
      { h with arbs := upd h.arbs (egress 1) fun a => { a with freeze := true } }
    let t := s.sendFlit 0 1 (.wack 9 1)
    t.outputs = [] ∧ (t.port 0 1).waiting = [.wack 9 1] ∧ (after (exec (.arbFreezeLnk 0 0) t)).outputs = [.flit 0 1 0 (.wack 9 1)] := by decide +kernel
/-- In the held share, at an own line, and in a class that is owed nothing: the middle region bounds the lines of a slice. -/
theorem test_line_region : (base.chan 0).lineRoom * 128 + (base.chan 0).pinned + (base.chan 0).heldShare ≤ 2 ^ 19 := by decide +kernel
/-! ### Ports -/

def port (f : Port → Port) : State := base.onPort 0 1 f
def pt (r : Res) : Port := (after r).port 0 1
def info (step : Fin 8) (good : BitVec 8) : TrainInfo := ⟨step, good, 0, 40, 9, 2, 7⟩
theorem test_ports_witness : chooseWidth 0xFF (widest 0 0) = some (0, 0) ∧ chooseWidth 0xFE (widest 0 0) = some (1, 1) ∧ chooseWidth 0x03 (widest 0 0) = some (2, 0) ∧
    chooseWidth 0x55 (widest 0 0) = none ∧ 2 ≤ (bitsOf (0x81 : BitVec 8)).length ∧
    ((port fun p => { p with state := .active }).portInUse 0 1 = false) ∧ ((port fun p => { p with state := .active, owner := some 0 }).portInUse 0 1 = true) ∧
    ((port fun p => { p with state := .active, width := 0, good := 0xFF }).port 0 1).lanesUsed = 0xFF ∧
    ((port fun p => { p with state := .active, width := 1, good := 0xFF }).port 0 1).lanesUsed.getLsbD 7 = false ∧
    ((port fun p => { p with state := .drain }).port 0 1).speaks = true ∧ (base.port 0 1).state = .disabled ∧
    ((base.onPwr 0 fun p => { p with lk := .on }).chan 0).pwr.lk = .on := by decide +kernel
theorem test_port_states : (pt (exec (.signalDetect 0 1 0x81) (port fun p => { p with state := .detect }))).step = 1 ∧
    (pt (exec (.trainStepComplete 0 1 (info 4 0xFE)) (port fun p => { p with state := .train, step := 4, good := 0xFF }))).width = 1 ∧
    (pt (exec (.trainStepComplete 0 1 (info 6 0xFF)) (port fun p => { p with state := .train, step := 6 }))).partnerCh = 2 ∧
    (pt (exec (.trainStepComplete 0 1 (info 7 0xFF)) (port fun p => { p with state := .train, step := 7 }))).state = .active ∧
    (pt (exec (.trainingTimeout 0 1) (port fun p => { p with state := .train, restarts := 2 }))).state = .train ∧
    (pt (exec (.trainingTimeout 0 1) (port fun p => { p with state := .train, restarts := 3 }))).state = .down ∧
    (pt (exec (.lossOfSignal 0 1) (port fun p => { p with state := .active }))).state = .down ∧
    (pt (exec (.laneFailure 0 1 0) (port fun p => { p with state := .active, width := 0, good := 0xFF }))).width = 1 := by decide +kernel
theorem test_slot_entry_witness : let e : SlotEntry := ⟨100, 3, 0xC⟩
    let s := port fun p => { p with owner := some 0, table := [e] }
    (s.port 0 1).owner = some 0 ∧ (s.port 0 1).table[(s.port 0 1).cursor]? = some e ∧ (s.port 0 1).left = 0 := by decide +kernel
theorem test_slot_entry_opens : (after (exec (.slotEntryOpen 0 1) (port fun p => { p with owner := some 0, table := [⟨100, 3, 0xC⟩] }))).timeNs = 1000 ∧
    (pt (exec (.slotEntryOpen 0 1) (port fun p => { p with owner := some 0, table := [⟨100, 3, 0xC⟩] }))).left = 4 := by decide +kernel

theorem test_ports_rest_witness : base.linkable 0 1 = true ∧ wiredTo 0 1 = some 2 ∧ wiredTo 0 3 = some 7 ∧ wiredTo 5 2 = some 1 ∧ wiredTo 0 4 = none ∧
    (let s := (port fun p => { p with state := .active }).onPort 2 1 fun p => { p with state := .active };
      (s.port 0 1).speaks = true ∧ (s.port 2 1).speaks = true) ∧
    (let s := base.onMc fun m => { m with fuses := { m.fuses with present := 0xFB } }; s.linkable 0 1 = false ∧ s.linkable 0 0 = true) := by decide +kernel
/-- A port to another module takes its partner from the training; the loss of an on-module link is seen at both ends (R14). -/
theorem test_partner_and_loss : ((after (exec (.trainStepComplete 0 4 (info 6 0xFF)) (base.onPort 0 4 fun p => { p with state := .train, step := 6 }))).port 0 4).partnerCh = 9 ∧
    ((after (exec (.lossOfSignal 0 1) ((port fun p => { p with state := .active }).onPort 2 1 fun p => { p with state := .active }))).port 2 1).state = .down := by
  decide +kernel
/-! ### Flits and markers -/

/-- Channel 0 with ports 1 and 2 ACTIVE, a route by port 2 to channel address 9 in set 0, and that channel a member of the job. -/
def net : State :=
  let s1 := (base.onPort 0 1 fun p => { p with state := .active }).onPort 0 2 fun p => { p with state := .active }
  let s2 := s1.onSlot 0 0 fun x => { x with job := { x.job with members := [0, 9] } }
  s2.onChan 0 fun h => { h with router := { h.router with routes := upd h.router.routes 0 fun _ => [(9, 2)] } }
def fl : FlitHdr := flit 9 0
def rec0 : WriteRec := ⟨keyOff (sliceKey 0 3), 0xFFFFFFFF, 0xEE, 0⟩
theorem test_accepts : TakenHere net 0 1 fl := by unfold TakenHere Accepts; decide +kernel
theorem test_write_flit_witness : (net.chan 0).validKey (offKey rec0.off) = true ∧ net.senderSlot 0 fl (offKey rec0.off) = some 0 ∧ NoEntry net 0 0 rec0 ∧
    HoldRoom net 0 0 (offKey rec0.off) := by
  refine ⟨by decide +kernel, by decide +kernel, ?_, ?_⟩
  · unfold NoEntry; decide +kernel
  · show net.heldUse 0 0 < (net.chan 0).heldShare; decide +kernel
theorem test_pass_on_witness : routePort ((net.chan 0).route 0 9) = some 2 ∧ (2 : PortIx) ≠ 1 ∧ ({ fl with dest := 9 } : FlitHdr).dest ≠ net.addrOf 0 ∧
    SendsNow net 0 2 (.passed 9 (.write 9 [])) := by unfold SendsNow; decide +kernel
theorem test_write_flit : ((after (exec (.writeFlit 0 1 fl [rec0]) net)).chan 0).held.map (fun e => (e.frame, e.data)) = [(9, 0xEE)] ∧
    ((after (exec (.writeFlit 0 1 { fl with crcOk := false } [rec0]) net)).outputs = [.marker 0 1 (.nak 0) 1]) := by decide +kernel
theorem test_atomic_flit_witness : let a : AtomicRec := ⟨keyOff (sliceKey 0 3), false, .add, 1, 1, 0, false⟩
    (net.chan 0).validKey (offKey a.off) = true ∧ net.senderSlot 0 fl (offKey a.off) = some 0 ∧ a.ret = false := by decide +kernel
/-- Granule 3 of slice 0, and the line of 128 granules that holds it, read by channel 9 over port 2. -/
def readNet : State := net.onSlice 0 0 fun sl => sl.put 3 0xAB
theorem test_read_flit_witness : let k := sliceKey 0 0
    (readNet.chan 0).validKey k = true ∧ keySlice k = some (0, 0) ∧ readNet.hbmFrozen 0 k = false ∧ (readNet.chan 0).portFrozen 2 = false ∧
    (readNet.port 0 2).state = .active ∧ (readNet.port 0 2).waiting = [] ∧ 8 ≤ (readNet.port 0 2).credits[1] ∧
    (readNet.port 0 2).replay.length + 8 ≤ 128 ∧ (readNet.slice 0 0).shadows = [] ∧ routePort ((readNet.chan 0).route 0 9) = some 2 := by decide +kernel
theorem test_read_flit_granules (i : Nat) : PlainGranule readNet 0 0 (0 + i) ∧ (readNet.slice 0 0).shadows.look (0 + i) = none :=
  ⟨test_plain_of (by decide +kernel), by rw [show (readNet.slice 0 0).shadows = [] from by decide +kernel]; rfl⟩
/-- A READ of one granule is answered with its line, in eight flits of 16 granules. -/
theorem test_read_flit : let o := (after (exec (.readFlit 0 1 fl [⟨0, keyOff (sliceKey 0 3)⟩]) readNet)).outputs
    o.length = 10 ∧ Output.flit 0 2 0 (.rdata 9 ⟨0, keyOff (sliceKey 0 0)⟩ ([0, 0, 0, 0xAB] ++ List.replicate 12 0)) ∈ o := by decide +kernel
theorem test_rdata_flit_witness : let e : FillEnt := ⟨far, none, [0], [], false, 0, []⟩
    let s := net.onChan 0 fun h => { h with fills := [e] }
    (s.chan 0).fills = [e] ∧ e.at_.chan = fl.src ∧ offKey e.at_.off ≤ fl.target.toNat ∧ SMap.sorted e.got ∧
    fl.target.toNat + 1 ≤ offKey e.at_.off + (s.chan 0).lineGrans ∧ e.got.look (fl.target.toNat + 0 - offKey e.at_.off) = none := by decide +kernel
theorem test_rdata_sector_witness : let e : FillEnt := ⟨far, some 2, [0], [], false, 0, []⟩
    let s := (net.onChan 0 fun h => { h with fills := [e] }).onCis 0 fun x => { x with sector := true }
    2 < (s.chan 0).lineGrans ∧ fl.target.toNat ≤ offKey e.at_.off + 2 ∧ offKey e.at_.off + 2 < fl.target.toNat + 3 ∧ e.got.look 2 = none := by decide +kernel
theorem test_rdata_sector : let e : FillEnt := ⟨far, some 2, [0], [], false, 0, []⟩
    let s := (net.onChan 0 fun h => { h with fills := [e] }).onCis 0 fun x => { x with sector := true }
    ((after (exec (.rdataFlit 0 1 fl [7, 8, 9]) s)).chan 0).fills.map (·.got) = [[(2, 9)]] := by decide +kernel
theorem test_combine_flit_witness : let g := sliceKey 0 3
    let h : FlitHdr := { fl with target := BitVec.ofNat 44 g }
    (net.chan 0).validKey h.target.toNat = true ∧ keySlice h.target.toNat = some (0, 3) ∧ (net.slice 0 0).inbound.look 3 = none ∧
    (net.chan 0).adderBad 0 = false := by decide +kernel
theorem test_combine_flit : ((after (exec (.combineFlit 0 1 { fl with target := BitVec.ofNat 44 (sliceKey 0 3) } 9 [5]) net)).slice 0 0).inbound.look 3 =
    some [⟨9, 5, 0⟩] := by decide +kernel
theorem test_wack_flit_witness : let s := net.onPump 0 0 fun q => { q with xfers := [⟨0, 1, none, []⟩] }
    (s.pump 0 0).xfers = [⟨0, 1, none, []⟩] := by decide +kernel
theorem test_error_flit : cause (exec (.respErrFlit 0 1 fl (some 0) none .access) net) = 7 ∧
    cause (exec (.respErrFlit 0 1 fl (some 0) none .unreachable) net) = 3 := by decide +kernel
theorem test_flit_out_of_order : ((after (exec (.writeFlit 0 1 { fl with seq := 1 } [rec0]) net)).chan 0).held = [] := by decide +kernel

/-- A tree at this node: ports 1 and 2, delivered to slot 0. -/
def treed : State := net.onChan 0 fun h => { h with router := { h.router with trees := [(4, { tree0 with mask := 0b110, inputs := 2, window := 64 })] } }
theorem test_markers_witness : (treed.chan 0).router.trees.look 4 = some { tree0 with mask := 0b110, inputs := 2, window := 64 } ∧
    ((7 : BitVec 8), (9 : ChanAddr)) ∉ tree0.faults ∧ (treed.slot 0 0).live = true ∧ (treed.slot 0 0).job.state ≠ .halted ∧
    (0b110 : BitVec 12).getLsbD (2 : PortIx).val = true ∧ (treed.port 0 2).speaks = true ∧ kindIx .reduce = some 3 := by decide +kernel
theorem test_fault_marker : (s0 (exec (.faultMarker 0 1 4 7 9) treed)).fr.faultFlag = true ∧
    Output.marker 0 2 (.fault 4 7 9) 3 ∈ (after (exec (.faultMarker 0 1 4 7 9) treed)).outputs := by decide +kernel
def sent : State := net.onPort 0 1 fun p => { p with replay := [(0, .wack 9 1), (1, .wack 9 2)] }
theorem test_nak_and_ack : (after (exec (.nakMarker 0 1 1) sent)).outputs = [.flit 0 1 1 (.wack 9 2)] ∧
    ((after (exec (.ackMarker 0 1 0) sent)).port 0 1).replay = [(1, .wack 9 2)] ∧ (sent.port 0 1).waiting = [] := by decide +kernel
theorem test_credit : (((after (exec (.creditMarker 0 1 .request 5) net)).port 0 1).credits)[0] = 37 ∧
    (((after (exec (.creditMarker 0 1 .request 5) (after (exec (.creditMarker 0 1 .request 5) net)))).port 0 1).credits)[0] = 37 := by decide +kernel
theorem test_echo : (after (exec (.echoMarker 0 1 77) net)).outputs = [.marker 0 1 (.echo 77) 1] := by decide +kernel
theorem test_mcast_witness : let h : FlitHdr := { fl with target := 4 }
    (treed.chan 0).router.trees.look (flitTree h).toNat ≠ none ∧ (treed.slot 0 0).regs.frame = 9 ∧ NoEntry treed 0 0 rec0 := by
  unfold NoEntry; decide +kernel
theorem test_reduce_witness : let h : FlitHdr := { fl with target := 4 }
    let s := treed.onMc fun m => { m with jobs := [(1, { jb with trees := [4] })] }
    s.treeJob (flitTree h) = some (0, 1, { jb with trees := [4] }) ∧ (s.chan 0).router.store = [] := by decide +kernel
theorem test_mgmt_witness : (5 : BitVec 64) ∉ (net.chan 0).router.seenMods := by decide +kernel

/-- A broadcast of virtual channel 0 to itself in every frame. -/
def bcast : CollEntry := ⟨0, 7, .broadcast, [], 0, 1, 0, 1, 1, 0, 0, 50⟩
/-- The job with one broadcast entry, its descriptor 1 with a USE. -/
def collJob (root use : Nat) : Job := { jb with image := { im with
  colls := [{ bcast with root := root }], descs := [(1, BitVec.ofNat 512 (2 ^ 40 + 2 ^ 117 + 2 ^ 118 + use * 2 ^ 123 + 2 ^ 128))] } }
def collOf (root use : Nat) : State := base.onMc fun m => { m with jobs := [(1, collJob root use)] }
def coll (root : Nat) : State := collOf root 2
/-- As the root and not, and with a descriptor that may not be read. -/
theorem test_collective_witness : ∀ k ∈ [(0, 2), (1, 2), (0, 1)], let s := collOf k.1 k.2
    let e := { bcast with root := k.1 }
    let j := collJob k.1 k.2
    (s.job 0 1 = some j ∧ j.image.colls.find? (fun y => y.vch == e.vch && y.index == e.index) = some e) ∧
      (s.slot 0 0).job.state = .running ∧ (s.slot 0 0).fr.faultFlag = false ∧
      collRuns e (s.slot 0 0).regs.frame = true ∧ j.home e.vch = some (s.addrOf 0) ∧
      (s.viewOf 0 j e.src e.vch).map (s.collUse 0 j e) = some (k.1 == 1 || k.2 == 2) ∧ (e.vch, e.index) ∉ (s.slot 0 0).fr.collDone := by
  decide +kernel
theorem test_collective_use : cause (exec (.collectiveStart 0 0 0 7) (collOf 0 1)) = 6 := by decide +kernel
theorem test_collective_time : (after (exec (.collectiveStart 0 0 0 7) (coll 1))).timeNs = 50 := by decide +kernel

/-! ### Placement -/

def fab (f : Fabric → Fabric) : State := base.onMc fun m => { m with fab := f m.fab }
def modRec (serial : BitVec 64) : ModRecord := ⟨serial, none, 0, [], 0xFF⟩
def mapChan (addr : ChanAddr) : MapChan := ⟨addr, 0, 0, 0, true, 0, 48, 4, 48, 160, 0, 0xFFFF, [], 0, 0, 0, 0, []⟩
theorem test_discovery_witness : let s := fab fun f => { f with mods := [modRec 5] }
    s.mc.inReset = false ∧ s.mc.fab.mods = [modRec 5] ∧ s.mc.fab.pinEn = false ∧ (modRec 5).pinned = none ∧ (modRec 5).serial ≠ s.mc.fuses.serial := by
  decide +kernel
theorem test_discovery : (after (exec .discoverySettle ((fab fun f => { f with mods := [modRec 5] }).onMc fun m => { m with
    fuses := { m.fuses with serial := 9 } }))).mc.fab.id = 1 := by decide +kernel
theorem test_join_witness : (base.mc.fab.idValid = false ∧ base.mc.fab.ids = [] ∧
    (fab fun f => { f with map := [mapChan 24] }).mc.fab.map.find? (fun y => y.serial == base.mc.fuses.serial) = some (mapChan 24)) ∧
    ((fab fun f => { f with pinEn := true }).mc.fab.map.find? (fun y => y.serial == base.mc.fuses.serial)) = none := by decide +kernel
theorem test_map_witness : base.mc.fab.placing = none ∧ base.mc.fab.version < 1 ∧ base.mc.fab.keeper = base.mc.fab.id ∧
    (let s := fab fun f => { f with keeper := 3, ids := [(1, 3), (2, 7)] };
      s.mc.fab.keeper = 3 ∧ s.mc.fab.ids.filter (fun e => e.2 != 3) ≠ []) := by decide +kernel
theorem test_keeper_takeover : (after (exec (.mapKeeperTakeover 3) (fab fun f => { f with keeper := 3, ids := [(1, 3), (2, 9), (3, 7)] }))).mc.fab.keeper = 7 := by
  decide +kernel
theorem test_claims_witness : base.grantable 0 (.slot 1) = true ∧ base.grantable 0 (.slot 0) = false := by decide +kernel

/-- A placement of job 1 that waits on another module's channel. -/
def placing (claims : List (ChanAddr × Resource)) (writes : List ChanAddr) (waiting : Bool) : Placing :=
  ⟨0, 1, ⟨0, 1⟩, claims, [], [], writes, [(0, 0, 1)], [], [], 1, [], 0, 0, 0, 500, 0, waiting, false⟩
def placed (p : Placing) : State := fab fun f => { f with placing := some p, version := 1 }
theorem test_placing_witness : base.localChan 9 = none ∧ base.job 0 1 = some jb ∧ ([((9 : ChanAddr), Resource.slot 0), (9, .slot 1)].erase (9, .slot 0)) ≠ [] ∧
    ([(9 : ChanAddr), 10].erase 9) ≠ [] ∧ ((placed (placing [] [9] false)).onMc fun m => { m with ctxs := [] }).mc.ctxs.look 0 = none ∧
    (placing [] [] true).version < (placed (placing [] [] true)).mc.fab.version ∧ SMap.sorted base.mc.jobs ∧
    (policy (BitVec.ofNat 256 (2 ^ 48))).deadlineS = 1 := by decide +kernel
theorem test_last_claim : (after (exec (.claimReply (.slot 0) 9 true) (placed (placing [(9, .slot 0)] [9] false)))).mc.fab.placeState = 3 := by decide +kernel
theorem test_last_ack_admits : ((after (exec (.tableWriteAck 9) ((placed (placing [] [9] false)).onMc fun m => { m with
    jobs := [(1, { jb with admitted := false })] }))).job 0 1).map (·.admitted) = some true := by decide +kernel

/-! ### Host commands -/

def adm : Hdr := ⟨.admin 0, 0, 6, false, false⟩
/-- Rings of 64 entries: the physical function's admin rings, and well 0 of context 0. -/
def host : State :=
  let s1 := base.onMc fun m => { m with
    admins := [(0, ⟨6, true, 4096, 6, true, 8192, false, some (Ring.fresh 4096 6 8192 6 0 0 0)⟩)], inService := 0xFF }
  s1.onChan 0 fun h => { h with wells := [(0, ⟨Ring.fresh 0x10000 6 0x20000 6 1 0 0, 0, 0, 0, none, false, 0⟩)] }
/-- A fetched command, and the state in which it starts. -/
def fetched (h : Hdr) (opc : Nat) (s : State) : State := s.onRing h.ring fun r => { r with waiting := [⟨h, opc, none, 0⟩], prod := 1, fetched := 1 }
def begun (h : Hdr) (opc : Nat) (s : State) : State := ((fetched h opc s).begin h opc).getD State.reset
/-- Status and result of the record that a command left. -/
def record (h : Hdr) (r : Res) : List (BitVec 16 × BitVec 64) := (((after r).ring h.ring).map fun g => g.fifo.map fun e => (e.status, e.result)).getD []

theorem test_begin_witness : (∀ opc ∈ [0x01, 0x02, 0x03, 0x04, 0x05], ((fetched adm opc host).begin adm opc).isSome = true) ∧
    ∀ opc ∈ [0x10, 0x11, 0x12, 0x13, 0x14, 0x20, 0x21, 0x22, 0x23, 0x24, 0x28, 0x30, 0x31, 0x32, 0x38, 0x39], ((fetched hd opc host).begin hd opc).isSome = true := by
  decide +kernel
theorem test_rings_witness : host.hostUp = true ∧ ((host.mc.ctxs.look 0).bind (·.wells.look 0)) = some (0, 0) ∧ host.ringOn (.well 0 0) = true ∧
    host.fetchStatus (.well 0 0) (BitVec.ofNat 512 0x10) = none ∧ sizeOk 6 = true ∧ sizeOk 16 = true ∧ sizeOk 5 = false ∧ sizeOk 17 = false ∧
    RingTakes (Ring.fresh 0x10000 6 0x20000 6 1 0 0) 64 ∧ ¬RingTakes (Ring.fresh 0x10000 6 0x20000 6 1 0 0) 65 := by
  unfold RingTakes; decide +kernel
theorem test_admin_rings_witness : let s := host.onMc fun m => { m with admins := [(0, ⟨6, false, 0, 6, true, 8192, false, none⟩)] }
    (0 : Nat) ≤ s.mc.host.numVf ∧ (s.mc.admins.look 0).map (·.ring) = some none ∧ (0x1026 : BitVec 64).getLsbD 5 = true ∧
    sizeOk ((0x1026 : BitVec 64).extractLsb' 0 5).toNat = true ∧ sizeOk ((0x1020 : BitVec 64).extractLsb' 0 5).toNat = false := by decide +kernel
theorem test_doorbells : (((after (exec (.doorbell 0 0 8 64) host)).chan 0).wells.look 0).map (fun w => w.ring.prod) = some 64 ∧
    (((after (exec (.doorbell 0 0 8 65) host)).chan 0).wells.look 0).map (fun w => w.ring.state) = some .error ∧
    (((after (exec (.doorbell 0 0 7 64) host)).chan 0).wells.look 0).map (fun w => (w.ring.prod, w.dropped)) = some (0, 1) := by decide +kernel
def rec1 : Record := ⟨0x0207, 3, false, 5, 9, false⟩
theorem test_completion_witness : let s := host.onRing hd.ring fun r => { r with fifo := [rec1], unsignalled := 1, coalUs := 2 }
    ∃ r, s.ring (.well 0 0) = some r ∧ r.fifo = [rec1] ∧ r.state ≠ .stopped ∧ r.full = false ∧ r.unsignalled ≠ 0 ∧ r.coalUs ≠ 0 ∧ r.waiting = [] :=
  ⟨{ Ring.fresh 0x10000 6 0x20000 6 1 0 0 with fifo := [rec1], unsignalled := 1, coalUs := 2 }, by decide +kernel⟩
/-- The record at the base of the ring, with PHASE 1 at first (Table 13.5). -/
theorem test_completion_bytes : Output.hostWrite 0 0x20000 [7, 2, 3, 0, 1, 5, 0, 0, 9, 0, 0, 0, 0, 0, 0, 0] ∈
    (after (exec (.completionWrite (.well 0 0)) (host.onRing hd.ring fun r => { r with fifo := [rec1] }))).outputs := by decide +kernel
theorem test_msix : (after (exec (.msixVectorUnmask 0 3) (host.onMc fun m => { m with host := { m.host with msixPend := [(0, 3)] } }))).outputs = [.msix 0 3] := by
  decide +kernel

theorem test_host_path_witness : host.mc.firm.recovery = false ∧ (1 : Nat) ≤ (host.onMc fun m => { m with host := { m.host with numVf := 1 } }).mc.host.numVf ∧
    (∀ e ∈ host.mc.ctxs, e.2.fn ≠ 1) ∧ (host.slot 0 0).live = true ∧ (host.slot 0 0).regs.flt.valid = false ∧
    (begun hd 0x20 host).isRunning hd = true := by decide +kernel
theorem test_xlate_fails : record hd (exec (.atsTranslationCompletion false none (some hd)) (begun hd 0x20 host)) = [(0x0209, 0)] := by decide +kernel

def wp : WellParams := ⟨0, 0x1000, 6, 0x2000, 6, 3, 0, 0, false, 0⟩
theorem test_contexts_witness : (begun adm 0x01 host).present 7 = true ∧ ((begun adm 0x01 host).mc.ctxs.filter fun e => e.2.home == 0).length < 128 ∧
    lowestFree 1024 (begun adm 0x01 host).mc.ctxs.keys = some 1 ∧ (begun adm 0x01 host).ringFn adm.ring = 0 ∧
    (begun adm 0x02 host).mayName adm 0 = true ∧ (begun adm 0x02 host).jobsOf 0 ≠ [] ∧
    ((begun adm 0x02 (host.onMc fun m => { m with jobs := [] })).jobsOf 0 = []) ∧
    (begun adm 0x03 host).wellOk 0 wp = true ∧ (begun adm 0x03 host).wellOk 0 { wp with sqLog2 := 5 } = false ∧
    lowestFree 512 cx.wells.keys = some 1 ∧ lowestFree 2048 ((begun adm 0x03 host).chan 0).wells.keys = some 1 := by decide +kernel
theorem test_many_contexts_witness : let s := host.onMc fun m => { m with ctxs := (List.range 128).map fun i => (i, cx) }
    128 ≤ ((begun adm 0x01 s).mc.ctxs.filter fun e => e.2.home == 0).length ∧
    (begun adm 0x01 (host.onMc fun m => { m with fuses := { m.fuses with present := 0x7F } })).present 7 = false := by decide +kernel
theorem test_contexts : record adm (exec (.ctxCreate adm 0 0 false) (fetched adm 0x01 host)) = [(0, 1)] ∧
    record adm (exec (.ctxDestroy adm 0 false) (fetched adm 0x02 host)) = [(0x0207, 0)] ∧
    record adm (exec (.wellCreate adm 0 wp) (fetched adm 0x03 host)) = [(0, 513)] ∧
    record adm (exec (.wellCreate adm 0 { wp with sqLog2 := 5 }) (fetched adm 0x03 host)) = [(0x0204, 0)] := by decide +kernel
theorem test_wells_witness : ((begun adm 0x04 host).ring (.well 0 0)).isSome = true ∧ SMap.sorted cx.wells ∧
    ((begun adm 0x05 (host.onRing hd.ring fun r => { r with state := .stopped })).ring (.well 0 0)).map (fun r => (r.state, r.waiting)) = some (.stopped, []) := by
  decide +kernel

def hbm2 : AllocParams := ⟨.hbm, false, false, 0, 0, 0, 2097152, 0⟩
theorem test_allocations_witness : (begun hd 0x10 host).allocOk 0 hbm2 = true ∧ (begun hd 0x10 host).allocOk 0 { hbm2 with size := 2097151 } = false ∧
    (begun hd 0x10 host).allocOk 0 { hbm2 with size := 2097152 * 2 ^ 20 } = true ∧ (begun hd 0x10 host).allocFor 0 { hbm2 with size := 2097152 * 2 ^ 20 } = none ∧
    lowestHandle 4096 (cx.allocs.keys ++ cx.maps.keys) = some 2 ∧ ((begun hd 0x10 host).allocFor 0 hbm2).isSome = true ∧
    cx.dvaFor 2097152 0 = some 0 ∧ (begun hd 0x11 host).inUse 0 1 = true ∧ SMap.sorted cx.allocs ∧ dvaOk 0 = true ∧ dvaOk 0x200000 = true ∧ (2097152 : Nat) % mib2 = 0 := by
  decide +kernel
theorem test_free_witness : let s := host.onMc fun m => { m with jobs := [(1, { jb with image := { im with descs := [] } })] }
    (begun hd 0x11 s).inUse 0 1 = false := by decide +kernel
theorem test_allocations : record hd (exec (.alloc hd hbm2) (fetched hd 0x10 host)) = [(0, 2)] ∧
    record hd (exec (.free hd 1) (fetched hd 0x11 host)) = [(0x0107, 0)] ∧
    record hd (exec (.mapHost hd 0 2097152 0 3) (fetched hd 0x12 host)) = [(0, 2)] ∧
    record hd (exec (.mapHost hd 0 4096 0 3) (fetched hd 0x12 host)) = [(0x0204, 0)] := by decide +kernel

/-- A row of 8 FP32 elements in allocation 1, to be read and written (Table 7.1). -/
def row8 : BitVec 512 := BitVec.ofNat 512 (2 ^ 40 + 2 ^ 118 + 2 ^ 121 + 2 * 2 ^ 123 + 8 * 2 ^ 128 + 2 ^ 272)
theorem test_descriptors_witness : (tdesc row8).check (cx.allocs.look 1) true = 0 ∧ (tdesc 0).check (cx.allocs.look 0) true ≠ 0 ∧
    (cx.allocs.look (tdesc row8).handle).isSome = true ∧ lowestHandle 16384 cx.descs.keys = some 1 ∧
    (begun hd 0x13 host).roomFor ⟨tdesc row8, ⟨.pinned, true, true, 0, 2, 0, 4096, 0, [], 0x200000, 0⟩, 0, true⟩ = true := by decide +kernel
theorem test_desc_create : record hd (exec (.descCreate hd row8) (fetched hd 0x13 host)) = [(0, 1)] ∧
    record hd (exec (.descDestroy hd 1) (fetched hd 0x14 host)) = [(0x0101, 0)] := by decide +kernel
theorem test_desc_destroy_witness : (SMap.look [(1, row8)] 1) = some row8 ∧ SMap.sorted ([(1, row8)] : SMap (BitVec 512)) := by decide +kernel
/-- Well 1 of context 0 is urgent and has a descriptor to fetch: the admin ring waits (R286). -/
def urgentFirst : State :=
  let s := host.onCtx 0 fun k => { k with wells := k.wells.set1 1 (0, 1) }
  s.onChan 0 fun h => { h with wells := h.wells.set1 1 ⟨{ Ring.fresh 0x30000 6 0x40000 6 1 0 0 with prod := 1 }, 0, 0, 1, some 1, false, 0⟩ }
theorem test_host_turn_witness : urgentFirst.urgentFirst = true ∧ host.urgentFirst = false ∧ urgentFirst.hostTurn (.admin 0) = false ∧
    urgentFirst.hostTurn (.well 0 1) = true ∧ host.hostTurn (.admin 0) = true ∧ (urgentFirst.ring (.admin 0)).isSome = true := by decide +kernel
theorem test_fetch_witness : let s := host.onRing (.well 0 0) fun r => { r with prod := 1 }
    ((s.ring (.well 0 0)).map fun r => (r.state, r.fetched, r.prod)) = some (.active, 0, 1) ∧ s.ringOn (.well 0 0) = true ∧
    s.hostTurn (.well 0 0) = true := by decide +kernel
theorem test_urgent_fetches_first : ((after (exec (.descriptorFetch (.well 0 1) (BitVec.ofNat 512 0x10)) urgentFirst)).ring (.well 0 1)).map (·.fetched) = some 1 ∧
    (let s := urgentFirst.onRing (.admin 0) fun r => { r with prod := 1 }
     ((after (exec (.descriptorFetch (.admin 0) (BitVec.ofNat 512 0x01)) s)).ring (.admin 0)).map (·.fetched) = some 0) := by decide +kernel
/-- The doorbell of well 0 comes before the admin ring's: its ALLOC goes ahead of the CTX_CREATE, fetched or not (R365). -/
def twoBells : State := after (exec (.adminDoorbell 0 1) (after (exec (.doorbell 0 0 8 1) host)))
theorem test_bells : ((twoBells.ring (.well 0 0)).map (·.bells), (twoBells.ring (.admin 0)).map (·.bells)) = (some [(1, 1)], some [(1, 2)]) ∧
    (let s := after (exec (.descriptorFetch (.admin 0) (BitVec.ofNat 512 0x01)) twoBells)
     let t := after (exec (.descriptorFetch (.well 0 0) (BitVec.ofNat 512 0x10)) s)
     let a : Hdr := ⟨.admin 0, 0, 0, false, false⟩
     let w : Hdr := ⟨.well 0 0, 0, 0, false, false⟩
     (s.begin a 0x01).isSome = false ∧ (t.begin a 0x01).isSome = false ∧ (t.begin w 0x10).isSome = true ∧
     ((t.begin w 0x10).bind fun u => u.begin a 0x01).isSome = true) := by decide +kernel
theorem test_host_path_rest_witness : host.mc.inReset = false ∧ host.mc.firm.started = true ∧ host.hostUp = true := by decide +kernel

/-! ### Copies -/

/-- Descriptor 1: the row of 8 elements; allocation 2 is HBM of no job, and descriptor 2 its first 8 FP32 elements. -/
def rowHbm : BitVec 512 := BitVec.ofNat 512 (2 * 2 ^ 40 + 2 ^ 118 + 2 * 2 ^ 123 + 8 * 2 ^ 128 + 2 ^ 272)
def copies : State := host.onMc fun m => { m with ctxs := [(0, { cx with
  allocs := cx.allocs ++ [(2, ⟨.hbm, false, false, 0, 0, 0, 2097152, 0, [], 0x400000, 0⟩)], descs := [(1, row8), (2, rowHbm)] })] }
def noCopy : CopyParams := ⟨false, .fp32, .desc 2, .host 0x9000 32 (List.replicate 32 0), none, none, none⟩
def copyIn : CopyParams := { noCopy with src := .host 0x9000 32 (List.replicate 32 7), dst := .desc 2 }
theorem test_copy_witness : let t := begun hd 0x20 copies
    (((fetched hd 0x20 copies).begin hd 0x20).isSome = true ∧ t.hostSide 0 (.desc 9) none = none) ∧
    t.hostSide 0 noCopy.dst none = some (.buf 0x9000 32 (List.replicate 32 0)) ∧ (t.hostSide 0 noCopy.src none).isSome = true ∧
    (∀ z, t.hostSide 0 noCopy.src none = some z → t.copyStatus 0 .copy noCopy (some z) (.buf 0x9000 32 (List.replicate 32 0)) = 0) ∧
    ∃ vw win, t.hostSide 0 noCopy.src none = some (.view vw win) := by
  refine ⟨by decide +kernel, by decide +kernel, by decide +kernel, ?_, ⟨⟨tdesc rowHbm, ⟨.hbm, false, false, 0, 0, 0, 2097152, 0, [], 0x400000, 0⟩, 0, true⟩,
    (tdesc rowHbm).whole, by decide +kernel⟩⟩
  have h : (begun hd 0x20 copies).hostSide 0 noCopy.src none = some (.view ⟨tdesc rowHbm, ⟨.hbm, false, false, 0, 0, 0, 2097152, 0, [], 0x400000, 0⟩, 0, true⟩
    (tdesc rowHbm).whole) := by decide +kernel
  intro z hz
  rw [h] at hz
  cases hz
  decide +kernel
/-- 32 bytes to HBM of no job are there at once. -/
theorem test_copy_in : (((after (exec (.copy hd copyIn) (fetched hd 0x20 copies))).chan 0).raw 0).extractLsb' 0 32 = 0x07070707 ∧
    record hd (exec (.copy hd copyIn) (fetched hd 0x20 copies)) = [(0, 32)] := by decide +kernel
theorem test_host_data_witness : base.mc.inReset = false ∧ base.urgentFirst = false ∧ base.job (base.slot 0 0).job.ctx (base.slot 0 0).job.job = some jb ∧ (base.slot 0 0).live = true ∧
    base.tickTaken 0 1 12 = false ∧ HoldRoom base 0 0 (sliceKey 1 0) ∧ (base.chan 0).held = [] := by
  refine ⟨by decide +kernel, by decide +kernel, by decide +kernel, by decide +kernel, by decide +kernel, ?_, by decide +kernel⟩
  have h : (base.chan 0).heldIn 0 (sliceKey 1 0) = some 1 := by decide +kernel
  unfold HoldRoom
  rw [h]
  decide +kernel
def dbg : State := base.onMc fun m => { m with host := { m.host with dbgOpen := true, dbgBase := 2 ^ 18 } }
theorem test_aperture_witness : dbg.hostUp = true ∧ dbg.mc.host.dbgOpen = true ∧ host.mc.host.dbgOpen = false ∧
    dbg.apertureAt 40 = some (0, 2 ^ 48 + 40) ∧ keySlice ((2 ^ 48 + 40) / 32) = some (0, 1) ∧ deadAt (dbg.slice 0 0).dead 0 = none ∧
    (dbg.slice 0 0).upset.readD 0 1 = 0 := by
  decide +kernel
theorem test_aperture_write : ((after (exec (.apertureWrite 40 [7]) dbg)).slice 0 0).get 1 = 0x7 <<< 64 := by decide +kernel

/-! ### Jobs' commands -/

def good : JobImage := { im with digest := Config.sm3 [], descs := [] }
theorem test_image_status : (begun hd 0x21 host).imageStatus cx good = 0 := by
  have h : (begun hd 0x21 host).imageSigned good = true := by
    have j : (begun hd 0x21 host).mc.firm.jobRoot = none := by decide +kernel
    simp [State.imageSigned, good, im, j]
  have r : (begun hd 0x21 host).imageDescs cx good = stSuccess ∧ imagePairs good = true ∧ good.cset = (begun hd 0x21 host).mc.firm.cset := by decide +kernel
  simp [State.imageStatus, h, r.1, r.2.1, r.2.2]
  decide
theorem test_image_witness : (begun hd 0x21 host).mc.ctxs.look 0 = some cx ∧ (begun hd 0x21 host).imageStatus cx { im with wellFormed := false } ≠ 0 ∧
    lowestHandle 64 cx.images.keys = some 1 ∧ ((fetched hd 0x21 host).begin hd 0x21).isSome = true := by
  decide +kernel
theorem test_start_witness : let s := host.onMc fun m => { m with ctxs := [(0, { cx with images := [(1, good)] })] }
    ((begun hd 0x22 s).mc.ctxs.look 0).map (fun x => (x.images.look 1).isSome && x.wells.look 0 == some (0, 0)) = some true ∧ s.mc.fab.placing = none ∧
    (policy 0).clean = true ∧ (policy (1 <<< 26)).clean = false ∧ lowestHandle 64 ((host.jobsOf 0).map fun e => (unKey e.1).2) = some 2 := by
  decide +kernel
theorem test_no_job : ∀ e ∈ [(Instr.checkpoint hd 9, 0x23), (.stop hd 9 false, 0x24), (.check hd 9 0, 0x31), (.commit hd 9 0, 0x32)],
    record hd (exec e.1 (fetched hd e.2 host)) = [(0x0207, 0)] := by decide +kernel
theorem test_job_commands_witness : (begun hd 0x23 host).job 0 1 = some jb ∧ jb.admitted = true ∧ OnlyMember (begun hd 0x23 host) 0 1 0 0 ∧
    ((begun hd 0x23 host).slot 0 0).regs.ckptBusy = false ∧ jb.stopCmd = none ∧ jb.halted = false ∧ jb.restore = none ∧
    Reachable (begun hd 0x30 host) 0 ∧ ((begun hd 0x30 host).slot 0 0).stg.state.locked = false := by
  unfold OnlyMember Reachable; decide +kernel
def stagedAs (st : StgState) : State := host.onStg 0 0 fun g => { g with state := st, tag := 7 }
theorem test_check_witness : ((begun hd 0x31 (stagedAs .dirty)).slot 0 0).stg.state = .dirty ∧ ((begun hd 0x32 (stagedAs .checked)).slot 0 0).stg.state = .checked ∧
    ((begun hd 0x32 (stagedAs .checked)).slot 0 0).job.lead = true ∧ ((begun hd 0x32 (stagedAs .checked)).chan 0).isMaster 0 = true ∧
    jb.commitCmd = none ∧ ((begun hd 0x32 (stagedAs .checked)).slot 0 0).stg.tag = 7 := by decide +kernel
theorem test_commit_tag : record hd (exec (.commit hd 1 6) (fetched hd 0x32 (stagedAs .checked))) = [(0x0301, 2)] ∧
    ((after (exec (.commit hd 1 7) (fetched hd 0x32 (stagedAs .checked)))).slot 0 0).stg.state = .commitPending := by decide +kernel
/-- PERIOD 300 and WDOG 1500 in one word at 0x010000 (Table 17.5). -/
theorem test_stage : (let t := (after (exec (.stage hd 1 (host.addrOf 0) 0x010000 (300 + 1500 * 65536) 0xFFFFFFFF) (fetched hd 0x30 host))).slot 0 0;
    (t.stg.set.periodUs, t.stg.set.wdogMs, t.stg.state, t.regs.set.periodUs)) = (300, 1500, .dirty, 200) := by decide +kernel
def urgentWell : State := (host.onChan 0 fun h => { h with wells := [(0, ⟨Ring.fresh 0x10000 6 0x20000 6 1 0 0, 0, 0, 0, some 1, false, 0⟩)] }).onSlot 0 0
  fun x => { x with regs := { x.regs with windowUs := 20 } }
theorem test_urgent_witness : let t := begun hd 0x28 urgentWell
    (t.mc.ctxs.look 0).map (fun x => x.wells.look 0) = some (some (0, 0)) ∧ (((t.chan 0).wells.look 0).bind (·.urgent)) = some 1 ∧
    (t.slot 0 0).regs.windowUs < 21 ∧ 20 ≤ (t.slot 0 0).regs.windowUs ∧ ∃ e ∈ jb.image.urgents, e.1 = 3 := by decide +kernel
theorem test_urgent : record hd (exec (.urgent hd 3 21 0) (fetched hd 0x28 urgentWell)) = [(0x0302, 0)] ∧
    ((after (exec (.urgent hd 3 20 0) (fetched hd 0x28 urgentWell))).slot 0 0).urgents.map (fun u => (u.entry, u.lenUs)) = [(3, 20)] := by decide +kernel

/-! ### Queries and self-tests -/

def quiet : State := (host.onMc fun m => { m with inService := 0xFF }).onPwr 1 fun p => { p with lk := .on }
theorem test_query_witness : ((fetched hd 0x38 host).begin hd 0x38).isSome = true ∧ (begun hd 0x38 host).job 0 1 = some jb ∧ (begun hd 0x38 host).present 0 = true ∧
    (begun hd 0x38 (host.onMc fun m => { m with fuses := { m.fuses with present := 0x7F } })).present 7 = false ∧ (host.chan 0).cis.busy = false ∧
    ((begun hd 0x38 host).chan 0).st.busy = false ∧ ((begun hd 0x38 host).chan 0).st.embBusy = false := by decide +kernel
theorem test_selftest_witness : (begun hd 0x39 quiet).present 1 = true ∧ ((begun hd 0x39 quiet).chan 1).pwr.lk = .on ∧ (begun hd 0x39 quiet).testIdle 1 = true ∧
    (let s := quiet.onPwr 0 fun p => { p with lk := .on }; (begun hd 0x39 s).testIdle 0 = false ∧ ((begun hd 0x39 s).chan 0).liveSlots ≠ []) := by decide +kernel
theorem test_deferred_test_witness : (let s := quiet.onMc fun m => { m with firm := { m.firm with testQ := [(1, 3, none)] } };
    s.mc.firm.testQ.find? (fun x => x.1 == 1) = some (1, 3, none) ∧ s.testIdle 1 = true ∧ s.mc.inReset = false) := by decide +kernel
def testing (cold : Bool) : State := (quiet.onMc fun m => { m with firm := { m.firm with testing := [(1, 3, none)] } }).onChan 1 fun h =>
  { h with thm := { h.thm with sensors := upd h.thm.sensors 5 fun y => { y with eff := if cold then -1 else 100 } } }
theorem test_testing_witness : (testing true).mc.firm.testing.find? (fun x => x.1 == 1) = some (1, 3, none) ∧ ((testing true).chan 1).frozenCold = true ∧
    ((testing false).chan 1).frozenCold = false := by decide +kernel
/-- Values of the scrub pass by name: the range of QUERY SCRUB starts at POS. -/
theorem test_query_scrub : ((after (exec (.queryScrub hd 0 (5 <<< 32) 0x9000 16) (fetched hd 0x38 host))).chan 0).cis.passPos = 5 := by decide +kernel

/-! ### Checkpoints and restarts -/

def ck (cap fin : Bool) : Ckpt := ⟨0, 8, fin, cap, [], [], SlotSet.reset, []⟩
def capturing (cap : Bool) : State := base.onSlot 0 0 fun x => { x with ckpt := some (ck cap false) }
theorem test_capture_witness : (((capturing false).slot 0 0).ckpt = some (ck false false) ∧ ((capturing true).slot 0 0).ckpt = some (ck true false)) ∧
    ((capturing false).chan 0).held = [] ∧ ((capturing false).chan 0).atoms = [] ∧ ((capturing false).chan 0).decls = [] ∧
    ((capturing false).chan 0).hbmUpset = [] ∧
    (∀ i, ((capturing false).slice 0 i).inbound = [] ∧ ((capturing false).slice 0 i).upset = []) ∧ ((capturing false).slot 0 0).job.polders.getLsbD 0 = true := by decide +kernel
theorem test_checkpoint_registers : (let r := ((after (exec (.checkpointComplete 0 0) (capturing true))).slot 0 0).regs; (r.ckptLast, r.ckptValid)) = (8, true) := by
  decide +kernel
theorem test_buddy_witness : (base.slot 0 0).live = true ∧ (base.slot 0 0).job.lead = true ∧ OnlyMember base 0 1 0 0 := by
  unfold OnlyMember; decide +kernel
def haltedJob (flow : Bool) : State := (base.onMc fun m => { m with jobs := [(1, { jb with halted := true, flow := flow })] }).onSlot 0 0 fun x =>
  { x with regs := { x.regs with flt := { x.regs.flt with valid := true, remove := true, cause := 6 } } }
theorem test_fault_flow_witness : (base.job 0 1 = some jb ∧ jb.halted = false ∧ jb.flow = false) ∧
    SMap.sorted (haltedJob false).mc.jobs ∧ OnlyMember (haltedJob false) 0 1 0 0 ∧ ((haltedJob false).slot 0 0).regs.flt.remove = true ∧
    ((haltedJob false).slot 0 0).regs.flt.cause ≠ 1 ∧ (haltedJob true).mc.fab.placing = none ∧
    ∀ d, ((haltedJob true).chan d).st.busy = false ∧ ((haltedJob true).chan d).st.embBusy = false := by
  unfold OnlyMember; decide +kernel
theorem test_fault_removes : (after (exec (.faultFlow 0 1) (haltedJob false))).job 0 1 = none ∧ (after (exec (.faultFlow 0 1) (haltedJob true))).job 0 1 = none := by
  decide +kernel
theorem test_restore_witness : let s := base.onMc fun m => { m with jobs := [(1, { jb with restore := some 8 })] }
    (s.job 0 1).map (·.restore) = some (some 8) ∧ s.mc.fab.placing = none ∧ s.mc.jobs.all (fun e => e.1 == jobKey 0 1 || !e.2.flow) = true := by decide +kernel
theorem test_box_witness : (let s := base.onChan 0 fun h => { h with bbx := h.bbx.freeze }; (s.chan 0).bbx.frozen = true ∧ s.mc.inReset = false) := by decide +kernel

/-! ### Channel resets -/

def st (f : ChStatus → ChStatus) : State := base.onSt 0 f
def still (scope : BitVec 2) : State := (base.onSlot 0 0 fun x => { x with job := { x.job with state := .halted } }).onSt 0 fun x =>
  { x with busy := scope != 0, lastScope := scope }
theorem test_reset_witness : (still 0).windowOpen 0 = true ∧ ((still 0).chan 0).resettable = true ∧ (base.chan 0).resettable = false ∧
    (let s := (still 0).onSt 0 fun x => { x with resetWanted := some 1 };
      (s.chan 0).st.resetWanted = some 1 ∧ (s.chan 0).idle = true ∧ (s.chan 0).st.busy = false ∧ s.mc.inReset = false) := by decide +kernel
theorem test_reset_complete_witness : ((still 1).chan 0).st.busy = true ∧ ((still 1).chan 0).st.lastScope = 1 ∧ (still 1).mc.jobs.all (fun e => !e.2.flow) = true ∧
    ((still 2).chan 0).frozenCold = false ∧ (still 2).mc.pwr.main ≠ .excursion := by decide +kernel
theorem test_reset_cold_witness : (let s := (still 2).onChan 0 fun h => { h with thm := { h.thm with sensors := upd h.thm.sensors 0 fun y => { y with eff := -1 } } };
    (s.chan 0).frozenCold = true ∧ (s.chan 0).st.busy = true ∧ (s.chan 0).st.lastScope = 2) := by decide +kernel
def drains : State := base.onChan 0 fun h => { h with arbs := Vector.replicate 140 { h.arbs[0] with freeze := true, drained := true } }
theorem test_emb_reset_witness : drains.mc.inReset = false ∧ drains.present 0 = true ∧ drains.mc.firm.recovery = false ∧
    (∀ e : PortIx, ((drains.chan 0).arbs[(egress e).val]).freeze = true ∧ ((drains.chan 0).arbs[(egress e).val]).drained = true) ∧
    ((base.chan 0).arbs[(egress 0).val]).freeze = false ∧ ((st fun x => { x with embBusy := true }).chan 0).frozenCold = false ∧
    ((st fun x => { x with embBusy := true }).chan 0).st.embBusy = true := by decide +kernel
theorem test_reset_keeps : let s := (still 0).onSlice 0 3 fun sl => sl.put 5 0xAB
    ((after (exec (.chResetChannel 0 true) s)).slice 0 3).get 5 = 0xAB ∧ ((after (exec (.chResetChannel 0 false) s)).slice 0 3).get 5 = 0 ∧
    ((after (exec (.chResetPumpDie 0) base)).chan 0).st.refused = true := by decide +kernel
theorem test_ctl_loss_witness : (base.chan 0).slotOf 0 = some 0 ∧ (base.slot 0 0).regs.flt.valid = false ∧ (base.slot 0 0).live = true ∧
    (let b := (1#8 <<< 0) ||| (1#8 <<< 1); b.getLsbD 0 = true ∧ b.getLsbD 1 = true) := by decide +kernel

/-! ### Power -/

def power (f : Power → Power) : State := base.onPwr 0 f
def pol (f : Polder → Polder) : State := base.onPolder 0 0 f
theorem test_droop_witness : ((power fun p => { p with setMv := 740 }).chan 0).pwr.setMv = 740 ∧ (740 : Nat) ≤ 700 + 40 ∧ (699 + 40 : Nat) < 740 ∧ (659 + 80 : Nat) < 740 ∧
    (base.slot 0 0).job.polders ≠ 0 := by decide +kernel
theorem test_droop : cause (exec (.droopSample 0 659) (power fun p => { p with setMv := 740 })) = 0x0B ∧
    cause (exec (.droopSample 0 660) (power fun p => { p with setMv := 740 })) = 0 ∧
    ((after (exec (.droopSample 0 699) (power fun p => { p with setMv := 740 }))).chan 0).pwr.budget = 255 ∧
    ((after (exec (.droopSample 0 700) (power fun p => { p with setMv := 740 }))).chan 0).pwr.budget = 0 := by decide +kernel
theorem test_rail_witness : (base.chan 0).pwr.railLost[0] = 0 ∧ ((power fun p => { p with railLost := upd p.railLost 0 fun _ => 1 }).chan 0).pwr.railLost[0] ≠ 0 := by
  decide +kernel
theorem test_phase_witness : (base.chan 0).pwr.good.getLsbD 3 = true ∧ ((power fun p => { p with good := 7 }).chan 0).pwr.good.getLsbD 3 = false := by decide +kernel
/-- From 18 phases to 17: the efficient mode only, with a cap of 24 A a phase (Table 15.5). -/
theorem test_phase_cap : (let p := ((after (exec (.phaseLoss 0 3) (power fun p => { p with good := 0x3FFFF }))).chan 0).pwr; (p.phState, p.capA)) = (.efficientOnly, 408) := by
  decide +kernel
theorem test_budget_loop_witness : (base.chan 0).pwr.capA = 0 ∧ (base.chan 0).pwr.emergCount = 0 ∧
    ((power fun p => { p with capA := 408 }).chan 0).pwr.capA < 409 := by decide +kernel
def asleep (d : DomState) : State := State.each (pol fun q => { q with slotMode := true, dom := d }) (List.finRange 8) fun t i => t.onPump 0 (pumpOf 0 i) fun q => { q with run := .reported }
theorem test_sleep_witness : ((asleep .on).chan 0).slotOfPolder 0 = some 0 ∧ ((asleep .on).polder 0 0).slotMode = true ∧ ((asleep .on).polder 0 0).dom = .on ∧
    (∀ i, ((asleep .on).pump 0 (pumpOf 0 i)).run = .reported) ∧ ((asleep .on).slot 0 0).windowNext = false ∧
    ((asleep .sleep).polder 0 0).dom = .sleep ∧ (0 : PolderIx) ∉ ((asleep .sleep).chan 0).pwr.rampQ := by decide +kernel
def ramps (n defers : Nat) : State := (pol fun q => { q with dom := .ramp, step := n, rampDefers := defers }).onPwr 0 fun p => { p with ramping := some 0, setMv := 740, droopMv := 740 }
theorem test_ramp_witness : ((power fun p => { p with rampQ := [0] }).chan 0).pwr.ramping = none ∧ ((power fun p => { p with rampQ := [0] }).chan 0).pwr.rampQ = 0 :: [] ∧
    ((ramps 7 7).chan 0).pwr.ramping = some 0 ∧ (∀ i, ¬(((ramps 7 7).polder 0 i).dom = .ramp ∧ ((ramps 7 7).polder 0 i).step = 9)) ∧
    ((ramps 7 7).polder 0 0).step = 7 ∧ ((ramps 7 7).chan 0).pwr.guard = 12 ∧ ((ramps 8 0).polder 0 0).step = 8 ∧
    (let s := (ramps 9 0).onPwr 0 fun p => { p with ramping := none }; (s.chan 0).pwr.ramping = none ∧ (s.polder 0 0).dom = .ramp ∧ (s.polder 0 0).step = 9) := by
  decide +kernel
theorem test_ramp_guard : ((after (exec (.rampStep 0) ((ramps 7 7).onPwr 0 fun p => { p with droopMv := 728 }))).polder 0 0).step = 8 ∧
    (let t := after (exec (.rampStep 0) ((ramps 7 7).onPwr 0 fun p => { p with droopMv := 727 })); ((t.polder 0 0).step, (t.polder 0 0).deferrals, (t.polder 0 3).forced)) = (7, 1, 16) := by
  decide +kernel
theorem test_guard_register : ((after (exec (.pwrCfgWrite 0 40) base)).chan 0).pwr.guard = 40 ∧ ((after (exec (.pwrCfgWrite 0 41) base)).chan 0).pwr.guardErr = true ∧
    ((after (exec (.pwrCfgWrite 0 3) base)).chan 0).pwr.guard = 12 := by decide +kernel

/-! ### Heat and inputs -/

/-- Every sensor at 340 (85 degC), and at 40 (10 degC), in quarter degrees. -/
def level (e : Int) (crit cold : Bool) : State := base.onChan 0 fun h => { h with
  thm := { h.thm with sensors := h.thm.sensors.map fun y => { y with eff := e }, critNow := crit, coldNow := cold } }
theorem test_critical_witness : ((level 340 true false).chan 0).thm.critNow = true ∧ (∀ i : Fin 96, (((level 340 true false).chan 0).thm.sensors[i.val]).eff ≤ 340) ∧
    (∀ i : StackIx, (((level 340 true false).chan 0).stack[i.val]).tempC ≤ 85) ∧ (level 340 true false).mc.inReset = false ∧
    (∃ i : Fin 96, 340 < (((level 341 true false).chan 0).thm.sensors[i.val]).eff) := by decide +kernel
theorem test_cold_witness : ((level 40 false true).chan 0).thm.coldNow = true ∧ (∀ i : Fin 96, 40 ≤ (((level 40 false true).chan 0).thm.sensors[i.val]).eff) ∧
    (∃ i : Fin 96, (((level 39 false true).chan 0).thm.sensors[i.val]).eff < 40) := by decide +kernel
/-- A stack at 105 degC trips its channel; 95 gives the highest refresh with the throttle (Table 15.6). -/
theorem test_stack_temperature : Output.pin "THERMTRIP_N" false ∈ (after (exec (.temperatureSample 0 (.stack 2 105)) base)).outputs ∧
    ((after (exec (.temperatureSample 0 (.stack 2 104)) base)).chan 0).thm.critNow = false ∧
    (let x := ((after (exec (.temperatureSample 0 (.stack 2 95)) base)).chan 0).stack[2]; (x.refresh, x.throttle)) = (2, true) := by decide +kernel
def main (m : MainState) (run : Nat) : State := base.onMc fun g => { g with pwr := { g.pwr with main := m, overRun := run }, inService := 0xFF }
theorem test_input_witness : (main .good 0).mc.inReset = false ∧ (main .good 0).mc.pwr.main = .good ∧ (main .good 8).mc.pwr.overRun + 1 < 10 ∧
    10 ≤ (main .good 9).mc.pwr.overRun + 1 ∧ (main .good 9).present 0 = true ∧ ((main .good 9).onPwr 0 fun p => { p with lk := .on }).present 0 = true ∧
    (((main .good 9).onPwr 0 fun p => { p with lk := .on }).chan 0).pwr.lk = .on ∧ (main .excursion 0).mc.pwr.main = .excursion ∧
    (main .absent 0).mc.firm.started = true ∧ (main .absent 0).mc.firm.recovery = false ∧ (main .absent 0).mc.firm.safe = false := by decide +kernel
theorem test_excursion : (after (exec (.mainInputSample 47999 0) (main .good 9))).mc.pwr.main = .excursion ∧
    (after (exec (.mainInputSample 47999 0) (main .good 8))).mc.pwr.main = .good ∧ (after (exec (.mainInputSample 45999 0) (main .good 0))).mc.pwr.main = .absent ∧
    (after (exec (.mainInputSample 60001 0) (main .good 0))).mc.pwr.main = .lost := by decide +kernel
theorem test_sensor_moved : ((after (exec (.sensorCalibration 0 5 11) base)).chan 0).pwr.badVolt = 32 ∧
    ((after (exec (.sensorCalibration 0 5 10) base)).chan 0).pwr.badVolt = 0 := by decide +kernel
theorem test_oscillator : (after (exec (.oscillatorCompensation 80) base)).mc.pwr.oscTrim = 50 := by decide +kernel

/-! ### Start-up and firmware -/

/-- A key record that is its own root, and an image that its key has signed. -/
def key : KeyRecord := ⟨0x55, 0xFF, 0, true, 0⟩
def signed (m : BitVec 512) : KeyAuth := ⟨[key], m⟩
def gfw : FwImage := ⟨true, .gfw, 1, 0, 0x30, [1], Config.sm3 [], [], true, signed 0⟩
def rooted (s : State) : State := s.onMc fun m => { m with fuses := { m.fuses with root0 := keyHash key } }
/-- What the opaque signature check must find for a message to count as signed by that key: no other hypothesis of the statements about
signed commands is open, so they hold of some state if some signature verifies. -/
theorem test_keys_witness (s : State) (perm : Nat) (m : List (BitVec 8)) (h : Config.sm2Verify signerId key.key m 0 = true) (hp : (0xFF : BitVec 32).getLsbD perm = true) :
    s.keysOk [keyHash key] (some perm) (signed 0) m = true ∧ s.keysOk [keyHash key] none (signed 0) m = true := by
  have hp' : key.perm.getLsbD perm = true := hp
  simp only [State.keysOk, signed, chainSigned, List.all_cons, List.all_nil, List.getLast?_nil, Option.getD_none, hp', h]
  simp [key]
theorem test_roots_witness : (rooted base).mc.fuses.roots = [keyHash key] ∧ (rooted base).mc.fuses.root1 = none := by
  refine ⟨?_, by decide +kernel⟩
  have h : (rooted base).mc.fuses.revoke = 0 ∧ (rooted base).mc.fuses.root1 = none := by decide +kernel
  simp [Fuses.roots, h.1, h.2]
  rfl
theorem test_boot_witness (h : Config.sm2Verify signerId key.key (imageHeader gfw) 0 = true) :
    (rooted State.reset).fwVerifies 0 gfw = true := by
  have k := (test_keys_witness (rooted State.reset) 0 (imageHeader gfw) h (by decide)).1
  have r : (rooted State.reset).mc.fuses.roots = [keyHash key] := rfl
  have v : (rooted State.reset).mc.fuses.svn[0] ≤ gfw.svn := by decide +kernel
  simp only [State.fwVerifies, r]
  rw [show gfw.auth = signed 0 from rfl, show (some (0 : Fin 3).val) = some 0 from rfl, k]
  simp [gfw, fwIx] at *
  exact v
theorem test_power_on_witness : State.reset.mc.pwr.resetLow = false ∧ State.reset.mc.firm.started = false ∧ State.reset.bootImage 0 State.reset.mc.firm.activeB[0] = none ∧
    State.reset.bootImage 0 (!State.reset.mc.firm.activeB[0]) = none ∧ base.mc.firm.started = true := by decide +kernel
theorem test_recovery : (after (exec (.powerOn true true) State.reset)).mc.firm.recovery = true := by decide +kernel
def cold (bad : Nat) : State := base.onSt 0 fun x => { x with csmBad := bad }
theorem test_csm_witness : base.present 0 = true ∧ (base.onMc fun m => { m with pwr := { m.pwr with pwrOk := true } }).mc.pwr.pwrOk = true ∧
    (base.chan 0).pwr.lk = .off ∧ (base.chan 0).st.embBusy = false ∧ (0 : BitVec 256) = base.mc.firm.runDigest[1] ∧ (1 : BitVec 256) ≠ base.mc.firm.runDigest[1] ∧
    ((cold 0).chan 0).st.csmBad = 0 ∧ ((cold 1).chan 0).st.csmBad = 1 ∧ (base.chan 0).frozenCold = false := by decide +kernel
theorem test_read_sensor_witness : (base.onMc fun m => { m with fuses := { m.fuses with present := 0x7F } }).present 7 = false ∧ base.mc.firm.recovery = false := by
  decide +kernel
theorem test_firmware_witness : State.reset.mc.firm.started = false ∧
    (let s := base.onMc fun m => { m with firm := { m.firm with recovery := true } }; s.mc.firm.started = true ∧ s.mc.firm.recovery = true ∧
      s.fwVerifies 0 { gfw with magicOk := false } = false) ∧
    (base.mc.firm.banks[0])[1].valid = false ∧ ((upd base.mc.firm.banks 0 fun x => upd x 1 fun y => { y with valid := true })[0])[1].valid = true ∧
    (base.onMc fun m => { m with fuses := { m.fuses with root1 := some 1 } }).mc.fuses.root1 ≠ none ∧
    ((base.mc.firm.flash[0])[0]?) = none ∧ (((upd base.mc.firm.flash 0 fun _ => [[]])[0])[0]?) = some [] := by decide +kernel
theorem test_revoke_witness : { base.mc.fuses with revoke := base.mc.fuses.revoke ||| (1#2 <<< bit false) }.roots = [] ∧
    { (base.onMc fun m => { m with fuses := { m.fuses with root1 := some 1 } }).mc.fuses with revoke := 1 }.roots ≠ [] := by decide +kernel
theorem test_challenge_witness : let s := base.onMc fun m => { m with firm := { m.firm with challenge := some (5, 0) } }
    s.mc.firm.challenge = some (5, 0) ∧ s.timeNs ≤ 0 + 60000000000 ∧ (0 + 60000000000 : Nat) < ({ s with timeNs := 60000000001 } : State).timeNs ∧
    base.mc.firm.challenge = none := by decide +kernel
theorem test_svn_commit : (after (exec .svnCommit (base.onMc fun m => { m with firm := { m.firm with runSvn := upd m.firm.runSvn 1 fun _ => 9 } }))).mc.fuses.svn[1] = 9 := by
  decide +kernel
theorem test_svn_keeps_higher : (after (exec .svnCommit (base.onMc fun m => { m with fuses := { m.fuses with svn := upd m.fuses.svn 1 fun _ => 12 } }))).mc.fuses.svn[1] = 12 ∧
    (match exec .svnCommit base with | .next _ => true | _ => false) = true := by decide +kernel
theorem test_old_image_witness : ({ gfw with svn := 3 } : FwImage).svn < (upd base.mc.fuses.svn 0 fun _ => 4)[0] := by decide +kernel
theorem test_programs_witness : Fuses.Programs State.reset.mc.fuses State.reset.mc.fuses ∧ step State.reset = .next (after (step State.reset)) := by
  exact ⟨⟨rfl, rfl, rfl, rfl, rfl, rfl, fun _ => rfl, fun _ h => h, fun _ => Nat.le_refl _, id⟩, rfl⟩

/-! ### Registers and the test port -/

theorem test_registers_witness : base.reached (.fn 0) = true ∧ State.reset.reached .mgmt = false ∧ alignedTo 0x2 false = false ∧ alignedTo 0x4 true = false ∧
    alignedTo 0xFF000 false = true ∧ base.regAt 0xFF000 = none ∧ base.windowOpen 0 = true ∧ (base.chan 0).st.busy = false := by decide +kernel
/-- A one clears WR_DROP, a zero keeps it; a 64-bit read of MC_SERIAL; an unaligned read. -/
theorem test_register_words : (let s := base.onSt 0 fun x => { x with wrDrop := true };
      ((after (exec (.registerWrite (.fn 0) 0x2000008 false 8) s)).chan 0).st.wrDrop = false ∧
      ((after (exec (.registerWrite (.fn 0) 0x2000008 false 7) s)).chan 0).st.wrDrop = true) ∧
    (after (exec (.registerRead (.fn 0) 2 false) base)).outputs = [.readData 0xFFFFFFFF] := by decide +kernel
/-- A VF's MC_ADM_STAT shows ERR in its BAR0 and clears it by a one (Table 17.7); a VF that is not enabled is not there. -/
theorem test_vf_stat : let s := base.onMc fun m => { m with
      host := { m.host with numVf := 2 }, admins := [(2, { Admin.reset with err := true })] }
    s.reached (.fn 2) = true ∧ s.reached (.fn 3) = false ∧
    (after (exec (.registerRead (.fn 2) 0x18 false) s)).outputs = [.readData 4] ∧
    (after (exec (.registerRead (.fn 1) 0x18 false) s)).outputs = [.readData 0] ∧
    (after (exec (.registerRead (.fn 2) 0x1018 false) s)).outputs = [.readData 0xFFFFFFFF] ∧
    ((after (exec (.registerWrite (.fn 2) 0x18 false 4) s)).mc.admins.look 2).map (·.err) = some false ∧
    ((after (exec (.registerWrite (.fn 2) 0x18 false 3) s)).mc.admins.look 2).map (·.err) = some true := by decide +kernel
theorem test_jtag_witness : (∀ d, (State.reset.chan d).pwr.lk ≠ .on ∧ (State.reset.chan d).st.embBusy = false) ∧
    (∃ d, ((base.onPwr 3 fun p => { p with lk := .on }).chan d).pwr.lk = .on) := by decide +kernel
theorem test_extest : (after (exec .extest State.reset)).mc.jtag = .extest ∧ (after (exec .extest (base.onPwr 3 fun p => { p with lk := .on }))).mc.jtag = .bypass := by
  decide +kernel
/-- The serial's hexadecimal digits in upper case (R443). -/
theorem test_module_signer : moduleSigner 0x0123456789ABCDEF =
    [0x30, 0x31, 0x32, 0x33, 0x34, 0x35, 0x36, 0x37, 0x38, 0x39, 0x41, 0x42, 0x43, 0x44, 0x45, 0x46] := by decide +kernel
/-- A module whose stacks have 64 GiB shows it before any test has ended (R3, R270). -/
theorem test_cap_from_the_start : let s := (after (exec (.powerOn true true) (State.reset.onMc fun m => { m with fuses := { m.fuses with variant := 2 } })))
    ((s.chan 0).stack[0]).lines = (s.stackCaps 0 0).sum := by decide +kernel
theorem test_power_on_low_witness : (base.onMc fun m => { m with pwr := { m.pwr with resetLow := true } }).mc.pwr.resetLow = true := by decide +kernel
end Sys2Proof.Tests
end

namespace Sys2Proof.Machine

/-! ### Folds over a list of units -/

/-- A view that no step of a fold changes is the same after the fold. -/
theorem State.each_same {α β : Type} (v : State → β) (f : State → α → State) (h : ∀ t a, v (f t a) = v t) (l : List α) (s : State) :
    v (s.each l f) = v s := by
  induction l generalizing s with
  | nil => rfl
  | cons a l ih => exact (ih (f s a)).trans (h s a)

/-- Where each step applies `g`, an idempotent change, at its own unit only, the fold applies it at the listed units. -/
theorem State.each_at {ι β : Type} [DecidableEq ι] (v : ι → State → β) (g : β → β) (f : State → ι → State)
    (self : ∀ t i, v i (f t i) = g (v i t)) (other : ∀ t i k, i ≠ k → v i (f t k) = v i t) (idem : ∀ b, g (g b) = g b)
    (i : ι) (l : List ι) (s : State) : v i (s.each l f) = if i ∈ l then g (v i s) else v i s := by
  induction l generalizing s with
  | nil => rfl
  | cons k l ih =>
    have step : v i (s.each (k :: l) f) = if i ∈ l then g (v i (f s k)) else v i (f s k) := ih (f s k)
    by_cases hk : i = k
    · subst hk
      simp [step, self, idem]
    · simp [step, other s i k hk, hk]

/-! ### What every slot keeps -/

/-- The clock stands, and `f` of every slot of the module is the same. -/
def Keeps {α : Type} (f : Slot → α) (s t : State) : Prop :=
  t.timeNs = s.timeNs ∧ ∀ c j, f (t.slot c j) = f (s.slot c j)

section
variable {α : Type} {f : Slot → α}

theorem Keeps.refl (s : State) : Keeps f s s := ⟨rfl, fun _ _ => rfl⟩

theorem Keeps.trans {s t u : State} (a : Keeps f s t) (b : Keeps f t u) : Keeps f s u :=
  ⟨b.1.trans a.1, fun c j => (b.2 c j).trans (a.2 c j)⟩

theorem Keeps.ite {s t u : State} {p : Prop} [Decidable p] (a : Keeps f s t) (b : Keeps f s u) : Keeps f s (if p then t else u) := by
  split
  · exact a
  · exact b

theorem Keeps.each {β : Type} (g : State → β → State) (h : ∀ t a, Keeps f t (g t a)) (l : List β) (s : State) :
    Keeps f s (s.each l g) :=
  ⟨State.each_same State.timeNs g (fun t a => (h t a).1) l s,
   fun c j => State.each_same (fun t => f (t.slot c j)) g (fun t a => (h t a).2 c j) l s⟩

/-- A change of a channel outside its slots. -/
theorem Keeps.onChan (s : State) (c : Chan) (g : Channel → Channel) (hg : ∀ h, (g h).slots = h.slots) : Keeps f s (s.onChan c g) := by
  refine ⟨rfl, fun d j => ?_⟩
  by_cases hd : d = c
  · subst hd
    simp [State.slot, hg]
  · simp [State.slot, State.onChan_chan_ne s c d g hd]

/-- A change of a slot that `f` does not see. -/
theorem Keeps.onSlot (s : State) (c : Chan) (j : SlotIx) (g : Slot → Slot) (hg : ∀ x, f (g x) = f x) : Keeps f s (s.onSlot c j g) := by
  refine ⟨rfl, fun d i => ?_⟩
  by_cases hd : d = c
  · subst hd
    by_cases hi : i = j
    · subst hi
      simp [hg]
    · simp [State.onSlot_slot_ne s d j i g hi]
  · have hc : (s.onSlot c j g).chan d = s.chan d := State.onSlot_chan_ne s c d j g hd
    simp [State.slot, hc]

/-- A change of a slot's frame, where `f` sees none. -/
theorem Keeps.onFr (hf : ∀ x r, f { x with fr := r } = f x) (s : State) (c : Chan) (j : SlotIx) (g : SlotFrame → SlotFrame) :
    Keeps f s (s.onFr c j g) := Keeps.onSlot s c j _ fun x => hf x (g x.fr)

/-- A change of a slot's staging bank, where `f` sees none. -/
theorem Keeps.onStg (hf : ∀ x g, f { x with stg := g } = f x) (s : State) (c : Chan) (j : SlotIx) (g : Staging → Staging) :
    Keeps f s (s.onStg c j g) := Keeps.onSlot s c j _ fun x => hf x (g x.stg)

theorem Keeps.onPump (s : State) (c : Chan) (p : PumpIx) (g : Pump → Pump) : Keeps f s (s.onPump c p g) :=
  Keeps.onChan s c _ fun _ => by rfl

theorem Keeps.onPort (s : State) (c : Chan) (p : PortIx) (g : Port → Port) : Keeps f s (s.onPort c p g) :=
  Keeps.onChan s c _ fun _ => by rfl

theorem Keeps.onPolder (s : State) (c : Chan) (p : PolderIx) (g : Polder → Polder) : Keeps f s (s.onPolder c p g) :=
  Keeps.onChan s c _ fun _ => by rfl

/-! ### Operations that leave every slot -/

theorem State.marker_keeps (s : State) (c : Chan) (p : PortIx) (m : Marker) : Keeps f s (s.marker c p m) :=
  Keeps.ite (Keeps.refl s) (Keeps.refl s)

theorem State.event_keeps (s : State) (c : Chan) (typ : Nat) (j : Option SlotIx) (unit : Nat) (d : BitVec 128) :
    Keeps f s (s.event c typ j unit d) := Keeps.onChan s c _ fun _ => by rfl

theorem State.onJob_keeps (s : State) (ctx job : Nat) (g : Job → Job) : Keeps f s (s.onJob ctx job g) := Keeps.refl s

theorem State.treeHalt_keeps (s : State) (c : Chan) (tree : BitVec 12) : Keeps f s (s.treeHalt c tree) :=
  Keeps.onChan s c _ fun _ => by rfl

theorem State.faultEvent_keeps (s : State) (c : Chan) (j : Option SlotIx) (code kind unit addr : Nat) (r : ChanAddr) :
    Keeps f s (s.faultEvent c j code kind unit addr r) :=
  (s.event_keeps c _ j unit _).trans (Keeps.onChan _ c _ fun _ => by rfl)

theorem State.stopPumps_keeps (s : State) (c : Chan) (j : SlotIx) : Keeps f s (s.stopPumps c j) :=
  Keeps.each _ (fun t _ => Keeps.onPump t c _ _) _ s

theorem State.onRing_keeps (s : State) (r : RingId) (g : Ring → Ring) : Keeps f s (s.onRing r g) := by
  cases r with
  | admin fn => exact Keeps.refl s
  | well ctx loc =>
    unfold State.onRing
    dsimp only
    split
    · exact Keeps.onChan s _ _ fun _ => rfl
    · exact Keeps.refl s

theorem State.complete_keeps (s : State) (h : Hdr) (status result : Nat) : Keeps f s (s.complete h status result) :=
  s.onRing_keeps _ _

theorem State.settleChecks_keeps (s : State) (ctx job : Nat) : Keeps f s (s.settleChecks ctx job) := by
  unfold State.settleChecks
  split
  · exact Keeps.refl s
  · refine Keeps.ite (Keeps.refl s) ?_
    split <;> exact (s.onJob_keeps ctx job _).trans (Keeps.each _ (fun t _ => t.complete_keeps _ _ _) _ _)

theorem State.endCommit_keeps (s : State) (c : Chan) (j : SlotIx) (reason : Nat) : Keeps f s (s.endCommit c j reason) := by
  unfold State.endCommit
  dsimp only
  split
  · exact (s.onJob_keeps _ _ _).trans (State.complete_keeps _ _ _ _)
  · exact Keeps.refl s

theorem State.endHold_keeps (s : State) (c : Chan) (j : SlotIx) : Keeps f s (s.endHold c j) :=
  Keeps.onChan s c _ fun _ => by rfl

theorem State.sendFlit_keeps (s : State) (c : Chan) (p : PortIx) (x : OutFlit) : Keeps f s (s.sendFlit c p x) :=
  Keeps.ite (Keeps.onPort s c p _) (Keeps.onPort s c p _)

theorem State.sendMgmt_keeps (s : State) (c : Chan) (dest : ChanAddr) (r : MgmtRec) : Keeps f s (s.sendMgmt c dest r) := by
  unfold State.sendMgmt State.sendTo
  split
  · exact s.sendFlit_keeps c _ _
  · exact Keeps.refl s

theorem State.tellHomes_keeps (s : State) (c : Chan) (j : SlotIx) (n : Nat) (halt : Bool) : Keeps f s (s.tellHomes c j n halt) := by
  unfold State.tellHomes
  dsimp only
  split
  · exact Keeps.refl s
  · refine Keeps.ite (Keeps.each _ (fun t a => ?_) _ s) (Keeps.refl s)
    split
    · exact t.sendMgmt_keeps c _ _
    · exact Keeps.refl t

/-! ### Operations that change a slot's frame, its staging bank or its items only -/

theorem State.tryForward_keeps (hf : ∀ x r, f { x with fr := r } = f x) (s : State) (c : Chan) (j : SlotIx) :
    Keeps f s (s.tryForward c j) := by
  unfold State.tryForward
  dsimp only
  split
  · refine Keeps.ite ?_ (Keeps.refl s)
    split
    · exact Keeps.ite (Keeps.onFr hf s c j _) ((Keeps.onFr hf s c j _).trans (State.marker_keeps _ c _ _))
    · exact Keeps.onFr hf s c j _
  · exact Keeps.refl s

theorem State.report_keeps (hf : ∀ x r, f { x with fr := r } = f x) (s : State) (c : Chan) (j : SlotIx) (fault : Bool) (cause : Fin 7)
    (late : Nat) : Keeps f s (s.report c j fault cause late) :=
  Keeps.ite (Keeps.refl s) ((Keeps.onFr hf s c j _).trans (State.tryForward_keeps hf _ c j))

theorem State.stopMember_keeps (hf : ∀ x r, f { x with fr := r } = f x) (s : State) (c : Chan) (j : SlotIx) :
    Keeps f s (s.stopMember c j) :=
  ((Keeps.onFr hf s c j _).trans (State.stopPumps_keeps _ c j)).trans (State.report_keeps hf _ c j true 0 0)

/-- After FLT_REC has taken a job fault, only the frame of the slot still changes (R386, R387, R331). -/
theorem State.fault_keeps (hf : ∀ x r, f { x with fr := r } = f x) (s : State) (c : Chan) (j : SlotIx) (cause : Cause) (kind : UnitKind)
    (unit addr : Nat) (live : (s.slot c j).live = true) :
    Keeps f (s.onRegs c j fun r => { r with flt := r.flt.take cause.code kind.code unit (s.slot c j).regs.frame })
      (s.fault c j cause kind unit addr) := by
  simp only [State.fault, live, if_true]
  refine Keeps.trans ?_ (State.stopMember_keeps hf _ c j)
  refine Keeps.trans ?_ (Keeps.onFr hf _ c j _)
  exact (State.faultEvent_keeps _ c _ _ _ _ _ _).trans (Keeps.each _ (fun t p => t.marker_keeps c p _) _ _)

theorem State.abandonCommit_keeps (hf : ∀ x g, f { x with stg := g } = f x) (s : State) (c : Chan) (j : SlotIx) :
    Keeps f s (s.abandonCommit c j) :=
  Keeps.ite ((Keeps.onStg hf s c j _).trans (State.endCommit_keeps _ c j 5)) (Keeps.refl s)

theorem State.endUrgents_keeps (hf : ∀ x us, f { x with urgents := us } = f x) (s : State) (c : Chan) (j : SlotIx) (status : Nat) :
    Keeps f s (s.endUrgents c j status) :=
  ((Keeps.onSlot s c j _ fun x => hf x []).trans (State.endHold_keeps _ c j)).trans
    (Keeps.each _ (fun t (u : UrgentItem) => t.complete_keeps u.hdr status 0) _ _)

end

/-- A slot with the committed values copied back into its bank (R60). -/
def Slot.reverted (x : Slot) : Slot := { x with stg := { x.stg with set := x.regs.set, state := .clean } }

/-- Beside the slot itself, reverting a bank touches only the staged fields of polders and channel. -/
theorem State.revertBank_keeps {α : Type} {f : Slot → α} (s : State) (c : Chan) (j : SlotIx) :
    Keeps f (s.onSlot c j Slot.reverted) (s.revertBank c j) :=
  (Keeps.each _ (fun t p => Keeps.onPolder t c p _) _ _).trans (Keeps.onChan _ c _ fun h => by split <;> rfl)

end Sys2Proof.Machine

/-! ### Lost ticks (R40, R41) -/

namespace Sys2Proof.Machine

/-- Of the registers of a slot, a job fault changes FLT_REC alone (R386). -/
theorem State.fault_regs (s : State) (c : Chan) (j : SlotIx) (cause : Cause) (kind : UnitKind) (unit addr : Nat)
    (live : (s.slot c j).live = true) : ((s.fault c j cause kind unit addr).slot c j).regs =
      { (s.slot c j).regs with flt := (s.slot c j).regs.flt.take cause.code kind.code unit (s.slot c j).regs.frame } := by
  have kept := (State.fault_keeps (f := Slot.regs) (fun _ _ => rfl) s c j cause kind unit addr live).2 c j
  rw [kept, State.onRegs_slot_regs]

/-- A job fault takes no time. -/
theorem State.fault_timeNs (s : State) (c : Chan) (j : SlotIx) (cause : Cause) (kind : UnitKind) (unit addr : Nat)
    (live : (s.slot c j).live = true) : (s.fault c j cause kind unit addr).timeNs = s.timeNs :=
  (State.fault_keeps (f := Slot.regs) (fun _ _ => rfl) s c j cause kind unit addr live).1

/-- A running master whose fence is not met when its watchdog expires faults with WATCHDOG (R40). -/
theorem exec_watchdogExpiry (s : State) (c : Chan) (j : SlotIx) (live : (s.slot c j).live = true) (lead : (s.slot c j).job.lead = true)
    (run : (s.slot c j).job.state = .running) (pend : (s.slot c j).fr.pend = none) (met : s.fenceMet c j = false) :
    exec (.watchdogExpiry c j) s =
      .next ((s.until ((s.slot c j).fr.tickNs + (s.slot c j).regs.set.wdogMs * 1000000)).fault c j .watchdog .none 0 0) := by
  show execWatchdogExpiry c j s = _
  simp [execWatchdogExpiry, onlyIf, live, lead, run, pend, met]

/-- A running member that no tick has reached raises TICK_LOST (R41). -/
theorem exec_tickLost (s : State) (c : Chan) (j : SlotIx) (live : (s.slot c j).live = true) (lead : (s.slot c j).job.lead = false)
    (run : (s.slot c j).job.state = .running) (pend : (s.slot c j).fr.pend = none) (pds : (s.slot c j).job.polders ≠ 0) :
    exec (.tickLost c j) s =
      .next ((s.until ((s.slot c j).fr.tickNs + (s.slot c j).regs.set.wdogMs * 1000000 + 100000)).fault c j .tickLost .none 0 0) := by
  show execTickLost c j s = _
  rw [execTickLost, onlyIf, if_pos (by simpa [live, lead, run, pend] using pds)]

/-! ### Failover (R43) -/

/-- What a slot's job is, whatever its state: its part and its place in the job's tree with it. -/
def Slot.role (x : Slot) : SlotJob := { x.job with state := .free }

theorem State.homeHalt_keeps_role (s : State) (c : Chan) (j : SlotIx) (n : Nat) : Keeps Slot.role s (s.homeHalt c j n) :=
  (Keeps.onChan s c _ fun _ => by rfl).trans (Keeps.onSlot _ c j _ fun _ => by rfl)

/-- A halt of a job changes the part of no slot in its job: of the job it changes the state alone (R42). -/
theorem State.haltEffect_keeps_role (s : State) (c : Chan) (j : SlotIx) : Keeps Slot.role s (s.haltEffect c j) := by
  unfold State.haltEffect
  extract_lets x n cause s1 s2 s3 s4 s5 s6 s7
  have h1 : Keeps Slot.role s s1 := (s.event_keeps c _ _ _ _).trans (State.stopPumps_keeps _ c j)
  have h2 : Keeps Slot.role s1 s2 := Keeps.each _ (fun t p => Keeps.onPump t c p _) _ s1
  have h3 : Keeps Slot.role s2 s3 := Keeps.onChan s2 c _ fun _ => by rfl
  have h4 : Keeps Slot.role s3 s4 :=
    (((State.abandonCommit_keeps (fun _ _ => rfl) s3 c j).trans (Keeps.onSlot _ c j Slot.reverted fun _ => by rfl)).trans
      (State.revertBank_keeps _ c j)).trans (State.endUrgents_keeps (fun _ _ => rfl) _ c j _)
  have h5 : Keeps Slot.role s4 s5 := Keeps.onSlot s4 c j _ fun _ => by rfl
  have h6 : Keeps Slot.role s5 s6 :=
    (Keeps.each _ (fun t (e : Chan × SlotIx) => t.homeHalt_keeps_role e.1 e.2 n) _ s5).trans (State.tellHomes_keeps _ c j n true)
  have h7 : Keeps Slot.role s s7 := ((((((h1.trans h2).trans h3).trans h4).trans h5).trans h6)).trans (s6.settleChecks_keeps _ _)
  refine h7.trans ?_
  split
  · exact Keeps.refl s7
  · next jb _ =>
    have h8 := (s7.onJob_keeps x.job.ctx x.job.job fun y => { y with copies := [] }).trans
      (Keeps.each (f := Slot.role) _ (fun t (k : HostCopy) => t.complete_keeps k.hdr stJobFaulted 0) jb.copies _)
    exact Keeps.ite h8 (h8.trans (State.onJob_keeps _ _ _ _))

theorem State.issueHalt_keeps_role (s : State) (c : Chan) (j : SlotIx) : Keeps Slot.role s (s.issueHalt c j) := by
  unfold State.issueHalt
  exact ((s.treeHalt_keeps c _).trans (Keeps.each _ (fun t p => t.marker_keeps c p _) _ _)).trans (State.haltEffect_keeps_role _ c j)

/-- The acting master's part in its job: it leads in the place of the lost master, with no parent and its old parent port below it. -/
def SlotJob.takenOver (x : SlotJob) (a : ChanAddr) : SlotJob :=
  { x with acting := true, master := a, parent := none, children := x.children ++ x.parent.toList }

/-- A member that takes over has the acting master's part afterwards, though it stops and may halt its job at once (R43). -/
theorem exec_failoverTakeover_role (s : State) (c : Chan) (j : SlotIx) (live : (s.slot c j).live = true)
    (halt : (s.slot c j).job.state ≠ .halted) (lead : (s.slot c j).job.lead = false) (lost : (s.slot c j).fr.masterLost = true)
    (first : s.firstLive c j = true) : Answers (exec (.failoverTakeover c j) s) fun t =>
      (t.slot c j).role = { (s.slot c j).job.takenOver (s.addrOf c) with state := .free } := by
  have hx : exec (.failoverTakeover c j) s = execFailoverTakeover c j s := rfl
  rw [hx, execFailoverTakeover, if_pos (by simp [live, halt, lead, lost, first])]
  extract_lets up report s1 s2 s3
  have h1 : (s1.slot c j).role = { (s.slot c j).job.takenOver (s.addrOf c) with state := .free } := by
    simp only [s1, State.onSlot_slot]
    rfl
  have h2 : Keeps Slot.role s1 s2 := (s1.onJob_keeps _ _ _).trans (State.stopMember_keeps (fun _ _ => rfl) _ c j)
  have h3 : Keeps Slot.role s2 s3 := State.tryForward_keeps (fun _ _ => rfl) s2 c j
  refine ⟨_, rfl, ?_⟩
  have h4 : Keeps Slot.role s1 (if (s3.slot c j).fr.combined.isSome then s3.issueHalt c j else s3) :=
    (h2.trans h3).trans (Keeps.ite (s3.issueHalt_keeps_role c j) (Keeps.refl s3))
  exact (h4.2 c j).trans h1

/-! ### Notices of non-member homes (R56) -/

/-- The tick master keeps a notice that it does not hold yet. -/
theorem State.inputNotice_notices (s : State) (c : Chan) (j : SlotIx) (a : ChanAddr) (n : Nat) (live : (s.slot c j).live = true)
    (lead : (s.slot c j).job.lead = true) (home : a ∈ (s.slot c j).job.nonMembers) (fresh : (a, n) ∉ (s.slot c j).fr.notices) :
    ((s.inputNotice c j a n).slot c j).fr.notices = (s.slot c j).fr.notices ++ [(a, n)] := by
  unfold State.inputNotice
  dsimp only
  rw [if_pos (by simp [live, lead, home, fresh])]
  split
  · split <;> simp
  · simp

/-- Settles O32: WATCHDOG, TICK_LOST, failover and notices, each by what its command does. -/
theorem lostTicksAndFailover : Obligations.LostTicksAndFailover := by
  unfold Obligations.LostTicksAndFailover
  intro c j a n s x live
  refine ⟨fun lead run pend met => exec_watchdogExpiry s c j live lead run pend met,
    fun lead run pend pds => exec_tickLost s c j live lead run pend pds, fun lead run pend pds valid => ?_,
    fun halt lead lost first => ?_, fun lead home fresh => ⟨_, rfl, s.inputNotice_notices c j a n live lead home fresh⟩⟩
  · refine ⟨_, exec_tickLost s c j live lead run pend pds, State.fault_timeNs _ c j _ _ 0 0 live, ?_⟩
    have regs := State.fault_regs (s.until (x.fr.tickNs + x.regs.set.wdogMs * 1000000 + 100000)) c j .tickLost .none 0 0 live
    rw [regs]
    simp [FltRec.take, Cause.code, show (s.slot c j).regs.flt.valid = false from valid]
  · obtain ⟨t, ht, role⟩ := exec_failoverTakeover_role s c j live halt lead lost first
    exact ⟨t, ht, congrArg SlotJob.acting role, congrArg SlotJob.master role, congrArg SlotJob.parent role⟩

end Sys2Proof.Machine

/-! ### Writes of ST fields (R58, R60) -/

namespace Sys2Proof.Machine

/-- A word keeps the fields that lie in its low half. -/
theorem field_setWidth (v : BitVec 64) (lo w : Nat) (h : lo + w ≤ 32) : field (v.setWidth 32) lo w = field v lo w := by
  rw [field, BitVec.extractLsb'_setWidth_of_le h, ← field]

/-- A channel whose registers can be written takes the write (R473). -/
theorem State.blockWrite_reachable (s : State) (c : Chan) (f : State → State) (h : Reachable s c) : s.blockWrite c f = f s := by
  obtain ⟨window, busy⟩ := h
  simp [State.blockWrite, window, busy]

/-- FRAME_CFG of a slot stands where Table 17.5 puts it. -/
theorem stWord_frameCfg (j : SlotIx) : stWord (0x010000 + 0x100 * j.val) = some (.frameCfg j) := by
  have lo : 0x010000 ≤ 0x010000 + 0x100 * j.val ∧ 0x010000 + 0x100 * j.val < 0x011000 := by omega
  have row : (0x010000 + 0x100 * j.val) % 0x100 = 0 := by omega
  rw [stWord, dif_pos lo]
  simp only [row, if_true, Option.some.injEq, StWord.frameCfg.injEq, Fin.ext_iff]
  omega

/-- A write of one aligned word of ST fields. -/
theorem exec_stWrite_word (s : State) (c : Chan) (off : BitVec 22) (v : BitVec 64) (w : StWord) (h : Reachable s c)
    (aligned : off.toNat % 4 = 0) (word : stWord off.toNat = some w) :
    exec (.stWrite c off false v) s = .next (s.stageWord c w (v.setWidth 32)) := by
  show execStWrite c off false v s = _
  simp [execStWrite, aligned, s.blockWrite_reachable c _ h, State.stageAccess, word]

/-- A slot that ignores a write for its lock notes it (R60). -/
def State.noteLocked (s : State) (c : Chan) (js : List SlotIx) : State :=
  s.each js fun t j => t.onStg c j fun g => { g with locked := true }

/-- Where some slot of the word's bank is locked, the write is no more than noted at the locked ones. -/
theorem State.stageWord_locked (s : State) (c : Chan) (j : SlotIx) (w : StWord) (v : BitVec 32) (bank : j ∈ (s.chan c).banks w)
    (lock : (s.slot c j).stg.state.locked = true) :
    s.stageWord c w v = s.noteLocked c (((s.chan c).banks w).filter fun i => (s.slot c i).stg.state.locked) := by
  have shut : j ∈ ((s.chan c).banks w).filter fun i => (s.slot c i).stg.state.locked := List.mem_filter.2 ⟨bank, lock⟩
  simp only [State.stageWord, List.isEmpty_eq_false_iff.2 (List.ne_nil_of_mem bank),
    List.isEmpty_eq_false_iff.2 (List.ne_nil_of_mem shut)]
  rfl

theorem State.noteLocked_stg (s : State) (c : Chan) (j : SlotIx) (js : List SlotIx) (h : j ∈ js) :
    ((s.noteLocked c js).slot c j).stg = { (s.slot c j).stg with locked := true } := by
  have noted := State.each_at (fun i t => (t.slot c i).stg) (fun g => { g with locked := true })
    (fun t i => t.onStg c i fun g => { g with locked := true }) (fun t i => State.onStg_slot_stg t c i _)
    (fun t i k hk => congrArg Slot.stg (State.onSlot_slot_ne t c k i _ hk)) (fun _ => rfl) j js s
  exact noted.trans (if_pos h)

/-- Noting a lock changes no committed value, no staged field of the channel and no polder. -/
theorem State.noteLocked_regs (s : State) (c : Chan) (j : SlotIx) (js : List SlotIx) :
    ((s.noteLocked c js).slot c j).regs = (s.slot c j).regs :=
  (Keeps.each (f := Slot.regs) _ (fun t i => Keeps.onStg (fun _ _ => rfl) t c i _) js s).2 c j

theorem State.noteLocked_stSet (s : State) (c : Chan) (js : List SlotIx) : ((s.noteLocked c js).chan c).stSet = (s.chan c).stSet :=
  State.each_same (fun t => (t.chan c).stSet) _ (fun t i => State.onStg_chan_stSet t c i _) js s

theorem State.noteLocked_polder (s : State) (c : Chan) (js : List SlotIx) (pd : PolderIx) :
    (s.noteLocked c js).polder c pd = s.polder c pd :=
  State.each_same (fun t => t.polder c pd) _ (fun t i => State.onStg_polder t c i _ pd) js s

/-- FRAME_CFG of a slot with a job stands in the bank of that slot. -/
theorem Channel.banks_frameCfg (h : Channel) (j : SlotIx) (live : h.slots[j.val].live = true) : h.banks (.frameCfg j) = [j] := by
  simp [Channel.banks, live]

/-- A write of FRAME_CFG lands in the bank of an unlocked slot, which is then DIRTY (R60). -/
theorem State.stageWord_frameCfg (s : State) (c : Chan) (j : SlotIx) (v : BitVec 32) (live : (s.slot c j).live = true)
    (unlocked : (s.slot c j).stg.state.locked = false) : s.stageWord c (.frameCfg j) v =
      s.onStg c j fun g => { g with set := { g.set with periodUs := field v 0 15, wdogMs := field v 16 16 }, state := .dirty } := by
  simp [State.stageWord, (s.chan c).banks_frameCfg j live, unlocked, State.each, State.stagePut, SlotSet.put]

/-- A write of FRAME_CFG at a slot with a job: staged, or noted at a locked slot; the committed values stand (R60). -/
theorem exec_stWrite_frameCfg (s : State) (c : Chan) (j : SlotIx) (v : BitVec 64) (h : Reachable s c) (live : (s.slot c j).live = true) :
    Answers (exec (.stWrite c (BitVec.ofNat 22 (0x010000 + 0x100 * j.val)) false v) s) fun t =>
      ((t.slot c j).stg = if (s.slot c j).stg.state.locked then { (s.slot c j).stg with locked := true }
        else { (s.slot c j).stg with
          set := { (s.slot c j).stg.set with periodUs := field v 0 15, wdogMs := field v 16 16 }, state := .dirty }) ∧
      (t.slot c j).regs = (s.slot c j).regs := by
  have off : (BitVec.ofNat 22 (0x010000 + 0x100 * j.val)).toNat = 0x010000 + 0x100 * j.val := by
    rw [BitVec.toNat_ofNat]
    omega
  refine ⟨_, exec_stWrite_word s c _ v (.frameCfg j) h (by omega) (by rw [off, stWord_frameCfg]), ?_⟩
  have bank : j ∈ (s.chan c).banks (.frameCfg j) := by simp [Channel.banks_frameCfg _ _ live]
  cases lock : (s.slot c j).stg.state.locked with
  | true =>
    rw [s.stageWord_locked c j _ _ bank lock]
    exact ⟨s.noteLocked_stg c j _ (List.mem_filter.2 ⟨bank, lock⟩), s.noteLocked_regs c j _⟩
  | false =>
    rw [s.stageWord_frameCfg c j _ live lock, field_setWidth v 0 15 (by omega), field_setWidth v 16 16 (by omega)]
    exact ⟨State.onStg_slot_stg .., State.onStg_slot_regs ..⟩

/-! ### CHECK, UNLOCK, REVERT and COMMIT (R59, R60, R62) -/

theorem exec_stgCheck (s : State) (c : Chan) (j : SlotIx) (tag : BitVec 8) (h : Reachable s c) :
    exec (.stgCheck c j tag) s = .next (s.startCheck c j tag) := congrArg Host.Outcome.next (s.blockWrite_reachable c _ h)

theorem State.startCheck_stg (s : State) (c : Chan) (j : SlotIx) (tag : BitVec 8) (g : Staging) (hg : (s.slot c j).stg = g) :
    ((s.startCheck c j tag).slot c j).stg =
      if g.state = .clean ∨ g.state = .dirty ∨ g.state = .failed then { g with state := .checking, checkTag := tag } else g := by
  rw [State.startCheck, State.onStg_slot_stg, hg]
  cases g.state <;> rfl

/-- UNLOCK of a bank (R60). -/
def Staging.unlocked (g : Staging) : Staging := if g.state = .checked ∨ g.state = .failed then { g with state := .dirty } else g

theorem exec_stgUnlock (s : State) (c : Chan) (j : SlotIx) (h : Reachable s c) :
    exec (.stgUnlock c j) s = .next (s.onStg c j Staging.unlocked) := by
  refine (congrArg Host.Outcome.next (s.blockWrite_reachable c _ h)).trans ?_
  refine congrArg (fun f => Host.Outcome.next (s.onStg c j f)) (funext fun g => ?_)
  unfold Staging.unlocked
  cases g.state <;> rfl

/-- The states of a bank that REVERT acts on (Table 2.7). -/
def Staging.revertible (g : Staging) : Prop := g.state = .dirty ∨ g.state = .checked ∨ g.state = .failed

theorem exec_stgRevert (s : State) (c : Chan) (j : SlotIx) (h : Reachable s c) (able : (s.slot c j).stg.revertible) :
    exec (.stgRevert c j) s = .next (s.revertBank c j) := by
  refine congrArg Host.Outcome.next ((s.blockWrite_reachable c _ h).trans ?_)
  rcases able with hs | hs | hs <;> simp [hs]

theorem exec_stgRevert_ignored (s : State) (c : Chan) (j : SlotIx) (h : Reachable s c) (able : ¬ (s.slot c j).stg.revertible) :
    exec (.stgRevert c j) s = .next s := by
  refine congrArg Host.Outcome.next ((s.blockWrite_reachable c _ h).trans ?_)
  split
  · next hs => exact absurd (.inl hs) able
  · next hs => exact absurd (.inr (.inl hs)) able
  · next hs => exact absurd (.inr (.inr hs)) able
  · rfl

theorem State.revertBank_slot (s : State) (c : Chan) (j : SlotIx) : (s.revertBank c j).slot c j = (s.slot c j).reverted :=
  ((s.revertBank_keeps (f := id) c j).2 c j).trans (s.onSlot_slot c j _)

/-- A polder's committed fields copied back into its bank (R60). -/
def Polder.reverted (q : Polder) : Polder := { q with stSlotMode := q.slotMode, stUpUs := q.upUs }

/-- REVERT of a slot and its polders, before the channel's own fields. -/
def State.revertSlot (s : State) (c : Chan) (j : SlotIx) : State :=
  (s.onSlot c j Slot.reverted).each (s.slot c j).pds fun t p => t.onPolder c p Polder.reverted

theorem State.revertBank_eq (s : State) (c : Chan) (j : SlotIx) : s.revertBank c j =
    (s.revertSlot c j).onChan c fun y => if (s.chan c).chanSlots.contains j then { y with stSet := y.set } else y := rfl

theorem State.revertSlot_set (s : State) (c : Chan) (j : SlotIx) : ((s.revertSlot c j).chan c).set = (s.chan c).set :=
  (State.each_same (fun t => (t.chan c).set) _ (fun t p => State.onPolder_chan_set t c p _) _ _).trans (State.onSlot_chan_set ..)

theorem State.revertSlot_polder (s : State) (c : Chan) (j : SlotIx) (pd : PolderIx)
    (own : (s.slot c j).job.polders.getLsbD pd.val = true) : (s.revertSlot c j).polder c pd = (s.polder c pd).reverted := by
  have listed : pd ∈ (s.slot c j).pds := List.mem_filter.2 ⟨List.mem_finRange pd, own⟩
  have each := State.each_at (fun i t => t.polder c i) Polder.reverted (fun t i => t.onPolder c i Polder.reverted)
    (fun t i => State.onPolder_polder t c i _) (fun t i k hk => State.onPolder_polder_ne t c k i _ hk) (fun _ => rfl)
    pd (s.slot c j).pds (s.onSlot c j Slot.reverted)
  rw [State.revertSlot, each, if_pos listed, State.onSlot_polder]

theorem State.revertBank_set (s : State) (c : Chan) (j : SlotIx) : ((s.revertBank c j).chan c).set = (s.chan c).set := by
  rw [State.revertBank_eq, State.onChan_chan, ← s.revertSlot_set c j]
  split <;> rfl

/-- REVERT copies the channel's committed fields into its bank where they are staged for the slot (R480). -/
theorem State.revertBank_stSet (s : State) (c : Chan) (j : SlotIx) (scope : j ∈ (s.chan c).chanSlots) :
    ((s.revertBank c j).chan c).stSet = (s.chan c).set := by
  rw [State.revertBank_eq, State.onChan_chan, if_pos (List.contains_iff_mem.2 scope), State.revertSlot_set]

theorem State.revertBank_polder (s : State) (c : Chan) (j : SlotIx) (pd : PolderIx)
    (own : (s.slot c j).job.polders.getLsbD pd.val = true) : (s.revertBank c j).polder c pd = (s.polder c pd).reverted := by
  rw [← s.revertSlot_polder c j pd own, State.revertBank_eq, State.polder, State.onChan_chan]
  split <;> rfl

theorem exec_stgCommit (s : State) (c : Chan) (j : SlotIx) (tag : BitVec 8) (h : Reachable s c) :
    exec (.stgCommit c j tag) s = .next (s.startCommit c j tag) := congrArg Host.Outcome.next (s.blockWrite_reachable c _ h)

/-- Away from the master a COMMIT fails; at it, it acts on a bank CHECKED with its tag and on no other (R62). -/
theorem State.startCommit_stg (s : State) (c : Chan) (j : SlotIx) (tag : BitVec 8) (g : Staging) (hg : (s.slot c j).stg = g) :
    ((s.startCommit c j tag).slot c j).stg =
      if (s.chan c).isMaster j = false then { g with reason := 3 }
      else if g.state = .commitPending then g
      else if g.state = .checked ∧ g.tag = tag then
        { g with state := .commitPending, commitTag := tag, fences := 0, reason := 0, late := s.fenceBegun c j }
      else { g with reason := 2 } := by
  unfold State.startCommit
  by_cases master : (s.chan c).isMaster j = true
  · simp only [master, if_true, State.onStg_slot_stg, hg, Bool.true_eq_false, if_false]
    cases g.state <;> simp
  · simp [master, hg]

theorem State.startCommit_regs (s : State) (c : Chan) (j : SlotIx) (tag : BitVec 8) :
    ((s.startCommit c j tag).slot c j).regs = (s.slot c j).regs := by
  unfold State.startCommit
  dsimp only
  split <;> exact State.onStg_slot_regs ..

/-! ### The end of a check and of a commit (R59, R60, R62) -/

theorem State.settleChecks_stg (s : State) (ctx job : Nat) (c : Chan) (j : SlotIx) :
    ((s.settleChecks ctx job).slot c j).stg = (s.slot c j).stg := (s.settleChecks_keeps (f := Slot.stg) ctx job).2 c j

/-- A check that finds no failure ends in CHECKED, with its tag. -/
theorem exec_checkComplete_passed (s : State) (c : Chan) (j : SlotIx) (run : (s.slot c j).stg.state = .checking)
    (pass : (s.chan c).checkSet j = none) : Answers (exec (.checkComplete c j) s) fun t =>
      (t.slot c j).stg = { (s.slot c j).stg with state := .checked, tag := (s.slot c j).stg.checkTag, reason := 0 } := by
  refine ⟨_, if_pos run, ?_⟩
  simp only [pass]
  rw [State.settleChecks_stg, State.onStg_slot_stg]

/-- A check that finds a failure ends in FAILED, with the first one. -/
theorem exec_checkComplete_failed (s : State) (c : Chan) (j : SlotIx) (e : CheckFail) (run : (s.slot c j).stg.state = .checking)
    (fail : (s.chan c).checkSet j = some e) : Answers (exec (.checkComplete c j) s) fun t =>
      (t.slot c j).stg = { (s.slot c j).stg with
        state := .failed, reason := e.1, errOff := BitVec.ofNat 22 e.2.1, errBit := e.2.2, errChan := s.addrOf c } := by
  refine ⟨_, if_pos run, ?_⟩
  simp only [fail]
  rw [State.settleChecks_stg, State.onStg_slot_stg]

/-- A commit that has passed 16 fences, and that no tick under way carries, fails. -/
theorem exec_commitTimeout_failed (s : State) (c : Chan) (j : SlotIx) (pending : (s.slot c j).stg.state = .commitPending)
    (fences : 16 ≤ (s.slot c j).stg.fences) (uncarried : ∀ p, (s.slot c j).fr.pend = some p → p.commit = false) :
    Answers (exec (.commitTimeout c j) s) fun t =>
      (t.slot c j).stg = { (s.slot c j).stg with state := .failed, reason := 2, errChan := s.unchecked c j } := by
  refine ⟨_, if_pos ⟨pending, fences, ?carried⟩, ?failed⟩
  case carried =>
    cases hp : (s.slot c j).fr.pend with
    | none => rfl
    | some p => simp [uncarried p hp]
  case failed =>
    exact ((State.endCommit_keeps (f := Slot.stg) _ c j 2).2 c j).trans (State.onStg_slot_stg ..)

/-- Settles O35: each command of the staging bank by what it leaves of the bank, the committed values standing. -/
theorem stagingBank : Obligations.StagingBank := by
  unfold Obligations.StagingBank
  intro c j tag v off w e s g answers
  refine ⟨fun h => ⟨fun live => ?_, fun word aligned bank lock => ?_, ?_, ?_, ?_, fun able => ?_, ?_⟩,
    exec_checkComplete_passed s c j, exec_checkComplete_failed s c j e, exec_commitTimeout_failed s c j⟩
  · obtain ⟨t, ht, stg, regs⟩ := exec_stWrite_frameCfg s c j v h live
    refine ⟨t, ht, ?_, congrArg SlotRegs.set regs⟩
    split
    · next lock => exact stg.trans (if_pos lock)
    · next lock => exact stg.trans (if_neg lock)
  · refine ⟨_, exec_stWrite_word s c off v w h aligned word, ?_⟩
    rw [s.stageWord_locked c j w _ bank lock]
    exact ⟨s.noteLocked_stg c j _ (List.mem_filter.2 ⟨bank, lock⟩), s.noteLocked_stSet c _, s.noteLocked_polder c _⟩
  · refine ⟨_, exec_stgCheck s c j tag h, ?_, congrArg SlotRegs.set (State.onStg_slot_regs ..)⟩
    rw [s.startCheck_stg c j tag g rfl]
    split <;> rfl
  · refine ⟨_, exec_stgUnlock s c j h, ?_, congrArg SlotRegs.set (State.onStg_slot_regs ..)⟩
    rw [State.onStg_slot_stg, Staging.unlocked]
    split <;> rfl
  · by_cases able : g.revertible
    · have slot := s.revertBank_slot c j
      exact ⟨_, exec_stgRevert s c j h able, (if_pos able).mpr (congrArg Slot.stg slot),
        (congrArg (fun x : Slot => x.regs.set) slot).trans rfl⟩
    · exact ⟨s, exec_stgRevert_ignored s c j h able, (if_neg able).mpr rfl, rfl⟩
  · exact ⟨_, exec_stgRevert s c j h able, s.revertBank_set c j, s.revertBank_stSet c j, fun pd own => by
      simp [s.revertBank_polder c j pd own, Polder.reverted]⟩
  · refine ⟨_, exec_stgCommit s c j tag h, ?_, congrArg SlotRegs.set (s.startCommit_regs c j tag)⟩
    rw [s.startCommit_stg c j tag g rfl]
    split_ifs <;> rfl

end Sys2Proof.Machine

/-! ### The fuses of the module, and what keeps them -/

namespace Sys2Proof.Machine

/-- The fuses of the module (Table 16.1). -/
def State.fuses (s : State) : Fuses := s.mc.fuses

@[simp] theorem State.mc_fuses (s : State) : s.mc.fuses = s.fuses := by rw [State.fuses]

@[simp] theorem State.mk_fuses (pending : List Instr) (timeNs freeCtr : Nat) (outputs : List Output) (mc : Gnover) (ch : Vector Channel 8) :
    (State.mk pending timeNs freeCtr outputs mc ch).fuses = mc.fuses := by rw [State.fuses]

theorem State.fuses_of_mc {s t : State} (h : t.mc = s.mc) : t.fuses = s.fuses := congrArg Gnover.fuses h

theorem State.fuses_ite {p : Prop} [Decidable p] {s t : State} {f : Fuses} (hs : s.fuses = f) (ht : t.fuses = f) :
    (if p then s else t).fuses = f := by
  split
  · exact hs
  · exact ht

@[simp] theorem State.ite_fuses (p : Prop) [Decidable p] (s t : State) :
    (if p then s else t).fuses = if p then s.fuses else t.fuses := apply_ite State.fuses p s t

/-- The fuses of the state that an operation with a further result leaves. -/
def fstFuses {β : Type} (x : State × β) : Fuses := x.1.fuses

@[simp] theorem fst_fuses {β : Type} (x : State × β) : x.1.fuses = fstFuses x := by rw [fstFuses]

@[simp] theorem fstFuses_mk {β : Type} (s : State) (b : β) : fstFuses (s, b) = s.fuses := by rw [fstFuses]

@[simp] theorem ite_fstFuses {β : Type} (p : Prop) [Decidable p] (x y : State × β) :
    fstFuses (if p then x else y) = if p then fstFuses x else fstFuses y := apply_ite fstFuses p x y

theorem fuses_of_eq {β : Type} {x : State × β} {t : State} {b : β} (h : x = (t, b)) : t.fuses = fstFuses x := by rw [h]; rfl

/-- A command that answers a next state answers one with these fuses. -/
def KeepsFuses (f : Fuses) : Res → Prop
  | .next t => t.fuses = f
  | _ => True

@[simp] theorem keepsFuses_next (f : Fuses) (t : State) : KeepsFuses f (.next t) ↔ t.fuses = f := by rw [KeepsFuses]

@[simp] theorem keepsFuses_fault (f : Fuses) (e : Fault) : KeepsFuses f (.fault e) := trivial

@[simp] theorem keepsFuses_onlyIf (f : Fuses) (g : Bool) (s t : State) :
    KeepsFuses f (onlyIf g s t) ↔ (if g then t else s).fuses = f := by rw [onlyIf, KeepsFuses]

theorem KeepsFuses.ite {f : Fuses} {p : Prop} [Decidable p] {a b : Res} (ha : KeepsFuses f a) (hb : KeepsFuses f b) :
    KeepsFuses f (if p then a else b) := by
  split
  · exact ha
  · exact hb

@[simp] theorem keepsFuses_ite (f : Fuses) (p : Prop) [Decidable p] (a b : Res) :
    KeepsFuses f (if p then a else b) ↔ if p then KeepsFuses f a else KeepsFuses f b := by
  split <;> rfl

/-- An operation that succeeds leaves these fuses. -/
def KeepsIfSome (f : Fuses) (o : Option State) : Prop := ∀ t, o = some t → t.fuses = f

theorem KeepsIfSome.some {f : Fuses} {t : State} (h : t.fuses = f) : KeepsIfSome f (Option.some t) := fun _ hu => Option.some.inj hu ▸ h

theorem KeepsIfSome.bind {f : Fuses} {o : Option State} {g : State → Option State} (ho : KeepsIfSome f o)
    (hg : ∀ t, t.fuses = f → KeepsIfSome f (g t)) : KeepsIfSome f (o.bind g) := fun u hu =>
  have ⟨t, ht, hu⟩ := Option.bind_eq_some_iff.1 hu
  hg t (ho t ht) u hu

theorem KeepsIfSome.map {α : Type} {f : Fuses} {o : Option α} {g : α → State} (hg : ∀ a, (g a).fuses = f) :
    KeepsIfSome f (o.map g) := fun _ hu =>
  have ⟨a, _, ha⟩ := Option.map_eq_some_iff.1 hu
  ha ▸ hg a

theorem KeepsIfSome.none {f : Fuses} : KeepsIfSome f Option.none := by simp [KeepsIfSome]

/-- A read of other pumps' memory that leaves the fuses as they are. -/
def Reader.KeepsFuses (rd : Reader) : Prop := ∀ s ch n, fstFuses (rd s ch n) = s.fuses

@[simp] theorem State.each_fuses {α : Type} (s : State) (l : List α) (f : State → α → State) (hf : ∀ a t, (f t a).fuses = t.fuses) :
    (s.each l f).fuses = s.fuses := State.each_same State.fuses f (fun t a => hf a t) l s

@[simp] theorem foldl_fuses {α : Type} (l : List α) (f : State → α → State) (s : State) (hf : ∀ a t, (f t a).fuses = t.fuses) :
    (l.foldl f s).fuses = s.fuses := State.each_fuses s l f hf

theorem foldl_fstFuses {α β : Type} (l : List α) (f : State × β → α → State × β) (x : State × β)
    (hf : ∀ a y, fstFuses (f y a) = fstFuses y) : fstFuses (l.foldl f x) = fstFuses x := by
  induction l generalizing x with
  | nil => rfl
  | cons a l ih => exact (ih _).trans (hf a x)

@[simp] theorem State.onMc_fuses (s : State) (f : Gnover → Gnover) : (s.onMc f).fuses = (f s.mc).fuses := by rw [State.fuses, State.onMc_mc]

@[simp] theorem State.onChan_fuses (s : State) (c : Chan) (f : Channel → Channel) : (s.onChan c f).fuses = s.fuses :=
  State.fuses_of_mc (State.onChan_mc s c f)

@[simp] theorem State.onPump_fuses (s : State) (c : Chan) (p : PumpIx) (f : Pump → Pump) : (s.onPump c p f).fuses = s.fuses :=
  State.fuses_of_mc (State.onPump_mc s c p f)

@[simp] theorem State.onSlice_fuses (s : State) (c : Chan) (p : PumpIx) (f : Slice → Slice) : (s.onSlice c p f).fuses = s.fuses :=
  State.fuses_of_mc (State.onSlice_mc s c p f)

@[simp] theorem State.onSlot_fuses (s : State) (c : Chan) (j : SlotIx) (f : Slot → Slot) : (s.onSlot c j f).fuses = s.fuses :=
  State.fuses_of_mc (State.onSlot_mc s c j f)

@[simp] theorem State.onFr_fuses (s : State) (c : Chan) (j : SlotIx) (f : SlotFrame → SlotFrame) : (s.onFr c j f).fuses = s.fuses :=
  State.fuses_of_mc (State.onFr_mc s c j f)

@[simp] theorem State.onRegs_fuses (s : State) (c : Chan) (j : SlotIx) (f : SlotRegs → SlotRegs) : (s.onRegs c j f).fuses = s.fuses :=
  State.fuses_of_mc (State.onRegs_mc s c j f)

@[simp] theorem State.onStg_fuses (s : State) (c : Chan) (j : SlotIx) (f : Staging → Staging) : (s.onStg c j f).fuses = s.fuses :=
  State.fuses_of_mc (State.onStg_mc s c j f)

@[simp] theorem State.onPort_fuses (s : State) (c : Chan) (p : PortIx) (f : Port → Port) : (s.onPort c p f).fuses = s.fuses :=
  State.fuses_of_mc (State.onPort_mc s c p f)

@[simp] theorem State.onPolder_fuses (s : State) (c : Chan) (p : PolderIx) (f : Polder → Polder) : (s.onPolder c p f).fuses = s.fuses :=
  State.fuses_of_mc (State.onPolder_mc s c p f)

@[simp] theorem State.onCis_fuses (s : State) (c : Chan) (f : Cistern → Cistern) : (s.onCis c f).fuses = s.fuses :=
  State.fuses_of_mc (State.onCis_mc s c f)

@[simp] theorem State.onPwr_fuses (s : State) (c : Chan) (f : Power → Power) : (s.onPwr c f).fuses = s.fuses :=
  State.fuses_of_mc (State.onPwr_mc s c f)

@[simp] theorem State.onSt_fuses (s : State) (c : Chan) (f : ChStatus → ChStatus) : (s.onSt c f).fuses = s.fuses :=
  State.fuses_of_mc (State.onSt_mc s c f)

@[simp] theorem State.emit_fuses (s : State) (o : Output) : (s.emit o).fuses = s.fuses :=
  State.fuses_of_mc (State.emit_mc s o)

@[simp] theorem State.until_fuses (s : State) (ns : Nat) : (s.until ns).fuses = s.fuses :=
  State.fuses_of_mc (State.until_mc s ns)

/-! ### Commands keep the fuses: contexts, jobs, markers and events -/

@[simp] theorem State.onCtx_fuses (s : State) (n : Nat) (f : Ctx → Ctx) : (s.onCtx n f).fuses = s.fuses := by rfl

@[simp] theorem State.marker_fuses (s : State) (c : Chan) (port : PortIx) (m : Marker) : (s.marker c port m).fuses = s.fuses := by
  simp [State.marker]

@[simp] theorem State.sendNow_fuses (s : State) (c : Chan) (port : PortIx) (f : OutFlit) : (s.sendNow c port f).fuses = s.fuses := by
  rfl

@[simp] theorem State.sendFlit_fuses (s : State) (c : Chan) (port : PortIx) (f : OutFlit) : (s.sendFlit c port f).fuses = s.fuses := by
  simp [State.sendFlit]

@[simp] theorem State.flush_fuses (s : State) (c : Chan) (port : PortIx) (fuel : Nat) : (s.flush c port fuel).fuses = s.fuses := by
  induction fuel generalizing s with
  | zero => rfl
  | succ n ih => unfold State.flush; split <;> simp [ih]

@[simp] theorem State.event_fuses (s : State) (c : Chan) (typ : Nat) (slot : Option SlotIx) (unit : Nat) (d : BitVec 128) :
    (s.event c typ slot unit d).fuses = s.fuses := by rfl

@[simp] theorem State.tryForward_fuses (s : State) (c : Chan) (j : SlotIx) : (s.tryForward c j).fuses = s.fuses := by
  simp only [State.tryForward]
  (repeat' split) <;> simp

@[simp] theorem State.report_fuses (s : State) (c : Chan) (j : SlotIx) (fault : Bool) (cause : Fin 7) (late : Nat) :
    (s.report c j fault cause late).fuses = s.fuses := by simp [State.report]

@[simp] theorem State.faultEvent_fuses (s : State) (c : Chan) (slot : Option SlotIx) (code kind unit addr : Nat)
    (reporter : ChanAddr) :
    (s.faultEvent c slot code kind unit addr reporter).fuses = s.fuses := by rfl

@[simp] theorem State.stopPumps_fuses (s : State) (c : Chan) (j : SlotIx) : (s.stopPumps c j).fuses = s.fuses := by
  simp [State.stopPumps]

@[simp] theorem State.stopMember_fuses (s : State) (c : Chan) (j : SlotIx) : (s.stopMember c j).fuses = s.fuses := by
  simp [State.stopMember]

@[simp] theorem State.fault_fuses (s : State) (c : Chan) (j : SlotIx) (cause : Cause) (kind : UnitKind) (unit addr : Nat) :
    (s.fault c j cause kind unit addr).fuses = s.fuses := by simp [State.fault]

@[simp] theorem State.pumpFault_fuses (s : State) (c : Chan) (p : PumpIx) (cause : Cause) (addr : Nat) :
    (s.pumpFault c p cause addr).fuses = s.fuses := by
  unfold State.pumpFault
  split <;> simp

@[simp] theorem State.faultAll_fuses (s : State) (c : Chan) (js : List SlotIx) (cause : Cause) (kind : UnitKind) (unit : Nat) :
    (s.faultAll c js cause kind unit).fuses = s.fuses := by simp [State.faultAll]

@[simp] theorem State.sendTo_fuses (s : State) (c : Chan) (j : Option SlotIx) (rset : BitVec 2) (dest : ChanAddr) (f : OutFlit) :
    (s.sendTo c j rset dest f).fuses = s.fuses := by
  unfold State.sendTo
  (repeat' split) <;> simp

@[simp] theorem State.onRing_fuses (s : State) (r : RingId) (f : Ring → Ring) : (s.onRing r f).fuses = s.fuses := by
  unfold State.onRing
  (repeat' split) <;> simp

@[simp] theorem State.reply_fuses (s : State) (h : Hdr) (buf len : Nat) (bytes : List (BitVec 8)) :
    (s.reply h buf len bytes).fuses = s.fuses := by simp [State.reply]

@[simp] theorem State.complete_fuses (s : State) (h : Hdr) (status : Nat) (result : Nat) :
    (s.complete h status result).fuses = s.fuses := by simp [State.complete]

@[simp] theorem State.done_keeps (s : State) (h : Hdr) (status : Nat) (result : Nat) (f : Fuses) :
    KeepsFuses f (s.done h status result) ↔ s.fuses = f := by simp [State.done]

@[simp] theorem State.onJob_fuses (s : State) (ctx job : Nat) (f : Job → Job) : (s.onJob ctx job f).fuses = s.fuses := by rfl

@[simp] theorem State.jobEvent_fuses (s : State) (ctx job : Nat) (code status cause frame : Nat) :
    (s.jobEvent ctx job code status cause frame).fuses = s.fuses := by
  unfold State.jobEvent
  (repeat' split) <;> simp

/-! ### Commands keep the fuses: defects and the fabric map -/

@[simp] theorem State.addDefect_fuses (s : State) (c : Chan) (k : DefectKind) (src unit loc : Nat) :
    (s.addDefect c k src unit loc).fuses = s.fuses := by simp [State.addDefect]

@[simp] theorem State.sendMgmt_fuses (s : State) (c : Chan) (dest : ChanAddr) (r : MgmtRec) :
    (s.sendMgmt c dest r).fuses = s.fuses := by simp [State.sendMgmt]

@[simp] theorem State.mapPut_fuses (s : State) (c : Chan) (new : MapChan) : (s.mapPut c new).fuses = s.fuses := by
  simp [State.mapPut]

@[simp] theorem State.mapBump_fuses (s : State) (c : Chan) (f : MapChan → MapChan) : (s.mapBump c f).fuses = s.fuses := by
  unfold State.mapBump
  split <;> simp

@[simp] theorem State.mapUpdate_fuses (s : State) (c : Chan) (f : MapChan → MapChan) : (s.mapUpdate c f).fuses = s.fuses := by
  unfold State.mapUpdate
  split <;> simp

@[simp] theorem State.mapSync_fuses (s : State) (c : Chan) : (s.mapSync c).fuses = s.fuses := by simp [State.mapSync]

/-! ### Commands keep the fuses: requests to the ports -/

@[simp] theorem State.raiseAt_fuses (s : State) (c : Chan) (port : ArbPort) (q : Req) : (s.raiseAt c port q).fuses = s.fuses := by
  rfl

@[simp] theorem State.raiseOne_fuses (s : State) (c : Chan) (port : ArbPort) (q : Req) : (s.raiseOne c port q).fuses = s.fuses := by
  unfold State.raiseOne
  split <;> simp

@[simp] theorem State.raise_fuses (s : State) (c : Chan) (port : ArbPort) (cls : ReqClass) (who : Nat) (slot : Option SlotIx)
    (n : Nat) :
    (s.raise c port cls who slot n).fuses = s.fuses := by simp [State.raise]

@[simp] theorem State.sendFor_fuses (s : State) (c : Chan) (cls : ReqClass) (who : Nat) (j : SlotIx) (dest : ChanAddr) (f : OutFlit)
    :
    (s.sendFor c cls who j dest f).fuses = s.fuses := by
  unfold State.sendFor
  split <;> simp

/-! ### Commands keep the fuses: slice and high-bandwidth memory -/

@[simp] theorem State.raiseBursts_fuses (s : State) (c : Chan) (cls : ReqClass) (who : Nat) (slot : Option SlotIx) (ks : List Nat) :
    (s.raiseBursts c cls who slot ks).fuses = s.fuses := State.each_fuses _ _ _ fun b t => by split <;> simp

@[simp] theorem State.pinCheck_fuses (s : State) (c : Chan) (source unit : Nat) : (s.pinCheck c source unit).fuses = s.fuses := by
  simp only [State.pinCheck]
  split <;> simp

@[simp] theorem State.logCe_fuses (s : State) (c : Chan) (source unit addr sym : Nat) (wrote : Bool) :
    (s.logCe c source unit addr sym wrote).fuses = s.fuses := by
  unfold State.logCe
  (repeat' split) <;> simp

@[simp] theorem State.logUe_fuses (s : State) (c : Chan) (source unit addr : Nat) (owned : Bool) :
    (s.logUe c source unit addr owned).fuses = s.fuses := by simp [State.logUe]

@[simp] theorem State.ueEvent_fuses (s : State) (c : Chan) (j : Option SlotIx) (unit : Nat) :
    (s.ueEvent c j unit).fuses = s.fuses := by rfl

@[simp] theorem State.dataUe_fuses (s : State) (c : Chan) (source k : Nat) : (s.dataUe c source k).fuses = s.fuses := by
  simp only [State.dataUe]
  split <;> simp

@[simp] theorem State.refuseWrite_fuses (s : State) (c : Chan) (k : Nat) : (s.refuseWrite c k).fuses = s.fuses := by
  simp [State.refuseWrite]

@[simp] theorem State.checked_fuses (s : State) (c : Chan) (k : Nat) (v : Granule) (e : CodeWord) :
    fstFuses (s.checked c k v e) = s.fuses := by
  unfold State.checked
  split <;> simp

@[simp] theorem State.forWrite_fuses (s : State) (c : Chan) (k : Nat) : fstFuses (s.forWrite c k) = s.fuses := by
  simp only [State.forWrite]
  (repeat' split) <;> simp

@[simp] theorem State.storeAt_fuses (s : State) (c : Chan) (j : Option SlotIx) (k : Nat) (v : Granule) :
    (s.storeAt c j k v).fuses = s.fuses := by
  simp only [State.storeAt]
  split <;> simp

@[simp] theorem State.countNarrow_fuses (s : State) (c : Chan) (j : SlotIx) : (s.countNarrow c j).fuses = s.fuses := by rfl

@[simp] theorem State.ueFound_fuses (s : State) (c : Chan) (k : Nat) : (s.ueFound c k).fuses = s.fuses := by
  simp only [State.ueFound]
  split <;> simp

@[simp] theorem State.mergeBlock_fuses (s : State) (c : Chan) (k : Nat) : (s.mergeBlock c k).fuses = s.fuses := by
  unfold State.mergeBlock
  split
  · rfl
  · exact State.each_fuses _ _ _ fun i t => by dsimp only; (repeat' split) <;> simp

@[simp] theorem State.applyBytes_fuses (s : State) (c : Chan) (j : SlotIx) (k frame : Nat) (es : List Held) :
    (s.applyBytes c j k frame es).fuses = s.fuses := by
  simp only [State.applyBytes]
  (repeat' split) <;> simp

@[simp] theorem State.applyAtoms_fuses (s : State) (c : Chan) (k : Nat) (as : List HeldAtom) :
    (s.applyAtoms c k as).fuses = s.fuses := by
  refine State.each_fuses _ _ _ fun u t => ?_
  dsimp only
  split
  · rfl
  · split
    · split <;> simp [fuses_of_eq ‹_ = (_, _)›]
    · simp

@[simp] theorem State.killBlocks_fuses (s : State) (c : Chan) (j : SlotIx) (k0 count : Nat) (fill : Granule) (scales : List Nat)
    (frame : Nat) :
    (s.killBlocks c j k0 count fill scales frame).fuses = s.fuses := by
  simp only [State.killBlocks]
  (repeat' split) <;> simp

@[simp] theorem State.applyDecls_fuses (s : State) (c : Chan) (k : Nat) : (s.applyDecls c k).fuses = s.fuses := by
  simp [State.applyDecls]

@[simp] theorem State.heldRead_fuses (s : State) (c : Chan) (j : Option SlotIx) (unit at_ : Nat) (v : Granule) (e : CodeWord) :
    fstFuses (s.heldRead c j unit at_ v e) = s.fuses := by
  unfold State.heldRead
  (repeat' split) <;> simp

@[simp] theorem State.foldUpto_fuses (s : State) (c : Chan) (p : PumpIx) (g rank : Nat) :
    (s.foldUpto c p g rank).fuses = s.fuses := by
  unfold State.foldUpto
  split
  · extract_lets old new j s0
    have h0 : s0.fuses = s.fuses := s.onSlice_fuses ..
    refine State.fuses_ite rfl ?_
    split
    · exact (fuses_of_eq ‹_›).trans ((s0.forWrite_fuses ..).trans h0)
    · rename_i s1 v h1
      have h1 : s1.fuses = s.fuses := (fuses_of_eq h1).trans ((s0.forWrite_fuses ..).trans h0)
      refine State.fuses_ite ((s1.dataUe_fuses ..).trans h1) ?_
      split
      rename_i s2 sum h2
      refine (s2.storeAt_fuses ..).trans ((fuses_of_eq h2).trans ((foldl_fstFuses _ _ _ fun ib a => ?_).trans h1))
      exact a.1.heldRead_fuses ..
  · rfl

@[simp] theorem State.foldInbound_fuses (s : State) (c : Chan) (p : PumpIx) (g : Nat) : (s.foldInbound c p g).fuses = s.fuses := by
  simp [State.foldInbound]

@[simp] theorem State.applyFrame_fuses (s : State) (c : Chan) (k frame : Nat) : (s.applyFrame c k frame).fuses = s.fuses := by
  unfold State.applyFrame
  extract_lets mineE mineA es as s0 s1
  have h1 : s1.fuses = s.fuses := by
    unfold s1
    split <;> simp [s0]
  split
  rename_i s2 vs h2
  have h2 : s2.fuses = fstFuses (s1, ([] : List Held)) := (fuses_of_eq h2).trans (foldl_fstFuses _ _ _ fun e r => r.1.heldRead_fuses ..)
  extract_lets s3 s4
  have h3 : s3.fuses = s.fuses := by cases hv : vs <;> simp [s3, hv, h2, h1]
  have h4 : s4.fuses = s.fuses := State.fuses_ite h3 ((s3.applyAtoms_fuses ..).trans h3)
  split
  · exact State.fuses_ite h4 ((s4.onSlice_fuses ..).trans h4)
  · exact h4

@[simp] theorem State.applyDue_fuses (s : State) (c : Chan) (k : Nat) : (s.applyDue c k).fuses = s.fuses := by simp [State.applyDue]

@[simp] theorem State.settle_fuses (s : State) (c : Chan) (k : Nat) : (s.settle c k).fuses = s.fuses := by
  unfold State.settle
  split <;> simp

@[simp] theorem State.deadRead_fuses (s : State) (c : Chan) (j : SlotIx) (k : Nat) : (s.deadRead c j k).fuses = s.fuses := by
  simp [State.deadRead]

@[simp] theorem State.readBase_fuses (s : State) (c : Chan) (j : Option SlotIx) (k : Nat) :
    fstFuses (s.readBase c j k) = s.fuses := by
  unfold State.readBase
  split <;> simp

@[simp] theorem State.readOwn_fuses (s : State) (c : Chan) (p : PumpIx) (g : Nat) : fstFuses (s.readOwn c p g) = s.fuses := by
  simp [State.readOwn]

@[simp] theorem State.readShared_fuses (s : State) (c : Chan) (j : Option SlotIx) (k : Nat) :
    fstFuses (s.readShared c j k) = s.fuses := by
  unfold State.readShared
  (repeat' split) <;> simp

@[simp] theorem State.heldFull_fuses (s : State) (c : Chan) (j : SlotIx) (p : Option PumpIx) (kind used : Nat) :
    (s.heldFull c j p kind used).fuses = s.fuses := by simp [State.heldFull]

@[simp] theorem State.hold_fuses (s : State) (c : Chan) (j : SlotIx) (frame : Nat) (r : WriteRec) :
    (s.hold c j frame r).fuses = s.fuses := by
  simp only [State.hold]
  (repeat' split) <;> simp

@[simp] theorem State.echo_fuses (s : State) (c : Chan) (p : PumpIx) (a : FabAddr) (mask : BitVec 32) (v : Granule) :
    (s.echo c p a mask v).fuses = s.fuses := by
  unfold State.echo
  split <;> simp

@[simp] theorem State.overlay_fuses (s : State) (c : Chan) (p : PumpIx) (a : FabAddr) (v : Granule) :
    fstFuses (s.overlay c p a v) = s.fuses := foldl_fstFuses _ _ _ fun e r => by simp

@[simp] theorem State.shadow_fuses (s : State) (c : Chan) (p : PumpIx) (g : Nat) (mask : BitVec 32) :
    (s.shadow c p g mask).fuses = s.fuses := by
  unfold State.shadow
  (repeat' split) <;> simp

@[simp] theorem State.bar_fuses (s : State) (c : Chan) (j : SlotIx) : (s.bar c j).fuses = s.fuses := by rfl

@[simp] theorem State.writeOwn_fuses (s : State) (c : Chan) (p : PumpIx) (g : Nat) (mask : BitVec 32) (v : Granule) :
    (s.writeOwn c p g mask v).fuses = s.fuses := by
  unfold State.writeOwn
  refine State.fuses_ite rfl ?_
  split
  · exact s.bar_fuses ..
  · extract_lets k s1 j
    have h1 : s1.fuses = s.fuses := (State.shadow_fuses ..).trans (s.settle_fuses ..)
    clear_value j s1
    refine State.fuses_ite ((s1.storeAt_fuses ..).trans h1) ?_
    rcases h2 : s1.forWrite c k with ⟨s2, _ | old⟩
    · exact (fuses_of_eq h2).trans ((s1.forWrite_fuses c k).trans h1)
    · have h2 : s2.fuses = s.fuses := (fuses_of_eq h2).trans ((s1.forWrite_fuses c k).trans h1)
      cases j <;> simp [h2]

@[simp] theorem State.checkInbound_fuses (s : State) (c : Chan) (p : PumpIx) (g frame : Nat) :
    (s.checkInbound c p g frame).fuses = s.fuses := by
  unfold State.checkInbound
  split <;> simp

@[simp] theorem State.combineAt_fuses (s : State) (c : Chan) (p : PumpIx) (g : Nat) (frame : Nat) (v : Granule) :
    (s.combineAt c p g frame v).fuses = s.fuses := by simp [State.combineAt]

/-! ### Commands keep the fuses: operands of a pump -/

@[simp] theorem State.checkRow_fuses (s : State) (c : Chan) (p : PumpIx) (m : PumpMem) (row : Nat) :
    (s.checkRow c p m row).fuses = s.fuses := by
  simp only [State.checkRow]
  (repeat' split) <;> simp

@[simp] theorem State.checkRows_fuses (s : State) (c : Chan) (p : PumpIx) (m : PumpMem) (lo hi : Nat) :
    (s.checkRows c p m lo hi).fuses = s.fuses := by simp [State.checkRows]

@[simp] theorem State.unlessStopped_fuses (s : State) (c : Chan) (p : PumpIx) (f : State → State) (hf : ∀ t, (f t).fuses = t.fuses)
    :
    (s.unlessStopped c p f).fuses = s.fuses := by simp [State.unlessStopped, hf]

@[simp] theorem State.atWord_keeps (s : State) (c : Chan) (p : PumpIx) (w : BitVec 64) (act : State → State)
    (hf : ∀ t, (act t).fuses = t.fuses) :
    KeepsFuses s.fuses (s.atWord c p w act) := by simp [State.atWord, hf]

@[simp] theorem State.withData_fuses (s : State) (c : Chan) (p : PumpIx) (a n : Nat) (act : State → State)
    (hf : ∀ t, (act t).fuses = t.fuses) :
    (s.withData c p a n act).fuses = s.fuses := by simp [State.withData, hf]

/-! ### Commands keep the fuses: views that a transfer reads -/

@[simp] theorem View.readGran_fuses (rd : Reader) (s : State) (w : View) (v i : Nat) (hf : Reader.KeepsFuses rd) :
    fstFuses (View.readGran rd s w v i) = s.fuses := by
  unfold View.readGran
  split
  · exact hf _ _ _
  · rfl

@[simp] theorem View.readBits_fuses (rd : Reader) (s : State) (w : View) (sp : Nat × List Int) (k n : Nat)
    (hf : Reader.KeepsFuses rd) :
    fstFuses (View.readBits rd s w sp k n) = s.fuses := by
  simp only [View.readBits]
  split <;> simp [View.readGran_fuses _ _ _ _ _ hf]

@[simp] theorem View.readScalar_fuses (rd : Reader) (s : State) (w : View) (ix : List Int) (hf : Reader.KeepsFuses rd) :
    fstFuses (View.readScalar rd s w ix) = s.fuses := by
  unfold View.readScalar
  (repeat' split) <;> simp [*]

@[simp] theorem View.readBlock_fuses (rd : Reader) (s : State) (w : View) (ix : List Int) (hf : Reader.KeepsFuses rd) :
    fstFuses (View.readBlock rd s w ix) = s.fuses := by
  unfold View.readBlock
  (repeat' split) <;> simp [*]

@[simp] theorem readEach_fuses {α β : Type} (f : State → α → State × β) (x : State) (y : List α)
    (hf : ∀ a t, fstFuses (f t a) = t.fuses) :
    fstFuses (readEach f x y) = x.fuses := by
  induction y generalizing x with
  | nil => rfl
  | cons a l ih => exact (ih _).trans (hf a x)

@[simp] theorem View.readScalars_fuses (rd : Reader) (s : State) (w : View) (win : Window) (hf : Reader.KeepsFuses rd) :
    fstFuses (View.readScalars rd s w win) = s.fuses := by simp [View.readScalars, hf]

@[simp] theorem View.readRowBlocks_fuses (rd : Reader) (s : State) (w : View) (win : Window) (outer : List Nat)
    (hf : Reader.KeepsFuses rd) :
    fstFuses (View.readRowBlocks rd s w win outer) = s.fuses := by simp [View.readRowBlocks, hf]

@[simp] theorem View.readRowNums_fuses (rd : Reader) (s : State) (w : View) (win : Window) (outer : List Nat)
    (hf : Reader.KeepsFuses rd) :
    fstFuses (View.readRowNums rd s w win outer) = s.fuses := by
  simp only [View.readRowNums]
  split
  · simp [View.readRowBlocks_fuses _ _ _ _ _ hf]
  · exact readEach_fuses _ _ _ fun i t => View.readScalar_fuses _ _ _ _ hf

@[simp] theorem copyViews_fuses (rd : Reader) (s : State) (src : View) (sw : Window) (dst : View) (dw : Window) (sr : Option Nat)
    (hf : Reader.KeepsFuses rd) :
    fstFuses (copyViews rd s src sw dst dw sr) = s.fuses := by
  simp only [copyViews]
  split
  · exact View.readScalars_fuses _ _ _ _ hf
  · split
    · exact foldl_fstFuses _ _ _ fun o acc => View.readRowBlocks_fuses _ _ _ _ _ hf
    · exact foldl_fstFuses _ _ _ fun o acc => View.readRowNums_fuses _ _ _ _ _ hf

@[simp] theorem transposeViews_fuses (rd : Reader) (s : State) (src : View) (sw : Window) (dst : View) (dw : Window)
    (sr : Option Nat) (hf : Reader.KeepsFuses rd) :
    fstFuses (transposeViews rd s src sw dst dw sr) = s.fuses := by simp [transposeViews, hf]

@[simp] theorem readoutViews_fuses (rd : Reader) (s : State) (src : View) (sw : Window) (dst : View) (dw : Window) (ro : RoFmt)
    (hf : Reader.KeepsFuses rd) :
    fstFuses (readoutViews rd s src sw dst dw ro) = s.fuses := by simp [readoutViews, hf]

@[simp] theorem View.pack_fuses (rd : Reader) (s : State) (w : View) (win : Window) (hf : Reader.KeepsFuses rd) :
    fstFuses (View.pack rd s w win) = s.fuses := by
  simp only [View.pack]
  split
  · exact foldl_fstFuses _ _ _ fun o acc => View.readRowBlocks_fuses _ _ _ _ _ hf
  · exact View.readScalars_fuses _ _ _ _ hf

@[simp] theorem View.packReadout_fuses (rd : Reader) (s : State) (w : View) (win : Window) (ro : RoFmt) (hf : Reader.KeepsFuses rd)
    :
    fstFuses (View.packReadout rd s w win ro) = s.fuses := by simp [View.packReadout, hf]

/-! ### Commands keep the fuses: transfers of a pump -/

@[simp] theorem State.lineHit_fuses (s : State) (c : Chan) (p : PumpIx) : (s.lineHit c p).fuses = s.fuses := by
  unfold State.lineHit
  split <;> simp

@[simp] theorem State.lineCheck_fuses (s : State) (c : Chan) (p : PumpIx) (l : CLine) (i : Nat) :
    (s.lineCheck c p l i).fuses = s.fuses := by
  unfold State.lineCheck
  split <;> simp

@[simp] theorem State.pumpBase_keeps (s : State) (c : Chan) (p : PumpIx) (lines : Bool) :
    Reader.KeepsFuses (s.pumpBase c p lines) := by
  intro t ch k
  unfold State.pumpBase
  extract_lets i own line s1
  have h1 : s1.fuses = t.fuses := by cases hl : line <;> simp [s1, hl]
  split
  · exact (s1.readOwn_fuses c p _).trans h1
  · split
    · exact (s1.readShared_fuses c _ k).trans h1
    · split <;> exact h1

@[simp] theorem State.pumpRead_keeps (s : State) (c : Chan) (p : PumpIx) (lines : Bool) :
    Reader.KeepsFuses (s.pumpRead c p lines) := by
  intro t ch k
  exact (State.overlay_fuses _ _ _ _ _).trans (s.pumpBase_keeps c p lines t ch k)

@[simp] theorem State.sendWrites_fuses (s : State) (c : Chan) (cls : ReqClass) (who : Nat) (j : SlotIx) (ch : ChanAddr) (x : Nat)
    (y : List WriteRec) :
    (s.sendWrites c cls who j ch x y).fuses = s.fuses := by
  induction x generalizing s y with
  | zero => rfl
  | succ n ih => unfold State.sendWrites; split <;> simp [ih]

@[simp] theorem State.expect_fuses (s : State) (c : Chan) (p : PumpIx) (opc n : Nat) (grp : Option GSlot) (foot : List Foot) :
    (s.expect c p opc n grp foot).fuses = s.fuses := by rfl

@[simp] theorem State.stripOwn_fuses (s : State) (c : Chan) (p : PumpIx) (g : Nat) (mask : BitVec 32) :
    (s.stripOwn c p g mask).fuses = s.fuses := by simp [State.stripOwn]

@[simp] theorem State.writePrivate_fuses (s : State) (c : Chan) (p : PumpIx) (g : Nat) (mask : BitVec 32) (v : Granule) :
    (s.writePrivate c p g mask v).fuses = s.fuses := by simp [State.writePrivate]

@[simp] theorem State.writeOwnBytes_fuses (s : State) (c : Chan) (p : PumpIx) (m : Bytes) :
    (s.writeOwnBytes c p m).fuses = s.fuses := by simp [State.writeOwnBytes]

@[simp] theorem State.writeGlobal_fuses (s : State) (c : Chan) (p : PumpIx) (j : SlotIx) (ch : ChanAddr) (k : Nat)
    (mask : BitVec 32) (v : Granule) (noecho : Bool) :
    (s.writeGlobal c p j ch k mask v noecho).fuses = s.fuses := by
  unfold State.writeGlobal
  (repeat' split) <;> simp

@[simp] theorem State.pumpWrite_fuses (s0 : State) (c : Chan) (cls : ReqClass) (p : PumpIx) (j : SlotIx) (m0 : Bytes)
    (noecho priv : Bool) :
    fstFuses (s0.pumpWrite c cls p j m0 noecho priv) = s0.fuses := by
  unfold State.pumpWrite
  extract_lets m s own s1 away dests key
  have h0 : s.fuses = s0.fuses := State.fuses_ite (s0.bar_fuses c j) rfl
  have h1 : s1.fuses = s.fuses := by
    refine State.each_fuses _ _ _ fun e t => ?_
    dsimp only
    split
    · split <;> simp
    · simp
  exact (State.each_fuses _ _ _ fun d t => by simp).trans (h1.trans h0)

@[simp] theorem State.dropOob_fuses (s : State) (c : Chan) (j : SlotIx) (n : Nat) : (s.dropOob c j n).fuses = s.fuses := by
  simp [State.dropOob]

@[simp] theorem haloViews_fuses (rd : Reader) (s : State) (w : View) (hf : Reader.KeepsFuses rd) :
    fstFuses (haloViews rd s w) = s.fuses := by
  refine foldl_fstFuses _ _ _ fun e acc => ?_
  dsimp only
  split <;> simp [View.readBits_fuses _ _ _ _ _ _ hf]

@[simp] theorem State.rawBytes_fuses (s : State) (c : Chan) (p : PumpIx) (first n : Nat) :
    fstFuses (s.rawBytes c p first n) = s.fuses := by
  unfold State.rawBytes
  dsimp only
  exact readEach_fuses _ _ _ fun g t => t.readOwn_fuses c p g

@[simp] theorem State.putRaw_fuses (s : State) (c : Chan) (p : PumpIx) (first n : Nat) (bs : List (BitVec 8)) :
    (s.putRaw c p first n bs).fuses = s.fuses := by simp [State.putRaw]

@[simp] theorem State.sendCombine_fuses (s : State) (c : Chan) (who : Nat) (j : SlotIx) (ch : ChanAddr) (k : Nat) (v : Granule) :
    fstFuses (s.sendCombine c who j ch k v) = s.fuses := by
  unfold State.sendCombine
  split
  · simp
  · split
    · split <;> simp
    · simp

@[simp] theorem State.combineViews_fuses (s : State) (c : Chan) (p : PumpIx) (j : SlotIx) (src : View) (sw : Window) (dst : View)
    (dw : Window) :
    fstFuses (s.combineViews c p j src sw dst dw) = s.fuses := by
  unfold State.combineViews
  split
  refine (foldl_fstFuses _ _ _ fun e acc => ?_).trans ((fuses_of_eq ‹_ = (_, _)›).trans (by simp))
  split
  · simp
  · split
    · rfl
    · simp

@[simp] theorem State.declareDead_fuses (s : State) (c : Chan) (p : PumpIx) (j : SlotIx) (w : View) (win : Window) :
    (s.declareDead c p j w win).fuses = s.fuses := by
  refine State.each_fuses _ _ _ fun b t => ?_
  dsimp only
  (repeat' split) <;> simp

@[simp] theorem State.runPlan_fuses (s : State) (c : Chan) (p : PumpIx) (j : SlotIx) (pl : Plan) :
    fstFuses (s.runPlan c p j pl) = s.fuses := by
  unfold State.runPlan
  extract_lets rd frame sr put
  have hrd : rd.KeepsFuses := s.pumpRead_keeps c p pl.src.lines
  have hput : ∀ r : State × WriteSet, fstFuses (put r) = fstFuses r := fun r => by simp [put]
  split
  · simp
  · simp [hput]
  · simp [View.pack_fuses _ _ _ _ hrd]
  · simp [hput, copyViews_fuses _ _ _ _ _ _ _ hrd]
  · simp [hput, transposeViews_fuses _ _ _ _ _ _ _ hrd]
  · simp
  · simp [View.packReadout_fuses _ _ _ _ _ hrd]
  · simp [hput, readoutViews_fuses _ _ _ _ _ _ _ hrd]
  · simp
  · simp [hput, haloViews_fuses _ _ _ hrd]
  · rfl

@[simp] theorem State.endStream_fuses (s : State) (c : Chan) (p : PumpIx) : (s.endStream c p).fuses = s.fuses := by
  simp [State.endStream]

@[simp] theorem State.doXfer_fuses (s : State) (c : Chan) (p : PumpIx) (o : RowOp) : (s.doXfer c p o).fuses = s.fuses := by
  unfold State.doXfer
  split <;> simp

/-! ### Commands keep the fuses: collectives -/

@[simp] theorem State.collected_fuses (s : State) (c : Chan) (j : SlotIx) (n : Nat) : (s.collected c j n).fuses = s.fuses := by rfl

@[simp] theorem State.collSum_fuses (s : State) (c : Chan) (j : SlotIx) (frame : Nat) (w : View) (n : Nat) (v : Granule) :
    (s.collSum c j frame w n v).fuses = s.fuses := by
  unfold State.collSum
  (repeat' split) <;> simp

@[simp] theorem State.sendTree_fuses (s : State) (c : Chan) (j : Option SlotIx) (port : PortIx) (f : OutFlit) :
    (s.sendTree c j port f).fuses = s.fuses := by simp [State.sendTree]

@[simp] theorem State.rootSum_fuses (s : State) (c : Chan) (tree : BitVec 12) (t : Tree) (ctx : Nat) (jb : Job) (e : CollEntry)
    (n : Nat) (v : Granule) (block : Nat) :
    (s.rootSum c tree t ctx jb e n v block).fuses = s.fuses := by
  unfold State.rootSum
  split
  · rfl
  · extract_lets frame give s1
    have hg : ∀ u m k, (give u m k).fuses = u.fuses := fun u m k => by
      unfold give
      split <;> simp
    split <;> simp [s1, hg]

@[simp] theorem State.storeFault_fuses (s : State) (c : Chan) (tree : BitVec 12) (t : Tree) :
    (s.storeFault c tree t).fuses = s.fuses := by
  unfold State.storeFault
  split <;> simp

@[simp] theorem State.reduceIn_fuses (s : State) (c : Chan) (tree : BitVec 12) (idx : BitVec 8) (n : Nat) (v : Granule) :
    (s.reduceIn c tree idx n v).fuses = s.fuses := by
  simp only [State.reduceIn]
  (repeat' split) <;> simp

@[simp] theorem State.collRead_keeps (s : State) (c : Chan) (j : SlotIx) : Reader.KeepsFuses (s.collRead c j) := by
  intro t ch k
  unfold State.collRead
  split <;> simp

@[simp] theorem collCopy_fuses (rd : Reader) (s : State) (e : CollEntry) (me : Nat) (src dst : View) (hf : Reader.KeepsFuses rd) :
    fstFuses (collCopy rd s e me src dst) = s.fuses := by
  unfold collCopy
  (repeat' split) <;> simp [*]

@[simp] theorem State.collHold_fuses (s : State) (c : Chan) (j : SlotIx) (frame : Nat) (r : WriteRec) :
    (s.collHold c j frame r).fuses = s.fuses := by simp [State.collHold]

@[simp] theorem State.mcastOut_fuses (s : State) (c : Chan) (j : SlotIx) (tree : BitVec 12) (idx : BitVec 8) (ports : List PortIx)
    (x : Nat) (y : List (ChanAddr × WriteRec)) :
    (s.mcastOut c j tree idx ports x y).fuses = s.fuses := by
  induction x generalizing s y with
  | zero => rfl
  | succ n ih => unfold State.mcastOut; split <;> simp [ih]

@[simp] theorem State.collWrite_fuses (s : State) (c : Chan) (j : SlotIx) (ctx : Nat) (jb : Job) (e : CollEntry) (src : View) :
    (s.collWrite c j ctx jb e src).fuses = s.fuses := by
  unfold State.collWrite
  extract_lets me
  split
  rename_i s1 recs h1
  have h1 : s1.fuses = s.fuses := (fuses_of_eq h1).trans (foldl_fstFuses _ _ _ fun m acc => by
    split
    · simp [collCopy_fuses _ _ _ _ _ _ (s.collRead_keeps c j)]
    · rfl)
  dsimp only
  split <;> simp [h1]

@[simp] theorem State.collAdds_fuses (s : State) (c : Chan) (j : SlotIx) (jb : Job) (e : CollEntry) (x : Nat)
    (y : List (Option Granule)) :
    (s.collAdds c j jb e x y).fuses = s.fuses := by
  induction y generalizing s x with
  | nil => rfl
  | cons v l ih =>
    cases v with
    | none => simp [State.collAdds]
    | some v => unfold State.collAdds; split <;> simp [ih]

@[simp] theorem State.collReduce_fuses (s : State) (c : Chan) (j : SlotIx) (jb : Job) (e : CollEntry) (src dst : View) :
    (s.collReduce c j jb e src dst).fuses = s.fuses := by
  simp [State.collReduce, View.readScalars_fuses _ s src _ (s.collRead_keeps c j)]

@[simp] theorem execCollectiveStart_keeps (c : Chan) (j : SlotIx) (vch : BitVec 15) (entry : BitVec 8) (s : State) :
    KeepsFuses s.fuses (execCollectiveStart c j vch entry s) := by
  simp only [execCollectiveStart]
  (repeat' split) <;> simp

/-! ### Commands keep the fuses: the staging bank -/

@[simp] theorem State.blockWrite_fuses (s : State) (c : Chan) (f : State → State) (hf : ∀ t, (f t).fuses = t.fuses) :
    (s.blockWrite c f).fuses = s.fuses := by simp [State.blockWrite, hf]

@[simp] theorem State.stagePut_fuses (s : State) (c : Chan) (w : StWord) (v : BitVec 32) : (s.stagePut c w v).fuses = s.fuses := by
  unfold State.stagePut
  split <;> simp

@[simp] theorem State.stageWord_fuses (s : State) (c : Chan) (w : StWord) (v : BitVec 32) : (s.stageWord c w v).fuses = s.fuses := by
  simp [State.stageWord]

@[simp] theorem State.stageAccess_fuses (s : State) (c : Chan) (off : Nat) (size64 : Bool) (v : BitVec 64) :
    (s.stageAccess c off size64 v).fuses = s.fuses := by
  simp only [State.stageAccess]
  (repeat' split) <;> simp

@[simp] theorem execStWrite_keeps (c : Chan) (off : BitVec 22) (size64 : Bool) (v : BitVec 64) (s : State) :
    KeepsFuses s.fuses (execStWrite c off size64 v s) := by simp [execStWrite]

@[simp] theorem State.settleChecks_fuses (s : State) (ctx job : Nat) : (s.settleChecks ctx job).fuses = s.fuses := by
  simp only [State.settleChecks]
  (repeat' split) <;> simp

@[simp] theorem State.startCheck_fuses (s : State) (c : Chan) (j : SlotIx) (tag : BitVec 8) :
    (s.startCheck c j tag).fuses = s.fuses := by rfl

@[simp] theorem execStgCheck_keeps (c : Chan) (j : SlotIx) (tag : BitVec 8) (s : State) :
    KeepsFuses s.fuses (execStgCheck c j tag s) := by simp [execStgCheck]

@[simp] theorem execCheckComplete_keeps (c : Chan) (j : SlotIx) (s : State) : KeepsFuses s.fuses (execCheckComplete c j s) := by
  unfold execCheckComplete
  split <;> simp

@[simp] theorem State.revertBank_fuses (s : State) (c : Chan) (j : SlotIx) : (s.revertBank c j).fuses = s.fuses := by
  simp [State.revertBank]

@[simp] theorem execStgUnlock_keeps (c : Chan) (j : SlotIx) (s : State) : KeepsFuses s.fuses (execStgUnlock c j s) := by
  simp [execStgUnlock]

@[simp] theorem execStgRevert_keeps (c : Chan) (j : SlotIx) (s : State) : KeepsFuses s.fuses (execStgRevert c j s) :=
  State.blockWrite_fuses _ _ _ fun t => by split <;> simp

@[simp] theorem State.startCommit_fuses (s : State) (c : Chan) (j : SlotIx) (tag : BitVec 8) :
    (s.startCommit c j tag).fuses = s.fuses := by simp [State.startCommit]

@[simp] theorem execStgCommit_keeps (c : Chan) (j : SlotIx) (tag : BitVec 8) (s : State) :
    KeepsFuses s.fuses (execStgCommit c j tag s) := by simp [execStgCommit]

@[simp] theorem State.endCommit_fuses (s : State) (c : Chan) (j : SlotIx) (reason : Nat) :
    (s.endCommit c j reason).fuses = s.fuses := by
  simp only [State.endCommit]
  split <;> simp

@[simp] theorem execCommitTimeout_keeps (c : Chan) (j : SlotIx) (s : State) : KeepsFuses s.fuses (execCommitTimeout c j s) := by
  simp [execCommitTimeout]

@[simp] theorem State.abandonCommit_fuses (s : State) (c : Chan) (j : SlotIx) : (s.abandonCommit c j).fuses = s.fuses := by
  simp [State.abandonCommit]

@[simp] theorem State.drain_fuses (s : State) (c : Chan) : (s.drain c).fuses = s.fuses := by simp [State.drain]

@[simp] theorem State.regionChange_fuses (s : State) (c : Chan) (old new : Nat) : (s.regionChange c old new).fuses = s.fuses := by
  simp [State.regionChange]

@[simp] theorem State.wantRamp_fuses (s : State) (c : Chan) (pd : PolderIx) : (s.wantRamp c pd).fuses = s.fuses := by
  simp [State.wantRamp]

@[simp] theorem State.applyCommit_fuses (s : State) (c : Chan) (j : SlotIx) : (s.applyCommit c j).fuses = s.fuses := by
  simp [State.applyCommit]

/-! ### Commands keep the fuses: views and contexts -/

@[simp] theorem State.reserveView_fuses (s : State) (w : View) (on : Bool) : (s.reserveView w on).fuses = s.fuses := by
  unfold State.reserveView
  split
  · exact State.each_fuses _ _ _ fun e t => by split <;> simp
  · rfl

@[simp] theorem State.unreserve_fuses (s : State) (ctx : Nat) (im : JobImage) : (s.unreserve ctx im).fuses = s.fuses := by
  simp [State.unreserve]

@[simp] theorem State.zeroPart_fuses (s : State) (q : ChanAddr × Nat × Nat) : (s.zeroPart q).fuses = s.fuses := by
  simp only [State.zeroPart]
  (repeat' split) <;> simp

@[simp] theorem State.unbind_fuses (s : State) (ctx job : Nat) : (s.unbind ctx job).fuses = s.fuses := by
  unfold State.unbind
  split <;> simp

@[simp] theorem State.endDesc_fuses (s : State) (ctx handle : Nat) : (s.endDesc ctx handle).fuses = s.fuses := by
  unfold State.endDesc
  (repeat' split) <;> simp

@[simp] theorem State.endAlloc_fuses (s : State) (ctx handle : Nat) : (s.endAlloc ctx handle).fuses = s.fuses := by
  unfold State.endAlloc
  (repeat' split) <;> simp

@[simp] theorem State.endPinned_fuses (s : State) (ctx job : Nat) : (s.endPinned ctx job).fuses = s.fuses := by
  unfold State.endPinned
  split <;> simp

@[simp] theorem State.endWell_fuses (s : State) (ctx loc : Nat) : (s.endWell ctx loc).fuses = s.fuses := by
  unfold State.endWell
  split <;> simp

@[simp] theorem State.endCtx_fuses (s : State) (ctx : Nat) : (s.endCtx ctx).fuses = s.fuses := by
  unfold State.endCtx
  (repeat' split) <;> simp

/-! ### Commands keep the fuses: ticks, reports and faults of a frame -/

@[simp] theorem State.stopJob_fuses (s : State) (ctx job : Nat) (ckpt : Bool) : (s.stopJob ctx job ckpt).fuses = s.fuses := by
  simp [State.stopJob]

@[simp] theorem State.startPumps_fuses (s : State) (c : Chan) (j : SlotIx) : (s.startPumps c j).fuses = s.fuses := by
  simp [State.startPumps]

@[simp] theorem State.endHold_fuses (s : State) (c : Chan) (j : SlotIx) : (s.endHold c j).fuses = s.fuses := by rfl

@[simp] theorem State.freeSlot_fuses (s : State) (c : Chan) (j : SlotIx) : (s.freeSlot c j).fuses = s.fuses := by
  simp [State.freeSlot]

@[simp] theorem State.dropRoutes_fuses (s : State) (key : Nat) : (s.dropRoutes key).fuses = s.fuses := by
  unfold State.dropRoutes
  split
  · rfl
  · exact State.each_fuses _ _ _ fun r t => by dsimp only; (repeat' split) <;> simp

@[simp] theorem State.tellRelease_fuses (s : State) (jb : Job) (who : ClaimId) (keep : Bool) :
    (s.tellRelease jb who keep).fuses = s.fuses := by
  unfold State.tellRelease
  split <;> simp

@[simp] theorem State.release_fuses (s : State) (ctx job : Nat) : (s.release ctx job).fuses = s.fuses := by
  unfold State.release
  split <;> simp

@[simp] theorem State.releaseBuddies_fuses (s : State) (jb : Job) (who : ClaimId) : (s.releaseBuddies jb who).fuses = s.fuses := by
  simp [State.releaseBuddies]

@[simp] theorem State.endUrgents_fuses (s : State) (c : Chan) (j : SlotIx) (status : Nat) :
    (s.endUrgents c j status).fuses = s.fuses := by simp [State.endUrgents]

@[simp] theorem State.endForced_fuses (s : State) (h : Hdr) (c : Chan) : (s.endForced h c).fuses = s.fuses := by
  simp [State.endForced]

@[simp] theorem State.removeJob_fuses (s : State) (ctx job : Nat) : (s.removeJob ctx job).fuses = s.fuses := by
  unfold State.removeJob
  (repeat' split) <;> simp

@[simp] theorem State.ckptStart_fuses (s : State) (c : Chan) (j : SlotIx) (first busy commit : Bool) (f : Nat) :
    (s.ckptStart c j first busy commit f).fuses = s.fuses := by simp [State.ckptStart]

@[simp] theorem State.homeTick_fuses (s : State) (c : Chan) (j : SlotIx) (first busy commit : Bool) (f : Nat) :
    (s.homeTick c j first busy commit f).fuses = s.fuses := by simp [State.homeTick]

@[simp] theorem State.homeHalt_fuses (s : State) (c : Chan) (j : SlotIx) (f : Nat) : (s.homeHalt c j f).fuses = s.fuses := by rfl

@[simp] theorem State.tellHomes_fuses (s : State) (c : Chan) (j : SlotIx) (f : Nat) (halt : Bool) :
    (s.tellHomes c j f halt).fuses = s.fuses := by
  unfold State.tellHomes
  dsimp only
  split
  · rfl
  · split
    · exact State.each_fuses _ _ _ fun a t => by split <;> simp
    · rfl

@[simp] theorem State.homesTick_fuses (s : State) (c : Chan) (j : SlotIx) (first busy commit : Bool) (f : Nat) :
    (s.homesTick c j first busy commit f).fuses = s.fuses := by simp [State.homesTick]

@[simp] theorem State.homeHears_fuses (s : State) (c : Chan) (j : SlotIx) (f : Nat) (halt : Bool) :
    (s.homeHears c j f halt).fuses = s.fuses := by simp [State.homeHears]

@[simp] theorem State.tickEffect_fuses (s : State) (c : Chan) (j : SlotIx) (commit : Bool) :
    (s.tickEffect c j commit).fuses = s.fuses := by simp [State.tickEffect]

@[simp] theorem execChannelFrameDone_keeps (c : Chan) (j : SlotIx) (s : State) :
    KeepsFuses s.fuses (execChannelFrameDone c j s) := by
  simp only [execChannelFrameDone]
  (repeat' split) <;> simp

@[simp] theorem State.treeHalt_fuses (s : State) (c : Chan) (tree : BitVec 12) : (s.treeHalt c tree).fuses = s.fuses := by rfl

@[simp] theorem State.haltBelow_fuses (s : State) (c : Chan) (tree : BitVec 12) : (s.haltBelow c tree).fuses = s.fuses := by
  unfold State.haltBelow
  split <;> simp

@[simp] theorem execDoneMarker_keeps (c : Chan) (port : PortIx) (tree : BitVec 12) (r : Report) (s : State) :
    KeepsFuses s.fuses (execDoneMarker c port tree r s) := by
  simp only [execDoneMarker]
  (repeat' split) <;> simp

@[simp] theorem State.treeTick_fuses (s : State) (c : Chan) (tree : BitVec 12) (frame : BitVec 8) :
    (s.treeTick c tree frame).fuses = s.fuses := by rfl

@[simp] theorem State.endJob_fuses (s : State) (c : Chan) (j : SlotIx) : (s.endJob c j).fuses = s.fuses := by
  simp only [State.endJob]
  split <;> simp

@[simp] theorem State.heardFault_fuses (s : State) (c : Chan) (j : SlotIx) (cause : BitVec 8) (reporter : ChanAddr) :
    (s.heardFault c j cause reporter).fuses = s.fuses := by simp [State.heardFault]

@[simp] theorem State.mgmtFault_fuses (s : State) (c : Chan) (j : SlotIx) (cause : BitVec 8) (src : ChanAddr) :
    (s.mgmtFault c j cause src).fuses = s.fuses := by simp [State.mgmtFault]

@[simp] theorem State.homeFault_fuses (s : State) (c : Chan) (j : SlotIx) : (s.homeFault c j).fuses = s.fuses := by
  simp only [State.homeFault]
  (repeat' split) <;> simp

@[simp] theorem execTickIssue_keeps (c : Chan) (j : SlotIx) (s0 : State) : KeepsFuses s0.fuses (execTickIssue c j s0) := by
  unfold execTickIssue
  extract_lets x first s st pending frame
  split
  · rfl
  · refine KeepsFuses.ite ?_ rfl
    split
    · simp
    · extract_lets s1 commit s2 s3 s4
      have hs : s.fuses = s0.fuses := State.fuses_ite rfl (s0.until_fuses _)
      have h1 : s1.fuses = s0.fuses := State.fuses_ite hs (by simp [hs])
      have h4 : s4.fuses = s0.fuses := by simp [s4, s3, s2, h1]
      exact KeepsFuses.ite (by simp [h1]) (by simp [h4])

@[simp] theorem execTickTakesEffect_keeps (c : Chan) (j : SlotIx) (s : State) : KeepsFuses s.fuses (execTickTakesEffect c j s) := by
  simp only [execTickTakesEffect]
  split <;> simp

@[simp] theorem execTickMarker_keeps (c : Chan) (port : PortIx) (tree : BitVec 12) (commit : Bool) (copy : BitVec 2)
    (frame : BitVec 8) (acc : BitVec 20) (s : State) :
    KeepsFuses s.fuses (execTickMarker c port tree commit copy frame acc s) := by
  unfold execTickMarker
  (repeat' split) <;> simp

@[simp] theorem execLocalTick_keeps (c : Chan) (s0 : State) : KeepsFuses s0.fuses (execLocalTick c s0) := by simp [execLocalTick]

@[simp] theorem State.haltEffect_fuses (s : State) (c : Chan) (j : SlotIx) : (s.haltEffect c j).fuses = s.fuses := by
  simp only [State.haltEffect]
  split <;> simp

@[simp] theorem State.issueHalt_fuses (s : State) (c : Chan) (j : SlotIx) : (s.issueHalt c j).fuses = s.fuses := by
  simp [State.issueHalt]

@[simp] theorem execHaltTickIssue_keeps (c : Chan) (j : SlotIx) (s : State) : KeepsFuses s.fuses (execHaltTickIssue c j s) := by
  simp only [execHaltTickIssue]
  split <;> simp

@[simp] theorem execHaltMarker_keeps (c : Chan) (port : PortIx) (tree : BitVec 12) (copy : BitVec 2) (acc : BitVec 20) (s : State) :
    KeepsFuses s.fuses (execHaltMarker c port tree copy acc s) := by
  unfold execHaltMarker
  (repeat' split) <;> simp

@[simp] theorem execWatchdogExpiry_keeps (c : Chan) (j : SlotIx) (s : State) : KeepsFuses s.fuses (execWatchdogExpiry c j s) := by
  simp [execWatchdogExpiry]

@[simp] theorem execTickLost_keeps (c : Chan) (j : SlotIx) (s : State) : KeepsFuses s.fuses (execTickLost c j s) := by
  simp [execTickLost]

@[simp] theorem execFailoverTakeover_keeps (c : Chan) (j : SlotIx) (s : State) : KeepsFuses s.fuses (execFailoverTakeover c j s) := by
  simp [execFailoverTakeover]

@[simp] theorem State.inputNotice_fuses (s : State) (c : Chan) (j : SlotIx) (fromCh : ChanAddr) (frame : Nat) :
    (s.inputNotice c j fromCh frame).fuses = s.fuses := by
  simp only [State.inputNotice]
  (repeat' split) <;> simp

@[simp] theorem execInputCompleteNotice_keeps (c : Chan) (j : SlotIx) (fromCh : BitVec 15) (frame : Nat) (s : State) :
    KeepsFuses s.fuses (execInputCompleteNotice c j fromCh frame s) := by simp [execInputCompleteNotice]

@[simp] theorem State.afterWindow_fuses (s : State) (c : Chan) (j : SlotIx) : (s.afterWindow c j).fuses = s.fuses := by
  simp [State.afterWindow]

@[simp] theorem execWindowClose_keeps (c : Chan) (j : SlotIx) (s : State) : KeepsFuses s.fuses (execWindowClose c j s) := by
  simp [execWindowClose]

@[simp] theorem execUrgentItemStart_keeps (c : Chan) (j : SlotIx) (s : State) : KeepsFuses s.fuses (execUrgentItemStart c j s) := by
  simp only [execUrgentItemStart]
  (repeat' split) <;> simp

@[simp] theorem execUrgentItemComplete_keeps (c : Chan) (j : SlotIx) (s : State) :
    KeepsFuses s.fuses (execUrgentItemComplete c j s) := by
  simp only [execUrgentItemComplete]
  split <;> simp

/-! ### Commands keep the fuses: domains of a channel -/

@[simp] theorem State.domainsOff_fuses (s : State) (c : Chan) : (s.domainsOff c).fuses = s.fuses := by rfl

@[simp] theorem State.leave_fuses (s : State) (c : Chan) (r : Nat) : (s.leave c r).fuses = s.fuses := by simp [State.leave]

@[simp] theorem State.enter_fuses (s : State) (c : Chan) (r : Nat) : (s.enter c r).fuses = s.fuses := by simp [State.enter]

@[simp] theorem State.sendRecords_fuses (s : State) (c : Chan) (port : PortIx) : (s.sendRecords c port).fuses = s.fuses := by
  simp [State.sendRecords]

@[simp] theorem State.powerEvent_fuses (s : State) (c : Chan) (kind b1 n : Nat) : (s.powerEvent c kind b1 n).fuses = s.fuses := by
  rfl

@[simp] theorem State.thermalEvent_fuses (s : State) (c : Chan) (kind unit sensor : Nat) (eff raw : Int) :
    (s.thermalEvent c kind unit sensor eff raw).fuses = s.fuses := by rfl

@[simp] theorem State.setVpump_fuses (s : State) (c : Chan) (mv : Nat) : (s.setVpump c mv).fuses = s.fuses := by rfl

@[simp] theorem State.waited_fuses (s : State) (c : Chan) (j : SlotIx) (cause : Fin 7) (ns : Nat) :
    (s.waited c j cause ns).fuses = s.fuses := by rfl

@[simp] theorem State.polderWaited_fuses (s : State) (c : Chan) (pd : PolderIx) (cause : Fin 7) (ns : Nat) :
    (s.polderWaited c pd cause ns).fuses = s.fuses := by
  unfold State.polderWaited
  split <;> simp

/-! ### Commands keep the fuses: ports and their lanes -/

@[simp] theorem State.portTo_fuses (s : State) (c : Chan) (port : PortIx) (st : PortState) (f : Port → Port) :
    (s.portTo c port st f).fuses = s.fuses := by simp [State.portTo]

@[simp] theorem State.slotLost_fuses (s : State) (c : Chan) (j : SlotIx) (port : PortIx) : (s.slotLost c j port).fuses = s.fuses := by
  simp [State.slotLost]

@[simp] theorem State.nodeLost_fuses (s : State) (c : Chan) (tree : BitVec 12) (t : Tree) (port : PortIx) :
    (s.nodeLost c tree t port).fuses = s.fuses := by
  simp only [State.nodeLost]
  (repeat' split) <;> simp

@[simp] theorem State.tellMaster_fuses (s : State) (c : Chan) (e : Through) (cause : Cause) :
    (s.tellMaster c e cause).fuses = s.fuses := by simp [State.tellMaster]

@[simp] theorem State.throughFault_fuses (s : State) (c : Chan) (cause : Cause) (kind : UnitKind) :
    (s.throughFault c cause kind).fuses = s.fuses := by simp [State.throughFault]

@[simp] theorem State.endCmd_fuses (s : State) (h : Hdr) (status : Nat) : (s.endCmd h status).fuses = s.fuses := by
  simp [State.endCmd]

@[simp] theorem State.copiesLost_fuses (s : State) (c : Chan) (port : PortIx) : (s.copiesLost c port).fuses = s.fuses := by
  simp [State.copiesLost]

@[simp] theorem State.portGone_fuses (s : State) (c : Chan) (port : PortIx) (st : PortState) (los : Bool) :
    (s.portGone c port st los).fuses = s.fuses := by simp [State.portGone]

@[simp] theorem State.portLost_fuses (s : State) (c : Chan) (port : PortIx) (st : PortState) (los : Bool) :
    (s.portLost c port st los).fuses = s.fuses := by
  unfold State.portLost
  split <;> simp

@[simp] theorem execLossOfSignal_keeps (c : Chan) (port : PortIx) (s : State) : KeepsFuses s.fuses (execLossOfSignal c port s) := by
  simp [execLossOfSignal]

@[simp] theorem State.retrainPort_fuses (s : State) (c : Chan) (port : PortIx) : (s.retrainPort c port).fuses = s.fuses := by
  simp [State.retrainPort]

@[simp] theorem execRetrain_keeps (c : Chan) (port : PortIx) (s : State) : KeepsFuses s.fuses (execRetrain c port s) := by
  simp [execRetrain]

@[simp] theorem execPortEnableWrite_keeps (c : Chan) (port : PortIx) (v : BitVec 32) (s : State) :
    KeepsFuses s.fuses (execPortEnableWrite c port v s) := by
  unfold execPortEnableWrite
  (repeat' split) <;> simp

@[simp] theorem execDrainComplete_keeps (c : Chan) (port : PortIx) (s : State) : KeepsFuses s.fuses (execDrainComplete c port s) := by
  simp [execDrainComplete]

@[simp] theorem State.trainFails_fuses (s : State) (c : Chan) (port : PortIx) : (s.trainFails c port).fuses = s.fuses := by
  simp [State.trainFails]

@[simp] theorem execSignalDetect_keeps (c : Chan) (port : PortIx) (lanes : BitVec 8) (s : State) :
    KeepsFuses s.fuses (execSignalDetect c port lanes s) := by simp [execSignalDetect]

@[simp] theorem execTrainStepComplete_keeps (c : Chan) (port : PortIx) (info : TrainInfo) (s : State) :
    KeepsFuses s.fuses (execTrainStepComplete c port info s) := by
  simp only [execTrainStepComplete]
  (repeat' split) <;> simp

@[simp] theorem execTrainingTimeout_keeps (c : Chan) (port : PortIx) (s : State) :
    KeepsFuses s.fuses (execTrainingTimeout c port s) := by simp [execTrainingTimeout]

@[simp] theorem execDownTimer_keeps (c : Chan) (port : PortIx) (s : State) : KeepsFuses s.fuses (execDownTimer c port s) := by
  simp [execDownTimer]

@[simp] theorem State.replayFrom_fuses (s : State) (c : Chan) (port : PortIx) (seq : BitVec 12) :
    (s.replayFrom c port seq).fuses = s.fuses := by simp [State.replayFrom]

@[simp] theorem State.narrowEnd_fuses (s : State) (c : Chan) (port : PortIx) : (s.narrowEnd c port).fuses = s.fuses := by
  simp only [State.narrowEnd]
  (repeat' split) <;> simp

@[simp] theorem State.narrow_fuses (s : State) (c : Chan) (port : PortIx) : (s.narrow c port).fuses = s.fuses := by
  unfold State.narrow
  split <;> simp

@[simp] theorem execLaneFailure_keeps (c : Chan) (port : PortIx) (lane : Fin 8) (s : State) :
    KeepsFuses s.fuses (execLaneFailure c port lane s) := by simp [execLaneFailure]

@[simp] theorem execReplayTimeout_keeps (c : Chan) (port : PortIx) (s : State) :
    KeepsFuses s.fuses (execReplayTimeout c port s) := by
  simp only [execReplayTimeout]
  (repeat' split) <;> simp

@[simp] theorem execSlotEntryOpen_keeps (c : Chan) (port : PortIx) (s : State) :
    KeepsFuses s.fuses (execSlotEntryOpen c port s) := by
  simp only [execSlotEntryOpen]
  split <;> simp

@[simp] theorem execEqualisation_keeps (c : Chan) (port : PortIx) (latQns : BitVec 16) (s : State) :
    KeepsFuses s.fuses (execEqualisation c port latQns s) := by simp [execEqualisation]

/-! ### Commands keep the fuses: host memory -/

@[simp] theorem State.putAt_fuses (s : State) (c : Chan) (k : Nat) (mask : BitVec 32) (v : Granule) :
    (s.putAt c k mask v).fuses = s.fuses := by
  simp only [State.putAt]
  split <;> simp

@[simp] theorem State.putNow_fuses (s : State) (c : Chan) (k : Nat) (mask : BitVec 32) (v : Granule) :
    (s.putNow c k mask v).fuses = s.fuses := by simp [State.putNow]

@[simp] theorem State.hostDone_fuses (s : State) (h : Hdr) (bytes : Nat) : (s.hostDone h bytes).fuses = s.fuses := by
  simp [State.hostDone]

@[simp] theorem State.hostSend_fuses (s : State) (h : Hdr) (rset : BitVec 2) (dest : ChanAddr) (fs : List OutFlit) (bytes : Nat) :
    (s.hostSend h rset dest fs bytes).fuses = s.fuses := by
  simp only [State.hostSend]
  split <;> simp

@[simp] theorem State.hostBursts_fuses (s : State) (ks : List (ChanAddr × Nat)) : (s.hostBursts ks).fuses = s.fuses := by
  simp [State.hostBursts]

@[simp] theorem State.hostAck_fuses (s : State) (c : Chan) (dest : ChanAddr) : (s.hostAck c dest).fuses = s.fuses := by
  simp only [State.hostAck]
  split <;> simp

/-! ### Commands keep the fuses: the cistern -/

@[simp] theorem State.countFill_fuses (s : State) (c : Chan) (j : SlotIx) : (s.countFill c j).fuses = s.fuses := by
  simp [State.countFill]

@[simp] theorem State.fetchLine_fuses (s : State) (c : Chan) (j : SlotIx) (cls : ReqClass) (a : FabAddr) :
    (s.fetchLine c j cls a).fuses = s.fuses := by
  unfold State.fetchLine
  (repeat' split) <;> simp

@[simp] theorem State.dropBroken_fuses (s : State) (c : Chan) (p : PumpIx) (a : FabAddr) (i : Nat) :
    (s.dropBroken c p a i).fuses = s.fuses := by
  unfold State.dropBroken
  split <;> simp

@[simp] theorem State.askFill_fuses (s : State) (c : Chan) (p : PumpIx) (j : SlotIx) (a : FabAddr) (sect : Option Nat)
    (stream : Bool) :
    (s.askFill c p j a sect stream).fuses = s.fuses := by
  simp only [State.askFill]
  split <;> simp

@[simp] theorem execFillOpen_keeps (c : Chan) (p : PumpIx) (addr : FabAddr) (s : State) :
    KeepsFuses s.fuses (execFillOpen c p addr s) := by
  unfold execFillOpen
  split <;> simp

@[simp] theorem State.deliverFill_fuses (s : State) (c : Chan) (e : FillEnt) : (s.deliverFill c e).fuses = s.fuses := by
  simp [State.deliverFill]

@[simp] theorem execFillDelivery_keeps (c : Chan) (addr : FabAddr) (s : State) :
    KeepsFuses s.fuses (execFillDelivery c addr s) := by
  simp only [execFillDelivery]
  split <;> simp

@[simp] theorem State.answerErr_fuses (s : State) (c : Chan) (fh : FlitHdr) (e : RespErr) : (s.answerErr c fh e).fuses = s.fuses := by
  simp [State.answerErr]

@[simp] theorem State.answer_fuses (s : State) (c : Chan) (j : Option SlotIx) (fh : FlitHdr) (f : OutFlit) :
    (s.answer c j fh f).fuses = s.fuses := by
  unfold State.answer
  split <;> simp

@[simp] theorem State.serveLine_fuses (s : State) (c : Chan) (fh : FlitHdr) (a : FabAddr) :
    (s.serveLine c fh a).fuses = s.fuses := by
  unfold State.serveLine
  extract_lets k j place s1
  have h1 : s1.fuses = s.fuses := by cases hp : place <;> simp [s1, hp]
  refine State.fuses_ite (by simp) (State.fuses_ite (by simp) ((foldl_fuses _ _ _ fun i t => ?_).trans h1))
  dsimp only
  rw [State.answer_fuses]
  exact readEach_fuses _ _ _ fun g u => u.readShared_fuses c j _

@[simp] theorem State.serveStalled_fuses (s : State) (c : Chan) : (s.serveStalled c).fuses = s.fuses := by simp [State.serveStalled]

@[simp] theorem execHeldEntryDrain_keeps (c : Chan) (s : State) : KeepsFuses s.fuses (execHeldEntryDrain c s) := by
  simp [execHeldEntryDrain]

@[simp] theorem execEpochSweep_keeps (c : Chan) (s : State) : KeepsFuses s.fuses (execEpochSweep c s) := by simp [execEpochSweep]

@[simp] theorem execMarkPlaneClear_keeps (c : Chan) (s : State) : KeepsFuses s.fuses (execMarkPlaneClear c s) := by
  simp [execMarkPlaneClear]

@[simp] theorem execCisModeWrite_keeps (c : Chan) (v : BitVec 32) (s : State) : KeepsFuses s.fuses (execCisModeWrite c v s) := by
  simp [execCisModeWrite]

@[simp] theorem execCisClear_keeps (c : Chan) (v : BitVec 32) (s : State) : KeepsFuses s.fuses (execCisClear c v s) :=
  State.blockWrite_fuses _ _ _ fun t => by dsimp only; (repeat' split) <;> simp

@[simp] theorem execClearComplete_keeps (c : Chan) (s : State) : KeepsFuses s.fuses (execClearComplete c s) := by rfl

@[simp] theorem execCeClear_keeps (c : Chan) (s : State) : KeepsFuses s.fuses (execCeClear c s) := by simp [execCeClear]

@[simp] theorem execLogClear_keeps (c : Chan) (s : State) : KeepsFuses s.fuses (execLogClear c s) := by simp [execLogClear]

/-! ### Commands keep the fuses: markers on the fabric -/

@[simp] theorem execFaultMarker_keeps (c : Chan) (port : PortIx) (tree : BitVec 12) (cause : BitVec 8) (reporter : BitVec 15)
    (s : State) :
    KeepsFuses s.fuses (execFaultMarker c port tree cause reporter s) := by
  unfold execFaultMarker
  (repeat' split) <;> simp

@[simp] theorem execNakMarker_keeps (c : Chan) (port : PortIx) (seq : BitVec 12) (s : State) :
    KeepsFuses s.fuses (execNakMarker c port seq s) := by simp [execNakMarker]

@[simp] theorem execAckMarker_keeps (c : Chan) (port : PortIx) (seq : BitVec 12) (s : State) :
    KeepsFuses s.fuses (execAckMarker c port seq s) := by simp [execAckMarker]

@[simp] theorem State.credit_fuses (s : State) (c : Chan) (port : PortIx) (k : CreditKind) (count : Nat) :
    (s.credit c port k count).fuses = s.fuses := by
  unfold State.credit
  split <;> simp

@[simp] theorem execCreditMarker_keeps (c : Chan) (port : PortIx) (buf : CreditKind) (count : Nat) (s : State) :
    KeepsFuses s.fuses (execCreditMarker c port buf count s) := by simp [execCreditMarker]

@[simp] theorem execEchoMarker_keeps (c : Chan) (port : PortIx) (stamp : BitVec 52) (s : State) :
    KeepsFuses s.fuses (execEchoMarker c port stamp s) := by simp [execEchoMarker]

/-! ### Commands keep the fuses: claims, routes and the fabric -/

@[simp] theorem State.claimAt_fuses (s : State) (c : Chan) (who : ClaimId) (r : Resource) : (s.claimAt c who r).fuses = s.fuses := by
  simp [State.claimAt]

@[simp] theorem execClaim_keeps (c : Chan) (who : ClaimId) (r : Resource) (s : State) : KeepsFuses s.fuses (execClaim c who r s) := by
  simp [execClaim]

@[simp] theorem State.dropClaims_fuses (s : State) (c : Chan) (who : ClaimId) (all : Bool) :
    (s.dropClaims c who all).fuses = s.fuses := by rfl

@[simp] theorem execClaimLapse_keeps (c : Chan) (who : ClaimId) (s : State) : KeepsFuses s.fuses (execClaimLapse c who s) := by rfl

@[simp] theorem State.releaseClaims_fuses (s : State) (p : Placing) : (s.releaseClaims p).fuses = s.fuses :=
  State.each_fuses _ _ _ fun a t => by (repeat' split) <;> simp

@[simp] theorem State.onFab_fuses (s : State) (f : Fabric → Fabric) : (s.onFab f).fuses = s.fuses := by rfl

@[simp] theorem State.placeFails_fuses (s : State) (p : Placing) (code : Nat) : (s.placeFails p code).fuses = s.fuses := by
  unfold State.placeFails
  split <;> simp

@[simp] theorem State.attempt_fuses (s : State) (p0 : Placing) : (s.attempt p0).fuses = s.fuses := by
  simp only [State.attempt]
  (repeat' split) <;> simp

@[simp] theorem State.rerun_fuses (s : State) (p : Placing) : (s.rerun p).fuses = s.fuses := by
  unfold State.rerun
  (repeat' split) <;> simp

@[simp] theorem State.startPlacing_fuses (s : State) (ctx job : Nat) (restart : Bool) :
    (s.startPlacing ctx job restart).fuses = s.fuses := by simp [State.startPlacing]

@[simp] theorem State.loadVch_fuses (s : State) (c : Chan) (im : JobImage) (v : Nat) (pds : BitVec 16) :
    (s.loadVch c im v pds).fuses = s.fuses := by
  unfold State.loadVch
  split <;> simp

@[simp] theorem State.admitPolders_fuses (s : State) (c : Chan) (t : TableRec) (j : SlotIx) (pwr : List (Bool × Nat)) :
    (s.admitPolders c t j pwr).fuses = s.fuses := by simp [State.admitPolders]

@[simp] theorem State.admitRegion_fuses (s : State) (c : Chan) (t : TableRec) : (s.admitRegion c t).fuses = s.fuses := by
  simp [State.admitRegion]

@[simp] theorem State.applyTables_fuses (s : State) (c : Chan) (t : TableRec) (set : SlotSet) (pwr : List (Bool × Nat)) :
    (s.applyTables c t set pwr).fuses = s.fuses := by
  unfold State.applyTables
  split <;> simp

@[simp] theorem State.writeTables_fuses (s : State) (p : Placing) : (s.writeTables p).fuses = s.fuses := by
  unfold State.writeTables
  split
  · rfl
  · dsimp only
    rw [State.onFab_fuses, State.onJob_fuses]
    refine State.each_fuses _ _ _ fun e t => ?_
    extract_lets
    split
    · simp
    · split <;> simp

@[simp] theorem State.claimAnswer_fuses (s : State) (r : Resource) (at_ : ChanAddr) (granted : Bool) :
    (s.claimAnswer r at_ granted).fuses = s.fuses := by
  unfold State.claimAnswer
  split <;> simp

@[simp] theorem execClaimReply_keeps (r : Resource) (at_ : BitVec 15) (granted : Bool) (s : State) :
    KeepsFuses s.fuses (execClaimReply r at_ granted s) := by simp [execClaimReply]

@[simp] theorem State.applyAway_fuses (s : State) (c : Chan) (t : TableRec) : (s.applyAway c t).fuses = s.fuses := by
  simp [State.applyAway]

@[simp] theorem State.releaseAway_fuses (s : State) (c : Chan) (who : ClaimId) (keep : Bool) :
    (s.releaseAway c who keep).fuses = s.fuses := by simp [State.releaseAway]

theorem State.bindShard_fuses (s : State) (ctx job handle : Nat) (a : Alloc) (v : Nat) (ch : ChanAddr) (pds : BitVec 16) :
    KeepsIfSome s.fuses (s.bindShard ctx job handle a v ch pds) := by
  unfold State.bindShard
  extract_lets put
  have hput : ∀ base ps, (put base ps).fuses = s.fuses := fun base ps => State.onCtx_fuses ..
  split
  · exact KeepsIfSome.map fun base => hput ..
  · exact KeepsIfSome.map fun base => hput ..

theorem State.bindAll_fuses (s : State) (ctx job : Nat) (jb : Job) : KeepsIfSome s.fuses (s.bindAll ctx job jb) := by
  unfold State.bindAll
  extract_lets hs
  refine List.foldlRecOn hs _ (KeepsIfSome.some rfl) fun acc hacc e _ => List.foldlRecOn jb.place _ hacc fun acc hacc b _ => ?_
  refine hacc.bind fun t ht => ?_
  split
  · exact fun u hu => (t.bindShard_fuses _ _ _ _ _ _ _ u hu).trans ht
  · exact KeepsIfSome.some ht

@[simp] theorem State.admitJob_fuses (s : State) (p : Placing) : (s.admitJob p).fuses = s.fuses := by
  unfold State.admitJob
  split
  · rfl
  · extract_lets s0
    have h0 : s0.fuses = s.fuses := s.onFab_fuses _
    split
    · simp [h0]
    · rename_i t ht
      have ht := (State.bindAll_fuses _ _ _ _ t ht).trans h0
      extract_lets t0 t1 t2
      have h2 : t2.fuses = s.fuses := by simp [t2, t1, t0, ht]
      exact State.fuses_ite h2 ((t2.complete_fuses ..).trans h2)

@[simp] theorem State.tableAck_fuses (s : State) (fromCh : ChanAddr) : (s.tableAck fromCh).fuses = s.fuses := by
  unfold State.tableAck
  split <;> simp

@[simp] theorem execTableWriteAck_keeps (fromCh : BitVec 15) (s : State) : KeepsFuses s.fuses (execTableWriteAck fromCh s) := by
  simp [execTableWriteAck]

@[simp] theorem execPlacementRetry_keeps (s : State) : KeepsFuses s.fuses (execPlacementRetry s) := by
  unfold execPlacementRetry
  split <;> simp

@[simp] theorem execPlaceDeadline_keeps (s : State) : KeepsFuses s.fuses (execPlaceDeadline s) := by
  unfold execPlaceDeadline
  (repeat' split) <;> simp

@[simp] theorem State.recompute_fuses (s : State) : (s.recompute).fuses = s.fuses := by simp [State.recompute]

@[simp] theorem State.takeMap_fuses (s : State) (r : MapRec) : (s.takeMap r).fuses = s.fuses := by
  simp only [State.takeMap]
  split <;> simp

@[simp] theorem State.mapIn_fuses (s : State) (c : Chan) (r : MapRec) : (s.mapIn c r).fuses = s.fuses := by simp [State.mapIn]

@[simp] theorem execMapChange_keeps (rec_ : MapRec) (s : State) : KeepsFuses s.fuses (execMapChange rec_ s) := by
  simp [execMapChange]

@[simp] theorem execMapKeeperTakeover_keeps (lost : BitVec 12) (s : State) : KeepsFuses s.fuses (execMapKeeperTakeover lost s) := by
  simp only [execMapKeeperTakeover]
  (repeat' split) <;> simp

@[simp] theorem State.addressed_fuses (s : State) : (s.addressed).fuses = s.fuses := by simp [State.addressed]

@[simp] theorem execDiscoverySettle_keeps (s : State) : KeepsFuses s.fuses (execDiscoverySettle s) := by simp [execDiscoverySettle]

@[simp] theorem execModuleJoin_keeps (s : State) : KeepsFuses s.fuses (execModuleJoin s) := by simp [execModuleJoin]

/-! ### Commands keep the fuses: repairs -/

@[simp] theorem State.moveEntries_fuses (s : State) (pick : Defect → Bool) (st : BitVec 8) :
    (s.moveEntries pick st).fuses = s.fuses := by rfl

@[simp] theorem State.settleOne_fuses (s : State) (d : Defect) (st : BitVec 8) : (s.settleOne d st).fuses = s.fuses := by rfl

@[simp] theorem State.widen_fuses (s : State) (c : Chan) (d : Defect) (k : DefectKind) (unit loc : Nat) :
    (s.widen c d k unit loc).fuses = s.fuses := by simp [State.widen]

@[simp] theorem State.losePump_fuses (s : State) (c : Chan) (phys : Nat) : (s.losePump c phys).fuses = s.fuses := by
  unfold State.losePump
  (repeat' split) <;> simp

@[simp] theorem State.onRepair_fuses (s : State) (c : Chan) (phys : Nat) (f : PumpRepair → PumpRepair) :
    (s.onRepair c phys f).fuses = s.fuses := by
  unfold State.onRepair
  split <;> simp

@[simp] theorem State.applyLane_fuses (s : State) (c : Chan) (d : Defect) : (s.applyLane c d).fuses = s.fuses := by
  simp [State.applyLane]

@[simp] theorem State.applyBond_fuses (s : State) (c : Chan) (d : Defect) : (s.applyBond c d).fuses = s.fuses := by
  simp [State.applyBond]

@[simp] theorem State.applyPumps_fuses (s : State) (c : Chan) : (s.applyPumps c).fuses = s.fuses := by simp [State.applyPumps]

@[simp] theorem State.applySpare_fuses (s : State) (c : Chan) (k : DefectKind) (bank : Nat → Nat) (spares : Nat) (d : Defect) :
    (s.applySpare c k bank spares d).fuses = s.fuses := by simp [State.applySpare]

@[simp] theorem State.applyCistern_fuses (s : State) (c : Chan) : (s.applyCistern c).fuses = s.fuses := by simp [State.applyCistern]

@[simp] theorem State.applyHbmRow_fuses (s : State) (c : Chan) (d : Defect) : (s.applyHbmRow c d).fuses = s.fuses := by
  simp [State.applyHbmRow]

@[simp] theorem State.applyBank_fuses (s : State) (c : Chan) (d : Defect) : (s.applyBank c d).fuses = s.fuses := by
  simp [State.applyBank]

@[simp] theorem State.applyLayer_fuses (s : State) (c : Chan) (d : Defect) : (s.applyLayer c d).fuses = s.fuses := by
  simp [State.applyLayer]

@[simp] theorem State.applyPin_fuses (s : State) (c : Chan) (st : StackIx) : (s.applyPin c st).fuses = s.fuses := by
  simp [State.applyPin]

@[simp] theorem State.setCaps_fuses (s : State) (c : Chan) : (s.setCaps c).fuses = s.fuses := by rfl

@[simp] theorem State.applyHbm_fuses (s : State) (c : Chan) : fstFuses (s.applyHbm c) = s.fuses := by simp [State.applyHbm]

/-! ### Commands keep the fuses: jobs and their end -/

@[simp] theorem State.foldAll_fuses (s : State) (c : Chan) (p : PumpIx) : (s.foldAll c p).fuses = s.fuses := by simp [State.foldAll]

@[simp] theorem State.checkGrans_fuses (s : State) (c : Chan) (ks : List Nat) : (s.checkGrans c ks).fuses = s.fuses := by
  simp [State.checkGrans]

@[simp] theorem State.capture_fuses (s : State) (c : Chan) (j : SlotIx) : (s.capture c j).fuses = s.fuses := by simp [State.capture]

@[simp] theorem execCaptureComplete_keeps (c : Chan) (j : SlotIx) (s : State) : KeepsFuses s.fuses (execCaptureComplete c j s) := by
  simp only [execCaptureComplete]
  (repeat' split) <;> simp

@[simp] theorem State.ckptDone_fuses (s : State) (ctx job frame : Nat) (final : Bool) :
    (s.ckptDone ctx job frame final).fuses = s.fuses := by
  unfold State.ckptDone
  (repeat' split) <;> simp

@[simp] theorem execCheckpointComplete_keeps (c : Chan) (j : SlotIx) (s : State) :
    KeepsFuses s.fuses (execCheckpointComplete c j s) := by
  simp only [execCheckpointComplete]
  split <;> simp

@[simp] theorem State.askCkpt_fuses (s : State) (ctx job : Nat) : (s.askCkpt ctx job).fuses = s.fuses := by simp [State.askCkpt]

@[simp] theorem State.buddyLost_fuses (s : State) (c : Chan) (j : SlotIx) : (s.buddyLost c j).fuses = s.fuses := by
  simp [State.buddyLost]

@[simp] theorem execBuddySlotLost_keeps (c : Chan) (j : SlotIx) (s : State) : KeepsFuses s.fuses (execBuddySlotLost c j s) := by
  simp [execBuddySlotLost]

@[simp] theorem State.restoreSlot_fuses (s : State) (jb : Job) (ks : List Ckpt) (c : Chan) (j : SlotIx) :
    (s.restoreSlot jb ks c j).fuses = s.fuses := by
  unfold State.restoreSlot
  refine (State.each_fuses _ _ _ fun e t => ?_).trans (State.each_fuses _ _ _ fun p t => ?_)
  · split <;> simp
  · extract_lets q
    split <;> simp

@[simp] theorem State.pumpState_fuses (s : State) (c : Chan) (j : SlotIx) (p : PumpIx) : (s.pumpState c j p).fuses = s.fuses := by
  rfl

@[simp] theorem State.captureFault_fuses (s : State) (c : Chan) (j : SlotIx) : (s.captureFault c j).fuses = s.fuses := by
  simp [State.captureFault]

@[simp] theorem State.rereadNet_fuses (s : State) (c : Chan) (j : SlotIx) : (s.rereadNet c j).fuses = s.fuses := by
  simp only [State.rereadNet]
  (repeat' split) <;> simp

@[simp] theorem State.recoveryFault_fuses (s : State) (ctx job reason : Nat) (jb : Job) :
    (s.recoveryFault ctx job reason jb).fuses = s.fuses := by
  unfold State.recoveryFault
  split <;> simp

@[simp] theorem State.flowOn_fuses (s : State) (ctx job : Nat) : (s.flowOn ctx job).fuses = s.fuses := by
  simp only [State.flowOn]
  (repeat' split) <;> simp

@[simp] theorem State.faultFlow_fuses (s : State) (ctx job : Nat) (reset : State → Chan → BitVec 2 → State)
    (hf : ∀ a b t, (reset t a b).fuses = t.fuses) :
    (s.faultFlow ctx job reset).fuses = s.fuses := by
  unfold State.faultFlow
  split
  · rfl
  · refine State.fuses_ite (s.flowOn_fuses ctx job) ?_
    extract_lets s1 bad s2 recs chans s3 hard s4
    have h2 : s2.fuses = s.fuses := (State.each_fuses _ _ _ fun e t => by simp).trans (s.jobEvent_fuses ..)
    have h4 : s4.fuses = s.fuses := by
      refine (State.each_fuses _ _ _ fun c t => ?_).trans (by simp [s3, h2])
      split
      · exact State.fuses_ite (hf _ _ t) (by simp)
      · rfl
    exact State.fuses_ite (by simp [h2]) (by simp [h4])

@[simp] theorem State.flowsOn_fuses (s : State) : (s.flowsOn).fuses = s.fuses := by simp [State.flowsOn]

@[simp] theorem execRestoreComplete_keeps (ctx job : Nat) (s : State) : KeepsFuses s.fuses (execRestoreComplete ctx job s) := by
  unfold execRestoreComplete
  (repeat' split) <;> simp

@[simp] theorem State.flashCopy_fuses (s : State) (c : Chan) : (s.flashCopy c).fuses = s.fuses := by rfl

@[simp] theorem execBlackBoxFlashCopy_keeps (c : Chan) (s : State) : KeepsFuses s.fuses (execBlackBoxFlashCopy c s) := by
  simp [execBlackBoxFlashCopy]

/-! ### Commands keep the fuses: resets -/

@[simp] theorem State.resetEvent_fuses (s : State) (c : Chan) (scope retain requester : Nat) :
    (s.resetEvent c scope retain requester).fuses = s.fuses := by rfl

@[simp] theorem State.assertReset_fuses (s : State) (c : Chan) (cause : Cause) (kind : UnitKind) :
    (s.assertReset c cause kind).fuses = s.fuses := by simp [State.assertReset]

@[simp] theorem State.holdReset_fuses (s : State) (c : Chan) : (s.holdReset c).fuses = s.fuses := by simp [State.holdReset]

@[simp] theorem State.abortPass_fuses (s : State) (c : Chan) : (s.abortPass c).fuses = s.fuses := by
  unfold State.abortPass
  split <;> simp

@[simp] theorem State.beginReset_fuses (s : State) (c : Chan) (scope : BitVec 2) (retain : Bool) (requester : Nat) :
    (s.beginReset c scope retain requester).fuses = s.fuses := by simp [State.beginReset]

@[simp] theorem State.flowReset_fuses (s : State) (c : Chan) (scope : BitVec 2) : (s.flowReset c scope).fuses = s.fuses := by
  simp [State.flowReset]

@[simp] theorem execFaultFlow_keeps (ctx job : Nat) (s : State) : KeepsFuses s.fuses (execFaultFlow ctx job s) := by
  simp [execFaultFlow]

@[simp] theorem State.chReset_fuses (s : State) (c : Chan) (scope : BitVec 2) (retain : Bool) :
    (s.chReset c scope retain).fuses = s.fuses := by simp [State.chReset]

@[simp] theorem execChResetPumpDie_keeps (c : Chan) (s : State) : KeepsFuses s.fuses (execChResetPumpDie c s) := by
  simp [execChResetPumpDie]

@[simp] theorem execChResetChannel_keeps (c : Chan) (retain : Bool) (s : State) :
    KeepsFuses s.fuses (execChResetChannel c retain s) := by simp [execChResetChannel]

@[simp] theorem execDeferredReset_keeps (c : Chan) (s : State) : KeepsFuses s.fuses (execDeferredReset c s) := by
  unfold execDeferredReset
  split <;> simp

@[simp] theorem State.spareTest_fuses (s old : State) (c : Chan) (fails : BitVec 16) : (s.spareTest old c fails).fuses = s.fuses := by
  simp [State.spareTest]

@[simp] theorem State.buddiesLost_fuses (s : State) (c : Chan) : (s.buddiesLost c).fuses = s.fuses :=
  State.each_fuses _ _ _ fun p t => by (repeat' split) <;> simp

@[simp] theorem State.ready_fuses (s : State) (c : Chan) : (s.ready c).fuses = s.fuses := by simp [State.ready]

@[simp] theorem execPumpDieResetComplete_keeps (c : Chan) (spareFails : BitVec 16) (s : State) :
    KeepsFuses s.fuses (execPumpDieResetComplete c spareFails s) := by simp [execPumpDieResetComplete]

@[simp] theorem State.applyRepairs_fuses (s : State) (c : Chan) (fails : BitVec 16) : (s.applyRepairs c fails).fuses = s.fuses := by
  simp [State.applyRepairs]

@[simp] theorem execChannelResetComplete_keeps (c : Chan) (spareFails : BitVec 16) (s : State) :
    KeepsFuses s.fuses (execChannelResetComplete c spareFails s) := by simp [execChannelResetComplete]

@[simp] theorem State.portsLost_fuses (s : State) (c : Chan) : (s.portsLost c).fuses = s.fuses := by
  unfold State.portsLost
  refine State.each_fuses _ _ _ fun p t => ?_
  split
  · split
    · exact t.portTo_fuses c p _ _
    · rfl
  · exact t.portLost_fuses c p _ _

@[simp] theorem State.loseChan_fuses (s : State) (c : Chan) (cause : Cause) (kind : UnitKind) (f : Channel → Channel) :
    (s.loseChan c cause kind f).fuses = s.fuses := by simp [State.loseChan]

@[simp] theorem State.beginEmb_fuses (s : State) (c : Chan) : (s.beginEmb c).fuses = s.fuses := by simp [State.beginEmb]

@[simp] theorem execEmbReset_keeps (c : Chan) (s : State) : KeepsFuses s.fuses (execEmbReset c s) := by simp [execEmbReset]

@[simp] theorem execEmbankmentResetComplete_keeps (c : Chan) (s : State) : KeepsFuses s.fuses (execEmbankmentResetComplete c s) := by
  simp [execEmbankmentResetComplete]

@[simp] theorem execBondCtlLoss_keeps (c : Chan) (p : PumpIx) (sig : Fin 4) (copy : Bool) (s : State) :
    KeepsFuses s.fuses (execBondCtlLoss c p sig copy s) := by simp [execBondCtlLoss]

@[simp] theorem execSequencerTimeout_keeps (c : Chan) (s : State) : KeepsFuses s.fuses (execSequencerTimeout c s) := by
  simp [execSequencerTimeout]

@[simp] theorem execBbxRelease_keeps (c : Chan) (s : State) : KeepsFuses s.fuses (execBbxRelease c s) := by simp [execBbxRelease]

@[simp] theorem execBbxFreeze_keeps (c : Chan) (s : State) : KeepsFuses s.fuses (execBbxFreeze c s) := by simp [execBbxFreeze]

@[simp] theorem execCriticalRecovery_keeps (c : Chan) (s : State) : KeepsFuses s.fuses (execCriticalRecovery c s) := by
  simp [execCriticalRecovery]

@[simp] theorem execColdRecovery_keeps (c : Chan) (s : State) : KeepsFuses s.fuses (execColdRecovery c s) := by
  simp [execColdRecovery]

/-! ### Commands keep the fuses: operations of the row -/

@[simp] theorem State.checkAcc_fuses (s : State) (c : Chan) (p : PumpIx) (lo n : Nat) : (s.checkAcc c p lo n).fuses = s.fuses := by
  simp [State.checkAcc]

@[simp] theorem State.laneFails_fuses (s : State) (c : Chan) (p : PumpIx) (lane : Nat) (dup : Bool) :
    (s.laneFails c p lane dup).fuses = s.fuses := by simp [State.laneFails]

@[simp] theorem State.checkLanes_fuses (s : State) (c : Chan) (p : PumpIx) : (s.checkLanes c p).fuses = s.fuses := by
  simp [State.checkLanes]

@[simp] theorem State.doBqs_fuses (s : State) (c : Chan) (p : PumpIx) (o : RowOp) : fstFuses (s.doBqs c p o) = s.fuses := by
  unfold State.doBqs
  extract_lets n
  split
  rename_i s1 gs h
  exact (s1.onPump_fuses c p _).trans ((fuses_of_eq h).trans (readEach_fuses _ _ _ fun g t => t.readOwn_fuses c p g))

@[simp] theorem State.doLld_fuses (s : State) (c : Chan) (p : PumpIx) (o : RowOp) : (s.doLld c p o).fuses = s.fuses := by
  unfold State.doLld
  extract_lets w a
  refine foldl_fuses _ _ _ fun r t => ?_
  split
  · extract_lets b
    split
    rename_i u rows h
    refine (u.onPump_fuses c p _).trans ((fuses_of_eq h).trans ?_)
    exact readEach_fuses _ _ _ fun k u => readEach_fuses _ _ _ fun i v => v.readOwn_fuses c p _
  · split
    rename_i u gs h
    refine (u.onPump_fuses c p _).trans ((fuses_of_eq h).trans ?_)
    exact readEach_fuses _ _ _ fun l u => u.readOwn_fuses c p _

@[simp] theorem State.doAcl_fuses (s : State) (c : Chan) (p : PumpIx) (o : RowOp) : (s.doAcl c p o).fuses = s.fuses := by
  unfold State.doAcl
  extract_lets w
  refine foldl_fuses _ _ _ fun i t => ?_
  extract_lets base
  split
  rename_i u gs h
  exact (u.onPump_fuses c p _).trans ((fuses_of_eq h).trans (readEach_fuses _ _ _ fun g v => v.readOwn_fuses c p _))

@[simp] theorem State.doAcs_fuses (s : State) (c : Chan) (p : PumpIx) (o : RowOp) : (s.doAcs c p o).fuses = s.fuses := by
  refine foldl_fuses _ _ _ fun i t => ?_
  dsimp only
  exact (foldl_fuses _ _ _ fun g u => u.writePrivate_fuses c p _ _ _).trans (t.checkAcc_fuses c p _ _)

@[simp] theorem State.addLedger_fuses (s : State) (c : Chan) (p : PumpIx) (g : Nat) (x : Num) (e : Int) :
    fstFuses (s.addLedger c p g x e) = s.fuses := by
  unfold State.addLedger
  rcases hr : s.readOwn c p g with ⟨s1, v⟩
  have h1 : s1.fuses = s.fuses := (fuses_of_eq hr).trans (s.readOwn_fuses c p g)
  generalize ledgerAddend x e = a
  cases a <;> simp [h1]

@[simp] theorem State.doAcr_fuses (s : State) (c : Chan) (p : PumpIx) (o : RowOp) : (s.doAcr c p o).fuses = s.fuses := by
  refine foldl_fstFuses _ _ _ fun i acc => ?_
  dsimp only
  refine (foldl_fstFuses _ _ _ fun l r => ?_).trans (acc.1.checkAcc_fuses c p _ _)
  split
  · rfl
  · exact r.1.addLedger_fuses c p _ _ _

@[simp] theorem State.takeEntries_fuses (s : State) (c : Chan) (p : PumpIx) (n : Nat) :
    fstFuses (s.takeEntries c p n) = s.fuses := by
  unfold State.takeEntries
  dsimp only
  refine (readEach_fuses _ _ _ fun e t => ?_).trans (by rw [State.onPump_fuses])
  split
  · rfl
  · split <;> simp

@[simp] theorem State.doDotStep_fuses (s : State) (c : Chan) (p : PumpIx) (o : RowOp) : fstFuses (s.doDotStep c p o) = s.fuses := by
  unfold State.doDotStep
  split <;> simp

@[simp] theorem State.perform_fuses (s : State) (c : Chan) (p : PumpIx) (o : RowOp) : (s.perform c p o).fuses = s.fuses := by
  unfold State.perform
  (repeat' split) <;> simp

@[simp] theorem State.act_fuses (s : State) (c : Chan) (p : PumpIx) (i : Nat) (o : RowOp) : (s.act c p i o).fuses = s.fuses := by
  simp [State.act]

@[simp] theorem State.advanceN_fuses (s : State) (c : Chan) (p : PumpIx) (x : Nat) : (s.advanceN c p x).fuses = s.fuses := by
  induction x generalizing s with
  | zero => rfl
  | succ n ih => unfold State.advanceN; dsimp only; (repeat' split) <;> simp [ih]

@[simp] theorem State.advance_fuses (s : State) (c : Chan) (p : PumpIx) : (s.advance c p).fuses = s.fuses := by simp [State.advance]

@[simp] theorem State.pcNext_fuses (s : State) (c : Chan) (p : PumpIx) : (s.pcNext c p).fuses = s.fuses := by simp [State.pcNext]

@[simp] theorem State.enqueue_fuses (s : State) (c : Chan) (p : PumpIx) (o : RowOp) : (s.enqueue c p o).fuses = s.fuses := by
  simp [State.enqueue]

@[simp] theorem State.issueRow_fuses (s : State) (c : Chan) (p : PumpIx) (w : BitVec 64) : (s.issueRow c p w).fuses = s.fuses := by
  unfold State.issueRow
  split <;> simp

@[simp] theorem State.issueDesc_fuses (s : State) (c : Chan) (p : PumpIx) (u : RowUnit) (f : BitVec 58) :
    (s.issueDesc c p u f).fuses = s.fuses := by simp [State.issueDesc]

/-! ### Commands keep the fuses: the controller of a pump -/

@[simp] theorem scalar_keeps (op : Nat) (u : Uses) (c : Chan) (p : PumpIx) (f : BitVec 58) (s : State) (g : State → State)
    (hf : ∀ t, (g t).fuses = t.fuses) :
    KeepsFuses s.fuses (scalar op u c p f s g) := by simp [scalar, hf]

@[simp] theorem alu_keeps (op : Nat) (g : BitVec 64 → BitVec 64 → BitVec 64) (c : Chan) (p : PumpIx) (f : BitVec 58) (s : State) :
    KeepsFuses s.fuses (alu op g c p f s) := by simp [alu]

@[simp] theorem aluImm_keeps (op bits : Nat) (g : BitVec 64 → BitVec 64) (c : Chan) (p : PumpIx) (f : BitVec 58) (s : State) :
    KeepsFuses s.fuses (aluImm op bits g c p f s) := by simp [aluImm]

@[simp] theorem branch_keeps (op : Nat) (u : Uses) (c : Chan) (p : PumpIx) (f : BitVec 58) (s : State) (taken : Pump → Bool) :
    KeepsFuses s.fuses (branch op u c p f s taken) := by simp [branch]

@[simp] theorem execNop_keeps (c : Chan) (p : PumpIx) (f : BitVec 58) (s : State) : KeepsFuses s.fuses (execNop c p f s) := by
  simp [execNop]

@[simp] theorem execAdd_keeps (c : Chan) (p : PumpIx) (f : BitVec 58) (s : State) : KeepsFuses s.fuses (execAdd c p f s) := by
  simp [execAdd]

@[simp] theorem execSub_keeps (c : Chan) (p : PumpIx) (f : BitVec 58) (s : State) : KeepsFuses s.fuses (execSub c p f s) := by
  simp [execSub]

@[simp] theorem execAnd_keeps (c : Chan) (p : PumpIx) (f : BitVec 58) (s : State) : KeepsFuses s.fuses (execAnd c p f s) := by
  simp [execAnd]

@[simp] theorem execOr_keeps (c : Chan) (p : PumpIx) (f : BitVec 58) (s : State) : KeepsFuses s.fuses (execOr c p f s) := by
  simp [execOr]

@[simp] theorem execXor_keeps (c : Chan) (p : PumpIx) (f : BitVec 58) (s : State) : KeepsFuses s.fuses (execXor c p f s) := by
  simp [execXor]

@[simp] theorem execMul_keeps (c : Chan) (p : PumpIx) (f : BitVec 58) (s : State) : KeepsFuses s.fuses (execMul c p f s) := by
  simp [execMul]

@[simp] theorem execAddi_keeps (c : Chan) (p : PumpIx) (f : BitVec 58) (s : State) : KeepsFuses s.fuses (execAddi c p f s) := by
  simp [execAddi]

@[simp] theorem execShli_keeps (c : Chan) (p : PumpIx) (f : BitVec 58) (s : State) : KeepsFuses s.fuses (execShli c p f s) := by
  simp [execShli]

@[simp] theorem execShri_keeps (c : Chan) (p : PumpIx) (f : BitVec 58) (s : State) : KeepsFuses s.fuses (execShri c p f s) := by
  simp [execShri]

@[simp] theorem execLi_keeps (c : Chan) (p : PumpIx) (f : BitVec 58) (s : State) : KeepsFuses s.fuses (execLi c p f s) := by
  simp [execLi]

@[simp] theorem execBeq_keeps (c : Chan) (p : PumpIx) (f : BitVec 58) (s : State) : KeepsFuses s.fuses (execBeq c p f s) := by
  simp [execBeq]

@[simp] theorem execBne_keeps (c : Chan) (p : PumpIx) (f : BitVec 58) (s : State) : KeepsFuses s.fuses (execBne c p f s) := by
  simp [execBne]

@[simp] theorem execBlt_keeps (c : Chan) (p : PumpIx) (f : BitVec 58) (s : State) : KeepsFuses s.fuses (execBlt c p f s) := by
  simp [execBlt]

@[simp] theorem execJmp_keeps (c : Chan) (p : PumpIx) (f : BitVec 58) (s : State) : KeepsFuses s.fuses (execJmp c p f s) := by
  simp [execJmp]

@[simp] theorem execLd_keeps (c : Chan) (p : PumpIx) (f : BitVec 58) (s : State) : KeepsFuses s.fuses (execLd c p f s) :=
  State.atWord_keeps _ _ _ _ _ fun t => by dsimp only; (repeat' split) <;> simp

@[simp] theorem execSt_keeps (c : Chan) (p : PumpIx) (f : BitVec 58) (s : State) : KeepsFuses s.fuses (execSt c p f s) :=
  State.atWord_keeps _ _ _ _ _ fun t => by dsimp only; (repeat' split) <;> simp

@[simp] theorem execSetsr_keeps (c : Chan) (p : PumpIx) (f : BitVec 58) (s : State) : KeepsFuses s.fuses (execSetsr c p f s) := by
  simp [execSetsr]

@[simp] theorem execFrn_keeps (c : Chan) (p : PumpIx) (f : BitVec 58) (s : State) : KeepsFuses s.fuses (execFrn c p f s) := by
  simp [execFrn]

@[simp] theorem execPid_keeps (c : Chan) (p : PumpIx) (f : BitVec 58) (s : State) : KeepsFuses s.fuses (execPid c p f s) := by
  simp [execPid]

@[simp] theorem execIssue_keeps (c : Chan) (p : PumpIx) (f : BitVec 58) (s : State) : KeepsFuses s.fuses (execIssue c p f s) := by
  simp [execIssue]

@[simp] theorem execKrn_keeps (c : Chan) (p : PumpIx) (f : BitVec 58) (s : State) : KeepsFuses s.fuses (execKrn c p f s) := by
  simp [execKrn]

@[simp] theorem execFence_keeps (c : Chan) (p : PumpIx) (f : BitVec 58) (s : State) : KeepsFuses s.fuses (execFence c p f s) := by
  simp [execFence]

@[simp] theorem execDone_keeps (c : Chan) (p : PumpIx) (f : BitVec 58) (s : State) : KeepsFuses s.fuses (execDone c p f s) := by
  simp [execDone]

@[simp] theorem execUnassignedOpcode_keeps (c : Chan) (p : PumpIx) (w : BitVec 64) (s : State) :
    KeepsFuses s.fuses (execUnassignedOpcode c p w s) := by simp [execUnassignedOpcode]

@[simp] theorem rowWord_keeps (op : Nat) (c : Chan) (p : PumpIx) (f : BitVec 58) (s : State) :
    KeepsFuses s.fuses (rowWord op c p f s) := by simp [rowWord]

@[simp] theorem ewWord_keeps (fn : Nat) (c : Chan) (p : PumpIx) (f : BitVec 58) (s : State) :
    KeepsFuses s.fuses (ewWord fn c p f s) := by simp [ewWord]

@[simp] theorem execEwUnassignedFn_keeps (c : Chan) (p : PumpIx) (f : BitVec 58) (s : State) :
    KeepsFuses s.fuses (execEwUnassignedFn c p f s) := by simp [execEwUnassignedFn]

@[simp] theorem xferWord_keeps (want : Nat → Bool) (c : Chan) (p : PumpIx) (f : BitVec 58) (s : State) :
    KeepsFuses s.fuses (xferWord want c p f s) := by simp [xferWord]

@[simp] theorem execXfrReservedOpc_keeps (c : Chan) (p : PumpIx) (f : BitVec 58) (s : State) :
    KeepsFuses s.fuses (execXfrReservedOpc c p f s) := by simp [execXfrReservedOpc]

@[simp] theorem execDot_keeps (c : Chan) (p : PumpIx) (f : BitVec 58) (s : State) : KeepsFuses s.fuses (execDot c p f s) := by
  simp [execDot]

@[simp] theorem execBqs_keeps (c : Chan) (p : PumpIx) (f : BitVec 58) (s : State) : KeepsFuses s.fuses (execBqs c p f s) := by
  simp [execBqs]

@[simp] theorem execAcl_keeps (c : Chan) (p : PumpIx) (f : BitVec 58) (s : State) : KeepsFuses s.fuses (execAcl c p f s) := by
  simp [execAcl]

@[simp] theorem execAcs_keeps (c : Chan) (p : PumpIx) (f : BitVec 58) (s : State) : KeepsFuses s.fuses (execAcs c p f s) := by
  simp [execAcs]

@[simp] theorem execAcr_keeps (c : Chan) (p : PumpIx) (f : BitVec 58) (s : State) : KeepsFuses s.fuses (execAcr c p f s) := by
  simp [execAcr]

@[simp] theorem execLld_keeps (c : Chan) (p : PumpIx) (f : BitVec 58) (s : State) : KeepsFuses s.fuses (execLld c p f s) := by
  simp [execLld]

@[simp] theorem execEwMov_keeps (c : Chan) (p : PumpIx) (f : BitVec 58) (s : State) : KeepsFuses s.fuses (execEwMov c p f s) := by
  simp [execEwMov]

@[simp] theorem execEwAdd_keeps (c : Chan) (p : PumpIx) (f : BitVec 58) (s : State) : KeepsFuses s.fuses (execEwAdd c p f s) := by
  simp [execEwAdd]

@[simp] theorem execEwSub_keeps (c : Chan) (p : PumpIx) (f : BitVec 58) (s : State) : KeepsFuses s.fuses (execEwSub c p f s) := by
  simp [execEwSub]

@[simp] theorem execEwMul_keeps (c : Chan) (p : PumpIx) (f : BitVec 58) (s : State) : KeepsFuses s.fuses (execEwMul c p f s) := by
  simp [execEwMul]

@[simp] theorem execEwMax_keeps (c : Chan) (p : PumpIx) (f : BitVec 58) (s : State) : KeepsFuses s.fuses (execEwMax c p f s) := by
  simp [execEwMax]

@[simp] theorem execEwMin_keeps (c : Chan) (p : PumpIx) (f : BitVec 58) (s : State) : KeepsFuses s.fuses (execEwMin c p f s) := by
  simp [execEwMin]

@[simp] theorem execEwFma_keeps (c : Chan) (p : PumpIx) (f : BitVec 58) (s : State) : KeepsFuses s.fuses (execEwFma c p f s) := by
  simp [execEwFma]

@[simp] theorem execEwAbs_keeps (c : Chan) (p : PumpIx) (f : BitVec 58) (s : State) : KeepsFuses s.fuses (execEwAbs c p f s) := by
  simp [execEwAbs]

@[simp] theorem execEwNeg_keeps (c : Chan) (p : PumpIx) (f : BitVec 58) (s : State) : KeepsFuses s.fuses (execEwNeg c p f s) := by
  simp [execEwNeg]

@[simp] theorem execEwExp2_keeps (c : Chan) (p : PumpIx) (f : BitVec 58) (s : State) : KeepsFuses s.fuses (execEwExp2 c p f s) := by
  simp [execEwExp2]

@[simp] theorem execEwLog2_keeps (c : Chan) (p : PumpIx) (f : BitVec 58) (s : State) : KeepsFuses s.fuses (execEwLog2 c p f s) := by
  simp [execEwLog2]

@[simp] theorem execEwRcp_keeps (c : Chan) (p : PumpIx) (f : BitVec 58) (s : State) : KeepsFuses s.fuses (execEwRcp c p f s) := by
  simp [execEwRcp]

@[simp] theorem execEwRsqrt_keeps (c : Chan) (p : PumpIx) (f : BitVec 58) (s : State) : KeepsFuses s.fuses (execEwRsqrt c p f s) := by
  simp [execEwRsqrt]

@[simp] theorem execEwTanh_keeps (c : Chan) (p : PumpIx) (f : BitVec 58) (s : State) : KeepsFuses s.fuses (execEwTanh c p f s) := by
  simp [execEwTanh]

@[simp] theorem execEwIadd_keeps (c : Chan) (p : PumpIx) (f : BitVec 58) (s : State) : KeepsFuses s.fuses (execEwIadd c p f s) := by
  simp [execEwIadd]

@[simp] theorem execEwIsub_keeps (c : Chan) (p : PumpIx) (f : BitVec 58) (s : State) : KeepsFuses s.fuses (execEwIsub c p f s) := by
  simp [execEwIsub]

@[simp] theorem execEwImax_keeps (c : Chan) (p : PumpIx) (f : BitVec 58) (s : State) : KeepsFuses s.fuses (execEwImax c p f s) := by
  simp [execEwImax]

@[simp] theorem execEwImin_keeps (c : Chan) (p : PumpIx) (f : BitVec 58) (s : State) : KeepsFuses s.fuses (execEwImin c p f s) := by
  simp [execEwImin]

@[simp] theorem execEwCvtif_keeps (c : Chan) (p : PumpIx) (f : BitVec 58) (s : State) : KeepsFuses s.fuses (execEwCvtif c p f s) := by
  simp [execEwCvtif]

@[simp] theorem execEwCvtfi_keeps (c : Chan) (p : PumpIx) (f : BitVec 58) (s : State) : KeepsFuses s.fuses (execEwCvtfi c p f s) := by
  simp [execEwCvtfi]

@[simp] theorem execXfrCopy_keeps (c : Chan) (p : PumpIx) (f : BitVec 58) (s : State) : KeepsFuses s.fuses (execXfrCopy c p f s) := by
  simp [execXfrCopy]

@[simp] theorem execXfrTcopy_keeps (c : Chan) (p : PumpIx) (f : BitVec 58) (s : State) :
    KeepsFuses s.fuses (execXfrTcopy c p f s) := by simp [execXfrTcopy]

@[simp] theorem execXfrCombine_keeps (c : Chan) (p : PumpIx) (f : BitVec 58) (s : State) :
    KeepsFuses s.fuses (execXfrCombine c p f s) := by simp [execXfrCombine]

@[simp] theorem execXfrReadout_keeps (c : Chan) (p : PumpIx) (f : BitVec 58) (s : State) :
    KeepsFuses s.fuses (execXfrReadout c p f s) := by simp [execXfrReadout]

@[simp] theorem execXfrDead_keeps (c : Chan) (p : PumpIx) (f : BitVec 58) (s : State) : KeepsFuses s.fuses (execXfrDead c p f s) := by
  simp [execXfrDead]

@[simp] theorem execXfrHalo_keeps (c : Chan) (p : PumpIx) (f : BitVec 58) (s : State) : KeepsFuses s.fuses (execXfrHalo c p f s) := by
  simp [execXfrHalo]

@[simp] theorem execXfrWarm_keeps (c : Chan) (p : PumpIx) (f : BitVec 58) (s : State) : KeepsFuses s.fuses (execXfrWarm c p f s) := by
  simp [execXfrWarm]

@[simp] theorem State.bondMark_fuses (s : State) (c : Chan) (p : PumpIx) (sym : Nat) (e : BitVec 8) :
    (s.bondMark c p sym e).fuses = s.fuses := by simp [State.bondMark]

@[simp] theorem State.bondHit_fuses (s : State) (c : Chan) (p : PumpIx) (sym : Nat) (e : BitVec 8) :
    (s.bondHit c p sym e).fuses = s.fuses := by rfl

@[simp] theorem execBondReadDelivery_keeps (c : Chan) (p : PumpIx) (gran : BitVec 19) (err : BitVec 288) (s : State) :
    KeepsFuses s.fuses (execBondReadDelivery c p gran err s) := by
  simp only [execBondReadDelivery]
  (repeat' split) <;> simp

@[simp] theorem execUeReread_keeps (c : Chan) (p : PumpIx) (err : BitVec 288) (s : State) :
    KeepsFuses s.fuses (execUeReread c p err s) := by
  simp only [execUeReread]
  (repeat' split) <;> simp

/-! ### Commands keep the fuses: lanes of the thread engine -/

@[simp] theorem State.memBits_fuses (s : State) (c : Chan) (p : PumpIx) (ch : ChanAddr) (off n : Nat) :
    fstFuses (s.memBits c p ch off n) = s.fuses := s.pumpBase_keeps c p true s ch (off / 32)

@[simp] theorem State.laneLoad_fuses (s : State) (c : Chan) (p : PumpIx) (g : Group) (l : LaneAt) (n : Nat) :
    fstFuses (s.laneLoad c p g l n) = s.fuses := by
  unfold State.laneLoad
  split <;> simp

@[simp] theorem State.onTe_fuses (s : State) (c : Chan) (p : PumpIx) (f : Te → Te) : (s.onTe c p f).fuses = s.fuses := by rfl

@[simp] theorem State.writeBack_fuses (s : State) (c : Chan) (p : PumpIx) (out : Nat → Bool) :
    (s.writeBack c p out).fuses = s.fuses := by
  unfold State.writeBack
  split <;> simp

@[simp] theorem State.allocLines_fuses (s : State) (c : Chan) (p : PumpIx) (ls : List Nat) :
    (s.allocLines c p ls).fuses = s.fuses := by simp [State.allocLines]

@[simp] theorem State.publish_fuses (s : State) (c : Chan) (p : PumpIx) (i : GSlot) : (s.publish c p i).fuses = s.fuses := by
  unfold State.publish
  split <;> simp

@[simp] theorem State.store_fuses (s : State) (c : Chan) (p : PumpIx) (i : GSlot) (ws : List (Nat × BitVec 8 × Bool)) :
    (s.store c p i ws).fuses = s.fuses := by
  unfold State.store
  split <;> simp

@[simp] theorem State.onGroup_fuses (s : State) (c : Chan) (p : PumpIx) (g : GSlot) (f : Group → Group) :
    (s.onGroup c p g f).fuses = s.fuses := by rfl

@[simp] theorem State.teIssueIf_fuses (s : State) (c : Chan) (p : PumpIx) (g : GSlot) (srcs dsts : List TReg)
    (waits : State → Kernel → Group → Path → Bool) (act : State → Kernel → Group → Path → State)
    (hf : ∀ a b d t, (act t a b d).fuses = t.fuses) :
    (s.teIssueIf c p g srcs dsts waits act).fuses = s.fuses := by
  unfold State.teIssueIf
  split
  · rfl
  · refine (State.unlessStopped_fuses _ _ _ _ fun t => ?_).trans (s.checkRow_fuses ..)
    split <;> simp [hf]

@[simp] theorem State.teIssue_fuses (s : State) (c : Chan) (p : PumpIx) (g : GSlot) (srcs dsts : List TReg)
    (act : State → Kernel → Group → Path → State) (hf : ∀ a b d t, (act t a b d).fuses = t.fuses) :
    (s.teIssue c p g srcs dsts act).fuses = s.fuses := s.teIssueIf_fuses c p g srcs dsts _ act hf

@[simp] theorem teLane_keeps (c : Chan) (p : PumpIx) (g : GSlot) (rd : TReg) (srcs : List TReg) (s : State)
    (f : Kernel → Group → Nat → BitVec 32) :
    KeepsFuses s.fuses (teLane c p g rd srcs s f) := by simp [teLane]

/-! ### Commands keep the fuses: instructions of the thread engine -/

@[simp] theorem teAlu_keeps (c : Chan) (p : PumpIx) (g : GSlot) (rd ra rb : TReg) (s : State)
    (f : BitVec 32 → BitVec 32 → BitVec 32) :
    KeepsFuses s.fuses (teAlu c p g rd ra rb s f) := by simp [teAlu]

@[simp] theorem teUn_keeps (c : Chan) (p : PumpIx) (g : GSlot) (rd ra : TReg) (s : State) (f : BitVec 32 → BitVec 32) :
    KeepsFuses s.fuses (teUn c p g rd ra s f) := by simp [teUn]

@[simp] theorem execTeAdd_keeps (c : Chan) (p : PumpIx) (g : GSlot) (rd ra rb : TReg) (s : State) :
    KeepsFuses s.fuses (execTeAdd c p g rd ra rb s) := by simp [execTeAdd]

@[simp] theorem execTeSub_keeps (c : Chan) (p : PumpIx) (g : GSlot) (rd ra rb : TReg) (s : State) :
    KeepsFuses s.fuses (execTeSub c p g rd ra rb s) := by simp [execTeSub]

@[simp] theorem execTeMul_keeps (c : Chan) (p : PumpIx) (g : GSlot) (rd ra rb : TReg) (s : State) :
    KeepsFuses s.fuses (execTeMul c p g rd ra rb s) := by simp [execTeMul]

@[simp] theorem execTeAnd_keeps (c : Chan) (p : PumpIx) (g : GSlot) (rd ra rb : TReg) (s : State) :
    KeepsFuses s.fuses (execTeAnd c p g rd ra rb s) := by simp [execTeAnd]

@[simp] theorem execTeOr_keeps (c : Chan) (p : PumpIx) (g : GSlot) (rd ra rb : TReg) (s : State) :
    KeepsFuses s.fuses (execTeOr c p g rd ra rb s) := by simp [execTeOr]

@[simp] theorem execTeXor_keeps (c : Chan) (p : PumpIx) (g : GSlot) (rd ra rb : TReg) (s : State) :
    KeepsFuses s.fuses (execTeXor c p g rd ra rb s) := by simp [execTeXor]

@[simp] theorem execTeShl_keeps (c : Chan) (p : PumpIx) (g : GSlot) (rd ra rb : TReg) (s : State) :
    KeepsFuses s.fuses (execTeShl c p g rd ra rb s) := by simp [execTeShl]

@[simp] theorem execTeShr_keeps (c : Chan) (p : PumpIx) (g : GSlot) (rd ra rb : TReg) (s : State) :
    KeepsFuses s.fuses (execTeShr c p g rd ra rb s) := by simp [execTeShr]

@[simp] theorem execTeSar_keeps (c : Chan) (p : PumpIx) (g : GSlot) (rd ra rb : TReg) (s : State) :
    KeepsFuses s.fuses (execTeSar c p g rd ra rb s) := by simp [execTeSar]

@[simp] theorem execTeMin_keeps (c : Chan) (p : PumpIx) (g : GSlot) (rd ra rb : TReg) (s : State) :
    KeepsFuses s.fuses (execTeMin c p g rd ra rb s) := by simp [execTeMin]

@[simp] theorem execTeMax_keeps (c : Chan) (p : PumpIx) (g : GSlot) (rd ra rb : TReg) (s : State) :
    KeepsFuses s.fuses (execTeMax c p g rd ra rb s) := by simp [execTeMax]

@[simp] theorem execTeFadd_keeps (c : Chan) (p : PumpIx) (g : GSlot) (rd ra rb : TReg) (s : State) :
    KeepsFuses s.fuses (execTeFadd c p g rd ra rb s) := by simp [execTeFadd]

@[simp] theorem execTeFmul_keeps (c : Chan) (p : PumpIx) (g : GSlot) (rd ra rb : TReg) (s : State) :
    KeepsFuses s.fuses (execTeFmul c p g rd ra rb s) := by simp [execTeFmul]

@[simp] theorem execTeFmin_keeps (c : Chan) (p : PumpIx) (g : GSlot) (rd ra rb : TReg) (s : State) :
    KeepsFuses s.fuses (execTeFmin c p g rd ra rb s) := by simp [execTeFmin]

@[simp] theorem execTeFmax_keeps (c : Chan) (p : PumpIx) (g : GSlot) (rd ra rb : TReg) (s : State) :
    KeepsFuses s.fuses (execTeFmax c p g rd ra rb s) := by simp [execTeFmax]

@[simp] theorem execTeSel_keeps (c : Chan) (p : PumpIx) (g : GSlot) (rd rp ra rb : TReg) (s : State) :
    KeepsFuses s.fuses (execTeSel c p g rd rp ra rb s) := by simp [execTeSel]

@[simp] theorem execTeCompare_keeps (c : Chan) (p : PumpIx) (g : GSlot) (cmp : Cmp) (rd ra rb : TReg) (s : State) :
    KeepsFuses s.fuses (execTeCompare c p g cmp rd ra rb s) := by simp [execTeCompare]

@[simp] theorem execTeFcompare_keeps (c : Chan) (p : PumpIx) (g : GSlot) (cmp : Cmp) (rd ra rb : TReg) (s : State) :
    KeepsFuses s.fuses (execTeFcompare c p g cmp rd ra rb s) := by simp [execTeFcompare]

@[simp] theorem execTeFfma_keeps (c : Chan) (p : PumpIx) (g : GSlot) (rd ra rb rc : TReg) (s : State) :
    KeepsFuses s.fuses (execTeFfma c p g rd ra rb rc s) := by simp [execTeFfma]

@[simp] theorem execTeExp2_keeps (c : Chan) (p : PumpIx) (g : GSlot) (rd ra : TReg) (s : State) :
    KeepsFuses s.fuses (execTeExp2 c p g rd ra s) := by simp [execTeExp2]

@[simp] theorem execTeLog2_keeps (c : Chan) (p : PumpIx) (g : GSlot) (rd ra : TReg) (s : State) :
    KeepsFuses s.fuses (execTeLog2 c p g rd ra s) := by simp [execTeLog2]

@[simp] theorem execTeRcp_keeps (c : Chan) (p : PumpIx) (g : GSlot) (rd ra : TReg) (s : State) :
    KeepsFuses s.fuses (execTeRcp c p g rd ra s) := by simp [execTeRcp]

@[simp] theorem execTeRsqrt_keeps (c : Chan) (p : PumpIx) (g : GSlot) (rd ra : TReg) (s : State) :
    KeepsFuses s.fuses (execTeRsqrt c p g rd ra s) := by simp [execTeRsqrt]

@[simp] theorem execTeTanh_keeps (c : Chan) (p : PumpIx) (g : GSlot) (rd ra : TReg) (s : State) :
    KeepsFuses s.fuses (execTeTanh c p g rd ra s) := by simp [execTeTanh]

@[simp] theorem execTeCvt_keeps (c : Chan) (p : PumpIx) (g : GSlot) (src dst : Fmt) (sr : Bool) (rd ra ri : TReg) (s : State) :
    KeepsFuses s.fuses (execTeCvt c p g src dst sr rd ra ri s) := by simp [execTeCvt]

@[simp] theorem execTeTid_keeps (c : Chan) (p : PumpIx) (g : GSlot) (rd : TReg) (s : State) :
    KeepsFuses s.fuses (execTeTid c p g rd s) := by simp [execTeTid]

@[simp] theorem execTeGid_keeps (c : Chan) (p : PumpIx) (g : GSlot) (rd : TReg) (s : State) :
    KeepsFuses s.fuses (execTeGid c p g rd s) := by simp [execTeGid]

@[simp] theorem execTeNgrp_keeps (c : Chan) (p : PumpIx) (g : GSlot) (rd : TReg) (s : State) :
    KeepsFuses s.fuses (execTeNgrp c p g rd s) := by simp [execTeNgrp]

@[simp] theorem execTePid_keeps (c : Chan) (p : PumpIx) (g : GSlot) (rd : TReg) (s : State) :
    KeepsFuses s.fuses (execTePid c p g rd s) := by simp [execTePid]

@[simp] theorem execTeFrn_keeps (c : Chan) (p : PumpIx) (g : GSlot) (rd : TReg) (s : State) :
    KeepsFuses s.fuses (execTeFrn c p g rd s) := by simp [execTeFrn]

@[simp] theorem execTeTime_keeps (c : Chan) (p : PumpIx) (g : GSlot) (rd : TReg) (s : State) :
    KeepsFuses s.fuses (execTeTime c p g rd s) := by simp [execTeTime]

@[simp] theorem State.withLanes_fuses (s : State) (c : Chan) (p : PumpIx) (ls : List (Fin 32 × LaneAt)) (act : State → State)
    (hf : ∀ t, (act t).fuses = t.fuses) :
    (s.withLanes c p ls act).fuses = s.fuses := by
  unfold State.withLanes
  split
  · simp
  · exact hf s

@[simp] theorem State.doSliceAtom_fuses (s : State) (c : Chan) (p : PumpIx) (a : SliceAtom) :
    fstFuses (s.doSliceAtom c p a) = s.fuses := by
  unfold State.doSliceAtom
  rcases ho : a.op with _ | op
  · exact s.addLedger_fuses ..
  · extract_lets g
    rcases hr : s.readOwn c p g with ⟨s1, old⟩
    have h1 : s1.fuses = s.fuses := (fuses_of_eq hr).trans (s.readOwn_fuses c p g)
    dsimp only
    cases hr : a.ret <;> simp [h1]

@[simp] theorem State.performAtoms_fuses (s : State) (c : Chan) (p : PumpIx) : (s.performAtoms c p).fuses = s.fuses := by
  refine (foldl_fstFuses _ _ _ fun a r => ?_).trans (by simp)
  split
  · rfl
  · exact r.1.doSliceAtom_fuses c p a

@[simp] theorem State.settleAtoms_fuses (s : State) (c : Chan) (p : PumpIx) (lines : List Nat) :
    (s.settleAtoms c p lines).fuses = s.fuses := by simp [State.settleAtoms]

@[simp] theorem State.flushLine_fuses (s : State) (c : Chan) (p : PumpIx) (line : Nat) : (s.flushLine c p line).fuses = s.fuses := by
  simp [State.flushLine]

@[simp] theorem execTeLd_keeps (c : Chan) (p : PumpIx) (g : GSlot) (sp : Space) (size : Nat) (rd addr : TReg) (s : State) :
    KeepsFuses s.fuses (execTeLd c p g sp size rd addr s) := by
  refine KeepsFuses.ite trivial (State.teIssueIf_fuses _ _ _ _ _ _ _ _ fun k x y t => State.withLanes_fuses _ _ _ _ _ fun u => ?_)
  dsimp only
  rw [State.onGroup_fuses, State.allocLines_fuses]
  refine (readEach_fuses _ _ _ fun e v => ?_).trans (u.settleAtoms_fuses ..)
  exact v.laneLoad_fuses c p x e.2 size

@[simp] theorem State.toHost_fuses (s : State) (c : Chan) (p : PumpIx) (o : Output) : (s.toHost c p o).fuses = s.fuses := by
  unfold State.toHost
  split <;> simp

@[simp] theorem execTeSt_keeps (c : Chan) (p : PumpIx) (g : GSlot) (sp : Space) (size : Nat) (addr rs : TReg) (s : State) :
    KeepsFuses s.fuses (execTeSt c p g sp size addr rs s) := by
  refine KeepsFuses.ite trivial (State.teIssueIf_fuses _ _ _ _ _ _ _ _ fun k x y t => State.withLanes_fuses _ _ _ _ _ fun u => ?_)
  dsimp only
  rw [State.onGroup_fuses, State.store_fuses]
  exact State.each_fuses _ _ _ fun e v => by split <;> simp

@[simp] theorem execTePf_keeps (c : Chan) (p : PumpIx) (g : GSlot) (sp : Space) (addr : TReg) (s : State) :
    KeepsFuses s.fuses (execTePf c p g sp addr s) := by simp [execTePf]

@[simp] theorem State.queueAtoms_fuses (s : State) (c : Chan) (p : PumpIx) (atoms : List SliceAtom) :
    (s.queueAtoms c p atoms).fuses = s.fuses := by simp [State.queueAtoms]

@[simp] theorem teAtomS_keeps (op : AtomOp) (c : Chan) (p : PumpIx) (g : GSlot) (w64 ret : Bool) (rd addr rs : TReg)
    (rt : Option TReg) (s : State) :
    KeepsFuses s.fuses (teAtomS op c p g w64 ret rd addr rs rt s) := by simp [teAtomS]

@[simp] theorem execTeAtomSAdd_keeps (c : Chan) (p : PumpIx) (g : GSlot) (w64 ret : Bool) (rd addr rs : TReg) (s : State) :
    KeepsFuses s.fuses (execTeAtomSAdd c p g w64 ret rd addr rs s) := by simp [execTeAtomSAdd]

@[simp] theorem execTeAtomSMin_keeps (c : Chan) (p : PumpIx) (g : GSlot) (w64 ret : Bool) (rd addr rs : TReg) (s : State) :
    KeepsFuses s.fuses (execTeAtomSMin c p g w64 ret rd addr rs s) := by simp [execTeAtomSMin]

@[simp] theorem execTeAtomSMax_keeps (c : Chan) (p : PumpIx) (g : GSlot) (w64 ret : Bool) (rd addr rs : TReg) (s : State) :
    KeepsFuses s.fuses (execTeAtomSMax c p g w64 ret rd addr rs s) := by simp [execTeAtomSMax]

@[simp] theorem execTeAtomSAnd_keeps (c : Chan) (p : PumpIx) (g : GSlot) (w64 ret : Bool) (rd addr rs : TReg) (s : State) :
    KeepsFuses s.fuses (execTeAtomSAnd c p g w64 ret rd addr rs s) := by simp [execTeAtomSAnd]

@[simp] theorem execTeAtomSOr_keeps (c : Chan) (p : PumpIx) (g : GSlot) (w64 ret : Bool) (rd addr rs : TReg) (s : State) :
    KeepsFuses s.fuses (execTeAtomSOr c p g w64 ret rd addr rs s) := by simp [execTeAtomSOr]

@[simp] theorem execTeAtomSXor_keeps (c : Chan) (p : PumpIx) (g : GSlot) (w64 ret : Bool) (rd addr rs : TReg) (s : State) :
    KeepsFuses s.fuses (execTeAtomSXor c p g w64 ret rd addr rs s) := by simp [execTeAtomSXor]

@[simp] theorem execTeAtomSExch_keeps (c : Chan) (p : PumpIx) (g : GSlot) (w64 ret : Bool) (rd addr rs : TReg) (s : State) :
    KeepsFuses s.fuses (execTeAtomSExch c p g w64 ret rd addr rs s) := by simp [execTeAtomSExch]

@[simp] theorem execTeAtomSCas_keeps (c : Chan) (p : PumpIx) (g : GSlot) (w64 ret : Bool) (rd addr rs rt : TReg) (s : State) :
    KeepsFuses s.fuses (execTeAtomSCas c p g w64 ret rd addr rs rt s) := by simp [execTeAtomSCas]

@[simp] theorem execSliceAtomicPerform_keeps (c : Chan) (p : PumpIx) (s : State) :
    KeepsFuses s.fuses (execSliceAtomicPerform c p s) := by simp [execSliceAtomicPerform]

@[simp] theorem State.fetchLoads_fuses (s : State) (c : Chan) (p : PumpIx) (g : GSlot) : (s.fetchLoads c p g).fuses = s.fuses := by
  unfold State.fetchLoads
  split
  · rfl
  · dsimp only
    rw [State.onGroup_fuses]
    refine readEach_fuses _ _ _ fun l t => ?_
    split
    · exact t.memBits_fuses c p l.chan l.off l.size
    · rfl

@[simp] theorem execLoadResult_keeps (c : Chan) (p : PumpIx) (g : GSlot) (s : State) :
    KeepsFuses s.fuses (execLoadResult c p g s) := by simp [execLoadResult]

@[simp] theorem State.atomSeen_fuses (s : State) (c : Chan) (j : SlotIx) (off : Nat) (w64 : Bool) :
    fstFuses (s.atomSeen c j off w64) = s.fuses := by simp [State.atomSeen]

@[simp] theorem State.sendAtom_fuses (s : State) (c : Chan) (p : PumpIx) (j : SlotIx) (g : GSlot) (ch : ChanAddr) (off : Nat)
    (a : AtomicRec) :
    (s.sendAtom c p j g ch off a).fuses = s.fuses := by simp [State.sendAtom]

@[simp] theorem State.laneAtom_fuses (s : State) (c : Chan) (p : PumpIx) (j : SlotIx) (g : GSlot) (lane : Fin 32) (to_ : LaneAt)
    (w64 : Bool) (op : AtomOp) (val cmp : BitVec 64) (ret : Option TReg) (ticket : Nat) :
    (s.laneAtom c p j g lane to_ w64 op val cmp ret ticket).fuses = s.fuses := by
  simp only [State.laneAtom]
  (repeat' split) <;> simp

@[simp] theorem teAtomG_keeps (op : AtomOp) (relaxed : Bool) (c : Chan) (p : PumpIx) (g : GSlot) (w64 : Bool) (ret : Option TReg)
    (addr rs : TReg) (rt : Option TReg) (s : State) :
    KeepsFuses s.fuses (teAtomG op relaxed c p g w64 ret addr rs rt s) := by
  refine KeepsFuses.ite trivial (KeepsFuses.ite rfl
    (State.teIssueIf_fuses _ _ _ _ _ _ _ _ fun k x y t => State.withLanes_fuses _ _ _ _ _ fun u => ?_))
  split <;> simp

@[simp] theorem execTeAtomGAdd_keeps (c : Chan) (p : PumpIx) (g : GSlot) (w64 ret : Bool) (rd addr rs : TReg) (s : State) :
    KeepsFuses s.fuses (execTeAtomGAdd c p g w64 ret rd addr rs s) := by simp [execTeAtomGAdd]

@[simp] theorem execTeAtomGMin_keeps (c : Chan) (p : PumpIx) (g : GSlot) (w64 ret : Bool) (rd addr rs : TReg) (s : State) :
    KeepsFuses s.fuses (execTeAtomGMin c p g w64 ret rd addr rs s) := by simp [execTeAtomGMin]

@[simp] theorem execTeAtomGMax_keeps (c : Chan) (p : PumpIx) (g : GSlot) (w64 ret : Bool) (rd addr rs : TReg) (s : State) :
    KeepsFuses s.fuses (execTeAtomGMax c p g w64 ret rd addr rs s) := by simp [execTeAtomGMax]

@[simp] theorem execTeAtomGAnd_keeps (c : Chan) (p : PumpIx) (g : GSlot) (w64 ret : Bool) (rd addr rs : TReg) (s : State) :
    KeepsFuses s.fuses (execTeAtomGAnd c p g w64 ret rd addr rs s) := by simp [execTeAtomGAnd]

@[simp] theorem execTeAtomGOr_keeps (c : Chan) (p : PumpIx) (g : GSlot) (w64 ret : Bool) (rd addr rs : TReg) (s : State) :
    KeepsFuses s.fuses (execTeAtomGOr c p g w64 ret rd addr rs s) := by simp [execTeAtomGOr]

@[simp] theorem execTeAtomGXor_keeps (c : Chan) (p : PumpIx) (g : GSlot) (w64 ret : Bool) (rd addr rs : TReg) (s : State) :
    KeepsFuses s.fuses (execTeAtomGXor c p g w64 ret rd addr rs s) := by simp [execTeAtomGXor]

@[simp] theorem execTeExchG_keeps (c : Chan) (p : PumpIx) (g : GSlot) (w64 : Bool) (rd addr rs : TReg) (s : State) :
    KeepsFuses s.fuses (execTeExchG c p g w64 rd addr rs s) := by simp [execTeExchG]

@[simp] theorem execTeCasG_keeps (c : Chan) (p : PumpIx) (g : GSlot) (w64 : Bool) (rd addr rs rt : TReg) (s : State) :
    KeepsFuses s.fuses (execTeCasG c p g w64 rd addr rs rt s) := by simp [execTeCasG]

@[simp] theorem execTeFatomAdd_keeps (c : Chan) (p : PumpIx) (g : GSlot) (sp : Space) (addr rs : TReg) (s : State) :
    KeepsFuses s.fuses (execTeFatomAdd c p g sp addr rs s) := by
  unfold execTeFatomAdd
  split <;> simp

@[simp] theorem execTeLadd_keeps (c : Chan) (p : PumpIx) (g : GSlot) (sp : Space) (lexp : BitVec 10) (addr rs : TReg) (s : State) :
    KeepsFuses s.fuses (execTeLadd c p g sp lexp addr rs s) := by
  refine KeepsFuses.ite trivial (State.teIssueIf_fuses _ _ _ _ _ _ _ _ fun k x y t => State.withLanes_fuses _ _ _ _ _ fun u => ?_)
  dsimp only
  split
  · simp
  · rfl
  · refine State.fuses_ite (by simp) ((State.onGroup_fuses ..).trans (foldl_fstFuses _ _ _ fun e acc => ?_))
    split
    · split <;> simp
    · rfl

@[simp] theorem execTeLrd_keeps (c : Chan) (p : PumpIx) (g : GSlot) (fmt : RoFmt) (lexp : BitVec 10) (rd addr : TReg) (s : State) :
    KeepsFuses s.fuses (execTeLrd c p g fmt lexp rd addr s) := by
  refine KeepsFuses.ite trivial (State.teIssue_fuses _ _ _ _ _ _ _ fun k x y t => State.withLanes_fuses _ _ _ _ _ fun u => ?_)
  dsimp only
  rw [State.onGroup_fuses]
  refine (readEach_fuses _ _ _ fun e v => ?_).trans (u.settleAtoms_fuses ..)
  exact v.laneLoad_fuses c p x e.2 32

@[simp] theorem execTeBr_keeps (c : Chan) (p : PumpIx) (g : GSlot) (rp : TReg) (target join : BitVec 13) (s : State) :
    KeepsFuses s.fuses (execTeBr c p g rp target join s) := by simp [execTeBr]

@[simp] theorem execTeJmp_keeps (c : Chan) (p : PumpIx) (g : GSlot) (target : BitVec 13) (s : State) :
    KeepsFuses s.fuses (execTeJmp c p g target s) := by simp [execTeJmp]

@[simp] theorem execTeCall_keeps (c : Chan) (p : PumpIx) (g : GSlot) (target : BitVec 13) (s : State) :
    KeepsFuses s.fuses (execTeCall c p g target s) := by simp [execTeCall]

@[simp] theorem execTeRet_keeps (c : Chan) (p : PumpIx) (g : GSlot) (s : State) : KeepsFuses s.fuses (execTeRet c p g s) := by
  simp [execTeRet]

@[simp] theorem execTeJoin_keeps (c : Chan) (p : PumpIx) (g : GSlot) (s : State) : KeepsFuses s.fuses (execTeJoin c p g s) := by
  simp [execTeJoin]

@[simp] theorem execTeExit_keeps (c : Chan) (p : PumpIx) (g : GSlot) (s : State) : KeepsFuses s.fuses (execTeExit c p g s) := by
  simp [execTeExit]

@[simp] theorem execTeBar_keeps (c : Chan) (p : PumpIx) (g : GSlot) (n : Fin 4) (s : State) :
    KeepsFuses s.fuses (execTeBar c p g n s) := by simp [execTeBar]

@[simp] theorem execTeBarK_keeps (c : Chan) (p : PumpIx) (g : GSlot) (s : State) : KeepsFuses s.fuses (execTeBarK c p g s) := by
  simp [execTeBarK]

@[simp] theorem execTeFence_keeps (c : Chan) (p : PumpIx) (g : GSlot) (s : State) : KeepsFuses s.fuses (execTeFence c p g s) := by
  simp [execTeFence]

@[simp] theorem execBarrierDivergence_keeps (c : Chan) (p : PumpIx) (g : GSlot) (s : State) :
    KeepsFuses s.fuses (execBarrierDivergence c p g s) := by
  unfold execBarrierDivergence
  split <;> simp

@[simp] theorem State.beginOp_fuses (s : State) (c : Chan) (p : PumpIx) (u : RowUnit) : (s.beginOp c p u).fuses = s.fuses := by rfl

@[simp] theorem State.endOp_fuses (s : State) (c : Chan) (p : PumpIx) (u : RowUnit) : (s.endOp c p u).fuses = s.fuses := by rfl

@[simp] theorem State.launch_fuses (s : State) (c : Chan) (p : PumpIx) : (s.launch c p).fuses = s.fuses := by
  simp only [State.launch]
  split <;> simp

@[simp] theorem execKernelLaunch_keeps (c : Chan) (p : PumpIx) (s : State) : KeepsFuses s.fuses (execKernelLaunch c p s) := by
  simp [execKernelLaunch]

@[simp] theorem State.endKernel_fuses (s : State) (c : Chan) (p : PumpIx) : (s.endKernel c p).fuses = s.fuses := by
  simp [State.endKernel]

@[simp] theorem execKernelComplete_keeps (c : Chan) (p : PumpIx) (s : State) : KeepsFuses s.fuses (execKernelComplete c p s) := by
  simp [execKernelComplete]

@[simp] theorem execOperationBegin_keeps (c : Chan) (p : PumpIx) (u : RowUnit) (s : State) :
    KeepsFuses s.fuses (execOperationBegin c p u s) := by simp [execOperationBegin]

@[simp] theorem State.endXfer_fuses (s : State) (c : Chan) (p : PumpIx) : (s.endXfer c p).fuses = s.fuses := by
  simp only [State.endXfer]
  split <;> simp

@[simp] theorem execOperationComplete_keeps (c : Chan) (p : PumpIx) (u : RowUnit) (s : State) :
    KeepsFuses s.fuses (execOperationComplete c p u s) := by
  unfold execOperationComplete
  split <;> simp

@[simp] theorem execXfrComplete_keeps (c : Chan) (p : PumpIx) (s : State) : KeepsFuses s.fuses (execXfrComplete c p s) := by
  simp [execXfrComplete]

@[simp] theorem execPumpFrameDone_keeps (c : Chan) (p : PumpIx) (s : State) : KeepsFuses s.fuses (execPumpFrameDone c p s) := by
  simp [execPumpFrameDone]

@[simp] theorem execStreamDeadlockCheck_keeps (c : Chan) (p : PumpIx) (s : State) :
    KeepsFuses s.fuses (execStreamDeadlockCheck c p s) := by simp [execStreamDeadlockCheck]

/-! ### Commands keep the fuses: flits that arrive -/

@[simp] theorem State.fecLog_fuses (s : State) (c : Chan) (fh : FlitHdr) : (s.fecLog c fh).fuses = s.fuses := by simp [State.fecLog]

@[simp] theorem State.arrive_fuses (s : State) (c : Chan) (port : PortIx) (fh : FlitHdr) (kind : Fin 4) :
    fstFuses (s.arrive c port fh kind) = s.fuses := by simp [State.arrive]

@[simp] theorem State.passOn_fuses (s : State) (c : Chan) (fh : FlitHdr) (f : OutFlit) : (s.passOn c fh f).fuses = s.fuses := by
  unfold State.passOn
  (repeat' split) <;> simp

@[simp] theorem State.flitIn_keeps (s : State) (c : Chan) (port : PortIx) (fh : FlitHdr) (kind : Fin 4) (f : OutFlit)
    (here : State → State) (hf : ∀ t, (here t).fuses = t.fuses) :
    KeepsFuses s.fuses (s.flitIn c port fh kind f here) := by
  unfold State.flitIn
  split
  · simp [fuses_of_eq ‹_ = (_, _)›]
  · rename_i t ha
    have ht : t.fuses = s.fuses := (fuses_of_eq ha).trans (s.arrive_fuses c port fh kind)
    refine KeepsFuses.ite (by simp [ht]) ?_
    extract_lets t1
    have h1 : t1.fuses = s.fuses := by
      dsimp only [t1]
      split <;> simp [ht]
    split
    · exact (hf t1).trans h1
    · simp [h1]
    · exact (hf t1).trans h1

@[simp] theorem State.takeWrite_fuses (s : State) (c : Chan) (fh : FlitHdr) (r : WriteRec) :
    fstFuses (s.takeWrite c fh r) = s.fuses := by
  simp only [State.takeWrite]
  (repeat' split) <;> simp

@[simp] theorem execWriteFlit_keeps (c : Chan) (port : PortIx) (fh : FlitHdr) (recs : List WriteRec) (s : State) :
    KeepsFuses s.fuses (execWriteFlit c port fh recs s) := by
  refine State.flitIn_keeps _ _ _ _ _ _ _ fun t => ?_
  have hn := foldl_fstFuses recs (fun (a : State × Nat) r => ((a.1.takeWrite c fh r).1, a.2 + (a.1.takeWrite c fh r).2)) (t, 0)
    fun r a => a.1.takeWrite_fuses c fh r
  dsimp only
  split <;> simp [hn]

@[simp] theorem execReadFlit_keeps (c : Chan) (port : PortIx) (fh : FlitHdr) (lines : List FabAddr) (s : State) :
    KeepsFuses s.fuses (execReadFlit c port fh lines s) := by simp [execReadFlit]

@[simp] theorem execCombineFlit_keeps (c : Chan) (port : PortIx) (fh : FlitHdr) (frame : Nat) (data : List Granule) (s : State) :
    KeepsFuses s.fuses (execCombineFlit c port fh frame data s) := by
  refine State.flitIn_keeps _ _ _ _ _ _ _ fun t => ?_
  split
  rename_i t1 n h1
  have hn : t1.fuses = t.fuses := (fuses_of_eq h1).trans (foldl_fstFuses _ _ _ fun e a => by dsimp only; split <;> simp)
  split <;> simp [hn]

@[simp] theorem State.takeAtom_fuses (s : State) (c : Chan) (fh : FlitHdr) (a : AtomicRec) :
    fstFuses (s.takeAtom c fh a) = s.fuses := by
  simp only [State.takeAtom]
  split <;> simp

@[simp] theorem execAtomicFlit_keeps (c : Chan) (port : PortIx) (fh : FlitHdr) (recs : List AtomicRec) (s : State) :
    KeepsFuses s.fuses (execAtomicFlit c port fh recs s) := by
  refine State.flitIn_keeps _ _ _ _ _ _ _ fun t => ?_
  have hn := foldl_fstFuses recs (fun (a : State × Nat) r => ((a.1.takeAtom c fh r).1, a.2 + (a.1.takeAtom c fh r).2)) (t, 0)
    fun r a => a.1.takeAtom_fuses c fh r
  dsimp only
  split <;> simp [hn]

@[simp] theorem State.atomBack_fuses (s : State) (c : Chan) (home : ChanAddr) (k : Nat) (v : Granule) :
    (s.atomBack c home k v).fuses = s.fuses := by
  simp only [State.atomBack]
  (repeat' split) <;> simp

@[simp] theorem execRdataFlit_keeps (c : Chan) (port : PortIx) (fh : FlitHdr) (data : List Granule) (s : State) :
    KeepsFuses s.fuses (execRdataFlit c port fh data s) := by
  unfold execRdataFlit
  split <;> simp

@[simp] theorem execWackFlit_keeps (c : Chan) (port : PortIx) (fh : FlitHdr) (acks : List (PumpIx)) (s : State) :
    KeepsFuses s.fuses (execWackFlit c port fh acks s) := by simp [execWackFlit]

@[simp] theorem execRespErrFlit_keeps (c : Chan) (port : PortIx) (fh : FlitHdr) (j : Option SlotIx) (hcmd : Option Hdr)
    (code : RespErr) (s : State) :
    KeepsFuses s.fuses (execRespErrFlit c port fh j hcmd code s) := by
  unfold execRespErrFlit
  (repeat' split) <;> simp

@[simp] theorem State.mcastHere_fuses (s : State) (c : Chan) (j : SlotIx) (fh : FlitHdr) (frame : Nat)
    (recs : List (ChanAddr × WriteRec)) (sums : List Granule) :
    (s.mcastHere c j fh frame recs sums).fuses = s.fuses := by
  unfold State.mcastHere
  dsimp only
  split
  · simp
  · split
    · simp
    · refine (State.each_fuses _ _ _ fun v t => State.each_fuses _ _ _ fun m u => ?_).trans (by simp)
      split <;> simp

@[simp] theorem execMcastFlit_keeps (c : Chan) (port : PortIx) (fh : FlitHdr) (frame : Nat) (recs : List (ChanAddr × WriteRec))
    (sums : List Granule) (s : State) :
    KeepsFuses s.fuses (execMcastFlit c port fh frame recs sums s) := by
  unfold execMcastFlit
  split
  · simp [fuses_of_eq ‹_ = (_, _)›]
  · split
    · simp [fuses_of_eq ‹_ = (_, _)›]
    · dsimp only
      split
      · split <;> simp [fuses_of_eq ‹_ = (_, _)›]
      · simp [fuses_of_eq ‹_ = (_, _)›]

@[simp] theorem execReduceFlit_keeps (c : Chan) (port : PortIx) (fh : FlitHdr) (ledgers : List Granule) (s : State) :
    KeepsFuses s.fuses (execReduceFlit c port fh ledgers s) := by
  unfold execReduceFlit
  split <;> simp [fuses_of_eq ‹_ = (_, _)›]

@[simp] theorem State.moduleSeen_fuses (s : State) (c : Chan) (port : PortIx) (m : ModRecord) :
    (s.moduleSeen c port m).fuses = s.fuses := by simp [State.moduleSeen]

@[simp] theorem State.mgmtHere_fuses (s : State) (c : Chan) (fh : FlitHdr) (x : MgmtRec) : (s.mgmtHere c fh x).fuses = s.fuses := by
  unfold State.mgmtHere
  (repeat' split) <;> simp

@[simp] theorem execMgmtFlit_keeps (c : Chan) (port : PortIx) (fh : FlitHdr) (rec : MgmtRec) (s : State) :
    KeepsFuses s.fuses (execMgmtFlit c port fh rec s) := by
  unfold execMgmtFlit
  split
  · simp [fuses_of_eq ‹_ = (_, _)›]
  · rename_i t ht
    have ht : t.fuses = s.fuses := (fuses_of_eq ht).trans (s.arrive_fuses ..)
    split
    · simp [ht]
    · exact State.fuses_ite (by simp [ht]) (by simp [ht])

@[simp] theorem execCtrlFlit_keeps (c : Chan) (port : PortIx) (info : CtrlInfo) (s : State) :
    KeepsFuses s.fuses (execCtrlFlit c port info s) := by simp [execCtrlFlit]

@[simp] theorem execUnknownFlit_keeps (c : Chan) (port : PortIx) (_ty : BitVec 4) (s : State) :
    KeepsFuses s.fuses (execUnknownFlit c port _ty s) := by simp [execUnknownFlit]

/-! ### Commands keep the fuses: wells, rings and host links -/

@[simp] theorem State.msix_fuses (s : State) (fn vec : Nat) : (s.msix fn vec).fuses = s.fuses := by simp [State.msix]

@[simp] theorem execMsixVectorUnmask_keeps (fn vec : Nat) (s : State) : KeepsFuses s.fuses (execMsixVectorUnmask fn vec s) := by
  simp [execMsixVectorUnmask]

@[simp] theorem execDoorbell_keeps (ctx loc bytes : Nat) (v : BitVec 64) (s : State) :
    KeepsFuses s.fuses (execDoorbell ctx loc bytes v s) := by
  unfold execDoorbell
  split <;> simp

@[simp] theorem State.admDoorbell_fuses (s : State) (fn : Nat) (v : BitVec 64) : (s.admDoorbell fn v).fuses = s.fuses := by rfl

@[simp] theorem execAdminDoorbell_keeps (fn : Nat) (v : BitVec 64) (s : State) : KeepsFuses s.fuses (execAdminDoorbell fn v s) := by
  simp [execAdminDoorbell]

@[simp] theorem State.admWrite_fuses (s : State) (fn : Nat) (cq : Bool) (v : BitVec 64) : (s.admWrite fn cq v).fuses = s.fuses := by
  rfl

@[simp] theorem execMcAdmRingWrite_keeps (fn : Nat) (cq : Bool) (v : BitVec 64) (s : State) :
    KeepsFuses s.fuses (execMcAdmRingWrite fn cq v s) := by simp [execMcAdmRingWrite]

@[simp] theorem execDescriptorFetch_keeps (ring : RingId) (d : BitVec 512) (s : State) :
    KeepsFuses s.fuses (execDescriptorFetch ring d s) := by
  unfold execDescriptorFetch
  split <;> simp

theorem State.begin_fuses (s : State) (h : Hdr) (opc : Nat) : KeepsIfSome s.fuses (s.begin h opc) := by
  unfold State.begin
  split
  · exact KeepsIfSome.none
  · split
    · exact KeepsIfSome.none
    · split
      · exact KeepsIfSome.some (s.onRing_fuses ..)
      · exact KeepsIfSome.none

@[simp] theorem State.cmd_keeps (s : State) (h : Hdr) (opc : Nat) (f : State → State) (hf : ∀ t, (f t).fuses = t.fuses) :
    KeepsFuses s.fuses (s.cmd h opc f) := by
  unfold State.cmd
  split
  · exact (hf _).trans (State.begin_fuses s h opc _ ‹_›)
  · rfl

@[simp] theorem execCompletionWrite_keeps (ring : RingId) (s : State) : KeepsFuses s.fuses (execCompletionWrite ring s) := by
  unfold execCompletionWrite
  (repeat' split) <;> simp

@[simp] theorem execInterruptTimer_keeps (ring : RingId) (s : State) : KeepsFuses s.fuses (execInterruptTimer ring s) := by
  unfold execInterruptTimer
  split <;> simp

@[simp] theorem execCtxCreate_keeps (h : Hdr) (home : Chan) (pasid : BitVec 20) (pasidEn : Bool) (s : State) :
    KeepsFuses s.fuses (execCtxCreate h home pasid pasidEn s) := by
  refine State.cmd_keeps _ _ _ _ fun t => ?_
  dsimp only
  split
  · simp
  · split
    · simp
    · split <;> simp

@[simp] theorem State.cancelPlacing_fuses (s : State) (ctx job : Nat) : (s.cancelPlacing ctx job).fuses = s.fuses := by
  unfold State.cancelPlacing
  split <;> simp

@[simp] theorem State.destroyCtx_fuses (s : State) (ctx : Nat) (h : Option Hdr) : (s.destroyCtx ctx h).fuses = s.fuses := by
  refine (State.endCtx_fuses _ _).trans ((foldl_fuses _ _ _ fun e t => ?_).trans (by simp))
  dsimp only
  split <;> simp

@[simp] theorem execCtxDestroy_keeps (h : Hdr) (ctx : Nat) (force : Bool) (s : State) :
    KeepsFuses s.fuses (execCtxDestroy h ctx force s) := by simp [execCtxDestroy]

@[simp] theorem State.resetFn_fuses (s : State) (fn : Nat) : (s.resetFn fn).fuses = s.fuses :=
  foldl_fuses _ _ _ fun e t => t.destroyCtx_fuses e.1 none

@[simp] theorem execFlrVf_keeps (vf : Nat) (s : State) : KeepsFuses s.fuses (execFlrVf vf s) := by simp [execFlrVf]

@[simp] theorem execFlrPf_keeps (s : State) : KeepsFuses s.fuses (execFlrPf s) := by
  simp [execFlrPf, foldl_fuses _ State.resetFn s fun fn t => t.resetFn_fuses fn]

@[simp] theorem execVfEnable_keeps (n : Nat) (s : State) : KeepsFuses s.fuses (execVfEnable n s) := by
  simp [execVfEnable, foldl_fuses _ State.resetFn s fun fn t => t.resetFn_fuses fn]

@[simp] theorem execWellCreate_keeps (h : Hdr) (ctx : Nat) (w : WellParams) (s : State) :
    KeepsFuses s.fuses (execWellCreate h ctx w s) := by
  refine State.cmd_keeps _ _ _ _ fun t => ?_
  split
  · simp
  · refine State.fuses_ite (by simp) (State.fuses_ite (by simp) (State.fuses_ite (by simp) ?_))
    split <;> simp

@[simp] theorem execWellDestroy_keeps (h : Hdr) (ctx w : Nat) (s : State) : KeepsFuses s.fuses (execWellDestroy h ctx w s) :=
  State.cmd_keeps _ _ _ _ fun t => by split <;> simp

@[simp] theorem execWellResume_keeps (h : Hdr) (ctx w : Nat) (s : State) : KeepsFuses s.fuses (execWellResume h ctx w s) :=
  State.cmd_keeps _ _ _ _ fun t => by split <;> simp

@[simp] theorem execHostLinkReset_keeps (s : State) : KeepsFuses s.fuses (execHostLinkReset s) := by simp [execHostLinkReset]

@[simp] theorem execHostLinkUp_keeps (gen : BitVec 3) (width : BitVec 4) (flit refclk : Bool) (s : State) :
    KeepsFuses s.fuses (execHostLinkUp gen width flit refclk s) := by simp [execHostLinkUp]

/-! ### Commands keep the fuses: allocations -/

@[simp] theorem execAlloc_keeps (h : Hdr) (a : AllocParams) (s : State) : KeepsFuses s.fuses (execAlloc h a s) := by
  refine State.cmd_keeps _ _ _ _ fun t => ?_
  dsimp only
  split
  · simp
  · split
    · simp
    · split
      · split <;> simp
      · simp

@[simp] theorem execMapHost_keeps (h : Hdr) (hva size dva : Nat) (rights : BitVec 2) (s : State) :
    KeepsFuses s.fuses (execMapHost h hva size dva rights s) := by
  refine State.cmd_keeps _ _ _ _ fun t => ?_
  dsimp only
  split
  · simp
  · split
    · simp
    · split <;> simp

@[simp] theorem execFree_keeps (h : Hdr) (handle : Nat) (s : State) : KeepsFuses s.fuses (execFree h handle s) := by
  refine State.cmd_keeps _ _ _ _ fun t => ?_
  dsimp only
  split
  · simp
  · split
    · simp
    · split <;> simp

@[simp] theorem execDescCreate_keeps (h : Hdr) (d : BitVec 512) (s : State) : KeepsFuses s.fuses (execDescCreate h d s) := by
  refine State.cmd_keeps _ _ _ _ fun t => ?_
  dsimp only
  split
  · simp
  · refine State.fuses_ite (by simp) ?_
    split <;> simp

@[simp] theorem execDescDestroy_keeps (h : Hdr) (handle : Nat) (s : State) : KeepsFuses s.fuses (execDescDestroy h handle s) :=
  State.cmd_keeps _ _ _ _ fun t => by split <;> simp

@[simp] theorem execAtsInvalidation_keeps (ctx hva size : Nat) (s : State) :
    KeepsFuses s.fuses (execAtsInvalidation ctx hva size s) := by simp [execAtsInvalidation]

@[simp] theorem execAtsTranslationCompletion_keeps (ok : Bool) (j : Option (Chan × SlotIx)) (hcmd : Option Hdr) (s : State) :
    KeepsFuses s.fuses (execAtsTranslationCompletion ok j hcmd s) := by
  unfold execAtsTranslationCompletion
  (repeat' split) <;> simp

@[simp] theorem execApertureRead_keeps (off bytes : Nat) (s : State) : KeepsFuses s.fuses (execApertureRead off bytes s) := by
  simp [execApertureRead]

@[simp] theorem execApertureWrite_keeps (off : Nat) (data : List (BitVec 8)) (s : State) :
    KeepsFuses s.fuses (execApertureWrite off data s) := by
  unfold execApertureWrite
  extract_lets grans
  refine (keepsFuses_onlyIf ..).2 (State.fuses_ite (State.each_fuses _ _ _ fun o t => ?_) rfl)
  split
  · exact t.putAt_fuses _ _ _ _
  · rfl

/-! ### Commands keep the fuses: arbitration -/

@[simp] theorem State.cutOff_fuses (s : State) (c : Chan) (port : ArbPort) (q : Req) : (s.cutOff c port q).fuses = s.fuses := by
  unfold State.cutOff
  split <;> simp

@[simp] theorem execBurstBoundary_keeps (c : Chan) (port : ArbPort) (s : State) :
    KeepsFuses s.fuses (execBurstBoundary c port s) := by
  simp only [execBurstBoundary]
  (repeat' split) <;> simp

@[simp] theorem execOverdue_keeps (c : Chan) (port : ArbPort) (req : Nat) (s : State) :
    KeepsFuses s.fuses (execOverdue c port req s) := by
  unfold execOverdue
  split <;> simp

@[simp] theorem execMasterPortRelease_keeps (c : Chan) (cls : ReqClass) (j : SlotIx) (s : State) :
    KeepsFuses s.fuses (execMasterPortRelease c cls j s) := by
  simp only [execMasterPortRelease]
  (repeat' split) <;> simp

@[simp] theorem execArbFreezeHbm_keeps (c : Chan) (st : StackIx) (v : BitVec 32) (s : State) :
    KeepsFuses s.fuses (execArbFreezeHbm c st v s) := by simp [execArbFreezeHbm]

@[simp] theorem execArbFreezeLnk_keeps (c : Chan) (v : BitVec 32) (s : State) : KeepsFuses s.fuses (execArbFreezeLnk c v s) := by
  simp [execArbFreezeLnk]

/-! ### Commands keep the fuses: copies that the host asks for -/

@[simp] theorem hostRead_keeps : Reader.KeepsFuses hostRead := by
  intro t ch k
  unfold hostRead
  split <;> simp

@[simp] theorem State.inputGot_fuses (s : State) (c : Chan) (j : SlotIx) (input frame bytes : Nat) :
    (s.inputGot c j input frame bytes).fuses = s.fuses := by
  simp only [State.inputGot]
  (repeat' split) <;> simp

@[simp] theorem State.sendAway_fuses (s : State) (h : Hdr) (rset : BitVec 2) (bytes : Nat) (rs : List (ChanAddr × Nat × WriteRec)) :
    (s.sendAway h rset bytes rs).fuses = s.fuses := by simp [State.sendAway]

@[simp] theorem State.writeFree_fuses (s : State) (h : Hdr) (bytes : Nat) (m : Bytes) :
    (s.writeFree h bytes m).fuses = s.fuses := by
  unfold State.writeFree
  dsimp only
  rw [State.sendAway_fuses]
  refine (State.each_fuses _ _ _ fun e t => ?_).trans (s.hostBursts_fuses _)
  split <;> simp

@[simp] theorem State.writeBound_fuses (s : State) (h : Hdr) (ctx job input frame : Nat) (rset : BitVec 2) (bytes : Nat) (m : Bytes)
    :
    (s.writeBound h ctx job input frame rset bytes m).fuses = s.fuses := by
  unfold State.writeBound
  dsimp only
  rw [State.sendAway_fuses]
  refine State.each_fuses _ _ _ fun e t => ?_
  split
  · rfl
  · split <;> simp

@[simp] theorem State.hostDropped_fuses (s : State) (ctx : Nat) (job : Option Nat) (n : Nat) :
    (s.hostDropped ctx job n).fuses = s.fuses := by
  unfold State.hostDropped
  split <;> simp

@[simp] theorem State.copyWrite_fuses (s : State) (h : Hdr) (ctx : Nat) (owner : Option (Nat × Job)) (b : Option (Nat × Nat × Nat))
    (fromHost : Bool) (ws : WriteSet) :
    (s.copyWrite h ctx owner b fromHost ws).fuses = s.fuses := by
  unfold State.copyWrite
  split <;> simp

@[simp] theorem State.giveHost_fuses (s : State) (h : Hdr) (addr len : Nat) (bs : List (BitVec 8)) :
    (s.giveHost h addr len bs).fuses = s.fuses := by simp [State.giveHost]

@[simp] theorem State.hostCombine_fuses (s : State) (h : Hdr) (ctx job input frame : Nat) (rset : BitVec 2) (src : View)
    (sw : Window) (dst : View) (dw : Window) :
    fstFuses (s.hostCombine h ctx job input frame rset src sw dst dw) = s.fuses := by
  unfold State.hostCombine
  split
  rename_i s1 vs h1
  refine (foldl_fstFuses _ _ _ fun e acc => ?_).trans ((fuses_of_eq h1).trans (View.readScalars_fuses _ _ _ _ hostRead_keeps))
  split
  · simp
  · split
    · split <;> simp
    · rfl
    · simp

@[simp] theorem State.hostDead_fuses (s : State) (ctx : Nat) (owner : Option (Nat × Job)) (b : Option (Nat × Nat × Nat)) (w : View)
    (win : Window) :
    fstFuses (s.hostDead ctx owner b w win) = s.fuses := by
  refine foldl_fstFuses _ _ _ fun e acc => ?_
  split
  · split <;> simp
  · simp
  · simp

@[simp] theorem State.runCopy_fuses (s : State) (h : Hdr) (ctx : Nat) (op : CopyOp) (k : CopyParams) (src : Option HostSide)
    (dst : HostSide) :
    (s.runCopy h ctx op k src dst).fuses = s.fuses := by
  unfold State.runCopy
  extract_lets owner sr s0 s1 put
  have h0 : s0.fuses = s.fuses := State.fuses_ite rfl rfl
  have h1 : s1.fuses = s.fuses := by
    dsimp only [s1]
    split <;> simp [h0]
  have hput : ∀ b r, (put b r).fuses = r.1.fuses := fun b r => by simp [put]
  have hrd : hostRead.KeepsFuses := hostRead_keeps
  split
  · simp [hput, h1]
  · simp [hput, h1, copyViews_fuses _ _ _ _ _ _ _ hrd]
  · simp [h1, View.pack_fuses _ _ _ _ hrd]
  · simp [hput, h1, transposeViews_fuses _ _ _ _ _ _ _ hrd]
  · split <;> simp [h1]
  · simp [hput, h1, readoutViews_fuses _ _ _ _ _ _ _ hrd]
  · simp [h1, View.packReadout_fuses _ _ _ _ _ hrd]
  · simp [h1]
  · simp [h1]

@[simp] theorem State.hostCopy_keeps (s : State) (h : Hdr) (op : CopyOp) (k : CopyParams) :
    KeepsFuses s.fuses (s.hostCopy h op k) := by
  refine State.cmd_keeps _ _ _ _ fun t => ?_
  dsimp only
  split
  · split <;> simp
  · simp

@[simp] theorem execCopy_keeps (h : Hdr) (k : CopyParams) (s : State) : KeepsFuses s.fuses (execCopy h k s) := by simp [execCopy]

@[simp] theorem execCopyTcopy_keeps (h : Hdr) (k : CopyParams) (s : State) : KeepsFuses s.fuses (execCopyTcopy h k s) := by
  simp [execCopyTcopy]

@[simp] theorem execCopyCombine_keeps (h : Hdr) (k : CopyParams) (s : State) : KeepsFuses s.fuses (execCopyCombine h k s) := by
  simp [execCopyCombine]

@[simp] theorem execCopyReadout_keeps (h : Hdr) (k : CopyParams) (s : State) : KeepsFuses s.fuses (execCopyReadout h k s) := by
  simp [execCopyReadout]

@[simp] theorem execCopyDead_keeps (h : Hdr) (k : CopyParams) (s : State) : KeepsFuses s.fuses (execCopyDead h k s) := by
  simp [execCopyDead]

@[simp] theorem execHostDataReceipt_keeps (c : Chan) (j : SlotIx) (input : Nat) (frame : Nat) (recs : List WriteRec) (s : State) :
    KeepsFuses s.fuses (execHostDataReceipt c j input frame recs s) := by
  unfold execHostDataReceipt
  dsimp only
  split
  · rfl
  · refine KeepsFuses.ite rfl ?_
    exact (foldl_fuses _ _ _ fun k t => by simp).trans (by simp)

/-! ### Commands keep the fuses: images and starts -/

@[simp] theorem execLoadImage_keeps (h : Hdr) (im : JobImage) (s : State) : KeepsFuses s.fuses (execLoadImage h im s) := by
  refine State.cmd_keeps _ _ _ _ fun t => ?_
  dsimp only
  split
  · simp
  · split
    · simp
    · split <;> simp

@[simp] theorem execStart_keeps (h : Hdr) (image : Nat) (pol : BitVec 256) (s : State) :
    KeepsFuses s.fuses (execStart h image pol s) := by
  refine KeepsFuses.ite rfl (State.cmd_keeps _ _ _ _ fun t => ?_)
  dsimp only
  split
  · split
    · split
      · simp
      · split <;> simp
    · simp
  · simp

/-! ### Commands keep the fuses: modes of the module -/

@[simp] theorem State.modeNote_fuses (s : State) : (s.modeNote).fuses = s.fuses := by rfl

@[simp] theorem execMcOpModeWrite_keeps (v : BitVec 32) (s : State) : KeepsFuses s.fuses (execMcOpModeWrite v s) := by
  simp [execMcOpModeWrite]

@[simp] theorem State.modeErr_fuses (s : State) : (s.modeErr).fuses = s.fuses := by rfl

@[simp] theorem State.intoEff_fuses (s : State) (c : Chan) : (s.intoEff c).fuses = s.fuses := by rfl

@[simp] theorem State.outOfEff_fuses (s : State) (c : Chan) : (s.outOfEff c).fuses = s.fuses := by simp [State.outOfEff]

@[simp] theorem execModeChangeReceipt_keeps (c : Chan) (s : State) : KeepsFuses s.fuses (execModeChangeReceipt c s) := by
  simp [execModeChangeReceipt]

@[simp] theorem execRailSettled_keeps (c : Chan) (s : State) : KeepsFuses s.fuses (execRailSettled c s) := by simp [execRailSettled]

@[simp] theorem execVoltageConfirmed_keeps (c : Chan) (s : State) : KeepsFuses s.fuses (execVoltageConfirmed c s) := by
  simp [execVoltageConfirmed]

@[simp] theorem execVoltageConfirmTimeout_keeps (c : Chan) (s : State) : KeepsFuses s.fuses (execVoltageConfirmTimeout c s) := by
  simp [execVoltageConfirmTimeout]

@[simp] theorem execModeRetry_keeps (c : Chan) (s : State) : KeepsFuses s.fuses (execModeRetry c s) := by simp [execModeRetry]

@[simp] theorem execBudgetComputation_keeps (inputW : Nat) (s : State) : KeepsFuses s.fuses (execBudgetComputation inputW s) := by
  simp [execBudgetComputation]

@[simp] theorem execGnoverReset_keeps (s : State) : KeepsFuses s.fuses (execGnoverReset s) := by rfl

@[simp] theorem execGnoverResetComplete_keeps (s : State) : KeepsFuses s.fuses (execGnoverResetComplete s) := by rfl

/-! ### Commands keep the fuses: power and heat -/

@[simp] theorem execDroopSample_keeps (c : Chan) (mv : Nat) (s : State) : KeepsFuses s.fuses (execDroopSample c mv s) := by
  simp [execDroopSample]

@[simp] theorem State.railDown_fuses (s : State) (c : Chan) (rail : Fin 4) (n : Nat) : (s.railDown c rail n).fuses = s.fuses := by
  simp [State.railDown]

@[simp] theorem execRailFault_keeps (c : Chan) (rail : Fin 4) (phase : Option Nat) (s : State) :
    KeepsFuses s.fuses (execRailFault c rail phase s) := by
  unfold execRailFault
  split <;> simp

@[simp] theorem execPhaseLoss_keeps (c : Chan) (phase : Fin 24) (s : State) : KeepsFuses s.fuses (execPhaseLoss c phase s) := by
  simp [execPhaseLoss]

@[simp] theorem execBudgetController_keeps (c : Chan) (avgW avgA : Nat) (s : State) :
    KeepsFuses s.fuses (execBudgetController c avgW avgA s) := by rfl

@[simp] theorem execPolderSleep_keeps (c : Chan) (pd : PolderIx) (s : State) : KeepsFuses s.fuses (execPolderSleep c pd s) := by
  unfold execPolderSleep
  split <;> simp

@[simp] theorem execPowerUpSlot_keeps (c : Chan) (pd : PolderIx) (s : State) : KeepsFuses s.fuses (execPowerUpSlot c pd s) := by
  unfold execPowerUpSlot
  split <;> simp

@[simp] theorem execRampStart_keeps (c : Chan) (s : State) : KeepsFuses s.fuses (execRampStart c s) := by
  simp only [execRampStart]
  split <;> simp

@[simp] theorem State.rampOn_fuses (s : State) (c : Chan) (pd : PolderIx) : (s.rampOn c pd).fuses = s.fuses := by
  simp only [State.rampOn]
  split <;> simp

@[simp] theorem execRampStep_keeps (c : Chan) (s : State) : KeepsFuses s.fuses (execRampStep c s) := by
  simp only [execRampStep]
  split <;> simp

@[simp] theorem State.criticalShutdown_fuses (s : State) (c : Chan) (unit sensor : Nat) (eff raw : Int) (st : Option StackIx) :
    (s.criticalShutdown c unit sensor eff raw st).fuses = s.fuses := by simp [State.criticalShutdown]

@[simp] theorem State.samplePolder_fuses (s : State) (c : Chan) (pd : PolderIx) (pumpDie cisDie : List Int) (stale : List Nat) :
    (s.samplePolder c pd pumpDie cisDie stale).fuses = s.fuses := by simp [State.samplePolder]

@[simp] theorem State.sampleStack_fuses (s : State) (c : Chan) (st : StackIx) (degC : Nat) :
    (s.sampleStack c st degC).fuses = s.fuses := by simp [State.sampleStack]

@[simp] theorem execTemperatureSample_keeps (c : Chan) (t : TempSample) (s : State) :
    KeepsFuses s.fuses (execTemperatureSample c t s) := by
  unfold execTemperatureSample
  split <;> simp

@[simp] theorem execOscillatorCompensation_keeps (wantPpb : Int) (s : State) :
    KeepsFuses s.fuses (execOscillatorCompensation wantPpb s) := by rfl

@[simp] theorem execBandgapCorrection_keeps (c : Chan) (trim : Int) (s : State) :
    KeepsFuses s.fuses (execBandgapCorrection c trim s) := by rfl

@[simp] theorem execSensorCalibration_keeps (c : Chan) (sensor : Fin 96) (movedMv : Nat) (s : State) :
    KeepsFuses s.fuses (execSensorCalibration c sensor movedMv s) := by simp [execSensorCalibration]

@[simp] theorem execPwrCfgWrite_keeps (c : Chan) (v : BitVec 32) (s : State) : KeepsFuses s.fuses (execPwrCfgWrite c v s) := by
  simp [execPwrCfgWrite]

/-! ### Commands keep the fuses: scrubs, refresh and training -/

@[simp] theorem State.scrubKey_fuses (s : State) (c : Chan) (k : Nat) (wb : Bool) : fstFuses (s.scrubKey c k wb) = s.fuses := by
  simp only [State.scrubKey]
  (repeat' split) <;> simp

@[simp] theorem State.scrubLine_fuses (s : State) (c : Chan) (p : PumpIx) (g : Nat) (err : CodeWord) (wb : Bool) :
    fstFuses (s.scrubLine c p g err wb) = s.fuses := by
  simp only [State.scrubLine]
  (repeat' split) <;> simp

@[simp] theorem State.setHeldUp_fuses (s : State) (c : Chan) (p : PumpIx) (w : CodeWord) (x : HeldPlace) :
    (s.setHeldUp c p w x).fuses = s.fuses := by
  unfold State.setHeldUp
  split <;> simp

@[simp] theorem State.scrubHeld_fuses (s : State) (c : Chan) (p : PumpIx) (g : Nat) (err : CodeWord) (wb : Bool) :
    fstFuses (s.scrubHeld c p g err wb) = s.fuses := by
  simp only [State.scrubHeld]
  (repeat' split) <;> simp

@[simp] theorem State.upset_fuses (s : State) (c : Chan) (k : Nat) (err : CodeWord) : (s.upset c k err).fuses = s.fuses := by
  unfold State.upset
  (repeat' split) <;> simp

@[simp] theorem State.scrubAt_fuses (s : State) (c : Chan) (hbm : Bool) (unit g : Nat) (err : CodeWord) (wb : Bool) :
    fstFuses (s.scrubAt c hbm unit g err wb) = s.fuses := by
  unfold State.scrubAt
  (repeat' split) <;> simp

@[simp] theorem execScrubStep_keeps (c : Chan) (hbm : Bool) (unit : Nat) (gran : Nat) (err : BitVec 288) (s : State) :
    KeepsFuses s.fuses (execScrubStep c hbm unit gran err s) := by simp [execScrubStep]

@[simp] theorem execScrubWindow_keeps (c : Chan) (s : State) : KeepsFuses s.fuses (execScrubWindow c s) := by rfl

@[simp] theorem State.startPass_fuses (s : State) (c : Chan) (hbm : Bool) (unit start count : Nat) (wb : Bool)
    (cmd : Option (Hdr × Nat × Nat)) :
    (s.startPass c hbm unit start count wb cmd).fuses = s.fuses := by rfl

@[simp] theorem execScrubRangeGo_keeps (c : Chan) (v : BitVec 32) (s : State) : KeepsFuses s.fuses (execScrubRangeGo c v s) := by
  simp [execScrubRangeGo]

@[simp] theorem execScrubPassComplete_keeps (c : Chan) (s : State) : KeepsFuses s.fuses (execScrubPassComplete c s) := by
  unfold execScrubPassComplete
  refine KeepsFuses.ite ?_ rfl
  dsimp only
  split <;> simp

@[simp] theorem execRefresh_keeps (c : Chan) (st : StackIx) (s : State) : KeepsFuses s.fuses (execRefresh c st s) := by rfl

@[simp] theorem execHbmReadRecentre_keeps (c : Chan) (s : State) : KeepsFuses s.fuses (execHbmReadRecentre c s) := by
  simp [execHbmReadRecentre]

@[simp] theorem execHbmTrainingComplete_keeps (c : Chan) (st : StackIx) (rate : BitVec 2) (pcUp : BitVec 32) (s : State) :
    KeepsFuses s.fuses (execHbmTrainingComplete c st rate pcUp s) := by simp [execHbmTrainingComplete]

/-! ### Commands keep the fuses: commands of a job -/

@[simp] theorem State.jobCmd_keeps (s : State) (h : Hdr) (opc job : Nat) (f : State → Nat → Job → State)
    (hf : ∀ a b t, (f t a b).fuses = t.fuses) :
    KeepsFuses s.fuses (s.jobCmd h opc job f) := by
  refine State.cmd_keeps _ _ _ _ fun t => ?_
  split
  · split
    · exact hf _ _ t
    · simp
  · simp

@[simp] theorem execCheckpoint_keeps (h : Hdr) (job : Nat) (s : State) : KeepsFuses s.fuses (execCheckpoint h job s) := by
  simp [execCheckpoint]

@[simp] theorem execStop_keeps (h : Hdr) (job : Nat) (ckpt : Bool) (s : State) : KeepsFuses s.fuses (execStop h job ckpt s) := by
  simp [execStop]

@[simp] theorem execUrgent_keeps (h : Hdr) (entry : BitVec 8) (len : Nat) (args : BitVec 320) (s : State) :
    KeepsFuses s.fuses (execUrgent h entry len args s) := by
  refine State.cmd_keeps _ _ _ _ fun t => ?_
  dsimp only
  split
  · simp
  · split
    · simp
    · split
      · (repeat' split) <;> simp
      · simp

@[simp] theorem execStage_keeps (h : Hdr) (job : Nat) (member : BitVec 15) (off : BitVec 22) (v mask : BitVec 64) (s : State) :
    KeepsFuses s.fuses (execStage h job member off v mask s) := by
  refine State.jobCmd_keeps _ _ _ _ _ fun ctx jb t => ?_
  dsimp only
  split
  · simp
  · split
    · simp
    · refine State.fuses_ite (by simp) (State.fuses_ite (by simp) ?_)
      rw [State.complete_fuses]
      refine State.blockWrite_fuses _ _ _ fun u => State.each_fuses _ _ _ fun e x => ?_
      split <;> simp

@[simp] theorem execCheck_keeps (h : Hdr) (job : Nat) (tag : BitVec 8) (s : State) :
    KeepsFuses s.fuses (execCheck h job tag s) := by
  refine State.jobCmd_keeps _ _ _ _ _ fun ctx jb t => ?_
  simp

@[simp] theorem execCommit_keeps (h : Hdr) (job : Nat) (tag : BitVec 8) (s : State) :
    KeepsFuses s.fuses (execCommit h job tag s) := by
  refine State.jobCmd_keeps _ _ _ _ _ fun ctx jb t => ?_
  dsimp only
  (repeat' split) <;> simp

/-! ### Commands keep the fuses: queries of the host -/

@[simp] theorem State.respond_fuses (s : State) (h : Hdr) (buf len : Nat) (bytes : List (BitVec 8)) :
    (s.respond h buf len bytes).fuses = s.fuses := by simp [State.respond]

@[simp] theorem execQueryIdentity_keeps (h : Hdr) (buf len : Nat) (s : State) :
    KeepsFuses s.fuses (execQueryIdentity h buf len s) := by simp [execQueryIdentity]

@[simp] theorem execQueryJob_keeps (h : Hdr) (job buf len : Nat) (s : State) : KeepsFuses s.fuses (execQueryJob h job buf len s) := by
  simp [execQueryJob]

@[simp] theorem execQueryCounters_keeps (h : Hdr) (job buf len : Nat) (s : State) :
    KeepsFuses s.fuses (execQueryCounters h job buf len s) := by simp [execQueryCounters]

@[simp] theorem execQueryFabricMap_keeps (h : Hdr) (buf len : Nat) (s : State) :
    KeepsFuses s.fuses (execQueryFabricMap h buf len s) := by simp [execQueryFabricMap]

@[simp] theorem execQueryBlackBox_keeps (h : Hdr) (c : Chan) (buf len : Nat) (s : State) :
    KeepsFuses s.fuses (execQueryBlackBox h c buf len s) := by simp [execQueryBlackBox]

@[simp] theorem execQueryScrub_keeps (h : Hdr) (c : Chan) (range : BitVec 128) (buf len : Nat) (s : State) :
    KeepsFuses s.fuses (execQueryScrub h c range buf len s) := by simp [execQueryScrub]

@[simp] theorem execQueryAttest_keeps (h : Hdr) (nonce : BitVec 256) (buf len : Nat) (s : State) :
    KeepsFuses s.fuses (execQueryAttest h nonce buf len s) := by simp [execQueryAttest]

/-! ### Commands keep the fuses: startup and firmware -/

@[simp] theorem State.chooseFw_fuses (s : State) (g : FwImage) : (s.chooseFw g).fuses = s.fuses := by
  simp only [State.chooseFw]
  (repeat' split) <;> simp

@[simp] theorem State.powerUp_fuses (s : State) : (s.powerUp).fuses = s.fuses := by simp [State.powerUp]

@[simp] theorem State.runGfw_fuses (s : State) (b : Bool) (im : FwImage) : (s.runGfw b im).fuses = s.fuses := by simp [State.runGfw]

@[simp] theorem State.boot_fuses (s : State) : (s.boot).fuses = s.fuses := by
  simp only [State.boot]
  split <;> simp

@[simp] theorem State.allCaps_fuses (s : State) : (s.allCaps).fuses = s.fuses := by simp [State.allCaps]

@[simp] theorem execPowerOn_keeps (mainOk listOk : Bool) (s : State) : KeepsFuses s.fuses (execPowerOn mainOk listOk s) := by
  simp [execPowerOn]

@[simp] theorem State.channelStarts_fuses (s : State) (c : Chan) : (s.channelStarts c).fuses = s.fuses := by
  simp [State.channelStarts]

@[simp] theorem execCsmDigestReport_keeps (c : Chan) (digest : BitVec 256) (s : State) :
    KeepsFuses s.fuses (execCsmDigestReport c digest s) := by simp [execCsmDigestReport]

@[simp] theorem State.moduleReset_fuses (s : State) (auxOk resetLow : Bool) : (s.moduleReset auxOk resetLow).fuses = s.fuses := by
  rfl

@[simp] theorem execModResetN_keeps (level : Bool) (s : State) : KeepsFuses s.fuses (execModResetN level s) := by
  simp [execModResetN]

@[simp] theorem execAuxInputLoss_keeps (s : State) : KeepsFuses s.fuses (execAuxInputLoss s) := by rfl

@[simp] theorem State.pwrOkLow_fuses (s : State) : (s.pwrOkLow).fuses = s.fuses := by simp [State.pwrOkLow]

@[simp] theorem State.mainLost_fuses (s : State) (st : MainState) : (s.mainLost st).fuses = s.fuses := by simp [State.mainLost]

@[simp] theorem State.excursion_fuses (s : State) : (s.excursion).fuses = s.fuses := by simp [State.excursion]

@[simp] theorem execMainOvervoltage_keeps (s : State) : KeepsFuses s.fuses (execMainOvervoltage s) := by simp [execMainOvervoltage]

@[simp] theorem execMainInputSample_keeps (mv watts : Nat) (s : State) : KeepsFuses s.fuses (execMainInputSample mv watts s) := by
  simp [execMainInputSample]

@[simp] theorem execMainInputRestored_keeps (s : State) : KeepsFuses s.fuses (execMainInputRestored s) := by
  simp only [execMainInputRestored]
  split <;> simp

@[simp] theorem State.mgmt_keeps (s : State) (f : State → State) (hf : ∀ t, (f t).fuses = t.fuses) :
    KeepsFuses s.fuses (s.mgmt f) := by simp [State.mgmt, hf]

@[simp] theorem State.accepted_fuses (s : State) (ok : Bool) (f : State → State) (hf : ∀ t, (f t).fuses = t.fuses) :
    (s.accepted ok f).fuses = s.fuses := by simp [State.accepted, hf]

@[simp] theorem execReadSensor_keeps (c : Chan) (s : State) : KeepsFuses s.fuses (execReadSensor c s) := by simp [execReadSensor]

@[simp] theorem execFwWrite_keeps (im : FwImage) (s : State) : KeepsFuses s.fuses (execFwWrite im s) := by simp [execFwWrite]

@[simp] theorem execFwActivate_keeps (kind : FwKind) (bankB : Bool) (s : State) :
    KeepsFuses s.fuses (execFwActivate kind bankB s) := by simp [execFwActivate]

@[simp] theorem execDefectRead_keeps (s : State) : KeepsFuses s.fuses (execDefectRead s) := by simp [execDefectRead]

@[simp] theorem execBbxRead_keeps (c : Chan) (copy : Fin 16) (s : State) : KeepsFuses s.fuses (execBbxRead c copy s) :=
  State.mgmt_keeps _ _ fun t => by split <;> simp

@[simp] theorem execDebugChallenge_keeps (s : State) : KeepsFuses s.fuses (execDebugChallenge s) := by simp [execDebugChallenge]

@[simp] theorem execDebugResponse_keeps (auth : KeyAuth) (s : State) : KeepsFuses s.fuses (execDebugResponse auth s) := by
  simp [execDebugResponse]

@[simp] theorem execDebugLock_keeps (s : State) : KeepsFuses s.fuses (execDebugLock s) := by simp [execDebugLock]

@[simp] theorem execDebugChallengeExpiry_keeps (s : State) : KeepsFuses s.fuses (execDebugChallengeExpiry s) := by
  unfold execDebugChallengeExpiry
  split <;> simp

@[simp] theorem execJobPolicySet_keeps (hash : Option (BitVec 256)) (s : State) : KeepsFuses s.fuses (execJobPolicySet hash s) := by
  simp [execJobPolicySet]

@[simp] theorem execAttest_keeps (nonce : BitVec 256) (s : State) : KeepsFuses s.fuses (execAttest nonce s) := by simp [execAttest]

@[simp] theorem execModuleReset_keeps (s : State) : KeepsFuses s.fuses (execModuleReset s) := by simp [execModuleReset]

@[simp] theorem State.jtagTo_fuses (s : State) (k : Jtag) (name : String) : (s.jtagTo k name).fuses = s.fuses := by rfl

@[simp] theorem execBypass_keeps (s : State) : KeepsFuses s.fuses (execBypass s) := by rfl

@[simp] theorem execIdcode_keeps (s : State) : KeepsFuses s.fuses (execIdcode s) := by rfl

@[simp] theorem execSamplePreload_keeps (s : State) : KeepsFuses s.fuses (execSamplePreload s) := by rfl

@[simp] theorem execExtest_keeps (s : State) : KeepsFuses s.fuses (execExtest s) := by simp [execExtest]

/-! ### Commands keep the fuses: register access -/

@[simp] theorem State.after_fuses (s : State) (r : Res) (hr : KeepsFuses s.fuses r) : (s.after r).fuses = s.fuses := by
  unfold State.after
  split
  · exact hr
  · rfl

@[simp] theorem State.writeReset_fuses (s : State) (c : Chan) (v : BitVec 32) : (s.writeReset c v).fuses = s.fuses := by
  unfold State.writeReset
  split <;> simp

@[simp] theorem State.stgCtrl_fuses (s : State) (c : Chan) (v : BitVec 32) : (s.stgCtrl c v).fuses = s.fuses := by
  unfold State.stgCtrl
  split <;> simp

@[simp] theorem State.writeArray_fuses (s : State) (c : Chan) (off : Nat) (v : BitVec 32) :
    (s.writeArray c off v).fuses = s.fuses := by
  unfold State.writeArray
  cases arrayIx off 0x008000 16 2048 with
  | some w => simp
  | none => cases arrayIx off 0x020108 16 16 with
    | some j => simp
    | none => cases arrayIx off 0x040000 0x40 12 with
      | some p => simp
      | none => cases arrayIx off 0x04000C 0x40 12 with
        | some p => simp
        | none => cases arrayIx off 0x040804 16 16 with
          | some j => simp
          | none => cases arrayIx off 0x050100 8 4 with
            | some st => simp
            | none => cases arrayIx off 0x080100 16 16 <;> simp

@[simp] theorem State.writeOpenWord_fuses (s : State) (c : Chan) (off : Nat) (v : BitVec 32) :
    (s.writeOpenWord c off v).fuses = s.fuses := by
  unfold State.writeOpenWord
  split
  · simp
  · split
    case h_5 =>
      extract_lets s1
      have h1 : s1.fuses = s.fuses := State.fuses_ite (s.after_fuses _ (execCeClear_keeps c s)) rfl
      exact State.fuses_ite ((s1.after_fuses _ (execLogClear_keeps c s1)).trans h1) h1
    all_goals simp

@[simp] theorem State.writeChWord_fuses (s : State) (c : Chan) (off : Nat) (v : BitVec 32) :
    (s.writeChWord c off v).fuses = s.fuses := by simp [State.writeChWord]

@[simp] theorem State.embWrite_fuses (s : State) (v : BitVec 32) : (s.embWrite v).fuses = s.fuses := by
  unfold State.embWrite
  extract_lets s1
  have h1 : s1.fuses = s.fuses := by simp [s1]
  exact State.fuses_ite ((s1.after_fuses _ (execEmbReset_keeps _ s1)).trans h1) h1

@[simp] theorem State.writeMcWord_fuses (s : State) (mgmt : Bool) (off : Nat) (v : BitVec 32) :
    (s.writeMcWord mgmt off v).fuses = s.fuses := by
  unfold State.writeMcWord
  split <;> simp

@[simp] theorem State.writeAdmWord_fuses (s : State) (fn off : Nat) (v : BitVec 32) :
    (s.writeAdmWord fn off v).fuses = s.fuses := by
  unfold State.writeAdmWord
  split <;> simp

@[simp] theorem State.writeWord_fuses (s : State) (mgmt : Bool) (addr : Nat) (v : BitVec 32) :
    (s.writeWord mgmt addr v).fuses = s.fuses := by
  unfold State.writeWord
  (repeat' split) <;> simp

@[simp] theorem execRegisterWrite_keeps (via : RegPath) (addr : BitVec 26) (size64 : Bool) (v : BitVec 64) (s : State) :
    KeepsFuses s.fuses (execRegisterWrite via addr size64 v s) := by
  simp only [execRegisterWrite]
  (repeat' split) <;> simp

@[simp] theorem State.readWord_fuses (s : State) (addr : Nat) : fstFuses (s.readWord addr) = s.fuses := by
  unfold State.readWord
  split <;> simp

@[simp] theorem execRegisterRead_keeps (via : RegPath) (addr : BitVec 26) (size64 : Bool) (s : State) :
    KeepsFuses s.fuses (execRegisterRead via addr size64 s) := by simp [execRegisterRead]

/-! ### Commands keep the fuses: tests of the module -/

@[simp] theorem State.startTest_fuses (s : State) (c : Chan) (set : BitVec 8) (h : Option Hdr) :
    (s.startTest c set h).fuses = s.fuses := by simp [State.startTest]

@[simp] theorem State.queueTest_fuses (s : State) (c : Chan) (set : BitVec 8) (h : Option Hdr) :
    (s.queueTest c set h).fuses = s.fuses := by simp [State.queueTest]

@[simp] theorem State.forceJobs_fuses (s : State) (c : Chan) (h : Hdr) : (s.forceJobs c h).fuses = s.fuses := by
  simp [State.forceJobs]

@[simp] theorem execSelftest_keeps (h : Hdr) (c : Chan) (force : Bool) (testSet : BitVec 8) (s : State) :
    KeepsFuses s.fuses (execSelftest h c force testSet s) := by simp [execSelftest]

@[simp] theorem execDeferredSelftest_keeps (c : Chan) (s : State) : KeepsFuses s.fuses (execDeferredSelftest c s) := by
  unfold execDeferredSelftest
  split <;> simp

@[simp] theorem State.listFindings_fuses (s : State) (c : Chan) (src : Nat) (l : List (DefectKind × Nat × Nat)) :
    fstFuses (s.listFindings c src l) = s.fuses := foldl_fstFuses _ _ _ fun _ acc => acc.1.addDefect_fuses c _ _ _ _

@[simp] theorem State.applySensors_fuses (s : State) (c : Chan) : (s.applySensors c).fuses = s.fuses := by rfl

@[simp] theorem State.applyFactory_fuses (s : State) (c : Chan) : (s.applyFactory c).fuses = s.fuses := by simp [State.applyFactory]

@[simp] theorem State.applyAll_fuses (s : State) (c : Chan) : (s.applyAll c).fuses = s.fuses := by simp [State.applyAll]

@[simp] theorem State.testStack_fuses (s : State) (c : Chan) (taken : List (Nat × Nat)) (st : Nat) :
    (s.testStack c taken st).fuses = s.fuses := by simp [State.testStack]

@[simp] theorem State.testHbm_fuses (s : State) (c : Chan) : (s.testHbm c).fuses = s.fuses := by simp [State.testHbm]

@[simp] theorem State.testParts_fuses (s : State) (c : Chan) (set : BitVec 8) : (s.testParts c set).fuses = s.fuses := by
  simp [State.testParts]

@[simp] theorem State.testFailed_fuses (s : State) (c : Chan) (fail : Nat) : (s.testFailed c fail).fuses = s.fuses := by
  simp [State.testFailed]

@[simp] theorem State.afterForced_fuses (s : State) (c : Chan) (h : Hdr) : (s.afterForced c h).fuses = s.fuses := by
  simp [State.afterForced]

@[simp] theorem execSelftestComplete_keeps (c : Chan) (found : TestFindings) (s : State) :
    KeepsFuses s.fuses (execSelftestComplete c found s) := by
  unfold execSelftestComplete
  (repeat' split) <;> simp

/-! ### Anti-rollback counters (R446) -/

/-- The commands that write the fuses: counters raised, a second root added, a root revoked (R446, R467). -/
def writesFuses : Instr → Bool
  | .svnCommit | .rootAdd .. | .rootRevoke .. => true
  | _ => false

/-- Every other command keeps them, each by its own lemma above. -/
theorem exec_keeps (i : Instr) (s : State) (hi : writesFuses i = false) : KeepsFuses s.fuses (exec i s) := by
  cases i
  case svnCommit | rootAdd | rootRevoke => cases hi
  all_goals simp only [exec]
  all_goals simp

theorem KeepsFuses.fuses_eq {f : Fuses} {r : Res} {t : State} (h : KeepsFuses f r) (ht : r = .next t) : t.fuses = f := by
  subst ht
  exact h

/-- A management command answers a state with what holds of the refusals and of what it does. -/
theorem State.mgmt_answers {s t : State} {f : State → State} {P : State → Prop} (ht : s.mgmt f = .next t) (silent : P (s.emit .noResponse))
    (refused : P (s.emit .refused)) (done : P (f s)) : P t := by
  obtain rfl := Host.Outcome.next.inj ht
  split
  · exact silent
  · split
    · exact refused
    · exact done

theorem State.accepted_svn {s : State} {f : State → State} (ok : Bool) (hf : (f s).fuses.svn = s.fuses.svn) :
    (s.accepted ok f).fuses.svn = s.fuses.svn := by
  unfold State.accepted
  split <;> simp [hf]

theorem execRootAdd_svn {hash : BitVec 256} {auth : KeyAuth} {s t : State} (ht : execRootAdd hash auth s = .next t) :
    t.fuses.svn = s.fuses.svn :=
  State.mgmt_answers (P := fun u => u.fuses.svn = s.fuses.svn) ht (by simp) (by simp) (State.accepted_svn _ (by simp))

theorem execRootRevoke_svn {slot : Bool} {auth : KeyAuth} {s t : State} (ht : execRootRevoke slot auth s = .next t) :
    t.fuses.svn = s.fuses.svn :=
  State.mgmt_answers (P := fun u => u.fuses.svn = s.fuses.svn) ht (by simp) (by simp) (State.accepted_svn _ (by simp))

/-- Adding and revoking a root write other fuses than the counters. -/
theorem exec_svn {i : Instr} {s t : State} (ht : exec i s = .next t) (hi : i ≠ .svnCommit) : t.fuses.svn = s.fuses.svn := by
  cases hw : writesFuses i with
  | false => exact congrArg Fuses.svn ((exec_keeps i s hw).fuses_eq ht)
  | true =>
    cases i
    case svnCommit => exact absurd rfl hi
    case rootAdd hash auth => exact execRootAdd_svn ht
    case rootRevoke slot auth => exact execRootRevoke_svn ht
    all_goals cases hw

theorem step_idle_svn {s t : State} (idle : s.pending = []) (ht : step s = .next t) : t.fuses.svn = s.fuses.svn := by
  rw [step, idle] at ht
  obtain rfl := Host.Outcome.next.inj ht
  rfl

theorem execSvnCommit_raises (s : State) (k : Fin 3) (awake : s.mc.inReset = false) (started : s.mc.firm.started = true)
    (serving : s.mc.firm.recovery = false) : Answers (exec .svnCommit s) fun t =>
      t.mc.fuses.svn[k.val] = max s.mc.fuses.svn[k.val] s.mc.firm.runSvn[k.val] := by
  refine ⟨_, rfl, ?_⟩
  simp [awake, started, serving, State.accepted]

/-- An image whose SVN is below its counter does not verify. -/
theorem State.fwVerifies_false_of_svn_lt {s : State} {k : Fin 3} {im : FwImage} (below : im.svn < s.mc.fuses.svn[k.val]) :
    s.fwVerifies k im = false := by
  rw [State.fwVerifies, decide_eq_false (Nat.not_le.2 below), Bool.and_false]

/-- Settles O59: no command but SVN_COMMIT writes the counters, the machine by itself only passes time, SVN_COMMIT raises each
counter, and verification compares an image's SVN with its counter. -/
theorem antiRollbackCounters : Obligations.AntiRollbackCounters := by
  unfold Obligations.AntiRollbackCounters
  intro i k im s t
  exact ⟨exec_svn, step_idle_svn, execSvnCommit_raises s k, State.fwVerifies_false_of_svn_lt⟩

end Sys2Proof.Machine

namespace Sys2Proof.Machine

/-! ### Fuses are only ever programmed (R440, R446) -/

theorem Fuses.Programs.refl (f : Fuses) : f.Programs f :=
  ⟨rfl, rfl, rfl, rfl, rfl, rfl, fun _ => rfl, fun _ => id, fun _ => Nat.le_refl _, id⟩

theorem Fuses.Programs.trans {f g h : Fuses} (a : f.Programs g) (b : g.Programs h) : f.Programs h := by
  obtain ⟨serial, variant, present, limit, root0, factory, root1, revoke, svn, roots⟩ := a
  obtain ⟨serial', variant', present', limit', root0', factory', root1', revoke', svn', roots'⟩ := b
  refine ⟨serial'.trans serial, variant'.trans variant, present'.trans present, limit'.trans limit, root0'.trans root0,
    factory'.trans factory, fun added => ?_, fun i set => revoke' i (revoke i set), fun k => (svn k).trans (svn' k), roots' ∘ roots⟩
  have kept := root1 added
  exact (root1' (kept ▸ added)).trans kept

/-- Raising the counters programs fuses. -/
theorem Fuses.programs_svn (f : Fuses) (run : Vector Nat 3) :
    f.Programs { f with svn := Vector.ofFn fun (k : Fin 3) => max f.svn[k.val] run[k.val] } := by
  refine ⟨rfl, rfl, rfl, rfl, rfl, rfl, fun _ => rfl, fun _ => id, fun k => ?_, id⟩
  simp

/-- A second root is added where there is none, so that no live root goes. -/
theorem Fuses.programs_root1 (f : Fuses) (hash : BitVec 256) (none_yet : f.root1 = none) : f.Programs { f with root1 := some hash } := by
  refine ⟨rfl, rfl, rfl, rfl, rfl, rfl, absurd none_yet, fun _ => id, fun _ => Nat.le_refl _, fun live => ?_⟩
  simp only [Fuses.roots, none_yet, Option.toList_none, ite_self, List.append_nil] at live
  exact List.append_ne_nil_of_left_ne_nil live _

/-- A revoke bit is set where a root stays live. -/
theorem Fuses.programs_revoke (f : Fuses) (bits : BitVec 2) (live : Fuses.roots { f with revoke := f.revoke ||| bits } ≠ []) :
    f.Programs { f with revoke := f.revoke ||| bits } :=
  ⟨rfl, rfl, rfl, rfl, rfl, rfl, fun _ => rfl, fun i set => by simp [set], fun _ => Nat.le_refl _, fun _ => live⟩

theorem State.accepted_programs {s : State} {ok : Bool} {f : State → State} (h : ok = true → s.fuses.Programs (f s).fuses) :
    s.fuses.Programs (s.accepted ok f).fuses := by
  unfold State.accepted
  split
  · next accepted => exact h accepted
  · exact .refl _

/-- A management command that programs fuses where it is served programs them wherever it answers. -/
theorem State.mgmt_programs {s t : State} {f : State → State} (ht : s.mgmt f = .next t) (h : s.fuses.Programs (f s).fuses) :
    s.fuses.Programs t.fuses :=
  State.mgmt_answers (P := fun u => s.fuses.Programs u.fuses) ht (.refl _) (.refl _) h

theorem execSvnCommit_programs {s t : State} (ht : execSvnCommit s = .next t) : s.fuses.Programs t.fuses :=
  State.mgmt_programs ht (State.accepted_programs fun _ => Fuses.programs_svn _ _)

theorem execRootAdd_programs {hash : BitVec 256} {auth : KeyAuth} {s t : State} (ht : execRootAdd hash auth s = .next t) :
    s.fuses.Programs t.fuses := by
  refine State.mgmt_programs ht (State.accepted_programs fun ok => ?_)
  have none_yet : s.mc.fuses.root1 = none := Option.isNone_iff_eq_none.1 (Bool.and_eq_true_iff.1 ok).1
  exact Fuses.programs_root1 _ hash none_yet

theorem execRootRevoke_programs {slot : Bool} {auth : KeyAuth} {s t : State} (ht : execRootRevoke slot auth s = .next t) :
    s.fuses.Programs t.fuses := by
  refine State.mgmt_programs ht (State.accepted_programs fun ok => ?_)
  have live := (Bool.and_eq_true_iff.1 ok).1
  exact Fuses.programs_revoke _ _ (by simpa using live)

theorem exec_programs {i : Instr} {s t : State} (ht : exec i s = .next t) : s.fuses.Programs t.fuses := by
  cases hw : writesFuses i with
  | false => exact (exec_keeps i s hw).fuses_eq ht ▸ .refl _
  | true =>
    cases i
    case svnCommit => exact execSvnCommit_programs ht
    case rootAdd hash auth => exact execRootAdd_programs ht
    case rootRevoke slot auth => exact execRootRevoke_programs ht
    all_goals cases hw

theorem step_programs {s t : State} (ht : step s = .next t) : s.fuses.Programs t.fuses := by
  unfold step at ht
  split at ht
  · obtain rfl := Host.Outcome.next.inj ht
    exact .refl _
  · next i rest _ => exact exec_programs (s := { s with pending := rest }) ht

/-- Settles O60: each step programs the fuses it finds, and so those that any earlier fuses have become. -/
theorem fusesOnlyProgram : Obligations.FusesOnlyProgram := by
  unfold Obligations.FusesOnlyProgram
  intro f s t before ht
  exact before.trans (step_programs ht)

end Sys2Proof.Machine

namespace Sys2Proof.Machine

/-! ### Updates that read what they update -/

theorem upd_congr {α : Type} {n : Nat} {v : Vector α n} {i : Fin n} {f g : α → α} (h : f v[i.val] = g v[i.val]) :
    upd v i f = upd v i g := by rw [upd, upd, h]

theorem State.onChan_congr {s : State} {c : Chan} {f g : Channel → Channel} (h : f (s.chan c) = g (s.chan c)) :
    s.onChan c f = s.onChan c g := by rw [State.onChan, State.onChan, upd_congr h]

theorem State.onPump_congr {s : State} {c : Chan} {p : PumpIx} {f g : Pump → Pump} (h : f (s.pump c p) = g (s.pump c p)) :
    s.onPump c p f = s.onPump c p g :=
  State.onChan_congr (congrArg (fun v => { s.chan c with pumps := v }) (upd_congr h))

/-! ### What a job fault does beside FLT_REC (R331, R386) -/

section
variable {β : Type} (v : State → β)

theorem State.marker_view (he : ∀ t o, v (t.emit o) = v t) (s : State) (c : Chan) (port : PortIx) (m : Marker) :
    v (s.marker c port m) = v s := by
  unfold State.marker
  dsimp only
  split
  · exact he s _
  · rfl

/-- What neither outputs nor the combined report of a slot's frame shows is the same after a report is forwarded. -/
theorem State.tryForward_view (he : ∀ t o, v (t.emit o) = v t) (c : Chan) (j : SlotIx)
    (hc : ∀ t r n, v (t.onFr c j fun f => { f with combined := some r, combNs := n }) = v t) (s : State) :
    v (s.tryForward c j) = v s := by
  unfold State.tryForward
  dsimp only
  split
  · split
    · split
      · split
        · exact hc s _ _
        · exact (State.marker_view v he _ c _ _).trans (hc s _ _)
      · exact hc s _ _
    · rfl
  · rfl

theorem State.report_view (he : ∀ t o, v (t.emit o) = v t) (c : Chan) (j : SlotIx)
    (hc : ∀ t r n, v (t.onFr c j fun f => { f with combined := some r, combNs := n }) = v t)
    (ho : ∀ t r n, v (t.onFr c j fun f => { f with own := some r, ownNs := n }) = v t) (s : State) (fault : Bool) (cause : Fin 7)
    (late : Nat) : v (s.report c j fault cause late) = v s := by
  unfold State.report
  dsimp only
  split
  · rfl
  · exact (State.tryForward_view v he c j hc _).trans (ho s _ _)

end

@[simp] theorem State.marker_chan (s : State) (c : Chan) (port : PortIx) (m : Marker) (d : Chan) :
    (s.marker c port m).chan d = s.chan d := State.marker_view (fun t => t.chan d) (fun _ _ => rfl) s c port m

@[simp] theorem State.marker_mc (s : State) (c : Chan) (port : PortIx) (m : Marker) : (s.marker c port m).mc = s.mc :=
  State.marker_view State.mc (fun _ _ => rfl) s c port m

@[simp] theorem State.report_pump (s : State) (c : Chan) (j : SlotIx) (fault : Bool) (cause : Fin 7) (late : Nat) (p : PumpIx) :
    (s.report c j fault cause late).pump c p = s.pump c p :=
  State.report_view (fun t => t.pump c p) (by simp) c j (by simp) (by simp) s fault cause late

@[simp] theorem State.report_bbx (s : State) (c : Chan) (j : SlotIx) (fault : Bool) (cause : Fin 7) (late : Nat) :
    ((s.report c j fault cause late).chan c).bbx = (s.chan c).bbx :=
  State.report_view (fun t => (t.chan c).bbx) (by simp) c j (by simp) (by simp) s fault cause late

@[simp] theorem State.report_faultFlag (s : State) (c : Chan) (j : SlotIx) (fault : Bool) (cause : Fin 7) (late : Nat) :
    ((s.report c j fault cause late).slot c j).fr.faultFlag = (s.slot c j).fr.faultFlag :=
  State.report_view (fun t => (t.slot c j).fr.faultFlag) (by simp) c j (by simp) (by simp) s fault cause late

@[simp] theorem State.event_pump (s : State) (c : Chan) (typ : Nat) (j : Option SlotIx) (unit : Nat) (d : BitVec 128) (p : PumpIx) :
    (s.event c typ j unit d).pump c p = s.pump c p := by simp [State.event, State.pump]

@[simp] theorem State.faultEvent_pump (s : State) (c : Chan) (j : Option SlotIx) (code kind unit addr : Nat) (r : ChanAddr) (p : PumpIx) :
    (s.faultEvent c j code kind unit addr r).pump c p = s.pump c p := by simp [State.faultEvent, State.event, State.pump]

@[simp] theorem State.faultEvent_slot (s : State) (c : Chan) (j : Option SlotIx) (code kind unit addr : Nat) (r : ChanAddr) (i : SlotIx) :
    (s.faultEvent c j code kind unit addr r).slot c i = s.slot c i :=
  (State.faultEvent_keeps (f := id) s c j code kind unit addr r).2 c i

/-- The FAULT event freezes the black box, if it was not frozen already (R411). -/
theorem State.faultEvent_frozen (s : State) (c : Chan) (j : Option SlotIx) (code kind unit addr : Nat) (r : ChanAddr) :
    ((s.faultEvent c j code kind unit addr r).chan c).bbx.frozen = true := by
  simp only [State.faultEvent, State.onChan_chan, Bbx.freeze]
  split <;> simp_all

theorem Channel.mem_pumpsOf (h : Channel) (j : SlotIx) (p : PumpIx) :
    p ∈ h.pumpsOf j ↔ h.slots[j.val].job.polders.getLsbD (p.val / 8) = true := by
  simp [Channel.pumpsOf]

/-- A pump that has been stopped by a fault or a halt. -/
def Pump.stop (q : Pump) : Pump := { q with run := .stopped }

/-- A pump of a channel once the job with these polders has been stopped in it. -/
def Pump.stopIn (q : Pump) (polders : BitVec 16) (p : PumpIx) : Pump := if polders.getLsbD (p.val / 8) then q.stop else q

/-- The pumps of a job stop, no other (R331). -/
theorem State.stopPumps_pump (s : State) (c : Chan) (j : SlotIx) (p : PumpIx) :
    (s.stopPumps c j).pump c p = (s.pump c p).stopIn (s.slot c j).job.polders p := by
  have stopped := State.each_at (fun p t => t.pump c p) Pump.stop (fun t p => t.onPump c p Pump.stop) (fun t i => t.onPump_pump c i _)
    (fun t i k h => t.onPump_pump_ne c k i _ h) (fun _ => rfl) p ((s.chan c).pumpsOf j) s
  simp only [Channel.mem_pumpsOf] at stopped
  exact stopped

@[simp] theorem State.stopPumps_bbx (s : State) (c : Chan) (j : SlotIx) : ((s.stopPumps c j).chan c).bbx = (s.chan c).bbx :=
  State.each_same (fun t => (t.chan c).bbx) _ (fun t p => t.onPump_chan_bbx c p _) _ s

@[simp] theorem State.stopPumps_slot (s : State) (c : Chan) (j i : SlotIx) : (s.stopPumps c j).slot c i = s.slot c i :=
  State.each_same (fun t => t.slot c i) _ (fun t p => t.onPump_slot c p _ i) _ s

section
variable (s : State) (c : Chan) (j : SlotIx) (cause : Cause) (kind : UnitKind) (unit addr : Nat)

theorem State.stopMember_pump (p : PumpIx) : (s.stopMember c j).pump c p =
    (s.pump c p).stopIn (s.slot c j).job.polders p := by
  rw [State.stopMember, State.report_pump, State.stopPumps_pump, State.onFr_slot_job, State.onFr_pump]

theorem State.faultMarkers_chan (d : Chan) (l : List PortIx) (m : Marker) :
    (s.each l fun t p => t.marker c p m).chan d = s.chan d :=
  State.each_same (fun t => t.chan d) _ (fun t p => t.marker_chan c p m d) l s

theorem State.faultMarkers_slot (i : SlotIx) (l : List PortIx) (m : Marker) :
    (s.each l fun t p => t.marker c p m).slot c i = s.slot c i := by rw [State.slot, State.faultMarkers_chan, State.slot]

theorem State.faultMarkers_pump (p : PumpIx) (l : List PortIx) (m : Marker) :
    (s.each l fun t e => t.marker c e m).pump c p = s.pump c p := by rw [State.pump, State.faultMarkers_chan, State.pump]

/-- A job fault stops the pumps of its job in the channel and leaves every pump otherwise as it is (R331). -/
theorem State.fault_pump (live : (s.slot c j).live = true) (p : PumpIx) : (s.fault c j cause kind unit addr).pump c p =
    (s.pump c p).stopIn (s.slot c j).job.polders p := by
  simp only [State.fault, live, if_true, State.stopMember_pump, State.onFr_slot_job, State.onFr_pump, State.faultMarkers_slot,
    State.faultMarkers_pump, State.faultEvent_pump, State.faultEvent_slot, State.onRegs_slot_job, State.onRegs_pump]

theorem State.fault_frozen (live : (s.slot c j).live = true) : ((s.fault c j cause kind unit addr).chan c).bbx.frozen = true := by
  simp only [State.fault, live, if_true, State.stopMember, State.report_bbx, State.stopPumps_bbx, State.onFr_chan_bbx,
    State.faultMarkers_chan, State.faultEvent_frozen]

theorem State.fault_faultFlag (live : (s.slot c j).live = true) : ((s.fault c j cause kind unit addr).slot c j).fr.faultFlag = true := by
  simp only [State.fault, live, if_true, State.stopMember, State.report_faultFlag, State.stopPumps_slot, State.onFr_slot_fr,
    SlotFrame.faulted]

end

/-- Settles O34. -/
theorem jobFaultIsRecorded : Obligations.JobFaultIsRecorded := by
  unfold Obligations.JobFaultIsRecorded
  intro c j cause kind unit addr p s x t live
  have regs : (t.slot c j).regs = { x.regs with flt := x.regs.flt.take cause.code kind.code unit x.regs.frame } :=
    s.fault_regs c j cause kind unit addr live
  rw [regs]
  refine ⟨fun first => ?_, fun later => ?_, s.fault_frozen c j cause kind unit addr live, s.fault_faultFlag c j cause kind unit addr live,
    rfl, fun own => ?_⟩
  · simp [FltRec.take, first, removeCode]
  · simp [FltRec.take, later]
  · rw [show t = s.fault c j cause kind unit addr from rfl, State.fault_pump s c j cause kind unit addr live, Pump.stopIn, if_pos own]
    rfl

/-! ### The controller's words (R69, R71-R73) -/

@[simp] theorem Pump.setReg_pc (q : Pump) (r : Nat) (v : BitVec 64) : (q.setReg r v).pc = q.pc := by
  unfold Pump.setReg
  split <;> rfl

theorem Pump.wrote_eq (q : Pump) (r : Nat) (v : BitVec 64) : q.wrote r v = { q.setReg r v with pc := (q.setReg r v).pc + 1 } := by
  rw [Pump.wrote, Pump.setReg_pc]

/-- Before the last word of program memory the controller goes on to the next word. -/
theorem State.pcNext_inside (s : State) (c : Chan) (p : PumpIx) (h : (s.pump c p).pc + 1 < 8192) :
    s.pcNext c p = s.onPump c p fun q => { q with pc := q.pc + 1 } := if_pos h

/-- An update of the pump that keeps the pc, and the next word. -/
theorem State.onPump_pcNext (s : State) (c : Chan) (p : PumpIx) (f : Pump → Pump) (h : (s.pump c p).pc + 1 < 8192)
    (hf : (f (s.pump c p)).pc = (s.pump c p).pc) :
    (s.onPump c p f).pcNext c p = s.onPump c p fun q => { f q with pc := (f q).pc + 1 } := by
  rw [State.pcNext_inside _ _ _ (by simpa [hf] using h), State.onPump_onPump]

section
variable {s : State} {c : Chan} {p : PumpIx} {op : Nat} {u : Uses} {f : BitVec 58}

theorem scalar_acts {g : State → State} (h : AtScalar s c p op u f) : scalar op u c p f s g = .next ((g s).pcNext c p) := by
  rw [scalar, s.atWord_acts c p _ _ h.1, if_pos h.2]

theorem scalar_unclean {g : State → State} (h : AtOp s c p op f) (hu : u.clean f = false) :
    scalar op u c p f s g = .next (s.pumpFault c p .descriptor 0) := by
  rw [scalar, s.atWord_acts c p _ _ h, hu, if_neg Bool.false_ne_true]

/-- A scalar word that writes x[RD]. -/
theorem scalar_wrote (h : AtScalar s c p op u f) (hpc : (s.pump c p).pc + 1 < 8192) (v : Pump → BitVec 64) :
    scalar op u c p f s (fun t => t.onPump c p fun q => q.setReg (fRd f) (v q)) =
      .next (s.onPump c p fun q => q.wrote (fRd f) (v (s.pump c p))) := by
  rw [scalar_acts h, State.onPump_pcNext s c p _ hpc (Pump.setReg_pc ..)]
  exact congrArg _ (State.onPump_congr (Pump.wrote_eq ..).symm)

theorem branch_goes {taken : Pump → Bool} (h : AtScalar s c p op u f) (hpc : (s.pump c p).pc + 1 < 8192)
    (lo : 0 ≤ ((s.pump c p).pc : Int) + fImm f) (hi : ((s.pump c p).pc : Int) + fImm f < 8192) :
    branch op u c p f s taken = .next (s.onPump c p fun x =>
      { x with pc := if taken (s.pump c p) then (((s.pump c p).pc : Int) + fImm f).toNat else x.pc + 1 }) := by
  rw [branch, s.atWord_acts c p _ _ h.1]
  dsimp only
  rw [if_neg (by simp [h.2, lo, hi]), State.pcNext_inside s c p hpc]
  split <;> simp [*]

theorem branch_outside {taken : Pump → Bool} (h : AtOp s c p op f)
    (out : ((s.pump c p).pc : Int) + fImm f < 0 ∨ 8192 ≤ ((s.pump c p).pc : Int) + fImm f) :
    branch op u c p f s taken = .next (s.pumpFault c p .descriptor 0) := by
  rw [branch, s.atWord_acts c p _ _ h]
  dsimp only
  rw [if_pos (by rcases out with out | out <;> simp [out])]

end

theorem dataFault_none {a : Int} (aligned : a % 8 = 0) (lo : 0 ≤ a) (hi : a < 0x8000) : dataFault a = none := by
  rw [dataFault, if_neg (not_not.2 aligned), if_neg (by omega)]

theorem dataFault_unaligned {a : Int} (h : a % 8 ≠ 0) : dataFault a = some .descriptor := if_pos h

theorem dataFault_outside {a : Int} (aligned : a % 8 = 0) (h : a < 0 ∨ 0x8000 ≤ a) : dataFault a = some .access := by
  rw [dataFault, if_neg (not_not.2 aligned), if_pos h]

/-- Checking the rows of one aligned 64-bit word checks the one row that holds it (R66). -/
theorem State.checkRows_one (s : State) (c : Chan) (p : PumpIx) (m : PumpMem) (row : Nat) (h : ((s.pump c p).ups m).readD 0 row = 0) :
    s.checkRows c p m row (row + 1) = s := by
  have only : ∀ k ∈ (((s.pump c p).ups m).below row (row + 1)).keys, k = row := by
    intro k hk
    obtain ⟨e, he, rfl⟩ := List.mem_map.1 hk
    have := (List.mem_filter.1 he).2
    simp only [Bool.and_eq_true, decide_eq_true_eq] at this
    omega
  rw [State.checkRows]
  generalize (((s.pump c p).ups m).below row (row + 1)).keys = l at only
  induction l with
  | nil => rfl
  | cons k l ih =>
    obtain rfl := only k (by simp)
    rw [State.each, List.foldl_cons, s.checkRow_sound c p m k h]
    exact ih fun i hi => only i (List.mem_cons_of_mem _ hi)

/-- An aligned access to a word of a sound row of data memory. -/
theorem State.withData_word (s : State) (c : Chan) (p : PumpIx) (a : Int) (act : State → State) (aligned : a % 8 = 0)
    (sound : DataSound s c p a) (hr : (s.pump c p).run ≠ .stopped) : s.withData c p a.toNat 8 act = act s := by
  have row : (a.toNat + 8 + 31) / 32 = a.toNat / 32 + 1 := by omega
  exact s.withData_sound c p _ _ _ (row ▸ s.checkRows_one c p .data _ sound) hr

section
variable {s : State} {c : Chan} {p : PumpIx} {f : BitVec 58}

theorem AtOp.notStopped {op : Nat} (h : AtOp s c p op f) : (s.pump c p).run ≠ .stopped := by
  rw [Pump.at_running _ _ h.1]
  decide

theorem execLd_loads (h : AtScalar s c p 0x18 ⟨true, true, false, 43⟩ f) (hpc : (s.pump c p).pc + 1 < 8192)
    (lo : 0 ≤ (s.pump c p).dataAddr f) (hi : (s.pump c p).dataAddr f < 0x8000) (aligned : (s.pump c p).dataAddr f % 8 = 0)
    (sound : DataSound s c p ((s.pump c p).dataAddr f)) : execLd c p f s = .next (s.onPump c p fun q =>
      q.wrote (fRd f) ((s.pump c p).dmem.readD 0 (((s.pump c p).dataAddr f).toNat / 8))) := by
  rw [execLd, s.atWord_acts c p _ _ h.1]
  dsimp only
  rw [h.2, if_neg (by decide), dataFault_none aligned lo hi]
  dsimp only
  rw [s.withData_word c p _ _ aligned sound h.1.notStopped, State.onPump_pcNext s c p _ hpc (Pump.setReg_pc ..)]
  exact congrArg _ (State.onPump_congr (Pump.wrote_eq ..).symm)

theorem execSt_stores (h : AtScalar s c p 0x19 ⟨false, true, true, 43⟩ f) (hpc : (s.pump c p).pc + 1 < 8192)
    (lo : 0x6000 ≤ (s.pump c p).dataAddr f) (hi : (s.pump c p).dataAddr f < 0x8000) (aligned : (s.pump c p).dataAddr f % 8 = 0)
    (sound : DataSound s c p ((s.pump c p).dataAddr f)) : execSt c p f s = .next (s.onPump c p fun q =>
      { q with dmem := q.dmem.write 0 (((s.pump c p).dataAddr f).toNat / 8) ((s.pump c p).reg (fRs2 f)), pc := q.pc + 1 }) := by
  have nonneg : 0 ≤ (s.pump c p).dataAddr f := by omega
  rw [execSt, s.atWord_acts c p _ _ h.1]
  dsimp only
  rw [h.2, if_neg (by decide), dataFault_none aligned nonneg hi]
  dsimp only
  rw [if_neg (by omega), s.withData_word c p _ _ aligned sound h.1.notStopped, State.onPump_pcNext s c p _ hpc rfl]
  exact congrArg _ (State.onPump_congr rfl)

theorem execSetsr_sets (h : AtScalar s c p 0x1C ⟨false, true, true, 0⟩ f) (hpc : (s.pump c p).pc + 1 < 8192) :
    execSetsr c p f s = .next (s.onPump c p fun q => { q with
      srHandle := ((s.pump c p).reg (fRs1 f)).setWidth 32, srBase := (s.pump c p).reg (fRs2 f), pc := q.pc + 1 }) := by
  rw [execSetsr, scalar_acts h, State.onPump_pcNext s c p _ hpc rfl]
  exact congrArg _ (State.onPump_congr rfl)

theorem execLd_faults {e : Cause} (h : AtScalar s c p 0x18 ⟨true, true, false, 43⟩ f)
    (he : dataFault ((s.pump c p).dataAddr f) = some e) : execLd c p f s = .next (s.pumpFault c p e 0) := by
  rw [execLd, s.atWord_acts c p _ _ h.1]
  dsimp only
  rw [h.2, if_neg (by decide), he]

/-- A store outside the scratch region is an ACCESS fault: outside data memory or in the constant region. -/
theorem execSt_access (h : AtScalar s c p 0x19 ⟨false, true, true, 43⟩ f) (aligned : (s.pump c p).dataAddr f % 8 = 0)
    (out : (s.pump c p).dataAddr f < 0x6000 ∨ 0x8000 ≤ (s.pump c p).dataAddr f) :
    execSt c p f s = .next (s.pumpFault c p .access 0) := by
  rw [execSt, s.atWord_acts c p _ _ h.1]
  dsimp only
  rw [h.2, if_neg (by decide)]
  by_cases inside : 0 ≤ (s.pump c p).dataAddr f ∧ (s.pump c p).dataAddr f < 0x8000
  · rw [dataFault_none aligned inside.1 inside.2]
    dsimp only
    rw [if_pos (by omega)]
  · rw [dataFault_outside aligned (by omega)]

end

theorem Pump.ident_eq (q : Pump) : q.ident = q.index % 128 + q.vch % 2 ^ 15 * 2 ^ 16 := by
  simp [Pump.ident, packReg]

section
variable {s : State} {c : Chan} {p : PumpIx} {f : BitVec 58}

theorem exec_nop : exec (.nop c p f) s = scalar 0x00 ⟨false, false, false, 0⟩ c p f s id := rfl
theorem exec_add : exec (.add c p f) s = alu 0x01 (· + ·) c p f s := rfl
theorem exec_frn : exec (.frn c p f) s = scalar 0x1D ⟨true, false, false, 0⟩ c p f s fun t =>
    t.onPump c p fun q => q.setReg (fRd f) (BitVec.ofNat 64 (t.frameOf c p)) := rfl
theorem exec_pid : exec (.pid c p f) s = scalar 0x1E ⟨true, false, false, 0⟩ c p f s fun t =>
    t.onPump c p fun q => q.setReg (fRd f) (BitVec.ofNat 64 q.ident) := rfl
theorem exec_jmp : exec (.jmp c p f) s = branch 0x13 ⟨false, false, false, 43⟩ c p f s fun _ => true := rfl
theorem exec_beq : exec (.beq c p f) s =
    branch 0x10 ⟨false, true, true, 43⟩ c p f s fun q => q.reg (fRs1 f) == q.reg (fRs2 f) := rfl
theorem exec_bne : exec (.bne c p f) s =
    branch 0x11 ⟨false, true, true, 43⟩ c p f s fun q => q.reg (fRs1 f) != q.reg (fRs2 f) := rfl
theorem exec_blt : exec (.blt c p f) s =
    branch 0x12 ⟨false, true, true, 43⟩ c p f s fun q => (q.reg (fRs1 f)).slt (q.reg (fRs2 f)) := rfl

theorem State.frameOf_eq : s.frameOf c p = match (s.chan c).slotOf p with
    | some j => (s.slot c j).regs.frame
    | none => 0 := rfl

end

/-- Settles O3: each scalar word by the rule of its form. -/
theorem controllerScalars : Obligations.ControllerScalars := by
  unfold Obligations.ControllerScalars
  intro c p f s hpc a b addr gives
  refine ⟨fun h => ?_, fun h => scalar_wrote h hpc _, fun h => scalar_wrote h hpc _, fun h => scalar_wrote h hpc _,
    fun h => scalar_wrote h hpc _, fun h => scalar_wrote h hpc _, fun h => scalar_wrote h hpc _, fun h => scalar_wrote h hpc _,
    fun h => scalar_wrote h hpc _, fun h => scalar_wrote h hpc _, fun h => scalar_wrote h hpc _,
    fun h lo hi aligned sound => execLd_loads h hpc lo hi aligned sound,
    fun h lo hi aligned sound => execSt_stores h hpc lo hi aligned sound, fun h => execSetsr_sets h hpc, fun h => ?_, fun h => ?_⟩
  · rw [exec_nop, scalar_acts h]
    exact congrArg _ (s.pcNext_inside c p hpc)
  · rw [exec_frn, scalar_acts h, State.onPump_pcNext s c p _ hpc (Pump.setReg_pc ..), State.frameOf_eq]
    cases (s.chan c).slotOf p <;> exact congrArg _ (State.onPump_congr (Pump.wrote_eq ..).symm)
  · rw [exec_pid, scalar_wrote h hpc fun q => BitVec.ofNat 64 q.ident, Pump.ident_eq]

/-- Settles O4. -/
theorem controllerBranches : Obligations.ControllerBranches := by
  unfold Obligations.ControllerBranches
  intro c p f s q target hpc lo hi gives
  refine ⟨fun h => ?_, fun h => ?_, fun h => ?_, fun h => ?_⟩
  · rw [exec_beq, branch_goes h hpc lo hi]
    rfl
  · rw [exec_bne, branch_goes h hpc lo hi]
    rfl
  · rw [exec_blt, branch_goes h hpc lo hi]
    rfl
  · rw [exec_jmp, branch_goes h hpc lo hi]
    rfl

/-- The slot whose job holds a pump holds a job, and its polder. -/
theorem Channel.slotOf_some {h : Channel} {p : PumpIx} {j : SlotIx} (holds : h.slotOf p = some j) :
    h.slots[j.val].live = true ∧ h.slots[j.val].job.polders.getLsbD (p.val / 8) = true := by
  refine ⟨?_, ?_⟩
  · exact (List.mem_filter.1 (List.mem_of_find?_eq_some holds)).2
  · exact List.find?_some (p := fun (i : SlotIx) => h.slots[i.val].job.polders.getLsbD (polderOf p).val) holds

@[simp] theorem Pump.onRow_pc (q : Pump) (m : PumpMem) (row : Nat) (f : Granule → Granule) : (q.onRow m row f).pc = q.pc := by
  cases m <;> rfl

@[simp] theorem Pump.onRow_x (q : Pump) (m : PumpMem) (row : Nat) (f : Granule → Granule) : (q.onRow m row f).x = q.x := by
  cases m <;> rfl

theorem bscDecode_zero : bscDecode 0 = .clean := by decide +kernel

/-- An uncorrectable row reads as zeros and faults the pump's job with DATA_UE (R66). -/
theorem State.checkRow_uncorrectable (s : State) (c : Chan) (p : PumpIx) (m : PumpMem) (row : Nat)
    (bad : bscDecode (((s.pump c p).ups m).readD 0 row) = .uncorrectable) :
    s.checkRow c p m row = (s.onPump c p fun q => q.onRow m row fun _ => 0).pumpFault c p .dataUe 0 := by
  have damaged : ((s.pump c p).ups m).readD 0 row ≠ 0 := fun h => by rw [h, bscDecode_zero] at bad; cases bad
  unfold State.checkRow
  dsimp only
  rw [if_neg damaged, bad]

/-- An instruction whose row of program memory is uncorrectable faults the job with DATA_UE where it stands (R66). -/
theorem State.atWord_uncorrectable (s : State) (c : Chan) (p : PumpIx) (w : BitVec 64) (act : State → State) (j : SlotIx)
    (here : (s.pump c p).at_ w = true) (bad : bscDecode ((s.pump c p).progUp.readD 0 ((s.pump c p).pc / 4)) = .uncorrectable)
    (holds : (s.chan c).slotOf p = some j) (first : (s.slot c j).regs.flt.valid = false) :
    Answers (s.atWord c p w act) fun t =>
      (t.slot c j).regs.flt.valid = true ∧ (t.slot c j).regs.flt.cause = BitVec.ofNat 8 Cause.dataUe.code ∧
      (t.pump c p).pc = (s.pump c p).pc ∧ (t.pump c p).x = (s.pump c p).x ∧ (t.pump c p).run = .stopped := by
  obtain ⟨live, own⟩ := Channel.slotOf_some holds
  let s1 := s.onPump c p fun q => q.onRow .program ((s.pump c p).pc / 4) fun _ => 0
  have live1 : (s1.slot c j).live = true := by rw [State.onPump_slot]; exact live
  have holds1 : (s1.chan c).slotOf p = some j := by
    rw [← holds]
    simp only [Channel.slotOf, Channel.slotOfPolder, Channel.liveSlots, s1, State.onPump_chan_slots]
  have checked : s.checkRow c p .program ((s.pump c p).pc / 4) = s1.fault c j .dataUe .pump (physOf (s1.chan c) p) 0 := by
    rw [s.checkRow_uncorrectable c p .program _ bad, State.pumpFault, holds1]
  have stops : (s1.fault c j .dataUe .pump (physOf (s1.chan c) p) 0).pump c p = (s1.pump c p).stop := by
    rw [State.fault_pump _ _ _ _ _ _ _ live1, Pump.stopIn, if_pos (by rw [State.onPump_slot]; exact own)]
  refine ⟨_, by rw [State.atWord, if_pos here, checked], ?_⟩
  dsimp only
  rw [if_neg (by rw [stops]; simp [Pump.at_, Pump.stop]), State.fault_regs _ _ _ _ _ _ _ live1, stops]
  simp [s1, first, FltRec.take, Pump.stop]

/-- Settles O5. -/
theorem controllerFaults : Obligations.ControllerFaults := by
  unfold Obligations.ControllerFaults
  intro c p f w j s q target addr desc access
  refine ⟨fun h hop => ?_, fun h hfn => ?_, fun h hu => ?_, fun h hu => ?_, fun h out => ?_, fun h out => ?_,
    fun h bad => execLd_faults h (dataFault_unaligned bad),
    fun h aligned out => execLd_faults h (dataFault_outside aligned out), fun h aligned out => execSt_access h aligned out,
    fun here bad holds _ first => ?_⟩
  · show execUnassignedOpcode c p w s = desc
    rw [execUnassignedOpcode, hop, if_neg Bool.false_ne_true, s.atWord_acts c p w _ h]
  · show execEwUnassignedFn c p f s = desc
    rw [execEwUnassignedFn, hfn, if_neg Bool.false_ne_true, s.atWord_acts c p _ _ h]
  · rw [exec_nop, scalar_unclean h hu]
  · rw [exec_add, alu, scalar_unclean h hu]
  · rw [exec_jmp, branch_outside h out]
  · rw [exec_beq, branch_outside h out]
  · rw [exec_add, alu, scalar]
    exact s.atWord_uncorrectable c p _ _ j here bad holds first

/-- Settles O6. -/
theorem controllerWaits : Obligations.ControllerWaits := by
  unfold Obligations.ControllerWaits
  intro c p f s
  refine ⟨fun h hpc => ?_, fun h => ?_⟩
  · show execFence c p f s = _
    rw [execFence, s.atWord_acts c p _ _ h.1, if_pos h.2, State.onPump_pcNext s c p _ hpc rfl, State.onPump_onPump]
    refine congrArg _ (State.onPump_congr ?_)
    have quiet : Pump.quiet { s.pump c p with run := .fence, pc := (s.pump c p).pc + 1 } = (s.pump c p).quiet := rfl
    simp only [Pump.wake, quiet, beq_self_eq_true, Bool.true_and]
    split <;> rfl
  · exact (s.atWord_acts c p _ _ h.1 : execDone c p f s = _).trans (congrArg _ (if_pos h.2))

/-- Settles O1. -/
theorem stepRunsFrontCommand : Obligations.StepRunsFrontCommand := fun _ _ _ => rfl

/-- Settles O2. -/
theorem idleStepAdvancesClock : Obligations.IdleStepAdvancesClock := fun s idle => by rw [step, idle]

end Sys2Proof.Machine

namespace Sys2Proof.Machine

/-! ### The state after a module reset (R474) -/

@[simp] theorem State.reset_chan (c : Chan) : State.reset.chan c = Channel.reset := Vector.getElem_replicate _

@[simp] theorem State.reset_slot (c : Chan) (j : SlotIx) : State.reset.slot c j = Slot.reset := by
  rw [State.slot, State.reset_chan, Channel.reset, Vector.getElem_replicate]

@[simp] theorem State.reset_pump (c : Chan) (p : PumpIx) : State.reset.pump c p = Pump.reset := by
  rw [State.pump, State.reset_chan, Channel.reset, Vector.getElem_replicate]

@[simp] theorem State.reset_polder (c : Chan) (pd : PolderIx) : State.reset.polder c pd = Polder.reset := by
  rw [State.polder, State.reset_chan, Channel.reset, Vector.getElem_replicate]

@[simp] theorem State.reset_port (c : Chan) (e : PortIx) : State.reset.port c e = Port.reset := by
  rw [State.port, State.reset_chan, Channel.reset, Vector.getElem_replicate]

theorem ChStatus.reset_shown : ChStatus.reset.shown = 1 := by decide

theorem State.reset_serving (c : Chan) : State.reset.serving c = false := BitVec.getLsbD_zero

/-- Settles O57. -/
theorem resetState : Obligations.ResetState := by
  unfold Obligations.ResetState
  intro s
  refine ⟨rfl, rfl, rfl, rfl, rfl, rfl, fun c => ?_⟩
  simp only [s, State.reset_chan, State.reset_slot, State.slice, State.reset_pump, State.reset_polder, State.reset_port]
  exact ⟨ChStatus.reset_shown, State.reset_serving c, rfl, rfl, rfl, rfl, rfl, rfl, rfl, rfl, rfl, rfl, rfl, rfl, rfl,
    fun _ => ⟨rfl, rfl, rfl, rfl, rfl, rfl⟩, fun _ => ⟨rfl, rfl⟩, fun _ => ⟨rfl, rfl⟩, fun _ => ⟨rfl, rfl⟩⟩

end Sys2Proof.Machine

/-! ### What no operation on memory shows: the queue of commands and the controllers of the pumps -/

namespace Sys2Proof.Machine

/-- The thread engine of a pump beside its code, which a read of a row may correct. -/
def Pump.engine (q : Pump) : Te := { q.te with code := [], codeUp := [] }

/-- A pump with other contents beside its thread engine has the same one. -/
@[simp] theorem Pump.mk_engine (q : Pump) (x pc entry run srHandle srBase prog dmem todo queued running bq lane acc progUp dmemUp laneUp accBad
    waits issued freeNs doneNs xfers slice vch index bondHits reread) :
    (Pump.mk x pc entry run srHandle srBase prog dmem todo queued running bq lane acc progUp dmemUp laneUp accBad waits issued freeNs doneNs xfers q.te slice vch index bondHits reread).engine = q.engine := rfl

/-- The operations that a pump has issued: those that wait, the counts of its unit queues, and its broadcast queue; and its thread engine. -/
def Pump.ctl (q : Pump) : List RowOp × Vector Nat 7 × List (Granule × CodeWord) × Te := (q.todo, q.queued, q.bq, q.engine)

/-- The issued operations of every pump of a channel. -/
def Channel.ctl (h : Channel) (p : PumpIx) : List RowOp × Vector Nat 7 × List (Granule × CodeWord) × Te := h.pumps[p.val].ctl

/-- What can be seen of a state by one who looks at the queue of commands and at the issued operations alone. -/
structure Observer (β : Type) where
  see : State → β
  blind : ∀ s t : State, t.pending = s.pending → (∀ c, (t.chan c).ctl = (s.chan c).ctl) → see t = see s

/-- What an observer sees of a state. -/
def State.shown {β : Type} (s : State) (O : Observer β) : β := O.see s

section
variable {β : Type} {O : Observer β}

theorem State.shown_congr {s t : State} (hq : t.pending = s.pending) (hc : ∀ c, (t.chan c).ctl = (s.chan c).ctl) :
    t.shown O = s.shown O := O.blind s t hq hc

theorem State.shown_of_ch {s t : State} (hq : t.pending = s.pending) (hc : t.ch = s.ch) : t.shown O = s.shown O :=
  State.shown_congr hq fun c => by rw [State.chan, State.chan, hc]

@[simp] theorem State.mk_shown (s : State) (timeNs freeCtr : Nat) (outputs : List Output) (mc : Gnover) :
    (State.mk s.pending timeNs freeCtr outputs mc s.ch).shown O = s.shown O := State.shown_of_ch rfl rfl

theorem State.shown_ite {p : Prop} [Decidable p] {s t : State} {b : β} (hs : s.shown O = b) (ht : t.shown O = b) :
    (if p then s else t).shown O = b := by
  split
  · exact hs
  · exact ht

@[simp] theorem State.ite_shown (p : Prop) [Decidable p] (s t : State) :
    (if p then s else t).shown O = if p then s.shown O else t.shown O := apply_ite (State.shown · O) p s t

/-- What an observer sees of the state that an operation with a further result leaves. -/
def fstShown {γ : Type} (O : Observer β) (x : State × γ) : β := x.1.shown O

@[simp] theorem fst_shown {γ : Type} (x : State × γ) : x.1.shown O = fstShown O x := by rw [fstShown]

@[simp] theorem fstShown_mk {γ : Type} (s : State) (b : γ) : fstShown O (s, b) = s.shown O := by rw [fstShown]

@[simp] theorem ite_fstShown {γ : Type} (p : Prop) [Decidable p] (x y : State × γ) :
    fstShown O (if p then x else y) = if p then fstShown O x else fstShown O y := apply_ite (fstShown O) p x y

theorem shown_of_eq {γ : Type} {x : State × γ} {t : State} {b : γ} (h : x = (t, b)) : t.shown O = fstShown O x := by rw [h]; rfl

/-- A command that answers a next state in which the observer sees this. -/
def Serves (O : Observer β) (b : β) : Res → Prop
  | .next t => t.shown O = b
  | _ => False

@[simp] theorem serves_next (b : β) (t : State) : Serves O b (.next t) ↔ t.shown O = b := by rw [Serves]

@[simp] theorem serves_onlyIf (b : β) (g : Bool) (s t : State) :
    Serves O b (onlyIf g s t) ↔ (if g then t else s).shown O = b := by rw [onlyIf, Serves]

theorem Serves.ite {b : β} {p : Prop} [Decidable p] {x y : Res} (hx : Serves O b x) (hy : Serves O b y) :
    Serves O b (if p then x else y) := by
  split
  · exact hx
  · exact hy

@[simp] theorem serves_ite (b : β) (p : Prop) [Decidable p] (x y : Res) :
    Serves O b (if p then x else y) ↔ if p then Serves O b x else Serves O b y := by
  split <;> rfl

/-- An operation that succeeds leaves a state of which the observer sees this. -/
def ShowsIfSome (O : Observer β) (b : β) (o : Option State) : Prop := ∀ t, o = some t → t.shown O = b

theorem ShowsIfSome.some {b : β} {t : State} (h : t.shown O = b) : ShowsIfSome O b (Option.some t) := fun _ hu => Option.some.inj hu ▸ h

theorem ShowsIfSome.bind {b : β} {o : Option State} {g : State → Option State} (ho : ShowsIfSome O b o)
    (hg : ∀ t, t.shown O = b → ShowsIfSome O b (g t)) : ShowsIfSome O b (o.bind g) := fun u hu =>
  have ⟨t, ht, hu⟩ := Option.bind_eq_some_iff.1 hu
  hg t (ho t ht) u hu

theorem ShowsIfSome.map {α : Type} {b : β} {o : Option α} {g : α → State} (hg : ∀ a, (g a).shown O = b) :
    ShowsIfSome O b (o.map g) := fun _ hu =>
  have ⟨a, _, ha⟩ := Option.map_eq_some_iff.1 hu
  ha ▸ hg a

theorem ShowsIfSome.none {b : β} : ShowsIfSome O b Option.none := by simp [ShowsIfSome]

/-- A read of other pumps' memory that shows nothing to the observer. -/
def Reader.Unseen (O : Observer β) (rd : Reader) : Prop := ∀ s ch n, fstShown O (rd s ch n) = s.shown O

@[simp] theorem State.each_shown {α : Type} (s : State) (l : List α) (f : State → α → State)
    (hf : ∀ a t, (f t a).shown O = t.shown O) : (s.each l f).shown O = s.shown O :=
  State.each_same (State.shown · O) f (fun t a => hf a t) l s

@[simp] theorem foldl_shown {α : Type} (l : List α) (f : State → α → State) (s : State) (hf : ∀ a t, (f t a).shown O = t.shown O) :
    (l.foldl f s).shown O = s.shown O := State.each_shown s l f hf

theorem foldl_fstShown {α γ : Type} (l : List α) (f : State × γ → α → State × γ) (x : State × γ)
    (hf : ∀ a y, fstShown O (f y a) = fstShown O y) : fstShown O (l.foldl f x) = fstShown O x := by
  induction l generalizing x with
  | nil => rfl
  | cons a l ih => exact (ih _).trans (hf a x)

@[simp] theorem State.onMc_shown (s : State) (f : Gnover → Gnover) : (s.onMc f).shown O = s.shown O := State.shown_of_ch rfl rfl

/-- An update of a channel that leaves the issued operations of its pumps is not seen. -/
@[simp] theorem State.onChan_shown (s : State) (c : Chan) (f : Channel → Channel) (hf : ∀ h, (f h).ctl = h.ctl) :
    (s.onChan c f).shown O = s.shown O := by
  refine State.shown_congr rfl fun d => ?_
  by_cases hd : d = c
  · subst hd
    rw [State.onChan_chan, hf]
  · rw [State.onChan_chan_ne _ _ _ _ hd]

theorem Channel.ctl_of_pumps {h k : Channel} (e : k.pumps = h.pumps) : k.ctl = h.ctl := by
  unfold Channel.ctl
  rw [e]

/-- A channel with other contents beside its pumps has the same issued operations. -/
@[simp] theorem Channel.mk_ctl (h : Channel) (st slots polders wells set stSet cis hbm hbmUpset hbmDead stack held atoms decls fills ports
    router arbs reg pwr thm bbx peekOff peekSlot badLanes badAdders badStore claims stalled) :
    (Channel.mk st slots polders h.pumps wells set stSet cis hbm hbmUpset hbmDead stack held atoms decls fills ports
      router arbs reg pwr thm bbx peekOff peekSlot badLanes badAdders badStore claims stalled).ctl = h.ctl := Channel.ctl_of_pumps rfl

/-- One pump's update that leaves its issued operations. -/
theorem Channel.pump_ctl (h : Channel) (p : PumpIx) (f : Pump → Pump) (hf : ∀ q, (f q).todo = q.todo ∧ (f q).queued = q.queued ∧ (f q).bq = q.bq ∧ (f q).engine = q.engine) :
    Channel.ctl { h with pumps := upd h.pumps p f } = h.ctl := by
  refine funext fun i => ?_
  by_cases hi : i = p
  · subst hi
    simp only [Channel.ctl, upd_self]
    obtain ⟨ht, hq, hb, he⟩ := hf h.pumps[i.val]
    rw [Pump.ctl, ht, hq, hb, he]
    rfl
  · simp only [Channel.ctl, upd_of_ne _ _ _ _ hi]

@[simp] theorem State.onPump_shown (s : State) (c : Chan) (p : PumpIx) (f : Pump → Pump)
    (hf : ∀ q, (f q).todo = q.todo ∧ (f q).queued = q.queued ∧ (f q).bq = q.bq ∧ (f q).engine = q.engine) : (s.onPump c p f).shown O = s.shown O := by
  exact State.onChan_shown s c _ fun h => h.pump_ctl p f hf

@[simp] theorem State.onSlot_shown (s : State) (c : Chan) (j : SlotIx) (f : Slot → Slot) : (s.onSlot c j f).shown O = s.shown O :=
  State.onChan_shown s c _ fun _ => Channel.ctl_of_pumps rfl

@[simp] theorem State.onFr_shown (s : State) (c : Chan) (j : SlotIx) (f : SlotFrame → SlotFrame) : (s.onFr c j f).shown O = s.shown O :=
  State.onChan_shown s c _ fun _ => Channel.ctl_of_pumps rfl

@[simp] theorem State.onRegs_shown (s : State) (c : Chan) (j : SlotIx) (f : SlotRegs → SlotRegs) : (s.onRegs c j f).shown O = s.shown O :=
  State.onChan_shown s c _ fun _ => Channel.ctl_of_pumps rfl

@[simp] theorem State.onStg_shown (s : State) (c : Chan) (j : SlotIx) (f : Staging → Staging) : (s.onStg c j f).shown O = s.shown O :=
  State.onChan_shown s c _ fun _ => Channel.ctl_of_pumps rfl

@[simp] theorem State.onPort_shown (s : State) (c : Chan) (p : PortIx) (f : Port → Port) : (s.onPort c p f).shown O = s.shown O :=
  State.onChan_shown s c _ fun _ => Channel.ctl_of_pumps rfl

@[simp] theorem State.onPolder_shown (s : State) (c : Chan) (p : PolderIx) (f : Polder → Polder) : (s.onPolder c p f).shown O = s.shown O :=
  State.onChan_shown s c _ fun _ => Channel.ctl_of_pumps rfl

@[simp] theorem State.onCis_shown (s : State) (c : Chan) (f : Cistern → Cistern) : (s.onCis c f).shown O = s.shown O :=
  State.onChan_shown s c _ fun _ => Channel.ctl_of_pumps rfl

@[simp] theorem State.onPwr_shown (s : State) (c : Chan) (f : Power → Power) : (s.onPwr c f).shown O = s.shown O :=
  State.onChan_shown s c _ fun _ => Channel.ctl_of_pumps rfl

@[simp] theorem State.onSt_shown (s : State) (c : Chan) (f : ChStatus → ChStatus) : (s.onSt c f).shown O = s.shown O :=
  State.onChan_shown s c _ fun _ => Channel.ctl_of_pumps rfl

@[simp] theorem State.onSlice_shown (s : State) (c : Chan) (p : PumpIx) (f : Slice → Slice) : (s.onSlice c p f).shown O = s.shown O :=
  State.onPump_shown s c p _ fun _ => ⟨rfl, rfl, rfl, rfl⟩

@[simp] theorem State.emit_shown (s : State) (o : Output) : (s.emit o).shown O = s.shown O := State.shown_of_ch rfl rfl

@[simp] theorem State.until_shown (s : State) (ns : Nat) : (s.until ns).shown O = s.shown O := State.shown_of_ch rfl rfl

/-- Every pump's update that leaves its issued operations. -/
theorem Channel.map_ctl (h : Channel) (f : Pump → Pump) (hf : ∀ q, (f q).todo = q.todo ∧ (f q).queued = q.queued ∧ (f q).bq = q.bq ∧ (f q).engine = q.engine) :
    Channel.ctl { h with pumps := h.pumps.map f } = h.ctl := by
  refine funext fun i => ?_
  simp only [Channel.ctl, Vector.getElem_map]
  obtain ⟨ht, hq, hb, he⟩ := hf h.pumps[i.val]
  rw [Pump.ctl, ht, hq, hb, he]
  rfl

@[simp] theorem Channel.store_ctl (h : Channel) (k : Nat) (v : Granule) : (h.store k v).ctl = h.ctl := by
  unfold Channel.store
  split
  · exact h.pump_ctl _ _ fun _ => by dsimp only; split <;> exact ⟨rfl, rfl, rfl, rfl⟩
  · split <;> exact Channel.ctl_of_pumps rfl

@[simp] theorem Channel.dropLine_ctl (h : Channel) (a : FabAddr) : (h.dropLine a).ctl = h.ctl :=
  h.map_ctl _ fun _ => ⟨rfl, rfl, rfl, rfl⟩

@[simp] theorem Pump.onRow_todo (q : Pump) (m : PumpMem) (row : Nat) (f : Granule → Granule) : (q.onRow m row f).todo = q.todo := by
  cases m <;> rfl

@[simp] theorem Pump.onRow_queued (q : Pump) (m : PumpMem) (row : Nat) (f : Granule → Granule) : (q.onRow m row f).queued = q.queued := by
  cases m <;> rfl

@[simp] theorem Pump.onRow_bq (q : Pump) (m : PumpMem) (row : Nat) (f : Granule → Granule) : (q.onRow m row f).bq = q.bq := by
  cases m <;> rfl

@[simp] theorem Pump.onRow_engine (q : Pump) (m : PumpMem) (row : Nat) (f : Granule → Granule) : (q.onRow m row f).engine = q.engine := by
  cases m <;> rfl

@[simp] theorem Pump.setUps_todo (q : Pump) (m : PumpMem) (u : SMap CodeWord) : (q.setUps m u).todo = q.todo := by
  cases m <;> rfl

@[simp] theorem Pump.setUps_queued (q : Pump) (m : PumpMem) (u : SMap CodeWord) : (q.setUps m u).queued = q.queued := by
  cases m <;> rfl

@[simp] theorem Pump.setUps_bq (q : Pump) (m : PumpMem) (u : SMap CodeWord) : (q.setUps m u).bq = q.bq := by
  cases m <;> rfl

@[simp] theorem Pump.setUps_engine (q : Pump) (m : PumpMem) (u : SMap CodeWord) : (q.setUps m u).engine = q.engine := by
  cases m <;> rfl

/-! ### Not seen: contexts, jobs, markers and events -/

@[simp] theorem State.onCtx_shown (s : State) (n : Nat) (f : Ctx → Ctx) : (s.onCtx n f).shown O = s.shown O := by simp [State.onCtx]

@[simp] theorem State.marker_shown (s : State) (c : Chan) (port : PortIx) (m : Marker) : (s.marker c port m).shown O = s.shown O := by
  simp [State.marker]

@[simp] theorem State.sendNow_shown (s : State) (c : Chan) (port : PortIx) (f : OutFlit) : (s.sendNow c port f).shown O = s.shown O := by simp [State.sendNow]

@[simp] theorem State.sendFlit_shown (s : State) (c : Chan) (port : PortIx) (f : OutFlit) : (s.sendFlit c port f).shown O = s.shown O := by
  simp [State.sendFlit]

@[simp] theorem State.flush_shown (s : State) (c : Chan) (port : PortIx) (fuel : Nat) : (s.flush c port fuel).shown O = s.shown O := by
  induction fuel generalizing s with
  | zero => rfl
  | succ n ih => unfold State.flush; split <;> simp [ih]

@[simp] theorem State.event_shown (s : State) (c : Chan) (typ : Nat) (slot : Option SlotIx) (unit : Nat) (d : BitVec 128) :
    (s.event c typ slot unit d).shown O = s.shown O := by simp [State.event]

@[simp] theorem State.tryForward_shown (s : State) (c : Chan) (j : SlotIx) : (s.tryForward c j).shown O = s.shown O := by
  simp only [State.tryForward]
  (repeat' split) <;> simp

@[simp] theorem State.report_shown (s : State) (c : Chan) (j : SlotIx) (fault : Bool) (cause : Fin 7) (late : Nat) :
    (s.report c j fault cause late).shown O = s.shown O := by simp [State.report]

@[simp] theorem State.faultEvent_shown (s : State) (c : Chan) (slot : Option SlotIx) (code kind unit addr : Nat)
    (reporter : ChanAddr) :
    (s.faultEvent c slot code kind unit addr reporter).shown O = s.shown O := by simp [State.faultEvent]

@[simp] theorem State.stopPumps_shown (s : State) (c : Chan) (j : SlotIx) : (s.stopPumps c j).shown O = s.shown O := by
  simp [State.stopPumps]

@[simp] theorem State.stopMember_shown (s : State) (c : Chan) (j : SlotIx) : (s.stopMember c j).shown O = s.shown O := by
  simp [State.stopMember]

@[simp] theorem State.fault_shown (s : State) (c : Chan) (j : SlotIx) (cause : Cause) (kind : UnitKind) (unit addr : Nat) :
    (s.fault c j cause kind unit addr).shown O = s.shown O := by simp [State.fault]

@[simp] theorem State.pumpFault_shown (s : State) (c : Chan) (p : PumpIx) (cause : Cause) (addr : Nat) :
    (s.pumpFault c p cause addr).shown O = s.shown O := by
  unfold State.pumpFault
  split <;> simp

@[simp] theorem State.faultAll_shown (s : State) (c : Chan) (js : List SlotIx) (cause : Cause) (kind : UnitKind) (unit : Nat) :
    (s.faultAll c js cause kind unit).shown O = s.shown O := by simp [State.faultAll]

@[simp] theorem State.sendTo_shown (s : State) (c : Chan) (j : Option SlotIx) (rset : BitVec 2) (dest : ChanAddr) (f : OutFlit) :
    (s.sendTo c j rset dest f).shown O = s.shown O := by
  unfold State.sendTo
  (repeat' split) <;> simp

@[simp] theorem State.onRing_shown (s : State) (r : RingId) (f : Ring → Ring) : (s.onRing r f).shown O = s.shown O := by
  unfold State.onRing
  (repeat' split) <;> simp

@[simp] theorem State.reply_shown (s : State) (h : Hdr) (buf len : Nat) (bytes : List (BitVec 8)) :
    (s.reply h buf len bytes).shown O = s.shown O := by simp [State.reply]

@[simp] theorem State.complete_shown (s : State) (h : Hdr) (status : Nat) (result : Nat) :
    (s.complete h status result).shown O = s.shown O := by simp [State.complete]

@[simp] theorem State.done_serves (s : State) (h : Hdr) (status : Nat) (result : Nat) (b : β) :
    Serves O b (s.done h status result) ↔ s.shown O = b := by simp [State.done]

@[simp] theorem State.onJob_shown (s : State) (ctx job : Nat) (f : Job → Job) : (s.onJob ctx job f).shown O = s.shown O := by simp [State.onJob]

@[simp] theorem State.jobEvent_shown (s : State) (ctx job : Nat) (code status cause frame : Nat) :
    (s.jobEvent ctx job code status cause frame).shown O = s.shown O := by
  unfold State.jobEvent
  (repeat' split) <;> simp

/-! ### Not seen: defects and the fabric map -/

@[simp] theorem State.addDefect_shown (s : State) (c : Chan) (k : DefectKind) (src unit loc : Nat) :
    (s.addDefect c k src unit loc).shown O = s.shown O := by simp [State.addDefect]

@[simp] theorem State.sendMgmt_shown (s : State) (c : Chan) (dest : ChanAddr) (r : MgmtRec) :
    (s.sendMgmt c dest r).shown O = s.shown O := by simp [State.sendMgmt]

@[simp] theorem State.mapPut_shown (s : State) (c : Chan) (new : MapChan) : (s.mapPut c new).shown O = s.shown O := by
  simp [State.mapPut]

@[simp] theorem State.mapBump_shown (s : State) (c : Chan) (f : MapChan → MapChan) : (s.mapBump c f).shown O = s.shown O := by
  unfold State.mapBump
  split <;> simp

@[simp] theorem State.mapUpdate_shown (s : State) (c : Chan) (f : MapChan → MapChan) : (s.mapUpdate c f).shown O = s.shown O := by
  unfold State.mapUpdate
  split <;> simp

@[simp] theorem State.mapSync_shown (s : State) (c : Chan) : (s.mapSync c).shown O = s.shown O := by simp [State.mapSync]

/-! ### Not seen: requests to the ports -/

@[simp] theorem State.raiseAt_shown (s : State) (c : Chan) (port : ArbPort) (q : Req) : (s.raiseAt c port q).shown O = s.shown O := by simp [State.raiseAt]

@[simp] theorem State.raiseOne_shown (s : State) (c : Chan) (port : ArbPort) (q : Req) : (s.raiseOne c port q).shown O = s.shown O := by
  unfold State.raiseOne
  split <;> simp

@[simp] theorem State.raise_shown (s : State) (c : Chan) (port : ArbPort) (cls : ReqClass) (who : Nat) (slot : Option SlotIx)
    (n : Nat) :
    (s.raise c port cls who slot n).shown O = s.shown O := by simp [State.raise]

@[simp] theorem State.sendFor_shown (s : State) (c : Chan) (cls : ReqClass) (who : Nat) (j : SlotIx) (dest : ChanAddr) (f : OutFlit)
    :
    (s.sendFor c cls who j dest f).shown O = s.shown O := by
  unfold State.sendFor
  split <;> simp

/-! ### Not seen: slice and high-bandwidth memory -/

@[simp] theorem State.raiseBursts_shown (s : State) (c : Chan) (cls : ReqClass) (who : Nat) (slot : Option SlotIx) (ks : List Nat) :
    (s.raiseBursts c cls who slot ks).shown O = s.shown O := State.each_shown _ _ _ fun b t => by split <;> simp

@[simp] theorem State.pinCheck_shown (s : State) (c : Chan) (source unit : Nat) : (s.pinCheck c source unit).shown O = s.shown O := by
  simp only [State.pinCheck]
  split <;> simp

@[simp] theorem State.logCe_shown (s : State) (c : Chan) (source unit addr sym : Nat) (wrote : Bool) :
    (s.logCe c source unit addr sym wrote).shown O = s.shown O := by
  unfold State.logCe
  (repeat' split) <;> simp

@[simp] theorem State.logUe_shown (s : State) (c : Chan) (source unit addr : Nat) (owned : Bool) :
    (s.logUe c source unit addr owned).shown O = s.shown O := by simp [State.logUe]

@[simp] theorem State.ueEvent_shown (s : State) (c : Chan) (j : Option SlotIx) (unit : Nat) :
    (s.ueEvent c j unit).shown O = s.shown O := by simp [State.ueEvent]

@[simp] theorem State.dataUe_shown (s : State) (c : Chan) (source k : Nat) : (s.dataUe c source k).shown O = s.shown O := by
  simp only [State.dataUe]
  split <;> simp

@[simp] theorem State.refuseWrite_shown (s : State) (c : Chan) (k : Nat) : (s.refuseWrite c k).shown O = s.shown O := by
  simp [State.refuseWrite]

@[simp] theorem State.checked_shown (s : State) (c : Chan) (k : Nat) (v : Granule) (e : CodeWord) :
    fstShown O (s.checked c k v e) = s.shown O := by
  unfold State.checked
  split <;> simp

@[simp] theorem State.forWrite_shown (s : State) (c : Chan) (k : Nat) : fstShown O (s.forWrite c k) = s.shown O := by
  simp only [State.forWrite]
  (repeat' split) <;> simp

@[simp] theorem State.storeAt_shown (s : State) (c : Chan) (j : Option SlotIx) (k : Nat) (v : Granule) :
    (s.storeAt c j k v).shown O = s.shown O := by
  simp only [State.storeAt]
  split <;> simp

@[simp] theorem State.countNarrow_shown (s : State) (c : Chan) (j : SlotIx) : (s.countNarrow c j).shown O = s.shown O := by simp [State.countNarrow]

@[simp] theorem State.ueFound_shown (s : State) (c : Chan) (k : Nat) : (s.ueFound c k).shown O = s.shown O := by
  simp only [State.ueFound]
  split <;> simp

@[simp] theorem State.mergeBlock_shown (s : State) (c : Chan) (k : Nat) : (s.mergeBlock c k).shown O = s.shown O := by
  unfold State.mergeBlock
  split
  · rfl
  · exact State.each_shown _ _ _ fun i t => by dsimp only; (repeat' split) <;> simp

@[simp] theorem State.applyBytes_shown (s : State) (c : Chan) (j : SlotIx) (k frame : Nat) (es : List Held) :
    (s.applyBytes c j k frame es).shown O = s.shown O := by
  simp only [State.applyBytes]
  (repeat' split) <;> simp

@[simp] theorem State.applyAtoms_shown (s : State) (c : Chan) (k : Nat) (as : List HeldAtom) :
    (s.applyAtoms c k as).shown O = s.shown O := by
  refine State.each_shown _ _ _ fun u t => ?_
  dsimp only
  split
  · rfl
  · split
    · split <;> simp [shown_of_eq ‹_ = (_, _)›]
    · simp

@[simp] theorem State.killBlocks_shown (s : State) (c : Chan) (j : SlotIx) (k0 count : Nat) (fill : Granule) (scales : List Nat)
    (frame : Nat) :
    (s.killBlocks c j k0 count fill scales frame).shown O = s.shown O := by
  simp only [State.killBlocks]
  (repeat' split) <;> simp

@[simp] theorem State.applyDecls_shown (s : State) (c : Chan) (k : Nat) : (s.applyDecls c k).shown O = s.shown O := by
  simp [State.applyDecls]

@[simp] theorem State.heldRead_shown (s : State) (c : Chan) (j : Option SlotIx) (unit at_ : Nat) (v : Granule) (e : CodeWord) :
    fstShown O (s.heldRead c j unit at_ v e) = s.shown O := by
  unfold State.heldRead
  (repeat' split) <;> simp

@[simp] theorem State.foldUpto_shown (s : State) (c : Chan) (p : PumpIx) (g rank : Nat) :
    (s.foldUpto c p g rank).shown O = s.shown O := by
  unfold State.foldUpto
  split
  · extract_lets old new j s0
    have h0 : s0.shown O = s.shown O := s.onSlice_shown ..
    refine State.shown_ite rfl ?_
    split
    · exact (shown_of_eq ‹_›).trans ((s0.forWrite_shown ..).trans h0)
    · rename_i s1 v h1
      have h1 : s1.shown O = s.shown O := (shown_of_eq h1).trans ((s0.forWrite_shown ..).trans h0)
      refine State.shown_ite ((s1.dataUe_shown ..).trans h1) ?_
      split
      rename_i s2 sum h2
      refine (s2.storeAt_shown ..).trans ((shown_of_eq h2).trans ((foldl_fstShown _ _ _ fun ib a => ?_).trans h1))
      exact a.1.heldRead_shown ..
  · rfl

@[simp] theorem State.foldInbound_shown (s : State) (c : Chan) (p : PumpIx) (g : Nat) : (s.foldInbound c p g).shown O = s.shown O := by
  simp [State.foldInbound]

@[simp] theorem State.applyFrame_shown (s : State) (c : Chan) (k frame : Nat) : (s.applyFrame c k frame).shown O = s.shown O := by
  unfold State.applyFrame
  extract_lets mineE mineA es as s0 s1
  have h1 : s1.shown O = s.shown O := by
    unfold s1
    split <;> simp [s0]
  split
  rename_i s2 vs h2
  have h2 : s2.shown O = fstShown O (s1, ([] : List Held)) := (shown_of_eq h2).trans (foldl_fstShown _ _ _ fun e r => r.1.heldRead_shown ..)
  extract_lets s3 s4
  have h3 : s3.shown O = s.shown O := by cases hv : vs <;> simp [s3, hv, h2, h1]
  have h4 : s4.shown O = s.shown O := State.shown_ite h3 ((s3.applyAtoms_shown ..).trans h3)
  split
  · exact State.shown_ite h4 ((s4.onSlice_shown ..).trans h4)
  · exact h4

@[simp] theorem State.applyDue_shown (s : State) (c : Chan) (k : Nat) : (s.applyDue c k).shown O = s.shown O := by simp [State.applyDue]

@[simp] theorem State.settle_shown (s : State) (c : Chan) (k : Nat) : (s.settle c k).shown O = s.shown O := by
  unfold State.settle
  split <;> simp

@[simp] theorem State.deadRead_shown (s : State) (c : Chan) (j : SlotIx) (k : Nat) : (s.deadRead c j k).shown O = s.shown O := by
  simp [State.deadRead]

@[simp] theorem State.readBase_shown (s : State) (c : Chan) (j : Option SlotIx) (k : Nat) :
    fstShown O (s.readBase c j k) = s.shown O := by
  unfold State.readBase
  split <;> simp

@[simp] theorem State.readOwn_shown (s : State) (c : Chan) (p : PumpIx) (g : Nat) : fstShown O (s.readOwn c p g) = s.shown O := by
  simp [State.readOwn]

@[simp] theorem State.readShared_shown (s : State) (c : Chan) (j : Option SlotIx) (k : Nat) :
    fstShown O (s.readShared c j k) = s.shown O := by
  unfold State.readShared
  (repeat' split) <;> simp

@[simp] theorem State.heldFull_shown (s : State) (c : Chan) (j : SlotIx) (p : Option PumpIx) (kind used : Nat) :
    (s.heldFull c j p kind used).shown O = s.shown O := by simp [State.heldFull]

@[simp] theorem State.hold_shown (s : State) (c : Chan) (j : SlotIx) (frame : Nat) (r : WriteRec) :
    (s.hold c j frame r).shown O = s.shown O := by
  simp only [State.hold]
  (repeat' split) <;> simp

@[simp] theorem State.echo_shown (s : State) (c : Chan) (p : PumpIx) (a : FabAddr) (mask : BitVec 32) (v : Granule) :
    (s.echo c p a mask v).shown O = s.shown O := by
  unfold State.echo
  split <;> simp

@[simp] theorem State.overlay_shown (s : State) (c : Chan) (p : PumpIx) (a : FabAddr) (v : Granule) :
    fstShown O (s.overlay c p a v) = s.shown O := foldl_fstShown _ _ _ fun e r => by simp

@[simp] theorem State.shadow_shown (s : State) (c : Chan) (p : PumpIx) (g : Nat) (mask : BitVec 32) :
    (s.shadow c p g mask).shown O = s.shown O := by
  unfold State.shadow
  (repeat' split) <;> simp

@[simp] theorem State.bar_shown (s : State) (c : Chan) (j : SlotIx) : (s.bar c j).shown O = s.shown O := by simp [State.bar]

@[simp] theorem State.writeOwn_shown (s : State) (c : Chan) (p : PumpIx) (g : Nat) (mask : BitVec 32) (v : Granule) :
    (s.writeOwn c p g mask v).shown O = s.shown O := by
  unfold State.writeOwn
  refine State.shown_ite rfl ?_
  split
  · exact s.bar_shown ..
  · extract_lets k s1 j
    have h1 : s1.shown O = s.shown O := (State.shadow_shown ..).trans (s.settle_shown ..)
    clear_value j s1
    refine State.shown_ite ((s1.storeAt_shown ..).trans h1) ?_
    rcases h2 : s1.forWrite c k with ⟨s2, _ | old⟩
    · exact (shown_of_eq h2).trans ((s1.forWrite_shown c k).trans h1)
    · have h2 : s2.shown O = s.shown O := (shown_of_eq h2).trans ((s1.forWrite_shown c k).trans h1)
      cases j <;> simp [h2]

@[simp] theorem State.checkInbound_shown (s : State) (c : Chan) (p : PumpIx) (g frame : Nat) :
    (s.checkInbound c p g frame).shown O = s.shown O := by
  unfold State.checkInbound
  split <;> simp

@[simp] theorem State.combineAt_shown (s : State) (c : Chan) (p : PumpIx) (g : Nat) (frame : Nat) (v : Granule) :
    (s.combineAt c p g frame v).shown O = s.shown O := by simp [State.combineAt]

/-! ### Not seen: operands of a pump -/

@[simp] theorem State.checkRow_shown (s : State) (c : Chan) (p : PumpIx) (m : PumpMem) (row : Nat) :
    (s.checkRow c p m row).shown O = s.shown O := by
  simp only [State.checkRow]
  (repeat' split) <;> simp

@[simp] theorem State.checkRows_shown (s : State) (c : Chan) (p : PumpIx) (m : PumpMem) (lo hi : Nat) :
    (s.checkRows c p m lo hi).shown O = s.shown O := by simp [State.checkRows]

@[simp] theorem State.unlessStopped_shown (s : State) (c : Chan) (p : PumpIx) (f : State → State) (hf : ∀ t, (f t).shown O = t.shown O)
    :
    (s.unlessStopped c p f).shown O = s.shown O := by simp [State.unlessStopped, hf]

@[simp] theorem State.atWord_serves (s : State) (c : Chan) (p : PumpIx) (w : BitVec 64) (act : State → State)
    (hf : ∀ t, (act t).shown O = t.shown O) :
    Serves O (s.shown O) (s.atWord c p w act) := by simp [State.atWord, hf]

@[simp] theorem State.withData_shown (s : State) (c : Chan) (p : PumpIx) (a n : Nat) (act : State → State)
    (hf : ∀ t, (act t).shown O = t.shown O) :
    (s.withData c p a n act).shown O = s.shown O := by simp [State.withData, hf]

/-! ### Not seen: views that a transfer reads -/

@[simp] theorem View.readGran_shown (rd : Reader) (s : State) (w : View) (v i : Nat) (hf : Reader.Unseen O rd) :
    fstShown O (View.readGran rd s w v i) = s.shown O := by
  unfold View.readGran
  split
  · exact hf _ _ _
  · rfl

@[simp] theorem View.readBits_shown (rd : Reader) (s : State) (w : View) (sp : Nat × List Int) (k n : Nat)
    (hf : Reader.Unseen O rd) :
    fstShown O (View.readBits rd s w sp k n) = s.shown O := by
  simp only [View.readBits]
  split <;> simp [View.readGran_shown _ _ _ _ _ hf]

@[simp] theorem View.readScalar_shown (rd : Reader) (s : State) (w : View) (ix : List Int) (hf : Reader.Unseen O rd) :
    fstShown O (View.readScalar rd s w ix) = s.shown O := by
  unfold View.readScalar
  (repeat' split) <;> simp [*]

@[simp] theorem View.readBlock_shown (rd : Reader) (s : State) (w : View) (ix : List Int) (hf : Reader.Unseen O rd) :
    fstShown O (View.readBlock rd s w ix) = s.shown O := by
  unfold View.readBlock
  (repeat' split) <;> simp [*]

@[simp] theorem readEach_shown {α β : Type} (f : State → α → State × β) (x : State) (y : List α)
    (hf : ∀ a t, fstShown O (f t a) = t.shown O) :
    fstShown O (readEach f x y) = x.shown O := by
  induction y generalizing x with
  | nil => rfl
  | cons a l ih => exact (ih _).trans (hf a x)

@[simp] theorem View.readScalars_shown (rd : Reader) (s : State) (w : View) (win : Window) (hf : Reader.Unseen O rd) :
    fstShown O (View.readScalars rd s w win) = s.shown O := by simp [View.readScalars, hf]

@[simp] theorem View.readRowBlocks_shown (rd : Reader) (s : State) (w : View) (win : Window) (outer : List Nat)
    (hf : Reader.Unseen O rd) :
    fstShown O (View.readRowBlocks rd s w win outer) = s.shown O := by simp [View.readRowBlocks, hf]

@[simp] theorem View.readRowNums_shown (rd : Reader) (s : State) (w : View) (win : Window) (outer : List Nat)
    (hf : Reader.Unseen O rd) :
    fstShown O (View.readRowNums rd s w win outer) = s.shown O := by
  simp only [View.readRowNums]
  split
  · simp [View.readRowBlocks_shown _ _ _ _ _ hf]
  · exact readEach_shown _ _ _ fun i t => View.readScalar_shown _ _ _ _ hf

@[simp] theorem copyViews_shown (rd : Reader) (s : State) (src : View) (sw : Window) (dst : View) (dw : Window) (sr : Option Nat)
    (hf : Reader.Unseen O rd) :
    fstShown O (copyViews rd s src sw dst dw sr) = s.shown O := by
  simp only [copyViews]
  split
  · exact View.readScalars_shown _ _ _ _ hf
  · split
    · exact foldl_fstShown _ _ _ fun o acc => View.readRowBlocks_shown _ _ _ _ _ hf
    · exact foldl_fstShown _ _ _ fun o acc => View.readRowNums_shown _ _ _ _ _ hf

@[simp] theorem transposeViews_shown (rd : Reader) (s : State) (src : View) (sw : Window) (dst : View) (dw : Window)
    (sr : Option Nat) (hf : Reader.Unseen O rd) :
    fstShown O (transposeViews rd s src sw dst dw sr) = s.shown O := by simp [transposeViews, hf]

@[simp] theorem readoutViews_shown (rd : Reader) (s : State) (src : View) (sw : Window) (dst : View) (dw : Window) (ro : RoFmt)
    (hf : Reader.Unseen O rd) :
    fstShown O (readoutViews rd s src sw dst dw ro) = s.shown O := by simp [readoutViews, hf]

@[simp] theorem View.pack_shown (rd : Reader) (s : State) (w : View) (win : Window) (hf : Reader.Unseen O rd) :
    fstShown O (View.pack rd s w win) = s.shown O := by
  simp only [View.pack]
  split
  · exact foldl_fstShown _ _ _ fun o acc => View.readRowBlocks_shown _ _ _ _ _ hf
  · exact View.readScalars_shown _ _ _ _ hf

@[simp] theorem View.packReadout_shown (rd : Reader) (s : State) (w : View) (win : Window) (ro : RoFmt) (hf : Reader.Unseen O rd)
    :
    fstShown O (View.packReadout rd s w win ro) = s.shown O := by simp [View.packReadout, hf]

/-! ### Not seen: transfers of a pump -/

@[simp] theorem State.lineHit_shown (s : State) (c : Chan) (p : PumpIx) : (s.lineHit c p).shown O = s.shown O := by
  unfold State.lineHit
  split <;> simp

@[simp] theorem State.lineCheck_shown (s : State) (c : Chan) (p : PumpIx) (l : CLine) (i : Nat) :
    (s.lineCheck c p l i).shown O = s.shown O := by
  unfold State.lineCheck
  split <;> simp

@[simp] theorem State.pumpBase_serves (s : State) (c : Chan) (p : PumpIx) (lines : Bool) :
    Reader.Unseen O (s.pumpBase c p lines) := by
  intro t ch k
  unfold State.pumpBase
  extract_lets i own line s1
  have h1 : s1.shown O = t.shown O := by cases hl : line <;> simp [s1, hl]
  split
  · exact (s1.readOwn_shown c p _).trans h1
  · split
    · exact (s1.readShared_shown c _ k).trans h1
    · split <;> exact h1

@[simp] theorem State.pumpRead_serves (s : State) (c : Chan) (p : PumpIx) (lines : Bool) :
    Reader.Unseen O (s.pumpRead c p lines) := by
  intro t ch k
  exact (State.overlay_shown _ _ _ _ _).trans (s.pumpBase_serves c p lines t ch k)

@[simp] theorem State.sendWrites_shown (s : State) (c : Chan) (cls : ReqClass) (who : Nat) (j : SlotIx) (ch : ChanAddr) (x : Nat)
    (y : List WriteRec) :
    (s.sendWrites c cls who j ch x y).shown O = s.shown O := by
  induction x generalizing s y with
  | zero => rfl
  | succ n ih => unfold State.sendWrites; split <;> simp [ih]

@[simp] theorem State.expect_shown (s : State) (c : Chan) (p : PumpIx) (opc n : Nat) (grp : Option GSlot) (foot : List Foot) :
    (s.expect c p opc n grp foot).shown O = s.shown O := by simp [State.expect]

@[simp] theorem State.stripOwn_shown (s : State) (c : Chan) (p : PumpIx) (g : Nat) (mask : BitVec 32) :
    (s.stripOwn c p g mask).shown O = s.shown O := by simp [State.stripOwn]

@[simp] theorem State.writePrivate_shown (s : State) (c : Chan) (p : PumpIx) (g : Nat) (mask : BitVec 32) (v : Granule) :
    (s.writePrivate c p g mask v).shown O = s.shown O := by simp [State.writePrivate]

@[simp] theorem State.writeOwnBytes_shown (s : State) (c : Chan) (p : PumpIx) (m : Bytes) :
    (s.writeOwnBytes c p m).shown O = s.shown O := by simp [State.writeOwnBytes]

@[simp] theorem State.writeGlobal_shown (s : State) (c : Chan) (p : PumpIx) (j : SlotIx) (ch : ChanAddr) (k : Nat)
    (mask : BitVec 32) (v : Granule) (noecho : Bool) :
    (s.writeGlobal c p j ch k mask v noecho).shown O = s.shown O := by
  unfold State.writeGlobal
  (repeat' split) <;> simp

@[simp] theorem State.pumpWrite_shown (s0 : State) (c : Chan) (cls : ReqClass) (p : PumpIx) (j : SlotIx) (m0 : Bytes)
    (noecho priv : Bool) :
    fstShown O (s0.pumpWrite c cls p j m0 noecho priv) = s0.shown O := by
  unfold State.pumpWrite
  extract_lets m s own s1 away dests key
  have h0 : s.shown O = s0.shown O := State.shown_ite (s0.bar_shown c j) rfl
  have h1 : s1.shown O = s.shown O := by
    refine State.each_shown _ _ _ fun e t => ?_
    dsimp only
    split
    · split <;> simp
    · simp
  exact (State.each_shown _ _ _ fun d t => by simp).trans (h1.trans h0)

@[simp] theorem State.dropOob_shown (s : State) (c : Chan) (j : SlotIx) (n : Nat) : (s.dropOob c j n).shown O = s.shown O := by
  simp [State.dropOob]

@[simp] theorem haloViews_shown (rd : Reader) (s : State) (w : View) (hf : Reader.Unseen O rd) :
    fstShown O (haloViews rd s w) = s.shown O := by
  refine foldl_fstShown _ _ _ fun e acc => ?_
  dsimp only
  split <;> simp [View.readBits_shown _ _ _ _ _ _ hf]

@[simp] theorem State.rawBytes_shown (s : State) (c : Chan) (p : PumpIx) (first n : Nat) :
    fstShown O (s.rawBytes c p first n) = s.shown O := by
  unfold State.rawBytes
  dsimp only
  exact readEach_shown _ _ _ fun g t => t.readOwn_shown c p g

@[simp] theorem State.putRaw_shown (s : State) (c : Chan) (p : PumpIx) (first n : Nat) (bs : List (BitVec 8)) :
    (s.putRaw c p first n bs).shown O = s.shown O := by simp [State.putRaw]

@[simp] theorem State.sendCombine_shown (s : State) (c : Chan) (who : Nat) (j : SlotIx) (ch : ChanAddr) (k : Nat) (v : Granule) :
    fstShown O (s.sendCombine c who j ch k v) = s.shown O := by
  unfold State.sendCombine
  split
  · simp
  · split
    · split <;> simp
    · simp

@[simp] theorem State.combineViews_shown (s : State) (c : Chan) (p : PumpIx) (j : SlotIx) (src : View) (sw : Window) (dst : View)
    (dw : Window) :
    fstShown O (s.combineViews c p j src sw dst dw) = s.shown O := by
  unfold State.combineViews
  split
  refine (foldl_fstShown _ _ _ fun e acc => ?_).trans ((shown_of_eq ‹_ = (_, _)›).trans (by simp))
  split
  · simp
  · split
    · rfl
    · simp

@[simp] theorem State.declareDead_shown (s : State) (c : Chan) (p : PumpIx) (j : SlotIx) (w : View) (win : Window) :
    (s.declareDead c p j w win).shown O = s.shown O := by
  refine State.each_shown _ _ _ fun b t => ?_
  dsimp only
  (repeat' split) <;> simp

@[simp] theorem State.runPlan_shown (s : State) (c : Chan) (p : PumpIx) (j : SlotIx) (pl : Plan) :
    fstShown O (s.runPlan c p j pl) = s.shown O := by
  unfold State.runPlan
  extract_lets rd frame sr put
  have hrd : rd.Unseen O := s.pumpRead_serves c p pl.src.lines
  have hput : ∀ r : State × WriteSet, fstShown O (put r) = fstShown O r := fun r => by simp [put]
  split
  · simp
  · simp [hput]
  · simp [View.pack_shown _ _ _ _ hrd]
  · simp [hput, copyViews_shown _ _ _ _ _ _ _ hrd]
  · simp [hput, transposeViews_shown _ _ _ _ _ _ _ hrd]
  · simp
  · simp [View.packReadout_shown _ _ _ _ _ hrd]
  · simp [hput, readoutViews_shown _ _ _ _ _ _ _ hrd]
  · simp
  · simp [hput, haloViews_shown _ _ _ hrd]
  · rfl

@[simp] theorem State.endStream_shown (s : State) (c : Chan) (p : PumpIx) : (s.endStream c p).shown O = s.shown O := by
  simp [State.endStream]

@[simp] theorem State.doXfer_shown (s : State) (c : Chan) (p : PumpIx) (o : RowOp) : (s.doXfer c p o).shown O = s.shown O := by
  unfold State.doXfer
  split <;> simp

/-! ### Not seen: operations of the row -/

@[simp] theorem State.checkAcc_shown (s : State) (c : Chan) (p : PumpIx) (lo n : Nat) : (s.checkAcc c p lo n).shown O = s.shown O := by
  simp [State.checkAcc]

@[simp] theorem State.laneFails_shown (s : State) (c : Chan) (p : PumpIx) (lane : Nat) (dup : Bool) :
    (s.laneFails c p lane dup).shown O = s.shown O := by simp [State.laneFails]

@[simp] theorem State.checkLanes_shown (s : State) (c : Chan) (p : PumpIx) : (s.checkLanes c p).shown O = s.shown O := by
  simp [State.checkLanes]

/-- A view of a pump that shows no accumulator entry is the same whatever its lanes are set to. -/
theorem Pump.setLanes_view {γ : Type} (v : Pump → γ) (hv : ∀ (q : Pump) acc bad, v { q with acc := acc, accBad := bad } = v q) (q : Pump)
    (e : Nat) (f : Nat → BitVec 32) : v (q.setLanes e f) = v q := by
  have entries : ∀ (l : List Nat) (t : Pump), v (l.foldl (fun u k => u.setEntry e k (f k)) t) = v t := by
    intro l
    induction l with
    | nil => intro t; rfl
    | cons k l ih => intro t; exact (ih _).trans (hv t _ t.accBad)
  unfold Pump.setLanes
  exact (hv _ _ _).trans (entries _ q)

@[simp] theorem Pump.setLanes_todo (q : Pump) (e : Nat) (f : Nat → BitVec 32) : (q.setLanes e f).todo = q.todo :=
  q.setLanes_view Pump.todo (fun _ _ _ => rfl) e f

@[simp] theorem Pump.setLanes_queued (q : Pump) (e : Nat) (f : Nat → BitVec 32) : (q.setLanes e f).queued = q.queued :=
  q.setLanes_view Pump.queued (fun _ _ _ => rfl) e f

@[simp] theorem Pump.setLanes_bq (q : Pump) (e : Nat) (f : Nat → BitVec 32) : (q.setLanes e f).bq = q.bq :=
  q.setLanes_view Pump.bq (fun _ _ _ => rfl) e f

@[simp] theorem Pump.setLanes_engine (q : Pump) (e : Nat) (f : Nat → BitVec 32) : (q.setLanes e f).engine = q.engine :=
  q.setLanes_view Pump.engine (fun _ _ _ => rfl) e f

/-- A view of a pump that shows no accumulator entry is the same after several entries are set. -/
theorem Pump.foldl_setLanes_view {γ : Type} (v : Pump → γ) (hv : ∀ (q : Pump) acc bad, v { q with acc := acc, accBad := bad } = v q)
    (e : Nat → Nat) (f : Pump → Nat → Nat → BitVec 32) (l : List Nat) (q : Pump) :
    v (l.foldl (fun t i => t.setLanes (e i) (f t i)) q) = v q := by
  induction l generalizing q with
  | nil => rfl
  | cons i l ih => rw [List.foldl_cons, ih, q.setLanes_view v hv]

theorem Pump.dotStart_view {γ : Type} (v : Pump → γ) (hv : ∀ (q : Pump) acc bad, v { q with acc := acc, accBad := bad } = v q) (q : Pump)
    (w : BitVec 64) : v (q.dotStart w) = v q := by
  unfold Pump.dotStart
  split
  · exact Pump.foldl_setLanes_view v hv _ (fun _ _ _ => 0) _ q
  · rfl

theorem Pump.ew_view {γ : Type} (v : Pump → γ) (hv : ∀ (q : Pump) acc bad, v { q with acc := acc, accBad := bad } = v q) (q : Pump)
    (w reg : BitVec 64) : v (q.ew w reg) = v q := Pump.foldl_setLanes_view v hv _ (fun t i l =>
      ewFun (ewFnOf w) (t.entry_ (ewDst w + i) l) (t.entry_ (ewSrc1 w + i) l)
        (if ewS w then reg.setWidth 32 else t.entry_ (ewSrc2 w + i) l)) _ q

@[simp] theorem Pump.putRows_todo (q : Pump) (ws : List (Nat × Granule)) : (q.putRows ws).todo = q.todo := by rw [Pump.putRows]

@[simp] theorem Pump.putRows_queued (q : Pump) (ws : List (Nat × Granule)) : (q.putRows ws).queued = q.queued := by rw [Pump.putRows]

@[simp] theorem Pump.putRows_bq (q : Pump) (ws : List (Nat × Granule)) : (q.putRows ws).bq = q.bq := by rw [Pump.putRows]

@[simp] theorem Pump.putRows_engine (q : Pump) (ws : List (Nat × Granule)) : (q.putRows ws).engine = q.engine := rfl

@[simp] theorem State.doLld_shown (s : State) (c : Chan) (p : PumpIx) (o : RowOp) : (s.doLld c p o).shown O = s.shown O := by
  unfold State.doLld
  extract_lets w a
  refine foldl_shown _ _ _ fun r t => ?_
  split
  · extract_lets b
    split
    rename_i u rows h
    dsimp only
    rw [State.onPump_shown]
    swap
    · exact fun q => by simp
    refine (shown_of_eq h).trans ?_
    exact readEach_shown _ _ _ fun k u => readEach_shown _ _ _ fun i v => v.readOwn_shown c p _
  · split
    rename_i u gs h
    dsimp only
    rw [State.onPump_shown]
    swap
    · exact fun q => by simp
    refine (shown_of_eq h).trans ?_
    exact readEach_shown _ _ _ fun l u => u.readOwn_shown c p _

@[simp] theorem State.doAcl_shown (s : State) (c : Chan) (p : PumpIx) (o : RowOp) : (s.doAcl c p o).shown O = s.shown O := by
  unfold State.doAcl
  extract_lets w
  refine foldl_shown _ _ _ fun i t => ?_
  extract_lets base
  split
  rename_i u gs h
  rw [State.onPump_shown]
  swap
  · exact fun q => by simp
  exact (shown_of_eq h).trans (readEach_shown _ _ _ fun g v => v.readOwn_shown c p _)

@[simp] theorem State.doAcs_shown (s : State) (c : Chan) (p : PumpIx) (o : RowOp) : (s.doAcs c p o).shown O = s.shown O := by
  refine foldl_shown _ _ _ fun i t => ?_
  dsimp only
  exact (foldl_shown _ _ _ fun g u => u.writePrivate_shown c p _ _ _).trans (t.checkAcc_shown c p _ _)

@[simp] theorem State.addLedger_shown (s : State) (c : Chan) (p : PumpIx) (g : Nat) (x : Num) (e : Int) :
    fstShown O (s.addLedger c p g x e) = s.shown O := by
  unfold State.addLedger
  rcases hr : s.readOwn c p g with ⟨s1, v⟩
  have h1 : s1.shown O = s.shown O := (shown_of_eq hr).trans (s.readOwn_shown c p g)
  generalize ledgerAddend x e = a
  cases a <;> simp [h1]

@[simp] theorem State.doAcr_shown (s : State) (c : Chan) (p : PumpIx) (o : RowOp) : (s.doAcr c p o).shown O = s.shown O := by
  refine foldl_fstShown _ _ _ fun i acc => ?_
  dsimp only
  refine (foldl_fstShown _ _ _ fun l r => ?_).trans (acc.1.checkAcc_shown c p _ _)
  split
  · rfl
  · exact r.1.addLedger_shown c p _ _ _

@[simp] theorem State.perform_shown (s : State) (c : Chan) (p : PumpIx) (o : RowOp) : (s.perform c p o).shown O = s.shown O := by
  unfold State.perform
  split
  · exact s.doXfer_shown c p o
  · rfl
  · split
    · exact s.onPump_shown c p _ fun q => ⟨q.dotStart_view Pump.todo (fun _ _ _ => rfl) _, q.dotStart_view Pump.queued (fun _ _ _ => rfl) _,
        q.dotStart_view Pump.bq (fun _ _ _ => rfl) _, q.dotStart_view Pump.engine (fun _ _ _ => rfl) _⟩
    · exact s.doAcl_shown c p o
    · exact s.doAcs_shown c p o
    · exact s.doAcr_shown c p o
    · exact (State.onPump_shown _ c p _ fun q => ⟨q.ew_view Pump.todo (fun _ _ _ => rfl) _ _,
        q.ew_view Pump.queued (fun _ _ _ => rfl) _ _, q.ew_view Pump.bq (fun _ _ _ => rfl) _ _,
        q.ew_view Pump.engine (fun _ _ _ => rfl) _ _⟩).trans (State.each_shown _ _ _ fun e t => t.checkAcc_shown c p e _)
    · exact s.doLld_shown c p o
    · rfl

end

end Sys2Proof.Machine

/-! ### The queue of commands -/

namespace Sys2Proof.Machine

/-- The observer of the queue of commands. -/
def queue : Observer (List Instr) := ⟨State.pending, fun _ _ h _ => h⟩

theorem State.shown_queue (s : State) : s.shown queue = s.pending := rfl

@[simp] theorem State.mk_queue (s : State) (timeNs freeCtr : Nat) (outputs : List Output) (mc : Gnover) (ch : Vector Channel 8) :
    (State.mk s.pending timeNs freeCtr outputs mc ch).shown queue = s.shown queue := rfl

@[simp] theorem State.onChan_queue (s : State) (c : Chan) (f : Channel → Channel) : (s.onChan c f).shown queue = s.shown queue := rfl

@[simp] theorem State.onPump_queue (s : State) (c : Chan) (p : PumpIx) (f : Pump → Pump) :
    (s.onPump c p f).shown queue = s.shown queue := rfl

@[simp] theorem State.each_onPump_queue {α : Type} (s : State) (l : List α) (c : Chan) (p : α → PumpIx) (f : State → α → Pump → Pump) :
    (s.each l fun t a => t.onPump c (p a) (f t a)).shown queue = s.shown queue :=
  State.each_shown s l _ fun a t => t.onPump_queue c (p a) (f t a)

@[simp] theorem State.each_onChan_queue {α : Type} (s : State) (l : List α) (c : α → Chan) (f : State → α → Channel → Channel) :
    (s.each l fun t a => t.onChan (c a) (f t a)).shown queue = s.shown queue :=
  State.each_shown s l _ fun a t => t.onChan_queue (c a) (f t a)

/-- A command that serves where its registers fit, and otherwise stops for a register past the end. -/
def ServesIf (fits : Bool) (b : List Instr) (r : Res) : Prop :=
  (fits = true → Serves queue b r) ∧ (fits = false → r = .fault .registerPastEnd)

theorem servesIf_guard {fits : Bool} {b : List Instr} {r : Res} (h : Serves queue b r) :
    ServesIf fits b (if !fits then .fault .registerPastEnd else r) := by
  cases fits
  · exact ⟨nofun, fun _ => rfl⟩
  · exact ⟨fun _ => h, nofun⟩

/-! ### Not seen: collectives -/

@[simp] theorem State.collected_shown (s : State) (c : Chan) (j : SlotIx) (n : Nat) : (s.collected c j n).shown queue = s.shown queue := by simp [State.collected]

@[simp] theorem State.collSum_shown (s : State) (c : Chan) (j : SlotIx) (frame : Nat) (w : View) (n : Nat) (v : Granule) :
    (s.collSum c j frame w n v).shown queue = s.shown queue := by
  unfold State.collSum
  (repeat' split) <;> simp

@[simp] theorem State.sendTree_shown (s : State) (c : Chan) (j : Option SlotIx) (port : PortIx) (f : OutFlit) :
    (s.sendTree c j port f).shown queue = s.shown queue := by simp [State.sendTree]

@[simp] theorem State.rootSum_shown (s : State) (c : Chan) (tree : BitVec 12) (t : Tree) (ctx : Nat) (jb : Job) (e : CollEntry)
    (n : Nat) (v : Granule) (block : Nat) :
    (s.rootSum c tree t ctx jb e n v block).shown queue = s.shown queue := by
  unfold State.rootSum
  split
  · rfl
  · extract_lets frame give s1
    have hg : ∀ u m k, (give u m k).shown queue = u.shown queue := fun u m k => by
      unfold give
      split <;> simp
    split <;> simp [s1, hg]

@[simp] theorem State.storeFault_shown (s : State) (c : Chan) (tree : BitVec 12) (t : Tree) :
    (s.storeFault c tree t).shown queue = s.shown queue := by
  unfold State.storeFault
  split <;> simp

@[simp] theorem State.reduceIn_shown (s : State) (c : Chan) (tree : BitVec 12) (idx : BitVec 8) (n : Nat) (v : Granule) :
    (s.reduceIn c tree idx n v).shown queue = s.shown queue := by
  simp only [State.reduceIn]
  (repeat' split) <;> simp

@[simp] theorem State.collRead_serves (s : State) (c : Chan) (j : SlotIx) : Reader.Unseen queue (s.collRead c j) := by
  intro t ch k
  unfold State.collRead
  split <;> simp

@[simp] theorem collCopy_shown (rd : Reader) (s : State) (e : CollEntry) (me : Nat) (src dst : View) (hf : Reader.Unseen queue rd) :
    fstShown queue (collCopy rd s e me src dst) = s.shown queue := by
  unfold collCopy
  (repeat' split) <;> simp [*]

@[simp] theorem State.collHold_shown (s : State) (c : Chan) (j : SlotIx) (frame : Nat) (r : WriteRec) :
    (s.collHold c j frame r).shown queue = s.shown queue := by simp [State.collHold]

@[simp] theorem State.mcastOut_shown (s : State) (c : Chan) (j : SlotIx) (tree : BitVec 12) (idx : BitVec 8) (ports : List PortIx)
    (x : Nat) (y : List (ChanAddr × WriteRec)) :
    (s.mcastOut c j tree idx ports x y).shown queue = s.shown queue := by
  induction x generalizing s y with
  | zero => rfl
  | succ n ih => unfold State.mcastOut; split <;> simp [ih]

@[simp] theorem State.collWrite_shown (s : State) (c : Chan) (j : SlotIx) (ctx : Nat) (jb : Job) (e : CollEntry) (src : View) :
    (s.collWrite c j ctx jb e src).shown queue = s.shown queue := by
  unfold State.collWrite
  extract_lets me
  split
  rename_i s1 recs h1
  have h1 : s1.shown queue = s.shown queue := (shown_of_eq h1).trans (foldl_fstShown _ _ _ fun m acc => by
    split
    · simp [collCopy_shown _ _ _ _ _ _ (s.collRead_serves c j)]
    · rfl)
  dsimp only
  split <;> simp [h1]

@[simp] theorem State.collAdds_shown (s : State) (c : Chan) (j : SlotIx) (jb : Job) (e : CollEntry) (x : Nat)
    (y : List (Option Granule)) :
    (s.collAdds c j jb e x y).shown queue = s.shown queue := by
  induction y generalizing s x with
  | nil => rfl
  | cons v l ih =>
    cases v with
    | none => simp [State.collAdds]
    | some v => unfold State.collAdds; split <;> simp [ih]

@[simp] theorem State.collReduce_shown (s : State) (c : Chan) (j : SlotIx) (jb : Job) (e : CollEntry) (src dst : View) :
    (s.collReduce c j jb e src dst).shown queue = s.shown queue := by
  simp [State.collReduce, View.readScalars_shown _ s src _ (s.collRead_serves c j)]

@[simp] theorem execCollectiveStart_serves (c : Chan) (j : SlotIx) (vch : BitVec 15) (entry : BitVec 8) (s : State) :
    Serves queue (s.shown queue) (execCollectiveStart c j vch entry s) := by
  simp only [execCollectiveStart]
  (repeat' split) <;> simp

/-! ### Not seen: the staging bank -/

@[simp] theorem State.blockWrite_shown (s : State) (c : Chan) (f : State → State) (hf : ∀ t, (f t).shown queue = t.shown queue) :
    (s.blockWrite c f).shown queue = s.shown queue := by simp [State.blockWrite, hf]

@[simp] theorem State.stagePut_shown (s : State) (c : Chan) (w : StWord) (v : BitVec 32) : (s.stagePut c w v).shown queue = s.shown queue := by
  unfold State.stagePut
  split <;> simp

@[simp] theorem State.stageWord_shown (s : State) (c : Chan) (w : StWord) (v : BitVec 32) : (s.stageWord c w v).shown queue = s.shown queue := by
  simp [State.stageWord]

@[simp] theorem State.stageAccess_shown (s : State) (c : Chan) (off : Nat) (size64 : Bool) (v : BitVec 64) :
    (s.stageAccess c off size64 v).shown queue = s.shown queue := by
  simp only [State.stageAccess]
  (repeat' split) <;> simp

@[simp] theorem execStWrite_serves (c : Chan) (off : BitVec 22) (size64 : Bool) (v : BitVec 64) (s : State) :
    Serves queue (s.shown queue) (execStWrite c off size64 v s) := by simp [execStWrite]

@[simp] theorem State.settleChecks_shown (s : State) (ctx job : Nat) : (s.settleChecks ctx job).shown queue = s.shown queue := by
  simp only [State.settleChecks]
  (repeat' split) <;> simp

@[simp] theorem State.startCheck_shown (s : State) (c : Chan) (j : SlotIx) (tag : BitVec 8) :
    (s.startCheck c j tag).shown queue = s.shown queue := by simp [State.startCheck]

@[simp] theorem execStgCheck_serves (c : Chan) (j : SlotIx) (tag : BitVec 8) (s : State) :
    Serves queue (s.shown queue) (execStgCheck c j tag s) := by simp [execStgCheck]

@[simp] theorem execCheckComplete_serves (c : Chan) (j : SlotIx) (s : State) : Serves queue (s.shown queue) (execCheckComplete c j s) := by
  unfold execCheckComplete
  split <;> simp

@[simp] theorem State.revertBank_shown (s : State) (c : Chan) (j : SlotIx) : (s.revertBank c j).shown queue = s.shown queue := by
  simp [State.revertBank]

@[simp] theorem execStgUnlock_serves (c : Chan) (j : SlotIx) (s : State) : Serves queue (s.shown queue) (execStgUnlock c j s) := by
  simp [execStgUnlock]

@[simp] theorem execStgRevert_serves (c : Chan) (j : SlotIx) (s : State) : Serves queue (s.shown queue) (execStgRevert c j s) :=
  State.blockWrite_shown _ _ _ fun t => by split <;> simp

@[simp] theorem State.startCommit_shown (s : State) (c : Chan) (j : SlotIx) (tag : BitVec 8) :
    (s.startCommit c j tag).shown queue = s.shown queue := by simp [State.startCommit]

@[simp] theorem execStgCommit_serves (c : Chan) (j : SlotIx) (tag : BitVec 8) (s : State) :
    Serves queue (s.shown queue) (execStgCommit c j tag s) := by simp [execStgCommit]

@[simp] theorem State.endCommit_shown (s : State) (c : Chan) (j : SlotIx) (reason : Nat) :
    (s.endCommit c j reason).shown queue = s.shown queue := by
  simp only [State.endCommit]
  split <;> simp

@[simp] theorem execCommitTimeout_serves (c : Chan) (j : SlotIx) (s : State) : Serves queue (s.shown queue) (execCommitTimeout c j s) := by
  simp [execCommitTimeout]

@[simp] theorem State.abandonCommit_shown (s : State) (c : Chan) (j : SlotIx) : (s.abandonCommit c j).shown queue = s.shown queue := by
  simp [State.abandonCommit]

@[simp] theorem State.drain_shown (s : State) (c : Chan) : (s.drain c).shown queue = s.shown queue := by simp [State.drain]

@[simp] theorem State.regionChange_shown (s : State) (c : Chan) (old new : Nat) : (s.regionChange c old new).shown queue = s.shown queue := by
  simp [State.regionChange]

@[simp] theorem State.wantRamp_shown (s : State) (c : Chan) (pd : PolderIx) : (s.wantRamp c pd).shown queue = s.shown queue := by
  simp [State.wantRamp]

@[simp] theorem State.applyCommit_shown (s : State) (c : Chan) (j : SlotIx) : (s.applyCommit c j).shown queue = s.shown queue := by
  simp [State.applyCommit]

/-! ### Not seen: views and contexts -/

@[simp] theorem State.reserveView_shown (s : State) (w : View) (on : Bool) : (s.reserveView w on).shown queue = s.shown queue := by
  unfold State.reserveView
  split
  · exact State.each_shown _ _ _ fun e t => by split <;> simp
  · rfl

@[simp] theorem State.unreserve_shown (s : State) (ctx : Nat) (im : JobImage) : (s.unreserve ctx im).shown queue = s.shown queue := by
  simp [State.unreserve]

@[simp] theorem State.zeroPart_shown (s : State) (q : ChanAddr × Nat × Nat) : (s.zeroPart q).shown queue = s.shown queue := by
  simp only [State.zeroPart]
  (repeat' split) <;> simp

@[simp] theorem State.unbind_shown (s : State) (ctx job : Nat) : (s.unbind ctx job).shown queue = s.shown queue := by
  unfold State.unbind
  split <;> simp

@[simp] theorem State.endDesc_shown (s : State) (ctx handle : Nat) : (s.endDesc ctx handle).shown queue = s.shown queue := by
  unfold State.endDesc
  (repeat' split) <;> simp

@[simp] theorem State.endAlloc_shown (s : State) (ctx handle : Nat) : (s.endAlloc ctx handle).shown queue = s.shown queue := by
  unfold State.endAlloc
  (repeat' split) <;> simp

@[simp] theorem State.endPinned_shown (s : State) (ctx job : Nat) : (s.endPinned ctx job).shown queue = s.shown queue := by
  unfold State.endPinned
  split <;> simp

@[simp] theorem State.endWell_shown (s : State) (ctx loc : Nat) : (s.endWell ctx loc).shown queue = s.shown queue := by
  unfold State.endWell
  split <;> simp

@[simp] theorem State.endCtx_shown (s : State) (ctx : Nat) : (s.endCtx ctx).shown queue = s.shown queue := by
  unfold State.endCtx
  (repeat' split) <;> simp

/-! ### Not seen: ticks, reports and faults of a frame -/

@[simp] theorem State.stopJob_shown (s : State) (ctx job : Nat) (ckpt : Bool) : (s.stopJob ctx job ckpt).shown queue = s.shown queue := by
  simp [State.stopJob]

@[simp] theorem State.startPumps_shown (s : State) (c : Chan) (j : SlotIx) : (s.startPumps c j).shown queue = s.shown queue := by
  simp [State.startPumps]

@[simp] theorem State.endHold_shown (s : State) (c : Chan) (j : SlotIx) : (s.endHold c j).shown queue = s.shown queue := by simp [State.endHold]

@[simp] theorem State.freeSlot_shown (s : State) (c : Chan) (j : SlotIx) : (s.freeSlot c j).shown queue = s.shown queue := by
  simp [State.freeSlot]

@[simp] theorem State.dropRoutes_shown (s : State) (key : Nat) : (s.dropRoutes key).shown queue = s.shown queue := by
  unfold State.dropRoutes
  split
  · rfl
  · exact State.each_shown _ _ _ fun r t => by dsimp only; (repeat' split) <;> simp

@[simp] theorem State.tellRelease_shown (s : State) (jb : Job) (who : ClaimId) (keep : Bool) :
    (s.tellRelease jb who keep).shown queue = s.shown queue := by
  unfold State.tellRelease
  split <;> simp

@[simp] theorem State.release_shown (s : State) (ctx job : Nat) : (s.release ctx job).shown queue = s.shown queue := by
  unfold State.release
  split <;> simp

@[simp] theorem State.releaseBuddies_shown (s : State) (jb : Job) (who : ClaimId) : (s.releaseBuddies jb who).shown queue = s.shown queue := by
  simp [State.releaseBuddies]

@[simp] theorem State.endUrgents_shown (s : State) (c : Chan) (j : SlotIx) (status : Nat) :
    (s.endUrgents c j status).shown queue = s.shown queue := by simp [State.endUrgents]

@[simp] theorem State.endForced_shown (s : State) (h : Hdr) (c : Chan) : (s.endForced h c).shown queue = s.shown queue := by
  simp [State.endForced]

@[simp] theorem State.removeJob_shown (s : State) (ctx job : Nat) : (s.removeJob ctx job).shown queue = s.shown queue := by
  unfold State.removeJob
  (repeat' split) <;> simp

@[simp] theorem State.ckptStart_shown (s : State) (c : Chan) (j : SlotIx) (first busy commit : Bool) (f : Nat) :
    (s.ckptStart c j first busy commit f).shown queue = s.shown queue := by simp [State.ckptStart]

@[simp] theorem State.homeTick_shown (s : State) (c : Chan) (j : SlotIx) (first busy commit : Bool) (f : Nat) :
    (s.homeTick c j first busy commit f).shown queue = s.shown queue := by simp [State.homeTick]

@[simp] theorem State.homeHalt_shown (s : State) (c : Chan) (j : SlotIx) (f : Nat) : (s.homeHalt c j f).shown queue = s.shown queue := by simp [State.homeHalt]

@[simp] theorem State.tellHomes_shown (s : State) (c : Chan) (j : SlotIx) (f : Nat) (halt : Bool) :
    (s.tellHomes c j f halt).shown queue = s.shown queue := by
  unfold State.tellHomes
  dsimp only
  split
  · rfl
  · split
    · exact State.each_shown _ _ _ fun a t => by split <;> simp
    · rfl

@[simp] theorem State.homesTick_shown (s : State) (c : Chan) (j : SlotIx) (first busy commit : Bool) (f : Nat) :
    (s.homesTick c j first busy commit f).shown queue = s.shown queue := by simp [State.homesTick]

@[simp] theorem State.homeHears_shown (s : State) (c : Chan) (j : SlotIx) (f : Nat) (halt : Bool) :
    (s.homeHears c j f halt).shown queue = s.shown queue := by simp [State.homeHears]

@[simp] theorem State.tickEffect_shown (s : State) (c : Chan) (j : SlotIx) (commit : Bool) :
    (s.tickEffect c j commit).shown queue = s.shown queue := by simp [State.tickEffect]

@[simp] theorem execChannelFrameDone_serves (c : Chan) (j : SlotIx) (s : State) :
    Serves queue (s.shown queue) (execChannelFrameDone c j s) := by
  simp only [execChannelFrameDone]
  (repeat' split) <;> simp

@[simp] theorem State.treeHalt_shown (s : State) (c : Chan) (tree : BitVec 12) : (s.treeHalt c tree).shown queue = s.shown queue := by simp [State.treeHalt]

@[simp] theorem State.haltBelow_shown (s : State) (c : Chan) (tree : BitVec 12) : (s.haltBelow c tree).shown queue = s.shown queue := by
  unfold State.haltBelow
  split <;> simp

@[simp] theorem execDoneMarker_serves (c : Chan) (port : PortIx) (tree : BitVec 12) (r : Report) (s : State) :
    Serves queue (s.shown queue) (execDoneMarker c port tree r s) := by
  simp only [execDoneMarker]
  (repeat' split) <;> simp

@[simp] theorem State.treeTick_shown (s : State) (c : Chan) (tree : BitVec 12) (frame : BitVec 8) :
    (s.treeTick c tree frame).shown queue = s.shown queue := by simp [State.treeTick]

@[simp] theorem State.endJob_shown (s : State) (c : Chan) (j : SlotIx) : (s.endJob c j).shown queue = s.shown queue := by
  simp only [State.endJob]
  split <;> simp

@[simp] theorem State.heardFault_shown (s : State) (c : Chan) (j : SlotIx) (cause : BitVec 8) (reporter : ChanAddr) :
    (s.heardFault c j cause reporter).shown queue = s.shown queue := by simp [State.heardFault]

@[simp] theorem State.mgmtFault_shown (s : State) (c : Chan) (j : SlotIx) (cause : BitVec 8) (src : ChanAddr) :
    (s.mgmtFault c j cause src).shown queue = s.shown queue := by simp [State.mgmtFault]

@[simp] theorem State.homeFault_shown (s : State) (c : Chan) (j : SlotIx) : (s.homeFault c j).shown queue = s.shown queue := by
  simp only [State.homeFault]
  (repeat' split) <;> simp

@[simp] theorem execTickIssue_serves (c : Chan) (j : SlotIx) (s0 : State) : Serves queue (s0.shown queue) (execTickIssue c j s0) := by
  unfold execTickIssue
  extract_lets x first s st pending frame
  split
  · rfl
  · refine Serves.ite ?_ rfl
    split
    · simp
    · extract_lets s1 commit s2 s3 s4
      have hs : s.shown queue = s0.shown queue := State.shown_ite rfl (s0.until_shown _)
      have h1 : s1.shown queue = s0.shown queue := State.shown_ite hs (by simp [hs])
      have h4 : s4.shown queue = s0.shown queue := by simp [s4, s3, s2, h1]
      exact Serves.ite (by simp [h1]) (by simp [h4])

@[simp] theorem execTickTakesEffect_serves (c : Chan) (j : SlotIx) (s : State) : Serves queue (s.shown queue) (execTickTakesEffect c j s) := by
  simp only [execTickTakesEffect]
  split <;> simp

@[simp] theorem execTickMarker_serves (c : Chan) (port : PortIx) (tree : BitVec 12) (commit : Bool) (copy : BitVec 2)
    (frame : BitVec 8) (acc : BitVec 20) (s : State) :
    Serves queue (s.shown queue) (execTickMarker c port tree commit copy frame acc s) := by
  unfold execTickMarker
  (repeat' split) <;> simp

@[simp] theorem execLocalTick_serves (c : Chan) (s0 : State) : Serves queue (s0.shown queue) (execLocalTick c s0) := by simp [execLocalTick]

@[simp] theorem State.haltEffect_shown (s : State) (c : Chan) (j : SlotIx) : (s.haltEffect c j).shown queue = s.shown queue := by
  simp only [State.haltEffect]
  split <;> simp

@[simp] theorem State.issueHalt_shown (s : State) (c : Chan) (j : SlotIx) : (s.issueHalt c j).shown queue = s.shown queue := by
  simp [State.issueHalt]

@[simp] theorem execHaltTickIssue_serves (c : Chan) (j : SlotIx) (s : State) : Serves queue (s.shown queue) (execHaltTickIssue c j s) := by
  simp only [execHaltTickIssue]
  split <;> simp

@[simp] theorem execHaltMarker_serves (c : Chan) (port : PortIx) (tree : BitVec 12) (copy : BitVec 2) (acc : BitVec 20) (s : State) :
    Serves queue (s.shown queue) (execHaltMarker c port tree copy acc s) := by
  unfold execHaltMarker
  (repeat' split) <;> simp

@[simp] theorem execWatchdogExpiry_serves (c : Chan) (j : SlotIx) (s : State) : Serves queue (s.shown queue) (execWatchdogExpiry c j s) := by
  simp [execWatchdogExpiry]

@[simp] theorem execTickLost_serves (c : Chan) (j : SlotIx) (s : State) : Serves queue (s.shown queue) (execTickLost c j s) := by
  simp [execTickLost]

@[simp] theorem execFailoverTakeover_serves (c : Chan) (j : SlotIx) (s : State) : Serves queue (s.shown queue) (execFailoverTakeover c j s) := by
  simp [execFailoverTakeover]

@[simp] theorem State.inputNotice_shown (s : State) (c : Chan) (j : SlotIx) (fromCh : ChanAddr) (frame : Nat) :
    (s.inputNotice c j fromCh frame).shown queue = s.shown queue := by
  simp only [State.inputNotice]
  (repeat' split) <;> simp

@[simp] theorem execInputCompleteNotice_serves (c : Chan) (j : SlotIx) (fromCh : BitVec 15) (frame : Nat) (s : State) :
    Serves queue (s.shown queue) (execInputCompleteNotice c j fromCh frame s) := by simp [execInputCompleteNotice]

@[simp] theorem State.afterWindow_shown (s : State) (c : Chan) (j : SlotIx) : (s.afterWindow c j).shown queue = s.shown queue := by
  simp [State.afterWindow]

@[simp] theorem execWindowClose_serves (c : Chan) (j : SlotIx) (s : State) : Serves queue (s.shown queue) (execWindowClose c j s) := by
  simp [execWindowClose]

@[simp] theorem execUrgentItemStart_serves (c : Chan) (j : SlotIx) (s : State) : Serves queue (s.shown queue) (execUrgentItemStart c j s) := by
  simp only [execUrgentItemStart]
  (repeat' split) <;> simp

@[simp] theorem execUrgentItemComplete_serves (c : Chan) (j : SlotIx) (s : State) :
    Serves queue (s.shown queue) (execUrgentItemComplete c j s) := by
  simp only [execUrgentItemComplete]
  split <;> simp

/-! ### Not seen: domains of a channel -/

@[simp] theorem State.domainsOff_shown (s : State) (c : Chan) : (s.domainsOff c).shown queue = s.shown queue := by simp [State.domainsOff]

@[simp] theorem State.leave_shown (s : State) (c : Chan) (r : Nat) : (s.leave c r).shown queue = s.shown queue := by simp [State.leave]

@[simp] theorem State.enter_shown (s : State) (c : Chan) (r : Nat) : (s.enter c r).shown queue = s.shown queue := by simp [State.enter]

@[simp] theorem State.sendRecords_shown (s : State) (c : Chan) (port : PortIx) : (s.sendRecords c port).shown queue = s.shown queue := by
  simp [State.sendRecords]

@[simp] theorem State.powerEvent_shown (s : State) (c : Chan) (kind b1 n : Nat) : (s.powerEvent c kind b1 n).shown queue = s.shown queue := by simp [State.powerEvent]

@[simp] theorem State.thermalEvent_shown (s : State) (c : Chan) (kind unit sensor : Nat) (eff raw : Int) :
    (s.thermalEvent c kind unit sensor eff raw).shown queue = s.shown queue := by simp [State.thermalEvent]

@[simp] theorem State.setVpump_shown (s : State) (c : Chan) (mv : Nat) : (s.setVpump c mv).shown queue = s.shown queue := by simp [State.setVpump]

@[simp] theorem State.waited_shown (s : State) (c : Chan) (j : SlotIx) (cause : Fin 7) (ns : Nat) :
    (s.waited c j cause ns).shown queue = s.shown queue := by simp [State.waited]

@[simp] theorem State.polderWaited_shown (s : State) (c : Chan) (pd : PolderIx) (cause : Fin 7) (ns : Nat) :
    (s.polderWaited c pd cause ns).shown queue = s.shown queue := by
  unfold State.polderWaited
  split <;> simp

/-! ### Not seen: ports and their lanes -/

@[simp] theorem State.portTo_shown (s : State) (c : Chan) (port : PortIx) (st : PortState) (f : Port → Port) :
    (s.portTo c port st f).shown queue = s.shown queue := by simp [State.portTo]

@[simp] theorem State.slotLost_shown (s : State) (c : Chan) (j : SlotIx) (port : PortIx) : (s.slotLost c j port).shown queue = s.shown queue := by
  simp [State.slotLost]

@[simp] theorem State.nodeLost_shown (s : State) (c : Chan) (tree : BitVec 12) (t : Tree) (port : PortIx) :
    (s.nodeLost c tree t port).shown queue = s.shown queue := by
  simp only [State.nodeLost]
  (repeat' split) <;> simp

@[simp] theorem State.tellMaster_shown (s : State) (c : Chan) (e : Through) (cause : Cause) :
    (s.tellMaster c e cause).shown queue = s.shown queue := by simp [State.tellMaster]

@[simp] theorem State.throughFault_shown (s : State) (c : Chan) (cause : Cause) (kind : UnitKind) :
    (s.throughFault c cause kind).shown queue = s.shown queue := by simp [State.throughFault]

@[simp] theorem State.endCmd_shown (s : State) (h : Hdr) (status : Nat) : (s.endCmd h status).shown queue = s.shown queue := by
  simp [State.endCmd]

@[simp] theorem State.copiesLost_shown (s : State) (c : Chan) (port : PortIx) : (s.copiesLost c port).shown queue = s.shown queue := by
  simp [State.copiesLost]

@[simp] theorem State.portGone_shown (s : State) (c : Chan) (port : PortIx) (st : PortState) (los : Bool) :
    (s.portGone c port st los).shown queue = s.shown queue := by simp [State.portGone]

@[simp] theorem State.portLost_shown (s : State) (c : Chan) (port : PortIx) (st : PortState) (los : Bool) :
    (s.portLost c port st los).shown queue = s.shown queue := by
  unfold State.portLost
  split <;> simp

@[simp] theorem execLossOfSignal_serves (c : Chan) (port : PortIx) (s : State) : Serves queue (s.shown queue) (execLossOfSignal c port s) := by
  simp [execLossOfSignal]

@[simp] theorem State.retrainPort_shown (s : State) (c : Chan) (port : PortIx) : (s.retrainPort c port).shown queue = s.shown queue := by
  simp [State.retrainPort]

@[simp] theorem execRetrain_serves (c : Chan) (port : PortIx) (s : State) : Serves queue (s.shown queue) (execRetrain c port s) := by
  simp [execRetrain]

@[simp] theorem execPortEnableWrite_serves (c : Chan) (port : PortIx) (v : BitVec 32) (s : State) :
    Serves queue (s.shown queue) (execPortEnableWrite c port v s) := by
  unfold execPortEnableWrite
  (repeat' split) <;> simp

@[simp] theorem execDrainComplete_serves (c : Chan) (port : PortIx) (s : State) : Serves queue (s.shown queue) (execDrainComplete c port s) := by
  simp [execDrainComplete]

@[simp] theorem State.trainFails_shown (s : State) (c : Chan) (port : PortIx) : (s.trainFails c port).shown queue = s.shown queue := by
  simp [State.trainFails]

@[simp] theorem execSignalDetect_serves (c : Chan) (port : PortIx) (lanes : BitVec 8) (s : State) :
    Serves queue (s.shown queue) (execSignalDetect c port lanes s) := by simp [execSignalDetect]

@[simp] theorem execTrainStepComplete_serves (c : Chan) (port : PortIx) (info : TrainInfo) (s : State) :
    Serves queue (s.shown queue) (execTrainStepComplete c port info s) := by
  simp only [execTrainStepComplete]
  (repeat' split) <;> simp

@[simp] theorem execTrainingTimeout_serves (c : Chan) (port : PortIx) (s : State) :
    Serves queue (s.shown queue) (execTrainingTimeout c port s) := by simp [execTrainingTimeout]

@[simp] theorem execDownTimer_serves (c : Chan) (port : PortIx) (s : State) : Serves queue (s.shown queue) (execDownTimer c port s) := by
  simp [execDownTimer]

@[simp] theorem State.replayFrom_shown (s : State) (c : Chan) (port : PortIx) (seq : BitVec 12) :
    (s.replayFrom c port seq).shown queue = s.shown queue := by simp [State.replayFrom]

@[simp] theorem State.narrowEnd_shown (s : State) (c : Chan) (port : PortIx) : (s.narrowEnd c port).shown queue = s.shown queue := by
  simp only [State.narrowEnd]
  (repeat' split) <;> simp

@[simp] theorem State.narrow_shown (s : State) (c : Chan) (port : PortIx) : (s.narrow c port).shown queue = s.shown queue := by
  unfold State.narrow
  split <;> simp

@[simp] theorem execLaneFailure_serves (c : Chan) (port : PortIx) (lane : Fin 8) (s : State) :
    Serves queue (s.shown queue) (execLaneFailure c port lane s) := by simp [execLaneFailure]

@[simp] theorem execReplayTimeout_serves (c : Chan) (port : PortIx) (s : State) :
    Serves queue (s.shown queue) (execReplayTimeout c port s) := by
  simp only [execReplayTimeout]
  (repeat' split) <;> simp

@[simp] theorem execSlotEntryOpen_serves (c : Chan) (port : PortIx) (s : State) :
    Serves queue (s.shown queue) (execSlotEntryOpen c port s) := by
  simp only [execSlotEntryOpen]
  split <;> simp

@[simp] theorem execEqualisation_serves (c : Chan) (port : PortIx) (latQns : BitVec 16) (s : State) :
    Serves queue (s.shown queue) (execEqualisation c port latQns s) := by simp [execEqualisation]

/-! ### Not seen: host memory -/

@[simp] theorem State.putAt_shown (s : State) (c : Chan) (k : Nat) (mask : BitVec 32) (v : Granule) :
    (s.putAt c k mask v).shown queue = s.shown queue := by
  simp only [State.putAt]
  split <;> simp

@[simp] theorem State.putNow_shown (s : State) (c : Chan) (k : Nat) (mask : BitVec 32) (v : Granule) :
    (s.putNow c k mask v).shown queue = s.shown queue := by simp [State.putNow]

@[simp] theorem State.hostDone_shown (s : State) (h : Hdr) (bytes : Nat) : (s.hostDone h bytes).shown queue = s.shown queue := by
  simp [State.hostDone]

@[simp] theorem State.hostSend_shown (s : State) (h : Hdr) (rset : BitVec 2) (dest : ChanAddr) (fs : List OutFlit) (bytes : Nat) :
    (s.hostSend h rset dest fs bytes).shown queue = s.shown queue := by
  simp only [State.hostSend]
  split <;> simp

@[simp] theorem State.hostBursts_shown (s : State) (ks : List (ChanAddr × Nat)) : (s.hostBursts ks).shown queue = s.shown queue := by
  simp [State.hostBursts]

@[simp] theorem State.hostAck_shown (s : State) (c : Chan) (dest : ChanAddr) : (s.hostAck c dest).shown queue = s.shown queue := by
  simp only [State.hostAck]
  split <;> simp

/-! ### Not seen: the cistern -/

@[simp] theorem State.countFill_shown (s : State) (c : Chan) (j : SlotIx) : (s.countFill c j).shown queue = s.shown queue := by
  simp [State.countFill]

@[simp] theorem State.fetchLine_shown (s : State) (c : Chan) (j : SlotIx) (cls : ReqClass) (a : FabAddr) :
    (s.fetchLine c j cls a).shown queue = s.shown queue := by
  unfold State.fetchLine
  (repeat' split) <;> simp

@[simp] theorem State.dropBroken_shown (s : State) (c : Chan) (p : PumpIx) (a : FabAddr) (i : Nat) :
    (s.dropBroken c p a i).shown queue = s.shown queue := by
  unfold State.dropBroken
  split <;> simp

@[simp] theorem State.askFill_shown (s : State) (c : Chan) (p : PumpIx) (j : SlotIx) (a : FabAddr) (sect : Option Nat)
    (stream : Bool) :
    (s.askFill c p j a sect stream).shown queue = s.shown queue := by
  simp only [State.askFill]
  split <;> simp

@[simp] theorem execFillOpen_serves (c : Chan) (p : PumpIx) (addr : FabAddr) (s : State) :
    Serves queue (s.shown queue) (execFillOpen c p addr s) := by
  unfold execFillOpen
  split <;> simp

@[simp] theorem State.deliverFill_shown (s : State) (c : Chan) (e : FillEnt) : (s.deliverFill c e).shown queue = s.shown queue := by
  simp [State.deliverFill]

@[simp] theorem execFillDelivery_serves (c : Chan) (addr : FabAddr) (s : State) :
    Serves queue (s.shown queue) (execFillDelivery c addr s) := by
  simp only [execFillDelivery]
  split <;> simp

@[simp] theorem State.answerErr_shown (s : State) (c : Chan) (fh : FlitHdr) (e : RespErr) : (s.answerErr c fh e).shown queue = s.shown queue := by
  simp [State.answerErr]

@[simp] theorem State.answer_shown (s : State) (c : Chan) (j : Option SlotIx) (fh : FlitHdr) (f : OutFlit) :
    (s.answer c j fh f).shown queue = s.shown queue := by
  unfold State.answer
  split <;> simp

@[simp] theorem State.serveLine_shown (s : State) (c : Chan) (fh : FlitHdr) (a : FabAddr) :
    (s.serveLine c fh a).shown queue = s.shown queue := by
  unfold State.serveLine
  extract_lets k j place s1
  have h1 : s1.shown queue = s.shown queue := by cases hp : place <;> simp [s1, hp]
  refine State.shown_ite (by simp) (State.shown_ite (by simp) ((foldl_shown _ _ _ fun i t => ?_).trans h1))
  dsimp only
  rw [State.answer_shown]
  exact readEach_shown _ _ _ fun g u => u.readShared_shown c j _

@[simp] theorem State.serveStalled_shown (s : State) (c : Chan) : (s.serveStalled c).shown queue = s.shown queue := by simp [State.serveStalled]

@[simp] theorem execHeldEntryDrain_serves (c : Chan) (s : State) : Serves queue (s.shown queue) (execHeldEntryDrain c s) := by
  simp [execHeldEntryDrain]

@[simp] theorem execEpochSweep_serves (c : Chan) (s : State) : Serves queue (s.shown queue) (execEpochSweep c s) := by simp [execEpochSweep]

@[simp] theorem execMarkPlaneClear_serves (c : Chan) (s : State) : Serves queue (s.shown queue) (execMarkPlaneClear c s) := by
  simp [execMarkPlaneClear]

@[simp] theorem execCisModeWrite_serves (c : Chan) (v : BitVec 32) (s : State) : Serves queue (s.shown queue) (execCisModeWrite c v s) := by
  simp [execCisModeWrite]

@[simp] theorem execCisClear_serves (c : Chan) (v : BitVec 32) (s : State) : Serves queue (s.shown queue) (execCisClear c v s) :=
  State.blockWrite_shown _ _ _ fun t => by dsimp only; (repeat' split) <;> simp

@[simp] theorem execClearComplete_serves (c : Chan) (s : State) : Serves queue (s.shown queue) (execClearComplete c s) := by rfl

@[simp] theorem execCeClear_serves (c : Chan) (s : State) : Serves queue (s.shown queue) (execCeClear c s) := by simp [execCeClear]

@[simp] theorem execLogClear_serves (c : Chan) (s : State) : Serves queue (s.shown queue) (execLogClear c s) := by simp [execLogClear]

/-! ### Not seen: markers on the fabric -/

@[simp] theorem execFaultMarker_serves (c : Chan) (port : PortIx) (tree : BitVec 12) (cause : BitVec 8) (reporter : BitVec 15)
    (s : State) :
    Serves queue (s.shown queue) (execFaultMarker c port tree cause reporter s) := by
  unfold execFaultMarker
  (repeat' split) <;> simp

@[simp] theorem execNakMarker_serves (c : Chan) (port : PortIx) (seq : BitVec 12) (s : State) :
    Serves queue (s.shown queue) (execNakMarker c port seq s) := by simp [execNakMarker]

@[simp] theorem execAckMarker_serves (c : Chan) (port : PortIx) (seq : BitVec 12) (s : State) :
    Serves queue (s.shown queue) (execAckMarker c port seq s) := by simp [execAckMarker]

@[simp] theorem State.credit_shown (s : State) (c : Chan) (port : PortIx) (k : CreditKind) (count : Nat) :
    (s.credit c port k count).shown queue = s.shown queue := by
  unfold State.credit
  split <;> simp

@[simp] theorem execCreditMarker_serves (c : Chan) (port : PortIx) (buf : CreditKind) (count : Nat) (s : State) :
    Serves queue (s.shown queue) (execCreditMarker c port buf count s) := by simp [execCreditMarker]

@[simp] theorem execEchoMarker_serves (c : Chan) (port : PortIx) (stamp : BitVec 52) (s : State) :
    Serves queue (s.shown queue) (execEchoMarker c port stamp s) := by simp [execEchoMarker]

/-! ### Not seen: claims, routes and the fabric -/

@[simp] theorem State.claimAt_shown (s : State) (c : Chan) (who : ClaimId) (r : Resource) : (s.claimAt c who r).shown queue = s.shown queue := by
  simp [State.claimAt]

@[simp] theorem execClaim_serves (c : Chan) (who : ClaimId) (r : Resource) (s : State) : Serves queue (s.shown queue) (execClaim c who r s) := by
  simp [execClaim]

@[simp] theorem State.dropClaims_shown (s : State) (c : Chan) (who : ClaimId) (all : Bool) :
    (s.dropClaims c who all).shown queue = s.shown queue := by simp [State.dropClaims]

@[simp] theorem execClaimLapse_serves (c : Chan) (who : ClaimId) (s : State) : Serves queue (s.shown queue) (execClaimLapse c who s) := by rfl

@[simp] theorem State.releaseClaims_shown (s : State) (p : Placing) : (s.releaseClaims p).shown queue = s.shown queue :=
  State.each_shown _ _ _ fun a t => by (repeat' split) <;> simp

@[simp] theorem State.onFab_shown (s : State) (f : Fabric → Fabric) : (s.onFab f).shown queue = s.shown queue := by simp [State.onFab]

@[simp] theorem State.placeFails_shown (s : State) (p : Placing) (code : Nat) : (s.placeFails p code).shown queue = s.shown queue := by
  unfold State.placeFails
  split <;> simp

@[simp] theorem State.attempt_shown (s : State) (p0 : Placing) : (s.attempt p0).shown queue = s.shown queue := by
  simp only [State.attempt]
  (repeat' split) <;> simp

@[simp] theorem State.rerun_shown (s : State) (p : Placing) : (s.rerun p).shown queue = s.shown queue := by
  unfold State.rerun
  (repeat' split) <;> simp

@[simp] theorem State.startPlacing_shown (s : State) (ctx job : Nat) (restart : Bool) :
    (s.startPlacing ctx job restart).shown queue = s.shown queue := by simp [State.startPlacing]

@[simp] theorem State.loadVch_shown (s : State) (c : Chan) (im : JobImage) (v : Nat) (pds : BitVec 16) :
    (s.loadVch c im v pds).shown queue = s.shown queue := by
  unfold State.loadVch
  split <;> simp

@[simp] theorem State.admitPolders_shown (s : State) (c : Chan) (t : TableRec) (j : SlotIx) (pwr : List (Bool × Nat)) :
    (s.admitPolders c t j pwr).shown queue = s.shown queue := by simp [State.admitPolders]

@[simp] theorem State.admitRegion_shown (s : State) (c : Chan) (t : TableRec) : (s.admitRegion c t).shown queue = s.shown queue := by
  simp [State.admitRegion]

@[simp] theorem State.applyTables_shown (s : State) (c : Chan) (t : TableRec) (set : SlotSet) (pwr : List (Bool × Nat)) :
    (s.applyTables c t set pwr).shown queue = s.shown queue := by
  unfold State.applyTables
  split <;> simp

@[simp] theorem State.writeTables_shown (s : State) (p : Placing) : (s.writeTables p).shown queue = s.shown queue := by
  unfold State.writeTables
  split
  · rfl
  · dsimp only
    rw [State.onFab_shown, State.onJob_shown]
    refine State.each_shown _ _ _ fun e t => ?_
    extract_lets
    split
    · simp
    · split <;> simp

@[simp] theorem State.claimAnswer_shown (s : State) (r : Resource) (at_ : ChanAddr) (granted : Bool) :
    (s.claimAnswer r at_ granted).shown queue = s.shown queue := by
  unfold State.claimAnswer
  split <;> simp

@[simp] theorem execClaimReply_serves (r : Resource) (at_ : BitVec 15) (granted : Bool) (s : State) :
    Serves queue (s.shown queue) (execClaimReply r at_ granted s) := by simp [execClaimReply]

@[simp] theorem State.applyAway_shown (s : State) (c : Chan) (t : TableRec) : (s.applyAway c t).shown queue = s.shown queue := by
  simp [State.applyAway]

@[simp] theorem State.releaseAway_shown (s : State) (c : Chan) (who : ClaimId) (keep : Bool) :
    (s.releaseAway c who keep).shown queue = s.shown queue := by simp [State.releaseAway]

theorem State.bindShard_shown (s : State) (ctx job handle : Nat) (a : Alloc) (v : Nat) (ch : ChanAddr) (pds : BitVec 16) :
    ShowsIfSome queue (s.shown queue) (s.bindShard ctx job handle a v ch pds) := by
  unfold State.bindShard
  extract_lets put
  have hput : ∀ base ps, (put base ps).shown queue = s.shown queue := fun base ps => State.onCtx_shown ..
  split
  · exact ShowsIfSome.map fun base => hput ..
  · exact ShowsIfSome.map fun base => hput ..

theorem State.bindAll_shown (s : State) (ctx job : Nat) (jb : Job) : ShowsIfSome queue (s.shown queue) (s.bindAll ctx job jb) := by
  unfold State.bindAll
  extract_lets hs
  refine List.foldlRecOn hs _ (ShowsIfSome.some rfl) fun acc hacc e _ => List.foldlRecOn jb.place _ hacc fun acc hacc b _ => ?_
  refine hacc.bind fun t ht => ?_
  split
  · exact fun u hu => (t.bindShard_shown _ _ _ _ _ _ _ u hu).trans ht
  · exact ShowsIfSome.some ht

@[simp] theorem State.admitJob_shown (s : State) (p : Placing) : (s.admitJob p).shown queue = s.shown queue := by
  unfold State.admitJob
  split
  · rfl
  · extract_lets s0
    have h0 : s0.shown queue = s.shown queue := s.onFab_shown _
    split
    · simp [h0]
    · rename_i t ht
      have ht := (State.bindAll_shown _ _ _ _ t ht).trans h0
      extract_lets t0 t1 t2
      have h2 : t2.shown queue = s.shown queue := by simp [t2, t1, t0, ht]
      exact State.shown_ite h2 ((t2.complete_shown ..).trans h2)

@[simp] theorem State.tableAck_shown (s : State) (fromCh : ChanAddr) : (s.tableAck fromCh).shown queue = s.shown queue := by
  unfold State.tableAck
  split <;> simp

@[simp] theorem execTableWriteAck_serves (fromCh : BitVec 15) (s : State) : Serves queue (s.shown queue) (execTableWriteAck fromCh s) := by
  simp [execTableWriteAck]

@[simp] theorem execPlacementRetry_serves (s : State) : Serves queue (s.shown queue) (execPlacementRetry s) := by
  unfold execPlacementRetry
  split <;> simp

@[simp] theorem execPlaceDeadline_serves (s : State) : Serves queue (s.shown queue) (execPlaceDeadline s) := by
  unfold execPlaceDeadline
  (repeat' split) <;> simp

@[simp] theorem State.recompute_shown (s : State) : (s.recompute).shown queue = s.shown queue := by simp [State.recompute]

@[simp] theorem State.takeMap_shown (s : State) (r : MapRec) : (s.takeMap r).shown queue = s.shown queue := by
  simp only [State.takeMap]
  split <;> simp

@[simp] theorem State.mapIn_shown (s : State) (c : Chan) (r : MapRec) : (s.mapIn c r).shown queue = s.shown queue := by simp [State.mapIn]

@[simp] theorem execMapChange_serves (rec_ : MapRec) (s : State) : Serves queue (s.shown queue) (execMapChange rec_ s) := by
  simp [execMapChange]

@[simp] theorem execMapKeeperTakeover_serves (lost : BitVec 12) (s : State) : Serves queue (s.shown queue) (execMapKeeperTakeover lost s) := by
  simp only [execMapKeeperTakeover]
  (repeat' split) <;> simp

@[simp] theorem State.addressed_shown (s : State) : (s.addressed).shown queue = s.shown queue := by simp [State.addressed]

@[simp] theorem execDiscoverySettle_serves (s : State) : Serves queue (s.shown queue) (execDiscoverySettle s) := by simp [execDiscoverySettle]

@[simp] theorem execModuleJoin_serves (s : State) : Serves queue (s.shown queue) (execModuleJoin s) := by simp [execModuleJoin]

/-! ### Not seen: repairs -/

@[simp] theorem State.moveEntries_shown (s : State) (pick : Defect → Bool) (st : BitVec 8) :
    (s.moveEntries pick st).shown queue = s.shown queue := by simp [State.moveEntries]

@[simp] theorem State.settleOne_shown (s : State) (d : Defect) (st : BitVec 8) : (s.settleOne d st).shown queue = s.shown queue := by simp [State.settleOne]

@[simp] theorem State.widen_shown (s : State) (c : Chan) (d : Defect) (k : DefectKind) (unit loc : Nat) :
    (s.widen c d k unit loc).shown queue = s.shown queue := by simp [State.widen]

@[simp] theorem State.losePump_shown (s : State) (c : Chan) (phys : Nat) : (s.losePump c phys).shown queue = s.shown queue := by
  unfold State.losePump
  (repeat' split) <;> simp

@[simp] theorem State.onRepair_shown (s : State) (c : Chan) (phys : Nat) (f : PumpRepair → PumpRepair) :
    (s.onRepair c phys f).shown queue = s.shown queue := by
  unfold State.onRepair
  split <;> simp

@[simp] theorem State.applyLane_shown (s : State) (c : Chan) (d : Defect) : (s.applyLane c d).shown queue = s.shown queue := by
  simp [State.applyLane]

@[simp] theorem State.applyBond_shown (s : State) (c : Chan) (d : Defect) : (s.applyBond c d).shown queue = s.shown queue := by
  simp [State.applyBond]

@[simp] theorem State.applyPumps_shown (s : State) (c : Chan) : (s.applyPumps c).shown queue = s.shown queue := by simp [State.applyPumps]

@[simp] theorem State.applySpare_shown (s : State) (c : Chan) (k : DefectKind) (bank : Nat → Nat) (spares : Nat) (d : Defect) :
    (s.applySpare c k bank spares d).shown queue = s.shown queue := by simp [State.applySpare]

@[simp] theorem State.applyCistern_shown (s : State) (c : Chan) : (s.applyCistern c).shown queue = s.shown queue := by simp [State.applyCistern]

@[simp] theorem State.applyHbmRow_shown (s : State) (c : Chan) (d : Defect) : (s.applyHbmRow c d).shown queue = s.shown queue := by
  simp [State.applyHbmRow]

@[simp] theorem State.applyBank_shown (s : State) (c : Chan) (d : Defect) : (s.applyBank c d).shown queue = s.shown queue := by
  simp [State.applyBank]

@[simp] theorem State.applyLayer_shown (s : State) (c : Chan) (d : Defect) : (s.applyLayer c d).shown queue = s.shown queue := by
  simp [State.applyLayer]

@[simp] theorem State.applyPin_shown (s : State) (c : Chan) (st : StackIx) : (s.applyPin c st).shown queue = s.shown queue := by
  simp [State.applyPin]

@[simp] theorem State.setCaps_shown (s : State) (c : Chan) : (s.setCaps c).shown queue = s.shown queue := by simp [State.setCaps]

@[simp] theorem State.applyHbm_shown (s : State) (c : Chan) : fstShown queue (s.applyHbm c) = s.shown queue := by simp [State.applyHbm]

/-! ### Not seen: jobs and their end -/

@[simp] theorem State.foldAll_shown (s : State) (c : Chan) (p : PumpIx) : (s.foldAll c p).shown queue = s.shown queue := by simp [State.foldAll]

@[simp] theorem State.checkGrans_shown (s : State) (c : Chan) (ks : List Nat) : (s.checkGrans c ks).shown queue = s.shown queue := by
  simp [State.checkGrans]

@[simp] theorem State.capture_shown (s : State) (c : Chan) (j : SlotIx) : (s.capture c j).shown queue = s.shown queue := by simp [State.capture]

@[simp] theorem execCaptureComplete_serves (c : Chan) (j : SlotIx) (s : State) : Serves queue (s.shown queue) (execCaptureComplete c j s) := by
  simp only [execCaptureComplete]
  (repeat' split) <;> simp

@[simp] theorem State.ckptDone_shown (s : State) (ctx job frame : Nat) (final : Bool) :
    (s.ckptDone ctx job frame final).shown queue = s.shown queue := by
  unfold State.ckptDone
  (repeat' split) <;> simp

@[simp] theorem execCheckpointComplete_serves (c : Chan) (j : SlotIx) (s : State) :
    Serves queue (s.shown queue) (execCheckpointComplete c j s) := by
  simp only [execCheckpointComplete]
  split <;> simp

@[simp] theorem State.askCkpt_shown (s : State) (ctx job : Nat) : (s.askCkpt ctx job).shown queue = s.shown queue := by simp [State.askCkpt]

@[simp] theorem State.buddyLost_shown (s : State) (c : Chan) (j : SlotIx) : (s.buddyLost c j).shown queue = s.shown queue := by
  simp [State.buddyLost]

@[simp] theorem execBuddySlotLost_serves (c : Chan) (j : SlotIx) (s : State) : Serves queue (s.shown queue) (execBuddySlotLost c j s) := by
  simp [execBuddySlotLost]

@[simp] theorem State.restoreSlot_shown (s : State) (jb : Job) (ks : List Ckpt) (c : Chan) (j : SlotIx) :
    (s.restoreSlot jb ks c j).shown queue = s.shown queue := by
  unfold State.restoreSlot
  refine (State.each_shown _ _ _ fun e t => ?_).trans (State.each_shown _ _ _ fun p t => ?_)
  · split <;> simp
  · extract_lets q
    split <;> simp

@[simp] theorem State.pumpState_shown (s : State) (c : Chan) (j : SlotIx) (p : PumpIx) : (s.pumpState c j p).shown queue = s.shown queue := by simp [State.pumpState]

@[simp] theorem State.captureFault_shown (s : State) (c : Chan) (j : SlotIx) : (s.captureFault c j).shown queue = s.shown queue := by
  simp [State.captureFault]

@[simp] theorem State.rereadNet_shown (s : State) (c : Chan) (j : SlotIx) : (s.rereadNet c j).shown queue = s.shown queue := by
  simp only [State.rereadNet]
  (repeat' split) <;> simp

@[simp] theorem State.recoveryFault_shown (s : State) (ctx job reason : Nat) (jb : Job) :
    (s.recoveryFault ctx job reason jb).shown queue = s.shown queue := by
  unfold State.recoveryFault
  split <;> simp

@[simp] theorem State.flowOn_shown (s : State) (ctx job : Nat) : (s.flowOn ctx job).shown queue = s.shown queue := by
  simp only [State.flowOn]
  (repeat' split) <;> simp

@[simp] theorem State.faultFlow_shown (s : State) (ctx job : Nat) (reset : State → Chan → BitVec 2 → State)
    (hf : ∀ a b t, (reset t a b).shown queue = t.shown queue) :
    (s.faultFlow ctx job reset).shown queue = s.shown queue := by
  unfold State.faultFlow
  split
  · rfl
  · refine State.shown_ite (s.flowOn_shown ctx job) ?_
    extract_lets s1 bad s2 recs chans s3 hard s4
    have h2 : s2.shown queue = s.shown queue := (State.each_shown _ _ _ fun e t => by simp).trans (s.jobEvent_shown ..)
    have h4 : s4.shown queue = s.shown queue := by
      refine (State.each_shown _ _ _ fun c t => ?_).trans (by simp [s3, h2])
      split
      · exact State.shown_ite (hf _ _ t) (by simp)
      · rfl
    exact State.shown_ite (by simp [h2]) (by simp [h4])

@[simp] theorem State.flowsOn_shown (s : State) : (s.flowsOn).shown queue = s.shown queue := by simp [State.flowsOn]

@[simp] theorem execRestoreComplete_serves (ctx job : Nat) (s : State) : Serves queue (s.shown queue) (execRestoreComplete ctx job s) := by
  unfold execRestoreComplete
  (repeat' split) <;> simp

@[simp] theorem State.flashCopy_shown (s : State) (c : Chan) : (s.flashCopy c).shown queue = s.shown queue := by simp [State.flashCopy]

@[simp] theorem execBlackBoxFlashCopy_serves (c : Chan) (s : State) : Serves queue (s.shown queue) (execBlackBoxFlashCopy c s) := by
  simp [execBlackBoxFlashCopy]

/-! ### Not seen: resets -/

@[simp] theorem State.resetEvent_shown (s : State) (c : Chan) (scope retain requester : Nat) :
    (s.resetEvent c scope retain requester).shown queue = s.shown queue := by simp [State.resetEvent]

@[simp] theorem State.assertReset_shown (s : State) (c : Chan) (cause : Cause) (kind : UnitKind) :
    (s.assertReset c cause kind).shown queue = s.shown queue := by simp [State.assertReset]

@[simp] theorem State.holdReset_shown (s : State) (c : Chan) : (s.holdReset c).shown queue = s.shown queue := by simp [State.holdReset]

@[simp] theorem State.abortPass_shown (s : State) (c : Chan) : (s.abortPass c).shown queue = s.shown queue := by
  unfold State.abortPass
  split <;> simp

@[simp] theorem State.beginReset_shown (s : State) (c : Chan) (scope : BitVec 2) (retain : Bool) (requester : Nat) :
    (s.beginReset c scope retain requester).shown queue = s.shown queue := by simp [State.beginReset]

@[simp] theorem State.flowReset_shown (s : State) (c : Chan) (scope : BitVec 2) : (s.flowReset c scope).shown queue = s.shown queue := by
  simp [State.flowReset]

@[simp] theorem execFaultFlow_serves (ctx job : Nat) (s : State) : Serves queue (s.shown queue) (execFaultFlow ctx job s) := by
  simp [execFaultFlow]

@[simp] theorem State.chReset_shown (s : State) (c : Chan) (scope : BitVec 2) (retain : Bool) :
    (s.chReset c scope retain).shown queue = s.shown queue := by simp [State.chReset]

@[simp] theorem execChResetPumpDie_serves (c : Chan) (s : State) : Serves queue (s.shown queue) (execChResetPumpDie c s) := by
  simp [execChResetPumpDie]

@[simp] theorem execChResetChannel_serves (c : Chan) (retain : Bool) (s : State) :
    Serves queue (s.shown queue) (execChResetChannel c retain s) := by simp [execChResetChannel]

@[simp] theorem execDeferredReset_serves (c : Chan) (s : State) : Serves queue (s.shown queue) (execDeferredReset c s) := by
  unfold execDeferredReset
  split <;> simp

@[simp] theorem State.spareTest_shown (s old : State) (c : Chan) (fails : BitVec 16) : (s.spareTest old c fails).shown queue = s.shown queue := by
  simp [State.spareTest]

@[simp] theorem State.buddiesLost_shown (s : State) (c : Chan) : (s.buddiesLost c).shown queue = s.shown queue :=
  State.each_shown _ _ _ fun p t => by (repeat' split) <;> simp

@[simp] theorem State.ready_shown (s : State) (c : Chan) : (s.ready c).shown queue = s.shown queue := by simp [State.ready]

@[simp] theorem execPumpDieResetComplete_serves (c : Chan) (spareFails : BitVec 16) (s : State) :
    Serves queue (s.shown queue) (execPumpDieResetComplete c spareFails s) := by simp [execPumpDieResetComplete]

@[simp] theorem State.applyRepairs_shown (s : State) (c : Chan) (fails : BitVec 16) : (s.applyRepairs c fails).shown queue = s.shown queue := by
  simp [State.applyRepairs]

@[simp] theorem execChannelResetComplete_serves (c : Chan) (spareFails : BitVec 16) (s : State) :
    Serves queue (s.shown queue) (execChannelResetComplete c spareFails s) := by simp [execChannelResetComplete]

@[simp] theorem State.portsLost_shown (s : State) (c : Chan) : (s.portsLost c).shown queue = s.shown queue := by
  unfold State.portsLost
  refine State.each_shown _ _ _ fun p t => ?_
  split
  · split
    · exact t.portTo_shown c p _ _
    · rfl
  · exact t.portLost_shown c p _ _

@[simp] theorem State.loseChan_shown (s : State) (c : Chan) (cause : Cause) (kind : UnitKind) (f : Channel → Channel) :
    (s.loseChan c cause kind f).shown queue = s.shown queue := by simp [State.loseChan]

@[simp] theorem State.beginEmb_shown (s : State) (c : Chan) : (s.beginEmb c).shown queue = s.shown queue := by simp [State.beginEmb]

@[simp] theorem execEmbReset_serves (c : Chan) (s : State) : Serves queue (s.shown queue) (execEmbReset c s) := by simp [execEmbReset]

@[simp] theorem execEmbankmentResetComplete_serves (c : Chan) (s : State) : Serves queue (s.shown queue) (execEmbankmentResetComplete c s) := by
  simp [execEmbankmentResetComplete]

@[simp] theorem execBondCtlLoss_serves (c : Chan) (p : PumpIx) (sig : Fin 4) (copy : Bool) (s : State) :
    Serves queue (s.shown queue) (execBondCtlLoss c p sig copy s) := by simp [execBondCtlLoss]

@[simp] theorem execSequencerTimeout_serves (c : Chan) (s : State) : Serves queue (s.shown queue) (execSequencerTimeout c s) := by
  simp [execSequencerTimeout]

@[simp] theorem execBbxRelease_serves (c : Chan) (s : State) : Serves queue (s.shown queue) (execBbxRelease c s) := by simp [execBbxRelease]

@[simp] theorem execBbxFreeze_serves (c : Chan) (s : State) : Serves queue (s.shown queue) (execBbxFreeze c s) := by simp [execBbxFreeze]

@[simp] theorem execCriticalRecovery_serves (c : Chan) (s : State) : Serves queue (s.shown queue) (execCriticalRecovery c s) := by
  simp [execCriticalRecovery]

@[simp] theorem execColdRecovery_serves (c : Chan) (s : State) : Serves queue (s.shown queue) (execColdRecovery c s) := by
  simp [execColdRecovery]

@[simp] theorem State.doBqs_shown (s : State) (c : Chan) (p : PumpIx) (o : RowOp) : fstShown queue (s.doBqs c p o) = s.shown queue := by
  unfold State.doBqs
  extract_lets n
  split
  rename_i s1 gs h
  rw [fstShown_mk, State.onPump_queue]
  exact (shown_of_eq h).trans (readEach_shown _ _ _ fun g t => t.readOwn_shown c p g)

@[simp] theorem State.takeEntries_shown (s : State) (c : Chan) (p : PumpIx) (n : Nat) :
    fstShown queue (s.takeEntries c p n) = s.shown queue := by
  unfold State.takeEntries
  dsimp only
  refine (readEach_shown _ _ _ fun e t => ?_).trans (s.onPump_queue c p _)
  split
  · rfl
  · split <;> simp

@[simp] theorem State.doDotStep_shown (s : State) (c : Chan) (p : PumpIx) (o : RowOp) : fstShown queue (s.doDotStep c p o) = s.shown queue := by
  unfold State.doDotStep
  split <;> simp

@[simp] theorem State.act_shown (s : State) (c : Chan) (p : PumpIx) (i : Nat) (o : RowOp) : (s.act c p i o).shown queue = s.shown queue := by
  simp [State.act]

@[simp] theorem State.advanceN_shown (s : State) (c : Chan) (p : PumpIx) (x : Nat) : (s.advanceN c p x).shown queue = s.shown queue := by
  induction x generalizing s with
  | zero => rfl
  | succ n ih => unfold State.advanceN; dsimp only; (repeat' split) <;> simp [ih]

@[simp] theorem State.advance_shown (s : State) (c : Chan) (p : PumpIx) : (s.advance c p).shown queue = s.shown queue := by simp [State.advance]

@[simp] theorem State.pcNext_shown (s : State) (c : Chan) (p : PumpIx) : (s.pcNext c p).shown queue = s.shown queue := by simp [State.pcNext]

@[simp] theorem State.enqueue_shown (s : State) (c : Chan) (p : PumpIx) (o : RowOp) : (s.enqueue c p o).shown queue = s.shown queue := by
  simp [State.enqueue]

@[simp] theorem State.issueRow_shown (s : State) (c : Chan) (p : PumpIx) (w : BitVec 64) : (s.issueRow c p w).shown queue = s.shown queue := by
  unfold State.issueRow
  split <;> simp

@[simp] theorem State.issueDesc_shown (s : State) (c : Chan) (p : PumpIx) (u : RowUnit) (f : BitVec 58) :
    (s.issueDesc c p u f).shown queue = s.shown queue := by simp [State.issueDesc]

/-! ### Not seen: the controller of a pump -/

@[simp] theorem scalar_serves (op : Nat) (u : Uses) (c : Chan) (p : PumpIx) (f : BitVec 58) (s : State) (g : State → State)
    (hf : ∀ t, (g t).shown queue = t.shown queue) :
    Serves queue (s.shown queue) (scalar op u c p f s g) := by simp [scalar, hf]

@[simp] theorem alu_serves (op : Nat) (g : BitVec 64 → BitVec 64 → BitVec 64) (c : Chan) (p : PumpIx) (f : BitVec 58) (s : State) :
    Serves queue (s.shown queue) (alu op g c p f s) :=
  scalar_serves _ _ _ _ _ _ _ fun t => t.onPump_queue c p _

@[simp] theorem aluImm_serves (op bits : Nat) (g : BitVec 64 → BitVec 64) (c : Chan) (p : PumpIx) (f : BitVec 58) (s : State) :
    Serves queue (s.shown queue) (aluImm op bits g c p f s) :=
  scalar_serves _ _ _ _ _ _ _ fun t => t.onPump_queue c p _

@[simp] theorem branch_serves (op : Nat) (u : Uses) (c : Chan) (p : PumpIx) (f : BitVec 58) (s : State) (taken : Pump → Bool) :
    Serves queue (s.shown queue) (branch op u c p f s taken) := by simp [branch]

@[simp] theorem execNop_serves (c : Chan) (p : PumpIx) (f : BitVec 58) (s : State) : Serves queue (s.shown queue) (execNop c p f s) := by
  simp [execNop]

@[simp] theorem execAdd_serves (c : Chan) (p : PumpIx) (f : BitVec 58) (s : State) : Serves queue (s.shown queue) (execAdd c p f s) := by
  simp [execAdd]

@[simp] theorem execSub_serves (c : Chan) (p : PumpIx) (f : BitVec 58) (s : State) : Serves queue (s.shown queue) (execSub c p f s) := by
  simp [execSub]

@[simp] theorem execAnd_serves (c : Chan) (p : PumpIx) (f : BitVec 58) (s : State) : Serves queue (s.shown queue) (execAnd c p f s) := by
  simp [execAnd]

@[simp] theorem execOr_serves (c : Chan) (p : PumpIx) (f : BitVec 58) (s : State) : Serves queue (s.shown queue) (execOr c p f s) := by
  simp [execOr]

@[simp] theorem execXor_serves (c : Chan) (p : PumpIx) (f : BitVec 58) (s : State) : Serves queue (s.shown queue) (execXor c p f s) := by
  simp [execXor]

@[simp] theorem execMul_serves (c : Chan) (p : PumpIx) (f : BitVec 58) (s : State) : Serves queue (s.shown queue) (execMul c p f s) := by
  simp [execMul]

@[simp] theorem execAddi_serves (c : Chan) (p : PumpIx) (f : BitVec 58) (s : State) : Serves queue (s.shown queue) (execAddi c p f s) := by
  simp [execAddi]

@[simp] theorem execShli_serves (c : Chan) (p : PumpIx) (f : BitVec 58) (s : State) : Serves queue (s.shown queue) (execShli c p f s) := by
  simp [execShli]

@[simp] theorem execShri_serves (c : Chan) (p : PumpIx) (f : BitVec 58) (s : State) : Serves queue (s.shown queue) (execShri c p f s) := by
  simp [execShri]

@[simp] theorem execLi_serves (c : Chan) (p : PumpIx) (f : BitVec 58) (s : State) : Serves queue (s.shown queue) (execLi c p f s) :=
  scalar_serves _ _ _ _ _ _ _ fun t => t.onPump_queue c p _

@[simp] theorem execBeq_serves (c : Chan) (p : PumpIx) (f : BitVec 58) (s : State) : Serves queue (s.shown queue) (execBeq c p f s) := by
  simp [execBeq]

@[simp] theorem execBne_serves (c : Chan) (p : PumpIx) (f : BitVec 58) (s : State) : Serves queue (s.shown queue) (execBne c p f s) := by
  simp [execBne]

@[simp] theorem execBlt_serves (c : Chan) (p : PumpIx) (f : BitVec 58) (s : State) : Serves queue (s.shown queue) (execBlt c p f s) := by
  simp [execBlt]

@[simp] theorem execJmp_serves (c : Chan) (p : PumpIx) (f : BitVec 58) (s : State) : Serves queue (s.shown queue) (execJmp c p f s) := by
  simp [execJmp]

@[simp] theorem execLd_serves (c : Chan) (p : PumpIx) (f : BitVec 58) (s : State) : Serves queue (s.shown queue) (execLd c p f s) :=
  State.atWord_serves _ _ _ _ _ fun t => by dsimp only; (repeat' split) <;> simp

@[simp] theorem execSt_serves (c : Chan) (p : PumpIx) (f : BitVec 58) (s : State) : Serves queue (s.shown queue) (execSt c p f s) :=
  State.atWord_serves _ _ _ _ _ fun t => by dsimp only; (repeat' split) <;> simp

@[simp] theorem execSetsr_serves (c : Chan) (p : PumpIx) (f : BitVec 58) (s : State) : Serves queue (s.shown queue) (execSetsr c p f s) := by
  simp [execSetsr]

@[simp] theorem execFrn_serves (c : Chan) (p : PumpIx) (f : BitVec 58) (s : State) : Serves queue (s.shown queue) (execFrn c p f s) :=
  scalar_serves _ _ _ _ _ _ _ fun t => t.onPump_queue c p _

@[simp] theorem execPid_serves (c : Chan) (p : PumpIx) (f : BitVec 58) (s : State) : Serves queue (s.shown queue) (execPid c p f s) :=
  scalar_serves _ _ _ _ _ _ _ fun t => t.onPump_queue c p _

@[simp] theorem execIssue_serves (c : Chan) (p : PumpIx) (f : BitVec 58) (s : State) : Serves queue (s.shown queue) (execIssue c p f s) := by
  simp [execIssue]

@[simp] theorem execKrn_serves (c : Chan) (p : PumpIx) (f : BitVec 58) (s : State) : Serves queue (s.shown queue) (execKrn c p f s) := by
  simp [execKrn]

@[simp] theorem execFence_serves (c : Chan) (p : PumpIx) (f : BitVec 58) (s : State) : Serves queue (s.shown queue) (execFence c p f s) := by
  simp [execFence]

@[simp] theorem execDone_serves (c : Chan) (p : PumpIx) (f : BitVec 58) (s : State) : Serves queue (s.shown queue) (execDone c p f s) := by
  simp [execDone]

@[simp] theorem execUnassignedOpcode_serves (c : Chan) (p : PumpIx) (w : BitVec 64) (s : State) :
    Serves queue (s.shown queue) (execUnassignedOpcode c p w s) := by simp [execUnassignedOpcode]

@[simp] theorem rowWord_serves (op : Nat) (c : Chan) (p : PumpIx) (f : BitVec 58) (s : State) :
    Serves queue (s.shown queue) (rowWord op c p f s) := by simp [rowWord]

@[simp] theorem ewWord_serves (fn : Nat) (c : Chan) (p : PumpIx) (f : BitVec 58) (s : State) :
    Serves queue (s.shown queue) (ewWord fn c p f s) := by simp [ewWord]

@[simp] theorem execEwUnassignedFn_serves (c : Chan) (p : PumpIx) (f : BitVec 58) (s : State) :
    Serves queue (s.shown queue) (execEwUnassignedFn c p f s) := by simp [execEwUnassignedFn]

@[simp] theorem xferWord_serves (want : Nat → Bool) (c : Chan) (p : PumpIx) (f : BitVec 58) (s : State) :
    Serves queue (s.shown queue) (xferWord want c p f s) := by simp [xferWord]

@[simp] theorem execXfrReservedOpc_serves (c : Chan) (p : PumpIx) (f : BitVec 58) (s : State) :
    Serves queue (s.shown queue) (execXfrReservedOpc c p f s) := by simp [execXfrReservedOpc]

@[simp] theorem execDot_serves (c : Chan) (p : PumpIx) (f : BitVec 58) (s : State) : Serves queue (s.shown queue) (execDot c p f s) := by
  simp [execDot]

@[simp] theorem execBqs_serves (c : Chan) (p : PumpIx) (f : BitVec 58) (s : State) : Serves queue (s.shown queue) (execBqs c p f s) := by
  simp [execBqs]

@[simp] theorem execAcl_serves (c : Chan) (p : PumpIx) (f : BitVec 58) (s : State) : Serves queue (s.shown queue) (execAcl c p f s) := by
  simp [execAcl]

@[simp] theorem execAcs_serves (c : Chan) (p : PumpIx) (f : BitVec 58) (s : State) : Serves queue (s.shown queue) (execAcs c p f s) := by
  simp [execAcs]

@[simp] theorem execAcr_serves (c : Chan) (p : PumpIx) (f : BitVec 58) (s : State) : Serves queue (s.shown queue) (execAcr c p f s) := by
  simp [execAcr]

@[simp] theorem execLld_serves (c : Chan) (p : PumpIx) (f : BitVec 58) (s : State) : Serves queue (s.shown queue) (execLld c p f s) := by
  simp [execLld]

@[simp] theorem execEwMov_serves (c : Chan) (p : PumpIx) (f : BitVec 58) (s : State) : Serves queue (s.shown queue) (execEwMov c p f s) := by
  simp [execEwMov]

@[simp] theorem execEwAdd_serves (c : Chan) (p : PumpIx) (f : BitVec 58) (s : State) : Serves queue (s.shown queue) (execEwAdd c p f s) := by
  simp [execEwAdd]

@[simp] theorem execEwSub_serves (c : Chan) (p : PumpIx) (f : BitVec 58) (s : State) : Serves queue (s.shown queue) (execEwSub c p f s) := by
  simp [execEwSub]

@[simp] theorem execEwMul_serves (c : Chan) (p : PumpIx) (f : BitVec 58) (s : State) : Serves queue (s.shown queue) (execEwMul c p f s) := by
  simp [execEwMul]

@[simp] theorem execEwMax_serves (c : Chan) (p : PumpIx) (f : BitVec 58) (s : State) : Serves queue (s.shown queue) (execEwMax c p f s) := by
  simp [execEwMax]

@[simp] theorem execEwMin_serves (c : Chan) (p : PumpIx) (f : BitVec 58) (s : State) : Serves queue (s.shown queue) (execEwMin c p f s) := by
  simp [execEwMin]

@[simp] theorem execEwFma_serves (c : Chan) (p : PumpIx) (f : BitVec 58) (s : State) : Serves queue (s.shown queue) (execEwFma c p f s) := by
  simp [execEwFma]

@[simp] theorem execEwAbs_serves (c : Chan) (p : PumpIx) (f : BitVec 58) (s : State) : Serves queue (s.shown queue) (execEwAbs c p f s) := by
  simp [execEwAbs]

@[simp] theorem execEwNeg_serves (c : Chan) (p : PumpIx) (f : BitVec 58) (s : State) : Serves queue (s.shown queue) (execEwNeg c p f s) := by
  simp [execEwNeg]

@[simp] theorem execEwExp2_serves (c : Chan) (p : PumpIx) (f : BitVec 58) (s : State) : Serves queue (s.shown queue) (execEwExp2 c p f s) := by
  simp [execEwExp2]

@[simp] theorem execEwLog2_serves (c : Chan) (p : PumpIx) (f : BitVec 58) (s : State) : Serves queue (s.shown queue) (execEwLog2 c p f s) := by
  simp [execEwLog2]

@[simp] theorem execEwRcp_serves (c : Chan) (p : PumpIx) (f : BitVec 58) (s : State) : Serves queue (s.shown queue) (execEwRcp c p f s) := by
  simp [execEwRcp]

@[simp] theorem execEwRsqrt_serves (c : Chan) (p : PumpIx) (f : BitVec 58) (s : State) : Serves queue (s.shown queue) (execEwRsqrt c p f s) := by
  simp [execEwRsqrt]

@[simp] theorem execEwTanh_serves (c : Chan) (p : PumpIx) (f : BitVec 58) (s : State) : Serves queue (s.shown queue) (execEwTanh c p f s) := by
  simp [execEwTanh]

@[simp] theorem execEwIadd_serves (c : Chan) (p : PumpIx) (f : BitVec 58) (s : State) : Serves queue (s.shown queue) (execEwIadd c p f s) := by
  simp [execEwIadd]

@[simp] theorem execEwIsub_serves (c : Chan) (p : PumpIx) (f : BitVec 58) (s : State) : Serves queue (s.shown queue) (execEwIsub c p f s) := by
  simp [execEwIsub]

@[simp] theorem execEwImax_serves (c : Chan) (p : PumpIx) (f : BitVec 58) (s : State) : Serves queue (s.shown queue) (execEwImax c p f s) := by
  simp [execEwImax]

@[simp] theorem execEwImin_serves (c : Chan) (p : PumpIx) (f : BitVec 58) (s : State) : Serves queue (s.shown queue) (execEwImin c p f s) := by
  simp [execEwImin]

@[simp] theorem execEwCvtif_serves (c : Chan) (p : PumpIx) (f : BitVec 58) (s : State) : Serves queue (s.shown queue) (execEwCvtif c p f s) := by
  simp [execEwCvtif]

@[simp] theorem execEwCvtfi_serves (c : Chan) (p : PumpIx) (f : BitVec 58) (s : State) : Serves queue (s.shown queue) (execEwCvtfi c p f s) := by
  simp [execEwCvtfi]

@[simp] theorem execXfrCopy_serves (c : Chan) (p : PumpIx) (f : BitVec 58) (s : State) : Serves queue (s.shown queue) (execXfrCopy c p f s) := by
  simp [execXfrCopy]

@[simp] theorem execXfrTcopy_serves (c : Chan) (p : PumpIx) (f : BitVec 58) (s : State) :
    Serves queue (s.shown queue) (execXfrTcopy c p f s) := by simp [execXfrTcopy]

@[simp] theorem execXfrCombine_serves (c : Chan) (p : PumpIx) (f : BitVec 58) (s : State) :
    Serves queue (s.shown queue) (execXfrCombine c p f s) := by simp [execXfrCombine]

@[simp] theorem execXfrReadout_serves (c : Chan) (p : PumpIx) (f : BitVec 58) (s : State) :
    Serves queue (s.shown queue) (execXfrReadout c p f s) := by simp [execXfrReadout]

@[simp] theorem execXfrDead_serves (c : Chan) (p : PumpIx) (f : BitVec 58) (s : State) : Serves queue (s.shown queue) (execXfrDead c p f s) := by
  simp [execXfrDead]

@[simp] theorem execXfrHalo_serves (c : Chan) (p : PumpIx) (f : BitVec 58) (s : State) : Serves queue (s.shown queue) (execXfrHalo c p f s) := by
  simp [execXfrHalo]

@[simp] theorem execXfrWarm_serves (c : Chan) (p : PumpIx) (f : BitVec 58) (s : State) : Serves queue (s.shown queue) (execXfrWarm c p f s) := by
  simp [execXfrWarm]

@[simp] theorem State.bondMark_shown (s : State) (c : Chan) (p : PumpIx) (sym : Nat) (e : BitVec 8) :
    (s.bondMark c p sym e).shown queue = s.shown queue := by simp [State.bondMark]

@[simp] theorem State.bondHit_shown (s : State) (c : Chan) (p : PumpIx) (sym : Nat) (e : BitVec 8) :
    (s.bondHit c p sym e).shown queue = s.shown queue := by simp [State.bondHit]

@[simp] theorem execBondReadDelivery_serves (c : Chan) (p : PumpIx) (gran : BitVec 19) (err : BitVec 288) (s : State) :
    Serves queue (s.shown queue) (execBondReadDelivery c p gran err s) := by
  simp only [execBondReadDelivery]
  (repeat' split) <;> simp

@[simp] theorem execUeReread_serves (c : Chan) (p : PumpIx) (err : BitVec 288) (s : State) :
    Serves queue (s.shown queue) (execUeReread c p err s) := by
  simp only [execUeReread]
  (repeat' split) <;> simp

/-! ### Not seen: lanes of the thread engine -/

@[simp] theorem State.memBits_shown (s : State) (c : Chan) (p : PumpIx) (ch : ChanAddr) (off n : Nat) :
    fstShown queue (s.memBits c p ch off n) = s.shown queue := s.pumpBase_serves c p true s ch (off / 32)

@[simp] theorem State.laneLoad_shown (s : State) (c : Chan) (p : PumpIx) (g : Group) (l : LaneAt) (n : Nat) :
    fstShown queue (s.laneLoad c p g l n) = s.shown queue := by
  unfold State.laneLoad
  split <;> simp

@[simp] theorem State.onTe_shown (s : State) (c : Chan) (p : PumpIx) (f : Te → Te) : (s.onTe c p f).shown queue = s.shown queue := by simp [State.onTe]

@[simp] theorem State.writeBack_shown (s : State) (c : Chan) (p : PumpIx) (out : Nat → Bool) :
    (s.writeBack c p out).shown queue = s.shown queue := by
  unfold State.writeBack
  split <;> simp

@[simp] theorem State.allocLines_shown (s : State) (c : Chan) (p : PumpIx) (ls : List Nat) :
    (s.allocLines c p ls).shown queue = s.shown queue := by simp [State.allocLines]

@[simp] theorem State.publish_shown (s : State) (c : Chan) (p : PumpIx) (i : GSlot) : (s.publish c p i).shown queue = s.shown queue := by
  unfold State.publish
  split <;> simp

@[simp] theorem State.store_shown (s : State) (c : Chan) (p : PumpIx) (i : GSlot) (ws : List (Nat × BitVec 8 × Bool)) :
    (s.store c p i ws).shown queue = s.shown queue := by
  unfold State.store
  split <;> simp

@[simp] theorem State.onGroup_shown (s : State) (c : Chan) (p : PumpIx) (g : GSlot) (f : Group → Group) :
    (s.onGroup c p g f).shown queue = s.shown queue := by simp [State.onGroup]

@[simp] theorem State.teIssueIf_shown (s : State) (c : Chan) (p : PumpIx) (g : GSlot) (srcs dsts : List TReg)
    (waits : State → Kernel → Group → Path → Bool) (act : State → Kernel → Group → Path → State)
    (hf : ∀ a b d t, (act t a b d).shown queue = t.shown queue) :
    (s.teIssueIf c p g srcs dsts waits act).shown queue = s.shown queue := by
  unfold State.teIssueIf
  split
  · rfl
  · refine (State.unlessStopped_shown _ _ _ _ fun t => ?_).trans (s.checkRow_shown ..)
    split <;> simp [hf]

@[simp] theorem State.teIssue_shown (s : State) (c : Chan) (p : PumpIx) (g : GSlot) (srcs dsts : List TReg)
    (act : State → Kernel → Group → Path → State) (hf : ∀ a b d t, (act t a b d).shown queue = t.shown queue) :
    (s.teIssue c p g srcs dsts act).shown queue = s.shown queue := s.teIssueIf_shown c p g srcs dsts _ act hf

@[simp] theorem teLane_serves (c : Chan) (p : PumpIx) (g : GSlot) (rd : TReg) (srcs : List TReg) (s : State)
    (f : Kernel → Group → Nat → BitVec 32) :
    Serves queue (s.shown queue) (teLane c p g rd srcs s f) := by simp [teLane]

/-! ### Not seen: instructions of the thread engine -/

@[simp] theorem teAlu_serves (c : Chan) (p : PumpIx) (g : GSlot) (rd ra rb : TReg) (s : State)
    (f : BitVec 32 → BitVec 32 → BitVec 32) :
    Serves queue (s.shown queue) (teAlu c p g rd ra rb s f) := by simp [teAlu]

@[simp] theorem teUn_serves (c : Chan) (p : PumpIx) (g : GSlot) (rd ra : TReg) (s : State) (f : BitVec 32 → BitVec 32) :
    Serves queue (s.shown queue) (teUn c p g rd ra s f) := by simp [teUn]

@[simp] theorem execTeAdd_serves (c : Chan) (p : PumpIx) (g : GSlot) (rd ra rb : TReg) (s : State) :
    Serves queue (s.shown queue) (execTeAdd c p g rd ra rb s) := by simp [execTeAdd]

@[simp] theorem execTeSub_serves (c : Chan) (p : PumpIx) (g : GSlot) (rd ra rb : TReg) (s : State) :
    Serves queue (s.shown queue) (execTeSub c p g rd ra rb s) := by simp [execTeSub]

@[simp] theorem execTeMul_serves (c : Chan) (p : PumpIx) (g : GSlot) (rd ra rb : TReg) (s : State) :
    Serves queue (s.shown queue) (execTeMul c p g rd ra rb s) := by simp [execTeMul]

@[simp] theorem execTeAnd_serves (c : Chan) (p : PumpIx) (g : GSlot) (rd ra rb : TReg) (s : State) :
    Serves queue (s.shown queue) (execTeAnd c p g rd ra rb s) := by simp [execTeAnd]

@[simp] theorem execTeOr_serves (c : Chan) (p : PumpIx) (g : GSlot) (rd ra rb : TReg) (s : State) :
    Serves queue (s.shown queue) (execTeOr c p g rd ra rb s) := by simp [execTeOr]

@[simp] theorem execTeXor_serves (c : Chan) (p : PumpIx) (g : GSlot) (rd ra rb : TReg) (s : State) :
    Serves queue (s.shown queue) (execTeXor c p g rd ra rb s) := by simp [execTeXor]

@[simp] theorem execTeShl_serves (c : Chan) (p : PumpIx) (g : GSlot) (rd ra rb : TReg) (s : State) :
    Serves queue (s.shown queue) (execTeShl c p g rd ra rb s) := by simp [execTeShl]

@[simp] theorem execTeShr_serves (c : Chan) (p : PumpIx) (g : GSlot) (rd ra rb : TReg) (s : State) :
    Serves queue (s.shown queue) (execTeShr c p g rd ra rb s) := by simp [execTeShr]

@[simp] theorem execTeSar_serves (c : Chan) (p : PumpIx) (g : GSlot) (rd ra rb : TReg) (s : State) :
    Serves queue (s.shown queue) (execTeSar c p g rd ra rb s) := by simp [execTeSar]

@[simp] theorem execTeMin_serves (c : Chan) (p : PumpIx) (g : GSlot) (rd ra rb : TReg) (s : State) :
    Serves queue (s.shown queue) (execTeMin c p g rd ra rb s) := by simp [execTeMin]

@[simp] theorem execTeMax_serves (c : Chan) (p : PumpIx) (g : GSlot) (rd ra rb : TReg) (s : State) :
    Serves queue (s.shown queue) (execTeMax c p g rd ra rb s) := by simp [execTeMax]

@[simp] theorem execTeFadd_serves (c : Chan) (p : PumpIx) (g : GSlot) (rd ra rb : TReg) (s : State) :
    Serves queue (s.shown queue) (execTeFadd c p g rd ra rb s) := by simp [execTeFadd]

@[simp] theorem execTeFmul_serves (c : Chan) (p : PumpIx) (g : GSlot) (rd ra rb : TReg) (s : State) :
    Serves queue (s.shown queue) (execTeFmul c p g rd ra rb s) := by simp [execTeFmul]

@[simp] theorem execTeFmin_serves (c : Chan) (p : PumpIx) (g : GSlot) (rd ra rb : TReg) (s : State) :
    Serves queue (s.shown queue) (execTeFmin c p g rd ra rb s) := by simp [execTeFmin]

@[simp] theorem execTeFmax_serves (c : Chan) (p : PumpIx) (g : GSlot) (rd ra rb : TReg) (s : State) :
    Serves queue (s.shown queue) (execTeFmax c p g rd ra rb s) := by simp [execTeFmax]

@[simp] theorem execTeSel_serves (c : Chan) (p : PumpIx) (g : GSlot) (rd rp ra rb : TReg) (s : State) :
    Serves queue (s.shown queue) (execTeSel c p g rd rp ra rb s) := by simp [execTeSel]

@[simp] theorem execTeCompare_serves (c : Chan) (p : PumpIx) (g : GSlot) (cmp : Cmp) (rd ra rb : TReg) (s : State) :
    Serves queue (s.shown queue) (execTeCompare c p g cmp rd ra rb s) := by simp [execTeCompare]

@[simp] theorem execTeFcompare_serves (c : Chan) (p : PumpIx) (g : GSlot) (cmp : Cmp) (rd ra rb : TReg) (s : State) :
    Serves queue (s.shown queue) (execTeFcompare c p g cmp rd ra rb s) := by simp [execTeFcompare]

@[simp] theorem execTeFfma_serves (c : Chan) (p : PumpIx) (g : GSlot) (rd ra rb rc : TReg) (s : State) :
    Serves queue (s.shown queue) (execTeFfma c p g rd ra rb rc s) := by simp [execTeFfma]

@[simp] theorem execTeExp2_serves (c : Chan) (p : PumpIx) (g : GSlot) (rd ra : TReg) (s : State) :
    Serves queue (s.shown queue) (execTeExp2 c p g rd ra s) := by simp [execTeExp2]

@[simp] theorem execTeLog2_serves (c : Chan) (p : PumpIx) (g : GSlot) (rd ra : TReg) (s : State) :
    Serves queue (s.shown queue) (execTeLog2 c p g rd ra s) := by simp [execTeLog2]

@[simp] theorem execTeRcp_serves (c : Chan) (p : PumpIx) (g : GSlot) (rd ra : TReg) (s : State) :
    Serves queue (s.shown queue) (execTeRcp c p g rd ra s) := by simp [execTeRcp]

@[simp] theorem execTeRsqrt_serves (c : Chan) (p : PumpIx) (g : GSlot) (rd ra : TReg) (s : State) :
    Serves queue (s.shown queue) (execTeRsqrt c p g rd ra s) := by simp [execTeRsqrt]

@[simp] theorem execTeTanh_serves (c : Chan) (p : PumpIx) (g : GSlot) (rd ra : TReg) (s : State) :
    Serves queue (s.shown queue) (execTeTanh c p g rd ra s) := by simp [execTeTanh]

/-- One register is always within r0-r63. -/
@[simp] theorem teRegs_word (r : TReg) : teRegs r 4 = true := by
  have := r.isLt
  simp only [teRegs, decide_eq_true_eq]
  omega

@[simp] theorem atomRegs_word (r : TReg) : atomRegs false r = true := teRegs_word r

theorem execTeCvt_serves (c : Chan) (p : PumpIx) (g : GSlot) (src dst : Fmt) (sr : Bool) (rd ra ri : TReg) (s : State) :
    ServesIf (!sr || teRegs ri 8) (s.shown queue) (execTeCvt c p g src dst sr rd ra ri s) := by
  have e : (sr = true ∧ (!teRegs ri 8) = true) = ((!(!sr || teRegs ri 8)) = true) := by simp
  simp only [execTeCvt, e]
  exact servesIf_guard (teLane_serves ..)

@[simp] theorem execTeTid_serves (c : Chan) (p : PumpIx) (g : GSlot) (rd : TReg) (s : State) :
    Serves queue (s.shown queue) (execTeTid c p g rd s) := by simp [execTeTid]

@[simp] theorem execTeGid_serves (c : Chan) (p : PumpIx) (g : GSlot) (rd : TReg) (s : State) :
    Serves queue (s.shown queue) (execTeGid c p g rd s) := by simp [execTeGid]

@[simp] theorem execTeNgrp_serves (c : Chan) (p : PumpIx) (g : GSlot) (rd : TReg) (s : State) :
    Serves queue (s.shown queue) (execTeNgrp c p g rd s) := by simp [execTeNgrp]

@[simp] theorem execTePid_serves (c : Chan) (p : PumpIx) (g : GSlot) (rd : TReg) (s : State) :
    Serves queue (s.shown queue) (execTePid c p g rd s) := by simp [execTePid]

@[simp] theorem execTeFrn_serves (c : Chan) (p : PumpIx) (g : GSlot) (rd : TReg) (s : State) :
    Serves queue (s.shown queue) (execTeFrn c p g rd s) := by simp [execTeFrn]

theorem execTeTime_serves (c : Chan) (p : PumpIx) (g : GSlot) (rd : TReg) (s : State) :
    ServesIf (teRegs rd 8) (s.shown queue) (execTeTime c p g rd s) :=
  servesIf_guard (by simp)

@[simp] theorem State.withLanes_shown (s : State) (c : Chan) (p : PumpIx) (ls : List (Fin 32 × LaneAt)) (act : State → State)
    (hf : ∀ t, (act t).shown queue = t.shown queue) :
    (s.withLanes c p ls act).shown queue = s.shown queue := by
  unfold State.withLanes
  split
  · simp
  · exact hf s

@[simp] theorem State.doSliceAtom_shown (s : State) (c : Chan) (p : PumpIx) (a : SliceAtom) :
    fstShown queue (s.doSliceAtom c p a) = s.shown queue := by
  unfold State.doSliceAtom
  rcases ho : a.op with _ | op
  · exact s.addLedger_shown ..
  · extract_lets g
    rcases hr : s.readOwn c p g with ⟨s1, old⟩
    have h1 : s1.shown queue = s.shown queue := (shown_of_eq hr).trans (s.readOwn_shown c p g)
    dsimp only
    cases hr : a.ret <;> simp [h1]

@[simp] theorem State.performAtoms_shown (s : State) (c : Chan) (p : PumpIx) : (s.performAtoms c p).shown queue = s.shown queue := by
  refine (foldl_fstShown _ _ _ fun a r => ?_).trans (by simp)
  split
  · rfl
  · exact r.1.doSliceAtom_shown c p a

@[simp] theorem State.settleAtoms_shown (s : State) (c : Chan) (p : PumpIx) (lines : List Nat) :
    (s.settleAtoms c p lines).shown queue = s.shown queue := by simp [State.settleAtoms]

@[simp] theorem State.flushLine_shown (s : State) (c : Chan) (p : PumpIx) (line : Nat) : (s.flushLine c p line).shown queue = s.shown queue := by
  simp [State.flushLine]

theorem execTeLd_serves (c : Chan) (p : PumpIx) (g : GSlot) (sp : Space) (size : Nat) (rd addr : TReg) (s : State) :
    ServesIf (teRegs rd size && teRegs addr (if sp = .global then 8 else 4)) (s.shown queue) (execTeLd c p g sp size rd addr s) := by
  refine servesIf_guard (State.teIssueIf_shown _ _ _ _ _ _ _ _ fun k x y t => State.withLanes_shown _ _ _ _ _ fun u => ?_)
  dsimp only
  rw [State.onGroup_shown, State.allocLines_shown]
  refine (readEach_shown _ _ _ fun e v => ?_).trans (u.settleAtoms_shown ..)
  exact v.laneLoad_shown c p x e.2 size

@[simp] theorem State.toHost_shown (s : State) (c : Chan) (p : PumpIx) (o : Output) : (s.toHost c p o).shown queue = s.shown queue := by
  unfold State.toHost
  split <;> simp

theorem execTeSt_serves (c : Chan) (p : PumpIx) (g : GSlot) (sp : Space) (size : Nat) (addr rs : TReg) (s : State) :
    ServesIf (teRegs rs size && teRegs addr (if sp = .global then 8 else 4)) (s.shown queue) (execTeSt c p g sp size addr rs s) := by
  refine servesIf_guard (State.teIssueIf_shown _ _ _ _ _ _ _ _ fun k x y t => State.withLanes_shown _ _ _ _ _ fun u => ?_)
  dsimp only
  rw [State.onGroup_shown, State.store_shown]
  exact State.each_shown _ _ _ fun e v => by split <;> simp

theorem execTePf_serves (c : Chan) (p : PumpIx) (g : GSlot) (sp : Space) (addr : TReg) (s : State) :
    ServesIf (teRegs addr (if sp = .global then 8 else 4)) (s.shown queue) (execTePf c p g sp addr s) :=
  servesIf_guard (by simp)

@[simp] theorem State.queueAtoms_shown (s : State) (c : Chan) (p : PumpIx) (atoms : List SliceAtom) :
    (s.queueAtoms c p atoms).shown queue = s.shown queue := by simp [State.queueAtoms]

theorem teAtomS_serves (op : AtomOp) (c : Chan) (p : PumpIx) (g : GSlot) (w64 ret : Bool) (rd addr rs : TReg)
    (rt : Option TReg) (s : State) :
    ServesIf (atomRegs w64 rs && (!ret || atomRegs w64 rd) && (match rt with | some r => atomRegs w64 r | none => true)) (s.shown queue) (teAtomS op c p g w64 ret rd addr rs rt s) :=
  servesIf_guard (by simp)

theorem execTeAtomSAdd_serves (c : Chan) (p : PumpIx) (g : GSlot) (w64 ret : Bool) (rd addr rs : TReg) (s : State) :
    ServesIf (atomRegs w64 rs && (!ret || atomRegs w64 rd)) (s.shown queue) (execTeAtomSAdd c p g w64 ret rd addr rs s) := by
  simpa [execTeAtomSAdd] using teAtomS_serves .add c p g w64 ret rd addr rs none s

theorem execTeAtomSMin_serves (c : Chan) (p : PumpIx) (g : GSlot) (w64 ret : Bool) (rd addr rs : TReg) (s : State) :
    ServesIf (atomRegs w64 rs && (!ret || atomRegs w64 rd)) (s.shown queue) (execTeAtomSMin c p g w64 ret rd addr rs s) := by
  simpa [execTeAtomSMin] using teAtomS_serves .min c p g w64 ret rd addr rs none s

theorem execTeAtomSMax_serves (c : Chan) (p : PumpIx) (g : GSlot) (w64 ret : Bool) (rd addr rs : TReg) (s : State) :
    ServesIf (atomRegs w64 rs && (!ret || atomRegs w64 rd)) (s.shown queue) (execTeAtomSMax c p g w64 ret rd addr rs s) := by
  simpa [execTeAtomSMax] using teAtomS_serves .max c p g w64 ret rd addr rs none s

theorem execTeAtomSAnd_serves (c : Chan) (p : PumpIx) (g : GSlot) (w64 ret : Bool) (rd addr rs : TReg) (s : State) :
    ServesIf (atomRegs w64 rs && (!ret || atomRegs w64 rd)) (s.shown queue) (execTeAtomSAnd c p g w64 ret rd addr rs s) := by
  simpa [execTeAtomSAnd] using teAtomS_serves .and c p g w64 ret rd addr rs none s

theorem execTeAtomSOr_serves (c : Chan) (p : PumpIx) (g : GSlot) (w64 ret : Bool) (rd addr rs : TReg) (s : State) :
    ServesIf (atomRegs w64 rs && (!ret || atomRegs w64 rd)) (s.shown queue) (execTeAtomSOr c p g w64 ret rd addr rs s) := by
  simpa [execTeAtomSOr] using teAtomS_serves .or c p g w64 ret rd addr rs none s

theorem execTeAtomSXor_serves (c : Chan) (p : PumpIx) (g : GSlot) (w64 ret : Bool) (rd addr rs : TReg) (s : State) :
    ServesIf (atomRegs w64 rs && (!ret || atomRegs w64 rd)) (s.shown queue) (execTeAtomSXor c p g w64 ret rd addr rs s) := by
  simpa [execTeAtomSXor] using teAtomS_serves .xor c p g w64 ret rd addr rs none s

theorem execTeAtomSExch_serves (c : Chan) (p : PumpIx) (g : GSlot) (w64 ret : Bool) (rd addr rs : TReg) (s : State) :
    ServesIf (atomRegs w64 rs && (!ret || atomRegs w64 rd)) (s.shown queue) (execTeAtomSExch c p g w64 ret rd addr rs s) := by
  simpa [execTeAtomSExch] using teAtomS_serves .exch c p g w64 ret rd addr rs none s

theorem execTeAtomSCas_serves (c : Chan) (p : PumpIx) (g : GSlot) (w64 ret : Bool) (rd addr rs rt : TReg) (s : State) :
    ServesIf (atomRegs w64 rs && (!ret || atomRegs w64 rd) && atomRegs w64 rt) (s.shown queue) (execTeAtomSCas c p g w64 ret rd addr rs rt s) :=
  teAtomS_serves .cas c p g w64 ret rd addr rs (some rt) s

@[simp] theorem execSliceAtomicPerform_serves (c : Chan) (p : PumpIx) (s : State) :
    Serves queue (s.shown queue) (execSliceAtomicPerform c p s) := by simp [execSliceAtomicPerform]

@[simp] theorem State.fetchLoads_shown (s : State) (c : Chan) (p : PumpIx) (g : GSlot) : (s.fetchLoads c p g).shown queue = s.shown queue := by
  unfold State.fetchLoads
  split
  · rfl
  · dsimp only
    rw [State.onGroup_shown]
    refine readEach_shown _ _ _ fun l t => ?_
    split
    · exact t.memBits_shown c p l.chan l.off l.size
    · rfl

@[simp] theorem execLoadResult_serves (c : Chan) (p : PumpIx) (g : GSlot) (s : State) :
    Serves queue (s.shown queue) (execLoadResult c p g s) := by simp [execLoadResult]

@[simp] theorem State.atomSeen_shown (s : State) (c : Chan) (j : SlotIx) (off : Nat) (w64 : Bool) :
    fstShown queue (s.atomSeen c j off w64) = s.shown queue := by simp [State.atomSeen]

@[simp] theorem State.sendAtom_shown (s : State) (c : Chan) (p : PumpIx) (j : SlotIx) (g : GSlot) (ch : ChanAddr) (off : Nat)
    (a : AtomicRec) :
    (s.sendAtom c p j g ch off a).shown queue = s.shown queue := by simp [State.sendAtom]

@[simp] theorem State.laneAtom_shown (s : State) (c : Chan) (p : PumpIx) (j : SlotIx) (g : GSlot) (lane : Fin 32) (to_ : LaneAt)
    (w64 : Bool) (op : AtomOp) (val cmp : BitVec 64) (ret : Option TReg) (ticket : Nat) :
    (s.laneAtom c p j g lane to_ w64 op val cmp ret ticket).shown queue = s.shown queue := by
  simp only [State.laneAtom]
  (repeat' split) <;> simp

theorem teAtomG_serves (op : AtomOp) (relaxed : Bool) (c : Chan) (p : PumpIx) (g : GSlot) (w64 : Bool) (ret : Option TReg)
    (addr rs : TReg) (rt : Option TReg) (s : State) :
    ServesIf (teRegs addr 8 && atomRegs w64 rs && (match ret with | some r => atomRegs w64 r | none => true) &&
      (match rt with | some r => atomRegs w64 r | none => true)) (s.shown queue) (teAtomG op relaxed c p g w64 ret addr rs rt s) := by
  refine servesIf_guard (Serves.ite rfl
    (State.teIssueIf_shown _ _ _ _ _ _ _ _ fun k x y t => State.withLanes_shown _ _ _ _ _ fun u => ?_))
  split <;> simp

theorem execTeAtomGAdd_serves (c : Chan) (p : PumpIx) (g : GSlot) (w64 ret : Bool) (rd addr rs : TReg) (s : State) :
    ServesIf (teRegs addr 8 && atomRegs w64 rs && (!ret || atomRegs w64 rd)) (s.shown queue) (execTeAtomGAdd c p g w64 ret rd addr rs s) := by
  have h := teAtomG_serves .add ret c p g w64 (if ret then some rd else none) addr rs none s
  cases ret <;> simpa [execTeAtomGAdd] using h

theorem execTeAtomGMin_serves (c : Chan) (p : PumpIx) (g : GSlot) (w64 ret : Bool) (rd addr rs : TReg) (s : State) :
    ServesIf (teRegs addr 8 && atomRegs w64 rs && (!ret || atomRegs w64 rd)) (s.shown queue) (execTeAtomGMin c p g w64 ret rd addr rs s) := by
  have h := teAtomG_serves .min ret c p g w64 (if ret then some rd else none) addr rs none s
  cases ret <;> simpa [execTeAtomGMin] using h

theorem execTeAtomGMax_serves (c : Chan) (p : PumpIx) (g : GSlot) (w64 ret : Bool) (rd addr rs : TReg) (s : State) :
    ServesIf (teRegs addr 8 && atomRegs w64 rs && (!ret || atomRegs w64 rd)) (s.shown queue) (execTeAtomGMax c p g w64 ret rd addr rs s) := by
  have h := teAtomG_serves .max ret c p g w64 (if ret then some rd else none) addr rs none s
  cases ret <;> simpa [execTeAtomGMax] using h

theorem execTeAtomGAnd_serves (c : Chan) (p : PumpIx) (g : GSlot) (w64 ret : Bool) (rd addr rs : TReg) (s : State) :
    ServesIf (teRegs addr 8 && atomRegs w64 rs && (!ret || atomRegs w64 rd)) (s.shown queue) (execTeAtomGAnd c p g w64 ret rd addr rs s) := by
  have h := teAtomG_serves .and ret c p g w64 (if ret then some rd else none) addr rs none s
  cases ret <;> simpa [execTeAtomGAnd] using h

theorem execTeAtomGOr_serves (c : Chan) (p : PumpIx) (g : GSlot) (w64 ret : Bool) (rd addr rs : TReg) (s : State) :
    ServesIf (teRegs addr 8 && atomRegs w64 rs && (!ret || atomRegs w64 rd)) (s.shown queue) (execTeAtomGOr c p g w64 ret rd addr rs s) := by
  have h := teAtomG_serves .or ret c p g w64 (if ret then some rd else none) addr rs none s
  cases ret <;> simpa [execTeAtomGOr] using h

theorem execTeAtomGXor_serves (c : Chan) (p : PumpIx) (g : GSlot) (w64 ret : Bool) (rd addr rs : TReg) (s : State) :
    ServesIf (teRegs addr 8 && atomRegs w64 rs && (!ret || atomRegs w64 rd)) (s.shown queue) (execTeAtomGXor c p g w64 ret rd addr rs s) := by
  have h := teAtomG_serves .xor ret c p g w64 (if ret then some rd else none) addr rs none s
  cases ret <;> simpa [execTeAtomGXor] using h

theorem execTeExchG_serves (c : Chan) (p : PumpIx) (g : GSlot) (w64 : Bool) (rd addr rs : TReg) (s : State) :
    ServesIf (teRegs addr 8 && atomRegs w64 rs && atomRegs w64 rd) (s.shown queue) (execTeExchG c p g w64 rd addr rs s) := by
  simpa [execTeExchG] using teAtomG_serves .exch true c p g w64 (some rd) addr rs none s

theorem execTeCasG_serves (c : Chan) (p : PumpIx) (g : GSlot) (w64 : Bool) (rd addr rs rt : TReg) (s : State) :
    ServesIf (teRegs addr 8 && atomRegs w64 rs && atomRegs w64 rd && atomRegs w64 rt) (s.shown queue) (execTeCasG c p g w64 rd addr rs rt s) :=
  teAtomG_serves .cas true c p g w64 (some rd) addr rs (some rt) s

theorem execTeFatomAdd_serves (c : Chan) (p : PumpIx) (g : GSlot) (sp : Space) (addr rs : TReg) (s : State) :
    ServesIf (teRegs addr (if sp = .global then 8 else 4)) (s.shown queue) (execTeFatomAdd c p g sp addr rs s) := by
  cases sp with
  | global => simpa [execTeFatomAdd] using teAtomG_serves .fadd true c p g false none addr rs none s
  | slice =>
    refine ⟨fun _ => ?_, fun h => absurd h (by simp)⟩
    refine Serves.ite rfl ((teAtomS_serves .fadd c p g false false 0 addr rs none s).1 ?_)
    simp

theorem execTeLadd_serves (c : Chan) (p : PumpIx) (g : GSlot) (sp : Space) (lexp : BitVec 10) (addr rs : TReg) (s : State) :
    ServesIf (teRegs addr (if sp = .global then 8 else 4)) (s.shown queue) (execTeLadd c p g sp lexp addr rs s) := by
  refine servesIf_guard (State.teIssueIf_shown _ _ _ _ _ _ _ _ fun k x y t => State.withLanes_shown _ _ _ _ _ fun u => ?_)
  dsimp only
  split
  · simp
  · rfl
  · refine State.shown_ite (by simp) ((State.onGroup_shown ..).trans (foldl_fstShown _ _ _ fun e acc => ?_))
    split
    · split <;> simp
    · rfl

theorem execTeLrd_serves (c : Chan) (p : PumpIx) (g : GSlot) (fmt : RoFmt) (lexp : BitVec 10) (rd addr : TReg) (s : State) :
    ServesIf (teRegs rd (if fmt = .fp64 then 8 else 4)) (s.shown queue) (execTeLrd c p g fmt lexp rd addr s) := by
  have e : (if fmt = .fp64 then 8 else 4) = 4 * (if fmt = .fp64 then 2 else 1) := by split <;> rfl
  rw [e]
  refine servesIf_guard (State.teIssue_shown _ _ _ _ _ _ _ fun k x y t => State.withLanes_shown _ _ _ _ _ fun u => ?_)
  dsimp only
  rw [State.onGroup_shown]
  refine (readEach_shown _ _ _ fun e v => ?_).trans (u.settleAtoms_shown ..)
  exact v.laneLoad_shown c p x e.2 32

@[simp] theorem execTeBr_serves (c : Chan) (p : PumpIx) (g : GSlot) (rp : TReg) (target join : BitVec 13) (s : State) :
    Serves queue (s.shown queue) (execTeBr c p g rp target join s) := by simp [execTeBr]

@[simp] theorem execTeJmp_serves (c : Chan) (p : PumpIx) (g : GSlot) (target : BitVec 13) (s : State) :
    Serves queue (s.shown queue) (execTeJmp c p g target s) := by simp [execTeJmp]

@[simp] theorem execTeCall_serves (c : Chan) (p : PumpIx) (g : GSlot) (target : BitVec 13) (s : State) :
    Serves queue (s.shown queue) (execTeCall c p g target s) := by simp [execTeCall]

@[simp] theorem execTeRet_serves (c : Chan) (p : PumpIx) (g : GSlot) (s : State) : Serves queue (s.shown queue) (execTeRet c p g s) := by
  simp [execTeRet]

@[simp] theorem execTeJoin_serves (c : Chan) (p : PumpIx) (g : GSlot) (s : State) : Serves queue (s.shown queue) (execTeJoin c p g s) := by
  simp [execTeJoin]

@[simp] theorem execTeExit_serves (c : Chan) (p : PumpIx) (g : GSlot) (s : State) : Serves queue (s.shown queue) (execTeExit c p g s) := by
  simp [execTeExit]

@[simp] theorem execTeBar_serves (c : Chan) (p : PumpIx) (g : GSlot) (n : Fin 4) (s : State) :
    Serves queue (s.shown queue) (execTeBar c p g n s) := by simp [execTeBar]

@[simp] theorem execTeBarK_serves (c : Chan) (p : PumpIx) (g : GSlot) (s : State) : Serves queue (s.shown queue) (execTeBarK c p g s) := by
  simp [execTeBarK]

@[simp] theorem execTeFence_serves (c : Chan) (p : PumpIx) (g : GSlot) (s : State) : Serves queue (s.shown queue) (execTeFence c p g s) := by
  simp [execTeFence]

@[simp] theorem execBarrierDivergence_serves (c : Chan) (p : PumpIx) (g : GSlot) (s : State) :
    Serves queue (s.shown queue) (execBarrierDivergence c p g s) := by
  unfold execBarrierDivergence
  split <;> simp

@[simp] theorem State.beginOp_shown (s : State) (c : Chan) (p : PumpIx) (u : RowUnit) : (s.beginOp c p u).shown queue = s.shown queue := by simp [State.beginOp]

@[simp] theorem State.endOp_shown (s : State) (c : Chan) (p : PumpIx) (u : RowUnit) : (s.endOp c p u).shown queue = s.shown queue := by simp [State.endOp]

@[simp] theorem State.launch_shown (s : State) (c : Chan) (p : PumpIx) : (s.launch c p).shown queue = s.shown queue := by
  simp only [State.launch]
  split <;> simp

@[simp] theorem execKernelLaunch_serves (c : Chan) (p : PumpIx) (s : State) : Serves queue (s.shown queue) (execKernelLaunch c p s) := by
  simp [execKernelLaunch]

@[simp] theorem State.endKernel_shown (s : State) (c : Chan) (p : PumpIx) : (s.endKernel c p).shown queue = s.shown queue := by
  simp [State.endKernel]

@[simp] theorem execKernelComplete_serves (c : Chan) (p : PumpIx) (s : State) : Serves queue (s.shown queue) (execKernelComplete c p s) := by
  simp [execKernelComplete]

@[simp] theorem execOperationBegin_serves (c : Chan) (p : PumpIx) (u : RowUnit) (s : State) :
    Serves queue (s.shown queue) (execOperationBegin c p u s) := by simp [execOperationBegin]

@[simp] theorem State.endXfer_shown (s : State) (c : Chan) (p : PumpIx) : (s.endXfer c p).shown queue = s.shown queue := by
  simp only [State.endXfer]
  split <;> simp

@[simp] theorem execOperationComplete_serves (c : Chan) (p : PumpIx) (u : RowUnit) (s : State) :
    Serves queue (s.shown queue) (execOperationComplete c p u s) := by
  unfold execOperationComplete
  split <;> simp

@[simp] theorem execXfrComplete_serves (c : Chan) (p : PumpIx) (s : State) : Serves queue (s.shown queue) (execXfrComplete c p s) := by
  simp [execXfrComplete]

@[simp] theorem execPumpFrameDone_serves (c : Chan) (p : PumpIx) (s : State) : Serves queue (s.shown queue) (execPumpFrameDone c p s) := by
  simp [execPumpFrameDone]

@[simp] theorem execStreamDeadlockCheck_serves (c : Chan) (p : PumpIx) (s : State) :
    Serves queue (s.shown queue) (execStreamDeadlockCheck c p s) := by simp [execStreamDeadlockCheck]

/-! ### Not seen: flits that arrive -/

@[simp] theorem State.fecLog_shown (s : State) (c : Chan) (fh : FlitHdr) : (s.fecLog c fh).shown queue = s.shown queue := by simp [State.fecLog]

@[simp] theorem State.arrive_shown (s : State) (c : Chan) (port : PortIx) (fh : FlitHdr) (kind : Fin 4) :
    fstShown queue (s.arrive c port fh kind) = s.shown queue := by simp [State.arrive]

@[simp] theorem State.passOn_shown (s : State) (c : Chan) (fh : FlitHdr) (f : OutFlit) : (s.passOn c fh f).shown queue = s.shown queue := by
  unfold State.passOn
  (repeat' split) <;> simp

@[simp] theorem State.flitIn_serves (s : State) (c : Chan) (port : PortIx) (fh : FlitHdr) (kind : Fin 4) (f : OutFlit)
    (here : State → State) (hf : ∀ t, (here t).shown queue = t.shown queue) :
    Serves queue (s.shown queue) (s.flitIn c port fh kind f here) := by
  unfold State.flitIn
  split
  · simp [shown_of_eq ‹_ = (_, _)›]
  · rename_i t ha
    have ht : t.shown queue = s.shown queue := (shown_of_eq ha).trans (s.arrive_shown c port fh kind)
    refine Serves.ite (by simp [ht]) ?_
    extract_lets t1
    have h1 : t1.shown queue = s.shown queue := by
      dsimp only [t1]
      split <;> simp [ht]
    split
    · exact (hf t1).trans h1
    · simp [h1]
    · exact (hf t1).trans h1

@[simp] theorem State.takeWrite_shown (s : State) (c : Chan) (fh : FlitHdr) (r : WriteRec) :
    fstShown queue (s.takeWrite c fh r) = s.shown queue := by
  simp only [State.takeWrite]
  (repeat' split) <;> simp

@[simp] theorem execWriteFlit_serves (c : Chan) (port : PortIx) (fh : FlitHdr) (recs : List WriteRec) (s : State) :
    Serves queue (s.shown queue) (execWriteFlit c port fh recs s) := by
  refine State.flitIn_serves _ _ _ _ _ _ _ fun t => ?_
  have hn := foldl_fstShown recs (fun (a : State × Nat) r => ((a.1.takeWrite c fh r).1, a.2 + (a.1.takeWrite c fh r).2)) (t, 0)
    fun r a => a.1.takeWrite_shown c fh r
  dsimp only
  split <;> simp [hn]

@[simp] theorem execReadFlit_serves (c : Chan) (port : PortIx) (fh : FlitHdr) (lines : List FabAddr) (s : State) :
    Serves queue (s.shown queue) (execReadFlit c port fh lines s) := by simp [execReadFlit]

@[simp] theorem execCombineFlit_serves (c : Chan) (port : PortIx) (fh : FlitHdr) (frame : Nat) (data : List Granule) (s : State) :
    Serves queue (s.shown queue) (execCombineFlit c port fh frame data s) := by
  refine State.flitIn_serves _ _ _ _ _ _ _ fun t => ?_
  split
  rename_i t1 n h1
  have hn : t1.shown queue = t.shown queue := (shown_of_eq h1).trans (foldl_fstShown _ _ _ fun e a => by dsimp only; split <;> simp)
  split <;> simp [hn]

@[simp] theorem State.takeAtom_shown (s : State) (c : Chan) (fh : FlitHdr) (a : AtomicRec) :
    fstShown queue (s.takeAtom c fh a) = s.shown queue := by
  simp only [State.takeAtom]
  split <;> simp

@[simp] theorem execAtomicFlit_serves (c : Chan) (port : PortIx) (fh : FlitHdr) (recs : List AtomicRec) (s : State) :
    Serves queue (s.shown queue) (execAtomicFlit c port fh recs s) := by
  refine State.flitIn_serves _ _ _ _ _ _ _ fun t => ?_
  have hn := foldl_fstShown recs (fun (a : State × Nat) r => ((a.1.takeAtom c fh r).1, a.2 + (a.1.takeAtom c fh r).2)) (t, 0)
    fun r a => a.1.takeAtom_shown c fh r
  dsimp only
  split <;> simp [hn]

@[simp] theorem State.atomBack_shown (s : State) (c : Chan) (home : ChanAddr) (k : Nat) (v : Granule) :
    (s.atomBack c home k v).shown queue = s.shown queue := by
  simp only [State.atomBack]
  (repeat' split) <;> simp

@[simp] theorem execRdataFlit_serves (c : Chan) (port : PortIx) (fh : FlitHdr) (data : List Granule) (s : State) :
    Serves queue (s.shown queue) (execRdataFlit c port fh data s) := by
  unfold execRdataFlit
  split <;> simp

@[simp] theorem execWackFlit_serves (c : Chan) (port : PortIx) (fh : FlitHdr) (acks : List (PumpIx)) (s : State) :
    Serves queue (s.shown queue) (execWackFlit c port fh acks s) := by simp [execWackFlit]

@[simp] theorem execRespErrFlit_serves (c : Chan) (port : PortIx) (fh : FlitHdr) (j : Option SlotIx) (hcmd : Option Hdr)
    (code : RespErr) (s : State) :
    Serves queue (s.shown queue) (execRespErrFlit c port fh j hcmd code s) := by
  unfold execRespErrFlit
  (repeat' split) <;> simp

@[simp] theorem State.mcastHere_shown (s : State) (c : Chan) (j : SlotIx) (fh : FlitHdr) (frame : Nat)
    (recs : List (ChanAddr × WriteRec)) (sums : List Granule) :
    (s.mcastHere c j fh frame recs sums).shown queue = s.shown queue := by
  unfold State.mcastHere
  dsimp only
  split
  · simp
  · split
    · simp
    · refine (State.each_shown _ _ _ fun v t => State.each_shown _ _ _ fun m u => ?_).trans (by simp)
      split <;> simp

@[simp] theorem execMcastFlit_serves (c : Chan) (port : PortIx) (fh : FlitHdr) (frame : Nat) (recs : List (ChanAddr × WriteRec))
    (sums : List Granule) (s : State) :
    Serves queue (s.shown queue) (execMcastFlit c port fh frame recs sums s) := by
  unfold execMcastFlit
  split
  · simp [shown_of_eq ‹_ = (_, _)›]
  · split
    · simp [shown_of_eq ‹_ = (_, _)›]
    · dsimp only
      split
      · split <;> simp [shown_of_eq ‹_ = (_, _)›]
      · simp [shown_of_eq ‹_ = (_, _)›]

@[simp] theorem execReduceFlit_serves (c : Chan) (port : PortIx) (fh : FlitHdr) (ledgers : List Granule) (s : State) :
    Serves queue (s.shown queue) (execReduceFlit c port fh ledgers s) := by
  unfold execReduceFlit
  split <;> simp [shown_of_eq ‹_ = (_, _)›]

@[simp] theorem State.moduleSeen_shown (s : State) (c : Chan) (port : PortIx) (m : ModRecord) :
    (s.moduleSeen c port m).shown queue = s.shown queue := by simp [State.moduleSeen]

@[simp] theorem State.mgmtHere_shown (s : State) (c : Chan) (fh : FlitHdr) (x : MgmtRec) : (s.mgmtHere c fh x).shown queue = s.shown queue := by
  unfold State.mgmtHere
  (repeat' split) <;> simp

@[simp] theorem execMgmtFlit_serves (c : Chan) (port : PortIx) (fh : FlitHdr) (rec : MgmtRec) (s : State) :
    Serves queue (s.shown queue) (execMgmtFlit c port fh rec s) := by
  unfold execMgmtFlit
  split
  · simp [shown_of_eq ‹_ = (_, _)›]
  · rename_i t ht
    have ht : t.shown queue = s.shown queue := (shown_of_eq ht).trans (s.arrive_shown ..)
    split
    · simp [ht]
    · exact State.shown_ite (by simp [ht]) (by simp [ht])

@[simp] theorem execCtrlFlit_serves (c : Chan) (port : PortIx) (info : CtrlInfo) (s : State) :
    Serves queue (s.shown queue) (execCtrlFlit c port info s) := by simp [execCtrlFlit]

@[simp] theorem execUnknownFlit_serves (c : Chan) (port : PortIx) (_ty : BitVec 4) (s : State) :
    Serves queue (s.shown queue) (execUnknownFlit c port _ty s) := by simp [execUnknownFlit]

/-! ### Not seen: wells, rings and host links -/

@[simp] theorem State.msix_shown (s : State) (fn vec : Nat) : (s.msix fn vec).shown queue = s.shown queue := by simp [State.msix]

@[simp] theorem execMsixVectorUnmask_serves (fn vec : Nat) (s : State) : Serves queue (s.shown queue) (execMsixVectorUnmask fn vec s) := by
  simp [execMsixVectorUnmask]

@[simp] theorem execDoorbell_serves (ctx loc bytes : Nat) (v : BitVec 64) (s : State) :
    Serves queue (s.shown queue) (execDoorbell ctx loc bytes v s) := by
  unfold execDoorbell
  split <;> simp

@[simp] theorem State.admDoorbell_shown (s : State) (fn : Nat) (v : BitVec 64) : (s.admDoorbell fn v).shown queue = s.shown queue := by simp [State.admDoorbell]

@[simp] theorem execAdminDoorbell_serves (fn : Nat) (v : BitVec 64) (s : State) : Serves queue (s.shown queue) (execAdminDoorbell fn v s) := by
  simp [execAdminDoorbell]

@[simp] theorem State.admWrite_shown (s : State) (fn : Nat) (cq : Bool) (v : BitVec 64) : (s.admWrite fn cq v).shown queue = s.shown queue := by simp [State.admWrite]

@[simp] theorem execMcAdmRingWrite_serves (fn : Nat) (cq : Bool) (v : BitVec 64) (s : State) :
    Serves queue (s.shown queue) (execMcAdmRingWrite fn cq v s) := by simp [execMcAdmRingWrite]

@[simp] theorem execDescriptorFetch_serves (ring : RingId) (d : BitVec 512) (s : State) :
    Serves queue (s.shown queue) (execDescriptorFetch ring d s) := by
  unfold execDescriptorFetch
  split <;> simp

theorem State.begin_shown (s : State) (h : Hdr) (opc : Nat) : ShowsIfSome queue (s.shown queue) (s.begin h opc) := by
  unfold State.begin
  split
  · exact ShowsIfSome.none
  · split
    · exact ShowsIfSome.none
    · split
      · exact ShowsIfSome.some (s.onRing_shown ..)
      · exact ShowsIfSome.none

@[simp] theorem State.cmd_serves (s : State) (h : Hdr) (opc : Nat) (f : State → State) (hf : ∀ t, (f t).shown queue = t.shown queue) :
    Serves queue (s.shown queue) (s.cmd h opc f) := by
  unfold State.cmd
  split
  · exact (hf _).trans (State.begin_shown s h opc _ ‹_›)
  · rfl

@[simp] theorem execCompletionWrite_serves (ring : RingId) (s : State) : Serves queue (s.shown queue) (execCompletionWrite ring s) := by
  unfold execCompletionWrite
  (repeat' split) <;> simp

@[simp] theorem execInterruptTimer_serves (ring : RingId) (s : State) : Serves queue (s.shown queue) (execInterruptTimer ring s) := by
  unfold execInterruptTimer
  split <;> simp

@[simp] theorem execCtxCreate_serves (h : Hdr) (home : Chan) (pasid : BitVec 20) (pasidEn : Bool) (s : State) :
    Serves queue (s.shown queue) (execCtxCreate h home pasid pasidEn s) := by
  refine State.cmd_serves _ _ _ _ fun t => ?_
  dsimp only
  split
  · simp
  · split
    · simp
    · split <;> simp

@[simp] theorem State.cancelPlacing_shown (s : State) (ctx job : Nat) : (s.cancelPlacing ctx job).shown queue = s.shown queue := by
  unfold State.cancelPlacing
  split <;> simp

@[simp] theorem State.destroyCtx_shown (s : State) (ctx : Nat) (h : Option Hdr) : (s.destroyCtx ctx h).shown queue = s.shown queue := by
  refine (State.endCtx_shown _ _).trans ((foldl_shown _ _ _ fun e t => ?_).trans (by simp))
  dsimp only
  split <;> simp

@[simp] theorem execCtxDestroy_serves (h : Hdr) (ctx : Nat) (force : Bool) (s : State) :
    Serves queue (s.shown queue) (execCtxDestroy h ctx force s) := by simp [execCtxDestroy]

@[simp] theorem State.resetFn_shown (s : State) (fn : Nat) : (s.resetFn fn).shown queue = s.shown queue :=
  State.each_shown (O := queue) _ _ _ fun e t => t.destroyCtx_shown e.1 none

@[simp] theorem execFlrVf_serves (vf : Nat) (s : State) : Serves queue (s.shown queue) (execFlrVf vf s) := by simp [execFlrVf]

@[simp] theorem execFlrPf_serves (s : State) : Serves queue (s.shown queue) (execFlrPf s) := by
  simp [execFlrPf, foldl_shown _ State.resetFn s fun fn t => t.resetFn_shown fn]

@[simp] theorem execVfEnable_serves (n : Nat) (s : State) : Serves queue (s.shown queue) (execVfEnable n s) := by
  simp [execVfEnable, foldl_shown _ State.resetFn s fun fn t => t.resetFn_shown fn]

@[simp] theorem execWellCreate_serves (h : Hdr) (ctx : Nat) (w : WellParams) (s : State) :
    Serves queue (s.shown queue) (execWellCreate h ctx w s) := by
  refine State.cmd_serves _ _ _ _ fun t => ?_
  split
  · simp
  · refine State.shown_ite (by simp) (State.shown_ite (by simp) (State.shown_ite (by simp) ?_))
    split <;> simp

@[simp] theorem execWellDestroy_serves (h : Hdr) (ctx w : Nat) (s : State) : Serves queue (s.shown queue) (execWellDestroy h ctx w s) :=
  State.cmd_serves _ _ _ _ fun t => by split <;> simp

@[simp] theorem execWellResume_serves (h : Hdr) (ctx w : Nat) (s : State) : Serves queue (s.shown queue) (execWellResume h ctx w s) :=
  State.cmd_serves _ _ _ _ fun t => by split <;> simp

@[simp] theorem execHostLinkReset_serves (s : State) : Serves queue (s.shown queue) (execHostLinkReset s) := by simp [execHostLinkReset]

@[simp] theorem execHostLinkUp_serves (gen : BitVec 3) (width : BitVec 4) (flit refclk : Bool) (s : State) :
    Serves queue (s.shown queue) (execHostLinkUp gen width flit refclk s) := by simp [execHostLinkUp]

/-! ### Not seen: allocations -/

@[simp] theorem execAlloc_serves (h : Hdr) (a : AllocParams) (s : State) : Serves queue (s.shown queue) (execAlloc h a s) := by
  refine State.cmd_serves _ _ _ _ fun t => ?_
  dsimp only
  split
  · simp
  · split
    · simp
    · split
      · split <;> simp
      · simp

@[simp] theorem execMapHost_serves (h : Hdr) (hva size dva : Nat) (rights : BitVec 2) (s : State) :
    Serves queue (s.shown queue) (execMapHost h hva size dva rights s) := by
  refine State.cmd_serves _ _ _ _ fun t => ?_
  dsimp only
  split
  · simp
  · split
    · simp
    · split <;> simp

@[simp] theorem execFree_serves (h : Hdr) (handle : Nat) (s : State) : Serves queue (s.shown queue) (execFree h handle s) := by
  refine State.cmd_serves _ _ _ _ fun t => ?_
  dsimp only
  split
  · simp
  · split
    · simp
    · split <;> simp

@[simp] theorem execDescCreate_serves (h : Hdr) (d : BitVec 512) (s : State) : Serves queue (s.shown queue) (execDescCreate h d s) := by
  refine State.cmd_serves _ _ _ _ fun t => ?_
  dsimp only
  split
  · simp
  · refine State.shown_ite (by simp) ?_
    split <;> simp

@[simp] theorem execDescDestroy_serves (h : Hdr) (handle : Nat) (s : State) : Serves queue (s.shown queue) (execDescDestroy h handle s) :=
  State.cmd_serves _ _ _ _ fun t => by split <;> simp

@[simp] theorem execAtsInvalidation_serves (ctx hva size : Nat) (s : State) :
    Serves queue (s.shown queue) (execAtsInvalidation ctx hva size s) := by simp [execAtsInvalidation]

@[simp] theorem execAtsTranslationCompletion_serves (ok : Bool) (j : Option (Chan × SlotIx)) (hcmd : Option Hdr) (s : State) :
    Serves queue (s.shown queue) (execAtsTranslationCompletion ok j hcmd s) := by
  unfold execAtsTranslationCompletion
  (repeat' split) <;> simp

@[simp] theorem execApertureRead_serves (off bytes : Nat) (s : State) : Serves queue (s.shown queue) (execApertureRead off bytes s) := by
  simp [execApertureRead]

@[simp] theorem execApertureWrite_serves (off : Nat) (data : List (BitVec 8)) (s : State) :
    Serves queue (s.shown queue) (execApertureWrite off data s) := by
  unfold execApertureWrite
  extract_lets grans
  refine (serves_onlyIf ..).2 (State.shown_ite (State.each_shown _ _ _ fun o t => ?_) rfl)
  split
  · exact t.putAt_shown _ _ _ _
  · rfl

/-! ### Not seen: arbitration -/

@[simp] theorem State.cutOff_shown (s : State) (c : Chan) (port : ArbPort) (q : Req) : (s.cutOff c port q).shown queue = s.shown queue := by
  unfold State.cutOff
  split <;> simp

@[simp] theorem execBurstBoundary_serves (c : Chan) (port : ArbPort) (s : State) :
    Serves queue (s.shown queue) (execBurstBoundary c port s) := by
  simp only [execBurstBoundary]
  (repeat' split) <;> simp

@[simp] theorem execOverdue_serves (c : Chan) (port : ArbPort) (req : Nat) (s : State) :
    Serves queue (s.shown queue) (execOverdue c port req s) := by
  unfold execOverdue
  split <;> simp

@[simp] theorem execMasterPortRelease_serves (c : Chan) (cls : ReqClass) (j : SlotIx) (s : State) :
    Serves queue (s.shown queue) (execMasterPortRelease c cls j s) := by
  simp only [execMasterPortRelease]
  (repeat' split) <;> simp

@[simp] theorem execArbFreezeHbm_serves (c : Chan) (st : StackIx) (v : BitVec 32) (s : State) :
    Serves queue (s.shown queue) (execArbFreezeHbm c st v s) := by simp [execArbFreezeHbm]

@[simp] theorem execArbFreezeLnk_serves (c : Chan) (v : BitVec 32) (s : State) : Serves queue (s.shown queue) (execArbFreezeLnk c v s) := by
  simp [execArbFreezeLnk]

/-! ### Not seen: copies that the host asks for -/

@[simp] theorem hostRead_serves : Reader.Unseen queue hostRead := by
  intro t ch k
  unfold hostRead
  split <;> simp

@[simp] theorem State.inputGot_shown (s : State) (c : Chan) (j : SlotIx) (input frame bytes : Nat) :
    (s.inputGot c j input frame bytes).shown queue = s.shown queue := by
  simp only [State.inputGot]
  (repeat' split) <;> simp

@[simp] theorem State.sendAway_shown (s : State) (h : Hdr) (rset : BitVec 2) (bytes : Nat) (rs : List (ChanAddr × Nat × WriteRec)) :
    (s.sendAway h rset bytes rs).shown queue = s.shown queue := by simp [State.sendAway]

@[simp] theorem State.writeFree_shown (s : State) (h : Hdr) (bytes : Nat) (m : Bytes) :
    (s.writeFree h bytes m).shown queue = s.shown queue := by
  unfold State.writeFree
  dsimp only
  rw [State.sendAway_shown]
  refine (State.each_shown _ _ _ fun e t => ?_).trans (s.hostBursts_shown _)
  split <;> simp

@[simp] theorem State.writeBound_shown (s : State) (h : Hdr) (ctx job input frame : Nat) (rset : BitVec 2) (bytes : Nat) (m : Bytes)
    :
    (s.writeBound h ctx job input frame rset bytes m).shown queue = s.shown queue := by
  unfold State.writeBound
  dsimp only
  rw [State.sendAway_shown]
  refine State.each_shown _ _ _ fun e t => ?_
  split
  · rfl
  · split <;> simp

@[simp] theorem State.hostDropped_shown (s : State) (ctx : Nat) (job : Option Nat) (n : Nat) :
    (s.hostDropped ctx job n).shown queue = s.shown queue := by
  unfold State.hostDropped
  split <;> simp

@[simp] theorem State.copyWrite_shown (s : State) (h : Hdr) (ctx : Nat) (owner : Option (Nat × Job)) (b : Option (Nat × Nat × Nat))
    (fromHost : Bool) (ws : WriteSet) :
    (s.copyWrite h ctx owner b fromHost ws).shown queue = s.shown queue := by
  unfold State.copyWrite
  split <;> simp

@[simp] theorem State.giveHost_shown (s : State) (h : Hdr) (addr len : Nat) (bs : List (BitVec 8)) :
    (s.giveHost h addr len bs).shown queue = s.shown queue := by simp [State.giveHost]

@[simp] theorem State.hostCombine_shown (s : State) (h : Hdr) (ctx job input frame : Nat) (rset : BitVec 2) (src : View)
    (sw : Window) (dst : View) (dw : Window) :
    fstShown queue (s.hostCombine h ctx job input frame rset src sw dst dw) = s.shown queue := by
  unfold State.hostCombine
  split
  rename_i s1 vs h1
  refine (foldl_fstShown _ _ _ fun e acc => ?_).trans ((shown_of_eq h1).trans (View.readScalars_shown _ _ _ _ hostRead_serves))
  split
  · simp
  · split
    · split <;> simp
    · rfl
    · simp

@[simp] theorem State.hostDead_shown (s : State) (ctx : Nat) (owner : Option (Nat × Job)) (b : Option (Nat × Nat × Nat)) (w : View)
    (win : Window) :
    fstShown queue (s.hostDead ctx owner b w win) = s.shown queue := by
  refine foldl_fstShown _ _ _ fun e acc => ?_
  split
  · split <;> simp
  · simp
  · simp

@[simp] theorem State.runCopy_shown (s : State) (h : Hdr) (ctx : Nat) (op : CopyOp) (k : CopyParams) (src : Option HostSide)
    (dst : HostSide) :
    (s.runCopy h ctx op k src dst).shown queue = s.shown queue := by
  unfold State.runCopy
  extract_lets owner sr s0 s1 put
  have h0 : s0.shown queue = s.shown queue := State.shown_ite rfl rfl
  have h1 : s1.shown queue = s.shown queue := by
    dsimp only [s1]
    split <;> simp [h0]
  have hput : ∀ b r, (put b r).shown queue = r.1.shown queue := fun b r => by simp [put]
  have hrd : hostRead.Unseen queue := hostRead_serves
  split
  · simp [hput, h1]
  · simp [hput, h1, copyViews_shown _ _ _ _ _ _ _ hrd]
  · simp [h1, View.pack_shown _ _ _ _ hrd]
  · simp [hput, h1, transposeViews_shown _ _ _ _ _ _ _ hrd]
  · split <;> simp [h1]
  · simp [hput, h1, readoutViews_shown _ _ _ _ _ _ _ hrd]
  · simp [h1, View.packReadout_shown _ _ _ _ _ hrd]
  · simp [h1]
  · simp [h1]

@[simp] theorem State.hostCopy_serves (s : State) (h : Hdr) (op : CopyOp) (k : CopyParams) :
    Serves queue (s.shown queue) (s.hostCopy h op k) := by
  refine State.cmd_serves _ _ _ _ fun t => ?_
  dsimp only
  split
  · split <;> simp
  · simp

@[simp] theorem execCopy_serves (h : Hdr) (k : CopyParams) (s : State) : Serves queue (s.shown queue) (execCopy h k s) := by simp [execCopy]

@[simp] theorem execCopyTcopy_serves (h : Hdr) (k : CopyParams) (s : State) : Serves queue (s.shown queue) (execCopyTcopy h k s) := by
  simp [execCopyTcopy]

@[simp] theorem execCopyCombine_serves (h : Hdr) (k : CopyParams) (s : State) : Serves queue (s.shown queue) (execCopyCombine h k s) := by
  simp [execCopyCombine]

@[simp] theorem execCopyReadout_serves (h : Hdr) (k : CopyParams) (s : State) : Serves queue (s.shown queue) (execCopyReadout h k s) := by
  simp [execCopyReadout]

@[simp] theorem execCopyDead_serves (h : Hdr) (k : CopyParams) (s : State) : Serves queue (s.shown queue) (execCopyDead h k s) := by
  simp [execCopyDead]

@[simp] theorem execHostDataReceipt_serves (c : Chan) (j : SlotIx) (input : Nat) (frame : Nat) (recs : List WriteRec) (s : State) :
    Serves queue (s.shown queue) (execHostDataReceipt c j input frame recs s) := by
  unfold execHostDataReceipt
  dsimp only
  split
  · rfl
  · refine Serves.ite rfl ?_
    exact (foldl_shown _ _ _ fun k t => by simp).trans (by simp)

/-! ### Not seen: images and starts -/

@[simp] theorem execLoadImage_serves (h : Hdr) (im : JobImage) (s : State) : Serves queue (s.shown queue) (execLoadImage h im s) := by
  refine State.cmd_serves _ _ _ _ fun t => ?_
  dsimp only
  split
  · simp
  · split
    · simp
    · split <;> simp

@[simp] theorem execStart_serves (h : Hdr) (image : Nat) (pol : BitVec 256) (s : State) :
    Serves queue (s.shown queue) (execStart h image pol s) := by
  refine Serves.ite rfl (State.cmd_serves _ _ _ _ fun t => ?_)
  dsimp only
  split
  · split
    · split
      · simp
      · split <;> simp
    · simp
  · simp

/-! ### Not seen: modes of the module -/

@[simp] theorem State.modeNote_shown (s : State) : (s.modeNote).shown queue = s.shown queue := by simp [State.modeNote]

@[simp] theorem execMcOpModeWrite_serves (v : BitVec 32) (s : State) : Serves queue (s.shown queue) (execMcOpModeWrite v s) := by
  simp [execMcOpModeWrite]

@[simp] theorem State.modeErr_shown (s : State) : (s.modeErr).shown queue = s.shown queue := by simp [State.modeErr]

@[simp] theorem State.intoEff_shown (s : State) (c : Chan) : (s.intoEff c).shown queue = s.shown queue := by simp [State.intoEff]

@[simp] theorem State.outOfEff_shown (s : State) (c : Chan) : (s.outOfEff c).shown queue = s.shown queue := by simp [State.outOfEff]

@[simp] theorem execModeChangeReceipt_serves (c : Chan) (s : State) : Serves queue (s.shown queue) (execModeChangeReceipt c s) := by
  simp [execModeChangeReceipt]

@[simp] theorem execRailSettled_serves (c : Chan) (s : State) : Serves queue (s.shown queue) (execRailSettled c s) := by simp [execRailSettled]

@[simp] theorem execVoltageConfirmed_serves (c : Chan) (s : State) : Serves queue (s.shown queue) (execVoltageConfirmed c s) := by
  simp [execVoltageConfirmed]

@[simp] theorem execVoltageConfirmTimeout_serves (c : Chan) (s : State) : Serves queue (s.shown queue) (execVoltageConfirmTimeout c s) := by
  simp [execVoltageConfirmTimeout]

@[simp] theorem execModeRetry_serves (c : Chan) (s : State) : Serves queue (s.shown queue) (execModeRetry c s) := by simp [execModeRetry]

@[simp] theorem execBudgetComputation_serves (inputW : Nat) (s : State) : Serves queue (s.shown queue) (execBudgetComputation inputW s) := by
  simp [execBudgetComputation]

@[simp] theorem execGnoverReset_serves (s : State) : Serves queue (s.shown queue) (execGnoverReset s) := by rfl

@[simp] theorem execGnoverResetComplete_serves (s : State) : Serves queue (s.shown queue) (execGnoverResetComplete s) := by rfl

/-! ### Not seen: power and heat -/

@[simp] theorem execDroopSample_serves (c : Chan) (mv : Nat) (s : State) : Serves queue (s.shown queue) (execDroopSample c mv s) := by
  simp [execDroopSample]

@[simp] theorem State.railDown_shown (s : State) (c : Chan) (rail : Fin 4) (n : Nat) : (s.railDown c rail n).shown queue = s.shown queue := by
  simp [State.railDown]

@[simp] theorem execRailFault_serves (c : Chan) (rail : Fin 4) (phase : Option Nat) (s : State) :
    Serves queue (s.shown queue) (execRailFault c rail phase s) := by
  unfold execRailFault
  split <;> simp

@[simp] theorem execPhaseLoss_serves (c : Chan) (phase : Fin 24) (s : State) : Serves queue (s.shown queue) (execPhaseLoss c phase s) := by
  simp [execPhaseLoss]

@[simp] theorem execBudgetController_serves (c : Chan) (avgW avgA : Nat) (s : State) :
    Serves queue (s.shown queue) (execBudgetController c avgW avgA s) := by rfl

@[simp] theorem execPolderSleep_serves (c : Chan) (pd : PolderIx) (s : State) : Serves queue (s.shown queue) (execPolderSleep c pd s) := by
  unfold execPolderSleep
  split <;> simp

@[simp] theorem execPowerUpSlot_serves (c : Chan) (pd : PolderIx) (s : State) : Serves queue (s.shown queue) (execPowerUpSlot c pd s) := by
  unfold execPowerUpSlot
  split <;> simp

@[simp] theorem execRampStart_serves (c : Chan) (s : State) : Serves queue (s.shown queue) (execRampStart c s) := by
  simp only [execRampStart]
  split <;> simp

@[simp] theorem State.rampOn_shown (s : State) (c : Chan) (pd : PolderIx) : (s.rampOn c pd).shown queue = s.shown queue := by
  simp only [State.rampOn]
  split <;> simp

@[simp] theorem execRampStep_serves (c : Chan) (s : State) : Serves queue (s.shown queue) (execRampStep c s) := by
  simp only [execRampStep]
  split <;> simp

@[simp] theorem State.criticalShutdown_shown (s : State) (c : Chan) (unit sensor : Nat) (eff raw : Int) (st : Option StackIx) :
    (s.criticalShutdown c unit sensor eff raw st).shown queue = s.shown queue := by simp [State.criticalShutdown]

@[simp] theorem State.samplePolder_shown (s : State) (c : Chan) (pd : PolderIx) (pumpDie cisDie : List Int) (stale : List Nat) :
    (s.samplePolder c pd pumpDie cisDie stale).shown queue = s.shown queue := by simp [State.samplePolder]

@[simp] theorem State.sampleStack_shown (s : State) (c : Chan) (st : StackIx) (degC : Nat) :
    (s.sampleStack c st degC).shown queue = s.shown queue := by simp [State.sampleStack]

@[simp] theorem execTemperatureSample_serves (c : Chan) (t : TempSample) (s : State) :
    Serves queue (s.shown queue) (execTemperatureSample c t s) := by
  unfold execTemperatureSample
  split <;> simp

@[simp] theorem execOscillatorCompensation_serves (wantPpb : Int) (s : State) :
    Serves queue (s.shown queue) (execOscillatorCompensation wantPpb s) := by rfl

@[simp] theorem execBandgapCorrection_serves (c : Chan) (trim : Int) (s : State) :
    Serves queue (s.shown queue) (execBandgapCorrection c trim s) := by rfl

@[simp] theorem execSensorCalibration_serves (c : Chan) (sensor : Fin 96) (movedMv : Nat) (s : State) :
    Serves queue (s.shown queue) (execSensorCalibration c sensor movedMv s) := by simp [execSensorCalibration]

@[simp] theorem execPwrCfgWrite_serves (c : Chan) (v : BitVec 32) (s : State) : Serves queue (s.shown queue) (execPwrCfgWrite c v s) := by
  simp [execPwrCfgWrite]

/-! ### Not seen: scrubs, refresh and training -/

@[simp] theorem State.scrubKey_shown (s : State) (c : Chan) (k : Nat) (wb : Bool) : fstShown queue (s.scrubKey c k wb) = s.shown queue := by
  simp only [State.scrubKey]
  (repeat' split) <;> simp

@[simp] theorem State.scrubLine_shown (s : State) (c : Chan) (p : PumpIx) (g : Nat) (err : CodeWord) (wb : Bool) :
    fstShown queue (s.scrubLine c p g err wb) = s.shown queue := by
  simp only [State.scrubLine]
  (repeat' split) <;> simp

@[simp] theorem State.setHeldUp_shown (s : State) (c : Chan) (p : PumpIx) (w : CodeWord) (x : HeldPlace) :
    (s.setHeldUp c p w x).shown queue = s.shown queue := by
  unfold State.setHeldUp
  split <;> simp

@[simp] theorem State.scrubHeld_shown (s : State) (c : Chan) (p : PumpIx) (g : Nat) (err : CodeWord) (wb : Bool) :
    fstShown queue (s.scrubHeld c p g err wb) = s.shown queue := by
  simp only [State.scrubHeld]
  (repeat' split) <;> simp

@[simp] theorem State.upset_shown (s : State) (c : Chan) (k : Nat) (err : CodeWord) : (s.upset c k err).shown queue = s.shown queue := by
  unfold State.upset
  (repeat' split) <;> simp

@[simp] theorem State.scrubAt_shown (s : State) (c : Chan) (hbm : Bool) (unit g : Nat) (err : CodeWord) (wb : Bool) :
    fstShown queue (s.scrubAt c hbm unit g err wb) = s.shown queue := by
  unfold State.scrubAt
  (repeat' split) <;> simp

@[simp] theorem execScrubStep_serves (c : Chan) (hbm : Bool) (unit : Nat) (gran : Nat) (err : BitVec 288) (s : State) :
    Serves queue (s.shown queue) (execScrubStep c hbm unit gran err s) := by simp [execScrubStep]

@[simp] theorem execScrubWindow_serves (c : Chan) (s : State) : Serves queue (s.shown queue) (execScrubWindow c s) := by rfl

@[simp] theorem State.startPass_shown (s : State) (c : Chan) (hbm : Bool) (unit start count : Nat) (wb : Bool)
    (cmd : Option (Hdr × Nat × Nat)) :
    (s.startPass c hbm unit start count wb cmd).shown queue = s.shown queue := by simp [State.startPass]

@[simp] theorem execScrubRangeGo_serves (c : Chan) (v : BitVec 32) (s : State) : Serves queue (s.shown queue) (execScrubRangeGo c v s) := by
  simp [execScrubRangeGo]

@[simp] theorem execScrubPassComplete_serves (c : Chan) (s : State) : Serves queue (s.shown queue) (execScrubPassComplete c s) := by
  unfold execScrubPassComplete
  refine Serves.ite ?_ rfl
  dsimp only
  split <;> simp

@[simp] theorem execRefresh_serves (c : Chan) (st : StackIx) (s : State) : Serves queue (s.shown queue) (execRefresh c st s) := by rfl

@[simp] theorem execHbmReadRecentre_serves (c : Chan) (s : State) : Serves queue (s.shown queue) (execHbmReadRecentre c s) := by
  simp [execHbmReadRecentre]

@[simp] theorem execHbmTrainingComplete_serves (c : Chan) (st : StackIx) (rate : BitVec 2) (pcUp : BitVec 32) (s : State) :
    Serves queue (s.shown queue) (execHbmTrainingComplete c st rate pcUp s) := by simp [execHbmTrainingComplete]

/-! ### Not seen: commands of a job -/

@[simp] theorem State.jobCmd_serves (s : State) (h : Hdr) (opc job : Nat) (f : State → Nat → Job → State)
    (hf : ∀ a b t, (f t a b).shown queue = t.shown queue) :
    Serves queue (s.shown queue) (s.jobCmd h opc job f) := by
  refine State.cmd_serves _ _ _ _ fun t => ?_
  split
  · split
    · exact hf _ _ t
    · simp
  · simp

@[simp] theorem execCheckpoint_serves (h : Hdr) (job : Nat) (s : State) : Serves queue (s.shown queue) (execCheckpoint h job s) := by
  simp [execCheckpoint]

@[simp] theorem execStop_serves (h : Hdr) (job : Nat) (ckpt : Bool) (s : State) : Serves queue (s.shown queue) (execStop h job ckpt s) := by
  simp [execStop]

@[simp] theorem execUrgent_serves (h : Hdr) (entry : BitVec 8) (len : Nat) (args : BitVec 320) (s : State) :
    Serves queue (s.shown queue) (execUrgent h entry len args s) := by
  refine State.cmd_serves _ _ _ _ fun t => ?_
  dsimp only
  split
  · simp
  · split
    · simp
    · split
      · (repeat' split) <;> simp
      · simp

@[simp] theorem execStage_serves (h : Hdr) (job : Nat) (member : BitVec 15) (off : BitVec 22) (v mask : BitVec 64) (s : State) :
    Serves queue (s.shown queue) (execStage h job member off v mask s) := by
  refine State.jobCmd_serves _ _ _ _ _ fun ctx jb t => ?_
  dsimp only
  split
  · simp
  · split
    · simp
    · refine State.shown_ite (by simp) (State.shown_ite (by simp) ?_)
      rw [State.complete_shown]
      refine State.blockWrite_shown _ _ _ fun u => State.each_shown _ _ _ fun e x => ?_
      split <;> simp

@[simp] theorem execCheck_serves (h : Hdr) (job : Nat) (tag : BitVec 8) (s : State) :
    Serves queue (s.shown queue) (execCheck h job tag s) := by
  refine State.jobCmd_serves _ _ _ _ _ fun ctx jb t => ?_
  simp

@[simp] theorem execCommit_serves (h : Hdr) (job : Nat) (tag : BitVec 8) (s : State) :
    Serves queue (s.shown queue) (execCommit h job tag s) := by
  refine State.jobCmd_serves _ _ _ _ _ fun ctx jb t => ?_
  dsimp only
  (repeat' split) <;> simp

/-! ### Not seen: queries of the host -/

@[simp] theorem State.respond_shown (s : State) (h : Hdr) (buf len : Nat) (bytes : List (BitVec 8)) :
    (s.respond h buf len bytes).shown queue = s.shown queue := by simp [State.respond]

@[simp] theorem execQueryIdentity_serves (h : Hdr) (buf len : Nat) (s : State) :
    Serves queue (s.shown queue) (execQueryIdentity h buf len s) := by simp [execQueryIdentity]

@[simp] theorem execQueryJob_serves (h : Hdr) (job buf len : Nat) (s : State) : Serves queue (s.shown queue) (execQueryJob h job buf len s) := by
  simp [execQueryJob]

@[simp] theorem execQueryCounters_serves (h : Hdr) (job buf len : Nat) (s : State) :
    Serves queue (s.shown queue) (execQueryCounters h job buf len s) := by simp [execQueryCounters]

@[simp] theorem execQueryFabricMap_serves (h : Hdr) (buf len : Nat) (s : State) :
    Serves queue (s.shown queue) (execQueryFabricMap h buf len s) := by simp [execQueryFabricMap]

@[simp] theorem execQueryBlackBox_serves (h : Hdr) (c : Chan) (buf len : Nat) (s : State) :
    Serves queue (s.shown queue) (execQueryBlackBox h c buf len s) := by simp [execQueryBlackBox]

@[simp] theorem execQueryScrub_serves (h : Hdr) (c : Chan) (range : BitVec 128) (buf len : Nat) (s : State) :
    Serves queue (s.shown queue) (execQueryScrub h c range buf len s) := by simp [execQueryScrub]

@[simp] theorem execQueryAttest_serves (h : Hdr) (nonce : BitVec 256) (buf len : Nat) (s : State) :
    Serves queue (s.shown queue) (execQueryAttest h nonce buf len s) := by simp [execQueryAttest]

/-! ### Not seen: startup and firmware -/

@[simp] theorem State.chooseFw_shown (s : State) (g : FwImage) : (s.chooseFw g).shown queue = s.shown queue := by
  simp only [State.chooseFw]
  (repeat' split) <;> simp

@[simp] theorem State.powerUp_shown (s : State) : (s.powerUp).shown queue = s.shown queue := by simp [State.powerUp]

@[simp] theorem State.runGfw_shown (s : State) (b : Bool) (im : FwImage) : (s.runGfw b im).shown queue = s.shown queue := by simp [State.runGfw]

@[simp] theorem State.boot_shown (s : State) : (s.boot).shown queue = s.shown queue := by
  simp only [State.boot]
  split <;> simp

@[simp] theorem State.allCaps_shown (s : State) : (s.allCaps).shown queue = s.shown queue := by simp [State.allCaps]

@[simp] theorem execPowerOn_serves (mainOk listOk : Bool) (s : State) : Serves queue (s.shown queue) (execPowerOn mainOk listOk s) := by
  simp [execPowerOn]

@[simp] theorem State.channelStarts_shown (s : State) (c : Chan) : (s.channelStarts c).shown queue = s.shown queue := by
  simp [State.channelStarts]

@[simp] theorem execCsmDigestReport_serves (c : Chan) (digest : BitVec 256) (s : State) :
    Serves queue (s.shown queue) (execCsmDigestReport c digest s) := by simp [execCsmDigestReport]

@[simp] theorem State.moduleReset_shown (s : State) (auxOk resetLow : Bool) : (s.moduleReset auxOk resetLow).shown queue = s.shown queue := by simp [State.moduleReset]

@[simp] theorem execModResetN_serves (level : Bool) (s : State) : Serves queue (s.shown queue) (execModResetN level s) := by
  simp [execModResetN]

@[simp] theorem execAuxInputLoss_serves (s : State) : Serves queue (s.shown queue) (execAuxInputLoss s) := by rfl

@[simp] theorem State.pwrOkLow_shown (s : State) : (s.pwrOkLow).shown queue = s.shown queue := by simp [State.pwrOkLow]

@[simp] theorem State.mainLost_shown (s : State) (st : MainState) : (s.mainLost st).shown queue = s.shown queue := by simp [State.mainLost]

@[simp] theorem State.excursion_shown (s : State) : (s.excursion).shown queue = s.shown queue := by simp [State.excursion]

@[simp] theorem execMainOvervoltage_serves (s : State) : Serves queue (s.shown queue) (execMainOvervoltage s) := by simp [execMainOvervoltage]

@[simp] theorem execMainInputSample_serves (mv watts : Nat) (s : State) : Serves queue (s.shown queue) (execMainInputSample mv watts s) := by
  simp [execMainInputSample]

@[simp] theorem execMainInputRestored_serves (s : State) : Serves queue (s.shown queue) (execMainInputRestored s) := by
  simp only [execMainInputRestored]
  split <;> simp

@[simp] theorem State.mgmt_serves (s : State) (f : State → State) (hf : ∀ t, (f t).shown queue = t.shown queue) :
    Serves queue (s.shown queue) (s.mgmt f) := by simp [State.mgmt, hf]

@[simp] theorem State.accepted_shown (s : State) (ok : Bool) (f : State → State) (hf : ∀ t, (f t).shown queue = t.shown queue) :
    (s.accepted ok f).shown queue = s.shown queue := by simp [State.accepted, hf]

@[simp] theorem execReadSensor_serves (c : Chan) (s : State) : Serves queue (s.shown queue) (execReadSensor c s) := by simp [execReadSensor]

@[simp] theorem execFwWrite_serves (im : FwImage) (s : State) : Serves queue (s.shown queue) (execFwWrite im s) := by simp [execFwWrite]

@[simp] theorem execFwActivate_serves (kind : FwKind) (bankB : Bool) (s : State) :
    Serves queue (s.shown queue) (execFwActivate kind bankB s) := by simp [execFwActivate]

@[simp] theorem execDefectRead_serves (s : State) : Serves queue (s.shown queue) (execDefectRead s) := by simp [execDefectRead]

@[simp] theorem execBbxRead_serves (c : Chan) (copy : Fin 16) (s : State) : Serves queue (s.shown queue) (execBbxRead c copy s) :=
  State.mgmt_serves _ _ fun t => by split <;> simp

@[simp] theorem execDebugChallenge_serves (s : State) : Serves queue (s.shown queue) (execDebugChallenge s) := by simp [execDebugChallenge]

@[simp] theorem execDebugResponse_serves (auth : KeyAuth) (s : State) : Serves queue (s.shown queue) (execDebugResponse auth s) := by
  simp [execDebugResponse]

@[simp] theorem execDebugLock_serves (s : State) : Serves queue (s.shown queue) (execDebugLock s) := by simp [execDebugLock]

@[simp] theorem execDebugChallengeExpiry_serves (s : State) : Serves queue (s.shown queue) (execDebugChallengeExpiry s) := by
  unfold execDebugChallengeExpiry
  split <;> simp

@[simp] theorem execJobPolicySet_serves (hash : Option (BitVec 256)) (s : State) : Serves queue (s.shown queue) (execJobPolicySet hash s) := by
  simp [execJobPolicySet]

@[simp] theorem execAttest_serves (nonce : BitVec 256) (s : State) : Serves queue (s.shown queue) (execAttest nonce s) := by simp [execAttest]

@[simp] theorem execModuleReset_serves (s : State) : Serves queue (s.shown queue) (execModuleReset s) := by simp [execModuleReset]

@[simp] theorem State.jtagTo_shown (s : State) (k : Jtag) (name : String) : (s.jtagTo k name).shown queue = s.shown queue := by simp [State.jtagTo]

@[simp] theorem execBypass_serves (s : State) : Serves queue (s.shown queue) (execBypass s) := by rfl

@[simp] theorem execIdcode_serves (s : State) : Serves queue (s.shown queue) (execIdcode s) := by rfl

@[simp] theorem execSamplePreload_serves (s : State) : Serves queue (s.shown queue) (execSamplePreload s) := by rfl

@[simp] theorem execExtest_serves (s : State) : Serves queue (s.shown queue) (execExtest s) := by simp [execExtest]

/-! ### Not seen: register access -/

@[simp] theorem State.after_shown (s : State) (r : Res) (hr : Serves queue (s.shown queue) r) : (s.after r).shown queue = s.shown queue := by
  unfold State.after
  split
  · exact hr
  · rfl

@[simp] theorem State.writeReset_shown (s : State) (c : Chan) (v : BitVec 32) : (s.writeReset c v).shown queue = s.shown queue := by
  unfold State.writeReset
  split <;> simp

@[simp] theorem State.stgCtrl_shown (s : State) (c : Chan) (v : BitVec 32) : (s.stgCtrl c v).shown queue = s.shown queue := by
  unfold State.stgCtrl
  split <;> simp

@[simp] theorem State.writeArray_shown (s : State) (c : Chan) (off : Nat) (v : BitVec 32) :
    (s.writeArray c off v).shown queue = s.shown queue := by
  unfold State.writeArray
  cases arrayIx off 0x008000 16 2048 with
  | some w => simp
  | none => cases arrayIx off 0x020108 16 16 with
    | some j => simp
    | none => cases arrayIx off 0x040000 0x40 12 with
      | some p => simp
      | none => cases arrayIx off 0x04000C 0x40 12 with
        | some p => simp
        | none => cases arrayIx off 0x040804 16 16 with
          | some j => simp
          | none => cases arrayIx off 0x050100 8 4 with
            | some st => simp
            | none => cases arrayIx off 0x080100 16 16 <;> simp

@[simp] theorem State.writeOpenWord_shown (s : State) (c : Chan) (off : Nat) (v : BitVec 32) :
    (s.writeOpenWord c off v).shown queue = s.shown queue := by
  unfold State.writeOpenWord
  split
  · simp
  · split
    case h_5 =>
      extract_lets s1
      have h1 : s1.shown queue = s.shown queue := State.shown_ite (s.after_shown _ (execCeClear_serves c s)) rfl
      exact State.shown_ite ((s1.after_shown _ (execLogClear_serves c s1)).trans h1) h1
    all_goals simp

@[simp] theorem State.writeChWord_shown (s : State) (c : Chan) (off : Nat) (v : BitVec 32) :
    (s.writeChWord c off v).shown queue = s.shown queue := by simp [State.writeChWord]

@[simp] theorem State.embWrite_shown (s : State) (v : BitVec 32) : (s.embWrite v).shown queue = s.shown queue := by
  unfold State.embWrite
  extract_lets s1
  have h1 : s1.shown queue = s.shown queue := by simp [s1]
  exact State.shown_ite ((s1.after_shown _ (execEmbReset_serves _ s1)).trans h1) h1

@[simp] theorem State.writeMcWord_shown (s : State) (mgmt : Bool) (off : Nat) (v : BitVec 32) :
    (s.writeMcWord mgmt off v).shown queue = s.shown queue := by
  unfold State.writeMcWord
  split <;> simp

@[simp] theorem State.writeAdmWord_shown (s : State) (fn off : Nat) (v : BitVec 32) :
    (s.writeAdmWord fn off v).shown queue = s.shown queue := by
  unfold State.writeAdmWord
  split <;> simp

@[simp] theorem State.writeWord_shown (s : State) (mgmt : Bool) (addr : Nat) (v : BitVec 32) :
    (s.writeWord mgmt addr v).shown queue = s.shown queue := by
  unfold State.writeWord
  (repeat' split) <;> simp

@[simp] theorem execRegisterWrite_serves (via : RegPath) (addr : BitVec 26) (size64 : Bool) (v : BitVec 64) (s : State) :
    Serves queue (s.shown queue) (execRegisterWrite via addr size64 v s) := by
  simp only [execRegisterWrite]
  (repeat' split) <;> simp

@[simp] theorem State.readWord_shown (s : State) (addr : Nat) : fstShown queue (s.readWord addr) = s.shown queue := by
  unfold State.readWord
  split <;> simp

@[simp] theorem execRegisterRead_serves (via : RegPath) (addr : BitVec 26) (size64 : Bool) (s : State) :
    Serves queue (s.shown queue) (execRegisterRead via addr size64 s) := by simp [execRegisterRead]

/-! ### Not seen: tests of the module -/

@[simp] theorem State.startTest_shown (s : State) (c : Chan) (set : BitVec 8) (h : Option Hdr) :
    (s.startTest c set h).shown queue = s.shown queue := by simp [State.startTest]

@[simp] theorem State.queueTest_shown (s : State) (c : Chan) (set : BitVec 8) (h : Option Hdr) :
    (s.queueTest c set h).shown queue = s.shown queue := by simp [State.queueTest]

@[simp] theorem State.forceJobs_shown (s : State) (c : Chan) (h : Hdr) : (s.forceJobs c h).shown queue = s.shown queue := by
  simp [State.forceJobs]

@[simp] theorem execSelftest_serves (h : Hdr) (c : Chan) (force : Bool) (testSet : BitVec 8) (s : State) :
    Serves queue (s.shown queue) (execSelftest h c force testSet s) := by simp [execSelftest]

@[simp] theorem execDeferredSelftest_serves (c : Chan) (s : State) : Serves queue (s.shown queue) (execDeferredSelftest c s) := by
  unfold execDeferredSelftest
  split <;> simp

@[simp] theorem State.listFindings_shown (s : State) (c : Chan) (src : Nat) (l : List (DefectKind × Nat × Nat)) :
    fstShown queue (s.listFindings c src l) = s.shown queue := foldl_fstShown _ _ _ fun _ acc => acc.1.addDefect_shown c _ _ _ _

@[simp] theorem State.applySensors_shown (s : State) (c : Chan) : (s.applySensors c).shown queue = s.shown queue := by simp [State.applySensors]

@[simp] theorem State.applyFactory_shown (s : State) (c : Chan) : (s.applyFactory c).shown queue = s.shown queue := by simp [State.applyFactory]

@[simp] theorem State.applyAll_shown (s : State) (c : Chan) : (s.applyAll c).shown queue = s.shown queue := by simp [State.applyAll]

@[simp] theorem State.testStack_shown (s : State) (c : Chan) (taken : List (Nat × Nat)) (st : Nat) :
    (s.testStack c taken st).shown queue = s.shown queue := by simp [State.testStack]

@[simp] theorem State.testHbm_shown (s : State) (c : Chan) : (s.testHbm c).shown queue = s.shown queue := by simp [State.testHbm]

@[simp] theorem State.testParts_shown (s : State) (c : Chan) (set : BitVec 8) : (s.testParts c set).shown queue = s.shown queue := by
  simp [State.testParts]

@[simp] theorem State.testFailed_shown (s : State) (c : Chan) (fail : Nat) : (s.testFailed c fail).shown queue = s.shown queue := by
  simp [State.testFailed]

@[simp] theorem State.afterForced_shown (s : State) (c : Chan) (h : Hdr) : (s.afterForced c h).shown queue = s.shown queue := by
  simp [State.afterForced]

@[simp] theorem execSelftestComplete_serves (c : Chan) (found : TestFindings) (s : State) :
    Serves queue (s.shown queue) (execSelftestComplete c found s) := by
  unfold execSelftestComplete
  (repeat' split) <;> simp

end Sys2Proof.Machine


/-! ### Every command answers a next state -/

namespace Sys2Proof.Machine

@[simp] theorem execSvnCommit_serves (s : State) : Serves queue (s.shown queue) (execSvnCommit s) := by simp [execSvnCommit]

@[simp] theorem execRootAdd_serves (hash : BitVec 256) (auth : KeyAuth) (s : State) :
    Serves queue (s.shown queue) (execRootAdd hash auth s) := by simp [execRootAdd]

@[simp] theorem execRootRevoke_serves (slot : Bool) (auth : KeyAuth) (s : State) :
    Serves queue (s.shown queue) (execRootRevoke slot auth s) := by simp [execRootRevoke]

theorem Serves.answers {b : List Instr} {r : Res} (h : Serves queue b r) : Answers r fun t => t.pending = b := by
  cases r with
  | next t => exact ⟨t, rfl, h⟩
  | fault f => exact h.elim
  | refused w => exact h.elim

/-- What the statement asks of a command's answer, with the operands that it can have. -/
def AnswersIf (wf : Bool) (b : List Instr) (r : Res) : Prop :=
  (wf = true → Answers r fun t => t.pending = b) ∧ (r = .fault .registerPastEnd ∨ Answers r fun t => t.pending = b)

theorem Serves.answersIf {wf : Bool} {b : List Instr} {r : Res} (h : Serves queue b r) : AnswersIf wf b r :=
  ⟨fun _ => h.answers, .inr h.answers⟩

/-- Registers that fit are among the operands that a command can have. -/
theorem ServesIf.answersIf {wf fits : Bool} {b : List Instr} {r : Res} (h : ServesIf fits b r) (hw : wf = true → fits = true) :
    AnswersIf wf b r := by
  obtain ⟨serves, stops⟩ := h
  refine ⟨fun hwf => (serves (hw hwf)).answers, ?_⟩
  cases hf : fits with
  | true => exact .inr (serves hf).answers
  | false => exact .inl (stops hf)

theorem exec_answersIf (i : Instr) (s : State) : AnswersIf i.wf s.pending (exec i s) := by
  cases i
  case teLd => exact (execTeLd_serves ..).answersIf fun h => by simp_all [Instr.wf]
  case teSt => exact (execTeSt_serves ..).answersIf fun h => by simp_all [Instr.wf]
  case tePf => exact (execTePf_serves ..).answersIf id
  case teCvt => exact (execTeCvt_serves ..).answersIf fun h => by simp_all [Instr.wf]
  case teTime => exact (execTeTime_serves ..).answersIf id
  case teAtomSAdd => exact (execTeAtomSAdd_serves ..).answersIf id
  case teAtomSMin => exact (execTeAtomSMin_serves ..).answersIf id
  case teAtomSMax => exact (execTeAtomSMax_serves ..).answersIf id
  case teAtomSAnd => exact (execTeAtomSAnd_serves ..).answersIf id
  case teAtomSOr => exact (execTeAtomSOr_serves ..).answersIf id
  case teAtomSXor => exact (execTeAtomSXor_serves ..).answersIf id
  case teAtomSExch => exact (execTeAtomSExch_serves ..).answersIf id
  case teAtomSCas => exact (execTeAtomSCas_serves ..).answersIf fun h => by simp_all [Instr.wf]
  case teAtomGAdd => exact (execTeAtomGAdd_serves ..).answersIf id
  case teAtomGMin => exact (execTeAtomGMin_serves ..).answersIf id
  case teAtomGMax => exact (execTeAtomGMax_serves ..).answersIf id
  case teAtomGAnd => exact (execTeAtomGAnd_serves ..).answersIf id
  case teAtomGOr => exact (execTeAtomGOr_serves ..).answersIf id
  case teAtomGXor => exact (execTeAtomGXor_serves ..).answersIf id
  case teExchG => exact (execTeExchG_serves ..).answersIf id
  case teCasG => exact (execTeCasG_serves ..).answersIf fun h => by simp_all [Instr.wf]
  case teFatomAdd => exact (execTeFatomAdd_serves ..).answersIf id
  case teLadd => exact (execTeLadd_serves ..).answersIf id
  case teLrd => exact (execTeLrd_serves ..).answersIf id
  all_goals
    refine Serves.answersIf (?_ : Serves queue (s.shown queue) _)
    simp only [exec]
    simp

/-- Settles O58: every command leaves the queue of commands as it found it, and none but a thread-engine instruction whose registers pass
r63 stops. -/
theorem everyCommandAnswers : Obligations.EveryCommandAnswers := by
  unfold Obligations.EveryCommandAnswers
  exact exec_answersIf

end Sys2Proof.Machine

/-! ### The thread engine's instructions on registers -/

namespace Sys2Proof.Machine

section
variable {c : Chan} {p : PumpIx} {g : GSlot} {rd ra rb : TReg} {k : Kernel} {x : Group} {y : Path} {s : State}

theorem teAlu_acts (h : TeReady s c p g k x y [ra, rb]) (f : BitVec 32 → BitVec 32 → BitVec 32) :
    teAlu c p g rd ra rb s f = .next (s.laneStep c p g y rd [ra, rb] fun l => f (x.get l ra.toNat) (x.get l rb.toNat)) :=
  teLane_acts c p g rd [ra, rb] s _ k x y h

theorem teUn_acts (h : TeReady s c p g k x y [ra]) (f : BitVec 32 → BitVec 32) :
    teUn c p g rd ra s f = .next (s.laneStep c p g y rd [ra] fun l => f (x.get l ra.toNat)) :=
  teLane_acts c p g rd [ra] s _ k x y h

/-- The lesser of two words, asked for the other way about: where neither is less they are one word. -/
theorem imin_eq (a b : BitVec 32) : imin a b = if a.slt b then a else b := by
  simp only [imin, BitVec.slt_iff_toInt_lt]
  rcases lt_trichotomy a.toInt b.toInt with h | h | h
  · rw [if_neg h.not_gt, if_pos h]
  · rw [BitVec.eq_of_toInt_eq h]
  · rw [if_pos h, if_neg h.not_gt]

theorem execTeSel_acts {rp : TReg} (h : TeReady s c p g k x y [rp, ra, rb]) :
    execTeSel c p g rd rp ra rb s =
    .next (s.laneStep c p g y rd [rp, ra, rb] fun l => if x.get l rp.toNat = 0 then x.get l rb.toNat else x.get l ra.toNat) := by
  rw [execTeSel, teLane_acts c p g rd _ s _ k x y h]
  simp only [ne_eq, ite_not]

/-- A conversion without stochastic rounding. -/
theorem execTeCvt_nearest {src dst : Fmt} {ri : TReg} (h : TeReady s c p g k x y [ra]) : execTeCvt c p g src dst false rd ra ri s =
    .next (s.laneStep c p g y rd [ra] fun l =>
      BitVec.ofNat 32 (fmtConvert dst (fmtValue src ((x.get l ra.toNat).toNat % 2 ^ (8 * fmtBytes src))) none)) := by
  have h' : TeReady s c p g k x y (ra :: if false then regsFrom ri 2 else []) := h
  rw [execTeCvt, if_neg (by simp), teLane_acts c p g rd _ s _ k x y h']
  simp

/-- A conversion with stochastic rounding, under an index from a register pair that fits. -/
theorem execTeCvt_stochastic {src dst : Fmt} {ri : TReg} (fits : teRegs ri 8 = true) (h : TeReady s c p g k x y (ra :: regsFrom ri 2)) :
    execTeCvt c p g src dst true rd ra ri s = .next (s.laneStep c p g y rd (ra :: regsFrom ri 2) fun l =>
      BitVec.ofNat 32 (fmtConvert dst (fmtValue src ((x.get l ra.toNat).toNat % 2 ^ (8 * fmtBytes src)))
        (some (srBits k.handle (BitVec.ofNat 64 (s.frameOf c p)) (x.get64 l ri.toNat))))) := by
  have h' : TeReady s c p g k x y (ra :: if true then regsFrom ri 2 else []) := h
  rw [execTeCvt, if_neg (by simp [fits]), teLane_acts c p g rd _ s _ k x y h']
  simp

theorem State.strictAt_of_slot {j : SlotIx} (hj : (s.chan c).slotOf p = some j) : s.strictAt c p = (s.slot c j).job.strict := by
  simp [State.strictAt, hj]

/-- TIME in a Relaxed job writes the time since its latest tick into a pair that fits. -/
theorem execTeTime_acts {j : SlotIx} (hj : (s.chan c).slotOf p = some j) (relaxed : (s.slot c j).job.strict = false)
    (fits : teRegs rd 8 = true) (h : TeReady s c p g k x y []) :
    execTeTime c p g rd s = .next (s.groupStep c p g y [] (regsFrom rd 2) fun u =>
      ((lanesOf y.mask).foldl (fun v l =>
        v.set64 l.val rd.toNat (BitVec.ofNat 64 (s.timeNs - (s.slot c j).fr.tickNs))) u).step) := by
  have hs : s.strictAt c p = false := (State.strictAt_of_slot hj).trans relaxed
  rw [execTeTime, if_neg (by simp [fits]), if_neg (by simp [hs])]
  refine congrArg Host.Outcome.next ((State.teIssueIf_acts s c p g [] _ _ _ k x y h rfl).trans ?_)
  simp only [hj, State.groupStep]
  rfl

end

/-- Settles O12: every integer instruction is one function of its operands in each lane, written by `teAlu_acts`. -/
theorem threadIntegerOps : Obligations.ThreadIntegerOps := by
  unfold Obligations.ThreadIntegerOps
  intro c p g rd ra rb k x y s gives h
  simp only [exec, execTeAdd, execTeSub, execTeMul, execTeAnd, execTeOr, execTeXor, execTeShl, execTeShr, execTeSar, execTeMin, execTeMax,
    execTeCompare, teAlu_acts h, teShift, imin_eq, imax, flag32, gives, implies_true, true_and]
  exact fun _ => execTeSel_acts

/-- Settles O13: the FP32 and tabled functions are one function of their operands in each lane; CVT rounds to nearest without the index pair
and stochastically with it. -/
theorem threadFloatOps : Obligations.ThreadFloatOps := by
  unfold Obligations.ThreadFloatOps
  intro c p g rd ra rb rc k x y s gives gives1
  simp only [exec]
  refine ⟨fun h => ?_, fun h => teLane_acts c p g rd _ s _ k x y h, fun h => ?_, fun _ _ _ fits h => execTeCvt_stochastic fits h⟩
  · simp only [execTeFadd, execTeFmul, execTeFmin, execTeFmax, execTeFcompare, teAlu_acts h, flag32, gives, implies_true, true_and]
  · simp only [execTeExp2, execTeLog2, execTeRcp, execTeRsqrt, execTeTanh, execTeCvt_nearest h, teUn_acts h, gives1, implies_true, true_and]

/-- Settles O14: the identity reads write a value that is the same for all lanes or the lane's own number, and TIME a register pair. -/
theorem threadIdentity : Obligations.ThreadIdentity := by
  unfold Obligations.ThreadIdentity
  intro c p g rd k x y s q gives
  simp only [exec]
  refine ⟨fun h => ?_, fun j hj relaxed fits h => execTeTime_acts hj relaxed fits h, fun past => if_pos (by simp [past])⟩
  simp only [execTeTid, execTeGid, execTeNgrp, execTePid, execTeFrn, teLane_acts c p g rd _ s _ k x y h, Pump.ident_eq, gives, and_self, q]

end Sys2Proof.Machine

/-! ### What issuing an instruction leaves in the group's slot -/

namespace Sys2Proof.Machine

section
variable {c : Chan} {p : PumpIx} {g : GSlot} {k : Kernel} {x : Group} {y : Path} {s : State}

/-- A slot that can issue holds a group of the running kernel, whose current path is live. -/
theorem State.teReady_some (h : s.teReady c p g = some (k, x, y)) : (s.pump c p).te.kernel = some k ∧ s.group c p g = some x ∧
    ∃ rest, x.paths = y :: rest ∧ y.st = .live ∧ (s.pump c p).run ≠ .stopped := by
  unfold State.teReady at h
  dsimp only at h
  split at h
  · rename_i hk hx
    split at h
    · rename_i z rest hp
      split at h
      · rename_i hc
        obtain ⟨rfl, rfl, rfl⟩ : _ = k ∧ _ = x ∧ z = y := by simpa using h
        exact ⟨hk, hx, rest, hp, hc.1, hc.2.2.2⟩
      · cases h
    · cases h
  · cases h

/-- An instruction that only changes its group. -/
theorem State.teIssue_group {srcs dsts : List TReg} {act : State → Kernel → Group → Path → State} (h : TeReady s c p g k x y srcs)
    (f : Group → Group) (hact : ∀ t : State, act t k x y = t.onGroup c p g f) :
    s.teIssue c p g srcs dsts act = s.groupStep c p g y srcs dsts f := by
  refine (State.teIssueIf_acts s c p g srcs dsts _ act k x y h rfl).trans ?_
  rw [hact, State.groupStep]

@[simp] theorem State.onTe_group (s : State) (c : Chan) (p : PumpIx) (f : Te → Te) (i : GSlot) :
    (s.onTe c p f).group c p i = (f (s.pump c p).te).slots[i.val] := by simp [State.group]

@[simp] theorem State.onGroup_te (s : State) (c : Chan) (p : PumpIx) (i : GSlot) (f : Group → Group) :
    ((s.onGroup c p i f).pump c p).te = { (s.pump c p).te with slots := upd (s.pump c p).te.slots i (·.map f) } := by simp [State.onGroup]

theorem State.teStart_group (hx : s.group c p g = some x) (dsts : List TReg) :
    (s.teStart c p g y dsts).group c p g = some (x.cancel y.mask dsts) := by simp [State.teStart, hx]

/-- A waiting group of the kernel enters a slot that is free. -/
def Te.enter (k : Kernel) (t : Te) (i : GSlot) : Te :=
  if t.slots[i.val].isNone && decide (t.next < k.groups) then
    { t with slots := upd t.slots i (fun _ => some (Group.start k t.next)), next := t.next + 1 }
  else t

theorem Te.fill_eq (t : Te) (k : Kernel) : t.fill k = (List.finRange 16).foldl (Te.enter k) t := rfl

theorem Te.enter_slot {t : Te} {i : GSlot} {u : Group} (k : Kernel) (j : GSlot) (h : t.slots[i.val] = some u) :
    (t.enter k j).slots[i.val] = some u := by
  unfold Te.enter
  split
  · rename_i hj
    have hij : i ≠ j := fun e => by simp [← e, h] at hj
    exact (upd_of_ne t.slots j i _ hij).trans h
  · exact h

/-- A slot that is taken keeps its group as waiting groups enter the free slots. -/
theorem Te.fill_slot (t : Te) (k : Kernel) {i : GSlot} {u : Group} (h : t.slots[i.val] = some u) : (t.fill k).slots[i.val] = some u := by
  rw [Te.fill_eq]
  exact List.foldlRecOn (motive := fun v : Te => v.slots[i.val] = some u) _ _ h fun v hv j _ => Te.enter_slot k j hv

/-- With every group of the kernel started none enters a free slot. -/
theorem Te.fill_started (t : Te) {k : Kernel} (h : k.groups ≤ t.next) : t.fill k = t := by
  rw [Te.fill_eq]
  refine List.foldlRecOn (motive := fun v => v = t) _ _ rfl fun v hv j _ => ?_
  rw [hv, Te.enter, if_neg (by simp; omega)]

theorem Te.turned_slot (t : Te) (g : GSlot) {i : GSlot} {u : Group} (h : t.slots[i.val] = some u) :
    (t.turned g).slots[i.val] = some u := by
  unfold Te.turned
  dsimp only
  split
  · exact h
  · split
    · dsimp only
      exact t.fill_slot _ h
    · exact h

theorem Te.turned_started (t : Te) (g : GSlot) {k : Kernel} (hk : t.kernel = some k) (h : k.groups ≤ t.next) :
    (t.turned g).slots = t.slots ∧ (t.turned g).dirty = t.dirty := by
  unfold Te.turned
  simp only [hk, t.fill_started h]
  split <;> exact ⟨rfl, rfl⟩

/-- What an instruction does last keeps the slot's group, with its registers in the register cache. -/
theorem State.teAfter_group {t : State} {u : Group} (hu : t.group c p g = some u) (rs : List TReg) :
    (t.teAfter c p g rs).group c p g = some (u.cacheUse rs) := by
  rw [State.teAfter, State.onTe_group]
  refine Te.turned_slot _ g ?_
  simpa [State.group] using congrArg (Option.map fun v : Group => v.cacheUse rs) hu

end

/-! ### Paths -/

theorem pickPath_perm (n : Nat) (ps : List Path) : (pickPath n ps).Perm ps := by
  unfold pickPath
  dsimp only
  split
  · rename_i x hx
    exact (List.perm_cons_erase (List.mem_of_find?_eq_some hx)).symm
  · exact List.Perm.refl ps

@[simp] theorem mem_pickPath {n : Nat} {ps : List Path} {z : Path} : z ∈ pickPath n ps ↔ z ∈ ps := (pickPath_perm n ps).mem_iff

@[simp] theorem pickPath_eq_nil {n : Nat} {ps : List Path} : pickPath n ps = [] ↔ ps = [] :=
  ⟨fun h => (h ▸ pickPath_perm n ps).nil_eq.symm, fun h => by subst h; exact (pickPath_perm n []).eq_nil⟩

theorem Group.branch_divergent {u : Group} {y : Path} {rest : List Path} {taken : BitVec 32} {target join : Nat} (hp : u.paths = y :: rest)
    (ht : y.mask &&& taken ≠ 0) (hf : y.mask &&& ~~~taken ≠ 0) (z : Path) : z ∈ (u.branch taken target join).paths ↔
      z = { y with mask := y.mask &&& taken, pc := target, splits := (y.mask, join) :: y.splits } ∨
      z = { y with mask := y.mask &&& ~~~taken, pc := y.pc + 1, splits := (y.mask, join) :: y.splits } ∨ z ∈ rest := by
  unfold Group.branch
  simp only [hp, if_neg ht, if_neg hf]
  have either (b : Bool) (v w : Path) : (z ∈ if b then v :: w :: rest else w :: v :: rest) ↔ z = v ∨ z = w ∨ z ∈ rest := by
    cases b
    · exact List.mem_cons.trans (Iff.trans (or_congr_right List.mem_cons) or_left_comm)
    · exact List.mem_cons.trans (or_congr_right List.mem_cons)
  split
  · rw [mem_pickPath]
    exact either ..
  · exact either ..

/-- Settles O20: the two new paths stand before the rest, and the rotation of a backward branch only permutes them. -/
theorem divergentBranchSplitsPath : Obligations.DivergentBranchSplitsPath := by
  unfold Obligations.DivergentBranchSplitsPath
  exact fun u y rest taken target join hp ht hf => Group.branch_divergent hp ht hf

end Sys2Proof.Machine


/-! ### Control instructions of the thread engine -/

namespace Sys2Proof.Machine

/-! ### What merging and releasing leave of a group -/

/-- The group with other paths. -/
def Group.withPaths (u : Group) (ps : List Path) : Group := { u with paths := ps }

theorem Group.merge_cases (u : Group) (m : BitVec 32) (join : Nat) :
    u.merge m join = u ∨ ∃ ps, ps ≠ [] ∧ u.merge m join = u.withPaths ps := by
  unfold Group.merge
  dsimp only
  split
  · exact .inr ⟨_, by simp, rfl⟩
  · exact .inl rfl

/-- Other paths than the group's, and some where it had some; the rest of the group stays. -/
def Group.Repathed (u v : Group) : Prop := ∃ ps, v = u.withPaths ps ∧ (u.paths ≠ [] → ps ≠ [])

theorem Group.Repathed.refl (u : Group) : u.Repathed u := ⟨u.paths, rfl, id⟩

theorem Group.Repathed.trans {u v w : Group} (h : u.Repathed v) (h' : v.Repathed w) : u.Repathed w := by
  obtain ⟨ps, rfl, hp⟩ := h
  obtain ⟨qs, rfl, hq⟩ := h'
  exact ⟨qs, rfl, fun hu => hq (hp hu)⟩

theorem Group.merge_repathed (u : Group) (m : BitVec 32) (join : Nat) : u.Repathed (u.merge m join) := by
  rcases u.merge_cases m join with h | ⟨ps, hne, h⟩
  · rw [h]
    exact .refl u
  · exact ⟨ps, h, fun _ => hne⟩

theorem Group.mergeN_repathed (n : Nat) (u : Group) : u.Repathed (u.mergeN n) := by
  induction n generalizing u with
  | zero => exact .refl u
  | succ n ih =>
    refine Group.Repathed.trans ?_ (ih _)
    exact List.foldlRecOn (motive := fun v => u.Repathed v) _ _ (.refl u) fun v hv e _ => hv.trans (v.merge_repathed e.1 e.2)

theorem Group.mergeAll_repathed (u : Group) : u.Repathed u.mergeAll := u.mergeN_repathed 32

/-- No path is left to merge. -/
theorem Group.mergeAll_of_no_paths {u : Group} (h : u.paths = []) : u.mergeAll = u := by
  have stays : ∀ n, u.mergeN n = u := by
    intro n
    induction n with
    | zero => rfl
    | succ n ih => simpa [Group.mergeN, Group.waitSplits, h] using ih
  exact stays 32

theorem Group.releaseBar_repathed (u : Group) : u.Repathed u.releaseBar := by
  unfold Group.releaseBar
  split
  · exact .refl u
  · split
    · split
      · refine ⟨_, rfl, fun hu h => hu ?_⟩
        simpa using h
      · exact .refl u
    · exact .refl u

theorem Group.pick_repathed (u : Group) (n : Nat) : u.Repathed { u with paths := pickPath n u.paths } :=
  ⟨_, rfl, fun hu h => hu (pickPath_eq_nil.1 h)⟩

/-- The kernel barrier gives every group other paths, or changes nothing. -/
theorem Te.releaseBarK_cases (t : Te) : t.releaseBarK = t ∨ t.releaseBarK = { t with
    slots := t.slots.map fun o => o.map fun u => u.withPaths (pickPath 32 (u.paths.map fun y => { y with st := .live })) } :=
  (ite_eq_or_eq _ _ _).symm

theorem Te.releaseBarK_none {t : Te} {i : GSlot} (h : t.slots[i.val] = none) : t.releaseBarK.slots[i.val] = none := by
  rcases t.releaseBarK_cases with e | e
  · rw [e, h]
  · rw [e]
    simp [h]

theorem Te.releaseBarK_some {t : Te} {i : GSlot} {u : Group} (h : t.slots[i.val] = some u) :
    ∃ ps, t.releaseBarK.slots[i.val] = some (u.withPaths ps) := by
  rcases t.releaseBarK_cases with e | e
  · exact ⟨u.paths, by rw [e, h]; rfl⟩
  · exact ⟨pickPath 32 (u.paths.map fun y => { y with st := .live }), by rw [e]; simp [h]⟩

theorem Te.releaseBarK_rest (t : Te) :
    t.releaseBarK.kernel = t.kernel ∧ t.releaseBarK.next = t.next ∧ t.releaseBarK.dirty = t.dirty := by
  rcases t.releaseBarK_cases with e | e <;> rw [e] <;> exact ⟨rfl, rfl, rfl⟩

/-! ### EXIT -/

/-- The group that is left in a slot whose current path exits. -/
def Group.leave (u : Group) (m : BitVec 32) (rest : List Path) (low : Nat) : Group :=
  let v := Group.mergeAll { u with exited := u.exited ||| m, paths := rest }
  Group.releaseBar { v with paths := pickPath low v.paths }

theorem Group.leave_last (u : Group) (m : BitVec 32) (low : Nat) : (u.leave m [] low).paths = [] := by
  unfold Group.leave
  rw [Group.mergeAll_of_no_paths rfl]
  rfl

theorem Group.leave_repathed (u : Group) (m : BitVec 32) (rest : List Path) (low : Nat) :
    Group.Repathed { u with exited := u.exited ||| m, paths := rest } (u.leave m rest low) :=
  ((Group.mergeAll_repathed _).trans (Group.pick_repathed _ low)).trans (Group.releaseBar_repathed _)

/-- What EXIT does to the thread engine once the stores of a last path are visible. -/
def Te.exitOf (t : Te) (g : GSlot) (u : Group) (y : Path) (rest : List Path) : Te :=
  let gone := fun (a : SliceAtom) => if rest.isEmpty ∧ a.g = g then { a with ret := none } else a
  Te.releaseBarK ((Te.putGroup { t with atoms := t.atoms.map gone, gatoms := t.gatoms.map gone }) g (u.leave y.mask rest y.low))

theorem Te.exitOf_last (t : Te) (g : GSlot) (u : Group) (y : Path) :
    (t.exitOf g u y []).slots[g.val] = none ∧ (t.exitOf g u y []).kernel = t.kernel ∧ (t.exitOf g u y []).next = t.next ∧
      (t.exitOf g u y []).dirty = t.dirty := by
  refine ⟨Te.releaseBarK_none ?_, Te.releaseBarK_rest _⟩
  simp [Te.putGroup, Group.leave_last]

theorem Te.exitOf_some (t : Te) (g : GSlot) (u : Group) (y : Path) {rest : List Path} (h : rest ≠ []) :
    ∃ ps, (t.exitOf g u y rest).slots[g.val] = some { u with exited := u.exited ||| y.mask, paths := ps } := by
  obtain ⟨qs, hv, hq⟩ := u.leave_repathed y.mask rest y.low
  have hne : (u.leave y.mask rest y.low).paths ≠ [] := by
    rw [hv]
    exact hq h
  obtain ⟨ps, hs⟩ := Te.releaseBarK_some (t := Te.putGroup { t with
    atoms := t.atoms.map fun a => if rest.isEmpty ∧ a.g = g then { a with ret := none } else a,
    gatoms := t.gatoms.map fun a => if rest.isEmpty ∧ a.g = g then { a with ret := none } else a } g (u.leave y.mask rest y.low))
    (i := g) (u := u.leave y.mask rest y.low) (by simp [Te.putGroup, hne])
  exact ⟨ps, hs.trans (by rw [hv]; rfl)⟩

section
variable {c : Chan} {p : PumpIx} {g : GSlot} {k : Kernel} {x : Group} {y : Path} {s : State}

/-- Lines that fit enter the pump cache and push none out. -/
theorem State.allocLines_room {ls : List Nat} (h : CacheRoom s c p ls) : s.allocLines c p ls =
    s.onTe c p fun t => { t with lines := t.lines.filter (fun l => !ls.contains l) ++ ls } := by
  have none_out : ((s.pump c p).te.lines.filter (fun l => !ls.contains l) ++ ls).length - teLines = 0 := Nat.sub_eq_zero_of_le h
  unfold State.allocLines
  simp only [none_out, List.take_zero, List.isEmpty_nil, if_true, List.drop_zero]
  exact State.onPump_congr rfl

/-- The thread engine once a path has exited. -/
def Te.exited (t : Te) (g : GSlot) (y : Path) (rest : List Path) : Te :=
  match t.slots[g.val] with
  | none => t
  | some u => t.exitOf g u y rest

theorem Te.exited_some {t : Te} {u : Group} (hu : t.slots[g.val] = some u) (y : Path) (rest : List Path) :
    t.exited g y rest = t.exitOf g u y rest := by rw [Te.exited, hu]

theorem execTeExit_acts (h : TeReady s c p g k x y []) : execTeExit c p g s =
    .next (((if (x.paths.drop 1).isEmpty then (s.teStart c p g y []).publish c p g else s.teStart c p g y []).onTe c p fun t =>
      t.exited g y (x.paths.drop 1)).teAfter c p g []) :=
  congrArg Host.Outcome.next (State.teIssueIf_acts s c p g [] [] _ _ k x y h rfl)

/-- A path that exits beside others leaves the group in its slot. -/
theorem execTeExit_stays (h : TeReady s c p g k x y []) (more : x.paths ≠ [y]) : Answers (execTeExit c p g s) fun t =>
    ∃ u, t.group c p g = some u ∧ u.exited = x.exited ||| y.mask ∧ u.regs = x.regs := by
  obtain ⟨_, hx, rest, hp, _, _⟩ := State.teReady_some h.1
  have hne : rest ≠ [] := fun e => more (by rw [hp, e])
  have hu : (s.teStart c p g y []).group c p g = some (x.cancel y.mask []) := State.teStart_group hx []
  obtain ⟨ps, hs⟩ := Te.exitOf_some ((s.teStart c p g y []).pump c p).te g (x.cancel y.mask []) y hne
  refine ⟨_, execTeExit_acts h, _, State.teAfter_group (u := { x.cancel y.mask [] with exited := x.exited ||| y.mask, paths := ps }) ?_ [],
    rfl, rfl⟩
  rw [hp, List.drop_one, List.tail_cons, if_neg (by simpa using hne), State.onTe_group, Te.exited_some hu]
  exact hs

/-- What the thread engine holds once a group's stores are visible, with room for their lines. -/
theorem State.publish_te {t : State} {u : Group} (hu : t.group c p g = some u) (room : CacheRoom t c p u.bufLines) :
    ((t.publish c p g).pump c p).te = { (t.pump c p).te with
      lines := (t.pump c p).te.lines.filter (fun l => !u.bufLines.contains l) ++ u.bufLines,
      dirty := u.buf.foldl (fun d e => d.set1 e.1 e.2) (t.pump c p).te.dirty,
      slots := upd (t.pump c p).te.slots g (·.map fun v => { v with buf := [], bufLines := [] }) } := by
  have hu' : (t.pump c p).te.slots[g.val] = some u := hu
  rw [State.publish]
  simp only [hu', State.allocLines_room room, State.onTe_te]

/-- Where every group of the kernel has started, a slot that an instruction left free stays free. -/
theorem State.teAfter_free {t : State} (hfree : t.group c p g = none) (hk : (t.pump c p).te.kernel = some k)
    (started : k.groups ≤ (t.pump c p).te.next) (rs : List TReg) :
    (t.teAfter c p g rs).group c p g = none ∧ ((t.teAfter c p g rs).pump c p).te.dirty = (t.pump c p).te.dirty := by
  obtain ⟨hslots, hdirty⟩ := Te.turned_started ((t.onGroup c p g fun u => u.cacheUse rs).pump c p).te g (k := k) (by simpa using hk)
    (by simpa using started)
  rw [State.teAfter, State.onTe_group, State.onTe_te, hslots, hdirty, State.onGroup_te]
  refine ⟨?_, rfl⟩
  have hs : (t.pump c p).te.slots[g.val] = none := hfree
  simp [hs]

/-- The last path of a group exits: the group's stores are visible and its slot is free. -/
theorem execTeExit_frees (h : TeReady s c p g k x y []) (last : x.paths = [y]) (started : k.groups ≤ (s.pump c p).te.next)
    (room : CacheRoom s c p x.bufLines) : Answers (execTeExit c p g s) fun t => t.group c p g = none ∧
      (t.pump c p).te.dirty = x.buf.foldl (fun d e => d.set1 e.1 e.2) (s.pump c p).te.dirty := by
  obtain ⟨hk, hx, -⟩ := State.teReady_some h.1
  have hu : (s.teStart c p g y []).group c p g = some (x.cancel y.mask []) := State.teStart_group hx []
  have hte : ((s.teStart c p g y []).pump c p).te = { (s.pump c p).te with
      slots := upd (s.pump c p).te.slots g (·.map fun u => u.cancel y.mask []) } := State.onGroup_te ..
  have room' : CacheRoom (s.teStart c p g y []) c p (x.cancel y.mask []).bufLines := by
    unfold CacheRoom
    rw [hte]
    exact room
  refine ⟨_, execTeExit_acts h, ?_⟩
  generalize ht : (s.teStart c p g y []).publish c p g = t
  have hpub := State.publish_te hu room'
  rw [ht, hte] at hpub
  have hslot : (t.pump c p).te.slots[g.val] = some { x.cancel y.mask [] with buf := [], bufLines := [] } := by
    have hs : (s.pump c p).te.slots[g.val] = some x := hx
    simp [hpub, hs]
  obtain ⟨hfree, hkernel, hnext, hdirty⟩ := (t.pump c p).te.exitOf_last g { x.cancel y.mask [] with buf := [], bufLines := [] } y
  simp only [last, List.drop_succ_cons, List.drop_zero, List.isEmpty_nil, if_true]
  have hte' : ((t.onTe c p fun z => z.exited g y []).pump c p).te = (t.pump c p).te.exitOf g { x.cancel y.mask [] with
      buf := [], bufLines := [] } y [] := by rw [State.onTe_te, Te.exited_some hslot]
  obtain ⟨free, dirty⟩ := State.teAfter_free (k := k) (g := g) (t := t.onTe c p fun z => z.exited g y [])
    (by rw [State.group, hte', hfree]) (by rw [hte', hkernel, hpub]; exact hk) (by rw [hte', hnext, hpub]; exact started) []
  refine ⟨free, ?_⟩
  rw [dirty, hte', hdirty, hpub]
  rfl

theorem execTeBr_acts {rp : TReg} {target join : BitVec 13} (h : TeReady s c p g k x y [rp]) : execTeBr c p g rp target join s =
    .next (s.groupStep c p g y [rp] [] fun u =>
      u.branch (ofBits 32 (((lanesOf y.mask).filter fun l => x.get l.val rp.toNat != 0).map (·.val))) target.toNat join.toNat) :=
  congrArg Host.Outcome.next (State.teIssue_group h _ fun _ => rfl)

/-- RET to the latest address that the path keeps. -/
theorem execTeRet_returns {a : Nat} {rest : List Nat} (h : TeReady s c p g k x y []) (hc : y.calls = a :: rest) : execTeRet c p g s =
    .next (s.groupStep c p g y [] [] fun u =>
      { u with paths := pickPath y.low ({ y with pc := a, calls := rest } :: u.paths.drop 1) }) :=
  congrArg Host.Outcome.next (State.teIssue_group h _ fun _ => by simp only [hc])

theorem execTeRet_stays (h : TeReady s c p g k x y []) (hc : y.calls = []) : execTeRet c p g s = .next (s.groupStep c p g y [] [] id) :=
  congrArg Host.Outcome.next (State.teIssue_group h _ fun _ => by simp only [hc]; rfl)

/-- JOIN at the join address of the path's split. -/
theorem execTeJoin_parks {m : BitVec 32} {rest : List (BitVec 32 × Nat)} (h : TeReady s c p g k x y [])
    (hs : y.splits = (m, y.pc) :: rest) : execTeJoin c p g s = .next (s.groupStep c p g y [] [] fun u =>
      let v := Group.mergeAll { u with paths := { y with st := .parked y.pc } :: u.paths.drop 1 }
      { v with paths := pickPath y.low v.paths }) :=
  congrArg Host.Outcome.next (State.teIssue_group h _ fun _ => by simp only [hs, if_true])

/-- JOIN elsewhere is passed over. -/
theorem execTeJoin_steps (h : TeReady s c p g k x y []) (hs : ∀ m rest, y.splits ≠ (m, y.pc) :: rest) :
    execTeJoin c p g s = .next (s.groupStep c p g y [] [] Group.step) := by
  refine congrArg Host.Outcome.next (State.teIssue_group h _ fun t => ?_)
  match hy : y.splits with
  | [] => rfl
  | (m, join) :: rest =>
    have hj : join ≠ y.pc := fun e => hs m rest (e ▸ hy)
    simp only [if_neg hj]

theorem execTeFence_acts (h : TeReady s c p g k x y []) (hout : (s.pump c p).atomsOut g = false) : execTeFence c p g s =
    .next ((((s.teStart c p g y []).publish c p g).onGroup c p g Group.step).teAfter c p g []) :=
  congrArg Host.Outcome.next (State.teIssueIf_acts s c p g [] [] _ _ k x y h hout)

/-- An instruction that must wait itself, or whose source awaits a result, stalls. -/
theorem State.teIssueIf_stalls {srcs dsts : List TReg} {waits : State → Kernel → Group → Path → Bool}
    {act : State → Kernel → Group → Path → State} (hk : s.teReady c p g = some (k, x, y))
    (sound : (s.pump c p).te.codeUp.readD 0 (y.pc / 4) = 0) (hw : (x.awaits y.mask srcs || waits s k x y) = true) :
    s.teIssueIf c p g srcs dsts waits act = s.onTe c p fun t => { t with stall := t.stall + 1 } := by
  obtain ⟨-, -, -, -, -, hrun⟩ := State.teReady_some hk
  have hs : s.checkRow c p .code (y.pc / 4) = s := s.checkRow_sound c p .code _ sound
  rw [State.teIssueIf, hk]
  dsimp only
  rw [hs, State.unlessStopped_running _ _ _ _ hrun, if_pos hw]

theorem execTeFence_stalls (h : TeReady s c p g k x y []) (hout : (s.pump c p).atomsOut g = true) : execTeFence c p g s =
    .next (s.onTe c p fun t => { t with stall := t.stall + 1 }) :=
  congrArg Host.Outcome.next (State.teIssueIf_stalls h.1 h.2.1 (by rw [hout, Bool.or_true]))

end

/-- Settles O19: each instruction is one change of its group, and EXIT frees the slot with the last path. -/
theorem threadControl : Obligations.ThreadControl := by
  unfold Obligations.ThreadControl
  intro c p g rp target join n k x y s gives putPath started
  simp only [exec]
  refine ⟨execTeBr_acts, fun h => ⟨?_, ?_, fun a rest hc => execTeRet_returns h hc, execTeRet_stays h,
    fun m rest hs => execTeJoin_parks h hs, execTeJoin_steps h, execTeExit_frees h, execTeExit_stays h, ?_, fun hb => ?_, fun hb => ?_,
    execTeFence_acts h, execTeFence_stalls h⟩⟩
  · exact congrArg Host.Outcome.next (State.teIssue_group h _ fun _ => rfl)
  · exact congrArg Host.Outcome.next (State.teIssue_group h _ fun _ => rfl)
  · exact congrArg Host.Outcome.next (State.teIssue_group h _ fun _ => rfl)
  · rw [execTeBarK, State.teIssue, State.teIssueIf_acts s c p g [] [] _ _ k x y h rfl, if_pos hb]
    rfl
  · rw [execTeBarK, State.teIssue, State.teIssueIf_acts s c p g [] [] _ _ k x y h rfl, if_neg (by simp [hb])]
    rfl

end Sys2Proof.Machine

/-! ### Waiting operations of a pump, and the events of its units -/

namespace Sys2Proof.Machine

section
variable {c : Chan} {p : PumpIx} {s : State} {o : RowOp}

theorem State.nextOp_one : s.nextOp c p [o] = if s.opReady c p o then some 0 else none := by
  have hr : List.range [o].length = [0] := rfl
  rw [State.nextOp, hr]
  cases h : s.opReady c p o <;> simp [h]

/-- With nothing waiting, or the one operation that waits not ready, nothing acts. -/
theorem State.advanceN_rests (n : Nat) (h : s.nextOp c p (s.pump c p).todo = none) : s.advanceN c p n = s := by
  cases n with
  | zero => rfl
  | succ n => rw [State.advanceN]; simp only [h]

theorem State.nextOp_nil : s.nextOp c p [] = none := rfl

theorem State.advance_idle (h : (s.pump c p).todo = []) : s.advance c p = s.onPump c p Pump.wake := by
  rw [State.advance, State.advanceN_rests]
  rw [h, State.nextOp_nil]

/-- A pump with an operation waiting or queued is not quiet: FENCE does not end. -/
theorem Pump.wake_of_todo {q : Pump} (h : q.todo ≠ []) : q.wake = q := by
  have : q.quiet = false := by
    rw [Pump.quiet, List.isEmpty_eq_false_iff.2 h]
    rfl
  rw [Pump.wake, this, Bool.and_false]
  rfl

theorem Pump.wake_of_queued {q : Pump} (i : Fin 7) (h : q.queued[i.val] ≠ 0) : q.wake = q := by
  have hall : q.queued.toList.all (· == 0) = false := by
    rw [List.all_eq_false]
    exact ⟨q.queued[i.val], by simp, by simpa using h⟩
  have : q.quiet = false := by
    rw [Pump.quiet, hall, Bool.and_false]
    rfl
  rw [Pump.wake, this, Bool.and_false]
  rfl

/-- A pump's update that changes nothing of it. -/
theorem State.onPump_same {f : Pump → Pump} (h : f (s.pump c p) = s.pump c p) : s.onPump c p f = s := by
  rw [State.onPump_congr (g := fun q => q) h]
  simp [State.onPump, State.onChan, upd_id]

theorem State.advance_waits (h : (s.pump c p).todo = [o]) (hr : s.opReady c p o = false) : s.advance c p = s := by
  have hn : s.nextOp c p (s.pump c p).todo = none := by rw [h, State.nextOp_one, hr]; rfl
  rw [State.advance, State.advanceN_rests _ hn, State.onPump_same]
  exact Pump.wake_of_todo (by simp [h])

/-- The observer of a pump's issued operations. -/
def ctlOf (c : Chan) (p : PumpIx) : Observer (List RowOp × Vector Nat 7 × List (Granule × CodeWord) × Te) :=
  ⟨fun s => (s.chan c).ctl p, fun _ _ _ h => congrFun (h c) p⟩

theorem State.shown_ctlOf (s : State) (c : Chan) (p : PumpIx) : s.shown (ctlOf c p) = (s.pump c p).ctl := rfl

theorem State.perform_ctl (s : State) (c : Chan) (p : PumpIx) (o : RowOp) : ((s.perform c p o).pump c p).ctl = (s.pump c p).ctl :=
  State.perform_shown (O := ctlOf c p) s c p o

theorem Pump.todo_of_ctl {q r : Pump} (h : q.ctl = r.ctl) : q.todo = r.todo := congrArg Prod.fst h
theorem Pump.queued_of_ctl {q r : Pump} (h : q.ctl = r.ctl) : q.queued = r.queued := congrArg (·.2.1) h
theorem Pump.bq_of_ctl {q r : Pump} (h : q.ctl = r.ctl) : q.bq = r.bq := congrArg (·.2.2.1) h
theorem Pump.engine_of_ctl {q r : Pump} (h : q.ctl = r.ctl) : q.engine = r.engine := congrArg (·.2.2.2) h

/-- The only waiting operation is ready and acts whole: then nothing waits, and its unit's queue still holds it. -/
theorem State.advance_acts (i : Fin 7) (h : (s.pump c p).todo = [o]) (hr : s.opReady c p o = true) (whole : o.steps = 0)
    (hq : (s.pump c p).queued[i.val] ≠ 0) : s.advance c p = (s.onPump c p fun q => { q with todo := [] }).perform c p o := by
  have hctl := State.perform_ctl (s.onPump c p fun q => { q with todo := [] }) c p o
  have hact : s.act c p 0 o = (s.onPump c p fun q => { q with todo := [] }).perform c p o := by
    rw [State.act, if_pos whole]
    exact congrArg (State.perform · c p o) (State.onPump_congr (by rw [h]; rfl))
  have htodo : ((s.act c p 0 o).pump c p).todo = [] := by
    rw [hact, Pump.todo_of_ctl hctl]
    simp
  have hqueued : ((s.act c p 0 o).pump c p).queued[i.val] ≠ 0 := by
    simp only [hact, Pump.queued_of_ctl hctl]
    simpa using hq
  have hfuel : ((s.pump c p).todo.map fun o => 1 + o.steps).sum + 1 = 2 := by simp [h, whole]
  have hstep : s.advanceN c p 2 = s.act c p 0 o := by
    rw [State.advanceN]
    simp only [h, State.nextOp_one, hr, if_true, List.getElem?_cons_zero]
    exact State.advanceN_rests 1 (by rw [htodo, State.nextOp_nil])
  rw [State.advance, hfuel, hstep, State.onPump_same (Pump.wake_of_queued i hqueued), hact]

/-- Where nothing waits and the pc can go on, an operation enters the queue of its unit and stands first. -/
theorem State.enqueue_first (h : (s.pump c p).todo = []) (hpc : (s.pump c p).pc + 1 < 8192) : s.enqueue c p o =
    (s.onPump c p fun x => { x.queuedIn o.unit s.timeNs with todo := [o] }).advance c p := by
  rw [State.enqueue]
  refine congrArg (State.advance · c p) ?_
  refine (State.onPump_pcNext s c p _ hpc rfl).trans (State.onPump_congr ?_)
  rw [h]
  rfl

end

end Sys2Proof.Machine


/-! ### The events of the units -/

namespace Sys2Proof.Machine

section
variable {c : Chan} {p : PumpIx} {s : State} {o : RowOp} {u : RowUnit}

/-- An operation of a unit ends, and nothing waits. -/
theorem State.endOp_advance (f : Pump → Pump) (hf : (f ((s.pump c p).ended u s.timeNs)).todo = []) :
    ((s.endOp c p u).onPump c p f).advance c p = s.onPump c p fun x => Pump.wake (f (x.ended u s.timeNs)) := by
  have he : s.endOp c p u = s.onPump c p fun x => x.ended u s.timeNs := rfl
  rw [he, State.onPump_onPump, State.advance_idle (by simpa using hf), State.onPump_onPump]

theorem State.endOp_advance_idle (h : (s.pump c p).todo = []) :
    (s.endOp c p u).advance c p = s.onPump c p fun x => Pump.wake (x.ended u s.timeNs) := by
  have he : s.endOp c p u = s.onPump c p fun x => x.ended u s.timeNs := rfl
  rw [he, State.advance_idle (by simpa [Pump.ended] using h), State.onPump_onPump]

theorem State.beginOp_eq (s : State) (c : Chan) (p : PumpIx) (u : RowUnit) : s.beginOp c p u = s.begun c p u := rfl

theorem execOperationBegin_begins (hu : u ≠ .kernel) (h : (s.pump c p).canBegin u = true) :
    execOperationBegin c p u s = .next (s.begun c p u) := by
  rw [execOperationBegin, if_neg hu, h]
  rfl

theorem execOperationComplete_ends (hk : u ≠ .kernel) (hx : u ≠ .transfer) (h : (s.pump c p).todo = [])
    (hr : 0 < (s.pump c p).running[(unitIx u).val]) :
    execOperationComplete c p u s = .next (s.onPump c p fun x => Pump.wake (x.ended u s.timeNs)) := by
  have hw : (s.pump c p).waiting u = [] := by rw [Pump.waiting, h]; rfl
  have go : execOperationComplete c p u s =
      onlyIf (decide (0 < (s.pump c p).running[(unitIx u).val]) && decide (((s.pump c p).waiting u).length <
        (s.pump c p).running[(unitIx u).val] + (s.pump c p).queued[(unitIx u).val])) s ((s.endOp c p u).advance c p) := by
    cases u
    case transfer => exact absurd rfl hx
    case kernel => exact absurd rfl hk
    all_goals rfl
  rw [go, hw, decide_eq_true hr, decide_eq_true (by simp only [List.length_nil]; omega), State.endOp_advance_idle h]
  rfl

theorem execXfrComplete_ends {xs : List Xfer} (hx : takeXfer (s.pump c p).xfers = some xs) (h : (s.pump c p).todo = [])
    (hr : 0 < (s.pump c p).running[5]) : execXfrComplete c p s =
      .next (s.onPump c p fun x => Pump.wake { x.ended .transfer s.timeNs with xfers := xs }) := by
  rw [execXfrComplete, State.endXfer]
  simp only [hx, if_pos hr]
  exact congrArg Host.Outcome.next (State.endOp_advance (fun x => { x with xfers := xs }) h)

theorem execPumpFrameDone_reports (hrun : (s.pump c p).run = .done) (hquiet : (s.pump c p).quiet = true) (hbq : (s.pump c p).bq = [])
    (hdirty : (s.pump c p).te.dirty = []) :
    execPumpFrameDone c p s = .next (s.onPump c p fun x => { x with run := .reported, doneNs := s.timeNs }) := by
  rw [execPumpFrameDone]
  simp only [hrun, hquiet, hbq, hdirty]
  rfl

/-- At DONE with nothing waiting, entries left in the broadcast queue fault. -/
theorem execStreamDeadlockCheck_done (hrun : (s.pump c p).run = .done) (h : (s.pump c p).todo = []) :
    execStreamDeadlockCheck c p s = .next (if (s.pump c p).bq = [] then s else s.pumpFault c p .descriptor 0) := by
  rw [execStreamDeadlockCheck]
  simp only [Pump.canProgress, Pump.waiting, hrun, h]
  cases hb : (s.pump c p).bq <;> rfl

/-- At FENCE a DOT that cannot go on while no BQS waits faults. -/
theorem execStreamDeadlockCheck_fence (hrun : (s.pump c p).run = .fence) (h : (s.pump c p).todo = [o]) (hu : o.unit = .multiply)
    (hw : wOp o.word = 0x20) (hr : s.opReady c p o = false) :
    execStreamDeadlockCheck c p s = .next (s.pumpFault c p .descriptor 0) := by
  have hp : (s.pump c p).canProgress = false := by simp [Pump.canProgress, h, hu]
  have hb : (s.pump c p).waiting .broadcast = [] := by simp [Pump.waiting, h, hu]
  rw [execStreamDeadlockCheck]
  simp only [hrun, hp, hb, h, State.nextOp_one, hr]
  simp [hu, hw, onlyIf]

end

/-- Settles O22: an event moves an operation on in its unit's counts, and where nothing waits it only lets FENCE end. -/
theorem unitEvents : Obligations.UnitEvents := by
  unfold Obligations.UnitEvents
  intro c p u xs o s q
  simp only [exec]
  exact ⟨execOperationBegin_begins, execOperationComplete_ends, execXfrComplete_ends, execPumpFrameDone_reports,
    execStreamDeadlockCheck_done, execStreamDeadlockCheck_fence⟩

/-! ### Reads over the bond port -/

/-- A sound word shows the error of the path alone. -/
theorem zero_xor_codeWord (e : CodeWord) : (0 : CodeWord) ^^^ e = e := BitVec.zero_xor

section
variable {c : Chan} {p : PumpIx} {s : State} {gran : BitVec 19} {err : BitVec 288}

theorem execBondReadDelivery_clean (inside : gran.toNat < (s.chan c).pinned) (sound : (s.slice c p).upset.readD 0 gran.toNat = 0)
    (h : bscDecode err = .clean) : execBondReadDelivery c p gran err s = .next s := by
  rw [execBondReadDelivery]
  simp only [sound, zero_xor_codeWord, decide_eq_true inside, if_true, h]

/-- A correctable error of the path, on a wire that has shown none before. -/
theorem execBondReadDelivery_corrected {i : Nat} {v : BitVec 8} (inside : gran.toNat < (s.chan c).pinned)
    (sound : (s.slice c p).upset.readD 0 gran.toNat = 0) (h : bscDecode err = .corrected i v) (fresh : s.bondRepeats c p i v = false) :
    execBondReadDelivery c p gran err s = .next ((s.logCe c 2 (bondGroup i) gran.toNat i false).bondHit c p i v) := by
  rw [execBondReadDelivery]
  simp only [sound, zero_xor_codeWord, bscDecode_zero, decide_eq_true inside, if_true, h, fresh, Bool.false_eq_true, if_false]

theorem execBondReadDelivery_uncorrectable (inside : gran.toNat < (s.chan c).pinned)
    (sound : (s.slice c p).upset.readD 0 gran.toNat = 0) (h : bscDecode err = .uncorrectable) :
    execBondReadDelivery c p gran err s = .next (s.onPump c p fun q => { q with reread := some ⟨gran.toNat, err⟩ }) := by
  rw [execBondReadDelivery]
  simp only [sound, zero_xor_codeWord, decide_eq_true inside, if_true, h]

theorem execUeReread_clean {r : Reread} (waits : (s.pump c p).reread = some r) (sound : (s.slice c p).upset.readD 0 r.gran = 0)
    (h : bscDecode err = .clean) :
    execUeReread c p err s = .next ((s.onPump c p fun q => { q with reread := none }).logCe c 7 0 r.gran 0x3F false) := by
  rw [execUeReread]
  simp only [waits, sound, zero_xor_codeWord, h]

theorem execUeReread_corrected {r : Reread} {i : Nat} {v : BitVec 8} (waits : (s.pump c p).reread = some r)
    (sound : (s.slice c p).upset.readD 0 r.gran = 0) (h : bscDecode err = .corrected i v) :
    execUeReread c p err s = .next ((s.onPump c p fun q => { q with reread := none }).logCe c 7 0 r.gran i false) := by
  rw [execUeReread]
  simp only [waits, sound, zero_xor_codeWord, bscDecode_zero, h, Bool.false_eq_true, if_false]

end

/-- Settles O23: without stored damage the error of the path alone decides, at the first read and at the second. -/
theorem bondReadsAndRereads : Obligations.BondReadsAndRereads := by
  unfold Obligations.BondReadsAndRereads
  intro c p gran err r s
  simp only [exec]
  exact ⟨fun inside sound => ⟨execBondReadDelivery_clean inside sound, fun i v => execBondReadDelivery_corrected inside sound,
    execBondReadDelivery_uncorrectable inside sound⟩,
    fun waits sound => ⟨execUeReread_clean waits sound, fun i v => execUeReread_corrected waits sound⟩⟩

end Sys2Proof.Machine


/-! ### Words that name a descriptor: transfers and kernels -/

namespace Sys2Proof.Machine

/-- A reserved operation code has no plan (R208). -/
theorem State.xferPlan_reserved {s : State} {c : Chan} {p : PumpIx} {o : RowOp} (h : 7 ≤ (xdesc o.desc).opc) :
    s.xferPlan c p o = .error .descriptor := by
  unfold State.xferPlan
  extract_lets x mk rawOk srcD dstD bad ok packed
  split
  · rfl
  · have hx : 7 ≤ x.opc := h
    split
    case h_8 => rfl
    all_goals omega

theorem State.xferReady_reserved {s : State} {c : Chan} {p : PumpIx} {o : RowOp} (h : 7 ≤ (xdesc o.desc).opc) :
    s.xferReady c p o = true := by
  unfold State.xferReady
  simp only [State.xferPlan_reserved h]

theorem State.doXfer_reserved {s : State} {c : Chan} {p : PumpIx} {o : RowOp} (h : 7 ≤ (xdesc o.desc).opc) :
    s.doXfer c p o = s.pumpFault c p .descriptor 0 := by
  rw [State.doXfer]
  simp only [State.xferPlan_reserved h]

section
variable {c : Chan} {p : PumpIx} {s : State} {u : RowUnit} {op : Nat} {f : BitVec 58}

theorem AtOp.running (h : AtOp s c p op f) : (s.pump c p).run ≠ .stopped := by
  rw [Pump.at_running _ _ h.1]
  nofun

/-- A word that names a descriptor in sound data memory queues its operation, which then acts in its turn. -/
theorem State.issueDesc_queues (h : DescReady s c p u op f) : s.issueDesc c p u f =
    (s.onPump c p fun x => { x.queuedIn u s.timeNs with todo := [s.descWord c p u f] }).advance c p := by
  obtain ⟨⟨hat, -⟩, htodo, hfull, hmod, hlo, hhi, hup, hpc⟩ := h
  have sound (lo hi : Nat) : s.checkRows c p .data lo hi = s := s.checkRows_sound c p .data lo hi hup
  have blocks (l : List Nat) : s.each l (fun t b => t.checkRows c p .data (b / 32) (b / 32 + 2)) = s := by
    rw [State.each]
    exact List.foldlRecOn (motive := fun t => t = s) _ _ rfl fun t ht b _ => by rw [ht, sound]
  have hbounds : ¬((s.pump c p).dataAddr f < 0 ∨ 0x8000 < (s.pump c p).dataAddr f + 64) := by omega
  rw [State.issueDesc]
  simp only [hfull, Bool.false_eq_true, if_false, ne_eq, hmod, not_true, if_neg hbounds]
  rw [State.withData_sound _ _ _ _ _ _ (sound ..) hat.running, blocks, State.unlessStopped_running _ _ _ _ hat.running,
    State.enqueue_first htodo hpc]
  rfl

theorem DescReady.acts (h : DescReady s c p u op f) (act : State → State) : s.atWord c p (ctlWord op f) act = .next (act s) :=
  State.atWord_acts s c p _ act h.1.1

/-- An XFR whose descriptor holds a wanted operation code is queued. -/
theorem xferWord_queues {want : Nat → Bool} (h : DescReady s c p .transfer 0x30 f)
    (hw : want (xdesc (s.descWord c p .transfer f).desc).opc = true) : xferWord want c p f s =
      .next ((s.onPump c p fun x => { x.queuedIn .transfer s.timeNs with todo := [s.descWord c p .transfer f] }).advance c p) := by
  have hw' : want (xdesc ((s.pump c p).dataBits ((s.pump c p).dataAddr f).toNat 512)).opc = true := hw
  rw [xferWord, h.acts]
  obtain ⟨⟨-, hclean⟩, -, -, hmod, hlo, hhi, -, -⟩ := id h
  have hbounds : ¬((s.pump c p).dataAddr f % 8 ≠ 0 ∨ (s.pump c p).dataAddr f < 0 ∨ 0x8000 < (s.pump c p).dataAddr f + 64) := by omega
  simp only [hclean, Bool.not_true, Bool.false_eq_true, if_false, if_neg hbounds, hw', if_true, State.issueDesc_queues h]

/-- A queued transfer acts where what it reads is at hand, and otherwise waits. -/
theorem State.advance_transfer {o : RowOp} (ho : o.unit = .transfer) (htodo : (s.pump c p).todo = []) :
    (s.onPump c p fun x => { x.queuedIn .transfer s.timeNs with todo := [o] }).advance c p =
      if (s.onPump c p fun x => { x.queuedIn .transfer s.timeNs with todo := [o] }).xferReady c p o then
        (s.onPump c p fun x => x.queuedIn .transfer s.timeNs).doXfer c p o
      else s.onPump c p fun x => { x.queuedIn .transfer s.timeNs with todo := [o] } := by
  generalize ht : (s.onPump c p fun x => { x.queuedIn .transfer s.timeNs with todo := [o] }) = t
  have hone : (t.pump c p).todo = [o] := by simp [← ht]
  have hready : t.opReady c p o = t.xferReady c p o := by rw [State.opReady, ho]
  cases hr : t.xferReady c p o with
  | false => exact State.advance_waits hone (hready.trans hr)
  | true =>
    have hwhole : o.steps = 0 := by rw [RowOp.steps, ho]
    have hq : (t.pump c p).queued[(unitIx .transfer).val] ≠ 0 := by simp [← ht, Pump.queuedIn]
    have hback : (t.onPump c p fun q => { q with todo := [] }) = s.onPump c p fun x => x.queuedIn .transfer s.timeNs := by
      rw [← ht, State.onPump_onPump]
      exact State.onPump_congr (by simp only [Pump.queuedIn, htodo])
    rw [State.advance_acts _ hone (hready.trans hr) hwhole hq, hback, State.perform, ho]
    rfl

/-- An XFR word whose descriptor holds a wanted operation code acts or waits. -/
theorem xferWord_acts {want : Nat → Bool} (h : DescReady s c p .transfer 0x30 f)
    (hw : want (xdesc (s.descWord c p .transfer f).desc).opc = true) : xferWord want c p f s = .next
      (if (s.onPump c p fun x => { x.queuedIn .transfer s.timeNs with todo := [s.descWord c p .transfer f] }).xferReady c p
          (s.descWord c p .transfer f) then
        (s.onPump c p fun x => x.queuedIn .transfer s.timeNs).doXfer c p (s.descWord c p .transfer f)
      else s.onPump c p fun x => { x.queuedIn .transfer s.timeNs with todo := [s.descWord c p .transfer f] }) := by
  rw [xferWord_queues h hw, State.advance_transfer rfl h.2.1]

end

/-- Settles O11: each command's word is queued as its descriptor's operation and acts or waits; a reserved code has no plan. -/
theorem transferWordsAct : Obligations.TransferWordsAct := by
  unfold Obligations.TransferWordsAct
  intro c p f s o t queued gives h _
  simp only [exec]
  simp only [execXfrCopy, execXfrTcopy, execXfrCombine, execXfrReadout, execXfrDead, execXfrHalo, execXfrWarm, execXfrReservedOpc]
  have acts {want : Nat → Bool} (hw : want (xdesc o.desc).opc = true) : xferWord want c p f s = gives := xferWord_acts h hw
  refine ⟨fun hx => ?_, fun hx => ?_, fun hx => ?_, fun hx => ?_, fun hx => ?_, fun hx => ?_, fun hx => ?_, fun hx => ?_⟩
  · exact acts (beq_iff_eq.2 hx)
  · exact acts (beq_iff_eq.2 hx)
  · exact acts (beq_iff_eq.2 hx)
  · exact acts (beq_iff_eq.2 hx)
  · exact acts (beq_iff_eq.2 hx)
  · exact acts (beq_iff_eq.2 hx)
  · exact acts (beq_iff_eq.2 hx)
  · rw [acts (want := fun n => decide (7 ≤ n)) (decide_eq_true hx)]
    simp only [gives, State.xferReady_reserved (o := o) hx, if_true, State.doXfer_reserved (o := o) hx]

end Sys2Proof.Machine


/-! ### Kernels -/

namespace Sys2Proof.Machine

section
variable {c : Chan} {p : PumpIx} {s : State} {f : BitVec 58} {o : RowOp}

/-- KRN queues its kernel, which waits to be launched. -/
theorem execKrn_queues (h : DescReady s c p .kernel 0x31 f) : execKrn c p f s = .next (s.onPump c p fun x =>
    { x.queuedIn .kernel s.timeNs with todo := [s.descWord c p .kernel f] }) := by
  rw [execKrn, h.acts, if_pos h.1.2, State.issueDesc_queues h, State.advance_waits]
  · simp
    rfl
  · rfl

/-- The oldest waiting kernel where nothing waits before it and no transfer under way shares memory with it. -/
theorem Pump.nextKernel_only {q : Pump} (h : q.todo = [o]) (hu : o.unit = .kernel)
    (free : ∀ x ∈ q.xfers, x.acks = 0 ∨ feetMeet o.foot x.foot = false) : q.nextKernel = some o := by
  have hall : (q.xfers.all fun x => x.acks == 0 || !feetMeet o.foot x.foot) = true := by
    simpa [List.all_eq_true] using free
  simp [Pump.nextKernel, h, hu, hall]

theorem execKernelLaunch_launches (hk : (s.pump c p).te.kernel = none) (h : (s.pump c p).todo = [o]) (hu : o.unit = .kernel)
    (free : ∀ x ∈ (s.pump c p).xfers, x.acks = 0 ∨ feetMeet o.foot x.foot = false) (hrun : (s.pump c p).run ≠ .stopped)
    (hq : (s.pump c p).queued[6] ≠ 0) (fields : kernelFieldsOk o.desc = true)
    (access : kernelAccessOk o.desc (s.chan c).pinned (s.strictAt c p) = true) :
    execKernelLaunch c p s = .next ((s.begun c p .kernel).onTe c p fun t => t.launch o.desc o.args) := by
  rw [execKernelLaunch, State.launch]
  simp only [hk, Pump.nextKernel_only h hu free, hrun, hq, or_self, if_false, fields, access, Bool.not_true, Bool.false_eq_true]
  rfl

/-- A cache without dirty bytes writes nothing back. -/
theorem State.writeBack_clean (h : (s.pump c p).te.dirty = []) (out : Nat → Bool) : s.writeBack c p out = s := by
  unfold State.writeBack
  split
  · rfl
  · simp [h]

theorem execKernelComplete_ends (ended : (s.pump c p).kernelOver = true) (hd : (s.pump c p).te.dirty = [])
    (h : (s.pump c p).todo = [o]) (hu : o.unit = .kernel) (hx : (s.pump c p).xfers = []) :
    execKernelComplete c p s = .next (s.onPump c p fun x => Pump.wake { x.ended .kernel s.timeNs with
      te := { x.te with kernel := none, lines := [] }, todo := [], xfers := [] }) := by
  have hends (u : State) : u.endOp c p .kernel = u.onPump c p fun x => x.ended .kernel u.timeNs := rfl
  rw [execKernelComplete, State.endKernel, if_pos ended]
  simp only [State.writeBack_clean hd, hx, List.any_nil, Bool.false_eq_true, if_false, hends, State.onTe, State.onPump_onPump]
  rw [State.advance_idle, State.onPump_onPump]
  · refine congrArg Host.Outcome.next (State.onPump_congr ?_)
    simp [Pump.ended, h, hu, hx]
  · simp [Pump.ended, h, hu]

/-- A group all of whose paths wait, and not all at one barrier. -/
theorem execBarrierDivergence_faults {g : GSlot} {u : Group} (hg : s.group c p g = some u) (hne : u.paths ≠ [])
    (blocked : ∀ z ∈ u.paths, z.st ≠ .live)
    (apart : (∃ z ∈ u.paths, ∃ n, z.st = .parked n) ∨ ∃ z ∈ u.paths, ∃ w ∈ u.paths, z.st ≠ w.st) :
    execBarrierDivergence c p g s = .next (s.pumpFault c p .barrierDivergence 0) := by
  obtain ⟨x, rest, hp⟩ := List.exists_cons_of_ne_nil hne
  rw [hp] at blocked apart
  have hblocked : ((x :: rest).all fun z => z.st != .live) = true := by simpa using blocked
  have hsame : ¬((match x.st with | .parked _ => false | _ => true) && (x :: rest).all fun y => y.st == x.st) = true := by
    rw [Bool.and_eq_true]
    rintro ⟨hx, hall⟩
    have same (z : Path) (hz : z ∈ x :: rest) : z.st = x.st := beq_iff_eq.1 (List.all_eq_true.1 hall z hz)
    rcases apart with ⟨z, hz, n, hn⟩ | ⟨z, hz, w, hw, hzw⟩
    · rw [← same z hz, hn] at hx
      cases hx
    · exact hzw ((same z hz).trans (same w hw).symm)
  rw [execBarrierDivergence]
  simp only [hg, hp, hblocked]
  exact congrArg Host.Outcome.next (if_pos (congrArg (!·) (Bool.eq_false_iff.2 hsame)))

end

/-- Settles O21: a kernel waits in the queue until the launch, and its end empties the queue and the thread engine. -/
theorem kernelsLaunchAndComplete : Obligations.KernelsLaunchAndComplete := by
  unfold Obligations.KernelsLaunchAndComplete
  intro c p f g o j u s q
  simp only [exec]
  exact ⟨execKrn_queues, execKernelLaunch_launches, fun _ => execKernelComplete_ends, execBarrierDivergence_faults⟩

end Sys2Proof.Machine

/-! ### Row words: issue, and the units that act at once -/

namespace Sys2Proof.Machine

theorem wOp_ctlWord {op : Nat} (h : op < 64) (f : BitVec 58) : wOp (ctlWord op f) = op := by
  have e : (ctlWord op f).extractLsb' 58 6 = BitVec.ofNat 6 op := BitVec.extractLsb'_append_eq_left
  rw [wOp, field, e, BitVec.toNat_ofNat, Nat.mod_eq_of_lt h]

section
variable {c : Chan} {p : PumpIx} {s : State} {w : BitVec 64} {u : RowUnit}

/-- A row word that nothing holds up enters its unit's queue and acts in its turn. -/
theorem State.issueRow_queues (h : RowReady s c p u w) : s.issueRow c p w =
    (s.onPump c p fun x => { x.queuedIn u s.timeNs with todo := [(s.pump c p).rowOp u w] }).advance c p := by
  obtain ⟨hu, htodo, hfull, hfields, hspan, hpc⟩ := h
  rw [State.issueRow]
  simp only [hu, hfull, hfields, hspan, Bool.not_true, Bool.false_eq_true, if_false]
  rw [State.enqueue_first htodo hpc]
  rfl

/-- An operation that acts whole, the only one that waits. -/
theorem State.advance_whole {o : RowOp} (htodo : (s.pump c p).todo = [])
    (hr : (s.onPump c p fun x => { x.queuedIn u s.timeNs with todo := [o] }).opReady c p o = true) (whole : o.steps = 0) :
    (s.onPump c p fun x => { x.queuedIn u s.timeNs with todo := [o] }).advance c p =
      (s.onPump c p fun x => x.queuedIn u s.timeNs).perform c p o := by
  have hq : ((s.onPump c p fun x => { x.queuedIn u s.timeNs with todo := [o] }).pump c p).queued[(unitIx u).val] ≠ 0 := by
    simp [Pump.queuedIn]
  rw [State.advance_acts (unitIx u) (by simp) hr whole hq, State.onPump_onPump]
  refine congrArg (State.perform · c p o) (State.onPump_congr ?_)
  simp only [Pump.queuedIn, htodo]

/-- A row word other than DOT and BQS acts whole. -/
theorem State.issueRow_acts (h : RowReady s c p u w) (dot : wOp w ≠ 0x20) (bqs : wOp w ≠ 0x21) :
    s.issueRow c p w = (s.onPump c p fun x => x.queuedIn u s.timeNs).perform c p ((s.pump c p).rowOp u w) := by
  have hunit : u ≠ .broadcast ∧ u ≠ .transfer ∧ u ≠ .kernel := by
    have hu := h.1
    unfold rowUnit at hu
    split at hu <;> cases hu
    all_goals first
      | exact absurd ‹_› bqs
      | exact ⟨nofun, nofun, nofun⟩
  have hs : ((s.pump c p).rowOp u w).steps = 0 := by
    unfold RowOp.steps
    cases u <;> simp_all [Pump.rowOp]
  have hr (t : State) : t.opReady c p ((s.pump c p).rowOp u w) = true := by
    unfold State.opReady
    cases u <;> simp_all [Pump.rowOp]
  rw [State.issueRow_queues h, State.advance_whole h.2.1 (hr _) hs]

/-- With no entry of wrong parity the check of a read changes nothing. -/
theorem State.checkAcc_sound (h : (s.pump c p).accBad = []) (lo n : Nat) : s.checkAcc c p lo n = s := by
  rw [State.checkAcc, h]
  rfl

/-- An element-wise word acts on the accumulator entries of the pump alone. -/
theorem State.issueRow_ew (h : RowReady s c p .multiply w) (hw : wOp w = 0x25) (sound : (s.pump c p).accBad = []) :
    s.issueRow c p w = s.onPump c p fun x => (x.queuedIn .multiply s.timeNs).ew w ((s.pump c p).reg (ewSrc2 w)) := by
  rw [State.issueRow_acts h (by rw [hw]; decide) (by rw [hw]; decide)]
  generalize ht : (s.onPump c p fun x => x.queuedIn .multiply s.timeNs) = t
  have hsound : (t.pump c p).accBad = [] := by simpa [← ht, Pump.queuedIn] using sound
  have hchecks (l : List Nat) : t.each l (fun u e => u.checkAcc c p e (ewN w)) = t := by
    rw [State.each]
    exact List.foldlRecOn (motive := fun v => v = t) _ _ rfl fun v hv e _ => by rw [hv, State.checkAcc_sound hsound]
  have hreg : ((s.pump c p).rowOp .multiply w).reg = (s.pump c p).reg (ewSrc2 w) := if_pos hw
  have hword : ((s.pump c p).rowOp .multiply w).word = w := rfl
  have hunit : ((s.pump c p).rowOp .multiply w).unit = .multiply := rfl
  rw [State.perform]
  simp only [hunit, hword, hw, hchecks, hreg]
  rw [← ht, State.onPump_onPump]

end

end Sys2Proof.Machine


/-! ### BQS: what the queue has room for, then the word waits with the rest -/

namespace Sys2Proof.Machine

theorem readEach_length {α β : Type} (f : State → α → State × β) (l : List α) (s : State) : (readEach f s l).2.length = l.length := by
  induction l generalizing s with
  | nil => rfl
  | cons a l ih => simp [readEach, ih]

section
variable {c : Chan} {p : PumpIx} {s : State} {o : RowOp}

/-- Reads of own granules leave the pump's operations and its broadcast queue. -/
theorem State.readOwns_ctl (s : State) (c : Chan) (p : PumpIx) (l : List Nat) :
    ((readEach (fun t g => t.readOwn c p g) s l).1.pump c p).ctl = (s.pump c p).ctl :=
  readEach_shown (O := ctlOf c p) _ s l fun g t => t.readOwn_shown c p g

/-- Granules that a BQS appends now. -/
def State.bqsNow (s : State) (c : Chan) (p : PumpIx) (o : RowOp) : Nat := min (bqsTotal o.word - o.pos) (bqSize - (s.pump c p).bq.length)

theorem State.doBqs_eq (s : State) (c : Chan) (p : PumpIx) (o : RowOp) : s.doBqs c p o =
    ((readEach (fun t g => t.readOwn c p g) s ((List.range (s.bqsNow c p o)).map fun i => o.bqsAt (o.pos + i))).1.onPump c p fun q =>
      { q with bq := q.bq ++ (readEach (fun t g => t.readOwn c p g) s
        ((List.range (s.bqsNow c p o)).map fun i => o.bqsAt (o.pos + i))).2.map fun g => (g, 0) },
     { o with pos := o.pos + s.bqsNow c p o }) := rfl

theorem State.doBqs_todo (s : State) (c : Chan) (p : PumpIx) (o : RowOp) : ((s.doBqs c p o).1.pump c p).todo = (s.pump c p).todo := by
  rw [State.doBqs_eq]
  simpa using Pump.todo_of_ctl (s.readOwns_ctl c p _)

theorem State.doBqs_queued (s : State) (c : Chan) (p : PumpIx) (o : RowOp) :
    ((s.doBqs c p o).1.pump c p).queued = (s.pump c p).queued := by
  rw [State.doBqs_eq]
  simpa using Pump.queued_of_ctl (s.readOwns_ctl c p _)

theorem State.doBqs_bq_length (s : State) (c : Chan) (p : PumpIx) (o : RowOp) :
    ((s.doBqs c p o).1.pump c p).bq.length = (s.pump c p).bq.length + s.bqsNow c p o := by
  rw [State.doBqs_eq]
  simpa [readEach_length] using congrArg List.length (Pump.bq_of_ctl (s.readOwns_ctl c p _))

theorem bqsTotal_pos (w : BitVec 64) : 0 < bqsTotal w := Nat.mul_pos (Nat.succ_pos _) (Nat.succ_pos _)

/-- The only waiting BQS appends once: it has appended all, or the queue is full. -/
theorem State.advance_bqs (i : Fin 7) (h : (s.pump c p).todo = [o]) (hu : o.unit = .broadcast) (room : (s.pump c p).bq.length < bqSize)
    (hq : (s.pump c p).queued[i.val] ≠ 0) : s.advance c p = (s.doBqs c p o).1.onPump c p fun x =>
      { x with todo := if (s.doBqs c p o).2.pos < bqsTotal o.word then [(s.doBqs c p o).2] else [] } := by
  have hsteps : o.steps = bqsTotal o.word := by rw [RowOp.steps, hu]
  have hready (t : State) (e : RowOp) (he : e.unit = .broadcast) : t.opReady c p e = decide ((t.pump c p).bq.length < bqSize) := by
    rw [State.opReady, he]
  have htodo := s.doBqs_todo c p o
  rw [h] at htodo
  have hact : s.act c p 0 o = (s.doBqs c p o).1.onPump c p fun x =>
      { x with todo := if (s.doBqs c p o).2.pos < bqsTotal o.word then [(s.doBqs c p o).2] else [] } := by
    rw [State.act, if_neg (by rw [hsteps]; exact (bqsTotal_pos _).ne'), if_pos hu]
    generalize s.doBqs c p o = r at htodo ⊢
    obtain ⟨t, o'⟩ := r
    refine State.onPump_congr ?_
    dsimp only at htodo ⊢
    rw [hsteps, htodo]
    rfl
  rw [← hact]
  generalize ht : s.act c p 0 o = t at hact
  have hlen : (t.pump c p).bq.length = (s.pump c p).bq.length + s.bqsNow c p o := by
    rw [hact]
    simpa using s.doBqs_bq_length c p o
  have hpos : (s.doBqs c p o).2.pos = o.pos + s.bqsNow c p o := rfl
  have hrest : t.nextOp c p (t.pump c p).todo = none := by
    have hl : (t.pump c p).todo = if (s.doBqs c p o).2.pos < bqsTotal o.word then [(s.doBqs c p o).2] else [] := by
      rw [hact, State.onPump_pump]
    rw [hl]
    split
    · rename_i hmore
      have hfull : ¬(t.pump c p).bq.length < bqSize := by
        rw [hlen]
        rw [hpos] at hmore
        simp only [State.bqsNow] at hmore ⊢
        omega
      rw [State.nextOp_one, hready t (s.doBqs c p o).2 hu, decide_eq_false hfull]
      rfl
    · rfl
  have hqueued : (t.pump c p).queued[i.val] ≠ 0 := by
    rw [hact, State.onPump_pump]
    simpa only [s.doBqs_queued c p o] using hq
  have hfuel : ((s.pump c p).todo.map fun o => 1 + o.steps).sum + 1 = o.steps + 2 := by
    simp [h]
    omega
  have hstep : s.advanceN c p (o.steps + 2) = t := by
    rw [State.advanceN]
    simp only [h, State.nextOp_one, hready s o hu, decide_eq_true room, if_true, List.getElem?_cons_zero, ht]
    exact State.advanceN_rests _ hrest
  rw [State.advance, hfuel, hstep, State.onPump_same (Pump.wake_of_queued i hqueued)]

end

end Sys2Proof.Machine


/-! ### DOT: its steps on a sound pump -/

namespace Sys2Proof.Machine

/-- The accumulator after every lane of an entry was written. -/
def laneWrites (acc : SMap (BitVec 32)) (e : Nat) (f : Nat → BitVec 32) (ls : List Nat) : SMap (BitVec 32) :=
  ls.foldl (fun m l => m.write 0 (e * 512 + l) (f l)) acc

theorem Pump.foldl_setEntry (e : Nat) (f : Nat → BitVec 32) (ls : List Nat) (q : Pump) :
    ls.foldl (fun t l => t.setEntry e l (f l)) q = { q with acc := laneWrites q.acc e f ls } := by
  induction ls generalizing q with
  | nil => rfl
  | cons l ls ih => rw [List.foldl_cons, ih]; rfl

/-- Writing an entry's lanes changes the accumulator and its parity alone. -/
theorem Pump.setLanes_eq (q : Pump) (e : Nat) (f : Nat → BitVec 32) : q.setLanes e f =
    { q with acc := laneWrites q.acc e f (List.range 512), accBad := q.accBad.filter fun k => k / 512 != e } := by
  rw [Pump.setLanes, Pump.foldl_setEntry]

/-- The pump with other waiting operations. -/
def Pump.withTodo (q : Pump) (l : List RowOp) : Pump := { q with todo := l }

theorem Pump.withTodo_setLanes (q : Pump) (l : List RowOp) (e : Nat) (f : Nat → BitVec 32) :
    (q.withTodo l).setLanes e f = (q.setLanes e f).withTodo l := by
  simp only [Pump.setLanes_eq, Pump.withTodo]

theorem Pump.withTodo_dotStart (q : Pump) (l : List RowOp) (w : BitVec 64) : (q.withTodo l).dotStart w = (q.dotStart w).withTodo l := by
  have folds (ls : List Nat) (q : Pump) : ls.foldl (fun t i => t.setLanes (dotAcc w + i) fun _ => 0) (q.withTodo l) =
      (ls.foldl (fun t i => t.setLanes (dotAcc w + i) fun _ => 0) q).withTodo l := by
    induction ls generalizing q with
    | nil => rfl
    | cons i ls ih => rw [List.foldl_cons, Pump.withTodo_setLanes, ih, List.foldl_cons]
  unfold Pump.dotStart
  split
  · exact folds _ q
  · rfl

/-- The first step starts the DOT. -/
def Pump.dotAt (q : Pump) (o : RowOp) : Pump := if o.pos = 0 then q.dotStart o.word else q

/-- One step of a DOT with the queue entries that it takes. -/
def Pump.dotNext (q : Pump) (o : RowOp) (x : (Nat × Bool × Nat × Nat × Nat) × Nat) : Pump × RowOp :=
  ({ q with bq := q.bq.drop (stepNeeds x) } : Pump).dotStepOn o x ((q.bq.take (stepNeeds x)).map (·.1))

theorem dotKind_of_steps {w : BitVec 64} {n : Nat} {x : (Nat × Bool × Nat × Nat × Nat) × Nat} (h : (dotSteps w)[n]? = some x) :
    ∃ k, dotKind (fmtOfCode (dotA w)) (fmtOfCode (dotB w)) = some k := by
  unfold dotSteps at h
  split at h
  · cases h
  · exact ⟨_, ‹_›⟩

section
variable (q : Pump) (o : RowOp) (x : (Nat × Bool × Nat × Nat × Nat) × Nat) (gs : List Granule)

/-- One step writes one entry's lanes. -/
theorem Pump.dotStepOn_writes : ∃ f : Nat → BitVec 32, (q.dotStepOn o x gs).1 = q ∨
    (q.dotStepOn o x gs).1 = q.setLanes (dotAcc o.word + x.2) f := by
  unfold Pump.dotStepOn
  dsimp only
  split
  · exact ⟨fun _ => 0, .inl rfl⟩
  · exact ⟨_, .inr rfl⟩

theorem Pump.dotStepOn_view {γ : Type} (v : Pump → γ) (hv : ∀ (q : Pump) acc bad, v { q with acc := acc, accBad := bad } = v q) :
    v (q.dotStepOn o x gs).1 = v q := by
  obtain ⟨f, h | h⟩ := q.dotStepOn_writes o x gs <;> rw [h]
  exact q.setLanes_view v hv _ f

theorem Pump.setLanes_accBad {q : Pump} (h : q.accBad = []) (e : Nat) (f : Nat → BitVec 32) : (q.setLanes e f).accBad = [] := by
  rw [Pump.setLanes_eq, h]
  rfl

theorem Pump.dotStepOn_accBad (h : q.accBad = []) : (q.dotStepOn o x gs).1.accBad = [] := by
  obtain ⟨f, e | e⟩ := q.dotStepOn_writes o x gs <;> rw [e]
  · exact h
  · exact Pump.setLanes_accBad h _ f

theorem Pump.dotStepOn_word : (q.dotStepOn o x gs).2.word = o.word ∧ (q.dotStepOn o x gs).2.unit = o.unit := by
  unfold Pump.dotStepOn
  dsimp only
  split <;> exact ⟨rfl, rfl⟩

theorem Pump.dotStepOn_pos {k : DotKind} (h : dotKind (fmtOfCode (dotA o.word)) (fmtOfCode (dotB o.word)) = some k) :
    (q.dotStepOn o x gs).2.pos = o.pos + 1 := by
  unfold Pump.dotStepOn
  simp only [h]

theorem Pump.withTodo_dotStepOn (l : List RowOp) : (q.withTodo l).dotStepOn o x gs =
    ((q.dotStepOn o x gs).1.withTodo l, (q.dotStepOn o x gs).2) := by
  unfold Pump.dotStepOn
  dsimp only
  split
  · rfl
  · rw [Pump.withTodo_setLanes]
    rfl

end

theorem Pump.withTodo_dotNext (q : Pump) (l : List RowOp) (o : RowOp) (x : (Nat × Bool × Nat × Nat × Nat) × Nat) :
    (q.withTodo l).dotNext o x = ((q.dotNext o x).1.withTodo l, (q.dotNext o x).2) :=
  Pump.withTodo_dotStepOn { q with bq := q.bq.drop (stepNeeds x) } o x _ l

theorem Pump.dotRun_succ (q : Pump) (o : RowOp) (n : Nat) {x : (Nat × Bool × Nat × Nat × Nat) × Nat}
    (hx : (dotSteps o.word)[o.pos]? = some x) : q.dotRun o (n + 1) = (q.dotNext o x).1.dotRun (q.dotNext o x).2 n := by
  rw [Pump.dotRun]
  simp only [hx]
  rfl

theorem Pump.withTodo_dotRun (n : Nat) (q : Pump) (l : List RowOp) (o : RowOp) :
    (q.withTodo l).dotRun o n = (q.dotRun o n).withTodo l := by
  induction n generalizing q o with
  | zero => rfl
  | succ n ih =>
    cases hx : (dotSteps o.word)[o.pos]? with
    | none =>
      rw [Pump.dotRun, Pump.dotRun]
      simp only [hx]
    | some x => rw [Pump.dotRun_succ _ _ _ hx, Pump.dotRun_succ _ _ _ hx, Pump.withTodo_dotNext, ih]

/-- A view of a pump that shows neither the accumulator nor the broadcast queue is the same after the steps of a DOT. -/
theorem Pump.dotRun_view {γ : Type} (v : Pump → γ) (hv : ∀ (q : Pump) acc bad, v { q with acc := acc, accBad := bad } = v q)
    (hb : ∀ (q : Pump) bq, v { q with bq := bq } = v q) (n : Nat) (q : Pump) (o : RowOp) : v (q.dotRun o n) = v q := by
  induction n generalizing q o with
  | zero => rfl
  | succ n ih =>
    cases hx : (dotSteps o.word)[o.pos]? with
    | none =>
      rw [Pump.dotRun]
      simp only [hx]
    | some x =>
      rw [Pump.dotRun_succ _ _ _ hx, ih]
      exact (Pump.dotStepOn_view _ _ _ _ v hv).trans (hb q _)

/-! ### The steps as the state performs them -/

/-- Reads that change nothing of a state. -/
theorem readEach_still {α β : Type} {f : State → α → State × β} {s : State} {l : List α} {v : α → β} (h : ∀ a ∈ l, f s a = (s, v a)) :
    readEach f s l = (s, l.map v) := by
  induction l with
  | nil => rfl
  | cons a l ih =>
    rw [readEach, h a (by simp)]
    dsimp only
    rw [ih fun b hb => h b (by simp [hb])]
    rfl

section
variable {c : Chan} {p : PumpIx} {s : State} {o : RowOp} {x : (Nat × Bool × Nat × Nat × Nat) × Nat}

/-- Sound entries are taken as they stand. -/
theorem State.takeEntries_sound (h : ∀ e ∈ (s.pump c p).bq, e.2 = 0) (n : Nat) : s.takeEntries c p n =
    (s.onPump c p fun q => { q with bq := q.bq.drop n }, ((s.pump c p).bq.take n).map (·.1)) := by
  unfold State.takeEntries
  exact readEach_still fun e he => if_pos (h e (List.mem_of_mem_take he))

theorem State.checkLanes_sound (h : (s.chan c).badLanes = []) : s.checkLanes c p = s := by
  rw [State.checkLanes]
  simp [h]

theorem RowSound.onPump (h : RowSound s c p) {f : Pump → Pump} (hbq : ∀ e ∈ (f (s.pump c p)).bq, e ∈ (s.pump c p).bq)
    (hup : (f (s.pump c p)).laneUp = (s.pump c p).laneUp) (hbad : (f (s.pump c p)).accBad = []) : RowSound (s.onPump c p f) c p := by
  obtain ⟨hq, hu, -, hl⟩ := h
  refine ⟨fun e he => hq e (hbq e (by simpa using he)), by simpa [hup] using hu, by simpa using hbad, by simpa using hl⟩

theorem Pump.dotAt_view {γ : Type} (v : Pump → γ) (hv : ∀ (q : Pump) acc bad, v { q with acc := acc, accBad := bad } = v q) (q : Pump)
    (o : RowOp) : v (q.dotAt o) = v q := by
  unfold Pump.dotAt
  split
  · exact q.dotStart_view v hv o.word
  · rfl

theorem Pump.dotAt_accBad {q : Pump} (h : q.accBad = []) (o : RowOp) : (q.dotAt o).accBad = [] := by
  have folds (ls : List Nat) (q : Pump) (h : q.accBad = []) :
      (ls.foldl (fun t i => t.setLanes (dotAcc o.word + i) fun _ => 0) q).accBad = [] := by
    induction ls generalizing q with
    | nil => exact h
    | cons i ls ih =>
      rw [List.foldl_cons]
      exact ih _ (Pump.setLanes_accBad h _ _)
  unfold Pump.dotAt Pump.dotStart
  split
  · split
    · exact folds _ _ h
    · exact h
  · exact h

/-- On a sound pump a step of a DOT changes the pump alone. -/
theorem State.doDotStep_sound (h : RowSound s c p) (hx : (dotSteps o.word)[o.pos]? = some x) : s.doDotStep c p o =
    (s.onPump c p fun q => ((q.dotAt o).dotNext o x).1, (((s.pump c p).dotAt o).dotNext o x).2) := by
  have hstart : (if o.pos = 0 then s.onPump c p fun q => q.dotStart o.word else s) = s.onPump c p fun q => q.dotAt o := by
    unfold Pump.dotAt
    split
    · rfl
    · exact (State.onPump_same rfl).symm
  have h0 : RowSound (s.onPump c p fun q => q.dotAt o) c p :=
    h.onPump (fun e he => by rwa [Pump.dotAt_view Pump.bq (fun _ _ _ => rfl)] at he) (Pump.dotAt_view Pump.laneUp (fun _ _ _ => rfl) _ _)
      (Pump.dotAt_accBad h.2.2.1 o)
  rw [State.doDotStep]
  simp only [hx, hstart]
  generalize ht : (s.onPump c p fun q => q.dotAt o) = t at h0
  obtain ⟨hbq, hup, hbad, hlanes⟩ := h0
  have rows (lo hi : Nat) : t.checkRows c p .lane lo hi = t := t.checkRows_sound c p .lane lo hi hup
  rw [rows, rows, State.checkAcc_sound hbad, State.checkLanes_sound hlanes, State.takeEntries_sound hbq]
  dsimp only
  rw [State.onPump_onPump, State.onPump_pump, ← ht, State.onPump_onPump, State.onPump_pump]
  rfl

end

end Sys2Proof.Machine


/-! ### DOT runs to its end, or waits; ISSUE -/

namespace Sys2Proof.Machine

/-- Queue entries that the steps of a DOT from a place on take. -/
def dotLeft (o : RowOp) : Nat := (((dotSteps o.word).drop o.pos).map stepNeeds).sum

theorem dotLeft_step {o : RowOp} {x : (Nat × Bool × Nat × Nat × Nat) × Nat} (hx : (dotSteps o.word)[o.pos]? = some x) :
    dotLeft o = stepNeeds x + (((dotSteps o.word).drop (o.pos + 1)).map stepNeeds).sum := by
  obtain ⟨hlt, hx⟩ := List.getElem?_eq_some_iff.1 hx
  rw [dotLeft, List.drop_eq_getElem_cons hlt, hx]
  rfl

section
variable {c : Chan} {p : PumpIx}

theorem State.opReady_dot {s : State} {o : RowOp} {x : (Nat × Bool × Nat × Nat × Nat) × Nat} (hu : o.unit = .multiply)
    (hw : wOp o.word = 0x20) (hx : (dotSteps o.word)[o.pos]? = some x) :
    s.opReady c p o = decide (stepNeeds x ≤ (s.pump c p).bq.length) := by
  rw [State.opReady]
  simp only [hu, hw, hx]
  rfl

/-- A pump whose only waiting operation is a DOT, with what the next steps need (R66, R96). -/
structure DotWaits (s : State) (c : Chan) (p : PumpIx) (o : RowOp) : Prop where
  todo : (s.pump c p).todo = [o]
  unit : o.unit = .multiply
  word : wOp o.word = 0x20
  sound : RowSound s c p
  left : dotLeft o ≤ (s.pump c p).bq.length

section
variable {s : State} {o : RowOp} {x : (Nat × Bool × Nat × Nat × Nat) × Nat}

theorem DotWaits.ready (h : DotWaits s c p o) (hx : (dotSteps o.word)[o.pos]? = some x) : s.opReady c p o = true := by
  have hl := h.left
  rw [dotLeft_step hx] at hl
  rw [State.opReady_dot h.unit h.word hx, decide_eq_true (by omega)]

/-- What waits after a step: the DOT until its last step is done. -/
def dotWaiting (o : RowOp) : List RowOp := if o.pos < (dotSteps o.word).length then [o] else []

theorem Pump.dotNext_pos (q : Pump) (hx : (dotSteps o.word)[o.pos]? = some x) : (q.dotNext o x).2.pos = o.pos + 1 := by
  obtain ⟨k, hk⟩ := dotKind_of_steps hx
  exact Pump.dotStepOn_pos _ _ _ _ hk

theorem Pump.dotNext_word (q : Pump) : (q.dotNext o x).2.word = o.word ∧ (q.dotNext o x).2.unit = o.unit := Pump.dotStepOn_word ..

theorem DotWaits.act (h : DotWaits s c p o) (hx : (dotSteps o.word)[o.pos]? = some x) : s.act c p 0 o =
    s.onPump c p fun q => ((q.dotAt o).dotNext o x).1.withTodo (dotWaiting (((s.pump c p).dotAt o).dotNext o x).2) := by
  have hsteps : o.steps = (dotSteps o.word).length := by
    rw [RowOp.steps]
    simp only [h.unit, h.word, if_true]
  have hlt : o.pos < (dotSteps o.word).length := (List.getElem?_eq_some_iff.1 hx).1
  rw [State.act, if_neg (by omega), if_neg (by rw [h.unit]; nofun), State.doDotStep_sound h.sound hx]
  dsimp only
  rw [State.onPump_onPump]
  refine State.onPump_congr ?_
  have htodo : (((s.pump c p).dotAt o).dotNext o x).1.todo = [o] := by
    rw [← h.todo]
    exact (Pump.dotStepOn_view _ _ _ _ Pump.todo fun _ _ _ => rfl).trans (Pump.dotAt_view Pump.todo (fun _ _ _ => rfl) _ _)
  rw [htodo, hsteps, dotWaiting, (Pump.dotNext_word _).1]
  rfl

/-- After a step that was not the last the DOT waits for its next. -/
theorem DotWaits.after (h : DotWaits s c p o) (hx : (dotSteps o.word)[o.pos]? = some x) {o' : RowOp}
    (ho : (((s.pump c p).dotAt o).dotNext o x).2 = o') :
    DotWaits (s.onPump c p fun q => ((q.dotAt o).dotNext o x).1.withTodo [o']) c p o' := by
  have hbq : (((s.pump c p).dotAt o).dotNext o x).1.bq = (s.pump c p).bq.drop (stepNeeds x) :=
    (Pump.dotStepOn_view _ _ _ _ Pump.bq fun _ _ _ => rfl).trans
      (congrArg (List.drop (stepNeeds x)) (Pump.dotAt_view Pump.bq (fun _ _ _ => rfl) (s.pump c p) o))
  obtain ⟨hword, hunit⟩ := Pump.dotNext_word (o := o) (x := x) ((s.pump c p).dotAt o)
  have hpos := Pump.dotNext_pos ((s.pump c p).dotAt o) hx
  rw [ho] at hword hunit hpos
  refine ⟨by simp [Pump.withTodo], hunit.trans h.unit, by rw [hword, h.word], ?_, ?_⟩
  · refine h.sound.onPump (fun e he => List.mem_of_mem_drop (hbq ▸ he)) ?_ (Pump.dotStepOn_accBad _ _ _ _ (Pump.dotAt_accBad h.sound.2.2.1 o))
    exact (Pump.dotStepOn_view _ _ _ _ Pump.laneUp fun _ _ _ => rfl).trans (Pump.dotAt_view Pump.laneUp (fun _ _ _ => rfl) _ _)
  · have hl := h.left
    rw [dotLeft_step hx] at hl
    rw [State.onPump_pump, Pump.withTodo, hbq, List.length_drop, dotLeft, hword, hpos]
    omega

end

/-- A waiting DOT whose next step has its entries does the step. -/
theorem DotWaits.advanceN_succ {s : State} {o : RowOp} {x : (Nat × Bool × Nat × Nat × Nat) × Nat} (h : DotWaits s c p o)
    (hx : (dotSteps o.word)[o.pos]? = some x) (n : Nat) : s.advanceN c p (n + 1) = (s.act c p 0 o).advanceN c p n := by
  rw [State.advanceN]
  simp only [h.todo, State.nextOp_one, h.ready hx, if_true, List.getElem?_cons_zero]

/-- The only waiting operation is a DOT on a sound pump, with all that its remaining steps take in the queue: it runs to its end. -/
theorem State.advanceN_dot (k m : Nat) : ∀ (s : State) (o : RowOp), DotWaits s c p o → o.pos + (k + 1) = (dotSteps o.word).length →
    s.advanceN c p (k + 1 + m) = s.onPump c p fun q => ((q.dotAt o).dotRun o (k + 1)).withTodo [] := by
  induction k with
  | zero =>
    intro s o h hk
    obtain ⟨x, hx⟩ : ∃ x, (dotSteps o.word)[o.pos]? = some x := ⟨_, List.getElem?_eq_getElem (by omega)⟩
    have hend : dotWaiting (((s.pump c p).dotAt o).dotNext o x).2 = [] := by
      refine if_neg ?_
      rw [Pump.dotNext_pos _ hx, (Pump.dotNext_word _).1]
      omega
    rw [Nat.zero_add, Nat.add_comm 1 m, h.advanceN_succ hx, h.act hx, hend, State.advanceN_rests]
    · refine State.onPump_congr ?_
      rw [Pump.dotRun_succ _ _ _ hx, Pump.dotRun]
    · rw [State.onPump_pump]
      rfl
  | succ k ih =>
    intro s o h hk
    obtain ⟨x, hx⟩ : ∃ x, (dotSteps o.word)[o.pos]? = some x := ⟨_, List.getElem?_eq_getElem (by omega)⟩
    generalize ho : (((s.pump c p).dotAt o).dotNext o x).2 = o'
    have hpos : o'.pos = o.pos + 1 := ho ▸ Pump.dotNext_pos _ hx
    have hword : o'.word = o.word := ho ▸ (Pump.dotNext_word _).1
    have hmore : dotWaiting o' = [o'] := if_pos (by rw [hpos, hword]; omega)
    have hat (q : Pump) : q.dotAt o' = q := if_neg (by omega)
    rw [show k + 1 + 1 + m = k + 1 + m + 1 by omega, h.advanceN_succ hx, h.act hx, ho, hmore,
      ih _ o' (h.after hx ho) (by rw [hpos, hword]; omega), State.onPump_onPump]
    refine State.onPump_congr ?_
    rw [hat, Pump.withTodo_dotRun, Pump.dotRun_succ _ _ _ hx, ho]
    rfl

/-- A DOT word with all that its steps take in the queue runs to its end. -/
theorem State.issueRow_dot {s : State} {w : BitVec 64} (h : RowReady s c p .multiply w) (hw : wOp w = 0x20) (sound : RowSound s c p)
    (left : dotTakes w ≤ (s.pump c p).bq.length) : s.issueRow c p w = s.onPump c p fun x => x.dotDone w s.timeNs := by
  rw [State.issueRow_queues h]
  generalize ho : (s.pump c p).rowOp .multiply w = o
  have hword : o.word = w := by rw [← ho]; rfl
  have hunit : o.unit = .multiply := by rw [← ho]; rfl
  have hpos : o.pos = 0 := by rw [← ho]; rfl
  have hwaits : DotWaits (s.onPump c p fun x => { x.queuedIn .multiply s.timeNs with todo := [o] }) c p o := by
    refine ⟨by simp, hunit, by rw [hword, hw], sound.onPump (fun e he => he) rfl sound.2.2.1, ?_⟩
    rw [dotLeft, hpos, hword, List.drop_zero, State.onPump_pump]
    exact left
  cases hk : (dotSteps w).length with
  | zero =>
    have hnone : dotSteps w = [] := List.length_eq_zero_iff.1 hk
    have hr (t : State) : t.opReady c p o = true := by
      rw [State.opReady]
      simp [hunit, hword, hnone]
    rw [State.advance_whole h.2.1 (hr _) (by rw [RowOp.steps]; simp [hunit, hword, hnone]), State.perform]
    simp only [hunit, hword, hw]
    rw [State.onPump_onPump]
    refine State.onPump_congr ?_
    rw [Pump.dotDone, hk, Pump.dotRun]
  | succ k =>
    have hsteps : o.steps = k + 1 := by
      rw [RowOp.steps]
      simp only [hunit, hword, hw, hk, if_true]
    have hat (q : Pump) : q.dotAt o = q.dotStart w := (if_pos hpos).trans (by rw [hword])
    have hfuel : (((s.onPump c p fun x => { x.queuedIn .multiply s.timeNs with todo := [o] }).pump c p).todo.map
        fun o => 1 + o.steps).sum + 1 = k + 1 + 2 := by
      simp [hsteps]
      omega
    have hview {γ : Type} (v : Pump → γ) (hv : ∀ (q : Pump) acc bad, v { q with acc := acc, accBad := bad } = v q)
        (hb : ∀ (q : Pump) bq, v { q with bq := bq } = v q) (q : Pump) : v ((q.dotStart w).dotRun o (k + 1)) = v q :=
      (Pump.dotRun_view v hv hb (k + 1) _ o).trans (q.dotStart_view v hv w)
    rw [State.advance, hfuel, State.advanceN_dot k 2 _ o hwaits (by rw [hpos, hword]; omega), State.onPump_same (f := Pump.wake),
      State.onPump_onPump]
    · refine State.onPump_congr ?_
      have hall : ({ (s.pump c p).queuedIn .multiply s.timeNs with todo := [o] } : Pump) =
        ((s.pump c p).queuedIn .multiply s.timeNs).withTodo [o] := rfl
      rw [hall, hat, Pump.withTodo_dotStart, Pump.withTodo_dotRun, Pump.dotDone, hk, ho]
      have htodo : ((((s.pump c p).queuedIn .multiply s.timeNs).dotStart w).dotRun o (k + 1)).todo = [] :=
        (hview Pump.todo (fun _ _ _ => rfl) (fun _ _ => rfl) _).trans h.2.1
      generalize (((s.pump c p).queuedIn .multiply s.timeNs).dotStart w).dotRun o (k + 1) = q at htodo
      rw [Pump.withTodo, Pump.withTodo, ← htodo]
    · refine Pump.wake_of_queued (unitIx .multiply) ?_
      rw [State.onPump_pump, Pump.withTodo, hat]
      simp only [hview Pump.queued (fun _ _ _ => rfl) (fun _ _ => rfl)]
      simp [Pump.queuedIn]

end

end Sys2Proof.Machine


/-! ### Row words of the program -/

namespace Sys2Proof.Machine

section
variable {c : Chan} {p : PumpIx} {s : State} {f : BitVec 58} {u : RowUnit} {n : Nat}

theorem rowWord_issues (h : AtOp s c p n f) : rowWord n c p f s = .next (s.issueRow c p (ctlWord n f)) := State.atWord_acts s c p _ _ h

/-- A DOT whose first step's entries are not in the queue waits. -/
theorem State.issueRow_dot_waits {w : BitVec 64} {x : (Nat × Bool × Nat × Nat × Nat) × Nat}
    {rest : List ((Nat × Bool × Nat × Nat × Nat) × Nat)} (h : RowReady s c p .multiply w) (hw : wOp w = 0x20)
    (hx : dotSteps w = x :: rest) (few : (s.pump c p).bq.length < stepNeeds x) : s.issueRow c p w =
      s.onPump c p fun q => { q.queuedIn .multiply s.timeNs with todo := [(s.pump c p).rowOp .multiply w] } := by
  have hfirst : (dotSteps ((s.pump c p).rowOp .multiply w).word)[((s.pump c p).rowOp .multiply w).pos]? = some x := by
    have e : (dotSteps w)[0]? = some x := by rw [hx]; rfl
    exact e
  rw [State.issueRow_queues h, State.advance_waits (o := (s.pump c p).rowOp .multiply w) (by simp)]
  rw [State.opReady_dot (o := (s.pump c p).rowOp .multiply w) rfl hw hfirst, decide_eq_false]
  simpa [Pump.queuedIn] using few

theorem State.issueRow_bqs_waits {w : BitVec 64} (h : RowReady s c p .broadcast w) (full : bqSize ≤ (s.pump c p).bq.length) :
    s.issueRow c p w =
      s.onPump c p fun q => { q.queuedIn .broadcast s.timeNs with todo := [(s.pump c p).rowOp .broadcast w] } := by
  rw [State.issueRow_queues h, State.advance_waits (o := (s.pump c p).rowOp .broadcast w) (by simp)]
  refine decide_eq_false ?_
  simpa [Pump.queuedIn] using full

theorem State.issueRow_bqs {w : BitVec 64} (h : RowReady s c p .broadcast w) (room : (s.pump c p).bq.length < bqSize) :
    s.issueRow c p w =
      let r := (s.onPump c p fun q => { q.queuedIn .broadcast s.timeNs with
        todo := [(s.pump c p).rowOp .broadcast w] }).doBqs c p ((s.pump c p).rowOp .broadcast w)
      r.1.onPump c p fun x => { x with todo := if r.2.pos < bqsTotal w then [r.2] else [] } := by
  rw [State.issueRow_queues h]
  exact State.advance_bqs (unitIx .broadcast) (by simp) rfl (by simpa [Pump.queuedIn] using room) (by simp [Pump.queuedIn])

/-- A row word other than DOT, BQS and EW acts as its opcode says. -/
theorem State.issueRow_unit (h : RowReady s c p u (ctlWord n f)) (hn : n < 64) (whole : n ≠ 0x20 ∧ n ≠ 0x21) :
    s.issueRow c p (ctlWord n f) = (s.onPump c p fun x => x.queuedIn u s.timeNs).perform c p ((s.pump c p).rowOp u (ctlWord n f)) :=
  State.issueRow_acts h (by rw [wOp_ctlWord hn]; exact whole.1) (by rw [wOp_ctlWord hn]; exact whole.2)

theorem State.perform_acl {o : RowOp} (hu : o.unit = .accIn) (hw : wOp o.word = 0x22) : s.perform c p o = s.doAcl c p o := by
  rw [State.perform]
  simp only [hu, hw]

theorem State.perform_acs {o : RowOp} (hu : o.unit = .accOut) (hw : wOp o.word = 0x23) : s.perform c p o = s.doAcs c p o := by
  rw [State.perform]
  simp only [hu, hw]

theorem State.perform_acr {o : RowOp} (hu : o.unit = .accOut) (hw : wOp o.word = 0x24) : s.perform c p o = s.doAcr c p o := by
  rw [State.perform]
  simp only [hu, hw]

theorem State.perform_lld {o : RowOp} (hu : o.unit = .laneLoad) (hw : wOp o.word = 0x26) : s.perform c p o = s.doLld c p o := by
  rw [State.perform]
  simp only [hu, hw]

/-- A word that is no row word. -/
theorem State.issueRow_foreign {w : BitVec 64} (h : wOp w < 0x20 ∨ 0x26 < wOp w) : s.issueRow c p w = s.pumpFault c p .descriptor 0 := by
  have hu : rowUnit (wOp w) = none := by
    unfold rowUnit
    split
    case h_8 => rfl
    all_goals omega
  rw [State.issueRow]
  simp only [hu]

/-- ISSUE issues x[RS1] as a row word. -/
theorem execIssue_issues (h : AtScalar s c p 0x28 ⟨false, true, false, 0⟩ f) :
    execIssue c p f s = .next (s.issueRow c p ((s.pump c p).reg (fRs1 f))) := by
  rw [execIssue, State.atWord_acts s c p _ _ h.1, if_pos h.2]

/-- An element-wise command at a word of its function. -/
theorem ewWord_acts {fn : Nat} (hat : AtWord s c p (ctlWord 0x25 f)) (h : RowReady s c p .multiply (ctlWord 0x25 f))
    (sound : (s.pump c p).accBad = []) (hfn : ewFn f = fn) : ewWord fn c p f s = .next (s.onPump c p fun x =>
      (x.queuedIn .multiply s.timeNs).ew (ctlWord 0x25 f) ((s.pump c p).reg (ewSrc2 (ctlWord 0x25 f)))) := by
  rw [ewWord, if_pos hfn, rowWord_issues hat, State.issueRow_ew h (wOp_ctlWord (by decide) f) sound]

end

/-- Settles O8: a command whose function is the word's issues the word, and the element-wise operation acts at once. -/
theorem elementWiseWordsAct : Obligations.ElementWiseWordsAct := by
  unfold Obligations.ElementWiseWordsAct
  intro c p f s w gives hat h sound
  have acts {fn : Nat} (hfn : ewFn f = fn) : ewWord fn c p f s = gives := ewWord_acts hat h sound hfn
  simp only [exec]
  exact ⟨acts, acts, acts, acts, acts, acts, acts, acts, acts, acts, acts, acts, acts, acts, acts, acts, acts, acts, acts, acts⟩

/-- Settles O7: an issued word stands alone in the queue; DOT runs step by step, BQS appends once, the others act whole. -/
theorem rowWordsAct : Obligations.RowWordsAct := by
  unfold Obligations.RowWordsAct
  intro c p f s q ready after op waits w
  have hop (n : Nat) (hn : n < 64) : wOp (ctlWord n f) = n := wOp_ctlWord hn f
  have word (u : RowUnit) (n : Nat) (hn : n < 64) : wOp ((s.pump c p).rowOp u (ctlWord n f)).word = n := hop n hn
  simp only [exec]
  refine ⟨fun ⟨hat, h⟩ => ⟨fun sound left => ?_, fun x rest hx few => ?_⟩, fun ⟨hat, h⟩ => ⟨fun room => ?_, fun full => ?_⟩,
    fun ⟨hat, h⟩ => ?_, fun ⟨hat, h⟩ => ?_, fun ⟨hat, h⟩ => ?_, fun ⟨hat, h⟩ => ?_,
    fun hat => ⟨fun foreign => ?_, fun h sound => ⟨fun hw => ?_, fun hw left => ?_⟩⟩⟩
  · rw [execDot, rowWord_issues hat, State.issueRow_dot h (hop 0x20 (by decide)) sound left]
  · rw [execDot, rowWord_issues hat, State.issueRow_dot_waits h (hop 0x20 (by decide)) hx few]
  · rw [execBqs, rowWord_issues hat, State.issueRow_bqs h room]
  · rw [execBqs, rowWord_issues hat, State.issueRow_bqs_waits h full]
  · rw [execAcl, rowWord_issues hat, State.issueRow_unit h (by decide) (by decide),
      State.perform_acl rfl (word .accIn 0x22 (by decide))]
  · rw [execAcs, rowWord_issues hat, State.issueRow_unit h (by decide) (by decide),
      State.perform_acs rfl (word .accOut 0x23 (by decide))]
  · rw [execAcr, rowWord_issues hat, State.issueRow_unit h (by decide) (by decide),
      State.perform_acr rfl (word .accOut 0x24 (by decide))]
  · rw [execLld, rowWord_issues hat, State.issueRow_unit h (by decide) (by decide),
      State.perform_lld rfl (word .laneLoad 0x26 (by decide))]
  · rw [execIssue_issues hat, State.issueRow_foreign foreign]
  · rw [execIssue_issues hat, State.issueRow_ew h hw sound.2.2.1]
  · rw [execIssue_issues hat, State.issueRow_dot h hw sound left]

end Sys2Proof.Machine

/-! ### Element-wise results, lane by lane -/

namespace Sys2Proof.Machine

theorem laneWrites_sorted {m : SMap (BitVec 32)} (h : SMap.sorted m) (e : Nat) (f : Nat → BitVec 32) (ls : List Nat) :
    SMap.sorted (laneWrites m e f ls) := by
  induction ls generalizing m with
  | nil => exact h
  | cons l ls ih => exact ih (SMap.sorted_write _ _ _ _ h)

theorem laneWrites_readD {m : SMap (BitVec 32)} (h : SMap.sorted m) (e : Nat) (f : Nat → BitVec 32) (ls : List Nat) (k : Nat) :
    (laneWrites m e f ls).readD 0 k = if e * 512 ≤ k ∧ k - e * 512 ∈ ls then f (k - e * 512) else m.readD 0 k := by
  induction ls generalizing m with
  | nil => simp [laneWrites]
  | cons l ls ih =>
    refine (ih (SMap.sorted_write _ _ _ _ h)).trans ?_
    by_cases hk : k = e * 512 + l
    · subst hk
      simp [SMap.readD_write_self _ _ _ _ h]
    · have hne : ¬(e * 512 ≤ k ∧ k - e * 512 = l) := by omega
      rw [SMap.readD_write_ne _ _ _ _ _ hk h]
      refine if_congr ?_ rfl rfl
      rw [List.mem_cons]
      tauto

theorem Pump.setLanes_sorted {q : Pump} (h : SMap.sorted q.acc) (e : Nat) (f : Nat → BitVec 32) : SMap.sorted (q.setLanes e f).acc := by
  simp only [Pump.setLanes_eq]
  exact laneWrites_sorted h e f (List.range 512)

/-- After an entry's lanes were written it holds them, and every other entry is as it was. -/
theorem Pump.setLanes_entry {q : Pump} (h : SMap.sorted q.acc) (e : Nat) (f : Nat → BitVec 32) (i : Nat) {lane : Nat} (hl : lane < 512) :
    (q.setLanes e f).entry_ i lane = if i = e then f lane else q.entry_ i lane := by
  simp only [Pump.setLanes_eq, Pump.entry_]
  rw [laneWrites_readD h e f (List.range 512)]
  by_cases hi : i = e
  · subst hi
    simp [hl]
  · rw [if_neg hi, if_neg]
    rw [List.mem_range]
    omega

/-- The element-wise operation on its first n entries. -/
def Pump.ewPart (q : Pump) (w reg : BitVec 64) (n : Nat) : Pump :=
  (List.range n).foldl (fun t i =>
    t.setLanes (ewDst w + i) fun l =>
      let b := if ewS w then reg.setWidth 32 else t.entry_ (ewSrc2 w + i) l
      ewFun (ewFnOf w) (t.entry_ (ewDst w + i) l) (t.entry_ (ewSrc1 w + i) l) b) q

theorem Pump.ew_eq (q : Pump) (w reg : BitVec 64) : q.ew w reg = q.ewPart w reg (ewN w) := rfl

theorem Pump.ewPart_succ (q : Pump) (w reg : BitVec 64) (n : Nat) : q.ewPart w reg (n + 1) =
    (q.ewPart w reg n).setLanes (ewDst w + n) fun l =>
      ewFun (ewFnOf w) ((q.ewPart w reg n).entry_ (ewDst w + n) l) ((q.ewPart w reg n).entry_ (ewSrc1 w + n) l)
        (if ewS w then reg.setWidth 32 else (q.ewPart w reg n).entry_ (ewSrc2 w + n) l) := by
  rw [Pump.ewPart, List.range_succ, List.foldl_append]
  rfl

/-- What the operation writes into a lane of the i-th destination entry: a function of the entries as they stood. -/
def Pump.ewAt (q : Pump) (w reg : BitVec 64) (i lane : Nat) : BitVec 32 :=
  ewFun (ewFnOf w) (q.entry_ (ewDst w + i) lane) (q.entry_ (ewSrc1 w + i) lane)
    (if ewS w then reg.setWidth 32 else q.entry_ (ewSrc2 w + i) lane)

/-- A source whose entries the destination does not meet, or is, reads as it stood until its turn. -/
theorem source_unwritten {dst src n N : Nat} (hn : n < N) (h : dst = src ∨ rangesMeet dst src N = false) :
    ¬(dst ≤ src + n ∧ src + n < dst + n) := by
  rcases h with rfl | h
  · omega
  · simp only [rangesMeet, Bool.and_eq_false_iff, decide_eq_false_iff_not] at h
    omega

theorem Pump.ewPart_entry {q : Pump} {w : BitVec 64} (reg : BitVec 64) (hs : SMap.sorted q.acc)
    (h1 : ewDst w = ewSrc1 w ∨ rangesMeet (ewDst w) (ewSrc1 w) (ewN w) = false)
    (h2 : ewS w = true ∨ ewDst w = ewSrc2 w ∨ rangesMeet (ewDst w) (ewSrc2 w) (ewN w) = false) (n : Nat) (hn : n ≤ ewN w) :
    SMap.sorted (q.ewPart w reg n).acc ∧ ∀ e lane, lane < 512 → (q.ewPart w reg n).entry_ e lane =
      if ewDst w ≤ e ∧ e < ewDst w + n then q.ewAt w reg (e - ewDst w) lane else q.entry_ e lane := by
  induction n with
  | zero => exact ⟨hs, fun e lane _ => (if_neg (by omega)).symm⟩
  | succ n ih =>
    obtain ⟨hsorted, hentry⟩ := ih (by omega)
    rw [Pump.ewPart_succ]
    refine ⟨Pump.setLanes_sorted hsorted _ _, fun e lane hl => ?_⟩
    have old (i : Nat) (hi : ¬(ewDst w ≤ i ∧ i < ewDst w + n)) : (q.ewPart w reg n).entry_ i lane = q.entry_ i lane := by
      rw [hentry i lane hl, if_neg hi]
    have second : (if ewS w then reg.setWidth 32 else (q.ewPart w reg n).entry_ (ewSrc2 w + n) lane) =
        if ewS w then reg.setWidth 32 else q.entry_ (ewSrc2 w + n) lane := by
      rcases h2 with hS | h2
      · rw [if_pos hS, if_pos hS]
      · rw [old _ (source_unwritten hn h2)]
    rw [Pump.setLanes_entry hsorted _ _ _ hl]
    by_cases he : e = ewDst w + n
    · subst he
      have inside : ewDst w ≤ ewDst w + n ∧ ewDst w + n < ewDst w + (n + 1) := by omega
      rw [if_pos rfl, if_pos inside, Nat.add_sub_cancel_left, second, old _ (by omega), old _ (source_unwritten hn h1)]
      rfl
    · rw [if_neg he, hentry e lane hl]
      exact if_congr (by omega) rfl rfl

/-- Settles O9: entry by entry, each written once, and read before it or never written. -/
theorem elementWiseLanes : Obligations.ElementWiseLanes := by
  unfold Obligations.ElementWiseLanes
  intro q w reg hs h1 h2 e lane hl
  rw [Pump.ew_eq, (Pump.ewPart_entry reg hs h1 h2 _ le_rfl).2 e lane hl, Pump.ewAt]
  refine if_ctx_congr Iff.rfl (fun he => ?_) fun _ => rfl
  rw [Nat.add_sub_cancel' he.1]

end Sys2Proof.Machine

/-! ### Granules at which nothing is due -/

namespace Sys2Proof.Machine

theorem keySlice_sliceKey {p : PumpIx} {g : Nat} (hg : g < 2 ^ 19) : keySlice (sliceKey p g) = some (p, g) := by
  have hp := p.isLt
  have hk : ¬sliceKey p g < 2 ^ 43 := by simp only [sliceKey]; omega
  have hdiv : (sliceKey p g - 2 ^ 43) / 2 ^ 19 = p.val := by simp only [sliceKey]; omega
  have hmod : (sliceKey p g - 2 ^ 43) % 2 ^ 19 = g := by simp only [sliceKey]; omega
  rw [keySlice, if_neg hk]
  simp only [hdiv, hmod, hp, dif_pos]

section
variable {s : State} {c : Chan} {p : PumpIx} {g k : Nat}

/-- Where no entry, atomic or declaration of a granule is held, nothing is applied. -/
theorem State.applyDue_nothing (hheld : ∀ e ∈ (s.chan c).held, offKey e.off ≠ k) (hatoms : ∀ a ∈ (s.chan c).atoms, offKey a.atom.off ≠ k)
    (hdecls : ∀ d ∈ (s.chan c).decls, ¬(offKey d.off ≤ k ∧ k < offKey d.off + 128 * d.count)) : s.applyDue c k = s := by
  have hd : ((s.chan c).decls.filter fun d => s.due c d.slot d.frame && offKey d.off ≤ k && k < offKey d.off + 128 * d.count) = [] := by
    refine List.filter_eq_nil_iff.2 fun d hd => ?_
    have := hdecls d hd
    simp only [Bool.and_eq_true, decide_eq_true_eq]
    tauto
  have hs : s.applyDecls c k = s := by
    rw [State.applyDecls]
    simp only [hd]
    rfl
  have he : ((s.chan c).held.filter fun e => offKey e.off == k && s.due c e.slot e.frame) = [] := by
    refine List.filter_eq_nil_iff.2 fun e he => ?_
    simp [hheld e he]
  have ha : ((s.chan c).atoms.filter fun a => offKey a.atom.off == k && s.due c a.slot a.frame) = [] := by
    refine List.filter_eq_nil_iff.2 fun a ha => ?_
    simp [hatoms a ha]
  rw [State.applyDue]
  simp only [hs, he, ha]
  rfl

theorem State.foldUpto_none (h : (s.slice c p).inbound.look g = none) (rank : Nat) : s.foldUpto c p g rank = s := by
  rw [State.foldUpto]
  simp only [h]

theorem PlainGranule.settle (h : PlainGranule s c p g) (hg : g < 2 ^ 19) : s.settle c (sliceKey p g) = s := by
  obtain ⟨hheld, hatoms, hdecls, hinbound, -, -⟩ := h
  rw [State.settle]
  simp only [State.applyDue_nothing hheld hatoms hdecls, keySlice_sliceKey hg]
  exact State.foldUpto_none hinbound _

theorem PlainGranule.isDead (h : PlainGranule s c p g) (hg : g < 2 ^ 19) : (s.chan c).isDead (sliceKey p g) = false := by
  obtain ⟨-, -, -, -, hdead, -⟩ := h
  rw [Channel.isDead]
  simp only [keySlice_sliceKey hg]
  exact Option.isSome_eq_false_iff.2 (Option.isNone_iff_eq_none.2 hdead)

theorem PlainGranule.upsetAt (h : PlainGranule s c p g) (hg : g < 2 ^ 19) : (s.chan c).upsetAt (sliceKey p g) = 0 := by
  obtain ⟨-, -, -, -, -, hup⟩ := h
  rw [Channel.upsetAt]
  simp only [keySlice_sliceKey hg]
  exact hup

theorem PlainGranule.raw (h : PlainGranule s c p g) (hg : g < 2 ^ 19) : (s.chan c).raw (sliceKey p g) = (s.slice c p).get g := by
  obtain ⟨-, -, -, -, hdead, -⟩ := h
  have hdead' : deadAt (s.chan c).pumps[p.val].slice.dead (g / 128) = none := hdead
  rw [Channel.raw]
  simp only [keySlice_sliceKey hg, hdead']
  rfl

theorem PlainGranule.readBase (h : PlainGranule s c p g) (hg : g < 2 ^ 19) (j : Option SlotIx) :
    s.readBase c j (sliceKey p g) = (s, (s.slice c p).get g) := by
  unfold State.readBase
  simp only [h.settle hg, h.isDead hg, h.upsetAt hg, h.raw hg, Bool.false_eq_true, if_false, if_true]

/-- The owner's read of a plain granule takes what stands in the slice and changes nothing. -/
theorem PlainGranule.readOwn (h : PlainGranule s c p g) (hg : g < 2 ^ 19) : s.readOwn c p g = (s, (s.slice c p).get g) :=
  h.readBase hg _

/-- An update of the pump beside its slice leaves its granules plain. -/
theorem PlainGranule.onPump (h : PlainGranule s c p g) {f : Pump → Pump} (hf : (f (s.pump c p)).slice = (s.pump c p).slice) :
    PlainGranule (s.onPump c p f) c p g := by
  have hs : (s.onPump c p f).slice c p = s.slice c p := by simpa [State.slice] using hf
  obtain ⟨hheld, hatoms, hdecls, hrest⟩ := h
  refine ⟨by simpa using hheld, by simpa using hatoms, by simpa using hdecls, ?_⟩
  rw [hs]
  exact hrest

end

end Sys2Proof.Machine


/-! ### Loads from plain granules -/

namespace Sys2Proof.Machine

/-! ### Rows of values written to a sparse map -/

theorem SMap.writes_map_readD {α : Type} [DecidableEq α] {m : SMap α} {d : α} (h : SMap.sorted m) (base : Nat) (v : Nat → α) (ls : List Nat)
    (k : Nat) : (m.writes d (ls.map fun l => (base + l, v l))).readD d k =
      if base ≤ k ∧ k - base ∈ ls then v (k - base) else m.readD d k := by
  induction ls generalizing m with
  | nil => simp [SMap.writes]
  | cons l ls ih =>
    refine (ih (SMap.sorted_write _ _ _ _ h)).trans ?_
    by_cases hk : k = base + l
    · subst hk
      simp [SMap.readD_write_self _ _ _ _ h]
    · rw [SMap.readD_write_ne _ _ _ _ _ hk h]
      refine if_congr ?_ rfl rfl
      have hne : ¬(base ≤ k ∧ k - base = l) := by omega
      rw [List.mem_cons]
      tauto

/-- The writes of one lane-store row. -/
def rowWrites (row : Nat) (v : Nat → Granule) : List (Nat × Granule) := (List.range 512).map fun l => (row * 512 + l, v l)

theorem Pump.putRows_laneRow {q : Pump} (h : SMap.sorted q.lane) (row : Nat) (v : Nat → Granule) (i : Nat) {l : Nat} (hl : l < 512) :
    (q.putRows (rowWrites row v)).laneRow i l = if i = row then v l else q.laneRow i l := by
  simp only [Pump.putRows, Pump.laneRow, rowWrites]
  rw [SMap.writes_map_readD h]
  by_cases hi : i = row
  · subst hi
    simp [hl]
  · rw [if_neg hi, if_neg]
    rw [List.mem_range]
    omega

theorem Pump.putRows_sorted {q : Pump} (h : SMap.sorted q.lane) (ws : List (Nat × Granule)) : SMap.sorted (q.putRows ws).lane := by
  simp only [Pump.putRows]
  exact SMap.sorted_writes _ _ _ h

/-- Lane-store rows from a first one on, written one after the other. -/
def Pump.putFrom (q : Pump) (first n : Nat) (v : Nat → Nat → Granule) : Pump :=
  (List.range n).foldl (fun t r => t.putRows (rowWrites (first + r) (v r))) q

theorem Pump.putFrom_succ (q : Pump) (first n : Nat) (v : Nat → Nat → Granule) :
    q.putFrom first (n + 1) v = (q.putFrom first n v).putRows (rowWrites (first + n) (v n)) := by
  rw [Pump.putFrom, List.range_succ, List.foldl_append]
  rfl

theorem Pump.putFrom_laneRow {q : Pump} (h : SMap.sorted q.lane) (first n : Nat) (v : Nat → Nat → Granule) :
    SMap.sorted (q.putFrom first n v).lane ∧ ∀ r l, r < n → l < 512 → (q.putFrom first n v).laneRow (first + r) l = v r l := by
  induction n with
  | zero => exact ⟨h, fun r l hr _ => absurd hr (Nat.not_lt_zero r)⟩
  | succ n ih =>
    obtain ⟨hs, hrows⟩ := ih
    rw [Pump.putFrom_succ]
    refine ⟨Pump.putRows_sorted hs _, fun r l hr hl => ?_⟩
    rw [Pump.putRows_laneRow hs _ _ _ hl]
    by_cases hn : r = n
    · rw [hn, if_pos rfl]
    · rw [if_neg (by omega), hrows r l (by omega) hl]

/-- Accumulator entries from a first one on, written one after the other. -/
def Pump.setFrom (q : Pump) (first n : Nat) (v : Nat → Nat → BitVec 32) : Pump :=
  (List.range n).foldl (fun t i => t.setLanes (first + i) (v i)) q

theorem Pump.setFrom_entry {q : Pump} (h : SMap.sorted q.acc) (first n : Nat) (v : Nat → Nat → BitVec 32) :
    SMap.sorted (q.setFrom first n v).acc ∧ ∀ i l, i < n → l < 512 → (q.setFrom first n v).entry_ (first + i) l = v i l := by
  induction n with
  | zero => exact ⟨h, fun i l hi _ => absurd hi (Nat.not_lt_zero i)⟩
  | succ n ih =>
    obtain ⟨hs, hentries⟩ := ih
    have hsucc : q.setFrom first (n + 1) v = (q.setFrom first n v).setLanes (first + n) (v n) := by
      rw [Pump.setFrom, List.range_succ, List.foldl_append]
      rfl
    rw [hsucc]
    refine ⟨Pump.setLanes_sorted hs _ _, fun i l hi hl => ?_⟩
    rw [Pump.setLanes_entry hs _ _ _ hl]
    by_cases hn : i = n
    · rw [hn, if_pos rfl]
    · rw [if_neg (by omega), hentries i l (by omega) hl]

/-! ### Bytes of a granule -/

theorem leNat_byte (bs : List (BitVec 8)) (j : Nat) : BitVec.ofNat 8 (leNat bs / 256 ^ j) = bs.getD j 0 := by
  induction bs generalizing j with
  | nil => simp [leNat]
  | cons b bs ih =>
    have hb := b.isLt
    cases j with
    | zero =>
      refine BitVec.eq_of_toNat_eq ?_
      simp [leNat]
      omega
    | succ j =>
      have hdiv : leNat (b :: bs) / 256 ^ (j + 1) = leNat bs / 256 ^ j := by
        rw [leNat, pow_succ', ← Nat.div_div_eq_div_mul]
        congr 1
        omega
      rw [hdiv, ih]
      simp

theorem leNat_lt (bs : List (BitVec 8)) : leNat bs < 256 ^ bs.length := by
  induction bs with
  | nil => simp [leNat]
  | cons b bs ih =>
    have hb := b.isLt
    rw [leNat, List.length_cons, pow_succ]
    omega

/-- A granule made of bytes holds them. -/
theorem gByte_gOfBytes (bs : List (BitVec 8)) (hlen : bs.length = 32) (j : Nat) : gByte (gOfBytes bs) j = bs.getD j 0 := by
  have hlt : leNat bs < 2 ^ 256 := by
    have := leNat_lt bs
    rw [hlen] at this
    exact this.trans_eq (by norm_num)
  have hpow : (2 : Nat) ^ (8 * j) = 256 ^ j := by
    rw [pow_mul]
    norm_num
  rw [gOfBytes, List.take_of_length_le hlen.le, gByte, ← leNat_byte]
  refine BitVec.eq_of_toNat_eq ?_
  rw [BitVec.extractLsb'_toNat, BitVec.toNat_ofNat, BitVec.toNat_ofNat, Nat.mod_eq_of_lt hlt, Nat.shiftRight_eq_div_pow, hpow]

end Sys2Proof.Machine


/-! ### Row operations that read plain granules change the pump alone -/

namespace Sys2Proof.Machine

section
variable {c : Chan} {p : PumpIx} {s t : State}

/-- The state differs in a pump beside its slice. -/
def BesideSlice (c : Chan) (p : PumpIx) (s t : State) : Prop := ∃ f : Pump → Pump, (∀ q, (f q).slice = q.slice) ∧ t = s.onPump c p f

theorem BesideSlice.refl : BesideSlice c p s s := ⟨fun q => q, fun _ => rfl, (State.onPump_same rfl).symm⟩

theorem BesideSlice.onPump (h : BesideSlice c p s t) {g : Pump → Pump} (hg : ∀ q, (g q).slice = q.slice) :
    BesideSlice c p s (t.onPump c p g) := by
  obtain ⟨f, hf, rfl⟩ := h
  exact ⟨fun q => g (f q), fun q => (hg _).trans (hf q), State.onPump_onPump ..⟩

theorem BesideSlice.slice (h : BesideSlice c p s t) : t.slice c p = s.slice c p := by
  obtain ⟨f, hf, rfl⟩ := h
  simpa [State.slice] using hf _

theorem BesideSlice.plain (h : BesideSlice c p s t) {g : Nat} (hg : PlainGranule s c p g) : PlainGranule t c p g := by
  obtain ⟨f, hf, rfl⟩ := h
  exact hg.onPump (hf _)

/-- Steps that each change a pump beside its slice, on states that differ there alone. -/
theorem State.foldl_beside {α : Type} {step : State → α → State} {G : α → Pump → Pump} {ls : List α}
    (hG : ∀ a q, (G a q).slice = q.slice) (hstep : ∀ a ∈ ls, ∀ t, BesideSlice c p s t → step t a = t.onPump c p (G a)) :
    ls.foldl step s = s.onPump c p fun q => ls.foldl (fun q a => G a q) q := by
  have go (l : List α) (hl : ∀ a ∈ l, a ∈ ls) (t : State) (ht : BesideSlice c p s t) :
      l.foldl step t = t.onPump c p fun q => l.foldl (fun q a => G a q) q := by
    induction l generalizing t with
    | nil => exact (State.onPump_same rfl).symm
    | cons a l ih =>
      rw [List.foldl_cons, hstep a (hl a (by simp)) t ht, ih (fun b hb => hl b (by simp [hb])) _ (ht.onPump (hG a)),
        State.onPump_onPump]
      rfl
  exact go ls (fun _ h => h) s .refl

/-- Reads of plain granules. -/
theorem readEach_plain {α : Type} {at_ : α → Nat} {ls : List α} (ht : BesideSlice c p s t)
    (h : ∀ a ∈ ls, at_ a < 2 ^ 19 ∧ PlainGranule s c p (at_ a)) :
    readEach (fun u a => u.readOwn c p (at_ a)) t ls = (t, ls.map fun a => (s.slice c p).get (at_ a)) := by
  refine readEach_still fun a ha => ?_
  obtain ⟨hlt, hp⟩ := h a ha
  rw [← ht.slice]
  exact (ht.plain hp).readOwn hlt

theorem zipIdx_map_range {α : Type} (v : Nat → α) (n : Nat) : ((List.range n).map v).zipIdx = (List.range n).map fun i => (v i, i) := by
  refine List.ext_getElem (by simp) fun i _ _ => ?_
  simp

theorem Pump.putRows_slice (q : Pump) (ws : List (Nat × Granule)) : (q.putRows ws).slice = q.slice := by rw [Pump.putRows]

theorem Pump.setLanes_slice (q : Pump) (e : Nat) (f : Nat → BitVec 32) : (q.setLanes e f).slice = q.slice := by rw [Pump.setLanes_eq]

/-- LLD without transposition. -/
theorem State.doLld_rows {o : RowOp} (hT : lldT o.word = false)
    (h : ∀ r l, r < lldN o.word → l < 512 → o.gran.toNat + r * 512 + l < 2 ^ 19 ∧ PlainGranule s c p (o.gran.toNat + r * 512 + l)) :
    s.doLld c p o = s.onPump c p fun q => q.putFrom (lldRow o.word) (lldN o.word) fun r l =>
      (s.slice c p).get (o.gran.toNat + r * 512 + l) := by
  refine State.foldl_beside (G := fun r q => q.putRows (rowWrites (lldRow o.word + r) fun l =>
    (s.slice c p).get (o.gran.toNat + r * 512 + l))) (fun _ q => q.putRows_slice _) fun r hr t ht => ?_
  rw [if_neg (by rw [hT]; nofun), readEach_plain ht fun l hl => h r l (List.mem_range.1 hr) (List.mem_range.1 hl)]
  dsimp only
  rw [zipIdx_map_range, List.map_map]
  rfl

/-- LLD with transposition. -/
theorem State.doLld_transposed {o : RowOp} (hT : lldT o.word = true) (b : Nat) (hb : lldEsize o.word + 1 = b)
    (h : ∀ r k i, r < lldN o.word → k < 32 / b → i < 16 * b →
      o.gran.toNat + (r * 32 / b + k) * lldStride o.word + i < 2 ^ 19 ∧
        PlainGranule s c p (o.gran.toNat + (r * 32 / b + k) * lldStride o.word + i)) :
    s.doLld c p o = s.onPump c p fun q => q.putFrom (lldRow o.word) (lldN o.word) fun r l =>
      transposeRow ((List.range (32 / b)).map fun k => (List.range (16 * b)).map fun i =>
        (s.slice c p).get (o.gran.toNat + (r * 32 / b + k) * lldStride o.word + i)) b l := by
  refine State.foldl_beside (G := fun r q => q.putRows (rowWrites (lldRow o.word + r) fun l =>
    transposeRow ((List.range (32 / b)).map fun k => (List.range (16 * b)).map fun i =>
      (s.slice c p).get (o.gran.toNat + (r * 32 / b + k) * lldStride o.word + i)) b l)) (fun _ q => q.putRows_slice _) fun r hr t ht => ?_
  have rows : readEach (fun u k => readEach (fun v i => v.readOwn c p (o.gran.toNat + (r * 32 / b + k) * lldStride o.word + i)) u
      (List.range (16 * b))) t (List.range (32 / b)) = (t, (List.range (32 / b)).map fun k => (List.range (16 * b)).map fun i =>
        (s.slice c p).get (o.gran.toNat + (r * 32 / b + k) * lldStride o.word + i)) :=
    readEach_still fun k hk => readEach_plain ht fun i hi => h r k i (List.mem_range.1 hr) (List.mem_range.1 hk) (List.mem_range.1 hi)
  rw [if_pos hT]
  simp only [hb, rows]
  rfl

/-- ACL. -/
theorem State.doAcl_entries {o : RowOp} (h : ∀ i g, i < acN o.word → g < 64 →
      o.gran.toNat + (if aclRepl o.word then 0 else 64 * i) + g < 2 ^ 19 ∧
        PlainGranule s c p (o.gran.toNat + (if aclRepl o.word then 0 else 64 * i) + g)) :
    s.doAcl c p o = s.onPump c p fun q => q.setFrom (acAcc o.word) (acN o.word) fun i l =>
      (((List.range 64).map fun g => (s.slice c p).get (o.gran.toNat + (if aclRepl o.word then 0 else 64 * i) + g)).getD (l / 8)
        0).extractLsb' (32 * (l % 8)) 32 := by
  refine State.foldl_beside (G := fun i q => q.setLanes (acAcc o.word + i) fun l =>
    (((List.range 64).map fun g => (s.slice c p).get (o.gran.toNat + (if aclRepl o.word then 0 else 64 * i) + g)).getD (l / 8)
      0).extractLsb' (32 * (l % 8)) 32) (fun _ q => q.setLanes_slice _ _) fun i hi t ht => ?_
  have hread := readEach_plain (at_ := fun g => o.gran.toNat + (if aclRepl o.word then 0 else 64 * i) + g) ht fun g hg =>
    h i g (List.mem_range.1 hi) (List.mem_range.1 hg)
  extract_lets base
  split
  rename_i t1 gs hr
  obtain ⟨rfl, rfl⟩ := Prod.mk.inj (hr.symm.trans hread)
  rfl

end

end Sys2Proof.Machine


/-! ### What BQS, LLD and ACL leave in the pump -/

namespace Sys2Proof.Machine

/-- The n-th of equally long pieces put together. -/
theorem getD_flatMap_map {α β : Type} (d : β) (b : Nat) (g : α → Nat → β) (rows : List α) (t i : Nat) (hi : i < b) (ht : t < rows.length) :
    (rows.flatMap fun r => (List.range b).map (g r)).getD (t * b + i) d = g rows[t] i := by
  induction rows generalizing t with
  | nil => exact absurd ht (Nat.not_lt_zero t)
  | cons r rows ih =>
    rw [List.flatMap_cons]
    cases t with
    | zero =>
      rw [Nat.zero_mul, Nat.zero_add, List.getD_append _ _ _ _ (by simpa using hi)]
      simp [hi]
    | succ t =>
      have hlen : ((List.range b).map (g r)).length ≤ (t + 1) * b + i := by
        simp only [List.length_map, List.length_range]
        nlinarith
      have hsub : (t + 1) * b + i - ((List.range b).map (g r)).length = t * b + i := by
        simp only [List.length_map, List.length_range]
        rw [Nat.succ_mul]
        omega
      have ht' : t < rows.length := by simpa using ht
      rw [List.getD_append_right _ _ _ _ hlen, hsub, ih t ht']
      rfl

theorem length_flatMap_map {α β : Type} (b : Nat) (g : α → Nat → β) (rows : List α) :
    (rows.flatMap fun r => (List.range b).map (g r)).length = rows.length * b := by
  induction rows with
  | nil => simp
  | cons r rows ih => simp [ih, Nat.succ_mul, Nat.add_comm]

/-- A transposed row takes one byte or half-word of the lane's from each source row. -/
theorem gByte_transposeRow {rows : List (List Granule)} {b : Nat} (hlen : rows.length * b = 32) (lane : Nat) {t i : Nat} (hi : i < b)
    (ht : t < rows.length) :
    gByte (transposeRow rows b lane) (t * b + i) = gByte (rows[t].getD ((lane * b + i) / 32) 0) ((lane * b + i) % 32) := by
  rw [transposeRow, gByte_gOfBytes _ ((length_flatMap_map ..).trans hlen)]
  exact getD_flatMap_map 0 b (fun r i => gByte (r.getD ((lane * b + i) / 32) 0) ((lane * b + i) % 32)) rows t i hi ht

section
variable {c : Chan} {p : PumpIx} {s : State} {o : RowOp}

/-- Every granule that an operation touches in the slice is plain. -/
structure PlainSpan (s : State) (c : Chan) (p : PumpIx) (o : RowOp) : Prop where
  plain : ∀ g : Nat, o.span.1 ≤ (g : Int) → (g : Int) < o.span.2 → PlainGranule s c p g
  low : 0 ≤ o.span.1
  high : o.span.2 ≤ 2 ^ 19

theorem PlainSpan.at_ (h : PlainSpan s c p o) {g : Nat} (hlo : o.span.1 ≤ (g : Int)) (hhi : (g : Int) < o.span.2) :
    g < 2 ^ 19 ∧ PlainGranule s c p g := by
  have := h.high
  exact ⟨by omega, h.plain g hlo hhi⟩

/-- An LLD row without transposition holds the lane's granule of its source row. -/
theorem PlainSpan.lld_laneRow (h : PlainSpan s c p o) (hs : SMap.sorted (s.pump c p).lane) (hw : wOp o.word = 0x26)
    (hT : lldT o.word = false) {r l : Nat} (hr : r < lldN o.word) (hl : l < 512) :
    ((s.doLld c p o).pump c p).laneRow (lldRow o.word + r) l = (s.slice c p).get (o.gran.toNat + r * 512 + l) := by
  have hspan : o.span = (o.gran, o.gran + (512 * lldN o.word : Nat)) := by
    rw [RowOp.span]
    simp only [hw, hT]
    rfl
  have hlow := h.low
  rw [hspan] at hlow
  rw [State.doLld_rows hT, State.onPump_pump]
  · exact (Pump.putFrom_laneRow hs _ _ _).2 r l hr hl
  · intro r l hr hl
    refine h.at_ ?_ ?_ <;> rw [hspan] <;> dsimp only at hlow ⊢ <;> omega

theorem PlainSpan.lld_transposed (h : PlainSpan s c p o) (hs : SMap.sorted (s.pump c p).lane) (hw : wOp o.word = 0x26)
    (hT : lldT o.word = true) {b : Nat} (hb : lldEsize o.word + 1 = b) (hb2 : b ≤ 2) {r l t i : Nat} (hr : r < lldN o.word) (hl : l < 512)
    (ht : t < 32 / b) (hi : i < b) :
    gByte (((s.doLld c p o).pump c p).laneRow (lldRow o.word + r) l) (t * b + i) =
      gByte ((s.slice c p).get (o.gran.toNat + (r * 32 / b + t) * lldStride o.word + (l * b + i) / 32)) ((l * b + i) % 32) := by
  have hspan : o.span = (o.gran, o.gran + ((lldN o.word * 32 / b - 1) * lldStride o.word + 16 * b : Nat)) := by
    rw [RowOp.span]
    simp only [hw, hT, hb]
    rfl
  have hlow := h.low
  rw [hspan] at hlow
  have hb12 : b = 1 ∨ b = 2 := by omega
  have hrows : 32 / b * b = 32 := by rcases hb12 with rfl | rfl <;> rfl
  rw [State.doLld_transposed hT b hb, State.onPump_pump, (Pump.putFrom_laneRow hs _ _ _).2 r l hr hl,
    gByte_transposeRow (by simpa using hrows) l hi (by simpa using ht)]
  · have hcol : (l * b + i) / 32 < 16 * b := by rcases hb12 with rfl | rfl <;> omega
    simp [hcol]
  · intro r k i hr hk hi
    have hrow : r * 32 / b + k ≤ lldN o.word * 32 / b - 1 := by rcases hb12 with rfl | rfl <;> omega
    have hmul := Nat.mul_le_mul_right (lldStride o.word) hrow
    generalize (r * 32 / b + k) * lldStride o.word = x at hmul ⊢
    generalize (lldN o.word * 32 / b - 1) * lldStride o.word = y at hmul hspan
    refine h.at_ ?_ ?_ <;> rw [hspan] <;> dsimp only at hlow ⊢ <;> omega

theorem PlainSpan.acl_entry (h : PlainSpan s c p o) (hs : SMap.sorted (s.pump c p).acc) (hw : wOp o.word = 0x22) {i l : Nat}
    (hi : i < acN o.word) (hl : l < 512) : ((s.doAcl c p o).pump c p).entry_ (acAcc o.word + i) l =
      ((s.slice c p).get (o.gran.toNat + (if aclRepl o.word then 0 else 64 * i) + l / 8)).extractLsb' (32 * (l % 8)) 32 := by
  have hspan : o.span = (o.gran, o.gran + (if aclRepl o.word then 64 else 64 * acN o.word : Nat)) := by
    rw [RowOp.span]
    simp only [hw]
  have hlow := h.low
  rw [hspan] at hlow
  rw [State.doAcl_entries, State.onPump_pump, (Pump.setFrom_entry hs _ _ _).2 i l hi hl]
  · have : l / 8 < 64 := by omega
    simp [this]
  · intro i g hi hg
    refine h.at_ ?_ ?_ <;> rw [hspan] <;> dsimp only at hlow ⊢ <;> split <;> omega

/-- Every granule that a BQS has left to append lies in its span. -/
theorem PlainSpan.bqs_at (h : PlainSpan s c p o) (hw : wOp o.word = 0x21) {n : Nat} (hn : n < bqsTotal o.word) :
    o.bqsAt n < 2 ^ 19 ∧ PlainGranule s c p (o.bqsAt n) := by
  have hspan : o.span = (o.gran + min 0 (bqsStride o.word * (bqsN1 o.word - 1 : Nat)),
      o.gran + max 0 (bqsStride o.word * (bqsN1 o.word - 1 : Nat)) + bqsN0 o.word) := by
    rw [RowOp.span]
    simp only [hw]
  have hlow := h.low
  rw [hspan] at hlow
  have hcol : n % bqsN0 o.word < bqsN0 o.word := Nat.mod_lt _ (Nat.succ_pos _)
  have hrow : n / bqsN0 o.word ≤ bqsN1 o.word - 1 := by
    have : n / bqsN0 o.word < bqsN1 o.word := Nat.div_lt_of_lt_mul (by rwa [Nat.mul_comm])
    omega
  have hbetween : min 0 (bqsStride o.word * (bqsN1 o.word - 1 : Nat)) ≤ (n / bqsN0 o.word : Nat) * bqsStride o.word ∧
      (n / bqsN0 o.word : Nat) * bqsStride o.word ≤ max 0 (bqsStride o.word * (bqsN1 o.word - 1 : Nat)) := by
    have hcast : ((n / bqsN0 o.word : Nat) : Int) ≤ (bqsN1 o.word - 1 : Nat) := by exact_mod_cast hrow
    rw [Int.mul_comm (n / bqsN0 o.word : Nat)]
    rcases Int.le_total 0 (bqsStride o.word) with hpos | hneg
    · exact ⟨(min_le_left _ _).trans (by positivity), (Int.mul_le_mul_of_nonneg_left hcast hpos).trans (le_max_right _ _)⟩
    · exact ⟨(min_le_right _ _).trans (Int.mul_le_mul_of_nonpos_left hneg hcast),
        (Int.mul_nonpos_of_nonpos_of_nonneg hneg (by positivity)).trans (le_max_left _ _)⟩
  refine h.at_ ?_ ?_ <;> rw [hspan, RowOp.bqsAt] <;> dsimp only at hlow ⊢ <;> omega

/-- The granules of the slice that a BQS appends now. -/
def State.bqsGrans (s : State) (c : Chan) (p : PumpIx) (o : RowOp) : List Granule :=
  (List.range (s.bqsNow c p o)).map fun i => (s.slice c p).get (o.bqsAt (o.pos + i))

/-- A BQS on plain granules appends them to the queue as they stand. -/
theorem PlainSpan.doBqs (h : PlainSpan s c p o) (hw : wOp o.word = 0x21) : s.doBqs c p o =
    (s.onPump c p fun q => { q with bq := q.bq ++ (s.bqsGrans c p o).map fun g => (g, 0) },
      { o with pos := o.pos + s.bqsNow c p o }) := by
  have hread : readEach (fun t g => t.readOwn c p g) s ((List.range (s.bqsNow c p o)).map fun i => o.bqsAt (o.pos + i)) =
      (s, s.bqsGrans c p o) := by
    rw [readEach_plain (at_ := fun g => g) .refl, List.map_map]
    · rfl
    · intro g hg
      obtain ⟨i, hi, rfl⟩ := List.mem_map.1 hg
      refine h.bqs_at hw ?_
      have := List.mem_range.1 hi
      rw [State.bqsNow] at this
      omega
  rw [State.doBqs_eq, hread]

end

/-- Settles O10: reads of plain granules change nothing, so each load writes what stands in the slice. -/
theorem loadsTakeSliceGranules : Obligations.LoadsTakeSliceGranules := by
  unfold Obligations.LoadsTakeSliceGranules
  intro c p o s hlane hacc hplain hlow hhigh len
  have h : PlainSpan s c p o := ⟨hplain, hlow, hhigh⟩
  refine ⟨fun hw hpos hlen => ?_, fun hw hT r l hr hl => h.lld_laneRow hlane hw hT hr hl,
    fun hw hT hsize r l t i hr hl ht hi => h.lld_transposed hlane hw hT rfl (by omega) hr hl ht hi,
    fun hw i l hi hl => h.acl_entry hacc hw hi hl⟩
  have hnow : s.bqsNow c p o = min (bqsN1 o.word * bqsN0 o.word - o.pos) (64 - len) := rfl
  refine ⟨(s.doBqs_bq_length c p o).trans (by rw [hnow]), by rw [State.doBqs_eq, hnow], fun i j m hm hj hi => ?_⟩
  have hat : o.bqsAt (o.pos + m) = (o.gran + j * bqsStride o.word + i).toNat := by
    have hdiv : (j * bqsN0 o.word + i) / bqsN0 o.word = j := by
      rw [Nat.mul_comm, Nat.mul_add_div (by omega), Nat.div_eq_of_lt hi, Nat.add_zero]
    have hmod : (j * bqsN0 o.word + i) % bqsN0 o.word = i := by
      rw [Nat.mul_comm, Nat.mul_add_mod, Nat.mod_eq_of_lt hi]
    rw [RowOp.bqsAt, hj, hdiv, hmod]
  rw [h.doBqs hw, State.onPump_pump]
  simp [State.bqsGrans, hnow, hm, hat, len]

end Sys2Proof.Machine

namespace Sys2Proof.Machine

/-! ### Operating modes (R20-R22) -/

@[simp] theorem State.modeNote_chan (s : State) (c : Chan) : s.modeNote.chan c = s.chan c := rfl
@[simp] theorem State.modeNote_outputs (s : State) : s.modeNote.outputs = s.outputs := rfl
@[simp] theorem State.modeNote_modeErr (s : State) : s.modeNote.mc.pwr.modeErr = s.mc.pwr.modeErr := rfl
@[simp] theorem State.modeErr_chan (s : State) (c : Chan) : s.modeErr.chan c = s.chan c := rfl
@[simp] theorem State.modeErr_set (s : State) : s.modeErr.mc.pwr.modeErr = true := rfl
@[simp] theorem State.setVpump_pwr (s : State) (c : Chan) (mv : Nat) :
    ((s.setVpump c mv).chan c).pwr = { (s.chan c).pwr with setMv := mv } := by simp [State.setVpump]
@[simp] theorem State.setVpump_outputs (s : State) (c : Chan) (mv : Nat) :
    (s.setVpump c mv).outputs = s.outputs ++ [.setpoint c mv] := rfl

theorem isEff_eq_false {m : BitVec 2} (h : m ≠ 2) : isEff m = false := by simpa [isEff] using h

/-- A move out of Efficient mode begins with the set-point where enough phases are left (R22, R426). -/
theorem State.outOfEff_moves (s : State) (c : Chan) (h : 18 ≤ (s.chan c).pwr.phases) :
    s.outOfEff c = (s.onPwr c fun p => { p with move := .outEff }).setVpump c 720 := by
  simp [State.outOfEff, Nat.not_lt.mpr h]

theorem execMcOpModeWrite_mode (v : BitVec 32) (s : State) (hr : s.mc.inReset = false) :
    Answers (execMcOpModeWrite v s) fun t => OnlyMc s t ∧
      t.mc.pwr.mode = (if v.extractLsb' 0 2 = 3 then s.mc.pwr.mode else v.extractLsb' 0 2) ∧
      t.mc.pwr.modeErr = ((s.mc.pwr.modeErr && !v.getLsbD 7) || v.extractLsb' 0 2 == 3) := by
  simp only [execMcOpModeWrite, hr, Bool.false_eq_true, if_false]
  exact ⟨_, rfl, rfl, by simp [State.modeNote], by simp [w1c]⟩

theorem execModeChangeReceipt_intoEff (c : Chan) (s : State) (hp : s.present c = true) (hm : s.mc.pwr.mode = 2)
    (hk : (s.chan c).pwr.clk15 = false) :
    execModeChangeReceipt c s = .next (s.intoEff c).modeNote := by
  simp [execModeChangeReceipt, hp, hm, hk, isEff]

theorem execModeChangeReceipt_outOfEff (c : Chan) (s : State) (hp : s.present c = true) (hm : s.mc.pwr.mode ≠ 2)
    (hk : (s.chan c).pwr.clk15 = true) :
    execModeChangeReceipt c s = .next (s.outOfEff c).modeNote := by
  simp [execModeChangeReceipt, hp, isEff_eq_false hm, hk]

/-- Settles O24, one clause per command: each command's equation, then what stands in the channel's power state. -/
theorem operatingModeChanges : Obligations.OperatingModeChanges := by
  intro c v s p
  refine ⟨execMcOpModeWrite_mode v s, fun hp hm hk => ?_, fun hp hm hk hph => ?_, fun hv => ?_, fun hv hg => ?_, fun hv => ?_,
    fun hv hm hph => ?_⟩
  · exact ⟨_, execModeChangeReceipt_intoEff c s hp hm hk, by simp [State.intoEff, p], by simp [State.intoEff]⟩
  · refine ⟨_, execModeChangeReceipt_outOfEff c s hp hm hk, ?_, ?_⟩
    · simp [s.outOfEff_moves c hph, p]
    · simp [s.outOfEff_moves c hph]
  · exact ⟨_, if_pos hv, by simp [p]⟩
  · exact ⟨_, if_pos ⟨hv, by simpa [Power.guardOk] using hg⟩, by simp [p]⟩
  · exact ⟨_, if_pos hv, by simp [p], rfl⟩
  · exact ⟨_, if_pos ⟨hv, by simp [isEff_eq_false hm]⟩, by simp [s.outOfEff_moves c hph, p]⟩

/-! ### The power budget and Gnover's reset (R19, R26) -/

/-- What a window grants a channel before the reduction of R19. -/
def State.baseGrant (s : State) (c : Chan) : Nat :=
  let act := (List.finRange 8).filter s.serving
  let floor_ := min 700 (moduleBudget s.mc.pwr.mode / max act.length 1)
  let held := act.filter s.heldAtGrant
  let spare := ((act.filter fun c => !s.heldAtGrant c).map fun c => s.mc.pwr.grant[c.val] - (s.chan c).pwr.avgW).sum
  let extra := if held.isEmpty then 0 else spare / held.length
  if act.contains c then (if held.contains c then min 700 (floor_ + extra) else floor_) else 0

/-- What a window grants a channel. -/
def State.windowGrant (s : State) (inputW : Nat) (c : Chan) : Nat :=
  if modeLimit s.mc.pwr.mode < inputW then s.baseGrant c * modeLimit s.mc.pwr.mode / inputW else s.baseGrant c

theorem State.baseGrant_le (s : State) (c : Chan) : s.baseGrant c ≤ 700 := by
  unfold State.baseGrant
  dsimp only
  split_ifs <;> omega

theorem State.windowGrant_le (s : State) (inputW : Nat) (c : Chan) : s.windowGrant inputW c ≤ 700 := by
  have hb := s.baseGrant_le c
  unfold State.windowGrant
  split_ifs with h
  · calc s.baseGrant c * modeLimit s.mc.pwr.mode / inputW
        ≤ s.baseGrant c * inputW / inputW := Nat.div_le_div_right (Nat.mul_le_mul_left _ (Nat.le_of_lt h))
      _ ≤ 700 := by rwa [Nat.mul_div_cancel _ (by omega)]
  · exact hb

theorem State.baseGrant_idle (s : State) (c : Chan) (h : s.serving c = false) : s.baseGrant c = 0 := by
  simp [State.baseGrant, h]

theorem State.baseGrant_floor (s : State) (c : Chan) (h : s.serving c = true) (hh : s.heldAtGrant c = false) :
    s.baseGrant c = min 700 ((modeLimit s.mc.pwr.mode * 92 / 100 - 40) / ((List.finRange 8).filter s.serving).length) := by
  have hmem : c ∈ (List.finRange 8).filter s.serving := by simp [h]
  have hpos : 1 ≤ ((List.finRange 8).filter s.serving).length := List.length_pos_of_mem hmem
  simp [State.baseGrant, h, hh, moduleBudget, Nat.max_eq_left hpos]

theorem execBudgetComputation_grants (inputW : Nat) (s : State) (hr : s.mc.inReset = false) :
    Answers (execBudgetComputation inputW s) fun t => OnlyMc s t ∧ t.mc.pwr.inputW = inputW ∧
      t.mc.pwr.scaled = decide (modeLimit s.mc.pwr.mode < inputW) ∧ ∀ c : Chan, t.mc.pwr.grant[c.val] = s.windowGrant inputW c := by
  simp only [execBudgetComputation, hr, Bool.false_eq_true, if_false]
  exact ⟨_, rfl, rfl, rfl, rfl, fun c => by simp [State.windowGrant, State.baseGrant]⟩

/-- Settles O25: the grants of a window are those of `windowGrant`, and Gnover's reset touches nothing but Gnover. -/
theorem budgetAndGnoverReset : Obligations.BudgetAndGnoverReset := by
  intro inputW c s limit active
  refine ⟨fun hr => ?_, ⟨_, rfl, rfl, rfl, fun e => by simp⟩, rfl⟩
  obtain ⟨t, ht, honly, hin, hscaled, hgrant⟩ := execBudgetComputation_grants inputW s hr
  refine ⟨t, ht, honly, hin, hscaled, hgrant c ▸ s.windowGrant_le inputW c, fun hs => ?_, fun hs hh => ?_⟩
  · simp [hgrant, State.windowGrant, s.baseGrant_idle c hs]
  · rw [hgrant, State.windowGrant, s.baseGrant_floor c hs hh]
    rfl

end Sys2Proof.Machine



namespace Sys2Proof.Machine

/-! ### Reports of a frame that is over (R30, R34, R38) -/

@[simp] theorem State.marker_slot (s : State) (c : Chan) (port : PortIx) (m : Marker) (d : Chan) (j : SlotIx) :
    (s.marker c port m).slot d j = s.slot d j := by simp [State.slot]

@[simp] theorem State.tryForward_own (s : State) (c : Chan) (j : SlotIx) :
    ((s.tryForward c j).slot c j).fr.own = (s.slot c j).fr.own := by
  unfold State.tryForward
  dsimp only
  split
  · split
    · split
      · split <;> simp
      · simp
    · rfl
  · rfl

/-- A member that has not reported yet has its own report afterwards (R30). -/
theorem State.report_own (s : State) (c : Chan) (j : SlotIx) (fault : Bool) (cause : Fin 7) (late : Nat)
    (h : (s.slot c j).fr.own = none) : ((s.report c j fault cause late).slot c j).fr.own =
      some { fault := fault || (s.slot c j).fr.faultFlag, checked := (s.slot c j).checked, tag := (s.slot c j).stg.checkTag,
             cause := cause, late := late, lateCh := s.addrOf c } := by
  simp [State.report, h]

/-- Settles O26: the guard of the command holds, and what is left is its case on a read of a dead block. -/
theorem channelReportsFrameDone : Obligations.ChannelReportsFrameDone := by
  intro c j s x hlive hpol hown hover
  have guard : x.live ∧ x.job.polders ≠ 0 ∧ x.fr.own.isNone ∧ s.frameOver c j := ⟨hlive, hpol, by simp [hown], hover⟩
  refine ⟨fun hd => ?_, fun hd hcut hue => ?_⟩
  · show execChannelFrameDone c j s = _
    rw [execChannelFrameDone, if_pos guard, if_pos hd]
  · show Answers (execChannelFrameDone c j s) _
    rw [execChannelFrameDone, if_pos guard, if_neg (by simp [show (s.slot c j).fr.deadFault = false from hd]),
      dif_neg (by simp [show (s.slot c j).fr.cutFault = none from hcut]),
      dif_neg (by simp [show (s.slot c j).fr.ueFault = none from hue])]
    refine ⟨_, rfl, _, State.report_own _ c j _ _ _ (by simpa using hown), ?_⟩
    simp [Slot.checked, State.addrOf, x]

/-! ### Combined reports (R31, R34, R324) -/

theorem joinReports_cons (a : Report) (e : PortIx × Report) (l : List (PortIx × Report)) :
    joinReports a (e :: l) = joinReports (joinReport a e.2) l := rfl

theorem joinReports_fault (l : List (PortIx × Report)) (a : Report) :
    (joinReports a l).fault = (a.fault || l.any fun e => e.2.fault) := by
  induction l generalizing a with
  | nil => simp [joinReports]
  | cons e l ih => simp [joinReports_cons, ih, joinReport, Bool.or_assoc]

theorem le_joinReports_late (l : List (PortIx × Report)) (a : Report) : a.late ≤ (joinReports a l).late := by
  induction l generalizing a with
  | nil => exact Nat.le_refl _
  | cons e l ih => exact Nat.le_trans (Nat.le_max_left _ _) (ih (joinReport a e.2))

theorem mem_late_le_joinReports (l : List (PortIx × Report)) (a : Report) : ∀ e ∈ l, e.2.late ≤ (joinReports a l).late := by
  induction l generalizing a with
  | nil => simp
  | cons e l ih =>
    intro x hx
    rcases List.mem_cons.mp hx with rfl | hx
    · exact Nat.le_trans (Nat.le_max_right _ _) (le_joinReports_late l (joinReport a x.2))
    · exact ih _ x hx

/-- The late time, its cause and its channel are those of one report. -/
def SameLate (u a : Report) : Prop := u.late = a.late ∧ u.cause = a.cause ∧ u.lateCh = a.lateCh

theorem joinReport_sameLate (a b : Report) : SameLate (joinReport a b) a ∨ SameLate (joinReport a b) b := by
  by_cases h : a.late < b.late
  · exact .inr ⟨Nat.max_eq_right (Nat.le_of_lt h), if_pos h, if_pos h⟩
  · exact .inl ⟨Nat.max_eq_left (Nat.le_of_not_lt h), if_neg h, if_neg h⟩

theorem SameLate.trans {u v a : Report} (h : SameLate u v) (g : SameLate v a) : SameLate u a :=
  ⟨h.1.trans g.1, h.2.1.trans g.2.1, h.2.2.trans g.2.2⟩

theorem joinReports_sameLate (l : List (PortIx × Report)) (a : Report) :
    SameLate (joinReports a l) a ∨ ∃ e ∈ l, SameLate (joinReports a l) e.2 := by
  induction l generalizing a with
  | nil => exact .inl ⟨rfl, rfl, rfl⟩
  | cons e l ih =>
    rcases ih (joinReport a e.2) with h | ⟨x, hx, h⟩
    · rcases joinReport_sameLate a e.2 with g | g
      · exact .inl (h.trans g)
      · exact .inr ⟨e, by simp, h.trans g⟩
    · exact .inr ⟨x, by simp [hx], h⟩

theorem joinReports_checked (l : List (PortIx × Report)) (a : Report) :
    (joinReports a l).checked = true ↔ a.checked = true ∧ ∀ e ∈ l, e.2.checked = true ∧ e.2.tag = a.tag := by
  induction l generalizing a with
  | nil => simp [joinReports]
  | cons e l ih =>
    rw [joinReports_cons, ih, List.forall_mem_cons]
    simp only [joinReport, Bool.and_eq_true, beq_iff_eq, eq_comm (a := a.tag), and_assoc]

theorem joinOnly_all {l : List (PortIx × Report)} (h : l ≠ []) :
    ∃ u, joinOnly l = some u ∧ u.fault = l.any (fun e => e.2.fault) ∧ ∀ e ∈ l, e.2.late ≤ u.late := by
  obtain ⟨e, l, rfl⟩ := List.exists_cons_of_ne_nil h
  refine ⟨_, rfl, by simp [joinReports_fault], ?_⟩
  simpa using ⟨le_joinReports_late l e.2, fun a b hb => mem_late_le_joinReports l e.2 (a, b) hb⟩

/-! ### Forwarding up the tree -/

/-- A member with its own report and every child's keeps the combined one (R31). -/
theorem State.tryForward_combined (s : State) (c : Chan) (j : SlotIx) (own : Report) (hown : (s.slot c j).fr.own = some own)
    (hc : (s.slot c j).fr.combined = none)
    (all : ∀ p ∈ (s.slot c j).job.children, ∃ e ∈ (s.slot c j).fr.reports, e.1 = p) :
    ((s.tryForward c j).slot c j).fr.combined = some (joinReports own (s.slot c j).fr.reports) ∧
    ((s.tryForward c j).slot c j).fr.reports = (s.slot c j).fr.reports ∧
    ∀ up, (s.slot c j).job.parent = some up → (s.slot c j).job.acting = false → (s.port c up).speaks = true →
      (s.tryForward c j).outputs = s.outputs ++
        [.marker c up (.done (s.slot c j).job.tree (joinReports own (s.slot c j).fr.reports)) 3] := by
  have hall : ((s.slot c j).job.children.all fun p => (s.slot c j).fr.reports.any fun e => e.1 == p) = true := by
    simpa using all
  unfold State.tryForward
  simp only [hown, hc, hall, if_true]
  split
  · next up hup =>
    split
    · next hact => simp_all
    · refine ⟨by simp, by simp, fun up' hup' _ hsp => ?_⟩
      obtain rfl : up = up' := Option.some.inj (hup.symm.trans hup')
      simp [State.marker, hsp]
  · next hno => exact ⟨by simp, by simp, fun up hup => by simp [hno] at hup⟩

theorem State.tryForward_waits (s : State) (c : Chan) (j : SlotIx)
    (some_missing : ∃ p ∈ (s.slot c j).job.children, ∀ e ∈ (s.slot c j).fr.reports, e.1 ≠ p) : s.tryForward c j = s := by
  have hall : ((s.slot c j).job.children.all fun p => (s.slot c j).fr.reports.any fun e => e.1 == p) = false := by
    obtain ⟨p, hp, miss⟩ := some_missing
    exact List.all_eq_false.mpr ⟨p, hp, by simpa using fun b hb => miss (p, b) hb rfl⟩
  unfold State.tryForward
  simp only [hall, Bool.false_eq_true, if_false]
  split <;> rfl

/-- The first report of a child enters the slot, which then forwards what it can. -/
theorem execDoneMarker_member (c : Chan) (port : PortIx) (tree : BitVec 12) (r : Report) (t0 : Tree) (j : SlotIx) (s : State)
    (ht : (s.chan c).router.trees.look tree.toNat = some t0) (hj : t0.slot = some j) (hkid : port ∈ (s.slot c j).job.children)
    (new : ∀ e ∈ (s.slot c j).fr.reports, e.1 ≠ port) (hpol : (s.slot c j).job.polders ≠ 0) :
    execDoneMarker c port tree r s =
      .next ((s.onFr c j fun f => { f with reports := f.reports ++ [(port, r)] }).tryForward c j) := by
  have hnew : ((s.slot c j).fr.reports.any fun e => e.1 == port) = false := by simpa using new
  unfold execDoneMarker
  simp only [ht, hj]
  rw [if_pos (by simp [hkid, hnew]), if_neg fun h => hpol h.1]

theorem execDoneMarker_again (c : Chan) (port : PortIx) (tree : BitVec 12) (r : Report) (t0 : Tree) (j : SlotIx) (s : State)
    (ht : (s.chan c).router.trees.look tree.toNat = some t0) (hj : t0.slot = some j)
    (old : ∃ e ∈ (s.slot c j).fr.reports, e.1 = port) : execDoneMarker c port tree r s = .next s := by
  have hold : ((s.slot c j).fr.reports.any fun e => e.1 == port) = true := by simpa using old
  unfold execDoneMarker
  simp [ht, hj, hold]

/-- A node that is no member and has heard every child sends the combined report to its parent (R324). -/
theorem execDoneMarker_node (c : Chan) (port up : PortIx) (tree : BitVec 12) (r u : Report) (t0 : Tree) (s : State)
    (ht : (s.chan c).router.trees.look tree.toNat = some t0) (hj : t0.slot = none) (hkid : port ∈ t0.kids)
    (new : ∀ e ∈ t0.reports, e.1 ≠ port) (all : ∀ p ∈ t0.kids, ∃ e ∈ t0.reports ++ [(port, r)], e.1 = p)
    (hup : t0.parent = some up) (hu : joinOnly (t0.reports ++ [(port, r)]) = some u) :
    execDoneMarker c port tree r s = .next ((s.onChan c fun h => { h with router := { h.router with
      trees := h.router.trees.alter tree.toNat fun y => { y with reports := t0.reports ++ [(port, r)] } } }).marker c up
        (.done tree u)) := by
  have hnew : (t0.reports.any fun e => e.1 == port) = false := by simpa using new
  have hall : (t0.kids.all fun p => (t0.reports ++ [(port, r)]).any fun e => e.1 == p) = true := by
    rw [List.all_eq_true]
    intro p hp
    obtain ⟨e, he, hep⟩ := all p hp
    exact List.any_eq_true.mpr ⟨e, he, by simp [hep]⟩
  unfold execDoneMarker
  simp only [ht, hj, hup]
  rw [if_pos (by simp [hkid, hnew])]
  simp only [hall, if_true, hu]

/-- Settles O27: the report enters its node, and the combined one is a fold of the reports. -/
theorem nodesCombineReports : Obligations.NodesCombineReports := by
  intro c port tree r own t0 j up s x rs ks later ht
  refine ⟨fun hj => ⟨execDoneMarker_again c port tree r t0 j s ht hj, fun hkid new hpol hown hcomb => ⟨fun all => ?_, fun miss => ?_⟩⟩,
    fun hj hkid new all hup hsp => ?_⟩
  · have step := State.tryForward_combined (s.onFr c j fun f => { f with reports := f.reports ++ [(port, r)] }) c j own
      (by simpa using hown) (by simpa using hcomb) (by simpa only [State.onFr_slot_fr, State.onFr_slot_job] using all)
    simp only [State.onFr_slot_fr, State.onFr_slot_job, State.onFr_outputs] at step
    obtain ⟨comb, reps, out⟩ := step
    refine ⟨_, execDoneMarker_member c port tree r t0 j s ht hj hkid new hpol, _, reps, comb, joinReports_fault _ _,
      le_joinReports_late _ _, mem_late_le_joinReports _ _, joinReports_sameLate _ _, joinReports_checked _ _,
      fun hpar hact hsp => out up hpar hact (by simpa using hsp)⟩
  · have still := State.tryForward_waits (s.onFr c j fun f => { f with reports := f.reports ++ [(port, r)] }) c j
      (by simpa only [State.onFr_slot_fr, State.onFr_slot_job] using miss)
    refine ⟨_, execDoneMarker_member c port tree r t0 j s ht hj hkid new hpol, ?_⟩
    rw [still]
    simpa [rs, x] using hcomb
  · obtain ⟨u, hu, hfault, hlate⟩ := joinOnly_all (l := ks) (by simp [ks])
    refine ⟨_, execDoneMarker_node c port up tree r u t0 s ht hj hkid new all hup hu, u, ?_, hfault, hlate⟩
    have hsp' : ((s.onChan c fun h => { h with router := { h.router with
        trees := h.router.trees.alter tree.toNat fun y => { y with reports := t0.reports ++ [(port, r)] } } }).port c up).speaks = true := by
      simpa [State.port] using hsp
    simp [State.marker, hsp']

end Sys2Proof.Machine



namespace Sys2Proof.Machine

/-! ### Issuing a tick (R31, R32, R36, R37, R39, R62) -/

@[simp] theorem State.marker_timeNs (s : State) (c : Chan) (port : PortIx) (m : Marker) : (s.marker c port m).timeNs = s.timeNs :=
  State.marker_view State.timeNs (fun _ _ => rfl) s c port m

@[simp] theorem State.markers_slot (s : State) (c : Chan) (l : List PortIx) (m : Marker) (d : Chan) (j : SlotIx) :
    (s.each l fun t p => t.marker c p m).slot d j = s.slot d j :=
  State.each_same (fun t => t.slot d j) _ (fun t p => t.marker_slot c p m d j) l s

@[simp] theorem State.markers_timeNs (s : State) (c : Chan) (l : List PortIx) (m : Marker) :
    (s.each l fun t p => t.marker c p m).timeNs = s.timeNs :=
  State.each_same State.timeNs _ (fun t p => t.marker_timeNs c p m) l s

/-- A change of a channel outside its slots changes no slot. -/
theorem State.onChan_slot_same (s : State) (c d : Chan) (j : SlotIx) (f : Channel → Channel) (h : ∀ x, (f x).slots = x.slots) :
    (s.onChan c f).slot d j = s.slot d j := (Keeps.onChan (f := fun x => x) s c f h).2 d j

@[simp] theorem State.treeTick_slot (s : State) (c : Chan) (tree : BitVec 12) (frame : BitVec 8) (d : Chan) (j : SlotIx) :
    (s.treeTick c tree frame).slot d j = s.slot d j := State.onChan_slot_same s c d j _ fun _ => rfl

@[simp] theorem State.treeTick_timeNs (s : State) (c : Chan) (tree : BitVec 12) (frame : BitVec 8) :
    (s.treeTick c tree frame).timeNs = s.timeNs := rfl

@[simp] theorem State.event_slot (s : State) (c : Chan) (typ : Nat) (i : Option SlotIx) (unit : Nat) (d : BitVec 128) (e : Chan) (j : SlotIx) :
    (s.event c typ i unit d).slot e j = s.slot e j := State.onChan_slot_same s c e j _ fun _ => rfl

@[simp] theorem State.event_timeNs (s : State) (c : Chan) (typ : Nat) (i : Option SlotIx) (unit : Nat) (d : BitVec 128) :
    (s.event c typ i unit d).timeNs = s.timeNs := rfl

/-- A stretched frame of a slot is counted, with its event (R39). -/
def State.countStretch (s : State) (c : Chan) (j : SlotIx) (r : Report) (st : Nat) : State :=
  if st = 0 then s
  else (s.event c 0x03 (some j) 0 (detail [(0, 8, (s.slot c j).regs.frame), (8, 4, min st (2 ^ 32 - 1)), (12, 2, r.lateCh.toNat),
    (14, 1, r.cause.val)])).onRegs c j fun g => g.stretched st

/-- Of the slot a stretched frame changes only the counts of stretched frames. -/
theorem State.countStretch_slot (s : State) (c : Chan) (j : SlotIx) (r : Report) (st : Nat) :
    (s.countStretch c j r st).slot c j = { s.slot c j with regs := (s.slot c j).regs.stretched st } := by
  unfold State.countStretch
  split
  · next h => simp [SlotRegs.stretched, h]
  · simp [State.onRegs]

theorem State.countStretch_timeNs (s : State) (c : Chan) (j : SlotIx) (r : Report) (st : Nat) :
    (s.countStretch c j r st).timeNs = s.timeNs := by
  unfold State.countStretch
  split <;> rfl

theorem State.countStretch_mc (s : State) (c : Chan) (j : SlotIx) (r : Report) (st : Nat) :
    (s.countStretch c j r st).mc = s.mc := by
  unfold State.countStretch
  split <;> rfl

theorem SlotRegs.stretched_frame (g : SlotRegs) (st : Nat) : (g.stretched st).frame = g.frame := by
  unfold SlotRegs.stretched
  split <;> rfl

theorem SlotRegs.stretched_ovrFrames (g : SlotRegs) (now issued periodUs : Nat) :
    (g.stretched (stretchNs now issued periodUs)).ovrFrames =
      if now ≤ issued + periodUs * 1000 then g.ovrFrames else sat32 g.ovrFrames 1 := by
  unfold SlotRegs.stretched stretchNs
  by_cases h : now ≤ issued + periodUs * 1000
  · rw [if_pos (by omega), if_pos h]
  · rw [if_neg (by omega), if_neg h]

/-- Whether a job ends at a fence depends on its slot and on Gnover only. -/
theorem State.endsHere_congr {s t : State} {c : Chan} {j : SlotIx} (hjob : (t.slot c j).job = (s.slot c j).job)
    (hstop : (t.slot c j).stopAsked = (s.slot c j).stopAsked) (hframe : (t.slot c j).regs.frame = (s.slot c j).regs.frame)
    (hmc : t.mc = s.mc) : t.endsHere c j = s.endsHere c j := by
  simp only [State.endsHere, State.lastFrame, State.job, hjob, hstop, hframe, hmc]

/-- Whether a commit waits for the fence that a slot's tick ends. -/
def Slot.commitAsked (x : Slot) : Bool := x.stg.state == .commitPending && !x.stg.late && decide (x.stg.fences < 16)

/-- The master sends a tick to its children and holds it itself. -/
def State.sendTick (s : State) (c : Chan) (j : SlotIx) (commit : Bool) (frame : BitVec 8) (now : Nat) : State :=
  let x := s.slot c j
  (((((s.onStg c j fun g => { g with late := false, fences := if x.commitAsked then g.fences + 1 else g.fences }).treeTick c x.job.tree
    frame).onFr c j fun f => { f with issueNs := now }).each x.job.children
      fun t p => t.marker c p (.tick x.job.tree commit frame 0)).onFr c j fun f => { f with pend := some ⟨commit, 0, now⟩ }).onRegs c j
        fun g => { g with path := 0 }

theorem State.sendTick_slot (s : State) (c : Chan) (j : SlotIx) (commit : Bool) (frame : BitVec 8) (now : Nat) :
    (s.sendTick c j commit frame now).slot c j = { s.slot c j with
      stg := { (s.slot c j).stg with
        late := false, fences := if (s.slot c j).commitAsked then (s.slot c j).stg.fences + 1 else (s.slot c j).stg.fences },
      fr := { (s.slot c j).fr with issueNs := now, pend := some ⟨commit, 0, now⟩ }, regs := { (s.slot c j).regs with path := 0 } } := by
  simp [State.sendTick, State.onRegs, State.onFr, State.onStg]

theorem State.sendTick_timeNs (s : State) (c : Chan) (j : SlotIx) (commit : Bool) (frame : BitVec 8) (now : Nat) :
    (s.sendTick c j commit frame now).timeNs = s.timeNs := by
  simp [State.sendTick, State.onRegs, State.onFr, State.onStg]

/-- The tick of a running job whose fence is met and that goes on (R31, R36). -/
theorem execTickIssue_issues (c : Chan) (j : SlotIx) (r : Report) (s : State) (hr : (s.slot c j).fr.combined = some r)
    (met : s.fenceMet c j = true) (hpend : (s.slot c j).fr.pend = none) (hfault : r.fault = false)
    (hact : (s.slot c j).job.acting = false) (hhome : s.homeTrouble c j = none) (hends : s.endsHere c j = false)
    (hrun : (s.slot c j).job.state = .running) :
    execTickIssue c j s =
      let now := max s.timeNs (s.frameEnd c j)
      .next (((s.until (s.frameEnd c j)).countStretch c j r
        (stretchNs now (s.slot c j).fr.issueNs (s.slot c j).regs.set.periodUs)).sendTick c j
          ((s.slot c j).commitAsked && r.checked && r.tag == (s.slot c j).stg.commitTag && (s.slot c j).stopAsked.isNone)
          (BitVec.ofNat 8 (s.slot c j).nextFrame) now) := by
  have ends' : ((s.until (s.frameEnd c j)).countStretch c j r (stretchNs (max s.timeNs (s.frameEnd c j))
      (s.slot c j).fr.issueNs (s.slot c j).regs.set.periodUs)).endsHere c j = false := by
    rw [← hends]
    exact State.endsHere_congr (by rw [State.countStretch_slot]; rfl) (by rw [State.countStretch_slot]; rfl)
      (by rw [State.countStretch_slot]; exact SlotRegs.stretched_frame _ _) (State.countStretch_mc _ _ _ _ _)
  unfold execTickIssue
  extract_lets x first sNow st pending frame now
  simp -zeta only [x, hr]
  rw [if_pos ⟨met, by simp [hpend], by simp [hfault], by simp [hact]⟩]
  simp -zeta only [hhome]
  extract_lets s1 commit s2 s3 s4
  have hfirst : first = false := by simp [first, x, hrun]
  have hnow : sNow = s.until (s.frameEnd c j) := by simp [sNow, hfirst]
  have hs1 : s1 = (s.until (s.frameEnd c j)).countStretch c j r (stretchNs (max s.timeNs (s.frameEnd c j))
      (s.slot c j).fr.issueNs (s.slot c j).regs.set.periodUs) := by
    simp only [s1, st, hfirst, hnow]
    rfl
  have hend : s1.endsHere c j = false := hs1 ▸ ends'
  rw [if_neg (Bool.eq_false_iff.mp hend), ← hs1]
  simp only [State.sendTick, s4, s3, s2, hnow]
  have hx : s1.slot c j = { s.slot c j with regs := (s1.slot c j).regs } := by rw [hs1, State.countStretch_slot]; rfl
  rw [hx]
  rfl

theorem fences_add_bit (asked : Bool) (n : Nat) : (if asked = true then n + 1 else n) = n + bit asked := by
  cases asked <;> rfl

/-- Settles O28: the fence is met and nothing stops the tick, which is then sent with the time and the commit that the rules give. -/
theorem tickIssuesAfterPeriod : Obligations.TickIssuesAfterPeriod := by
  intro c j r s x last period due asked hr met hpend hfault hact hhome hends hrun
  refine ⟨_, execTickIssue_issues c j r s hr met hpend hfault hact hhome hends hrun, ?_⟩
  simp only [State.sendTick_slot, State.sendTick_timeNs, State.countStretch_slot, State.countStretch_timeNs]
  refine ⟨rfl, rfl, SlotRegs.stretched_frame _ _, rfl, ?_, SlotRegs.stretched_ovrFrames _ _ _ _⟩
  simp only [fences_add_bit]
  rfl

end Sys2Proof.Machine



namespace Sys2Proof.Machine

/-! ### What accesses to memory leave of a slot -/

/-- A slot without what a fault or an access to memory records in it: FLT_REC, the counts, the flags of the frame and the reports. -/
def Slot.core (x : Slot) : Slot := { x with
  regs := { x.regs with
    flt := FltRec.reset, cnt := Vector.replicate 8 0, deadRead := false, deadSpill := false, oobDrop := false,
    thrash := false, thrashFrame := 0 },
  fr := { x.fr with
    own := none, ownNs := 0, combined := none, combNs := 0, faultFlag := false, faultSeen := [], deadSeen := [], deadFault := false,
    ueFault := none, lines := 0, thrashed := false, waits := Vector.replicate 7 0 } }

/-- The cores of all slots stand, and the clock. -/
abbrev Steady (s t : State) : Prop := Keeps Slot.core s t

theorem Steady.onSlot (s : State) (c : Chan) (j : SlotIx) (g : Slot → Slot) (h : ∀ x, (g x).core = x.core) :
    Steady s (s.onSlot c j g) := Keeps.onSlot s c j g h

/-- What holds of the state that an operation with a further result leaves. -/
theorem Steady.fst {γ : Type} {s t : State} {v : γ} {x : State × γ} (h : x = (t, v)) (k : Steady s x.1) : Steady s t := by
  rw [h] at k
  exact k

theorem State.tryForward_steady (s : State) (c : Chan) (j : SlotIx) : Steady s (s.tryForward c j) := by
  unfold State.tryForward
  dsimp only
  split
  · refine Keeps.ite ?_ (Keeps.refl s)
    split
    · exact Keeps.ite (Steady.onSlot s c j _ fun _ => by rfl) ((Steady.onSlot s c j _ fun _ => by rfl).trans (State.marker_keeps _ c _ _))
    · exact Steady.onSlot s c j _ fun _ => by rfl
  · exact Keeps.refl s

theorem State.report_steady (s : State) (c : Chan) (j : SlotIx) (fault : Bool) (cause : Fin 7) (late : Nat) :
    Steady s (s.report c j fault cause late) :=
  Keeps.ite (Keeps.refl s) ((Steady.onSlot s c j _ fun _ => by rfl).trans (State.tryForward_steady _ c j))

theorem State.stopMember_steady (s : State) (c : Chan) (j : SlotIx) : Steady s (s.stopMember c j) :=
  ((Steady.onSlot s c j _ fun _ => by rfl).trans (State.stopPumps_keeps _ c j)).trans (State.report_steady _ c j true 0 0)

theorem State.fault_steady (s : State) (c : Chan) (j : SlotIx) (cause : Cause) (kind : UnitKind) (unit addr : Nat) :
    Steady s (s.fault c j cause kind unit addr) :=
  Keeps.ite (((((Steady.onSlot s c j _ fun _ => by rfl).trans (State.faultEvent_keeps _ c _ _ _ _ _ _)).trans
    (Keeps.each _ (fun t p => t.marker_keeps c p _) _ _)).trans (Steady.onSlot _ c j _ fun _ => by rfl)).trans
      (State.stopMember_steady _ c j)) (Keeps.refl s)

theorem State.sendTo_steady (s : State) (c : Chan) (j : Option SlotIx) (r : BitVec 2) (dest : ChanAddr) (f : OutFlit) :
    Steady s (s.sendTo c j r dest f) := by
  unfold State.sendTo
  split
  · exact State.sendFlit_keeps s c _ f
  · split
    · exact State.fault_steady s c _ _ _ _ _
    · exact Keeps.refl s

section
variable {α : Type} {f : Slot → α}

theorem Keeps.onMc (s : State) (g : Gnover → Gnover) : Keeps f s (s.onMc g) := Keeps.refl s

theorem State.mapPut_keeps (s : State) (c : Chan) (m : MapChan) : Keeps f s (s.mapPut c m) := by
  unfold State.mapPut
  dsimp only
  exact Keeps.ite ((Keeps.onMc s _).trans (Keeps.each _ (fun t d => t.sendMgmt_keeps c _ _) _ _)) (s.sendMgmt_keeps c _ _)

theorem State.mapUpdate_keeps (s : State) (c : Chan) (g : MapChan → MapChan) : Keeps f s (s.mapUpdate c g) := by
  unfold State.mapUpdate
  split
  · exact Keeps.refl s
  · exact Keeps.ite (Keeps.refl s) (s.mapPut_keeps c _)

theorem State.addDefect_keeps (s : State) (c : Chan) (k : DefectKind) (src unit loc : Nat) :
    Keeps f s (s.addDefect c k src unit loc) :=
  Keeps.ite (Keeps.refl s) (Keeps.ite (Keeps.onMc s _) (Keeps.onChan _ c _ fun _ => by rfl))

theorem State.pinCheck_keeps (s : State) (c : Chan) (source unit : Nat) : Keeps f s (s.pinCheck c source unit) := by
  unfold State.pinCheck
  dsimp only
  split
  · exact (Keeps.onChan s c _ fun _ => by rfl).trans (State.mapUpdate_keeps _ c _)
  · exact Keeps.refl s

theorem State.logCe_keeps (s : State) (c : Chan) (source unit addr sym : Nat) (wrote : Bool) :
    Keeps f s (s.logCe c source unit addr sym wrote) := by
  unfold State.logCe
  extract_lets h same fresh log oldest log' counts t hard u
  have ht : Keeps f s u := (Keeps.onChan s c _ fun _ => by rfl).trans (State.pinCheck_keeps _ c source unit)
  refine Keeps.ite ?_ ht
  split
  · exact ht.trans (u.addDefect_keeps c _ _ _ _)
  · exact ht.trans (u.addDefect_keeps c _ _ _ _)
  · exact ht

theorem State.logUe_keeps (s : State) (c : Chan) (source unit addr : Nat) (owned : Bool) :
    Keeps f s (s.logUe c source unit addr owned) :=
  (Keeps.onChan s c _ fun _ => by rfl).trans (State.pinCheck_keeps _ c source unit)

theorem State.raiseOne_keeps (s : State) (c : Chan) (port : ArbPort) (q : Req) : Keeps f s (s.raiseOne c port q) := by
  unfold State.raiseOne
  split
  · exact (Keeps.onChan s c _ fun _ => by rfl).trans (Keeps.onChan _ c _ fun _ => by rfl)
  · exact Keeps.onChan s c _ fun _ => by rfl

theorem State.raise_keeps (s : State) (c : Chan) (port : ArbPort) (cls : ReqClass) (who : Nat) (slot : Option SlotIx) (n : Nat) :
    Keeps f s (s.raise c port cls who slot n) := Keeps.each _ (fun t _ => t.raiseOne_keeps c port _) _ s

end

/-! ### Reads and writes of granules -/

theorem Channel.store_slots (h : Channel) (k : Nat) (v : Granule) : (h.store k v).slots = h.slots := by
  unfold Channel.store
  split
  · rfl
  · split <;> rfl

theorem State.dataUe_steady (s : State) (c : Chan) (source k : Nat) : Steady s (s.dataUe c source k) := by
  unfold State.dataUe
  dsimp only
  split
  · exact ((State.logUe_keeps s c _ _ _ _).trans (State.event_keeps _ c _ _ _ _)).trans (State.fault_steady _ c _ _ _ _ _)
  · exact State.logUe_keeps s c _ _ _ _

theorem State.refuseWrite_steady (s : State) (c : Chan) (k : Nat) : Steady s (s.refuseWrite c k) :=
  Keeps.ite (s.dataUe_steady c _ k) ((s.dataUe_steady c _ k).trans (State.event_keeps _ c _ _ _ _))

theorem State.checked_steady (s : State) (c : Chan) (k : Nat) (v : Granule) (e : CodeWord) : Steady s (s.checked c k v e).1 := by
  unfold State.checked
  split
  · exact Keeps.refl s
  · next i x _ =>
    have stored := (s.logCe_keeps (f := Slot.core) c (keySource k) (s.unitOf c k).1 (s.unitOf c k).2 i true).trans
      (Keeps.onChan _ c _ fun h => h.store_slots k (v ^^^ (e ^^^ oneSymbol i x).setWidth 256))
    exact Keeps.ite stored (stored.trans (State.raise_keeps _ c _ _ _ _ _))
  · exact s.dataUe_steady c _ k

theorem State.forWrite_steady (s : State) (c : Chan) (k : Nat) : Steady s (s.forWrite c k).1 := by
  unfold State.forWrite
  dsimp only
  split
  · exact Keeps.refl s
  · split
    · exact s.refuseWrite_steady c k
    · exact s.checked_steady c k _ _

theorem State.storeAt_steady (s : State) (c : Chan) (j : Option SlotIx) (k : Nat) (v : Granule) : Steady s (s.storeAt c j k v) := by
  have stored : Steady s (s.onChan c fun h => h.store k v) := Keeps.onChan s c _ fun h => h.store_slots k v
  unfold State.storeAt
  dsimp only
  split
  · exact stored.trans (Steady.onSlot _ c _ _ fun _ => by rfl)
  · exact stored

theorem State.ueFound_steady (s : State) (c : Chan) (k : Nat) : Steady s (s.ueFound c k) := by
  unfold State.ueFound
  dsimp only
  split
  · exact (State.logUe_keeps s c _ _ _ _).trans (Steady.onSlot _ c _ _ fun _ => by rfl)
  · exact State.logUe_keeps s c _ _ _ _

theorem State.mergeBlock_steady (s : State) (c : Chan) (k : Nat) : Steady s (s.mergeBlock c k) := by
  refine Keeps.ite (Keeps.refl s) (Keeps.each _ (fun t i => ?_) _ s)
  refine Keeps.ite (Keeps.refl t) ?_
  split
  · exact Keeps.refl t
  · exact t.checked_steady c i _ _
  · exact t.ueFound_steady c i

/-! ### What is due -/

theorem State.applyBytes_steady (s : State) (c : Chan) (j : SlotIx) (k frame : Nat) (es : List Held) :
    Steady s (s.applyBytes c j k frame es) := by
  unfold State.applyBytes
  extract_lets own ws clash s1 narrow
  have h1 : Steady s s1 := by
    simp only [s1]
    clear_value clash
    rcases clash with _ | ⟨w, o⟩
    · exact Keeps.refl s
    · exact s.event_keeps c _ _ _ _
  clear_value s1
  split
  next s2 old hread =>
  have h2 : Steady s s2 := by
    split at hread
    · exact (Prod.mk.inj hread).1 ▸ h1.trans (s1.forWrite_steady c k)
    · exact (Prod.mk.inj hread).1 ▸ h1
  split
  · exact h2
  · next g0 =>
    extract_lets new s3
    have h3 : Steady s s3 := ((h2.trans (s2.storeAt_steady c _ k new)).trans (Keeps.onChan _ c _ fun _ => by rfl)).trans
      (State.mergeBlock_steady _ c k)
    exact Keeps.ite (h3.trans (Steady.onSlot _ c j _ fun _ => by rfl)) h3

theorem State.applyAtoms_steady (s : State) (c : Chan) (k : Nat) (as : List HeldAtom) : Steady s (s.applyAtoms c k as) := by
  refine Keeps.each _ (fun t u => ?_) _ s
  dsimp only
  split
  · exact Keeps.refl t
  · refine Keeps.ite ?_ (t.fault_steady c _ _ _ _ _)
    split
    · next hread => exact Steady.fst hread (t.forWrite_steady c k)
    · next t1 g0 hread =>
      have h1 : Steady t t1 := Steady.fst hread (t.forWrite_steady c k)
      exact (((h1.trans (t1.storeAt_steady c _ k _)).trans (Keeps.onChan _ c _ fun _ => by rfl)).trans
        (State.mergeBlock_steady _ c k)).trans (Steady.onSlot _ c _ _ fun _ => by rfl)

theorem State.killBlocks_steady (s : State) (c : Chan) (j : SlotIx) (k0 count : Nat) (fill : Granule) (scales : List Nat)
    (frame : Nat) : Steady s (s.killBlocks c j k0 count fill scales frame) := by
  unfold State.killBlocks
  extract_lets inR s0 s1
  have h1 : Steady s s1 := (Keeps.onChan s c _ fun _ => by rfl).trans
    (Keeps.each _ (fun t _ => Keeps.onChan t c _ fun _ => by rfl) _ s0)
  split
  · extract_lets r
    split
    · exact h1.trans (Keeps.onPump s1 c _ _)
    · exact (h1.trans (Keeps.onPump s1 c _ _)).trans (Steady.onSlot _ c _ _ fun _ => by rfl)
  · split
    · exact h1.trans (Keeps.onChan s1 c _ fun _ => by rfl)
    · exact (h1.trans (Keeps.onChan s1 c _ fun _ => by rfl)).trans (Steady.onSlot _ c _ _ fun _ => by rfl)

theorem State.applyDecls_steady (s : State) (c : Chan) (k : Nat) : Steady s (s.applyDecls c k) :=
  Keeps.each _ (fun t d => (Keeps.onChan t c _ fun _ => by rfl).trans (State.killBlocks_steady _ c _ _ _ _ _ _)) _ s

theorem State.heldRead_steady (s : State) (c : Chan) (j : Option SlotIx) (unit at_ : Nat) (v : Granule) (e : CodeWord) :
    Steady s (s.heldRead c j unit at_ v e).1 := by
  unfold State.heldRead
  split
  · exact Keeps.refl s
  · split
    · exact Keeps.refl s
    · exact s.logCe_keeps c _ _ _ _ _
    · dsimp only
      split
      · exact ((s.logUe_keeps c _ _ _ _).trans (State.event_keeps _ c _ _ _ _)).trans (State.fault_steady _ c _ _ _ _ _)
      · exact s.logUe_keeps c _ _ _ _

/-- A fold whose steps keep the slots' cores keeps them. -/
theorem Steady.foldl {β γ : Type} (g : State × γ → β → State × γ) (h : ∀ a b, Steady a.1 (g a b).1) (l : List β) (a : State × γ) :
    Steady a.1 (l.foldl g a).1 := by
  induction l generalizing a with
  | nil => exact Keeps.refl a.1
  | cons b l ih => exact (h a b).trans (ih (g a b))

theorem State.foldUpto_steady (s : State) (c : Chan) (p : PumpIx) (g rank : Nat) : Steady s (s.foldUpto c p g rank) := by
  unfold State.foldUpto
  split
  · extract_lets old new j s0
    refine Keeps.ite (Keeps.refl s) ?_
    have h0 : Steady s s0 := Keeps.onPump s c p _
    split
    · next hread => exact Steady.fst hread (h0.trans (s0.forWrite_steady c _))
    · next s1 v hread =>
      have h1 : Steady s s1 := Steady.fst hread (h0.trans (s0.forWrite_steady c _))
      refine Keeps.ite (h1.trans (s1.dataUe_steady c _ _)) ?_
      split
      next s2 sum hfold =>
      have h2 : Steady s1 s2 := by
        have := Steady.foldl (fun (a : State × Granule) (ib : Inbound) =>
          ((a.1.heldRead c j (physOf (s.chan c) p) g ib.val ib.up).1, a.2 + (a.1.heldRead c j (physOf (s.chan c) p) g ib.val ib.up).2))
          (fun a b => a.1.heldRead_steady c _ _ _ _ _) old (s1, v)
        exact Steady.fst hfold this
      exact (h1.trans h2).trans (s2.storeAt_steady c _ _ _)
  · exact Keeps.refl s

theorem State.applyFrame_steady (s : State) (c : Chan) (k frame : Nat) : Steady s (s.applyFrame c k frame) := by
  unfold State.applyFrame
  extract_lets mineE mineA es as s0 s1
  have h0 : Steady s s0 := Keeps.onChan s c _ fun _ => by rfl
  have h1 : Steady s s1 := by
    simp only [s1]
    split
    · exact h0.trans (s0.foldUpto_steady c _ _ _)
    · exact h0
  clear_value s1
  split
  next s2 vs hfold =>
  have h2 : Steady s s2 := by
    have := Steady.foldl (fun (a : State × List Held) (e : Held) =>
      ((a.1.heldRead c (some e.slot) ((keySlice k).elim 0 fun x => physOf (s.chan c) x.1) (k % 2 ^ 19) e.data e.up).1,
        a.2 ++ [{ e with data := (a.1.heldRead c (some e.slot) ((keySlice k).elim 0 fun x => physOf (s.chan c) x.1) (k % 2 ^ 19)
          e.data e.up).2, up := 0 }]))
      (fun a b => a.1.heldRead_steady c _ _ _ _ _) es (s1, [])
    exact h1.trans (Steady.fst hfold this)
  extract_lets s3 s4
  have h3 : Steady s s3 := by
    simp only [s3]
    split
    · exact h2
    · exact h2.trans (s2.applyBytes_steady c _ _ _ _)
  have h4 : Steady s s4 := Keeps.ite h3 (h3.trans (s3.applyAtoms_steady c k as))
  split
  · exact Keeps.ite h4 (h4.trans (Keeps.onPump s4 c _ _))
  · exact h4

theorem State.applyDue_steady (s : State) (c : Chan) (k : Nat) : Steady s (s.applyDue c k) :=
  (s.applyDecls_steady c k).trans (Keeps.each _ (fun t f => t.applyFrame_steady c k f) _ _)

theorem State.drain_steady (s : State) (c : Chan) : Steady s (s.drain c) :=
  Keeps.each _ (fun t k => t.applyDue_steady c k) _ s

end Sys2Proof.Machine

namespace Sys2Proof.Machine

/-! ### Folds over listed units -/

/-- What each step of a fold establishes at its own unit, and leaves standing at every other, holds of every listed unit. -/
theorem State.each_forall {ι : Type} [DecidableEq ι] (P : ι → State → Prop) (f : State → ι → State) (self : ∀ t i, P i (f t i))
    (other : ∀ t i k, i ≠ k → P i t → P i (f t k)) (i : ι) (l : List ι) (s : State) (h : i ∈ l) : P i (s.each l f) := by
  have kept : ∀ (l : List ι) (t : State), P i t → P i (t.each l f) := by
    intro l
    induction l with
    | nil => exact fun t ht => ht
    | cons k l ih =>
      intro t ht
      by_cases hk : i = k
      · exact ih _ (hk ▸ self t k)
      · exact ih _ (other t i k hk ht)
  induction l generalizing s with
  | nil => simp at h
  | cons k l ih =>
    rcases List.mem_cons.mp h with rfl | h
    · exact kept l _ (self s i)
    · exact ih (f s k) h

/-- A view that no step over a listed unit changes is the same after the fold. -/
theorem State.each_same_mem {α β : Type} (v : State → β) (f : State → α → State) (l : List α)
    (h : ∀ a ∈ l, ∀ t, v (f t a) = v t) (s : State) : v (s.each l f) = v s := by
  induction l generalizing s with
  | nil => rfl
  | cons a l ih =>
    exact (ih (fun b hb => h b (List.mem_cons_of_mem a hb)) (f s a)).trans (h a List.mem_cons_self s)

/-- What a coarser view sees stands where a finer one stands. -/
theorem Keeps.map {α β : Type} {f : Slot → α} {s t : State} (k : Keeps f s t) (g : α → β) : Keeps (fun x => g (f x)) s t :=
  ⟨k.1, fun c j => congrArg g (k.2 c j)⟩

/-! ### What a tick leaves of a slot after it began the frame (R33, R63) -/

/-- What a tick sets in a slot, and what it keeps of it. -/
def Slot.ticked (x : Slot) : Nat × SlotSet × Nat × Option PendingTick × Staging × SlotJob × Bool × Nat :=
  (x.regs.frame, x.regs.set, x.fr.tickNs, x.fr.pend, x.stg, x.job, x.regs.skew, x.regs.skewCount)

theorem Slot.polders_of_ticked {x y : Slot} (h : x.ticked = y.ticked) : x.job.polders = y.job.polders :=
  congrArg (fun v => v.2.2.2.2.2.1.polders) h

theorem Steady.ticked {s t : State} (h : Steady s t) : Keeps Slot.ticked s t := h.map Slot.ticked

theorem State.wantRamp_keeps {α : Type} {f : Slot → α} (s : State) (c : Chan) (pd : PolderIx) : Keeps f s (s.wantRamp c pd) :=
  Keeps.ite ((Keeps.onChan s c _ fun _ => by rfl).trans (Keeps.onPolder _ c _ _)) (Keeps.refl s)

theorem State.regionChange_keeps {α : Type} {f : Slot → α} (s : State) (c : Chan) (old new : Nat) :
    Keeps f s (s.regionChange c old new) := Keeps.ite (Keeps.refl s) (Keeps.onChan s c _ fun _ => by rfl)

/-- A slot whose checked staged set became the committed one (R63). -/
def Slot.committed (x : Slot) : Slot := { x with regs := { x.regs with set := x.stg.set }, stg := { x.stg with state := .clean } }

/-- Beside the slot itself a commit touches polders and the channel's fields, and what is due at a change of region. -/
theorem State.applyCommit_steady (s : State) (c : Chan) (j : SlotIx) : Steady (s.onSlot c j Slot.committed) (s.applyCommit c j) := by
  unfold State.applyCommit
  extract_lets h s1 s2
  have h1 : Steady (s.onSlot c j Slot.committed) s1 := by
    refine Keeps.each _ (fun t p => ?_) _ _
    exact Keeps.ite ((Keeps.onPolder t c p _).trans (State.wantRamp_keeps _ c p)) (Keeps.onPolder t c p _)
  have h2 : Steady (s.onSlot c j Slot.committed) s2 := Keeps.ite h1 (h1.trans (s1.drain_steady c))
  exact Keeps.ite ((h2.trans (Keeps.onChan s2 c _ fun _ => by rfl)).trans (State.regionChange_keeps _ c _ _)) h1

theorem State.ckptStart_keeps_ticked (s : State) (c : Chan) (j : SlotIx) (first busy commit : Bool) (f : Nat) :
    Keeps Slot.ticked s (s.ckptStart c j first busy commit f) := by
  unfold State.ckptStart
  extract_lets x stops asked due
  refine Keeps.ite (Keeps.ite ?_ (Keeps.refl s)) (Keeps.ite (Keeps.onSlot s c j _ fun _ => by rfl) (Keeps.refl s))
  exact (s.event_keeps c _ _ _ _).trans (Keeps.onSlot _ c j _ fun _ => by rfl)

theorem State.onSlot_slot_other (s : State) (c d : Chan) (i j : SlotIx) (g : Slot → Slot) (h : (d, i) ≠ (c, j)) :
    (s.onSlot d i g).slot c j = s.slot c j := by
  by_cases hd : d = c
  · subst hd
    exact State.onSlot_slot_ne s d i j g fun hi => h (by rw [hi])
  · simp [State.slot, State.onSlot_chan_ne s d c i g (Ne.symm hd)]

theorem State.homeTick_other (s : State) (c d : Chan) (i j : SlotIx) (first busy commit : Bool) (f : Nat) (h : (d, i) ≠ (c, j)) :
    ((s.homeTick d i first busy commit f).slot c j).ticked = (s.slot c j).ticked := by
  rw [State.homeTick, ((State.ckptStart_keeps_ticked _ d i first busy commit f).2 c j), State.onSlot_slot_other s c d i j _ h]

theorem State.homeTick_timeNs (s : State) (d : Chan) (i : SlotIx) (first busy commit : Bool) (f : Nat) :
    (s.homeTick d i first busy commit f).timeNs = s.timeNs :=
  (State.ckptStart_keeps_ticked _ d i first busy commit f).1

/-- The homes that follow a master's tick are other slots than one that holds a polder. -/
theorem State.homesTick_ticked (s : State) (c : Chan) (j : SlotIx) (first busy commit : Bool) (f : Nat)
    (hp : (s.slot c j).job.polders ≠ 0) : ((s.homesTick c j first busy commit f).slot c j).ticked = (s.slot c j).ticked ∧
      (s.homesTick c j first busy commit f).timeNs = s.timeNs := by
  have other : ∀ e ∈ s.homeSlots c j, e ≠ (c, j) := by
    rintro e he rfl
    simp only [State.homeSlots] at he
    split at he
    · exact hp (by simpa using (List.mem_filter.mp he).2)
    · simp at he
  have told := State.tellHomes_keeps (f := Slot.ticked) (s.each (s.homeSlots c j) fun t e => t.homeTick e.1 e.2 first busy commit f)
    c j f false
  constructor
  · rw [State.homesTick, told.2 c j]
    exact State.each_same_mem (fun t => (t.slot c j).ticked) _ _
      (fun e he t => t.homeTick_other c e.1 e.2 j first busy commit f (other e he)) s
  · rw [State.homesTick, told.1]
    exact State.each_same State.timeNs (fun t (e : Chan × SlotIx) => t.homeTick e.1 e.2 first busy commit f)
      (fun t e => t.homeTick_timeNs e.1 e.2 first busy commit f) _ s

theorem State.startPumps_keeps {α : Type} {f : Slot → α} (s : State) (c : Chan) (j : SlotIx) : Keeps f s (s.startPumps c j) :=
  Keeps.ite (Keeps.each _ (fun t p => Keeps.ite (Keeps.onPump t c p _) (Keeps.refl t)) _ s) (Keeps.refl s)

/-! ### The pumps of a job at a tick (R71) -/

/-- The working state of a pump is as a tick leaves it. -/
def Pump.isClear (q : Pump) : Prop :=
  q.x = [] ∧ q.lane = [] ∧ q.acc = [] ∧ q.bq = [] ∧ (∀ e ∈ q.dmem, e.1 < 0xC00 ∨ 0x1000 ≤ e.1) ∧ q.slice.echoes = []

theorem SMap.mem_without {α : Type} {m : SMap α} {lo hi : Nat} {e : Nat × α} (h : e ∈ m.without lo hi) : e.1 < lo ∨ hi ≤ e.1 := by
  have := (List.mem_filter.mp h).2
  simp at this
  omega

@[simp] theorem Pump.tick_dmem (q : Pump) : q.tick.dmem = q.dmem.without 0xC00 0x1000 := rfl

theorem Pump.tick_isClear (q : Pump) (f : Nat) (wanted : Nat → Bool) :
    ({ q.tick with slice := q.slice.tick f wanted } : Pump).isClear := by
  refine ⟨rfl, rfl, rfl, rfl, fun e he => ?_, rfl⟩
  have h : e ∈ q.tick.dmem := he
  rw [Pump.tick_dmem] at h
  exact SMap.mem_without h

theorem Pump.start_isClear {q : Pump} (h : q.isClear) (e : Option Nat) : (q.start e).isClear := by
  cases e <;> exact h

/-- No pump of the module changed. -/
def SamePumps (s t : State) : Prop := ∀ c p, t.pump c p = s.pump c p

section
variable {s t : State}

theorem SamePumps.refl (s : State) : SamePumps s s := fun _ _ => rfl

theorem SamePumps.trans {u : State} (a : SamePumps s t) (b : SamePumps t u) : SamePumps s u := fun c p => (b c p).trans (a c p)

theorem SamePumps.ite {u : State} {b : Prop} [Decidable b] (ht : SamePumps s t) (hu : SamePumps s u) :
    SamePumps s (if b then t else u) := by
  split
  · exact ht
  · exact hu

theorem SamePumps.each {α : Type} (f : State → α → State) (h : ∀ t a, SamePumps t (f t a)) (l : List α) (s : State) :
    SamePumps s (s.each l f) := fun c p => State.each_same (fun t => t.pump c p) f (fun t a => h t a c p) l s

theorem SamePumps.onChan (s : State) (c : Chan) (f : Channel → Channel) (h : ∀ x, (f x).pumps = x.pumps) : SamePumps s (s.onChan c f) := by
  intro d p
  by_cases hd : d = c
  · subst hd
    simp [State.pump, h]
  · simp [State.pump, State.onChan_chan_ne s c d f hd]

theorem SamePumps.onSlot (s : State) (c : Chan) (j : SlotIx) (f : Slot → Slot) : SamePumps s (s.onSlot c j f) :=
  SamePumps.onChan s c _ fun _ => by rfl

theorem SamePumps.onPort (s : State) (c : Chan) (j : PortIx) (f : Port → Port) : SamePumps s (s.onPort c j f) :=
  SamePumps.onChan s c _ fun _ => by rfl

theorem State.sendMgmt_pumps (s : State) (c : Chan) (dest : ChanAddr) (r : MgmtRec) : SamePumps s (s.sendMgmt c dest r) := by
  unfold State.sendMgmt State.sendTo
  split
  · exact SamePumps.ite (SamePumps.onPort s c _ _) (SamePumps.onPort s c _ _)
  · exact SamePumps.refl s

theorem State.tellHomes_pumps (s : State) (c : Chan) (j : SlotIx) (f : Nat) (halt : Bool) : SamePumps s (s.tellHomes c j f halt) := by
  unfold State.tellHomes
  dsimp only
  split
  · exact SamePumps.refl s
  · refine SamePumps.ite (SamePumps.each _ (fun t a => ?_) _ s) (SamePumps.refl s)
    split
    · exact t.sendMgmt_pumps c _ _
    · exact SamePumps.refl t

theorem State.ckptStart_pumps (s : State) (c : Chan) (j : SlotIx) (first busy commit : Bool) (f : Nat) :
    SamePumps s (s.ckptStart c j first busy commit f) :=
  SamePumps.ite (SamePumps.ite ((SamePumps.onChan s c _ fun _ => by rfl).trans (SamePumps.onSlot _ c j _)) (SamePumps.refl s))
    (SamePumps.ite (SamePumps.onSlot s c j _) (SamePumps.refl s))

theorem State.homesTick_pumps (s : State) (c : Chan) (j : SlotIx) (first busy commit : Bool) (f : Nat) :
    SamePumps s (s.homesTick c j first busy commit f) :=
  (SamePumps.each _ (fun t (e : Chan × SlotIx) => (SamePumps.onSlot t e.1 e.2 _).trans
    (State.ckptStart_pumps _ e.1 e.2 first busy commit f)) _ s).trans (State.tellHomes_pumps _ c j f false)

end

theorem Pump.stopIn_isClear {q : Pump} (h : q.isClear) (polders : BitVec 16) (p : PumpIx) : (q.stopIn polders p).isClear := by
  unfold Pump.stopIn
  split <;> exact h

/-- A pump that starts is as clear as it was. -/
theorem State.startPumps_isClear (s : State) (c : Chan) (j : SlotIx) (p : PumpIx) (h : (s.pump c p).isClear) :
    ((s.startPumps c j).pump c p).isClear := by
  have kept : ∀ (l : List PumpIx) (t : State), (t.pump c p).isClear → ((t.each l fun t q =>
      if (t.pump c q).run = .idle ∧ (t.polder c (polderOf q)).dom = .on then t.onPump c q fun x => x.start x.entry else t).pump c p).isClear := by
    intro l
    induction l with
    | nil => exact fun t ht => ht
    | cons q l ih =>
      refine fun t ht => ih _ ?_
      dsimp only
      split
      · by_cases hq : p = q
        · subst hq
          rw [State.onPump_pump]
          exact Pump.start_isClear ht _
        · rwa [State.onPump_pump_ne _ _ _ _ _ hq]
      · exact ht
  unfold State.startPumps
  split
  · exact kept _ s h
  · exact h

/-! ### The effect of a tick -/

/-- A slot at the beginning of frame f, before a commit. -/
def Slot.begun (x : Slot) (now f : Nat) (late peak : Nat) (first opens : Bool) : Slot :=
  { x with
    regs := { x.regs.stretched late with frame := f, cnt := upd x.regs.cnt 3 (max peak) },
    job := { x.job with state := if first then .running else x.job.state },
    fr := { x.fr.next now f with windowOpen := opens, windowNs := now },
    inputs := x.inputs.filter fun i => decide (f < i.frame),
    urgents := x.urgents.map fun u => if opens then { u with eligible := true } else u }

/-- The frame that a tick begins: the first tick of a job keeps its frame number (R33). -/
def Slot.frameAtTick (x : Slot) : Nat :=
  if x.job.state = .admitting ∨ x.job.state = .restoring then x.regs.frame else (x.regs.frame + 1) % 2 ^ 64

theorem SlotRegs.stretched_set (g : SlotRegs) (st : Nat) : (g.stretched st).set = g.set := by
  unfold SlotRegs.stretched
  split <;> rfl

/-- A slot once its tick has taken effect, with COMMIT or without. -/
def Slot.ticks (x : Slot) (commit : Bool) (now f late peak : Nat) (first opens : Bool) : Slot :=
  if commit then (x.begun now f late peak first opens).committed else x.begun now f late peak first opens

section
variable (x : Slot) (commit : Bool) (now f late peak : Nat) (first opens : Bool)

theorem Slot.ticks_polders : (x.ticks commit now f late peak first opens).job.polders = x.job.polders := by
  cases commit <;> rfl

theorem Slot.ticks_frame : (x.ticks commit now f late peak first opens).regs.frame = f := by
  cases commit <;> rfl

theorem Slot.ticks_tickNs : (x.ticks commit now f late peak first opens).fr.tickNs = now := by
  cases commit <;> rfl

theorem Slot.ticks_pend : (x.ticks commit now f late peak first opens).fr.pend = none := by
  cases commit <;> rfl

theorem Slot.ticks_set : (x.ticks commit now f late peak first opens).regs.set = if commit then x.stg.set else x.regs.set := by
  cases commit
  · exact SlotRegs.stretched_set _ _
  · rfl

theorem Slot.ticks_stg : (x.ticks commit now f late peak first opens).stg =
    if commit then { x.stg with state := .clean } else x.stg := by
  cases commit <;> rfl

end

/-- What follows at a tick once the slot has begun its frame: the homes' frames begin, and the member stops or starts its pumps. -/
def State.tickOn (s : State) (c : Chan) (j : SlotIx) (first busy commit : Bool) (f : Nat) : State :=
  let t := s.homesTick c j first busy commit f
  if (t.slot c j).fr.faultFlag then t.stopMember c j else t.startPumps c j

/-- A tick leaves its member's slot with its frame begun and the pumps of its job clear, before the homes' frames begin. -/
theorem State.tickEffect_begins (s : State) (c : Chan) (j : SlotIx) (commit : Bool) :
    ∃ (u : State) (busy : Bool) (late peak : Nat) (first opens : Bool), s.tickEffect c j commit = u.tickOn c j first busy commit (s.slot c j).frameAtTick ∧
      u.timeNs = s.timeNs ∧
      (u.slot c j).ticked = ((s.slot c j).ticks commit s.timeNs (s.slot c j).frameAtTick late peak first opens).ticked ∧
      ∀ p : PumpIx, (s.slot c j).job.polders.getLsbD (p.val / 8) = true → (u.pump c p).isClear := by
  unfold State.tickEffect
  extract_lets x first f now peak busy late opens s1 a s2 s3 s4 s5
  have hf : f = (s.slot c j).frameAtTick := by simp [f, Slot.frameAtTick, first, x]
  have h1 : s1.slot c j = x.begun now f late peak first opens := State.onSlot_slot ..
  have h2 : s2.timeNs = s.timeNs ∧ (s2.slot c j).ticked = (x.ticks commit now f late peak first opens).ticked := by
    have ha : Keeps Slot.ticked (s1.onSlot c j Slot.committed) (if x.job.lead then a.endCommit c j 0 else a) :=
      Keeps.ite ((s1.applyCommit_steady c j).ticked.trans (State.endCommit_keeps _ c j 0)) (s1.applyCommit_steady c j).ticked
    cases commit with
    | true => exact ⟨ha.1, (ha.2 c j).trans (by rw [State.onSlot_slot, h1]; rfl)⟩
    | false => exact ⟨rfl, by rw [show s2 = s1 from rfl, h1]; rfl⟩
  have job2 : (s2.slot c j).job.polders = x.job.polders :=
    (Slot.polders_of_ticked h2.2).trans (x.ticks_polders commit now f late peak first opens)
  have h3 : Keeps Slot.ticked s2 s3 := Keeps.each _ (fun t q => (Keeps.onPump t c q _).trans (Keeps.onPolder _ c _ _)) _ s2
  have clear3 : ∀ p : PumpIx, x.job.polders.getLsbD (p.val / 8) = true → (s3.pump c p).isClear := by
    intro p hp
    refine State.each_forall (fun q t => (t.pump c q).isClear) _ (fun t q => ?_) (fun t i k hik h => ?_) p _ s2
      ((Channel.mem_pumpsOf _ j p).mpr (by rw [← job2] at hp; exact hp))
    · simpa using Pump.tick_isClear _ f _
    · simpa [State.onPump_pump_ne _ _ _ _ _ hik] using h
  have h4 : Keeps Slot.ticked s3 s4 := Keeps.onChan s3 c _ fun _ => by rfl
  have h5 := (h3.trans h4).trans (State.ckptStart_keeps_ticked s4 c j first busy commit f)
  have same : SamePumps s3 (s4.ckptStart c j first busy commit f) :=
    (SamePumps.onChan s3 c _ fun _ => by rfl).trans (State.ckptStart_pumps s4 c j first busy commit f)
  refine ⟨s4.ckptStart c j first busy commit f, busy, late, peak, first, opens, ?_, h5.1.trans h2.1, (h5.2 c j).trans (hf ▸ h2.2),
    fun p hp => ?_⟩
  · unfold State.tickOn
    rw [← hf]
  rw [same c p]
  exact clear3 p hp

theorem State.tickOn_keeps (s : State) (c : Chan) (j : SlotIx) (first busy commit : Bool) (f : Nat) :
    Keeps Slot.ticked (s.homesTick c j first busy commit f) (s.tickOn c j first busy commit f) :=
  Keeps.ite (State.stopMember_steady _ c j).ticked (State.startPumps_keeps _ c j)

theorem State.tickOn_isClear (s : State) (c : Chan) (j : SlotIx) (first busy commit : Bool) (f : Nat) (p : PumpIx)
    (h : (s.pump c p).isClear) : ((s.tickOn c j first busy commit f).pump c p).isClear := by
  rw [← State.homesTick_pumps s c j first busy commit f c p] at h
  unfold State.tickOn
  dsimp only
  split
  · rw [State.stopMember_pump]
    exact Pump.stopIn_isClear h _ _
  · exact State.startPumps_isClear _ c j p h

/-- What a tick leaves of its member's slot, and of the pumps of its job. -/
theorem State.tickEffect_ticked (s : State) (c : Chan) (j : SlotIx) (commit : Bool) (p : PumpIx)
    (hp : (s.slot c j).job.polders.getLsbD (p.val / 8) = true) :
    (s.tickEffect c j commit).timeNs = s.timeNs ∧
    (∃ late peak first opens, ((s.tickEffect c j commit).slot c j).ticked =
      ((s.slot c j).ticks commit s.timeNs (s.slot c j).frameAtTick late peak first opens).ticked) ∧
    ((s.tickEffect c j commit).pump c p).isClear := by
  obtain ⟨u, busy, late, peak, first, opens, heq, htime, hslot, hclear⟩ := s.tickEffect_begins c j commit
  have hpol : (u.slot c j).job.polders ≠ 0 := by
    intro h
    rw [Slot.polders_of_ticked hslot, Slot.ticks_polders] at h
    simp [h] at hp
  obtain ⟨homes, hometime⟩ := u.homesTick_ticked c j first busy commit (s.slot c j).frameAtTick hpol
  obtain ⟨ontime, onslot⟩ := u.tickOn_keeps c j first busy commit (s.slot c j).frameAtTick
  rw [heq]
  exact ⟨ontime.trans (hometime.trans htime), ⟨late, peak, first, opens, (onslot c j).trans (homes.trans hslot)⟩,
    u.tickOn_isClear c j first busy commit _ p (hclear p hp)⟩

theorem execTickTakesEffect_acts (c : Chan) (j : SlotIx) (pt : PendingTick) (s : State) (hp : (s.slot c j).fr.pend = some pt)
    (hlive : (s.slot c j).live = true) (hhalt : (s.slot c j).job.state ≠ .halted) :
    execTickTakesEffect c j s =
      .next ((s.until (pt.ns + ((s.slot c j).regs.dmax - pt.path) / 4)).tickEffect c j pt.commit) := by
  unfold execTickTakesEffect
  simp only [hp]
  exact if_pos ⟨hlive, hhalt⟩

/-- Settles O29: at the pending tick's time the slot begins its frame, with the commit or without, and its pumps are clear. -/
theorem tickTakesEffect : Obligations.TickTakesEffect := by
  intro c j pt p s x first hpend hlive hhalt hpol
  obtain ⟨htime, ⟨late, peak, fst, opens, hslot⟩, hclear⟩ :=
    (s.until (pt.ns + (x.regs.dmax - pt.path) / 4)).tickEffect_ticked c j pt.commit p hpol
  refine ⟨_, execTickTakesEffect_acts c j pt s hpend hlive hhalt, ?_⟩
  generalize (s.until (pt.ns + (x.regs.dmax - pt.path) / 4)).tickEffect c j pt.commit = t at htime hslot hclear
  simp only [Slot.ticked, Prod.mk.injEq] at hslot
  obtain ⟨frame, set, tick, pend, stg, -⟩ := hslot
  rw [Slot.ticks_frame] at frame
  rw [Slot.ticks_set] at set
  rw [Slot.ticks_tickNs, ← htime] at tick
  rw [Slot.ticks_pend] at pend
  rw [Slot.ticks_stg] at stg
  obtain ⟨hx, hlane, hacc, hbq, hdmem, hecho⟩ := hclear
  refine ⟨htime, frame, tick, pend, fun hc => ?_, fun hc => ?_, hx, hlane, hacc, hbq, hdmem, hecho⟩
  · rw [set, stg, hc]
    exact ⟨rfl, rfl⟩
  · rw [set, stg, hc]
    exact ⟨rfl, rfl⟩

/-! ### TICK markers and local ticks (R30, R321-R323) -/

/-- What every step of a fold leaves standing holds after it. -/
theorem State.each_invariant {α : Type} (P : State → Prop) (f : State → α → State) (h : ∀ t a, P t → P (f t a)) (l : List α)
    (s : State) (hs : P s) : P (s.each l f) := by
  induction l generalizing s with
  | nil => exact hs
  | cons a l ih => exact ih _ (h s a hs)

/-- A slot whose frame began at the present time, with these counts of skew. -/
def BegunNow (c : Chan) (j : SlotIx) (skew : Bool) (count : Nat) (now : Nat) (s : State) : Prop :=
  s.timeNs = now ∧ (s.slot c j).regs.skew = skew ∧ (s.slot c j).regs.skewCount = count ∧ (s.slot c j).fr.tickNs = now ∧
  (s.slot c j).fr.pend = none

section
variable {c : Chan} {j : SlotIx} {skew : Bool} {count now : Nat} {s t : State}

theorem BegunNow.keeps (h : BegunNow c j skew count now s) (k : Keeps Slot.ticked s t) : BegunNow c j skew count now t := by
  obtain ⟨htime, hskew, hcount, htick, hpend⟩ := h
  have hslot := k.2 c j
  simp only [Slot.ticked, Prod.mk.injEq] at hslot
  obtain ⟨-, -, tick, pend, -, -, sk, skc⟩ := hslot
  exact ⟨k.1.trans htime, sk.trans hskew, skc.trans hcount, tick.trans htick, pend.trans hpend⟩

/-- Where the frame of a home begins too, it begins now. -/
theorem BegunNow.homeTick (h : BegunNow c j skew count now s) (d : Chan) (i : SlotIx) (first busy commit : Bool) (f : Nat) :
    BegunNow c j skew count now (s.homeTick d i first busy commit f) := by
  refine BegunNow.keeps ?_ (State.ckptStart_keeps_ticked _ d i first busy commit f)
  by_cases hd : (d, i) = (c, j)
  · obtain ⟨rfl, rfl⟩ := Prod.mk.inj hd
    obtain ⟨htime, hskew, hcount, htick, hpend⟩ := h
    refine ⟨htime, ?_, ?_, ?_, ?_⟩ <;> rw [State.onSlot_slot]
    · exact hskew
    · exact hcount
    · exact htime
    · rfl
  · unfold BegunNow
    rw [State.onSlot_slot_other s c d i j _ hd]
    exact h

theorem BegunNow.homesTick (h : BegunNow c j skew count now s) (d : Chan) (i : SlotIx) (first busy commit : Bool) (f : Nat) :
    BegunNow c j skew count now (s.homesTick d i first busy commit f) :=
  BegunNow.keeps (State.each_invariant (BegunNow c j skew count now) (fun t (e : Chan × SlotIx) => t.homeTick e.1 e.2 first busy commit f)
    (fun _ e ht => BegunNow.homeTick ht e.1 e.2 first busy commit f) (s.homeSlots d i) s h) (State.tellHomes_keeps _ d i f false)

end

theorem Slot.ticks_skew (x : Slot) (commit : Bool) (now f late peak : Nat) (first opens : Bool) :
    (x.ticks commit now f late peak first opens).regs.skew = x.regs.skew ∧
    (x.ticks commit now f late peak first opens).regs.skewCount = x.regs.skewCount := by
  cases commit <;>
    (simp only [Slot.ticks, Bool.false_eq_true, if_false, if_true, Slot.committed, Slot.begun, SlotRegs.stretched]; split <;> simp)

/-- A tick begins a frame of its member now, and leaves its counts of skew. -/
theorem State.tickEffect_begunNow (s : State) (c : Chan) (j : SlotIx) (commit : Bool) :
    BegunNow c j (s.slot c j).regs.skew (s.slot c j).regs.skewCount s.timeNs (s.tickEffect c j commit) := by
  obtain ⟨u, busy, late, peak, first, opens, heq, htime, hslot, -⟩ := s.tickEffect_begins c j commit
  rw [heq]
  refine BegunNow.keeps (BegunNow.homesTick ?_ c j first busy commit _) (State.tickOn_keeps u c j first busy commit _)
  simp only [Slot.ticked, Prod.mk.injEq] at hslot
  obtain ⟨-, -, tick, pend, -, -, sk, skc⟩ := hslot
  have skews := (s.slot c j).ticks_skew commit s.timeNs (s.slot c j).frameAtTick late peak first opens
  exact ⟨htime, sk.trans skews.1, skc.trans skews.2, tick.trans (Slot.ticks_tickNs ..), pend.trans (Slot.ticks_pend ..)⟩

theorem execTickMarker_later (c : Chan) (port : PortIx) (tree : BitVec 12) (commit : Bool) (copy : BitVec 2) (frame : BitVec 8)
    (acc : BitVec 20) (t0 : Tree) (s : State) (ht : (s.chan c).router.trees.look tree.toNat = some t0)
    (last : t0.lastTick = some frame) : execTickMarker c port tree commit copy frame acc s = .next s := by
  unfold execTickMarker
  simp only [ht]
  exact if_pos (.inl last)

/-- A member that the first copy of a tick has reached over a path: it holds the tick, which goes on over the tree. -/
def State.heldTick (s : State) (c : Chan) (port : PortIx) (tree : BitVec 12) (commit : Bool) (frame : BitVec 8) (t0 : Tree) (j : SlotIx)
    (path : Nat) : State :=
  ((((s.treeTick c tree frame).each ((List.finRange 12).filter fun p => t0.mask.getLsbD p.val && p != port) fun u p =>
    u.marker c p (.tick tree commit frame path)).onRegs c j fun g => { g with path := path }).onFr c j fun f =>
      { f with pend := some ⟨commit, path, s.timeNs⟩ })

/-- A tick over a path longer than DMAX is counted, with its event (R323). -/
def State.countSkew (s : State) (c : Chan) (j : SlotIx) (path dmax : Nat) : State :=
  (s.onRegs c j fun g => { g with skew := true, skewCount := sat16 g.skewCount 1 }).event c 0x0A (some j) 0
    (detail [(0, 4, path), (4, 4, dmax)])

theorem execTickMarker_first (c : Chan) (port : PortIx) (tree : BitVec 12) (commit : Bool) (copy : BitVec 2) (frame : BitVec 8)
    (acc : BitVec 20) (t0 : Tree) (j : SlotIx) (s : State) (ht : (s.chan c).router.trees.look tree.toNat = some t0)
    (first : t0.lastTick ≠ some frame) (hcopy : copy.toNat < 3) (hj : t0.slot = some j) (hdel : t0.deliver = true)
    (hlive : (s.slot c j).live = true) : execTickMarker c port tree commit copy frame acc s =
      let path := (acc.toNat + (s.port c port).latQns.toNat + Config.forwardQns) % 2 ^ 20
      let t := s.heldTick c port tree commit frame t0 j path
      .next (if (s.slot c j).regs.dmax < path then (t.countSkew c j path (s.slot c j).regs.dmax).tickEffect c j commit else t) := by
  unfold execTickMarker
  simp only [ht]
  rw [if_neg (by simp [first]; omega)]
  simp only [hj]
  rw [if_pos ⟨hdel, hlive⟩]
  split <;> rfl

theorem State.heldTick_slot (s : State) (c : Chan) (port : PortIx) (tree : BitVec 12) (commit : Bool) (frame : BitVec 8) (t0 : Tree)
    (j : SlotIx) (path : Nat) : (s.heldTick c port tree commit frame t0 j path).slot c j = { s.slot c j with
      regs := { (s.slot c j).regs with path := path }, fr := { (s.slot c j).fr with pend := some ⟨commit, path, s.timeNs⟩ } } := by
  simp [State.heldTick, State.onRegs, State.onFr]

theorem State.heldTick_timeNs (s : State) (c : Chan) (port : PortIx) (tree : BitVec 12) (commit : Bool) (frame : BitVec 8) (t0 : Tree)
    (j : SlotIx) (path : Nat) : (s.heldTick c port tree commit frame t0 j path).timeNs = s.timeNs := by
  simp [State.heldTick, State.onRegs, State.onFr]

section
variable (s : State) (c : Chan) (j : SlotIx) (path dmax : Nat)

theorem State.countSkew_skew : ((s.countSkew c j path dmax).slot c j).regs.skew = true := by
  simp [State.countSkew]

theorem State.countSkew_count :
    ((s.countSkew c j path dmax).slot c j).regs.skewCount = sat16 (s.slot c j).regs.skewCount 1 := by
  simp [State.countSkew]

theorem State.countSkew_timeNs : (s.countSkew c j path dmax).timeNs = s.timeNs := rfl

end

/-- A commit changes of its slot's frame nothing, and its staged set is the committed one (R63). -/
theorem State.applyCommit_slot (s : State) (c : Chan) (j : SlotIx) :
    (s.applyCommit c j).timeNs = s.timeNs ∧ ((s.applyCommit c j).slot c j).regs.set = (s.slot c j).stg.set ∧
    ((s.applyCommit c j).slot c j).stg.state = .clean ∧ ((s.applyCommit c j).slot c j).fr.tickNs = (s.slot c j).fr.tickNs := by
  obtain ⟨htime, hslot⟩ := (s.applyCommit_steady c j).ticked
  have at_ := hslot c j
  rw [State.onSlot_slot] at at_
  simp only [Slot.ticked, Prod.mk.injEq] at at_
  obtain ⟨-, set, tick, -, stg, -⟩ := at_
  exact ⟨htime, set, congrArg Staging.state stg, tick⟩

/-- A channel with no job at its local tick, before a commit. -/
def State.localBegun (s : State) (c : Chan) : State :=
  let t := s.until ((s.slot c 0).fr.tickNs + (s.slot c 0).regs.set.periodUs * 1000)
  (t.onFr c 0 fun f => { f with tickNs := t.timeNs }).onChan c fun h => { h with reg := h.reg.snapshot 16 }

/-- The same with one more fence counted for the commit that waits. -/
def State.localFence (s : State) (c : Chan) : State := (s.localBegun c).onStg c 0 fun g => { g with fences := sat8 g.fences 1 }

theorem State.localBegun_slot (s : State) (c : Chan) : (s.localBegun c).slot c 0 = { s.slot c 0 with
    fr := { (s.slot c 0).fr with tickNs := max s.timeNs ((s.slot c 0).fr.tickNs + (s.slot c 0).regs.set.periodUs * 1000) } } := by
  unfold State.localBegun
  dsimp only
  rw [State.onChan_slot_same _ _ _ _ _ fun _ => by rfl]
  simp [State.onFr]

theorem State.localBegun_timeNs (s : State) (c : Chan) :
    (s.localBegun c).timeNs = max s.timeNs ((s.slot c 0).fr.tickNs + (s.slot c 0).regs.set.periodUs * 1000) := rfl

theorem execLocalTick_eq (c : Chan) (s : State) (idle : ∀ i : SlotIx, (s.slot c i).live = false) :
    execLocalTick c s = .next (if (s.slot c 0).stg.state = .commitPending then
      (s.localFence c).applyCommit c 0 else s.localBegun c) := by
  have none_live : (s.chan c).liveSlots.isEmpty = true := by
    rw [List.isEmpty_iff, Channel.liveSlots, List.filter_eq_nil_iff]
    exact fun i _ => by simpa [State.slot] using idle i
  unfold execLocalTick
  rw [if_pos none_live]
  rfl

/-- Settles O30: the marker's first copy is held or takes effect now; an idle channel's tick is the commit of slot 0. -/
theorem tickMarkersAndLocalTicks : Obligations.TickMarkersAndLocalTicks := by
  intro c port tree commit copy frame acc t0 j s path
  refine ⟨fun ht => ⟨execTickMarker_later c port tree commit copy frame acc t0 s ht, fun first hcopy hj hdel hlive hpath => ?_,
    fun first hcopy hj hdel hlive hpath => ?_⟩, fun idle => ?_⟩
  · refine ⟨_, (execTickMarker_first c port tree commit copy frame acc t0 j s ht first hcopy hj hdel hlive).trans
      (congrArg _ (if_neg (Nat.not_lt.mpr hpath))), ?_⟩
    simp [State.heldTick_slot, path]
  · have runs : exec (.tickMarker c port tree commit copy frame acc) s = .next
        (((s.heldTick c port tree commit frame t0 j path).countSkew c j path (s.slot c j).regs.dmax).tickEffect c j commit) :=
      (execTickMarker_first c port tree commit copy frame acc t0 j s ht first hcopy hj hdel hlive).trans
        (congrArg Host.Outcome.next (if_pos hpath))
    have now := State.tickEffect_begunNow ((s.heldTick c port tree commit frame t0 j path).countSkew c j path (s.slot c j).regs.dmax)
      c j commit
    rw [State.countSkew_skew, State.countSkew_count, State.countSkew_timeNs, State.heldTick_slot, State.heldTick_timeNs] at now
    generalize ((s.heldTick c port tree commit frame t0 j path).countSkew c j path (s.slot c j).regs.dmax).tickEffect c j commit = t
      at runs now
    obtain ⟨-, hskew, hcount, htick, hpend⟩ := now
    exact ⟨t, runs, hskew, hcount, htick, hpend⟩
  · refine ⟨_, execLocalTick_eq c s idle, ?_⟩
    have hslot := s.localBegun_slot c
    split
    · next hc =>
      obtain ⟨htime, set, stg, tick⟩ := (s.localFence c).applyCommit_slot c 0
      have fset : ((s.localFence c).slot c 0).stg.set = (s.slot c 0).stg.set := by simp [State.localFence, hslot]
      have ftick : ((s.localFence c).slot c 0).fr.tickNs = (s.localFence c).timeNs := by
        simp only [State.localFence, State.onStg_slot_fr, hslot, State.onStg_timeNs, s.localBegun_timeNs c]
      have ftime : (s.localFence c).timeNs = _ := s.localBegun_timeNs c
      clear hslot
      refine ⟨htime.trans ftime, ?_, ?_⟩
      · rw [tick, ftick, htime]
      · rw [set, stg, fset]
        exact ⟨fun _ => ⟨rfl, rfl⟩, fun h => absurd hc h⟩
    · next hc =>
      have htime := s.localBegun_timeNs c
      generalize s.localBegun c = t at hslot htime ⊢
      refine ⟨htime, ?_, fun h => absurd h hc, fun _ => ?_⟩
      · rw [htime, hslot]
      · rw [hslot]

end Sys2Proof.Machine

namespace Sys2Proof.Machine

/-! ### Halts (R42, R224) -/

/-- No pump of the module changed, and no held entry came. -/
def Quiet (s t : State) : Prop := SamePumps s t ∧ ∀ c, (t.chan c).held ⊆ (s.chan c).held

section
variable {s t : State}

theorem Quiet.refl (s : State) : Quiet s s := ⟨SamePumps.refl s, fun _ => List.Subset.refl _⟩

theorem Quiet.trans {u : State} (a : Quiet s t) (b : Quiet t u) : Quiet s u :=
  ⟨a.1.trans b.1, fun c => List.Subset.trans (b.2 c) (a.2 c)⟩

theorem Quiet.ite {u : State} {b : Prop} [Decidable b] (ht : Quiet s t) (hu : Quiet s u) : Quiet s (if b then t else u) := by
  split
  · exact ht
  · exact hu

theorem Quiet.each {α : Type} (f : State → α → State) (h : ∀ t a, Quiet t (f t a)) (l : List α) (s : State) : Quiet s (s.each l f) :=
  State.each_invariant (Quiet s) f (fun t a ht => ht.trans (h t a)) l s (Quiet.refl s)

theorem Quiet.onChan (s : State) (c : Chan) (f : Channel → Channel) (hp : ∀ x, (f x).pumps = x.pumps)
    (hh : ∀ x, (f x).held ⊆ x.held) : Quiet s (s.onChan c f) := by
  refine ⟨SamePumps.onChan s c f hp, fun d => ?_⟩
  by_cases hd : d = c
  · subst hd
    simpa using hh _
  · rw [State.onChan_chan_ne s c d f hd]
    exact List.Subset.refl _

theorem Quiet.onSlot (s : State) (c : Chan) (j : SlotIx) (f : Slot → Slot) : Quiet s (s.onSlot c j f) :=
  Quiet.onChan s c _ (fun _ => by rfl) fun _ => List.Subset.refl _

theorem Quiet.onPort (s : State) (c : Chan) (p : PortIx) (f : Port → Port) : Quiet s (s.onPort c p f) :=
  Quiet.onChan s c _ (fun _ => by rfl) fun _ => List.Subset.refl _

theorem Quiet.onPolder (s : State) (c : Chan) (p : PolderIx) (f : Polder → Polder) : Quiet s (s.onPolder c p f) :=
  Quiet.onChan s c _ (fun _ => by rfl) fun _ => List.Subset.refl _

theorem Quiet.of_ch (h : t.ch = s.ch) : Quiet s t :=
  ⟨fun c p => by simp [State.pump, State.chan, h], fun c => by simp [State.chan, h]⟩

theorem State.marker_quiet (s : State) (c : Chan) (p : PortIx) (m : Marker) : Quiet s (s.marker c p m) :=
  Quiet.ite (Quiet.of_ch rfl) (Quiet.refl s)

theorem State.onRing_quiet (s : State) (r : RingId) (g : Ring → Ring) : Quiet s (s.onRing r g) := by
  cases r with
  | admin fn => exact Quiet.of_ch rfl
  | well ctx w =>
    unfold State.onRing
    dsimp only
    split
    · exact Quiet.onChan s _ _ (fun _ => by rfl) fun _ => List.Subset.refl _
    · exact Quiet.refl s

theorem State.complete_quiet (s : State) (h : Hdr) (status result : Nat) : Quiet s (s.complete h status result) :=
  State.onRing_quiet s _ _

theorem State.sendMgmt_quiet (s : State) (c : Chan) (dest : ChanAddr) (r : MgmtRec) : Quiet s (s.sendMgmt c dest r) := by
  unfold State.sendMgmt State.sendTo
  split
  · exact Quiet.ite (Quiet.onPort s c _ _) (Quiet.onPort s c _ _)
  · exact Quiet.refl s

theorem State.tellHomes_quiet (s : State) (c : Chan) (j : SlotIx) (f : Nat) (halt : Bool) : Quiet s (s.tellHomes c j f halt) := by
  unfold State.tellHomes
  dsimp only
  split
  · exact Quiet.refl s
  · refine Quiet.ite (Quiet.each _ (fun t a => ?_) _ s) (Quiet.refl s)
    split
    · exact t.sendMgmt_quiet c _ _
    · exact Quiet.refl t

theorem State.onJob_quiet (s : State) (ctx job : Nat) (g : Job → Job) : Quiet s (s.onJob ctx job g) := Quiet.of_ch rfl

theorem State.endCommit_quiet (s : State) (c : Chan) (j : SlotIx) (reason : Nat) : Quiet s (s.endCommit c j reason) := by
  unfold State.endCommit
  dsimp only
  split
  · exact (s.onJob_quiet _ _ _).trans (State.complete_quiet _ _ _ _)
  · exact Quiet.refl s

theorem State.abandonCommit_quiet (s : State) (c : Chan) (j : SlotIx) : Quiet s (s.abandonCommit c j) :=
  Quiet.ite ((Quiet.onSlot s c j _).trans (State.endCommit_quiet _ c j 5)) (Quiet.refl s)

theorem State.revertBank_quiet (s : State) (c : Chan) (j : SlotIx) : Quiet s (s.revertBank c j) :=
  ((Quiet.onSlot s c j _).trans (Quiet.each _ (fun t p => Quiet.onPolder t c p _) _ _)).trans
    (Quiet.onChan _ c _ (fun _ => by split <;> rfl) fun _ => by split <;> exact List.Subset.refl _)

theorem State.endHold_quiet (s : State) (c : Chan) (j : SlotIx) : Quiet s (s.endHold c j) :=
  Quiet.onChan s c _ (fun _ => by rfl) fun _ => List.Subset.refl _

theorem State.endUrgents_quiet (s : State) (c : Chan) (j : SlotIx) (status : Nat) : Quiet s (s.endUrgents c j status) :=
  ((Quiet.onSlot s c j _).trans (State.endHold_quiet _ c j)).trans
    (Quiet.each _ (fun t (u : UrgentItem) => t.complete_quiet u.hdr status 0) _ _)

theorem State.settleChecks_quiet (s : State) (ctx job : Nat) : Quiet s (s.settleChecks ctx job) := by
  unfold State.settleChecks
  split
  · exact Quiet.refl s
  · refine Quiet.ite (Quiet.refl s) ?_
    split <;> exact (s.onJob_quiet ctx job _).trans (Quiet.each _ (fun t _ => t.complete_quiet _ _ _) _ _)

theorem State.homeHalt_quiet (s : State) (c : Chan) (j : SlotIx) (f : Nat) : Quiet s (s.homeHalt c j f) :=
  (Quiet.onChan s c _ (fun _ => by rfl) fun _ => List.filter_subset_self _).trans (Quiet.onSlot _ c j _)

end

/-- A halted slot, with the frame number at which it stood. -/
def HaltedAt (c : Chan) (j : SlotIx) (f : Nat) (s : State) : Prop := (s.slot c j).job.state = .halted ∧ (s.slot c j).regs.frame = f

/-- The state of a slot's job, and its frame number. -/
def Slot.stands (x : Slot) : SlotState × Nat := (x.job.state, x.regs.frame)

theorem HaltedAt.keeps {c : Chan} {j : SlotIx} {f : Nat} {s t : State} (h : HaltedAt c j f s) (k : Keeps Slot.stands s t) :
    HaltedAt c j f t := by
  have := k.2 c j
  simp only [Slot.stands, Prod.mk.injEq] at this
  exact ⟨this.1.trans h.1, this.2.trans h.2⟩

theorem HaltedAt.homeHalt {c : Chan} {j : SlotIx} {f : Nat} {s : State} (h : HaltedAt c j f s) (d : Chan) (i : SlotIx) (n : Nat) :
    HaltedAt c j f (s.homeHalt d i n) := by
  have h1 : HaltedAt c j f (s.onChan d fun h => { h with
    held := h.held.filter fun q => !(q.slot == i && q.frame == n),
    atoms := h.atoms.filter fun q => !(q.slot == i && q.frame == n),
    decls := h.decls.filter fun q => !(q.slot == i && q.frame == n) }) := h.keeps (Keeps.onChan s d _ fun _ => by rfl)
  unfold State.homeHalt HaltedAt
  by_cases hd : (d, i) = (c, j)
  · obtain ⟨rfl, rfl⟩ := Prod.mk.inj hd
    rw [State.onSlot_slot]
    exact ⟨rfl, h1.2⟩
  · rw [State.onSlot_slot_other _ c d i j _ hd]
    exact h1

/-- A halt stops the member: its state, its frame number, its pumps and what was held in the frame. -/
theorem State.haltEffect_halts (s : State) (c : Chan) (j : SlotIx) (p : PumpIx) :
    HaltedAt c j (s.slot c j).regs.frame (s.haltEffect c j) ∧
    ((s.slot c j).job.polders.getLsbD (p.val / 8) = true → ((s.haltEffect c j).pump c p).run = .stopped) ∧
    ∀ e ∈ ((s.haltEffect c j).chan c).held, e.slot = j → e.frame ≠ (s.slot c j).regs.frame := by
  unfold State.haltEffect
  extract_lets x n cause s1 s2 s3 s4 s5 s6 s7
  have k1 : Keeps (fun x => x.regs.frame) s s1 := (s.event_keeps c _ _ _ _).trans (State.stopPumps_keeps _ c j)
  have k3 : Keeps (fun x => x.regs.frame) s1 s3 := (Keeps.each _ (fun t p => Keeps.onPump t c p _) _ s1).trans (Keeps.onChan _ c _ fun _ => by rfl)
  have k4 : Keeps (fun x => x.regs.frame) s3 s4 :=
    (((State.abandonCommit_keeps (fun _ _ => rfl) s3 c j).trans (Keeps.onSlot _ c j Slot.reverted fun _ => by rfl)).trans
      (State.revertBank_keeps _ c j)).trans (State.endUrgents_keeps (fun _ _ => rfl) _ c j _)
  have run1 : x.job.polders.getLsbD (p.val / 8) = true → (s1.pump c p).run = .stopped := by
    intro hp
    have slot0 := (s.event_keeps (f := id) c 0x02 (some j) 0 (detail [(0, 8, n), (8, 2, x.job.master.toNat)])).2 c j
    simp only [id] at slot0
    simp only [s1, State.stopPumps_pump, slot0, Pump.stopIn]
    rw [if_pos hp]
    rfl
  have run3 : (s3.pump c p).run = (s1.pump c p).run := by
    have run2 : (s2.pump c p).run = (s1.pump c p).run := by
      refine State.each_same (fun t => (t.pump c p).run) _ (fun t q => ?_) _ s1
      by_cases hq : p = q
      · subst hq
        simp [State.onSlice]
      · simp [State.onSlice, State.onPump_pump_ne t c q p _ hq]
    simp [s3, State.pump] at run2 ⊢
    exact run2
  have held3 : ∀ e ∈ (s3.chan c).held, e.slot = j → e.frame ≠ n := by
    intro e he hj hn
    simp [s3, hj, hn] at he
  have q4 : Quiet s3 s4 := ((s3.abandonCommit_quiet c j).trans (State.revertBank_quiet _ c j)).trans (State.endUrgents_quiet _ c j _)
  have q5 : Quiet s4 s5 := Quiet.onSlot s4 c j _
  have q6 : Quiet s5 s6 := (Quiet.each _ (fun t (e : Chan × SlotIx) => t.homeHalt_quiet e.1 e.2 n) _ s5).trans (State.tellHomes_quiet _ c j n true)
  have q7 : Quiet s3 s7 := ((q4.trans q5).trans q6).trans (s6.settleChecks_quiet _ _)
  have h5 : HaltedAt c j n s5 := by
    unfold HaltedAt
    simp only [s5, State.onSlot_slot]
    exact ⟨trivial, ((k1.trans k3).trans k4).2 c j⟩
  have h6 : HaltedAt c j n s6 :=
    HaltedAt.keeps (State.each_invariant (HaltedAt c j n) (fun t (e : Chan × SlotIx) => t.homeHalt e.1 e.2 n)
      (fun _ e ht => ht.homeHalt e.1 e.2 n) (s.homeSlots c j) s5 h5) (State.tellHomes_keeps _ c j n true)
  have h7 : HaltedAt c j n s7 := h6.keeps (State.settleChecks_keeps s6 _ _)
  have rest : ∀ t, Quiet s3 t → HaltedAt c j n t → HaltedAt c j n t ∧
      (x.job.polders.getLsbD (p.val / 8) = true → (t.pump c p).run = .stopped) ∧ ∀ e ∈ (t.chan c).held, e.slot = j → e.frame ≠ n :=
    fun t q h => ⟨h, fun hp => by rw [q.1 c p, run3, run1 hp], fun e he => held3 e (q.2 c he)⟩
  split
  · exact rest s7 q7 h7
  · next jb _ =>
    have k8 := (s7.onJob_keeps x.job.ctx x.job.job fun y => { y with copies := [] }).trans
      (Keeps.each (f := Slot.stands) _ (fun t (k : HostCopy) => t.complete_keeps k.hdr stJobFaulted 0) jb.copies _)
    have q8 := (s7.onJob_quiet x.job.ctx x.job.job fun y => { y with copies := [] }).trans
      (Quiet.each _ (fun t (k : HostCopy) => t.complete_quiet k.hdr stJobFaulted 0) jb.copies _)
    exact rest _ (q7.trans (Quiet.ite q8 (q8.trans (State.onJob_quiet _ _ _ _))))
      (h7.keeps (Keeps.ite k8 (k8.trans (State.onJob_keeps _ _ _ _))))

/-- The conclusion of O31 for one member, from the state in which it takes the halt. -/
theorem State.haltEffect_member (s u : State) (c : Chan) (j : SlotIx) (p : PumpIx) (hu : u.slot c j = s.slot c j) :
    ((u.haltEffect c j).slot c j).job.state = .halted ∧ ((u.haltEffect c j).slot c j).regs.frame = (s.slot c j).regs.frame ∧
    ((s.slot c j).job.polders.getLsbD (p.val / 8) = true → ((u.haltEffect c j).pump c p).run = .stopped) ∧
    ∀ e ∈ ((u.haltEffect c j).chan c).held, e.slot = j → e.frame ≠ (s.slot c j).regs.frame := by
  obtain ⟨⟨hstate, hframe⟩, hrun, hheld⟩ := u.haltEffect_halts c j p
  rw [hu] at hframe hrun hheld
  exact ⟨hstate, hframe, hrun, hheld⟩

@[simp] theorem State.treeHalt_slot (s : State) (c : Chan) (tree : BitVec 12) (d : Chan) (j : SlotIx) :
    (s.treeHalt c tree).slot d j = s.slot d j := State.onChan_slot_same s c d j _ fun _ => by rfl

theorem execHaltTickIssue_halts (c : Chan) (j : SlotIx) (r : Report) (s : State) (hlive : (s.slot c j).live = true)
    (hnot : (s.slot c j).job.state ≠ .halted) (hr : (s.slot c j).fr.combined = some r) (hfault : r.fault = true)
    (hlead : (s.slot c j).job.lead = true) : execHaltTickIssue c j s =
      .next (((s.treeHalt c (s.slot c j).job.tree).each (s.slot c j).job.treePorts fun t q =>
        t.marker c q (.halt (s.slot c j).job.tree 0)).haltEffect c j) := by
  have guard : ((s.slot c j).live && ((s.slot c j).job.lead || (s.slot c j).job.acting) && (s.slot c j).job.state != .halted &&
      (r.fault || (s.slot c j).job.acting)) = true := by
    simp [hlive, hlead, hnot, hfault]
  simp only [execHaltTickIssue, hr, onlyIf]
  rw [if_pos guard]
  rfl

theorem execHaltMarker_halts (c : Chan) (j : SlotIx) (port : PortIx) (tree : BitVec 12) (copy : BitVec 2) (acc : BitVec 20) (t0 : Tree)
    (s : State) (hlive : (s.slot c j).live = true) (hnot : (s.slot c j).job.state ≠ .halted)
    (ht : (s.chan c).router.trees.look tree.toNat = some t0) (hh : t0.halt = false) (hcopy : copy.toNat < 3) (hj : t0.slot = some j)
    (hdel : t0.deliver = true) : execHaltMarker c port tree copy acc s =
      let path := (acc.toNat + (s.port c port).latQns.toNat + Config.forwardQns) % 2 ^ 20
      .next (((s.treeHalt c tree).each ((List.finRange 12).filter fun q => t0.mask.getLsbD q.val && q != port)
        fun u q => u.marker c q (.halt tree path)).haltEffect c j) := by
  unfold execHaltMarker
  simp only [ht]
  rw [if_neg (by simp [hh]; omega)]
  simp only [hj, onlyIf]
  rw [if_pos (by simpa [hdel, hlive] using hnot)]

/-- Settles O31: the master and the member reach the same effect over markers that change no slot. -/
theorem haltStopsJob : Obligations.HaltStopsJob := by
  intro c j r port tree copy acc t0 p s x halts hlive hnot
  have halted : ∀ (u : State) (res : Res), u.slot c j = x → res = .next (u.haltEffect c j) → halts res := by
    intro u res hu hres
    have member := State.haltEffect_member s u c j p hu
    generalize u.haltEffect c j = t at hres member
    exact ⟨t, hres, member⟩
  exact ⟨fun hr hfault hlead => halted _ _ (by simp [x]) (execHaltTickIssue_halts c j r s hlive hnot hr hfault hlead),
    fun ht hh hcopy hj hdel => halted _ _ (by simp [x]) (execHaltMarker_halts c j port tree copy acc t0 s hlive hnot ht hh hcopy hj hdel)⟩

end Sys2Proof.Machine

namespace Sys2Proof.Machine

/-! ### The priority window (R46, R47, R377) -/

theorem State.afterWindow_keeps {α : Type} {f : Slot → α} (s : State) (c : Chan) (j : SlotIx) : Keeps f s (s.afterWindow c j) :=
  Keeps.ite ((Keeps.each _ (fun t p => Keeps.onPump t c p _) _ s).trans (State.startPumps_keeps _ c j)) (Keeps.refl s)

@[simp] theorem State.startPumps_arbs (s : State) (c : Chan) (j : SlotIx) : ((s.startPumps c j).chan c).arbs = (s.chan c).arbs := by
  unfold State.startPumps
  split
  · refine State.each_same (fun t => (t.chan c).arbs) _ (fun t p => ?_) _ s
    split <;> simp
  · rfl

@[simp] theorem State.afterWindow_arbs (s : State) (c : Chan) (j : SlotIx) : ((s.afterWindow c j).chan c).arbs = (s.chan c).arbs := by
  unfold State.afterWindow
  dsimp only
  split
  · rw [State.startPumps_arbs]
    exact State.each_same (fun t => (t.chan c).arbs) _ (fun t p => t.onPump_chan_arbs c p _) _ s
  · rfl

theorem State.endHold_hold (s : State) (c : Chan) (j : SlotIx) (q : ArbPort) : j ∉ (((s.endHold c j).chan c).arbs[q.val]).hold := by
  simp [State.endHold]

theorem execWindowClose_closes (c : Chan) (j : SlotIx) (s : State) (hopen : (s.slot c j).fr.windowOpen = true) :
    Answers (execWindowClose c j s) fun t => (t.slot c j).fr.windowOpen = false ∧
      t.timeNs = max s.timeNs ((s.slot c j).fr.windowNs + (s.slot c j).regs.windowUs * 1000) := by
  have kept := State.afterWindow_keeps (f := fun x => x.fr.windowOpen)
    ((s.until ((s.slot c j).fr.windowNs + (s.slot c j).regs.windowUs * 1000)).onFr c j fun f => { f with windowOpen := false }) c j
  refine ⟨_, if_pos hopen, (kept.2 c j).trans (by simp), kept.1⟩

/-- The pumps of a job at the start of an urgent item: cleared, each at the item's entry. -/
def State.urgentPumps (s s0 : State) (c : Chan) (j : SlotIx) (entry : BitVec 8) : State :=
  s.each ((s.chan c).pumpsOf j) fun t p => t.onPump c p fun q => q.tickClear.start (s0.urgentEntry c j p entry)

theorem Pump.start_clear (q : Pump) (e : Option Nat) : (q.tickClear.start e).x = [] ∧ (q.tickClear.start e).acc = [] := by
  cases e <;> exact ⟨rfl, rfl⟩

theorem State.urgentPumps_pump (s s0 : State) (c : Chan) (j : SlotIx) (entry : BitVec 8) (p : PumpIx)
    (hp : (s.slot c j).job.polders.getLsbD (p.val / 8) = true) :
    ((s.urgentPumps s0 c j entry).pump c p).x = [] ∧ ((s.urgentPumps s0 c j entry).pump c p).acc = [] := by
  refine State.each_forall (fun q t => (t.pump c q).x = [] ∧ (t.pump c q).acc = []) _ (fun t q => ?_) (fun t i k hik h => ?_) p _ s
    ((Channel.mem_pumpsOf _ j p).mpr hp)
  · rw [State.onPump_pump]
    exact Pump.start_clear _ _
  · rwa [State.onPump_pump_ne _ _ _ _ _ hik]

/-- The items of a slot of which one starts. -/
def Slot.startItem (x : Slot) (u : UrgentItem) : Slot :=
  { x with urgents := x.urgents.map fun z => if z = u then { z with running := true } else z }

theorem execUrgentItemStart_starts (c : Chan) (j : SlotIx) (u : UrgentItem) (s : State) (hopen : (s.slot c j).fr.windowOpen = true)
    (hnone : (s.slot c j).urgent = none) (hflag : (s.slot c j).fr.faultFlag = false) (hckpt : (s.slot c j).ckpt = none)
    (hnext : nextUrgent ((s.slot c j).fr.windowNs + (s.slot c j).regs.windowUs * 1000 - s.timeNs) (s.slot c j).urgents [] = some u) :
    execUrgentItemStart c j s = .next ((s.onSlot c j (·.startItem u)).urgentPumps s c j u.entry) := by
  unfold execUrgentItemStart
  simp only [hckpt]
  rw [if_pos ⟨hopen, by simp [hnone], by simp [hflag], trivial⟩]
  simp only [hnext]
  rfl

/-- An urgent item that has ended has left its slot, with its record. -/
def State.itemOver (s : State) (c : Chan) (j : SlotIx) (u : UrgentItem) : State :=
  (s.onSlot c j fun y => { y with urgents := y.urgents.filter (· != u) }).complete u.hdr
    (if u.ctxFault then stContextFault else stSuccess) (s.slot c j).regs.frame

theorem execUrgentItemComplete_completes (c : Chan) (j : SlotIx) (u : UrgentItem) (s : State) (hu : (s.slot c j).urgent = some u)
    (hrep : ∀ p ∈ (s.chan c).pumpsOf j, (s.pump c p).run = .reported) :
    Answers (execUrgentItemComplete c j s) fun t => (t.slot c j).urgents = (s.slot c j).urgents.filter (· != u) ∧
      ∀ q : ArbPort, j ∉ (t.chan c).arbs[q.val].hold := by
  have all : ((s.chan c).pumpsOf j).all (fun p => (s.pump c p).run == .reported) = true := by simpa using hrep
  unfold execUrgentItemComplete
  extract_lets x close
  simp -zeta only [x, hu]
  rw [if_pos all]
  extract_lets s1 s2 s3
  have h1 : (s1.slot c j).urgents = (s.slot c j).urgents.filter (· != u) := by
    have kept := State.complete_keeps (f := Slot.urgents) (s.onSlot c j fun y => { y with urgents := y.urgents.filter (· != u) }) u.hdr
      (if u.ctxFault then stContextFault else stSuccess) (s.slot c j).regs.frame
    exact (kept.2 c j).trans (by simp)
  have k2 : Keeps Slot.urgents s1 s2 := Keeps.each _ (fun t p => Keeps.onPump t c p _) _ s1
  have k3 : Keeps Slot.urgents s2 s3 := Keeps.ite (Keeps.refl s2) (Keeps.onFr (fun _ _ => rfl) s2 c j _)
  have k4 : Keeps Slot.urgents s3 ((s3.endHold c j).afterWindow c j) := (s3.endHold_keeps c j).trans (State.afterWindow_keeps _ c j)
  refine ⟨_, rfl, (((k2.trans k3).trans k4).2 c j).trans h1, fun q => ?_⟩
  rw [State.afterWindow_arbs]
  exact s3.endHold_hold c j q

/-- Settles O33, one lemma per command of the window. -/
theorem priorityWindow : Obligations.PriorityWindow := by
  intro c j u p s x
  refine ⟨execWindowClose_closes c j s, fun hopen hnone hflag hckpt hnext => ?_, execUrgentItemComplete_completes c j u s⟩
  refine ⟨_, execUrgentItemStart_starts c j u s hopen hnone hflag hckpt hnext, ?_, fun hp => ?_⟩
  · have kept : Keeps Slot.urgents (s.onSlot c j (·.startItem u)) ((s.onSlot c j (·.startItem u)).urgentPumps s c j u.entry) :=
      Keeps.each _ (fun t q => Keeps.onPump t c q _) _ _
    rw [kept.2 c j, State.onSlot_slot]
    rfl
  · exact State.urgentPumps_pump _ s c j u.entry p (by rw [State.onSlot_slot]; exact hp)

end Sys2Proof.Machine

namespace Sys2Proof.Machine

/-! ### What faults, records and messages leave of the module -/

/-- A channel without what faults, events, records and messages change in it: its slots, pumps, ports, wells and black box. -/
def Channel.plant (h : Channel) : Channel :=
  { h with slots := Channel.reset.slots, pumps := Channel.reset.pumps, ports := Channel.reset.ports, bbx := Channel.reset.bbx,
           wells := [] }

/-- Gnover without what records and messages change in it: the fabric map and the admin rings. -/
def Gnover.core (m : Gnover) : Gnover := { m with fab := State.reset.mc.fab, admins := [] }

/-- Nothing changed but what faults, events, records and messages change, and no output is taken back. -/
structure Minor (s t : State) : Prop where
  time : t.timeNs = s.timeNs
  mc : t.mc.core = s.mc.core
  chan : ∀ c, (t.chan c).plant = (s.chan c).plant
  out : ∀ o ∈ s.outputs, o ∈ t.outputs

section
variable {s t : State}

theorem Minor.refl (s : State) : Minor s s := ⟨rfl, rfl, fun _ => rfl, fun _ h => h⟩

theorem Minor.trans {u : State} (a : Minor s t) (b : Minor t u) : Minor s u :=
  ⟨b.time.trans a.time, b.mc.trans a.mc, fun c => (b.chan c).trans (a.chan c),
    fun o h => b.out o (a.out o h)⟩

theorem Minor.ite {u : State} {b : Prop} [Decidable b] (ht : Minor s t) (hu : Minor s u) : Minor s (if b then t else u) := by
  split
  · exact ht
  · exact hu

theorem Minor.each {α : Type} (f : State → α → State) (h : ∀ t a, Minor t (f t a)) (l : List α) (s : State) : Minor s (s.each l f) :=
  State.each_invariant (Minor s) f (fun t a ht => ht.trans (h t a)) l s (Minor.refl s)

theorem Minor.onChan (s : State) (c : Chan) (f : Channel → Channel) (h : ∀ x, (f x).plant = x.plant) : Minor s (s.onChan c f) := by
  refine ⟨rfl, rfl, fun d => ?_, fun _ h => h⟩
  by_cases hd : d = c
  · subst hd
    simp [h]
  · rw [State.onChan_chan_ne s c d f hd]

theorem Minor.onSlot (s : State) (c : Chan) (j : SlotIx) (f : Slot → Slot) : Minor s (s.onSlot c j f) := Minor.onChan s c _ fun _ => by rfl

theorem Minor.onPump (s : State) (c : Chan) (p : PumpIx) (f : Pump → Pump) : Minor s (s.onPump c p f) := Minor.onChan s c _ fun _ => by rfl

theorem Minor.onPort (s : State) (c : Chan) (p : PortIx) (f : Port → Port) : Minor s (s.onPort c p f) := Minor.onChan s c _ fun _ => by rfl

theorem Minor.onMc (s : State) (f : Gnover → Gnover) (h : ∀ m, (f m).core = m.core) : Minor s (s.onMc f) := ⟨rfl, h s.mc, fun _ => rfl, fun _ o => o⟩

theorem Minor.emit (s : State) (o : Output) : Minor s (s.emit o) := ⟨rfl, rfl, fun _ => rfl, fun _ h => by simp [h]⟩

theorem Minor.at_ {α : Type} (h : Minor s t) (π : Channel → α) (c : Chan) : π (t.chan c).plant = π (s.chan c).plant :=
  congrArg π (h.chan c)

theorem Minor.of_mc {α : Type} (h : Minor s t) (π : Gnover → α) : π t.mc.core = π s.mc.core := congrArg π h.mc

theorem Minor.serving (h : Minor s t) (c : Chan) : t.serving c = s.serving c :=
  h.of_mc fun m => m.inService.getLsbD c.val

theorem Minor.pwr (h : Minor s t) (c : Chan) : (t.chan c).pwr = (s.chan c).pwr := h.at_ Channel.pwr c
theorem Minor.st (h : Minor s t) (c : Chan) : (t.chan c).st = (s.chan c).st := h.at_ Channel.st c
theorem Minor.thm (h : Minor s t) (c : Chan) : (t.chan c).thm = (s.chan c).thm := h.at_ Channel.thm c
theorem Minor.cis (h : Minor s t) (c : Chan) : (t.chan c).cis = (s.chan c).cis := h.at_ Channel.cis c
theorem Minor.stack (h : Minor s t) (c : Chan) : (t.chan c).stack = (s.chan c).stack := h.at_ Channel.stack c
theorem Minor.held (h : Minor s t) (c : Chan) : (t.chan c).held = (s.chan c).held := h.at_ Channel.held c
theorem Minor.polder (h : Minor s t) (c : Chan) (p : PolderIx) : t.polder c p = s.polder c p :=
  h.at_ (fun x => x.polders[p.val]) c
theorem Minor.mcPwr (h : Minor s t) : t.mc.pwr = s.mc.pwr := h.of_mc Gnover.pwr
theorem Minor.firm (h : Minor s t) : t.mc.firm = s.mc.firm := h.of_mc Gnover.firm

end

theorem State.marker_minor (s : State) (c : Chan) (p : PortIx) (m : Marker) : Minor s (s.marker c p m) :=
  Minor.ite (Minor.emit s _) (Minor.refl s)

theorem State.event_minor (s : State) (c : Chan) (typ : Nat) (j : Option SlotIx) (unit : Nat) (d : BitVec 128) :
    Minor s (s.event c typ j unit d) := Minor.onChan s c _ fun _ => by rfl

theorem State.faultEvent_minor (s : State) (c : Chan) (j : Option SlotIx) (code kind unit addr : Nat) (r : ChanAddr) :
    Minor s (s.faultEvent c j code kind unit addr r) := (s.event_minor c _ j unit _).trans (Minor.onChan _ c _ fun _ => by rfl)

theorem State.tryForward_minor (s : State) (c : Chan) (j : SlotIx) : Minor s (s.tryForward c j) := by
  unfold State.tryForward
  dsimp only
  split
  · refine Minor.ite ?_ (Minor.refl s)
    split
    · exact Minor.ite (Minor.onSlot s c j _) ((Minor.onSlot s c j _).trans (State.marker_minor _ c _ _))
    · exact Minor.onSlot s c j _
  · exact Minor.refl s

theorem State.report_minor (s : State) (c : Chan) (j : SlotIx) (fault : Bool) (cause : Fin 7) (late : Nat) :
    Minor s (s.report c j fault cause late) :=
  Minor.ite (Minor.refl s) ((Minor.onSlot s c j _).trans (State.tryForward_minor _ c j))

theorem State.stopPumps_minor (s : State) (c : Chan) (j : SlotIx) : Minor s (s.stopPumps c j) :=
  Minor.each _ (fun t p => Minor.onPump t c p _) _ s

theorem State.stopMember_minor (s : State) (c : Chan) (j : SlotIx) : Minor s (s.stopMember c j) :=
  ((Minor.onSlot s c j _).trans (State.stopPumps_minor _ c j)).trans (State.report_minor _ c j true 0 0)

theorem State.fault_minor (s : State) (c : Chan) (j : SlotIx) (cause : Cause) (kind : UnitKind) (unit addr : Nat) :
    Minor s (s.fault c j cause kind unit addr) :=
  Minor.ite (((((Minor.onSlot s c j _).trans (State.faultEvent_minor _ c _ _ _ _ _ _)).trans
    (Minor.each _ (fun t p => t.marker_minor c p _) _ _)).trans (Minor.onSlot _ c j _)).trans (State.stopMember_minor _ c j)) (Minor.refl s)

theorem State.faultAll_minor (s : State) (c : Chan) (js : List SlotIx) (cause : Cause) (kind : UnitKind) (unit : Nat) :
    Minor s (s.faultAll c js cause kind unit) := Minor.each _ (fun t j => t.fault_minor c j cause kind unit 0) _ s

theorem State.onRing_minor (s : State) (r : RingId) (g : Ring → Ring) : Minor s (s.onRing r g) := by
  cases r with
  | admin fn =>
    unfold State.onRing
    exact Minor.onMc s _ fun _ => by rfl
  | well ctx w =>
    unfold State.onRing
    dsimp only
    split
    · exact Minor.onChan s _ _ fun _ => by rfl
    · exact Minor.refl s

theorem State.complete_minor (s : State) (h : Hdr) (status result : Nat) : Minor s (s.complete h status result) := s.onRing_minor _ _

theorem State.sendFlit_minor (s : State) (c : Chan) (p : PortIx) (f : OutFlit) : Minor s (s.sendFlit c p f) :=
  Minor.ite ((Minor.onPort s c p _).trans (Minor.emit _ _)) (Minor.onPort s c p _)

theorem State.sendTo_minor (s : State) (c : Chan) (j : Option SlotIx) (r : BitVec 2) (dest : ChanAddr) (f : OutFlit) :
    Minor s (s.sendTo c j r dest f) := by
  unfold State.sendTo
  split
  · exact s.sendFlit_minor c _ f
  · split
    · exact s.fault_minor c _ _ _ _ _
    · exact Minor.refl s

theorem State.sendMgmt_minor (s : State) (c : Chan) (dest : ChanAddr) (r : MgmtRec) : Minor s (s.sendMgmt c dest r) := s.sendTo_minor ..

theorem State.mapPut_minor (s : State) (c : Chan) (m : MapChan) : Minor s (s.mapPut c m) := by
  unfold State.mapPut
  dsimp only
  exact Minor.ite ((Minor.onMc s _ fun _ => by rfl).trans (Minor.each _ (fun t d => t.sendMgmt_minor c _ _) _ _)) (s.sendMgmt_minor c _ _)

theorem State.mapUpdate_minor (s : State) (c : Chan) (g : MapChan → MapChan) : Minor s (s.mapUpdate c g) := by
  unfold State.mapUpdate
  split
  · exact Minor.refl s
  · exact Minor.ite (Minor.refl s) (s.mapPut_minor c _)

theorem State.tellMaster_minor (s : State) (c : Chan) (e : Through) (cause : Cause) : Minor s (s.tellMaster c e cause) :=
  Minor.each _ (fun t a => t.sendMgmt_minor c a _) _ s

theorem State.throughFault_minor (s : State) (c : Chan) (cause : Cause) (kind : UnitKind) : Minor s (s.throughFault c cause kind) :=
  ((Minor.ite (Minor.refl s) (s.faultEvent_minor c _ _ _ _ _ _)).trans
    (Minor.each _ (fun t _ => Minor.each _ (fun u p => u.marker_minor c p _) _ t) _ _)).trans
      (Minor.each _ (fun t e => t.tellMaster_minor c e cause) _ _)

theorem State.throughFault_keeps {α : Type} {f : Slot → α} (s : State) (c : Chan) (cause : Cause) (kind : UnitKind) :
    Keeps f s (s.throughFault c cause kind) :=
  ((Keeps.ite (Keeps.refl s) (s.faultEvent_keeps c _ _ _ _ _ _)).trans
    (Keeps.each _ (fun t _ => Keeps.each _ (fun u p => u.marker_keeps c p _) _ t) _ _)).trans
      (Keeps.each _ (fun t _ => Keeps.each _ (fun u a => u.sendMgmt_keeps c a _) _ t) _ _)

/-! ### FLT_REC after a fault of several jobs (R386) -/

/-- Whether a slot holds a job, and the first fault recorded for it. -/
def Slot.faultSeen (x : Slot) : Bool × Bool × BitVec 8 := (x.live, x.regs.flt.valid, x.regs.flt.cause)

/-- The first fault of a job is recorded, later ones are not. -/
def recordFault (code : BitVec 8) (v : Bool × Bool × BitVec 8) : Bool × Bool × BitVec 8 :=
  if v.1 && !v.2.1 then (true, true, code) else v

theorem recordFault_idem (code : BitVec 8) (v : Bool × Bool × BitVec 8) : recordFault code (recordFault code v) = recordFault code v := by
  obtain ⟨live, valid, cause⟩ := v
  cases live <;> cases valid <;> rfl

theorem State.fault_faultSeen (s : State) (c : Chan) (j : SlotIx) (cause : Cause) (kind : UnitKind) (unit addr : Nat) :
    ((s.fault c j cause kind unit addr).slot c j).faultSeen = recordFault (BitVec.ofNat 8 cause.code) (s.slot c j).faultSeen := by
  by_cases live : (s.slot c j).live = true
  · have kept := (State.fault_keeps (f := Slot.faultSeen) (fun _ _ => rfl) s c j cause kind unit addr live).2 c j
    rw [kept]
    cases hv : (s.slot c j).regs.flt.valid <;>
      simp [Slot.faultSeen, Slot.live, FltRec.take, recordFault, hv, show (s.slot c j).job.state ≠ .free by simpa [Slot.live] using live]
  · have dead : (s.slot c j).live = false := by simpa using live
    simp [State.fault, Slot.faultSeen, recordFault, dead]

/-- A fault of one slot records nothing in another. -/
theorem State.fault_faultSeen_ne (s : State) (c : Chan) (i j : SlotIx) (cause : Cause) (kind : UnitKind) (unit addr : Nat) (h : i ≠ j) :
    ((s.fault c j cause kind unit addr).slot c i).faultSeen = (s.slot c i).faultSeen := by
  by_cases live : (s.slot c j).live = true
  · rw [(State.fault_keeps (f := Slot.faultSeen) (fun _ _ => rfl) s c j cause kind unit addr live).2 c i]
    simp [State.onRegs, State.onSlot_slot_ne s c j i _ h]
  · simp [State.fault, live]

theorem State.faultAll_faultSeen (s : State) (c : Chan) (js : List SlotIx) (cause : Cause) (kind : UnitKind) (unit : Nat) (j : SlotIx) :
    ((s.faultAll c js cause kind unit).slot c j).faultSeen =
      if j ∈ js then recordFault (BitVec.ofNat 8 cause.code) (s.slot c j).faultSeen else (s.slot c j).faultSeen :=
  State.each_at (fun j t => (t.slot c j).faultSeen) (recordFault (BitVec.ofNat 8 cause.code)) _
    (fun t i => t.fault_faultSeen c i cause kind unit 0) (fun t i k h => t.fault_faultSeen_ne c i k cause kind unit 0 h)
    (recordFault_idem _) j js s

/-- A listed job without a fault so far has this one recorded. -/
theorem State.faultAll_hits (s : State) (c : Chan) (js : List SlotIx) (cause : Cause) (kind : UnitKind) (unit : Nat) (j : SlotIx)
    (hj : j ∈ js) (live : (s.slot c j).live = true) (fresh : (s.slot c j).regs.flt.valid = false) :
    ((s.faultAll c js cause kind unit).slot c j).faultSeen = (true, true, BitVec.ofNat 8 cause.code) := by
  rw [State.faultAll_faultSeen, if_pos hj]
  simp [Slot.faultSeen, recordFault, live, fresh]

/-! ### Leaving service (R478, Table 17.4) -/

/-- A channel that has left service, before the map hears of it. -/
def State.left (s : State) (c : Chan) (r : Nat) : State :=
  ((s.onSt c fun x => x.reason r true).onMc fun m => { m with inService := m.inService &&& ~~~(1#8 <<< c.val) }).domainsOff c

theorem State.leave_minor (s : State) (c : Chan) (r : Nat) : Minor (s.left c r) (s.leave c r) := State.mapUpdate_minor _ c _

theorem State.leave_keeps {α : Type} {f : Slot → α} (s : State) (c : Chan) (r : Nat) : Keeps f s (s.leave c r) :=
  ((Keeps.onChan s c _ fun _ => by rfl).trans ((Keeps.onMc _ _).trans ((Keeps.onChan _ c _ fun _ => by rfl).trans
    (Keeps.onChan _ c _ fun _ => by rfl)))).trans (State.mapUpdate_keeps _ c _)

@[simp] theorem State.leave_serving (s : State) (c : Chan) (r : Nat) : (s.leave c r).serving c = false := by
  rw [(s.leave_minor c r).serving]
  simp [State.left, State.serving, State.domainsOff]

@[simp] theorem State.leave_st (s : State) (c : Chan) (r : Nat) : ((s.leave c r).chan c).st = (s.chan c).st.reason r true := by
  rw [(s.leave_minor c r).st]
  simp [State.left, State.domainsOff]

@[simp] theorem State.leave_timeNs (s : State) (c : Chan) (r : Nat) : (s.leave c r).timeNs = s.timeNs := (s.leave_minor c r).time

@[simp] theorem State.leave_thm (s : State) (c : Chan) (r : Nat) : ((s.leave c r).chan c).thm = (s.chan c).thm := by
  rw [(s.leave_minor c r).thm]
  simp [State.left, State.domainsOff]

@[simp] theorem State.leave_pwr (s : State) (c : Chan) (r : Nat) : ((s.leave c r).chan c).pwr =
    { (s.chan c).pwr with ca := .off, cl := .off, hq := .off, ramping := none, rampQ := [] } := by
  rw [(s.leave_minor c r).pwr]
  simp [State.left, State.domainsOff]

theorem ChStatus.reason_bit (x : ChStatus) (r : Nat) (h : r < 12) : (x.reason r true).oos.getLsbD r = true := by
  simp [ChStatus.reason, h]

end Sys2Proof.Machine

namespace Sys2Proof.Machine

/-! ### Droop and rails (R417, R418) -/

theorem State.powerEvent_minor (s : State) (c : Chan) (kind b1 n : Nat) : Minor s (s.powerEvent c kind b1 n) := s.event_minor ..

theorem State.powerEvent_keeps {α : Type} {f : Slot → α} (s : State) (c : Chan) (kind b1 n : Nat) : Keeps f s (s.powerEvent c kind b1 n) :=
  s.event_keeps ..

theorem Keeps.onPwr {α : Type} {f : Slot → α} (s : State) (c : Chan) (g : Power → Power) : Keeps f s (s.onPwr c g) :=
  Keeps.onChan s c _ fun _ => by rfl

theorem Keeps.emit {α : Type} {f : Slot → α} (s : State) (o : Output) : Keeps f s (s.emit o) := Keeps.refl s

theorem Channel.mem_polderJobs (h : Channel) (j : SlotIx) :
    j ∈ h.polderJobs ↔ h.slots[j.val].live = true ∧ h.slots[j.val].job.polders ≠ 0 := by
  simp [Channel.polderJobs, Channel.liveSlots, and_comm]

theorem Channel.mem_liveSlots (h : Channel) (j : SlotIx) : j ∈ h.liveSlots ↔ h.slots[j.val].live = true := by
  simp [Channel.liveSlots]

@[simp] theorem State.onPwr_serving (s : State) (c : Chan) (f : Power → Power) (d : Chan) : (s.onPwr c f).serving d = s.serving d := rfl

theorem State.leave_oos (s : State) (c : Chan) {r : Nat} (h : r < 12) : ((s.leave c r).chan c).st.oos.getLsbD r = true := by
  rw [State.leave_st]
  exact ChStatus.reason_bit _ r h

/-- A POWER fault is the first that FLT_REC of a slot holds. -/
def PowerHit (c : Chan) (j : SlotIx) (t : State) : Prop := (t.slot c j).regs.flt.valid = true ∧ (t.slot c j).regs.flt.cause = 0x0B

theorem PowerHit.of_seen {c : Chan} {j : SlotIx} {t : State} (h : (t.slot c j).faultSeen = (true, true, BitVec.ofNat 8 Cause.power.code)) :
    PowerHit c j t := by
  simp only [Slot.faultSeen, Prod.mk.injEq] at h
  exact ⟨h.2.1, h.2.2⟩

theorem PowerHit.keeps {c : Chan} {j : SlotIx} {s t : State} (h : PowerHit c j s) (k : Keeps Slot.faultSeen s t) : PowerHit c j t := by
  have := k.2 c j
  simp only [Slot.faultSeen, Prod.mk.injEq] at this
  exact ⟨this.2.1.trans h.1, this.2.2.trans h.2⟩

/-- Where only things outside the slots have changed, a listed fresh job is hit by a POWER fault. -/
theorem State.faultAll_power (s t : State) (c : Chan) (js : List SlotIx) (kind : UnitKind) (unit : Nat) (j : SlotIx)
    (k : Keeps id s t) (hj : j ∈ js) (live : (s.slot c j).live = true) (fresh : (s.slot c j).regs.flt.valid = false) :
    PowerHit c j (t.faultAll c js .power kind unit) := by
  have same : t.slot c j = s.slot c j := k.2 c j
  exact PowerHit.of_seen (State.faultAll_hits t c js .power kind unit j hj (by rwa [same]) (by rwa [same]))

theorem execDroopSample_within (c : Chan) (mv : Nat) (s : State) (h : (s.chan c).pwr.setMv ≤ mv + 40) :
    execDroopSample c mv s = .next ((s.onPwr c fun y => { y with droopMv := mv }).emit (.droop c mv)) := by
  simp [execDroopSample, Nat.not_lt.mpr h, show ¬ mv + 80 < (s.chan c).pwr.setMv by omega]

/-- A channel whose droop emergency has been noted. -/
def State.droopEmergency (s : State) (c : Chan) (mv : Nat) : State :=
  (((s.onPwr c fun p => { p with droopMv := mv }).emit (.droop c mv)).onPwr c fun p =>
    { p with budget := 255, droopEmerg := true, emergCount := sat16 p.emergCount 1, emergNs := s.timeNs }).powerEvent c 3 0
      (s.chan c).pwr.phases

theorem execDroopSample_low (c : Chan) (mv : Nat) (s : State) (h : mv + 40 < (s.chan c).pwr.setMv) : execDroopSample c mv s = .next
      (if mv + 80 < (s.chan c).pwr.setMv then ((s.droopEmergency c mv).powerEvent c 4 0 ((s.droopEmergency c mv).chan c).pwr.phases).faultAll
        c ((s.droopEmergency c mv).chan c).polderJobs .power .none 0 else s.droopEmergency c mv) := by
  unfold execDroopSample
  simp only [h, if_true]
  simp [State.droopEmergency, Power.phases]

theorem State.droopEmergency_keeps {α : Type} {f : Slot → α} (s : State) (c : Chan) (mv : Nat) : Keeps f s (s.droopEmergency c mv) :=
  (((Keeps.onPwr s c _).trans (Keeps.emit _ _)).trans (Keeps.onPwr _ c _)).trans (State.powerEvent_keeps _ c _ _ _)

theorem State.droopEmergency_pwr (s : State) (c : Chan) (mv : Nat) : ((s.droopEmergency c mv).chan c).pwr = { (s.chan c).pwr with
    droopMv := mv, budget := 255, droopEmerg := true, emergCount := sat16 (s.chan c).pwr.emergCount 1, emergNs := s.timeNs } := by
  rw [State.droopEmergency, (State.powerEvent_minor _ c _ _ _).pwr]
  simp

/-- A droop emergency raises the pause, and a deeper one faults the jobs with a polder. -/
theorem execDroopSample_emergency (c : Chan) (mv : Nat) (j : SlotIx) (s : State) (h : mv + 40 < (s.chan c).pwr.setMv) :
    Answers (execDroopSample c mv s) fun t => (t.chan c).pwr = { (s.chan c).pwr with
        droopMv := mv, budget := 255, droopEmerg := true, emergCount := sat16 (s.chan c).pwr.emergCount 1, emergNs := s.timeNs } ∧
      (mv + 80 < (s.chan c).pwr.setMv → (s.slot c j).live = true → (s.slot c j).job.polders ≠ 0 →
        (s.slot c j).regs.flt.valid = false → PowerHit c j t) := by
  have kept : Keeps id s (s.droopEmergency c mv) := s.droopEmergency_keeps c mv
  have same : (s.droopEmergency c mv).slot c j = s.slot c j := kept.2 c j
  refine ⟨_, execDroopSample_low c mv s h, ?_, fun deep live pol fresh => ?_⟩
  · split
    · rw [(State.faultAll_minor _ c _ _ _ _).pwr, (State.powerEvent_minor _ c _ _ _).pwr, s.droopEmergency_pwr]
    · exact s.droopEmergency_pwr c mv
  · rw [if_pos deep]
    refine State.faultAll_power s _ c _ .none 0 j (kept.trans (State.powerEvent_keeps _ c _ _ _)) ?_ live fresh
    rw [Channel.mem_polderJobs]
    exact ⟨by rw [← live, ← same]; rfl, by rw [← same] at pol; exact pol⟩

/-- What R418 says of a channel whose rail has faulted, and of a job of its domains. -/
def RailOut (c : Chan) (j : SlotIx) (rail : Fin 4) (s t : State) : Prop :=
  (t.chan c).pwr.railFault = true ∧ t.serving c = false ∧ (t.chan c).st.oos.getLsbD 6 = true ∧
  ((s.slot c j).live = true → (s.slot c j).regs.flt.valid = false → (2 ≤ rail.val ∨ (s.slot c j).job.polders ≠ 0) → PowerHit c j t)

theorem State.mem_railJobs (s : State) (c : Chan) (rail : Fin 4) (j : SlotIx) (live : (s.slot c j).live = true)
    (h : 2 ≤ rail.val ∨ (s.slot c j).job.polders ≠ 0) : j ∈ (s.railJobs c rail).1 := by
  have all : j ∈ (s.chan c).liveSlots := (Channel.mem_liveSlots _ j).mpr live
  have some_ : (s.slot c j).job.polders ≠ 0 → j ∈ (s.chan c).polderJobs := fun hp => (Channel.mem_polderJobs _ j).mpr ⟨live, hp⟩
  match rail with
  | 0 => exact some_ (h.resolve_left (by decide))
  | 1 => exact some_ (h.resolve_left (by decide))
  | 2 => exact all
  | 3 => exact all

theorem State.railDown_out (s : State) (c : Chan) (rail : Fin 4) (n : Nat) (j : SlotIx) : RailOut c j rail s (s.railDown c rail n) := by
  unfold State.railDown
  rcases hjs : s.railJobs c rail with ⟨js, kind⟩
  dsimp -zeta only
  extract_lets s1 s2
  have k1 : Keeps id s s1 := (Keeps.onPwr s c _).trans (State.powerEvent_keeps _ c _ _ _)
  have flag1 : (s1.chan c).pwr.railFault = true := by
    simp only [s1]
    rw [(State.powerEvent_minor _ c _ _ _).pwr]
    simp
  have out2 : RailOut c j rail s s2 := by
    refine ⟨?_, State.leave_serving _ c 6, ?_, fun live fresh h => ?_⟩
    · simp only [s2, State.leave_pwr, (State.faultAll_minor _ c _ _ _ _).pwr, flag1]
    · exact State.leave_oos _ c (by decide)
    · exact (State.faultAll_power s s1 c js kind 0 j k1 (by simpa [hjs] using s.mem_railJobs c rail j live h) live fresh).keeps (State.leave_keeps _ c 6)
  split
  · obtain ⟨flag, serv, oos, hit⟩ := out2
    have minor := s2.throughFault_minor c .power kind
    refine ⟨?_, ?_, ?_, fun live fresh h => ?_⟩
    · simpa [minor.pwr] using flag
    · rw [State.onPwr_serving, minor.serving]
      exact serv
    · simpa [minor.st] using oos
    · exact (hit live fresh h).keeps ((s2.throughFault_keeps c .power kind).trans (Keeps.onPwr _ c _))
  · exact out2

theorem OnlyChan.onChan (c : Chan) (s : State) (f : Channel → Channel) : OnlyChan c s (s.onChan c f) := by
  unfold OnlyChan
  rw [State.onChan_chan]
  exact State.onChan_congr (f := f) (g := fun _ => f (s.chan c)) rfl

theorem OnlyChan.then {c : Chan} {s t : State} (h : OnlyChan c s t) (f : Channel → Channel) : OnlyChan c s (t.onChan c f) := by
  unfold OnlyChan at h
  rw [h, State.onChan_onChan]
  exact OnlyChan.onChan c s _

/-! ### Phases (R425, R426) -/

theorem bitsOf_length_le {n : Nat} (x : BitVec n) : (bitsOf x).length ≤ n := by
  simpa [bitsOf] using List.length_filter_le (fun i => x.getLsbD i) (List.range n)

/-- Good phases left once one is lost. -/
def Power.leftPhases (p : Power) (phase : Fin 24) : Nat := (bitsOf (p.good &&& ~~~(1#24 <<< phase.val))).length

theorem phaseStateOf_few {n : Nat} (h : n < 14) : phaseStateOf n = .out := by
  rw [phaseStateOf, if_neg (by omega), if_neg (by omega), if_neg (by omega), if_neg (by omega)]

/-- A channel one of whose phases is lost, before the channel leaves service for it. -/
def PhaseGone (c : Chan) (phase : Fin 24) (s t : State) : Prop :=
  (t.chan c).pwr.good = (s.chan c).pwr.good &&& ~~~(1#24 <<< phase.val) ∧ (t.chan c).pwr.phaseLost = true ∧
  (t.chan c).pwr.phState = phaseStateOf ((s.chan c).pwr.leftPhases phase) ∧
  (t.chan c).pwr.capA = phaseCap ((s.chan c).pwr.leftPhases phase)

theorem PhaseGone.of_pwr {c : Chan} {phase : Fin 24} {s t u : State} (h : PhaseGone c phase s t)
    (e : (u.chan c).pwr = (t.chan c).pwr) : PhaseGone c phase s u := by
  unfold PhaseGone
  rwa [e]

theorem PhaseGone.intoEff {c : Chan} {phase : Fin 24} {s t : State} (h : PhaseGone c phase s t) : PhaseGone c phase s (t.intoEff c) := by
  obtain ⟨good, lost, state, cap⟩ := h
  simp only [PhaseGone, State.intoEff, State.setVpump_pwr, State.onPwr_chan_pwr]
  exact ⟨good, lost, state, cap⟩

theorem execPhaseLoss_phases (c : Chan) (phase : Fin 24) (s : State) (h : (s.chan c).pwr.good.getLsbD phase.val = true) :
    Answers (execPhaseLoss c phase s) fun t => PhaseGone c phase s t ∧
      (phaseStateOf ((s.chan c).pwr.leftPhases phase) = .out → (s.chan c).pwr.phState ≠ .out →
        t.serving c = false ∧ (t.chan c).st.oos.getLsbD 7 = true) := by
  unfold execPhaseLoss
  extract_lets p good n st s1 s2 s3
  rw [if_pos h]
  have h1 : PhaseGone c phase s s1 := by
    unfold PhaseGone
    rw [show (s1.chan c).pwr = _ from State.onPwr_chan_pwr ..]
    exact ⟨rfl, rfl, rfl, rfl⟩
  have h2 : PhaseGone c phase s s2 := by
    simp only [s2]
    split
    · exact h1
    · exact h1.of_pwr ((s1.powerEvent_minor c _ _ _).pwr c)
  have h3 : PhaseGone c phase s s3 := by
    simp only [s3]
    split
    · exact h2.intoEff.of_pwr (by simp)
    · exact h2
  refine ⟨_, rfl, ?_, fun hout hold => ?_⟩
  · split
    · obtain ⟨good', lost', state', cap'⟩ := h3
      simp only [PhaseGone, State.leave_pwr, (State.faultAll_minor s3 c _ _ _ _).pwr]
      exact ⟨good', lost', state', cap'⟩
    · exact h3
  · rw [if_pos ⟨hout, hold⟩]
    exact ⟨State.leave_serving _ c 7, State.leave_oos _ c (by decide)⟩

/-! ### Pauses and the guard (R417, R427) -/

theorem execBudgetController_watts (c : Chan) (avgW avgA : Nat) (s : State) (hcap : (s.chan c).pwr.capA = 0)
    (hem : (s.chan c).pwr.emergCount = 0) : execBudgetController c avgW avgA s = .next (s.onPwr c fun y => { y with
      avgW := avgW, budget := if s.limitW c < avgW then min 255 (y.budget + 4)
        else if avgW * 100 < s.limitW c * 98 then y.budget - 1 else y.budget }) := by
  simp [execBudgetController, hcap, hem]

theorem execBudgetController_amps (c : Chan) (avgW avgA : Nat) (s : State) (hcap : (s.chan c).pwr.capA ≠ 0)
    (habove : (s.chan c).pwr.capA < avgA) : execBudgetController c avgW avgA s = .next (s.onPwr c fun y => { y with
      avgW := avgW, budget := min 255 (y.budget + 4) }) := by
  simp [execBudgetController, hcap, habove]

theorem execPwrCfgWrite_guard (c : Chan) (v : BitVec 32) (s : State) (h : s.windowOpen c = true) :
    Answers (execPwrCfgWrite c v s) fun t => OnlyChan c s t ∧
      (4 ≤ (v.extractLsb' 0 6).toNat → (v.extractLsb' 0 6).toNat ≤ 40 → (t.chan c).pwr.guard = (v.extractLsb' 0 6).toNat ∧
        (t.chan c).pwr.guardErr = ((s.chan c).pwr.guardErr && !v.getLsbD 6)) ∧
      ((v.extractLsb' 0 6).toNat < 4 ∨ 40 < (v.extractLsb' 0 6).toNat →
        (t.chan c).pwr.guard = (s.chan c).pwr.guard ∧ (t.chan c).pwr.guardErr = true) ∧
      (t.chan c).pwr.railFault = ((s.chan c).pwr.railFault && !v.getLsbD 9) := by
  simp only [execPwrCfgWrite, h, if_true]
  refine ⟨_, rfl, OnlyChan.onChan c s _, fun hlo hhi => ?_, fun hbad => ?_, by simp [w1c]⟩
  · have lo : ¬ field v 0 6 < 4 := by simpa [field] using hlo
    have hi : ¬ 40 < field v 0 6 := by simpa [field] using hhi
    rw [State.onPwr_chan_pwr]
    simp [lo, hi, w1c]
    rfl
  · have bad : field v 0 6 < 4 ∨ 40 < field v 0 6 := hbad
    rw [State.onPwr_chan_pwr]
    rcases bad with bad | bad <;> simp [bad]

/-! ### Sleep and ramps (R421-R423) -/

theorem execPolderSleep_sleeps (c : Chan) (pd : PolderIx) (j : SlotIx) (s : State) (hj : (s.chan c).slotOfPolder pd = some j)
    (hmode : (s.polder c pd).slotMode = true) (hon : (s.polder c pd).dom = .on)
    (hrep : ∀ i, (s.pump c (pumpOf pd i)).run = .reported) (hwin : (s.slot c j).windowNext = false) :
    execPolderSleep c pd s = .next (s.onPolder c pd fun y => { y with dom := .sleep }) := by
  simp [execPolderSleep, hj, onlyIf, hmode, hon, hrep, hwin]

theorem execPowerUpSlot_asks (c : Chan) (pd : PolderIx) (j : SlotIx) (s : State) (hj : (s.chan c).slotOfPolder pd = some j)
    (hmode : (s.polder c pd).slotMode = true) (hsleep : (s.polder c pd).dom = .sleep) (hq : pd ∉ (s.chan c).pwr.rampQ) :
    Answers (execPowerUpSlot c pd s) fun t => t.timeNs = max s.timeNs ((s.slot c j).fr.tickNs + (s.polder c pd).upUs * 1000) ∧
      (t.chan c).pwr.rampQ = (s.chan c).pwr.rampQ ++ [pd] := by
  simp only [execPowerUpSlot, hj]
  rw [if_pos ⟨hmode, hsleep⟩]
  refine ⟨_, rfl, ?_, ?_⟩
  · unfold State.wantRamp
    dsimp only
    split <;> simp
  · simp [State.wantRamp, hsleep, hq]

theorem State.polderWaited_minor (s : State) (c : Chan) (pd : PolderIx) (cause : Fin 7) (ns : Nat) :
    Minor s (s.polderWaited c pd cause ns) := by
  unfold State.polderWaited
  split
  · exact Minor.onSlot s c _ _
  · exact Minor.refl s

theorem execRampStart_begins (c : Chan) (pd : PolderIx) (rest : List PolderIx) (s : State) (hr : (s.chan c).pwr.ramping = none)
    (hq : (s.chan c).pwr.rampQ = pd :: rest) : Answers (execRampStart c s) fun t =>
      (t.chan c).pwr = { (s.chan c).pwr with ramping := some pd, rampQ := rest } ∧ (t.polder c pd).dom = .ramp ∧
      (t.polder c pd).step = 0 := by
  unfold execRampStart
  simp only [hr, hq]
  refine ⟨_, rfl, ?_, ?_, ?_⟩
  · rw [(State.polderWaited_minor _ c pd 3 _).pwr]
    simp
  · rw [(State.polderWaited_minor _ c pd 3 _).polder]
    simp
  · rw [(State.polderWaited_minor _ c pd 3 _).polder]
    simp

theorem State.startPumps_minor (s : State) (c : Chan) (j : SlotIx) : Minor s (s.startPumps c j) :=
  Minor.ite (Minor.each _ (fun t p => Minor.ite (Minor.onPump t c p _) (Minor.refl t)) _ s) (Minor.refl s)

theorem State.rampOn_minor (s : State) (c : Chan) (pd : PolderIx) :
    Minor (s.onPolder c pd fun q => { q with dom := .on, step := 10 }) (s.rampOn c pd) := by
  unfold State.rampOn
  dsimp only
  split
  · exact State.startPumps_minor _ c _
  · exact Minor.refl _

/-- The polders of a channel whose ramp waits for its last step. -/
def State.lateRamps (s : State) (c : Chan) : List PolderIx :=
  (List.finRange 16).filter fun p => (s.polder c p).dom == .ramp && (s.polder c p).step == 9

theorem State.lateRamps_none (s : State) (c : Chan) (h : ∀ i, ¬((s.polder c i).dom = .ramp ∧ (s.polder c i).step = 9)) :
    s.lateRamps c = [] := by
  simpa [State.lateRamps] using h

section
variable (c : Chan) (pd : PolderIx) (s : State)

/-- A step of a polder's ramp, where no other polder's ramp ends (Table 15.3). -/
theorem execRampStep_ramping (hr : (s.chan c).pwr.ramping = some pd)
    (hlate : ∀ i, ¬((s.polder c i).dom = .ramp ∧ (s.polder c i).step = 9)) : execRampStep c s =
      .next (if (s.polder c pd).step < 8 then
        if (s.chan c).pwr.guardOk then s.onPolder c pd fun x => { x with step := x.step + 1 }
        else
          let t := (s.onPolder c pd fun x => { x with
            rampDefers := x.rampDefers + 1, deferUs := sat16 x.deferUs 1, deferrals := sat32 x.deferrals 1 }).polderWaited c pd 3 1000
          if 8 ≤ (s.polder c pd).rampDefers + 1 then
            t.each ((List.finRange 16).filter (· != pd)) fun t p => t.onPolder c p fun x => { x with forced := max x.forced 16 }
          else t
      else ((s.onPolder c pd fun x => { x with step := 9 }).onPwr c fun p => { p with ramping := none }).each (List.finRange 16)
        fun t p => t.onPolder c p fun x => { x with forced := 0 }) := by
  have none_late : s.each (s.lateRamps c) (fun t p => t.rampOn c p) = s := by rw [s.lateRamps_none c hlate]; rfl
  unfold State.lateRamps at none_late
  simp only [execRampStep, none_late, hr]
  split_ifs <;> rfl

end

theorem State.onPolder_polder_of_ne (s : State) (c : Chan) (i j : PolderIx) (f : Polder → Polder) (h : j ≠ i) :
    (s.onPolder c i f).polder c j = s.polder c j := State.onPolder_polder_ne s c i j f h

/-- A step that fails the guard is deferred; after eight deferrals the other polders pause (R423). -/
theorem execRampStep_defers (c : Chan) (pd other : PolderIx) (s : State) (hr : (s.chan c).pwr.ramping = some pd)
    (hlate : ∀ i, ¬((s.polder c i).dom = .ramp ∧ (s.polder c i).step = 9)) (hstep : (s.polder c pd).step < 8)
    (hguard : (s.chan c).pwr.guardOk = false) : Answers (execRampStep c s) fun t => (t.polder c pd).step = (s.polder c pd).step ∧
      (t.polder c pd).deferrals = sat32 (s.polder c pd).deferrals 1 ∧
      (7 ≤ (s.polder c pd).rampDefers → other ≠ pd → 16 ≤ (t.polder c other).forced) := by
  rw [execRampStep_ramping c pd s hr hlate, if_pos hstep, hguard]
  simp only [Bool.false_eq_true, if_false]
  generalize hu : (s.onPolder c pd fun x => { x with
    rampDefers := x.rampDefers + 1, deferUs := sat16 x.deferUs 1, deferrals := sat32 x.deferrals 1 }).polderWaited c pd 3 1000 = u
  have at_ : u.polder c pd = { s.polder c pd with
      rampDefers := (s.polder c pd).rampDefers + 1, deferUs := sat16 (s.polder c pd).deferUs 1,
      deferrals := sat32 (s.polder c pd).deferrals 1 } := by
    rw [← hu, (State.polderWaited_minor _ c pd 3 _).polder]
    exact State.onPolder_polder ..
  split
  · have same := State.each_same_mem (fun t => t.polder c pd) (fun t p => t.onPolder c p fun x => { x with forced := max x.forced 16 })
      ((List.finRange 16).filter (· != pd))
      (fun p hp t => State.onPolder_polder_ne t c p pd _ (by rintro rfl; simp at hp)) u
    refine ⟨_, rfl, ?_, ?_, fun _ hne => ?_⟩
    · rw [same, at_]
    · rw [same, at_]
    · refine State.each_forall (fun p t => 16 ≤ (t.polder c p).forced) _ (fun t p => ?_) (fun t i k hik h => ?_) other _ u (by simpa using hne)
      · rw [State.onPolder_polder]
        exact Nat.le_max_right _ _
      · rwa [State.onPolder_polder_ne _ _ _ _ _ hik]
  · next few => exact ⟨_, rfl, by rw [at_], by rw [at_], fun h => absurd (show 8 ≤ (s.polder c pd).rampDefers + 1 by omega) few⟩

/-- The last step below 9 frees the ramp, and no polder is forced to pause any more. -/
theorem execRampStep_frees (c : Chan) (pd other : PolderIx) (s : State) (hr : (s.chan c).pwr.ramping = some pd)
    (hlate : ∀ i, ¬((s.polder c i).dom = .ramp ∧ (s.polder c i).step = 9)) (hstep : (s.polder c pd).step = 8) :
    Answers (execRampStep c s) fun t => (t.chan c).pwr = { (s.chan c).pwr with ramping := none } ∧ (t.polder c pd).step = 9 ∧
      (t.polder c other).forced = 0 := by
  rw [execRampStep_ramping c pd s hr hlate, if_neg (by omega)]
  refine ⟨_, rfl, ?_, ?_, ?_⟩
  · rw [State.each_same (fun t => (t.chan c).pwr) _ fun t p => State.onPolder_chan_pwr t c p _]
    simp
  · rw [State.each_same (fun t => (t.polder c pd).step)]
    · simp
    · intro t p
      by_cases h : pd = p
      · subst h
        simp
      · simp [State.onPolder_polder_ne t c p pd _ h]
  · refine State.each_forall (fun p t => (t.polder c p).forced = 0) _ (fun t p => ?_) (fun t i k hik h => ?_) other _ _
      (List.mem_finRange other)
    · simp
    · rwa [State.onPolder_polder_ne _ _ _ _ _ hik]

/-- A polder whose ramp waited for its last step is on. -/
theorem execRampStep_ends (c : Chan) (pd : PolderIx) (s : State) (hr : (s.chan c).pwr.ramping = none)
    (hdom : (s.polder c pd).dom = .ramp) (hstep : (s.polder c pd).step = 9) :
    Answers (execRampStep c s) fun t => (t.polder c pd).dom = .on ∧ (t.polder c pd).step = 10 := by
  have still : ((s.each (s.lateRamps c) fun t p => t.rampOn c p).chan c).pwr.ramping = none := by
    rw [State.each_same (fun t => (t.chan c).pwr.ramping) _ fun t p => ?_]
    · exact hr
    · rw [(t.rampOn_minor c p).pwr, State.onPolder_chan_pwr]
  refine ⟨s.each (s.lateRamps c) fun t p => t.rampOn c p, ?_, ?_⟩
  · unfold State.lateRamps at still ⊢
    simp only [execRampStep, still]
  · refine State.each_forall (fun p t => (t.polder c p).dom = .on ∧ (t.polder c p).step = 10) _ (fun t p => ?_) (fun t i k hik h => ?_) pd _ s
      (by simp [State.lateRamps, hdom, hstep])
    · rw [(t.rampOn_minor c p).polder, State.onPolder_polder]
      exact ⟨rfl, rfl⟩
    · rwa [(t.rampOn_minor c k).polder, State.onPolder_polder_ne _ _ _ _ _ hik]

/-- Settles O51, command by command: droop, rails, phases, pauses, sleep, ramps and the guard's register. -/
theorem powerCommands : Obligations.PowerCommands := by
  intro c mv n avgW avgA rail phase pd other rest j v s h p q hit railOut left lim
  refine ⟨execDroopSample_within c mv s, execDroopSample_emergency c mv j s, ⟨_, rfl, s.railDown_out c rail 0 j⟩, fun hlost => ?_,
    fun hlost => ?_, fun hg => ?_, fun hg => ?_, execBudgetController_watts c avgW avgA s, execBudgetController_amps c avgW avgA s,
    fun hj => ⟨execPolderSleep_sleeps c pd j s hj, execPowerUpSlot_asks c pd j s hj⟩, execRampStart_begins c pd rest s,
    fun hr hlate => ⟨fun hstep hguard => ?_, fun hstep hguard => ?_, execRampStep_frees c pd other s hr hlate⟩,
    execRampStep_ends c pd s, execPwrCfgWrite_guard c v s⟩
  · have runs : exec (.railFault c rail (some n)) s = .next ((s.onPwr c fun p => { p with
        phaseLost := true, railLost := upd p.railLost rail (· + 1) }).powerEvent c 5 (rail.val + 1) n) :=
      congrArg Host.Outcome.next (if_pos hlost)
    refine ⟨_, runs, OnlyChan.then (OnlyChan.onChan c s _) _, ?_⟩
    rw [(State.powerEvent_minor _ c _ _ _).pwr]
    simp [p, h]
  · have runs : exec (.railFault c rail (some n)) s = .next ((s.onPwr c fun p => { p with
        phaseLost := true, railLost := upd p.railLost rail (· + 1) }).railDown c rail n) := congrArg Host.Outcome.next (if_neg hlost)
    have out := State.railDown_out (s.onPwr c fun p => { p with phaseLost := true, railLost := upd p.railLost rail (· + 1) }) c rail n j
    refine ⟨_, runs, ?_⟩
    have same : (s.onPwr c fun p => { p with phaseLost := true, railLost := upd p.railLost rail (· + 1) }).slot c j = s.slot c j :=
      State.onPwr_slot ..
    unfold RailOut at out
    rwa [same] at out
  · exact if_neg (by simpa using hg)
  · obtain ⟨t, runs, ⟨good, lost, state, cap⟩, out⟩ := execPhaseLoss_phases c phase s hg
    have le : left ≤ 24 := bitsOf_length_le _
    refine ⟨t, runs, good, lost, state.trans ?_, cap, fun hleft hold => out (phaseStateOf_few hleft) hold⟩
    show phaseStateOf left = _
    rw [phaseStateOf]
    simp only [show (24 ≤ left) = (left = 24) from propext ⟨fun h => by omega, fun h => by omega⟩]
  · rw [show exec (.rampStep c) s = execRampStep c s from rfl, execRampStep_ramping c pd s hr hlate, if_pos hstep,
      if_pos (by simpa [Power.guardOk] using hguard)]
  · exact execRampStep_defers c pd other s hr hlate hstep (by simpa [Power.guardOk] using hguard)

end Sys2Proof.Machine

namespace Sys2Proof.Machine

/-! ### Temperature limits (R430-R435) -/

theorem State.thermalEvent_minor (s : State) (c : Chan) (kind unit sensor : Nat) (eff raw : Int) :
    Minor s (s.thermalEvent c kind unit sensor eff raw) := s.event_minor ..

/-- What a sample leaves in a polder for its pause and for the fabric map. -/
def Polder.gauge (p : Polder) : Bool × Nat × Nat := (p.tooHot, p.thermal, p.headroom)

/-- The readings of a channel and the gauge of a polder stand as they stood. -/
structure SameHeat (c : Chan) (pd : PolderIx) (s t : State) : Prop where
  sensors : (t.chan c).thm.sensors = (s.chan c).thm.sensors
  gauge : (t.polder c pd).gauge = (s.polder c pd).gauge

section
variable {c : Chan} {pd : PolderIx} {s t u : State}

theorem SameHeat.refl (s : State) : SameHeat c pd s s := ⟨rfl, rfl⟩

theorem SameHeat.trans (a : SameHeat c pd s t) (b : SameHeat c pd t u) : SameHeat c pd s u :=
  ⟨b.sensors.trans a.sensors, b.gauge.trans a.gauge⟩

theorem SameHeat.ite {b : Prop} [Decidable b] (ht : SameHeat c pd s t) (hu : SameHeat c pd s u) : SameHeat c pd s (if b then t else u) := by
  split
  · exact ht
  · exact hu

theorem Minor.heat (h : Minor s t) : SameHeat c pd s t := ⟨by rw [h.thm], by rw [h.polder]⟩

theorem SameHeat.onChan (s : State) (f : Channel → Channel) (hs : ∀ x, (f x).thm.sensors = x.thm.sensors)
    (hp : ∀ x, (f x).polders = x.polders) : SameHeat c pd s (s.onChan c f) :=
  ⟨by simp [hs], by simp [State.polder, hp]⟩

theorem State.leave_heat (s : State) (r : Nat) : SameHeat c pd s (s.leave c r) := by
  have left : SameHeat c pd s (s.left c r) :=
    ⟨by simp [State.left, State.domainsOff], by simp [State.left, State.domainsOff, State.polder, Polder.gauge, State.onSt, State.onPwr]⟩
  exact left.trans (s.leave_minor c r).heat

end

theorem State.leave_outputs (s : State) (c : Chan) (r : Nat) (o : Output) (h : o ∈ s.outputs) : o ∈ (s.leave c r).outputs :=
  (s.leave_minor c r).out o (by simpa [State.left, State.domainsOff] using h)

/-- A channel after a critical shutdown (R435): latched, out of service for heat, THERMTRIP_N low. -/
structure Tripped (c : Chan) (t : State) : Prop where
  crit : (t.chan c).thm.crit = true
  now : (t.chan c).thm.critNow = true
  out : t.serving c = false
  oos : (t.chan c).st.oos.getLsbD 4 = true
  pin : Output.pin "THERMTRIP_N" false ∈ t.outputs

section
variable {c : Chan} {s t : State}

theorem Tripped.minor (h : Tripped c s) (m : Minor s t) : Tripped c t :=
  ⟨by rw [m.thm]; exact h.crit, by rw [m.thm]; exact h.now, by rw [m.serving]; exact h.out, by rw [m.st]; exact h.oos, m.out _ h.pin⟩

theorem ChStatus.reason_keeps (x : ChStatus) (r k : Nat) (h : x.oos.getLsbD k = true) :
    (x.reason r true).oos.getLsbD k = true := by
  simp [ChStatus.reason, h]

theorem Tripped.leave (h : Tripped c s) (r : Nat) : Tripped c (s.leave c r) := by
  have oos : ((s.leave c r).chan c).st.oos.getLsbD 4 = true := by
    rw [State.leave_st]
    exact ChStatus.reason_keeps _ r 4 h.oos
  exact ⟨by simpa using h.crit, by simpa using h.now, State.leave_serving s c r, oos, s.leave_outputs c r _ h.pin⟩

theorem Tripped.onChan (h : Tripped c s) (f : Channel → Channel) (hc : ∀ x, (f x).thm.crit = x.thm.crit)
    (hn : ∀ x, (f x).thm.critNow = x.thm.critNow) (ho : ∀ x, (f x).st = x.st) : Tripped c (s.onChan c f) :=
  ⟨by simpa [hc] using h.crit, by simpa [hn] using h.now, h.out, by simpa [ho] using h.oos, h.pin⟩

end

theorem State.criticalShutdown_trips (s : State) (c : Chan) (unit sensor : Nat) (eff raw : Int) (st : Option StackIx) :
    Tripped c (s.criticalShutdown c unit sensor eff raw st) := by
  unfold State.criticalShutdown
  extract_lets s1 s2
  have told : Minor ((s1.thermalEvent c 5 unit sensor eff raw).leave c 4) s2 := Minor.emit _ _
  have off : s2.serving c = false := by
    rw [told.serving]
    exact State.leave_serving _ c 4
  have oos : (s2.chan c).st.oos.getLsbD 4 = true := by
    rw [told.st]
    exact State.leave_oos _ c (by decide)
  have pin : Output.pin "THERMTRIP_N" false ∈ s2.outputs := List.mem_append_right _ (List.mem_singleton.mpr rfl)
  clear_value s2
  exact ⟨by simp, by simp, off, by simpa using oos, pin⟩

theorem State.criticalShutdown_heat (s : State) (c : Chan) (pd : PolderIx) (unit sensor : Nat) (eff raw : Int) (st : Option StackIx) :
    SameHeat c pd s (s.criticalShutdown c unit sensor eff raw st) :=
  (((((State.faultAll_minor s c _ _ _ _).trans (State.thermalEvent_minor _ c _ _ _ _ _)).heat).trans (State.leave_heat _ 4)).trans
    (Minor.emit _ _).heat).trans (SameHeat.onChan _ _ (fun _ => by rfl) fun _ => by rfl)

/-! #### The readings of a sample -/

theorem Thermal.onSensors_get (t : Thermal) (is : List Nat) (f : Nat → Sensor → Sensor) (i : Nat) (h : i < 96) :
    (t.onSensors is f).sensors[i] = if i ∈ is then f i t.sensors[i] else t.sensors[i] := by
  simp [Thermal.onSensors]

@[simp] theorem Sensor.judge_raw (x : Sensor) (near : List Int) (now : Nat) (listed : Bool) : (x.judge near now listed).raw = x.raw := rfl

theorem polderSensors_lt (pd : PolderIx) (i : Nat) (h : i ∈ polderSensors pd) : i < 96 := by
  have := pd.isLt
  simp only [polderSensors, List.mem_append, List.mem_map, List.mem_range, List.mem_cons, List.not_mem_nil, or_false] at h
  omega

theorem polderSensors_nodup : ∀ pd : PolderIx, (polderSensors pd).Nodup := by decide

/-- In a list without repetition the place of a member is found. -/
theorem findIdx?_of_nodup {l : List Nat} (h : l.Nodup) (k : Nat) (hk : k < l.length) : l.findIdx? (· == l[k]) = some k := by
  rw [List.findIdx?_eq_some_iff_getElem]
  refine ⟨hk, by simp, fun j hj => ?_⟩
  have : l[j] ≠ l[k] := fun e => absurd (h.getElem_inj_iff.mp e) (by omega)
  simpa using this

/-- The pair of a list that a scan for the greatest reading ends with. -/
def hottest (l : List (Nat × Int)) (m : Nat × Int) : Nat × Int := l.foldl (fun m e => if m.2 < e.2 then e else m) m

theorem hottest_start (l : List (Nat × Int)) : ∀ m, m.2 ≤ (hottest l m).2 := by
  induction l with
  | nil => exact fun m => le_refl _
  | cons e l ih =>
    intro m
    refine le_trans ?_ (ih _)
    dsimp only
    split <;> omega

theorem hottest_ge (l : List (Nat × Int)) : ∀ m, ∀ e ∈ l, e.2 ≤ (hottest l m).2 := by
  induction l with
  | nil => simp
  | cons a l ih =>
    intro m e he
    rcases List.mem_cons.mp he with rfl | he
    · refine le_trans ?_ (hottest_start l _)
      dsimp only
      split <;> omega
    · exact ih _ e he

theorem hottest_mem (l : List (Nat × Int)) : ∀ m, hottest l m = m ∨ hottest l m ∈ l := by
  induction l with
  | nil => exact fun m => .inl rfl
  | cons a l ih =>
    intro m
    have cons : hottest (a :: l) m = hottest l (if m.2 < a.2 then a else m) := rfl
    rw [cons]
    rcases ih (if m.2 < a.2 then a else m) with h | h
    · by_cases hm : m.2 < a.2
      · exact .inr (by rw [if_pos hm] at h ⊢; exact List.mem_cons.mpr (.inl h))
      · exact .inl (by rw [if_neg hm] at h ⊢; exact h)
    · exact .inr (List.mem_cons.mpr (.inr h))

/-- The pair of a list that a scan for the least reading ends with. -/
def coldest (l : List (Nat × Int)) (m : Nat × Int) : Nat × Int := l.foldl (fun m e => if e.2 < m.2 then e else m) m

theorem coldest_start (l : List (Nat × Int)) : ∀ m, (coldest l m).2 ≤ m.2 := by
  induction l with
  | nil => exact fun m => le_refl _
  | cons e l ih =>
    intro m
    refine le_trans (ih _) ?_
    dsimp only
    split <;> omega

theorem coldest_le (l : List (Nat × Int)) : ∀ m, ∀ e ∈ l, (coldest l m).2 ≤ e.2 := by
  induction l with
  | nil => simp
  | cons a l ih =>
    intro m e he
    rcases List.mem_cons.mp he with rfl | he
    · refine le_trans (coldest_start l _) ?_
      dsimp only
      split <;> omega
    · exact ih _ e he

theorem headD_mem {α : Type} {l : List α} (h : l ≠ []) (d : α) : l.headD d ∈ l := by
  cases l with
  | nil => exact absurd rfl h
  | cons a l => exact List.mem_cons_self

end Sys2Proof.Machine


namespace Sys2Proof.Machine

/-! #### A polder's sample, stage by stage -/

/-- A reading of the sensors that a scan runs over. -/
def readingsOf (show_ : Nat → Int × Int) (ids : List Nat) : List (Nat × Int) := ids.map fun i => (i, (show_ i).1)

theorem hottest_readings (show_ : Nat → Int × Int) (ids : List Nat) (i : Nat) (h : i ∈ ids) :
    (show_ i).1 ≤ (hottest (readingsOf show_ ids) ((readingsOf show_ ids).headD (0, 0))).2 :=
  hottest_ge _ _ (i, (show_ i).1) (List.mem_map.mpr ⟨i, h, rfl⟩)

theorem hottest_is_reading (show_ : Nat → Int × Int) (ids : List Nat) (h : ids ≠ []) :
    ∃ i ∈ ids, (hottest (readingsOf show_ ids) ((readingsOf show_ ids).headD (0, 0))).2 = (show_ i).1 := by
  have mem : hottest (readingsOf show_ ids) ((readingsOf show_ ids).headD (0, 0)) ∈ readingsOf show_ ids := by
    rcases hottest_mem (readingsOf show_ ids) ((readingsOf show_ ids).headD (0, 0)) with e | m
    · rw [e]
      exact headD_mem (by simpa [readingsOf] using h) _
    · exact m
  obtain ⟨i, hi, e⟩ := List.mem_map.mp mem
  exact ⟨i, hi, by rw [← e]⟩

theorem coldest_readings (show_ : Nat → Int × Int) (ids : List Nat) (i : Nat) (h : i ∈ ids) :
    (coldest (readingsOf show_ ids) ((readingsOf show_ ids).headD (0, 0))).2 ≤ (show_ i).1 :=
  coldest_le _ _ (i, (show_ i).1) (List.mem_map.mpr ⟨i, h, rfl⟩)

/-- What a sample of a polder says of the state that it leaves: the readings `sens` of the channel, the polder's gauge with the hottest
reading, and what the limits ask. -/
structure Sampled (c : Chan) (pd : PolderIx) (sens : Vector Sensor 96) (hot cold : Int) (s t : State) : Prop where
  sensors : (t.chan c).thm.sensors = sens
  tooHot : (t.polder c pd).tooHot = true → (t.polder c pd).thermal = 255 ∧ (t.polder c pd).headroom = 0
  pause : (t.polder c pd).tooHot = false → (t.polder c pd).thermal = pauseStep (s.polder c pd).thermal hot
  trip : (s.chan c).thm.critNow = false → 420 ≤ hot → Tripped c t
  freeze : cold < 0 → t.serving c = false

theorem Sampled.of_gauge {c : Chan} {pd : PolderIx} {sens : Vector Sensor 96} {hot cold : Int} {s t : State} {old room : Nat} {b : Bool}
    (sensors : (t.chan c).thm.sensors = sens) (hold : (s.polder c pd).thermal = old)
    (gauge : (t.polder c pd).gauge = (b, if b then 255 else pauseStep old hot, if b then 0 else room))
    (trip : (s.chan c).thm.critNow = false → 420 ≤ hot → Tripped c t) (freeze : cold < 0 → t.serving c = false) :
    Sampled c pd sens hot cold s t := by
  simp only [Polder.gauge, Prod.mk.injEq] at gauge
  obtain ⟨hb, hp, hr⟩ := gauge
  refine ⟨sensors, fun h => ?_, fun h => ?_, trip, freeze⟩
  · rw [hb] at h
    subst h
    exact ⟨hp, hr⟩
  · rw [hb] at h
    subst h
    rw [hp, hold]
    rfl

/-- The sensors of a channel after a sample of a polder. -/
def State.sampled (s : State) (c : Chan) (pd : PolderIx) (pumpDie cisDie : List Int) (stale : List Nat) : Thermal :=
  let at_ := fun (i : Nat) => ((polderSensors pd).findIdx? (· == i)).getD 0
  let t1 := (s.chan c).thm.onSensors (polderSensors pd) fun i x => x.sample ((pumpDie ++ cisDie).getD (at_ i) x.raw) (stale.contains (at_ i))
  t1.onSensors (polderSensors pd) fun i x => x.judge (t1.near i) s.timeNs (s.mc.firm.listed c .sensor i 0)

/-- The effective and the raw reading of a sensor. -/
def Thermal.shows (t : Thermal) (i : Nat) : Int × Int := match t.sensors[i]? with | some b => (b.eff, b.raw) | none => (0, 0)

theorem Thermal.shows_get (t : Thermal) (i : Nat) (h : i < 96) : (t.shows i).1 = t.sensors[i].eff := by
  simp [Thermal.shows, h]

theorem State.samplePolder_sampled (s : State) (c : Chan) (pd : PolderIx) (pumpDie cisDie : List Int) (stale : List Nat) :
    let seen := readingsOf (s.sampled c pd pumpDie cisDie stale).shows (polderSensors pd)
    Sampled c pd (s.sampled c pd pumpDie cisDie stale).sensors (hottest seen (seen.headD (0, 0))).2 (coldest seen (seen.headD (0, 0))).2 s
      (s.samplePolder c pd pumpDie cisDie stale) := by
  intro seen
  unfold State.samplePolder
  extract_lets ids readings at_ t0 t1 t2 s1 flips show_ s2 old tooHot effs hot cold pause kept s3 raw s4 s5 s6 s7 s8 room
  have ht2 : s.sampled c pd pumpDie cisDie stale = t2 := rfl
  have hhot : hottest seen (seen.headD (0, 0)) = hot := rfl
  have hcold : coldest seen (seen.headD (0, 0)) = cold := rfl
  have hold : (s.polder c pd).thermal = old.thermal := rfl
  have hcrit : (s.chan c).thm.critNow = t0.critNow := rfl
  rw [ht2, hhot, hcold]
  have m12 : Minor s1 s2 := Minor.each _ (fun t i => t.thermalEvent_minor c _ _ _ _ _) flips s1
  have sens2 : (s2.chan c).thm.sensors = t2.sensors := by
    rw [m12.thm]
    simp only [s1, State.onChan_chan]
  have serv2 : s2.serving c = s.serving c := m12.serving c
  have sens3 : (s3.chan c).thm.sensors = t2.sensors := by simp only [s3, State.onPolder, State.onChan_chan, sens2]
  have serv3 : s3.serving c = s.serving c := serv2
  have gauge3 : (s3.polder c pd).gauge = (tooHot, if tooHot then 255 else pauseStep old.thermal hot.2,
      if tooHot then 0 else headroomOf kept) := by
    simp only [s3, State.onPolder_polder, Polder.gauge, pause]
  clear_value s3
  have m34 : Minor s3 s4 := Minor.ite (State.thermalEvent_minor _ c _ _ _ _ _) (Minor.refl _)
  have m45 : Minor s4 s5 := Minor.ite (State.thermalEvent_minor _ c _ _ _ _ _)
    (Minor.ite (State.thermalEvent_minor _ c _ _ _ _ _) (Minor.refl _))
  have m35 := m34.trans m45
  have serv5 : s5.serving c = s.serving c := (m35.serving c).trans serv3
  clear_value s5
  have h56 : SameHeat c pd s5 s6 := SameHeat.ite (State.criticalShutdown_heat _ c pd _ _ _ _ _) (SameHeat.refl _)
  have trip6 : t0.critNow = false → 420 ≤ hot.2 → Tripped c s6 := fun now h => by
    simp only [s6]
    rw [if_pos ⟨h, by simp [now]⟩]
    exact State.criticalShutdown_trips ..
  have off6 : s.serving c = false → s6.serving c = false := fun h => by
    simp only [s6]
    split
    · exact (State.criticalShutdown_trips ..).out
    · rw [serv5, h]
  clear_value s6
  have h67 : SameHeat c pd s6 s7 :=
    SameHeat.ite ((State.thermalEvent_minor _ c _ _ _ _ _).heat.trans (SameHeat.onChan _ _ (fun _ => by rfl) fun _ => by rfl)) (SameHeat.refl _)
  have trip7 : Tripped c s6 → Tripped c s7 := fun h => by
    simp only [s7]
    split
    · exact (h.minor (State.thermalEvent_minor _ c _ _ _ _ _)).onChan _ (fun _ => by rfl) (fun _ => by rfl) fun _ => by rfl
    · exact h
  have off7 : s6.serving c = false → s7.serving c = false := fun h => by
    simp only [s7]
    split
    · rw [← h, ← (State.thermalEvent_minor s6 c 6 pd.val cold.1 cold.2 (raw cold.1)).serving c]
      rfl
    · exact h
  clear_value s7
  have h78 : SameHeat c pd s7 s8 :=
    SameHeat.ite ((((State.faultAll_minor _ c _ _ _ _).trans (State.thermalEvent_minor _ c _ _ _ _ _)).heat.trans
      (SameHeat.onChan _ _ (fun _ => by rfl) fun _ => by rfl)).trans (State.leave_heat _ 5)) (SameHeat.refl _)
  have trip8 : Tripped c s7 → Tripped c s8 := fun h => by
    simp only [s8]
    split
    · exact ((h.minor ((State.faultAll_minor _ c _ _ _ _).trans (State.thermalEvent_minor _ c _ _ _ _ _))).onChan _
        (fun _ => by rfl) (fun _ => by rfl) fun _ => by rfl).leave 5
    · exact h
  have off8 : cold.2 < 0 → s8.serving c = false := fun h => by
    simp only [s8]
    split
    · exact State.leave_serving _ c 5
    · next no => exact off7 (off6 (by simpa [h] using no))
  clear_value s8
  have last : Minor s8 (s8.mapUpdate c fun m => { m with polders := m.polders.zipIdx.map fun e => match e with
    | (some v, i) => if i = pd.val ∧ (v + 2 ≤ room ∨ room + 2 ≤ v) then (some room, i).1 else some v
    | (none, _) => none }) := State.mapUpdate_minor _ c _
  have heat : SameHeat c pd s3 _ := ((((m35.heat).trans h56).trans h67).trans h78).trans last.heat
  exact Sampled.of_gauge (heat.sensors.trans sens3) hold (heat.gauge.trans gauge3) (fun now h => ((trip8 (trip7 (trip6 (hcrit ▸ now) h))).minor last))
    fun h => (last.serving c).trans (off8 h)

end Sys2Proof.Machine


namespace Sys2Proof.Machine

/-! ### The beginning of a lower-die reset (R402, R403) -/

theorem Minor.onChan_congr {s t : State} (h : Minor s t) (c : Chan) (f : Channel → Channel)
    (hf : ∀ x y, x.plant = y.plant → (f x).plant = (f y).plant) : Minor (s.onChan c f) (t.onChan c f) := by
  refine ⟨h.time, h.mc, fun d => ?_, h.out⟩
  by_cases hd : d = c
  · subst hd
    rw [State.onChan_chan, State.onChan_chan]
    exact hf _ _ (h.chan d)
  · rw [State.onChan_chan_ne _ c d f hd, State.onChan_chan_ne _ c d f hd, h.chan d]

theorem Minor.onMc_congr {s t : State} (h : Minor s t) (f : Gnover → Gnover) (hf : ∀ x y, x.core = y.core → (f x).core = (f y).core) :
    Minor (s.onMc f) (t.onMc f) := ⟨h.time, hf _ _ h.mc, h.chan, h.out⟩

theorem State.resetEvent_minor (s : State) (c : Chan) (scope retain requester : Nat) : Minor s (s.resetEvent c scope retain requester) :=
  s.event_minor ..

theorem State.pumpState_minor (s : State) (c : Chan) (j : SlotIx) (p : PumpIx) : Minor s (s.pumpState c j p) := by
  unfold State.pumpState
  exact s.event_minor c _ _ _ _

theorem State.assertReset_minor (s : State) (c : Chan) (cause : Cause) (kind : UnitKind) : Minor s (s.assertReset c cause kind) :=
  (Minor.each (fun t j => t.each ((t.chan c).pumpsOf j) fun u p => u.pumpState c j p)
    (fun t _ => Minor.each _ (fun u p => u.pumpState_minor c _ p) _ t) _ s).trans (State.faultAll_minor _ c _ cause kind 0)

/-- A ranged pass that ended with the reset of its channel. -/
def State.passEnded (s : State) (c : Chan) : State := s.onCis c fun x => { x with passFor := none }

theorem State.abortPass_minor (s : State) (c : Chan) : Minor (s.passEnded c) (s.abortPass c) := by
  unfold State.abortPass
  split
  · exact State.complete_minor _ _ _ _
  · next none_ =>
    have same : s.passEnded c = s := by
      have id_ : { (s.chan c).cis with passFor := none } = (s.chan c).cis := by rw [← none_]
      rw [State.passEnded, State.onCis, State.onChan_congr (g := id)]
      · simp [State.onChan, upd]
      · simp [id_]
    rw [same]
    exact Minor.refl s

/-- A channel out of service for a reset, before the map hears of it. -/
def State.outForReset (s : State) (c : Chan) : State :=
  (s.onSt c fun x => x.reason 11 true).onMc fun m => { m with inService := m.inService &&& ~~~(1#8 <<< c.val) }

theorem State.holdReset_minor (s : State) (c : Chan) : Minor (s.outForReset c) (s.holdReset c) := State.mapUpdate_minor _ c _

/-- The status of a channel whose reset begins. -/
def ChStatus.resetting (x : ChStatus) (scope : BitVec 2) : ChStatus := { x with busy := true, lastScope := scope, resetWanted := none }

/-- What a channel reset that begins leaves of a channel, faults and records apart. -/
def State.channelReset (s : State) (c : Chan) (retain : Bool) : State :=
  ((((s.onSt c fun x => x.resetting 2).passEnded c).onChan c fun h => h.chanReset retain).onPwr c fun p => p.chanReset retain).outForReset c

theorem Channel.chanReset_plant (retain : Bool) (x y : Channel) (h : x.plant = y.plant) :
    (x.chanReset retain).plant = (y.chanReset retain).plant := by
  cases x
  cases y
  simp_all [Channel.chanReset, Channel.plant]

theorem State.beginReset_channel (s : State) (c : Chan) (retain : Bool) (requester : Nat) :
    Minor (s.channelReset c retain) (s.beginReset c 2 retain requester) := by
  unfold State.beginReset State.channelReset
  extract_lets s1 s2
  rw [if_pos rfl]
  have m1 : Minor s s1 := s.resetEvent_minor c _ _ _
  have m2 : Minor (s.onSt c fun x => x.resetting 2) s2 := m1.onChan_congr c _ fun x y h => by
    cases x; cases y; simp_all [Channel.plant]
  have m3 : Minor ((s.onSt c fun x => x.resetting 2).passEnded c) ((s2.abortPass c).assertReset c .firmware .firmware) := by
    refine Minor.trans ?_ ((s2.abortPass_minor c).trans (State.assertReset_minor _ c _ _))
    exact m2.onChan_congr c _ fun x y h => by cases x; cases y; simp_all [Channel.plant]
  have m4 := m3.onChan_congr c (fun h => h.chanReset retain) (Channel.chanReset_plant retain)
  have m5 := m4.onChan_congr c (fun h => { h with pwr := h.pwr.chanReset retain }) fun x y h => by
    cases x; cases y; simp_all [Channel.plant]
  have m6 := m5.onChan_congr c (fun h => { h with st := h.st.reason 11 true }) fun x y h => by
    cases x; cases y; simp_all [Channel.plant]
  have m7 := m6.onMc_congr (fun m => { m with inService := m.inService &&& ~~~(1#8 <<< c.val) }) fun x y h => by
    cases x; cases y; simp_all [Gnover.core]
  exact m7.trans (State.mapUpdate_minor _ c _)

end Sys2Proof.Machine


namespace Sys2Proof.Machine

theorem State.sampled_off (s : State) (c : Chan) (pd : PolderIx) (pump cis : List Int) (stale : List Nat) (i : Fin 96)
    (h : i.val ∉ polderSensors pd) : (s.sampled c pd pump cis stale).sensors[i.val] = (s.chan c).thm.sensors[i.val] := by
  simp [State.sampled, Thermal.onSensors_get, h]

/-- A full set of fresh readings is what the six sensors of a polder then read. -/
theorem State.sampled_raw (s : State) (c : Chan) (pd : PolderIx) (pump cis : List Int) (hp : pump.length = 4) (hc : cis.length = 2) :
    (polderSensors pd).map (fun i => ((s.sampled c pd pump cis []).sensors[i]?).map (·.raw)) = (pump ++ cis).map some := by
  have len : (polderSensors pd).length = 6 := by simp [polderSensors]
  refine List.ext_getElem (by simp [len, hp, hc]) fun k h1 h2 => ?_
  have hk : k < (polderSensors pd).length := by simpa using h1
  have mem : (polderSensors pd)[k] ∈ polderSensors pd := List.getElem_mem hk
  have lt := polderSensors_lt pd _ mem
  have found := findIdx?_of_nodup (polderSensors_nodup pd) k hk
  have at_ : k < (pump ++ cis).length := by simpa using h2
  simp only [List.getElem_map, State.sampled, Vector.getElem?_eq_getElem lt, Thermal.onSensors_get _ _ _ _ lt, mem, if_true, Option.map_some,
    Sensor.judge_raw, found, Option.getD_some, Sensor.sample, List.contains_nil, Bool.false_eq_true, if_false]
  rw [List.getD_eq_getElem _ _ at_]

/-- A polder's sample in the terms of R431-R435. -/
theorem execTemperatureSample_polder (c : Chan) (pd : PolderIx) (pump cis : List Int) (stale : List Nat) (s : State) :
    Answers (execTemperatureSample c (.polder pd pump cis stale) s) (fun t =>
      (∀ i : Fin 96, i.val ∉ polderSensors pd → (t.chan c).thm.sensors[i.val] = (s.chan c).thm.sensors[i.val]) ∧
      (pump.length = 4 → cis.length = 2 → stale = [] → (polderSensors pd).map (fun i => ((t.chan c).thm.sensors[i]?).map (·.raw)) =
        (pump ++ cis).map some) ∧
      ((t.polder c pd).tooHot = true → (t.polder c pd).thermal = 255 ∧ (t.polder c pd).headroom = 0) ∧
      ((t.polder c pd).tooHot = false →
        ((∃ i : Fin 96, i.val ∈ polderSensors pd ∧ 380 ≤ ((t.chan c).thm.sensors[i.val]).eff) →
          (t.polder c pd).thermal = min 255 ((s.polder c pd).thermal + 8)) ∧
        ((∀ i : Fin 96, i.val ∈ polderSensors pd → ((t.chan c).thm.sensors[i.val]).eff < 372) →
          (t.polder c pd).thermal = (s.polder c pd).thermal - 1)) ∧
      ((s.chan c).thm.critNow = false → (∃ i : Fin 96, i.val ∈ polderSensors pd ∧ 420 ≤ ((t.chan c).thm.sensors[i.val]).eff) →
        Tripped c t) ∧
      ((∃ i : Fin 96, i.val ∈ polderSensors pd ∧ ((t.chan c).thm.sensors[i.val]).eff < 0) → t.serving c = false)) := by
  have runs : execTemperatureSample c (.polder pd pump cis stale) s = .next (s.samplePolder c pd pump cis stale) := rfl
  have facts := s.samplePolder_sampled c pd pump cis stale
  have off := s.sampled_off c pd pump cis stale
  have raws := s.sampled_raw c pd pump cis
  generalize s.samplePolder c pd pump cis stale = t at runs facts
  dsimp only at facts
  have upper := hottest_readings (s.sampled c pd pump cis stale).shows (polderSensors pd)
  have top := hottest_is_reading (s.sampled c pd pump cis stale).shows (polderSensors pd) (by simp [polderSensors])
  have lower := coldest_readings (s.sampled c pd pump cis stale).shows (polderSensors pd)
  revert facts upper top lower
  generalize (hottest _ _).2 = hot
  generalize (coldest _ _).2 = cold
  rintro ⟨sensors, tooHot, pause, trip, freeze⟩ upper ⟨w, hw, top⟩ lower
  refine ⟨t, runs, ?_⟩
  simp only [sensors]
  have shows : ∀ i : Fin 96, ((s.sampled c pd pump cis stale).shows i.val).1 = ((s.sampled c pd pump cis stale).sensors[i.val]).eff :=
    fun i => Thermal.shows_get _ _ i.isLt
  refine ⟨off, fun hp hc hs => ?_, tooHot, fun h => ⟨?_, fun all => ?_⟩, fun now => ?_, ?_⟩
  · subst hs
    exact raws hp hc
  · rintro ⟨i, hi, hot_⟩
    have := upper i.val hi
    rw [shows] at this
    rw [pause h, pauseStep, if_pos (by omega)]
  · have := all ⟨w, polderSensors_lt pd w hw⟩ hw
    rw [← shows] at this
    dsimp only at this
    rw [pause h, pauseStep, if_neg (by omega), if_pos (by omega)]
  · rintro ⟨i, hi, hot_⟩
    have := upper i.val hi
    rw [shows] at this
    exact trip now (by omega)
  · rintro ⟨i, hi, cold_⟩
    have := lower i.val hi
    rw [shows] at this
    exact freeze (by omega)

/-! #### A stack's sample -/

/-- A stack lost to heat. -/
def Stack.tripped (x : Stack) : Stack := { x with lost := true }

theorem State.criticalShutdown_stack (s : State) (c : Chan) (unit sensor : Nat) (eff raw : Int) (k : StackIx) :
    ((s.criticalShutdown c unit sensor eff raw (some k)).chan c).stack = upd (s.chan c).stack k Stack.tripped := by
  unfold State.criticalShutdown
  extract_lets s1 s2
  have m1 : (s1.chan c).stack = (s.chan c).stack := (State.faultAll_minor s c _ _ _ _).stack c
  have m2 : (s2.chan c).stack = (s1.chan c).stack := by
    rw [(Minor.emit _ _).stack, (State.leave_minor _ c 4).stack]
    have left : (((s1.thermalEvent c 5 unit sensor eff raw).left c 4).chan c).stack = ((s1.thermalEvent c 5 unit sensor eff raw).chan c).stack := by
      simp [State.left, State.domainsOff]
    rw [left, (State.thermalEvent_minor _ c _ _ _ _ _).stack]
  clear_value s2
  rw [State.onChan_chan]
  simp only [m2, m1]
  rfl

/-- The readings that a stack takes at a sample. -/
def Stack.sampled (x : Stack) (degC : Nat) : Stack :=
  { x with tempC := degC, refresh := refreshBand x.refresh degC, throttle := decide (95 ≤ degC) || (x.throttle && decide (93 ≤ degC)) }

/-- A stack's sample leaves its readings, and above its limit shuts the channel down. -/
theorem State.sampleStack_leaves (s : State) (c : Chan) (st : StackIx) (degC : Nat) :
    ((105 ≤ degC ∧ (s.chan c).thm.critNow = false) ∧ Tripped c (s.sampleStack c st degC) ∧
      ((s.sampleStack c st degC).chan c).stack[st.val] = (((s.chan c).stack[st.val]).sampled degC).tripped) ∨
    (¬(105 ≤ degC ∧ (s.chan c).thm.critNow = false) ∧
      ((s.sampleStack c st degC).chan c).stack[st.val] = ((s.chan c).stack[st.val]).sampled degC) := by
  unfold State.sampleStack
  extract_lets t0 s1 top reading pause s2 q s3
  have k2 : (s2.chan c).stack = upd (s.chan c).stack st fun x => x.sampled degC := by
    simp only [s2, s1, State.onChan_chan, Stack.sampled]
  clear_value s2
  have m3 : Minor s2 s3 := Minor.ite (State.thermalEvent_minor _ c _ _ _ _ _)
    (Minor.ite (State.thermalEvent_minor _ c _ _ _ _ _) (Minor.refl _))
  have k3 : (s3.chan c).stack = upd (s.chan c).stack st fun x => x.sampled degC := (m3.stack c).trans k2
  clear_value s3
  by_cases h : 105 ≤ degC ∧ (s.chan c).thm.critNow = false
  · refine .inl ⟨h, ?_⟩
    rw [if_pos (by simpa [t0] using h)]
    refine ⟨State.criticalShutdown_trips .., ?_⟩
    rw [State.criticalShutdown_stack, k3]
    simp [upd]
  · refine .inr ⟨h, ?_⟩
    rw [if_neg (by simpa [t0] using h), k3]
    simp [upd]

theorem refreshBand_93 (old : BitVec 2) : refreshBand old 93 = 1 := by decide +revert

theorem execTemperatureSample_stack (c : Chan) (st : StackIx) (degC : Nat) (s : State) :
    Answers (execTemperatureSample c (.stack st degC) s) (fun t => (t.chan c).stack[st.val].tempC = degC ∧
      (95 ≤ degC → (t.chan c).stack[st.val].refresh = 2 ∧ (t.chan c).stack[st.val].throttle = true) ∧
      (degC ≤ 83 → (t.chan c).stack[st.val].refresh = 0 ∧ (t.chan c).stack[st.val].throttle = false) ∧
      (degC = 93 → (t.chan c).stack[st.val].refresh = 1) ∧
      (105 ≤ degC → (s.chan c).thm.critNow = false → Tripped c t ∧ (t.chan c).stack[st.val].lost = true)) := by
  have runs : execTemperatureSample c (.stack st degC) s = .next (s.sampleStack c st degC) := rfl
  have facts := s.sampleStack_leaves c st degC
  generalize s.sampleStack c st degC = t at runs facts
  refine ⟨t, runs, ?_⟩
  have band : (95 ≤ degC → refreshBand ((s.chan c).stack[st.val]).refresh degC = 2) ∧
      (degC ≤ 83 → refreshBand ((s.chan c).stack[st.val]).refresh degC = 0) := by
    unfold refreshBand
    refine ⟨fun h => by rw [if_pos h], fun h => ?_⟩
    rw [if_neg (by omega), if_neg (by omega), if_neg (by omega), if_neg (by omega)]
  have cool : ¬ 93 ≤ degC → (decide (95 ≤ degC) || ((s.chan c).stack[st.val]).throttle && decide (93 ≤ degC)) = false := fun h => by
    simp [h, show ¬ 95 ≤ degC by omega]
  have at93 : degC = 93 → refreshBand ((s.chan c).stack[st.val]).refresh degC = 1 := fun h => h ▸ refreshBand_93 _
  dsimp only
  rcases facts with ⟨lim, trip, k⟩ | ⟨lim, k⟩
  · rw [k]
    exact ⟨rfl, fun h => ⟨band.1 h, by simp [Stack.sampled, Stack.tripped, h]⟩, fun h => ⟨band.2 h, cool (by omega)⟩, at93, fun _ _ => ⟨trip, rfl⟩⟩
  · rw [k]
    exact ⟨rfl, fun h => ⟨band.1 h, by simp [Stack.sampled, h]⟩, fun h => ⟨band.2 h, cool (by omega)⟩, at93, fun h n => absurd ⟨h, n⟩ lim⟩

end Sys2Proof.Machine


namespace Sys2Proof.Machine

/-! #### Return after heat or cold (R433, R435) -/

/-- A channel that Gnover resets after its critical shutdown. -/
def State.cooled (s : State) (c : Chan) : State :=
  ((s.until (s.timeNs + 10000000000)).onSt c fun x => x.reason 4 false).onChan c fun y => { y with
    thm := { y.thm with critNow := false, stackTrip := none } }

theorem execCriticalRecovery_resets (c : Chan) (s : State) (now : (s.chan c).thm.critNow = true)
    (cool : ∀ i : Fin 96, ((s.chan c).thm.sensors[i.val]).eff ≤ 340) (stk : ∀ i : StackIx, ((s.chan c).stack[i.val]).tempC ≤ 85)
    (idle : s.mc.inReset = false) : ∃ u, Minor (s.cooled c) u ∧ execCriticalRecovery c s = .next (u.beginReset c 2 false 1) := by
  refine ⟨if (s.cooled c).ch.any (fun y => y.thm.critNow) then s.cooled c else (s.cooled c).emit (.pin "THERMTRIP_N" true),
    Minor.ite (Minor.refl _) (Minor.emit _ _), ?_⟩
  have all : ((s.chan c).thm.sensors.all (fun x => decide (x.eff ≤ 340)) && (s.chan c).stack.all fun k => decide (k.tempC ≤ 85)) = true := by
    simp only [Bool.and_eq_true, Vector.all_eq_true, decide_eq_true_eq]
    exact ⟨fun i h => cool ⟨i, h⟩, fun i h => stk ⟨i, h⟩⟩
  simp only [execCriticalRecovery, now, all, idle, Bool.not_false, Bool.and_self, onlyIf, if_true]
  rfl

theorem execCriticalRecovery_cools (c : Chan) (s : State) (now : (s.chan c).thm.critNow = true)
    (cool : ∀ i : Fin 96, ((s.chan c).thm.sensors[i.val]).eff ≤ 340) (stk : ∀ i : StackIx, ((s.chan c).stack[i.val]).tempC ≤ 85)
    (idle : s.mc.inReset = false) : Answers (execCriticalRecovery c s) fun t =>
      t.timeNs = s.timeNs + 10000000000 ∧ (t.chan c).thm.critNow = false ∧ (t.chan c).st.busy = true ∧ (t.chan c).st.lastScope = 2 := by
  obtain ⟨u, told, runs⟩ := execCriticalRecovery_resets c s now cool stk idle
  have begun := u.beginReset_channel c false 1
  have time : (u.channelReset c false).timeNs = s.timeNs + 10000000000 := by
    have : (u.channelReset c false).timeNs = u.timeNs := by simp [State.channelReset, State.passEnded, State.outForReset]
    rw [this, told.time]
    simp [State.cooled, State.until]
  have thm : ((u.channelReset c false).chan c).thm.critNow = false := by
    have : ((u.channelReset c false).chan c).thm = (u.chan c).thm := by
      simp [State.channelReset, State.passEnded, State.outForReset, Channel.chanReset]
    rw [this, told.thm]
    simp [State.cooled]
  have st : ((u.channelReset c false).chan c).st.busy = true ∧ ((u.channelReset c false).chan c).st.lastScope = 2 := by
    simp [State.channelReset, State.passEnded, State.outForReset, Channel.chanReset, ChStatus.reason, ChStatus.resetting]
  refine ⟨_, runs, ?_⟩
  dsimp only
  rw [begun.time, begun.thm, begun.st]
  exact ⟨time, thm, st⟩

/-- A channel out of the cold whose reason has gone, before the map hears of it. -/
theorem State.enter_view (s : State) (c : Chan) (r : Nat) :
    (s.enter c r).timeNs = s.timeNs ∧ ((s.enter c r).chan c).thm = (s.chan c).thm ∧
      ((s.enter c r).chan c).st = (s.chan c).st.reason r false ∧
      (((s.chan c).st.reason r false).oos = 0 → (s.enter c r).serving c = true) := by
  unfold State.enter
  extract_lets s1
  have st1 : (s1.chan c).st = (s.chan c).st.reason r false := by simp [s1]
  split
  · next none_ =>
    have m := State.mapUpdate_minor ((s1.onMc fun m => { m with inService := m.inService ||| (1#8 <<< c.val) }).onPwr c fun p =>
      { p with ca := .on, cl := .on, hq := .on }) c fun m => { m with inService := true }
    rw [m.time, m.thm, m.st, m.serving]
    refine ⟨by simp [s1], by simp [s1], by simp [s1], fun _ => ?_⟩
    rw [State.onPwr_serving]
    simp [State.serving]
  · next some_ =>
    refine ⟨by simp [s1], by simp [s1], st1, fun h => absurd (st1 ▸ h) some_⟩

theorem execColdRecovery_enters (c : Chan) (s : State) (now : (s.chan c).thm.coldNow = true)
    (warm : ∀ i : Fin 96, 40 ≤ ((s.chan c).thm.sensors[i.val]).eff) : Answers (execColdRecovery c s) fun t =>
      t.timeNs = s.timeNs + 10000000000 ∧ (t.chan c).thm.coldNow = false ∧ (t.chan c).st.oos = (s.chan c).st.oos &&& ~~~(1#12 <<< 5) ∧
      ((s.chan c).st.oos &&& ~~~(1#12 <<< 5) = 0 → t.serving c = true) := by
  have all : (s.chan c).thm.sensors.all (fun x => decide (40 ≤ x.eff)) = true := by
    simp only [Vector.all_eq_true, decide_eq_true_eq]
    exact fun i h => warm ⟨i, h⟩
  have runs : execColdRecovery c s = .next (((s.until (s.timeNs + 10000000000)).onChan c fun y =>
      { y with thm := { y.thm with coldNow := false } }).enter c 5) := by
    simp [execColdRecovery, now, all, onlyIf]
  obtain ⟨time, thm, st, serving⟩ := ((s.until (s.timeNs + 10000000000)).onChan c fun y =>
      { y with thm := { y.thm with coldNow := false } }).enter_view c 5
  refine ⟨_, runs, ?_⟩
  dsimp only
  rw [time, thm, st]
  refine ⟨by simp [State.until], by simp, by simp [ChStatus.reason], fun h => serving ?_⟩
  simpa [ChStatus.reason] using h

/-- Settles O52. -/
theorem temperatureLimits : Obligations.TemperatureLimits := by
  unfold Obligations.TemperatureLimits
  intro c pd pump cis stale st degC s h m tripped
  have trips : ∀ t, Tripped c t → tripped t := fun t k => ⟨k.crit, k.now, k.out, k.oos, k.pin⟩
  simp only [exec]
  refine ⟨?_, ?_, execCriticalRecovery_cools c s, fun now ⟨i, hot⟩ => ?_, execColdRecovery_enters c s, fun now ⟨i, cold⟩ => ?_⟩
  · obtain ⟨t, runs, off, raws, tooHot, pause, trip, freeze⟩ := execTemperatureSample_polder c pd pump cis stale s
    exact ⟨t, runs, off, raws, tooHot, pause, fun now over_ => trips t (trip now over_), freeze⟩
  · obtain ⟨t, runs, temp, warm, cool, mid, trip⟩ := execTemperatureSample_stack c st degC s
    exact ⟨t, runs, temp, warm, cool, mid, fun lim now => ⟨trips t (trip lim now).1, (trip lim now).2⟩⟩
  · have some_ : m.sensors.all (fun x => decide (x.eff ≤ 340)) = false := by
      simp only [Vector.all_eq_false, decide_eq_true_eq]
      exact ⟨i.val, i.isLt, by omega⟩
    simp [execCriticalRecovery, onlyIf, show (s.chan c).thm.sensors.all (fun x => decide (x.eff ≤ 340)) = false from some_]
  · have some_ : m.sensors.all (fun x => decide (40 ≤ x.eff)) = false := by
      simp only [Vector.all_eq_false, decide_eq_true_eq]
      exact ⟨i.val, i.isLt, by omega⟩
    simp [execColdRecovery, onlyIf, show (s.chan c).thm.sensors.all (fun x => decide (40 ≤ x.eff)) = false from some_]

end Sys2Proof.Machine

namespace Sys2Proof.SMap

variable {α : Type}

/-- A listed entry is changed in place. -/
theorem look_set1_listed (m : SMap α) (k j : Nat) (v w : α) (h : look m k = some v) :
    look (set1 m k w) j = if j = k then some w else look m j := by
  induction m with
  | nil => simp [look] at h
  | cons e m ih =>
    obtain ⟨i, x⟩ := e
    by_cases hk : k = i
    · subst hk
      by_cases hj : j = k
      · simp [set1, look, hj]
      · simp [set1, look, hj]
    · by_cases lt : k < i
      · simp [look, hk, lt] at h
      · simp only [look, hk, lt, if_false] at h
        by_cases hj : j = k
        · subst hj
          simp [set1, look, hk, lt]
        · simp [set1, look, hk, lt, ih h, hj]

theorem look_alter (m : SMap α) (k j : Nat) (f : α → α) : look (alter m k f) j = if j = k then (look m j).map f else look m j := by
  unfold alter
  split
  · next v h =>
    rw [look_set1_listed m k j v (f v) h]
    split
    · next hj => simp [hj, h]
    · rfl
  · next h =>
    split
    · next hj => simp [hj, h]
    · rfl

end Sys2Proof.SMap

namespace Sys2Proof.Machine

/-! ### What repairs leave of the jobs (R259-R270, R401-R406) -/

/-- The jobs that Gnover leads, and each channel's reasons to be out of service, stand as they stood. -/
structure Mends (s t : State) : Prop where
  jobs : t.mc.jobs = s.mc.jobs
  oos : ∀ d, (t.chan d).st.oos = (s.chan d).st.oos

section
variable {s t u : State}

theorem Mends.refl (s : State) : Mends s s := ⟨rfl, fun _ => rfl⟩

theorem Mends.trans (a : Mends s t) (b : Mends t u) : Mends s u := ⟨b.jobs.trans a.jobs, fun d => (b.oos d).trans (a.oos d)⟩

theorem Mends.ite {b : Prop} [Decidable b] (ht : Mends s t) (hu : Mends s u) : Mends s (if b then t else u) := by
  split
  · exact ht
  · exact hu

theorem Mends.each {α : Type} (f : State → α → State) (h : ∀ t a, Mends t (f t a)) (l : List α) (s : State) : Mends s (s.each l f) :=
  State.each_invariant (Mends s) f (fun t a ht => ht.trans (h t a)) l s (Mends.refl s)

theorem Mends.onChan (s : State) (c : Chan) (f : Channel → Channel) (h : ∀ x, (f x).st.oos = x.st.oos) : Mends s (s.onChan c f) := by
  refine ⟨rfl, fun d => ?_⟩
  by_cases hd : d = c
  · subst hd
    rw [State.onChan_chan, h]
  · rw [State.onChan_chan_ne s c d f hd]

theorem Mends.onMc (s : State) (f : Gnover → Gnover) (h : ∀ m, (f m).jobs = m.jobs) : Mends s (s.onMc f) := ⟨h s.mc, fun _ => rfl⟩

theorem Minor.mends (h : Minor s t) : Mends s t := ⟨h.of_mc Gnover.jobs, fun d => by rw [h.st]⟩

end

theorem State.onPolder_mends (s : State) (c : Chan) (p : PolderIx) (f : Polder → Polder) : Mends s (s.onPolder c p f) :=
  Mends.onChan s c _ fun _ => by rfl

theorem State.settleOne_mends (s : State) (d : Defect) (st : BitVec 8) : Mends s (s.settleOne d st) := by
  unfold State.settleOne State.moveEntries
  exact Mends.onMc s _ fun _ => by rfl

theorem State.addDefect_mends (s : State) (c : Chan) (k : DefectKind) (src unit loc : Nat) : Mends s (s.addDefect c k src unit loc) := by
  unfold State.addDefect
  exact Mends.ite (Mends.refl s) (Mends.ite (Mends.onMc s _ fun _ => by rfl)
    ((Mends.onMc s _ fun _ => by rfl).trans (Mends.onChan _ c _ fun _ => by rfl)))

theorem State.widen_mends (s : State) (c : Chan) (d : Defect) (k : DefectKind) (unit loc : Nat) : Mends s (s.widen c d k unit loc) :=
  (s.settleOne_mends d 2).trans (State.addDefect_mends _ c k _ unit loc)

theorem State.losePump_mends (s : State) (c : Chan) (phys : Nat) : Mends s (s.losePump c phys) := by
  unfold State.losePump
  refine Mends.ite (Mends.trans ?_ (State.onPolder_mends _ c _ _)) (Mends.refl s)
  split
  · exact (Mends.onChan s c _ fun _ => by rfl).trans (State.onPolder_mends _ c _ _)
  · exact Mends.refl s

theorem State.onRepair_mends (s : State) (c : Chan) (phys : Nat) (f : PumpRepair → PumpRepair) : Mends s (s.onRepair c phys f) := by
  unfold State.onRepair
  split
  · exact State.onPolder_mends s c _ _
  · exact State.onPolder_mends s c _ _

theorem State.applyLane_mends (s : State) (c : Chan) (d : Defect) : Mends s (s.applyLane c d) :=
  Mends.ite (s.widen_mends c d _ _ _) ((s.settleOne_mends d 1).trans (State.onRepair_mends _ c _ _))

theorem State.applyBond_mends (s : State) (c : Chan) (d : Defect) : Mends s (s.applyBond c d) :=
  Mends.ite (s.widen_mends c d _ _ _) ((s.settleOne_mends d 1).trans (State.onRepair_mends _ c _ _))

theorem State.applyPumps_mends (s : State) (c : Chan) : Mends s (s.applyPumps c) :=
  ((((Mends.each _ (fun t d => t.applyLane_mends c d) _ s).trans (Mends.each _ (fun t d => t.applyBond_mends c d) _ _)).trans
    (Mends.each _ (fun t d => (t.settleOne_mends d 1).trans (State.losePump_mends _ c _)) _ _)).trans
      (Mends.each _ (fun t n => t.losePump_mends c n) _ _)).trans (Mends.onChan _ c _ fun _ => by rfl)

theorem State.spareTest_mends (s old : State) (c : Chan) (fails : BitVec 16) : Mends s (s.spareTest old c fails) :=
  Mends.each _ (fun t p => t.onPolder_mends c p _) _ s

theorem State.applySpare_mends (s : State) (c : Chan) (k : DefectKind) (bank : Nat → Nat) (spares : Nat) (d : Defect) :
    Mends s (s.applySpare c k bank spares d) := Mends.ite (s.settleOne_mends d 1) (s.widen_mends c d _ _ _)

theorem State.applyCistern_mends (s : State) (c : Chan) : Mends s (s.applyCistern c) :=
  ((Mends.each _ (fun t d => t.applySpare_mends c _ _ _ d) _ s).trans (Mends.each _ (fun t d => t.applySpare_mends c _ _ _ d) _ _)).trans
    (Mends.each _ (fun t d => (t.settleOne_mends d 1).trans (State.losePump_mends _ c _)) _ _)

theorem State.applyPin_mends (s : State) (c : Chan) (st : StackIx) : Mends s (s.applyPin c st) :=
  Mends.ite ((Mends.onChan s c _ fun _ => by rfl).trans (Mends.each _ (fun t z => t.addDefect_mends c _ _ _ _) _ _)) (Mends.refl s)

theorem State.applyHbmRow_mends (s : State) (c : Chan) (d : Defect) : Mends s (s.applyHbmRow c d) :=
  Mends.ite (s.settleOne_mends d 1) (s.widen_mends c d _ _ _)

theorem State.applyBank_mends (s : State) (c : Chan) (d : Defect) : Mends s (s.applyBank c d) :=
  Mends.ite ((Mends.onMc s _ fun _ => by rfl).trans (State.addDefect_mends _ c _ _ _ _))
    (Mends.ite (s.settleOne_mends d 2) (Mends.ite (s.settleOne_mends d 1) (Mends.refl s)))

theorem State.setCaps_mends (s : State) (c : Chan) : Mends s (s.setCaps c) := by
  unfold State.setCaps
  exact Mends.onChan s c _ fun _ => by rfl

theorem State.askCkpt_jobs (s : State) (ctx job : Nat) : (s.askCkpt ctx job).mc.jobs = s.mc.jobs :=
  State.each_same (fun t => t.mc.jobs) (fun t (e : Chan × SlotIx) => t.onSlot e.1 e.2 fun x => { x with ckptAsked := true })
    (fun _ _ => rfl) _ s

theorem State.leave_jobs (s : State) (c : Chan) (r : Nat) : (s.leave c r).mc.jobs = s.mc.jobs := by
  rw [(s.leave_minor c r).mends.jobs]
  simp [State.left, State.domainsOff]

/-! ### Fault flows that wait (R389) -/

/-- No job of the module waits in its fault flow. -/
def NoFlow (s : State) : Prop := ∀ n e, s.mc.jobs.look n = some e → e.flow = false

theorem NoFlow.of_jobs {s t : State} (h : NoFlow s) (same : t.mc.jobs = s.mc.jobs) : NoFlow t := fun n e he => h n e (same ▸ he)

theorem NoFlow.onJob {s : State} (h : NoFlow s) (ctx job : Nat) (f : Job → Job) (hf : ∀ x, (f x).flow = x.flow) :
    NoFlow (s.onJob ctx job f) := by
  intro n e he
  have look : (s.mc.jobs.alter (jobKey ctx job) f).look n = some e := he
  rw [SMap.look_alter] at look
  split at look
  · obtain ⟨x, hx, rfl⟩ := Option.map_eq_some_iff.mp look
    rw [hf]
    exact h n x hx
  · exact h n e look

theorem State.applyLayer_jobs (s : State) (c : Chan) (d : Defect) : (s.applyLayer c d).mc.jobs = s.mc.jobs := by
  unfold State.applyLayer
  split
  · exact (s.settleOne_mends d 1).jobs
  · exact s.leave_jobs c 8

theorem State.applyHbm_jobs (s : State) (c : Chan) : (s.applyHbm c).1.mc.jobs = s.mc.jobs := by
  unfold State.applyHbm
  extract_lets pins s1 s2 s3 s4 outs gone
  have m1 : Mends s s1 := Mends.each _ (fun t st => t.applyPin_mends c st) _ s
  have m2 : Mends s1 s2 := Mends.each _ (fun t d => t.applyHbmRow_mends c d) _ s1
  have m3 : Mends s2 s3 := Mends.each _ (fun t d => Mends.ite (t.applyBank_mends c d) (Mends.refl t)) _ s2
  have m4 : s4.mc.jobs = s3.mc.jobs := (State.setCaps_mends _ c).jobs.trans
    (State.each_same (fun t => t.mc.jobs) (fun t d => t.applyLayer c d) (fun t d => t.applyLayer_jobs c d) _ s3)
  have jobs4 : s4.mc.jobs = s.mc.jobs := m4.trans ((m1.trans m2).trans m3).jobs
  clear_value s4
  split
  · exact jobs4
  · exact jobs4

theorem State.buddyLost_noFlow {s : State} (h : NoFlow s) (c : Chan) (j : SlotIx) : NoFlow (s.buddyLost c j) := by
  unfold State.buddyLost
  extract_lets x s1
  split
  · have h1 : NoFlow (s1.onSlot c j fun y => { y with buddySlots := [] }) := h.of_jobs rfl
    exact (h1.onJob x.job.ctx x.job.job (fun jb => { jb with ckpts := [] }) fun _ => rfl).of_jobs (State.askCkpt_jobs _ _ _)
  · exact h

theorem State.buddiesLost_noFlow {s : State} (h : NoFlow s) (c : Chan) : NoFlow (s.buddiesLost c) := by
  refine State.each_invariant NoFlow _ (fun t e ht => ?_) _ s h
  split
  · split
    · exact State.buddyLost_noFlow ht _ _
    · exact ht
  · exact ht

theorem State.applyRepairs_noFlow {s : State} (h : NoFlow s) (c : Chan) (fails : BitVec 16) : NoFlow (s.applyRepairs c fails) := by
  unfold State.applyRepairs
  extract_lets fail
  rcases hr : ((s.applyPumps c).applyCistern c).applyHbm c with ⟨s1, rebuilt⟩
  dsimp -zeta only
  extract_lets s2 s3 s4
  have jobs1 : s1.mc.jobs = s.mc.jobs := by
    have := State.applyHbm_jobs ((s.applyPumps c).applyCistern c) c
    rw [hr] at this
    exact this.trans ((s.applyPumps_mends c).trans (State.applyCistern_mends _ c)).jobs
  have jobs2 : s2.mc.jobs = s.mc.jobs := (s1.spareTest_mends s c fails).jobs.trans jobs1
  clear_value s2
  have jobs3 : s3.mc.jobs = s.mc.jobs := by
    simp only [s3]
    split
    · rw [State.leave_jobs, jobs2]
    · exact jobs2
  clear_value s3
  have jobs4 : s4.mc.jobs = s.mc.jobs := by
    simp only [s4]
    split
    · rw [State.leave_jobs, jobs3]
    · exact jobs3
  clear_value s4
  split
  · exact State.buddiesLost_noFlow (h.of_jobs jobs4) c
  · exact h.of_jobs jobs4

/-- Where no fault flow waits, none goes on. -/
theorem State.flowsOn_idle {s : State} (h : NoFlow s) : s.flowsOn = s := by
  have stays : ∀ ctx job, s.flowOn ctx job = s := by
    intro ctx job
    unfold State.flowOn
    split
    · rfl
    · next jb hjb =>
      have : jb.flow = false := h _ _ hjb
      simp [this]
  exact State.each_invariant (fun t => t = s) _ (fun t k ht => by rw [ht, stays]) _ s rfl

end Sys2Proof.Machine


namespace Sys2Proof.Machine

/-! ### Pumps and slices through a reset -/

theorem Pump.stopIn_slice (q : Pump) (polders : BitVec 16) (p : PumpIx) : (q.stopIn polders p).slice = q.slice := by
  unfold Pump.stopIn
  split <;> rfl

@[simp] theorem State.fault_slice (s : State) (c : Chan) (j : SlotIx) (cause : Cause) (kind : UnitKind) (unit addr : Nat) (p : PumpIx) :
    (s.fault c j cause kind unit addr).slice c p = s.slice c p := by
  by_cases live : (s.slot c j).live = true
  · rw [State.slice, State.fault_pump s c j cause kind unit addr live, Pump.stopIn_slice]
    rfl
  · simp [State.fault, live]

@[simp] theorem State.faultAll_slice (s : State) (c : Chan) (js : List SlotIx) (cause : Cause) (kind : UnitKind) (unit : Nat) (p : PumpIx) :
    (s.faultAll c js cause kind unit).slice c p = s.slice c p :=
  State.each_same (fun t => t.slice c p) _ (fun t j => t.fault_slice c j cause kind unit 0 p) js s

theorem State.pumpState_slice (s : State) (c : Chan) (j : SlotIx) (q p : PumpIx) : (s.pumpState c j q).slice c p = s.slice c p := by
  unfold State.pumpState
  exact congrArg Pump.slice (s.event_pump c _ _ _ _ p)

@[simp] theorem State.assertReset_slice (s : State) (c : Chan) (cause : Cause) (kind : UnitKind) (p : PumpIx) :
    (s.assertReset c cause kind).slice c p = s.slice c p :=
  (State.faultAll_slice _ c _ cause kind 0 p).trans
    (State.each_same (fun t => t.slice c p) (fun t j => t.each ((t.chan c).pumpsOf j) fun u q => u.pumpState c j q)
      (fun t j => State.each_same (fun u => u.slice c p) (fun u q => u.pumpState c j q) (fun u q => u.pumpState_slice c j q p) _ t) _ s)

theorem State.onRing_pumps (s : State) (r : RingId) (g : Ring → Ring) : SamePumps s (s.onRing r g) := (s.onRing_quiet r g).1

theorem State.abortPass_slice (s : State) (c : Chan) (p : PumpIx) : (s.abortPass c).slice c p = s.slice c p := by
  unfold State.abortPass
  split
  · exact congrArg Pump.slice ((SamePumps.onChan s c _ fun _ => by rfl).trans (State.onRing_pumps _ _ _) c p)
  · rfl

theorem State.mapPut_pumps (s : State) (c : Chan) (m : MapChan) : SamePumps s (s.mapPut c m) := by
  unfold State.mapPut
  dsimp only
  refine SamePumps.ite (SamePumps.trans (t := s.onMc _) (fun _ _ => rfl) (SamePumps.each _ (fun t d => t.sendMgmt_pumps c _ _) _ _))
    (s.sendMgmt_pumps c _ _)

theorem State.mapUpdate_pumps (s : State) (c : Chan) (g : MapChan → MapChan) : SamePumps s (s.mapUpdate c g) := by
  unfold State.mapUpdate
  split
  · exact SamePumps.refl s
  · exact SamePumps.ite (SamePumps.refl s) (s.mapPut_pumps c _)

theorem State.holdReset_pumps (s : State) (c : Chan) : SamePumps s (s.holdReset c) := by
  unfold State.holdReset
  exact SamePumps.trans (SamePumps.trans (SamePumps.onChan s c _ fun _ => by rfl) (t := s.onSt c fun x => x.reason 11 true) fun _ _ => rfl)
    (State.mapUpdate_pumps _ c _)

/-- The pumps of a channel after a reset of the pump die. -/
def State.pumpDieReset (s : State) (c : Chan) (scope : BitVec 2) : State :=
  ((s.onSt c fun x => x.resetting scope).onChan c fun h => { h with pumps := h.pumps.map Pump.dieReset }).outForReset c

theorem State.beginReset_pumpDie (s : State) (c : Chan) (scope : BitVec 2) (retain : Bool) (requester : Nat) (h : scope ≠ 2) :
    Minor (s.pumpDieReset c scope) (s.beginReset c scope retain requester) := by
  unfold State.beginReset State.pumpDieReset
  extract_lets s1 s2
  rw [if_neg h]
  have m1 : Minor s s1 := s.resetEvent_minor c _ _ _
  have m2 : Minor (s.onSt c fun x => x.resetting scope) s2 := m1.onChan_congr c _ fun x y h => by
    cases x; cases y; simp_all [Channel.plant]
  have m3 := m2.onChan_congr c (fun h => { h with pumps := h.pumps.map Pump.dieReset }) fun x y h => by
    cases x; cases y; simp_all [Channel.plant]
  have m4 := m3.onChan_congr c (fun h => { h with st := h.st.reason 11 true }) fun x y h => by
    cases x; cases y; simp_all [Channel.plant]
  have m5 := m4.onMc_congr (fun m => { m with inService := m.inService &&& ~~~(1#8 <<< c.val) }) fun x y h => by
    cases x; cases y; simp_all [Gnover.core]
  exact m5.trans (State.mapUpdate_minor _ c _)

/-- A pump whose die has been reset, its slice as it stood. -/
theorem State.beginReset_pumpDie_pump (s : State) (c : Chan) (scope : BitVec 2) (retain : Bool) (requester : Nat) (h : scope ≠ 2) (p : PumpIx) :
    (s.beginReset c scope retain requester).pump c p = (s.pump c p).dieReset := by
  unfold State.beginReset
  extract_lets s1 s2
  rw [if_neg h, State.holdReset_pumps _ c c p]
  have k1 : s1.pump c p = s.pump c p := s.event_pump c _ _ _ _ p
  have k2 : s2.pump c p = s1.pump c p := SamePumps.onChan s1 c _ (fun _ => by rfl) c p
  clear_value s2
  rw [← k1, ← k2]
  simp [State.pump]

/-- A pump after a channel reset. -/
theorem State.beginReset_channel_pump (s : State) (c : Chan) (retain : Bool) (requester : Nat) (p : PumpIx) :
    ∃ q : Pump, q.slice = s.slice c p ∧ (s.beginReset c 2 retain requester).pump c p = { q.dieReset with slice := q.slice.chanReset retain } := by
  unfold State.beginReset
  extract_lets s1 s2 s3
  rw [if_pos rfl, State.holdReset_pumps _ c c p]
  have k1 : s1.pump c p = s.pump c p := s.event_pump c _ _ _ _ p
  have k2 : s2.pump c p = s1.pump c p := SamePumps.onChan s1 c _ (fun _ => by rfl) c p
  clear_value s2
  simp only [s3]
  refine ⟨((s2.abortPass c).assertReset c .firmware .firmware).pump c p, ?_, ?_⟩
  · have : ((s2.abortPass c).assertReset c .firmware .firmware).slice c p = s2.slice c p := by
      rw [State.assertReset_slice, State.abortPass_slice]
    exact this.trans (congrArg Pump.slice (k2.trans k1))
  · generalize (s2.abortPass c).assertReset c .firmware .firmware = u
    simp [State.pump, State.onPwr, Channel.chanReset]

/-- What a lower-die reset leaves of a channel that it has taken out of service. -/
structure ResetBegun (c : Chan) (p : PumpIx) (scope : BitVec 2) (s t : State) : Prop where
  busy : (t.chan c).st.busy = true
  scope : (t.chan c).st.lastScope = scope
  wanted : (t.chan c).st.resetWanted = none
  out : t.serving c = false
  hbm : (t.chan c).hbm = (s.chan c).hbm
  vars : (t.pump c p).x = []
  prog : (t.pump c p).prog = []
  idle : (t.pump c p).run = .idle

theorem Minor.hbm {s t : State} (h : Minor s t) (c : Chan) : (t.chan c).hbm = (s.chan c).hbm := h.at_ Channel.hbm c

theorem State.outForReset_serving (s : State) (c : Chan) : (s.outForReset c).serving c = false := by
  simp [State.outForReset, State.serving]

theorem State.beginReset_begun (s : State) (c : Chan) (p : PumpIx) (scope : BitVec 2) (retain : Bool) (requester : Nat) :
    ResetBegun c p scope s (s.beginReset c scope retain requester) := by
  by_cases h : scope = 2
  · subst h
    have m := s.beginReset_channel c retain requester
    obtain ⟨q, -, pump⟩ := s.beginReset_channel_pump c retain requester p
    have st : ((s.channelReset c retain).chan c).st = (((s.chan c).st.resetting 2).reason 11 true) := by
      simp [State.channelReset, State.passEnded, State.outForReset, Channel.chanReset]
    have hbm : ((s.channelReset c retain).chan c).hbm = (s.chan c).hbm := by
      simp [State.channelReset, State.passEnded, State.outForReset, Channel.chanReset]
    have out : (s.channelReset c retain).serving c = false := State.outForReset_serving _ c
    refine ⟨?_, ?_, ?_, by rw [m.serving, out], by rw [m.hbm, hbm], by rw [pump]; rfl, by rw [pump]; rfl, by rw [pump]; rfl⟩ <;>
    · rw [m.st, st]
      rfl
  · have m := s.beginReset_pumpDie c scope retain requester h
    have pump := s.beginReset_pumpDie_pump c scope retain requester h p
    have st : ((s.pumpDieReset c scope).chan c).st = (((s.chan c).st.resetting scope).reason 11 true) := by
      simp [State.pumpDieReset, State.outForReset]
    have hbm : ((s.pumpDieReset c scope).chan c).hbm = (s.chan c).hbm := by
      simp [State.pumpDieReset, State.outForReset]
    have out : (s.pumpDieReset c scope).serving c = false := State.outForReset_serving _ c
    refine ⟨?_, ?_, ?_, by rw [m.serving, out], by rw [m.hbm, hbm], by rw [pump]; rfl, by rw [pump]; rfl, by rw [pump]; rfl⟩ <;>
    · rw [m.st, st]
      rfl

end Sys2Proof.Machine


namespace Sys2Proof.Machine

/-! ### The end of a reset (R404) -/

/-- A channel with one reason less to be out of service, before the map hears of it. -/
def State.entered (s : State) (c : Chan) (r : Nat) : State :=
  if ((s.chan c).st.reason r false).oos = 0 then
    ((s.onSt c fun x => x.reason r false).onMc fun m => { m with inService := m.inService ||| (1#8 <<< c.val) }).onPwr c fun p =>
      { p with ca := .on, cl := .on, hq := .on }
  else s.onSt c fun x => x.reason r false

theorem State.enter_minor (s : State) (c : Chan) (r : Nat) : Minor (s.entered c r) (s.enter c r) := by
  unfold State.entered State.enter
  simp only [State.onSt, State.onChan_chan]
  split
  · exact State.mapUpdate_minor _ c _
  · exact Minor.refl _

theorem State.entered_st (s : State) (c : Chan) (r : Nat) : ((s.entered c r).chan c).st = (s.chan c).st.reason r false := by
  unfold State.entered
  split <;> simp

theorem State.entered_serving (s : State) (c : Chan) (r : Nat) (h : ((s.chan c).st.reason r false).oos = 0) :
    (s.entered c r).serving c = true := by
  rw [State.entered, if_pos h, State.onPwr_serving]
  simp [State.serving]

theorem State.entered_hbm (s : State) (c : Chan) (r : Nat) : ((s.entered c r).chan c).hbm = (s.chan c).hbm := by
  unfold State.entered
  split <;> simp

theorem State.entered_polders (s : State) (c : Chan) (r : Nat) : ((s.entered c r).chan c).polders = (s.chan c).polders := by
  unfold State.entered
  split <;> simp

theorem State.entered_lk (s : State) (c : Chan) (r : Nat) : ((s.entered c r).chan c).pwr.lk = (s.chan c).pwr.lk := by
  unfold State.entered
  split <;> simp

theorem State.entered_jobs (s : State) (c : Chan) (r : Nat) : (s.entered c r).mc.jobs = s.mc.jobs := by
  unfold State.entered
  split <;> simp

/-- A channel whose reset has ended, before the map hears of it. -/
def State.readied (s : State) (c : Chan) : State :=
  (s.onSt c fun x => { x with busy := false, embBusy := false, coldWait := false }).entered c 11

theorem State.mapSync_minor (s : State) (c : Chan) : Minor s (s.mapSync c) := State.mapUpdate_minor s c _

theorem State.ready_minor {s : State} (h : NoFlow s) (c : Chan) : Minor (s.readied c) (s.ready c) := by
  have m1 : Minor (s.readied c) ((s.onSt c fun x => { x with busy := false, embBusy := false, coldWait := false }).enter c 11) :=
    State.enter_minor _ c 11
  have m2 := m1.trans (State.mapSync_minor _ c)
  have jobs : NoFlow (((s.onSt c fun x => { x with busy := false, embBusy := false, coldWait := false }).enter c 11).mapSync c) := by
    refine h.of_jobs (m2.mends.jobs.trans ?_)
    rw [State.readied, State.entered_jobs]
    rfl
  have idle := State.flowsOn_idle jobs
  rw [State.ready, idle]
  exact m2

/-- What the end of a reset leaves: neither reset goes on, and a channel that nothing else holds serves. -/
structure ReadyAgain (c : Chan) (t : State) : Prop where
  idle : (t.chan c).st.busy = false
  emb : (t.chan c).st.embBusy = false
  oos : (t.chan c).st.oos.getLsbD 11 = false
  serves : (t.chan c).st.oos = 0 → t.serving c = true

theorem State.readied_st (s : State) (c : Chan) : ((s.readied c).chan c).st =
    ({ (s.chan c).st with busy := false, embBusy := false, coldWait := false } : ChStatus).reason 11 false := by
  rw [State.readied, State.entered_st]
  simp

theorem State.ready_again {s : State} (h : NoFlow s) (c : Chan) : ReadyAgain c (s.ready c) := by
  have m := State.ready_minor h c
  refine ⟨?_, ?_, ?_, ?_⟩
  · rw [m.st, State.readied_st]
    rfl
  · rw [m.st, State.readied_st]
    rfl
  · rw [m.st, State.readied_st]
    simp [ChStatus.reason]
  · rw [m.st, m.serving, State.readied_st]
    intro zero
    refine State.entered_serving _ c 11 ?_
    simpa using zero

/-- No repair of a pump is marked pending any more. -/
structure Repaired (r : PumpRepair) : Prop where
  lane : r.lanePending = 0
  bond : r.bondPending = 0
  out : r.mapoutPending = false

theorem State.applyPumps_repaired (s : State) (c : Chan) (pd : PolderIx) (i : Fin 8) :
    Repaired (((s.applyPumps c).polder c pd).repair[i.val]) := by
  unfold State.applyPumps
  extract_lets s1 s2 s3 s4
  clear_value s4
  exact ⟨by simp [State.polder, PumpRepair.finish], by simp [State.polder, PumpRepair.finish], by simp [State.polder, PumpRepair.finish]⟩

theorem State.spareTest_repair (s old : State) (c : Chan) (fails : BitVec 16) (pd : PolderIx) :
    ((s.spareTest old c fails).polder c pd).repair = (s.polder c pd).repair := by
  refine State.each_same (fun t => (t.polder c pd).repair) _ (fun t p => ?_) _ s
  by_cases hp : pd = p
  · subst hp
    simp
  · rw [State.onPolder_polder_ne t c p pd _ hp]

theorem execPumpDieResetComplete_ends (c : Chan) (fails : BitVec 16) (s : State) (busy : (s.chan c).st.busy = true)
    (scope : (s.chan c).st.lastScope = 1) (h : NoFlow s) : Answers (execPumpDieResetComplete c fails s) fun t =>
      ReadyAgain c t ∧ (t.chan c).st.oos = (s.chan c).st.oos &&& ~~~(1#12 <<< 11) ∧
        ∀ (pd : PolderIx) (i : Fin 8), Repaired ((t.polder c pd).repair[i.val]) := by
  have runs : execPumpDieResetComplete c fails s = .next (((s.applyPumps c).spareTest s c fails).ready c) := by
    simp [execPumpDieResetComplete, busy, scope, onlyIf]
  have mends := (s.applyPumps_mends c).trans (State.spareTest_mends _ s c fails)
  have repaired : ∀ (pd : PolderIx) (i : Fin 8), Repaired ((((s.applyPumps c).spareTest s c fails).polder c pd).repair[i.val]) := by
    intro pd i
    simp only [State.spareTest_repair]
    exact s.applyPumps_repaired c pd i
  generalize (s.applyPumps c).spareTest s c fails = u at runs mends repaired
  have idle : NoFlow u := h.of_jobs mends.jobs
  have m := State.ready_minor idle c
  have again := State.ready_again idle c
  refine ⟨_, runs, again, ?_, fun pd i => ?_⟩
  · rw [m.st, State.readied_st]
    simp [ChStatus.reason, mends.oos]
  · have same : ((u.ready c).polder c pd) = u.polder c pd := by
      rw [m.polder, State.polder, State.readied, State.entered_polders]
      simp [State.polder]
    simp only [same]
    exact repaired pd i

theorem execChannelResetComplete_frozen (c : Chan) (fails : BitVec 16) (s : State) (busy : (s.chan c).st.busy = true)
    (scope : (s.chan c).st.lastScope = 2) (cold : (s.chan c).frozenCold = true) :
    execChannelResetComplete c fails s = .next (s.onSt c fun y => { y with coldWait := true }) := by
  simp [execChannelResetComplete, busy, scope, cold]

theorem execChannelResetComplete_ends (c : Chan) (fails : BitVec 16) (s : State) (busy : (s.chan c).st.busy = true)
    (scope : (s.chan c).st.lastScope = 2) (warm : (s.chan c).frozenCold = false) (main : s.mc.pwr.main ≠ .excursion) (h : NoFlow s) :
    Answers (execChannelResetComplete c fails s) (ReadyAgain c) := by
  have runs : execChannelResetComplete c fails s = .next ((s.applyRepairs c fails).ready c) := by
    simp [execChannelResetComplete, busy, scope, warm, main]
  exact ⟨_, runs, State.ready_again (State.applyRepairs_noFlow h c fails) c⟩

theorem execEmbankmentResetComplete_frozen (c : Chan) (s : State) (busy : (s.chan c).st.embBusy = true)
    (cold : (s.chan c).frozenCold = true) :
    execEmbankmentResetComplete c s = .next (s.onSt c fun y => { y with coldWait := true }) := by
  simp [execEmbankmentResetComplete, busy, cold]

theorem execEmbankmentResetComplete_ends (c : Chan) (s : State) (busy : (s.chan c).st.embBusy = true)
    (warm : (s.chan c).frozenCold = false) (h : NoFlow s) : Answers (execEmbankmentResetComplete c s) fun t =>
      (t.chan c).st.embBusy = false ∧ (t.chan c).hbm = [] ∧ (t.chan c).pwr.lk = .on := by
  have runs : execEmbankmentResetComplete c s = .next (((((s.applyRepairs c 0).onChan c fun h => { h with hbm := [], hbmUpset := [] }).onPwr c
      fun p => { p with lk := .on }).enter c 1).ready c) := by
    simp [execEmbankmentResetComplete, busy, warm]
  have noFlow : NoFlow (((s.applyRepairs c 0).onChan c fun h => { h with hbm := [], hbmUpset := [] }).onPwr c fun p => { p with lk := .on }) :=
    (State.applyRepairs_noFlow h c 0).of_jobs (by simp)
  have hbm : ((((s.applyRepairs c 0).onChan c fun h => { h with hbm := [], hbmUpset := [] }).onPwr c
      fun p => { p with lk := .on }).chan c).hbm = [] := by simp
  have lk : ((((s.applyRepairs c 0).onChan c fun h => { h with hbm := [], hbmUpset := [] }).onPwr c
      fun p => { p with lk := .on }).chan c).pwr.lk = .on := by simp
  generalize ((s.applyRepairs c 0).onChan c fun h => { h with hbm := [], hbmUpset := [] }).onPwr c (fun p => { p with lk := .on }) = u
    at runs noFlow hbm lk
  have m1 := u.enter_minor c 1
  have idle : NoFlow (u.enter c 1) := noFlow.of_jobs (m1.mends.jobs.trans (u.entered_jobs c 1))
  have m := State.ready_minor idle c
  refine ⟨_, runs, (State.ready_again idle c).emb, ?_, ?_⟩
  · rw [m.hbm, State.readied, State.entered_hbm, State.onSt, State.onChan_chan]
    dsimp only
    rw [m1.hbm, State.entered_hbm, hbm]
  · rw [m.pwr, State.readied, State.entered_lk, State.onSt, State.onChan_chan]
    dsimp only
    rw [m1.pwr, State.entered_lk, lk]

/-! ### The embankment's reset (R402, Table 14.5) -/

theorem State.beginEmb_loses (s : State) (c : Chan) (p : PumpIx) (j : SlotIx) :
    ((s.beginEmb c).chan c).st.embBusy = true ∧ ((s.beginEmb c).chan c).st.lastScope = 3 ∧ (s.beginEmb c).serving c = false ∧
      ((s.beginEmb c).chan c).hbm = [] ∧ ((s.beginEmb c).slice c p).mem = [] ∧ ((s.beginEmb c).slot c j).live = false := by
  unfold State.beginEmb State.loseChan
  extract_lets s1 homes s2 s3 s4
  have out4 : s4.serving c = false := by simp [s4, State.serving]
  clear_value s4
  have m : Minor (s4.onChan c Channel.embReset) ((s4.onChan c Channel.embReset).mapSync c) := State.mapUpdate_minor _ c _
  have pumps : SamePumps (s4.onChan c Channel.embReset) ((s4.onChan c Channel.embReset).mapSync c) := State.mapUpdate_pumps _ c _
  have slots : Keeps id (s4.onChan c Channel.embReset) ((s4.onChan c Channel.embReset).mapSync c) := State.mapUpdate_keeps _ c _
  refine ⟨?_, ?_, ?_, ?_, ?_, ?_⟩
  · rw [m.st]
    simp [Channel.embReset]
  · rw [m.st]
    simp [Channel.embReset]
  · rw [m.serving]
    exact out4
  · rw [m.hbm, State.onChan_chan]
    rfl
  · rw [State.slice, pumps c p, State.pump, State.onChan_chan]
    simp [Channel.embReset, Channel.reset, Pump.reset, Slice.reset]
  · have same : ((s4.onChan c Channel.embReset).mapSync c).slot c j = (s4.onChan c Channel.embReset).slot c j := slots.2 c j
    rw [same, State.slot, State.onChan_chan]
    simp [Channel.embReset, Channel.reset, show Slot.reset.live = false from rfl]

end Sys2Proof.Machine


namespace Sys2Proof.Machine

/-! ### Control bonds and the sequencer (R385, R400, R408) -/

/-- A BOND fault, or one of the firmware, is the first that FLT_REC of a slot holds. -/
theorem Slot.faultSeen_flt {x : Slot} {code : BitVec 8} (h : x.faultSeen = (true, true, code)) :
    x.regs.flt.valid = true ∧ x.regs.flt.cause = code := by
  simp only [Slot.faultSeen, Prod.mk.injEq] at h
  exact ⟨h.2.1, h.2.2⟩

theorem State.fault_hits (s : State) (c : Chan) (j : SlotIx) (cause : Cause) (kind : UnitKind) (unit addr : Nat)
    (live : (s.slot c j).live = true) (fresh : (s.slot c j).regs.flt.valid = false) :
    ((s.fault c j cause kind unit addr).slot c j).faultSeen = (true, true, BitVec.ofNat 8 cause.code) := by
  rw [State.fault_faultSeen]
  simp [Slot.faultSeen, recordFault, live, fresh]

theorem Channel.slotOf_congr {x y : Channel} (h : x.slots = y.slots) (p : PumpIx) : x.slotOf p = y.slotOf p := by
  simp only [Channel.slotOf, Channel.slotOfPolder, Channel.liveSlots, h]

/-- The copies of a control bond that a pump has lost once one more is lost. -/
def State.ctlLost (s : State) (c : Chan) (p : PumpIx) (sig : Fin 4) (copy : Bool) : BitVec 8 :=
  ((s.polder c (polderOf p)).repair[p.val % 8]).ctlLost ||| (1#8 <<< (2 * sig.val + bit copy))

theorem execBondCtlLoss_counts (c : Chan) (p : PumpIx) (j : SlotIx) (sig : Fin 4) (copy : Bool) (s : State) :
    Answers (execBondCtlLoss c p sig copy s) fun t =>
      ((t.polder c (polderOf p)).repair[p.val % 8]).ctlLost = s.ctlLost c p sig copy ∧
      ((s.ctlLost c p sig copy).getLsbD (2 * sig.val) = true → (s.ctlLost c p sig copy).getLsbD (2 * sig.val + 1) = true →
        (s.chan c).slotOf p = some j → (s.slot c j).regs.flt.valid = false →
        (t.slot c j).regs.flt.valid = true ∧ (t.slot c j).regs.flt.cause = 2) := by
  unfold execBondCtlLoss
  extract_lets k phys lost s1
  have hlost : lost = s.ctlLost c p sig copy := rfl
  have slots1 : (s1.chan c).slots = (s.chan c).slots := by simp [s1, State.onPolder, State.event]
  have noted : ((s1.polder c (polderOf p)).repair[p.val % 8]).ctlLost = lost := by
    simp [s1, k, upd]
  rw [← hlost]
  clear_value lost s1
  refine ⟨_, rfl, ?_, fun b0 b1 hs fresh => ?_⟩
  · have m : Minor s1 (if (lost.getLsbD (2 * sig.val) && lost.getLsbD (2 * sig.val + 1)) = true then s1.pumpFault c p .bond 0 else s1) := by
      refine Minor.ite ?_ (Minor.refl s1)
      unfold State.pumpFault
      split
      · exact State.fault_minor ..
      · exact Minor.refl s1
    simp only [m.polder]
    exact noted
  · have at1 : (s1.chan c).slotOf p = some j := by
      rw [← hs, Channel.slotOf_congr slots1]
    have slot1 : s1.slot c j = s.slot c j := by rw [State.slot, slots1, State.slot]
    have live : (s1.slot c j).live = true := (Channel.slotOf_some at1).1
    rw [if_pos (by rw [b0, b1]; rfl), State.pumpFault, at1]
    exact Slot.faultSeen_flt (State.fault_hits s1 c j .bond .pump _ 0 live (by rw [slot1]; exact fresh))

theorem execSequencerTimeout_faults (c : Chan) (j : SlotIx) (s : State) : Answers (execSequencerTimeout c s) fun t =>
    (s.slot c j).live = true → (s.slot c j).regs.flt.valid = false →
      (t.slot c j).regs.flt.valid = true ∧ (t.slot c j).regs.flt.cause = 0x0C := by
  refine ⟨_, rfl, fun live fresh => Slot.faultSeen_flt ?_⟩
  have hit := State.faultAll_hits s c (s.chan c).liveSlots .firmware .firmware 0 j ((Channel.mem_liveSlots _ j).mpr live) live fresh
  have kept := (State.throughFault_keeps (f := Slot.faultSeen) (s.faultAll c (s.chan c).liveSlots .firmware .firmware 0) c .firmware .firmware).2 c j
  rw [kept, hit]
  rfl

/-! ### Resets as commands -/

theorem execChResetPumpDie_begins (c : Chan) (p : PumpIx) (s : State) (open_ : s.windowOpen c = true) (free : (s.chan c).resettable = true) :
    Answers (execChResetPumpDie c s) fun t => ResetBegun c p 1 s t ∧ t.slice c p = s.slice c p := by
  refine ⟨s.beginReset c 1 false 2, by simp [execChResetPumpDie, open_, State.chReset, free, onlyIf], s.beginReset_begun c p 1 false 2, ?_⟩
  have pump := s.beginReset_pumpDie_pump c 1 false 2 (by decide) p
  rw [State.slice, pump]
  rfl

theorem execChResetChannel_begins (c : Chan) (p : PumpIx) (retain : Bool) (s : State) (open_ : s.windowOpen c = true)
    (free : (s.chan c).resettable = true) : Answers (execChResetChannel c retain s) fun t => ResetBegun c p 2 s t ∧
      (t.slice c p).mem = (if retain then (s.slice c p).mem else []) ∧ (t.slice c p).dead = [] ∧ (t.chan c).set = ChanSet.reset ∧
      (t.chan c).held = [] ∧ (t.chan c).cis.ceLog = (s.chan c).cis.ceLog := by
  have m := s.beginReset_channel c retain 2
  obtain ⟨q, hq, pump⟩ := s.beginReset_channel_pump c retain 2 p
  have slice : (s.beginReset c 2 retain 2).slice c p = (s.slice c p).chanReset retain := by
    rw [State.slice, pump, ← hq]
  have runs : execChResetChannel c retain s = .next (s.beginReset c 2 retain 2) := by
    simp [execChResetChannel, open_, State.chReset, free, onlyIf]
  have begun := s.beginReset_begun c p 2 retain 2
  generalize s.beginReset c 2 retain 2 = t at runs begun slice m
  refine ⟨t, runs, begun, ?_, ?_, ?_, ?_, ?_⟩
  · rw [slice]
    cases retain <;> rfl
  · rw [slice]
    cases retain <;> rfl
  · have : (t.chan c).set = ((s.channelReset c retain).chan c).set := m.at_ Channel.set c
    rw [this]
    simp [State.channelReset, State.outForReset, Channel.chanReset]
  · rw [m.held]
    simp [State.channelReset, State.outForReset, Channel.chanReset]
  · rw [m.cis]
    simp [State.channelReset, State.passEnded, State.outForReset, Channel.chanReset, Cistern.chanReset]

theorem execDeferredReset_begins (c : Chan) (p : PumpIx) (k : BitVec 2) (s : State) (asked : (s.chan c).st.resetWanted = some k)
    (idle : (s.chan c).idle = true) (free : (s.chan c).st.busy = false) (up : s.mc.inReset = false) :
    Answers (execDeferredReset c s) (ResetBegun c p k s) :=
  ⟨s.beginReset c k false 1, by simp [execDeferredReset, asked, idle, free, up, onlyIf], s.beginReset_begun c p k false 1⟩

/-- Settles O50. -/
theorem channelResets : Obligations.ChannelResets := by
  unfold Obligations.ChannelResets
  intro c p j retain copy fails k sig s h x begun idleFlows ready drained both
  have begins : ∀ scope t, ResetBegun c p scope s t → begun t scope := fun _ _ b => ⟨b.busy, b.scope, b.out, b.hbm, b.vars, b.prog, b.idle⟩
  have readies : ∀ t, ReadyAgain c t → ready t := fun _ r => ⟨r.idle, r.emb, r.oos, r.serves⟩
  simp only [exec]
  refine ⟨fun open_ free => ⟨?_, ?_⟩, fun open_ held => ⟨?_, ?_⟩, fun asked idle busy up => ?_, fun busy scope flows => ?_,
    fun busy scope => ⟨execChannelResetComplete_frozen c fails s busy scope, fun warm main flows => ?_⟩,
    fun up here => ⟨fun run all => ?_, fun run some_ => ?_, fun rec_ => ?_⟩,
    fun busy => ⟨execEmbankmentResetComplete_frozen c s busy, execEmbankmentResetComplete_ends c s busy⟩,
    execBondCtlLoss_counts c p j sig copy s, execSequencerTimeout_faults c j s, fun open_ => ⟨?_, ?_⟩⟩
  · obtain ⟨t, runs, b, slice⟩ := execChResetPumpDie_begins c p s open_ free
    exact ⟨t, runs, begins 1 t b, slice⟩
  · obtain ⟨t, runs, b, rest⟩ := execChResetChannel_begins c p retain s open_ free
    exact ⟨t, runs, begins 2 t b, rest⟩
  · simp [execChResetPumpDie, open_, State.chReset, held, h, onlyIf]
  · simp [execChResetChannel, open_, State.chReset, held, h, onlyIf]
  · obtain ⟨t, runs, b⟩ := execDeferredReset_begins c p k s asked idle busy up
    exact ⟨t, runs, begins k t b, b.wanted⟩
  · obtain ⟨t, runs, r, oos, repairs⟩ := execPumpDieResetComplete_ends c fails s busy scope flows
    exact ⟨t, runs, readies t r, oos, fun pd i => ⟨(repairs pd i).lane, (repairs pd i).bond, (repairs pd i).out⟩⟩
  · obtain ⟨t, runs, r⟩ := execChannelResetComplete_ends c fails s busy scope warm main flows
    exact ⟨t, runs, readies t r⟩
  · have ok : ((List.finRange 12).all fun e => (s.chan c).arbs[(egress e).val].freeze && (s.chan c).arbs[(egress e).val].drained) = true := by
      simp only [List.all_eq_true, List.mem_finRange, Bool.and_eq_true, true_implies]
      exact all
    exact ⟨s.beginEmb c, by simp only [execEmbReset, up, here, run, ok]; simp, s.beginEmb_loses c p j⟩
  · have no : ((List.finRange 12).all fun e => (s.chan c).arbs[(egress e).val].freeze && (s.chan c).arbs[(egress e).val].drained) = false := by
      simp only [← Bool.not_eq_true, List.all_eq_true, List.mem_finRange, Bool.and_eq_true, true_implies]
      exact some_
    simp only [execEmbReset, up, here, run, no]
    simp
  · simp [execEmbReset, up, here, rec_]
  · simp [execBbxRelease, open_, onlyIf]
  · simp [execBbxFreeze, open_, onlyIf]

end Sys2Proof.Machine

namespace Sys2Proof.Machine

/-! ### A module reset and a damaged combining store (R327, R402, R489)

A module reset keeps that a channel's combining store is damaged (`badStore`), as it keeps its failed lanes and adders. `FreshChan`,
which O53 and O54 name, says that every field but the lanes, the adders and the stacks is as after reset: a channel whose store is
damaged refutes both. -/

theorem State.setCaps_badStore (s : State) (c d : Chan) : ((s.setCaps c).chan d).badStore = (s.chan d).badStore := by
  unfold State.setCaps
  by_cases h : d = c
  · subst h
    rw [State.onChan_chan]
  · rw [State.onChan_chan_ne _ _ _ _ h]

theorem State.moduleReset_badStore (s : State) (auxOk resetLow : Bool) (d : Chan) :
    ((s.moduleReset auxOk resetLow).chan d).badStore = (s.chan d).badStore := by
  refine (State.each_same (fun t => (t.chan d).badStore) (fun t c => t.setCaps c) (fun t c => t.setCaps_badStore c d) _ _).trans ?_
  simp [State.chan]

/-- The reset state but for a damaged combining store in channel 0. -/
def storeDamaged : State := State.reset.onChan 0 fun h => { h with badStore := true }

theorem storeDamaged_not_fresh (auxOk resetLow : Bool) : ¬ FreshChan storeDamaged (storeDamaged.moduleReset auxOk resetLow) 0 := by
  rintro ⟨fresh, -⟩
  have kept := storeDamaged.moduleReset_badStore auxOk resetLow 0
  have damaged : (storeDamaged.chan 0).badStore = true := by
    rw [storeDamaged, State.onChan_chan]
  rw [fresh, damaged] at kept
  exact Bool.false_ne_true kept

/-- Refutes O53: the loss of the auxiliary input leaves a channel with a damaged combining store, which no reset state has. -/
theorem not_inputsAndReferences : ¬ Obligations.InputsAndReferences := by
  unfold Obligations.InputsAndReferences
  intro h
  obtain ⟨-, -, -, -, -, ⟨t, runs, -, -, -, -, -, fresh⟩, -⟩ := h 0 0 0 0 0 0 0 storeDamaged
  have at_ : t = storeDamaged.moduleReset false storeDamaged.mc.pwr.resetLow := by
    simpa only [exec, execAuxInputLoss, Host.Outcome.next.injEq] using runs.symm
  exact storeDamaged_not_fresh _ _ (at_ ▸ fresh 0)

/-- Refutes O54: a module reset by MOD_RESET_N leaves a channel with a damaged combining store, which no reset state has. -/
theorem not_startUpCommands : ¬ Obligations.StartUpCommands := by
  unfold Obligations.StartUpCommands
  intro h
  obtain ⟨-, -, -, ⟨t, runs, ⟨-, -, -, -, -, -, -, fresh⟩, -⟩, -⟩ := h 0 false false ⟨true, .gfw, 1, 0, 0, [], 0, [], true, ⟨[], 0⟩⟩ 0 storeDamaged
  have at_ : t = storeDamaged.moduleReset storeDamaged.mc.pwr.auxOk true := by
    simpa only [exec, execModResetN, Bool.false_eq_true, if_false, Host.Outcome.next.injEq] using runs.symm
  exact storeDamaged_not_fresh _ _ (at_ ▸ fresh 0)

end Sys2Proof.Machine

namespace Sys2Proof.Machine

/-! ### Management commands (R467, Table 16.11) -/

theorem State.mgmt_silent (s : State) (f : State → State) (h : s.mc.firm.started = false ∨ s.mc.inReset = true) :
    s.mgmt f = .next (s.emit .noResponse) := by
  rw [State.mgmt, if_pos]
  rcases h with h | h
  · exact .inr (by simp [h])
  · exact .inl h

theorem State.mgmt_recovery (s : State) (f : State → State) (up : s.mc.inReset = false) (run : s.mc.firm.started = true)
    (rec_ : s.mc.firm.recovery = true) : s.mgmt f = .next (s.emit .refused) := by
  simp [State.mgmt, up, run, rec_]

theorem State.mgmt_runs (s : State) (f : State → State) (up : s.mc.inReset = false) (run : s.mc.firm.started = true)
    (rec_ : s.mc.firm.recovery = false) : s.mgmt f = .next (f s) := by
  simp [State.mgmt, up, run, rec_]

/-! ### GFW that runs from RAM (R445, R447) -/

/-- What a firmware of Gnover that has begun to run leaves for good. -/
structure RunsGfw (b : Bool) (im : FwImage) (f : Firm) : Prop where
  recovery : f.recovery = false
  rev : f.runRev[0] = im.rev
  bank : f.runB[0] = b

theorem RunsGfw.congr {b : Bool} {im : FwImage} {f g : Firm} (h : RunsGfw b im f) (recovery : g.recovery = f.recovery)
    (rev : g.runRev[0] = f.runRev[0]) (bank : g.runB[0] = f.runB[0]) : RunsGfw b im g :=
  ⟨recovery.trans h.recovery, rev.trans h.rev, bank.trans h.bank⟩

/-- The choice of CSM and PBS leaves what GFW runs, and what recovery holds in RAM. -/
theorem State.chooseFw_keeps (s : State) (g : FwImage) : (s.chooseFw g).mc.firm.recovery = s.mc.firm.recovery ∧
    (s.chooseFw g).mc.firm.runRev[0] = s.mc.firm.runRev[0] ∧ (s.chooseFw g).mc.firm.runB[0] = s.mc.firm.runB[0] ∧
    (s.chooseFw g).mc.firm.ram = s.mc.firm.ram := by
  unfold State.chooseFw
  dsimp only
  split
  · split
    · simp [Firm.run, upd]
    · exact ⟨rfl, rfl, rfl, rfl⟩
  · exact ⟨rfl, rfl, rfl, rfl⟩

theorem State.powerUp_firm (s : State) : s.powerUp.mc.firm = { s.mc.firm with noMain := false } := by
  refine State.each_same (fun t => t.mc.firm) (fun t c => (if (t.chan c).pwr.phases < 18 then t.intoEff c else t.setVpump c 720).emit (.csm c))
    (fun t c => ?_) _ _
  by_cases h : (t.chan c).pwr.phases < 18
  · rw [if_pos h]
    rfl
  · rw [if_neg h]
    rfl

theorem State.runGfw_runs (s : State) (b : Bool) (im : FwImage) :
    RunsGfw b im (s.runGfw b im).mc.firm ∧ (s.runGfw b im).mc.firm.ram = s.mc.firm.ram := by
  unfold State.runGfw
  extract_lets s1
  obtain ⟨recovery, rev, bank, ram⟩ :=
    (s.onMc fun m => { m with firm := { m.firm.run 0 b im with recovery := false } }).chooseFw_keeps im
  have runs1 : RunsGfw b im s1.mc.firm := by
    refine RunsGfw.congr ⟨?_, ?_, ?_⟩ recovery rev bank
    · rfl
    · simp [Firm.run, upd]
    · simp [Firm.run, upd]
  have ram1 : s1.mc.firm.ram = s.mc.firm.ram := ram
  clear_value s1
  split
  · split
    · exact ⟨runs1, ram1⟩
    · rw [State.powerUp_firm]
      exact ⟨runs1.congr rfl rfl rfl, ram1⟩
  · exact ⟨runs1.congr rfl rfl rfl, ram1⟩

theorem execFwWrite_recovery (im : FwImage) (s : State) (up : s.mc.inReset = false) (run : s.mc.firm.started = true)
    (rec_ : s.mc.firm.recovery = true) :
    (s.fwVerifies 0 im = false → execFwWrite im s = .next (s.emit .refused)) ∧
    (s.fwVerifies 0 im = true → Answers (execFwWrite im s) fun t => t.mc.firm.ram = some im ∧ t.mc.firm.recovery = false ∧
      t.mc.firm.runRev[0] = im.rev) := by
  refine ⟨fun no => by simp [execFwWrite, rec_, up, run, no], fun yes => ?_⟩
  have runs : execFwWrite im s = .next (((s.onMc fun m => { m with firm := { m.firm with ram := some im } }).emit (.mgmtReply [])).runGfw
      false im) := by
    simp [execFwWrite, rec_, up, run, yes]
  obtain ⟨gfw, ram⟩ := ((s.onMc fun m => { m with firm := { m.firm with ram := some im } }).emit (.mgmtReply [])).runGfw_runs false im
  exact ⟨_, runs, ram, gfw.recovery, gfw.rev⟩

/-! ### Firmware banks (R442, R443) -/

/-- An image stored in the bank of its kind that is not active. -/
def State.fwStored (s : State) (im : FwImage) : State :=
  s.onMc fun m => { m with firm := { m.firm with
    banks := upd m.firm.banks (fwIx im.kind) fun v =>
      if m.firm.activeB[(fwIx im.kind).val] then v.set 0 { image := some im, valid := s.fwVerifies (fwIx im.kind) im }
      else v.set 1 { image := some im, valid := s.fwVerifies (fwIx im.kind) im } } }

/-- The banks of a kind once an image has gone to the one that is not active. -/
theorem execFwWrite_banks (im : FwImage) (s : State) (up : s.mc.inReset = false) (run : s.mc.firm.started = true)
    (rec_ : s.mc.firm.recovery = false) : Answers (execFwWrite im s) fun t =>
      OnlyMc s { t with outputs := s.outputs } ∧ t.mc.firm.activeB = s.mc.firm.activeB ∧
        t.mc.firm.bankImage (fwIx im.kind) (!s.mc.firm.activeB[(fwIx im.kind).val]) = some im ∧
        t.mc.firm.bankImage (fwIx im.kind) s.mc.firm.activeB[(fwIx im.kind).val] =
          s.mc.firm.bankImage (fwIx im.kind) s.mc.firm.activeB[(fwIx im.kind).val] := by
  refine ⟨(s.fwStored im).emit (.mgmtReply []), ?_, rfl, rfl, ?_, ?_⟩
  · rw [execFwWrite, if_neg (by simp [rec_]), s.mgmt_runs _ up run rec_]
    rfl
  · cases h : s.mc.firm.activeB[(fwIx im.kind).val] <;> simp [Firm.bankImage, upd, h, State.emit, State.onMc, State.fwStored]
  · cases h : s.mc.firm.activeB[(fwIx im.kind).val] <;> simp [Firm.bankImage, upd, h, State.emit, State.onMc, State.fwStored]

/-- A command that its check accepts has its effect and an empty reply. -/
theorem State.accepted_yes (s : State) (f : State → State) {ok : Bool} (h : ok = true) :
    s.accepted ok f = (f s).emit (.mgmtReply []) := by simp [State.accepted, h]

theorem State.accepted_no (s : State) (f : State → State) {ok : Bool} (h : ok = false) : s.accepted ok f = s.emit .refused := by
  simp [State.accepted, h]

/-- Settles O55. -/
theorem firmwareAndSecurity : Obligations.FirmwareAndSecurity := by
  unfold Obligations.FirmwareAndSecurity
  intro c copy im kind b slot hash v policy nonce auth at_ l s f u refused revoked
  simp only [exec]
  refine ⟨fun off => ⟨s.mgmt_silent _ off, ?_⟩, fun up run rec_ => ⟨s.mgmt_recovery _ up run rec_, s.mgmt_recovery _ up run rec_,
    s.mgmt_recovery _ up run rec_, s.mgmt_recovery _ up run rec_, execFwWrite_recovery im s up run rec_⟩, fun up run rec_ => ?_,
    fun some_ => ?_, fun none_ => ?_⟩
  · have no : ¬(s.mc.firm.recovery = true ∧ (!s.mc.inReset) = true ∧ s.mc.firm.started = true) := by
      rintro ⟨-, a, b⟩
      rcases off with h | h
      · exact absurd (h.symm.trans b) (by decide)
      · simp [h] at a
    rw [execFwWrite, if_neg no]
    exact s.mgmt_silent _ off
  · refine ⟨execFwWrite_banks im s up run rec_, fun no => ?_, fun yes => ?_, ?_, fun some_ => ?_, fun none_ ok => ?_, fun last => ?_,
      fun rest ok => ?_, s.mgmt_runs _ up run rec_, fun copy_ => ?_, fun none_ => ?_, ?_, fun asked soon ok => ?_, fun late => ?_, ?_, ?_,
      s.mgmt_runs _ up run rec_⟩
    · rw [execFwActivate, s.mgmt_runs _ up run rec_, State.accepted_no _ _ no]
    · exact ⟨_, (s.mgmt_runs _ up run rec_).trans (congrArg _ (State.accepted_yes _ _ yes)), rfl⟩
    · refine ⟨_, (s.mgmt_runs _ up run rec_).trans (congrArg _ (State.accepted_yes _ _ rfl)), fun k => ?_⟩
      simp [State.emit, State.onMc, u, f]
    · rw [execRootAdd, s.mgmt_runs _ up run rec_, State.accepted_no]
      rw [Bool.and_eq_false_iff]
      exact .inl (Option.isNone_eq_false_iff.mpr (Option.isSome_iff_ne_none.mpr some_))
    · refine ⟨_, (s.mgmt_runs _ up run rec_).trans (congrArg _ (State.accepted_yes _ _ ?_)), rfl⟩
      rw [Bool.and_eq_true]
      exact ⟨Option.isNone_iff_eq_none.mpr none_, ok⟩
    · rw [execRootRevoke, s.mgmt_runs _ up run rec_, State.accepted_no]
      rw [Bool.and_eq_false_iff]
      exact .inl (congrArg (fun l => !l.isEmpty) last)
    · refine ⟨_, (s.mgmt_runs _ up run rec_).trans (congrArg _ (State.accepted_yes _ _ ?_)), rfl⟩
      rw [Bool.and_eq_true]
      have some_ : (!revoked.roots.isEmpty) = true := by simpa using rest
      exact ⟨some_, ok⟩
    · rw [execBbxRead, s.mgmt_runs _ up run rec_]
      simp [show (s.mc.firm.flash[c.val])[copy.val]? = some l from copy_]
    · rw [execBbxRead, s.mgmt_runs _ up run rec_]
      simp [show (s.mc.firm.flash[c.val])[copy.val]? = none from none_, refused]
    · exact ⟨_, s.mgmt_runs _ up run rec_, Config.challenge s.freeCtr, rfl, rfl⟩
    · refine ⟨_, (s.mgmt_runs _ up run rec_).trans (congrArg _ (State.accepted_yes _ _ ?_)), rfl, rfl, rfl⟩
      simp only [show s.mc.firm.challenge = some (v, at_) from asked, Bool.and_eq_true, decide_eq_true_eq]
      exact ⟨soon, ok⟩
    · refine ⟨_, (s.mgmt_runs _ up run rec_).trans (congrArg _ (State.accepted_no _ _ ?_)), rfl, rfl, rfl⟩
      rcases late with h | ⟨h, past⟩
      · simp [show s.mc.firm.challenge = none from h]
      · simp only [show s.mc.firm.challenge = some (v, at_) from h, Bool.and_eq_false_iff, decide_eq_false_iff_not]
        exact .inl (by omega)
    · exact ⟨_, (s.mgmt_runs _ up run rec_).trans (congrArg _ (State.accepted_yes _ _ rfl)), rfl⟩
    · exact ⟨_, (s.mgmt_runs _ up run rec_).trans (congrArg _ (State.accepted_yes _ _ rfl)), rfl⟩
  · have runs : execDebugChallengeExpiry s = .next ((s.until (at_ + 60000000000)).onMc fun m =>
        { m with firm := { m.firm with challenge := none } }) := by
      rw [execDebugChallengeExpiry, show s.mc.firm.challenge = some (v, at_) from some_]
    exact ⟨_, runs, rfl, rfl⟩
  · rw [execDebugChallengeExpiry, show s.mc.firm.challenge = none from none_]

end Sys2Proof.Machine

namespace Sys2Proof.Machine

/-! ### Register addresses (R469, Tables 17.1, 17.2) -/

/-- The paths whose addresses are the register numbers: the management bus, and BAR0 of the PF. -/
def pfPath (mgmt : Bool) : RegPath := if mgmt then .mgmt else .fn 0

theorem regNum_pf (mgmt : Bool) (a : Nat) : regNum (pfPath mgmt) a = a := by
  cases mgmt <;> simp [pfPath, regNum]

/-- The address of a channel register in BAR0 of the PF. -/
def chAddr (c : Chan) (off : Nat) : Nat := 0x2000000 + 0x400000 * c.val + off

theorem chAddr_lt (c : Chan) (off : Nat) (h : off < 0x400000) : chAddr c off < 0x4000000 := by
  have := c.isLt
  unfold chAddr
  omega

theorem chAddr_toNat (c : Chan) (off : Nat) (h : off < 0x400000) : (BitVec.ofNat 26 (chAddr c off)).toNat = chAddr c off := by
  have := chAddr_lt c off h
  rw [BitVec.toNat_ofNat, Nat.mod_eq_of_lt (by omega)]

theorem chAddr_offset (c : Chan) (off : Nat) (h : off < 0x400000) : chAddr c off % 0x400000 = off := by
  unfold chAddr
  omega

/-- The channel that a register address of its window names. -/
theorem chAddr_chan (c : Chan) (off : Nat) (h : off < 0x400000) (lt : (chAddr c off - 0x2000000) / 0x400000 < 8) :
    (⟨(chAddr c off - 0x2000000) / 0x400000, lt⟩ : Chan) = c := by
  apply Fin.ext
  show (chAddr c off - 0x2000000) / 0x400000 = c.val
  unfold chAddr
  omega

theorem admOf_none (a : Nat) (h : a < barSize) (out : a < 0x1000 ∨ 0x1020 ≤ a) : admOf a = none := by
  have zero : a / barSize = 0 := Nat.div_eq_of_lt h
  simp only [admOf, zero, admBase, if_true]
  rw [if_neg (by omega)]

theorem State.writeWord_chan (s : State) (mgmt : Bool) (c : Chan) (off : Nat) (v : BitVec 32) (h : off < 0x400000)
    (open_ : s.windowOpen c = true) : s.writeWord mgmt (chAddr c off) v = s.writeChWord c off v := by
  have lt := chAddr_lt c off h
  have ge : 0x2000000 ≤ chAddr c off := by
    unfold chAddr
    omega
  rw [State.writeWord, admOf_none _ (by unfold barSize; omega) (by omega)]
  dsimp only
  rw [if_neg (by omega), dif_pos ⟨ge, lt⟩]
  simp only [chAddr_chan c off h, chAddr_offset c off h, open_, if_true]

theorem State.regAt_chan (s : State) (c : Chan) (off : Nat) (h : off < 0x400000) (open_ : s.windowOpen c = true) :
    s.regAt (chAddr c off) = (s.chReg c off).map fun r => r.shift (chAddr c 0) := by
  have lt := chAddr_lt c off h
  have ge : 0x2000000 ≤ chAddr c off := by
    unfold chAddr
    omega
  rw [State.regAt, if_neg (by unfold barSize; omega), if_neg (by omega), dif_pos ⟨ge, lt⟩]
  have base : 0x2000000 + 0x400000 * ((chAddr c off - 0x2000000) / 0x400000) = chAddr c 0 := by
    unfold chAddr
    omega
  simp only [chAddr_chan c off h, chAddr_offset c off h, open_, if_true, base]

/-! ### Accesses (R470-R473) -/

theorem execRegisterWrite_word (mgmt : Bool) (a : BitVec 26) (v : BitVec 64) (s : State) (reach : s.reached (pfPath mgmt) = true)
    (al : alignedTo a.toNat false = true) :
    execRegisterWrite (pfPath mgmt) a false v s = .next (s.writeWord (pfPath mgmt == .mgmt) a.toNat (v.setWidth 32)) := by
  simp [execRegisterWrite, reach, al, regNum_pf]

theorem execRegisterRead_word (mgmt : Bool) (a : BitVec 26) (s : State) (reach : s.reached (pfPath mgmt) = true)
    (al : alignedTo a.toNat false = true) :
    execRegisterRead (pfPath mgmt) a false s = .next ((s.readWord a.toNat).1.emit (.readData ((s.readWord a.toNat).2.setWidth 64))) := by
  simp [execRegisterRead, reach, al, regNum_pf]

/-- A register of one word is read as it stands. -/
theorem State.readWord_single (s : State) (a base v : Nat) (h : s.regAt a = some ⟨base, 1, v⟩) (at_ : a = base) :
    s.readWord a = (s, BitVec.ofNat 32 v) := by
  subst at_
  simp [State.readWord, h]

theorem State.blockWrite_open (s : State) (c : Chan) (f : State → State) (open_ : s.windowOpen c = true)
    (idle : (s.chan c).st.busy = false) : s.blockWrite c f = f s := by
  simp [State.blockWrite, open_, idle]

theorem State.writeChWord_open (s : State) (c : Chan) (off : Nat) (v : BitVec 32) (open_ : s.windowOpen c = true)
    (idle : (s.chan c).st.busy = false) : s.writeChWord c off v = s.writeOpenWord c off v := by
  unfold State.writeChWord
  split
  · exact s.blockWrite_open c _ open_ idle
  · rfl

theorem State.writeOpenWord_start (s : State) (c : Chan) (v : BitVec 32) (open_ : s.windowOpen c = true)
    (idle : (s.chan c).st.busy = false) : s.writeOpenWord c 0x020C14 v = s.onCis c fun x => { x with start := v } := by
  have plain : s.writeOpenWord c 0x020C14 v = s.blockWrite c fun t => t.onCis c fun x => { x with start := v } := rfl
  rw [plain, s.blockWrite_open c _ open_ idle]

theorem State.writeOpenWord_wrDrop (s : State) (c : Chan) (v : BitVec 32) :
    s.writeOpenWord c 0x000008 v = s.onSt c fun x => { x with wrDrop := w1c x.wrDrop (v.getLsbD 3) } := rfl

/-- The value of PWR_CFG. -/
def Power.cfg (p : Power) : Nat :=
  p.guard % 64 + 64 * bit p.guardErr + 128 * bit p.phaseLost + 256 * bit p.droopEmerg + 512 * bit p.railFault + 65536 * (p.emergCount % 65536)

theorem bit_lt (b : Bool) : bit b < 2 := by
  cases b <;> decide

theorem Power.cfg_lt (p : Power) : p.cfg < 2 ^ 32 := by
  have := bit_lt p.guardErr
  have := bit_lt p.phaseLost
  have := bit_lt p.droopEmerg
  have := bit_lt p.railFault
  unfold Power.cfg
  omega

/-- A field of a register at its place. -/
def fieldAt (lo width v : Nat) : Nat := v % 2 ^ width * 2 ^ lo

theorem packFrom_cons (acc lo width v : Nat) (fs : List (Nat × Nat × Nat)) :
    ((lo, width, v) :: fs).foldl (fun acc f => acc + f.2.2 % 2 ^ f.2.1 * 2 ^ f.1) acc =
      fs.foldl (fun acc f => acc + f.2.2 % 2 ^ f.2.1 * 2 ^ f.1) (acc + fieldAt lo width v) := rfl

theorem fieldAt_bit (lo : Nat) (b : Bool) : fieldAt lo 1 (bit b) = bit b * 2 ^ lo := by
  rw [fieldAt, Nat.mod_eq_of_lt (show bit b < 2 ^ 1 from bit_lt b)]

theorem Power.cfg_pack (p : Power) : packReg [(0, 6, p.guard), (6, 1, bit p.guardErr), (7, 1, bit p.phaseLost), (8, 1, bit p.droopEmerg),
    (9, 1, bit p.railFault), (16, 16, p.emergCount)] = p.cfg := by
  rw [packReg, packFrom_cons, packFrom_cons, packFrom_cons, packFrom_cons, packFrom_cons, packFrom_cons, List.foldl_nil, fieldAt_bit,
    fieldAt_bit, fieldAt_bit, fieldAt_bit, fieldAt, fieldAt, Power.cfg]
  omega

/-- Where the registers of a row stand: base, distance, number, words. -/
abbrev RegRow.shape (r : RegRow) : Nat × Nat × Nat × Nat := (r.base, r.stride, r.count, r.words)

/-- Whether a row of a shape holds no register at an offset. -/
def shapeMisses (off : Nat) (r : Nat × Nat × Nat × Nat) : Bool :=
  !(decide (r.1 ≤ off) && decide ((off - r.1) / r.2.1 < r.2.2.1) && decide ((off - r.1) % r.2.1 < 4 * r.2.2.2))

theorem RegRow.hit_of_misses (off : Nat) (r : RegRow) (h : shapeMisses off r.shape = true) : r.hit off = none := by
  unfold RegRow.hit
  rw [if_neg]
  rintro ⟨a, b, c⟩
  simp [shapeMisses, a, b, c] at h

/-- The register at an offset is that of the first row that holds it. -/
theorem rows_hit (l : List RegRow) (k off : Nat) (r : RegRow) (x : RegAt)
    (before : ((l.map RegRow.shape).take k).all (shapeMisses off) = true) (at_ : l[k]? = some r) (h : r.hit off = some x) :
    (l.findSome? fun r => r.hit off) = some x := by
  induction l generalizing k with
  | nil => simp at at_
  | cons y l ih =>
    cases k with
    | zero =>
      obtain rfl : y = r := by simpa using at_
      simp [h]
    | succ k =>
      simp only [List.map_cons, List.take_succ_cons, List.all_cons, Bool.and_eq_true] at before
      simp only [List.findSome?_cons, y.hit_of_misses off before.1]
      exact ih k before.2 (by simpa using at_)

/-- The places of a channel's registers do not depend on the state. -/
theorem State.chShapes (s : State) (c : Chan) : (s.rowsC c ++ (s.chan c).rowsA ++ s.rowsB c).map RegRow.shape =
    (State.reset.rowsC 0 ++ (State.reset.chan 0).rowsA ++ State.reset.rowsB 0).map RegRow.shape := by
  simp only [State.rowsC, Channel.rowsA, State.rowsB, reg1, regF, RegRow.shape, List.map_cons, List.map_nil, List.map_append]

theorem reg1_hit (base v : Nat) : (reg1 base 1 v).hit base = some ⟨base, 1, v⟩ := by
  simp [RegRow.hit, reg1]

theorem State.rows_pwrCfg (s : State) (c : Chan) : (s.rowsC c ++ (s.chan c).rowsA ++ s.rowsB c)[32]? = some (reg1 0x060018 1
    (packReg [(0, 6, (s.chan c).pwr.guard), (6, 1, bit (s.chan c).pwr.guardErr), (7, 1, bit (s.chan c).pwr.phaseLost),
      (8, 1, bit (s.chan c).pwr.droopEmerg), (9, 1, bit (s.chan c).pwr.railFault), (16, 16, (s.chan c).pwr.emergCount)])) := rfl

theorem State.rows_before_pwrCfg (s : State) (c : Chan) :
    (((s.rowsC c ++ (s.chan c).rowsA ++ s.rowsB c).map RegRow.shape).take 32).all (shapeMisses 0x060018) = true := by
  rw [s.chShapes c]
  decide +kernel

theorem State.chReg_pwrCfg (s : State) (c : Chan) : s.chReg c 0x060018 = some ⟨0x060018, 1, (s.chan c).pwr.cfg⟩ := by
  have found := rows_hit _ 32 0x060018 _ _ (s.rows_before_pwrCfg c) (s.rows_pwrCfg c) (reg1_hit _ _)
  rw [Power.cfg_pack] at found
  unfold State.chReg
  rw [dif_neg (by decide), if_neg (by decide), if_neg (by decide), dif_neg (by decide)]
  exact found

end Sys2Proof.Machine


namespace Sys2Proof.Machine

/-! ### The Gnover window -/

theorem State.regAt_serial (s : State) (a : Nat) (h : a < 8) : s.regAt a = some ⟨0, 2, s.mc.fuses.serial.toNat⟩ := by
  rw [State.regAt, if_neg (by unfold barSize; omega), if_pos (by omega)]
  have hit : (reg1 0x0000 2 s.mc.fuses.serial.toNat).hit a = some ⟨0, 2, s.mc.fuses.serial.toNat⟩ := by
    simp [RegRow.hit, reg1, h, Nat.mod_eq_of_lt h, Nat.div_eq_of_lt h]
  simp only [Gnover.rows, List.cons_append, List.findSome?_cons, hit]

/-- A 64-bit read takes both words of MC_SERIAL, the first of which captures it. -/
theorem State.readWord_serial (s : State) :
    ∃ u, s.readWord 0 = (u, BitVec.ofNat 32 s.mc.fuses.serial.toNat) ∧ u.ch = s.ch ∧ u.outputs = s.outputs ∧
      u.readWord 4 = (u, (BitVec.ofNat 256 s.mc.fuses.serial.toNat).extractLsb' 32 32) := by
  let u := s.onMc fun m => { m with host := { m.host with
    captured := (m.host.captured.filter fun e => e.1 != 0) ++ [(0, BitVec.ofNat 256 s.mc.fuses.serial.toNat)] } }
  refine ⟨u, ?_, rfl, rfl, ?_⟩
  · simp only [State.readWord, s.regAt_serial 0 (by decide), Nat.sub_self, Nat.zero_div, if_true]
    rfl
  · have none_ : (s.mc.host.captured.filter fun e => e.1 != 0).find? (fun e => e.1 == 0) = none := by
      simp [List.find?_eq_none]
    have found : u.mc.host.captured.find? (fun e : Nat × BitVec 256 => e.1 == 0) = some (0, BitVec.ofNat 256 s.mc.fuses.serial.toNat) := by
      show ((s.mc.host.captured.filter fun e : Nat × BitVec 256 => e.1 != 0) ++ [(0, BitVec.ofNat 256 s.mc.fuses.serial.toNat)]).find? (fun e : Nat × BitVec 256 => e.1 == 0) = _
      rw [List.find?_append, none_]
      simp
    simp only [State.readWord, u.regAt_serial 4 (by decide), Nat.sub_zero, Nat.reduceDiv, found]
    rfl

/-- A number of 64 bits stands in its two words. -/
theorem twoWords (x : BitVec 64) :
    (((BitVec.ofNat 256 x.toNat).extractLsb' 32 32).setWidth 64 <<< 32) ||| (BitVec.ofNat 32 x.toNat).setWidth 64 = x := by
  have wide : BitVec.ofNat 256 x.toNat = x.setWidth 256 := by
    apply BitVec.eq_of_toNat_eq
    simp
  have narrow : BitVec.ofNat 32 x.toNat = x.setWidth 32 := by
    apply BitVec.eq_of_toNat_eq
    simp
  rw [wide, narrow]
  ext i hi
  by_cases low : i < 32
  · simp [low, hi]
  · have up : 32 + (i - 32) = i := by omega
    simp only [BitVec.getElem_or, BitVec.getElem_shiftLeft, low, BitVec.getElem_setWidth, BitVec.getLsbD_extractLsb', show i - 32 < 32 by omega, up]
    simp [low, hi, show i < 256 by omega]

theorem execRegisterRead_serial (mgmt : Bool) (s : State) (reach : s.reached (pfPath mgmt) = true) :
    Answers (execRegisterRead (pfPath mgmt) 0 true s) fun t => t.outputs = s.outputs ++ [.readData s.mc.fuses.serial] ∧ t.ch = s.ch := by
  obtain ⟨u, lo, ch, outs, hi⟩ := s.readWord_serial
  have runs : execRegisterRead (pfPath mgmt) 0 true s = .next (u.emit (.readData s.mc.fuses.serial)) := by
    rw [← twoWords s.mc.fuses.serial]
    simp only [execRegisterRead, reach, regNum_pf]
    simp [alignedTo, lo, hi]
  exact ⟨_, runs, by simp [State.emit, outs], ch⟩

theorem State.regAt_present (s : State) : s.regAt 0x10 = some ⟨0x10, 1, s.mc.chanPresent⟩ := by
  rw [State.regAt, if_neg (by unfold barSize; omega), if_pos (by omega)]
  have second : s.mc.rows[1]? = some (reg1 0x0010 1 s.mc.chanPresent) := rfl
  refine rows_hit _ 1 0x10 _ _ ?_ second (reg1_hit _ _)
  show [(0, 8, 1, 2)].all (shapeMisses 0x10) = true
  decide

theorem Gnover.chanPresent_val (m : Gnover) :
    m.chanPresent = m.fuses.present.toNat + 256 * m.inService.toNat + 65536 * m.fuses.variant.toNat := by
  rw [Gnover.chanPresent, packReg, packFrom_cons, packFrom_cons, packFrom_cons, List.foldl_nil, fieldAt, fieldAt, fieldAt,
    Nat.mod_eq_of_lt m.fuses.present.isLt, Nat.mod_eq_of_lt m.inService.isLt, Nat.mod_eq_of_lt m.fuses.variant.isLt]
  ring

theorem ofNat32_wide (n : Nat) (h : n < 2 ^ 32) : (BitVec.ofNat 32 n).setWidth 64 = BitVec.ofNat 64 n := by
  apply BitVec.eq_of_toNat_eq
  simp
  omega

theorem State.writeMcWord_pin (s : State) (mgmt : Bool) (v : BitVec 64) : s.writeMcWord mgmt 0x0200 (v.setWidth 32) = s.onMc fun m => { m with
    fab := { m.fab with pinId := v.extractLsb' 12 12, pinEn := v.getLsbD 24, pinConflict := m.fab.pinConflict && !v.getLsbD 25,
                        full := m.fab.full && !v.getLsbD 26 } } := by
  have id_ : (v.setWidth 32).extractLsb' 12 12 = v.extractLsb' 12 12 := by
    ext i hi
    simp [show 12 + i < 32 by omega]
  have bits : ∀ i, i < 32 → (v.setWidth 32).getLsbD i = v.getLsbD i := fun i hi => by simp [hi]
  simp only [State.writeMcWord, w1c, id_, bits 24 (by decide), bits 25 (by decide), bits 26 (by decide)]

/-! ### The admin ring registers of a VF (R353) -/

theorem admOf_vf (fn : Nat) (h : 1 ≤ fn) : admOf (barSize * fn + 0x18) = some (fn, 0x18) := by
  have div : (barSize * fn + 0x18) / barSize = fn := by
    unfold barSize
    omega
  simp only [admOf, div, admBase, if_neg (by omega : ¬ fn = 0)]
  rw [if_pos (by omega)]
  simp

theorem State.regAt_vf (s : State) (fn : Nat) (h : 1 ≤ fn) : s.regAt (barSize * fn + 0x18) =
    some ⟨barSize * fn + 0x18, 1, ((s.mc.admins.look fn).getD Admin.reset).state % 4 + 4 * bit ((s.mc.admins.look fn).getD Admin.reset).err⟩ := by
  have div : (barSize * fn + 0x18) / barSize = fn := by
    unfold barSize
    omega
  have ge : barSize ≤ barSize * fn + 0x18 := by
    unfold barSize
    omega
  rw [State.regAt, if_pos ge, div]
  have val : packReg [(0, 2, ((s.mc.admins.look fn).getD Admin.reset).state), (2, 1, bit ((s.mc.admins.look fn).getD Admin.reset).err)] =
      ((s.mc.admins.look fn).getD Admin.reset).state % 4 + 4 * bit ((s.mc.admins.look fn).getD Admin.reset).err := by
    rw [packReg, packFrom_cons, packFrom_cons, List.foldl_nil, fieldAt_bit, fieldAt]
    omega
  have base : admBase fn = barSize * fn := by simp [admBase, show ¬ fn = 0 by omega]
  simp only [base, Gnover.adminRows, List.findSome?_cons, List.findSome?_nil, ← val]
  generalize barSize * fn = b
  have m1 : ∀ x, (regF b 2 x).hit (b + 0x18) = none := fun x => by simp [RegRow.hit, regF, reg1]
  have m2 : ∀ x, (regF (b + 8) 2 x).hit (b + 0x18) = none := fun x => by
    simp [RegRow.hit, regF, reg1, show b + 24 - (b + 8) = 16 by omega]
  have m3 : ∀ x, (reg1 (b + 0x10) 2 x).hit (b + 0x18) = none := fun x => by
    simp [RegRow.hit, reg1, show b + 24 - (b + 16) = 8 by omega]
  have m4 : ∀ x, (regF (b + 0x18) 1 x).hit (b + 0x18) = some ⟨b + 0x18, 1, packReg x⟩ := fun x => reg1_hit _ _
  simp only [m1, m2, m3, m4]

end Sys2Proof.Machine


namespace Sys2Proof.Machine

/-! ### The access commands (R470-R473) -/

theorem execRegisterWrite_unreached (via : RegPath) (a : BitVec 26) (size64 : Bool) (v : BitVec 64) (s : State) (h : s.reached via = false) :
    execRegisterWrite via a size64 v s = .next s := by
  simp [execRegisterWrite, h]

theorem execRegisterWrite_unaligned (via : RegPath) (a : BitVec 26) (size64 : Bool) (v : BitVec 64) (s : State)
    (al : alignedTo a.toNat size64 = false) : execRegisterWrite via a size64 v s = .next s := by
  simp [execRegisterWrite, al]

theorem execRegisterRead_unaligned (via : RegPath) (a : BitVec 26) (size64 : Bool) (s : State) (reach : s.reached via = true)
    (al : alignedTo a.toNat size64 = false) :
    execRegisterRead via a size64 s = .next (s.emit (.readData (if size64 then 0xFFFFFFFFFFFFFFFF else 0xFFFFFFFF))) := by
  simp [execRegisterRead, reach, al]

theorem execRegisterRead_none (mgmt : Bool) (a : BitVec 26) (s : State) (reach : s.reached (pfPath mgmt) = true)
    (al : alignedTo a.toNat false = true) (none_ : s.regAt a.toNat = none) :
    execRegisterRead (pfPath mgmt) a false s = .next (s.emit (.readData 0xFFFFFFFF)) := by
  rw [execRegisterRead_word mgmt a s reach al, State.readWord, none_]
  rfl

theorem chAddr_aligned (c : Chan) (off : Nat) (h : off < 0x400000) (al : off % 4 = 0) :
    alignedTo (BitVec.ofNat 26 (chAddr c off)).toNat false = true := by
  rw [chAddr_toNat c off h]
  simp only [alignedTo, Bool.false_eq_true, if_false, beq_iff_eq]
  unfold chAddr
  omega

/-- A write of a word of a channel's window. -/
theorem execRegisterWrite_chan (mgmt : Bool) (c : Chan) (off : Nat) (v : BitVec 64) (s : State) (reach : s.reached (pfPath mgmt) = true)
    (h : off < 0x400000) (al : off % 4 = 0) (open_ : s.windowOpen c = true) (idle : (s.chan c).st.busy = false) :
    execRegisterWrite (pfPath mgmt) (BitVec.ofNat 26 (chAddr c off)) false v s = .next (s.writeOpenWord c off (v.setWidth 32)) := by
  rw [execRegisterWrite_word mgmt _ v s reach (chAddr_aligned c off h al), chAddr_toNat c off h, s.writeWord_chan _ c off _ h open_,
    s.writeChWord_open c off _ open_ idle]

theorem execRegisterRead_pwrCfg (mgmt : Bool) (c : Chan) (s : State) (reach : s.reached (pfPath mgmt) = true)
    (open_ : s.windowOpen c = true) : execRegisterRead (pfPath mgmt) (BitVec.ofNat 26 (chAddr c 0x060018)) false s =
      .next (s.emit (.readData (BitVec.ofNat 64 (s.chan c).pwr.cfg))) := by
  have at_ : s.regAt (chAddr c 0x060018) = some ⟨chAddr c 0x060018, 1, (s.chan c).pwr.cfg⟩ := by
    have base : 0x060018 + chAddr c 0 = chAddr c 0x060018 := by
      unfold chAddr
      omega
    rw [s.regAt_chan c _ (by decide) open_, s.chReg_pwrCfg, Option.map_some, RegAt.shift, base]
  rw [execRegisterRead_word mgmt _ s reach (chAddr_aligned c _ (by decide) (by decide)), chAddr_toNat c _ (by decide),
    s.readWord_single _ _ _ at_ rfl, ofNat32_wide _ (Power.cfg_lt _)]

theorem execRegisterRead_present (mgmt : Bool) (s : State) (reach : s.reached (pfPath mgmt) = true) :
    execRegisterRead (pfPath mgmt) 0x10 false s = .next (s.emit (.readData (BitVec.ofNat 64
      (s.mc.fuses.present.toNat + 256 * s.mc.inService.toNat + 65536 * s.mc.fuses.variant.toNat)))) := by
  have := s.mc.fuses.present.isLt
  have := s.mc.inService.isLt
  have := s.mc.fuses.variant.isLt
  rw [execRegisterRead_word mgmt _ s reach (by decide), show (0x10 : BitVec 26).toNat = 0x10 from rfl,
    s.readWord_single _ _ _ s.regAt_present rfl, ofNat32_wide _ (by rw [Gnover.chanPresent_val]; omega), Gnover.chanPresent_val]

theorem execRegisterWrite_serial (mgmt : Bool) (v : BitVec 64) (s : State) (reach : s.reached (pfPath mgmt) = true) :
    execRegisterWrite (pfPath mgmt) 0 false v s = .next s := by
  rw [execRegisterWrite_word mgmt _ v s reach (by decide), show (0 : BitVec 26).toNat = 0 from rfl, State.writeWord,
    admOf_none 0 (by decide) (by decide)]
  rfl

theorem execRegisterWrite_pin (mgmt : Bool) (v : BitVec 64) (s : State) (reach : s.reached (pfPath mgmt) = true) :
    execRegisterWrite (pfPath mgmt) 0x200 false v s = .next (s.onMc fun m => { m with
      fab := { m.fab with pinId := v.extractLsb' 12 12, pinEn := v.getLsbD 24, pinConflict := m.fab.pinConflict && !v.getLsbD 25,
                          full := m.fab.full && !v.getLsbD 26 } }) := by
  rw [execRegisterWrite_word mgmt _ v s reach (by decide), show (0x200 : BitVec 26).toNat = 0x200 from rfl, State.writeWord,
    admOf_none 0x200 (by decide) (by decide)]
  dsimp only
  rw [if_pos (by decide), s.writeMcWord_pin]

/-! ### The admin ring of a VF (R353) -/

theorem execRegisterWrite_admStat (fn : Nat) (v : BitVec 64) (s : State) (vf : 1 ≤ fn) (reach : s.reached (.fn fn) = true) :
    execRegisterWrite (.fn fn) 0x18 false v s = .next (s.onMc fun m => { m with
      admins := m.admins.alter fn fun a => { a with err := a.err && !v.getLsbD 2 } }) := by
  have num : regNum (.fn fn) (0x18 : BitVec 26).toNat = barSize * fn + 0x18 := rfl
  have word : s.writeWord false (barSize * fn + 0x18) (v.setWidth 32) = s.onMc fun m => { m with
      admins := m.admins.alter fn fun a => { a with err := a.err && !v.getLsbD 2 } } := by
    have low : (v.setWidth 32).getLsbD 2 = v.getLsbD 2 := by simp
    rw [State.writeWord, admOf_vf fn vf, ← low]
    rfl
  simp only [execRegisterWrite, num, reach]
  simp only [show alignedTo (0x18 : BitVec 26).toNat false = true from by decide, show (RegPath.fn fn == RegPath.mgmt) = false from rfl, word]
  rfl

theorem execRegisterRead_admStat (fn : Nat) (s : State) (vf : 1 ≤ fn) (reach : s.reached (.fn fn) = true) :
    execRegisterRead (.fn fn) 0x18 false s = .next (s.emit (.readData (BitVec.ofNat 64
      (((s.mc.admins.look fn).getD Admin.reset).state % 4 + 4 * bit ((s.mc.admins.look fn).getD Admin.reset).err)))) := by
  have num : regNum (.fn fn) (0x18 : BitVec 26).toNat = barSize * fn + 0x18 := rfl
  have bit_ := bit_lt ((s.mc.admins.look fn).getD Admin.reset).err
  have small : ((s.mc.admins.look fn).getD Admin.reset).state % 4 + 4 * bit ((s.mc.admins.look fn).getD Admin.reset).err < 2 ^ 32 := by
    omega
  rw [← ofNat32_wide _ small]
  simp only [execRegisterRead, num, reach, s.readWord_single _ _ _ (s.regAt_vf fn vf) rfl]
  simp [alignedTo]

/-! ### The test port (R468) -/

theorem execExtest_closed (s : State) (off : ∀ d, (s.chan d).pwr.lk ≠ .on ∧ (s.chan d).st.embBusy = false) :
    execExtest s = .next (s.jtagTo .extest "EXTEST") := by
  have no : ((List.finRange 8).any fun c => (s.chan c).pwr.lk == .on || (s.chan c).st.embBusy) = false := by
    simp [off]
  simp only [execExtest, no]
  rfl

theorem execExtest_open (s : State) (d : Chan) (on : (s.chan d).pwr.lk = .on) : execExtest s = .next (s.jtagTo .bypass "BYPASS") := by
  have yes : ((List.finRange 8).any fun c => (s.chan c).pwr.lk == .on || (s.chan c).st.embBusy) = true := by
    rw [List.any_eq_true]
    exact ⟨d, List.mem_finRange d, by simp [on]⟩
  simp only [execExtest, yes, if_true]

/-- Settles O56. -/
theorem registersAndTestPort : Obligations.RegistersAndTestPort := by
  unfold Obligations.RegistersAndTestPort
  intro c mgmt size64 fn addr v s via at_ test
  have path : via = pfPath mgmt := rfl
  have place : ∀ off, at_ off = BitVec.ofNat 26 (chAddr c off) := fun _ => rfl
  simp only [exec, path, place]
  refine ⟨execRegisterWrite_unreached _ addr size64 v s, fun reach => ⟨fun al => ⟨execRegisterWrite_unaligned _ addr size64 v s al,
    execRegisterRead_unaligned _ addr size64 s reach al⟩, execRegisterRead_none mgmt addr s reach, execRegisterWrite_serial mgmt v s reach,
    execRegisterRead_serial mgmt s reach, execRegisterRead_present mgmt s reach, ⟨_, execRegisterWrite_pin mgmt v s reach, rfl, rfl⟩,
    fun open_ idle => ⟨?_, ?_, execRegisterRead_pwrCfg mgmt c s reach open_⟩⟩, fun vf reach => ⟨⟨_, execRegisterWrite_admStat fn v s vf reach,
    rfl, rfl⟩, execRegisterRead_admStat fn s vf reach⟩, ⟨_, rfl, rfl, rfl, rfl⟩, ⟨_, rfl, rfl, rfl, rfl⟩, ⟨_, rfl, rfl, rfl, rfl⟩,
    fun off => ⟨_, execExtest_closed s off, rfl, rfl, rfl⟩, fun ⟨d, on⟩ => ⟨_, execExtest_open s d on, rfl, rfl, rfl⟩⟩
  · rw [execRegisterWrite_chan mgmt c 0x020C14 v s reach (by decide) (by decide) open_ idle, s.writeOpenWord_start c _ open_ idle]
  · have low : (v.setWidth 32).getLsbD 3 = v.getLsbD 3 := by simp
    rw [execRegisterWrite_chan mgmt c 0x000008 v s reach (by decide) (by decide) open_ idle, State.writeOpenWord_wrDrop, low]
    rfl

end Sys2Proof.Machine

namespace Sys2Proof.Machine

/-! ### What repairs, logs and messages leave of Gnover -/

/-- Gnover without what repairs, logs, faults and messages change in it: the fabric map, the admin rings, the service word, the jobs, and
the defect list. -/
def Gnover.still (m : Gnover) : Gnover :=
  { m with fab := State.reset.mc.fab, admins := [], inService := 0, jobs := [],
           firm := { m.firm with defects := [], defFull := false } }

/-- Gnover stands as it stood, repairs, logs, faults and messages apart. -/
def Still (s t : State) : Prop := t.mc.still = s.mc.still

section
variable {s t u : State}

theorem Still.refl (s : State) : Still s s := rfl

theorem Still.trans (a : Still s t) (b : Still t u) : Still s u := Eq.trans b a

theorem Still.ite {b : Prop} [Decidable b] (ht : Still s t) (hu : Still s u) : Still s (if b then t else u) := by
  split
  · exact ht
  · exact hu

theorem Still.each {α : Type} (f : State → α → State) (h : ∀ t a, Still t (f t a)) (l : List α) (s : State) : Still s (s.each l f) :=
  State.each_invariant (Still s) f (fun t a ht => ht.trans (h t a)) l s (Still.refl s)

theorem Still.foldl {α β : Type} (f : State × β → α → State × β) (h : ∀ x a, Still x.1 (f x a).1) (l : List α) :
    ∀ x : State × β, Still x.1 (l.foldl f x).1 := by
  induction l with
  | nil => exact fun x => Still.refl x.1
  | cons a l ih => exact fun x => (h x a).trans (ih (f x a))

theorem Still.onChan (s : State) (c : Chan) (f : Channel → Channel) : Still s (s.onChan c f) := rfl

theorem Still.onMc (s : State) (f : Gnover → Gnover) (h : ∀ m, (f m).still = m.still) : Still s (s.onMc f) := h s.mc

theorem Minor.still (h : Minor s t) : Still s t := by
  have core := h.of_mc Gnover.still
  exact core

theorem Still.testing (h : Still s t) : t.mc.firm.testing = s.mc.firm.testing := by
  have same : t.mc.still.firm.testing = s.mc.still.firm.testing := by rw [h]
  exact same

theorem Still.selftest (h : Still s t) : t.mc.firm.selftest = s.mc.firm.selftest := by
  have same : t.mc.still.firm.selftest = s.mc.still.firm.selftest := by rw [h]
  exact same

theorem Still.fst {γ : Type} {x : State × γ} {b : γ} (h : Still s x.1) (e : x = (t, b)) : Still s t := by
  rw [e] at h
  exact h

end

/-! #### Logs and granules -/

theorem State.addDefect_still (s : State) (c : Chan) (k : DefectKind) (src unit loc : Nat) : Still s (s.addDefect c k src unit loc) := by
  unfold State.addDefect Firm.compact
  refine Still.ite (Still.refl s) ?_
  dsimp only
  split
  · split <;> rfl
  · split <;> rfl

theorem State.leave_still (s : State) (c : Chan) (r : Nat) : Still s (s.leave c r) := by
  refine Still.trans ?_ (s.leave_minor c r).still
  unfold State.left State.domainsOff
  exact rfl

theorem State.pinCheck_still (s : State) (c : Chan) (source unit : Nat) : Still s (s.pinCheck c source unit) := by
  unfold State.pinCheck
  dsimp only
  split
  · exact (Still.onChan s c _).trans (State.mapUpdate_minor _ c _).still
  · exact Still.refl s

theorem State.logCe_still (s : State) (c : Chan) (source unit addr sym : Nat) (wrote : Bool) :
    Still s (s.logCe c source unit addr sym wrote) := by
  unfold State.logCe
  extract_lets h same fresh log oldest log' counts t hard u
  have ht : Still s u := (Still.onChan s c _).trans (State.pinCheck_still _ c source unit)
  refine Still.ite ?_ ht
  split
  · exact ht.trans (u.addDefect_still c _ _ _ _)
  · exact ht.trans (u.addDefect_still c _ _ _ _)
  · exact ht

theorem State.logUe_still (s : State) (c : Chan) (source unit addr : Nat) (owned : Bool) : Still s (s.logUe c source unit addr owned) :=
  (Still.onChan s c _).trans (State.pinCheck_still _ c source unit)

theorem State.raise_still (s : State) (c : Chan) (port : ArbPort) (cls : ReqClass) (who : Nat) (slot : Option SlotIx) (n : Nat) :
    Still s (s.raise c port cls who slot n) := by
  refine Still.each _ (fun t _ => ?_) _ s
  unfold State.raiseOne
  split
  · exact (Still.onChan t c _).trans (Still.onChan _ c _)
  · exact Still.onChan t c _

theorem State.dataUe_still (s : State) (c : Chan) (source k : Nat) : Still s (s.dataUe c source k) := by
  unfold State.dataUe
  dsimp only
  split
  · exact ((State.logUe_still s c _ _ _ _).trans (State.event_minor _ c _ _ _ _).still).trans (State.fault_minor _ c _ _ _ _ _).still
  · exact State.logUe_still s c _ _ _ _

theorem State.checked_still (s : State) (c : Chan) (k : Nat) (v : Granule) (e : CodeWord) : Still s (s.checked c k v e).1 := by
  unfold State.checked
  split
  · exact Still.refl s
  · next i x _ =>
    have stored := (s.logCe_still c (keySource k) (s.unitOf c k).1 (s.unitOf c k).2 i true).trans
      (Still.onChan _ c fun h => h.store k (v ^^^ (e ^^^ oneSymbol i x).setWidth 256))
    exact Still.ite stored (stored.trans (State.raise_still _ c _ _ _ _ _))
  · exact s.dataUe_still c _ k

theorem State.ueFound_still (s : State) (c : Chan) (k : Nat) : Still s (s.ueFound c k) := by
  unfold State.ueFound
  dsimp only
  split
  · exact (State.logUe_still s c _ _ _ _).trans (Still.onChan _ c _)
  · exact State.logUe_still s c _ _ _ _

theorem State.scrubKey_still (s : State) (c : Chan) (k : Nat) (wb : Bool) : Still s (s.scrubKey c k wb).1 := by
  unfold State.scrubKey
  extract_lets h invalid
  split
  · exact Still.refl s
  · split
    · exact Still.refl s
    · split
      · exact s.checked_still c k _ _
      · exact s.logCe_still c _ _ _ _ _
    · exact s.ueFound_still c k

/-! #### Repairs -/

theorem State.moveEntries_still (s : State) (pick : Defect → Bool) (st : BitVec 8) : Still s (s.moveEntries pick st) := by
  unfold State.moveEntries
  exact Still.onMc s _ fun _ => by rfl

theorem State.settleOne_still (s : State) (d : Defect) (st : BitVec 8) : Still s (s.settleOne d st) := s.moveEntries_still _ st

theorem State.widen_still (s : State) (c : Chan) (d : Defect) (k : DefectKind) (unit loc : Nat) : Still s (s.widen c d k unit loc) :=
  (s.settleOne_still d 2).trans (State.addDefect_still _ c k _ unit loc)

theorem State.losePump_still (s : State) (c : Chan) (phys : Nat) : Still s (s.losePump c phys) := by
  unfold State.losePump
  refine Still.ite (Still.trans ?_ (Still.onChan _ c _)) (Still.refl s)
  split
  · exact (Still.onChan s c _).trans (Still.onChan _ c _)
  · exact Still.refl s

theorem State.onRepair_still (s : State) (c : Chan) (phys : Nat) (f : PumpRepair → PumpRepair) : Still s (s.onRepair c phys f) := by
  unfold State.onRepair
  split <;> exact Still.onChan s c _

theorem State.applyLane_still (s : State) (c : Chan) (d : Defect) : Still s (s.applyLane c d) :=
  Still.ite (s.widen_still c d _ _ _) ((s.settleOne_still d 1).trans (State.onRepair_still _ c _ _))

theorem State.applyBond_still (s : State) (c : Chan) (d : Defect) : Still s (s.applyBond c d) :=
  Still.ite (s.widen_still c d _ _ _) ((s.settleOne_still d 1).trans (State.onRepair_still _ c _ _))

theorem State.applyPumps_still (s : State) (c : Chan) : Still s (s.applyPumps c) :=
  ((((Still.each _ (fun t d => t.applyLane_still c d) _ s).trans (Still.each _ (fun t d => t.applyBond_still c d) _ _)).trans
    (Still.each _ (fun t d => (t.settleOne_still d 1).trans (State.losePump_still _ c _)) _ _)).trans
      (Still.each _ (fun t n => t.losePump_still c n) _ _)).trans (Still.onChan _ c _)

theorem State.spareTest_still (s old : State) (c : Chan) (fails : BitVec 16) : Still s (s.spareTest old c fails) :=
  Still.each _ (fun t _ => Still.onChan t c _) _ s

theorem State.applySpare_still (s : State) (c : Chan) (k : DefectKind) (bank : Nat → Nat) (spares : Nat) (d : Defect) :
    Still s (s.applySpare c k bank spares d) := Still.ite (s.settleOne_still d 1) (s.widen_still c d _ _ _)

theorem State.applyCistern_still (s : State) (c : Chan) : Still s (s.applyCistern c) :=
  ((Still.each _ (fun t d => t.applySpare_still c _ _ _ d) _ s).trans (Still.each _ (fun t d => t.applySpare_still c _ _ _ d) _ _)).trans
    (Still.each _ (fun t d => (t.settleOne_still d 1).trans (State.losePump_still _ c _)) _ _)

theorem State.applyPin_still (s : State) (c : Chan) (st : StackIx) : Still s (s.applyPin c st) :=
  Still.ite ((Still.onChan s c _).trans (Still.each _ (fun t _ => t.addDefect_still c _ _ _ _) _ _)) (Still.refl s)

theorem State.applyHbmRow_still (s : State) (c : Chan) (d : Defect) : Still s (s.applyHbmRow c d) :=
  Still.ite (s.settleOne_still d 1) (s.widen_still c d _ _ _)

theorem State.applyBank_still (s : State) (c : Chan) (d : Defect) : Still s (s.applyBank c d) :=
  Still.ite ((Still.onMc s _ fun _ => by rfl).trans (State.addDefect_still _ c _ _ _ _))
    (Still.ite (s.settleOne_still d 2) (Still.ite (s.settleOne_still d 1) (Still.refl s)))

theorem State.applyLayer_still (s : State) (c : Chan) (d : Defect) : Still s (s.applyLayer c d) :=
  Still.ite (s.settleOne_still d 1) (s.leave_still c 8)

theorem State.applyHbm_still (s : State) (c : Chan) : Still s (s.applyHbm c).1 := by
  unfold State.applyHbm
  extract_lets pins s1 s2 s3 s4 outs gone
  have m1 : Still s s1 := Still.each _ (fun t st => t.applyPin_still c st) _ s
  have m2 : Still s1 s2 := Still.each _ (fun t d => t.applyHbmRow_still c d) _ s1
  have m3 : Still s2 s3 := Still.each _ (fun t d => Still.ite (t.applyBank_still c d) (Still.refl t)) _ s2
  have m4 : Still s3 s4 := (Still.each (fun t d => t.applyLayer c d) (fun t d => t.applyLayer_still c d) _ s3).trans (Still.onChan _ c _)
  have all := ((m1.trans m2).trans m3).trans m4
  clear_value s4
  split
  · exact all
  · exact all

theorem State.buddyLost_still (s : State) (c : Chan) (j : SlotIx) : Still s (s.buddyLost c j) := by
  unfold State.buddyLost
  extract_lets x s1
  refine Still.ite ?_ (Still.refl s)
  have asked : ∀ u : State, Still u (u.askCkpt x.job.ctx x.job.job) := fun u => Still.each _ (fun t _ => Still.onChan t _ _) _ u
  have told : Still s1 ((s1.onSlot c j fun y => { y with buddySlots := [] }).onJob x.job.ctx x.job.job fun jb => { jb with ckpts := [] }) :=
    rfl
  exact ((s.event_minor c _ _ _ _).still.trans told).trans (asked _)

theorem State.buddiesLost_still (s : State) (c : Chan) : Still s (s.buddiesLost c) := by
  refine Still.each _ (fun t e => ?_) _ s
  split
  · split
    · exact t.buddyLost_still _ _
    · exact Still.refl t
  · exact Still.refl t

theorem State.applyRepairs_still (s : State) (c : Chan) (fails : BitVec 16) : Still s (s.applyRepairs c fails) := by
  unfold State.applyRepairs
  extract_lets fail
  rcases hr : ((s.applyPumps c).applyCistern c).applyHbm c with ⟨s1, rebuilt⟩
  dsimp -zeta only
  extract_lets s2 s3 s4
  have m1 : Still s s1 := ((s.applyPumps_still c).trans (State.applyCistern_still _ c)).trans ((State.applyHbm_still _ c).fst hr)
  have m2 : Still s1 s2 := s1.spareTest_still s c fails
  have m3 : Still s2 s3 := Still.ite (s2.leave_still c 9) (Still.refl s2)
  have m4 : Still s3 s4 := Still.ite (s3.leave_still c 8) (Still.refl s3)
  have all := ((m1.trans m2).trans m3).trans m4
  exact Still.ite (all.trans (s4.buddiesLost_still c)) all

end Sys2Proof.Machine


namespace Sys2Proof.Machine

/-! ### Host commands: the rings (R365, R366) -/

theorem State.ring_onRing (s : State) (id : RingId) (f : Ring → Ring) : (s.onRing id f).ring id = (s.ring id).map f := by
  cases id with
  | admin fn =>
    simp only [State.ring, State.onRing, State.onMc, SMap.look_alter, if_true]
    cases s.mc.admins.look fn <;> rfl
  | well ctx loc =>
    unfold State.onRing
    dsimp only
    rcases hw : (s.mc.ctxs.look ctx).bind (·.wells.look loc) with _ | ⟨c, w⟩
    · simp [State.ring, hw]
    · have same : ((s.onChan c fun h => { h with wells := h.wells.alter w fun x => { x with ring := f x.ring } }).mc.ctxs.look ctx).bind
          (·.wells.look loc) = some (c, w) := hw
      simp only [State.ring, same, hw, State.onChan_chan, SMap.look_alter, if_true]
      cases (s.chan c).wells.look w <;> rfl

/-- Records of a ring are not taken back by what completes of its front. -/
theorem Ring.advance_fifo (n : Nat) : ∀ (r : Ring) (x : Record), x ∈ r.fifo → x ∈ (r.advance n).fifo := by
  induction n with
  | zero => exact fun _ _ h => h
  | succ n ih =>
    intro r x h
    unfold Ring.advance
    split
    · exact h
    · split
      · split
        · exact ih _ x (List.mem_append_left _ h)
        · exact h
      · exact h

theorem Ring.go_fifo (r : Ring) (x : Record) (h : x ∈ r.fifo) : x ∈ r.go.fifo := Ring.advance_fifo _ r x h

/-- A completed command is recorded in its ring. -/
theorem State.complete_recorded (s : State) (h : Hdr) (status result : Nat) (ring : (s.ring h.ring).isSome) :
    Recorded (s.complete h status result) h status result := by
  obtain ⟨r, hr⟩ := Option.isSome_iff_exists.mp ring
  refine ⟨_, by rw [State.complete, State.ring_onRing, hr]; rfl, ?_⟩
  exact Ring.go_fifo _ _ (List.mem_append_right _ (List.mem_singleton.mpr rfl))

/-- A command that starts is one of a ring. -/
theorem State.begin_ring {s t : State} {h : Hdr} {opc : Nat} (b : s.begin h opc = some t) : (t.ring h.ring).isSome := by
  unfold State.begin at b
  split at b
  · exact absurd b (by simp)
  · next r hr =>
    split at b
    · exact absurd b (by simp)
    · split at b
      · obtain rfl := Option.some.inj b
        rw [State.ring_onRing, hr]
        rfl
      · exact absurd b (by simp)

theorem State.cmd_begun {s t : State} {h : Hdr} {opc : Nat} (b : s.begin h opc = some t) (f : State → State) : s.cmd h opc f = .next (f t) := by
  rw [State.cmd, b]

theorem State.jobCmd_begun {s t : State} {h : Hdr} {opc ctx g : Nat} {job : Nat} {jb : Job} (b : s.begin h opc = some t)
    (ring : h.ring = .well ctx g) (admitted : t.job ctx job = some jb) (runs : jb.admitted = true) (f : State → Nat → Job → State) :
    s.jobCmd h opc job f = .next (f t ctx jb) := by
  have at_ : hdrCtx h = ctx := by simp [hdrCtx, ring]
  rw [State.jobCmd, State.cmd_begun b]
  simp [at_, admitted, runs]

/-- Rings, and what finds them, stand as they stood. -/
structure SameRings (s t : State) : Prop where
  ctxs : t.mc.ctxs = s.mc.ctxs
  admins : t.mc.admins = s.mc.admins
  wells : ∀ c, (t.chan c).wells = (s.chan c).wells

section
variable {s t u : State}

theorem SameRings.refl (s : State) : SameRings s s := ⟨rfl, rfl, fun _ => rfl⟩

theorem SameRings.trans (a : SameRings s t) (b : SameRings t u) : SameRings s u :=
  ⟨b.ctxs.trans a.ctxs, b.admins.trans a.admins, fun c => (b.wells c).trans (a.wells c)⟩

theorem SameRings.ite {b : Prop} [Decidable b] (ht : SameRings s t) (hu : SameRings s u) : SameRings s (if b then t else u) := by
  split
  · exact ht
  · exact hu

theorem SameRings.each {α : Type} (f : State → α → State) (h : ∀ t a, SameRings t (f t a)) (l : List α) (s : State) : SameRings s (s.each l f) :=
  State.each_invariant (SameRings s) f (fun t a ht => ht.trans (h t a)) l s (SameRings.refl s)

theorem SameRings.onChan (s : State) (c : Chan) (f : Channel → Channel) (h : ∀ x, (f x).wells = x.wells) : SameRings s (s.onChan c f) := by
  refine ⟨rfl, rfl, fun d => ?_⟩
  by_cases hd : d = c
  · subst hd
    rw [State.onChan_chan, h]
  · rw [State.onChan_chan_ne s c d f hd]

theorem SameRings.onMc (s : State) (f : Gnover → Gnover) (hc : ∀ m, (f m).ctxs = m.ctxs) (ha : ∀ m, (f m).admins = m.admins) :
    SameRings s (s.onMc f) := ⟨hc s.mc, ha s.mc, fun _ => rfl⟩

theorem SameRings.ring (h : SameRings s t) (id : RingId) : t.ring id = s.ring id := by
  cases id <;> simp only [State.ring, h.ctxs, h.admins, h.wells]

end

theorem State.sendMgmt_rings (s : State) (c : Chan) (dest : ChanAddr) (r : MgmtRec) : SameRings s (s.sendMgmt c dest r) := by
  have onPort : ∀ (f : Port → Port) (p : PortIx), SameRings s (s.onPort c p f) := fun f p => SameRings.onChan s c _ fun _ => by rfl
  unfold State.sendMgmt State.sendTo
  split
  · exact SameRings.ite ((onPort _ _).trans ⟨rfl, rfl, fun _ => rfl⟩) (onPort _ _)
  · exact SameRings.refl s

theorem State.mapPut_rings (s : State) (c : Chan) (m : MapChan) : SameRings s (s.mapPut c m) := by
  unfold State.mapPut
  dsimp only
  exact SameRings.ite ((SameRings.onMc s _ (fun _ => by rfl) fun _ => by rfl).trans (SameRings.each _ (fun t d => t.sendMgmt_rings c _ _) _ _))
    (s.sendMgmt_rings c _ _)

theorem State.mapUpdate_rings (s : State) (c : Chan) (g : MapChan → MapChan) : SameRings s (s.mapUpdate c g) := by
  unfold State.mapUpdate
  split
  · exact SameRings.refl s
  · exact SameRings.ite (SameRings.refl s) (s.mapPut_rings c _)

/-! ### Queries (R382) -/

@[simp] theorem leBytes_length (n : Nat) : ∀ v, (leBytes n v).length = n := by
  induction n with
  | zero => exact fun _ => rfl
  | succ n ih => exact fun v => by simp [leBytes, ih]

theorem flatMap_length_const {α β : Type} (l : List α) (f : α → List β) (n : Nat) (h : ∀ a ∈ l, (f a).length = n) :
    (l.flatMap f).length = n * l.length := by
  induction l with
  | nil => rfl
  | cons a l ih =>
    rw [List.flatMap_cons, List.length_append, h a List.mem_cons_self, ih fun b hb => h b (List.mem_cons_of_mem _ hb), List.length_cons]
    ring

/-- A reply of this kind ends a query. -/
def Replies (h : Hdr) (buf len : Nat) (t : State) (P : List (BitVec 8) → Prop) (r : Res) : Prop :=
  ∃ bs, P bs ∧ r = .next (t.respond h buf len bs)

section
variable {s t : State} {h : Hdr} {ctx g : Nat} (b : s.begin h 0x38 = some t) (buf len : Nat)
include b

theorem execQueryIdentity_replies :
    Replies h buf len t (fun bs => bs.length = 89 ∧ bs.take 8 = leBytes 8 t.mc.fuses.serial.toNat) (execQueryIdentity h buf len s) := by
  refine ⟨_, ⟨?_, ?_⟩, State.cmd_begun b _⟩
  · simp only [List.length_append, leBytes_length, flatMap_length_const _ _ 4 (fun _ _ => leBytes_length 4 _),
      flatMap_length_const _ _ 8 (fun _ _ => leBytes_length 8 _), List.length_range, Vector.length_toList]
  · rw [List.append_assoc, List.append_assoc, List.append_assoc, List.take_left' (leBytes_length 8 _)]

theorem execQueryFabricMap_replies :
    Replies h buf len t (fun bs => bs.take 8 = leBytes 8 t.mc.fab.version) (execQueryFabricMap h buf len s) := by
  refine ⟨_, ?_, State.cmd_begun b _⟩
  dsimp only
  rw [List.append_assoc, List.take_left' (leBytes_length 8 _)]

theorem execQueryAttest_replies (ring : h.ring = .well ctx g) (nonce : BitVec 256) :
    Replies h buf len t (fun bs => bs = t.attestation (some ctx) nonce) (execQueryAttest h nonce buf len s) := by
  have at_ : hdrCtx h = ctx := by simp [hdrCtx, ring]
  refine ⟨_, rfl, ?_⟩
  rw [execQueryAttest, State.cmd_begun b, at_]

theorem execQueryBlackBox_replies (c : Chan) (here : t.present c = true) :
    Replies h buf len t (fun bs => bs.length = 32 * (t.chan c).bbx.list.length) (execQueryBlackBox h c buf len s) := by
  refine ⟨(t.chan c).bbx.list.flatMap fun e => leBytes 32 e.pack, flatMap_length_const _ _ 32 (fun _ _ => leBytes_length 32 _), ?_⟩
  rw [execQueryBlackBox, State.cmd_begun b, if_pos here]

theorem execQueryBlackBox_absent (c : Chan) (gone : t.present c = false) :
    execQueryBlackBox h c buf len s = .next (t.complete h 0x0204 0) := by
  rw [execQueryBlackBox, State.cmd_begun b, if_neg (by simp [gone])]
  rfl

theorem execQueryJob_replies (ring : h.ring = .well ctx g) {job : Nat} {jb : Job} (hj : t.job ctx job = some jb) (runs : jb.admitted = true) :
    Replies h buf len t (fun bs => bs.length = 23) (execQueryJob h job buf len s) := by
  refine ⟨_, ?_, State.jobCmd_begun b ring hj runs _⟩
  simp

theorem execQueryCounters_replies (ring : h.ring = .well ctx g) {job : Nat} {jb : Job} (hj : t.job ctx job = some jb)
    (runs : jb.admitted = true) : Replies h buf len t (fun bs => bs.length = 176 * (t.localSlots ctx job).length)
      (execQueryCounters h job buf len s) := by
  refine ⟨_, flatMap_length_const _ _ 176 (fun e _ => ?_), State.jobCmd_begun b ring hj runs _⟩
  simp only [List.length_append, flatMap_length_const _ _ 8 (fun _ _ => leBytes_length 8 _), List.length_range, Vector.length_toList]

theorem execQueryScrub_starts (c : Chan) (range : BitVec 128) (free : (s.chan c).cis.busy = false) (here : t.present c = true)
    (up : (t.chan c).st.busy = false) (emb : (t.chan c).st.embBusy = false) : Answers (execQueryScrub h c range buf len s) fun u =>
      (u.chan c).cis.busy = true ∧ (u.chan c).cis.passFor = some (h, buf, len) ∧ (u.chan c).cis.passPos = field range 32 32 := by
  have runs : execQueryScrub h c range buf len s = .next (t.startPass c (range.getLsbD 2) (field range 4 8) (field range 32 32)
      (field range 64 32 + 1) (range.getLsbD 1) (some (h, buf, len))) := by
    rw [execQueryScrub, if_neg (by simp [free]), State.cmd_begun b]
    simp [here, up, emb]
  exact ⟨_, runs, by simp [State.startPass], by simp [State.startPass], by simp [State.startPass]⟩

end

end Sys2Proof.Machine


namespace Sys2Proof.Machine

/-! ### Self-tests (R383, R452, R453, R462) -/

/-- What the start of a test leaves, before the map hears of it. -/
def State.testBegun (s : State) (c : Chan) (set : BitVec 8) (h : Option Hdr) : State :=
  (s.onSt c fun x => x.reason 10 true).onMc fun m => { m with
    inService := m.inService &&& ~~~(1#8 <<< c.val), firm := { m.firm with testing := m.firm.testing ++ [(c, set, h)] } }

theorem State.startTest_minor (s : State) (c : Chan) (set : BitVec 8) (h : Option Hdr) : Minor (s.testBegun c set h) (s.startTest c set h) :=
  State.mapUpdate_minor _ c _

theorem State.startTest_starts (s : State) (c : Chan) (set : BitVec 8) (h : Option Hdr) :
    (s.startTest c set h).mc.firm = { s.mc.firm with testing := s.mc.firm.testing ++ [(c, set, h)] } ∧
      (s.startTest c set h).serving c = false ∧ ((s.startTest c set h).chan c).st.oos.getLsbD 10 = true := by
  have m := s.startTest_minor c set h
  rw [m.firm, m.serving, m.st]
  exact ⟨rfl, by simp [State.testBegun, State.serving], by simp [State.testBegun, ChStatus.reason]⟩

theorem execSelftest_idle {s t : State} {h : Hdr} (b : s.begin h 0x39 = some t) (c : Chan) (force : Bool) (set : BitVec 8)
    (here : t.present c = true) (lk : (t.chan c).pwr.lk = .on) (idle : t.testIdle c = true) : Answers (execSelftest h c force set s) fun u =>
      u.mc.firm.testing = t.mc.firm.testing ++ [(c, set, some h)] ∧ u.serving c = false ∧ (u.chan c).st.oos.getLsbD 10 = true := by
  have runs : execSelftest h c force set s = .next (t.startTest c set (some h)) := by
    rw [execSelftest, State.cmd_begun b]
    simp [here, lk, idle]
  obtain ⟨firm, out, oos⟩ := t.startTest_starts c set (some h)
  exact ⟨_, runs, by rw [firm], out, oos⟩

theorem execSelftest_defers {s t : State} {h : Hdr} (b : s.begin h 0x39 = some t) (c : Chan) (set : BitVec 8)
    (here : t.present c = true) (lk : (t.chan c).pwr.lk = .on) (busy : t.testIdle c = false) (jobs : (t.chan c).liveSlots ≠ []) :
    Answers (execSelftest h c false set s) fun u =>
      u.mc.firm.testQ = t.mc.firm.testQ ++ [(c, set, none)] ∧ Recorded u h 0x0401 0 := by
  have runs : execSelftest h c false set s = .next ((t.queueTest c set none).complete h stSelftestDeferred 0) := by
    rw [execSelftest, State.cmd_begun b]
    simp [here, lk, busy, jobs]
  have queued : Minor (t.onMc fun m => { m with firm := { m.firm with testQ := m.firm.testQ ++ [(c, set, none)] } }) (t.queueTest c set none) :=
    State.mapSync_minor _ c
  have rings : SameRings t (t.queueTest c set none) :=
    (SameRings.onMc t (fun m => { m with firm := { m.firm with testQ := m.firm.testQ ++ [(c, set, none)] } }) (fun _ => by rfl)
      fun _ => by rfl).trans (State.mapUpdate_rings _ c _)
  have done := queued.trans (State.complete_minor (t.queueTest c set none) h stSelftestDeferred 0)
  refine ⟨_, runs, ?_, State.complete_recorded _ h _ 0 ?_⟩
  · rw [done.firm]
    rfl
  · rw [rings.ring]
    exact State.begin_ring b

theorem execDeferredSelftest_starts (c : Chan) (e : Chan × BitVec 8 × Option Hdr) (s : State)
    (first : s.mc.firm.testQ.find? (fun x => x.1 == c) = some e) (idle : s.testIdle c = true) (up : s.mc.inReset = false) :
    Answers (execDeferredSelftest c s) fun u => u.mc.firm.testQ = s.mc.firm.testQ.erase e ∧
      u.mc.firm.testing = s.mc.firm.testing ++ [(c, e.2.1, e.2.2)] ∧ u.serving c = false := by
  have runs : execDeferredSelftest c s = .next ((s.onMc fun m => { m with firm := { m.firm with testQ := m.firm.testQ.erase e } }).startTest c
      e.2.1 e.2.2) := by
    rw [execDeferredSelftest, first]
    simp [onlyIf, idle, up]
  obtain ⟨firm, out, -⟩ := (s.onMc fun m => { m with firm := { m.firm with testQ := m.firm.testQ.erase e } }).startTest_starts c e.2.1 e.2.2
  exact ⟨_, runs, by rw [firm]; rfl, by rw [firm]; rfl, out⟩

/-! #### What a test that ends leaves of Gnover -/

theorem State.listFindings_still (s : State) (c : Chan) (src : Nat) (l : List (DefectKind × Nat × Nat)) :
    Still s (s.listFindings c src l).1 := by
  unfold State.listFindings
  exact Still.foldl _ (fun x e => x.1.addDefect_still c _ _ _ _) l (s, 0)

theorem State.applySensors_still (s : State) (c : Chan) : Still s (s.applySensors c) := by
  unfold State.applySensors
  exact (Still.onChan s c _).trans (State.moveEntries_still _ _ 1)

theorem State.applyFactory_still (s : State) (c : Chan) : Still s (s.applyFactory c) := by
  unfold State.applyFactory
  extract_lets f s1 s2
  exact ((Still.each _ (fun t d => t.onRepair_still c _ _) _ s).trans (Still.each _ (fun t d => t.onRepair_still c _ _) _ s1)).trans
    (Still.each _ (fun t d => t.losePump_still c _) _ s2)

theorem State.applyAll_still (s : State) (c : Chan) : Still s (s.applyAll c) := by
  unfold State.applyAll
  extract_lets was again s1 s2
  have m1 : Still s s1 := Still.onMc s _ fun _ => by rfl
  have m2 : Still s1 s2 := ((s1.applyFactory_still c).trans (State.applyRepairs_still _ c 0)).trans (State.applySensors_still _ c)
  exact ((m1.trans m2).trans (State.moveEntries_still s2 _ 1)).trans (Still.onChan _ c _)

theorem State.testStack_still (s : State) (c : Chan) (taken : List (Nat × Nat)) (st : Nat) : Still s (s.testStack c taken st) := by
  unfold State.testStack
  extract_lets inStack lines ups s1
  have m1 : Still s s1 := (Still.onChan s c _).trans (Still.onChan _ c _)
  refine (m1.trans (Still.each _ (fun t k => ?_) ups s1)).trans (Still.onChan _ c _)
  exact (t.scrubKey_still c k false).trans (Still.onChan _ c _)

theorem State.testHbm_still (s : State) (c : Chan) : Still s (s.testHbm c) := by
  unfold State.testHbm
  extract_lets taken covered s1 s2
  exact ((Still.each _ (fun t st => t.testStack_still c taken st) _ s).trans (Still.onChan s1 c _)).trans
    (Still.each _ (fun t d => t.applyHbmRow_still c d) _ s2)

theorem State.testParts_still (s : State) (c : Chan) (set : BitVec 8) : Still s (s.testParts c set) := by
  unfold State.testParts
  extract_lets s1 s2 s3 s4
  have m1 : Still s s1 := Still.ite (s.applyPumps_still c) (Still.refl s)
  have m2 : Still s1 s2 := Still.ite (Still.onChan s1 c _) (Still.refl s1)
  have m3 : Still s2 s3 := Still.ite ((s2.applyCistern_still c).trans (Still.onChan _ c _)) (Still.refl s2)
  have m4 : Still s3 s4 := Still.ite (s3.applySensors_still c) (Still.refl s3)
  have all := ((m1.trans m2).trans m3).trans m4
  exact Still.ite (all.trans (s4.testHbm_still c)) all

theorem State.mapBump_minor (s : State) (c : Chan) (f : MapChan → MapChan) : Minor s (s.mapBump c f) := by
  unfold State.mapBump
  split
  · exact Minor.refl _
  · exact State.mapPut_minor _ c _

theorem State.portTo_minor (s : State) (c : Chan) (port : PortIx) (st : PortState) (f : Port → Port) : Minor s (s.portTo c port st f) := by
  unfold State.portTo
  extract_lets old s1 s2
  have m1 : Minor s s1 := Minor.onPort s c port _
  have m2 : Minor s1 s2 := s1.event_minor c _ _ _ _
  exact Minor.ite m1 ((m1.trans m2).trans (s2.mapBump_minor c _))

theorem State.enter_still (s : State) (c : Chan) (r : Nat) : Still s (s.enter c r) := by
  refine Still.trans ?_ (s.enter_minor c r).still
  unfold State.entered
  split <;> exact rfl

/-- A channel that fails its test is out of service. -/
theorem State.testFailed_out (s : State) (c : Chan) (fail : Nat) : Still s (s.testFailed c fail) ∧ (s.testFailed c fail).serving c = false := by
  unfold State.testFailed
  extract_lets s1
  have still1 : Still s s1 := (s.leave_still c 2).trans (Still.onChan _ c _)
  have out1 : s1.serving c = false := (s.leave_serving c 2 :)
  clear_value s1
  have ports : Minor s1 (s1.each (List.finRange 12) fun t p => t.portTo c p .disabled id) := Minor.each _ (fun t p => t.portTo_minor c p _ _) _ s1
  split
  · refine ⟨still1.trans (ports.still.trans (Still.onChan _ c _)), ?_⟩
    rw [State.onPwr_serving, ports.serving, out1]
  · exact ⟨still1, out1⟩

/-- A field above the lowest bit leaves that bit. -/
theorem add_fieldAt_odd {a : Nat} (lo width v : Nat) (h : a % 2 = 1) : (a + fieldAt (lo + 1) width v) % 2 = 1 := by
  have even : fieldAt (lo + 1) width v % 2 = 0 := by rw [fieldAt, Nat.pow_succ, ← Nat.mul_assoc, Nat.mul_mod_left]
  omega

/-- The result word of a test tells in its lowest bit whether the channel passed. -/
theorem State.testWord_passed (s : State) (c : Chan) (added : Nat) (set : BitVec 8) : s.testWord c 0 added set % 2 = 1 := by
  unfold State.testWord
  extract_lets h flags k bad
  rw [packReg, packFrom_cons, packFrom_cons, packFrom_cons, packFrom_cons, packFrom_cons, packFrom_cons, packFrom_cons, packFrom_cons,
    packFrom_cons, List.foldl_nil]
  have pass : (0 + fieldAt 0 1 (bit (0 == 0))) % 2 = 1 := rfl
  exact add_fieldAt_odd 47 _ _ (add_fieldAt_odd 39 _ _ (add_fieldAt_odd 35 _ _ (add_fieldAt_odd 31 _ _ (add_fieldAt_odd 15 _ _
    (add_fieldAt_odd 7 _ _ (add_fieldAt_odd 1 _ _ (add_fieldAt_odd 0 _ _ pass)))))))

theorem execSelftestComplete_frozen (c : Chan) (found : TestFindings) (e : Chan × BitVec 8 × Option Hdr) (s : State)
    (runs : s.mc.firm.testing.find? (fun x => x.1 == c) = some e) (cold : (s.chan c).frozenCold = true) :
    execSelftestComplete c found s = .next (s.onSt c fun x => { x with coldWait := true }) := by
  rw [execSelftestComplete, runs]
  simp [cold]

theorem execSelftestComplete_ends (c : Chan) (found : TestFindings) (e : Chan × BitVec 8 × Option Hdr) (s : State)
    (runs : s.mc.firm.testing.find? (fun x => x.1 == c) = some e) (warm : (s.chan c).frozenCold = false) (own : e.2.2 = none) :
    Answers (execSelftestComplete c found s) fun u => u.mc.firm.testing = s.mc.firm.testing.erase e ∧
      ((u.mc.firm.selftest[c.val]).getLsbD 0 = false → u.serving c = false) := by
  unfold execSelftestComplete
  simp -zeta only [runs, warm, Bool.false_eq_true, if_false]
  extract_lets set first s0 s2 fail word s3 s4
  have m1 : Still s0 (s0.listFindings c (if first then 1 else 5) (findings found set)).1 := s0.listFindings_still c _ _
  have m2 : Still (s0.listFindings c (if first then 1 else 5) (findings found set)).1 s2 :=
    Still.ite (State.applyAll_still _ c) (State.testParts_still _ c set)
  have testing2 : s2.mc.firm.testing = s.mc.firm.testing.erase e := (m1.trans m2).testing
  have hword : ∃ added, word = s2.testWord c fail added set := ⟨_, rfl⟩
  clear_value s2 fail word
  have testing3 : s3.mc.firm.testing = s.mc.firm.testing.erase e := testing2
  have word3 : s3.mc.firm.selftest[c.val] = BitVec.ofNat 64 word := by simp [s3, upd]
  clear_value s3
  have m4 : Still s3 s4 := Still.ite ((Still.onChan s3 c _).trans (State.enter_still _ c 10)) (s3.testFailed_out c fail).1
  have out4 : (s4.mc.firm.selftest[c.val]).getLsbD 0 = false → s4.serving c = false := by
    intro bit_
    simp only [m4.selftest, word3] at bit_
    have failed : fail ≠ 0 := by
      rintro rfl
      obtain ⟨added, hword⟩ := hword
      have passed := s2.testWord_passed c added set
      rw [← hword] at passed
      rw [BitVec.getLsbD_ofNat] at bit_
      simp [Nat.testBit_zero, passed] at bit_
    simp only [s4]
    rw [if_neg failed]
    exact (s3.testFailed_out c fail).2
  have testing4 : s4.mc.firm.testing = s.mc.firm.testing.erase e := m4.testing.trans testing3
  clear_value s4
  have last := State.mapSync_minor s4 c
  rw [own]
  refine ⟨_, rfl, ?_, ?_⟩
  · rw [last.firm, testing4]
  · rw [last.serving]
    intro bit_
    refine out4 ?_
    rw [← bit_]
    simp only [last.firm]

/-- Settles O48. -/
theorem queriesAndSelfTests : Obligations.QueriesAndSelfTests := by
  unfold Obligations.QueriesAndSelfTests
  intro h force ctx g job buf len c range nonce jb set e found s t replies
  simp only [exec]
  refine ⟨fun b ring => ⟨execQueryIdentity_replies b buf len, fun hj runs => ⟨execQueryJob_replies b buf len ring hj runs,
      execQueryCounters_replies b buf len ring hj runs⟩, execQueryFabricMap_replies b buf len, execQueryAttest_replies b buf len ring nonce,
      execQueryBlackBox_replies b buf len c, execQueryBlackBox_absent b buf len c, execQueryScrub_starts b buf len c range⟩,
    fun b here lk => ⟨execSelftest_idle b c force set here lk, execSelftest_defers b c set here lk⟩, execDeferredSelftest_starts c e s,
    fun runs => ⟨execSelftestComplete_frozen c found e s runs, execSelftestComplete_ends c found e s runs⟩⟩

end Sys2Proof.Machine

/-! ### A job's only member, and host commands on a well (R365, R371-R374) -/

namespace Sys2Proof.Machine

section
variable {s t u : State} {h : Hdr} {ctx g job : Nat} {c : Chan} {j : SlotIx}

theorem OnlyMember.slot (only : OnlyMember s ctx job c j) : (s.chan c).slotOfJob ctx job = some j := by
  have member : (c, j) ∈ s.localSlots ctx job := by rw [only]; exact List.mem_singleton_self _
  obtain ⟨d, -, hd⟩ := List.mem_filterMap.1 member
  cases found : (s.chan d).slotOfJob ctx job with
  | none => simp [found] at hd
  | some i =>
    simp only [found, Option.map_some, Option.some.injEq, Prod.mk.injEq] at hd
    obtain ⟨rfl, rfl⟩ := hd
    exact found

theorem OnlyMember.each (only : OnlyMember s ctx job c j) (f : State → Chan × SlotIx → State) : t.each (s.localSlots ctx job) f = f t (c, j) := by
  rw [only]
  rfl

/-- An operation that keeps every channel's slots keeps a job's members. -/
theorem State.localSlots_congr (same : ∀ c, (t.chan c).slots = (s.chan c).slots) (ctx job : Nat) : t.localSlots ctx job = s.localSlots ctx job := by
  simp only [State.localSlots, Channel.slotOfJob, Channel.liveSlots, same]

@[simp] theorem State.onJob_job (s : State) (ctx job : Nat) (f : Job → Job) : (s.onJob ctx job f).job ctx job = (s.job ctx job).map f := by
  simp [State.job, State.onJob, State.onMc, SMap.look_alter]

/-- A command of a well completes in its channel; Gnover's own tables stand. -/
theorem State.complete_mc (ring : h.ring = .well ctx g) (s : State) (st res : Nat) : (s.complete h st res).mc = s.mc := by
  simp only [State.complete, State.onRing, ring]
  split
  · exact State.onChan_mc ..
  · rfl

theorem State.complete_slot (s : State) (h : Hdr) (st res : Nat) (c : Chan) (j : SlotIx) : (s.complete h st res).slot c j = s.slot c j :=
  (s.complete_keeps (f := id) h st res).2 c j

/-- A channel's address names that channel (R313). -/
theorem State.localChan_addrOf (s : State) (c : Chan) : s.localChan (s.addrOf c) = some c := by
  have number : (s.addrOf c).toNat = 8 * s.mc.fab.id.toNat + c.val := by
    have hid := s.mc.fab.id.isLt
    have hc : (BitVec.ofNat 15 c.val).toNat = c.val := by rw [BitVec.toNat_ofNat]; omega
    have hi : (s.mc.fab.id.setWidth 15 <<< 3).toNat = 8 * s.mc.fab.id.toNat := by
      rw [BitVec.toNat_shiftLeft, BitVec.toNat_setWidth, Nat.shiftLeft_eq]
      omega
    rw [State.addrOf, BitVec.toNat_or, hc, hi, show 8 * s.mc.fab.id.toNat = 2 ^ 3 * s.mc.fab.id.toNat from rfl,
      ← Nat.two_pow_add_eq_or_of_lt c.isLt]
  have own : s.addrOf c >>> 3 = s.mc.fab.id.setWidth 15 := by
    apply BitVec.eq_of_toNat_eq
    have hid := s.mc.fab.id.isLt
    rw [BitVec.toNat_ushiftRight, BitVec.toNat_setWidth, number, Nat.shiftRight_eq_div_pow]
    omega
  rw [State.localChan, if_pos own, Option.some.injEq]
  apply Fin.ext
  simp only [number]
  omega

end

/-! ### LOAD_IMAGE and START (R371, R372) -/

section
variable {s t : State} {h : Hdr} {ctx g : Nat} {x : Ctx}

theorem execLoadImage_fails (im : JobImage) (b : s.begin h 0x21 = some t) (ring : h.ring = .well ctx g) (hx : t.mc.ctxs.look ctx = some x)
    (bad : t.imageStatus x im ≠ 0) : execLoadImage h im s = .next (t.complete h (t.imageStatus x im) 0) := by
  have at_ : hdrCtx h = ctx := by simp [hdrCtx, ring]
  rw [execLoadImage, State.cmd_begun b]
  simp [at_, hx, stSuccess, bad]

/-- An image whose checks hold stands in its context. -/
theorem execLoadImage_loads (im : JobImage) {n : Nat} (b : s.begin h 0x21 = some t) (ring : h.ring = .well ctx g)
    (hx : t.mc.ctxs.look ctx = some x) (good : t.imageStatus x im = 0) (free : lowestHandle 64 x.images.keys = some n) :
    Answers (execLoadImage h im s) fun u => ∃ k, u.mc.ctxs.look ctx = some k ∧ k.images.look n = some im := by
  have at_ : hdrCtx h = ctx := by simp [hdrCtx, ring]
  have runs : execLoadImage h im s =
      .next ((t.onCtx ctx fun k => { k with images := k.images.set1 n im }).complete h stSuccess n) := by
    rw [execLoadImage, State.cmd_begun b]
    simp [at_, hx, stSuccess, good, free]
  refine ⟨_, runs, { x with images := x.images.set1 n im }, ?_, SMap.look_set1_self _ _ _⟩
  rw [State.complete_mc ring]
  simp [State.onCtx, State.onMc, SMap.look_alter, hx]

theorem execStart_unclean (image : Nat) (pol : BitVec 256) {im : JobImage} {c : Chan} {w : Nat} (b : s.begin h 0x22 = some t)
    (ring : h.ring = .well ctx g) (hx : t.mc.ctxs.look ctx = some x) (idle : s.mc.fab.placing = none) (him : x.images.look image = some im)
    (well : x.wells.look g = some (c, w)) (unclean : (policy pol).clean = false) :
    execStart h image pol s = .next (t.complete h 0x0101 0) := by
  have at_ : hdrCtx h = ctx := by simp [hdrCtx, ring]
  rw [execStart, State.cmd_begun b]
  simp [at_, idle, hx, ring, him, well, unclean, stDescInvalid]

theorem State.sendMgmt_fab (s : State) (c : Chan) (d : ChanAddr) (r : MgmtRec) : (s.sendMgmt c d r).mc.fab = s.mc.fab := by
  simp only [State.sendMgmt, State.sendTo, State.sendFlit, State.sendNow]
  split
  · split <;> rfl
  · rfl

/-- A placement attempt counts; it is under way, has failed, or waits to be tried again (R346, R349). -/
def Attempted (n : Nat) (f : Fabric) : Prop := f.attempts = n + 1 ∧ (f.placeState = 2 ∨ f.placeState = 5 ∨ f.placeState = 6)

/-- A placement that fails at a START leaves Gnover's count of attempts (R349). -/
theorem State.placeFails_attempted (s : State) (p : Placing) (code n : Nat) {jb : Job} (hj : s.job p.ctx p.job = some jb)
    (start : p.restart = false) (ring : jb.start.ring = .well ctx g) (count : s.mc.fab.attempts = n + 1) :
    Attempted n (s.placeFails p code).mc.fab := by
  simp only [State.placeFails, hj, start]
  refine ⟨?_, .inr (.inl ?_)⟩ <;> · simp only [Bool.false_eq_true, if_false, State.complete_mc ring]; simp [State.onFab, State.onMc, count]

theorem State.attempt_attempted (s : State) (p : Placing) {jb : Job} (hj : s.job p.ctx p.job = some jb)
    (start : p.restart = false) (ring : jb.start.ring = .well ctx g) : Attempted s.mc.fab.attempts (s.attempt p).mc.fab := by
  unfold State.attempt
  simp -zeta only [hj]
  extract_lets _ p' s1
  have count1 : s1.mc.fab.attempts = s.mc.fab.attempts + 1 := rfl
  have job1 : s1.job p.ctx p.job = some jb := hj
  split
  · split
    · exact ⟨count1, .inr (.inr rfl)⟩
    · exact State.placeFails_attempted s1 p' _ _ job1 start ring count1
  · split
    · exact ⟨count1, .inl rfl⟩
    · rw [State.each_same (fun t => t.mc.fab) _ (fun t e => t.sendMgmt_fab _ _ _)]
      exact ⟨count1, .inl rfl⟩

/-- START of an image with a clean policy begins a placement attempt. -/
theorem execStart_attempts (image : Nat) (pol : BitVec 256) {im : JobImage} {c : Chan} {w n : Nat} (b : s.begin h 0x22 = some t)
    (ring : h.ring = .well ctx g) (hx : t.mc.ctxs.look ctx = some x) (idle : s.mc.fab.placing = none) (him : x.images.look image = some im)
    (well : x.wells.look g = some (c, w)) (clean : (policy pol).clean = true)
    (free : lowestHandle 64 ((t.jobsOf ctx).map fun e => (unKey e.1).2) = some n) :
    Answers (execStart h image pol s) fun u => u.mc.fab.attempts = t.mc.fab.attempts + 1 ∧
      (u.mc.fab.placeState = 2 ∨ u.mc.fab.placeState = 5 ∨ u.mc.fab.placeState = 6) := by
  have at_ : hdrCtx h = ctx := by simp [hdrCtx, ring]
  have runs : execStart h image pol s = .next ((t.onMc fun m =>
      { m with jobs := m.jobs.set1 (jobKey ctx n) (Job.fresh im h g (t.addrOf t.spoke) pol) }).startPlacing ctx n false) := by
    rw [execStart, State.cmd_begun b]
    simp [at_, idle, hx, ring, him, well, clean, free]
  refine ⟨_, runs, ?_⟩
  unfold State.startPlacing
  refine State.attempt_attempted _ _ (jb := Job.fresh im h g (t.addrOf t.spoke) pol) ?_ rfl ring
  exact SMap.look_set1_self _ _ _

end

end Sys2Proof.Machine


/-! ### The commands of an admitted job (R46, R373, R374, R377, R390) -/

namespace Sys2Proof.Machine

section
variable {s t : State} {h : Hdr} {ctx g job : Nat} {c : Chan} {j : SlotIx} {jb : Job}

/-- A command that names a job its context does not hold completes with JOB_STATE (R373). -/
theorem State.jobCmd_jobless {opc : Nat} (b : s.begin h opc = some t) (ring : h.ring = .well ctx g) (none_ : t.job ctx job = none)
    (f : State → Nat → Job → State) : s.jobCmd h opc job f = .next (t.complete h 0x0207 0) := by
  have at_ : hdrCtx h = ctx := by simp [hdrCtx, ring]
  rw [State.jobCmd, State.cmd_begun b]
  simp [at_, none_, stJobState]

theorem OnlyMember.onJob (only : OnlyMember t ctx job c j) (f : Job → Job) : OnlyMember (t.onJob ctx job f) ctx job c j := only

theorem execCheckpoint_asks (b : s.begin h 0x23 = some t) (ring : h.ring = .well ctx g) (hj : t.job ctx job = some jb)
    (admitted : jb.admitted = true) (only : OnlyMember t ctx job c j) (idle : (t.slot c j).regs.ckptBusy = false) :
    Answers (execCheckpoint h job s) fun u =>
      (u.slot c j).ckptAsked = true ∧ u.job ctx job = some { jb with ckptCmds := jb.ckptCmds ++ [h] } := by
  have busy : t.ckptOpen ctx job = false := by simp [State.ckptOpen, show t.localSlots ctx job = [(c, j)] from only, idle]
  refine ⟨_, State.jobCmd_begun b ring hj admitted _, ?_⟩
  dsimp only
  simp only [busy, Bool.false_eq_true, if_false]
  rw [State.askCkpt, OnlyMember.each (only.onJob _)]
  refine ⟨?_, ?_⟩
  · rw [State.onSlot_slot]
  · exact (State.onJob_job t ctx job _).trans (by rw [hj]; rfl)

theorem execStop_asks (ckpt : Bool) (b : s.begin h 0x24 = some t) (ring : h.ring = .well ctx g) (hj : t.job ctx job = some jb)
    (admitted : jb.admitted = true) (only : OnlyMember t ctx job c j) (first : jb.stopCmd = none) (runs : jb.halted = false)
    (fresh : jb.restore = none) : Answers (execStop h job ckpt s) fun u =>
      (u.slot c j).stopAsked = some ckpt ∧ u.job ctx job = some { jb with stopCmd := some (h, ckpt) } ∧
        ((t.slot c j).job.state = .running → (u.slot c j).job.state = .stopping) := by
  refine ⟨_, State.jobCmd_begun b ring hj admitted _, ?_⟩
  dsimp only
  rw [if_neg (by simp [first]), if_neg (by simp [runs, fresh]), State.stopJob, OnlyMember.each (only.onJob _)]
  refine ⟨?_, ?_, fun running => ?_⟩
  · rw [State.onSlot_slot]
  · exact (State.onJob_job t ctx job _).trans (by rw [hj]; rfl)
  · rw [State.onSlot_slot]
    exact if_pos running

/-- What finds a job's slot is what its slots hold of jobs. -/
theorem Channel.slotOfJob_congr {x y : Channel} (same : ∀ i : SlotIx, x.slots[i.val].job = y.slots[i.val].job) (ctx job : Nat) :
    x.slotOfJob ctx job = y.slotOfJob ctx job := by
  simp only [Channel.slotOfJob, Channel.liveSlots, Slot.live, same]

/-! ### Staged changes (R374) -/

theorem stageParts_low (off : Nat) (v : BitVec 64) : stageParts off v 0xFFFFFFFF = [(stWord off, v.setWidth 32, 0xFFFFFFFF)] := by
  rfl

/-- A word staged with a mask of all ones is the word's own. -/
theorem masked_all (a v : BitVec 32) : (a &&& ~~~(0xFFFFFFFF : BitVec 32)) ||| (v &&& 0xFFFFFFFF) = v := by
  have ones : (0xFFFFFFFF : BitVec 32) = BitVec.allOnes 32 := by decide
  rw [ones, BitVec.not_allOnes, BitVec.and_zero, BitVec.zero_or, BitVec.and_allOnes]

/-- STAGE of a slot's frame configuration (R374). -/
theorem execStage_stages (v : BitVec 64) (b : s.begin h 0x30 = some t) (ring : h.ring = .well ctx g) (hj : t.job ctx job = some jb)
    (admitted : jb.admitted = true) (only : OnlyMember t ctx job c j) (reach : Reachable t c) (live : (t.slot c j).live = true)
    (unlocked : (t.slot c j).stg.state.locked = false) :
    Answers (execStage h job (t.addrOf c) (BitVec.ofNat 22 (0x010000 + 0x100 * j.val)) v 0xFFFFFFFF s) fun u =>
      (u.slot c j).regs.set = (t.slot c j).regs.set ∧ (u.slot c j).stg = { (t.slot c j).stg with
        set := { (t.slot c j).stg.set with periodUs := field v 0 15, wdogMs := field v 16 16 }, state := .dirty } := by
  have off : (BitVec.ofNat 22 (0x010000 + 0x100 * j.val)).toNat = 0x010000 + 0x100 * j.val := by
    rw [BitVec.toNat_ofNat]
    omega
  have aligned : (0x010000 + 0x100 * j.val) % 4 = 0 := by omega
  have own : (t.slot c j).mayStage j (.frameCfg j) = true := by simp [Slot.mayStage]
  refine ⟨_, State.jobCmd_begun b ring hj admitted _, ?_⟩
  dsimp only
  rw [State.localChan_addrOf]
  dsimp only
  rw [only.slot]
  dsimp only
  rw [off, State.blockWrite_reachable t c _ reach, stageParts_low, stWord_frameCfg]
  simp only [State.each, List.foldl_cons, List.foldl_nil, aligned, own, StWord.chanScoped, List.any_cons, List.any_nil, List.isEmpty_cons,
    ne_eq, not_true_eq_false, Bool.not_true, Bool.or_self, Bool.false_eq_true, or_self, and_false, if_false]
  rw [State.complete_slot, masked_all, State.stageWord_frameCfg t c j _ live unlocked, field_setWidth v 0 15 (by omega),
    field_setWidth v 16 16 (by omega)]
  exact ⟨by rw [State.onStg_slot_regs], State.onStg_slot_stg ..⟩

theorem State.startCheck_keeps (t : State) (c : Chan) (j : SlotIx) (tag : BitVec 8) : Keeps Slot.job t (t.startCheck c j tag) := by
  unfold State.startCheck
  exact Keeps.onStg (fun _ _ => rfl) t c j _

theorem execCheck_checks (tag : BitVec 8) (b : s.begin h 0x31 = some t) (ring : h.ring = .well ctx g) (hj : t.job ctx job = some jb)
    (admitted : jb.admitted = true) (only : OnlyMember t ctx job c j) (reach : Reachable t c) (dirty : (t.slot c j).stg.state = .dirty) :
    Answers (execCheck h job tag s) fun u =>
      (u.slot c j).stg.state = .checking ∧ u.job ctx job = some { jb with checkCmds := jb.checkCmds ++ [h] } := by
  let t1 := (t.startCheck c j tag).onJob ctx job fun x => { x with checkCmds := x.checkCmds ++ [h] }
  have checking : (t1.slot c j).stg.state = .checking := by
    show ((t.startCheck c j tag).slot c j).stg.state = .checking
    rw [State.startCheck_stg t c j tag _ rfl, dirty]
    rfl
  have job1 : t1.job ctx job = some { jb with checkCmds := jb.checkCmds ++ [h] } :=
    (State.onJob_job _ ctx job _).trans (by rw [show (t.startCheck c j tag).job ctx job = t.job ctx job from rfl, hj]; rfl)
  have gs : ((List.finRange 8).filterMap fun d => ((t1.chan d).slotOfJob ctx job).map fun i => (t1.slot d i).stg).any
      (fun g => g.state == .checking) = true := by
    refine List.any_eq_true.2 ⟨(t1.slot c j).stg, List.mem_filterMap.2 ⟨c, List.mem_finRange c, ?_⟩, by rw [checking]; rfl⟩
    have same : (t1.chan c).slotOfJob ctx job = (t.chan c).slotOfJob ctx job := Channel.slotOfJob_congr
      ((t.startCheck_keeps c j tag).2 c) ctx job
    rw [same, only.slot]
    rfl
  have waits : t1.settleChecks ctx job = t1 := by
    unfold State.settleChecks
    simp only [job1, gs, Bool.or_true, if_true]
  refine ⟨t1, ?_, checking, job1⟩
  rw [execCheck, State.jobCmd_begun b ring hj admitted, OnlyMember.each only, State.blockWrite_reachable t c _ reach]
  exact congrArg _ waits

theorem execCommit_master (tag : BitVec 8) (b : s.begin h 0x32 = some t) (ring : h.ring = .well ctx g) (hj : t.job ctx job = some jb)
    (admitted : jb.admitted = true) (only : OnlyMember t ctx job c j) (reach : Reachable t c) (lead : (t.slot c j).job.lead = true)
    (checked : (t.slot c j).stg.state = .checked) (first : jb.commitCmd = none) :
    execCommit h job tag s = .next (if ((t.startCommit c j tag).slot c j).stg.state = .commitPending
      then (t.startCommit c j tag).onJob ctx job fun x => { x with commitCmd := some (h, tag) }
      else (t.startCommit c j tag).complete h stStageCheckFailed ((t.startCommit c j tag).slot c j).stg.reason) := by
  rw [execCommit, State.jobCmd_begun b ring hj admitted, show t.localSlots ctx job = [(c, j)] from only]
  simp [lead, first, checked, State.blockWrite_reachable t c _ reach]

theorem execCommit_pends (tag : BitVec 8) (b : s.begin h 0x32 = some t) (ring : h.ring = .well ctx g) (hj : t.job ctx job = some jb)
    (admitted : jb.admitted = true) (only : OnlyMember t ctx job c j) (reach : Reachable t c) (lead : (t.slot c j).job.lead = true)
    (master : (t.chan c).isMaster j = true) (checked : (t.slot c j).stg.state = .checked) (first : jb.commitCmd = none)
    (tagged : (t.slot c j).stg.tag = tag) :
    Answers (execCommit h job tag s) fun u => (u.slot c j).stg.state = .commitPending ∧
      u.job ctx job = some { jb with commitCmd := some (h, tag) } := by
  have pending : ((t.startCommit c j tag).slot c j).stg.state = .commitPending := by
    rw [State.startCommit_stg t c j tag _ rfl]
    simp [master, checked, tagged]
  refine ⟨_, execCommit_master tag b ring hj admitted only reach lead checked first, ?_⟩
  rw [if_pos pending]
  refine ⟨pending, (State.onJob_job _ ctx job _).trans ?_⟩
  have same : (t.startCommit c j tag).job ctx job = t.job ctx job := by
    unfold State.startCommit
    dsimp only
    split <;> rfl
  rw [same, hj]
  rfl

theorem State.startCommit_rings (t : State) (c : Chan) (j : SlotIx) (tag : BitVec 8) : SameRings t (t.startCommit c j tag) := by
  unfold State.startCommit
  dsimp only
  exact SameRings.ite (SameRings.onChan t c _ fun _ => by rfl) (SameRings.onChan t c _ fun _ => by rfl)

theorem execCommit_fails (tag : BitVec 8) (b : s.begin h 0x32 = some t) (ring : h.ring = .well ctx g) (hj : t.job ctx job = some jb)
    (admitted : jb.admitted = true) (only : OnlyMember t ctx job c j) (reach : Reachable t c) (lead : (t.slot c j).job.lead = true)
    (master : (t.chan c).isMaster j = true) (checked : (t.slot c j).stg.state = .checked) (first : jb.commitCmd = none)
    (other : (t.slot c j).stg.tag ≠ tag) :
    Answers (execCommit h job tag s) fun u => (u.slot c j).stg.state = .checked ∧ Recorded u h 0x0301 2 := by
  have stg : ((t.startCommit c j tag).slot c j).stg = { (t.slot c j).stg with reason := 2 } := by
    rw [State.startCommit_stg t c j tag _ rfl]
    simp [master, checked, other]
  refine ⟨_, execCommit_master tag b ring hj admitted only reach lead checked first, ?_⟩
  rw [if_neg (by rw [stg, checked]; decide), stg]
  refine ⟨by rw [State.complete_slot, stg, checked], State.complete_recorded _ h 0x0301 2 ?_⟩
  rw [(State.startCommit_rings t c j tag).ring]
  exact State.begin_ring b

/-! ### URGENT (R46, R377) -/

theorem execUrgent_admitted (entry : BitVec 8) (len : Nat) (args : BitVec 320) {x : Ctx} {w : Nat} (b : s.begin h 0x28 = some t)
    (ring : h.ring = .well ctx g) (hj : t.job ctx job = some jb) (only : OnlyMember t ctx job c j) (hx : t.mc.ctxs.look ctx = some x)
    (well : x.wells.look g = some (c, w)) (urgent : ((t.chan c).wells.look w).bind (·.urgent) = some job) (runs : jb.halted = false)
    (fresh : jb.restore = none) :
    execUrgent h entry len args s = .next (if (t.slot c j).regs.windowUs < len then t.complete h stUrgentExceeds 0
      else if !(jb.image.urgents.any fun e => e.1 == entry) then t.complete h stCmdInvalid 0
      else t.onSlot c j fun y => { y with urgents := queueUrgent y.urgents ⟨w, h, entry, len, args, false, false, false⟩ }) := by
  have at_ : hdrCtx h = ctx := by simp [hdrCtx, ring]
  rw [execUrgent, State.cmd_begun b]
  simp only [at_, ring, hx, Option.bind_some, well, urgent, hj, only.slot, runs, fresh, Option.isSome_none, Bool.false_eq_true, or_self,
    if_false]

end

/-- Settles O47. -/
theorem jobCommands : Obligations.JobCommands := by
  unfold Obligations.JobCommands
  intro h im pol image job ctx g n len w ckpt entry tag args v x c j jb s t ring
  simp only [exec]
  refine ⟨fun hx => ⟨fun b => ⟨execLoadImage_fails im b ring hx, execLoadImage_loads im b ring hx⟩, fun b idle him well =>
      ⟨execStart_unclean image pol b ring hx idle him well, execStart_attempts image pol b ring hx idle him well⟩⟩,
    fun jobless => ⟨fun b => State.jobCmd_jobless b ring jobless _, fun b => State.jobCmd_jobless b ring jobless _,
      fun b => State.jobCmd_jobless b ring jobless _, fun b => State.jobCmd_jobless b ring jobless _⟩,
    fun hj admitted only => ?_⟩
  refine ⟨fun b idle => execCheckpoint_asks b ring hj admitted only idle, fun b first runs fresh =>
    execStop_asks ckpt b ring hj admitted only first runs fresh, fun reach => ⟨fun b live unlocked =>
      execStage_stages v b ring hj admitted only reach live unlocked, fun b dirty => execCheck_checks tag b ring hj admitted only reach dirty,
      fun b lead master checked first => ⟨execCommit_pends tag b ring hj admitted only reach lead master checked first,
        execCommit_fails tag b ring hj admitted only reach lead master checked first⟩⟩, fun b hx well urgent runs fresh => ?_⟩
  rw [execUrgent_admitted entry len args b ring hj only hx well urgent runs fresh]
  refine ⟨fun long => by rw [if_pos long]; rfl, fun fits listed => ?_⟩
  have known : jb.image.urgents.any (fun e => e.1 == entry) = true := by
    obtain ⟨e, he, rfl⟩ := listed
    exact List.any_eq_true.2 ⟨e, he, beq_self_eq_true _⟩
  rw [if_neg (Nat.not_lt.2 fits), known]
  exact ⟨_, rfl, congrArg Slot.urgents (State.onSlot_slot ..)⟩

end Sys2Proof.Machine

/-! ### A fault flow that removes a job only where every member's cause says so (R388, R389) -/

namespace Sys2Proof.Machine

/-- A placement of another job of context 0, which waits. -/
def otherPlacing : Placing :=
  { ctx := 0, job := 2, id := ⟨0, 0⟩, claims := [], granted := [], tables := [], writes := [], place := [], trees := [], widths := [],
    rset := 0, routes := [], depth := 0, reruns := 0, version := 0, firstNs := 0, startNs := 0, waiting := true, restart := false }

/-- The tests' halted job, whose only member here has a fault marked "Remove", while a member of another module has told its tick master
of a fault that is not; another placement is under way. -/
def awayFault : State :=
  ((Tests.haltedJob false).onSlot 0 0 fun x =>
    { x with job := { x.job with members := [0, 9] }, fr := { x.fr with faultSeen := [(9, 1)] } }).onFab fun f =>
      { f with placing := some otherPlacing }

theorem awayFault_kept : (Tests.after (exec (.faultFlow 0 1) awayFault)).job 0 1 ≠ none := by
  decide +kernel

theorem awayFault_slot : (awayFault.slot 0 0).regs.flt.valid = true ∧ (awayFault.slot 0 0).regs.flt.remove = true ∧
    (awayFault.slot 0 0).regs.flt.cause ≠ 1 := by
  decide +kernel

theorem awayFault_only : OnlyMember awayFault 0 1 0 0 := by
  unfold OnlyMember
  decide +kernel

theorem awayFault_sorted : SMap.sorted awayFault.mc.jobs := by
  decide +kernel

/-- Refutes O49: with its member here marked "Remove" a halted job is not removed, because a member of another module has told the tick
master of a fault that is not so marked. -/
theorem not_checkpointsAndRecovery : ¬ Obligations.CheckpointsAndRecovery := by
  unfold Obligations.CheckpointsAndRecovery
  intro h
  obtain ⟨-, -, -, flows, -⟩ := h 0 0 (Tests.ck false false) 0 0 1 0 { Tests.jb with halted := true, flow := false } awayFault
  obtain ⟨-, halted, -⟩ := flows rfl rfl
  obtain ⟨valid, remove, cause⟩ := awayFault_slot
  obtain ⟨t, runs, removed, -⟩ := (halted rfl awayFault_sorted).1 rfl rfl awayFault_only valid remove cause
  exact awayFault_kept (by rw [runs]; exact removed)

end Sys2Proof.Machine

/-! ### A context's tables (R356-R363, R379, R380) -/

namespace Sys2Proof.Machine

section
variable {s t u : State} {h : Hdr} {ctx g : Nat} {x : Ctx}

@[simp] theorem State.onCtx_look (s : State) (n k : Nat) (f : Ctx → Ctx) :
    (s.onCtx n f).mc.ctxs.look k = if k = n then (s.mc.ctxs.look k).map f else s.mc.ctxs.look k := SMap.look_alter _ _ _ _

@[simp] theorem State.onCtx_ctxs (s : State) (n : Nat) (f : Ctx → Ctx) : (s.onCtx n f).mc.ctxs = s.mc.ctxs.alter n f := rfl

theorem State.each_ctxs {α : Type} (f : State → α → State) (same : ∀ t a, (f t a).mc.ctxs = t.mc.ctxs) (l : List α) (s : State) :
    (s.each l f).mc.ctxs = s.mc.ctxs := State.each_same (fun t => t.mc.ctxs) f same l s

theorem State.mapSync_ctxs (s : State) (c : Chan) : (s.mapSync c).mc.ctxs = s.mc.ctxs := by
  unfold State.mapSync
  exact (s.mapUpdate_rings c _).ctxs

theorem State.syncs_ctxs (s : State) : (s.each (List.finRange 8) State.mapSync).mc.ctxs = s.mc.ctxs := by
  rw [State.each_ctxs _ State.mapSync_ctxs]

theorem State.complete_ctxs (s : State) (h : Hdr) (st res : Nat) : (s.complete h st res).mc.ctxs = s.mc.ctxs := by
  simp only [State.complete, State.onRing]
  split
  · rfl
  · split
    · exact congrArg Gnover.ctxs (State.onChan_mc ..)
    · rfl

theorem State.reserveView_ctxs (s : State) (w : View) (on : Bool) : (s.reserveView w on).mc.ctxs = s.mc.ctxs := by
  unfold State.reserveView
  split
  · refine State.each_ctxs _ (fun t e => ?_) _ _
    split <;> rfl
  · rfl

theorem State.zeroPart_ctxs (s : State) (q : ChanAddr × Nat × Nat) : (s.zeroPart q).mc.ctxs = s.mc.ctxs := by
  unfold State.zeroPart
  dsimp only
  split
  · rfl
  · split
    · exact congrArg Gnover.ctxs (State.onChan_mc ..)
    · exact congrArg Gnover.ctxs (State.onChan_mc ..)

/-- The end of a descriptor takes it off its context's table, and leaves the rest of the contexts (R362). -/
theorem State.endDesc_ctxs (s : State) (ctx handle : Nat) :
    (s.endDesc ctx handle).mc.ctxs = s.mc.ctxs.alter ctx fun y => { y with descs := y.descs.drop1 handle } := by
  unfold State.endDesc
  split
  · next gone => simp [SMap.alter, gone]
  · next x hx =>
    rw [State.onCtx_ctxs]
    split
    · split
      · rw [State.reserveView_ctxs]
      · rfl
    · rfl

theorem State.event_ctxs (s : State) (c : Chan) (code : Nat) (j : Option SlotIx) (unit : Nat) (d : BitVec 128) :
    (s.event c code j unit d).mc.ctxs = s.mc.ctxs := rfl

theorem State.endWell_ctxs (s : State) (ctx loc : Nat) (well : ((s.mc.ctxs.look ctx).bind (·.wells.look loc)).isSome) :
    (s.endWell ctx loc).mc.ctxs = s.mc.ctxs.alter ctx fun y => { y with wells := y.wells.drop1 loc } := by
  obtain ⟨⟨c, w⟩, hw⟩ := Option.isSome_iff_exists.mp well
  simp only [State.endWell, hw]
  rw [State.onCtx_ctxs, State.onChan_mc, State.each_ctxs _ fun t e => State.event_ctxs ..]

/-- The end of a well leaves the contexts in order. -/
theorem State.endWell_sorted (s : State) (ctx loc : Nat) (sorted : SMap.sorted s.mc.ctxs) : SMap.sorted (s.endWell ctx loc).mc.ctxs := by
  cases well : (s.mc.ctxs.look ctx).bind (·.wells.look loc) with
  | none => simpa only [State.endWell, well] using sorted
  | some e =>
    rw [s.endWell_ctxs ctx loc (by rw [well]; rfl)]
    exact SMap.sorted_alter _ _ _ sorted

/-- The descriptors of an allocation end before it: the context's allocations stand until then. -/
theorem State.endDescs_allocs (s : State) (ctx : Nat) (l : List (Nat × BitVec 512)) :
    ((s.each l fun t e => t.endDesc ctx e.1).mc.ctxs.look ctx).map (·.allocs) = (s.mc.ctxs.look ctx).map (·.allocs) :=
  State.each_same (fun t => (t.mc.ctxs.look ctx).map (·.allocs)) _ (fun t e => by
    rw [State.endDesc_ctxs, SMap.look_alter, if_pos rfl, Option.map_map]; rfl) l s

theorem State.endDescs_sorted (s : State) (ctx : Nat) (l : List (Nat × BitVec 512)) (sorted : SMap.sorted s.mc.ctxs) :
    SMap.sorted (s.each l fun t e => t.endDesc ctx e.1).mc.ctxs :=
  State.each_invariant (fun t => SMap.sorted t.mc.ctxs) _ (fun t e ht => by rw [State.endDesc_ctxs]; exact SMap.sorted_alter _ _ _ ht) l s sorted

/-- An allocation as it is before it leaves its context's table. -/
def State.emptied (s : State) (x : Ctx) (ctx handle : Nat) : State :=
  let s1 := s.each (x.descs.filter fun e => (tdesc e.2).handle == handle) fun t e => t.endDesc ctx e.1
  match x.allocs.look handle with
  | some a => s1.each a.parts State.zeroPart
  | none => s1

theorem State.emptied_ctxs (s : State) (x : Ctx) (ctx handle : Nat) : (s.emptied x ctx handle).mc.ctxs =
    (s.each (x.descs.filter fun e => (tdesc e.2).handle == handle) fun t e => t.endDesc ctx e.1).mc.ctxs := by
  unfold State.emptied
  dsimp only
  split
  · exact State.each_ctxs _ (fun t q => t.zeroPart_ctxs q) _ _
  · rfl

theorem State.endAlloc_eq (s : State) (ctx handle : Nat) (hx : s.mc.ctxs.look ctx = some x) :
    s.endAlloc ctx handle = (s.emptied x ctx handle).onCtx ctx fun k => { k with
      allocs := k.allocs.drop1 handle, maps := k.maps.drop1 handle,
      images := k.images.map fun e => (e.1, { e.2 with descs := e.2.descs.filter fun d => (tdesc d.2).handle != handle }) } := by
  simp only [State.endAlloc, hx]
  rfl

theorem State.endAlloc_sorted (s : State) (ctx handle : Nat) (sorted : SMap.sorted s.mc.ctxs) : SMap.sorted (s.endAlloc ctx handle).mc.ctxs := by
  cases hx : s.mc.ctxs.look ctx with
  | none => simpa only [State.endAlloc, hx] using sorted
  | some x =>
    rw [s.endAlloc_eq ctx handle hx, State.onCtx_ctxs, State.emptied_ctxs]
    exact SMap.sorted_alter _ _ _ (s.endDescs_sorted ctx _ sorted)

/-- An allocation that has ended is none of its context's (R362). -/
theorem State.endAlloc_gone (s : State) (ctx handle : Nat) (hx : s.mc.ctxs.look ctx = some x) (sorted : SMap.sorted x.allocs) :
    ∃ k, (s.endAlloc ctx handle).mc.ctxs.look ctx = some k ∧ k.allocs.look handle = none := by
  have allocs := s.endDescs_allocs ctx (x.descs.filter fun e => (tdesc e.2).handle == handle)
  rw [hx, ← State.emptied_ctxs] at allocs
  obtain ⟨k, hk, same⟩ := Option.map_eq_some_iff.mp allocs
  rw [s.endAlloc_eq ctx handle hx, State.onCtx_look, if_pos rfl, hk]
  exact ⟨_, rfl, by dsimp only; rw [same]; exact SMap.look_drop1_self _ _ sorted⟩

/-- A context without jobs ends at once (R380). -/
theorem State.endCtx_gone (s : State) (ctx : Nat) (hx : s.mc.ctxs.look ctx = some x) (k : Option Hdr) (ending : x.ending = some k)
    (jobless : (s.jobsOf ctx).isEmpty = true) (sorted : SMap.sorted s.mc.ctxs) : (s.endCtx ctx).mc.ctxs.look ctx = none := by
  have wells := State.each_invariant (fun t => SMap.sorted t.mc.ctxs) (fun t w => t.endWell ctx w) (fun t w => t.endWell_sorted ctx w)
    x.wells.keys s sorted
  have allocs := State.each_invariant (fun t => SMap.sorted t.mc.ctxs) (fun t a => t.endAlloc ctx a) (fun t a => t.endAlloc_sorted ctx a)
    (x.allocs.keys ++ x.maps.keys) _ wells
  simp only [State.endCtx, hx, ending, jobless, Bool.not_true, Bool.false_eq_true, if_false]
  generalize (s.each x.wells.keys fun t w => t.endWell ctx w).each (x.allocs.keys ++ x.maps.keys) (fun t a => t.endAlloc ctx a) = u at allocs
  have gone : (((u.onMc fun m => { m with ctxs := m.ctxs.drop1 ctx }).each (List.finRange 8) State.mapSync).mc.ctxs).look ctx = none := by
    rw [State.syncs_ctxs]
    exact SMap.look_drop1_self _ _ allocs
  split
  · rw [State.complete_ctxs]
    exact gone
  · exact gone

end

/-! ### Commands of an admin ring (R363, R378-R380) -/

section
variable {s t : State} {h : Hdr} {ctx : Nat} {x : Ctx}

theorem execCtxCreate_absent (home : Chan) (pasid : BitVec 20) (pe : Bool) (b : s.begin h 0x01 = some t) (away : t.present home = false) :
    execCtxCreate h home pasid pe s = .next (t.complete h 0x0204 0) := by
  rw [execCtxCreate, State.cmd_begun b]
  simp [away, stCmdInvalid]

theorem execCtxCreate_full (home : Chan) (pasid : BitVec 20) (pe : Bool) (b : s.begin h 0x01 = some t) (here : t.present home = true)
    (full : 128 ≤ (t.mc.ctxs.filter fun e => e.2.home == home).length) :
    execCtxCreate h home pasid pe s = .next (t.complete h 0x0205 0) := by
  rw [execCtxCreate, State.cmd_begun b]
  simp [here, full, stNoResource]

theorem execCtxCreate_creates (home : Chan) (pasid : BitVec 20) (pe : Bool) {n : Nat} (b : s.begin h 0x01 = some t)
    (here : t.present home = true) (room : (t.mc.ctxs.filter fun e => e.2.home == home).length < 128) (pf : t.ringFn h.ring = 0)
    (free : lowestFree 1024 t.mc.ctxs.keys = some n) : execCtxCreate h home pasid pe s =
      .next ((t.onMc fun m => { m with ctxs := m.ctxs.set1 n ⟨0, home, pasid, pe, [], [], [], [], [], 0, none⟩ }).complete h 0 n) := by
  rw [execCtxCreate, State.cmd_begun b]
  simp only [pf, here, free, Bool.not_true, Bool.false_eq_true, if_false, if_neg (Nat.not_le.2 room), if_true]
  rfl

theorem State.mayName_look {s : State} {h : Hdr} {ctx : Nat} (named : s.mayName h ctx = true) : ∃ x, s.mc.ctxs.look ctx = some x := by
  unfold State.mayName at named
  split at named
  · exact ⟨_, ‹_›⟩
  · exact absurd named Bool.false_ne_true

theorem execCtxDestroy_busy (b : s.begin h 0x02 = some t) (named : t.mayName h ctx = true) (jobs : t.jobsOf ctx ≠ []) :
    execCtxDestroy h ctx false s = .next (t.complete h 0x0207 0) := by
  rw [execCtxDestroy, State.cmd_begun b]
  simp [named, jobs, stJobState]

theorem execCtxDestroy_ends (force : Bool) (b : s.begin h 0x02 = some t) (named : t.mayName h ctx = true) (jobless : t.jobsOf ctx = [])
    (sorted : SMap.sorted t.mc.ctxs) : Answers (execCtxDestroy h ctx force s) fun u => u.mc.ctxs.look ctx = none := by
  obtain ⟨x, hx⟩ := State.mayName_look named
  have runs : execCtxDestroy h ctx force s = .next ((t.onCtx ctx fun k => { k with ending := some (some h) }).endCtx ctx) := by
    rw [execCtxDestroy, State.cmd_begun b]
    simp [named, jobless, State.destroyCtx]
  refine ⟨_, runs, State.endCtx_gone _ ctx (x := { x with ending := some (some h) }) ?_ (some h) rfl ?_ (SMap.sorted_alter _ _ _ sorted)⟩
  · rw [State.onCtx_look, if_pos rfl, hx]
    rfl
  · exact List.isEmpty_iff.2 jobless

theorem execWellCreate_bad (wp : WellParams) (b : s.begin h 0x03 = some t) (hx : t.mc.ctxs.look ctx = some x) (named : t.mayName h ctx = true)
    (bad : t.wellOk x.fn wp = false) : execWellCreate h ctx wp s = .next (t.complete h 0x0204 0) := by
  rw [execWellCreate, State.cmd_begun b]
  simp [hx, named, bad, stCmdInvalid]

theorem execWellCreate_creates (wp : WellParams) {l n : Nat} (b : s.begin h 0x03 = some t) (hx : t.mc.ctxs.look ctx = some x)
    (named : t.mayName h ctx = true) (ok : t.wellOk x.fn wp = true) (plain : wp.urgent = false) (hl : lowestFree 512 x.wells.keys = some l)
    (hn : lowestFree 2048 (t.chan wp.channel).wells.keys = some n) : execWellCreate h ctx wp s =
      let ring := Ring.fresh wp.sqBase wp.sqLog2 wp.cqBase wp.cqLog2 wp.vector.toNat wp.coalCount.toNat wp.coalUs.toNat
      .next (((t.onChan wp.channel fun k => { k with wells := k.wells.set1 n ⟨ring, x.fn, ctx, l, none, false, 0⟩ }).onCtx ctx fun k =>
        { k with wells := k.wells.set1 l (wp.channel, n) }).complete h 0 (l + 512 * n)) := by
  rw [execWellCreate, State.cmd_begun b]
  simp only [hx, named, ok, plain, hl, hn, Bool.not_true, Bool.false_eq_true, if_false, false_and]
  rfl

/-- A well that has ended is no ring (R380). -/
theorem execWellDestroy_ends {w : Nat} {r : Ring} (b : s.begin h 0x04 = some t) (named : t.mayName h ctx = true)
    (hr : t.ring (.well ctx w) = some r) (hx : t.mc.ctxs.look ctx = some x) (sorted : SMap.sorted x.wells) :
    Answers (execWellDestroy h ctx w s) fun u => u.ring (.well ctx w) = none := by
  have runs : execWellDestroy h ctx w s = .next ((t.endWell ctx w).complete h stSuccess 0) := by
    rw [execWellDestroy, State.cmd_begun b]
    simp only [State.wellNamed, named, if_true, hr]
  have well : ((t.mc.ctxs.look ctx).bind (·.wells.look w)).isSome := by
    unfold State.ring at hr
    dsimp only at hr
    split at hr
    · next at_ => rw [at_]; rfl
    · exact absurd hr (by simp)
  refine ⟨_, runs, ?_⟩
  simp only [State.ring]
  rw [State.complete_ctxs, State.endWell_ctxs t ctx w well, SMap.look_alter, if_pos rfl, hx]
  simp [SMap.look_drop1_self _ _ sorted]

theorem execWellResume_resumes {fn w : Nat} {r : Ring} (b : s.begin h 0x05 = some t) (ring : h.ring = .admin fn)
    (named : t.mayName h ctx = true) (hr : t.ring (.well ctx w) = some r) (stopped : r.state = .stopped) (idle : r.waiting = []) :
    Answers (execWellResume h ctx w s) fun u => u.ring (.well ctx w) = some { r with state := .active } := by
  have runs : execWellResume h ctx w s = .next ((t.onRing (.well ctx w) fun (y : Ring) =>
      ({ y with state := if y.state = .stopped then .active else y.state } : Ring).go).complete h stSuccess r.fetched.toNat) := by
    rw [execWellResume, State.cmd_begun b]
    simp only [State.wellNamed, named, if_true, hr]
  have other : ∀ u : State, (u.complete h stSuccess r.fetched.toNat).ring (.well ctx w) = u.ring (.well ctx w) := by
    intro u
    simp only [State.complete, State.onRing, ring]
    rfl
  refine ⟨_, runs, ?_⟩
  dsimp only
  rw [other, State.ring_onRing, hr]
  simp [stopped, idle, Ring.go, Ring.advance]

end

end Sys2Proof.Machine


/-! ### Allocations, mappings and descriptors (R358-R362, R185) -/

namespace Sys2Proof.Machine

section
variable {s t : State} {h : Hdr} {ctx g : Nat} {x : Ctx}

theorem hdrCtx_well (ring : h.ring = .well ctx g) : hdrCtx h = ctx := by simp [hdrCtx, ring]

theorem execAlloc_bad (a : AllocParams) (b : s.begin h 0x10 = some t) (ring : h.ring = .well ctx g) (hx : t.mc.ctxs.look ctx = some x)
    (bad : t.allocOk ctx a = false) : execAlloc h a s = .next (t.complete h 0x0204 0) := by
  rw [execAlloc, State.cmd_begun b]
  simp [hdrCtx_well ring, hx, bad, stCmdInvalid]

theorem execAlloc_lacks (a : AllocParams) (b : s.begin h 0x10 = some t) (ring : h.ring = .well ctx g) (hx : t.mc.ctxs.look ctx = some x)
    (ok : t.allocOk ctx a = true) (lacks : t.allocFor ctx a = none) : execAlloc h a s = .next (t.complete h 0x0205 0) := by
  rw [execAlloc, State.cmd_begun b]
  simp only [hdrCtx_well ring, hx, ok, lacks, Bool.not_true, Bool.false_eq_true, if_false]
  cases lowestHandle 4096 (x.allocs.keys ++ x.maps.keys) <;> rfl

theorem execAlloc_allocates (a : AllocParams) {n dva : Nat} {y : Alloc} (b : s.begin h 0x10 = some t) (ring : h.ring = .well ctx g)
    (hx : t.mc.ctxs.look ctx = some x) (ok : t.allocOk ctx a = true) (free : lowestHandle 4096 (x.allocs.keys ++ x.maps.keys) = some n)
    (hy : t.allocFor ctx a = some y) (hd : x.dvaFor (TDesc.allocBytes y) a.dva = some dva) :
    Answers (execAlloc h a s) fun u => ∃ k, u.mc.ctxs.look ctx = some k ∧ k.allocs.look n = some { y with dva := dva } := by
  have runs : execAlloc h a s = .next (((t.onCtx ctx fun k => { k with allocs := k.allocs.set1 n { y with dva := dva } }).each
      (List.finRange 8) State.mapSync).complete h stSuccess (allocResult n dva)) := by
    rw [execAlloc, State.cmd_begun b]
    simp only [hdrCtx_well ring, hx, ok, free, hy, hd, Bool.not_true, Bool.false_eq_true, if_false]
  refine ⟨_, runs, ?_⟩
  dsimp only
  rw [State.complete_ctxs, State.syncs_ctxs, State.onCtx_look, if_pos rfl, hx]
  exact ⟨_, rfl, SMap.look_set1_self _ _ _⟩

theorem execFree_inUse {hd : Nat} {y : Alloc} (b : s.begin h 0x11 = some t) (ring : h.ring = .well ctx g) (hx : t.mc.ctxs.look ctx = some x)
    (hy : x.allocs.look hd = some y) (used : t.inUse ctx hd = true) : execFree h hd s = .next (t.complete h 0x0107 0) := by
  rw [execFree, State.cmd_begun b]
  simp [hdrCtx_well ring, hx, hy, used, stDescInUse]

theorem execFree_frees {hd : Nat} {y : Alloc} (b : s.begin h 0x11 = some t) (ring : h.ring = .well ctx g) (hx : t.mc.ctxs.look ctx = some x)
    (hy : x.allocs.look hd = some y) (unused : t.inUse ctx hd = false) (sorted : SMap.sorted x.allocs) :
    Answers (execFree h hd s) fun u => ∃ k, u.mc.ctxs.look ctx = some k ∧ k.allocs.look hd = none := by
  have runs : execFree h hd s = .next (((t.endAlloc ctx hd).each (List.finRange 8) State.mapSync).complete h stSuccess 0) := by
    rw [execFree, State.cmd_begun b]
    simp [hdrCtx_well ring, hx, hy, unused]
  refine ⟨_, runs, ?_⟩
  dsimp only
  rw [State.complete_ctxs, State.syncs_ctxs]
  exact t.endAlloc_gone ctx hd hx sorted

theorem execMapHost_maps {hva size dva n l : Nat} (rights : BitVec 2) (b : s.begin h 0x12 = some t) (ring : h.ring = .well ctx g)
    (hx : t.mc.ctxs.look ctx = some x) (some_ : 0 < size) (pages : size % mib2 = 0) (ok : dvaOk dva = true)
    (free : lowestHandle 4096 (x.allocs.keys ++ x.maps.keys) = some n) (hl : x.dvaFor size dva = some l) :
    Answers (execMapHost h hva size dva rights s) fun u => ∃ k, u.mc.ctxs.look ctx = some k ∧ k.maps.look n = some ⟨hva, size, l, rights⟩ := by
  have runs : execMapHost h hva size dva rights s = .next ((t.onCtx ctx fun k => { k with maps := k.maps.set1 n ⟨hva, size, l, rights⟩ }).complete
      h stSuccess (allocResult n l)) := by
    rw [execMapHost, State.cmd_begun b]
    simp [hdrCtx_well ring, hx, some_, pages, ok, free, hl]
  refine ⟨_, runs, ?_⟩
  dsimp only
  rw [State.complete_ctxs, State.onCtx_look, if_pos rfl, hx]
  exact ⟨_, rfl, SMap.look_set1_self _ _ _⟩

theorem execDescCreate_bad {d : BitVec 512} {y : Alloc} (b : s.begin h 0x13 = some t) (ring : h.ring = .well ctx g)
    (hx : t.mc.ctxs.look ctx = some x) (hy : x.allocs.look (tdesc d).handle = some y)
    (bad : (tdesc d).check (some y) (t.roomFor ⟨tdesc d, y, 0, true⟩) ≠ 0) :
    execDescCreate h d s = .next (t.complete h ((tdesc d).check (some y) (t.roomFor ⟨tdesc d, y, 0, true⟩)) 0) := by
  rw [execDescCreate, State.cmd_begun b]
  simp only [hdrCtx_well ring, hx, hy]
  exact congrArg Host.Outcome.next (if_pos bad)

theorem execDescCreate_creates {d : BitVec 512} {y : Alloc} {n : Nat} (b : s.begin h 0x13 = some t) (ring : h.ring = .well ctx g)
    (hx : t.mc.ctxs.look ctx = some x) (hy : x.allocs.look (tdesc d).handle = some y)
    (ok : (tdesc d).check (some y) (t.roomFor ⟨tdesc d, y, 0, true⟩) = 0) (free : lowestHandle 16384 x.descs.keys = some n) :
    Answers (execDescCreate h d s) fun u => ∃ k, u.mc.ctxs.look ctx = some k ∧ k.descs.look n = some d := by
  have runs : execDescCreate h d s = .next (((t.reserveView ⟨tdesc d, y, 0, true⟩ true).onCtx ctx fun k =>
      { k with descs := k.descs.set1 n d }).complete h stSuccess n) := by
    rw [execDescCreate, State.cmd_begun b]
    simp only [hdrCtx_well ring, hx, hy, free]
    exact congrArg Host.Outcome.next (if_neg (not_not.2 ok))
  refine ⟨_, runs, ?_⟩
  dsimp only
  rw [State.complete_ctxs, State.onCtx_look, if_pos rfl, State.reserveView_ctxs, hx]
  exact ⟨_, rfl, SMap.look_set1_self _ _ _⟩

theorem execDescDestroy_destroys {d : BitVec 512} {hd : Nat} (b : s.begin h 0x14 = some t) (ring : h.ring = .well ctx g)
    (hx : t.mc.ctxs.look ctx = some x) (hdesc : x.descs.look hd = some d) (sorted : SMap.sorted x.descs) :
    Answers (execDescDestroy h hd s) fun u => ∃ k, u.mc.ctxs.look ctx = some k ∧ k.descs.look hd = none := by
  have runs : execDescDestroy h hd s = .next ((t.endDesc ctx hd).complete h stSuccess 0) := by
    rw [execDescDestroy, State.cmd_begun b]
    simp [hdrCtx_well ring, hx, hdesc]
  refine ⟨_, runs, ?_⟩
  dsimp only
  rw [State.complete_ctxs, State.endDesc_ctxs, SMap.look_alter, if_pos rfl, hx]
  exact ⟨_, rfl, SMap.look_drop1_self _ _ sorted⟩

end

/-- Settles O45. -/
theorem contextsAndAllocations : Obligations.ContextsAndAllocations := by
  unfold Obligations.ContextsAndAllocations
  intro h fn ctx w n l g home pasid pe force wp x r a y d dva hva size hd rights s t has
  simp only [exec]
  exact ⟨fun b => ⟨execCtxCreate_absent home pasid pe b, execCtxCreate_full home pasid pe b, execCtxCreate_creates home pasid pe b⟩,
    fun b named => ⟨execCtxDestroy_busy b named, execCtxDestroy_ends force b named⟩,
    fun b hx named => ⟨execWellCreate_bad wp b hx named, execWellCreate_creates wp b hx named⟩,
    fun ring named hr => ⟨fun b => execWellDestroy_ends b named hr, fun b => execWellResume_resumes b ring named hr⟩,
    fun ring hx => ⟨fun b => ⟨execAlloc_bad a b ring hx, fun ok free => ⟨execAlloc_lacks a b ring hx ok,
        execAlloc_allocates a b ring hx ok free⟩⟩,
      fun b hy => ⟨execFree_inUse b ring hx hy, execFree_frees b ring hx hy⟩, fun b => execMapHost_maps rights b ring hx,
      fun b hy => ⟨execDescCreate_bad b ring hx hy, execDescCreate_creates b ring hx hy⟩, fun b => execDescDestroy_destroys b ring hx⟩⟩

end Sys2Proof.Machine

/-! ### What reads and writes of memory leave of Gnover (R213-R262) -/

namespace Sys2Proof.Machine

section
variable {s t : State}

theorem Still.of_mc (h : t.mc = s.mc) : Still s t := congrArg Gnover.still h

theorem Still.ctxs (h : Still s t) : t.mc.ctxs = s.mc.ctxs := by
  have same : t.mc.still.ctxs = s.mc.still.ctxs := by rw [h]
  exact same

theorem Still.host (h : Still s t) : t.mc.host = s.mc.host := by
  have same : t.mc.still.host = s.mc.still.host := by rw [h]
  exact same

end

theorem State.event_still (s : State) (c : Chan) (code : Nat) (j : Option SlotIx) (unit : Nat) (d : BitVec 128) :
    Still s (s.event c code j unit d) := (s.event_minor c code j unit d).still

theorem State.fault_still (s : State) (c : Chan) (j : SlotIx) (cause : Cause) (kind : UnitKind) (unit addr : Nat) :
    Still s (s.fault c j cause kind unit addr) := (s.fault_minor c j cause kind unit addr).still

theorem State.refuseWrite_still (s : State) (c : Chan) (k : Nat) : Still s (s.refuseWrite c k) :=
  Still.ite (s.dataUe_still c _ k) ((s.dataUe_still c _ k).trans (State.event_still _ c _ _ _ _))

theorem State.forWrite_still (s : State) (c : Chan) (k : Nat) : Still s (s.forWrite c k).1 := by
  unfold State.forWrite
  dsimp only
  split
  · exact Still.refl s
  · split
    · exact s.refuseWrite_still c k
    · exact s.checked_still c k _ _

theorem State.storeAt_still (s : State) (c : Chan) (j : Option SlotIx) (k : Nat) (v : Granule) : Still s (s.storeAt c j k v) := by
  unfold State.storeAt
  dsimp only
  split <;> exact Still.of_mc rfl

theorem State.mergeBlock_still (s : State) (c : Chan) (k : Nat) : Still s (s.mergeBlock c k) := by
  refine Still.ite (Still.refl s) (Still.each _ (fun t i => ?_) _ s)
  refine Still.ite (Still.refl t) ?_
  split
  · exact Still.refl t
  · exact t.checked_still c i _ _
  · exact t.ueFound_still c i

theorem State.applyBytes_still (s : State) (c : Chan) (j : SlotIx) (k frame : Nat) (es : List Held) :
    Still s (s.applyBytes c j k frame es) := by
  unfold State.applyBytes
  extract_lets own ws clash s1 narrow
  have h1 : Still s s1 := by
    simp only [s1]
    clear_value clash
    rcases clash with _ | ⟨w, o⟩
    · exact Still.refl s
    · exact s.event_still c _ _ _ _
  clear_value s1
  split
  next s2 old hread =>
  have h2 : Still s s2 := by
    split at hread
    · exact (Prod.mk.inj hread).1 ▸ h1.trans (s1.forWrite_still c k)
    · exact (Prod.mk.inj hread).1 ▸ h1
  split
  · exact h2
  · next g0 =>
    extract_lets new s3
    have h3 : Still s s3 := ((h2.trans (s2.storeAt_still c _ k new)).trans (Still.onChan _ c _)).trans (State.mergeBlock_still _ c k)
    exact Still.ite (h3.trans (Still.onChan _ c _)) h3

theorem State.applyAtoms_still (s : State) (c : Chan) (k : Nat) (as : List HeldAtom) : Still s (s.applyAtoms c k as) := by
  refine Still.each _ (fun t u => ?_) _ s
  dsimp only
  split
  · exact Still.refl t
  · refine Still.ite ?_ (t.fault_still c _ _ _ _ _)
    split
    · next hread => exact (t.forWrite_still c k).fst hread
    · next t1 g0 hread =>
      have h1 : Still t t1 := (t.forWrite_still c k).fst hread
      exact (((h1.trans (t1.storeAt_still c _ k _)).trans (Still.onChan _ c _)).trans (State.mergeBlock_still _ c k)).trans
        (Still.onChan _ c _)

theorem State.killBlocks_still (s : State) (c : Chan) (j : SlotIx) (k0 count : Nat) (fill : Granule) (scales : List Nat) (frame : Nat) :
    Still s (s.killBlocks c j k0 count fill scales frame) := by
  unfold State.killBlocks
  extract_lets inR s0 s1
  have h1 : Still s s1 := (Still.onChan s c _).trans (Still.each _ (fun t _ => Still.onChan t c _) _ s0)
  clear_value s1
  split
  · extract_lets r
    split <;> exact h1.trans (Still.of_mc rfl)
  · split <;> exact h1.trans (Still.of_mc rfl)

theorem State.applyDecls_still (s : State) (c : Chan) (k : Nat) : Still s (s.applyDecls c k) :=
  Still.each _ (fun t _ => (Still.onChan t c _).trans (State.killBlocks_still _ c _ _ _ _ _ _)) _ s

theorem State.heldRead_still (s : State) (c : Chan) (j : Option SlotIx) (unit at_ : Nat) (v : Granule) (e : CodeWord) :
    Still s (s.heldRead c j unit at_ v e).1 := by
  unfold State.heldRead
  split
  · exact Still.refl s
  · split
    · exact Still.refl s
    · exact s.logCe_still c _ _ _ _ _
    · dsimp only
      split
      · exact ((s.logUe_still c _ _ _ _).trans (State.event_still _ c _ _ _ _)).trans (State.fault_still _ c _ _ _ _ _)
      · exact s.logUe_still c _ _ _ _

theorem State.foldUpto_still (s : State) (c : Chan) (p : PumpIx) (g rank : Nat) : Still s (s.foldUpto c p g rank) := by
  unfold State.foldUpto
  split
  · extract_lets old new j s0
    refine Still.ite (Still.refl s) ?_
    have h0 : Still s s0 := Still.of_mc rfl
    clear_value s0
    split
    · next hread => exact (h0.trans (s0.forWrite_still c _)).fst hread
    · next s1 v hread =>
      have h1 : Still s s1 := (h0.trans (s0.forWrite_still c _)).fst hread
      refine Still.ite (h1.trans (s1.dataUe_still c _ _)) ?_
      split
      next s2 sum hfold =>
      have h2 : Still s1 s2 := by
        have := Still.foldl (fun (a : State × Granule) (ib : Inbound) =>
          ((a.1.heldRead c j (physOf (s.chan c) p) g ib.val ib.up).1, a.2 + (a.1.heldRead c j (physOf (s.chan c) p) g ib.val ib.up).2))
          (fun a b => a.1.heldRead_still c _ _ _ _ _) old (s1, v)
        exact this.fst hfold
      exact (h1.trans h2).trans (s2.storeAt_still c _ _ _)
  · exact Still.refl s

theorem State.applyFrame_still (s : State) (c : Chan) (k frame : Nat) : Still s (s.applyFrame c k frame) := by
  unfold State.applyFrame
  extract_lets mineE mineA es as s0 s1
  have h1 : Still s s1 := by
    simp only [s1]
    split
    · exact (Still.onChan s c _).trans (s0.foldUpto_still c _ _ _)
    · exact Still.onChan s c _
  clear_value s1
  split
  next s2 vs hfold =>
  have h2 : Still s s2 := by
    have := Still.foldl (fun (a : State × List Held) (e : Held) =>
      ((a.1.heldRead c (some e.slot) ((keySlice k).elim 0 fun x => physOf (s.chan c) x.1) (k % 2 ^ 19) e.data e.up).1,
        a.2 ++ [{ e with data := (a.1.heldRead c (some e.slot) ((keySlice k).elim 0 fun x => physOf (s.chan c) x.1) (k % 2 ^ 19)
          e.data e.up).2, up := 0 }]))
      (fun a b => a.1.heldRead_still c _ _ _ _ _) es (s1, [])
    exact h1.trans (this.fst hfold)
  extract_lets s3 s4
  have h3 : Still s s3 := by
    simp only [s3]
    split
    · exact h2
    · exact h2.trans (s2.applyBytes_still c _ _ _ _)
  have h4 : Still s s4 := Still.ite h3 (h3.trans (s3.applyAtoms_still c k as))
  clear_value s4
  split
  · exact Still.ite h4 (h4.trans (Still.of_mc rfl))
  · exact h4

theorem State.applyDue_still (s : State) (c : Chan) (k : Nat) : Still s (s.applyDue c k) :=
  (s.applyDecls_still c k).trans (Still.each _ (fun t f => t.applyFrame_still c k f) _ _)

theorem State.settle_still (s : State) (c : Chan) (k : Nat) : Still s (s.settle c k) := by
  unfold State.settle
  dsimp only
  split
  · exact (s.applyDue_still c k).trans (State.foldUpto_still _ c _ _ _)
  · exact s.applyDue_still c k

theorem State.deadRead_still (s : State) (c : Chan) (j : SlotIx) (k : Nat) : Still s (s.deadRead c j k) := by
  unfold State.deadRead
  extract_lets x s1 s2
  have h1 : Still s s1 := Still.of_mc rfl
  have h2 : Still s s2 := Still.of_mc rfl
  exact Still.ite (h1.trans (Still.onChan _ c _)) (Still.ite h2 ((h2.trans (s2.event_still c _ _ _ _)).trans (Still.onChan _ c _)))

theorem State.readBase_still (s : State) (c : Chan) (j : Option SlotIx) (k : Nat) : Still s (s.readBase c j k).1 := by
  unfold State.readBase
  extract_lets s1 h e
  have h1 : Still s s1 := s.settle_still c k
  clear_value s1
  split
  · dsimp only
    split
    · exact h1.trans (s1.deadRead_still c _ k)
    · exact h1
  · split
    · exact h1
    · exact h1.trans (s1.checked_still c k _ e)

theorem State.readShared_still (s : State) (c : Chan) (j : Option SlotIx) (k : Nat) : Still s (s.readShared c j k).1 := by
  unfold State.readShared
  split
  · split
    · split
      · exact s.heldRead_still c _ _ _ _ _
      · exact s.readBase_still c j k
    · exact s.readBase_still c j k
  · exact s.readBase_still c j k

/-! ### Reads of a window (R186) -/

/-- A reader that leaves Gnover's own as it is. -/
def Reader.Still (rd : Reader) : Prop := ∀ s ch k, Machine.Still s (rd s ch k).1

theorem hostRead_stillReader : Reader.Still hostRead := by
  intro s ch k
  unfold hostRead
  split
  · exact s.readShared_still _ none k
  · exact Still.of_mc rfl

section
variable {rd : Reader} (hr : rd.Still)
include hr

theorem View.readGran_still (s : State) (w : View) (v i : Nat) : Still s (w.readGran rd s v i).1 := by
  unfold View.readGran
  split
  · exact hr ..
  · exact Still.refl s

theorem View.readBits_still (s : State) (w : View) (sp : Nat × List Int) (k n : Nat) : Still s (w.readBits rd s sp k n).1 := by
  unfold View.readBits
  dsimp only
  split
  · exact View.readGran_still hr ..
  · exact (View.readGran_still hr ..).trans (View.readGran_still hr ..)

theorem View.readScalar_still (s : State) (w : View) (ix : List Int) : Still s (w.readScalar rd s ix).1 := by
  unfold View.readScalar
  split
  · exact View.readBits_still hr ..
  · exact Still.refl s

theorem View.readBlock_still (s : State) (w : View) (ix : List Int) : Still s (w.readBlock rd s ix).1 := by
  unfold View.readBlock
  split
  · exact (View.readBits_still hr ..).trans (View.readBits_still hr ..)
  · exact Still.refl s

omit hr in
theorem readEach_steady {α β : Type} {f : State → α → State × β} (hf : ∀ t a, Still t (f t a).1) (l : List α) (s : State) :
    Still s (readEach f s l).1 := by
  induction l generalizing s with
  | nil => exact Still.refl s
  | cons a l ih => exact (hf s a).trans (ih _)

theorem View.readScalars_still (s : State) (w : View) (win : Window) : Still s (w.readScalars rd s win).1 :=
  readEach_steady (fun t _ => View.readScalar_still hr t w _) _ s

theorem View.readRowBlocks_still (s : State) (w : View) (win : Window) (outer : List Nat) : Still s (w.readRowBlocks rd s win outer).1 :=
  readEach_steady (fun t _ => View.readBlock_still hr t w _) _ s

theorem View.pack_still (s : State) (w : View) (win : Window) : Still s (w.pack rd s win).1 := by
  unfold View.pack
  split
  · exact Still.foldl (fun (acc : State × List (BitVec 8)) o => ((w.readRowBlocks rd acc.1 win o).1,
      acc.2 ++ packRuns w.d.format (w.readRowBlocks rd acc.1 win o).2.length (w.readRowBlocks rd acc.1 win o).2))
      (fun acc o => View.readRowBlocks_still hr acc.1 w win o) _ (s, [])
  · exact View.readScalars_still hr s w win

end

end Sys2Proof.Machine


/-! ### Host data at its home (R56, R217, R369) -/

namespace Sys2Proof.SMap

/-- What a map holds after a write of one key. -/
theorem look_set1 {α : Type} (m : SMap α) (k j : Nat) (v : α) : look (set1 m k v) j = if j = k then some v else look m j := by
  induction m with
  | nil => simp [set1, look]
  | cons e m ih =>
    obtain ⟨i, a⟩ := e
    unfold set1
    split
    · next same =>
      subst same
      by_cases hj : j = k <;> simp [look, hj]
    · next ne =>
      split
      · next lt =>
        by_cases hj : j = k
        · simp [look, hj]
        · by_cases hlt : j < k
          · simp [look, hj, hlt, Nat.ne_of_lt (Nat.lt_trans hlt lt), Nat.lt_trans hlt lt]
          · simp [look, hj, hlt]
      · next ge =>
        by_cases hj : j = k
        · subst hj
          simp [look, ne, ge, ih]
        · simp only [look, ih, hj, if_false]

end Sys2Proof.SMap

namespace Sys2Proof.Machine

/-- Every channel shows the same of itself. -/
def Alike {α : Type} (f : Channel → α) (s t : State) : Prop := ∀ d, f (t.chan d) = f (s.chan d)

section
variable {α : Type} {f : Channel → α} {s t u : State}

theorem Alike.refl (s : State) : Alike f s s := fun _ => rfl

theorem Alike.trans (a : Alike f s t) (b : Alike f t u) : Alike f s u := fun d => (b d).trans (a d)

theorem Alike.ite {b : Prop} [Decidable b] (ht : Alike f s t) (hu : Alike f s u) : Alike f s (if b then t else u) := by
  split
  · exact ht
  · exact hu

theorem Alike.each {β : Type} (g : State → β → State) (h : ∀ t a, Alike f t (g t a)) (l : List β) (s : State) : Alike f s (s.each l g) :=
  State.each_invariant (Alike f s) g (fun t a ht => ht.trans (h t a)) l s (Alike.refl s)

theorem Alike.onChan (s : State) (c : Chan) (g : Channel → Channel) (h : ∀ x, f (g x) = f x) : Alike f s (s.onChan c g) := by
  intro d
  by_cases hd : d = c
  · subst hd
    rw [State.onChan_chan]
    exact h _
  · rw [State.onChan_chan_ne _ _ _ _ hd]

theorem Alike.onMc (s : State) (g : Gnover → Gnover) : Alike f s (s.onMc g) := fun _ => rfl

theorem Alike.onSlot (hf : ∀ (x : Channel) v, f { x with slots := v } = f x) (s : State) (c : Chan) (j : SlotIx) (g : Slot → Slot) :
    Alike f s (s.onSlot c j g) := Alike.onChan s c _ fun x => hf x _

theorem State.onRing_alike (hw : ∀ (x : Channel) v, f { x with wells := v } = f x) (s : State) (id : RingId) (g : Ring → Ring) :
    Alike f s (s.onRing id g) := by
  unfold State.onRing
  split
  · exact Alike.onMc s _
  · split
    · exact Alike.onChan s _ _ fun x => hw x _
    · exact Alike.refl s

theorem State.complete_alike (hw : ∀ (x : Channel) v, f { x with wells := v } = f x) (s : State) (h : Hdr) (st res : Nat) :
    Alike f s (s.complete h st res) := s.onRing_alike hw _ _

theorem State.hostDone_alike (hw : ∀ (x : Channel) v, f { x with wells := v } = f x) (s : State) (h : Hdr) (bytes : Nat) :
    Alike f s (s.hostDone h bytes) := Alike.ite (Alike.refl s) (s.complete_alike hw h _ _)

theorem State.sendFlit_alike (hp : ∀ (x : Channel) v, f { x with ports := v } = f x) (s : State) (c : Chan) (port : PortIx) (fl : OutFlit) :
    Alike f s (s.sendFlit c port fl) := by
  unfold State.sendFlit State.sendNow
  exact Alike.ite ((Alike.onChan s c _ fun x => hp x _).trans fun _ => rfl) (Alike.onChan s c _ fun x => hp x _)

theorem State.sendMgmt_alike (hp : ∀ (x : Channel) v, f { x with ports := v } = f x) (s : State) (c : Chan) (d : ChanAddr) (r : MgmtRec) :
    Alike f s (s.sendMgmt c d r) := by
  unfold State.sendMgmt State.sendTo
  dsimp only
  split
  · exact s.sendFlit_alike hp c _ _
  · exact Alike.refl s

end

/-! #### Notices of bound inputs -/

section
variable {α : Type} {f : Channel → α} (hs : ∀ (x : Channel) v, f { x with slots := v } = f x)
  (hp : ∀ (x : Channel) v, f { x with ports := v } = f x)
include hs

theorem State.inputNotice_alike (s : State) (c : Chan) (j : SlotIx) (a : ChanAddr) (frame : Nat) : Alike f s (s.inputNotice c j a frame) := by
  have onSlot := fun (t : State) (g : Slot → Slot) => Alike.onSlot hs t c j g
  unfold State.inputNotice
  extract_lets x s1
  have h1 : Alike f s s1 := onSlot s _
  clear_value s1
  refine Alike.ite ?_ (Alike.refl s)
  split
  · exact Alike.ite (h1.trans ((onSlot s1 _).trans (onSlot _ _))) h1
  · exact h1

include hp

theorem State.inputGot_alike (s : State) (c : Chan) (j : SlotIx) (input frame bytes : Nat) : Alike f s (s.inputGot c j input frame bytes) := by
  have onSlot := fun (t : State) (g : Slot → Slot) => Alike.onSlot hs t c j g
  unfold State.inputGot
  extract_lets x old got
  split
  · exact Alike.refl s
  · next jb _ =>
    extract_lets want new s1 here done s2
    have h2 : Alike f s s2 := Alike.ite ((onSlot s _).trans (onSlot _ _)) (onSlot s _)
    clear_value s2
    refine Alike.ite ?_ h2
    split
    · exact h2.trans (State.inputNotice_alike hs s2 _ _ _ _)
    · exact h2.trans (s2.sendMgmt_alike hp c _ _)
    · exact h2

end

/-- A write that merges with no held entry, at a home with room, becomes one (R217). -/
theorem State.hold_adds (s : State) (c : Chan) (j : SlotIx) (frame : Nat) (r : WriteRec) (room : HoldRoom s c j (offKey r.off))
    (fresh : ∀ e ∈ (s.chan c).held, ¬(e.slot = j ∧ e.frame = frame ∧ offKey e.off = offKey r.off ∧ e.key = r.key)) :
    s.hold c j frame r = s.onChan c fun x =>
      { x with held := x.held ++ [⟨j, frame, keyOff (offKey r.off), r.mask, r.data, r.key, 0⟩] } := by
  have none_ : (s.chan c).held.any (fun e => e.slot == j && e.frame == frame && offKey e.off == offKey r.off && e.key == r.key) = false := by
    rw [List.any_eq_false]
    intro e he
    simpa [and_assoc] using fresh e he
  unfold State.hold
  simp only [none_, Bool.false_eq_true, if_false]
  unfold HoldRoom at room
  cases at_ : (s.chan c).heldIn j (offKey r.off) with
  | none =>
    rw [at_] at room
    exact if_neg (Nat.not_le.2 room)
  | some p =>
    rw [at_] at room
    exact if_neg (Nat.not_le.2 room)

theorem execHostDataReceipt_yields (c : Chan) (j : SlotIx) (input frame : Nat) (r : WriteRec) (s : State) (urgent : s.urgentFirst = true) :
    execHostDataReceipt c j input frame [r] s = .next s := by
  unfold execHostDataReceipt
  dsimp only
  split
  · rfl
  · exact if_pos (.inr (.inr (.inl urgent)))

/-- Data of a bound input are held at their home, under the host's key (R369). -/
theorem execHostDataReceipt_holds (c : Chan) (j : SlotIx) (input frame : Nat) (r : WriteRec) (s : State) {jb : Job} (out : s.mc.inReset = false)
    (turn : s.urgentFirst = false) (hj : s.job (s.slot c j).job.ctx (s.slot c j).job.job = some jb) (live : (s.slot c j).live = true)
    (early : s.tickTaken (s.slot c j).job.ctx (s.slot c j).job.job frame = false) (room : HoldRoom s c j (offKey r.off))
    (fresh : ∀ e ∈ (s.chan c).held, ¬(e.slot = j ∧ e.frame = prevFrame frame ∧ offKey e.off = offKey r.off ∧ e.key = hostKey)) :
    Answers (execHostDataReceipt c j input frame [r] s) fun u => (u.chan c).held = (s.chan c).held ++
      [⟨j, prevFrame frame, keyOff (offKey r.off), r.mask, r.data, hostKey, 0⟩] := by
  have held := s.hold_adds c j (prevFrame frame) { r with key := hostKey } room fresh
  unfold execHostDataReceipt
  extract_lets x s1
  have hx : s.job x.job.ctx x.job.job = some jb := hj
  simp -zeta only [hx]
  extract_lets mine rest now s2
  have go : ¬(!x.live ∨ s.mc.inReset ∨ s.urgentFirst ∨ s.tickTaken x.job.ctx x.job.job frame) := by
    simp [x, live, out, turn, early]
  rw [if_neg go]
  have held1 : (s1.chan c).held = (s.chan c).held ++ [⟨j, prevFrame frame, keyOff (offKey r.off), r.mask, r.data, hostKey, 0⟩] := by
    simp only [s1, State.each, List.foldl_cons, List.foldl_nil]
    rw [State.inputGot_alike (f := Channel.held) (fun _ _ => rfl) (fun _ _ => rfl), held, State.onChan_chan]
  refine ⟨_, rfl, ?_⟩
  have last := Alike.each (f := Channel.held) (fun (t : State) (k : HostCopy) => t.hostDone k.hdr k.bytes)
    (fun t k => t.hostDone_alike (fun _ _ => rfl) k.hdr k.bytes) (now.filter fun k => k.left.isEmpty) s2 c
  exact last.trans held1

end Sys2Proof.Machine


/-! ### Copies and the aperture (R355, R368) -/

namespace Sys2Proof.Machine

section
variable {s t : State} {h : Hdr}

theorem State.complete_outputs (s : State) (h : Hdr) (st res : Nat) : (s.complete h st res).outputs = s.outputs := by
  simp only [State.complete, State.onRing]
  split
  · rfl
  · split <;> rfl

/-- The source of a copy as its operands name it; a dead declaration has none. -/
def State.copySource (t : State) (h : Hdr) (op : CopyOp) (k : CopyParams) : Option (Option HostSide) :=
  if op = .dead then some none else (t.hostSide (hdrCtx h) k.src k.srcWin).map some

theorem State.hostCopy_begun {op : CopyOp} {k : CopyParams} (b : s.begin h 0x20 = some t) : s.hostCopy h op k = .next
    (match t.copySource h op k, t.hostSide (hdrCtx h) k.dst k.dstWin with
      | some a, some b => if t.copyStatus (hdrCtx h) op k a b = stSuccess then t.runCopy h (hdrCtx h) op k a b
        else t.complete h (t.copyStatus (hdrCtx h) op k a b) 0
      | _, _ => t.complete h stDescInvalid 0) := by
  rw [State.hostCopy, State.cmd_begun b]
  rfl

theorem State.hostCopy_homeless {op : CopyOp} {k : CopyParams} (b : s.begin h 0x20 = some t)
    (none_ : t.hostSide (hdrCtx h) k.dst k.dstWin = none) : s.hostCopy h op k = .next (t.complete h 0x0101 0) := by
  rw [State.hostCopy_begun b, none_]
  cases t.copySource h op k <;> rfl

theorem State.hostCopy_sided {op : CopyOp} {k : CopyParams} {d : HostSide} {z : Option HostSide} (b : s.begin h 0x20 = some t)
    (dst : t.hostSide (hdrCtx h) k.dst k.dstWin = some d) (src : t.copySource h op k = some z) : s.hostCopy h op k = .next
    (if t.copyStatus (hdrCtx h) op k z d = 0 then t.runCopy h (hdrCtx h) op k z d else t.complete h (t.copyStatus (hdrCtx h) op k z d) 0) := by
  rw [State.hostCopy_begun b, dst, src]
  rfl

theorem State.hostBursts_still (s : State) (ks : List (ChanAddr × Nat)) : Still s (s.hostBursts ks) := by
  refine Still.each _ (fun t c => Still.each _ (fun u b => ?_) _ t) _ s
  split
  · exact u.raise_still c _ _ _ _ _
  · exact Still.refl u

theorem State.ringFn_congr {s t : State} (same : t.mc.ctxs = s.mc.ctxs) (id : RingId) : t.ringFn id = s.ringFn id := by
  simp only [State.ringFn, same]

/-- A copy to a host buffer writes exactly its length (R368). -/
theorem State.runCopy_gives (t : State) (h : Hdr) (ctx : Nat) (k : CopyParams) (vw : View) (win : Window) (at_ len : Nat) (data : List (BitVec 8)) :
    ∃ bs : List (BitVec 8), bs.length = len ∧
      Output.hostWrite (t.ringFn h.ring) at_ bs ∈ (t.runCopy h ctx .copy k (some (.view vw win)) (.buf at_ len data)).outputs := by
  unfold State.runCopy
  extract_lets owner sr s0 s1 put
  have h0 : Still t s0 := Still.ite (Still.of_mc rfl) (Still.refl t)
  have h1 : Still t s1 := h0.trans (s0.hostBursts_still _)
  clear_value s1
  have h2 : Still t (vw.pack hostRead s1 win).1 := h1.trans (View.pack_still hostRead_stillReader s1 vw win)
  rw [← State.ringFn_congr h2.ctxs]
  show ∃ bs : List (BitVec 8), bs.length = len ∧ _ ∈ (State.giveHost _ h at_ len _).outputs
  unfold State.giveHost
  rw [State.complete_outputs]
  refine ⟨_, ?_, List.mem_append_right _ (List.mem_singleton_self _)⟩
  rw [List.length_take, List.length_append, List.length_replicate]
  omega

end

/-! #### The aperture -/

theorem execApertureRead_open {off len : Nat} {s : State} (up : s.hostUp = true) (op : s.mc.host.dbgOpen = true) :
    execApertureRead off len s = .next { s with outputs := s.outputs ++ [.bytes ((List.range len).map fun i => s.apertureByte (off + i))] } := by
  simp [execApertureRead, onlyIf, up, op, State.emit]

theorem execApertureRead_closed {off len : Nat} {s : State} (up : s.hostUp = true) (op : s.mc.host.dbgOpen = false) :
    execApertureRead off len s = .next { s with outputs := s.outputs ++ [.unsupported] } := by
  simp [execApertureRead, onlyIf, up, op, State.emit]

theorem execApertureWrite_closed {off : Nat} {data : List (BitVec 8)} {s : State} (op : s.mc.host.dbgOpen = false) :
    execApertureWrite off data s = .next s := by
  simp [execApertureWrite, onlyIf, op]

/-- A fold in which one step alone acts is that step. -/
theorem foldl_range_one {α : Type} (f : α → Nat → α) (i : Nat) (skip : ∀ a k, k ≠ i → f a k = a) (n : Nat) (a : α) :
    (List.range n).foldl f a = if i < n then f a i else a := by
  induction n with
  | zero => rfl
  | succ n ih =>
    rw [List.range_succ, List.foldl_append, ih, List.foldl_cons, List.foldl_nil]
    by_cases hi : i = n
    · subst hi
      simp
    · rw [skip _ n (Ne.symm hi)]
      exact if_congr (by omega) rfl rfl

theorem aperturePart_byte (off : Nat) (v : BitVec 8) :
    aperturePart off [v] (off / 32 * 32) = (byteMask (off % 32) 1, (v.setWidth 256 : Granule) <<< (8 * (off % 32))) := by
  unfold aperturePart
  rw [foldl_range_one _ (off % 32), if_pos (Nat.mod_lt _ (by decide))]
  · have le : off ≤ off / 32 * 32 + off % 32 := by omega
    have first : off / 32 * 32 + off % 32 - off = 0 := by omega
    simp only [le, if_true, first]
    simp
  · intro a k ne
    have miss : (if off ≤ off / 32 * 32 + k then [v][off / 32 * 32 + k - off]? else none) = none := by
      split
      · rw [List.getElem?_eq_none_iff]
        simp only [List.length_singleton]
        omega
      · rfl
    rw [miss]

/-- A number and the multiple of a part under it lie in the same multiple of the whole. -/
theorem part_div (x a m : Nat) : (x / a * a) / (a * m) = x / (a * m) := by
  rw [← Nat.div_div_eq_div_mul, ← Nat.div_div_eq_div_mul]
  rcases Nat.eq_zero_or_pos a with rfl | pos
  · simp
  · rw [Nat.mul_div_cancel _ pos]

theorem part_mod (x a m : Nat) : (x / a * a) % (a * m) = x % (a * m) / a * a := by
  rw [Nat.mul_comm (x / a) a, Nat.mul_mod_mul_left, Nat.mod_mul_right_div_self, Nat.mul_comm]

theorem add_part (b n off a : Nat) (pos : 0 < a) : b * (a * n) + off / a * a = (b * (a * n) + off) / a * a := by
  rw [← Nat.mul_assoc, Nat.mul_comm b a, Nat.mul_assoc, Nat.mul_add_div pos, Nat.add_mul, Nat.mul_comm a]

/-- The aperture with its page and window as parameters: 2^30 and 2^49 bytes in the model. -/
def State.windowAt (s : State) (page window off : Nat) : Option (Chan × Nat) :=
  let a := s.mc.host.dbgBase.toNat * page + off
  match s.localChan (BitVec.ofNat 15 (a / window)) with
  | some c => if s.present c && (s.chan c).validKey (a % window / 32) then some (c, a % window) else none
  | none => none

theorem State.apertureAt_eq (s : State) (off : Nat) : s.apertureAt off = s.windowAt (2 ^ 30) (2 ^ 49) off := rfl

theorem State.windowAt_granule {s : State} {off o n m : Nat} {c : Chan} (at_ : s.windowAt (32 * n) (32 * m) off = some (c, o)) :
    s.windowAt (32 * n) (32 * m) (off / 32 * 32) = some (c, o / 32 * 32) ∧ o % 32 = off % 32 := by
  unfold State.windowAt at at_ ⊢
  dsimp only at at_ ⊢
  generalize s.mc.host.dbgBase.toNat = b at at_ ⊢
  have byte : (b * (32 * n) + off) % (32 * m) % 32 = off % 32 := by
    rw [Nat.mod_mul_right_mod, ← Nat.mul_assoc, Nat.mul_comm b 32, Nat.mul_assoc, Nat.mul_add_mod]
  rw [add_part b n off 32 (by decide), part_div, part_mod]
  split at at_
  · next d _ =>
    split at at_
    · next valid =>
      obtain ⟨rfl, rfl⟩ := Prod.mk.inj (Option.some.inj at_)
      rw [Nat.mul_div_cancel _ (by decide : 0 < 32), if_pos valid]
      exact ⟨rfl, byte⟩
    · exact absurd at_ (by simp)
  · exact absurd at_ (by simp)

/-- A byte and the first byte of its granule lie in the same granule. -/
theorem State.apertureAt_granule {s : State} {off o : Nat} {c : Chan} (at_ : s.apertureAt off = some (c, o)) :
    s.apertureAt (off / 32 * 32) = some (c, o / 32 * 32) ∧ o % 32 = off % 32 := by
  have page : 2 ^ 30 = 32 * 2 ^ 25 := by norm_num
  have window : 2 ^ 49 = 32 * 2 ^ 44 := by norm_num
  rw [State.apertureAt_eq, page, window] at at_ ⊢
  exact State.windowAt_granule at_

/-- One byte of a granule is not all of it. -/
theorem byteMask_one_ne (i : Nat) (hi : i < 32) : byteMask i 1 ≠ 0xFFFFFFFF#32 := by
  intro same
  have number := congrArg BitVec.toNat same
  have le : 2 ^ i ≤ 2 ^ 31 := Nat.pow_le_pow_right (by decide) (by omega)
  simp only [byteMask, BitVec.toNat_ofNat] at number
  omega

theorem Slice.get_put (sl : Slice) (g x : Nat) (v : Granule) : (sl.put g v).get x = if x = g then v else sl.get x := by
  unfold Slice.get Slice.put
  dsimp only
  rw [SMap.look_set1]
  split <;> rfl

/-- A write of a live granule of a slice. -/
theorem Channel.store_slice (h : Channel) {k g : Nat} {p : PumpIx} (v : Granule) (hk : keySlice k = some (p, g))
    (live : deadAt h.pumps[p.val].slice.dead (g / 128) = none) (q : PumpIx) :
    ((h.store k v).pumps[q.val]).slice = if q = p then (h.pumps[p.val].slice).put g v else (h.pumps[q.val]).slice := by
  unfold Channel.store
  simp only [hk]
  by_cases hq : q = p
  · subst hq
    rw [upd_get_self, if_pos rfl]
    simp only [live]
  · rw [upd_get_ne _ _ _ _ hq, if_neg hq]

theorem Channel.dropLine_get (h : Channel) (a : FabAddr) (q : PumpIx) (x : Nat) :
    (((h.dropLine a).pumps[q.val]).slice).get x = ((h.pumps[q.val]).slice).get x := by
  simp only [Channel.dropLine, Vector.getElem_map]
  rfl

/-- A write of part of a live, clean granule of a slice (R234). -/
theorem State.putAt_slice (s : State) (c : Chan) {k g : Nat} {p : PumpIx} (mask : BitVec 32) (v : Granule) (hk : keySlice k = some (p, g))
    (live : deadAt (s.slice c p).dead (g / 128) = none) (clean : (s.slice c p).upset.readD 0 g = 0) (part : mask ≠ 0xFFFFFFFF#32) :
    s.putAt c k mask v = s.onChan c fun h => (h.store k (gMerge ((s.slice c p).get g) v mask)).dropLine ⟨s.addrOf c, keyOff k⟩ := by
  have upset : (s.chan c).upsetAt k = 0 := by
    simp only [Channel.upsetAt, hk]
    exact clean
  have raw : (s.chan c).raw k = (s.slice c p).get g := by
    unfold Channel.raw
    simp only [hk]
    rw [show deadAt ((s.chan c).pumps[p.val]).slice.dead (g / 128) = none from live]
    rfl
  unfold State.putAt State.forWrite State.storeAt State.mergeBlock
  simp only [part, if_false, upset, if_true, Option.map_some, raw, hk, Option.isSome_some]
  cases Channel.splitSpills (s.chan c) k <;> exact State.onChan_onChan ..

theorem State.each_one {α : Type} (s : State) (a : α) (f : State → α → State) : s.each [a] f = f s a := rfl

theorem execApertureWrite_writes {off o g : Nat} {v : BitVec 8} {s : State} {c : Chan} {p : PumpIx} (up : s.hostUp = true)
    (op : s.mc.host.dbgOpen = true) (at_ : s.apertureAt off = some (c, o)) (hk : keySlice (o / 32) = some (p, g))
    (live : deadAt (s.slice c p).dead (g / 128) = none) (clean : (s.slice c p).upset.readD 0 g = 0) :
    Answers (execApertureWrite off [v] s) fun u => OnlyChan c s u ∧ ∀ q x, (u.slice c q).get x = if q = p ∧ x = g then
      gMerge ((s.slice c p).get g) ((v.setWidth 256 : Granule) <<< (8 * (o % 32))) (byteMask (o % 32) 1) else (s.slice c q).get x := by
  obtain ⟨granule, byte⟩ := State.apertureAt_granule at_
  have grans : sortUniq ((List.range [v].length).map fun i => (off + i) / 32 * 32) = [off / 32 * 32] := by
    simp [sortUniq, insUniq]
  have runs : execApertureWrite off [v] s = .next (s.putAt c (o / 32) (byteMask (o % 32) 1) ((v.setWidth 256 : Granule) <<< (8 * (o % 32)))) := by
    unfold execApertureWrite onlyIf
    extract_lets gs
    have one : gs = [off / 32 * 32] := grans
    rw [one, up, op, Bool.and_self, if_pos rfl, State.each_one, granule]
    dsimp only
    rw [aperturePart_byte, byte, Nat.mul_div_cancel _ (by decide : 0 < 32)]
  refine ⟨_, runs, ?_⟩
  dsimp only
  rw [State.putAt_slice s c _ _ hk live clean (byteMask_one_ne _ (Nat.mod_lt _ (by decide)))]
  refine ⟨OnlyChan.onChan c s _, fun q x => ?_⟩
  rw [State.slice, State.pump, State.onChan_chan, Channel.dropLine_get, Channel.store_slice _ _ hk live]
  by_cases hq : q = p
  · subst hq
    rw [if_pos rfl, Slice.get_put]
    simp only [true_and]
    rfl
  · simp only [hq, if_false, false_and]
    rfl

/-- Settles O46. -/
theorem hostCopies : Obligations.HostCopies := by
  unfold Obligations.HostCopies
  intro h k op b win vw at_ len data c j input frame off o g r jb p v s t cmd src
  have copies : exec cmd s = s.hostCopy h op k := by cases op <;> rfl
  rw [copies]
  simp only [exec]
  refine ⟨fun beg => ⟨State.hostCopy_homeless beg, fun dst z hz => ?_⟩, execHostDataReceipt_yields c j input frame r s,
    execHostDataReceipt_holds c j input frame r s, fun up => ⟨execApertureRead_open up, fun shut =>
      ⟨execApertureRead_closed up shut, execApertureWrite_closed shut⟩, execApertureWrite_writes up⟩⟩
  rw [State.hostCopy_sided beg dst hz]
  refine ⟨fun bad => by rw [if_neg bad], fun ok => ?_⟩
  rw [if_pos ok]
  refine ⟨rfl, fun hop hzv hb => ?_⟩
  subst hop hzv hb
  obtain ⟨bs, long, wrote⟩ := t.runCopy_gives h (hdrCtx h) k vw win at_ len data
  exact ⟨_, rfl, bs, long, wrote⟩

end Sys2Proof.Machine

/-! ### Rings, doorbells and vectors (R363-R366, R370) -/

namespace Sys2Proof.Machine

theorem OnlyMc.onMc (s : State) (f : Gnover → Gnover) : OnlyMc s (s.onMc f) := rfl

/-- A ring in which no descriptor waits has nothing to go on with. -/
theorem Ring.go_idle {r : Ring} (idle : r.waiting = []) : r.go = r := by
  rw [Ring.go, idle]
  rfl

theorem Ring.told_waiting (r : Ring) (n : Nat) : (r.told n).waiting = r.waiting := rfl

/-- A doorbell that a ring takes moves PROD (R364). -/
theorem Ring.doorbell_takes {r : Ring} {v : BitVec 64} (takes : RingTakes r v) (n : Nat) : r.doorbell v n = r.rung v n := by
  obtain ⟨state, ahead, room, idle⟩ := takes
  unfold Ring.doorbell Ring.rung
  dsimp only
  rw [if_neg state, if_neg (not_lt.2 ahead), if_neg (not_lt.2 room)]
  exact Ring.go_idle idle

/-- A doorbell too far ahead puts the ring in ERROR, PROD as it was (R364). -/
theorem Ring.doorbell_ahead {r : Ring} {v : BitVec 64} (state : r.state ≠ .error) (idle : r.waiting = [])
    (ahead : 0 ≤ (v.setWidth 32 - r.fetched : BitVec 32).toInt) (far : 2 ^ r.sqLog2 < (v.setWidth 32 - r.fetched : BitVec 32).toNat) (n : Nat) :
    r.doorbell v n = { r with cqCons := v.extractLsb' 32 32, state := .error, errCode := 1 } := by
  unfold Ring.doorbell
  dsimp only
  rw [if_neg state, if_neg (not_lt.2 ahead), if_pos far]
  exact Ring.go_idle idle

section
variable {c : Chan} {ctx loc bytes w : Nat} {v : BitVec 64} {x : Well} {s : State}

/-- A doorbell of a well changes that well alone. -/
theorem execDoorbell_well (up : s.hostUp = true) (at_ : (s.mc.ctxs.look ctx).bind (·.wells.look loc) = some (c, w))
    (hx : (s.chan c).wells.look w = some x) : Answers (execDoorbell ctx loc bytes v s) fun t => OnlyChan c s t ∧
      (t.chan c).wells.look w = some (if bytes < 8 then { x with dropped := sat16 x.dropped 1 }
        else { x with ring := x.ring.doorbell v s.nextBell }) := by
  have runs : execDoorbell ctx loc bytes v s = .next (s.onChan c fun h => { h with wells := h.wells.alter w fun x =>
      if bytes < 8 then { x with dropped := sat16 x.dropped 1 } else { x with ring := x.ring.doorbell v s.nextBell } }) := by
    unfold execDoorbell onlyIf
    rw [at_, up]
    rfl
  refine ⟨_, runs, OnlyChan.onChan c s _, ?_⟩
  rw [State.onChan_chan, SMap.look_alter, if_pos rfl, hx]
  rfl

theorem execDoorbell_narrow (up : s.hostUp = true) (at_ : (s.mc.ctxs.look ctx).bind (·.wells.look loc) = some (c, w))
    (hx : (s.chan c).wells.look w = some x) (narrow : bytes < 8) : Answers (execDoorbell ctx loc bytes v s) fun t => OnlyChan c s t ∧
      (t.chan c).wells.look w = some { x with dropped := sat16 x.dropped 1 } := by
  simpa only [if_pos narrow] using execDoorbell_well (bytes := bytes) (v := v) up at_ hx

theorem execDoorbell_rings (up : s.hostUp = true) (at_ : (s.mc.ctxs.look ctx).bind (·.wells.look loc) = some (c, w))
    (hx : (s.chan c).wells.look w = some x) (wide : 8 ≤ bytes) (takes : RingTakes x.ring v) :
    Answers (execDoorbell ctx loc bytes v s) fun t => OnlyChan c s t ∧
      (t.chan c).wells.look w = some { x with ring := x.ring.rung v s.nextBell } := by
  simpa only [if_neg (Nat.not_lt.2 wide), Ring.doorbell_takes takes] using execDoorbell_well (bytes := bytes) (v := v) up at_ hx

theorem execDoorbell_errs (up : s.hostUp = true) (at_ : (s.mc.ctxs.look ctx).bind (·.wells.look loc) = some (c, w))
    (hx : (s.chan c).wells.look w = some x) (wide : 8 ≤ bytes) (state : x.ring.state ≠ .error) (idle : x.ring.waiting = [])
    (ahead : 0 ≤ (v.setWidth 32 - x.ring.fetched : BitVec 32).toInt)
    (far : 2 ^ x.ring.sqLog2 < (v.setWidth 32 - x.ring.fetched : BitVec 32).toNat) : Answers (execDoorbell ctx loc bytes v s) fun t =>
      ∃ y, (t.chan c).wells.look w = some y ∧ y.ring.state = .error ∧ y.ring.errCode = 1 ∧ y.ring.prod = x.ring.prod := by
  obtain ⟨t, runs, -, at_⟩ := execDoorbell_well (bytes := bytes) (v := v) up at_ hx
  rw [if_neg (Nat.not_lt.2 wide), Ring.doorbell_ahead state idle ahead far] at at_
  exact ⟨t, runs, _, at_, rfl, rfl, rfl⟩

end

/-! #### Admin rings -/

section
variable {fn : Nat} {v : BitVec 64} {a : Admin} {s : State}

theorem execAdminDoorbell_rings {r : Ring} (up : s.hostUp = true) (ha : s.mc.admins.look fn = some a) (hr : a.ring = some r)
    (takes : RingTakes r v) : Answers (execAdminDoorbell fn v s) fun t => OnlyMc s t ∧ t.ring (.admin fn) = some (r.rung v s.nextBell) := by
  have runs : execAdminDoorbell fn v s = .next (s.admDoorbell fn v) := by simp [execAdminDoorbell, onlyIf, up]
  refine ⟨_, runs, OnlyMc.onMc s _, ?_⟩
  simp only [State.ring, State.admDoorbell, State.onMc, SMap.look_alter, if_true, ha, Option.map_some, Option.bind_some, hr,
    Ring.doorbell_takes takes]

/-- MC_ADM_SQ as it stands once written, before the ring settles. -/
def Admin.written (a : Admin) (v : BitVec 64) : Admin :=
  { a with sqLog2 := (v.extractLsb' 0 5).toNat, sqEn := v.getLsbD 5, sqBase := (v.extractLsb' 12 52).toNat * 4096,
           err := a.err || (v.getLsbD 5 && !sizeOk (v.extractLsb' 0 5).toNat) }

theorem execMcAdmRingWrite_sq (up : s.hostUp = true) (vf : fn ≤ s.mc.host.numVf) (ha : s.mc.admins.look fn = some a) :
    execMcAdmRingWrite fn false v s = .next (s.onMc fun m => { m with admins := m.admins.set1 fn ((a.written v).settle a.on) }) := by
  unfold execMcAdmRingWrite onlyIf State.admWrite
  simp only [up, vf, decide_true, Bool.and_self, if_true, ha, Option.getD_some]
  rfl

theorem State.setAdmin_ring (s : State) (fn : Nat) (a : Admin) :
    (s.onMc fun m => { m with admins := m.admins.set1 fn a }).ring (.admin fn) = a.ring := by
  simp [State.ring, State.onMc]

/-- Enabling both rings of a function starts them (R363). -/
theorem execMcAdmRingWrite_starts (up : s.hostUp = true) (vf : fn ≤ s.mc.host.numVf) (ha : s.mc.admins.look fn = some a)
    (off : a.ring = none) (en : v.getLsbD 5 = true) (size : sizeOk (v.extractLsb' 0 5).toNat = true) (cq : a.cqEn = true)
    (cqSize : sizeOk a.cqLog2 = true) : Answers (execMcAdmRingWrite fn false v s) fun t => OnlyMc s t ∧ t.ring (.admin fn) =
      some (Ring.fresh ((v.extractLsb' 12 52).toNat * 4096) (v.extractLsb' 0 5).toNat a.cqBase a.cqLog2 0 0 0) := by
  refine ⟨_, execMcAdmRingWrite_sq up vf ha, OnlyMc.onMc s _, ?_⟩
  have on : (a.written v).on = true := by simp only [Admin.on, Admin.written, en, size, cq, cqSize, Bool.and_self]
  rw [State.setAdmin_ring]
  unfold Admin.settle
  dsimp only
  rw [if_pos on]
  simp only [show (a.written v).ring = none from off]
  rfl

/-- A size that no ring has leaves the ring disabled and sets ERR (Table 17.7). -/
theorem execMcAdmRingWrite_errs (up : s.hostUp = true) (vf : fn ≤ s.mc.host.numVf) (ha : s.mc.admins.look fn = some a)
    (off : a.ring = none) (en : v.getLsbD 5 = true) (size : sizeOk (v.extractLsb' 0 5).toNat = false) :
    Answers (execMcAdmRingWrite fn false v s) fun t => OnlyMc s t ∧ t.ring (.admin fn) = none ∧
      (t.mc.admins.look fn).map (·.err) = some true := by
  have settled : (a.written v).settle a.on = { a.written v with ring := none } := by
    have not_on : ¬ (a.written v).on = true := by simp only [Admin.on, Admin.written, size, Bool.and_false, Bool.false_and, Bool.false_eq_true, not_false_eq_true]
    unfold Admin.settle
    dsimp only
    rw [if_neg not_on]
    simp only [show (a.written v).ring = none from off, ite_self]
  refine ⟨_, execMcAdmRingWrite_sq up vf ha, OnlyMc.onMc s _, ?_, ?_⟩
  · rw [State.setAdmin_ring, settled]
  · rw [settled]
    simp only [State.onMc, SMap.look_set1_self, Option.map_some, Admin.written, en, size, Bool.not_false, Bool.and_self, Bool.or_true]

end

/-! #### Fetches, records and vectors -/

section
variable {id : RingId} {r : Ring} {s : State}

theorem execDescriptorFetch_fetches {d : BitVec 512} (up : s.hostUp = true) (hr : s.ring id = some r) (idle : r.waiting = [])
    (on : s.ringOn id = true) (active : r.state = .active) (due : r.fetched ≠ r.prod) (turn : s.hostTurn id = true)
    (ok : s.fetchStatus id d = none) : Answers (execDescriptorFetch id d s) fun t => t.ring id = some { r with
      fetched := r.fetched + 1, bells := r.bells.filter (fun b => b.1 != r.fetched + 1),
      waiting := [⟨⟨id, r.fetched.toNat % 2 ^ r.sqLog2, d.extractLsb' 16 24, d.getLsbD 8, d.getLsbD 9⟩, field d 0 8, none,
        (r.bells.headD (0, 0)).2⟩] } := by
  have go : (s.hostUp && s.fetchDue id r && s.hostTurn id) = true := by simp [State.fetchDue, up, on, active, due, turn]
  unfold execDescriptorFetch onlyIf
  rw [hr]
  dsimp only
  rw [if_pos go]
  refine ⟨_, rfl, ?_⟩
  dsimp only
  rw [State.ring_onRing, hr, ok, Option.map_some, idle]
  rfl

theorem State.msix_ring (s : State) (fn vec : Nat) (id : RingId) : (s.msix fn vec).ring id = s.ring id := by
  unfold State.msix
  split <;> cases id <;> rfl

theorem State.msix_outputs (s : State) (fn vec : Nat) (o : Output) (h : o ∈ s.outputs) : o ∈ (s.msix fn vec).outputs := by
  unfold State.msix
  split
  · exact List.mem_append_left _ h
  · exact h

theorem State.onRing_outputs (s : State) (id : RingId) (f : Ring → Ring) : (s.onRing id f).outputs = s.outputs := by
  unfold State.onRing
  split
  · rfl
  · split <;> rfl

theorem State.onRing_timeNs (s : State) (id : RingId) (f : Ring → Ring) : (s.onRing id f).timeNs = s.timeNs := by
  unfold State.onRing
  split
  · rfl
  · split <;> rfl

theorem State.onRing_host (s : State) (id : RingId) (f : Ring → Ring) : (s.onRing id f).mc.host = s.mc.host := by
  unfold State.onRing
  split
  · rfl
  · split <;> rfl

theorem execCompletionWrite_writes {e : Record} {rest : List Record} (up : s.hostUp = true) (hr : s.ring id = some r) (idle : r.waiting = [])
    (front : r.fifo = e :: rest) (runs : r.state ≠ .stopped) (room : r.full = false) (turn : s.hostTurn id = true) :
    Answers (execCompletionWrite id s) fun t =>
      Output.hostWrite (s.ringFn id) (r.cqBase + 16 * (r.written.toNat % 2 ^ r.cqLog2)) (e.bytes (phaseOf r.written.toNat r.cqLog2)) ∈
        t.outputs ∧ ∃ y, t.ring id = some y ∧ y.fifo = rest ∧ y.written = r.written + 1 := by
  have go : (s.hostUp && r.writeDue && s.hostTurn id) = true := by simp [Ring.writeDue, up, front, runs, room, turn]
  unfold execCompletionWrite onlyIf
  simp -zeta only [hr, front]
  extract_lets n count signal first s1
  rw [if_pos go]
  have ring1 : ∃ y, s1.ring id = some y ∧ y.fifo = rest ∧ y.written = r.written + 1 := by
    have same : (s.emit (.hostWrite (s.ringFn id) (r.cqBase + 16 * (n % 2 ^ r.cqLog2)) (e.bytes (phaseOf n r.cqLog2)))).ring id = some r := hr
    refine ⟨_, (State.ring_onRing ..).trans (by rw [same]; rfl), ?_⟩
    dsimp only
    rw [Ring.go_idle (by exact idle)]
    exact ⟨rfl, rfl⟩
  have out1 : Output.hostWrite (s.ringFn id) (r.cqBase + 16 * (n % 2 ^ r.cqLog2)) (e.bytes (phaseOf n r.cqLog2)) ∈ s1.outputs := by
    simp only [s1]
    rw [State.onRing_outputs]
    exact List.mem_append_right _ (List.mem_singleton_self _)
  clear_value s1
  refine ⟨_, rfl, ?_⟩
  dsimp only
  split
  · rw [State.msix_ring]
    exact ⟨State.msix_outputs s1 _ _ _ out1, ring1⟩
  · exact ⟨out1, ring1⟩

theorem execDescriptorFetch_waits {d : BitVec 512} (hr : s.ring id = some r) (turn : s.hostTurn id = false) :
    execDescriptorFetch id d s = .next s := by
  unfold execDescriptorFetch onlyIf
  rw [hr]
  simp [turn]

theorem execCompletionWrite_waits (hr : s.ring id = some r) (turn : s.hostTurn id = false) : execCompletionWrite id s = .next s := by
  unfold execCompletionWrite onlyIf
  rw [hr]
  dsimp only
  split
  · rfl
  · simp [turn]

theorem execInterruptTimer_signals (up : s.hostUp = true) (hr : s.ring id = some r) (pending : r.unsignalled ≠ 0) (timer : r.coalUs ≠ 0)
    (op : (s.ringFn id, r.vector) ∈ s.mc.host.msixOpen) : Answers (execInterruptTimer id s) fun t =>
      t.timeNs = max s.timeNs (r.firstNs + 1000 * r.coalUs) ∧ t.outputs = s.outputs ++ [.msix (s.ringFn id) r.vector] ∧
      t.ring id = some { r with unsignalled := 0 } := by
  have go : (s.hostUp && r.unsignalled != 0 && r.coalUs != 0) = true := by simp [up, pending, timer]
  have runs : execInterruptTimer id s = .next (((s.until (r.firstNs + 1000 * r.coalUs)).onRing id fun x => { x with unsignalled := 0 }).msix
      (s.ringFn id) r.vector) := by
    unfold execInterruptTimer onlyIf
    rw [hr]
    dsimp only
    rw [if_pos go]
  have listed : (((s.until (r.firstNs + 1000 * r.coalUs)).onRing id fun x => { x with unsignalled := 0 }).mc.host.msixOpen.contains
      (s.ringFn id, r.vector)) = true := by
    rw [State.onRing_host]
    exact List.contains_iff_mem.2 op
  have same : (s.until (r.firstNs + 1000 * r.coalUs)).ring id = some r := hr
  refine ⟨_, runs, ?_, ?_, ?_⟩
  · unfold State.msix
    rw [if_pos listed]
    exact State.onRing_timeNs ..
  · unfold State.msix
    rw [if_pos listed]
    exact congrArg (· ++ _) (State.onRing_outputs ..)
  · rw [State.msix_ring, State.ring_onRing, same]
    rfl

theorem execMsixVectorUnmask_sends {fn vec : Nat} (up : s.hostUp = true) (pending : (fn, vec) ∈ s.mc.host.msixPend) :
    Answers (execMsixVectorUnmask fn vec s) fun t => t.outputs = s.outputs ++ [.msix fn vec] ∧ (fn, vec) ∈ t.mc.host.msixOpen ∧
      (fn, vec) ∉ t.mc.host.msixPend := by
  have out : s.mc.inReset = false := by
    simp only [State.hostUp, Bool.and_eq_true, Bool.not_eq_true'] at up
    exact up.1
  unfold execMsixVectorUnmask onlyIf
  dsimp only
  rw [out, if_pos (List.contains_iff_mem.2 pending)]
  refine ⟨_, rfl, rfl, ?_, ?_⟩
  · show (fn, vec) ∈ (if s.mc.host.msixOpen.contains (fn, vec) then s.mc.host.msixOpen else s.mc.host.msixOpen ++ [(fn, vec)])
    split
    · exact List.contains_iff_mem.1 ‹_›
    · exact List.mem_append_right _ (List.mem_singleton_self _)
  · show (fn, vec) ∉ s.mc.host.msixPend.filter (· != (fn, vec))
    simp

end

/-- Settles O43. -/
theorem ringsAndInterrupts : Obligations.RingsAndInterrupts := by
  unfold Obligations.RingsAndInterrupts
  intro c ctx loc bytes fn w vec v d x a r id e rest s up
  simp only [exec]
  exact ⟨fun at_ hx => ⟨execDoorbell_narrow up at_ hx, execDoorbell_rings up at_ hx, execDoorbell_errs up at_ hx⟩,
    execAdminDoorbell_rings up,
    fun vf ha off en => ⟨execMcAdmRingWrite_starts up vf ha off en, execMcAdmRingWrite_errs up vf ha off en⟩,
    fun hr idle => ⟨execDescriptorFetch_fetches up hr idle, execCompletionWrite_writes up hr idle,
      fun turn => ⟨execDescriptorFetch_waits hr turn, execCompletionWrite_waits hr turn⟩, execInterruptTimer_signals up hr⟩,
    execMsixVectorUnmask_sends up⟩

end Sys2Proof.Machine

/-! ### The host link, its resets, and address translation (R351-R356, R360, R378) -/

namespace Sys2Proof.SMap

/-- A map whose values are changed reads the changed values. -/
theorem look_mapValues {α : Type} (m : SMap α) (f : α → α) (k : Nat) : look (m.map fun e => (e.1, f e.2)) k = (look m k).map f := by
  induction m with
  | nil => rfl
  | cons e m ih =>
    obtain ⟨i, a⟩ := e
    simp only [List.map_cons, look]
    split
    · rfl
    · split
      · rfl
      · exact ih

end Sys2Proof.SMap

namespace Sys2Proof.Machine

section
variable {s : State}

theorem execHostLinkUp_trains (gen : BitVec 3) (width : BitVec 4) (flit refclk : Bool) (out : s.mc.inReset = false)
    (started : s.mc.firm.started = true) (runs : s.mc.firm.recovery = false) : execHostLinkUp gen width flit refclk s =
      .next (s.onMc fun m => { m with host := { m.host with gen := gen, width := width, flit := flit, refclk := refclk } }) := by
  simp [execHostLinkUp, onlyIf, out, started, runs]

/-- A well whose ring stops. -/
def Well.stop (x : Well) : Well := { x with ring := x.ring.stop }

/-- Every ring of a channel's wells stops, its counts as they are (R378). -/
def State.stopWells (s : State) (c : Chan) : State :=
  s.onChan c fun h => { h with wells := h.wells.map fun e => (e.1, e.2.stop) }

theorem State.stopWells_look (s : State) (c d : Chan) (w : Nat) : ((s.stopWells c).chan d).wells.look w =
    if d = c then ((s.chan d).wells.look w).map Well.stop else (s.chan d).wells.look w := by
  unfold State.stopWells
  by_cases h : d = c
  · subst h
    rw [State.onChan_chan, if_pos rfl]
    exact SMap.look_mapValues _ Well.stop w
  · rw [State.onChan_chan_ne _ _ _ _ h, if_neg h]

theorem State.stopAll_look (s : State) (d : Chan) (w : Nat) : ((s.each (List.finRange 8) State.stopWells).chan d).wells.look w =
    ((s.chan d).wells.look w).map Well.stop := by
  have stops := State.each_at (fun (i : Chan) t => (t.chan i).wells.look w) (Option.map Well.stop)
    State.stopWells (fun t i => by rw [State.stopWells_look, if_pos rfl]) (fun t i k hk => by rw [State.stopWells_look, if_neg hk])
    (fun o => by cases o <;> rfl) d (List.finRange 8) s
  rw [stops, if_pos (List.mem_finRange d)]

theorem State.stopAll_mc (s : State) : (s.each (List.finRange 8) State.stopWells).mc = s.mc :=
  State.each_same (fun t => t.mc) _ (fun _ _ => State.onChan_mc ..) _ s

theorem execHostLinkReset_stops (out : s.mc.inReset = false) (d : Chan) (w : Nat) (x : Well) :
    Answers (execHostLinkReset s) fun t => t.mc.host.gen = 0 ∧ t.mc.host.numVf = 0 ∧ t.mc.ctxs = s.mc.ctxs ∧ t.mc.jobs = s.mc.jobs ∧
      ((s.chan d).wells.look w = some x → (t.chan d).wells.look w = some { x with ring := { x.ring with state := .stopped } }) := by
  have runs : execHostLinkReset s = .next ((s.each (List.finRange 8) State.stopWells).onMc fun m => { m with
      admins := m.admins.map fun e => (e.1, { Admin.reset with ring := e.2.ring.map Ring.stop }),
      host := { m.host with gen := 0, width := 0, flit := false, numVf := 0, msixOpen := [], msixPend := [] } }) := by
    unfold execHostLinkReset onlyIf
    rw [out]
    rfl
  have mc := s.stopAll_mc
  have wells := s.stopAll_look d w
  generalize s.each (List.finRange 8) State.stopWells = t at runs mc wells
  refine ⟨_, runs, rfl, rfl, ?_, ?_, fun hx => ?_⟩
  · show t.mc.ctxs = s.mc.ctxs
    rw [mc]
  · show t.mc.jobs = s.mc.jobs
    rw [mc]
  · exact wells.trans (by rw [hx]; rfl)

theorem execFlrVf_alone {vf : Nat} (out : s.mc.inReset = false) (vfs : vf ≤ s.mc.host.numVf) (alone : ∀ e ∈ s.mc.ctxs, e.2.fn ≠ vf) :
    execFlrVf vf s = .next (s.onMc fun m => { m with admins := m.admins.drop1 vf, host := { m.host with
      msixOpen := m.host.msixOpen.filter fun e => e.1 != vf, msixPend := m.host.msixPend.filter fun e => e.1 != vf } }) := by
  have nobody : s.mc.ctxs.filter (fun e => e.2.fn == vf) = [] := by
    rw [List.filter_eq_nil_iff]
    intro e he
    simpa using alone e he
  simp [execFlrVf, onlyIf, out, vfs, State.resetFn, nobody]

theorem execFlrPf_disables (out : s.mc.inReset = false) : Answers (execFlrPf s) fun t => t.mc.host.numVf = 0 := by
  unfold execFlrPf onlyIf
  rw [out]
  exact ⟨_, rfl, rfl⟩

theorem execVfEnable_enables {n : Nat} (up : s.hostUp = true) : Answers (execVfEnable n s) fun t => t.mc.host.numVf = n := by
  unfold execVfEnable onlyIf
  rw [up]
  exact ⟨_, rfl, rfl⟩

theorem execAtsInvalidation_done {ctx hva size : Nat} (up : s.hostUp = true) :
    execAtsInvalidation ctx hva size s = .next { s with outputs := s.outputs ++ [.atsDone ctx hva size] } := by
  simp [execAtsInvalidation, onlyIf, up, State.emit]

/-- A translation that fails faults the job that asked for it (R360). -/
theorem execAtsTranslationCompletion_faults (c : Chan) (j : SlotIx) (live : (s.slot c j).live = true)
    (fresh : (s.slot c j).regs.flt.valid = false) :
    Answers (execAtsTranslationCompletion false (some (c, j)) none s) fun t => (t.slot c j).regs.flt.cause = 0x07 := by
  have hits := s.fault_hits c j .access .none 0 0 live fresh
  refine ⟨s.fault c j .access .none 0 0, rfl, ?_⟩
  dsimp only
  generalize (s.fault c j .access .none 0 0).slot c j = x at hits ⊢
  have cause : x.faultSeen.2.2 = BitVec.ofNat 8 Cause.access.code := by rw [hits]
  exact cause

/-- A command whose transfer ends in an error is recorded with it (R360). -/
theorem State.endCmd_recorded (s : State) (h : Hdr) (st : Nat) (runs : s.isRunning h = true) : Recorded (s.endCmd h st) h st 0 := by
  unfold State.endCmd
  extract_lets s1
  have rings : SameRings s s1 := SameRings.onMc s _ (fun _ => rfl) fun _ => rfl
  rw [if_pos runs]
  refine s1.complete_recorded h st 0 ?_
  rw [rings.ring]
  unfold State.isRunning at runs
  split at runs
  · next r hr => rw [hr]; rfl
  · exact absurd runs Bool.false_ne_true

theorem execAtsTranslationCompletion_ends (h : Hdr) (runs : s.isRunning h = true) :
    Answers (execAtsTranslationCompletion false none (some h) s) fun t => Recorded t h 0x0209 0 :=
  ⟨_, rfl, s.endCmd_recorded h stHostXlate runs⟩

end

/-- Settles O44. -/
theorem hostPathResets : Obligations.HostPathResets := by
  unfold Obligations.HostPathResets
  intro gen width flit refclk vf n ctx hva size c d j w x h s out
  simp only [exec]
  exact ⟨execHostLinkUp_trains gen width flit refclk out, execHostLinkReset_stops out d w x, execFlrVf_alone out, execFlrPf_disables out,
    fun up => ⟨execVfEnable_enables up, execAtsInvalidation_done up⟩, rfl, execAtsTranslationCompletion_faults c j,
    execAtsTranslationCompletion_ends h⟩

end Sys2Proof.Machine

/-! ### A frozen port whose cut-off ends with its burst (R280, R281) -/

namespace Sys2Proof.Machine

/-- The tests' base state with port 0 of channel 0 frozen while requester 3 is cut off there. -/
def frozenCut : State :=
  Tests.base.onChan 0 fun h => { h with arbs := upd h.arbs 0 fun a => { a with freeze := true, cut := some 3 } }

theorem frozenCut_freeze : (frozenCut.chan 0).arbs[(0 : ArbPort).val].freeze = true := by
  simp only [frozenCut, State.onChan_chan, upd_get_self]

theorem frozenCut_cut : (frozenCut.chan 0).arbs[(0 : ArbPort).val].cut = some 3 := by
  simp only [frozenCut, State.onChan_chan, upd_get_self]

/-- A frozen port's boundary ends the cut-off of the requester before it. -/
theorem execBurstBoundary_uncut (c : Chan) (port : ArbPort) (s t : State) (frozen : (s.chan c).arbs[port.val].freeze = true)
    (runs : execBurstBoundary c port s = .next t) : (t.chan c).arbs[port.val].cut = none := by
  unfold execBurstBoundary at runs
  rw [if_pos frozen] at runs
  obtain rfl := Host.Outcome.next.inj runs
  simp only [State.onChan_chan, upd_get_self]

/-- Refutes O38: a frozen port's boundary also ends the cut-off of a requester, which the statement keeps. -/
theorem not_arbitrationGrants : ¬ Obligations.ArbitrationGrants := by
  unfold Obligations.ArbitrationGrants
  intro h
  obtain ⟨-, -, frozen, -⟩ := h 0 0 ⟨.urgent, 0, 0, none, false⟩ 0 0 0 (0, ⟨.urgent, 0, 0, none, false⟩) 0 frozenCut
  obtain ⟨t, runs, kept⟩ := frozen frozenCut_freeze
  have uncut := execBurstBoundary_uncut 0 0 frozenCut t frozenCut_freeze (by simpa only [exec] using runs)
  rw [kept] at uncut
  exact absurd (frozenCut_cut.symm.trans uncut) (by decide)

end Sys2Proof.Machine

/-! ### A lane failure that the far end cannot follow (R14, R299, R330) -/

namespace Sys2Proof.Machine

/-- Two linked ports of the module, both ACTIVE at full width, while no lane is good at the far end. -/
def narrowAlone : State :=
  (Tests.base.onPort 0 0 fun p => { p with state := .active, good := 0xFF, width := 0, maxWidth := 0 }).onPort 1 0 fun p =>
    { p with state := .active, good := 0, width := 0, maxWidth := 0 }

theorem narrowAlone_port : (narrowAlone.port 0 0).state = .active ∧ (narrowAlone.port 0 0).lanesUsed.getLsbD 0 = true ∧
    chooseWidth ((narrowAlone.port 0 0).good &&& ~~~(1#8 <<< (0 : Fin 8).val))
      (widest (narrowAlone.port 0 0).maxWidth (narrowAlone.port 0 0).width) = some (1, 1) := by
  decide +kernel

theorem narrowAlone_down : ((Tests.after (exec (.laneFailure 0 0 0) narrowAlone)).port 0 0).state = .down := by
  decide +kernel

/-- Refutes O39: a lane failure narrows this end, but the far end of the link has no good lanes left to follow with, and its loss takes
this end DOWN too. -/
theorem not_portStates : ¬ Obligations.PortStates := by
  unfold Obligations.PortStates
  intro h
  obtain ⟨-, -, -, -, -, -, -, -, -, -, lane, -⟩ := h 0 0 0 ⟨0, 0, 0, 0, 0, 0, 0⟩ 0 0 0 0 ⟨0, 0, 0⟩ 1 1 narrowAlone
  obtain ⟨active, used, width⟩ := narrowAlone_port
  obtain ⟨-, narrows, -⟩ := lane active
  obtain ⟨t, runs, stays, -⟩ := narrows used width
  have down := narrowAlone_down
  rw [runs] at down
  exact absurd (stays.symm.trans down) (by decide)

end Sys2Proof.Machine

/-! ### A module whose ID is not found passes no WRITE on (R317) -/

namespace Sys2Proof.Machine

/-- The tests' network on a module that finds every ID held. -/
def unnamedNet : State := Tests.net.onFab fun f => { f with idValid := false, ids := [(1, 1)] }

/-- A WRITE for channel 9, in order on port 1. -/
def awayFlit : FlitHdr := { Tests.fl with dest := 9 }

/-- Whether an output is a flit. -/
def Output.isFlit : Output → Bool
  | .flit .. => true
  | _ => false

theorem unnamedNet_accepts : Accepts unnamedNet 0 1 awayFlit := by
  unfold Accepts
  decide +kernel

theorem unnamedNet_sendsNow : SendsNow unnamedNet 0 2 (.passed awayFlit.src (.write awayFlit.dest [])) := by
  unfold SendsNow
  decide +kernel

theorem unnamedNet_route : awayFlit.dest ≠ unnamedNet.addrOf 0 ∧
    routePort ((unnamedNet.chan 0).route awayFlit.rset awayFlit.dest) = some 2 := by
  decide +kernel

theorem unnamedNet_silent : ((Tests.after (exec (.writeFlit 0 1 awayFlit []) unnamedNet)).outputs.any Output.isFlit) = false := by
  decide +kernel

/-- Refutes O40: on a module that has found every ID held the ports carry MGMT flits only, so that a WRITE for another channel is accepted
and goes no further. -/
theorem not_flitsAreTaken : ¬ Obligations.FlitsAreTaken := by
  unfold Obligations.FlitsAreTaken
  intro h
  obtain ⟨-, passes, -⟩ := h 0 1 2 awayFlit Tests.rec0 [] ⟨0, false, .add, 0, 0, 0, false⟩ ⟨0, 0⟩ [] 0 0 0 0 0 ⟨0, 0, none, []⟩ []
    ⟨Tests.far, none, [], [], false, 0, []⟩ .access ⟨0, false, 0, []⟩ 0 unnamedNet
  obtain ⟨away, route⟩ := unnamedNet_route
  obtain ⟨t, runs, -, seq, sent⟩ := passes unnamedNet_accepts away route (by decide) unnamedNet_sendsNow
  have silent := unnamedNet_silent
  rw [runs] at silent
  exact absurd (List.any_eq_false.1 silent _ sent) (by simp [Output.isFlit])

end Sys2Proof.Machine

/-! ### Bytes of a granule -/

namespace Sys2Proof.Machine

/-- A byte of a granule's ones, shifted to byte k. -/
theorem byteOnes_getLsbD (k i : Nat) : (0xFF#256 <<< (8 * k)).getLsbD i = (decide (i < 256) && decide (i / 8 = k)) := by
  have ones : (0xFF#256).getLsbD (i - 8 * k) = decide (i - 8 * k < 8) := by
    rw [BitVec.getLsbD_ofNat, show 0xFF = 2 ^ 8 - 1 from rfl, Nat.testBit_two_pow_sub_one]
    by_cases h : i - 8 * k < 8
    · simp [h]; omega
    · simp [h]
  rw [BitVec.getLsbD_shiftLeft, ones, Bool.eq_iff_iff]
  simp only [Bool.and_eq_true, Bool.not_eq_true', decide_eq_true_eq, decide_eq_false_iff_not]
  omega

theorem maskFold_getLsbD (mask : BitVec 32) (i : Nat) (l : List Nat) (acc : Granule) :
    (l.foldl (fun acc i => if mask.getLsbD i then acc ||| (0xFF#256 <<< (8 * i)) else acc) acc).getLsbD i =
      (acc.getLsbD i || (decide (i < 256) && decide (i / 8 ∈ l) && mask.getLsbD (i / 8))) := by
  induction l generalizing acc with
  | nil => simp
  | cons k l ih =>
    rw [List.foldl_cons, ih]
    cases hk : mask.getLsbD k with
    | true =>
      simp only [if_true, BitVec.getLsbD_or, byteOnes_getLsbD, List.mem_cons]
      by_cases same : i / 8 = k
      · rw [same, hk]
        cases acc.getLsbD i <;> by_cases lt : i < 256 <;> simp [lt]
      · simp [same]
    | false =>
      simp only [Bool.false_eq_true, if_false, List.mem_cons]
      by_cases same : i / 8 = k
      · rw [same, hk]
        simp
      · simp [same]

theorem maskBits_getLsbD (mask : BitVec 32) (i : Nat) : (maskBits mask).getLsbD i = mask.getLsbD (i / 8) := by
  have zero : (0 : Granule).getLsbD i = false := BitVec.getLsbD_zero
  rw [maskBits, maskFold_getLsbD, zero, Bool.false_or]
  by_cases lt : i < 256
  · simp [lt, show i / 8 < 32 by omega]
  · simp [lt, BitVec.getLsbD_of_ge mask (i / 8) (by omega)]

/-- A merge takes the masked bytes of the new granule, and the others of the old. -/
theorem gMerge_getLsbD (old new : Granule) (mask : BitVec 32) (i : Nat) :
    (gMerge old new mask).getLsbD i = if mask.getLsbD (i / 8) then new.getLsbD i else old.getLsbD i := by
  simp only [gMerge, BitVec.getLsbD_or, BitVec.getLsbD_and, BitVec.getLsbD_not, maskBits_getLsbD]
  by_cases lt : i < 256
  · cases mask.getLsbD (i / 8) <;> simp [lt]
  · simp [BitVec.getLsbD_of_ge mask (i / 8) (by omega), lt, BitVec.getLsbD_of_ge _ i (Nat.le_of_not_lt lt)]

theorem gByte_gMerge (old new : Granule) (mask : BitVec 32) (b : Nat) :
    gByte (gMerge old new mask) b = if mask.getLsbD b then gByte new b else gByte old b := by
  apply BitVec.eq_of_getLsbD_eq
  intro i hi
  have at_ : (8 * b + i) / 8 = b := by omega
  simp only [gByte, BitVec.getLsbD_extractLsb', hi, decide_true, Bool.true_and, gMerge_getLsbD, at_]
  split <;> simp only [BitVec.getLsbD_extractLsb', hi, decide_true, Bool.true_and]

/-- A granule is its bytes. -/
theorem granule_ext {x y : Granule} (h : ∀ b < 32, gByte x b = gByte y b) : x = y := by
  apply BitVec.eq_of_getLsbD_eq
  intro i hi
  have byte := congrArg (fun v => v.getLsbD (i % 8)) (h (i / 8) (by omega))
  simpa only [gByte, BitVec.getLsbD_extractLsb', Nat.mod_lt i (by decide : 0 < 8), decide_true, Bool.true_and, Nat.div_add_mod] using byte

theorem byteMask_getLsbD (i n b : Nat) : (byteMask i n).getLsbD b = (decide (b < 32) && (decide (i ≤ b) && decide (b < i + n))) := by
  rw [byteMask, BitVec.getLsbD_ofNat, Nat.testBit_mul_two_pow, Nat.testBit_two_pow_sub_one, Bool.eq_iff_iff]
  simp only [Bool.and_eq_true, decide_eq_true_eq]
  omega

/-- A byte shifted to its place. -/
theorem gByte_shift (v : BitVec 8) (b : Nat) (hb : b < 32) : gByte ((v.setWidth 256 : Granule) <<< (8 * b)) b = v := by
  apply BitVec.eq_of_getLsbD_eq
  intro i hi
  have lt : 8 * b + i < 256 := by omega
  have back : 8 * b + i - 8 * b = i := by omega
  simp [gByte, hi, lt, back]

/-- Bytes put into a granule one by one. -/
theorem gByte_mergeEach (d g : Granule) (n b : Nat) (hn : n ≤ 32) (hb : b < 32) :
    gByte ((List.range n).foldl (fun g k => gMerge g ((gByte d k).setWidth 256 <<< (8 * k)) (byteMask k 1)) g) b =
      if b < n then gByte d b else gByte g b := by
  induction n with
  | zero => simp
  | succ n ih =>
    rw [List.range_succ, List.foldl_append, List.foldl_cons, List.foldl_nil, gByte_gMerge, byteMask_getLsbD, ih (by omega)]
    by_cases at_ : b = n
    · subst at_
      simp [hb, gByte_shift _ _ hb]
    · have cover : (decide (b < 32) && (decide (n ≤ b) && decide (b < n + 1))) = false := by
        rw [Bool.eq_false_iff]
        simp only [ne_eq, Bool.and_eq_true, decide_eq_true_eq]
        omega
      rw [cover, if_neg Bool.false_ne_true]
      exact if_congr (by omega) rfl rfl

theorem mergeEach_all (d g : Granule) :
    (List.range 32).foldl (fun g k => gMerge g ((gByte d k).setWidth 256 <<< (8 * k)) (byteMask k 1)) g = d :=
  granule_ext fun b hb => (gByte_mergeEach d g 32 b (Nat.le_refl _) hb).trans (if_pos hb)

end Sys2Proof.Machine


/-! ### Fills of the cistern (R176, R201, R212) -/

namespace Sys2Proof.Machine

theorem Minor.fills {s t : State} (h : Minor s t) (c : Chan) : (t.chan c).fills = (s.chan c).fills := h.at_ Channel.fills c

section
variable {α : Type} {f : Channel → α}

/-- A request raised at a port, or held by its master port, changes nothing but ports' arbiters and the regulators. -/
theorem State.raise_alike (ha : ∀ (x : Channel) v, f { x with arbs := v } = f x) (hr : ∀ (x : Channel) v, f { x with reg := v } = f x)
    (s : State) (c : Chan) (port : ArbPort) (cls : ReqClass) (who : Nat) (slot : Option SlotIx) (n : Nat) :
    Alike f s (s.raise c port cls who slot n) := by
  refine Alike.each _ (fun t _ => ?_) _ s
  unfold State.raiseOne
  split
  · exact (Alike.onChan t c _ fun x => hr x _).trans (Alike.onChan _ c _ fun x => ha x _)
  · exact Alike.onChan t c _ fun x => hr x _

end

theorem State.sendFor_fills (s : State) (c : Chan) (cls : ReqClass) (who : Nat) (j : SlotIx) (dest : ChanAddr) (f : OutFlit) :
    ((s.sendFor c cls who j dest f).chan c).fills = (s.chan c).fills := by
  have sent := (s.sendTo_minor c (some j) (s.slot c j).job.rset dest f).fills c
  unfold State.sendFor
  extract_lets t
  split
  · exact (t.raise_alike (f := Channel.fills) (fun _ _ => rfl) (fun _ _ => rfl) c _ _ _ _ _ c).trans sent
  · exact sent

theorem State.countFill_fills (s : State) (c : Chan) (j : SlotIx) : ((s.countFill c j).chan c).fills = (s.chan c).fills := by
  unfold State.countFill
  extract_lets x s1 n s2 lim
  have h1 : Minor s s1 := Minor.onSlot s c j _
  have h2 : Minor s s2 := h1.trans (Minor.onSlot s1 c j _)
  have all : Minor s (if lim ≠ 0 ∧ lim < n ∧ !x.fr.thrashed then
      (((s2.onFr c j fun f => { f with thrashed := true }).onRegs c j fun r => { r with
        thrash := true, cnt := upd r.cnt 7 (sat64 · 1), thrashFrame := BitVec.ofNat 16 r.frame })).event
        c 0x08 (some j) 0 (detail [(0, 4, n), (4, 4, lim)]) else s2) :=
    Minor.ite (h2.trans (((Minor.onSlot s2 c j _).trans (Minor.onSlot _ c j _)).trans (State.event_minor _ c _ _ _ _))) h2
  exact (Minor.ite h1 all).fills c

theorem State.fetchLine_fills (s : State) (c : Chan) (j : SlotIx) (cls : ReqClass) (a : FabAddr) :
    ((s.fetchLine c j cls a).chan c).fills = (s.chan c).fills := by
  unfold State.fetchLine
  split
  · split
    · exact s.raise_alike (f := Channel.fills) (fun _ _ => rfl) (fun _ _ => rfl) c _ _ _ _ _ c
    · rfl
  · exact s.sendFor_fills c _ _ _ _ _

/-- A line of which the table holds nothing gets an entry while there is room (R212). -/
theorem State.askFill_opens (s : State) (c : Chan) (p : PumpIx) (j : SlotIx) (a : FabAddr) (sect : Option Nat) (stream : Bool)
    (fresh : ∀ y ∈ (s.chan c).fills, ¬(y.at_ = a ∧ y.sect = sect)) (room : (s.chan c).fills.length < 1024) :
    ((s.askFill c p j a sect stream).chan c).fills = (s.chan c).fills ++
      [⟨a, sect, if stream then [] else [p], if stream then [p] else [], false, j, []⟩] := by
  have none_ : (s.chan c).fills.find? (fun e => e.at_ == a && e.sect == sect) = none := by
    rw [List.find?_eq_none]
    intro y hy
    simpa using fresh y hy
  unfold State.askFill
  extract_lets h join e s1 newLine s2
  simp -zeta only [h, none_]
  rw [if_neg (Nat.not_le.2 room)]
  have fills1 : (s1.chan c).fills = (s.chan c).fills ++ [e] := by
    simp only [s1]
    rw [State.onChan_chan]
  have fills2 : (s2.chan c).fills = (s1.chan c).fills := by
    simp only [s2]
    split
    · exact s1.countFill_fills c j
    · rfl
  exact ((s2.fetchLine_fills c j _ _).trans fills2).trans fills1

theorem State.askFill_full (s : State) (c : Chan) (p : PumpIx) (j : SlotIx) (a : FabAddr) (sect : Option Nat) (stream : Bool)
    (fresh : ∀ y ∈ (s.chan c).fills, ¬(y.at_ = a ∧ y.sect = sect)) (full : 1024 ≤ (s.chan c).fills.length) :
    s.askFill c p j a sect stream = s := by
  have none_ : (s.chan c).fills.find? (fun e => e.at_ == a && e.sect == sect) = none := by
    rw [List.find?_eq_none]
    intro y hy
    simpa using fresh y hy
  unfold State.askFill
  dsimp only
  rw [none_]
  exact if_pos full

theorem State.askFill_joins (s : State) (c : Chan) (p : PumpIx) (j : SlotIx) (e : FillEnt) (only : (s.chan c).fills = [e])
    (early : e.started = false) (new : p ∉ e.mask) :
    ((s.askFill c p j e.at_ e.sect false).chan c).fills = [{ e with mask := e.mask ++ [p] }] := by
  have found : [e].find? (fun y => y.at_ == e.at_ && y.sect == e.sect) = some e := by simp
  unfold State.askFill
  dsimp only
  rw [only, found]
  have go : ¬ (e.started = true ∨ ((if false = true then e.stream else e.mask).contains p = true)) := by
    simp [early, new]
  dsimp only
  rw [if_neg go]
  rw [State.onRegs_chan_fills, State.onChan_chan]
  simp only [only, List.map_cons, List.map_nil, and_self, if_true, Bool.false_eq_true, if_false]

section
variable {s : State} {c : Chan} {p : PumpIx} {j : SlotIx} {addr : FabAddr}

/-- The line, and in sector mode the sector, that an access names. -/
def State.fillAt (s : State) (c : Chan) (addr : FabAddr) : FabAddr := lineOf (s.chan c).lineGrans addr.chan (offKey addr.off)

def State.fillSect (s : State) (c : Chan) (addr : FabAddr) : Option Nat :=
  if (s.chan c).cis.sector then some (offKey addr.off % (s.chan c).lineGrans) else none

/-- An access whose line is not there asks the fill table, for a line or for a stream (R201, R176). -/
theorem execFillOpen_asks (hj : (s.chan c).slotOf p = some j) (miss : (s.slice c p).cached (s.frameOf c p) (s.fillAt c addr) = none) :
    execFillOpen c p addr s = .next (s.askFill c p j (s.fillAt c addr) (s.fillSect c addr)
      (s.streamWants c p (s.fillAt c addr) (s.fillSect c addr))) := by
  have sound : s.dropBroken c p (s.fillAt c addr) (offKey addr.off % (s.chan c).lineGrans) = s := by
    unfold State.dropBroken
    rw [miss]
  have absent : s.lineAt c p addr.chan (offKey addr.off) = none := by
    unfold State.lineAt
    dsimp only
    rw [show lineOf (s.chan c).lineGrans addr.chan (offKey addr.off) = s.fillAt c addr from rfl, miss]
    rfl
  have runs : execFillOpen c p addr s = if s.streamWants c p (s.fillAt c addr) (s.fillSect c addr)
      then .next (s.askFill c p j (s.fillAt c addr) (s.fillSect c addr) true)
      else .next (if ((s.dropBroken c p (s.fillAt c addr) (offKey addr.off % (s.chan c).lineGrans)).lineAt c p addr.chan (offKey addr.off)).isSome
        then s.dropBroken c p (s.fillAt c addr) (offKey addr.off % (s.chan c).lineGrans)
        else (s.dropBroken c p (s.fillAt c addr) (offKey addr.off % (s.chan c).lineGrans)).askFill c p j (s.fillAt c addr) (s.fillSect c addr)
          false) := by
    unfold execFillOpen
    rw [hj]
    rfl
  rw [runs, sound, absent]
  cases s.streamWants c p (s.fillAt c addr) (s.fillSect c addr) <;> rfl

theorem execFillOpen_opens (hj : (s.chan c).slotOf p = some j) (miss : (s.slice c p).cached (s.frameOf c p) (s.fillAt c addr) = none)
    (fresh : ∀ y ∈ (s.chan c).fills, ¬(y.at_ = s.fillAt c addr ∧ y.sect = s.fillSect c addr)) (room : (s.chan c).fills.length < 1024) :
    Answers (execFillOpen c p addr s) fun t => (t.chan c).fills = (s.chan c).fills ++
      [if s.streamWants c p (s.fillAt c addr) (s.fillSect c addr) then ⟨s.fillAt c addr, s.fillSect c addr, [], [p], false, j, []⟩
        else ⟨s.fillAt c addr, s.fillSect c addr, [p], [], false, j, []⟩] := by
  refine ⟨_, execFillOpen_asks hj miss, ?_⟩
  dsimp only
  rw [State.askFill_opens s c p j _ _ _ fresh room]
  cases s.streamWants c p (s.fillAt c addr) (s.fillSect c addr) <;> rfl

theorem execFillOpen_waits (hj : (s.chan c).slotOf p = some j) (miss : (s.slice c p).cached (s.frameOf c p) (s.fillAt c addr) = none)
    (fresh : ∀ y ∈ (s.chan c).fills, ¬(y.at_ = s.fillAt c addr ∧ y.sect = s.fillSect c addr)) (full : 1024 ≤ (s.chan c).fills.length) :
    execFillOpen c p addr s = .next s := by
  rw [execFillOpen_asks hj miss, State.askFill_full s c p j _ _ _ fresh full]

theorem execFillOpen_joins {e : FillEnt} (hj : (s.chan c).slotOf p = some j)
    (miss : (s.slice c p).cached (s.frameOf c p) (s.fillAt c addr) = none) (only : (s.chan c).fills = [e]) (line : e.at_ = s.fillAt c addr)
    (sect : e.sect = s.fillSect c addr) (early : e.started = false) (cache : s.streamWants c p (s.fillAt c addr) (s.fillSect c addr) = false)
    (new : p ∉ e.mask) : Answers (execFillOpen c p addr s) fun t => (t.chan c).fills = [{ e with mask := e.mask ++ [p] }] := by
  refine ⟨_, execFillOpen_asks hj miss, ?_⟩
  dsimp only
  rw [cache, ← line, ← sect]
  exact s.askFill_joins c p j e only early new

end

end Sys2Proof.Machine


/-! ### Delivery, sweeps and drains of the cistern (R212, R216, R219, R222) -/

namespace Sys2Proof.Machine

@[simp] theorem State.onSlice_pump (s : State) (c : Chan) (p : PumpIx) (f : Slice → Slice) :
    (s.onSlice c p f).pump c p = { s.pump c p with slice := f (s.slice c p) } := by
  rw [State.onSlice, State.onPump_pump]
  rfl

theorem State.onSlice_pump_ne (s : State) (c : Chan) (p q : PumpIx) (f : Slice → Slice) (h : q ≠ p) :
    (s.onSlice c p f).pump c q = s.pump c q :=
  State.onPump_pump_ne _ _ _ _ _ h

/-- An operation on each pump of a list, once each. -/
theorem State.each_pumps (F : PumpIx → Pump → Pump) (c : Chan) (q : PumpIx) (l : List PumpIx) (nodup : l.Nodup) (s : State) :
    (s.each l fun t p => t.onPump c p (F p)).pump c q = if q ∈ l then F q (s.pump c q) else s.pump c q := by
  induction l generalizing s with
  | nil => rfl
  | cons p l ih =>
    obtain ⟨out, rest⟩ := List.nodup_cons.1 nodup
    refine (ih rest (s.onPump c p (F p))).trans ?_
    by_cases hq : q = p
    · subst hq
      rw [if_neg out, if_pos List.mem_cons_self, State.onPump_pump]
    · rw [State.onPump_pump_ne _ _ _ _ _ hq]
      exact if_congr (by simp [hq]) rfl rfl

/-- An operation on pumps that leaves each one it names with a property, and the others as they were. -/
theorem State.each_touched {K : State → Prop} {P : PumpIx → Pump → Prop} {c : Chan} (step : State → PumpIx → State)
    (keeps : ∀ t p, K t → K (step t p)) (hit : ∀ t p, K t → P p ((step t p).pump c p))
    (others : ∀ t p q, q ≠ p → (step t p).pump c q = t.pump c q) (l : List PumpIx) (s : State) (hs : K s) :
    K (s.each l step) ∧ (∀ q ∈ l, P q ((s.each l step).pump c q)) ∧ ∀ q, q ∉ l → (s.each l step).pump c q = s.pump c q := by
  induction l generalizing s with
  | nil => exact ⟨hs, fun q hq => absurd hq List.not_mem_nil, fun _ _ => rfl⟩
  | cons p l ih =>
    obtain ⟨hK, hP, same⟩ := ih (step s p) (keeps s p hs)
    refine ⟨hK, fun q hq => ?_, fun q hq => ?_⟩
    · by_cases later : q ∈ l
      · exact hP q later
      · obtain rfl : q = p := (List.mem_cons.1 hq).resolve_right later
        exact (congrArg (P q) (same q later)).mpr (hit s q hs)
    · obtain ⟨ne, out⟩ := not_or.1 (mt List.mem_cons.2 hq)
      exact (same q out).trans (others s p q ne)

/-- A line that enters a slice with room for one is there. -/
theorem Slice.addLine_holds (sl : Slice) {room : Nat} (waits : Bool) (old : Option CLine) (l : CLine) (whole : l.sects = none) (pos : 0 < room) :
    l ∈ (sl.addLine room waits old l).lines := by
  unfold Slice.addLine
  dsimp only
  rw [whole]
  cases old <;> dsimp only <;>
    rw [List.drop_append_of_le_length (by rw [List.length_append, List.length_singleton]; omega)] <;>
    exact List.mem_append_right _ (List.mem_singleton_self l)

section
variable {s : State} {c : Chan} {e : FillEnt}

/-- Gnover and a channel's slots, which tell the frame of a pump and the channel's address. -/
def SameSlots (c : Chan) (s t : State) : Prop := t.mc = s.mc ∧ (t.chan c).slots = (s.chan c).slots

theorem SameSlots.onSlice {t : State} (h : SameSlots c s t) (p : PumpIx) (f : Slice → Slice) : SameSlots c s (t.onSlice c p f) :=
  ⟨h.1, by rw [State.onSlice_chan_slots, h.2]⟩

theorem State.frameOf_congr {t : State} {c : Chan} (slots : (t.chan c).slots = (s.chan c).slots) (p : PumpIx) : t.frameOf c p = s.frameOf c p := by
  simp only [State.frameOf_eq, Channel.slotOf_congr slots, State.slot, slots]

theorem SameSlots.filledLine {t : State} (h : SameSlots c s t) (p : PumpIx) (e : FillEnt) : t.filledLine c p e = s.filledLine c p e := by
  obtain ⟨mc, slots⟩ := h
  have address : t.addrOf c = s.addrOf c := by simp only [State.addrOf, mc]
  simp only [State.filledLine, address, State.frameOf_congr slots]

/-- A line that is delivered: in every slice of its masks, and its entry is closed (R212). -/
theorem State.deliverFill_delivers (room : 0 < (s.chan c).lineRoom) :
    ((s.deliverFill c e).chan c).fills = (s.chan c).fills.erase e ∧
    (e.sect = none → ∀ q ∈ e.mask, s.filledLine c q e ∈ ((s.deliverFill c e).slice c q).lines) ∧
    (∀ q ∈ e.stream, s.filledLine c q e ∈ ((s.deliverFill c e).slice c q).streamed) ∧
    ∀ q, q ∉ e.mask → q ∉ e.stream → (s.deliverFill c e).pump c q = s.pump c q := by
  unfold State.deliverFill
  extract_lets n s1 s2
  obtain ⟨k1, lines1, same1⟩ : SameSlots c s s1 ∧ (∀ q ∈ e.mask, e.sect = none → s.filledLine c q e ∈ (s1.pump c q).slice.lines) ∧
      ∀ q, q ∉ e.mask → s1.pump c q = s.pump c q := by
    refine State.each_touched (K := SameSlots c s) (P := fun q u => e.sect = none → s.filledLine c q e ∈ u.slice.lines) _
      (fun t p hK => hK.onSlice p _) (fun t p hK whole => ?_) (fun t p q hq => State.onSlice_pump_ne _ _ _ _ _ hq) e.mask s ⟨rfl, rfl⟩
    rw [State.onSlice_pump, hK.filledLine]
    exact Slice.addLine_holds _ _ _ _ (by simp [State.filledLine, whole]) room
  obtain ⟨-, streamed2, same2⟩ : SameSlots c s s2 ∧ (∀ q ∈ e.stream, s.filledLine c q e ∈ (s2.pump c q).slice.streamed) ∧
      ∀ q, q ∉ e.stream → s2.pump c q = s1.pump c q := by
    refine State.each_touched (K := SameSlots c s) (P := fun q u => s.filledLine c q e ∈ u.slice.streamed) _
      (fun t p hK => hK.onSlice p _) (fun t p hK => ?_) (fun t p q hq => State.onSlice_pump_ne _ _ _ _ _ hq) e.stream s1 k1
    rw [State.onSlice_pump, hK.filledLine]
    exact List.mem_append_right _ (List.mem_singleton_self _)
  have lines2 : ∀ q, (s2.pump c q).slice.lines = (s1.pump c q).slice.lines := fun q =>
    State.each_same (fun t => (t.pump c q).slice.lines) _ (fun t p => by
      by_cases hq : q = p
      · subst hq
        rw [State.onSlice_pump]
        rfl
      · rw [State.onSlice_pump_ne _ _ _ _ _ hq]) e.stream s1
  have fills2 : (s2.chan c).fills = (s.chan c).fills :=
    (State.each_same (fun t => (t.chan c).fills) _ (fun t p => State.onSlice_chan_fills ..) _ s1).trans
      (State.each_same (fun t => (t.chan c).fills) _ (fun t p => State.onSlice_chan_fills ..) _ s)
  clear_value s1 s2
  have pumps : ∀ q, (s2.onChan c fun y => { y with fills := y.fills.erase e }).pump c q = s2.pump c q := fun q => by
    simp only [State.pump, State.onChan_chan]
  refine ⟨?_, fun whole q hq => ?_, fun q hq => ?_, fun q hm hs => ?_⟩
  · rw [State.onChan_chan, ← fills2]
  · rw [State.slice, pumps, lines2]
    exact lines1 q hq whole
  · rw [State.slice, pumps]
    exact streamed2 q hq
  · rw [pumps, same2 q hs, same1 q hm]

/-- The open entry that a delivery closes. -/
def State.fillOf (s : State) (c : Chan) (addr : FabAddr) : Option FillEnt :=
  (s.chan c).fills.find? fun e => e.at_ == s.fillAt c addr &&
    (match e.sect with | some i => offKey addr.off % (s.chan c).lineGrans == i | none => true)

theorem execFillDelivery_eq (addr : FabAddr) (s : State) : execFillDelivery c addr s = match s.fillOf c addr with
    | none => .next s
    | some e => .next (if s.fillWhole c e ∧ !(e.at_.chan == s.addrOf c && s.hbmFrozen c (offKey e.at_.off)) then s.deliverFill c e else s) := rfl

theorem execFillDelivery_closes {addr : FabAddr} (found : s.fillOf c addr = some e) (whole : s.fillWhole c e = true)
    (thawed : e.at_.chan = s.addrOf c → s.hbmFrozen c (offKey e.at_.off) = false) (room : 0 < (s.chan c).lineRoom) :
    Answers (execFillDelivery c addr s) fun t => (t.chan c).fills = (s.chan c).fills.erase e ∧
      (e.sect = none → ∀ q ∈ e.mask, s.filledLine c q e ∈ (t.slice c q).lines) ∧
      (∀ q ∈ e.stream, s.filledLine c q e ∈ (t.slice c q).streamed) ∧ ∀ q, q ∉ e.mask → q ∉ e.stream → t.pump c q = s.pump c q := by
  have go : s.fillWhole c e ∧ !(e.at_.chan == s.addrOf c && s.hbmFrozen c (offKey e.at_.off)) := by
    refine ⟨whole, ?_⟩
    by_cases own : e.at_.chan = s.addrOf c
    · simp [thawed own]
    · simp [own]
  refine ⟨s.deliverFill c e, ?_, State.deliverFill_delivers room⟩
  rw [execFillDelivery_eq, found]
  exact congrArg _ (if_pos go)

theorem execFillDelivery_none {addr : FabAddr} (none_ : s.fillOf c addr = none) : execFillDelivery c addr s = .next s := by
  rw [execFillDelivery_eq, none_]

end

/-! #### Sweeps -/

/-- What an epoch sweep leaves of a slice at a frame (R216). -/
def Slice.swept (sl : Slice) (frame : Nat) : Slice :=
  { sl with lines := sl.lines.filter fun l => match l.epoch with
    | none => true
    | some tag => tag == BitVec.ofNat 16 frame }

theorem Slice.mem_swept (sl : Slice) (frame : Nat) (l : CLine) :
    l ∈ (sl.swept frame).lines ↔ l ∈ sl.lines ∧ (l.epoch = none ∨ l.epoch = some (BitVec.ofNat 16 frame)) := by
  unfold Slice.swept
  rw [List.mem_filter]
  cases l.epoch with
  | none => simp
  | some tag => simp

/-- An operation on every slice of a channel. -/
theorem State.each_slices (F : PumpIx → Slice → Slice) (c : Chan) (q : PumpIx) (s : State) :
    (s.each (List.finRange 128) fun t p => t.onSlice c p (F p)).slice c q = F q (s.slice c q) := by
  rw [State.slice]
  unfold State.onSlice
  rw [State.each_pumps (fun p u => { u with slice := F p u.slice }) c q _ (List.nodup_finRange 128), if_pos (List.mem_finRange q)]
  rfl

theorem execEpochSweep_eq (c : Chan) (s : State) : execEpochSweep c s =
    .next (s.each (List.finRange 128) fun t p => t.onSlice c p fun sl => sl.swept (s.frameOf c p)) := by
  unfold execEpochSweep Slice.swept
  rfl

theorem execEpochSweep_sweeps (c : Chan) (s : State) : Answers (execEpochSweep c s) fun t => ∀ q l, l ∈ (t.slice c q).lines ↔
    l ∈ (s.slice c q).lines ∧ (l.epoch = none ∨ l.epoch = some (BitVec.ofNat 16 (s.frameOf c q))) := by
  refine ⟨_, execEpochSweep_eq c s, fun q l => ?_⟩
  rw [State.each_slices (fun p sl => sl.swept (s.frameOf c p))]
  exact Slice.mem_swept _ _ _

/-- The write-mark planes of a slice after the other parity's has been cleared at a frame (R219). -/
def Slice.unmarked (sl : Slice) (frame : Nat) : Slice :=
  if sl.oldMarks then { sl with oldMarks := false, marks := if frame % 2 = 0 then #v[sl.marks[0], []] else #v[[], sl.marks[1]] } else sl

theorem execMarkPlaneClear_eq (c : Chan) (s : State) : execMarkPlaneClear c s =
    .next (s.each (List.finRange 128) fun t p => t.onSlice c p fun sl => sl.unmarked (s.frameOf c p)) := rfl

theorem execMarkPlaneClear_clears (c : Chan) (s : State) : Answers (execMarkPlaneClear c s) fun t => ∀ q, (s.slice c q).oldMarks = true →
    (t.slice c q).oldMarks = false ∧
    (t.slice c q).marks = if s.frameOf c q % 2 = 0 then #v[(s.slice c q).marks[0], []] else #v[[], (s.slice c q).marks[1]] := by
  refine ⟨_, execMarkPlaneClear_eq c s, fun q old => ?_⟩
  rw [State.each_slices (fun p sl => sl.unmarked (s.frameOf c p)), Slice.unmarked, if_pos old]
  exact ⟨rfl, rfl⟩

end Sys2Proof.Machine


/-! ### The drain of one whole granule (R222, R223) -/

namespace Sys2Proof.Machine

section
variable {x : Held}

/-- An entry that covers every byte gives it. -/
theorem winner_whole (whole : x.mask = 0xFFFFFFFF#32) {b : Nat} (hb : b < 32) : winner [x] none b = some (x.key, gByte x.data b) := by
  have bit : x.mask.getLsbD b = true := by
    rw [whole, show (0xFFFFFFFF#32) = BitVec.allOnes 32 from rfl, BitVec.getLsbD_allOnes]
    exact decide_eq_true hb
  simp [winner, bit]

theorem coverers_one (b : Nat) : ∀ k ∈ coverers [x] none b, k = x.key := by
  intro k hk
  simp only [coverers, List.nil_append, List.mem_dedup, List.mem_map, List.mem_filter, List.mem_singleton] at hk
  obtain ⟨e, ⟨rfl, -⟩, rfl⟩ := hk
  rfl

/-- The bytes that such an entry alone writes, in order. -/
theorem winners_whole (whole : x.mask = 0xFFFFFFFF#32) :
    (List.range 32).filterMap (fun b => (winner [x] none b).map fun w => (b, w.2)) = (List.range 32).map fun b => (b, gByte x.data b) := by
  rw [← List.filterMap_eq_map]
  refine List.filterMap_congr fun b hb => ?_
  rw [winner_whole whole (List.mem_range.1 hb)]
  rfl

variable {s : State} {c : Chan} {k g : Nat} {p : PumpIx}

/-- A whole granule's entry alone is stored as it stands: no byte is in conflict, and nothing is read first. -/
theorem State.applyBytes_whole (j : SlotIx) (frame : Nat) (whole : x.mask = 0xFFFFFFFF#32) (own : s.ownWrite c k frame = none)
    (slice : (keySlice k).isSome = true) :
    s.applyBytes c j k frame [x] = (s.storeAt c (some j) k x.data).onChan c fun h => h.dropLine ⟨s.addrOf c, keyOff k⟩ := by
  unfold State.applyBytes
  extract_lets own_ ws clash s1 narrow
  have none_ : own_ = none := own
  clear_value own_
  subst none_
  have ws_eq : ws = (List.range 32).map fun b => (b, gByte x.data b) := winners_whole whole
  have agree : clash = none := by
    refine List.findSome?_eq_none_iff.2 fun b hb => ?_
    rw [winner_whole whole (List.mem_range.1 hb)]
    dsimp only
    rw [List.find?_eq_none.2 fun k hk => by simp [coverers_one b k hk]]
    rfl
  have still : s1 = s := by
    simp only [s1, agree]
  have wide : ¬narrow := by
    simp only [narrow, ws_eq, List.length_map, List.length_range, Nat.lt_irrefl, not_false_eq_true]
  simp only [if_neg wide]
  clear wide narrow
  clear_value s1 ws
  subst still ws_eq
  rw [List.foldl_map, mergeEach_all, State.mergeBlock, if_pos slice]

/-- An entry without an error reads as it stands. -/
theorem State.heldRead_sound (j : Option SlotIx) (unit at_ : Nat) (v : Granule) : s.heldRead c j unit at_ v 0 = (s, v) := by
  rw [State.heldRead, if_pos rfl]

/-- A store into a live granule of a slice splits no dead range. -/
theorem State.storeAt_live (j : Option SlotIx) (v : Granule) (at_ : keySlice k = some (p, g)) (live : deadAt (s.slice c p).dead (g / 128) = none) :
    s.storeAt c j k v = s.onChan c fun h => h.store k v := by
  have splits : (s.chan c).splitSpills k = false := by
    have live' : deadAt (s.chan c).pumps[p.val].slice.dead (g / 128) = none := live
    simp only [Channel.splitSpills, at_, live']
  unfold State.storeAt
  rw [splits]

/-- What a granule's home holds after a store into a live granule, and its held entries. -/
theorem State.storeAt_get (j : Option SlotIx) (v : Granule) (at_ : keySlice k = some (p, g)) (live : deadAt (s.slice c p).dead (g / 128) = none) (a : FabAddr) :
    ((((s.storeAt c j k v).onChan c fun h => h.dropLine a).slice c p).get g = v) ∧
    (((s.storeAt c j k v).onChan c fun h => h.dropLine a).chan c).held = (s.chan c).held := by
  rw [State.storeAt_live j v at_ live, State.slice, State.pump, State.onChan_chan, State.onChan_chan, Channel.dropLine_get,
    Channel.store_slice _ v at_ live, if_pos rfl, Slice.get_put, if_pos rfl]
  exact ⟨rfl, by simp only [Channel.dropLine, Channel.store, at_]⟩

/-- With one due entry of a whole live granule and nothing else held, the granule's turn writes it (R222). -/
theorem State.applyFrame_whole (held : (s.chan c).held = [x]) (atoms : (s.chan c).atoms = []) (due : s.due c x.slot x.frame = true)
    (whole : x.mask = 0xFFFFFFFF#32) (sound : x.up = 0) (at_ : keySlice (offKey x.off) = some (p, g))
    (live : deadAt (s.slice c p).dead (g / 128) = none)
    (shadow : (s.slice c p).shadows.look g = none) (inbound : (s.slice c p).inbound.look g = none) :
    ((s.applyFrame c (offKey x.off) x.frame).slice c p).get g = x.data ∧ ((s.applyFrame c (offKey x.off) x.frame).chan c).held = [] := by
  unfold State.applyFrame
  extract_lets mineE mineA es as s0 s1
  have mine : mineE x = true := by simp [mineE, due]
  have es_eq : es = [x] := by simp only [es, held, List.filter_cons, mine, if_true, List.filter_nil]
  have as_eq : as = [] := by simp only [as, atoms, List.filter_nil]
  have held0 : (s0.chan c).held = [] := by simp [s0, held, mine]
  have slice0 : s0.slice c p = s.slice c p := by simp only [s0, State.slice, State.pump, State.onChan_chan]
  have s1_eq : s1 = s0 := by
    simp only [s1, at_]
    exact State.foldUpto_none (slice0 ▸ inbound) _
  clear_value es as s1 s0
  subst es_eq as_eq s1_eq
  simp only [List.foldl_cons, List.foldl_nil, sound, State.heldRead_sound, List.nil_append, List.isEmpty_nil, if_true, List.isEmpty_cons,
    Bool.false_eq_true, if_false, at_]
  have own : s1.ownWrite c (offKey x.off) x.frame = none := by
    unfold State.ownWrite
    simp only [at_]
    have none_ : (s1.pump c p).slice.shadows.look g = none := (congrArg (fun sl => sl.shadows.look g) slice0).trans shadow
    rw [none_]
  have same : ({ x with up := 0 } : Held) = x := by
    cases x
    cases sound
    rfl
  rw [same, State.applyBytes_whole _ _ whole own (by simp [at_])]
  obtain ⟨stored, kept⟩ := State.storeAt_get (s := s1) (some x.slot) x.data at_ (slice0 ▸ live) ⟨s1.addrOf c, keyOff (offKey x.off)⟩
  rw [State.onSlice_slice]
  exact ⟨stored, (State.onSlice_chan_held ..).trans (kept.trans held0)⟩

theorem execHeldEntryDrain_writes (held : (s.chan c).held = [x]) (atoms : (s.chan c).atoms = []) (decls : (s.chan c).decls = [])
    (due : s.due c x.slot x.frame = true) (whole : x.mask = 0xFFFFFFFF#32) (sound : x.up = 0) (at_ : keySlice (offKey x.off) = some (p, g))
    (live : deadAt (s.slice c p).dead (g / 128) = none) (shadow : (s.slice c p).shadows.look g = none)
    (inbound : (s.slice c p).inbound.look g = none) :
    Answers (execHeldEntryDrain c s) fun t => (t.slice c p).get g = x.data ∧ (t.chan c).held = [] := by
  have quiet : s.raiseBursts c .sched reqDrain none (s.drainKeys c) = s := by
    have keys : s.drainKeys c = [offKey x.off] := by
      simp only [State.drainKeys, held, List.filter_cons, due, if_true, List.filter_nil, List.map_cons, List.map_nil]
    rw [keys, State.raiseBursts]
    simp only [List.filter_cons, at_, Option.isNone_some, Bool.false_eq_true, if_false, List.filter_nil, List.map_nil]
    rfl
  have applied : s.drain c = s.applyFrame c (offKey x.off) x.frame := by
    have one : s.drain c = s.applyDue c (offKey x.off) := by
      unfold State.drain
      simp only [held, atoms, decls, List.map_cons, List.map_nil, List.append_nil]
      rfl
    rw [one]
    unfold State.applyDue State.applyDecls
    simp only [decls, List.filter_nil]
    have none_ : ∀ f : State → DeadDecl → State, s.each [] f = s := fun _ => rfl
    simp only [none_, held, atoms, List.filter_nil, List.map_nil, List.append_nil, List.filter_cons, beq_self_eq_true, due, Bool.and_self, if_true,
      List.map_cons, List.dedup_cons_of_notMem (List.not_mem_nil), List.dedup_nil]
    rfl
  refine ⟨s.drain c, ?_, ?_⟩
  · rw [execHeldEntryDrain, quiet]
  · rw [applied]
    exact State.applyFrame_whole held atoms due whole sound at_ live shadow inbound

end

end Sys2Proof.Machine


/-! ### CIS_MODE, CIS_CLEAR and the error logs (R202, R233, R246, R253) -/

namespace Sys2Proof.Machine

section
variable {c : Chan} {v : BitVec 32} {s : State}

theorem execCisModeWrite_drops (reach : Reachable s c) (change : v.getLsbD 0 ≠ (s.chan c).cis.sector) (idle : (s.chan c).liveSlots = []) :
    Answers (execCisModeWrite c v s) fun t =>
      (t.chan c).cis = { (s.chan c).cis with sector := v.getLsbD 0, modeErr := (s.chan c).cis.modeErr && !v.getLsbD 1 } ∧
      ∀ q, (t.slice c q).lines = [] ∧ (t.slice c q).streamed = [] := by
  refine ⟨_, rfl, ?_⟩
  rw [State.blockWrite_reachable _ _ _ reach]
  have differs : (v.getLsbD 0 != (s.chan c).cis.sector) = true := bne_iff_ne.2 change
  simp only [differs, idle, List.isEmpty_nil, Bool.not_true, Bool.and_false, Bool.false_eq_true, if_false, Bool.or_false, Bool.not_false, Bool.and_self,
    if_true]
  refine ⟨?_, fun q => ?_⟩
  · rw [State.onChan_chan]
    simp only [State.onCis, State.onChan_chan, w1c]
  · rw [State.slice, State.pump, State.onChan_chan]
    simp only [Vector.getElem_map, and_self]

theorem execCisModeWrite_refuses (reach : Reachable s c) (change : v.getLsbD 0 ≠ (s.chan c).cis.sector) (used : (s.chan c).liveSlots ≠ []) :
    execCisModeWrite c v s = .next (s.onCis c fun y => { y with modeErr := true }) := by
  unfold execCisModeWrite
  rw [State.blockWrite_reachable _ _ _ reach]
  have differs : (v.getLsbD 0 != (s.chan c).cis.sector) = true := bne_iff_ne.2 change
  have live : (s.chan c).liveSlots.isEmpty = false := by simpa using used
  simp only [differs, live, Bool.not_false, Bool.and_self, if_true, Bool.or_true, Bool.not_true, Bool.and_false, Bool.false_eq_true, if_false]

theorem logicalOf_cis (h : Channel) (k : Cistern) (n : Nat) : logicalOf { h with cis := k } n = logicalOf h n := rfl

theorem Channel.slotOf_cis (h : Channel) (k : Cistern) (p : PumpIx) : Channel.slotOf { h with cis := k } p = h.slotOf p := rfl

theorem State.onCis_chan (s : State) (c : Chan) (f : Cistern → Cistern) : (s.onCis c f).chan c = { s.chan c with cis := f (s.chan c).cis } := by
  rw [State.onCis, State.onChan_chan]

/-- What a write of CIS_CLEAR that asks for the clear of a slice does. -/
theorem execCisClear_go {p : PumpIx} (reach : Reachable s c) (go : v.getLsbD 16 = true) (at_ : logicalOf (s.chan c) (field v 0 8) = some p)
    (unit : field v 0 8 < 144) : ∃ f : Cistern → Cistern, execCisClear c v s = .next (if ((s.chan c).slotOf p).isSome then
      (s.onCis c f).onCis c fun x => { x with clrRefused := true }
    else ((s.onCis c f).onCis c fun x => { x with clrBusy := true }).onSlice c p fun sl => { sl with
      mem := [], upset := [], lines := [], streamed := [], clearing := true }) := by
  refine ⟨fun x => { x with clrRefused := w1c x.clrRefused (v.getLsbD 18) }, ?_⟩
  unfold execCisClear
  rw [State.blockWrite_reachable _ _ _ reach]
  dsimp only
  rw [State.onCis_chan, logicalOf_cis, Channel.slotOf_cis, at_, if_pos ⟨go, unit⟩]
  rfl

theorem execCisClear_clears {p : PumpIx} (reach : Reachable s c) (go : v.getLsbD 16 = true) (at_ : logicalOf (s.chan c) (field v 0 8) = some p)
    (unit : field v 0 8 < 144) (free : (s.chan c).slotOf p = none) : Answers (execCisClear c v s) fun t =>
      (t.chan c).cis.clrBusy = true ∧ (t.slice c p).mem = [] ∧ (t.slice c p).clearing = true ∧ ∀ q, q ≠ p → t.pump c q = s.pump c q := by
  obtain ⟨f, runs⟩ := execCisClear_go reach go at_ unit
  refine ⟨_, runs, ?_⟩
  rw [free, Option.isSome_none, if_neg Bool.false_ne_true]
  dsimp only
  rw [State.onSlice_chan_cis, State.onSlice_slice, State.onCis_chan]
  refine ⟨rfl, rfl, rfl, fun q hq => ?_⟩
  rw [State.onSlice_pump_ne _ _ _ _ _ hq, State.pump, State.onCis_chan, State.onCis_chan]
  rfl

theorem execCisClear_refuses {p : PumpIx} (reach : Reachable s c) (go : v.getLsbD 16 = true) (at_ : logicalOf (s.chan c) (field v 0 8) = some p)
    (unit : field v 0 8 < 144) (used : (s.chan c).slotOf p ≠ none) : Answers (execCisClear c v s) fun t =>
      (t.chan c).cis.clrRefused = true ∧ (t.chan c).pumps = (s.chan c).pumps := by
  obtain ⟨f, runs⟩ := execCisClear_go reach go at_ unit
  refine ⟨_, runs, ?_⟩
  rw [if_pos (Option.isSome_iff_ne_none.2 used)]
  dsimp only
  rw [State.onCis_chan, State.onCis_chan]
  exact ⟨rfl, rfl⟩

theorem execClearComplete_ends (c : Chan) (s : State) : Answers (execClearComplete c s) fun t =>
    (t.chan c).cis = { (s.chan c).cis with clrBusy := false } ∧
    ∀ q, (t.pump c q) = { s.pump c q with slice := { s.slice c q with clearing := false } } := by
  refine ⟨_, rfl, ?_, fun q => ?_⟩
  · rw [State.onChan_chan, State.onCis_chan]
  · rw [State.pump, State.onChan_chan, State.onCis_chan]
    simp only [Vector.getElem_map]
    rfl

end

/-- Settles O36: each command by the lemma above that says what it does. -/
theorem cisternCommands : Obligations.CisternCommands := by
  unfold Obligations.CisternCommands
  intro c p addr j e x g v s
  dsimp only
  simp only [exec]
  refine ⟨fun hj miss => ⟨execFillOpen_opens hj miss, execFillOpen_waits hj miss, execFillOpen_joins hj miss⟩, execFillDelivery_closes,
    execFillDelivery_none, execHeldEntryDrain_writes, execEpochSweep_sweeps c s, execMarkPlaneClear_clears c s, fun reach => ?_,
    execClearComplete_ends c s⟩
  refine ⟨execCisModeWrite_drops reach, execCisModeWrite_refuses reach, fun go at_ unit =>
    ⟨execCisClear_clears reach go at_ unit, execCisClear_refuses reach go at_ unit⟩, ?_, ?_⟩
  · rw [execCeClear, State.blockWrite_reachable _ _ _ reach]
  · rw [execLogClear, State.blockWrite_reachable _ _ _ reach]

end Sys2Proof.Machine

/-! ### The scrubber's walk over a slice (R254-R257) -/

namespace Sys2Proof.Machine

/-- Corrected granules counted under SOURCE 0, the slices (Table 9.4). -/
def Cistern.sliceCe (k : Cistern) : Nat := k.ceCount[(0 : Fin 8).val]

/-- What a corrected granule of a slice changes in the channel's logs (R245, R246): one more under SOURCE 0, and no pump. -/
theorem State.logCe_slice (s : State) (c : Chan) (unit addr sym : Nat) (wrote : Bool) :
    ((s.logCe c 0 unit addr sym wrote).chan c).pumps = (s.chan c).pumps ∧
    ((s.logCe c 0 unit addr sym wrote).chan c).cis.sliceCe = sat64 (s.chan c).cis.sliceCe 1 := by
  have defect : ∀ (t : State) (k : DefectKind) (src u loc : Nat), ((t.addDefect c k src u loc).chan c).pumps = (t.chan c).pumps ∧
      ((t.addDefect c k src u loc).chan c).cis = (t.chan c).cis := fun t k src u loc => by
    unfold State.addDefect
    dsimp only
    split
    · exact ⟨rfl, rfl⟩
    split <;> simp
  unfold State.logCe
  extract_lets h same fresh log oldest log' counts t1 hard t2
  have pumps1 : (t1.chan c).pumps = (s.chan c).pumps := by
    simp only [t1, State.onCis_chan]
  have count1 : (t1.chan c).cis.sliceCe = sat64 (s.chan c).cis.sliceCe 1 := by
    simp only [t1, State.onCis_chan, counts, Cistern.sliceCe]
    exact upd_get_self (s.chan c).cis.ceCount (0 : Fin 8) (sat64 · 1)
  have t2_eq : t2 = t1 := rfl
  rw [t2_eq]
  split
  · exact ⟨(defect t1 ..).1.trans pumps1, (congrArg Cistern.sliceCe (defect t1 ..).2).trans count1⟩
  · exact ⟨pumps1, count1⟩

section
variable {c : Chan} {p : PumpIx} {unit gran k : Nat} {val : Granule} {err : CodeWord} {s : State}

/-- A live and valid granule of a slice. -/
structure LiveGranule (s : State) (c : Chan) (p : PumpIx) (gran k : Nat) (val : Granule) : Prop where
  key : keySlice k = some (p, gran)
  valid : (s.slice c p).mem.look gran = some val
  live : deadAt (s.slice c p).dead (gran / 128) = none

namespace LiveGranule

theorem isDead (h : LiveGranule s c p gran k val) : (s.chan c).isDead k = false := by
  simp only [Channel.isDead, h.key]
  exact Option.isSome_eq_false_iff.2 (Option.isNone_iff_eq_none.2 h.live)

theorem raw (h : LiveGranule s c p gran k val) : (s.chan c).raw k = val := by
  have live : deadAt (s.chan c).pumps[p.val].slice.dead (gran / 128) = none := h.live
  have valid : (s.chan c).pumps[p.val].slice.mem.look gran = some val := h.valid
  simp only [Channel.raw, h.key, live, Slice.get, valid, Option.getD_some]

theorem upsetAt (h : LiveGranule s c p gran k val) : (s.chan c).upsetAt k = (s.slice c p).upset.readD 0 gran := by
  simp only [Channel.upsetAt, h.key]
  rfl

/-- The scrubber leaves a clean granule and writes a corrected one back. -/
theorem scrubKey (h : LiveGranule s c p gran k val) (stored : (s.slice c p).upset.readD 0 gran = err) :
    (bscDecode err = .clean → ∀ wb, s.scrubKey c k wb = (s, .clean)) ∧
    (∀ i y, bscDecode err = .corrected i y →
      (s.scrubKey c k true).1 = (s.checked c k val err).1) := by
  have valid : ((s.chan c).pumps[p.val].slice.mem.look gran).isNone = false :=
    (congrArg Option.isNone h.valid).trans rfl
  unfold State.scrubKey
  simp only [h.isDead, h.key, valid, Bool.false_eq_true, or_self, if_false, h.upsetAt, stored, h.raw]
  exact ⟨fun clean wb => by rw [clean], fun i y corr => by rw [corr]; rfl⟩

/-- A corrected granule of a slice is written back, sound, and counted under SOURCE 0 (R245). -/
theorem checked (h : LiveGranule s c p gran k val) (sorted : SMap.sorted (s.slice c p).upset) {i : Nat} {y : BitVec 8}
    (corr : bscDecode err = .corrected i y) :
    ((s.checked c k val err).1.slice c p).get gran = val ^^^ (err ^^^ oneSymbol i y).setWidth 256 ∧
    ((s.checked c k val err).1.slice c p).upset.readD 0 gran = 0 ∧
    ((s.checked c k val err).1.chan c).cis.sliceCe = sat64 (s.chan c).cis.sliceCe 1 := by
  unfold State.checked
  simp only [corr, h.key, keySource, Option.isSome_some, if_true]
  generalize (s.unitOf c k) = place
  obtain ⟨unit, addr⟩ := place
  obtain ⟨pumps, count⟩ := s.logCe_slice c unit addr i true
  dsimp only
  generalize s.logCe c 0 unit addr i true = t at pumps count ⊢
  have slice : t.slice c p = s.slice c p := by simp only [State.slice, State.pump, pumps]
  have live' : deadAt (t.slice c p).dead (gran / 128) = none := slice ▸ h.live
  have stored : ((t.onChan c fun x => x.store k (val ^^^ (err ^^^ oneSymbol i y).setWidth 256)).slice c p) =
      (s.slice c p).put gran (val ^^^ (err ^^^ oneSymbol i y).setWidth 256) := by
    rw [State.slice, State.pump, State.onChan_chan, Channel.store_slice _ _ h.key live', if_pos rfl]
    exact congrArg (fun sl : Slice => sl.put gran _) slice
  refine ⟨?_, ?_, ?_⟩
  · rw [stored, Slice.get_put, if_pos rfl]
  · rw [stored, Slice.put, SMap.readD]
    exact congrArg (Option.getD · 0) (SMap.look_drop1_self _ _ sorted)
  · rw [State.onChan_chan]
    simp only [Channel.store, h.key]
    exact count

end LiveGranule

/-- A live, valid and sound granule of the pinned region of a slice in use. -/
structure ScrubSite (s : State) (c : Chan) (p : PumpIx) (unit gran : Nat) (val : Granule) : Prop extends LiveGranule s c p gran (sliceKey p gran) val where
  units : unit < 144
  below : gran + (s.chan c).heldShare < 524288
  pinned : gran < (s.chan c).pinned
  slice : logicalOf (s.chan c) unit = some p
  sound : (s.slice c p).upset.readD 0 gran = 0
  sorted : SMap.sorted (s.slice c p).upset

namespace ScrubSite

/-- The scrubber checks such a granule at its place in the slice. -/
theorem scrubAt (h : ScrubSite s c p unit gran val) (wb : Bool) :
    s.scrubAt c false unit gran err wb = (s.upset c (sliceKey p gran) err).scrubKey c (sliceKey p gran) wb := by
  obtain ⟨⟨-, valid, -⟩, -, below, pinned, slice, -, -⟩ := h
  rw [State.scrubAt, if_neg Bool.false_ne_true, slice]
  dsimp only
  rw [if_neg (by omega), if_neg (by omega), valid, Option.isSome_some, if_pos rfl]

theorem scrubAt_clean (h : ScrubSite s c p unit gran val) (wb : Bool) : s.scrubAt c false unit gran 0 wb = (s, .clean) := by
  rw [h.scrubAt wb, State.upset, if_pos rfl]
  exact (h.scrubKey h.sound).1 bscDecode_zero wb

/-- A granule that an upset has damaged is written back corrected. -/
theorem scrubAt_corrected (h : ScrubSite s c p unit gran val) {i : Nat} {y : BitVec 8} (corr : bscDecode err = .corrected i y) :
    ((s.scrubAt c false unit gran err true).1.slice c p).get gran = val ^^^ (err ^^^ oneSymbol i y).setWidth 256 ∧
    ((s.scrubAt c false unit gran err true).1.slice c p).upset.readD 0 gran = 0 ∧
    ((s.scrubAt c false unit gran err true).1.chan c).cis.sliceCe = sat64 (s.chan c).cis.sliceCe 1 := by
  have damaged : err ≠ 0 := by
    rintro rfl
    rw [bscDecode_zero] at corr
    cases corr
  rw [h.scrubAt true, State.upset, if_neg damaged]
  simp only [h.key]
  have hit : LiveGranule (s.onSlice c p fun sl => { sl with upset := sl.upset.write 0 gran (sl.upset.readD 0 gran ^^^ err) }) c p gran
      (sliceKey p gran) val := ⟨h.key, by rw [State.onSlice_slice]; exact h.valid, by rw [State.onSlice_slice]; exact h.live⟩
  have stored : ((s.onSlice c p fun sl => { sl with upset := sl.upset.write 0 gran (sl.upset.readD 0 gran ^^^ err) }).slice c p).upset.readD 0 gran =
      err := by
    rw [State.onSlice_slice]
    dsimp only
    rw [SMap.readD_write_self _ _ _ _ h.sorted, h.sound, zero_xor_codeWord]
  rw [(hit.scrubKey stored).2 i y corr]
  obtain ⟨get, upset, count⟩ := hit.checked (by rw [State.onSlice_slice]; exact SMap.sorted_write _ _ _ _ h.sorted) corr
  exact ⟨get, upset, count.trans (by rw [State.onSlice_chan_cis])⟩

/-- The background walk at such a granule, while no ranged pass is under way. -/
theorem execScrubStep_walks (h : ScrubSite s c p unit gran val) (idle : (s.chan c).cis.busy = false) (on : (s.chan c).cis.cisRate ≠ 0)
    (err : CodeWord) : execScrubStep c false unit gran err s = .next (s.scrubAt c false unit gran err true).1 := by
  unfold execScrubStep
  simp only [idle, Bool.false_and, Bool.false_eq_true, if_false, State.unitGrans, if_pos h.units]
  rw [if_neg]
  rintro (off | out)
  · exact on off
  · exact absurd h.below (by omega)

/-- The ranged pass at a clean granule, its next one: it is counted as read (R258). -/
theorem execScrubStep_passes (h : ScrubSite s c p unit gran val) (busy : (s.chan c).cis.busy = true) (hbm : (s.chan c).cis.passHbm = false)
    (unit_ : (s.chan c).cis.passUnit = unit) (pos : (s.chan c).cis.passPos = gran) (more : gran < (s.chan c).cis.passEnd) :
    execScrubStep c false unit gran 0 s =
      .next (s.onCis c fun y => { y with passPos := y.passPos + 1, sumRead := y.sumRead + 1 }) := by
  unfold execScrubStep
  simp only [busy, hbm, unit_, pos, decide_eq_true more, beq_self_eq_true, Bool.and_self, if_true, h.scrubAt_clean]
  rfl

end ScrubSite

end

end Sys2Proof.Machine


/-! ### Windows, ranged passes and the service of the HBM (R255, R258, R263, R265, R266, R466) -/

namespace Sys2Proof.Machine

theorem execScrubWindow_levels (c : Chan) (s : State) : Answers (execScrubWindow c s) fun t => (t.chan c).cis.windowCe = 0 ∧
    ((s.chan c).cis.auto = false → (t.chan c).cis.level = (s.chan c).cis.level) ∧
    ((s.chan c).cis.auto = true → (s.chan c).cis.raise < (s.chan c).cis.windowCe →
      (t.chan c).cis.level = min 2 ((s.chan c).cis.level + 1) ∧ (t.chan c).cis.quiet = 0) ∧
    ((s.chan c).cis.auto = true → (s.chan c).cis.windowCe ≤ (s.chan c).cis.raise → 60 ≤ (s.chan c).cis.quiet + 1 →
      (t.chan c).cis.level = (s.chan c).cis.level - 1 ∧ (t.chan c).cis.quiet = 0) ∧
    ((s.chan c).cis.auto = true → (s.chan c).cis.windowCe ≤ (s.chan c).cis.raise → (s.chan c).cis.quiet + 1 < 60 →
      (t.chan c).cis.level = (s.chan c).cis.level ∧ (t.chan c).cis.quiet = (s.chan c).cis.quiet + 1) := by
  refine ⟨_, rfl, ?_⟩
  dsimp only
  rw [State.onCis_chan]
  generalize (s.chan c).cis = x
  dsimp only
  refine ⟨?_, fun off => ?_, fun on more => ?_, fun on few long => ?_, fun on few short => ?_⟩
  · split
    · rfl
    split
    · rfl
    split <;> rfl
  · simp [off]
  · simp [on, more]
  · simp [on, Nat.not_lt.2 few, long]
  · simp [on, Nat.not_lt.2 few, Nat.not_le.2 short]

theorem State.unitGrans_cis (s : State) (c : Chan) (f : Cistern → Cistern) (hbm : Bool) (unit : Nat) :
    (s.onCis c f).unitGrans c hbm unit = s.unitGrans c hbm unit := by
  simp only [State.unitGrans, State.onCis_chan]

theorem execScrubRangeGo_starts {c : Chan} {v : BitVec 32} {s : State} (reach : Reachable s c) (go : v.getLsbD 0 = true) :
    Answers (execScrubRangeGo c v s) fun t =>
      if (s.chan c).cis.busy then (t.chan c).cis.busyErr = true ∧ (t.chan c).cis.passPos = (s.chan c).cis.passPos
      else (t.chan c).cis.busy = true ∧ (t.chan c).cis.passPos = (s.chan c).cis.start.toNat ∧ (t.chan c).cis.sumRead = 0 ∧
        (t.chan c).cis.sumFirst = none ∧ (t.chan c).cis.passEnd =
          min ((s.chan c).cis.start.toNat + ((s.chan c).cis.count.toNat + 1)) (s.unitGrans c (v.getLsbD 2) (field v 4 8)) := by
  refine ⟨_, rfl, ?_⟩
  rw [State.blockWrite_reachable _ _ _ reach, go]
  simp only [if_true, State.onCis_chan]
  cases busy : (s.chan c).cis.busy with
  | true => simp only [if_true, State.onCis_chan, and_self]
  | false =>
    simp only [Bool.false_eq_true, if_false, State.startPass, State.onCis_chan, State.unitGrans_cis, and_self]

theorem execScrubPassComplete_ends {c : Chan} {s : State} (busy : (s.chan c).cis.busy = true)
    (ended : (s.chan c).cis.passEnd ≤ (s.chan c).cis.passPos) (own : (s.chan c).cis.passFor = none) :
    execScrubPassComplete c s = .next (s.onCis c fun y => { y with busy := false }) := by
  unfold execScrubPassComplete
  dsimp only
  rw [if_pos ⟨busy, ended⟩, own]
  refine congrArg _ (State.onChan_congr ?_)
  dsimp only
  rw [own]

theorem execRefresh_counts (c : Chan) (st : StackIx) (s : State) : Answers (execRefresh c st s) fun t => OnlyChan c s t ∧
    (t.chan c).hbm = (s.chan c).hbm ∧
    (t.chan c).stack[st.val] = { (s.chan c).stack[st.val] with refreshes := (s.chan c).stack[st.val].refreshes + 1 } := by
  refine ⟨_, rfl, OnlyChan.onChan c s _, ?_, ?_⟩
  · rw [State.onChan_chan]
  · rw [State.onChan_chan]
    exact upd_get_self _ _ _

theorem OnlyChan.refl (c : Chan) (s : State) : OnlyChan c s s := by
  have same := OnlyChan.onChan c s id
  have id_ : s.onChan c id = s := by simp [State.onChan, upd]
  rwa [id_] at same

/-- A raised request changes the arbiters and the regulation of its channel alone. -/
theorem State.raise_only (s : State) (c : Chan) (port : ArbPort) (cls : ReqClass) (who : Nat) (slot : Option SlotIx) (n : Nat) {u : State}
    (h : OnlyChan c u s) : OnlyChan c u (s.raise c port cls who slot n) := by
  refine State.each_invariant (OnlyChan c u) _ (fun t _ ht => ?_) _ s h
  unfold State.raiseOne
  split
  · exact (ht.then _).then _
  · exact ht.then _

theorem execHbmReadRecentre_counts (c : Chan) (s : State) : Answers (execHbmReadRecentre c s) fun t => OnlyChan c s t ∧
    (t.chan c).hbm = (s.chan c).hbm ∧
    ∀ i : StackIx, (t.chan c).stack[i.val].recentred = (s.chan c).stack[i.val].recentred + 1 := by
  unfold execHbmReadRecentre
  extract_lets ports
  have raised : OnlyChan c s (s.each ports fun t u => t.raise c (hbmPort u.val) .scrub reqScrub none 8) :=
    State.each_invariant (OnlyChan c s) _ (fun t u ht => t.raise_only c _ _ _ _ _ ht) _ s (OnlyChan.refl c s)
  have alike := (Alike.each (f := fun x : Channel => (x.hbm, x.stack)) (fun (t : State) (u : Fin 128) => t.raise c (hbmPort u.val) .scrub reqScrub none 8)
    (fun t u => State.raise_alike (fun _ _ => rfl) (fun _ _ => rfl) t c _ _ _ _ _) ports s) c
  generalize (s.each ports fun t u => t.raise c (hbmPort u.val) .scrub reqScrub none 8) = t at raised alike
  obtain ⟨hbm, stack⟩ := Prod.mk.inj alike
  refine ⟨_, rfl, raised.then _, ?_, fun i => ?_⟩
  · rw [State.onChan_chan]
    exact hbm
  · rw [State.onChan_chan]
    simp only [Vector.getElem_map, stack]

/-- A stack after its training (R263, R265). -/
def Stack.trained (k : Stack) (rate : BitVec 2) (pcUp : BitVec 32) : Stack :=
  { k with
    rate := rate, pcUp := if rate = 3 then 0 else pcUp,
    retrain := k.retrain && !decide (k.lanesRep < Config.hbmSparePins),
    lanesRep := if k.retrain ∧ k.lanesRep < Config.hbmSparePins then sat8 k.lanesRep 1 else k.lanesRep }

theorem execHbmTrainingComplete_eq (c : Chan) (st : StackIx) (rate : BitVec 2) (pcUp : BitVec 32) (s : State) :
    execHbmTrainingComplete c st rate pcUp s =
      .next (if rate = 3 then (s.onChan c fun h => { h with stack := upd h.stack st fun k => k.trained rate pcUp }).leave c 8
        else s.onChan c fun h => { h with stack := upd h.stack st fun k => k.trained rate pcUp }) := rfl

theorem execHbmTrainingComplete_trains {c : Chan} {st : StackIx} {rate : BitVec 2} {pcUp : BitVec 32} {s : State} (up : rate ≠ 3) :
    Answers (execHbmTrainingComplete c st rate pcUp s) fun t => OnlyChan c s t ∧ (t.chan c).stack[st.val] =
      { (s.chan c).stack[st.val] with
        rate := rate, pcUp := pcUp,
        retrain := (s.chan c).stack[st.val].retrain && !decide ((s.chan c).stack[st.val].lanesRep < Config.hbmSparePins),
        lanesRep := if (s.chan c).stack[st.val].retrain ∧ (s.chan c).stack[st.val].lanesRep < Config.hbmSparePins then
            sat8 (s.chan c).stack[st.val].lanesRep 1 else (s.chan c).stack[st.val].lanesRep } := by
  refine ⟨_, execHbmTrainingComplete_eq c st rate pcUp s, ?_⟩
  rw [if_neg up]
  refine ⟨OnlyChan.onChan c s _, ?_⟩
  rw [State.onChan_chan]
  refine (upd_get_self _ _ _).trans ?_
  rw [Stack.trained, if_neg up]

theorem execHbmTrainingComplete_fails (c : Chan) (st : StackIx) (pcUp : BitVec 32) (s : State) :
    Answers (execHbmTrainingComplete c st 3 pcUp s) fun t => (t.chan c).stack[st.val].pcUp = 0 ∧
      (t.chan c).st.oos.getLsbD 8 = true ∧ t.serving c = false := by
  refine ⟨_, execHbmTrainingComplete_eq c st 3 pcUp s, ?_⟩
  rw [if_pos rfl]
  refine ⟨?_, State.leave_oos _ c (by decide), State.leave_serving _ c 8⟩
  rw [(State.leave_minor _ c 8).stack]
  have left : ∀ t : State, ((t.left c 8).chan c).stack = (t.chan c).stack := fun t => by simp [State.left, State.domainsOff]
  rw [left, State.onChan_chan]
  exact congrArg Stack.pcUp (upd_get_self _ _ _)

/-- Settles O37: each command by the lemma above that says what it does. -/
theorem scrubAndHbmService : Obligations.ScrubAndHbmService := by
  unfold Obligations.ScrubAndHbmService
  intro c p unit gran v val err st rate pcUp s
  dsimp only
  simp only [exec]
  refine ⟨fun units below pinned slice valid live sound sorted => ?_, execScrubWindow_levels c s, execScrubRangeGo_starts,
    execScrubPassComplete_ends, execRefresh_counts c st s, execHbmReadRecentre_counts c s, execHbmTrainingComplete_trains,
    execHbmTrainingComplete_fails c st pcUp s⟩
  have site : ScrubSite s c p unit gran val := ⟨⟨keySlice_sliceKey (by omega), valid, live⟩, units, below, pinned, slice, sound, sorted⟩
  refine ⟨fun idle on => ⟨?_, fun i y corr => ?_⟩, site.execScrubStep_passes⟩
  · rw [site.execScrubStep_walks idle on, site.scrubAt_clean]
  · exact ⟨_, site.execScrubStep_walks idle on err, site.scrubAt_corrected corr⟩

end Sys2Proof.Machine

/-! ### Private writes of a plain granule (R210, R234) -/

namespace Sys2Proof.Machine

/-- A merge into a merge under the same mask. -/
theorem gMerge_gMerge (old v : Granule) (mask : BitVec 32) : gMerge old (gMerge old v mask) mask = gMerge old v mask := by
  refine BitVec.eq_of_getLsbD_eq fun i _ => ?_
  simp only [gMerge_getLsbD]
  split <;> rfl

/-- A merge of every byte. -/
theorem gMerge_all (old v : Granule) : gMerge old v 0xFFFFFFFF#32 = v := by
  refine granule_ext fun b hb => ?_
  rw [gByte_gMerge, show (0xFFFFFFFF#32) = BitVec.allOnes 32 from rfl, BitVec.getLsbD_allOnes, decide_eq_true hb, if_pos rfl]

section
variable {s : State} {c : Chan} {p : PumpIx} {g : Nat}

/-- A memory operation leaves a pump's thread engine, code apart. -/
theorem engine_of_shown {t : State} (h : t.shown (ctlOf c p) = s.shown (ctlOf c p)) : (t.pump c p).engine = (s.pump c p).engine :=
  Pump.engine_of_ctl h

/-- The shadow that a write leaves changes no granule of the slice. -/
theorem State.shadow_slice (s : State) (c : Chan) (p : PumpIx) (g : Nat) (mask : BitVec 32) :
    ((s.shadow c p g mask).slice c p).mem = (s.slice c p).mem ∧ ((s.shadow c p g mask).slice c p).dead = (s.slice c p).dead ∧
    ((s.shadow c p g mask).slice c p).upset = (s.slice c p).upset := by
  unfold State.shadow
  split
  · extract_lets f sl plane
    split
    · simp
    · split
      · split
        · have same : ∀ (j : SlotIx) (q : Option PumpIx) (kind used : Nat), (s.heldFull c j q kind used).slice c p = s.slice c p := fun j q kind used => by
            unfold State.heldFull
            rw [State.fault_slice]
            simp only [State.slice, event_pump]
          rw [same]
          exact ⟨rfl, rfl, rfl⟩
        · exact ⟨rfl, rfl, rfl⟩
      · simp
  · exact ⟨rfl, rfl, rfl⟩

/-- A live and sound granule of a slice. -/
theorem PlainGranule.afterShadow (h : PlainGranule s c p g) (mask : BitVec 32) (hg : g < 2 ^ 19) :
    deadAt ((s.shadow c p g mask).slice c p).dead (g / 128) = none ∧ ((s.shadow c p g mask).chan c).upsetAt (sliceKey p g) = 0 ∧
    ((s.shadow c p g mask).chan c).raw (sliceKey p g) = (s.slice c p).get g := by
  obtain ⟨mem, dead, upset⟩ := s.shadow_slice c p g mask
  obtain ⟨-, -, -, -, live, sound⟩ := h
  generalize s.shadow c p g mask = t at mem dead upset
  have live' : deadAt (t.chan c).pumps[p.val].slice.dead (g / 128) = none := (congrArg (deadAt · (g / 128)) dead).trans live
  refine ⟨live', ?_, ?_⟩
  · rw [Channel.upsetAt]
    simp only [keySlice_sliceKey hg]
    exact (congrArg (fun m : SMap CodeWord => m.readD 0 g) upset).trans sound
  · rw [Channel.raw]
    simp only [keySlice_sliceKey hg, live']
    exact congrArg (fun m : SMap Granule => (m.look g).getD 0) mem

/-- A write of a live granule of a slice, its shadow taken before. -/
theorem State.storeAt_slice {t : State} {k : Nat} (j : Option SlotIx) (v : Granule) (at_ : keySlice k = some (p, g))
    (live : deadAt (t.slice c p).dead (g / 128) = none) : ((t.storeAt c j k v).slice c p).get g = v := by
  rw [State.storeAt_live j v at_ live, State.slice, State.pump, State.onChan_chan,
    Channel.store_slice _ v at_ live, if_pos rfl, Slice.get_put, if_pos rfl]

/-- A read–modify–write finds a sound granule as it stands. -/
theorem State.forWrite_sound {t : State} {k : Nat} (sound : (t.chan c).upsetAt k = 0) : t.forWrite c k = (t, some ((t.chan c).raw k)) := by
  rw [State.forWrite]
  dsimp only
  rw [if_pos sound]

/-- A count of narrow writes changes no slice. -/
@[simp] theorem State.countNarrow_slice (t : State) (i : SlotIx) : (t.countNarrow c i).slice c p = t.slice c p := by
  simp only [State.countNarrow, State.slice, State.onRegs_chan_pumps, State.pump]

/-- The owner's write of some bytes of a plain granule. -/
theorem PlainGranule.writeOwn (h : PlainGranule s c p g) (hg : g < 2 ^ 19) (free : s.barredPump c p (s.addrOf c) (sliceKey p g) = none)
    {mask : BitVec 32} (some_ : mask ≠ 0) (v : Granule) :
    ((s.writeOwn c p g mask v).slice c p).get g = gMerge ((s.slice c p).get g) v mask := by
  obtain ⟨live, sound, raw⟩ := h.afterShadow mask hg
  have settled := h.settle hg
  -- the written state by a name: comparing its slices would evaluate the write
  generalize written : s.writeOwn c p g mask v = w
  unfold State.writeOwn at written
  rw [if_neg some_] at written
  split at written
  · next j barred => exact absurd (free.symm.trans barred) (by simp)
  extract_lets k s1 j at written
  have s1_eq : s1 = s.shadow c p g mask := congrArg (State.shadow · c p g mask) settled
  rw [← s1_eq] at live sound raw
  have at_ : keySlice k = some (p, g) := keySlice_sliceKey hg
  have k_eq : sliceKey p g = k := rfl
  rw [k_eq] at sound raw
  have stored : ∀ o u, ((s1.storeAt c o k u).slice c p).get g = u := fun o u => State.storeAt_slice _ _ at_ live
  split at written
  · next all => rw [← written, stored, all, gMerge_all]
  rcases found : s1.forWrite c k with ⟨s2, _ | old⟩
  · exact absurd ((State.forWrite_sound sound).symm.trans found) (by simp)
  obtain ⟨same, was⟩ := Prod.mk.inj ((State.forWrite_sound sound).symm.trans found)
  have was : old = (s.slice c p).get g := (Option.some.inj was).symm.trans raw
  have stored : ∀ o, ((s2.storeAt c o k (gMerge old v mask)).slice c p).get g = gMerge ((s.slice c p).get g) v mask := fun o => by
    rw [← same, stored, was]
  rw [found] at written
  rcases j with _ | i
  · rw [← written, stored]
  · rw [← written, State.countNarrow_slice, stored]

/-- An own write of some bytes of a plain granule that has no echo. -/
theorem PlainGranule.writePrivate (h : PlainGranule s c p g) (hg : g < 2 ^ 19) (free : s.barredPump c p (s.addrOf c) (sliceKey p g) = none)
    (silent : ∀ e ∈ (s.slice c p).echoes, e.on ⟨s.addrOf c, keyOff (sliceKey p g)⟩ = false)
    {mask : BitVec 32} (some_ : mask ≠ 0) (v : Granule) :
    ((s.writePrivate c p g mask v).slice c p).get g = gMerge ((s.slice c p).get g) v mask := by
  have strip : s.stripOwn c p g mask = s := by
    unfold State.stripOwn
    extract_lets k a key frame mine
    have none_ : ((s.chan c).held.any mine || (s.slice c p).echoes.any (·.on a)) = false := by
      rw [Bool.or_eq_false_iff, List.any_eq_false, List.any_eq_false]
      refine ⟨fun e he => ?_, fun e he => by rw [silent e he]; exact Bool.false_ne_true⟩
      have other : (offKey e.off == k) = false := beq_eq_false_iff_ne.2 (h.1 e he)
      simp only [mine, other, Bool.false_and, Bool.false_eq_true, not_false_eq_true]
    rw [none_, if_neg Bool.false_ne_true]
  rw [State.writePrivate, strip]
  exact h.writeOwn hg free some_ v

end

end Sys2Proof.Machine


/-! ### Slice atomics of the thread engine (R163, R164) -/

namespace Sys2Proof.Machine

section
variable (s : State) (c : Chan) (p : PumpIx) (f : Te → Te)

@[simp] theorem State.onTe_mc : (s.onTe c p f).mc = s.mc := rfl

/-- A view of the channels beside their pumps. -/
theorem State.onTe_view {α : Type} (O : Channel → α) (hO : ∀ h v, O { h with pumps := v } = O h) (d : Chan) : O ((s.onTe c p f).chan d) = O (s.chan d) := by
  by_cases h : d = c
  · subst h
    rw [State.onTe, State.onPump, State.onChan_chan, hO]
  · rw [State.onTe, State.onPump_chan_ne s c d p _ h]

@[simp] theorem State.onTe_slot (d : Chan) (j : SlotIx) : (s.onTe c p f).slot d j = s.slot d j :=
  s.onTe_view c p f (fun h => h.slots[j.val]) (fun _ _ => rfl) d

@[simp] theorem State.onTe_addrOf (d : Chan) : (s.onTe c p f).addrOf d = s.addrOf d := rfl

@[simp] theorem State.onTe_job (ctx job : Nat) : (s.onTe c p f).job ctx job = s.job ctx job := rfl

theorem State.onTe_slots (d : Chan) : ((s.onTe c p f).chan d).slots = (s.chan d).slots := s.onTe_view c p f Channel.slots (fun _ _ => rfl) d

@[simp] theorem State.onTe_slotOf (d : Chan) (q : PumpIx) : ((s.onTe c p f).chan d).slotOf q = (s.chan d).slotOf q :=
  Channel.slotOf_congr (s.onTe_slots c p f d) q

@[simp] theorem State.onTe_barred (d : Chan) (j : SlotIx) (ch : ChanAddr) (k : Nat) : (s.onTe c p f).barred d j ch k = s.barred d j ch k := by
  simp only [State.barred, State.onTe_slot, State.onTe_mc, State.onTe_job]

@[simp] theorem State.onTe_barredPump (d : Chan) (q : PumpIx) (ch : ChanAddr) (k : Nat) : (s.onTe c p f).barredPump d q ch k = s.barredPump d q ch k := by
  simp only [State.barredPump, State.onTe_slotOf, State.onTe_barred]

theorem State.onTe_pinned (d : Chan) : ((s.onTe c p f).chan d).pinned = (s.chan d).pinned := s.onTe_view c p f Channel.pinned (fun _ _ => rfl) d

@[simp] theorem State.onTe_localChan (a : ChanAddr) : (s.onTe c p f).localChan a = s.localChan a := rfl

@[simp] theorem State.onTe_teKey (ch : ChanAddr) (off : Nat) : (s.onTe c p f).teKey c p ch off = s.teKey c p ch off := rfl

@[simp] theorem State.onTe_unpinned (ch : ChanAddr) (k : Nat) : (s.onTe c p f).unpinned ch k = s.unpinned ch k := by
  simp only [State.unpinned, State.onTe_localChan, State.onTe_pinned]

theorem State.onTe_vch : ((s.onTe c p f).pump c p).vch = (s.pump c p).vch := by simp [State.onTe]

@[simp] theorem State.onTe_dva (a : BitVec 64) : (s.onTe c p f).dva c p a = s.dva c p a := by
  simp only [State.dva, State.dvaOf, State.onTe_slotOf, State.onTe_slot, State.onTe_vch, State.onTe_mc]

@[simp] theorem State.onTe_strictAt (d : Chan) (q : PumpIx) : (s.onTe c p f).strictAt d q = s.strictAt d q := by
  simp only [State.strictAt, State.onTe_slotOf, State.onTe_slot]

@[simp] theorem State.onTe_laneAt (k : Kernel) (sp : Space) (a : BitVec 64) (n align : Nat) (r : Right) :
    (s.onTe c p f).laneAt c p k sp a n align r = s.laneAt c p k sp a n align r := by
  simp only [State.laneAt, State.onTe_addrOf, State.onTe_dva, State.onTe_strictAt, State.onTe_unpinned, State.onTe_teKey]

@[simp] theorem State.onTe_lanesAt (k : Kernel) (x : Group) (y : Path) (sp : Space) (n align : Nat) (addr : TReg) (r : Right) :
    (s.onTe c p f).lanesAt c p k x y sp n align addr r = s.lanesAt c p k x y sp n align addr r := by
  simp only [State.lanesAt, State.onTe_laneAt]

@[simp] theorem State.teStart_lanesAt (g : GSlot) (z : Path) (rs : List TReg) (k : Kernel) (x : Group) (y : Path) (sp : Space) (n align : Nat)
    (addr : TReg) (r : Right) : (s.teStart c p g z rs).lanesAt c p k x y sp n align addr r = s.lanesAt c p k x y sp n align addr r :=
  s.onTe_lanesAt c p _ k x y sp n align addr r

end

end Sys2Proof.Machine


/-! ### Slice atomics as the slice performs them (R163) -/

namespace Sys2Proof.Machine

theorem byteMask_ne_zero {b n : Nat} (hb : b < 32) (hn : 0 < n) : byteMask b n ≠ 0 := fun zero => by
  have low := byteMask_getLsbD b n b
  rw [zero, decide_eq_true hb, decide_eq_true (Nat.le_refl b), decide_eq_true (by omega : b < b + n)] at low
  simp at low

/-- Bytes of an atomic. -/
theorem wordBytes_pos (w64 : Bool) : 0 < (if w64 then 8 else 4) := by
  split <;> omega

/-- An atomic changes the bytes of its word only. -/
theorem atomGran_merge (g : Granule) (b : Nat) (w64 : Bool) (op : AtomOp) (v cmp : BitVec 64) :
    gMerge g (atomGran g b w64 op v cmp).1 (byteMask b (if w64 then 8 else 4)) = (atomGran g b w64 op v cmp).1 := by
  cases w64 <;> exact gMerge_gMerge _ _ _

section
variable {s t : State} {c : Chan} {p : PumpIx}

theorem State.atoms_of_engine (h : (t.pump c p).engine = (s.pump c p).engine) : (t.pump c p).te.atoms = (s.pump c p).te.atoms := by
  have same := congrArg Te.atoms h
  exact same

theorem State.group_of_engine (h : (t.pump c p).engine = (s.pump c p).engine) (g : GSlot) : t.group c p g = s.group c p g := by
  have same := congrArg (fun e : Te => e.slots[g.val]) h
  exact same

theorem State.writePrivate_engine (s : State) (g : Nat) (mask : BitVec 32) (v : Granule) :
    ((s.writePrivate c p g mask v).pump c p).engine = (s.pump c p).engine :=
  engine_of_shown (State.writePrivate_shown s c p g mask v)

/-- A returned value joins what has arrived for a group. -/
def Group.arrive (u : Group) (words : List (TReg × Fin 32 × BitVec 32 × Nat)) : Group := { u with arrived := u.arrived ++ words }

/-- The words that an atomic returns. -/
def SliceAtom.returns (a : SliceAtom) (prev : BitVec 64) : List (TReg × Fin 32 × BitVec 32 × Nat) :=
  match a.ret with
  | some r => resultWords r a.lane (if a.w64 then 2 else 1) prev.toNat a.ticket
  | none => []

/-- A granule that a queued atomic finds plain, with no echo and no urgent item that bars it. -/
structure FreeGranule (s : State) (c : Chan) (p : PumpIx) (g : Nat) : Prop where
  below : g < 2 ^ 19
  plain : PlainGranule s c p g
  silent : ∀ e ∈ (s.slice c p).echoes, e.on ⟨s.addrOf c, keyOff (sliceKey p g)⟩ = false
  free : s.barredPump c p (s.addrOf c) (sliceKey p g) = none

theorem FreeGranule.onTe {g : Nat} (h : FreeGranule s c p g) (f : Te → Te) : FreeGranule (s.onTe c p f) c p g :=
  ⟨h.below, h.plain.onPump rfl, by rw [State.onTe_slice]; exact h.silent, (State.onTe_barredPump s c p f c p _ _).trans h.free⟩

theorem FreeGranule.writePrivate {g : Nat} (h : FreeGranule s c p g) {mask : BitVec 32} (some_ : mask ≠ 0) (v : Granule) :
    ((s.writePrivate c p g mask v).slice c p).get g = gMerge ((s.slice c p).get g) v mask :=
  h.plain.writePrivate h.below h.free h.silent some_ v

/-- The words that an atomic returns join what has arrived for its group. -/
def State.returned (t : State) (c : Chan) (p : PumpIx) (a : SliceAtom) (prev : BitVec 64) : State :=
  match a.ret with
  | some _ => t.onGroup c p a.g fun u => u.arrive (a.returns prev)
  | none => t

/-- What an atomic does at the granule that the slice reads. -/
theorem State.doSliceAtom_op {a : SliceAtom} {op : AtomOp} {s1 : State} {old : Granule} (isOp : a.op = some op)
    (read : s.readOwn c p (a.addr / 32) = (s1, old)) :
    s.doSliceAtom c p a = ((s1.writePrivate c p (a.addr / 32) (byteMask (a.addr % 32) (if a.w64 then 8 else 4))
      (atomGran old (a.addr % 32) a.w64 op a.val a.cmp).1).returned c p a (atomGran old (a.addr % 32) a.w64 op a.val a.cmp).2, false) := by
  -- the read by a name: reducing the matches on it would evaluate it
  obtain ⟨look, named⟩ : ∃ f, s.readOwn c p = f := ⟨_, rfl⟩
  rw [State.doSliceAtom, isOp]
  rw [named] at read ⊢
  simp only [read, State.returned]
  cases ret : a.ret <;> simp only [Group.arrive, SliceAtom.returns, ret]

/-- A returned value changes neither the slice nor the queue, and joins what has arrived. -/
theorem State.returned_spec (t : State) (a : SliceAtom) (prev : BitVec 64) :
    (t.returned c p a prev).slice c p = t.slice c p ∧ ((t.returned c p a prev).pump c p).te.atoms = (t.pump c p).te.atoms ∧
    ∀ u, t.group c p a.g = some u → ∃ v, (t.returned c p a prev).group c p a.g = some v ∧ v.arrived = u.arrived ++ a.returns prev := by
  unfold State.returned
  split
  · refine ⟨State.onGroup_slice .., by rw [State.onGroup_te], fun u here => ⟨u.arrive (a.returns prev), ?_, rfl⟩⟩
    rw [State.onGroup_group, here]
    rfl
  · next none_ =>
    refine ⟨rfl, rfl, fun u here => ⟨u, here, ?_⟩⟩
    rw [SliceAtom.returns, none_, List.append_nil]

/-- The slice performs an atomic on a plain granule: the word takes the operation's value, and a form with return delivers the old one. -/
theorem State.doSliceAtom_plain {a : SliceAtom} {op : AtomOp} (isOp : a.op = some op) (h : FreeGranule s c p (a.addr / 32)) :
    ((s.doSliceAtom c p a).1.slice c p).get (a.addr / 32) =
      (atomGran ((s.slice c p).get (a.addr / 32)) (a.addr % 32) a.w64 op a.val a.cmp).1 ∧
    ((s.doSliceAtom c p a).1.pump c p).te.atoms = (s.pump c p).te.atoms ∧
    ∀ u, s.group c p a.g = some u → ∃ v, (s.doSliceAtom c p a).1.group c p a.g = some v ∧ v.arrived = u.arrived ++
      a.returns (atomGran ((s.slice c p).get (a.addr / 32)) (a.addr % 32) a.w64 op a.val a.cmp).2 := by
  have masked : byteMask (a.addr % 32) (if a.w64 then 8 else 4) ≠ 0 := byteMask_ne_zero (Nat.mod_lt _ (by decide)) (wordBytes_pos a.w64)
  rw [State.doSliceAtom_op isOp (h.plain.readOwn h.below)]
  obtain ⟨slice, atoms, arrived⟩ := State.returned_spec (c := c) (p := p) (s.writePrivate c p (a.addr / 32)
    (byteMask (a.addr % 32) (if a.w64 then 8 else 4)) (atomGran ((s.slice c p).get (a.addr / 32)) (a.addr % 32) a.w64 op a.val a.cmp).1) a
    (atomGran ((s.slice c p).get (a.addr / 32)) (a.addr % 32) a.w64 op a.val a.cmp).2
  have kept := s.writePrivate_engine (c := c) (p := p) (a.addr / 32) (byteMask (a.addr % 32) (if a.w64 then 8 else 4))
    (atomGran ((s.slice c p).get (a.addr / 32)) (a.addr % 32) a.w64 op a.val a.cmp).1
  exact ⟨by rw [slice, h.writePrivate masked, atomGran_merge], atoms.trans (State.atoms_of_engine kept),
    fun u here => arrived u ((State.group_of_engine kept a.g).trans here)⟩

/-- The slice performs a lone queued atomic. -/
theorem State.performAtoms_one {a : SliceAtom} (one : (s.pump c p).te.atoms = [a]) :
    s.performAtoms c p = ((s.onTe c p fun t => { t with atoms := [] }).doSliceAtom c p a).1 := by
  unfold State.performAtoms
  rw [one]
  rfl

end

end Sys2Proof.Machine


/-! ### Queueing slice atomics (R163, R164) -/

namespace Sys2Proof.Machine

/-- What waits in the slice is what it was as waiting groups enter the free slots and the turn moves on. -/
theorem Te.fill_queue (t : Te) (k : Kernel) : (t.fill k).atoms = t.atoms ∧ (t.fill k).ops = t.ops := by
  rw [Te.fill_eq]
  refine List.foldlRecOn (motive := fun v : Te => v.atoms = t.atoms ∧ v.ops = t.ops) _ _ ⟨rfl, rfl⟩ fun v hv j _ => ?_
  unfold Te.enter
  split <;> exact hv

theorem Te.turned_queue (t : Te) (g : GSlot) : (t.turned g).atoms = t.atoms ∧ (t.turned g).ops = t.ops := by
  unfold Te.turned
  dsimp only
  split
  · exact ⟨rfl, rfl⟩
  · split
    · dsimp only
      exact t.fill_queue _
    · exact ⟨rfl, rfl⟩

section
variable {s : State} {c : Chan} {p : PumpIx} {g : GSlot} {k : Kernel} {x : Group} {y : Path}

theorem State.teAfter_queue (s : State) (rs : List TReg) :
    ((s.teAfter c p g rs).pump c p).te.atoms = (s.pump c p).te.atoms ∧ ((s.teAfter c p g rs).pump c p).te.ops = (s.pump c p).te.ops := by
  obtain ⟨atoms, ops⟩ := Te.turned_queue ((s.onGroup c p g fun u => u.cacheUse rs).pump c p).te g
  rw [State.teAfter, State.onTe_te]
  exact ⟨by rw [atoms, State.onGroup_te], by rw [ops, State.onGroup_te]⟩

@[simp] theorem State.teAfter_slice (s : State) (rs : List TReg) : (s.teAfter c p g rs).slice c p = s.slice c p := by
  rw [State.teAfter, State.onTe_slice, State.onGroup_slice]

/-- A line of which no store buffer and no dirty byte holds a copy only leaves the cache. -/
theorem NoCopies.flushLine (clean : NoCopies s c p) (line : Nat) :
    s.flushLine c p line = s.onTe c p fun z => { z with lines := z.lines.filter (· != line) } := by
  obtain ⟨dirty, bufs⟩ := clean
  unfold State.flushLine
  extract_lets inLine t held
  have none_ : held = false := by
    rw [Bool.or_eq_false_iff]
    refine ⟨by rw [show t.dirty = [] from dirty, List.any_nil], List.any_eq_false.2 fun o ho => ?_⟩
    obtain ⟨i, hi, rfl⟩ := List.mem_iff_getElem.1 ho
    rw [Vector.length_toList] at hi
    split
    · next u here =>
      rw [bufs ⟨i, hi⟩ u (by simpa using here)]
      simp
    · simp
  rw [none_, Bool.not_false, if_pos rfl]

theorem NoCopies.onLines (clean : NoCopies s c p) (f : List Nat → List Nat) :
    NoCopies (s.onTe c p fun z => { z with lines := f z.lines }) c p := by
  obtain ⟨dirty, bufs⟩ := clean
  exact ⟨by rw [State.onTe_te]; exact dirty, by rw [State.onTe_te]; exact bufs⟩

/-- With no copies, the lines of queued atomics only leave the cache. -/
theorem NoCopies.flushLines (ls : List Nat) : ∀ {s : State}, NoCopies s c p →
    ∃ f : List Nat → List Nat, s.each ls (fun t l => t.flushLine c p l) = s.onTe c p fun z => { z with lines := f z.lines } := by
  induction ls with
  | nil => exact fun {s} _ => ⟨id, (State.onPump_same rfl).symm⟩
  | cons l ls ih =>
    intro s clean
    obtain ⟨f, rest⟩ := ih (clean.onLines fun m => m.filter (· != l))
    refine ⟨fun m => f (m.filter (· != l)), ?_⟩
    calc s.each (l :: ls) (fun t l => t.flushLine c p l) = (s.flushLine c p l).each ls fun t l => t.flushLine c p l := rfl
      _ = _ := by rw [clean.flushLine, rest, State.onTe_onTe]

/-- With no copies, atomics enter the slice's queue and nothing else of it changes. -/
theorem NoCopies.queueAtoms (clean : NoCopies s c p) (new : List SliceAtom) :
    ((s.queueAtoms c p new).pump c p).te.atoms = (s.pump c p).te.atoms ++ new ∧
    ((s.queueAtoms c p new).pump c p).te.ops = (s.pump c p).te.ops + (new.map (·.ops)).sum ∧
    (s.queueAtoms c p new).slice c p = s.slice c p := by
  obtain ⟨f, flushed⟩ := NoCopies.flushLines (new.map fun a => a.addr / 128).dedup clean
  rw [State.queueAtoms, flushed, State.onTe_te, State.onTe_te, State.onTe_slice, State.onTe_slice]
  exact ⟨rfl, rfl, rfl⟩

theorem NoCopies.teStart (clean : NoCopies s c p) (dsts : List TReg) : NoCopies (s.teStart c p g y dsts) c p := by
  obtain ⟨dirty, bufs⟩ := clean
  refine ⟨by rw [State.teStart, State.onGroup_te]; exact dirty, fun i u here => ?_⟩
  rw [State.teStart, State.onGroup_te] at here
  dsimp only at here
  by_cases same : i = g
  · subst same
    rw [upd_self] at here
    obtain ⟨v, was, rfl⟩ := Option.map_eq_some_iff.1 here
    exact bufs i v was
  · rw [upd_of_ne _ _ _ _ same] at here
    exact bufs i u here

theorem State.teStart_queue (s : State) (dsts : List TReg) :
    ((s.teStart c p g y dsts).pump c p).te.atoms = (s.pump c p).te.atoms ∧ ((s.teStart c p g y dsts).pump c p).te.ops = (s.pump c p).te.ops ∧
    (s.teStart c p g y dsts).slice c p = s.slice c p := by
  rw [State.teStart, State.onGroup_te, State.onGroup_slice]
  exact ⟨rfl, rfl, rfl⟩

/-- An instruction that queued atomics of the slice and changed only its group besides. -/
def State.queued (s : State) (c : Chan) (p : PumpIx) (g : GSlot) (y : Path) (srcs dsts : List TReg) (new : List SliceAtom) (f : Group → Group) : State :=
  (((s.teStart c p g y dsts).queueAtoms c p new).onGroup c p g f).teAfter c p g (srcs ++ dsts)

theorem NoCopies.queued (clean : NoCopies s c p) (srcs dsts : List TReg) (new : List SliceAtom) (f : Group → Group) :
    ((s.queued c p g y srcs dsts new f).pump c p).te.atoms = (s.pump c p).te.atoms ++ new ∧
    ((s.queued c p g y srcs dsts new f).pump c p).te.ops = (s.pump c p).te.ops + (new.map (·.ops)).sum ∧
    (s.queued c p g y srcs dsts new f).slice c p = s.slice c p := by
  obtain ⟨atoms, ops, slice⟩ := (clean.teStart (g := g) (y := y) dsts).queueAtoms new
  obtain ⟨atoms0, ops0, slice0⟩ := s.teStart_queue (c := c) (p := p) (g := g) (y := y) dsts
  rw [State.queued, (State.teAfter_queue _ _).1, (State.teAfter_queue _ _).2, State.teAfter_slice, State.onGroup_te, State.onGroup_slice]
  exact ⟨atoms.trans (by rw [atoms0]), ops.trans (by rw [ops0]), slice.trans slice0⟩

/-- Places that all lanes may reach. -/
theorem State.withLanes_ok {ls : List (Fin 32 × LaneAt)} (ok : LanesOk ls) (t : State) (act : State → State) : t.withLanes c p ls act = act t := by
  rw [State.withLanes, show firstFault (ls.map (·.2)) = none from ok]

/-- Registers of an optional operand. -/
def operandOf (w64 : Bool) (r : Option TReg) : List TReg :=
  match r with
  | some r => operandRegs w64 r
  | none => []

/-- An atomic that can issue and for which the slice has room queues its operations. -/
theorem teAtomS_queues {op : AtomOp} {w64 ret : Bool} {rd addr rs : TReg} {rt : Option TReg}
    (rsIn : atomRegs w64 rs = true) (rdIn : ret = true → atomRegs w64 rd = true) (rtIn : ∀ r ∈ rt, atomRegs w64 r = true)
    (ok : LanesOk (s.lanesAt c p k x y .slice (if w64 then 8 else 4) (if w64 then 8 else 4) addr .atomic))
    (room : AtomRoom s c p (laneOps (k.combine && op != .fadd)
      (keysOf (s.lanesAt c p k x y .slice (if w64 then 8 else 4) (if w64 then 8 else 4) addr .atomic))))
    (ready : TeReady s c p g k x y (addr :: operandRegs w64 rs ++ operandOf w64 rt)) :
    teAtomS op c p g w64 ret rd addr rs rt s = .next (s.queued c p g y (addr :: operandRegs w64 rs ++ operandOf w64 rt)
      (if ret then operandRegs w64 rd else [])
      (queuedAtoms g op k.combine w64 x (s.lanesAt c p k x y .slice (if w64 then 8 else 4) (if w64 then 8 else 4) addr .atomic) (rt.getD rs) rs
        (if ret then some rd else none))
      fun u => if ret then u.step.awaitFor y.mask (if ret then operandRegs w64 rd else []) else u.step) := by
  unfold teAtomS
  dsimp only
  rw [if_neg]
  swap
  · rw [rsIn, Bool.true_and, Bool.not_eq_true', Bool.not_eq_false, Bool.and_eq_true, Bool.or_eq_true, Bool.not_eq_true']
    refine ⟨by cases ret with | true => exact .inr (rdIn rfl) | false => exact .inl rfl, ?_⟩
    split
    · next r => exact rtIn r rfl
    · rfl
  refine congrArg _ ((State.teIssueIf_acts s c p g _ _ _ _ k x y ?_ ?_).trans ?_)
  · cases rt <;> exact ready
  · exact decide_eq_false (Nat.not_lt.2 room)
  · rw [State.queued]
    simp only [State.teStart_lanesAt, State.withLanes_ok ok]
    cases rt <;> rfl

end

end Sys2Proof.Machine


/-! ### Slice atomics: the settled statement (R163, R164, R167, R168) -/

namespace Sys2Proof.Machine

section
variable {s : State} {c : Chan} {p : PumpIx} {g : GSlot} {y : Path}

/-- What an instruction that queued atomics leaves, where no copy of their lines is held. -/
theorem queued_answers {r : Res} {srcs dsts : List TReg} {new : List SliceAtom} {f : Group → Group}
    (runs : r = .next (s.queued c p g y srcs dsts new f)) :
    r = .next ((((s.teStart c p g y dsts).queueAtoms c p new).onGroup c p g f).teAfter c p g (srcs ++ dsts)) ∧
    (NoCopies s c p → Answers r fun t => (t.pump c p).te.atoms = (s.pump c p).te.atoms ++ new ∧
      (t.pump c p).te.ops = (s.pump c p).te.ops + (new.map (·.ops)).sum ∧ t.slice c p = s.slice c p) :=
  ⟨runs, fun clean => ⟨_, runs, clean.queued srcs dsts new f⟩⟩

end

/-- Settles O16: an atomic queues one operation for each lane, and the slice performs a queued one on the granule that it finds. -/
theorem sliceAtomics : Obligations.SliceAtomics := by
  unfold Obligations.SliceAtomics
  intro c p g w64 ret rd addr rs rt k x y s
  refine ⟨rfl, ?_, ?_⟩
  · intro a op u gr res one isOp here below plain silent free
    have runs : exec (.sliceAtomicPerform c p) s = .next (((s.onTe c p fun t => { t with atoms := [] }).doSliceAtom c p a).1) :=
      congrArg Host.Outcome.next (State.performAtoms_one one)
    have found : FreeGranule (s.onTe c p fun t => { t with atoms := [] }) c p (a.addr / 32) :=
      FreeGranule.onTe ⟨below, plain, silent, free⟩ _
    obtain ⟨slice, atoms, arrived⟩ := State.doSliceAtom_plain isOp found
    rw [State.onTe_slice] at slice arrived
    exact ⟨_, runs, slice, atoms.trans (by rw [State.onTe_te]), arrived u (by rw [State.onTe_group]; exact here)⟩
  · intro n ls rets room queues srcs rsIn rdIn ok
    have plainSrcs : srcs ++ operandOf w64 none = srcs := List.append_nil _
    refine ⟨fun ready => ⟨fun fits => ?_, fun fits relaxed word noRet => ?_⟩, fun fits rtIn ready => ?_⟩
    · have all : ∀ op : AtomOp, (k.combine && op != .fadd) = (k.combine && AtomOp.add != .fadd) →
          queues (teAtomS op c p g w64 ret rd addr rs none s) op rs srcs := fun op same => by
        have runs := teAtomS_queues (op := op) (rt := none) rsIn rdIn (fun r hr => by cases hr) ok (by rw [same]; exact fits)
          (plainSrcs ▸ ready)
        rw [show addr :: operandRegs w64 rs ++ operandOf w64 none = srcs from plainSrcs] at runs
        exact queued_answers runs
      exact ⟨all .add rfl, all .min rfl, all .max rfl, all .and rfl, all .or rfl, all .xor rfl, all .exch rfl⟩
    · subst word noRet
      have runs := teAtomS_queues (op := .fadd) (rd := 0) (ret := false) (rt := none) rsIn (fun h => by cases h) (fun r hr => by cases hr) ok fits
        (plainSrcs ▸ ready)
      rw [show addr :: operandRegs false rs ++ operandOf false none = srcs from plainSrcs] at runs
      refine queued_answers (Eq.trans ?_ runs)
      simp only [exec, execTeFatomAdd]
      rw [if_neg (by rw [relaxed]; exact Bool.false_ne_true)]
    · exact queued_answers (teAtomS_queues (op := .cas) (rt := some rt) rsIn rdIn (fun r hr => by cases hr; exact rtIn) ok fits ready)

end Sys2Proof.Machine

/-! ### What a load leaves of its group (R144, R147) -/

namespace Sys2Proof.Machine

/-- A group beside the results that have arrived for it. -/
def Group.unread (u : Group) : Group := { u with arrived := [] }

/-- A slot's group beside the results that have arrived for it. -/
def State.unread (s : State) (c : Chan) (p : PumpIx) (g : GSlot) : Option Group := (s.group c p g).map Group.unread

section
variable {s t : State} {c : Chan} {p : PumpIx} {g : GSlot}

theorem State.unread_of_engine (h : (t.pump c p).engine = (s.pump c p).engine) (g : GSlot) : t.unread c p g = s.unread c p g :=
  congrArg (Option.map Group.unread) (State.group_of_engine h g)

/-- Results that arrive for some group change no group beside them. -/
theorem State.arrive_unread (s : State) (i : GSlot) {f : Group → Group} (hf : ∀ u, (f u).unread = u.unread) (g : GSlot) :
    (s.onGroup c p i f).unread c p g = s.unread c p g := by
  rw [State.unread, State.unread, State.group, State.onGroup_te, State.group]
  dsimp only
  by_cases same : g = i
  · subst same
    rw [upd_self, Option.map_map]
    exact congrArg (Option.map · _) (funext hf)
  · rw [upd_of_ne _ _ _ _ same]

/-- An update of a thread engine that leaves its slots. -/
theorem State.onTe_unread (s : State) {f : Te → Te} (hf : ∀ t : Te, (f t).slots = t.slots) (g : GSlot) :
    (s.onTe c p f).unread c p g = s.unread c p g := by
  rw [State.unread, State.unread, State.onTe_group, hf]
  rfl

theorem State.returned_unread (t : State) (a : SliceAtom) (prev : BitVec 64) (g : GSlot) :
    (t.returned c p a prev).unread c p g = t.unread c p g := by
  unfold State.returned
  split
  · exact t.arrive_unread a.g (by intro _; rfl) g
  · rfl

/-- What the slice does for a queued atomic changes no group beside its results. -/
theorem State.doSliceAtom_unread (s : State) (a : SliceAtom) (g : GSlot) : (s.doSliceAtom c p a).1.unread c p g = s.unread c p g := by
  cases isOp : a.op with
  | none =>
    rw [State.doSliceAtom, isOp]
    exact State.unread_of_engine (engine_of_shown (s.addLedger_shown c p _ _ _)) g
  | some op =>
    rcases read : s.readOwn c p (a.addr / 32) with ⟨s1, old⟩
    have before : (s1.pump c p).engine = (s.pump c p).engine := by
      have same := engine_of_shown (s.readOwn_shown (O := ctlOf c p) c p (a.addr / 32))
      rw [read] at same
      exact same
    rw [State.doSliceAtom_op isOp read, State.returned_unread]
    exact State.unread_of_engine ((s1.writePrivate_engine _ _ _).trans before) g

theorem State.performAtoms_unread (s : State) (g : GSlot) : (s.performAtoms c p).unread c p g = s.unread c p g := by
  unfold State.performAtoms
  refine List.foldlRecOn (motive := fun r : State × Bool => r.1.unread c p g = s.unread c p g) _ _
    (s.onTe_unread (by intro _; rfl) g) fun r hr a _ => ?_
  split
  · exact hr
  · exact (r.1.doSliceAtom_unread a g).trans hr

theorem State.settleAtoms_unread (s : State) (lines : List Nat) (g : GSlot) : (s.settleAtoms c p lines).unread c p g = s.unread c p g := by
  unfold State.settleAtoms
  split
  · exact s.performAtoms_unread g
  · rfl

/-- What a lane loads changes no thread engine. -/
theorem State.laneLoad_engine (s : State) (x : Group) (l : LaneAt) (n : Nat) :
    ((s.laneLoad c p x l n).1.pump c p).engine = (s.pump c p).engine := by
  unfold State.laneLoad
  split
  · next ch off =>
    dsimp only
    split
    · exact engine_of_shown (s.pumpBase_serves c p true s ch (off / 32))
    · rfl
  · rfl
  · rfl

/-- A view that no step of a run of reads changes. -/
theorem readEach_view {α β γ : Type} (v : State → γ) {f : State → α → State × β} (hf : ∀ t a, v (f t a).1 = v t) (l : List α) (s : State) :
    v (readEach f s l).1 = v s := by
  induction l generalizing s with
  | nil => rfl
  | cons a l ih => exact (ih _).trans (hf s a)

theorem State.pumpWrite_engine (s : State) (cls : ReqClass) (j : SlotIx) (m : Bytes) (noecho priv : Bool) :
    ((s.pumpWrite c cls p j m noecho priv).1.pump c p).engine = (s.pump c p).engine := by
  have same := s.pumpWrite_shown (O := ctlOf c p) c cls p j m noecho priv
  generalize s.pumpWrite c cls p j m noecho priv = r at same ⊢
  exact engine_of_shown same

theorem State.writeBack_unread (s : State) (out : Nat → Bool) (g : GSlot) : (s.writeBack c p out).unread c p g = s.unread c p g := by
  unfold State.writeBack
  split
  · rfl
  · next j _ =>
    extract_lets d go
    split
    · rfl
    · rcases s.dirtyWrites c p go with ⟨mine, away⟩
      dsimp only
      have kept : ((s.onTe c p fun t => { t with dirty := d.filter fun e => !out e.1 }).writeOwnBytes c p mine).unread c p g = s.unread c p g :=
        (State.unread_of_engine (engine_of_shown (State.writeOwnBytes_shown _ c p mine)) g).trans (s.onTe_unread (by intro _; rfl) g)
      generalize (s.onTe c p fun t => { t with dirty := d.filter fun e => !out e.1 }).writeOwnBytes c p mine = s1 at kept
      have wrote : (s1.pumpWrite c .thread p j away false false).1.unread c p g = s.unread c p g :=
        (State.unread_of_engine (s1.pumpWrite_engine .thread j away false false) g).trans kept
      split
      · exact wrote
      · exact (State.unread_of_engine (engine_of_shown (State.expect_shown _ c p 15 _ none [])) g).trans wrote

theorem State.allocLines_unread (s : State) (ls : List Nat) (g : GSlot) : (s.allocLines c p ls).unread c p g = s.unread c p g := by
  unfold State.allocLines
  dsimp only
  refine (State.onTe_unread _ (by intro _; rfl) g).trans ?_
  split
  · rfl
  · exact s.writeBack_unread _ g

end

section
variable {s : State} {c : Chan} {p : PumpIx} {g : GSlot} {x : Group} {y : Path}

theorem mem_lanesOf {m : BitVec 32} {l : Fin 32} : l ∈ lanesOf m ↔ m.getLsbD l.val = true := by
  rw [lanesOf, List.mem_filter]
  exact and_iff_right (List.mem_finRange l)

/-- Registers that await results beside those that the instruction overtakes. -/
theorem WaitsFor.awaitFor {u v : Group} {rs : List TReg} (started : v.unread = (x.cancel y.mask rs).unread)
    (asked : u.awaiting = (v.step.awaitFor y.mask rs).awaiting) : WaitsFor u x y rs := by
  intro e
  have tickets : v.tickets = x.tickets := by
    have same := congrArg Group.tickets started
    exact same
  have stepped : v.step.awaiting = v.awaiting ∧ v.step.tickets = v.tickets := by
    unfold Group.step
    split <;> exact ⟨rfl, rfl⟩
  have awaiting : v.awaiting = x.awaiting.filter fun e => !(rs.contains e.1 && y.mask.getLsbD e.2.1.val) := by
    have same := congrArg Group.awaiting started
    exact same
  rw [asked, Group.awaitFor]
  dsimp only
  rw [stepped.1, stepped.2, awaiting, tickets, List.mem_append, List.mem_filter, List.mem_flatMap]
  refine or_congr (and_congr_right fun _ => ?_) ⟨?_, ?_⟩
  · rw [Bool.not_eq_true', Bool.and_eq_false_iff, List.contains_eq_mem, decide_eq_false_iff_not, not_and_or, Bool.not_eq_true]
  · rintro ⟨r, hr, he⟩
    obtain ⟨l, hl, rfl⟩ := List.mem_map.1 he
    obtain ⟨asked, real⟩ := List.mem_filter.1 hr
    exact ⟨asked, by simpa using real, mem_lanesOf.1 hl, rfl⟩
  · rintro ⟨asked, real, active, ticket⟩
    refine ⟨e.1, List.mem_filter.2 ⟨asked, by simpa using real⟩, List.mem_map.2 ⟨e.2.1, mem_lanesOf.2 active, ?_⟩⟩
    rw [← ticket]

/-- The group of a slot that is as when the instruction started, its arrived results apart. -/
theorem State.unread_some {t : State} {v : Group} (same : t.unread c p g = some v.unread) : ∃ u, t.group c p g = some u ∧ u.unread = v.unread :=
  Option.map_eq_some_iff.1 same

/-- A path that moved to the next instruction. -/
theorem Group.step_paths {u : Group} {rest : List Path} (at_ : u.paths = y :: rest) : u.step.paths = { y with pc := y.pc + 1 } :: rest := by
  rw [Group.step, at_]

end

end Sys2Proof.Machine


/-! ### Loads from plain granules of the own slice (R156, R157) -/

namespace Sys2Proof.Machine

/-- The bytes of a number, taken one by one. -/
theorem leNat_digits (n : Nat) : ∀ b : Nat, leNat ((List.range n).map fun i => BitVec.ofNat 8 (b / 2 ^ (8 * i))) = b % 2 ^ (8 * n) := by
  induction n with
  | zero => intro b; rw [Nat.mul_zero, Nat.pow_zero, Nat.mod_one]; rfl
  | succ n ih =>
    intro b
    have shifted : (List.range n).map ((fun i => BitVec.ofNat 8 (b / 2 ^ (8 * i))) ∘ Nat.succ) =
        (List.range n).map fun i => BitVec.ofNat 8 (b / 256 / 2 ^ (8 * i)) := by
      refine List.map_congr_left fun i _ => ?_
      rw [Function.comp_apply, Nat.div_div_eq_div_mul, Nat.mul_succ, Nat.pow_add, Nat.mul_comm (2 ^ (8 * i))]
    rw [List.range_succ_eq_map, List.map_cons, List.map_map, leNat, shifted, ih, Nat.mul_zero, Nat.pow_zero, Nat.div_one, BitVec.toNat_ofNat,
      Nat.mul_succ, Nat.pow_add, Nat.mul_comm (2 ^ (8 * n)), Nat.mod_mul]

/-- With no byte of its own over it, a group sees the base. -/
theorem bytesOver_none {own : List (Option (BitVec 8))} (none_ : ∀ o ∈ own, o = none) (base : Nat) :
    bytesOver own base = base % 2 ^ (8 * own.length) := by
  rw [bytesOver, ← leNat_digits]
  refine congrArg leNat (List.ext_getElem (by simp) fun i h1 h2 => ?_)
  rw [List.length_map, List.length_zipIdx] at h1
  simp only [List.getElem_map, List.getElem_zipIdx, List.getElem_range, Nat.zero_add, none_ _ (List.getElem_mem h1), Option.getD_none]

/-- Where a byte of the slice lies in the channel's memory. -/
theorem sliceByte_gran (p : PumpIx) (a : Nat) : (sliceByte p + a) / 32 = sliceKey p (a / 32) ∧ (sliceByte p + a) % 32 = a % 32 := by
  simp only [sliceByte, sliceKey]
  omega

theorem sliceKey_mod {p : PumpIx} {g : Nat} (hg : g < 2 ^ 19) : sliceKey p g % 2 ^ 19 = g := by
  simp only [sliceKey]
  omega

section
variable {s : State} {c : Chan} {p : PumpIx} {x : Group} {a n : Nat}

theorem State.readable_own {k : Nat} {g : Nat} (at_ : keySlice k = some (p, g)) (lines : Bool) : s.readable c p lines (s.addrOf c) k = true := by
  rw [State.readable, at_]
  simp

theorem State.pumpBase_own {k g : Nat} (at_ : keySlice k = some (p, g)) (low : k % 2 ^ 19 = g) (lines : Bool) :
    s.pumpBase c p lines s (s.addrOf c) k = s.readOwn c p g := by
  unfold State.pumpBase
  extract_lets i own line s1
  have mine : own = true := by simp only [own, at_, beq_self_eq_true, Bool.and_self]
  have off : line = none := by simp only [line, mine, Bool.not_true, Bool.and_false, Bool.false_eq_true, if_false]
  have still : s1 = s := by simp only [s1, off]
  rw [if_pos mine, still, low]

theorem PlainGranule.memBits (h : PlainGranule s c p (a / 32)) (ha : a / 32 < 2 ^ 19) (n : Nat) :
    s.memBits c p (s.addrOf c) (sliceByte p + a) n = (s, (s.slice c p).bytesAt a n) := by
  obtain ⟨gran, byte⟩ := sliceByte_gran p a
  have base : s.pumpBase c p true s (s.addrOf c) ((sliceByte p + a) / 32) = (s, (s.slice c p).get (a / 32)) := by
    rw [gran, State.pumpBase_own (keySlice_sliceKey ha) (sliceKey_mod ha), h.readOwn ha]
  rw [State.memBits, base, byte]
  rfl

/-- Nothing of the pump's own lies over a place. -/
theorem NothingOver.ownBytes (clear : NothingOver s c p x) (key : Nat) (ch : ChanAddr) (off n : Nat) :
    (s.ownBytes c p x key ch off n).length = n ∧ ∀ o ∈ s.ownBytes c p x key ch off n, o = none := by
  obtain ⟨buf, dirty, -, echoes⟩ := clear
  rw [State.ownBytes]
  refine ⟨by simp, fun o ho => ?_⟩
  obtain ⟨i, -, rfl⟩ := List.mem_map.1 ho
  have stored : storedByte x (s.pump c p).te (key + i) = none := by
    rw [storedByte, buf, dirty]
    rfl
  simp [stored, echoes]

/-- A lane loads the bytes that stand in a plain granule of the slice. -/
theorem NothingOver.laneLoad (clear : NothingOver s c p x) (h : PlainGranule s c p (a / 32)) (ha : a / 32 < 2 ^ 19) (key n : Nat) :
    s.laneLoad c p x (.mem key (s.addrOf c) (sliceByte p + a)) n = (s, .inl ((s.slice c p).bytesAt a n)) := by
  obtain ⟨length, none_⟩ := clear.ownBytes key (s.addrOf c) (sliceByte p + a) n
  have reads : s.readable c p true (s.addrOf c) ((sliceByte p + a) / 32) = true := by
    rw [(sliceByte_gran p a).1]
    exact State.readable_own (keySlice_sliceKey ha) true
  have seen : bytesOver (s.ownBytes c p x key (s.addrOf c) (sliceByte p + a) n) ((s.slice c p).bytesAt a n) = (s.slice c p).bytesAt a n := by
    rw [bytesOver_none none_, length, Slice.bytesAt, Nat.mod_mod]
  obtain ⟨look, named⟩ : ∃ f, s.memBits c p = f := ⟨_, rfl⟩
  have bits := h.memBits ha n
  rw [State.laneLoad]
  rw [named] at bits ⊢
  simp only [reads, if_true, bits, seen]

/-- The lanes of a load from plain granules change nothing. -/
theorem PlainLanes.readEach {ls : List (Fin 32 × LaneAt)} {β : Type} (plain : PlainLanes s c p n ls) (pos : 0 < n) (clear : NothingOver s c p x)
    (f : Fin 32 × LaneAt → Nat ⊕ List (Option (BitVec 8)) → β) :
    readEach (fun u e => ((u.laneLoad c p x e.2 n).1, f e (u.laneLoad c p x e.2 n).2)) s ls =
      (s, ls.map fun e => f e (.inl ((s.slice c p).bytesAt (e.2.key.getD 0) n))) := by
  refine readEach_still fun e he => ?_
  obtain ⟨a, at_, fits, h⟩ := plain e he
  have below : a / 32 < 2 ^ 19 := by omega
  rw [at_, clear.laneLoad h below]
  rfl

end

end Sys2Proof.Machine


/-! ### Ledgers: addends of lanes (R115, R116, R166) -/

namespace Sys2Proof.Machine

section
variable {s : State} {c : Chan} {p : PumpIx} {g : GSlot} {k : Kernel} {x : Group} {y : Path}

/-! #### In the slice -/

theorem keys_snd (ls : List (Fin 32 × LaneAt)) : (ls.filterMap fun e => e.2.key.map fun o => (e.1, o)).map (·.2) = keysOf ls := by
  rw [List.map_filterMap, keysOf]
  refine congrArg (List.filterMap · ls) (funext fun e => ?_)
  cases e.2.key <;> rfl

theorem execTeLadd_slice {lexp : BitVec 10} {addr rs : TReg} (ready : TeReady s c p g k x y (rs :: addrRegs .slice addr))
    (ok : LanesOk (s.lanesAt c p k x y .slice 32 32 addr .atomic))
    (room : AtomRoom s c p (laneOps true (keysOf (s.lanesAt c p k x y .slice 32 32 addr .atomic)))) :
    execTeLadd c p g .slice lexp addr rs s = .next (s.queued c p g y (rs :: addrRegs .slice addr) []
      (queuedAddends g x (s.lanesAt c p k x y .slice 32 32 addr .atomic) rs lexp) Group.step) := by
  unfold execTeLadd
  rw [if_neg (by rw [if_neg (by decide), teRegs_word]; exact Bool.false_ne_true)]
  refine congrArg _ ((State.teIssueIf_acts s c p g _ _ _ _ k x y ready ?_).trans ?_)
  · rw [Bool.and_eq_false_iff]
    exact .inr (decide_eq_false (Nat.not_lt.2 room))
  · rw [State.queued]
    simp only [State.teStart_lanesAt, State.withLanes_ok ok, keys_snd]
    rfl

/-- An addend that the ledger's range holds is added to a plain granule. -/
theorem FreeGranule.addLedger {gr : Nat} (h : FreeGranule s c p gr) {a : Num} {e v : Int} (adds : ledgerAddend a e = some v)
    (sound : (s.chan c).adderBad p = false) :
    s.addLedger c p gr a e = (s.writePrivate c p gr 0xFFFFFFFF#32 (ledgerAdd ((s.slice c p).get gr) v), false) := by
  obtain ⟨look, named⟩ : ∃ f, s.readOwn c p = f := ⟨_, rfl⟩
  have read := h.plain.readOwn h.below
  have full : (0xFFFFFFFF : BitVec 32) = 0xFFFFFFFF#32 := rfl
  rw [State.addLedger, adds, full]
  rw [named] at read ⊢
  simp only [read, sound, Bool.false_eq_true, if_false]

theorem State.addLedger_range {gr : Nat} {a : Num} {e : Int} (out : ledgerAddend a e = none) :
    s.addLedger c p gr a e = (s.pumpFault c p .ledgerRange (32 * gr), true) := by
  rw [State.addLedger, out]

theorem State.doSliceAtom_addend {a : SliceAtom} (isAdd : a.op = none) :
    s.doSliceAtom c p a = s.addLedger c p (a.addr / 32) (fp32 (a.val.setWidth 32)) a.cmp.toInt := by
  rw [State.doSliceAtom, isAdd]

theorem State.pumpFault_of_slot {j : SlotIx} (holds : (s.chan c).slotOf p = some j) (cause : Cause) (addr : Nat) :
    s.pumpFault c p cause addr = s.fault c j cause .pump (physOf (s.chan c) p) addr := by
  rw [State.pumpFault, holds]

/-- The slice performs a lone addend that its ledger holds. -/
theorem performAddend {a : SliceAtom} {v : Int} (one : (s.pump c p).te.atoms = [a]) (isAdd : a.op = none) (h : FreeGranule s c p (a.addr / 32))
    (sound : (s.chan c).adderBad p = false) (adds : ledgerAddend (fp32 (a.val.setWidth 32)) a.cmp.toInt = some v) :
    ((s.performAtoms c p).slice c p).get (a.addr / 32) = ledgerAdd ((s.slice c p).get (a.addr / 32)) v ∧
    ((s.performAtoms c p).pump c p).te.atoms = [] := by
  have h0 := h.onTe fun t => { t with atoms := [] }
  have sound0 : ((s.onTe c p fun t => { t with atoms := [] }).chan c).adderBad p = false :=
    (s.onTe_view c p _ (fun h => h.adderBad p) (fun _ _ => rfl) c).trans sound
  have slice0 : (s.onTe c p fun t => { t with atoms := [] }).slice c p = s.slice c p := State.onTe_slice ..
  have atoms0 : ((s.onTe c p fun t => { t with atoms := [] }).pump c p).te.atoms = [] := by rw [State.onTe_te]
  rw [State.performAtoms_one one, State.doSliceAtom_addend isAdd, h0.addLedger adds sound0]
  dsimp only
  exact ⟨by rw [h0.writePrivate (by decide), gMerge_all, slice0], (State.atoms_of_engine (State.writePrivate_engine _ _ _ _)).trans atoms0⟩

/-- A lone addend beyond its ledger's range faults the job. -/
theorem performAddend_faults {a : SliceAtom} {j : SlotIx} (holds : (s.chan c).slotOf p = some j) (one : (s.pump c p).te.atoms = [a])
    (isAdd : a.op = none) (out : ledgerAddend (fp32 (a.val.setWidth 32)) a.cmp.toInt = none) (live : (s.slot c j).live = true)
    (fresh : (s.slot c j).regs.flt.valid = false) :
    (s.performAtoms c p).slice c p = s.slice c p ∧
    ((s.performAtoms c p).slot c j).faultSeen = (true, true, BitVec.ofNat 8 Cause.ledgerRange.code) := by
  rw [State.performAtoms_one one, State.doSliceAtom_addend isAdd, State.addLedger_range out]
  dsimp only
  rw [State.pumpFault_of_slot ((s.onTe_slotOf c p _ c p).trans holds)]
  exact ⟨(State.fault_slice ..).trans (State.onTe_slice ..), State.fault_hits _ c j _ _ _ _ (by rw [State.onTe_slot]; exact live)
    (by rw [State.onTe_slot]; exact fresh)⟩

/-! #### At a home -/

theorem State.onTe_reduceTarget (f : Te → Te) (ch : ChanAddr) (off : Nat) : (s.onTe c p f).reduceTarget c p ch off = s.reduceTarget c p ch off := by
  have view : ∀ e, (s.onTe c p f).jobView c p e = s.jobView c p e := fun e => by
    simp only [State.jobView, State.onTe_slotOf, State.onTe_slot, State.onTe_job, State.onTe_mc, State.onTe_vch]
  simp only [State.reduceTarget, State.onTe_slotOf, State.onTe_slot, State.onTe_job, view]

/-- A combine whose home is a slice of this channel enters the inbound granule. -/
theorem State.sendCombine_home {j : SlotIx} {n gr : Nat} {q : PumpIx} (at_ : keySlice n = some (q, gr)) (free : s.barred c j (s.addrOf c) n = false)
    (who : Nat) (v : Granule) : s.sendCombine c who j (s.addrOf c) n v = (s.combineAt c q gr (s.frameNo c j) v, 0) := by
  obtain ⟨add, named⟩ : ∃ f, s.combineAt c = f := ⟨_, rfl⟩
  rw [State.sendCombine, named, if_neg (by rw [free]; exact Bool.false_ne_true), if_pos rfl, at_]

theorem execTeLadd_global {lexp : BitVec 10} {addr rs : TReg} {j : SlotIx} {l : Fin 32} {key off : Nat} (holds : (s.chan c).slotOf p = some j)
    (inRange : teRegs addr 8 = true) (ready : TeReady s c p g k x y (rs :: addrRegs .global addr))
    (one : s.lanesAt c p k x y .global 32 32 addr .atomic = [(l, .mem key (s.addrOf c) off)]) :
    (∀ q gr v, keySlice (off / 32) = some (q, gr) → s.reduceTarget c p (s.addrOf c) off = true → s.barred c j (s.addrOf c) (off / 32) = false →
      ledgerAddend (fp32 (x.get l.val rs.toNat)) lexp.toInt = some v →
      execTeLadd c p g .global lexp addr rs s = .next ((((s.teStart c p g y []).combineAt c q gr (s.slot c j).regs.frame
        (BitVec.ofInt 256 v)).onGroup c p g Group.step).teAfter c p g (rs :: addrRegs .global addr))) ∧
    (s.reduceTarget c p (s.addrOf c) off = false → execTeLadd c p g .global lexp addr rs s =
      .next (((s.teStart c p g y []).pumpFault c p .descriptor 0).teAfter c p g (rs :: addrRegs .global addr))) := by
  have ok : LanesOk [(l, .mem key (s.addrOf c) off)] := rfl
  have holds0 : ((s.teStart c p g y []).chan c).slotOf p = some j := (s.onTe_slotOf c p _ c p).trans holds
  have target0 : (s.teStart c p g y []).reduceTarget c p (s.addrOf c) off = s.reduceTarget c p (s.addrOf c) off := State.onTe_reduceTarget _ _ _
  have lanes0 : (s.teStart c p g y []).lanesAt c p k x y .global 32 32 addr .atomic = [(l, .mem key (s.addrOf c) off)] :=
    (State.teStart_lanesAt ..).trans one
  have addr0 : (s.teStart c p g y []).addrOf c = s.addrOf c := rfl
  unfold execTeLadd
  rw [if_neg (by rw [if_pos rfl, inRange]; exact Bool.false_ne_true)]
  refine ⟨fun q gr v at_ target free adds => ?_, fun target => ?_⟩
  · have free0 : (s.teStart c p g y []).barred c j ((s.teStart c p g y []).addrOf c) (off / 32) = false := (s.onTe_barred c p _ c j _ _).trans free
    have frame0 : (s.teStart c p g y []).frameNo c j = (s.slot c j).regs.frame := congrArg (fun z : Slot => z.regs.frame) (s.onTe_slot c p _ c j)
    have sent := (s.teStart c p g y []).sendCombine_home at_ free0 (physOf (s.chan c) p) (BitVec.ofInt 256 v)
    rw [frame0, addr0] at sent
    refine congrArg _ ((State.teIssueIf_acts s c p g _ _ _ _ k x y ready rfl).trans ?_)
    simp only [lanes0, State.withLanes_ok ok, holds0, List.any_cons, List.any_nil, target0, target, Bool.not_true, Bool.false_eq_true, if_false,
      Bool.or_self, List.foldl_cons, List.foldl_nil, adds, sent, if_true, List.append_nil]
  · refine congrArg _ ((State.teIssueIf_acts s c p g _ _ _ _ k x y ready rfl).trans ?_)
    simp only [lanes0, State.withLanes_ok ok, holds0, List.any_cons, List.any_nil, target0, target, Bool.not_false, Bool.true_or, if_true,
      List.append_nil]

end

end Sys2Proof.Machine


/-! ### Ledger reads and the settled statement (R119, R166) -/

namespace Sys2Proof.Machine

section
variable {s : State} {c : Chan} {p : PumpIx} {g : GSlot} {k : Kernel} {x : Group} {y : Path}

theorem Group.step_rest (u : Group) : u.step.regs = u.regs ∧ u.step.awaiting = u.awaiting ∧ u.step.tickets = u.tickets := by
  unfold Group.step
  split <;> exact ⟨rfl, rfl, rfl⟩

/-- What an instruction that asks for results leaves of its group, however its lanes were read. -/
theorem load_answers {t : State} {rs regs : List TReg} {rest : List Path} {f : Group → Group} (at_ : x.paths = y :: rest)
    (kept : t.unread c p g = some (x.cancel y.mask rs).unread)
    (asks : ∀ u, (f u).awaiting = (u.step.awaitFor y.mask rs).awaiting ∧ (f u).paths = u.step.paths ∧ (f u).regs = u.step.regs) :
    ∃ u, ((t.onGroup c p g f).teAfter c p g regs).group c p g = some u ∧ WaitsFor u x y rs ∧
      u.paths = { y with pc := y.pc + 1 } :: x.paths.drop 1 ∧ u.regs = x.regs ∧
      ∀ v, t.group c p g = some v → u.arrived = (f v).arrived := by
  obtain ⟨v, here, same⟩ := State.unread_some kept
  obtain ⟨awaiting, paths, regs_⟩ := asks v
  have moved : (t.onGroup c p g f).group c p g = some (f v) := by rw [State.onGroup_group, here]; rfl
  have vpaths : v.paths = y :: rest := by
    have eq := congrArg Group.paths same
    exact eq.trans at_
  have vregs : v.regs = x.regs := by
    have eq := congrArg Group.regs same
    exact eq
  refine ⟨(f v).cacheUse regs, State.teAfter_group moved regs, WaitsFor.awaitFor same awaiting, ?_, ?_, fun w hw => ?_⟩
  · rw [at_]
    exact paths.trans (Group.step_paths vpaths)
  · exact regs_.trans (v.step_rest.1.trans vregs)
  · obtain rfl := Option.some.inj (here.symm.trans hw)
    rfl

/-- A group that asked for results of which some came at once. -/
def Group.loaded (u : Group) (m : BitVec 32) (rs : List TReg) (words : Nat → List (TReg × Fin 32 × BitVec 32 × Nat)) : Group :=
  { (u.step.awaitFor m rs) with arrived := u.arrived ++ words u.tickets }

/-- What LRD rounds of what a lane reads. -/
def ledgerOf (lexp : BitVec 10) (fmt : RoFmt) (v : Nat ⊕ List (Option (BitVec 8))) : Nat :=
  ledgerRead (BitVec.ofNat 256 (match v with | .inl m => m | .inr _ => 0)) lexp.toInt fmt

/-- The lanes of LRD, read one after the other. -/
def State.readLedgers (s : State) (c : Chan) (p : PumpIx) (x : Group) (lexp : BitVec 10) (fmt : RoFmt) (ls : List (Fin 32 × LaneAt)) :
    State × List (Fin 32 × Nat) :=
  readEach (fun u e => ((u.laneLoad c p x e.2 32).1, (e.1, ledgerOf lexp fmt (u.laneLoad c p x e.2 32).2))) s ls

theorem State.readLedgers_unread (s : State) (lexp : BitVec 10) (fmt : RoFmt) (ls : List (Fin 32 × LaneAt)) (g : GSlot) :
    (s.readLedgers c p x lexp fmt ls).1.unread c p g = s.unread c p g := by
  rw [State.readLedgers]
  refine readEach_view (fun t => t.unread c p g) ?_ ls s
  intro t e
  exact State.unread_of_engine (t.laneLoad_engine x e.2 32) g

/-- Words of a rounded ledger. -/
def ledgerWords (fmt : RoFmt) : Nat := if fmt = .fp64 then 2 else 1

theorem PlainLanes.teStart {n : Nat} {ls : List (Fin 32 × LaneAt)} (plain : PlainLanes s c p n ls) (dsts : List TReg) :
    PlainLanes (s.teStart c p g y dsts) c p n ls := fun e he => by
  obtain ⟨a, at_, fits, h⟩ := plain e he
  exact ⟨a, at_, fits, h.onPump rfl⟩

theorem NothingOver.teStart (clear : NothingOver s c p x) (dsts : List TReg) : NothingOver (s.teStart c p g y dsts) c p x := by
  obtain ⟨buf, dirty, atoms, echoes⟩ := clear
  refine ⟨buf, ?_, ?_, ?_⟩
  · rw [State.teStart, State.onGroup_te]; exact dirty
  · rw [State.teStart, State.onGroup_te]; exact atoms
  · rw [State.teStart, State.onGroup_slice]; exact echoes

/-- An access with no queued atomic follows none. -/
theorem State.settleAtoms_none (none_ : (s.pump c p).te.atoms = []) (lines : List Nat) : s.settleAtoms c p lines = s := by
  rw [State.settleAtoms, none_, List.any_nil, if_neg Bool.false_ne_true]

theorem execTeLrd_acts {fmt : RoFmt} {lexp : BitVec 10} {rd addr : TReg} {ls : List (Fin 32 × LaneAt)}
    (lanes : s.lanesAt c p k x y .slice 32 32 addr .read = ls) (ok : LanesOk ls) (inRange : teRegs rd (4 * ledgerWords fmt) = true)
    (ready : TeReady s c p g k x y [addr]) {s0 : State}
    (settled : (s.teStart c p g y (regsFrom rd (ledgerWords fmt))).settleAtoms c p (keyLines ls) = s0) :
    execTeLrd c p g fmt lexp rd addr s = .next (((s0.readLedgers c p x lexp fmt ls).1.onGroup c p g fun u =>
      u.loaded y.mask (regsFrom rd (ledgerWords fmt)) fun n =>
        (s0.readLedgers c p x lexp fmt ls).2.flatMap fun e => resultWords rd e.1 (ledgerWords fmt) e.2 n).teAfter c p g
          ([addr] ++ regsFrom rd (ledgerWords fmt))) := by
  unfold execTeLrd
  dsimp only
  rw [if_neg (by rw [show (if fmt = RoFmt.fp64 then 2 else 1) = ledgerWords fmt from rfl, inRange]; exact Bool.false_ne_true)]
  refine congrArg _ ((State.teIssueIf_acts s c p g _ _ _ _ k x y ready rfl).trans ?_)
  simp only [State.teStart_lanesAt, lanes, State.withLanes_ok ok]
  rw [show (if fmt = RoFmt.fp64 then 2 else 1) = ledgerWords fmt from rfl, settled]
  rfl

theorem execTeLrd_reads {fmt : RoFmt} {lexp : BitVec 10} {rd addr : TReg} {ls : List (Fin 32 × LaneAt)}
    (lanes : s.lanesAt c p k x y .slice 32 32 addr .read = ls) (ok : LanesOk ls) (inRange : teRegs rd (4 * ledgerWords fmt) = true)
    (ready : TeReady s c p g k x y [addr]) :
    Answers (execTeLrd c p g fmt lexp rd addr s) fun t => ∃ u, t.group c p g = some u ∧ WaitsFor u x y (regsFrom rd (ledgerWords fmt)) ∧
      u.paths = { y with pc := y.pc + 1 } :: x.paths.drop 1 ∧
      (PlainLanes s c p 32 ls → NothingOver s c p x → t.slice c p = s.slice c p ∧
        u.arrived = x.arrived ++ ls.flatMap fun e => resultWords rd e.1 (ledgerWords fmt)
          (ledgerRead (BitVec.ofNat 256 ((s.slice c p).bytesAt (e.2.key.getD 0) 32)) lexp.toInt fmt) x.tickets) := by
  obtain ⟨_, here, rest, at_, -, -⟩ := State.teReady_some ready.1
  obtain ⟨s0, settled⟩ : ∃ s0, (s.teStart c p g y (regsFrom rd (ledgerWords fmt))).settleAtoms c p (keyLines ls) = s0 := ⟨_, rfl⟩
  have started : (s.teStart c p g y (regsFrom rd (ledgerWords fmt))).group c p g = some (x.cancel y.mask (regsFrom rd (ledgerWords fmt))) :=
    State.teStart_group here _
  have kept : (s0.readLedgers c p x lexp fmt ls).1.unread c p g = some (x.cancel y.mask (regsFrom rd (ledgerWords fmt))).unread := by
    rw [State.readLedgers_unread, ← settled, State.settleAtoms_unread, State.unread, started]
    rfl
  obtain ⟨u, hu, waits, paths, -, arrived⟩ := load_answers (regs := [addr] ++ regsFrom rd (ledgerWords fmt))
    (f := fun u => u.loaded y.mask (regsFrom rd (ledgerWords fmt)) fun n =>
      (s0.readLedgers c p x lexp fmt ls).2.flatMap fun e => resultWords rd e.1 (ledgerWords fmt) e.2 n) at_ kept fun _ => ⟨rfl, rfl, rfl⟩
  refine ⟨_, execTeLrd_acts lanes ok inRange ready settled, u, hu, waits, paths, fun plain clear => ?_⟩
  have read : s0.readLedgers c p x lexp fmt ls = (s.teStart c p g y (regsFrom rd (ledgerWords fmt)), ls.map fun e =>
      (e.1, ledgerRead (BitVec.ofNat 256 ((s.slice c p).bytesAt (e.2.key.getD 0) 32)) lexp.toInt fmt)) := by
    have settled_ : s0 = s.teStart c p g y (regsFrom rd (ledgerWords fmt)) := by
      obtain ⟨-, -, atoms, -⟩ := clear.teStart (g := g) (y := y) (regsFrom rd (ledgerWords fmt))
      rw [← settled, State.settleAtoms_none atoms]
    have slice0 : (s.teStart c p g y (regsFrom rd (ledgerWords fmt))).slice c p = s.slice c p := State.onGroup_slice ..
    rw [settled_, State.readLedgers, PlainLanes.readEach (plain.teStart _) (by decide) (clear.teStart _)
      (fun e v => (e.1, ledgerOf lexp fmt v)), slice0]
    rfl
  rw [read] at arrived ⊢
  refine ⟨by rw [State.teAfter_slice, State.onGroup_slice, State.teStart, State.onGroup_slice], (arrived _ started).trans ?_⟩
  rw [Group.loaded, List.flatMap_map]
  rfl

end

end Sys2Proof.Machine


namespace Sys2Proof.Machine

/-- Settles O18: LADD.S queues addends that the slice adds or refuses, LADD.G adds one at its home, and LRD awaits what it rounded. -/
theorem threadLedgerOps : Obligations.ThreadLedgerOps := by
  unfold Obligations.ThreadLedgerOps
  intro c p g lexp rd addr rs k x y j fmt s ls gls rls n holds
  refine ⟨fun ready ok room => ?_, ?_, fun l key off inRange ready one => ?_, fun inRange ready ok => ?_⟩
  · have runs := execTeLadd_slice (lexp := lexp) ready ok room
    rw [State.queued, List.append_nil] at runs
    exact runs
  · intro a gr one isAdd below plain silent free sound
    refine ⟨fun v adds => ⟨_, rfl, performAddend one isAdd ⟨below, plain, silent, free⟩ sound adds⟩, fun out live fresh => ?_⟩
    obtain ⟨slice, seen⟩ := performAddend_faults holds one isAdd out live fresh
    obtain ⟨valid, cause⟩ := Prod.mk.inj (congrArg Prod.snd seen)
    exact ⟨_, rfl, congrArg (Slice.get · gr) slice, valid, cause⟩
  · exact execTeLadd_global holds inRange ready one
  · exact execTeLrd_reads rfl ok inRange ready

end Sys2Proof.Machine

/-! ### Global atomics at a home of this channel (R165, R168, R169) -/

namespace Sys2Proof.Machine

section
variable {s : State} {c : Chan} {p : PumpIx} {g : GSlot} {k : Kernel} {x : Group} {y : Path} {j : SlotIx} {l : Fin 32} {key off : Nat}

/-- What a global atomic adds at its home on this channel. -/
theorem State.sendAtom_home (free : s.barred c j (s.addrOf c) (off / 32) = false) (a : AtomicRec) :
    ((s.sendAtom c p j g (s.addrOf c) off a).chan c).atoms = (s.chan c).atoms ++ [⟨j, (s.slot c j).regs.frame, a⟩] := by
  rw [State.sendAtom, if_neg (by rw [free]; exact Bool.false_ne_true), if_pos rfl, State.onChan_chan]
  rfl

theorem State.laneAtom_posts (free : s.barred c j (s.addrOf c) (off / 32) = false) (w64 : Bool) (op : AtomOp) (val cmp : BitVec 64) (ticket : Nat) :
    ((s.laneAtom c p j g l (.mem key (s.addrOf c) off) w64 op val cmp none ticket).chan c).atoms =
      (s.chan c).atoms ++ [⟨j, (s.slot c j).regs.frame, ⟨BitVec.ofNat 49 off, w64, op, val, cmp, (s.pump c p).key, false⟩⟩] :=
  State.sendAtom_home free _

/-- A home of the channel's HBM at which nothing is held, whose granule is sound and not dead. -/
structure QuietHome (s : State) (c : Chan) (n : Nat) : Prop where
  held : (s.chan c).held = []
  decls : (s.chan c).decls = []
  atoms : (s.chan c).atoms = []
  hbm : keySlice n = none
  sound : (s.chan c).upsetAt n = 0
  live : (s.chan c).isDead n = false

theorem QuietHome.readShared {n : Nat} (h : QuietHome s c n) (i : Option SlotIx) : s.readShared c i n = (s, (s.chan c).raw n) := by
  obtain ⟨held, decls, atoms, hbm, sound, live⟩ := h
  have settled : s.settle c n = s := by
    rw [State.settle, hbm]
    exact State.applyDue_nothing (by rw [held]; exact fun e he => absurd he List.not_mem_nil) (by rw [atoms]; exact fun e he => absurd he List.not_mem_nil)
      (by rw [decls]; exact fun e he => absurd he List.not_mem_nil)
  rw [State.readShared, hbm]
  dsimp only
  unfold State.readBase
  simp only [settled, live, sound, Bool.false_eq_true, if_false, if_true]

theorem QuietHome.onTe {n : Nat} (h : QuietHome s c n) (f : Te → Te) : QuietHome (s.onTe c p f) c n := by
  obtain ⟨held, decls, atoms, hbm, sound, live⟩ := h
  have upset : ∀ (h : Channel) v, Channel.upsetAt { h with pumps := v } n = h.upsetAt n := fun h v => by simp only [Channel.upsetAt, hbm]
  have dead : ∀ (h : Channel) v, Channel.isDead { h with pumps := v } n = h.isDead n := fun h v => by simp only [Channel.isDead, hbm]
  exact ⟨(s.onTe_view c p f Channel.held (fun _ _ => rfl) c).trans held, (s.onTe_view c p f Channel.decls (fun _ _ => rfl) c).trans decls,
    (s.onTe_view c p f Channel.atoms (fun _ _ => rfl) c).trans atoms, hbm, (s.onTe_view c p f (fun h => h.upsetAt n) upset c).trans sound,
    (s.onTe_view c p f (fun h => h.isDead n) dead c).trans live⟩

/-- An atomic that returns reads its word at the home before it is recorded there. -/
theorem State.laneAtom_returns (free : s.barred c j (s.addrOf c) (off / 32) = false) (quiet : QuietHome s c (off / 32)) (w64 : Bool) (op : AtomOp)
    (val cmp : BitVec 64) (rd : TReg) (ticket : Nat) :
    ((s.laneAtom c p j g l (.mem key (s.addrOf c) off) w64 op val cmp (some rd) ticket).chan c).atoms =
      (s.chan c).atoms ++ [⟨j, (s.slot c j).regs.frame, ⟨BitVec.ofNat 49 off, w64, op, val, cmp, (s.pump c p).key, true⟩⟩] := by
  obtain ⟨old, seen⟩ : ∃ old, s.atomSeen c j off w64 = (s, old) := by
    obtain ⟨look, named⟩ : ∃ f, s.readShared c = f := ⟨_, rfl⟩
    have read := quiet.readShared (some j)
    rw [State.atomSeen]
    rw [named] at read ⊢
    simp only [read]
    exact ⟨_, rfl⟩
  obtain ⟨look, named⟩ : ∃ f, s.atomSeen c j = f := ⟨_, rfl⟩
  rw [State.laneAtom]
  rw [named] at seen ⊢
  simp only [seen, if_true, Option.isSome_some]
  refine (State.onTe_view _ c p _ Channel.atoms (fun _ _ => rfl) c).trans ?_
  exact State.sendAtom_home free _

end

end Sys2Proof.Machine


/-! ### Global atomics: the settled statement (R165, R168, R169) -/

namespace Sys2Proof.Machine

section
variable {s : State} {c : Chan} {p : PumpIx} {g : GSlot} {k : Kernel} {x : Group} {y : Path} {j : SlotIx} {l : Fin 32} {key off : Nat}

/-- An atomic whose one lane meets a word of this channel acts there. -/
theorem teAtomG_home {op : AtomOp} {relaxed w64 : Bool} {ret rt : Option TReg} {addr rs : TReg} (allowed : (relaxed && s.strictAt c p) = false)
    (addrIn : teRegs addr 8 = true) (rsIn : atomRegs w64 rs = true) (retIn : ∀ r ∈ ret, atomRegs w64 r = true)
    (rtIn : ∀ r ∈ rt, atomRegs w64 r = true) (holds : (s.chan c).slotOf p = some j)
    (one : s.lanesAt c p k x y .global (if w64 then 8 else 4) (if w64 then 8 else 4) addr .atomic = [(l, .mem key (s.addrOf c) off)])
    (ready : TeReady s c p g k x y (regsFrom addr 2 ++ operandRegs w64 rs ++ operandOf w64 rt)) :
    teAtomG op relaxed c p g w64 ret addr rs rt s = .next (((((s.teStart c p g y (operandOf w64 ret)).laneAtom c p j g l
      (.mem key (s.addrOf c) off) w64 op (x.operand w64 l.val (rt.getD rs)) (x.operand w64 l.val rs) ret x.tickets)).onGroup c p g
        fun u => if ret.isSome then u.step.awaitFor y.mask (operandOf w64 ret) else u.step).teAfter c p g
          (regsFrom addr 2 ++ operandRegs w64 rs ++ operandOf w64 rt ++ operandOf w64 ret)) := by
  have ok : LanesOk [(l, .mem key (s.addrOf c) off)] := rfl
  have holds0 : ∀ ds, ((s.teStart c p g y ds).chan c).slotOf p = some j := fun ds => (s.onTe_slotOf c p _ c p).trans holds
  unfold teAtomG
  dsimp only
  rw [if_neg, if_neg (by rw [allowed]; exact Bool.false_ne_true)]
  swap
  · rw [addrIn, rsIn, Bool.true_and, Bool.true_and, Bool.not_eq_true', Bool.not_eq_false, Bool.and_eq_true]
    constructor
    · split
      · next r => exact retIn r rfl
      · rfl
    · split
      · next r => exact rtIn r rfl
      · rfl
  refine congrArg _ ((State.teIssueIf_acts s c p g _ _ _ _ k x y ?_ ?_).trans ?_)
  · cases rt <;> exact ready
  · rw [State.hostWaits, one]
    exact Bool.and_false _
  · cases ret <;> cases rt <;> (simp only [State.teStart_lanesAt, one, State.withLanes_ok ok, holds0, State.each_one]; rfl)

/-- What an atomic leaves among the channel's recorded ones. -/
def Posts (r : Res) (c : Chan) (s : State) (a : HeldAtom) : Prop := Answers r fun t => (t.chan c).atoms = (s.chan c).atoms ++ [a]

theorem teStart_home (ds : List TReg) : (s.teStart c p g y ds).addrOf c = s.addrOf c ∧ ((s.teStart c p g y ds).chan c).atoms = (s.chan c).atoms ∧
    (s.teStart c p g y ds).slot c j = s.slot c j ∧ ((s.teStart c p g y ds).pump c p).key = (s.pump c p).key ∧
    ∀ n, (s.teStart c p g y ds).barred c j (s.addrOf c) n = s.barred c j (s.addrOf c) n :=
  ⟨rfl, s.onTe_view c p _ Channel.atoms (fun _ _ => rfl) c, s.onTe_slot c p _ c j, by rw [State.teStart, State.onGroup, State.onTe, State.onPump_pump]; rfl,
    fun n => s.onTe_barred c p _ c j _ n⟩

theorem teAtoms_last (t : State) (f : Group → Group) (rs : List TReg) : (((t.onGroup c p g f).teAfter c p g rs).chan c).atoms = (t.chan c).atoms := by
  refine (State.onTe_view _ c p _ Channel.atoms (fun _ _ => rfl) c).trans ?_
  refine (State.onTe_view _ c p _ Channel.atoms (fun _ _ => rfl) c).trans ?_
  exact State.onTe_view _ c p _ Channel.atoms (fun _ _ => rfl) c

/-- An atomic without return is recorded with the frame. -/
theorem teAtomG_posts {op : AtomOp} {relaxed w64 : Bool} {addr rs : TReg} (allowed : (relaxed && s.strictAt c p) = false)
    (addrIn : teRegs addr 8 = true) (rsIn : atomRegs w64 rs = true) (holds : (s.chan c).slotOf p = some j)
    (one : s.lanesAt c p k x y .global (if w64 then 8 else 4) (if w64 then 8 else 4) addr .atomic = [(l, .mem key (s.addrOf c) off)])
    (free : s.barred c j (s.addrOf c) (off / 32) = false)
    (ready : TeReady s c p g k x y (regsFrom addr 2 ++ operandRegs w64 rs)) :
    Posts (teAtomG op relaxed c p g w64 none addr rs none s) c s ⟨j, (s.slot c j).regs.frame,
      ⟨BitVec.ofNat 49 off, w64, op, x.operand w64 l.val rs, x.operand w64 l.val rs, (s.pump c p).key, false⟩⟩ := by
  obtain ⟨addr0, atoms0, slot0, key0, barred0⟩ := teStart_home (s := s) (c := c) (p := p) (g := g) (y := y) (j := j) (operandOf w64 none)
  refine ⟨_, teAtomG_home allowed addrIn rsIn (fun r hr => by cases hr) (fun r hr => by cases hr) holds one
    (by rw [show operandOf w64 none = [] from rfl, List.append_nil]; exact ready), (teAtoms_last _ _ _).trans ?_⟩
  have posted := State.laneAtom_posts (s := s.teStart c p g y (operandOf w64 none)) (c := c) (p := p) (g := g) (j := j) (l := l) (key := key)
    (by rw [addr0, barred0, free]) w64 op (x.operand w64 l.val rs) (x.operand w64 l.val rs) x.tickets
  rw [addr0, atoms0, slot0, key0] at posted
  exact posted

/-- An atomic that returns is recorded with the frame. -/
theorem teAtomG_posts_returning {op : AtomOp} {w64 : Bool} {rd addr rs : TReg} {rt : Option TReg} (allowed : s.strictAt c p = false)
    (addrIn : teRegs addr 8 = true) (rsIn : atomRegs w64 rs = true) (rdIn : atomRegs w64 rd = true) (rtIn : ∀ r ∈ rt, atomRegs w64 r = true)
    (holds : (s.chan c).slotOf p = some j)
    (one : s.lanesAt c p k x y .global (if w64 then 8 else 4) (if w64 then 8 else 4) addr .atomic = [(l, .mem key (s.addrOf c) off)])
    (free : s.barred c j (s.addrOf c) (off / 32) = false) (quiet : QuietHome s c (off / 32))
    (ready : TeReady s c p g k x y (regsFrom addr 2 ++ operandRegs w64 rs ++ operandOf w64 rt)) :
    Posts (teAtomG op true c p g w64 (some rd) addr rs rt s) c s ⟨j, (s.slot c j).regs.frame,
      ⟨BitVec.ofNat 49 off, w64, op, x.operand w64 l.val (rt.getD rs), x.operand w64 l.val rs, (s.pump c p).key, true⟩⟩ := by
  obtain ⟨addr0, atoms0, slot0, key0, barred0⟩ := teStart_home (s := s) (c := c) (p := p) (g := g) (y := y) (j := j) (operandOf w64 (some rd))
  refine ⟨_, teAtomG_home (by rw [allowed]; rfl) addrIn rsIn (fun r hr => by cases hr; exact rdIn) rtIn holds one ready,
    (teAtoms_last _ _ _).trans ?_⟩
  have quiet0 : QuietHome (s.teStart c p g y (operandOf w64 (some rd))) c (off / 32) := by
    rw [State.teStart, State.onGroup]
    exact quiet.onTe _
  have posted := State.laneAtom_returns (s := s.teStart c p g y (operandOf w64 (some rd))) (c := c) (p := p) (g := g) (j := j) (l := l) (key := key)
    (by rw [addr0, barred0, free]) quiet0 w64 op (x.operand w64 l.val (rt.getD rs)) (x.operand w64 l.val rs) rd x.tickets
  rw [addr0, atoms0, slot0, key0] at posted
  exact posted

end

/-- Settles O17: an atomic whose word's home is this channel is recorded there, in its frame, one that returns once its word is read. -/
theorem globalAtomicsAreHeld : Obligations.GlobalAtomicsAreHeld := by
  unfold Obligations.GlobalAtomicsAreHeld
  intro c p g w64 rd addr rs rt k x y j l key off s n ls regs v holdsAt rec_ holds addrIn rsIn one free
  refine ⟨fun ready => ?_, fun relaxed rdIn rtIn held decls atoms hbm sound live => ?_⟩
  · have all : ∀ op : AtomOp, holdsAt (teAtomG op false c p g w64 none addr rs none s) (rec_ op v false) := fun op =>
      teAtomG_posts rfl addrIn rsIn holds one free ready
    refine ⟨all .add, all .min, all .max, all .and, all .or, all .xor, fun relaxed word => ?_⟩
    subst word
    exact teAtomG_posts (by rw [relaxed]; rfl) addrIn rsIn holds one free ready
  · have quiet : QuietHome s c (off / 32) := ⟨held, decls, atoms, hbm, sound, live⟩
    refine ⟨fun ready => ?_, fun ready => ?_⟩
    · exact teAtomG_posts_returning (rt := none) relaxed addrIn rsIn rdIn (fun r hr => by cases hr) holds one free quiet
        (by rw [show operandOf w64 none = [] from rfl, List.append_nil]; exact ready)
    · exact teAtomG_posts_returning (rt := some rt) relaxed addrIn rsIn rdIn (fun r hr => by cases hr; exact rtIn) holds one free quiet ready

end Sys2Proof.Machine

/-! ### Loads of the thread engine (R144, R147, R156) -/

namespace Sys2Proof.Machine

section
variable {s : State} {c : Chan} {p : PumpIx} {g : GSlot} {k : Kernel} {x : Group} {y : Path}

/-- An access of no bytes that lies at the end of the slice meets no byte of it. -/
theorem State.laneAt_zero {sp : Space} {A : BitVec 64} {r : Right} {a : Nat} (meets : s.laneAt c p k sp A 0 0 r = .mem a (s.addrOf c) (sliceByte p + a))
    (le : a ≤ 2 ^ 24) : a < 2 ^ 24 := by
  unfold State.laneAt at meets
  dsimp only at meets
  split at meets
  · cases meets
  · next aligned =>
    have zero : A.toNat = 0 := by simpa using aligned
    split at meets
    · split at meets
      · obtain ⟨rfl, -, -⟩ := LaneAt.mem.inj meets
        omega
      · cases meets
    · split at meets
      · cases meets
      · split at meets <;> cases meets
      · next ch off shared _ =>
        split_ifs at meets
        obtain ⟨key, rfl, rfl⟩ := LaneAt.mem.inj meets
        rw [State.teKey] at key
        split at key <;> omega

/-- The lanes of a load, read one after the other. -/
def State.readLanes (s : State) (c : Chan) (p : PumpIx) (x : Group) (size : Nat) (ls : List (Fin 32 × LaneAt)) :
    State × List ((Fin 32 × LaneAt) × (Nat ⊕ List (Option (BitVec 8)))) :=
  readEach (fun u e => ((u.laneLoad c p x e.2 size).1, (e, (u.laneLoad c p x e.2 size).2))) s ls

theorem State.readLanes_unread (s : State) (size : Nat) (ls : List (Fin 32 × LaneAt)) (g : GSlot) :
    (s.readLanes c p x size ls).1.unread c p g = s.unread c p g := by
  rw [State.readLanes]
  refine readEach_view (fun t => t.unread c p g) ?_ ls s
  intro t e
  exact State.unread_of_engine (t.laneLoad_engine x e.2 size) g

/-- What LD asks for: the values of lanes whose lines are at hand come at once, the others are fetched. -/
def Group.loading (u : Group) (m : BitVec 32) (rd : TReg) (size : Nat) (vs : List ((Fin 32 × LaneAt) × (Nat ⊕ List (Option (BitVec 8))))) : Group :=
  { (u.step.awaitFor m (regsFrom rd ((size + 3) / 4))) with
    arrived := u.arrived ++ vs.flatMap fun e => match e.2 with
      | .inl v => resultWords rd e.1.1 ((size + 3) / 4) v u.tickets
      | .inr _ => []
    loads := u.loads ++ vs.filterMap fun e => match e.1.2, e.2 with
      | .mem _ ch off, .inr own => some (⟨u.tickets, rd, e.1.1, (size + 3) / 4, size, ch, off, own⟩ : TeLoad)
      | _, _ => none }

theorem execTeLd_acts {sp : Space} {size : Nat} {rd addr : TReg} {ls : List (Fin 32 × LaneAt)}
    (inRange : teRegs rd size = true ∧ teRegs addr (if sp = .global then 8 else 4) = true)
    (lanes : s.lanesAt c p k x y sp size size addr .read = ls) (ok : LanesOk ls) (reached : s.hostWaits ls = false)
    (ready : TeReady s c p g k x y (addrRegs sp addr)) {s0 : State}
    (settled : (s.teStart c p g y (regsFrom rd ((size + 3) / 4))).settleAtoms c p (keyLines ls) = s0) :
    execTeLd c p g sp size rd addr s = .next ((((s0.readLanes c p x size ls).1.allocLines c p (keyLines ls)).onGroup c p g fun u =>
      u.loading y.mask rd size (s0.readLanes c p x size ls).2).teAfter c p g (addrRegs sp addr ++ regsFrom rd ((size + 3) / 4))) := by
  unfold execTeLd
  rw [if_neg (by rw [inRange.1, inRange.2]; exact Bool.false_ne_true)]
  refine congrArg _ ((State.teIssueIf_acts s c p g _ _ _ _ k x y ready (by rw [lanes]; exact reached)).trans ?_)
  simp only [State.teStart_lanesAt, lanes, State.withLanes_ok ok]
  rw [settled]
  rfl

theorem execTeLd_asks {sp : Space} {size : Nat} {rd addr : TReg} {ls : List (Fin 32 × LaneAt)}
    (inRange : teRegs rd size = true ∧ teRegs addr (if sp = .global then 8 else 4) = true)
    (lanes : s.lanesAt c p k x y sp size size addr .read = ls) (ok : LanesOk ls) (reached : s.hostWaits ls = false)
    (ready : TeReady s c p g k x y (addrRegs sp addr)) :
    Answers (execTeLd c p g sp size rd addr s) fun t => ∃ u, t.group c p g = some u ∧
      u.paths = { y with pc := y.pc + 1 } :: x.paths.drop 1 ∧ u.regs = x.regs ∧ WaitsFor u x y (regsFrom rd ((size + 3) / 4)) := by
  obtain ⟨_, here, rest, at_, -, -⟩ := State.teReady_some ready.1
  obtain ⟨s0, settled⟩ : ∃ s0, (s.teStart c p g y (regsFrom rd ((size + 3) / 4))).settleAtoms c p (keyLines ls) = s0 := ⟨_, rfl⟩
  have kept : ((s0.readLanes c p x size ls).1.allocLines c p (keyLines ls)).unread c p g =
      some (x.cancel y.mask (regsFrom rd ((size + 3) / 4))).unread := by
    rw [State.allocLines_unread, State.readLanes_unread, ← settled, State.settleAtoms_unread, State.unread, State.teStart_group here]
    rfl
  obtain ⟨u, hu, waits, paths, regs, -⟩ := load_answers (regs := addrRegs sp addr ++ regsFrom rd ((size + 3) / 4))
    (f := fun u => u.loading y.mask rd size (s0.readLanes c p x size ls).2) at_ kept fun _ => ⟨rfl, rfl, rfl⟩
  exact ⟨_, execTeLd_acts inRange lanes ok reached ready settled, u, hu, paths, regs, waits⟩

/-- The lanes of a load from plain granules, whatever its size. -/
theorem PlainLanes.readLanes {size : Nat} {sp : Space} {addr : TReg} {ls : List (Fin 32 × LaneAt)}
    (lanes : s.lanesAt c p k x y sp size size addr .read = ls) (plain : PlainLanes s c p size ls) (clear : NothingOver s c p x) (ds : List TReg) :
    (s.teStart c p g y ds).readLanes c p x size ls = (s.teStart c p g y ds, ls.map fun e => (e, .inl ((s.slice c p).bytesAt (e.2.key.getD 0) size))) := by
  have slice0 : (s.teStart c p g y ds).slice c p = s.slice c p := State.onGroup_slice ..
  rw [State.readLanes, ← slice0]
  refine readEach_still fun e he => ?_
  obtain ⟨a, at_, fits, h⟩ := plain.teStart (g := g) (y := y) ds e he
  have below : a < 2 ^ 24 := by
    rcases Nat.eq_zero_or_pos size with rfl | pos
    · rw [← lanes] at he
      obtain ⟨l, -, rfl⟩ := List.mem_map.1 he
      exact State.laneAt_zero at_ fits
    · omega
  have below' : a / 32 < 2 ^ 19 := by omega
  rw [at_, (clear.teStart ds).laneLoad h below']
  rfl

/-- Lines that entered the cache leave the group to its own change. -/
theorem State.onLines_group (t : State) (f : List Nat → List Nat) (h : Group → Group) :
    ((t.onTe c p fun z => { z with lines := f z.lines }).onGroup c p g h).group c p g = (t.group c p g).map h := by
  rw [State.onGroup_group, State.onTe_group]
  rfl

theorem execTeLd_loads {sp : Space} {size : Nat} {rd addr : TReg} {ls : List (Fin 32 × LaneAt)}
    (inRange : teRegs rd size = true ∧ teRegs addr (if sp = .global then 8 else 4) = true)
    (lanes : s.lanesAt c p k x y sp size size addr .read = ls) (ok : LanesOk ls) (reached : s.hostWaits ls = false)
    (ready : TeReady s c p g k x y (addrRegs sp addr)) (plain : PlainLanes s c p size ls) (clear : NothingOver s c p x)
    (room : CacheRoom s c p (keyLines ls)) :
    Answers (execTeLd c p g sp size rd addr s) fun t => ∃ u, t.group c p g = some u ∧
      u.arrived = x.arrived ++ ls.flatMap (fun e => resultWords rd e.1 ((size + 3) / 4) ((s.slice c p).bytesAt (e.2.key.getD 0) size) x.tickets) ∧
      t.slice c p = s.slice c p := by
  obtain ⟨_, here, rest, at_, -, -⟩ := State.teReady_some ready.1
  have settled : (s.teStart c p g y (regsFrom rd ((size + 3) / 4))).settleAtoms c p (keyLines ls) = s.teStart c p g y (regsFrom rd ((size + 3) / 4)) := by
    obtain ⟨-, -, atoms, -⟩ := clear.teStart (g := g) (y := y) (regsFrom rd ((size + 3) / 4))
    exact State.settleAtoms_none atoms _
  have room0 : CacheRoom (s.teStart c p g y (regsFrom rd ((size + 3) / 4))) c p (keyLines ls) := by
    rw [CacheRoom, State.teStart, State.onGroup_te]
    exact room
  have runs := execTeLd_acts inRange lanes ok reached ready settled
  rw [PlainLanes.readLanes lanes plain clear, State.allocLines_room room0] at runs
  have moved := (State.onLines_group (g := g) (s.teStart c p g y (regsFrom rd ((size + 3) / 4)))
    (fun m => m.filter (fun l => !(keyLines ls).contains l) ++ keyLines ls) fun u => u.loading y.mask rd size
      (ls.map fun e => (e, .inl ((s.slice c p).bytesAt (e.2.key.getD 0) size)))).trans
    (congrArg (Option.map _) (State.teStart_group here _))
  refine ⟨_, runs, _, State.teAfter_group moved _, ?_, ?_⟩
  · exact congrArg (x.arrived ++ ·) (List.flatMap_map ..)
  · rw [State.teAfter_slice, State.onGroup_slice, State.onTe_slice, State.teStart, State.onGroup_slice]

end

end Sys2Proof.Machine


/-! ### Stores of the thread engine (R160, R161) -/

namespace Sys2Proof.Machine

theorem storeBytes_length (x : Group) (lane : Nat) (rs : TReg) (size : Nat) : (storeBytes x lane rs size).length = size := leBytes_length ..

/-- Bytes put into a map from a place on. -/
def blockAt (a : Nat) (bs : List (BitVec 8)) (glob : Bool) : List (Nat × BitVec 8 × Bool) := bs.zipIdx.map fun b => (a + b.2, b.1, glob)

/-- Bytes put one after the other. -/
def buffered (m : SMap (BitVec 8 × Bool)) (ws : List (Nat × BitVec 8 × Bool)) : SMap (BitVec 8 × Bool) := ws.foldl (fun b e => b.set1 e.1 e.2) m

theorem buffered_append (m : SMap (BitVec 8 × Bool)) (us ws : List (Nat × BitVec 8 × Bool)) : buffered m (us ++ ws) = buffered (buffered m us) ws :=
  List.foldl_append

theorem buffered_sorted {m : SMap (BitVec 8 × Bool)} (h : SMap.sorted m) (ws : List (Nat × BitVec 8 × Bool)) : SMap.sorted (buffered m ws) :=
  List.foldlRecOn (motive := fun v => SMap.sorted v) _ _ h fun _ hv _ _ => SMap.sorted_set1 _ _ _ hv

theorem buffered_block {m : SMap (BitVec 8 × Bool)} (h : SMap.sorted m) (a : Nat) (bs : List (BitVec 8)) (glob : Bool) (i : Nat) :
    (buffered m (blockAt a bs glob)).look i = if a ≤ i ∧ i < a + bs.length then some (bs.getD (i - a) 0, glob) else m.look i := by
  induction bs using List.reverseRecOn with
  | nil => rw [if_neg (by rw [List.length_nil]; omega)]; rfl
  | append_singleton bs v ih =>
    have split_ : blockAt a (bs ++ [v]) glob = blockAt a bs glob ++ [(a + bs.length, v, glob)] := by
      simp [blockAt, List.zipIdx_append]
    rw [split_, buffered_append]
    change ((buffered m (blockAt a bs glob)).set1 (a + bs.length) (v, glob)).look i = _
    by_cases last : i = a + bs.length
    · subst last
      rw [SMap.look_set1_self, if_pos (by simp)]
      simp
    · rw [SMap.look_set1_ne _ _ _ _ last (buffered_sorted h _), ih, List.length_append, List.length_singleton]
      by_cases inside : a ≤ i ∧ i < a + bs.length
      · rw [if_pos inside, if_pos (by omega), List.getD_append _ _ _ _ (by omega)]
      · rw [if_neg inside, if_neg (by omega)]

section
variable {s : State} {c : Chan} {p : PumpIx} {g : GSlot} {k : Kernel} {x : Group} {y : Path}

/-- Where a lane's bytes go. -/
def laneBytes (x : Group) (rs : TReg) (size : Nat) (glob : Bool) (e : Fin 32 × LaneAt) : List (Nat × BitVec 8 × Bool) :=
  blockAt (e.2.key.getD 0) (storeBytes x e.1.val rs size) glob

/-- Whether a lane's bytes cover a place. -/
def covers (size i : Nat) (e : Fin 32 × LaneAt) : Bool := decide (e.2.key.getD 0 ≤ i ∧ i < e.2.key.getD 0 + size)

/-- The byte that a lane puts at a place. -/
def laneByte (x : Group) (rs : TReg) (size : Nat) (glob : Bool) (i : Nat) (e : Fin 32 × LaneAt) : BitVec 8 × Bool :=
  ((storeBytes x e.1.val rs size).getD (i - e.2.key.getD 0) 0, glob)

/-- The last lane that covers a place puts its byte there. -/
theorem buffered_lanes {m : SMap (BitVec 8 × Bool)} (h : SMap.sorted m) (rs : TReg) (size : Nat) (glob : Bool) (i : Nat) (ls : List (Fin 32 × LaneAt)) :
    (buffered m (ls.flatMap (laneBytes x rs size glob))).look i =
      (ls.reverse.find? (covers size i)).elim (m.look i) fun e => some (laneByte x rs size glob i e) := by
  induction ls using List.reverseRecOn with
  | nil => rfl
  | append_singleton ls e ih =>
    rw [List.flatMap_append, List.flatMap_singleton, buffered_append, laneBytes, buffered_block (buffered_sorted h _), storeBytes_length,
      List.reverse_append, List.reverse_singleton, List.singleton_append, List.find?_cons]
    by_cases inside : e.2.key.getD 0 ≤ i ∧ i < e.2.key.getD 0 + size
    · rw [if_pos inside, show covers size i e = true from decide_eq_true inside]
      rfl
    · rw [if_neg inside, show covers size i e = false from decide_eq_false inside]
      exact ih

/-- The lines of a lane's bytes. -/
theorem laneBytes_lines (rs : TReg) (size : Nat) (glob : Bool) (e : Fin 32 × LaneAt) :
    (laneBytes x rs size glob e).map (fun b => b.1 / 128) = (List.range size).map fun i => (e.2.key.getD 0 + i) / 128 := by
  refine List.ext_getElem (by simp [laneBytes, blockAt, storeBytes_length]) fun i h1 h2 => ?_
  simp [laneBytes, blockAt]

/-- A step that changes nothing at any of its places. -/
theorem State.each_idle {α : Type} {f : State → α → State} (l : List α) (s : State) (h : ∀ t, ∀ a ∈ l, f t a = t) : s.each l f = s := by
  refine List.foldlRecOn (motive := fun t => t = s) l f rfl fun t ht a ha => ?_
  rw [h t a ha, ht]

/-- Places of memory need no host. -/
theorem State.hostWaits_mem {ls : List (Fin 32 × LaneAt)} (mem : ∀ e ∈ ls, e.2.key ≠ none) : s.hostWaits ls = false := by
  rw [State.hostWaits, Bool.and_eq_false_iff]
  refine .inr (List.any_eq_false.2 fun e he => ?_)
  have real := mem e he
  split
  · next hva host => rw [host] at real; exact absurd rfl real
  · exact Bool.false_ne_true

/-- The cache lines of an access are among those of its bytes. -/
theorem Group.fits_keyLines {ls : List (Fin 32 × LaneAt)} {size : Nat} (pos : 0 < size)
    (fits : x.fits (ls.flatMap fun e => (List.range size).map fun i => (e.2.key.getD 0 + i) / 128).dedup = true) : x.fits (keyLines ls) = true := by
  rw [Group.fits, decide_eq_true_eq] at fits ⊢
  refine le_trans (List.Subperm.length_le (List.Nodup.subperm (List.nodup_dedup _) fun l hl => ?_)) fits
  rw [List.mem_dedup, List.mem_append] at hl ⊢
  refine hl.imp_right fun hl => ?_
  rw [keyLines, List.mem_dedup] at hl
  obtain ⟨e, he, line⟩ := List.mem_filterMap.1 hl
  obtain ⟨a, key, rfl⟩ := Option.map_eq_some_iff.1 line
  rw [List.mem_dedup]
  exact List.mem_flatMap.2 ⟨e, he, List.mem_map.2 ⟨0, List.mem_range.2 pos, by rw [key]; rfl⟩⟩

/-- Bytes that fit enter the store buffer. -/
def Group.stored (u : Group) (ws : List (Nat × BitVec 8 × Bool)) : Group :=
  { u with bufLines := (u.bufLines ++ (ws.map fun (e : Nat × BitVec 8 × Bool) => e.1 / 128).dedup).dedup, buf := buffered u.buf ws }

theorem State.store_fits {t : State} {v : Group} {ws : List (Nat × BitVec 8 × Bool)} (here : t.group c p g = some v)
    (fits : v.fits (ws.map fun e => e.1 / 128).dedup = true) : t.store c p g ws = t.onGroup c p g fun u => u.stored ws := by
  have here' : (t.pump c p).te.slots[g.val] = some v := here
  rw [State.store, here']
  dsimp only
  rw [if_pos fits]
  rfl

theorem execTeSt_acts {sp : Space} {size : Nat} {addr rs : TReg} {ls : List (Fin 32 × LaneAt)}
    (inRange : teRegs rs size = true ∧ teRegs addr (if sp = .global then 8 else 4) = true)
    (lanes : s.lanesAt c p k x y sp size size addr .write = ls) (ok : LanesOk ls) (mem : ∀ e ∈ ls, e.2.key ≠ none) (pos : 0 < size)
    (fits : x.fits (ls.flatMap fun e => (List.range size).map fun i => (e.2.key.getD 0 + i) / 128).dedup = true)
    (ready : TeReady s c p g k x y (addrRegs sp addr ++ regsFrom rs ((size + 3) / 4))) :
    execTeSt c p g sp size addr rs s = .next ((((s.teStart c p g y []).onGroup c p g fun u =>
      u.stored (ls.flatMap (laneBytes x rs size (sp == .global)))).onGroup c p g Group.step).teAfter c p g
        (addrRegs sp addr ++ regsFrom rs ((size + 3) / 4))) := by
  obtain ⟨_, here, -⟩ := State.teReady_some ready.1
  have lines : (ls.flatMap (laneBytes x rs size (sp == .global))).map (fun b => b.1 / 128) =
      ls.flatMap fun e => (List.range size).map fun i => (e.2.key.getD 0 + i) / 128 := by
    rw [List.map_flatMap]
    exact congrArg (ls.flatMap ·) (funext fun e => laneBytes_lines rs size _ e)
  unfold execTeSt
  rw [if_neg (by rw [inRange.1, inRange.2]; exact Bool.false_ne_true)]
  refine congrArg _ ((State.teIssueIf_acts s c p g _ _ _ _ k x y ready ?_).trans ?_)
  · dsimp only
    rw [lanes, State.hostWaits_mem mem, Group.fits_keyLines pos fits]
    rfl
  · simp only [State.teStart_lanesAt, lanes, State.withLanes_ok ok, List.append_nil]
    refine congrArg (fun t => (State.onGroup t c p g Group.step).teAfter c p g _) (Eq.trans (congrArg₂ (State.store · c p g) (State.each_idle ls _ ?_)
      (List.flatMap_congr (g := laneBytes x rs size (sp == .global)) fun e he => ?_)) (State.store_fits (State.teStart_group here []) ?_))
    · intro t e he
      split
      · next hva host => exact absurd (congrArg LaneAt.key host) (mem e he)
      · rfl
    · split
      · next a key => rw [laneBytes, key, Option.getD_some, blockAt]
      · next none_ => exact absurd none_ (mem e he)
    · rw [lines]
      exact fits

end

end Sys2Proof.Machine


/-! ### Memory operations: the settled statement (R144, R147, R156-R161) -/

namespace Sys2Proof.Machine

section
variable {s : State} {c : Chan} {p : PumpIx} {g : GSlot} {k : Kernel} {x : Group} {y : Path}

theorem State.onTe_slices (s : State) (f : Te → Te) (i : PumpIx) : (s.onTe c p f).slice c i = s.slice c i := by
  by_cases same : i = p
  · subst same
    exact State.onTe_slice ..
  · rw [State.slice, State.onTe, State.onPump_pump_ne s c p i _ same]
    rfl

theorem State.groupStep_slices (s : State) (f h : Group → Group) (rs : List TReg) (i : PumpIx) :
    (((((s.teStart c p g y []).onGroup c p g f).onGroup c p g h).teAfter c p g rs).slice c i) = s.slice c i := by
  simp only [State.teAfter, State.teStart, State.onGroup, State.onTe_slices]

/-- A store leaves every slice as it is; its bytes stand in the group's store buffer, the highest lane's last. -/
theorem execTeSt_stores {sp : Space} {size : Nat} {addr rs : TReg} {ls : List (Fin 32 × LaneAt)}
    (inRange : teRegs rs size = true ∧ teRegs addr (if sp = .global then 8 else 4) = true)
    (lanes : s.lanesAt c p k x y sp size size addr .write = ls) (ok : LanesOk ls) (mem : ∀ e ∈ ls, e.2.key ≠ none) (pos : 0 < size)
    (fits : x.fits (ls.flatMap fun e => (List.range size).map fun i => (e.2.key.getD 0 + i) / 128).dedup = true) (sorted : SMap.sorted x.buf)
    (ready : TeReady s c p g k x y (addrRegs sp addr ++ regsFrom rs ((size + 3) / 4))) :
    Answers (execTeSt c p g sp size addr rs s) fun t => (∀ i, t.slice c i = s.slice c i) ∧ ∃ u, t.group c p g = some u ∧
      u.paths = { y with pc := y.pc + 1 } :: x.paths.drop 1 ∧ u.regs = x.regs ∧ ∀ b, u.buf.look b =
        (ls.reverse.find? (covers size b)).elim (x.buf.look b) fun e => some (laneByte x rs size (sp == .global) b e) := by
  obtain ⟨_, here, rest, at_, -, -⟩ := State.teReady_some ready.1
  refine ⟨_, execTeSt_acts inRange lanes ok mem pos fits ready, fun i => State.groupStep_slices s _ _ _ i, _,
    State.teAfter_group ((State.onGroup_group ..).trans (congrArg (Option.map Group.step) ((State.onGroup_group ..).trans
      (congrArg (Option.map _) (State.teStart_group here []))))) _, ?_, ?_, fun b => ?_⟩
  · rw [at_]
    exact Group.step_paths at_
  · exact (Group.step_rest _).1
  · have kept : ∀ u : Group, (u.step.cacheUse (addrRegs sp addr ++ regsFrom rs ((size + 3) / 4))).buf = u.buf := fun u => by
      unfold Group.step
      split <;> rfl
    rw [kept]
    exact buffered_lanes sorted rs size _ b ls

theorem execTePf_acts {sp : Space} {addr : TReg} {ls : List (Fin 32 × LaneAt)} (inRange : teRegs addr (if sp = .global then 8 else 4) = true)
    (lanes : s.lanesAt c p k x y sp 1 1 addr .read = ls) (ok : LanesOk ls) (room : CacheRoom s c p (keyLines ls))
    (ready : TeReady s c p g k x y (addrRegs sp addr)) :
    execTePf c p g sp addr s = .next ((((s.teStart c p g y []).onTe c p fun t => { t with
      lines := t.lines.filter (fun l => !(keyLines ls).contains l) ++ keyLines ls }).onGroup c p g Group.step).teAfter c p g (addrRegs sp addr)) := by
  have room0 : CacheRoom (s.teStart c p g y []) c p (keyLines ls) := by
    rw [CacheRoom, State.teStart, State.onGroup_te]
    exact room
  unfold execTePf
  rw [if_neg (by rw [inRange]; exact Bool.false_ne_true)]
  refine congrArg _ ((State.teIssueIf_acts s c p g _ _ _ _ k x y ready rfl).trans ?_)
  simp only [State.teStart_lanesAt, lanes, State.withLanes_ok ok, List.append_nil, State.allocLines_room room0]

/-! #### Results -/

/-- With no load outstanding nothing is fetched. -/
theorem State.fetchLoads_none (here : s.group c p g = some x) (none_ : x.loads = []) :
    (s.fetchLoads c p g).group c p g = some x := by
  rw [State.fetchLoads, here]
  simp only [none_, readEach]
  rw [State.onGroup_group, here]
  obtain ⟨gid, paths, exited, regs, rcache, bufLines, buf, awaiting, arrived, loads, tickets⟩ := x
  obtain rfl : loads = [] := none_
  simp

theorem Group.set_rest (u : Group) (lane r : Nat) (v : BitVec 32) : (u.set lane r v).paths = u.paths := by
  unfold Group.set
  split <;> rfl

/-- Results that arrived are written to the registers that still await them. -/
def Group.written (u : Group) : Group :=
  u.arrived.foldl (fun v e => if (e.1, e.2.1, e.2.2.2) ∈ u.awaiting then v.set e.2.1.val e.1.toNat e.2.2.1 else v) u

theorem Group.deliver_eq (u : Group) : u.deliver = { u.written with
    arrived := []
    awaiting := u.awaiting.filter fun a => !(u.arrived.filter fun e => u.awaiting.contains (e.1, e.2.1, e.2.2.2)).any fun e => (e.1, e.2.1, e.2.2.2) == a } := by
  have fold : (u.arrived.filter fun e => u.awaiting.contains (e.1, e.2.1, e.2.2.2)).foldl (fun (v : Group) e => v.set e.2.1.val e.1.toNat e.2.2.1) u =
      u.written := by
    rw [List.foldl_filter, Group.written]
    simp only [List.contains_eq_mem, decide_eq_true_eq]
  rw [Group.deliver, fold]

theorem Group.deliver_awaiting (u : Group) (a : TReg × Fin 32 × Nat) :
    a ∈ u.deliver.awaiting ↔ a ∈ u.awaiting ∧ ∀ e ∈ u.arrived, (e.1, e.2.1, e.2.2.2) ≠ a := by
  rw [Group.deliver_eq]
  dsimp only
  rw [List.mem_filter, Bool.not_eq_true', List.any_eq_false]
  refine and_congr_right fun waits => ⟨fun none_ e he same => ?_, fun none_ e he same => none_ e (List.mem_filter.1 he).1 (beq_iff_eq.1 same)⟩
  refine none_ e (List.mem_filter.2 ⟨he, ?_⟩) (beq_iff_eq.2 same)
  rw [same, List.contains_eq_mem]
  exact decide_eq_true waits

theorem Group.deliver_paths (u : Group) : u.deliver.paths = u.paths := by
  rw [Group.deliver_eq]
  refine List.foldlRecOn (motive := fun v : Group => v.paths = u.paths) _ _ rfl fun v hv e _ => ?_
  split
  · exact (v.set_rest _ _ _).trans hv
  · exact hv

end

/-- Settles O15: a load's registers await what its lanes ask for, a store fills the group's store buffer, and arrived results are written once. -/
theorem threadMemoryOps : Obligations.ThreadMemoryOps := by
  unfold Obligations.ThreadMemoryOps
  intro c p g sp size rd addr k x y s words inRange next rds wrs pfs
  refine ⟨fun regs ready ok reached => ⟨execTeLd_asks regs rfl ok reached ready, fun plain clear room => execTeLd_loads regs rfl ok reached ready plain clear room⟩,
    fun regs ready ok mem fits sorted pos => ?_, fun regs ready ok room => execTePf_acts regs rfl ok room ready, fun here none_ => ?_,
    fun regs hk sound waits => ?_⟩
  · obtain ⟨t, runs, slices, u, here, paths, kept, buf⟩ := execTeSt_stores regs rfl ok mem pos fits sorted ready
    refine ⟨t, runs, slices, u, here, paths, kept, fun b => (buf b).trans ?_⟩
    unfold covers
    split
    · next e found => rw [found]; rfl
    · next none_ => rw [none_]; rfl
  · refine ⟨_, rfl, x.deliver, (State.onGroup_group ..).trans (congrArg (Option.map _) (State.fetchLoads_none here none_)), ?_, x.deliver_paths,
      x.deliver_awaiting, ?_⟩
    · rw [x.deliver_eq]
    · rw [x.deliver_eq]
      rfl
  · simp only [exec]
    unfold execTeLd
    rw [if_neg (by rw [regs.1, regs.2]; exact Bool.false_ne_true)]
    exact congrArg _ (State.teIssueIf_stalls hk sound (by rw [waits, Bool.true_or]))

end Sys2Proof.Machine

/-! ### What reads, holds and combines of memory leave of the slots (R194, R213-R262, R325) -/

namespace Sys2Proof.Machine

theorem State.settle_steady (s : State) (c : Chan) (k : Nat) : Steady s (s.settle c k) := by
  unfold State.settle
  dsimp only
  split
  · exact (s.applyDue_steady c k).trans (State.foldUpto_steady _ c _ _ _)
  · exact s.applyDue_steady c k

theorem State.deadRead_steady (s : State) (c : Chan) (j : SlotIx) (k : Nat) : Steady s (s.deadRead c j k) := by
  unfold State.deadRead
  extract_lets x s1 s2
  have h1 : Steady s s1 := Steady.onSlot s c j _ fun _ => by rfl
  have h2 : Steady s s2 := h1.trans (Steady.onSlot s1 c j _ fun _ => by rfl)
  exact Keeps.ite (h1.trans (Steady.onSlot _ c j _ fun _ => by rfl))
    (Keeps.ite h2 ((h2.trans (State.event_keeps s2 c _ _ _ _)).trans (Steady.onSlot _ c j _ fun _ => by rfl)))

theorem State.readBase_steady (s : State) (c : Chan) (j : Option SlotIx) (k : Nat) : Steady s (s.readBase c j k).1 := by
  unfold State.readBase
  extract_lets s1 h e
  have h1 : Steady s s1 := s.settle_steady c k
  clear_value s1
  split
  · dsimp only
    split
    · exact h1.trans (s1.deadRead_steady c _ k)
    · exact h1
  · split
    · exact h1
    · exact h1.trans (s1.checked_steady c k _ e)

theorem State.readShared_steady (s : State) (c : Chan) (j : Option SlotIx) (k : Nat) : Steady s (s.readShared c j k).1 := by
  unfold State.readShared
  split
  · split
    · split
      · exact s.heldRead_steady c _ _ _ _ _
      · exact s.readBase_steady c j k
    · exact s.readBase_steady c j k
  · exact s.readBase_steady c j k

theorem State.heldFull_steady (s : State) (c : Chan) (j : SlotIx) (p : Option PumpIx) (kind used : Nat) :
    Steady s (s.heldFull c j p kind used) := (s.event_keeps c _ _ _ _).trans (State.fault_steady _ c j _ _ _ _)

theorem State.hold_steady (s : State) (c : Chan) (j : SlotIx) (frame : Nat) (r : WriteRec) : Steady s (s.hold c j frame r) := by
  unfold State.hold
  extract_lets k h same merge unit t
  have ht : Steady s t := by
    simp only [t]
    split
    · exact Keeps.refl s
    · exact (s.heldRead_steady c _ _ _ _ _).trans (Keeps.onChan _ c _ fun _ => by rfl)
  clear_value t
  refine Keeps.ite (ht.trans (Keeps.onChan t c _ fun _ => by rfl)) ?_
  split
  exact Keeps.ite (s.heldFull_steady c j _ _ _) (Keeps.onChan s c _ fun _ => by rfl)

theorem State.checkInbound_steady (s : State) (c : Chan) (p : PumpIx) (g frame : Nat) : Steady s (s.checkInbound c p g frame) := by
  unfold State.checkInbound
  split
  · exact Keeps.refl s
  · exact (s.heldRead_steady c _ _ _ _ _).trans (Keeps.onPump _ c p _)

theorem State.combineAt_steady (s : State) (c : Chan) (p : PumpIx) (g frame : Nat) (v : Granule) :
    Steady s (s.combineAt c p g frame v) := by
  unfold State.combineAt
  extract_lets l s1 s2
  have h1 : Steady s s1 := Keeps.ite (Keeps.refl s) ((s.applyDue_steady c _).trans (State.foldUpto_steady _ c p g _))
  have h2 : Steady s s2 := h1.trans (s1.checkInbound_steady c p g frame)
  clear_value s2
  exact Keeps.ite (h2.trans (s2.dataUe_steady c _ _)) (h2.trans (Keeps.onPump s2 c p _))

theorem State.dropOob_steady (s : State) (c : Chan) (j : SlotIx) (n : Nat) : Steady s (s.dropOob c j n) :=
  Keeps.ite (Keeps.refl s) (Steady.onSlot s c j _ fun _ => by rfl)

/-! ### Reads of a window, and copies (R186, R194) -/

/-- A reader that leaves the slots' cores as they are. -/
def Reader.Steady (rd : Reader) : Prop := ∀ s ch k, Machine.Steady s (rd s ch k).1

section
variable {rd : Reader} (hr : rd.Steady)
include hr

theorem View.readGran_steady (s : State) (w : View) (v i : Nat) : Steady s (w.readGran rd s v i).1 := by
  unfold View.readGran
  split
  · exact hr ..
  · exact Keeps.refl s

theorem View.readBits_steady (s : State) (w : View) (sp : Nat × List Int) (k n : Nat) : Steady s (w.readBits rd s sp k n).1 := by
  unfold View.readBits
  dsimp only
  split
  · exact View.readGran_steady hr ..
  · exact (View.readGran_steady hr ..).trans (View.readGran_steady hr ..)

theorem View.readScalar_steady (s : State) (w : View) (ix : List Int) : Steady s (w.readScalar rd s ix).1 := by
  unfold View.readScalar
  split
  · exact View.readBits_steady hr ..
  · exact Keeps.refl s

theorem View.readBlock_steady (s : State) (w : View) (ix : List Int) : Steady s (w.readBlock rd s ix).1 := by
  unfold View.readBlock
  split
  · exact (View.readBits_steady hr ..).trans (View.readBits_steady hr ..)
  · exact Keeps.refl s

omit hr in
theorem readEach_keeps {α β γ : Type} {v : Slot → γ} {f : State → α → State × β} (hf : ∀ t a, Keeps v t (f t a).1) (l : List α) (s : State) :
    Keeps v s (readEach f s l).1 := by
  induction l generalizing s with
  | nil => exact Keeps.refl s
  | cons a l ih => exact (hf s a).trans (ih _)

theorem View.readScalars_steady (s : State) (w : View) (win : Window) : Steady s (w.readScalars rd s win).1 :=
  readEach_keeps (fun t _ => View.readScalar_steady hr t w _) _ s

theorem View.readRowBlocks_steady (s : State) (w : View) (win : Window) (outer : List Nat) :
    Steady s (w.readRowBlocks rd s win outer).1 :=
  readEach_keeps (fun t _ => View.readBlock_steady hr t w _) _ s

theorem View.readRowNums_steady (s : State) (w : View) (win : Window) (outer : List Nat) :
    Steady s (w.readRowNums rd s win outer).1 := by
  unfold View.readRowNums
  dsimp only
  split
  · exact View.readRowBlocks_steady hr s w win outer
  · exact readEach_keeps (fun t _ => by exact View.readScalar_steady hr t w _) _ s

theorem copyViews_steady (s : State) (src : View) (sw : Window) (dst : View) (dw : Window) (sr : Option Nat) :
    Steady s (copyViews rd s src sw dst dw sr).1 := by
  unfold copyViews
  dsimp only
  split
  · exact View.readScalars_steady hr s src sw
  · split
    · exact Steady.foldl _ (fun acc o => by exact View.readRowBlocks_steady hr acc.1 src sw o) _ (s, _)
    · exact Steady.foldl _ (fun acc o => by exact View.readRowNums_steady hr acc.1 src sw o) _ (s, _)

end

end Sys2Proof.Machine



/-! ### The collectives that a slot's frame has begun (R325) -/

namespace Sys2Proof.Machine

/-- The collective entries that a slot's frame has begun. -/
def Slot.collsBegun (x : Slot) : List (Nat × BitVec 8) := x.fr.collDone

/-- What is begun stands in every slot, and the clock. -/
abbrev SameBegun (s t : State) : Prop := Keeps Slot.collsBegun s t

theorem Slot.core_collsBegun (x : Slot) : x.core.collsBegun = x.collsBegun := rfl

theorem Steady.begun {s t : State} (h : Steady s t) : SameBegun s t :=
  ⟨h.1, fun c j => by rw [← Slot.core_collsBegun, h.2 c j, Slot.core_collsBegun]⟩

theorem State.collected_begun (s : State) (c : Chan) (j : SlotIx) (n : Nat) : SameBegun s (s.collected c j n) :=
  Keeps.onSlot s c j _ fun _ => by rfl

theorem State.collSum_begun (s : State) (c : Chan) (j : SlotIx) (frame : Nat) (w : View) (n : Nat) (v : Granule) :
    SameBegun s (s.collSum c j frame w n v) := by
  unfold State.collSum
  split
  · exact Keeps.refl s
  · split
    · exact Keeps.ite ((s.combineAt_steady c _ _ frame v).begun.trans (State.collected_begun _ c j 32)) (Keeps.refl s)
    · exact Keeps.refl s

theorem State.sendTree_begun (s : State) (c : Chan) (j : Option SlotIx) (port : PortIx) (f : OutFlit) :
    SameBegun s (s.sendTree c j port f) := (s.sendFlit_keeps c port f).trans (State.raise_keeps _ c _ _ _ j 1)

theorem State.rootSum_begun (s : State) (c : Chan) (tree : BitVec 12) (t : Tree) (ctx : Nat) (jb : Job) (e : CollEntry) (n : Nat)
    (v : Granule) (block : Nat) : SameBegun s (s.rootSum c tree t ctx jb e n v block) := by
  unfold State.rootSum
  split
  · exact Keeps.refl s
  · next j _ =>
    extract_lets frame give s1
    have gives : ∀ u m k, SameBegun u (give u m k) := fun u m k => by
      unfold give
      split
      · exact u.collSum_begun c j frame _ k v
      · exact Keeps.refl u
    split
    · exact gives s _ _
    · exact gives s _ _
    · exact (Keeps.each _ (fun u m => gives u m n) _ s).trans (Keeps.each _ (fun u p => u.sendTree_begun c _ p _) _ s1)
    · exact Keeps.refl s

theorem State.storeFault_begun (s : State) (c : Chan) (tree : BitVec 12) (t : Tree) : SameBegun s (s.storeFault c tree t) := by
  unfold State.storeFault
  split
  · exact (s.fault_steady c _ _ _ _ _).begun
  · exact (s.faultEvent_keeps c _ _ _ _ _ _).trans (Keeps.each _ (fun u p => u.marker_keeps c p _) _ _)

theorem State.reduceIn_begun (s : State) (c : Chan) (tree : BitVec 12) (idx : BitVec 8) (n : Nat) (v : Granule) :
    SameBegun s (s.reduceIn c tree idx n v) := by
  unfold State.reduceIn
  split
  · next t ctx job jb _ _ =>
    extract_lets mine cur sum rest s0 store rset s1
    have h0 : SameBegun s s0 := Keeps.ite (s.storeFault_begun c tree t) (Keeps.refl s)
    have stores : ∀ l, SameBegun s (store l) := fun l => h0.trans (Keeps.onChan s0 c _ fun _ => by rfl)
    clear_value store
    refine Keeps.ite (stores _) ?_
    split
    · exact stores _
    · next e block _ =>
      extract_lets s2
      have h2 : SameBegun s s2 := by
        simp only [s2]
        split
        · exact (stores rest).trans (s1.sendTree_begun c _ _ _)
        · exact (stores rest).trans (s1.rootSum_begun c tree t ctx jb e n sum block)
      exact h2.trans (Keeps.each _ (fun u p => u.marker_keeps c p _) _ s2)
  · exact Keeps.refl s

/-! ### A member's collective -/

theorem State.collRead_steadyReader (s : State) (c : Chan) (j : SlotIx) : Reader.Steady (s.collRead c j) := by
  intro t ch k
  unfold State.collRead
  split
  · exact t.readShared_steady _ _ k
  · exact ⟨rfl, fun _ _ => rfl⟩

theorem collCopy_steady {rd : Reader} (hr : rd.Steady) (s : State) (e : CollEntry) (me : Nat) (src dst : View) :
    Steady s (collCopy rd s e me src dst).1 := by
  unfold collCopy
  split <;> exact copyViews_steady hr ..

theorem State.collHold_begun (s : State) (c : Chan) (j : SlotIx) (frame : Nat) (r : WriteRec) : SameBegun s (s.collHold c j frame r) :=
  (s.hold_steady c j frame r).begun.trans (State.collected_begun _ c j _)

theorem State.mcastOut_begun (s : State) (c : Chan) (j : SlotIx) (tree : BitVec 12) (idx : BitVec 8) (ports : List PortIx) (n : Nat)
    (rs : List (ChanAddr × WriteRec)) : SameBegun s (s.mcastOut c j tree idx ports n rs) := by
  induction n generalizing s rs with
  | zero => exact Keeps.refl s
  | succ n ih =>
    exact Keeps.ite (Keeps.refl s) ((Keeps.each _ (fun u p => u.sendTree_begun c _ p _) ports s).trans (ih _ _))

theorem State.collWrite_begun (s : State) (c : Chan) (j : SlotIx) (ctx : Nat) (jb : Job) (e : CollEntry) (src : View) :
    SameBegun s (s.collWrite c j ctx jb e src) := by
  unfold State.collWrite
  extract_lets me own
  split
  next s1 recs copies =>
  have h1 : SameBegun s s1 := by
    refine (Steady.fst copies ?_).begun
    refine Steady.foldl _ ?_ _ _
    intro acc m
    dsimp only
    split
    · next dst _ =>
      rcases copied : collCopy (s.collRead c j) acc.1 e me src dst with ⟨t, ws⟩
      exact (Steady.fst copied (collCopy_steady (s.collRead_steadyReader c j) acc.1 e me src dst)).trans (t.dropOob_steady c j _)
    · exact Keeps.refl acc.1
  extract_lets here away s2
  have h2 : SameBegun s s2 := 
    h1.trans (Keeps.each _ (fun t r => by exact t.collHold_begun c j (t.frameNo c j) r.2) here s1)
  clear_value s2
  split
  · exact h2.trans (s2.mcastOut_begun c j _ _ _ _ _)
  · exact h2

theorem State.collAdds_begun (s : State) (c : Chan) (j : SlotIx) (jb : Job) (e : CollEntry) (n : Nat) (vs : List (Option Granule)) :
    SameBegun s (s.collAdds c j jb e n vs) := by
  induction vs generalizing s n with
  | nil => exact Keeps.refl s
  | cons v rest ih =>
    cases v with
    | none => exact (s.fault_steady c j _ _ _ _).begun
    | some v =>
      unfold State.collAdds
      split
      · exact (s.reduceIn_begun c _ _ n v).trans (ih _ _)
      · exact ih s _

theorem State.collReduce_begun (s : State) (c : Chan) (j : SlotIx) (jb : Job) (e : CollEntry) (src dst : View) :
    SameBegun s (s.collReduce c j jb e src dst) :=
  (View.readScalars_steady (s.collRead_steadyReader c j) s src _).begun.trans (State.collAdds_begun _ c j jb e 0 _)

end Sys2Proof.Machine



/-! ### Collective entries (R325, R177) -/

namespace Sys2Proof.Machine

/-- A slot's state once it has begun a collective entry, no earlier than its START_NS. -/
def State.begins (s : State) (c : Chan) (j : SlotIx) (e : CollEntry) : State :=
  (s.until ((s.slot c j).fr.tickNs + e.startNs)).onFr c j fun y => { y with collDone := y.collDone ++ [(e.vch, e.index)] }

/-- What an entry does that has begun: a use that R177 forbids faults the job. -/
def State.runColl (s : State) (c : Chan) (j : SlotIx) (ctx : Nat) (jb : Job) (e : CollEntry) (src dst : View) : State :=
  if s.collUse ctx jb e src then
    match e.kind with
    | .broadcast => if e.vch = e.first + e.root then s.collWrite c j ctx jb e src else s
    | .allgather => s.collWrite c j ctx jb e src
    | _ => s.collReduce c j jb e src dst
  else s.fault c j .descriptor .none 0 0

theorem State.runColl_begun (s : State) (c : Chan) (j : SlotIx) (ctx : Nat) (jb : Job) (e : CollEntry) (src dst : View) :
    SameBegun s (s.runColl c j ctx jb e src dst) := by
  refine Keeps.ite ?_ (s.fault_steady c j _ _ _ _).begun
  split
  · exact Keeps.ite (s.collWrite_begun c j ctx jb e src) (Keeps.refl s)
  · exact s.collWrite_begun c j ctx jb e src
  · exact s.collReduce_begun c j jb e src dst

theorem State.begins_slot (s : State) (c : Chan) (j : SlotIx) (e : CollEntry) :
    ((s.begins c j e).slot c j).fr.collDone = (s.slot c j).fr.collDone ++ [(e.vch, e.index)] := by
  unfold State.begins
  rw [State.onFr_slot_fr]
  rfl

/-- The other roles of a BROADCAST only receive. -/
theorem State.runColl_receiver (s : State) (c : Chan) (j : SlotIx) (ctx : Nat) (jb : Job) (e : CollEntry) (src dst : View)
    (kind : e.kind = .broadcast) (other : e.vch ≠ e.first + e.root) : s.runColl c j ctx jb e src dst = s := by
  have use : s.collUse ctx jb e src = true := by simp [State.collUse, kind, other]
  simp [State.runColl, use, kind, other]

theorem execCollectiveStart_runs (s : State) (c : Chan) (j : SlotIx) (jb : Job) (e : CollEntry) (src dst : View)
    (known : s.job (s.slot c j).job.ctx (s.slot c j).job.job = some jb)
    (entry : jb.image.colls.find? (fun y => y.vch == e.vch && y.index == e.index) = some e) (small : e.vch < 2 ^ 15)
    (running : (s.slot c j).job.state = .running) (sound : (s.slot c j).fr.faultFlag = false)
    (runs : collRuns e (s.slot c j).regs.frame = true) (home : jb.home e.vch = some (s.addrOf c))
    (fresh : (e.vch, e.index) ∉ (s.slot c j).fr.collDone) (reads : s.viewOf (s.slot c j).job.ctx jb e.src e.vch = some src)
    (writes : s.viewOf (s.slot c j).job.ctx jb e.dst e.vch = some dst) :
    exec (.collectiveStart c j (BitVec.ofNat 15 e.vch) e.index) s =
      .next ((s.begins c j e).runColl c j (s.slot c j).job.ctx jb e src dst) := by
  have vch : (BitVec.ofNat 15 e.vch).toNat = e.vch := by
    rw [BitVec.toNat_ofNat, Nat.mod_eq_of_lt small]
  simp only [exec, execCollectiveStart, known, vch, entry]
  rw [if_pos ⟨by simp [running, sound], runs, home, by simpa using fresh⟩]
  simp only [reads, writes]
  change (if !(s.begins c j e).collUse (s.slot c j).job.ctx jb e src then _ else _) = _
  unfold State.runColl
  cases (s.begins c j e).collUse (s.slot c j).job.ctx jb e src with
  | false => rfl
  | true => cases e.kind <;> rfl

end Sys2Proof.Machine



/-! ### Markers of faults and of links (R306, R321, R387, Table 11.7) -/

namespace Sys2Proof.Machine

/-! #### FAULT -/

theorem State.marker_outputs (s : State) (c : Chan) (o : PortIx) (m : Marker) : s.outputs ⊆ (s.marker c o m).outputs := by
  unfold State.marker
  dsimp only
  split
  · exact List.subset_append_left _ _
  · exact List.Subset.refl _

theorem State.tryForward_outputs (s : State) (c : Chan) (j : SlotIx) : s.outputs ⊆ (s.tryForward c j).outputs := by
  unfold State.tryForward
  dsimp only
  split
  · split
    · split
      · split
        · exact List.Subset.refl _
        · exact List.Subset.trans (by simp) (State.marker_outputs _ c _ _)
      · exact List.Subset.refl _
    · exact List.Subset.refl _
  · exact List.Subset.refl _

theorem State.report_outputs (s : State) (c : Chan) (j : SlotIx) (fault : Bool) (cause : Fin 7) (late : Nat) :
    s.outputs ⊆ (s.report c j fault cause late).outputs := by
  unfold State.report
  dsimp only
  split
  · exact List.Subset.refl _
  · exact List.Subset.trans (by simp) (State.tryForward_outputs _ c j)

theorem State.stopPumps_outputs (s : State) (c : Chan) (j : SlotIx) : (s.stopPumps c j).outputs = s.outputs :=
  State.each_same State.outputs _ (fun t p => t.onPump_outputs c p _) _ s

theorem State.stopMember_outputs (s : State) (c : Chan) (j : SlotIx) : s.outputs ⊆ (s.stopMember c j).outputs := by
  have stopped : ((s.onFr c j SlotFrame.faulted).stopPumps c j).outputs = s.outputs := State.stopPumps_outputs _ c j
  exact stopped ▸ State.report_outputs _ c j true 0 0

theorem State.stopMember_faultFlag (s : State) (c : Chan) (j : SlotIx) : ((s.stopMember c j).slot c j).fr.faultFlag = true := by
  rw [State.stopMember, State.report_faultFlag, State.stopPumps_slot, State.onFr_slot_fr]
  rfl

/-- What a member that hears of a fault notes before it stops (R386). -/
def State.notesFault (s : State) (c : Chan) (j : SlotIx) (cause : BitVec 8) (who : ChanAddr) : State :=
  let x := s.slot c j
  let s1 := s.onFr c j fun f => { f with faultSeen := f.faultSeen ++ [(who, cause)] }
  if (x.job.lead || x.job.acting) && !x.job.members.contains who then
    s1.onRegs c j fun r => { r with flt := r.flt.take cause.toNat UnitKind.remote.code who.toNat x.regs.frame }
  else s1

theorem State.heardFault_eq (s : State) (c : Chan) (j : SlotIx) (cause : BitVec 8) (who : ChanAddr) :
    s.heardFault c j cause who = (s.notesFault c j cause who).stopMember c j := rfl

section
variable (s : State) (c : Chan) (j : SlotIx) (cause : BitVec 8) (who : ChanAddr)

theorem State.notesFault_outputs : (s.notesFault c j cause who).outputs = s.outputs := by
  unfold State.notesFault
  dsimp only
  split <;> rfl

theorem State.notesFault_pump (p : PumpIx) : (s.notesFault c j cause who).pump c p = s.pump c p := by
  unfold State.notesFault
  dsimp only
  split <;> simp

theorem State.notesFault_job : ((s.notesFault c j cause who).slot c j).job = (s.slot c j).job := by
  unfold State.notesFault
  dsimp only
  split <;> simp

/-- A member that hears of a fault stops its pumps, and what was sent stays sent (R331). -/
theorem State.heardFault_stops : ((s.heardFault c j cause who).slot c j).fr.faultFlag = true ∧
    (∀ p, (s.heardFault c j cause who).pump c p = (s.pump c p).stopIn (s.slot c j).job.polders p) ∧
    s.outputs ⊆ (s.heardFault c j cause who).outputs := by
  rw [State.heardFault_eq]
  refine ⟨State.stopMember_faultFlag _ c j, fun p => ?_, ?_⟩
  · rw [State.stopMember_pump, State.notesFault_pump, State.notesFault_job]
  · have kept := State.stopMember_outputs (s.notesFault c j cause who) c j
    rwa [State.notesFault_outputs] at kept

end

/-- A fault's markers go out on every port of a list that speaks, in three copies (Table 11.7). -/
theorem State.eachMarker_sends (s : State) (c : Chan) (tree : BitVec 12) (cause : BitVec 8) (who : ChanAddr) (l : List PortIx)
    (o : PortIx) (listed : o ∈ l) (speaks : (s.port c o).speaks = true) :
    Output.marker c o (.fault tree cause who) 3 ∈ (s.each l fun u p => u.marker c p (.fault tree cause who)).outputs := by
  have sent : ∀ t : State, (t.port c o).speaks = true →
      Output.marker c o (.fault tree cause who) 3 ∈ (t.marker c o (.fault tree cause who)).outputs := fun t ht => by
    simp [State.marker, ht, State.emit]
  induction l generalizing s with
  | nil => simp at listed
  | cons p l ih =>
    rcases List.mem_cons.1 listed with here | later
    · subst here
      exact State.each_invariant (fun t => Output.marker c o (.fault tree cause who) 3 ∈ t.outputs) _
        (fun t p ht => t.marker_outputs c p _ ht) l _ (sent s speaks)
    · exact ih (s.marker c p _) later (by rw [State.port, State.marker_chan]; exact speaks)

/-- The FAULT copies that a router of a tree has seen grow by one. -/
def State.seesFault (s : State) (c : Chan) (tree : BitVec 12) (cause : BitVec 8) (who : ChanAddr) : State :=
  s.onChan c fun h => { h with router := { h.router with
    trees := h.router.trees.alter tree.toNat fun y => { y with faults := y.faults ++ [(cause, who)] } } }

theorem State.seesFault_slot (s : State) (c : Chan) (tree : BitVec 12) (cause : BitVec 8) (who : ChanAddr) (i : SlotIx) :
    (s.seesFault c tree cause who).slot c i = s.slot c i := by simp [State.seesFault, State.slot]

theorem State.seesFault_pump (s : State) (c : Chan) (tree : BitVec 12) (cause : BitVec 8) (who : ChanAddr) (p : PumpIx) :
    (s.seesFault c tree cause who).pump c p = s.pump c p := by simp [State.seesFault, State.pump]

theorem State.seesFault_port (s : State) (c : Chan) (tree : BitVec 12) (cause : BitVec 8) (who : ChanAddr) (o : PortIx) :
    (s.seesFault c tree cause who).port c o = s.port c o := by simp [State.seesFault, State.port]

section
variable (s : State) (c : Chan) (port : PortIx) (tree : BitVec 12) (cause : BitVec 8) (who : ChanAddr) (tr : Tree) (j : SlotIx)

theorem execFaultMarker_repeated (at_ : (s.chan c).router.trees.look tree.toNat = some tr) (seen : (cause, who) ∈ tr.faults) :
    exec (.faultMarker c port tree cause who) s = .next s := by
  simp [exec, execFaultMarker, at_, seen]

theorem execFaultMarker_stops (at_ : (s.chan c).router.trees.look tree.toNat = some tr) (fresh : (cause, who) ∉ tr.faults)
    (slot : tr.slot = some j) (deliver : tr.deliver = true) (live : (s.slot c j).live = true)
    (runs : (s.slot c j).job.state ≠ .halted) :
    Answers (exec (.faultMarker c port tree cause who) s) fun t => (t.slot c j).fr.faultFlag = true ∧
      ((s.slot c j).job.polders.getLsbD (p.val / 8) = true → (t.pump c p).run = .stopped) ∧
      ∀ o : PortIx, tr.mask.getLsbD o.val = true → o ≠ port → (s.port c o).speaks = true →
        Output.marker c o (.fault tree cause who) 3 ∈ t.outputs := by
  let outs := (List.finRange 12).filter fun p => tr.mask.getLsbD p.val && p != port
  let s2 := (s.seesFault c tree cause who).each outs fun u p => u.marker c p (.fault tree cause who)
  have heard : exec (.faultMarker c port tree cause who) s = .next (s2.heardFault c j cause who) := by
    simp only [exec, execFaultMarker, at_, slot]
    rw [if_neg (by simpa using fresh)]
    have guard : (tr.deliver && (s.slot c j).live && (s.slot c j).job.state != .halted) = true := by simp [deliver, live, runs]
    rw [onlyIf, if_pos guard]
    rfl
  obtain ⟨flag, stops, sent⟩ := s2.heardFault_stops c j cause who
  refine ⟨_, heard, flag, fun own => ?_, fun o mask other speaks => sent ?_⟩
  · rw [stops, State.faultMarkers_pump, State.faultMarkers_slot, State.seesFault_slot, Pump.stopIn, if_pos own]
    rfl
  · exact State.eachMarker_sends _ c tree cause who outs o (by simp [outs, mask, other])
      (by rw [State.seesFault_port]; exact speaks)

end

/-! #### NAK, ACK, CREDIT and ECHO -/

/-- A port on which nothing waits flushes nothing. -/
theorem State.flush_idle (s : State) (c : Chan) (port : PortIx) (n : Nat) (idle : (s.port c port).waiting = []) :
    s.flush c port n = s := by
  cases n with
  | zero => rfl
  | succ n => simp [State.flush, idle]

/-- The entry of a sequence number, found after entries of other numbers. -/
theorem replay_from (l1 l2 : List (BitVec 12 × OutFlit)) (seq : BitVec 12) (f : OutFlit) (before : ∀ y ∈ l1, y.1 ≠ seq) :
    (l1 ++ (seq, f) :: l2).dropWhile (fun e => e.1 != seq) = (seq, f) :: l2 := by
  rw [List.dropWhile_append_of_pos (fun y hy => by simpa using before y hy), List.dropWhile_cons_of_neg (by simp)]

theorem State.eachEmit_outputs {α : Type} (g : α → Output) (l : List α) (s : State) :
    (s.each l fun t e => t.emit (g e)).outputs = s.outputs ++ l.map g := by
  induction l generalizing s with
  | nil => simp [State.each]
  | cons a l ih =>
    have tail := ih (s.emit (g a))
    simpa [State.each, State.emit] using tail

section
variable (s : State) (c : Chan) (port : PortIx) (seq : BitVec 12) (f : OutFlit) (l1 l2 : List (BitVec 12 × OutFlit))
  (replay : (s.port c port).replay = l1 ++ (seq, f) :: l2) (before : ∀ y ∈ l1, y.1 ≠ seq)
include replay before

theorem execNakMarker_replays : Answers (exec (.nakMarker c port seq) s) fun t =>
    t.outputs = s.outputs ++ ((seq, f) :: l2).map fun y => .flit c port y.1 y.2 := by
  refine ⟨_, rfl, ?_⟩
  simp only [State.replayFrom, replay, replay_from l1 l2 seq f before]
  exact State.eachEmit_outputs (fun y => Output.flit c port y.1 y.2) ((seq, f) :: l2) _

theorem execAckMarker_frees (idle : (s.port c port).waiting = []) :
    exec (.ackMarker c port seq) s = .next (s.onPort c port fun y => { y with replay := l2 }) := by
  have named : (l1 ++ (seq, f) :: l2).any (fun e => e.1 == seq) = true := by simp
  simp only [exec, execAckMarker, replay, named, if_true, replay_from l1 l2 seq f before]
  rw [State.flush_idle _ c port 128 (by rw [State.onPort_port]; exact idle)]
  rfl

end

theorem execCreditMarker_adds (s : State) (c : Chan) (port : PortIx) (k : CreditKind) (i : Fin 4) (n : Nat) (kind : kindIx k = some i)
    (idle : (s.port c port).waiting = []) :
    exec (.creditMarker c port k n) s = .next (s.onPort c port fun y => { y with
      credits := upd y.credits i (· + (n - y.credSeen[i.val])), credSeen := upd y.credSeen i (max n) }) := by
  have flushed := State.flush_idle (s.onPort c port fun y => y.credit i n) c port 128 (by rw [State.onPort_port]; exact idle)
  have credited : s.credit c port k n = (s.onPort c port fun y => y.credit i n).flush c port 128 := by
    unfold State.credit
    rw [kind]
  simp only [exec, execCreditMarker, credited, flushed]
  rfl

theorem execEchoMarker_returns (s : State) (c : Chan) (port : PortIx) (stamp : BitVec 52) (speaks : (s.port c port).speaks = true) :
    exec (.echoMarker c port stamp) s = .next { s with outputs := s.outputs ++ [.marker c port (.echo stamp) 1] } := by
  simp only [exec, execEchoMarker, State.marker, speaks, if_true]
  rfl

end Sys2Proof.Machine



/-! ### Flits on the trees, and module records (R133, R217, R315, R321, R327) -/

namespace Sys2Proof.Machine

/-! #### What only the ports of a channel take part in -/

/-- Gnover stands, and of one channel only the ports may change. -/
def OnlyPorts (c : Chan) (s t : State) : Prop := t.mc = s.mc ∧ ∃ v, t.chan c = { s.chan c with ports := v }

section
variable {c : Chan} {s t u : State}

theorem OnlyPorts.refl (s : State) : OnlyPorts c s s := ⟨rfl, (s.chan c).ports, rfl⟩

theorem OnlyPorts.trans (a : OnlyPorts c s t) (b : OnlyPorts c t u) : OnlyPorts c s u := by
  obtain ⟨mc, v, first⟩ := a
  obtain ⟨mc', w, second⟩ := b
  exact ⟨mc'.trans mc, w, by rw [second, first]⟩

theorem OnlyPorts.of_chan (mc : t.mc = s.mc) (ch : t.chan c = s.chan c) : OnlyPorts c s t := ⟨mc, (s.chan c).ports, ch⟩

theorem OnlyPorts.onPort (s : State) (p : PortIx) (g : Port → Port) : OnlyPorts c s (s.onPort c p g) :=
  ⟨rfl, upd (s.chan c).ports p g, State.onChan_chan s c _⟩

theorem OnlyPorts.each {α : Type} (g : State → α → State) (h : ∀ t a, OnlyPorts c t (g t a)) (l : List α) (s : State) :
    OnlyPorts c s (s.each l g) :=
  State.each_invariant (OnlyPorts c s) g (fun t a ht => ht.trans (h t a)) l s (OnlyPorts.refl s)

theorem State.marker_onlyPorts (s : State) (p : PortIx) (m : Marker) : OnlyPorts c s (s.marker c p m) :=
  OnlyPorts.of_chan (s.marker_mc c p m) (s.marker_chan c p m c)

theorem State.sendFlit_onlyPorts (s : State) (p : PortIx) (f : OutFlit) : OnlyPorts c s (s.sendFlit c p f) := by
  unfold State.sendFlit
  split
  · exact (OnlyPorts.onPort s p _).trans (OnlyPorts.of_chan rfl rfl)
  · exact OnlyPorts.onPort s p _

theorem OnlyPorts.router (h : OnlyPorts c s t) : (t.chan c).router = (s.chan c).router := by
  obtain ⟨_, v, ch⟩ := h
  rw [ch]

theorem OnlyPorts.held (h : OnlyPorts c s t) : (t.chan c).held = (s.chan c).held := by
  obtain ⟨_, v, ch⟩ := h
  rw [ch]

theorem OnlyPorts.badStore (h : OnlyPorts c s t) : (t.chan c).badStore = (s.chan c).badStore := by
  obtain ⟨_, v, ch⟩ := h
  rw [ch]

theorem OnlyPorts.slot (h : OnlyPorts c s t) (j : SlotIx) : t.slot c j = s.slot c j := by
  obtain ⟨_, v, ch⟩ := h
  rw [State.slot, State.slot, ch]

theorem OnlyPorts.addrOf (h : OnlyPorts c s t) : t.addrOf c = s.addrOf c := by rw [State.addrOf, State.addrOf, h.1]

theorem OnlyPorts.treeJob (h : OnlyPorts c s t) (tree : BitVec 12) : t.treeJob tree = s.treeJob tree := by
  rw [State.treeJob, State.treeJob, h.1]

theorem OnlyPorts.heldUse (h : OnlyPorts c s t) (p : PumpIx) : t.heldUse c p = s.heldUse c p := by
  have frames : t.frameOf c p = s.frameOf c p := by
    obtain ⟨_, v, ch⟩ := h
    simp only [State.frameOf, State.slot, ch]
    rfl
  obtain ⟨_, v, ch⟩ := h
  simp only [State.heldUse, frames, ch]
  rfl

theorem OnlyPorts.holdRoom (h : OnlyPorts c s t) {j : SlotIx} {k : Nat} (room : HoldRoom s c j k) : HoldRoom t c j k := by
  have use := h.heldUse
  obtain ⟨_, v, ch⟩ := h
  unfold HoldRoom at room ⊢
  have inn : (t.chan c).heldIn j k = (s.chan c).heldIn j k := by
    rw [ch]
    rfl
  have reserve : t.reserveUse c j = s.reserveUse c j := by
    rw [State.reserveUse, State.reserveUse, ch]
    rfl
  have share : (t.chan c).heldShare = (s.chan c).heldShare := by
    rw [ch]
    rfl
  simp only [inn, reserve, use, share]
  exact room

end

/-! #### Reception -/

section
variable {s : State} {c : Chan} {port : PortIx} {fh : FlitHdr}

/-- A flit that a port accepts changes nothing but the port. -/
theorem Accepts.arrive (h : Accepts s c port fh) (kind : Fin 4) : ∃ t, s.arrive c port fh kind = (t, true) ∧ OnlyPorts c s t := by
  obtain ⟨speaks, crc, seq, _⟩ := h
  unfold State.arrive
  extract_lets p n credit s1
  have counted : OnlyPorts c s s1 := OnlyPorts.onPort s port _
  clear_value s1 credit
  rw [if_neg (by simp [p, speaks]), if_neg (by simp [crc]), if_neg (by simp [p, seq])]
  exact ⟨_, rfl, (counted.trans (s1.marker_onlyPorts port _)).trans (State.marker_onlyPorts _ port _)⟩

theorem Accepts.fecLog (h : Accepts s c port fh) (t : State) : t.fecLog c fh = t := by
  obtain ⟨_, _, _, clean⟩ := h
  rw [State.fecLog, clean]
  rfl

end

/-! #### MCAST -/

/-- An MCAST of one record, whose home is here, and of no sums records it. -/
theorem State.mcastHere_one (t : State) (c : Chan) (j : SlotIx) (fh : FlitHdr) (frame : Nat) (r : WriteRec) :
    t.mcastHere c j fh frame [(t.addrOf c, r)] [] = t.collHold c j frame r := by
  unfold State.mcastHere
  extract_lets s1
  have one : s1 = t.collHold c j frame r := by simp [s1, State.each]
  rw [← one]
  split
  · rfl
  · split <;> rfl

theorem State.collHold_adds (s : State) (c : Chan) (j : SlotIx) (r : WriteRec) (room : HoldRoom s c j (offKey r.off))
    (fresh : NoEntry s c j r) : ((s.collHold c j (s.frameNo c j) r).chan c).held = (s.chan c).held ++ [heldOf s c j r] ∧
      ((s.collHold c j (s.frameNo c j) r).slot c j).fr.collGot = (s.slot c j).fr.collGot + maskBytes r.mask := by
  rw [State.collHold, s.hold_adds c j _ r room fresh]
  constructor
  · simp [State.collected, heldOf]
  · rw [State.collected, State.onFr_slot_fr]
    simp [State.slot]

theorem execMcastFlit_records (s : State) (c : Chan) (port : PortIx) (fh : FlitHdr) (frame : Nat) (tr : Tree) (j : SlotIx) (r : WriteRec)
    (taken : Accepts s c port fh) (at_ : (s.chan c).router.trees.look (flitTree fh).toNat = some tr) (slot : tr.slot = some j)
    (deliver : tr.deliver = true) (now : (s.slot c j).regs.frame = frame) (fresh : NoEntry s c j r)
    (room : HoldRoom s c j (offKey r.off)) :
    Answers (exec (.mcastFlit c port fh frame [(s.addrOf c, r)] []) s) fun t =>
      (t.chan c).held = (s.chan c).held ++ [heldOf s c j r] ∧ (t.slot c j).fr.collGot = (s.slot c j).fr.collGot + maskBytes r.mask := by
  obtain ⟨t, arrives, ports⟩ := taken.arrive 2
  let outs := (List.finRange 12).filter fun p => tr.mask.getLsbD p.val && p != port
  let u := t.each outs fun u p => u.sendFlit c p (.passed fh.src (.mcast (flitTree fh) (flitEntry fh) [(s.addrOf c, r)] (flitElem fh) []))
  have sent : OnlyPorts c s u := ports.trans (OnlyPorts.each _ (fun t p => t.sendFlit_onlyPorts p _) outs t)
  have runs : exec (.mcastFlit c port fh frame [(s.addrOf c, r)] []) s = .next (u.collHold c j (u.frameNo c j) r) := by
    simp only [exec, execMcastFlit, arrives, ports.router, at_, slot, deliver, if_true, taken.fecLog]
    change Host.Outcome.next (u.mcastHere c j fh frame [(s.addrOf c, r)] []) = _
    rw [← sent.addrOf, State.mcastHere_one, State.frameNo, sent.slot, now]
  obtain ⟨held, got⟩ := u.collHold_adds c j r (sent.holdRoom room) (by
    intro e he
    rw [State.frameNo, sent.slot]
    exact fresh e (sent.held ▸ he))
  refine ⟨_, runs, ?_, ?_⟩
  · rw [held, sent.held, heldOf, State.frameNo, sent.slot]
    rfl
  · rw [got, sent.slot]

/-! #### REDUCE -/

/-- The first of several inputs of an element waits in the combining store (R327). -/
theorem State.reduceIn_first (s : State) (c : Chan) (tree : BitVec 12) (idx : BitVec 8) (n : Nat) (v : Granule) (tr : Tree)
    (ctx job : Nat) (jb : Job) (at_ : (s.chan c).router.trees.look tree.toNat = some tr) (of_ : s.treeJob tree = some (ctx, job, jb))
    (more : 1 < tr.inputs) (fresh : ∀ y ∈ (s.chan c).router.store, ¬(y.tree = tree ∧ y.entry = idx ∧ y.elem = n)) :
    ((s.reduceIn c tree idx n v).chan c).router.store = (s.chan c).router.store ++ [⟨tree, idx, n, 1, v⟩] := by
  have others : ∀ y ∈ (s.chan c).router.store, (y.tree == tree && y.entry == idx && y.elem == n) = false := fun y hy => by
    simpa [and_assoc] using fresh y hy
  have unfound : (s.chan c).router.store.find? (fun y => y.tree == tree && y.entry == idx && y.elem == n) = none :=
    List.find?_eq_none.2 fun y hy => by simpa using others y hy
  have kept : (s.chan c).router.store.filter (fun y => !(y.tree == tree && y.entry == idx && y.elem == n)) = (s.chan c).router.store :=
    List.filter_eq_self.2 fun y hy => by rw [others y hy]; rfl
  simp only [State.reduceIn, at_, of_, unfound, kept, Option.getD_none]
  rw [if_pos (by simpa using more)]
  simp

theorem execReduceFlit_waits (s : State) (c : Chan) (port : PortIx) (fh : FlitHdr) (v : Granule) (tr : Tree) (ctx job : Nat) (jb : Job)
    (taken : Accepts s c port fh) (at_ : (s.chan c).router.trees.look (flitTree fh).toNat = some tr)
    (of_ : s.treeJob (flitTree fh) = some (ctx, job, jb)) (more : 1 < tr.inputs)
    (fresh : ∀ y ∈ (s.chan c).router.store, ¬(y.tree = flitTree fh ∧ y.entry = flitEntry fh ∧ y.elem = flitElem fh)) :
    Answers (exec (.reduceFlit c port fh [v]) s) fun t =>
      (t.chan c).router.store = (s.chan c).router.store ++ [⟨flitTree fh, flitEntry fh, flitElem fh, 1, v⟩] := by
  obtain ⟨t, arrives, ports⟩ := taken.arrive 3
  have runs : exec (.reduceFlit c port fh [v]) s = .next (t.reduceIn c (flitTree fh) (flitEntry fh) (flitElem fh) v) := by
    simp only [exec, execReduceFlit, arrives, taken.fecLog]
    rfl
  have entered := t.reduceIn_first c (flitTree fh) (flitEntry fh) (flitElem fh) v tr ctx job jb (by rw [ports.router]; exact at_)
    (by rw [ports.treeJob]; exact of_) more (by rw [ports.router]; exact fresh)
  exact ⟨_, runs, entered.trans (by rw [ports.router])⟩

/-! #### Module records -/

/-- A record of a module not seen before is kept (R315). -/
theorem State.moduleSeen_keeps (s : State) (c : Chan) (port : PortIx) (m : ModRecord) (fresh : m.serial ∉ (s.chan c).router.seenMods) :
    ((s.moduleSeen c port m).chan c).router.seenMods = (s.chan c).router.seenMods ++ [m.serial] ∧
      ∃ y ∈ (s.moduleSeen c port m).mc.fab.mods, y.serial = m.serial := by
  unfold State.moduleSeen
  rw [if_neg (by simpa using fresh)]
  extract_lets s1 s2
  have seen : (s1.chan c).router.seenMods = (s.chan c).router.seenMods ++ [m.serial] := by simp [s1]
  have noted : (s2.chan c).router.seenMods = (s.chan c).router.seenMods ++ [m.serial] ∧ ∃ y ∈ s2.mc.fab.mods, y.serial = m.serial := by
    by_cases known : (s.mc.fab.mods.any fun x => x.serial == m.serial) = true
    · simp only [s2, if_pos known]
      exact ⟨seen, by simpa [s1] using known⟩
    · simp only [s2, if_neg known]
      exact ⟨seen, m, List.mem_append_right _ (List.mem_singleton_self m), rfl⟩
  clear_value s2
  have flooded : OnlyPorts c s2 (s2.each ((List.finRange 12).filter fun p => p != port && (s.port c p).state == .active) fun t p =>
      t.sendFlit c p (.mgmt (t.port c p).partnerCh (.module m))) := OnlyPorts.each _ (fun t p => t.sendFlit_onlyPorts p _) _ s2
  rw [flooded.router, flooded.1]
  exact noted

theorem execMgmtFlit_module (s : State) (c : Chan) (port : PortIx) (fh : FlitHdr) (m : ModRecord) (taken : Accepts s c port fh)
    (fresh : m.serial ∉ (s.chan c).router.seenMods) : Answers (exec (.mgmtFlit c port fh (.module m)) s) fun t =>
      (t.chan c).router.seenMods = (s.chan c).router.seenMods ++ [m.serial] ∧ ∃ y ∈ t.mc.fab.mods, y.serial = m.serial := by
  obtain ⟨t, arrives, ports⟩ := taken.arrive 0
  have runs : exec (.mgmtFlit c port fh (.module m)) s = .next (t.moduleSeen c port m) := by
    simp only [exec, execMgmtFlit, arrives]
  have kept := t.moduleSeen_keeps c port m (by rw [ports.router]; exact fresh)
  rw [ports.router] at kept
  exact ⟨_, runs, kept⟩

end Sys2Proof.Machine



namespace Sys2Proof.Machine

/-- A collective entry that begins keeps its place in the slot, and the clock its START_NS, whatever the entry does. -/
theorem State.runColl_begins (s : State) (c : Chan) (j : SlotIx) (ctx : Nat) (jb : Job) (e : CollEntry) (src dst : View) :
    ((s.begins c j e).runColl c j ctx jb e src dst).timeNs = max s.timeNs ((s.slot c j).fr.tickNs + e.startNs) ∧
      (((s.begins c j e).runColl c j ctx jb e src dst).slot c j).fr.collDone =
        (s.slot c j).fr.collDone ++ [(e.vch, e.index)] := by
  obtain ⟨clock, begun⟩ := (s.begins c j e).runColl_begun c j ctx jb e src dst
  exact ⟨clock, (begun c j).trans (s.begins_slot c j e)⟩

/-- Settles O41: each marker and each flit by what its command does at a port that accepts it; a collective entry by the step that
begins it, which nothing it does afterwards undoes. -/
theorem markersAndCollectives : Obligations.MarkersAndCollectives := by
  intro c port tree cause who seq f l1 l2 k i n frame stamp fh tr j p r v m ctx job jb e src dst s q look x
  refine ⟨execFaultMarker_repeated s c port tree cause who tr, ?_, ?_, execCreditMarker_adds s c port k i n,
    execEchoMarker_returns s c port stamp, fun taken => ⟨?_, ?_, execMgmtFlit_module s c port fh m taken⟩, ?_⟩
  · exact fun at_ fresh slot deliver live runs => execFaultMarker_stops s c port tree cause who tr j at_ fresh slot deliver live runs
  · exact fun replay before => ⟨execNakMarker_replays s c port seq f l1 l2 replay before,
      execAckMarker_frees s c port seq f l1 l2 replay before⟩
  · exact fun at_ slot deliver now fresh room => execMcastFlit_records s c port fh frame tr j r taken at_ slot deliver now fresh room
  · exact fun at_ of_ more fresh => execReduceFlit_waits s c port fh v tr ctx job jb taken at_ of_ more fresh
  · intro known entry small running sound runs home fresh reads writes
    have begins := execCollectiveStart_runs s c j jb e src dst known entry small running sound runs home fresh reads writes
    refine ⟨⟨_, begins, s.runColl_begins c j _ jb e src dst⟩, fun refused => ?_, fun kind other => ?_⟩
    · have use : (s.begins c j e).collUse x.job.ctx jb e src = false := refused
      rw [begins, State.runColl, use]
      rfl
    · rw [begins, State.runColl_receiver _ c j _ jb e src dst kind other]
      rfl

end Sys2Proof.Machine
